-- ==== Sys2Proof/Word.lean ====
section
/-! DEFINITION. The plain word types (00 R2: a byte is 8 bits, a half 16, a word 32 and a dword 64). -/

namespace Sys2Proof

abbrev Byte := BitVec 8
abbrev Half := BitVec 16
abbrev Word := BitVec 32
abbrev Dword := BitVec 64

end Sys2Proof
end

