-- ==== Sys2Proof/Syntax.lean ====
section
/-! DEFINITION. The instruction syntax: one constructor of `Instr` per row of spec/opcode_table.json.
Lane rows carry the decoded fields of a 96-bit word (14 R313 to R318), spine rows the fields of a 32-bit
word (14 R326, R327). The other rows are steps of the device itself (95): they have no encoding, and
what they are about (which unit, request or register) stands in an `EvArg` that the state holds while one runs. -/

namespace Sys2Proof

/-- Lane operand types (14 R323). -/
inductive LType where
  | i32 | n32 | i16x2 | n16x2 | i8x4 | n8x4 | i4x8 | n4x8 | b32 | i64 | n64
  | f32 | f16x2 | bf16x2 | e4m3x4 | e5m2x4 | e3m2x4 | e2m3x4 | e2m1x8 | e8m0x4 | afp
  | mxe4m3 | mxe5m2 | mxe2m1 | mxe3m2 | mxe2m3 | mxi8 | none
  deriving DecidableEq, Repr, Inhabited

/-- A lane source slot (14 R314). Slot v 255 without last use is the unused slot. -/
inductive Src where
  | v (idx : BitVec 8) (last : Bool)
  | g (idx : BitVec 7)
  | h (idx : BitVec 6)
  | lit
  deriving DecidableEq, Repr, Inhabited

/-- A lane destination (14 R316); `sp` is the special space that the opcode names. -/
inductive Dst where
  | v (idx : BitVec 8)
  | g (idx : BitVec 7)
  | sp (idx : BitVec 8)
  | none
  deriving DecidableEq, Repr, Inhabited

/-- The fields of a lane word other than its opcode (14 R313). -/
structure LaneOp where
  gn  : Bool
  gp  : BitVec 3
  k   : Bool
  e   : Bool
  dst : Dst
  ty  : LType
  a   : Src
  b   : Src
  c   : Src
  imm : BitVec 24
  md  : BitVec 6
  fs  : Bool
  deriving DecidableEq, Repr, Inhabited

/-- The agent that runs instructions (10 R222): a squad, or a team's spine thread, by the model's number of it. -/
inductive Agent where
  | none
  | squad (id : Nat)
  | spine (team : Nat)
  deriving DecidableEq, Repr, Inhabited

/-- What can hold a copy of a grain (02 R32, R39 to R41). Clusters are numbered 64 x die + mesh position. -/
inductive Holder where
  | l1 (cluster : Nat)
  | copyEngine (cluster : Nat)
  | operandFetch (cluster : Nat)
  | codec (die : BitVec 3) (unit : Bool)
  | l2 (die : BitVec 3) (half : Bool)
  | rdc (die : BitVec 3)
  | host
  deriving DecidableEq, Repr, Inhabited

/-- Host atomics over KL (04 R91). -/
inductive HostAtomOp where
  | add | swap | cas
  /-- an operation that R91 does not list -/
  | other
  deriving DecidableEq, Repr, Inhabited

/-- What a peer asks of this device (04 R101). -/
inductive PeerOp where
  | load (len : Nat)
  | store
  /-- operation as `atom` numbers it, 7 compare-and-swap; type; bytes -/
  | atom (op : Nat) (ty : LType) (size : Nat)
  deriving DecidableEq, Repr, Inhabited

/-- Where the service processor takes a command from (05 R114, R118). -/
inductive CmdSrc where
  | mgmt
  | svq (q : BitVec 6)
  deriving DecidableEq, Repr, Inhabited

/-- What a step of the device is about: each step reads the fields that its row names and no other. -/
structure EvArg where
  /-- a compute die, 0 to 7 -/
  die : BitVec 3 := 0
  /-- one of a die's two codec units -/
  unit : Bool := false
  /-- a second-tier or VPL port -/
  port : BitVec 4 := 0
  /-- a context slot, a placement set or a service queue -/
  slot : BitVec 6 := 0
  /-- the requester function of a host request (04 R82, R97) -/
  fn : BitVec 6 := 0
  asid : Half := 0
  va : Dword := 0
  holder : Holder := .host
  agent : Agent := .none
  /-- whether exclusive access is wanted -/
  own : Bool := false
  /-- the model's number of the request, operation, copy, push, reservation, team, squad or group -/
  id : Nat := 0
  /-- a cluster, 64 x die + mesh position -/
  cluster : Nat := 0
  /-- a core, 256 x die + 4 x cluster + core (06 R139) -/
  core : Nat := 0
  /-- a partition of the core, and one of its two issue slots -/
  part : Nat := 0
  issueSlot : Bool := false
  /-- the outside party's own mark of its request -/
  tag : Nat := 0
  /-- offset of a register or within a window -/
  off : Nat := 0
  len : Nat := 0
  /-- a register access of 64 bits; one of 8 or 16 bits -/
  wide : Bool := false
  narrow : Bool := false
  val : Dword := 0
  data : List Byte := []
  ok : Bool := false
  ok2 : Bool := false
  /-- the writer of a register is the SVP -/
  svp : Bool := false
  kl : Bool := false
  src : CmdSrc := .mgmt
  hostOp : HostAtomOp := .add
  peerOp : PeerOp := .store
  dev : Half := 0
  sender : Half := 0
  operand : BitVec 128 := 0
  expected : BitVec 128 := 0
  /-- size code of a home command (03 R70); memory type in a peer's answer (04 R101) -/
  size : BitVec 2 := 0
  token : Word := 0
  /-- physical places of a page before and after compression (02 R44) -/
  paSrc : BitVec 52 := 0
  paDst : BitVec 52 := 0
  deriving DecidableEq, Repr, Inhabited

/-- The instructions and steps of the VA-820, one constructor per row of the opcode table: the lane rows, the spine
rows, then the steps of the device. -/
inductive Instr where
  /-- R377. Lane integer add, optionally saturating. -/
  | add (o : LaneOp)
  /-- R377. Lane integer subtract, optionally saturating. -/
  | sub (o : LaneOp)
  /-- R377. Lane 32-bit add with carry-in, returning the sum or the carry. -/
  | addx (o : LaneOp)
  /-- R377. Lane integer multiply, low bits. -/
  | mul (o : LaneOp)
  /-- R377. Lane high 32 bits of a 32-bit product. -/
  | mulhi (o : LaneOp)
  /-- R377. Lane integer multiply-add. -/
  | mad (o : LaneOp)
  /-- R377. Lane widening 32 × 32 + 64 multiply-add. -/
  | madw (o : LaneOp)
  /-- R377. Lane integer minimum. -/
  | min (o : LaneOp)
  /-- R377. Lane integer maximum. -/
  | max (o : LaneOp)
  /-- R377. Lane integer absolute value, optionally saturating. -/
  | abs (o : LaneOp)
  /-- R378. Lane 64-bit address computation with a shifted index. -/
  | lea (o : LaneOp)
  /-- R378. Lane integer comparison writing a predicate. -/
  | icmp (o : LaneOp)
  /-- R378. Lane select by predicate. -/
  | sel (o : LaneOp)
  /-- R379. Lane bitwise AND. -/
  | and (o : LaneOp)
  /-- R379. Lane bitwise OR. -/
  | or (o : LaneOp)
  /-- R379. Lane bitwise XOR. -/
  | xor (o : LaneOp)
  /-- R379. Lane bitwise A AND NOT B. -/
  | andn (o : LaneOp)
  /-- R379. Lane three-input lookup-table logic. -/
  | lut3 (o : LaneOp)
  /-- R379. Lane shift left. -/
  | shl (o : LaneOp)
  /-- R379. Lane logical shift right. -/
  | shr (o : LaneOp)
  /-- R379. Lane arithmetic shift right. -/
  | sar (o : LaneOp)
  /-- R379. Lane funnel shift. -/
  | shf (o : LaneOp)
  /-- R379. Lane bit-field extract. -/
  | bfe (o : LaneOp)
  /-- R379. Lane bit-field insert. -/
  | bfi (o : LaneOp)
  /-- R379. Lane population count. -/
  | popc (o : LaneOp)
  /-- R379. Lane count of leading zeros. -/
  | clz (o : LaneOp)
  /-- R379. Lane bit reversal. -/
  | brev (o : LaneOp)
  /-- R381. Lane floating-point add. -/
  | fadd (o : LaneOp)
  /-- R381. Lane floating-point subtract. -/
  | fsub (o : LaneOp)
  /-- R381. Lane floating-point multiply. -/
  | fmul (o : LaneOp)
  /-- R381. Lane fused multiply-add with one rounding. -/
  | ffma (o : LaneOp)
  /-- R381. Lane IEEE minimumNumber. -/
  | fmin (o : LaneOp)
  /-- R381. Lane IEEE maximumNumber. -/
  | fmax (o : LaneOp)
  /-- R382. Lane floating-point comparison writing a predicate. -/
  | fcmp (o : LaneOp)
  /-- R383. Lane round to an integral value. -/
  | frnd (o : LaneOp)
  /-- R383. Lane classification of a binary32 encoding. -/
  | fclass (o : LaneOp)
  /-- R383. Lane multiply by a power of two. -/
  | fscale (o : LaneOp)
  /-- R385. Lane scalar conversion between formats. -/
  | cvt (o : LaneOp)
  /-- R386. Lane conversion of two values into a 16-bit packed register. -/
  | pack2 (o : LaneOp)
  /-- R386. Lane conversion of two values into a position of a narrow packed register. -/
  | pack4 (o : LaneOp)
  /-- R387. Lane 8-bit integer four-way dot product with accumulate. -/
  | dot4 (o : LaneOp)
  /-- R387. Lane 4-bit integer eight-way dot product with accumulate. -/
  | dot8 (o : LaneOp)
  /-- R388. Lane narrow floating-point four-way dot product into f32. -/
  | dotf4 (o : LaneOp)
  /-- R388. Lane FP4 eight-way dot product into f32. -/
  | dotf8 (o : LaneOp)
  /-- R390. Lane reciprocal. -/
  | rcp (o : LaneOp)
  /-- R390. Lane reciprocal square root. -/
  | rsq (o : LaneOp)
  /-- R390. Lane square root. -/
  | sqrt (o : LaneOp)
  /-- R390. Lane base-2 exponential. -/
  | exp2 (o : LaneOp)
  /-- R390. Lane base-2 logarithm. -/
  | log2 (o : LaneOp)
  /-- R390. Lane sine. -/
  | sin (o : LaneOp)
  /-- R390. Lane cosine. -/
  | cos (o : LaneOp)
  /-- R390. Lane hyperbolic tangent. -/
  | tanh (o : LaneOp)
  /-- R390. Lane logistic sigmoid. -/
  | sigm (o : LaneOp)
  /-- R389. Lane application of MX block scales to a partial sum. -/
  | mxscale (o : LaneOp)
  /-- R392. Lane move or broadcast. -/
  | mov (o : LaneOp)
  /-- R392. Lane move of a 32-bit immediate. -/
  | movk (o : LaneOp)
  /-- R393. Lane shuffle across lanes of a segment. -/
  | shfl (o : LaneOp)
  /-- R394. Squad ballot, all, any or equality vote. -/
  | vote (o : LaneOp)
  /-- R395. Squad reduction over active lanes by a fixed tree. -/
  | redsq (o : LaneOp)
  /-- R396. Squad prefix scan over active lanes. -/
  | scansq (o : LaneOp)
  /-- R397. Set a predicate in the lowest active lane only. -/
  | elect (o : LaneOp)
  /-- R332. Read a special value such as lane, squad or grid identity. -/
  | rdsp (o : LaneOp)
  /-- R398. Read the execution mask. -/
  | emget (o : LaneOp)
  /-- R398. Write the execution mask, ANDed with pm. -/
  | emset (o : LaneOp)
  /-- R398. Read a predicate as a lane mask. -/
  | pget (o : LaneOp)
  /-- R398. Write a predicate from a mask. -/
  | pset (o : LaneOp)
  /-- R400. Lane put of a value and count into an Empty shared register, waiting while it is not Empty. -/
  | hput (o : LaneOp)
  /-- R401. Lane contribution of a squad reduction to a shared-register gather. -/
  | hacc (o : LaneOp)
  /-- R401. Lane non-waiting read of a shared register's state. -/
  | hstat (o : LaneOp)
  /-- R401. Lane consuming read of a shared register, waiting until Full. -/
  | hget (o : LaneOp)
  /-- R407. Lane memory load, optionally vector and acquiring. -/
  | ld (o : LaneOp)
  /-- R407. Lane memory store, optionally vector and releasing. -/
  | st (o : LaneOp)
  /-- R408. Uniform load made once for the squad. -/
  | ldu (o : LaneOp)
  /-- R409. Prefetch into the cluster L1 or the L2. -/
  | prf (o : LaneOp)
  /-- R410. Counted fill that arms L1 grains with a read count and returns data. -/
  | ldcf (o : LaneOp)
  /-- R197. Consuming load of counted grains. -/
  | ldc (o : LaneOp)
  /-- R411. Lane atomic read-modify-write. -/
  | atom (o : LaneOp)
  /-- R413. Lane compare-and-swap. -/
  | cas (o : LaneOp)
  /-- R413. Lane 128-bit compare-and-swap. -/
  | cas2 (o : LaneOp)
  /-- R414. Lane memory fence of a kind and scope. -/
  | fence (o : LaneOp)
  /-- R414. Lane persistence fence at system scope. -/
  | pfence (o : LaneOp)
  /-- R415. Lane query of the home and tier of an address. -/
  | loc (o : LaneOp)
  /-- R417. Local-store load. -/
  | lds (o : LaneOp)
  /-- R417. Local-store store. -/
  | sts (o : LaneOp)
  /-- R417. Local-store store that then arms the touched blocks with a count. -/
  | stsArm (o : LaneOp)
  /-- R418. Local-store atomic performed at the owning core's port. -/
  | atoms (o : LaneOp)
  /-- R192. Consuming local-store load of counted blocks. -/
  | ldsc (o : LaneOp)
  /-- R419. Arm a range of local-store blocks with a count. -/
  | lsarm (o : LaneOp)
  /-- R419. Read the state and count of local-store blocks. -/
  | lsstat (o : LaneOp)
  /-- R450. Issue a copy operation between memory and local store, optionally from a tensor and arming. -/
  | cpy (o : LaneOp)
  /-- R451. Issue a copy between local-store ranges of the team. -/
  | cpys (o : LaneOp)
  /-- R453. Issue a cross-die reduction contribution described by a descriptor. -/
  | cred (o : LaneOp)
  /-- R438. Post one matrix step from lane rows and a local-store B operand into a tile. -/
  | mma (o : LaneOp)
  /-- R439. Post a loop of matrix steps reading operands through tensor identifiers. -/
  | mml (o : LaneOp)
  /-- R440. Zero or set to identity a tile or affine pair. -/
  | mmz (o : LaneOp)
  /-- R441. Load a whole tile from memory or local store. -/
  | mmld (o : LaneOp)
  /-- R441. Store a whole tile to memory or local store. -/
  | mmst (o : LaneOp)
  /-- R442. Read a column group of a tile into lane registers. -/
  | mmrd (o : LaneOp)
  /-- R442. Write a column group of a tile from lane registers. -/
  | mmwr (o : LaneOp)
  /-- R443. Post an affine scan of a tile pair with a carry. -/
  | scan (o : LaneOp)
  /-- R444. Write a carry from lane registers. -/
  | cset (o : LaneOp)
  /-- R444. Set every channel of a carry to the identity. -/
  | csetId (o : LaneOp)
  /-- R444. Read a carry into lane registers. -/
  | cget (o : LaneOp)
  /-- R445. Read and clear a tile's status word. -/
  | tstat (o : LaneOp)
  /-- R446. Write a tensor-identifier entry from lane registers. -/
  | tiset (o : LaneOp)
  /-- R446. Read a tensor-identifier entry into lane registers. -/
  | tiget (o : LaneOp)
  /-- R447. Look up or insert prefix-tree nodes in a deduplication handle. -/
  | pfxh (o : LaneOp)
  /-- R447. Empty a prefix-deduplication handle and bind it to the context. -/
  | pfxhClr (o : LaneOp)
  /-- R421. Guarded branch that may diverge and eject lanes. -/
  | bra (o : LaneOp)
  /-- R421. Uniform branch that traps DIVERGE if lanes disagree. -/
  | bru (o : LaneOp)
  /-- R422. Per-lane indirect jump. -/
  | jmp (o : LaneOp)
  /-- R422. Call writing a link, direct or indirect. -/
  | call (o : LaneOp)
  /-- R422. Return through each lane's link. -/
  | ret (o : LaneOp)
  /-- R214. Park a partial squad's threads to merge with others at the next header. -/
  | rejoin (o : LaneOp)
  /-- R215. Raise join tickets and re-form the origin squad at its origin lanes. -/
  | rejoinS (o : LaneOp)
  /-- R423. End the threads of the active lanes, exiting the squad when pm becomes 0. -/
  | exit (o : LaneOp)
  /-- R424. Leave issue until masked flags fall, then continue at a label. -/
  | yield (o : LaneOp)
  /-- R425. Arrive at the team barrier and wait for its completion. -/
  | bar (o : LaneOp)
  /-- R425. Arrive at the team barrier without waiting. -/
  | barar (o : LaneOp)
  /-- R425. Wait for completion of the barrier phase arrived at. -/
  | barwt (o : LaneOp)
  /-- R426. Enter a visible wait until a time limit or a wake event. -/
  | nap (o : LaneOp)
  /-- R427. Lane push of a child grid onto queue 0 from the team leader. -/
  | launch (o : LaneOp)
  /-- R428. Lane push of a 64-byte entry to a queue. -/
  | qpush (o : LaneOp)
  /-- R428. Lane push that clears its predicate instead of waiting when the window is full. -/
  | qpushTry (o : LaneOp)
  /-- R428. Lane pop of a queue entry into lane registers. -/
  | qpop (o : LaneOp)
  /-- R428. Lane pop that clears its predicate instead of waiting when the queue is empty. -/
  | qpopTry (o : LaneOp)
  /-- R429. Request migration of the team to the home die of an address. -/
  | tmig (o : LaneOp)
  /-- R430. Lane read of a control register. -/
  | csrr (o : LaneOp)
  /-- R430. Lane write of a control register. -/
  | csrw (o : LaneOp)
  /-- R431. Raise SWTRAP with an immediate. -/
  | trap (o : LaneOp)
  /-- R431. Lane breakpoint trap. -/
  | brk (o : LaneOp)
  /-- R296. End the handler and retry the trapping instruction or failed operation. -/
  | tretRetry (o : LaneOp)
  /-- R296. End the handler and skip the trapping instruction or abandon the failed operation. -/
  | tretSkip (o : LaneOp)
  /-- R431. No operation. -/
  | nop (o : LaneOp)
  /-- R432. Lane read of the time base. -/
  | rdclk (o : LaneOp)
  /-- R432. Lane hardware random values. -/
  | rand (o : LaneOp)
  /-- R345. Spine integer add. -/
  | spineAdd (w : Bool) (b : BitVec 6) (a : BitVec 6) (d : BitVec 6)
  /-- R345. Spine integer subtract. -/
  | spineSub (w : Bool) (b : BitVec 6) (a : BitVec 6) (d : BitVec 6)
  /-- R345. Spine bitwise AND. -/
  | spineAnd (w : Bool) (b : BitVec 6) (a : BitVec 6) (d : BitVec 6)
  /-- R345. Spine bitwise OR. -/
  | spineOr (w : Bool) (b : BitVec 6) (a : BitVec 6) (d : BitVec 6)
  /-- R345. Spine bitwise XOR. -/
  | spineXor (w : Bool) (b : BitVec 6) (a : BitVec 6) (d : BitVec 6)
  /-- R345. Spine A AND NOT B. -/
  | spineAndn (w : Bool) (b : BitVec 6) (a : BitVec 6) (d : BitVec 6)
  /-- R345. Spine shift left. -/
  | spineShl (w : Bool) (b : BitVec 6) (a : BitVec 6) (d : BitVec 6)
  /-- R345. Spine logical shift right. -/
  | spineShr (w : Bool) (b : BitVec 6) (a : BitVec 6) (d : BitVec 6)
  /-- R345. Spine arithmetic shift right. -/
  | spineSar (w : Bool) (b : BitVec 6) (a : BitVec 6) (d : BitVec 6)
  /-- R345. Spine multiply, low bits. -/
  | spineMul (w : Bool) (b : BitVec 6) (a : BitVec 6) (d : BitVec 6)
  /-- R345. Spine signed high product. -/
  | spineMulh (w : Bool) (b : BitVec 6) (a : BitVec 6) (d : BitVec 6)
  /-- R345. Spine natural high product. -/
  | spineMulhn (w : Bool) (b : BitVec 6) (a : BitVec 6) (d : BitVec 6)
  /-- R346. Spine signed division that never traps. -/
  | spineDiv (w : Bool) (b : BitVec 6) (a : BitVec 6) (d : BitVec 6)
  /-- R346. Spine natural division. -/
  | spineDivn (w : Bool) (b : BitVec 6) (a : BitVec 6) (d : BitVec 6)
  /-- R346. Spine signed remainder. -/
  | spineRem (w : Bool) (b : BitVec 6) (a : BitVec 6) (d : BitVec 6)
  /-- R346. Spine natural remainder. -/
  | spineRemn (w : Bool) (b : BitVec 6) (a : BitVec 6) (d : BitVec 6)
  /-- R345. Spine signed minimum. -/
  | spineMin (w : Bool) (b : BitVec 6) (a : BitVec 6) (d : BitVec 6)
  /-- R345. Spine signed maximum. -/
  | spineMax (w : Bool) (b : BitVec 6) (a : BitVec 6) (d : BitVec 6)
  /-- R345. Spine natural minimum. -/
  | spineMinn (w : Bool) (b : BitVec 6) (a : BitVec 6) (d : BitVec 6)
  /-- R345. Spine natural maximum. -/
  | spineMaxn (w : Bool) (b : BitVec 6) (a : BitVec 6) (d : BitVec 6)
  /-- R345. Spine signed set-less-than. -/
  | spineSlt (w : Bool) (b : BitVec 6) (a : BitVec 6) (d : BitVec 6)
  /-- R345. Spine natural set-less-than. -/
  | spineSltn (w : Bool) (b : BitVec 6) (a : BitVec 6) (d : BitVec 6)
  /-- R345. Spine count of leading zeros. -/
  | spineClz (w : Bool) (a : BitVec 6) (d : BitVec 6)
  /-- R345. Spine count of trailing zeros. -/
  | spineCtz (w : Bool) (a : BitVec 6) (d : BitVec 6)
  /-- R345. Spine population count. -/
  | spinePopc (w : Bool) (a : BitVec 6) (d : BitVec 6)
  /-- R345. Spine bit reversal. -/
  | spineBrev (w : Bool) (a : BitVec 6) (d : BitVec 6)
  /-- R347. Spine add of a sign-extended immediate. -/
  | addi (i : BitVec 14) (a : BitVec 6) (d : BitVec 6)
  /-- R347. Spine AND with a sign-extended immediate. -/
  | andi (i : BitVec 14) (a : BitVec 6) (d : BitVec 6)
  /-- R347. Spine OR with a sign-extended immediate. -/
  | ori (i : BitVec 14) (a : BitVec 6) (d : BitVec 6)
  /-- R347. Spine XOR with a sign-extended immediate. -/
  | xori (i : BitVec 14) (a : BitVec 6) (d : BitVec 6)
  /-- R347. Spine shift left by an immediate. -/
  | shli (n : BitVec 6) (a : BitVec 6) (d : BitVec 6)
  /-- R347. Spine logical shift right by an immediate. -/
  | shri (n : BitVec 6) (a : BitVec 6) (d : BitVec 6)
  /-- R347. Spine arithmetic shift right by an immediate. -/
  | sari (n : BitVec 6) (a : BitVec 6) (d : BitVec 6)
  /-- R347. Spine signed set-less-than immediate. -/
  | slti (i : BitVec 14) (a : BitVec 6) (d : BitVec 6)
  /-- R347. Spine natural set-less-than immediate. -/
  | sltni (i : BitVec 14) (a : BitVec 6) (d : BitVec 6)
  /-- R347. Spine move of a shifted upper immediate. -/
  | movu (i : BitVec 20) (d : BitVec 6)
  /-- R347. Spine PC-relative address of a shifted immediate. -/
  | addpc (i : BitVec 20) (d : BitVec 6)
  /-- R348. Spine floating-point add. -/
  | spineFadd (p : Bool) (b : BitVec 6) (a : BitVec 6) (d : BitVec 6)
  /-- R348. Spine floating-point subtract. -/
  | spineFsub (p : Bool) (b : BitVec 6) (a : BitVec 6) (d : BitVec 6)
  /-- R348. Spine floating-point multiply. -/
  | spineFmul (p : Bool) (b : BitVec 6) (a : BitVec 6) (d : BitVec 6)
  /-- R348. Spine floating-point divide. -/
  | spineFdiv (p : Bool) (b : BitVec 6) (a : BitVec 6) (d : BitVec 6)
  /-- R348. Spine floating-point square root. -/
  | spineFsqrt (p : Bool) (a : BitVec 6) (d : BitVec 6)
  /-- R348. Spine floating-point minimum. -/
  | spineFmin (p : Bool) (b : BitVec 6) (a : BitVec 6) (d : BitVec 6)
  /-- R348. Spine floating-point maximum. -/
  | spineFmax (p : Bool) (b : BitVec 6) (a : BitVec 6) (d : BitVec 6)
  /-- R348. Spine floating-point equality test. -/
  | spineFeq (p : Bool) (b : BitVec 6) (a : BitVec 6) (d : BitVec 6)
  /-- R348. Spine floating-point less-than test. -/
  | spineFlt (p : Bool) (b : BitVec 6) (a : BitVec 6) (d : BitVec 6)
  /-- R348. Spine floating-point less-or-equal test. -/
  | spineFle (p : Bool) (b : BitVec 6) (a : BitVec 6) (d : BitVec 6)
  /-- R349. Spine conversion selected by a code. -/
  | spineFcvt (c : BitVec 6) (a : BitVec 6) (d : BitVec 6)
  /-- R350. Spine binary64 fused A·B + C. -/
  | spineFfma (c : BitVec 6) (b : BitVec 6) (a : BitVec 6) (d : BitVec 6)
  /-- R350. Spine binary32 fused A·B + C. -/
  | spineFfmaS (c : BitVec 6) (b : BitVec 6) (a : BitVec 6) (d : BitVec 6)
  /-- R350. Spine binary64 fused A·B − C. -/
  | spineFfms (c : BitVec 6) (b : BitVec 6) (a : BitVec 6) (d : BitVec 6)
  /-- R350. Spine binary32 fused A·B − C. -/
  | spineFfmsS (c : BitVec 6) (b : BitVec 6) (a : BitVec 6) (d : BitVec 6)
  /-- R350. Spine binary64 fused −(A·B) − C. -/
  | spineFnfma (c : BitVec 6) (b : BitVec 6) (a : BitVec 6) (d : BitVec 6)
  /-- R350. Spine binary32 fused −(A·B) − C. -/
  | spineFnfmaS (c : BitVec 6) (b : BitVec 6) (a : BitVec 6) (d : BitVec 6)
  /-- R350. Spine binary64 fused −(A·B) + C. -/
  | spineFnfms (c : BitVec 6) (b : BitVec 6) (a : BitVec 6) (d : BitVec 6)
  /-- R350. Spine binary32 fused −(A·B) + C. -/
  | spineFnfmsS (c : BitVec 6) (b : BitVec 6) (a : BitVec 6) (d : BitVec 6)
  /-- R351. Spine load of 1, 2, 4 or 8 bytes. -/
  | spineLd (i : BitVec 10) (x : Bool) (z : BitVec 3) (a : BitVec 6) (d : BitVec 6)
  /-- R351. Spine store of 1, 2, 4 or 8 bytes. -/
  | spineSt (i : BitVec 10) (z : BitVec 3) (a : BitVec 6) (s : BitVec 6)
  /-- R353. Spine atomic swap. -/
  | amoSwap (w : Bool) (o : BitVec 3) (b : BitVec 6) (a : BitVec 6) (d : BitVec 6)
  /-- R353. Spine atomic add. -/
  | amoAdd (w : Bool) (o : BitVec 3) (b : BitVec 6) (a : BitVec 6) (d : BitVec 6)
  /-- R353. Spine atomic AND. -/
  | amoAnd (w : Bool) (o : BitVec 3) (b : BitVec 6) (a : BitVec 6) (d : BitVec 6)
  /-- R353. Spine atomic OR. -/
  | amoOr (w : Bool) (o : BitVec 3) (b : BitVec 6) (a : BitVec 6) (d : BitVec 6)
  /-- R353. Spine atomic XOR. -/
  | amoXor (w : Bool) (o : BitVec 3) (b : BitVec 6) (a : BitVec 6) (d : BitVec 6)
  /-- R353. Spine atomic signed minimum. -/
  | amoMin (w : Bool) (o : BitVec 3) (b : BitVec 6) (a : BitVec 6) (d : BitVec 6)
  /-- R353. Spine atomic signed maximum. -/
  | amoMax (w : Bool) (o : BitVec 3) (b : BitVec 6) (a : BitVec 6) (d : BitVec 6)
  /-- R353. Spine atomic natural minimum. -/
  | amoMinn (w : Bool) (o : BitVec 3) (b : BitVec 6) (a : BitVec 6) (d : BitVec 6)
  /-- R353. Spine atomic natural maximum. -/
  | amoMaxn (w : Bool) (o : BitVec 3) (b : BitVec 6) (a : BitVec 6) (d : BitVec 6)
  /-- R353. Spine compare-and-swap. -/
  | spineCas (w : Bool) (o : BitVec 3) (b : BitVec 6) (a : BitVec 6) (d : BitVec 6)
  /-- R353. Spine 128-bit compare-and-swap. -/
  | spineCas2 (o : BitVec 3) (b : BitVec 6) (a : BitVec 6) (d : BitVec 6)
  /-- R354. Spine acquiring load. -/
  | lda (w : Bool) (o : BitVec 3) (a : BitVec 6) (d : BitVec 6)
  /-- R354. Spine releasing store. -/
  | stl (w : Bool) (o : BitVec 3) (b : BitVec 6) (a : BitVec 6)
  /-- R355. Spine branch if equal. -/
  | beq (i : BitVec 14) (b : BitVec 6) (a : BitVec 6)
  /-- R355. Spine branch if not equal. -/
  | bne (i : BitVec 14) (b : BitVec 6) (a : BitVec 6)
  /-- R355. Spine branch if signed less. -/
  | blt (i : BitVec 14) (b : BitVec 6) (a : BitVec 6)
  /-- R355. Spine branch if signed greater or equal. -/
  | bge (i : BitVec 14) (b : BitVec 6) (a : BitVec 6)
  /-- R355. Spine branch if natural less. -/
  | bltn (i : BitVec 14) (b : BitVec 6) (a : BitVec 6)
  /-- R355. Spine branch if natural greater or equal. -/
  | bgen (i : BitVec 14) (b : BitVec 6) (a : BitVec 6)
  /-- R356. Spine PC-relative jump and link. -/
  | jl (i : BitVec 20) (d : BitVec 6)
  /-- R356. Spine register jump and link. -/
  | jlr (i : BitVec 14) (a : BitVec 6) (d : BitVec 6)
  /-- R357. Spine memory fence of a kind and scope. -/
  | spineFence (k : BitVec 2) (s : BitVec 3)
  /-- R357. Spine persistence fence at system scope. -/
  | spinePfence
  /-- R359. Spine put of a value and count into a shared register. -/
  | spineHput (i : BitVec 8) (a : BitVec 6) (d : BitVec 6)
  /-- R359. Spine consuming read of a shared register. -/
  | spineHget (i : BitVec 8) (d : BitVec 6)
  /-- R359. Spine non-waiting read of a shared register's state. -/
  | hpeek (i : BitVec 8) (d : BitVec 6)
  /-- R360. Spine contribution to a shared-register gather. -/
  | spineHacc (i : BitVec 8) (a : BitVec 6) (d : BitVec 6)
  /-- R361. Spine configure or clear of a shared-register entry. -/
  | hcfg (i : BitVec 8) (a : BitVec 6)
  /-- R362. Spine read of a control register. -/
  | spineCsrr (i : BitVec 8) (d : BitVec 6)
  /-- R362. Spine write of a control register. -/
  | spineCsrw (i : BitVec 8) (a : BitVec 6)
  /-- R363. Spine svc with code 0 ends the spine thread. -/
  | spineExit
  /-- R363. Spine svc with code 1–255 pushes a service entry to COMPQ. -/
  | svc (c : BitVec 8) (a : BitVec 6)
  /-- R364. Spine breakpoint trap. -/
  | spineBrk (c : BitVec 8)
  /-- R365. Spine visible wait until a time limit or wake event. -/
  | spineNap (a : BitVec 6)
  /-- R366. Spine read of the time base. -/
  | spineRdclk (d : BitVec 6)
  /-- R366. Spine 64-bit hardware random value. -/
  | spineRand (d : BitVec 6)
  /-- R367. Spine query of the home and tier of an address. -/
  | spineLoc (a : BitVec 6) (d : BitVec 6)
  /-- R369. Spine push of a child grid onto queue 0. -/
  | spineLaunch (b : BitVec 6) (a : BitVec 6)
  /-- R371. Spine memory-to-memory copy described by a descriptor, with a completion word. -/
  | spineCpy (b : BitVec 6) (a : BitVec 6)
  /-- R370. Spine push of a 64-byte entry to a queue. -/
  | spineQpush (b : BitVec 6) (a : BitVec 6)
  /-- R370. Spine push that reports 0 instead of waiting when the window is full. -/
  | spineQpushTry (b : BitVec 6) (a : BitVec 6) (d : BitVec 6)
  /-- R370. Spine pop of a queue entry to memory. -/
  | spineQpop (b : BitVec 6) (a : BitVec 6)
  /-- R370. Spine pop that reports 0 instead of waiting when the queue is empty. -/
  | spineQpopTry (b : BitVec 6) (a : BitVec 6) (d : BitVec 6)
  /-- R372. Spine write of a tensor-identifier entry. -/
  | spineTiset (b : BitVec 6) (a : BitVec 6)
  /-- R125. Power is applied; the device wipes every memory under its control, boots, and reports reset cause 1. -/
  | powerOnReset
  /-- R53. The host requests an orderly reset; dirty grains of PERS pages are written back, a CXL global persistent flush is issued, then the device resets and wipes. -/
  | orderlyHostReset
  /-- R120. A PF reset or hot reset resets and wipes the device with reset cause 3. -/
  | hotReset
  /-- R115. A VF function-level reset performs CTXFREE on the VF's context slot; it is not a device reset. -/
  | vfFunctionLevelReset
  /-- R22. A compute die reaches 115 °C and hardware holds the whole package in reset, wiping device memory, with reset cause 4. -/
  | thermalTrip
  /-- R21. Measured power approaches the limit or a die reaches 105 °C; the power controller withdraws boost, lowers the cluster clock, then lowers engine voltage. -/
  | throttle
  /-- R16. The power controller raises the cluster clock towards 2.2 GHz when load and temperature allow; the change takes effect between two clocks. -/
  | boost
  /-- R125. The reset wipe and boot finish and DEVSTAT.READY becomes 1, after which configuration requests are no longer answered with retry status. -/
  | wipeComplete
  /-- R125. A PCIe configuration request arrives; it receives Configuration Request Retry Status until DEVSTAT.READY is 1. -/
  | pcieConfigurationRequest
  /-- R126. A firmware image is presented; the boot ROM runs it only if both its Ed25519 and ML-DSA-65 signatures verify, otherwise it keeps the previous image and records the failure. -/
  | firmwareUpdate
  /-- R124. A vendor-signed provisioning command moves the life cycle from Spring to Summer, wiping device memory. -/
  | vendorProvisioning
  /-- R124. An owner-signed debug command moves the life cycle from Summer to Autumn, wiping device memory. -/
  | ownerDebug
  /-- R124. An owner-signed command moves the life cycle from Autumn back to Summer, wiping device memory. -/
  | ownerReturnToSummer
  /-- R124. An owner or vendor command moves the device irreversibly to Winter, destroying the device keys and wiping device memory. -/
  | decommission
  /-- R31. An ECC error in HBM or LPDDR-6 is corrected silently and counted. -/
  | correctedError
  /-- R31. An uncorrectable memory error or a poisoned CXL response poisons the page: CMP becomes poisoned, all cached copies are discarded, and the accessor traps POISON. -/
  | uncorrectableError
  /-- R31. A soft error in a cache sector is discarded and refetched if the sector is clean, and poisons the page if the sector is dirty. -/
  | cacheSoftError
  /-- R30. A CXL dynamic-capacity add event is accepted by the SVP, which maps the extents into the port window and raises TIERSTAT.CAP. -/
  | cxlExtentAdd
  /-- R30. A CXL release request is granted only for extents that back no mapped page, and is refused otherwise. -/
  | cxlExtentRelease
  /-- R30. A second-tier CXL link drops or its device disappears, and every page on that port becomes poisoned. -/
  | cxlLinkLoss
  /-- R32. A write-combining buffer entry drains 256 clocks after its last store. -/
  | writeCombiningDrainTimeout
  /-- R39. An agent that lacks a grain in a sufficient state broadcasts a snoop and posts an announcement, which waits for a free slot on the notification network. -/
  | snoopRequest
  /-- R39. The notification network accepts a waiting announcement into one of its 16 slots of the clock. -/
  | announcementAccept
  /-- R39. Exactly 24 clocks after acceptance, every agent of the die receives the announcement and applies the snoops in network order, supplying or invalidating data. -/
  | announcementDelivery
  /-- R34. A read miss fills every sector of the grain into the cache. -/
  | readMissFill
  /-- R34. A store obtains ownership of a grain, fetching only the sectors that it does not wholly cover. -/
  | ownershipGrant
  /-- R34. A cache entry sends its dirty sectors to the home. -/
  | writeBack
  /-- R40. The home L2 recalls or invalidates a grain at every holder named in its directory entry before it grants exclusive access. -/
  | directoryRecall
  /-- R40. The eviction of a directory entry first recalls the grain from every holder that the entry names. -/
  | directoryEviction
  /-- R36. The eviction of an RDC entry first invalidates the L1 copies of the line through the die's snoop order. -/
  | rdcEviction
  /-- R56. On a home-map cache miss, a walker reads the four-level home map to find the HME of a granule. -/
  | homeMapWalk
  /-- R60. A walker at the home reads the five-level page table to find the leaf for an address. -/
  | pageTableWalk
  /-- R55. A request arrives at a device home, which looks up the translation, checks the generation, faults, permissions and poison in order, then serves the request, answers STALE, or faults. -/
  | homeRequest
  /-- R67. A requester answered STALE drops the HME, fetches it again and reissues the request, or raises a generation-loop fault after eight STALE answers in a row. -/
  | staleResponse
  /-- R74. A fault record is posted to the context's fault queue, or attaches to a matching pending-fault entry, once the table and the queue have room. -/
  | faultRecordPost
  /-- R71. HCMD command HOLD holds new requests to a page and recalls every cached copy of it. -/
  | hold
  /-- R71. HCMD command RELEASE drops the translations of a page and resumes its held requests, which walk again. -/
  | release
  /-- R71. HCMD command FLUSHASID writes back and invalidates every line and translation tagged with an ASID on every die. -/
  | flushasid
  /-- R71. HCMD command MOVEHOLD holds a 2 MiB granule at its home and recalls every copy, engine-owned grains first. -/
  | movehold
  /-- R71. HCMD command MOVEDONE drops the translations of a granule and answers its held requests STALE. -/
  | movedone
  /-- R71. HCMD command HMINV drops the HME of a granule from every die's home-map cache. -/
  | hminv
  /-- R70. A home command finishes, for instance when no copy of a held page remains; BUSY clears and DONE is set. -/
  | homeCommandDone
  /-- R74. A FREPLAY write with verdict replay reissues every access attached to the pending-fault entry from the home lookup. -/
  | freplayReplay
  /-- R74. A FREPLAY write with verdict unresolvable fails every attached access with MEMFAULT, an error status or an error token. -/
  | freplayUnresolvable
  /-- R3. A host or SVP write to a control register that has no row of its own stores the writable fields, ignores reserved and refused values, and clears W1C bits. -/
  | registerWrite
  /-- R120. A read of SVCERR returns the count of refused NOTIFY writes and malformed QCBs and clears it. -/
  | svcerrRead
  /-- R89. A read of KLSTAT returns the link status and clears NDROP. -/
  | klstatRead
  /-- R87. A host read through a PCIe BAR2 window is translated by window and served at the device home; when it fails, it completes with Completer Abort. -/
  | pcieHostRead
  /-- R87. A host write through a PCIe BAR2 window is performed at the device home in order of arrival; when it fails, it is dropped and AER is logged. -/
  | pcieHostWrite
  /-- R88. A PCIe AtomicOp request to any BAR completes with Unsupported Request status and has no effect. -/
  | pcieAtomicop
  /-- R90. A host request over Knamar Link to device memory is served coherently at the home and tracked in the ninth presence bit. -/
  | klHostRead
  /-- R96. A numbered host write over KL is performed at its home in sequence order and advances KLSEQ. -/
  | klHostWrite
  /-- R91. A host CPU atomic over KL is performed at the device home agent at system scope, or receives an error response if misaligned or unlisted. -/
  | klHostAtomic
  /-- R90. The host answers a recall of a host-held grain and the waiting home request proceeds. -/
  | hostRecallResponse
  /-- R96. Knamar Link trains; host write numbering restarts from 1. -/
  | klLinkUp
  /-- R96. Knamar Link goes down; held NOTIFY writes are dropped and counted in NDROP, and outstanding device requests to the host fail. -/
  | klLinkDown
  /-- R97. A NOTIFY write for a service queue is held until its KL tag or sequence is reached, or else takes effect at once. -/
  | notify
  /-- R109. A held NOTIFY takes effect: if the tail is within the window it sets RESV and TAIL and wakes the bound SVP thread, otherwise it increments ERRS. -/
  | notifyTakeEffect
  /-- R93. A host ATS invalidation completes after every request that used the invalidated translation has completed. -/
  | atsInvalidation
  /-- R94. The host refuses the translation of a device request to home code 8 or 9; the device sends a page request and parks the access. -/
  | hostRefusedTranslation
  /-- R94. A PRI or KL page-request response arrives; on success the parked access is reissued once, otherwise it fails as unresolvable. -/
  | pageRequestResponse
  /-- R103. A response from a host or peer home arrives; an error response fails the request as unresolvable, and a late response is discarded. -/
  | remoteHomeResponse
  /-- R101. A request from a peer over VPL is served at this device's home if the peer-table pairing matches, and receives an error response otherwise. -/
  | peerRequest
  /-- R103. A device request to a peer receives no response within the VPLCTL.TMO time and fails as an unresolvable fault. -/
  | vplTimeout
  /-- R103. A VPL port goes down; requests outstanding on it fail as unresolvable faults. -/
  | vplPortDown
  /-- R99. A VPL port trains and becomes usable; the SVP assigns the device's peer number at bring-up. -/
  | vplLinkUp
  /-- R43. A codec unit accepts a waiting request into its 64-entry queue. -/
  | codecRequestAccept
  /-- R44. The codec compresses a demoted 64 KiB page in sixteen CRC-guarded chunks and stores it compressed or raw. -/
  | pageCompression
  /-- R44. A read of a compressed page decompresses the chunk holding the line; a CRC mismatch poisons the page. -/
  | compressedPageRead
  /-- R285. The codec decodes one ECB block and delivers its 4,096 bytes, or reports CODECSUM and delivers nothing. -/
  | ecbDecode
  /-- R48. A read of an MX alias page returns BF16 values decoded from the stored E4M3 elements and scale. -/
  | mxAliasRead
  /-- R49. A write to an MX alias page goes to the home, which re-encodes each touched block with a new scale. -/
  | mxAliasWrite
  /-- R52. Every persistence acknowledgement for writes before a pfence.sy has arrived, and the fence completes. -/
  | pfenceComplete
  /-- R118. A host write of MGMTTAIL takes effect if within 16 of MGMTHEAD and of the previous tail, otherwise it is ignored and SVCERR is incremented. -/
  | mgmttailWrite
  /-- R118. A host write of MGMTRHEAD consumes management responses and frees room for a waiting response. -/
  | mgmtrheadWrite
  /-- R120. An SVP write to SVPWDT restarts the watchdog count and sets the period unless the period written is 0. -/
  | svpwdtWrite
  /-- R119. Service command LAUNCH checks a launch record and pushes the launch onto queue 0 of the context, waiting while the window is full. -/
  | launchCommand
  /-- R116. Service command CTXNEW flushes the ASID, fills the CCB, writes the save-area header and sets the context live. -/
  | ctxnew
  /-- R115. Service command CTXFREE stops the context's teams, retiring them with status 2, releases its frames and frees the slot. -/
  | ctxfree
  /-- R139. Service command PLACE configures a placement set or a bullpen from a core bitmap. -/
  | place
  /-- R20. Service command PWRLIMIT sets the package power limit between 2,000 W and 5,400 W in steps of 50 W. -/
  | pwrlimit
  /-- R127. Service command ATTEST writes a signed 3,461-byte attestation report into the named buffer. -/
  | attest
  /-- R116. Service command HEATSCAN returns the hottest and coolest frames of a heat window. -/
  | heatscan
  /-- R129. Service command RECORD writes the context's RECCTL recording control. -/
  | record
  /-- R117. CTXCFG selector 0 writes TIDTAB, FAULTQ, COMPQ and SVQMASK of a live context. -/
  | ctxcfgQueues
  /-- R117. CTXCFG selector 1 writes entries of the context's peer table. -/
  | ctxcfgPeers
  /-- R117. CTXCFG selector 2 writes one SVQMAP entry and updates the SVP's service-queue map. -/
  | ctxcfgSvqmap
  /-- R111. The device or SVP pushes a completion entry, response, fault record or log entry once the queue window has room, or discards it if the queue is unusable. -/
  | deviceQueuePush
  /-- R107. A reserved queue entry commits when TAIL reaches its reservation, releasing it and waking the consumer or sending MSI-X. -/
  | queueCommit
  /-- R121. The SVP watchdog expires and the RCV starts a recovery, or escalates to a device reset during a recovery. -/
  | svpWatchdogExpiry
  /-- R121. An uncorrectable error or lockstep mismatch strikes the SVP's own state and the RCV starts a recovery, or escalates during one. -/
  | svpStateError
  /-- R123. A lockstep mismatch in the RCV escalates to a device reset with cause 5. -/
  | rcvLockstepMismatch
  /-- R122. The RCV freezes distribution, walks the live CCBs, resets malformed QCBs, and rebuilds the SVP's maps and journal. -/
  | recovery
  /-- R122. At the end of a recovery the SVP threads restart and rescan their queues, and the distributors resume. -/
  | recoveryRestart
  /-- R138. The distributor pops the next launch from queue 0, reads the launch record and any GXADDR, and begins to distribute the grid or completes it at once. -/
  | launchTake
  /-- R141. The distributor places a pending or spilled team on the first group of cores that passes the resource check, and its squads and spine thread start. -/
  | teamPlace
  /-- R133. An exited team retires once its children, operations and stores are complete, and the exit record is written. -/
  | teamRetire
  /-- R147. A free issue slot chooses among eligible squads by age promotion and priority, checks the volley header, and begins the winner's volley. -/
  | issueSlotSelect
  /-- R151. A time slice of a shared placement set expires and every core starts a dugout swap to the next context, or waits if the shadow bank is not ready. -/
  | sliceExpiry
  /-- R303. After 64 clocks the core's bank is exchanged with the shadow bank, and the incoming teams become Resident. -/
  | dugoutSwap
  /-- R304. The background fill of the next owner's teams into the shadow bank finishes and the shadow bank becomes Ready. -/
  | shadowFillComplete
  /-- R304. The outgoing teams' images are written, their resources are freed, and the shadow bank becomes Empty. -/
  | shadowDrainComplete
  /-- R153. The engine arbiter grants one pass of up to 16 steps to the reservation entry of highest priority and age. -/
  | matrixPassGrant
  /-- R155. A core's no-issue count reaches FPWIN while a team waits to be placed, and the least recently issuing resident team is spilled. -/
  | forwardProgressExpiry
  /-- R156. A partition has been stalled on register-grow for 1,024 clocks, and the youngest team of the core is spilled. -/
  | registerGrowExpiry
  /-- R305. A stopped team's pending writes land and its engine is quiescent; its image is written, its core resources freed, and it becomes Spilled. -/
  | teamSpillComplete
  /-- R159. An accepted migration's message stream arrives and the team resumes on the cores of the target die. -/
  | migrationComplete
  /-- R161. A compute die fails; its teams are declared lost, and cut streams through it cannot be mended. -/
  | dieFailure
  /-- R161. The SVP declares a team lost, restarting it if idempotent and not escaped, and otherwise retiring it with status 3. -/
  | teamLost
  /-- R174. A long-latency result or access completes: the data lands, or is discarded if quarantined, and its set-flag is lowered. -/
  | resultLanding
  /-- R209. Once the squad's pending lane writes have landed, a diverging branch writes thread records for the ejected lanes into the spawn area. -/
  | threadEjection
  /-- R212. A former group has had no new arrival for 256 clocks and is released as a squad. -/
  | formerGroupTimeout
  /-- R213. A released group is formed into a squad on its former's core once a squad slot and enough rows are free. -/
  | squadForm
  /-- R244. A self-timed array settles and completes one step of a matrix or scan operation. -/
  | matrixStepComplete
  /-- R434. The engine's transfer port finishes a non-step matrix operation and sends its completion token. -/
  | transferPortComplete
  /-- R263. An engine with an operation outstanding sends no token for MEWDT.MS ms and is reported hung to the SVP. -/
  | engineHang
  /-- R264. The SVP resets a hung engine: resident tiles are marked LOST and pending operations end with TILELOST. -/
  | engineReset
  /-- R292. A squad enters its handler once no other squad of its team is in one, writing the trap registers and record, or else the team ends. -/
  | trapEntry
  /-- R297. A deferred trap is delivered at the squad's next instruction boundary. -/
  | deferredTrapDelivery
  /-- R452. A copy operation finishes its units in ascending order, or ends at a failing unit, and reports completion by flag or completion word. -/
  | copyComplete
  /-- R454. A reduction contribution arrives at the group record's home and is combined or refused. -/
  | credArrival
  /-- R455. The time base reaches a reduction group's deadline and the group completes with the contributors that have arrived. -/
  | credDeadline
  /-- R456. No completion reaches a reduction issuer 1 ms after its deadline, and the reduction completes with LOST. -/
  | credLostTimeout
  /-- R426. The time limit of a nap elapses and the visible wait ends. -/
  | napTimeout
  /-- R92. A snoop from the host over Knamar Link, carrying the PASID and VA of the grant, reaches the device's caches for a KL-homed line and recalls or invalidates the device's copy. -/
  | hostSnoop
  /-- R28. A second-tier CXL port trains and becomes usable, and its TIERSTAT LINK reads 1. -/
  | cxlLinkUp
  deriving DecidableEq, Repr

end Sys2Proof
end

