-- ==== Sys2Proof/WellFormed.lean ====
section
/-! DEFINITION. The encoding checks: which instruction words are legal (14 R313 to R329, 16 R374, 17 R402,
18 R433 step 1). A word that fails one traps `ILLOP`. The rows of 16 R376, R380, R384, R391, 17 R406, R416,
R420 and 18 R436, R449 stand below as one predicate each. -/

namespace Sys2Proof

/-- A slot that is not used: v255 without last use (14 R314). -/
def Src.unused (s : Src) : Bool := s == .v 255 false

/-- A last-use bit stands only on v0 to v254 (14 R314, 07 R169). -/
def Src.lastOk : Src → Bool
  | .v idx last => !last || idx != 255
  | _ => true

def Src.isLit : Src → Bool
  | .lit => true
  | _ => false

def Src.isH : Src → Bool
  | .h _ => true
  | _ => false

def Src.isG : Src → Bool
  | .g _ => true
  | _ => false

def Src.isV : Src → Bool
  | .v _ _ => true
  | _ => false

/-- Types that name a register pair (07 R167). -/
def LType.is64 : LType → Bool
  | .i64 | .n64 | .afp => true
  | _ => false

/-- Whether a literal of this type may carry this `IMM24` (14 R315). -/
def LType.litOk (t : LType) (imm : BitVec 24) : Bool :=
  match t with
  | .i32 | .n32 | .b32 | .i64 | .n64 | .f32 | .none => true
  | .i16x2 | .n16x2 | .f16x2 | .bf16x2 => imm.toNat < 65536
  | .i8x4 | .n8x4 | .e4m3x4 | .e5m2x4 | .e3m2x4 | .e2m3x4 | .e8m0x4 => imm.toNat < 256
  | .i4x8 | .n4x8 | .e2m1x8 => imm.toNat < 16
  | _ => false

/-- An even register from 0 to 252 (07 R167). -/
def evenPair (idx : BitVec 8) : Bool := idx.toNat % 2 == 0 && idx.toNat ≤ 252

/-- What a row of an encoding table says about a slot. -/
inductive SlotUse where
  /-- not used -/
  | no
  /-- any space, width of TYPE -/
  | any
  /-- any space, 32 bits -/
  | w32
  /-- v or g, width of TYPE -/
  | vg
  /-- v or g, 32 bits -/
  | vg32
  | g
  /-- g or literal -/
  | gl
  | h
  /-- v, 32 bits -/
  | v
  deriving DecidableEq, Repr

def slotOk (u : SlotUse) (t : LType) (s : Src) : Bool :=
  let wide := match s with
    | .v idx _ => !t.is64 || evenPair idx
    | _ => true
  s.lastOk && match u with
    | .no => s.unused
    | .any => wide
    | .w32 => true
    | .vg => (s.isV || s.isG) && wide
    | .vg32 => s.isV || s.isG
    | .g => s.isG
    | .gl => s.isG || s.isLit
    | .h => s.isH
    | .v => s.isV

/-- Destinations that a row admits. -/
inductive DstUse where
  | none
  | v
  | vg
  | p
  | h
  | m
  deriving DecidableEq, Repr

/-- A pair in space v is even; v255 discards (07 R167, 14 R316; log entry 18). -/
def dstV (t : LType) (idx : BitVec 8) : Bool := !t.is64 || evenPair idx || idx == 255

def dstOk (u : DstUse) (t : LType) (d : Dst) : Bool :=
  match u, d with
  | .none, .none => true
  | .v, .v idx => dstV t idx
  | .vg, .v idx => dstV t idx
  | .vg, .g _ => true
  | .p, .sp n => n.toNat < 8
  | .h, .sp n => n.toNat < 64
  | .m, .sp n => n.toNat < 16
  | _, _ => false

/-- What a row says about `IMM24`. -/
inductive ImmUse where
  /-- a literal, else zero -/
  | lit
  | zero
  /-- a signed number over the whole field; no literal -/
  | full
  /-- the low n bits; no literal -/
  | low (n : Nat)
  deriving DecidableEq, Repr

def immOk (u : ImmUse) (o : LaneOp) : Bool :=
  let anyLit := o.a.isLit || o.b.isLit || o.c.isLit
  match u with
  | .lit => if anyLit then o.ty.litOk o.imm else o.imm == 0
  | .zero => !anyLit && o.imm == 0
  | .full => !anyLit
  | .low n => !anyLit && o.imm.toNat < 2 ^ n

/-- Bit count of a list of Booleans. -/
def countTrue (l : List Bool) : Nat := (l.filter id).length

def Dst.isG : Dst → Bool
  | .g _ => true
  | _ => false

/-- Guard 7 without negation (14 R317). -/
def LaneOp.unguarded (o : LaneOp) : Bool := o.gp == 7 && !o.gn

/-- Rules for every lane instruction (14 R313, R314, R317, R318): one row of an encoding table. `long` says
whether the result is long-latency (07 R166, 16 R375); every instruction with a source in space h is. -/
def laneRow (o : LaneOp) (tys : List LType) (d : DstUse) (a b c : SlotUse) (mdMask : BitVec 6) (imm : ImmUse)
    (long : Bool) : Bool :=
  tys.contains o.ty && dstOk d o.ty o.dst && slotOk a o.ty o.a && slotOk b o.ty o.b && slotOk c o.ty o.c &&
  o.md &&& ~~~mdMask == 0 && immOk imm o && !o.k &&
  countTrue [o.a.isLit, o.b.isLit, o.c.isLit] ≤ 1 && countTrue [o.a.isH, o.b.isH, o.c.isH] ≤ 1 &&
  (!o.fs || long || o.a.isH || o.b.isH || o.c.isH)

/-! ### Lists of types -/

def tysInt : List LType := [.i32, .n32, .i16x2, .n16x2, .i8x4, .n8x4, .i64, .n64]
def tysF : List LType := [.f32, .f16x2, .bf16x2]
def tysShift : List LType := [.i32, .n32, .b32, .i16x2, .n16x2, .i8x4, .n8x4, .i64, .n64]
def tysMem : List LType := [.i8x4, .n8x4, .i16x2, .n16x2, .i32, .n32, .b32, .f32, .i64, .n64]
def tysAtom : List LType := [.i32, .n32, .b32, .f32, .i64, .n64]
def tysMma : List LType := [.e4m3x4, .e5m2x4, .e3m2x4, .e2m3x4, .e2m1x8, .f16x2, .bf16x2, .i8x4, .n8x4,
  .mxe4m3, .mxe5m2, .mxe3m2, .mxe2m3, .mxe2m1, .mxi8]

def LType.isMx : LType → Bool
  | .mxe4m3 | .mxe5m2 | .mxe2m1 | .mxe3m2 | .mxe2m3 | .mxi8 => true
  | _ => false

/-- Types whose accumulator is I32 (11 R254). -/
def LType.accInt : LType → Bool
  | .i8x4 | .n8x4 | .mxi8 => true
  | _ => false

/-- Types of 64 K elements held one to a byte or half byte, in 16 registers for FP6 (18 R437). -/
def LType.aRegs : LType → Nat
  | .e3m2x4 | .e2m3x4 | .mxe3m2 | .mxe2m3 => 16
  | _ => 8

/-! ### Conversions (16 R385, R386): codes of 12 R287 that name one element -/

/-- Classes of scalar type for `cvt`. -/
inductive ScalarKind where
  | int
  | float
  | scale
  deriving DecidableEq, Repr

/-- The scalar types that `cvt` accepts; the code is the element code of 12 R287. -/
def cvtKind : LType → Option ScalarKind
  | .i32 | .n32 | .i64 | .n64 | .i16x2 | .n16x2 | .i8x4 | .n8x4 => some .int
  | .f32 | .f16x2 | .bf16x2 | .e4m3x4 | .e5m2x4 | .e3m2x4 | .e2m3x4 | .e2m1x8 => some .float
  | .e8m0x4 => some .scale
  | _ => none

/-- Type codes (14 R323). -/
def LType.code : LType → BitVec 6
  | .i32 => 0x00 | .n32 => 0x01 | .i16x2 => 0x02 | .n16x2 => 0x03 | .i8x4 => 0x04 | .n8x4 => 0x05
  | .i4x8 => 0x06 | .n4x8 => 0x07 | .b32 => 0x08 | .i64 => 0x09 | .n64 => 0x0A
  | .f32 => 0x10 | .f16x2 => 0x11 | .bf16x2 => 0x12 | .e4m3x4 => 0x13 | .e5m2x4 => 0x14 | .e3m2x4 => 0x15
  | .e2m3x4 => 0x16 | .e2m1x8 => 0x17 | .e8m0x4 => 0x18 | .afp => 0x19
  | .mxe4m3 => 0x20 | .mxe5m2 => 0x21 | .mxe2m1 => 0x22 | .mxe3m2 => 0x23 | .mxe2m3 => 0x24 | .mxi8 => 0x25
  | .none => 0x3F

def LType.ofCode (n : BitVec 6) : Option LType :=
  match n.toNat with
  | 0x00 => some .i32 | 0x01 => some .n32 | 0x02 => some .i16x2 | 0x03 => some .n16x2 | 0x04 => some .i8x4
  | 0x05 => some .n8x4 | 0x06 => some .i4x8 | 0x07 => some .n4x8 | 0x08 => some .b32 | 0x09 => some .i64
  | 0x0A => some .n64 | 0x10 => some .f32 | 0x11 => some .f16x2 | 0x12 => some .bf16x2 | 0x13 => some .e4m3x4
  | 0x14 => some .e5m2x4 | 0x15 => some .e3m2x4 | 0x16 => some .e2m3x4 | 0x17 => some .e2m1x8
  | 0x18 => some .e8m0x4 | 0x19 => some .afp | 0x20 => some .mxe4m3 | 0x21 => some .mxe5m2
  | 0x22 => some .mxe2m1 | 0x23 => some .mxe3m2 | 0x24 => some .mxe2m3 | 0x25 => some .mxi8
  | 0x3F => some .none
  | _ => Option.none

/-- The source type of `cvt`, `pack2` and `pack4` (16 R384). -/
def LaneOp.srcType (o : LaneOp) : Option LType := LType.ofCode (o.imm.setWidth 6)

/-- The pairs, rounding and `.nosat` that a conversion admits (16 R385). -/
def cvtOk (dst src : LType) (nosat : Bool) (rm : BitVec 2) : Bool :=
  match cvtKind dst, cvtKind src with
  | some kd, some ks =>
    dst != src && (kd != .scale || src == .f32) && (ks != .scale || dst == .f32) &&
    (!nosat || dst == .e4m3x4 || dst == .e5m2x4) &&
    (rm == 0 || !(kd == .int))
  | _, _ => false

/-- Rounding field MOD[5:4]. -/
def LaneOp.rm (o : LaneOp) : BitVec 2 := o.md.extractLsb' 4 2

/-- A source of `cvt`, `pack2` or `pack4` in space h makes the result long-latency; literals are not admitted. -/
def srcNoLit (s : Src) : Bool := s.lastOk && !s.isLit

def pairOk (s : Src) (t : LType) : Bool :=
  match s with
  | .v idx _ => !t.is64 || evenPair idx
  | _ => true

/-- `cvt` reads A in the width of its source type (16 R385). -/
def wfCvt (o : LaneOp) : Bool :=
  match o.srcType with
  | some s =>
    (cvtKind o.ty).isSome && dstOk .vg o.ty o.dst && srcNoLit o.a && pairOk o.a s && o.b.unused && o.c.unused &&
    o.md &&& 0x0E == 0 && o.imm.toNat < 64 && cvtOk o.ty s (o.md.getLsbD 0) o.rm && !o.k && (!o.fs || o.a.isH)
  | none => false

def tysPackSrc : List LType := [.i32, .n32, .f32]

def wfPack2 (o : LaneOp) : Bool :=
  match o.srcType with
  | some s =>
    tysPackSrc.contains s && [LType.i16x2, .n16x2, .f16x2, .bf16x2].contains o.ty && dstOk .vg o.ty o.dst &&
    srcNoLit o.a && srcNoLit o.b && o.c.unused && o.md &&& 0x0F == 0 && o.imm.toNat < 64 &&
    cvtOk o.ty s false o.rm && !o.k && countTrue [o.a.isH, o.b.isH] ≤ 1 && (!o.fs || o.a.isH || o.b.isH)
  | none => false

def wfPack4 (o : LaneOp) : Bool :=
  match o.srcType with
  | some s =>
    tysPackSrc.contains s &&
    [LType.i8x4, .n8x4, .e4m3x4, .e5m2x4, .e3m2x4, .e2m3x4, .i4x8, .n4x8, .e2m1x8].contains o.ty &&
    dstOk .vg o.ty o.dst && srcNoLit o.a && srcNoLit o.b && srcNoLit o.c && o.md &&& 0x08 == 0 &&
    o.imm.toNat < 64 && !o.k &&
    (o.md.getLsbD 1 == false || o.ty == .i4x8 || o.ty == .n4x8 || o.ty == .e2m1x8) &&
    (o.ty == .i4x8 || o.ty == .n4x8 ||
      cvtOk o.ty s false o.rm) &&
    (!o.md.getLsbD 2 || o.ty == .e4m3x4 || o.ty == .e5m2x4) &&
    (!(o.ty == .i4x8 || o.ty == .n4x8) || o.rm == 0) &&
    countTrue [o.a.isH, o.b.isH, o.c.isH] ≤ 1 && (!o.fs || o.a.isH || o.b.isH || o.c.isH)
  | none => false

/-! ### Memory forms -/

/-- The three address forms of 14 R325. -/
def addrOk (o : LaneOp) : Bool :=
  match o.a, o.b with
  | .g _, .v m last => !last || m != 255
  | .v m _, .v n last => evenPair m && n == 255 && !last
  | _, _ => false

/-- Elements in a vector (17 R404). -/
def vecCount (o : LaneOp) : Nat :=
  match (o.md.extractLsb' 0 2).toNat with
  | 0 => 1
  | 1 => 2
  | 2 => 4
  | _ => 0

/-- Element size in bytes (17 R404). -/
def LType.memSize : LType → Nat
  | .i8x4 | .n8x4 => 1
  | .i16x2 | .n16x2 => 2
  | .i64 | .n64 => 8
  | _ => 4

/-- A vector form and its register index (17 R404). -/
def vecIdxOk (t : LType) (cnt : Nat) (idx : BitVec 8) : Bool :=
  let n := cnt * t.memSize / 4
  if n ≤ 1 then true
  else if n = 2 then evenPair idx
  else idx.toNat % 4 == 0 && idx.toNat ≤ 248

def vecOk (t : LType) (cnt : Nat) : Bool :=
  match t.memSize, cnt with
  | 4, 1 | 4, 2 | 4, 4 | 8, 1 | 8, 2 | 1, 1 | 2, 1 => true
  | _, _ => false

/-- Destination of a load; v255 discards (log entry 18). -/
def loadDst (o : LaneOp) (allowG : Bool) : Bool :=
  match o.dst with
  | .v idx => idx == 255 || vecIdxOk o.ty (vecCount o) idx
  | .g idx => allowG && idx.toNat + vecCount o ≤ 128
  | _ => false

/-- Data of a store, in space v or g (17 R406, R407). -/
def storeSrc (o : LaneOp) : Bool :=
  match o.c with
  | .v idx last => vecIdxOk o.ty (vecCount o) idx && (!last || idx != 255)
  | .g idx => idx.toNat + vecCount o ≤ 128
  | _ => false

/-- MOD[5:2] of `ld`, `ldu`, `st` (17 R405). -/
def orderOk (o : LaneOp) : Bool :=
  let sc := (o.md.extractLsb' 2 3).toNat
  if o.md.getLsbD 5 then sc ≤ 4 else sc == 0

/-- What every memory form shares. -/
def memRow (o : LaneOp) (tys : List LType) : Bool :=
  tys.contains o.ty && addrOk o && !o.k

/-- MOD[5:3] of `atom`, `cas`, `cas2` (17 R412). -/
def atomOrderOk (o : LaneOp) : Bool := (o.md.extractLsb' 3 3).toNat ≤ 5

/-- Operation and type of `atom` and `atoms` (17 R411). -/
def atomOpOk (o : LaneOp) : Bool :=
  match (o.md.extractLsb' 0 3).toNat with
  | 0 | 1 => true
  | 2 | 3 | 4 => o.ty != .f32
  | 5 | 6 => o.ty != .b32
  | _ => false

/-- Operand slot C of an atomic: v or g; a pair for 64 bits. -/
def atomSrc (o : LaneOp) : Bool := slotOk .vg o.ty o.c

/-- `cas2`: D and C name four registers each (17 R406). -/
def wfCas2 (o : LaneOp) : Bool :=
  memRow o [.n64] && atomOrderOk o && o.md &&& 0x07 == 0 &&
  (match o.dst with
   | .v idx => idx.toNat % 4 == 0 && idx.toNat ≤ 248
   | _ => false) &&
  (match o.c with
   | .v idx _ => idx.toNat % 4 == 0 && idx.toNat ≤ 248
   | _ => false)

/-- Scope and kind of a lane fence (17 R414). -/
def wfFence (o : LaneOp) : Bool :=
  laneRow o [.none] .none .no .no .no 0x1F .zero false && o.unguarded &&
  (o.md.extractLsb' 0 2) != 0 && (o.md.extractLsb' 2 3).toNat ≤ 4

def wfSts (o : LaneOp) (arm : Bool) : Bool :=
  memRow o tysMem && vecOk o.ty (vecCount o) && storeSrc o && o.md &&& 0x38 == 0 && o.md.getLsbD 2 == arm &&
  (match o.dst with
   | .none => !arm
   | .g _ => arm
   | _ => false)

/-! ### Cross-lane rows -/

/-- Operation codes of `redsq` and `scansq` by type (16 R391). -/
def redOpOk (o : LaneOp) : Bool :=
  let op := (o.md.extractLsb' 0 3).toNat
  match o.ty with
  | .f32 => op ≤ 2
  | .b32 => 3 ≤ op && op ≤ 5
  | _ => op ≤ 5

/-- Literal index of `rdsp` (14 R332). -/
def wfRdsp (o : LaneOp) : Bool :=
  laneRow o [.none] .vg .gl .no .no 0 .lit false && o.a.isLit && o.imm.toNat < 18

def wfVote (o : LaneOp) : Bool :=
  let mode := (o.md.extractLsb' 0 2).toNat
  if mode == 0 then laneRow o [.none] .vg .no .no .no 0x3C .lit true
  else if mode == 3 then laneRow o [.b32] .p .any .no .no 0x03 .lit true
  else laneRow o [.none] .p .no .no .no 0x3F .lit true

/-- `movk`: word 2 is one immediate, so `IMM24`, `MOD`, `FS` and `CL` are bits of it (14 R313, 16 R392). -/
def wfMovk (o : LaneOp) : Bool :=
  [LType.b32, .f32, .i64, .n64].contains o.ty && dstOk .vg o.ty o.dst && o.a.unused && o.b.unused && !o.k &&
  (match o.c with
   | .v idx _ => idx == 255
   | _ => false)

/-- Lane control registers: number and width (14 R330, 17 R430). -/
def laneCsrOk (o : LaneOp) : Bool :=
  if o.imm.toNat < 8 then (if o.imm.toNat == 4 then o.ty == .n64 else o.ty == .b32) else false

def csrDst (o : LaneOp) : Bool := dstOk .vg o.ty o.dst

/-! ### Matrix and engine rows -/

/-- Eight registers from a multiple of 8, at most v240 (18 R436). -/
def eightRegs (idx : BitVec 8) : Bool := idx.toNat % 8 == 0 && idx.toNat ≤ 240

def evenTile (o : LaneOp) : Bool :=
  match o.dst with
  | .sp n => n.toNat % 2 == 0
  | _ => false

def oddTile (o : LaneOp) : Bool :=
  match o.dst with
  | .sp n => n.toNat % 2 == 1
  | _ => false

/-- `mma` (18 R436 to R438). -/
def wfMma (o : LaneOp) : Bool :=
  tysMma.contains o.ty && dstOk .m o.ty o.dst && o.b.isG && o.md &&& 0x3E == 0 &&
  (match o.a with
   | .v idx last =>
     (idx == 255 && !last) || (idx.toNat % 8 == 0 && idx.toNat + o.ty.aRegs ≤ 255)
   | _ => false) &&
  (match o.c with
   | .v idx last => (!last || idx != 255) &&
     (if o.a.unused || !o.ty.isMx then idx == 255 else idx != 255)
   | _ => false) &&
  (!o.md.getLsbD 0 || (!o.ty.accInt && evenTile o))

def wfMml (o : LaneOp) : Bool :=
  laneRow o tysMma .m .g .g .g 0x01 (.low 13) true && 1 ≤ o.imm.toNat && o.imm.toNat ≤ 4096 &&
  (!o.md.getLsbD 0 || (!o.ty.accInt && evenTile o))

def wfMmz (o : LaneOp) : Bool :=
  laneRow o [.f32, .i32, .afp] .m .no .no .no 0 .zero true && (o.ty != .afp || evenTile o)

def wfMmld (o : LaneOp) : Bool :=
  laneRow o [.f32, .i32, .afp] .m .g .no .no 0x01 .full true && (o.ty != .afp || evenTile o)

def wfMmst (o : LaneOp) : Bool :=
  laneRow o [.f32, .bf16x2, .i32, .afp] .m .g .no .no 0x01 .full true && (o.ty != .afp || evenTile o)

def wfMmrd (o : LaneOp) : Bool :=
  laneRow o [.f32, .i32] .v .no .no .no 0 (.low 6) true &&
  (match o.dst with
   | .v idx => eightRegs idx
   | _ => false)

def wfMmwr (o : LaneOp) : Bool :=
  laneRow o [.f32, .i32] .m .v .no .no 0x03 (.low 2) true &&
  (match o.a with
   | .v idx _ => eightRegs idx
   | _ => false) &&
  (match (o.md.extractLsb' 0 2).toNat with
   | 0 => true
   | 2 => evenTile o && o.ty == .f32
   | 3 => oddTile o && o.ty == .f32
   | _ => false)

def wfPfxh (o : LaneOp) : Bool :=
  laneRow o [.i32] .v .vg .vg .gl 0x07 .lit true

def wfPfxhClr (o : LaneOp) : Bool :=
  laneRow o [.i32] .none .no .no .gl 0x08 .lit true && o.md == 8

/-- `cpy`, `cpys` (18 R449). -/
def wfCopy (o : LaneOp) (s : Bool) : Bool :=
  let dir := (o.md.extractLsb' 0 2).toNat
  let arm := o.md.getLsbD 2
  laneRow o [.none] .none .g .g .g 0x3F (.low 19) true && (o.md.extractLsb' 3 3).toNat ≤ 4 &&
  (arm || o.imm.toNat / 2048 == 0) && (o.imm.getLsbD 10 || o.imm.toNat % 1024 == 0) &&
  (if s then dir == 0 && o.imm.toNat % 2048 == 0
   else dir ≤ 2 && (!arm || dir == 0) && (!o.imm.getLsbD 10 || dir != 1))

/-! ### Control rows -/

/-- `call`: direct or, with MOD[0], through A (17 R420). -/
def wfCall (o : LaneOp) : Bool :=
  (if o.md.getLsbD 0 then laneRow o [.none] .v .vg32 .no .no 0x01 .zero false
   else laneRow o [.none] .v .no .no .no 0x01 .full false) && o.unguarded

/-- `tret` (13 R296): the last word of its volley, with every other field zero. -/
def wfTret (o : LaneOp) (skip : Bool) : Bool :=
  laneRow o [.none] .none .no .no .no 0x01 .zero false && o.unguarded && o.e && o.md.getLsbD 0 == skip

/-- `qpush`, `qpop` (17 R420): without `.try`, MOD[3:1] is zero. -/
def wfQ (o : LaneOp) (push tryF : Bool) : Bool :=
  laneRow o [.none] (if push then .none else .v) .gl (if push then .v else .no) .no 0x0F .lit true &&
  o.md.getLsbD 0 == tryF && (tryF || o.md == 0)

/-- Spine control-register numbers (14 R330). -/
def spineCsrOk (i : BitVec 8) : Bool := 0x80 ≤ i.toNat && i.toNat ≤ 0x86

/-- Well-formed instructions: those that an encoding can hold. A step of the device has no encoding and is always
well-formed. -/
def Instr.wf (i : Instr) : Bool :=
  match i with
  | .powerOnReset => true
  | .orderlyHostReset => true
  | .hotReset => true
  | .vfFunctionLevelReset => true
  | .thermalTrip => true
  | .throttle => true
  | .boost => true
  | .wipeComplete => true
  | .pcieConfigurationRequest => true
  | .firmwareUpdate => true
  | .vendorProvisioning => true
  | .ownerDebug => true
  | .ownerReturnToSummer => true
  | .decommission => true
  | .correctedError => true
  | .uncorrectableError => true
  | .cacheSoftError => true
  | .cxlExtentAdd => true
  | .cxlExtentRelease => true
  | .cxlLinkLoss => true
  | .writeCombiningDrainTimeout => true
  | .snoopRequest => true
  | .announcementAccept => true
  | .announcementDelivery => true
  | .readMissFill => true
  | .ownershipGrant => true
  | .writeBack => true
  | .directoryRecall => true
  | .directoryEviction => true
  | .rdcEviction => true
  | .homeMapWalk => true
  | .pageTableWalk => true
  | .homeRequest => true
  | .staleResponse => true
  | .faultRecordPost => true
  | .hold => true
  | .release => true
  | .flushasid => true
  | .movehold => true
  | .movedone => true
  | .hminv => true
  | .homeCommandDone => true
  | .freplayReplay => true
  | .freplayUnresolvable => true
  | .registerWrite => true
  | .svcerrRead => true
  | .klstatRead => true
  | .pcieHostRead => true
  | .pcieHostWrite => true
  | .pcieAtomicop => true
  | .klHostRead => true
  | .klHostWrite => true
  | .klHostAtomic => true
  | .hostRecallResponse => true
  | .klLinkUp => true
  | .klLinkDown => true
  | .notify => true
  | .notifyTakeEffect => true
  | .atsInvalidation => true
  | .hostRefusedTranslation => true
  | .pageRequestResponse => true
  | .remoteHomeResponse => true
  | .peerRequest => true
  | .vplTimeout => true
  | .vplPortDown => true
  | .vplLinkUp => true
  | .codecRequestAccept => true
  | .pageCompression => true
  | .compressedPageRead => true
  | .ecbDecode => true
  | .mxAliasRead => true
  | .mxAliasWrite => true
  | .pfenceComplete => true
  | .mgmttailWrite => true
  | .mgmtrheadWrite => true
  | .svpwdtWrite => true
  | .launchCommand => true
  | .ctxnew => true
  | .ctxfree => true
  | .place => true
  | .pwrlimit => true
  | .attest => true
  | .heatscan => true
  | .record => true
  | .ctxcfgQueues => true
  | .ctxcfgPeers => true
  | .ctxcfgSvqmap => true
  | .deviceQueuePush => true
  | .queueCommit => true
  | .svpWatchdogExpiry => true
  | .svpStateError => true
  | .rcvLockstepMismatch => true
  | .recovery => true
  | .recoveryRestart => true
  | .launchTake => true
  | .teamPlace => true
  | .teamRetire => true
  | .issueSlotSelect => true
  | .sliceExpiry => true
  | .dugoutSwap => true
  | .shadowFillComplete => true
  | .shadowDrainComplete => true
  | .matrixPassGrant => true
  | .forwardProgressExpiry => true
  | .registerGrowExpiry => true
  | .teamSpillComplete => true
  | .migrationComplete => true
  | .dieFailure => true
  | .teamLost => true
  | .resultLanding => true
  | .threadEjection => true
  | .formerGroupTimeout => true
  | .squadForm => true
  | .matrixStepComplete => true
  | .transferPortComplete => true
  | .engineHang => true
  | .engineReset => true
  | .trapEntry => true
  | .deferredTrapDelivery => true
  | .copyComplete => true
  | .credArrival => true
  | .credDeadline => true
  | .credLostTimeout => true
  | .napTimeout => true
  | .hostSnoop => true
  | .cxlLinkUp => true
  | .add o => laneRow o tysInt .vg .any .any .no 0x01 .lit false
  | .sub o => laneRow o tysInt .vg .any .any .no 0x01 .lit false
  | .addx o => laneRow o [.n32] .vg .any .any .any 0x01 .lit false
  | .mul o => laneRow o [.i32, .n32, .i16x2, .n16x2, .i64, .n64] .vg .any .any .no 0x00 .lit false
  | .mulhi o => laneRow o [.i32, .n32] .vg .any .any .no 0x00 .lit false
  | .mad o => laneRow o [.i32, .n32, .i16x2, .n16x2] .vg .any .any .any 0x00 .lit false
  | .madw o => laneRow o [.i64, .n64] .vg .w32 .w32 .any 0x00 .lit false
  | .min o => laneRow o tysInt .vg .any .any .no 0x00 .lit false
  | .max o => laneRow o tysInt .vg .any .any .no 0x00 .lit false
  | .abs o => laneRow o [.i32, .i16x2, .i8x4, .i64] .vg .any .no .no 0x01 .lit false
  | .lea o => laneRow o [.n64] .vg .any .w32 .no 0x0F .lit false
  | .icmp o => laneRow o [.i32, .n32, .i64, .n64] .p .any .any .no 0x07 .lit false && (o.md.extractLsb' 0 3).toNat ≤ 5
  | .sel o => laneRow o [.b32, .n64] .vg .any .any .no 0x0F .lit false
  | .and o => laneRow o [.b32, .n64] .vg .any .any .no 0x00 .lit false
  | .or o => laneRow o [.b32, .n64] .vg .any .any .no 0x00 .lit false
  | .xor o => laneRow o [.b32, .n64] .vg .any .any .no 0x00 .lit false
  | .andn o => laneRow o [.b32, .n64] .vg .any .any .no 0x00 .lit false
  | .lut3 o => laneRow o [.b32] .vg .any .any .any 0x00 (.low 8) false
  | .shl o => laneRow o tysShift .vg .any .w32 .no 0x00 .lit false
  | .shr o => laneRow o tysShift .vg .any .w32 .no 0x00 .lit false
  | .sar o => laneRow o tysShift .vg .any .w32 .no 0x00 .lit false
  | .shf o => laneRow o [.b32] .vg .any .any .any 0x01 .lit false
  | .bfe o => laneRow o [.i32, .n32] .vg .any .any .no 0x00 .lit false
  | .bfi o => laneRow o [.b32] .vg .any .any .any 0x00 .lit false
  | .popc o => laneRow o [.b32] .vg .any .no .no 0x00 .lit false
  | .clz o => laneRow o [.b32] .vg .any .no .no 0x00 .lit false
  | .brev o => laneRow o [.b32] .vg .any .no .no 0x00 .lit false
  | .fadd o => laneRow o tysF .vg .any .any .no 0x3B .lit false
  | .fsub o => laneRow o tysF .vg .any .any .no 0x3B .lit false
  | .fmul o => laneRow o tysF .vg .any .any .no 0x3B .lit false
  | .ffma o => laneRow o tysF .vg .any .any .any 0x3F .lit false
  | .fmin o => laneRow o tysF .vg .any .any .no 0x0B .lit false
  | .fmax o => laneRow o tysF .vg .any .any .no 0x0B .lit false
  | .fcmp o => laneRow o [.f32] .p .any .any .no 0x3F .lit false
  | .frnd o => laneRow o tysF .vg .any .no .no 0x39 .lit false
  | .fclass o => laneRow o [.f32] .vg .any .no .no 0x00 .lit false
  | .fscale o => laneRow o [.f32] .vg .any .any .no 0x39 .lit false
  | .cvt o => wfCvt o
  | .pack2 o => wfPack2 o
  | .pack4 o => wfPack4 o
  | .dot4 o => laneRow o [.i8x4, .n8x4] .vg .any .any .any 0x00 .lit false
  | .dot8 o => laneRow o [.i4x8, .n4x8] .vg .any .any .any 0x00 .lit false
  | .dotf4 o => laneRow o [.e4m3x4, .e5m2x4, .e3m2x4, .e2m3x4] .vg .any .any .any 0x30 .lit false
  | .dotf8 o => laneRow o [.e2m1x8] .vg .any .any .any 0x30 .lit false
  | .rcp o => laneRow o tysF .vg .any .no .no 0x39 .lit true
  | .rsq o => laneRow o tysF .vg .any .no .no 0x39 .lit true
  | .sqrt o => laneRow o tysF .vg .any .no .no 0x39 .lit true
  | .exp2 o => laneRow o tysF .vg .any .no .no 0x39 .lit true
  | .log2 o => laneRow o tysF .vg .any .no .no 0x39 .lit true
  | .sin o => laneRow o tysF .vg .any .no .no 0x39 .lit true
  | .cos o => laneRow o tysF .vg .any .no .no 0x39 .lit true
  | .tanh o => laneRow o tysF .vg .any .no .no 0x39 .lit true
  | .sigm o => laneRow o tysF .vg .any .no .no 0x39 .lit true
  | .mxscale o => laneRow o [.f32, .i32] .vg .any .any .any 0x1F .lit false && (!o.md.getLsbD 4 || (o.c.unused && o.md.extractLsb' 2 2 == 0))
  | .mov o => laneRow o [.b32, .i64, .n64, .afp] .vg .any .no .no 0x00 .lit false
  | .movk o => wfMovk o
  | .shfl o => laneRow o [.b32, .i64, .n64] .v .any .w32 .no 0x1F .lit true && (o.md.extractLsb' 2 3).toNat ≤ 5
  | .vote o => wfVote o
  | .redsq o => laneRow o tysAtom .vg .any .no .no 0x07 .lit true && redOpOk o
  | .scansq o => laneRow o tysAtom .v .any .no .no 0x0F .lit true && redOpOk o
  | .elect o => laneRow o [.none] .p .no .no .no 0x00 .zero false
  | .rdsp o => wfRdsp o
  | .emget o => laneRow o [.b32] .vg .no .no .no 0x00 .zero false
  | .emset o => laneRow o [.b32] .none .gl .no .no 0x00 .lit false && o.unguarded
  | .pget o => laneRow o [.b32] .vg .no .no .no 0x07 .zero false
  | .pset o => laneRow o [.b32] .p .any .no .no 0x00 .lit false
  | .hput o => laneRow o tysAtom .h .vg .no .no 0x00 (.low 8) false && 1 ≤ o.imm.toNat
  | .hacc o => laneRow o [.i32, .n32, .f32, .i64, .n64] .h .vg .no .no 0x07 (.low 11) true && (o.md.extractLsb' 0 3).toNat ≤ 4 && 1 ≤ o.imm.toNat && o.imm.toNat ≤ 1024
  | .hstat o => laneRow o [.b32] .vg .h .no .no 0x00 .zero true
  | .hget o => laneRow o [.b32, .i64, .n64] .vg .h .no .no 0x00 .zero true
  | .ld o => memRow o tysMem && vecOk o.ty (vecCount o) && o.c.unused && loadDst o false && orderOk o
  | .st o => memRow o tysMem && vecOk o.ty (vecCount o) && storeSrc o && o.dst == .none && orderOk o
  | .ldu o => memRow o tysMem && vecOk o.ty (vecCount o) && o.a.isG && o.b.unused && o.c.unused && loadDst o true && orderOk o
  | .prf o => memRow o [.none] && o.c.unused && o.dst == .none && o.md &&& 0x3E == 0 && !o.fs
  | .ldcf o => memRow o tysMem && vecOk o.ty (vecCount o) && o.c.isG && loadDst o false && o.md &&& 0x3C == 0
  | .ldc o => memRow o tysMem && vecOk o.ty (vecCount o) && o.c.unused && loadDst o false && o.md &&& 0x3C == 0
  | .atom o => memRow o tysAtom && atomSrc o && dstOk .v o.ty o.dst && atomOpOk o && atomOrderOk o
  | .cas o => memRow o [.i32, .n32, .b32, .i64, .n64] && atomSrc o && dstOk .v o.ty o.dst && atomOrderOk o && o.md &&& 0x07 == 0
  | .cas2 o => wfCas2 o
  | .fence o => wfFence o
  | .pfence o => laneRow o [.none] .none .no .no .no 0x3F .zero false && o.md == 0x13 && o.unguarded
  | .loc o => memRow o [.b32] && o.c.unused && dstOk .vg o.ty o.dst && o.md == 0
  | .lds o => memRow o tysMem && vecOk o.ty (vecCount o) && o.c.unused && loadDst o false && o.md &&& 0x3C == 0
  | .sts o => wfSts o false
  | .stsArm o => wfSts o true
  | .atoms o => memRow o tysAtom && atomSrc o && dstOk .v o.ty o.dst && atomOpOk o && o.md &&& 0x38 == 0
  | .ldsc o => memRow o tysMem && vecOk o.ty (vecCount o) && o.c.unused && loadDst o false && o.md &&& 0x3C == 0
  | .lsarm o => laneRow o [.none] .none .g .no .g 0x00 .full true
  | .lsstat o => memRow o [.b32] && o.c.unused && dstOk .vg o.ty o.dst && o.md == 0
  | .cpy o => wfCopy o false
  | .cpys o => wfCopy o true
  | .cred o => laneRow o [.none] .vg .g .no .no 0x00 .zero true && o.dst.isG
  | .mma o => wfMma o
  | .mml o => wfMml o
  | .mmz o => wfMmz o
  | .mmld o => wfMmld o
  | .mmst o => wfMmst o
  | .mmrd o => wfMmrd o
  | .mmwr o => wfMmwr o
  | .scan o => laneRow o [.afp] .m .g .no .no 0x00 (.low 3) true && evenTile o
  | .cset o => laneRow o [.afp] .none .any .no .no 0x00 (.low 3) true && o.a.isV
  | .csetId o => laneRow o [.afp] .none .no .no .no 0x01 (.low 3) true && o.md == 1
  | .cget o => laneRow o [.afp] .v .no .no .no 0x00 (.low 3) true && o.dst != .v 255
  | .tstat o => laneRow o [.b32] .vg .gl .no .no 0x0F .lit true
  | .tiset o => laneRow o [.none] .none .gl .v .no 0x00 .lit true
  | .tiget o => laneRow o [.none] .v .gl .no .no 0x00 .lit true
  | .pfxh o => wfPfxh o
  | .pfxhClr o => wfPfxhClr o
  | .bra o => laneRow o [.none] .none .no .no .no 0x00 .full false
  | .bru o => laneRow o [.none] .none .no .no .no 0x00 .full false
  | .jmp o => laneRow o [.none] .none .vg32 .no .no 0x00 .zero false && o.unguarded
  | .call o => wfCall o
  | .ret o => laneRow o [.none] .none .vg32 .no .no 0x00 .zero false && o.unguarded
  | .rejoin o => laneRow o [.none] .none .no .no .no 0x00 .zero false && o.unguarded
  | .rejoinS o => laneRow o [.none] .none .no .no .no 0x01 .zero false && o.md == 1 && o.unguarded
  | .exit o => laneRow o [.none] .none .no .no .no 0x00 .zero false
  | .yield o => laneRow o [.none] .none .g .no .no 0x00 .full false && o.unguarded
  | .bar o => laneRow o [.none] .none .no .no .no 0x00 .zero false
  | .barar o => laneRow o [.none] .none .no .no .no 0x00 .zero false
  | .barwt o => laneRow o [.none] .none .no .no .no 0x00 .zero false
  | .nap o => laneRow o [.none] .none .gl .no .no 0x00 .lit false
  | .launch o => laneRow o [.none] .none .g .g .no 0x00 .zero true
  | .qpush o => wfQ o true false
  | .qpushTry o => wfQ o true true
  | .qpop o => wfQ o false false
  | .qpopTry o => wfQ o false true
  | .tmig o => laneRow o [.none] .p .g .no .no 0x00 .zero true
  | .csrr o => laneRow o [.b32, .n64] .vg .no .no .no 0x00 (.low 8) true && laneCsrOk o
  | .csrw o => laneRow o [.b32, .n64] .none .vg .no .no 0x00 (.low 8) false && laneCsrOk o
  | .trap o => laneRow o [.none] .none .no .no .no 0x00 .full false
  | .brk o => laneRow o [.none] .none .no .no .no 0x00 .full false
  | .tretRetry o => wfTret o false
  | .tretSkip o => wfTret o true
  | .nop o => laneRow o [.none] .none .no .no .no 0x00 .zero false
  | .rdclk o => laneRow o [.n64] .vg .no .no .no 0x00 .zero true
  | .rand o => laneRow o [.b32, .n64] .vg .no .no .no 0x00 .zero true
  | .spineAdd _ _ _ _ => true
  | .spineSub _ _ _ _ => true
  | .spineAnd _ _ _ _ => true
  | .spineOr _ _ _ _ => true
  | .spineXor _ _ _ _ => true
  | .spineAndn _ _ _ _ => true
  | .spineShl _ _ _ _ => true
  | .spineShr _ _ _ _ => true
  | .spineSar _ _ _ _ => true
  | .spineMul _ _ _ _ => true
  | .spineMulh _ _ _ _ => true
  | .spineMulhn _ _ _ _ => true
  | .spineDiv _ _ _ _ => true
  | .spineDivn _ _ _ _ => true
  | .spineRem _ _ _ _ => true
  | .spineRemn _ _ _ _ => true
  | .spineMin _ _ _ _ => true
  | .spineMax _ _ _ _ => true
  | .spineMinn _ _ _ _ => true
  | .spineMaxn _ _ _ _ => true
  | .spineSlt _ _ _ _ => true
  | .spineSltn _ _ _ _ => true
  | .spineClz _ _ _ => true
  | .spineCtz _ _ _ => true
  | .spinePopc _ _ _ => true
  | .spineBrev _ _ _ => true
  | .addi _ _ _ => true
  | .andi _ _ _ => true
  | .ori _ _ _ => true
  | .xori _ _ _ => true
  | .shli _ _ _ => true
  | .shri _ _ _ => true
  | .sari _ _ _ => true
  | .slti _ _ _ => true
  | .sltni _ _ _ => true
  | .movu _ _ => true
  | .addpc _ _ => true
  | .spineFadd _ _ _ _ => true
  | .spineFsub _ _ _ _ => true
  | .spineFmul _ _ _ _ => true
  | .spineFdiv _ _ _ _ => true
  | .spineFsqrt _ _ _ => true
  | .spineFmin _ _ _ _ => true
  | .spineFmax _ _ _ _ => true
  | .spineFeq _ _ _ _ => true
  | .spineFlt _ _ _ _ => true
  | .spineFle _ _ _ _ => true
  | .spineFcvt c _ _ => c.toNat ≤ 0x13
  | .spineFfma _ _ _ _ => true
  | .spineFfmaS _ _ _ _ => true
  | .spineFfms _ _ _ _ => true
  | .spineFfmsS _ _ _ _ => true
  | .spineFnfma _ _ _ _ => true
  | .spineFnfmaS _ _ _ _ => true
  | .spineFnfms _ _ _ _ => true
  | .spineFnfmsS _ _ _ _ => true
  | .spineLd _ x z _ _ => z.toNat ≤ 3 && (z != 3 || !x)
  | .spineSt _ z _ _ => z.toNat ≤ 3
  | .amoSwap _ o _ _ _ => o.toNat ≤ 5
  | .amoAdd _ o _ _ _ => o.toNat ≤ 5
  | .amoAnd _ o _ _ _ => o.toNat ≤ 5
  | .amoOr _ o _ _ _ => o.toNat ≤ 5
  | .amoXor _ o _ _ _ => o.toNat ≤ 5
  | .amoMin _ o _ _ _ => o.toNat ≤ 5
  | .amoMax _ o _ _ _ => o.toNat ≤ 5
  | .amoMinn _ o _ _ _ => o.toNat ≤ 5
  | .amoMaxn _ o _ _ _ => o.toNat ≤ 5
  | .spineCas _ o _ _ _ => o.toNat ≤ 5
  | .spineCas2 o b _ d => o.toNat ≤ 5 && !b.getLsbD 0 && !d.getLsbD 0
  | .lda _ o _ _ => o.toNat ≤ 4
  | .stl _ o _ _ => o.toNat ≤ 4
  | .beq _ _ _ => true
  | .bne _ _ _ => true
  | .blt _ _ _ => true
  | .bge _ _ _ => true
  | .bltn _ _ _ => true
  | .bgen _ _ _ => true
  | .jl _ _ => true
  | .jlr _ _ _ => true
  | .spineFence k s => k != 0 && s.toNat ≤ 4
  | .spinePfence => true
  | .spineHput i _ _ => i.toNat < 64
  | .spineHget i _ => i.toNat < 64
  | .hpeek i _ => i.toNat < 64
  | .spineHacc i _ _ => i.toNat < 64
  | .hcfg i _ => i.toNat < 64
  | .spineCsrr i _ => spineCsrOk i
  | .spineCsrw i _ => spineCsrOk i
  | .spineExit => true
  | .svc c _ => c != 0
  | .spineBrk _ => true
  | .spineNap _ => true
  | .spineRdclk _ => true
  | .spineRand _ => true
  | .spineLoc _ _ => true
  | .spineLaunch _ _ => true
  | .spineCpy _ _ => true
  | .spineQpush _ _ => true
  | .spineQpushTry _ _ _ => true
  | .spineQpop _ _ => true
  | .spineQpopTry _ _ _ => true
  | .spineTiset _ _ => true

end Sys2Proof
end

