-- ==== Sys2Proof/Decode.lean ====
section
/-! DEFINITION. The decoder, total on any bytes, which rejects by name, and after it the encoder
(14 R313 to R329). A word that the decoder rejects traps `ILLOP` where it is executed. -/

namespace Sys2Proof

/-- Why a word is no instruction. -/
inductive DecodeError where
  /-- fewer bytes than the instruction is long -/
  | short
  /-- `MAJ` 0x00 (14 R328) -/
  | zeroMajor
  /-- an unlisted major opcode (14 R328) -/
  | reservedMajor
  /-- an unlisted minor code (14 R329) -/
  | reservedMinor
  /-- a nonzero field that the instruction does not use (14 R313, R326) -/
  | unusedField
  /-- a field outside its limit (15 R344, 16 R374) -/
  | operandLimit
  /-- a volley header in an instruction position (14 R320) -/
  | header
  /-- a reserved lane opcode (14 R324) -/
  | reservedOpcode
  /-- a slot index outside its space, or a last-use bit where none may stand (14 R314) -/
  | slot
  /-- a destination outside its space (14 R316) -/
  | destination
  /-- an unlisted `TYPE` code (14 R323) -/
  | typeCode
  deriving DecidableEq, Repr

/-! ### Bytes and words (00 R2: little-endian) -/

/-- The number that little-endian bytes hold. -/
def leNat : List Byte → Nat
  | [] => 0
  | b :: bs => b.toNat + 256 * leNat bs

/-- The low n bytes of a number, least significant first. -/
def leBytes : Nat → Nat → List Byte
  | 0, _ => []
  | n + 1, w => BitVec.ofNat 8 w :: leBytes n (w / 256)

/-! ### Spine words -/

def fD (w : Word) : BitVec 6 := w.extractLsb' 6 6
def fA (w : Word) : BitVec 6 := w.extractLsb' 12 6
def fB (w : Word) : BitVec 6 := w.extractLsb' 18 6
def fC (w : Word) : BitVec 6 := w.extractLsb' 24 6
def fW (w : Word) : Bool := w.getLsbD 31

/-- An unused field must be zero (14 R326). -/
def whenZero {n : Nat} (f : BitVec n) (i : Instr) : Except DecodeError Instr :=
  if f == 0 then .ok i else .error .unusedField

/-- `MAJ` 0x01: integer (14 R329). The unary forms require B = 0. -/
def decodeInt (w : Word) : Except DecodeError Instr :=
  let f := fW w
  match (w.extractLsb' 24 7).toNat with
  | 0x00 => .ok (.spineAdd f (fB w) (fA w) (fD w))
  | 0x01 => .ok (.spineSub f (fB w) (fA w) (fD w))
  | 0x02 => .ok (.spineAnd f (fB w) (fA w) (fD w))
  | 0x03 => .ok (.spineOr f (fB w) (fA w) (fD w))
  | 0x04 => .ok (.spineXor f (fB w) (fA w) (fD w))
  | 0x05 => .ok (.spineAndn f (fB w) (fA w) (fD w))
  | 0x06 => .ok (.spineShl f (fB w) (fA w) (fD w))
  | 0x07 => .ok (.spineShr f (fB w) (fA w) (fD w))
  | 0x08 => .ok (.spineSar f (fB w) (fA w) (fD w))
  | 0x09 => .ok (.spineMul f (fB w) (fA w) (fD w))
  | 0x0A => .ok (.spineMulh f (fB w) (fA w) (fD w))
  | 0x0B => .ok (.spineMulhn f (fB w) (fA w) (fD w))
  | 0x0C => .ok (.spineDiv f (fB w) (fA w) (fD w))
  | 0x0D => .ok (.spineDivn f (fB w) (fA w) (fD w))
  | 0x0E => .ok (.spineRem f (fB w) (fA w) (fD w))
  | 0x0F => .ok (.spineRemn f (fB w) (fA w) (fD w))
  | 0x10 => .ok (.spineMin f (fB w) (fA w) (fD w))
  | 0x11 => .ok (.spineMax f (fB w) (fA w) (fD w))
  | 0x12 => .ok (.spineMinn f (fB w) (fA w) (fD w))
  | 0x13 => .ok (.spineMaxn f (fB w) (fA w) (fD w))
  | 0x14 => .ok (.spineSlt f (fB w) (fA w) (fD w))
  | 0x15 => .ok (.spineSltn f (fB w) (fA w) (fD w))
  | 0x16 => whenZero (fB w) (.spineClz f (fA w) (fD w))
  | 0x17 => whenZero (fB w) (.spineCtz f (fA w) (fD w))
  | 0x18 => whenZero (fB w) (.spinePopc f (fA w) (fD w))
  | 0x19 => whenZero (fB w) (.spineBrev f (fA w) (fD w))
  | _ => .error .reservedMinor

/-- `MAJ` 0x0B: floating point (14 R329, 15 R348, R349). -/
def decodeFloat (w : Word) : Except DecodeError Instr :=
  let f := fW w
  match (w.extractLsb' 24 7).toNat with
  | 0x00 => .ok (.spineFadd f (fB w) (fA w) (fD w))
  | 0x01 => .ok (.spineFsub f (fB w) (fA w) (fD w))
  | 0x02 => .ok (.spineFmul f (fB w) (fA w) (fD w))
  | 0x03 => .ok (.spineFdiv f (fB w) (fA w) (fD w))
  | 0x04 => whenZero (fB w) (.spineFsqrt f (fA w) (fD w))
  | 0x05 => .ok (.spineFmin f (fB w) (fA w) (fD w))
  | 0x06 => .ok (.spineFmax f (fB w) (fA w) (fD w))
  | 0x07 => .ok (.spineFeq f (fB w) (fA w) (fD w))
  | 0x08 => .ok (.spineFlt f (fB w) (fA w) (fD w))
  | 0x09 => .ok (.spineFle f (fB w) (fA w) (fD w))
  | 0x0A => if f then .error .operandLimit else .ok (.spineFcvt (fB w) (fA w) (fD w))
  | _ => .error .reservedMinor

/-- `MAJ` 0x0C and 0x1C: fused multiply-add (15 R350). -/
def decodeFma (single : Bool) (w : Word) : Except DecodeError Instr :=
  let c := fC w
  let b := fB w
  let a := fA w
  let d := fD w
  match (w.extractLsb' 30 2).toNat with
  | 0 => .ok (if single then .spineFfmaS c b a d else .spineFfma c b a d)
  | 1 => .ok (if single then .spineFfmsS c b a d else .spineFfms c b a d)
  | 2 => .ok (if single then .spineFnfmaS c b a d else .spineFnfma c b a d)
  | _ => .ok (if single then .spineFnfmsS c b a d else .spineFnfms c b a d)

/-- `MAJ` 0x0F: atomics, acquiring loads and releasing stores (15 R352). -/
def decodeAtomic (w : Word) : Except DecodeError Instr :=
  let f := fW w
  let ord := w.extractLsb' 28 3
  match (w.extractLsb' 24 4).toNat with
  | 0x0 => .ok (.amoSwap f ord (fB w) (fA w) (fD w))
  | 0x1 => .ok (.amoAdd f ord (fB w) (fA w) (fD w))
  | 0x2 => .ok (.amoAnd f ord (fB w) (fA w) (fD w))
  | 0x3 => .ok (.amoOr f ord (fB w) (fA w) (fD w))
  | 0x4 => .ok (.amoXor f ord (fB w) (fA w) (fD w))
  | 0x5 => .ok (.amoMin f ord (fB w) (fA w) (fD w))
  | 0x6 => .ok (.amoMax f ord (fB w) (fA w) (fD w))
  | 0x7 => .ok (.amoMinn f ord (fB w) (fA w) (fD w))
  | 0x8 => .ok (.amoMaxn f ord (fB w) (fA w) (fD w))
  | 0x9 => .ok (.spineCas f ord (fB w) (fA w) (fD w))
  | 0xA => if f then .ok (.spineCas2 ord (fB w) (fA w) (fD w)) else .error .operandLimit
  | 0xB => whenZero (fB w) (.lda f ord (fA w) (fD w))
  | 0xC => whenZero (fD w) (.stl f ord (fB w) (fA w))
  | _ => .error .reservedMinor

/-- `MAJ` 0x06: shift-immediate (14 R329). -/
def decodeShiftImm (w : Word) : Except DecodeError Instr :=
  let n := w.extractLsb' 18 6
  if w.extractLsb' 24 6 != 0 then .error .unusedField
  else match (w.extractLsb' 30 2).toNat with
  | 0 => .ok (.shli n (fA w) (fD w))
  | 1 => .ok (.shri n (fA w) (fD w))
  | 2 => .ok (.sari n (fA w) (fD w))
  | _ => .error .reservedMinor

/-- `MAJ` 0x18: fences (15 R357). -/
def decodeFence (w : Word) : Except DecodeError Instr :=
  if w.extractLsb' 6 18 != 0 then .error .unusedField
  else match (w.extractLsb' 29 3).toNat with
  | 0 => .ok (.spineFence (w.extractLsb' 27 2) (w.extractLsb' 24 3))
  | 1 => if w.extractLsb' 24 5 == 0x1C then .ok .spinePfence else .error .operandLimit
  | _ => .error .reservedMinor

/-- `MAJ` 0x19: shared-register operations (15 R358). -/
def decodeShared (w : Word) : Except DecodeError Instr :=
  let i := w.extractLsb' 18 8
  match (w.extractLsb' 26 6).toNat with
  | 0x00 => .ok (.spineHput i (fA w) (fD w))
  | 0x01 => whenZero (fA w) (.spineHget i (fD w))
  | 0x02 => whenZero (fA w) (.hpeek i (fD w))
  | 0x03 => .ok (.spineHacc i (fA w) (fD w))
  | 0x04 => whenZero (fD w) (.hcfg i (fA w))
  | _ => .error .reservedMinor

/-- `MAJ` 0x1A: system operations (15 R362 to R367). Code 0 of `svc` ends the thread. -/
def decodeSystem (w : Word) : Except DecodeError Instr :=
  let i := w.extractLsb' 18 8
  match (w.extractLsb' 26 6).toNat with
  | 0x00 => whenZero (fA w) (.spineCsrr i (fD w))
  | 0x01 => whenZero (fD w) (.spineCsrw i (fA w))
  | 0x02 => if i == 0 then whenZero (fA w ++ fD w) .spineExit else whenZero (fD w) (.svc i (fA w))
  | 0x03 => whenZero (fA w ++ fD w) (.spineBrk i)
  | 0x04 => whenZero (i ++ fD w) (.spineNap (fA w))
  | 0x05 => whenZero (i ++ fA w) (.spineRdclk (fD w))
  | 0x06 => whenZero (i ++ fA w) (.spineRand (fD w))
  | 0x07 => whenZero i (.spineLoc (fA w) (fD w))
  | _ => .error .reservedMinor

/-- `MAJ` 0x1B: engine operations (15 R368). -/
def decodeEngine (w : Word) : Except DecodeError Instr :=
  match (w.extractLsb' 24 8).toNat with
  | 0x00 => whenZero (fD w) (.spineLaunch (fB w) (fA w))
  | 0x01 => whenZero (fD w) (.spineCpy (fB w) (fA w))
  | 0x02 => whenZero (fD w) (.spineQpush (fB w) (fA w))
  | 0x03 => .ok (.spineQpushTry (fB w) (fA w) (fD w))
  | 0x04 => whenZero (fD w) (.spineQpop (fB w) (fA w))
  | 0x05 => .ok (.spineQpopTry (fB w) (fA w) (fD w))
  | 0x06 => whenZero (fD w) (.spineTiset (fB w) (fA w))
  | _ => .error .reservedMinor

/-- The fields of a spine word by its major opcode (14 R328), before the limits of `Instr.wf`. -/
def decodeSpineFields (w : Word) : Except DecodeError Instr :=
  let i14 := w.extractLsb' 18 14
  let i20 := w.extractLsb' 12 20
  let a := fA w
  let d := fD w
  match (w.extractLsb' 0 6).toNat with
  | 0x00 => .error .zeroMajor
  | 0x01 => decodeInt w
  | 0x02 => .ok (.addi i14 a d)
  | 0x03 => .ok (.andi i14 a d)
  | 0x04 => .ok (.ori i14 a d)
  | 0x05 => .ok (.xori i14 a d)
  | 0x06 => decodeShiftImm w
  | 0x07 => .ok (.slti i14 a d)
  | 0x08 => .ok (.sltni i14 a d)
  | 0x09 => .ok (.movu i20 d)
  | 0x0A => .ok (.addpc i20 d)
  | 0x0B => decodeFloat w
  | 0x0C => decodeFma false w
  | 0x0D => .ok (.spineLd (w.extractLsb' 22 10) (w.getLsbD 21) (w.extractLsb' 18 3) a d)
  | 0x0E => if w.getLsbD 21 then .error .operandLimit
            else .ok (.spineSt (w.extractLsb' 22 10) (w.extractLsb' 18 3) a d)
  | 0x0F => decodeAtomic w
  | 0x10 => .ok (.beq i14 a d)
  | 0x11 => .ok (.bne i14 a d)
  | 0x12 => .ok (.blt i14 a d)
  | 0x13 => .ok (.bge i14 a d)
  | 0x14 => .ok (.bltn i14 a d)
  | 0x15 => .ok (.bgen i14 a d)
  | 0x16 => .ok (.jl i20 d)
  | 0x17 => .ok (.jlr i14 a d)
  | 0x18 => decodeFence w
  | 0x19 => decodeShared w
  | 0x1A => decodeSystem w
  | 0x1B => decodeEngine w
  | 0x1C => decodeFma true w
  | _ => .error .reservedMajor

/-- One spine word (14 R326 to R329). -/
def decodeSpine (w : Word) : Except DecodeError Instr :=
  match decodeSpineFields w with
  | .ok i => if i.wf then .ok i else .error .operandLimit
  | .error e => .error e

/-! ### Lane words -/

/-- A source slot: last use, space and index (14 R313, R314). -/
def Src.dec (f : BitVec 11) : Option Src :=
  let idx := f.extractLsb' 0 8
  let last := f.getLsbD 10
  match (f.extractLsb' 8 2).toNat with
  | 0 => some (.v idx last)
  | 1 => if last || idx.getLsbD 7 then none else some (.g (idx.extractLsb' 0 7))
  | 2 => if last || idx.extractLsb' 6 2 != 0 then none else some (.h (idx.extractLsb' 0 6))
  | _ => if last || idx != 0 then none else some .lit

/-- A destination: `DS` and `D` (14 R316). -/
def Dst.dec (f : BitVec 10) : Option Dst :=
  let idx := f.extractLsb' 0 8
  match (f.extractLsb' 8 2).toNat with
  | 0 => some (.v idx)
  | 1 => if idx.getLsbD 7 then Option.none else some (.g (idx.extractLsb' 0 7))
  | 2 => some (.sp idx)
  | _ => if idx != 0 then Option.none else some .none

/-- The fields of a lane word (14 R313). -/
def laneFields (w : BitVec 96) : Except DecodeError LaneOp :=
  match LType.ofCode (w.extractLsb' 10 6), Dst.dec (w.extractLsb' 16 10), Src.dec (w.extractLsb' 32 11),
      Src.dec (w.extractLsb' 43 11), Src.dec (w.extractLsb' 54 11) with
  | some ty, some dst, some a, some b, some c =>
    .ok { gn := w.getLsbD 31, gp := w.extractLsb' 28 3, k := w.getLsbD 27, e := w.getLsbD 26, dst := dst, ty := ty,
          a := a, b := b, c := c, imm := w.extractLsb' 72 24, md := w.extractLsb' 66 6, fs := w.getLsbD 65 }
  | none, _, _, _, _ => .error .typeCode
  | _, none, _, _, _ => .error .destination
  | _, _, _, _, _ => .error .slot

/-- The instruction of an opcode (14 R324); every reserved opcode has none. Rows of one opcode are told apart by a
bit of `MOD`. -/
def laneMk (opc : BitVec 10) (o : LaneOp) : Option Instr :=
  match opc.toNat with
  | 0x001 => some (.add o)
  | 0x002 => some (.sub o)
  | 0x003 => some (.addx o)
  | 0x004 => some (.mul o)
  | 0x005 => some (.mulhi o)
  | 0x006 => some (.mad o)
  | 0x007 => some (.madw o)
  | 0x008 => some (.min o)
  | 0x009 => some (.max o)
  | 0x00A => some (.abs o)
  | 0x00B => some (.lea o)
  | 0x00C => some (.icmp o)
  | 0x00D => some (.sel o)
  | 0x00E => some (.and o)
  | 0x00F => some (.or o)
  | 0x010 => some (.xor o)
  | 0x011 => some (.andn o)
  | 0x012 => some (.lut3 o)
  | 0x013 => some (.shl o)
  | 0x014 => some (.shr o)
  | 0x015 => some (.sar o)
  | 0x016 => some (.shf o)
  | 0x017 => some (.bfe o)
  | 0x018 => some (.bfi o)
  | 0x019 => some (.popc o)
  | 0x01A => some (.clz o)
  | 0x01B => some (.brev o)
  | 0x080 => some (.fadd o)
  | 0x081 => some (.fsub o)
  | 0x082 => some (.fmul o)
  | 0x083 => some (.ffma o)
  | 0x084 => some (.fmin o)
  | 0x085 => some (.fmax o)
  | 0x086 => some (.fcmp o)
  | 0x087 => some (.frnd o)
  | 0x088 => some (.fclass o)
  | 0x089 => some (.fscale o)
  | 0x100 => some (.cvt o)
  | 0x101 => some (.pack2 o)
  | 0x102 => some (.pack4 o)
  | 0x103 => some (.dot4 o)
  | 0x104 => some (.dot8 o)
  | 0x105 => some (.dotf4 o)
  | 0x106 => some (.dotf8 o)
  | 0x107 => some (.rcp o)
  | 0x108 => some (.rsq o)
  | 0x109 => some (.sqrt o)
  | 0x10A => some (.exp2 o)
  | 0x10B => some (.log2 o)
  | 0x10C => some (.sin o)
  | 0x10D => some (.cos o)
  | 0x10E => some (.tanh o)
  | 0x10F => some (.sigm o)
  | 0x110 => some (.mxscale o)
  | 0x180 => some (.mov o)
  | 0x181 => some (.movk o)
  | 0x182 => some (.shfl o)
  | 0x183 => some (.vote o)
  | 0x184 => some (.redsq o)
  | 0x185 => some (.scansq o)
  | 0x186 => some (.elect o)
  | 0x187 => some (.rdsp o)
  | 0x188 => some (.emget o)
  | 0x189 => some (.emset o)
  | 0x18A => some (.pget o)
  | 0x18B => some (.pset o)
  | 0x18C => some (.hput o)
  | 0x18D => some (.hacc o)
  | 0x18E => some (.hstat o)
  | 0x18F => some (.hget o)
  | 0x200 => some (.ld o)
  | 0x201 => some (.st o)
  | 0x202 => some (.ldu o)
  | 0x203 => some (.prf o)
  | 0x204 => some (.ldcf o)
  | 0x205 => some (.ldc o)
  | 0x206 => some (.atom o)
  | 0x207 => some (.cas o)
  | 0x208 => some (.cas2 o)
  | 0x209 => some (.fence o)
  | 0x20A => some (.pfence o)
  | 0x20B => some (.loc o)
  | 0x280 => some (.lds o)
  | 0x281 => some (if o.md.getLsbD 2 then .stsArm o else .sts o)
  | 0x282 => some (.atoms o)
  | 0x283 => some (.ldsc o)
  | 0x284 => some (.lsarm o)
  | 0x285 => some (.lsstat o)
  | 0x286 => some (.cpy o)
  | 0x287 => some (.cpys o)
  | 0x288 => some (.cred o)
  | 0x300 => some (.mma o)
  | 0x301 => some (.mml o)
  | 0x302 => some (.mmz o)
  | 0x303 => some (.mmld o)
  | 0x304 => some (.mmst o)
  | 0x305 => some (.mmrd o)
  | 0x306 => some (.mmwr o)
  | 0x307 => some (.scan o)
  | 0x308 => some (if o.md.getLsbD 0 then .csetId o else .cset o)
  | 0x309 => some (.cget o)
  | 0x30A => some (.tstat o)
  | 0x30B => some (.tiset o)
  | 0x30C => some (.tiget o)
  | 0x30D => some (if o.md.getLsbD 3 then .pfxhClr o else .pfxh o)
  | 0x380 => some (.bra o)
  | 0x381 => some (.bru o)
  | 0x382 => some (.jmp o)
  | 0x383 => some (.call o)
  | 0x384 => some (.ret o)
  | 0x385 => some (if o.md.getLsbD 0 then .rejoinS o else .rejoin o)
  | 0x386 => some (.exit o)
  | 0x387 => some (.yield o)
  | 0x388 => some (.bar o)
  | 0x389 => some (.barar o)
  | 0x38A => some (.barwt o)
  | 0x38B => some (.nap o)
  | 0x38C => some (.launch o)
  | 0x38D => some (if o.md.getLsbD 0 then .qpushTry o else .qpush o)
  | 0x38E => some (if o.md.getLsbD 0 then .qpopTry o else .qpop o)
  | 0x38F => some (.tmig o)
  | 0x390 => some (.csrr o)
  | 0x391 => some (.csrw o)
  | 0x392 => some (.trap o)
  | 0x393 => some (.brk o)
  | 0x394 => some (if o.md.getLsbD 0 then .tretSkip o else .tretRetry o)
  | 0x395 => some (.nop o)
  | 0x396 => some (.rdclk o)
  | 0x397 => some (.rand o)
  | _ => none

/-- One lane word in an instruction position (14 R313 to R325). -/
def decodeLane (w : BitVec 96) : Except DecodeError Instr :=
  if w.extractLsb' 0 10 == 0 then .error .header
  else match laneFields w with
  | .error e => .error e
  | .ok o =>
    match laneMk (w.extractLsb' 0 10) o with
    | none => .error .reservedOpcode
    | some i => if i.wf then .ok i else .error .operandLimit

/-! ### Decoding bytes -/

/-- The next spine instruction of a byte list, and the rest. -/
def decodeSpineBytes (bs : List Byte) : Except DecodeError (Instr × List Byte) :=
  if bs.length < 4 then .error .short
  else match decodeSpine (BitVec.ofNat 32 (leNat (bs.take 4))) with
  | .ok i => .ok (i, bs.drop 4)
  | .error e => .error e

/-- The next lane instruction of a byte list, and the rest. -/
def decodeLaneBytes (bs : List Byte) : Except DecodeError (Instr × List Byte) :=
  if bs.length < 12 then .error .short
  else match decodeLane (BitVec.ofNat 96 (leNat (bs.take 12))) with
  | .ok i => .ok (i, bs.drop 12)
  | .error e => .error e

/-- The instruction of a table row's word: 32 bits are a spine word, 96 bits a lane word; the rows that are steps of
the device have no bits. -/
def decodeTableWord (nbits w : Nat) : Option Instr :=
  if nbits = 32 then
    match decodeSpineBytes (leBytes 4 w) with
    | .ok (i, _) => some i
    | .error _ => none
  else if nbits = 96 then
    match decodeLaneBytes (leBytes 12 w) with
    | .ok (i, _) => some i
    | .error _ => none
  else none

/-! ### The encoder -/

def fmtSR (fn : BitVec 8) (b a d maj : BitVec 6) : Word := fn ++ b ++ a ++ d ++ maj
def fmtS4 (fn2 : BitVec 2) (c b a d maj : BitVec 6) : Word := fn2 ++ c ++ b ++ a ++ d ++ maj
def fmtSI (i : BitVec 14) (a d maj : BitVec 6) : Word := i ++ a ++ d ++ maj
def fmtSU (i : BitVec 20) (d maj : BitVec 6) : Word := i ++ d ++ maj
/-- In SB the field [17:12] is B and [11:6] is A. -/
def fmtSB (i : BitVec 14) (b a maj : BitVec 6) : Word := i ++ b ++ a ++ maj
def fmtSM (i : BitVec 10) (x : Bool) (z : BitVec 3) (a d maj : BitVec 6) : Word :=
  i ++ BitVec.ofBool x ++ z ++ a ++ d ++ maj
def fmtSA (w : Bool) (ord : BitVec 3) (op : BitVec 4) (b a d : BitVec 6) : Word :=
  BitVec.ofBool w ++ ord ++ op ++ b ++ a ++ d ++ 0x0F#6
def fmtSH (fn : BitVec 6) (i : BitVec 8) (a d maj : BitVec 6) : Word := fn ++ i ++ a ++ d ++ maj

/-- The 32-bit word of a spine instruction (14 R326 to R329, 15). -/
def Instr.spineWord? (i : Instr) : Option Word :=
  match i with
  | .spineAdd w b a d => some (fmtSR (BitVec.ofBool w ++ 0x00#7) b a d 0x01)
  | .spineSub w b a d => some (fmtSR (BitVec.ofBool w ++ 0x01#7) b a d 0x01)
  | .spineAnd w b a d => some (fmtSR (BitVec.ofBool w ++ 0x02#7) b a d 0x01)
  | .spineOr w b a d => some (fmtSR (BitVec.ofBool w ++ 0x03#7) b a d 0x01)
  | .spineXor w b a d => some (fmtSR (BitVec.ofBool w ++ 0x04#7) b a d 0x01)
  | .spineAndn w b a d => some (fmtSR (BitVec.ofBool w ++ 0x05#7) b a d 0x01)
  | .spineShl w b a d => some (fmtSR (BitVec.ofBool w ++ 0x06#7) b a d 0x01)
  | .spineShr w b a d => some (fmtSR (BitVec.ofBool w ++ 0x07#7) b a d 0x01)
  | .spineSar w b a d => some (fmtSR (BitVec.ofBool w ++ 0x08#7) b a d 0x01)
  | .spineMul w b a d => some (fmtSR (BitVec.ofBool w ++ 0x09#7) b a d 0x01)
  | .spineMulh w b a d => some (fmtSR (BitVec.ofBool w ++ 0x0A#7) b a d 0x01)
  | .spineMulhn w b a d => some (fmtSR (BitVec.ofBool w ++ 0x0B#7) b a d 0x01)
  | .spineDiv w b a d => some (fmtSR (BitVec.ofBool w ++ 0x0C#7) b a d 0x01)
  | .spineDivn w b a d => some (fmtSR (BitVec.ofBool w ++ 0x0D#7) b a d 0x01)
  | .spineRem w b a d => some (fmtSR (BitVec.ofBool w ++ 0x0E#7) b a d 0x01)
  | .spineRemn w b a d => some (fmtSR (BitVec.ofBool w ++ 0x0F#7) b a d 0x01)
  | .spineMin w b a d => some (fmtSR (BitVec.ofBool w ++ 0x10#7) b a d 0x01)
  | .spineMax w b a d => some (fmtSR (BitVec.ofBool w ++ 0x11#7) b a d 0x01)
  | .spineMinn w b a d => some (fmtSR (BitVec.ofBool w ++ 0x12#7) b a d 0x01)
  | .spineMaxn w b a d => some (fmtSR (BitVec.ofBool w ++ 0x13#7) b a d 0x01)
  | .spineSlt w b a d => some (fmtSR (BitVec.ofBool w ++ 0x14#7) b a d 0x01)
  | .spineSltn w b a d => some (fmtSR (BitVec.ofBool w ++ 0x15#7) b a d 0x01)
  | .spineClz w a d => some (fmtSR (BitVec.ofBool w ++ 0x16#7) 0 a d 0x01)
  | .spineCtz w a d => some (fmtSR (BitVec.ofBool w ++ 0x17#7) 0 a d 0x01)
  | .spinePopc w a d => some (fmtSR (BitVec.ofBool w ++ 0x18#7) 0 a d 0x01)
  | .spineBrev w a d => some (fmtSR (BitVec.ofBool w ++ 0x19#7) 0 a d 0x01)
  | .addi i a d => some (fmtSI i a d 0x02)
  | .andi i a d => some (fmtSI i a d 0x03)
  | .ori i a d => some (fmtSI i a d 0x04)
  | .xori i a d => some (fmtSI i a d 0x05)
  | .shli n a d => some (fmtSI (0x0#2 ++ 0#6 ++ n) a d 0x06)
  | .shri n a d => some (fmtSI (0x1#2 ++ 0#6 ++ n) a d 0x06)
  | .sari n a d => some (fmtSI (0x2#2 ++ 0#6 ++ n) a d 0x06)
  | .slti i a d => some (fmtSI i a d 0x07)
  | .sltni i a d => some (fmtSI i a d 0x08)
  | .movu i d => some (fmtSU i d 0x09)
  | .addpc i d => some (fmtSU i d 0x0A)
  | .spineFadd p b a d => some (fmtSR (BitVec.ofBool p ++ 0x00#7) b a d 0x0B)
  | .spineFsub p b a d => some (fmtSR (BitVec.ofBool p ++ 0x01#7) b a d 0x0B)
  | .spineFmul p b a d => some (fmtSR (BitVec.ofBool p ++ 0x02#7) b a d 0x0B)
  | .spineFdiv p b a d => some (fmtSR (BitVec.ofBool p ++ 0x03#7) b a d 0x0B)
  | .spineFsqrt p a d => some (fmtSR (BitVec.ofBool p ++ 0x04#7) 0 a d 0x0B)
  | .spineFmin p b a d => some (fmtSR (BitVec.ofBool p ++ 0x05#7) b a d 0x0B)
  | .spineFmax p b a d => some (fmtSR (BitVec.ofBool p ++ 0x06#7) b a d 0x0B)
  | .spineFeq p b a d => some (fmtSR (BitVec.ofBool p ++ 0x07#7) b a d 0x0B)
  | .spineFlt p b a d => some (fmtSR (BitVec.ofBool p ++ 0x08#7) b a d 0x0B)
  | .spineFle p b a d => some (fmtSR (BitVec.ofBool p ++ 0x09#7) b a d 0x0B)
  | .spineFcvt c a d => some (fmtSR 0x0A c a d 0x0B)
  | .spineFfma c b a d => some (fmtS4 0 c b a d 0x0C)
  | .spineFfmaS c b a d => some (fmtS4 0 c b a d 0x1C)
  | .spineFfms c b a d => some (fmtS4 1 c b a d 0x0C)
  | .spineFfmsS c b a d => some (fmtS4 1 c b a d 0x1C)
  | .spineFnfma c b a d => some (fmtS4 2 c b a d 0x0C)
  | .spineFnfmaS c b a d => some (fmtS4 2 c b a d 0x1C)
  | .spineFnfms c b a d => some (fmtS4 3 c b a d 0x0C)
  | .spineFnfmsS c b a d => some (fmtS4 3 c b a d 0x1C)
  | .spineLd i x z a d => some (fmtSM i x z a d 0x0D)
  | .spineSt i z a s => some (fmtSM i false z a s 0x0E)
  | .amoSwap w o b a d => some (fmtSA w o 0x0 b a d)
  | .amoAdd w o b a d => some (fmtSA w o 0x1 b a d)
  | .amoAnd w o b a d => some (fmtSA w o 0x2 b a d)
  | .amoOr w o b a d => some (fmtSA w o 0x3 b a d)
  | .amoXor w o b a d => some (fmtSA w o 0x4 b a d)
  | .amoMin w o b a d => some (fmtSA w o 0x5 b a d)
  | .amoMax w o b a d => some (fmtSA w o 0x6 b a d)
  | .amoMinn w o b a d => some (fmtSA w o 0x7 b a d)
  | .amoMaxn w o b a d => some (fmtSA w o 0x8 b a d)
  | .spineCas w o b a d => some (fmtSA w o 0x9 b a d)
  | .spineCas2 o b a d => some (fmtSA true o 0xA b a d)
  | .lda w o a d => some (fmtSA w o 0xB 0 a d)
  | .stl w o b a => some (fmtSA w o 0xC b a 0)
  | .beq i b a => some (fmtSB i b a 0x10)
  | .bne i b a => some (fmtSB i b a 0x11)
  | .blt i b a => some (fmtSB i b a 0x12)
  | .bge i b a => some (fmtSB i b a 0x13)
  | .bltn i b a => some (fmtSB i b a 0x14)
  | .bgen i b a => some (fmtSB i b a 0x15)
  | .jl i d => some (fmtSU i d 0x16)
  | .jlr i a d => some (fmtSI i a d 0x17)
  | .spineFence k s => some (fmtSR (0#3 ++ k ++ s) 0 0 0 0x18)
  | .spinePfence => some (fmtSR 0x3C 0 0 0 0x18)
  | .spineHput i a d => some (fmtSH 0 i a d 0x19)
  | .spineHget i d => some (fmtSH 1 i 0 d 0x19)
  | .hpeek i d => some (fmtSH 2 i 0 d 0x19)
  | .spineHacc i a d => some (fmtSH 3 i a d 0x19)
  | .hcfg i a => some (fmtSH 4 i a 0 0x19)
  | .spineCsrr i d => some (fmtSH 0 i 0 d 0x1A)
  | .spineCsrw i a => some (fmtSH 1 i a 0 0x1A)
  | .spineExit => some (fmtSH 2 0 0 0 0x1A)
  | .svc c a => some (fmtSH 2 c a 0 0x1A)
  | .spineBrk c => some (fmtSH 3 c 0 0 0x1A)
  | .spineNap a => some (fmtSH 4 0 a 0 0x1A)
  | .spineRdclk d => some (fmtSH 5 0 0 d 0x1A)
  | .spineRand d => some (fmtSH 6 0 0 d 0x1A)
  | .spineLoc a d => some (fmtSH 7 0 a d 0x1A)
  | .spineLaunch b a => some (fmtSR 0x00 b a 0 0x1B)
  | .spineCpy b a => some (fmtSR 0x01 b a 0 0x1B)
  | .spineQpush b a => some (fmtSR 0x02 b a 0 0x1B)
  | .spineQpushTry b a d => some (fmtSR 0x03 b a d 0x1B)
  | .spineQpop b a => some (fmtSR 0x04 b a 0 0x1B)
  | .spineQpopTry b a d => some (fmtSR 0x05 b a d 0x1B)
  | .spineTiset b a => some (fmtSR 0x06 b a 0 0x1B)
  | .powerOnReset => none
  | .orderlyHostReset => none
  | .hotReset => none
  | .vfFunctionLevelReset => none
  | .thermalTrip => none
  | .throttle => none
  | .boost => none
  | .wipeComplete => none
  | .pcieConfigurationRequest => none
  | .firmwareUpdate => none
  | .vendorProvisioning => none
  | .ownerDebug => none
  | .ownerReturnToSummer => none
  | .decommission => none
  | .correctedError => none
  | .uncorrectableError => none
  | .cacheSoftError => none
  | .cxlExtentAdd => none
  | .cxlExtentRelease => none
  | .cxlLinkLoss => none
  | .writeCombiningDrainTimeout => none
  | .snoopRequest => none
  | .announcementAccept => none
  | .announcementDelivery => none
  | .readMissFill => none
  | .ownershipGrant => none
  | .writeBack => none
  | .directoryRecall => none
  | .directoryEviction => none
  | .rdcEviction => none
  | .homeMapWalk => none
  | .pageTableWalk => none
  | .homeRequest => none
  | .staleResponse => none
  | .faultRecordPost => none
  | .hold => none
  | .release => none
  | .flushasid => none
  | .movehold => none
  | .movedone => none
  | .hminv => none
  | .homeCommandDone => none
  | .freplayReplay => none
  | .freplayUnresolvable => none
  | .registerWrite => none
  | .svcerrRead => none
  | .klstatRead => none
  | .pcieHostRead => none
  | .pcieHostWrite => none
  | .pcieAtomicop => none
  | .klHostRead => none
  | .klHostWrite => none
  | .klHostAtomic => none
  | .hostRecallResponse => none
  | .klLinkUp => none
  | .klLinkDown => none
  | .notify => none
  | .notifyTakeEffect => none
  | .atsInvalidation => none
  | .hostRefusedTranslation => none
  | .pageRequestResponse => none
  | .remoteHomeResponse => none
  | .peerRequest => none
  | .vplTimeout => none
  | .vplPortDown => none
  | .vplLinkUp => none
  | .codecRequestAccept => none
  | .pageCompression => none
  | .compressedPageRead => none
  | .ecbDecode => none
  | .mxAliasRead => none
  | .mxAliasWrite => none
  | .pfenceComplete => none
  | .mgmttailWrite => none
  | .mgmtrheadWrite => none
  | .svpwdtWrite => none
  | .launchCommand => none
  | .ctxnew => none
  | .ctxfree => none
  | .place => none
  | .pwrlimit => none
  | .attest => none
  | .heatscan => none
  | .record => none
  | .ctxcfgQueues => none
  | .ctxcfgPeers => none
  | .ctxcfgSvqmap => none
  | .deviceQueuePush => none
  | .queueCommit => none
  | .svpWatchdogExpiry => none
  | .svpStateError => none
  | .rcvLockstepMismatch => none
  | .recovery => none
  | .recoveryRestart => none
  | .launchTake => none
  | .teamPlace => none
  | .teamRetire => none
  | .issueSlotSelect => none
  | .sliceExpiry => none
  | .dugoutSwap => none
  | .shadowFillComplete => none
  | .shadowDrainComplete => none
  | .matrixPassGrant => none
  | .forwardProgressExpiry => none
  | .registerGrowExpiry => none
  | .teamSpillComplete => none
  | .migrationComplete => none
  | .dieFailure => none
  | .teamLost => none
  | .resultLanding => none
  | .threadEjection => none
  | .formerGroupTimeout => none
  | .squadForm => none
  | .matrixStepComplete => none
  | .transferPortComplete => none
  | .engineHang => none
  | .engineReset => none
  | .trapEntry => none
  | .deferredTrapDelivery => none
  | .copyComplete => none
  | .credArrival => none
  | .credDeadline => none
  | .credLostTimeout => none
  | .napTimeout => none
  | .hostSnoop => none
  | .cxlLinkUp => none
  | .add _ => none
  | .sub _ => none
  | .addx _ => none
  | .mul _ => none
  | .mulhi _ => none
  | .mad _ => none
  | .madw _ => none
  | .min _ => none
  | .max _ => none
  | .abs _ => none
  | .lea _ => none
  | .icmp _ => none
  | .sel _ => none
  | .and _ => none
  | .or _ => none
  | .xor _ => none
  | .andn _ => none
  | .lut3 _ => none
  | .shl _ => none
  | .shr _ => none
  | .sar _ => none
  | .shf _ => none
  | .bfe _ => none
  | .bfi _ => none
  | .popc _ => none
  | .clz _ => none
  | .brev _ => none
  | .fadd _ => none
  | .fsub _ => none
  | .fmul _ => none
  | .ffma _ => none
  | .fmin _ => none
  | .fmax _ => none
  | .fcmp _ => none
  | .frnd _ => none
  | .fclass _ => none
  | .fscale _ => none
  | .cvt _ => none
  | .pack2 _ => none
  | .pack4 _ => none
  | .dot4 _ => none
  | .dot8 _ => none
  | .dotf4 _ => none
  | .dotf8 _ => none
  | .rcp _ => none
  | .rsq _ => none
  | .sqrt _ => none
  | .exp2 _ => none
  | .log2 _ => none
  | .sin _ => none
  | .cos _ => none
  | .tanh _ => none
  | .sigm _ => none
  | .mxscale _ => none
  | .mov _ => none
  | .movk _ => none
  | .shfl _ => none
  | .vote _ => none
  | .redsq _ => none
  | .scansq _ => none
  | .elect _ => none
  | .rdsp _ => none
  | .emget _ => none
  | .emset _ => none
  | .pget _ => none
  | .pset _ => none
  | .hput _ => none
  | .hacc _ => none
  | .hstat _ => none
  | .hget _ => none
  | .ld _ => none
  | .st _ => none
  | .ldu _ => none
  | .prf _ => none
  | .ldcf _ => none
  | .ldc _ => none
  | .atom _ => none
  | .cas _ => none
  | .cas2 _ => none
  | .fence _ => none
  | .pfence _ => none
  | .loc _ => none
  | .lds _ => none
  | .sts _ => none
  | .stsArm _ => none
  | .atoms _ => none
  | .ldsc _ => none
  | .lsarm _ => none
  | .lsstat _ => none
  | .cpy _ => none
  | .cpys _ => none
  | .cred _ => none
  | .mma _ => none
  | .mml _ => none
  | .mmz _ => none
  | .mmld _ => none
  | .mmst _ => none
  | .mmrd _ => none
  | .mmwr _ => none
  | .scan _ => none
  | .cset _ => none
  | .csetId _ => none
  | .cget _ => none
  | .tstat _ => none
  | .tiset _ => none
  | .tiget _ => none
  | .pfxh _ => none
  | .pfxhClr _ => none
  | .bra _ => none
  | .bru _ => none
  | .jmp _ => none
  | .call _ => none
  | .ret _ => none
  | .rejoin _ => none
  | .rejoinS _ => none
  | .exit _ => none
  | .yield _ => none
  | .bar _ => none
  | .barar _ => none
  | .barwt _ => none
  | .nap _ => none
  | .launch _ => none
  | .qpush _ => none
  | .qpushTry _ => none
  | .qpop _ => none
  | .qpopTry _ => none
  | .tmig _ => none
  | .csrr _ => none
  | .csrw _ => none
  | .trap _ => none
  | .brk _ => none
  | .tretRetry _ => none
  | .tretSkip _ => none
  | .nop _ => none
  | .rdclk _ => none
  | .rand _ => none

def Src.enc : Src → BitVec 11
  | .v idx last => BitVec.ofBool last ++ 0#2 ++ idx
  | .g idx => 0#1 ++ 1#2 ++ 0#1 ++ idx
  | .h idx => 0#1 ++ 2#2 ++ 0#2 ++ idx
  | .lit => 0#1 ++ 3#2 ++ 0#8

def Dst.enc : Dst → BitVec 10
  | .v idx => 0#2 ++ idx
  | .g idx => 1#2 ++ 0#1 ++ idx
  | .sp idx => 2#2 ++ idx
  | .none => 3#2 ++ 0#8

/-- The 96-bit word of an opcode and its fields (14 R313). -/
def LaneOp.word (o : LaneOp) (opc : BitVec 10) : BitVec 96 :=
  o.imm ++ o.md ++ BitVec.ofBool o.fs ++ o.c.enc ++ o.b.enc ++ o.a.enc ++
  BitVec.ofBool o.gn ++ o.gp ++ BitVec.ofBool o.k ++ BitVec.ofBool o.e ++ o.dst.enc ++ o.ty.code ++ opc

/-- Opcode and fields of a lane instruction (14 R324). -/
def Instr.lane? (i : Instr) : Option (BitVec 10 × LaneOp) :=
  match i with
  | .add o => some (0x001, o)
  | .sub o => some (0x002, o)
  | .addx o => some (0x003, o)
  | .mul o => some (0x004, o)
  | .mulhi o => some (0x005, o)
  | .mad o => some (0x006, o)
  | .madw o => some (0x007, o)
  | .min o => some (0x008, o)
  | .max o => some (0x009, o)
  | .abs o => some (0x00A, o)
  | .lea o => some (0x00B, o)
  | .icmp o => some (0x00C, o)
  | .sel o => some (0x00D, o)
  | .and o => some (0x00E, o)
  | .or o => some (0x00F, o)
  | .xor o => some (0x010, o)
  | .andn o => some (0x011, o)
  | .lut3 o => some (0x012, o)
  | .shl o => some (0x013, o)
  | .shr o => some (0x014, o)
  | .sar o => some (0x015, o)
  | .shf o => some (0x016, o)
  | .bfe o => some (0x017, o)
  | .bfi o => some (0x018, o)
  | .popc o => some (0x019, o)
  | .clz o => some (0x01A, o)
  | .brev o => some (0x01B, o)
  | .fadd o => some (0x080, o)
  | .fsub o => some (0x081, o)
  | .fmul o => some (0x082, o)
  | .ffma o => some (0x083, o)
  | .fmin o => some (0x084, o)
  | .fmax o => some (0x085, o)
  | .fcmp o => some (0x086, o)
  | .frnd o => some (0x087, o)
  | .fclass o => some (0x088, o)
  | .fscale o => some (0x089, o)
  | .cvt o => some (0x100, o)
  | .pack2 o => some (0x101, o)
  | .pack4 o => some (0x102, o)
  | .dot4 o => some (0x103, o)
  | .dot8 o => some (0x104, o)
  | .dotf4 o => some (0x105, o)
  | .dotf8 o => some (0x106, o)
  | .rcp o => some (0x107, o)
  | .rsq o => some (0x108, o)
  | .sqrt o => some (0x109, o)
  | .exp2 o => some (0x10A, o)
  | .log2 o => some (0x10B, o)
  | .sin o => some (0x10C, o)
  | .cos o => some (0x10D, o)
  | .tanh o => some (0x10E, o)
  | .sigm o => some (0x10F, o)
  | .mxscale o => some (0x110, o)
  | .mov o => some (0x180, o)
  | .movk o => some (0x181, o)
  | .shfl o => some (0x182, o)
  | .vote o => some (0x183, o)
  | .redsq o => some (0x184, o)
  | .scansq o => some (0x185, o)
  | .elect o => some (0x186, o)
  | .rdsp o => some (0x187, o)
  | .emget o => some (0x188, o)
  | .emset o => some (0x189, o)
  | .pget o => some (0x18A, o)
  | .pset o => some (0x18B, o)
  | .hput o => some (0x18C, o)
  | .hacc o => some (0x18D, o)
  | .hstat o => some (0x18E, o)
  | .hget o => some (0x18F, o)
  | .ld o => some (0x200, o)
  | .st o => some (0x201, o)
  | .ldu o => some (0x202, o)
  | .prf o => some (0x203, o)
  | .ldcf o => some (0x204, o)
  | .ldc o => some (0x205, o)
  | .atom o => some (0x206, o)
  | .cas o => some (0x207, o)
  | .cas2 o => some (0x208, o)
  | .fence o => some (0x209, o)
  | .pfence o => some (0x20A, o)
  | .loc o => some (0x20B, o)
  | .lds o => some (0x280, o)
  | .sts o => some (0x281, o)
  | .stsArm o => some (0x281, o)
  | .atoms o => some (0x282, o)
  | .ldsc o => some (0x283, o)
  | .lsarm o => some (0x284, o)
  | .lsstat o => some (0x285, o)
  | .cpy o => some (0x286, o)
  | .cpys o => some (0x287, o)
  | .cred o => some (0x288, o)
  | .mma o => some (0x300, o)
  | .mml o => some (0x301, o)
  | .mmz o => some (0x302, o)
  | .mmld o => some (0x303, o)
  | .mmst o => some (0x304, o)
  | .mmrd o => some (0x305, o)
  | .mmwr o => some (0x306, o)
  | .scan o => some (0x307, o)
  | .cset o => some (0x308, o)
  | .csetId o => some (0x308, o)
  | .cget o => some (0x309, o)
  | .tstat o => some (0x30A, o)
  | .tiset o => some (0x30B, o)
  | .tiget o => some (0x30C, o)
  | .pfxh o => some (0x30D, o)
  | .pfxhClr o => some (0x30D, o)
  | .bra o => some (0x380, o)
  | .bru o => some (0x381, o)
  | .jmp o => some (0x382, o)
  | .call o => some (0x383, o)
  | .ret o => some (0x384, o)
  | .rejoin o => some (0x385, o)
  | .rejoinS o => some (0x385, o)
  | .exit o => some (0x386, o)
  | .yield o => some (0x387, o)
  | .bar o => some (0x388, o)
  | .barar o => some (0x389, o)
  | .barwt o => some (0x38A, o)
  | .nap o => some (0x38B, o)
  | .launch o => some (0x38C, o)
  | .qpush o => some (0x38D, o)
  | .qpushTry o => some (0x38D, o)
  | .qpop o => some (0x38E, o)
  | .qpopTry o => some (0x38E, o)
  | .tmig o => some (0x38F, o)
  | .csrr o => some (0x390, o)
  | .csrw o => some (0x391, o)
  | .trap o => some (0x392, o)
  | .brk o => some (0x393, o)
  | .tretRetry o => some (0x394, o)
  | .tretSkip o => some (0x394, o)
  | .nop o => some (0x395, o)
  | .rdclk o => some (0x396, o)
  | .rand o => some (0x397, o)
  | .powerOnReset => none
  | .orderlyHostReset => none
  | .hotReset => none
  | .vfFunctionLevelReset => none
  | .thermalTrip => none
  | .throttle => none
  | .boost => none
  | .wipeComplete => none
  | .pcieConfigurationRequest => none
  | .firmwareUpdate => none
  | .vendorProvisioning => none
  | .ownerDebug => none
  | .ownerReturnToSummer => none
  | .decommission => none
  | .correctedError => none
  | .uncorrectableError => none
  | .cacheSoftError => none
  | .cxlExtentAdd => none
  | .cxlExtentRelease => none
  | .cxlLinkLoss => none
  | .writeCombiningDrainTimeout => none
  | .snoopRequest => none
  | .announcementAccept => none
  | .announcementDelivery => none
  | .readMissFill => none
  | .ownershipGrant => none
  | .writeBack => none
  | .directoryRecall => none
  | .directoryEviction => none
  | .rdcEviction => none
  | .homeMapWalk => none
  | .pageTableWalk => none
  | .homeRequest => none
  | .staleResponse => none
  | .faultRecordPost => none
  | .hold => none
  | .release => none
  | .flushasid => none
  | .movehold => none
  | .movedone => none
  | .hminv => none
  | .homeCommandDone => none
  | .freplayReplay => none
  | .freplayUnresolvable => none
  | .registerWrite => none
  | .svcerrRead => none
  | .klstatRead => none
  | .pcieHostRead => none
  | .pcieHostWrite => none
  | .pcieAtomicop => none
  | .klHostRead => none
  | .klHostWrite => none
  | .klHostAtomic => none
  | .hostRecallResponse => none
  | .klLinkUp => none
  | .klLinkDown => none
  | .notify => none
  | .notifyTakeEffect => none
  | .atsInvalidation => none
  | .hostRefusedTranslation => none
  | .pageRequestResponse => none
  | .remoteHomeResponse => none
  | .peerRequest => none
  | .vplTimeout => none
  | .vplPortDown => none
  | .vplLinkUp => none
  | .codecRequestAccept => none
  | .pageCompression => none
  | .compressedPageRead => none
  | .ecbDecode => none
  | .mxAliasRead => none
  | .mxAliasWrite => none
  | .pfenceComplete => none
  | .mgmttailWrite => none
  | .mgmtrheadWrite => none
  | .svpwdtWrite => none
  | .launchCommand => none
  | .ctxnew => none
  | .ctxfree => none
  | .place => none
  | .pwrlimit => none
  | .attest => none
  | .heatscan => none
  | .record => none
  | .ctxcfgQueues => none
  | .ctxcfgPeers => none
  | .ctxcfgSvqmap => none
  | .deviceQueuePush => none
  | .queueCommit => none
  | .svpWatchdogExpiry => none
  | .svpStateError => none
  | .rcvLockstepMismatch => none
  | .recovery => none
  | .recoveryRestart => none
  | .launchTake => none
  | .teamPlace => none
  | .teamRetire => none
  | .issueSlotSelect => none
  | .sliceExpiry => none
  | .dugoutSwap => none
  | .shadowFillComplete => none
  | .shadowDrainComplete => none
  | .matrixPassGrant => none
  | .forwardProgressExpiry => none
  | .registerGrowExpiry => none
  | .teamSpillComplete => none
  | .migrationComplete => none
  | .dieFailure => none
  | .teamLost => none
  | .resultLanding => none
  | .threadEjection => none
  | .formerGroupTimeout => none
  | .squadForm => none
  | .matrixStepComplete => none
  | .transferPortComplete => none
  | .engineHang => none
  | .engineReset => none
  | .trapEntry => none
  | .deferredTrapDelivery => none
  | .copyComplete => none
  | .credArrival => none
  | .credDeadline => none
  | .credLostTimeout => none
  | .napTimeout => none
  | .hostSnoop => none
  | .cxlLinkUp => none
  | .spineAdd _ _ _ _ => none
  | .spineSub _ _ _ _ => none
  | .spineAnd _ _ _ _ => none
  | .spineOr _ _ _ _ => none
  | .spineXor _ _ _ _ => none
  | .spineAndn _ _ _ _ => none
  | .spineShl _ _ _ _ => none
  | .spineShr _ _ _ _ => none
  | .spineSar _ _ _ _ => none
  | .spineMul _ _ _ _ => none
  | .spineMulh _ _ _ _ => none
  | .spineMulhn _ _ _ _ => none
  | .spineDiv _ _ _ _ => none
  | .spineDivn _ _ _ _ => none
  | .spineRem _ _ _ _ => none
  | .spineRemn _ _ _ _ => none
  | .spineMin _ _ _ _ => none
  | .spineMax _ _ _ _ => none
  | .spineMinn _ _ _ _ => none
  | .spineMaxn _ _ _ _ => none
  | .spineSlt _ _ _ _ => none
  | .spineSltn _ _ _ _ => none
  | .spineClz _ _ _ => none
  | .spineCtz _ _ _ => none
  | .spinePopc _ _ _ => none
  | .spineBrev _ _ _ => none
  | .addi _ _ _ => none
  | .andi _ _ _ => none
  | .ori _ _ _ => none
  | .xori _ _ _ => none
  | .shli _ _ _ => none
  | .shri _ _ _ => none
  | .sari _ _ _ => none
  | .slti _ _ _ => none
  | .sltni _ _ _ => none
  | .movu _ _ => none
  | .addpc _ _ => none
  | .spineFadd _ _ _ _ => none
  | .spineFsub _ _ _ _ => none
  | .spineFmul _ _ _ _ => none
  | .spineFdiv _ _ _ _ => none
  | .spineFsqrt _ _ _ => none
  | .spineFmin _ _ _ _ => none
  | .spineFmax _ _ _ _ => none
  | .spineFeq _ _ _ _ => none
  | .spineFlt _ _ _ _ => none
  | .spineFle _ _ _ _ => none
  | .spineFcvt _ _ _ => none
  | .spineFfma _ _ _ _ => none
  | .spineFfmaS _ _ _ _ => none
  | .spineFfms _ _ _ _ => none
  | .spineFfmsS _ _ _ _ => none
  | .spineFnfma _ _ _ _ => none
  | .spineFnfmaS _ _ _ _ => none
  | .spineFnfms _ _ _ _ => none
  | .spineFnfmsS _ _ _ _ => none
  | .spineLd _ _ _ _ _ => none
  | .spineSt _ _ _ _ => none
  | .amoSwap _ _ _ _ _ => none
  | .amoAdd _ _ _ _ _ => none
  | .amoAnd _ _ _ _ _ => none
  | .amoOr _ _ _ _ _ => none
  | .amoXor _ _ _ _ _ => none
  | .amoMin _ _ _ _ _ => none
  | .amoMax _ _ _ _ _ => none
  | .amoMinn _ _ _ _ _ => none
  | .amoMaxn _ _ _ _ _ => none
  | .spineCas _ _ _ _ _ => none
  | .spineCas2 _ _ _ _ => none
  | .lda _ _ _ _ => none
  | .stl _ _ _ _ => none
  | .beq _ _ _ => none
  | .bne _ _ _ => none
  | .blt _ _ _ => none
  | .bge _ _ _ => none
  | .bltn _ _ _ => none
  | .bgen _ _ _ => none
  | .jl _ _ => none
  | .jlr _ _ _ => none
  | .spineFence _ _ => none
  | .spinePfence => none
  | .spineHput _ _ _ => none
  | .spineHget _ _ => none
  | .hpeek _ _ => none
  | .spineHacc _ _ _ => none
  | .hcfg _ _ => none
  | .spineCsrr _ _ => none
  | .spineCsrw _ _ => none
  | .spineExit => none
  | .svc _ _ => none
  | .spineBrk _ => none
  | .spineNap _ => none
  | .spineRdclk _ => none
  | .spineRand _ => none
  | .spineLoc _ _ => none
  | .spineLaunch _ _ => none
  | .spineCpy _ _ => none
  | .spineQpush _ _ => none
  | .spineQpushTry _ _ _ => none
  | .spineQpop _ _ => none
  | .spineQpopTry _ _ _ => none
  | .spineTiset _ _ => none

/-- The bytes of an instruction as memory holds them; the steps of the device have none. -/
def encode (i : Instr) : List Byte :=
  match i.spineWord?, i.lane? with
  | some w, _ => leBytes 4 w.toNat
  | none, some (opc, o) => leBytes 12 (o.word opc).toNat
  | none, none => []

end Sys2Proof
end

