-- ==== Sys2Proof/Config.lean ====
section
/-! DEFINITION. What an implementation fixes, and the free values: the constants without a body stand for values
that the spec leaves open. Nothing in the model can evaluate them. Each is applied to a counter of the state
(`State.freeNo`) or to the operands that it depends on, and each is named in a row of notes/assumptions. -/

namespace Sys2Proof.Config

/-- Free 64-bit values, by draw and place within it: random numbers (15 R366), undefined words. Log entry 13. -/
opaque free64 : Nat → Nat → BitVec 64
/-- A free choice below a bound is this value modulo the bound: which lane wins a byte (10 R223), orders that are
not defined (17 R411, R413). Log entry 13. -/
opaque freeChoice : Nat → Nat
/-- Cluster clocks that one step takes (00 R5: times are typical, not fixed). Log entry 8. -/
opaque stepClocks : Nat → Nat
/-- Nanoseconds of time base that one step takes (01 R17). Log entry 8. -/
opaque stepNs : Nat → Nat
/-- Special functions on binary32: draw, function number, operand encoding; a candidate for the result that the
accuracy of 12 R280 leaves open. Log entry 12. -/
opaque sfu : Nat → Nat → BitVec 32 → BitVec 32
/-- Bytes of a firmware image's measurement and of the signatures of a report (05 R126, R127). Log entry 14. -/
opaque signature : Nat → Nat → BitVec 8
/-- Compressed length of a 4 KiB chunk (02 R44: the format is internal). Log entry 15. -/
opaque compressedSize : List Byte → Nat
/-- The hash of VA[55:9] that chooses a VPL port (04 R101). Log entry 17. -/
opaque vplHash : BitVec 47 → Nat
/-- The set that a 512-byte entry takes in an L2 half or an RDC, by its ASID and number (02 R35, R36 give the ways, not
the index). Log entry 73. -/
opaque cacheSet : BitVec 16 → Nat → Nat
/-- Whether the upper die of a compute die is present and enabled after so many resets of the device, at each of which the
SVP may fuse it off or enable it again (01 R11, R14). Log entry 2. -/
opaque upperDie : Nat → Nat → Bool

end Sys2Proof.Config
end

