-- ==== Sys2Proof/Machine/Float.lean ====
section
/-! DEFINITION. Floating-point formats and exact arithmetic with one rounding (12 R266 to R279). An encoding is a
natural number below 2^(1 + ew + mw); a finite value is sign, m and e for (-1)^sign x m x 2^e. -/

namespace Sys2Proof.Machine

/-- What a format does at the top of its range (12 R266). -/
inductive FTop where
  /-- infinities and NaNs as IEEE 754 -/
  | ieee
  /-- no infinity; the all-ones code is NaN (E4M3) -/
  | nanOnly
  /-- neither -/
  | finite
  deriving DecidableEq, Repr

/-- A format: exponent bits, mantissa bits, bias. -/
structure Fmt where
  ew : Nat
  mw : Nat
  bias : Nat
  top : FTop
  deriving DecidableEq, Repr

def fB64 : Fmt := ⟨11, 52, 1023, .ieee⟩
def fB32 : Fmt := ⟨8, 23, 127, .ieee⟩
def fB16 : Fmt := ⟨5, 10, 15, .ieee⟩
def fBf16 : Fmt := ⟨8, 7, 127, .ieee⟩
def fE4m3 : Fmt := ⟨4, 3, 7, .nanOnly⟩
def fE5m2 : Fmt := ⟨5, 2, 15, .ieee⟩
def fE3m2 : Fmt := ⟨3, 2, 3, .finite⟩
def fE2m3 : Fmt := ⟨2, 3, 1, .finite⟩
def fE2m1 : Fmt := ⟨2, 1, 1, .finite⟩

/-- Bits of an encoding. -/
def Fmt.width (f : Fmt) : Nat := 1 + f.ew + f.mw
/-- Code of the largest finite magnitude. -/
def Fmt.maxFinite (f : Fmt) : Nat :=
  match f.top with
  | .ieee => (2 ^ f.ew - 1) * 2 ^ f.mw - 1
  | .nanOnly => 2 ^ (f.ew + f.mw) - 2
  | .finite => 2 ^ (f.ew + f.mw) - 1
/-- Code of +infinity in an IEEE format. -/
def Fmt.infCode (f : Fmt) : Nat := (2 ^ f.ew - 1) * 2 ^ f.mw
/-- The default NaN (12 R266); formats without NaN give +0 (12 R278). -/
def Fmt.defNaN (f : Fmt) : Nat :=
  match f.top with
  | .ieee => f.infCode + 2 ^ (f.mw - 1)
  | .nanOnly => 2 ^ (f.ew + f.mw) - 1
  | .finite => 0
/-- Exponent of the last place of subnormals. -/
def Fmt.qmin (f : Fmt) : Int := 1 - (f.bias : Int) - (f.mw : Int)
def Fmt.signBit (f : Fmt) : Nat := 2 ^ (f.ew + f.mw)

/-- A decoded encoding. -/
inductive FVal where
  | nan (signalling : Bool)
  | inf (neg : Bool)
  | fin (neg : Bool) (m : Nat) (e : Int)
  deriving DecidableEq, Repr

/-- The value of an encoding (12 R266). -/
def Fmt.dec (f : Fmt) (x : Nat) : FVal :=
  let neg := x / f.signBit % 2 == 1
  let mag := x % f.signBit
  if mag > f.maxFinite then
    match f.top with
    | .ieee => if mag = f.infCode then .inf neg else .nan (mag % 2 ^ f.mw < 2 ^ (f.mw - 1))
    | _ => .nan false
  else if mag / 2 ^ f.mw = 0 then .fin neg mag f.qmin
  else .fin neg (mag % 2 ^ f.mw + 2 ^ f.mw) (f.qmin + (mag / 2 ^ f.mw : Nat) - 1)

def Fmt.withSign (f : Fmt) (neg : Bool) (mag : Nat) : Nat := if neg then f.signBit + mag else mag

/-- A subnormal code: exponent field zero, mantissa not. -/
def Fmt.isSubnormal (f : Fmt) (x : Nat) : Bool :=
  let mag := x % f.signBit
  mag != 0 && mag < 2 ^ f.mw

/-- FTZ on a code: a subnormal becomes zero of the same sign (12 R273). -/
def Fmt.flush (f : Fmt) (ftz : Bool) (x : Nat) : Nat :=
  if ftz && f.isSubnormal x then x - x % f.signBit else x

/-- Rounding modes (12 R272). -/
inductive Rm where
  | rne
  | rz
  | rd
  | ru
  deriving DecidableEq, Repr

def Rm.ofBits (b : BitVec 2) : Rm :=
  match b.toNat with
  | 0 => .rne
  | 1 => .rz
  | 2 => .rd
  | _ => .ru

/-- A result with its IEEE exceptions (12 R277). -/
structure FR where
  bits : Nat
  nv : Bool := false
  dz : Bool := false
  of : Bool := false
  uf : Bool := false
  nx : Bool := false
  deriving DecidableEq, Repr

/-- m x 2^e at the quantum 2^q: the rounded multiple, and whether it is inexact. `sticky` says that the value lies
strictly above m x 2^e by less than one unit of m. -/
def roundAt (rm : Rm) (neg : Bool) (m : Nat) (e q : Int) (sticky : Bool) : Nat × Bool :=
  if q ≤ e then (m * 2 ^ (e - q).toNat, sticky)
  else
    let s := (q - e).toNat
    let k := m / 2 ^ s
    let r := m % 2 ^ s
    let h := 2 ^ (s - 1)
    let inexact := r != 0 || sticky
    let up := match rm with
      | .rne => decide (r > h) || (r == h && (sticky || k % 2 == 1))
      | .rz => false
      | .rd => neg && inexact
      | .ru => !neg && inexact
    (if up then k + 1 else k, inexact)

/-- Overflow result of IEEE 754 for a mode. -/
def Fmt.overflow (f : Fmt) (rm : Rm) (neg : Bool) : Nat :=
  match f.top with
  | .ieee =>
    let toInf := match rm with
      | .rne => true
      | .rz => false
      | .rd => neg
      | .ru => !neg
    f.withSign neg (if toInf then f.infCode else f.maxFinite)
  | _ => f.withSign neg f.maxFinite

/-- Round m x 2^e once to the format (12 R278): subnormals kept, unbounded range, then the range rule. `sat` asks for
the largest finite value; E4M3 without `sat` gives NaN with the sign of x. -/
def Fmt.round (f : Fmt) (rm : Rm) (sat : Bool) (neg : Bool) (m : Nat) (e : Int) (sticky : Bool := false) : FR :=
  if m = 0 then { bits := f.withSign neg 0 }
  else
    let top := (Nat.log2 m : Int) + e
    let q := max (top - (f.mw : Int)) f.qmin
    let (k, nx) := roundAt rm neg m e q sticky
    let code := (q - f.qmin).toNat * 2 ^ f.mw + k
    if code > f.maxFinite then
      let bits :=
        if sat || f.top == .finite then f.withSign neg f.maxFinite
        else if f.top == .nanOnly then f.withSign neg f.defNaN
        else f.overflow rm neg
      { bits := bits, of := true, nx := true }
    else
      -- tininess after rounding: the value rounded with an unbounded exponent lies below the smallest normal
      let q' := top - (f.mw : Int)
      let (k', _) := roundAt rm neg m e q' sticky
      let tiny := decide ((Nat.log2 k' : Int) + q' < f.qmin + (f.mw : Int))
      { bits := f.withSign neg code, uf := tiny && nx, nx := nx }

/-- Exact sum of two finite values; the sign of an exact zero follows IEEE 754. -/
def addFin (rm : Rm) (n1 : Bool) (m1 : Nat) (e1 : Int) (n2 : Bool) (m2 : Nat) (e2 : Int) : Bool × Nat × Int :=
  let e := min e1 e2
  let a : Int := (m1 * 2 ^ (e1 - e).toNat : Nat)
  let b : Int := (m2 * 2 ^ (e2 - e).toNat : Nat)
  let s := (if n1 then -a else a) + (if n2 then -b else b)
  if s = 0 then (if n1 == n2 then n1 else rm == .rd, 0, e)
  else (decide (s < 0), s.natAbs, e)

def Fmt.nanResult (f : Fmt) (nv : Bool) : FR := { bits := f.defNaN, nv := nv }

def FVal.isSnan : FVal → Bool
  | .nan s => s
  | _ => false

def FVal.isNan : FVal → Bool
  | .nan _ => true
  | _ => false

def FVal.isZero : FVal → Bool
  | .fin _ 0 _ => true
  | _ => false

def FVal.neg? : FVal → Bool
  | .inf n => n
  | .fin n _ _ => n
  | .nan _ => false

def FVal.negate : FVal → FVal
  | .inf n => .inf (!n)
  | .fin n m e => .fin (!n) m e
  | .nan s => .nan s

/-- a x b + c with one rounding (12 R272, 15 R350). -/
def Fmt.fma (f : Fmt) (rm : Rm) (a b c : FVal) : FR :=
  let snan := a.isSnan || b.isSnan || c.isSnan
  let infZero := match a, b with
    | .inf _, .fin _ 0 _ => true
    | .fin _ 0 _, .inf _ => true
    | _, _ => false
  if infZero then f.nanResult true
  else if a.isNan || b.isNan || c.isNan then f.nanResult snan
  else
    let pn := a.neg? != b.neg?
    match a, b, c with
    | .fin _ m1 e1, .fin _ m2 e2, .fin n3 m3 e3 =>
      let (n, m, e) := addFin rm pn (m1 * m2) (e1 + e2) n3 m3 e3
      f.round rm false n m e
    | .fin _ _ _, .fin _ _ _, c => { bits := f.withSign c.neg? f.infCode }
    | _, _, .inf n3 => if pn == n3 then { bits := f.withSign pn f.infCode } else f.nanResult true
    | _, _, _ => { bits := f.withSign pn f.infCode }

/-- a + b. -/
def Fmt.add (f : Fmt) (rm : Rm) (a b : FVal) : FR :=
  match a, b with
  | .fin n1 m1 e1, .fin n2 m2 e2 =>
    let (n, m, e) := addFin rm n1 m1 e1 n2 m2 e2
    f.round rm false n m e
  | .nan s, b => f.nanResult (s || b.isSnan)
  | _, .nan s => f.nanResult s
  | .inf n1, .inf n2 => if n1 == n2 then { bits := f.withSign n1 f.infCode } else f.nanResult true
  | .inf n, _ => { bits := f.withSign n f.infCode }
  | _, .inf n => { bits := f.withSign n f.infCode }

/-- a x b. -/
def Fmt.mul (f : Fmt) (rm : Rm) (a b : FVal) : FR :=
  let n := a.neg? != b.neg?
  match a, b with
  | .fin _ m1 e1, .fin _ m2 e2 => f.round rm false n (m1 * m2) (e1 + e2)
  | .nan s, b => f.nanResult (s || b.isSnan)
  | _, .nan s => f.nanResult s
  | .inf _, b => if b.isZero then f.nanResult true else { bits := f.withSign n f.infCode }
  | a, .inf _ => if a.isZero then f.nanResult true else { bits := f.withSign n f.infCode }

/-- a / b (15 R348). -/
def Fmt.div (f : Fmt) (rm : Rm) (a b : FVal) : FR :=
  let n := a.neg? != b.neg?
  match a, b with
  | .nan s, b => f.nanResult (s || b.isSnan)
  | _, .nan s => f.nanResult s
  | .inf _, .inf _ => f.nanResult true
  | .inf _, _ => { bits := f.withSign n f.infCode }
  | _, .inf _ => { bits := f.withSign n 0 }
  | .fin _ m1 e1, .fin _ m2 e2 =>
    if m2 = 0 then (if m1 = 0 then f.nanResult true else { bits := f.withSign n f.infCode, dz := true })
    else
      let sh := 2 * f.mw + 8
      let num := m1 * 2 ^ sh
      f.round rm false n (num / m2) (e1 - e2 - (sh : Int)) (num % m2 != 0)

/-- Integer square root, bit by bit from bit k. -/
def isqrtBits : Nat → Nat → Nat → Nat
  | 0, _, acc => acc
  | k + 1, n, acc =>
    let t := acc + 2 ^ k
    isqrtBits k n (if t * t ≤ n then t else acc)

/-- Floor of the square root. -/
def isqrt (n : Nat) : Nat := isqrtBits (Nat.log2 n / 2 + 1) n 0

/-- Square root (15 R348). -/
def Fmt.sqrt (f : Fmt) (rm : Rm) (a : FVal) : FR :=
  match a with
  | .nan s => f.nanResult s
  | .inf n => if n then f.nanResult true else { bits := f.infCode }
  | .fin n m e =>
    if m = 0 then { bits := f.withSign n 0 }
    else if n then f.nanResult true
    else
      -- an even exponent and enough bits for one rounding
      let sh0 := 2 * f.mw + 8
      let sh := if (e - (sh0 : Int)) % 2 = 0 then sh0 else sh0 + 1
      let x := m * 2 ^ sh
      let r := isqrt x
      f.round rm false false r ((e - (sh : Int)) / 2) (r * r != x)

/-- Order of two values; none when unordered (12 R274). -/
def cmpFVal (a b : FVal) : Option Ordering :=
  match a, b with
  | .nan _, _ => none
  | _, .nan _ => none
  | .inf n1, .inf n2 => some (if n1 == n2 then .eq else if n1 then .lt else .gt)
  | .inf n, _ => some (if n then .lt else .gt)
  | _, .inf n => some (if n then .gt else .lt)
  | .fin n1 m1 e1, .fin n2 m2 e2 =>
    let e := min e1 e2
    let x : Int := (m1 * 2 ^ (e1 - e).toNat : Nat)
    let y : Int := (m2 * 2 ^ (e2 - e).toNat : Nat)
    some (compare (if n1 then -x else x) (if n2 then -y else y))

/-- minimumNumber and maximumNumber (12 R275): a number beats a NaN, and -0 is less than +0. -/
def Fmt.minmax (f : Fmt) (isMax : Bool) (x y : Nat) : FR :=
  let a := f.dec x
  let b := f.dec y
  let nv := a.isSnan || b.isSnan
  if a.isNan && b.isNan then f.nanResult nv
  else if a.isNan then { bits := y, nv := nv }
  else if b.isNan then { bits := x, nv := nv }
  else
    let aLess := match cmpFVal a b with
      | some .lt => true
      | some .eq => a.neg?
      | _ => false
    { bits := if aLess != isMax then x else y, nv := nv }

/-- Round to an integral value of the same format (15 R349, 16 R383); `nx` says that the value changed. -/
def Fmt.toIntegral (f : Fmt) (rm : Rm) (x : Nat) : FR :=
  match f.dec x with
  | .nan s => f.nanResult s
  | .inf n => { bits := f.withSign n f.infCode }
  | .fin n m e =>
    if e ≥ 0 then { bits := x }
    else
      let (k, nx) := roundAt rm n m e 0 false
      { (f.round .rne false n k 0) with nx := nx }

/-- A value read from a wider or narrower format and rounded once (12 R278). -/
def Fmt.ofVal (f : Fmt) (rm : Rm) (sat : Bool) (v : FVal) : FR :=
  match v with
  | .nan s => f.nanResult s
  | .inf n =>
    match f.top with
    | .ieee => { bits := f.withSign n (if sat then f.maxFinite else f.infCode) }
    | .nanOnly => { bits := f.withSign n (if sat then f.maxFinite else f.defNaN) }
    | .finite => { bits := f.withSign n f.maxFinite }
  | .fin n m e => f.round rm sat n m e

/-- An integer rounded to the format (12 R279). -/
def Fmt.ofInt (f : Fmt) (rm : Rm) (sat : Bool) (x : Int) : FR := f.round rm sat (decide (x < 0)) x.natAbs 0

/-- The part of m x 2^e before the point, and whether the rest is not zero. -/
def truncFin (m : Nat) (e : Int) : Nat × Bool :=
  if e ≥ 0 then (m * 2 ^ e.toNat, false) else (m / 2 ^ (-e).toNat, m % 2 ^ (-e).toNat != 0)

/-- Clamp to lo..hi. -/
def clampInt (lo hi x : Int) : Int := if x < lo then lo else if x > hi then hi else x

/-- Float to integer: toward zero, saturating, NaN gives 0 (12 R279). `nv` for NaN or out of range, else `nx` when
inexact. -/
def toIntSat (lo hi : Int) (v : FVal) : Int × Bool × Bool :=
  match v with
  | .nan _ => (0, true, false)
  | .inf n => (if n then lo else hi, true, false)
  | .fin n m e =>
    let (k, nx) := truncFin m e
    let x : Int := if n then -(k : Int) else k
    if x < lo || x > hi then (clampInt lo hi x, true, false) else (x, false, nx)

/-- Float to E8M0 (12 R279). -/
def toE8m0 (v : FVal) : Nat :=
  match v with
  | .fin _ m e => if m = 0 then 0 else (clampInt (-127) 127 ((Nat.log2 m : Int) + e) + 127).toNat
  | _ => 0xFF

/-! ### Exact sums: a finite sum is an integer multiple of a power of two -/

/-- n x 2^e. -/
structure Dyadic where
  n : Int
  e : Int
  deriving DecidableEq, Repr

def Dyadic.zero : Dyadic := ⟨0, 0⟩
def Dyadic.add (a b : Dyadic) : Dyadic :=
  let e := min a.e b.e
  ⟨a.n * (2 ^ (a.e - e).toNat : Nat) + b.n * (2 ^ (b.e - e).toNat : Nat), e⟩
def Dyadic.mul (a b : Dyadic) : Dyadic := ⟨a.n * b.n, a.e + b.e⟩
def Dyadic.scale (a : Dyadic) (k : Int) : Dyadic := ⟨a.n, a.e + k⟩
def FVal.dyadic : FVal → Dyadic
  | .fin n m e => ⟨if n then -(m : Int) else m, e⟩
  | _ => Dyadic.zero
/-- Round an exact sum; a zero takes the given sign. -/
def Fmt.roundDyadic (f : Fmt) (rm : Rm) (zeroNeg : Bool) (d : Dyadic) : FR :=
  if d.n = 0 then { bits := f.withSign zeroNeg 0 } else f.round rm false (decide (d.n < 0)) d.n.natAbs d.e

/-- rne_f32 of a sum of two binary32 codes (00 notation; 12 R275 for the others). -/
def addF32 (x y : Nat) : Nat := (fB32.add .rne (fB32.dec x) (fB32.dec y)).bits

end Sys2Proof.Machine
end

