-- ==== Sys2Proof/Machine/Alu.lean ====
section
/-! DEFINITION. The values that arithmetic instructions compute, on plain words: spine integers (15 R345 to R347),
lane integers, logic and bit fields (16 R376 to R379), conversions and dot products (16 R385 to R389). A lane operand
is a natural number below 2^32, or 2^64 for a pair. -/

namespace Sys2Proof

namespace Machine

/-! ### Bits -/

/-- The signed number that the low w bits hold. -/
def sxNat (w x : Nat) : Int := if 2 ^ (w - 1) ≤ x % 2 ^ w then (x % 2 ^ w : Int) - (2 ^ w : Nat) else (x % 2 ^ w : Nat)

/-- The low w bits of an integer. -/
def toBits (w : Nat) (x : Int) : Nat := (x % ((2 ^ w : Nat) : Int)).toNat

/-- One bits among the low w. -/
def popNat : Nat → Nat → Nat
  | 0, _ => 0
  | w + 1, x => x % 2 + popNat w (x / 2)

/-- Bit order of the low w bits reversed. -/
def revNat : Nat → Nat → Nat
  | 0, _ => 0
  | w + 1, x => x % 2 * 2 ^ w + revNat w (x / 2)

/-- Leading zeros of a w-bit number. -/
def clzNat (w x : Nat) : Nat := if x % 2 ^ w = 0 then w else w - 1 - Nat.log2 (x % 2 ^ w)

/-- Trailing zeros of a w-bit number. -/
def ctzNat (w x : Nat) : Nat := clzNat w (revNat w x)

/-! ### Spine integers (15 R345, R346): w is 64, or 32 in the `.w` form -/

/-- Two-operand spine operations. -/
inductive SpineOp where
  | add | sub | and | or | xor | andn | shl | shr | sar | mul | mulh | mulhn | div | divn | rem | remn
  | min | max | minn | maxn | slt | sltn
  deriving DecidableEq, Repr

/-- The result as a number modulo 2^w; a and b are below 2^w. -/
def spineOp (op : SpineOp) (w a b : Nat) : Nat :=
  let sa := sxNat w a
  let sb := sxNat w b
  match op with
  | .add => (a + b) % 2 ^ w
  | .sub => toBits w ((a : Int) - b)
  | .and => a &&& b
  | .or => a ||| b
  | .xor => a ^^^ b
  | .andn => a &&& (2 ^ w - 1 - b)
  | .shl => a * 2 ^ (b % w) % 2 ^ w
  | .shr => a / 2 ^ (b % w)
  | .sar => toBits w (sa / ((2 ^ (b % w) : Nat) : Int))
  | .mul => a * b % 2 ^ w
  | .mulh => toBits w (sa * sb / ((2 ^ w : Nat) : Int))
  | .mulhn => a * b / 2 ^ w
  | .div => if b = 0 then 2 ^ w - 1 else toBits w (Int.tdiv sa sb)
  | .divn => if b = 0 then 2 ^ w - 1 else a / b
  | .rem => if b = 0 then a else toBits w (sa - sb * Int.tdiv sa sb)
  | .remn => if b = 0 then a else a % b
  | .min => if sa ≤ sb then a else b
  | .max => if sa ≤ sb then b else a
  | .minn => if a ≤ b then a else b
  | .maxn => if a ≤ b then b else a
  | .slt => if sa < sb then 1 else 0
  | .sltn => if a < b then 1 else 0

/-- x[D] of a two-operand integer instruction; the `.w` form reads the low halves and sign-extends (15 R344). -/
def spineInt (op : SpineOp) (w32 : Bool) (a b : Dword) : Dword :=
  if w32 then (BitVec.ofNat 32 (spineOp op 32 (a.toNat % 2 ^ 32) (b.toNat % 2 ^ 32))).signExtend 64
  else BitVec.ofNat 64 (spineOp op 64 a.toNat b.toNat)

/-- One-operand spine operations. -/
inductive SpineUn where
  | clz | ctz | popc | brev
  deriving DecidableEq, Repr

def spineUnOp (op : SpineUn) (w a : Nat) : Nat :=
  match op with
  | .clz => clzNat w a
  | .ctz => ctzNat w a
  | .popc => popNat w a
  | .brev => revNat w a

def spineUn (op : SpineUn) (w32 : Bool) (a : Dword) : Dword :=
  if w32 then (BitVec.ofNat 32 (spineUnOp op 32 (a.toNat % 2 ^ 32))).signExtend 64
  else BitVec.ofNat 64 (spineUnOp op 64 a.toNat)

end Machine

open Machine

/-! ### Lane elements (12 R265, R270) -/

/-- Width of an element of a lane type. -/
def LType.elemW : LType → Nat
  | .i16x2 | .n16x2 | .f16x2 | .bf16x2 => 16
  | .i8x4 | .n8x4 | .e4m3x4 | .e5m2x4 | .e3m2x4 | .e2m3x4 | .e8m0x4 => 8
  | .i4x8 | .n4x8 | .e2m1x8 => 4
  | .i64 | .n64 | .afp => 64
  | _ => 32

/-- Signed integer types. -/
def LType.signed : LType → Bool
  | .i32 | .i16x2 | .i8x4 | .i4x8 | .i64 => true
  | _ => false

/-- Width of the whole operand. -/
def LType.opW (t : LType) : Nat := if t.is64 then 64 else 32

/-- An element's number: signed for the i types, natural for the n types. -/
def LType.ext (t : LType) (x : Nat) : Int := if t.signed then sxNat t.elemW x else (x % 2 ^ t.elemW : Nat)

def LType.minInt (t : LType) : Int := if t.signed then -((2 ^ (t.elemW - 1) : Nat) : Int) else 0

def LType.maxInt (t : LType) : Int :=
  if t.signed then ((2 ^ (t.elemW - 1) : Nat) : Int) - 1 else ((2 ^ t.elemW : Nat) : Int) - 1

/-- Wrap or, with `.sat`, clamp (16 R377). -/
def LType.fit (t : LType) (sat : Bool) (x : Int) : Nat :=
  toBits t.elemW (if sat then clampInt t.minInt t.maxInt x else x)

/-- Elements of a type in its operand. -/
def LType.count (t : LType) : Nat := t.opW / t.elemW

/-- The floating-point format of an element type. -/
def LType.fmt? : LType → Option Fmt
  | .f32 => some fB32
  | .f16x2 => some fB16
  | .bf16x2 => some fBf16
  | .e4m3x4 | .mxe4m3 => some fE4m3
  | .e5m2x4 | .mxe5m2 => some fE5m2
  | .e3m2x4 | .mxe3m2 => some fE3m2
  | .e2m3x4 | .mxe2m3 => some fE2m3
  | .e2m1x8 | .mxe2m1 => some fE2m1
  | _ => Option.none

/-- Formats that `FTZ` reaches (12 R273). -/
def LType.ftzFmt : LType → Bool
  | .f32 | .f16x2 | .bf16x2 => true
  | _ => false

/-- Formats whose conversions always saturate, or saturate without `.nosat` (12 R278). -/
def LType.satFor (t : LType) (nosat : Bool) : Bool :=
  match t with
  | .e4m3x4 | .e5m2x4 => !nosat
  | .e3m2x4 | .e2m3x4 | .e2m1x8 => true
  | _ => false

/-- `cvt` reads 32 or 64 bits by its source type. -/
def LType.scalarW (t : LType) : Nat := if t.is64 then 64 else 32

namespace Machine

/-! ### Elementwise operations -/




/-- Element i of width w. -/
def elemAt (w i x : Nat) : Nat := x / 2 ^ (w * i) % 2 ^ w

/-- An operation on each of n elements of width w; the results do not interact. -/
def mapElems (w : Nat) (f : Nat → Nat) : Nat → Nat
  | 0 => 0
  | n + 1 => mapElems w f n + f n % 2 ^ w * 2 ^ (w * n)





/-- An elementwise operation. -/
def elem1 (t : LType) (f : Nat → Nat) (a : Nat) : Nat := mapElems t.elemW (fun i => f (elemAt t.elemW i a)) t.count
def elem2 (t : LType) (f : Nat → Nat → Nat) (a b : Nat) : Nat :=
  mapElems t.elemW (fun i => f (elemAt t.elemW i a) (elemAt t.elemW i b)) t.count
def elem3 (t : LType) (f : Nat → Nat → Nat → Nat) (a b c : Nat) : Nat :=
  mapElems t.elemW (fun i => f (elemAt t.elemW i a) (elemAt t.elemW i b) (elemAt t.elemW i c)) t.count

/-! ### Integer arithmetic (16 R377, R378) -/

def aluAdd (t : LType) (sat : Bool) : Nat → Nat → Nat := elem2 t fun a b => t.fit sat (t.ext a + t.ext b)
def aluSub (t : LType) (sat : Bool) : Nat → Nat → Nat := elem2 t fun a b => t.fit sat (t.ext a - t.ext b)
def aluAddx (cy : Bool) (a b c : Nat) : Nat :=
  let s := a + b + c % 2
  if cy then s / 2 ^ 32 else s % 2 ^ 32
def aluMul (t : LType) : Nat → Nat → Nat := elem2 t fun a b => a * b % 2 ^ t.elemW
def aluMulhi (t : LType) (a b : Nat) : Nat := toBits 32 (t.ext a * t.ext b / ((2 ^ 32 : Nat) : Int))
def aluMad (t : LType) : Nat → Nat → Nat → Nat := elem3 t fun a b c => (a * b + c) % 2 ^ t.elemW
def aluMadw (t : LType) (a b c : Nat) : Nat :=
  let e (x : Nat) : Int := if t.signed then sxNat 32 x else (x % 2 ^ 32 : Nat)
  toBits 64 (e a * e b + c)
def aluMinMax (t : LType) (isMax : Bool) : Nat → Nat → Nat :=
  elem2 t fun a b => if decide (t.ext a ≤ t.ext b) != isMax then a else b
def aluAbs (t : LType) (sat : Bool) : Nat → Nat := elem1 t fun a => t.fit sat (t.ext a).natAbs
def aluLea (sx : Bool) (sh a b : Nat) : Nat :=
  toBits 64 (a + (if sx then sxNat 32 b else (b % 2 ^ 32 : Nat)) * ((2 ^ sh : Nat) : Int))

/-- Conditions of `icmp` (16 R376). -/
def icmpCond (t : LType) (cond : Nat) (a b : Nat) : Bool :=
  let x := t.ext a
  let y := t.ext b
  match cond with
  | 0 => x == y
  | 1 => x != y
  | 2 => decide (x < y)
  | 3 => decide (x ≤ y)
  | 4 => decide (x > y)
  | _ => decide (x ≥ y)

/-! ### Logic, shifts and bit fields (16 R379) -/

def aluAndn (w a b : Nat) : Nat := a &&& (2 ^ w - 1 - b % 2 ^ w)

/-- Bit i of the result is bit 4A + 2B + C of the table. -/
def lut3 (tbl a b c : Nat) : Nat :=
  mapElems 1 (fun i => tbl / 2 ^ (4 * elemAt 1 i a + 2 * elemAt 1 i b + elemAt 1 i c) % 2) 32

/-- Shifts take B modulo the element width. -/
def aluShl (t : LType) (a b : Nat) : Nat := elem1 t (fun x => x * 2 ^ (b % t.elemW) % 2 ^ t.elemW) a
def aluShr (t : LType) (a b : Nat) : Nat := elem1 t (fun x => x / 2 ^ (b % t.elemW)) a
def aluSar (t : LType) (a b : Nat) : Nat :=
  elem1 t (fun x => toBits t.elemW (sxNat t.elemW x / ((2 ^ (b % t.elemW) : Nat) : Int))) a

def aluShf (left : Bool) (a b c : Nat) : Nat :=
  let s := c % 32
  if left then (a * 2 ^ s ||| b / 2 ^ (32 - s)) % 2 ^ 32 else (a / 2 ^ s ||| b * 2 ^ (32 - s)) % 2 ^ 32

def aluBfe (signed : Bool) (a b : Nat) : Nat :=
  let p := b % 256
  let n := b / 256 % 256
  if p ≥ 32 || n = 0 then 0
  else
    let n := Nat.min n (32 - p)
    let f := a / 2 ^ p % 2 ^ n
    if signed then toBits 32 (sxNat n f) else f

def aluBfi (a b c : Nat) : Nat :=
  let p := c % 256
  let n := c / 256 % 256
  if p ≥ 32 || n = 0 then a
  else
    let m := (2 ^ Nat.min n (32 - p) - 1) * 2 ^ p
    aluAndn 32 a m ||| (b * 2 ^ p % 2 ^ 32 &&& m)

/-! ### Scalar conversions (16 R385) -/




/-- Value of a float code, flushed under FTZ; FP6 ignores bits above 5. -/
def decElem (t : LType) (f : Fmt) (ftz : Bool) (x : Nat) : FVal :=
  f.dec (f.flush (ftz && t.ftzFmt) (x % 2 ^ f.width))

/-- One scalar conversion from `src` to `dst`. -/
def convert (dst src : LType) (rm : Rm) (nosat ftz : Bool) (x : Nat) : Nat :=
  let out (f : Fmt) (r : Nat) : Nat := f.flush (ftz && dst.ftzFmt) r
  match src.fmt?, dst.fmt? with
  | some fs, some fd => out fd (fd.ofVal rm (dst.satFor nosat) (decElem src fs ftz x)).bits
  | some fs, none =>
    if dst == .e8m0x4 then toE8m0 (decElem src fs ftz x)
    else toBits dst.elemW (toIntSat dst.minInt dst.maxInt (decElem src fs ftz x)).1
  | none, some fd =>
    if src == .e8m0x4 then
      let s := x % 256
      if s = 255 then fd.defNaN else out fd (fd.round .rne false false 1 ((s : Int) - 127)).bits
    else out fd (fd.ofInt rm (dst.satFor nosat) (src.ext x)).bits
  | none, none => toBits dst.elemW (clampInt dst.minInt dst.maxInt (src.ext x))


def aluPack2 (t src : LType) (rm : Rm) (ftz : Bool) (a b : Nat) : Nat :=
  convert t src rm false ftz a + convert t src rm false ftz b * 2 ^ 16

/-- r is C with elements 2q and 2q + 1 replaced (16 R386). -/
def aluPack4 (t src : LType) (rm : Rm) (nosat ftz : Bool) (q a b c : Nat) : Nat :=
  mapElems t.elemW (fun i =>
    if i = 2 * q then convert t src rm nosat ftz a
    else if i = 2 * q + 1 then convert t src rm nosat ftz b
    else elemAt t.elemW i c) t.count

/-! ### Dot products and scales (16 R387 to R389) -/

/-- Sum over n elements. -/
def sumElems (f : Nat → Int) : Nat → Int
  | 0 => 0
  | n + 1 => sumElems f n + f n

def aluDot (t : LType) (a b c : Nat) : Nat :=
  toBits 32 (c + sumElems (fun k => t.ext (elemAt t.elemW k a) * t.ext (elemAt t.elemW k b)) (32 / t.elemW))

/-- Sum of products of floating-point values, exact: none when a NaN, infinity times zero or infinities of both signs
occur; else an infinity or a dyadic; the Boolean says that every product is -0. -/
inductive DotSum where
  | nan
  | inf (neg : Bool)
  | fin (d : Dyadic) (allNegZero : Bool)
  deriving DecidableEq, Repr

def DotSum.zero : DotSum := .fin Dyadic.zero true

def DotSum.addProd (s : DotSum) (a b : FVal) : DotSum :=
  let n := a.neg? != b.neg?
  match s, a, b with
  | .nan, _, _ => .nan
  | _, .nan _, _ => .nan
  | _, _, .nan _ => .nan
  | .fin d z, .fin n1 m1 e1, .fin n2 m2 e2 =>
    .fin (d.add (Dyadic.mul (FVal.fin n1 m1 e1).dyadic (FVal.fin n2 m2 e2).dyadic))
      (z && n && (m1 = 0 || m2 = 0))
  | .inf ni, .fin _ _ _, .fin _ _ _ => .inf ni
  | .inf ni, a, b => if a.isZero || b.isZero || n != ni then .nan else .inf ni
  | .fin _ _, a, b => if a.isZero || b.isZero then .nan else .inf n

/-- The exact sum of n products. -/
def dotSum (f : Nat → FVal × FVal) : Nat → DotSum
  | 0 => DotSum.zero
  | n + 1 => (dotSum f n).addProd (f n).1 (f n).2

/-- C plus an exact sum, rounded once to binary32; a zero result takes the sign IEEE 754 gives a sum. -/
def addDot (rm : Rm) (c : FVal) (s : DotSum) : Nat :=
  match s, c with
  | .nan, _ => fB32.defNaN
  | _, .nan _ => fB32.defNaN
  | .inf n, .inf n' => if n == n' then fB32.withSign n fB32.infCode else fB32.defNaN
  | .inf n, _ => fB32.withSign n fB32.infCode
  | .fin _ _, .inf n => fB32.withSign n fB32.infCode
  | .fin d z, .fin n m e =>
    let sum := Dyadic.add (FVal.fin n m e).dyadic d
    let sn := if d.n = 0 then z else decide (d.n < 0)
    let zeroNeg := if n == sn then n else rm == .rd
    (fB32.roundDyadic rm zeroNeg sum).bits

def aluDotF (t : LType) (rm : Rm) (ftz : Bool) (a b c : Nat) : Nat :=
  match t.fmt? with
  | some f =>
    let v (x k : Nat) : FVal := f.dec (elemAt t.elemW k x % 2 ^ f.width)
    fB32.flush ftz (addDot rm (fB32.dec (fB32.flush ftz c)) (dotSum (fun k => (v a k, v b k)) (32 / t.elemW)))
  | none => 0

/-- Block scales applied to a partial sum (16 R389). -/
def aluMxscale (isF32 ftz : Bool) (sa sb a : Nat) : Nat :=
  if sa = 0xFF || sb = 0xFF then fB32.defNaN
  else if isF32 then
    match fB32.dec (fB32.flush ftz a) with
    | .fin n m e => fB32.flush ftz (fB32.round .rne false n m (e + (sa : Int) + sb - 254)).bits
    | .inf n => fB32.withSign n fB32.infCode
    | .nan _ => fB32.defNaN
  else
    let x := sxNat 32 a
    fB32.flush ftz (fB32.round .rne false (decide (x < 0)) x.natAbs ((sa : Int) + sb - 254 - 12)).bits

/-! ### Lane floating point (16 R381 to R383) -/

/-- Operand modifiers: absolute value first, then negation, on the sign bit; then FTZ. -/
def prepF (f : Fmt) (absF negF ftz : Bool) (x : Nat) : Nat :=
  let mag := x % f.signBit
  let s := x / f.signBit % 2 == 1
  f.flush ftz (f.withSign ((if absF then false else s) != negF) mag)

/-- A result with FTZ and the default NaN. -/
def finF (f : Fmt) (ftz : Bool) (r : Nat) : Nat :=
  match f.dec r with
  | .nan _ => f.defNaN
  | _ => f.flush ftz r

/-- Comparison conditions of `fcmp` (16 R382). -/
def fcmpCond (c : Nat) (o : Option Ordering) : Bool :=
  match c with
  | 0 => o == some .eq
  | 1 => o != some .eq
  | 2 => o == some .lt
  | 3 => o == some .lt || o == some .eq
  | 4 => o == some .gt
  | 5 => o == some .gt || o == some .eq
  | 6 => o.isSome
  | _ => o.isNone

/-- Classes of a binary32 encoding (16 R383). -/
def fclassF32 (x : Nat) : Nat :=
  match fB32.dec x with
  | .nan _ => 1
  | .inf n => if n then 2 else 256
  | .fin n m _ =>
    if m = 0 then (if n then 16 else 32)
    else if fB32.isSubnormal x then (if n then 8 else 64)
    else if n then 4 else 128

/-- a x 2^b with one rounding. -/
def fscaleF32 (rm : Rm) (x : Nat) (b : Int) : Nat :=
  match fB32.dec x with
  | .fin n m e => (fB32.round rm false n m (e + b)).bits
  | .inf n => fB32.withSign n fB32.infCode
  | .nan _ => fB32.defNaN

/-! ### Squad reductions (16 R395): combinations and identities -/

/-- comb of operation 0 add, 1 min, 2 max, 3 and, 4 or, 5 xor in a type; f32 under FTZ. -/
def combOp (op : Nat) (t : LType) (ftz : Bool) (a b : Nat) : Nat :=
  let w := t.opW
  let fl (x : Nat) : Nat := if t == .f32 then fB32.flush ftz x else x
  match op with
  | 0 => if t == .f32 then fl (addF32 (fl a) (fl b)) else (a + b) % 2 ^ w
  | 1 => if t == .f32 then fl (finF fB32 ftz (fB32.minmax false (fl a) (fl b)).bits)
         else if t.ext a ≤ t.ext b then a else b
  | 2 => if t == .f32 then fl (finF fB32 ftz (fB32.minmax true (fl a) (fl b)).bits)
         else if t.ext a ≤ t.ext b then b else a
  | 3 => a &&& b
  | 4 => a ||| b
  | _ => a ^^^ b

def combIdentity (op : Nat) (t : LType) : Nat :=
  match op with
  | 1 => if t == .f32 then fB32.infCode else toBits t.opW t.maxInt
  | 2 => if t == .f32 then fB32.withSign true fB32.infCode else toBits t.opW t.minInt
  | 3 => 2 ^ t.opW - 1
  | _ => 0

/-- An absent operand lets the other pass. -/
def combOpt (f : Nat → Nat → Nat) (a b : Option Nat) : Option Nat :=
  match a, b with
  | some x, some y => some (f x y)
  | some x, none => some x
  | none, y => y

/-- One tree level over adjacent pairs: level d combines nodes whose index is a multiple of 2d. -/
def pairUp (f : Nat → Nat → Nat) : List (Option Nat) → List (Option Nat)
  | a :: b :: rest => combOpt f a b :: pairUp f rest
  | l => l

/-- Five levels of the fixed tree. -/
def treeReduce (f : Nat → Nat → Nat) (l : List (Option Nat)) : Option Nat :=
  (pairUp f (pairUp f (pairUp f (pairUp f (pairUp f l))))).head?.join

/-- One level of the prefix scan at distance d. -/
def scanLevel (f : Nat → Nat → Nat) (d : Nat) (p : List (Option Nat)) : List (Option Nat) :=
  List.zipWith (combOpt f) (List.replicate d none ++ p) p

def scanLevels (f : Nat → Nat → Nat) (p : List (Option Nat)) : List (Option Nat) :=
  scanLevel f 16 (scanLevel f 8 (scanLevel f 4 (scanLevel f 2 (scanLevel f 1 p))))

end Machine

end Sys2Proof
end

