-- ==== Sys2Proof/Machine/State.lean ====
section
/-! DEFINITION. The state of the machine: plain data, every piece of state that the spec gives the VA-820. The
operations over it stand in the other files of Machine/. A finite map is a list of keys and values, keys rising. -/

namespace Sys2Proof.Machine

/-- A finite map from natural numbers: keys strictly rising. -/
abbrev FMap (α : Type) : Type := List (Nat × α)

/-- Where the machine stops because the model has nothing to run. -/
inductive Fault where
  /-- `exec` was asked for a lane or spine instruction while no squad or spine thread runs. `step` never asks so:
  no run reaches it. Safe. -/
  | noAgent
  deriving DecidableEq, Repr, Inhabited

/-- An instruction that the model turns away. -/
inductive Refusal where
  /-- the instruction has no meaning in the model yet. Safe. -/
  | notModelled (mnemonic : String)
  deriving DecidableEq, Repr, Inhabited

/-! ### Values -/

/-- One word in each of the 32 lanes. -/
abbrev Lanes : Type := List Word

/-- A mapped lane register: its values and, while a long-latency write is pending, that operation (07 R168, R174). -/
structure VReg where
  val : Lanes := []
  pend : Option Nat := none
  deriving DecidableEq, Repr, Inhabited

/-- Where a long-latency result lands (16 R375, 17 R402). -/
inductive LDst where
  | none
  /-- `n` lane registers from `vI`; a register that the operation no longer owns is quarantined -/
  | v (idx n : Nat)
  /-- `n` uniform registers from `gI`, each 32 or 64 bits wide -/
  | g (idx n : Nat) (wide : Bool)
  | p (idx : Nat)
  /-- lane registers and a predicate together (18 R447) -/
  | vp (idx n pidx : Nat)
  deriving DecidableEq, Repr, Inhabited

/-- A long-latency operation in flight (07 R166, R174). -/
structure POp where
  squad : Nat
  /-- byte offset of the issuing instruction -/
  tpc : Word
  dst : LDst
  /-- lanes that receive a result -/
  lanes : Word
  /-- per destination register, the lane values; for `g`, one pair low, high per register in lane 0 -/
  vals : List Lanes
  pval : Word := 0
  /-- the completion flag that it lowers -/
  flag : Option Nat
  /-- every lane's result is there -/
  ready : Bool
  /-- offsets of uniform registers, and the predicate, that a younger write has defined since -/
  overG : List Nat := []
  overP : Bool := false
  /-- core and partition that hold its rows (07 R174) -/
  core : Nat := 0
  part : Nat := 0
  deriving DecidableEq, Repr, Inhabited

/-! ### Matrix engine (11, 18) -/

/-- Tile kinds (11 R246). -/
inductive TileKind where
  | fp32
  | i32
  | gain
  | offset
  deriving DecidableEq, Repr, Inhabited

/-- A tile with its status word (07 R177, 11 R246, R247). `INFL` is computed from the posted operations. -/
structure Tile where
  valid : Bool := false
  dirty : Bool := false
  lost : Bool := false
  kind : TileKind := .fp32
  /-- the posted state that issue checks use (11 R246) -/
  pvalid : Bool := false
  pkind : TileKind := .fp32
  ecause : BitVec 4 := 0
  ix : Bool := false
  ovf : Bool := false
  gu : Bool := false
  of : Bool := false
  nv : Bool := false
  /-- 1,024 elements, row by row; empty stands for zeros -/
  data : List Word := []
  deriving DecidableEq, Repr, Inhabited

/-- A carry: gain and offset of 32 channels (11 R248); empty stands for the identity. -/
structure Carry where
  lost : Bool := false
  pairs : List (Word × Word) := []
  deriving DecidableEq, Repr, Inhabited

/-- The operand-collector latch (11 R252): the captured registers of A, its scales, and its type. -/
structure Latch where
  ty : LType
  rows : List Lanes
  scales : Lanes
  deriving DecidableEq, Repr, Inhabited

/-- A tensor-identifier entry as an operation read it when it was accepted (12 R286): not read yet; its 64 bytes; a
table that is not homed on a compute die; or a read that failed, as a fault of a kind or on a poisoned page. -/
inductive Entry where
  | unread
  | bytes (bs : List Byte)
  | foreign
  | fault (kind : Nat)
  | poison
  deriving DecidableEq, Repr, Inhabited

/-- Loop record of an `mml` (11 R253), with the identifier entries, whose increments it holds. -/
structure LoopRec where
  remain : Nat
  done : Nat := 0
  tida : Nat
  tidb : Nat
  aaddr : Dword
  baddr : Dword
  enta : Entry := .unread
  entb : Entry := .unread
  deriving DecidableEq, Repr, Inhabited

/-- A posted matrix operation or `tstat` (06 R153, 11 R249). Its result and its flag stand in the long-latency
operation of the same number. -/
structure MOp where
  id : Nat
  squad : Nat
  instr : Instr
  tpc : Word
  em : Word
  flag : Option Nat
  /-- captured operands: A rows, A scales, uniform operands or a local-store rank and offset -/
  rows : List Lanes := []
  scales : Lanes := []
  ops : List Nat := []
  loop : Option LoopRec := none
  /-- tiles that it writes, with the kinds that they take -/
  dests : List (Nat × TileKind) := []
  /-- earlier operations on tiles that it reads, incomplete when it was posted (11 R250) -/
  held : List Nat := []
  /-- where the result of a retried operation lands, in which lanes, and what the others hold (13 R301) -/
  dst : LDst := .none
  lanes : Word := 0
  vals : List Lanes := []
  /-- steps of the pass that has been granted and not yet performed; the array that runs it -/
  granted : Nat := 0
  array : Option Nat := none
  /-- the request whose verdict or answer it waits for; 32-byte lines answered by a host or peer home, or written -/
  parked : Option Nat := none
  resp : FMap (List Byte) := []
  deriving DecidableEq, Repr

/-! ### Copies and reductions (15 R371, 18 R449 to R456) -/

/-- A copy's end: memory, or a place in a segment of the team. -/
inductive CopyEnd where
  | mem (va : Dword)
  | ls (core off : Nat)
  deriving DecidableEq, Repr, Inhabited

/-- A copy operation with its progress (18 R450 to R452). A squad's flag stands in the long-latency operation of the
same number. -/
structure Copy where
  id : Nat
  cluster : Nat
  slot : Nat
  team : Nat
  /-- issuing squad, or none for the spine thread -/
  squad : Option Nat
  tpc : Word
  em : Word
  instr : Instr
  /-- the source; with an identifier, a logical offset in `src` -/
  src : CopyEnd
  dst : CopyEnd
  len : Nat
  tid : Option Nat := none
  ent : Entry := .unread
  /-- count of `.arm` -/
  arm : Option Nat := none
  flag : Option Nat := none
  /-- completion word of a spine copy; 0 for none -/
  word : Dword := 0
  /-- of a `cpys` whose ranges overlap, the source's contents from before the copy (18 R451) -/
  prior : List Byte := []
  /-- bytes of the destination that are written -/
  done : Nat := 0
  /-- the request whose verdict or answer it waits for; 32-byte lines answered by a host or peer home -/
  parked : Option Nat := none
  resp : FMap (List Byte) := []
  /-- ended: cause and block index; the completion word may still wait -/
  ended : Option (Nat × Nat) := none
  deriving DecidableEq, Repr

/-- A cross-die reduction contribution that has not completed (18 R453); its result stands in the long-latency operation
of the same number. -/
structure Cred where
  id : Nat
  team : Nat
  slot : Nat
  cluster : Nat
  desc : List Byte
  /-- the source's elements as they stood at issue, where they could be read (18 R454; log entry 79) -/
  old : Option (List Nat) := none
  deriving DecidableEq, Repr, Inhabited

/-- An arrival in a reduction group: reduction, contributor index, source identifier entry, the source's elements at issue,
and the 32-byte lines of the source that a host or peer home has answered. -/
structure Contrib where
  cred : Nat
  me : Nat
  ent : List Byte
  old : List Nat := []
  resp : FMap (List Byte) := []
  deriving DecidableEq, Repr, Inhabited

/-- An open or completed reduction group (18 R454, R455). -/
structure RGroup where
  slot : Nat
  /-- place of its record, and the die that keeps it -/
  va : Dword
  die : Nat
  /-- descriptor of the first arrival, and the entry of its destination -/
  desc : List Byte
  destEnt : List Byte
  /-- contributions in arrival order -/
  arrived : List Contrib
  /-- it combines and takes no more arrivals; contributors whose read failed, the cause of a failed write, and the
  elements written so far -/
  closing : Bool := false
  failed : List Nat := []
  dead : Option Nat := none
  wcount : Nat := 0
  /-- final ARR once complete -/
  final : Option Word := none
  deriving DecidableEq, Repr, Inhabited

/-! ### Traps (13) -/

/-- What `tret.retry` or `tret.skip` of a deferred trap acts on (13 R300, R301). -/
inductive Retry where
  | none
  | access (log : Nat)
  | matrix (op : MOp)
  | copy (c : Copy)
  deriving DecidableEq, Repr

/-- A trap due for a squad (13 R289, R293). -/
structure Trap where
  code : Byte
  tlm : Word
  vals : List Dword := []
  aux : Dword := 0
  tpc : Word
  /-- the instruction word at `tpc` -/
  word : BitVec 96 := 0
  deferred : Bool := false
  retry : Retry := .none
  /-- its place in the order in which the team's traps arrived (13 R294) -/
  arrival : Nat := 0
  deriving DecidableEq, Repr

/-- An engine error that its squad has not observed yet (11 R250, 18 R435): the operation and its flag. -/
structure Seen where
  op : Nat
  flag : Option Nat
  trap : Trap
  deriving DecidableEq, Repr

/-- An entry of the operand log (13 R299): the instruction, its parked lanes with their addresses and data. -/
structure LogEntry where
  id : Nat
  instr : Instr
  tpc : Word
  em : Word
  /-- lanes still parked: lane, address, store or compare data -/
  parked : List (Nat × Dword × List Word)
  /-- the operation whose result and flag wait for its lanes -/
  pop : Nat
  /-- it holds bytes of merged stores that could not be drained, one byte in each word (02 R32; log entry 21) -/
  merged : Bool := false
  deriving DecidableEq, Repr

/-! ### Agents -/

/-- Waits of an agent (06 R148, R154). -/
inductive Wait where
  | none
  /-- results that must land first; not a visible wait -/
  | landing (ops : List Nat)
  /-- something else that ends without an event of its own: a fence, a full engine queue; not a visible wait -/
  | hold
  /-- a register-grow request (06 R156); not a visible wait -/
  | grow (rows : Nat)
  /-- shared-register entry of a cluster: visible -/
  | shared (cluster entry : Nat)
  /-- `nap`: visible; the time at which it ends -/
  | nap (untilNs : Option Nat)
  /-- the barrier phase that must end: visible -/
  | barrier (phase : Bool)
  /-- queue wait: visible -/
  | queue (q : Nat)
  /-- `yield`: visible; flag mask and continuation -/
  | yield (mask : BitVec 12) (cont : Word)
  /-- waiting to enter its handler (13 R294): visible -/
  | handler
  /-- a parked access of a spine thread, or a parked fetch -/
  | fault
  deriving DecidableEq, Repr, Inhabited

/-- Origin of a lane's thread (09 R211). -/
structure Origin where
  osq : Nat
  oln : Nat
  ticket : Half
  deriving DecidableEq, Repr, Inhabited

/-- Where a squad stood when it entered its handler: the volley in force, and what its wait had performed (13 R296). -/
structure Saved where
  hdr : BitVec 96
  hpos : Word
  inVolley : Bool
  granted : Option Dword
  arrived : Bool
  deriving DecidableEq, Repr, Inhabited

/-- A branch or `rejoin` that waits to write thread records (09 R209): their kind, the lanes with their targets, where
the lanes that stay go on, the registers that it frees, a call's link, and the instruction's word. -/
structure Eject where
  kind : Nat
  out : List (Nat × Word)
  stay : Option Word
  frees : List Nat := []
  link : List (Nat × Lanes) := []
  word : BitVec 96
  deriving DecidableEq, Repr, Inhabited

/-- A squad (07, 06 R144). -/
structure Squad where
  team : Nat
  index : Nat
  /-- physical core, partition, squad slot of the partition -/
  core : Nat := 0
  part : Nat := 0
  slot : Nat := 0
  /-- present in its slot and not exited -/
  live : Bool := true
  /-- the issue slot that holds it -/
  held : Option Bool := none
  /-- next header or instruction, offset from CB; header of the volley under way -/
  pos : Word
  hdr : BitVec 96 := 0
  hpos : Word := 0
  inVolley : Bool := false
  seta : BitVec 4 := 15
  setb : BitVec 4 := 15
  yieldHint : Bool := false
  uni : Bool := false
  v : FMap VReg := []
  g : FMap Dword := []
  p : List Word := [0, 0, 0, 0, 0, 0, 0]
  pm : Word := 0xFFFFFFFF
  em : Word := 0xFFFFFFFF
  f : List (BitVec 6) := [0, 0, 0, 0, 0, 0, 0, 0, 0, 0, 0, 0]
  tcause : Word := 0
  tpc : Word := 0
  tlm : Word := 0
  tem : Word := 0
  lfm : Word := 0
  cstat : Word := 0
  fpmode : Word := 0
  origin : List Origin := []
  /-- barrier arrival marks of the lanes' threads; phase of `barar` -/
  marks : Word := 0
  phase : Option Bool := none
  wait : Wait := .none
  /-- a shared-register operation or `nap` that the wait has performed: its value -/
  granted : Option Dword := none
  /-- the first part of the instruction at `pos` is done: the arrival of a `bar`, the write-backs of a `pfence` -/
  arrived : Bool := false
  eject : Option Eject := none
  saved : Option Saved := none
  log : List LogEntry := []
  traps : List Trap := []
  unseen : List Seen := []
  /-- precise trap that waits to enter, or the trap in its handler -/
  cur : Option Trap := none
  resume : Word := 0
  /-- clock at which it last won a slot or became eligible, and at which it last issued (06 R147, R155) -/
  wonAt : Nat := 0
  lastIssue : Nat := 0
  /-- code words that a host or peer home has supplied and that have not been executed; a word whose fetch has failed for good
  stands there without bytes -/
  code : FMap (List Byte) := []
  /-- the last lanes have ended inside the handler: the squad exits (08 R188) -/
  leaving : Bool := false
  tiles : FMap Tile := []
  carries : FMap Carry := []
  latch : Option Latch := none
  /-- launch squad: has its rows guarantee, tiles and carries (09 R213) -/
  originIdx : Bool := true
  /-- its threads are away and the former keeps its registers, flags, tiles and carries (09 R213) -/
  kept : Bool := false
  deriving DecidableEq, Repr

/-- A spine thread (07 R163, 13 R298). -/
structure Spine where
  team : Nat
  cluster : Nat
  thread : Nat := 0
  live : Bool := true
  x : FMap Dword := []
  pc : Dword
  scause : Word := 0
  sepc : Dword := 0
  sval : Dword := 0
  shand : Dword := 0
  sfpmode : Word := 0
  wait : Wait := .none
  granted : Option Dword := none
  /-- the one-entry operand log (13 R299): the address of the parked access -/
  log : Option Dword := none
  /-- answer of a host or peer home to the access at `pc` -/
  resp : Option (List Byte) := none
  /-- a code word that a host or peer home has supplied -/
  code : Option (List Byte) := none
  lastIssue : Nat := 0
  ndet : Nat := 0
  deriving DecidableEq, Repr, Inhabited

/-! ### Teams and grids (06) -/

/-- A launch record (06 R134). -/
structure LRec where
  entryl : Dword := 0
  entrys : Dword := 0
  gridx : Nat := 0
  gridy : Nat := 0
  gridz : Nat := 0
  teamx : Nat := 0
  teamy : Nat := 0
  teamz : Nat := 0
  cores : Nat := 0
  prio : Nat := 0
  rows : Nat := 0
  lskib : Nat := 0
  tiles : Nat := 0
  carries : Nat := 0
  hwin : Nat := 0
  spine : Bool := false
  idem : Bool := false
  mig : Bool := false
  bullpen : Bool := false
  gxind : Bool := false
  args : Dword := 0
  spawnbase : Dword := 0
  spawnkib : Nat := 0
  spawnslots : Nat := 0
  gxaddr : Dword := 0
  exitrec : Dword := 0
  doneq : Nat := 0
  deriving DecidableEq, Repr, Inhabited

/-- A command that the SVP has taken and not answered (05 R115): where it came from, the context of its service queue,
its journal slot, its host tag and opcode. -/
structure HostCmd where
  src : CmdSrc
  slot : Nat
  jslot : Nat
  tag : Word
  opc : Nat
  deriving DecidableEq, Repr, Inhabited

/-- Who launched an entry of queue 0 (06 R137, 05 R119). -/
inductive Launcher where
  | team (id : Nat)
  | host (c : HostCmd)
  deriving DecidableEq, Repr, Inhabited

/-- A grid. -/
structure Grid where
  slot : Nat
  lrec : Dword
  lr : LRec
  tag : Dword
  /-- launching team, by the model's number; none for a host launch -/
  parent : Option Nat
  depth : Nat
  /-- linear index of the next team not yet placed -/
  next : Nat := 0
  count : Nat := 0
  retired : Nat := 0
  lost : Nat := 0
  /-- Spilled and restarted teams to place before new ones, in order -/
  again : List Nat := []
  /-- the LAUNCH command that the SVP answers -/
  host : Option HostCmd := none
  /-- the distributor waits for the word at `GXADDR`: its access, if one is out, and the answer of a host or peer home -/
  waitGx : Bool := false
  gxReq : Option Nat := none
  gxResp : Option Nat := none
  /-- the push or reservation of the completion entry under way, with the status -/
  done : Option (Nat × Nat) := none
  complete : Bool := false
  /-- its end is done: it leaves with the step -/
  gone : Bool := false
  deriving DecidableEq, Repr, Inhabited

/-- Team states (06 R142). -/
inductive TeamState where
  | pending
  | resident
  | spilled
  | swapped
  | migrating
  | exited
  | retired
  deriving DecidableEq, Repr, Inhabited

/-- State of a 128-byte block of a segment (08 R190). -/
inductive BlockSt where
  | plain
  | armed (n : Nat)
  | drained
  deriving DecidableEq, Repr, Inhabited

/-- A team's segment on one of its cores: bytes (unlisted ones read zero) and blocks (unlisted ones are plain). A block's
bytes are unlisted when it drains; those listed in a Drained block were written since and read as zero until it leaves
that state (08 R191). -/
structure Segment where
  bytes : FMap Byte := []
  blocks : FMap BlockSt := []
  deriving DecidableEq, Repr, Inhabited

/-- A thread parked in or ejected to the spawn area (09 R211, R212). -/
structure ThreadRec where
  /-- place in the spawn area, 64-byte units, and its length -/
  off : Nat
  units : Nat
  tpc : Word
  org : Origin
  kind : Nat
  /-- `p0` to `p6`, and the live registers with their values -/
  preds : Byte := 0
  regs : List (Nat × Word) := []
  marked : Bool
  deriving DecidableEq, Repr, Inhabited

/-- A former group (09 R212): records in arrival order. -/
structure Group where
  core : Nat
  recs : List ThreadRec
  lastArrival : Nat
  /-- 256 clocks have passed without an arrival -/
  due : Bool := false
  deriving DecidableEq, Repr, Inhabited

/-- A team. -/
structure Team where
  grid : Nat
  index : Nat
  state : TeamState := .pending
  escaped : Bool := false
  restarted : Bool := false
  children : Nat := 0
  barArr : Nat := 0
  barPhase : Bool := false
  /-- cores of its group, in rank order; ranks (virtual cores) kept from the first placement -/
  cores : List Nat := []
  vcores : List Nat := []
  placedAt : Nat := 0
  /-- first key of its window in its home bank, spawn slot, team header slot -/
  window : Nat := 0
  spawnSlot : Option Nat := none
  hdrSlot : Option Nat := none
  thand : Dword := 0
  /-- squad in its handler; traps that have arrived and not entered, as squads and places in the order of arrival; traps
  arrived so far (13 R294) -/
  hsq : Option Nat := none
  hwait : List (Nat × Nat) := []
  trapNo : Nat := 0
  /-- latest issue of its squads that have left (06 R155) -/
  lastIssue : Nat := 0
  segs : List Segment := []
  groups : List Group := []
  /-- `rdclk` and `rand` instructions so far, per squad index (05 R129) -/
  ndet : FMap Nat := []
  /-- ended under 13 R295, 05 R115 or 06 R161: status and cause -/
  ended : Option (Nat × Nat) := none
  /-- exit record fields (06 R145) -/
  underMark : Bool := false
  countLost : Bool := false
  deadrd : Bool := false
  lfmor : Word := 0
  lfmsq0 : Nat := 0xFFFF
  lfmsqn : Nat := 0
  undblk : Nat := 0
  tstart : Nat := 0
  /-- image in the save area (13 R307, R308) -/
  image : Dword := 0
  nblk : Nat := 0
  cut : Dword := 0
  /-- the model's own: the blocks of its image, by number in the save area (log entry 44) -/
  blocks : List Nat := []
  /-- its save waits for a free block (13 R309) -/
  noBlock : Bool := false
  /-- Resident: a spill is under way; Swapped: its image is not written yet -/
  stopping : Bool := false
  /-- when it was swapped out, in the order of the model's numbers -/
  awayAt : Nat := 0
  /-- accepted `tmig`: target die, and the leader's predicate -/
  migTo : Option (Nat × Nat) := none
  /-- the request for the exit record's write, and a verdict that it cannot be performed (06 R145) -/
  exitReq : Option Nat := none
  exitDone : Bool := false
  /-- it counts towards its grid's completion (06 R133, R146) -/
  counted : Bool := false
  /-- its header has changed and the write is still to be made: its page was held -/
  hdrDue : Bool := false
  deriving DecidableEq, Repr, Inhabited

/-! ### Clusters and cores -/

/-- An agent's operation waiting at a shared-register entry (07 R182). -/
inductive HOp where
  | put (v : Dword) (c : Nat)
  | read
  | acc (x : Dword) (op ty n : Nat)
  deriving DecidableEq, Repr, Inhabited

/-- A shared-register entry (07 R179) and its waiter list. -/
structure HEntry where
  value : Dword := 0
  full : Bool := false
  count : Byte := 0
  gather : Bool := false
  consumers : Byte := 1
  op : BitVec 3 := 0
  gtype : BitVec 3 := 0
  expect : BitVec 11 := 0
  recv : BitVec 11 := 0
  waiters : List (Agent × HOp) := []
  deriving DecidableEq, Repr, Inhabited

/-- A prefix-deduplication handle (18 R447): context slot and nodes in order of insertion. -/
structure Pfx where
  slot : Nat
  nodes : List (Word × Word)
  deriving DecidableEq, Repr, Inhabited

/-- What a cluster holds beside its squads, operations and caches. -/
structure Cluster where
  /-- window entries 0 to 191; unlisted entries are free and at reset -/
  bank : FMap HEntry := []
  /-- common entries: 64 x context slot + index -/
  common : FMap HEntry := []
  pfx : FMap Pfx := []
  clUnder : Dword := 0
  clCountLost : Dword := 0
  clCntRel : Dword := 0
  clOverRead : Dword := 0
  /-- time base of the engine's last token, or since which it has had an operation outstanding (11 R263) -/
  lastToken : Nat := 0
  hung : Bool := false
  deriving DecidableEq, Repr, Inhabited

/-- Shadow bank of a core (13 R304). -/
inductive Shadow where
  | empty
  | filling
  | ready
  | draining
  deriving DecidableEq, Repr, Inhabited

/-- What a core holds beside its squads. -/
structure CoreSt where
  shadow : Shadow := .empty
  /-- the context for which it is filling or ready -/
  shadowFor : Option Nat := none
  /-- clock since which no squad has started or continued a volley (06 R155) -/
  idleSince : Nat := 0
  /-- per partition, the clock since which the grow condition holds (06 R156) -/
  growSince : FMap Nat := []
  deriving DecidableEq, Repr, Inhabited

/-! ### Caches and requests (02, 03) -/

/-- Cache states; invalid is absence. -/
inductive CState where
  | shared
  | exclusive
  | modified
  deriving DecidableEq, Repr, Inhabited

/-- Count state of a grain in a cluster L1 (08 R196): armed by a squad of a team, or a drained tag. -/
inductive CntState where
  | plain
  | armed (n team squad : Nat)
  | drained
  deriving DecidableEq, Repr, Inhabited

/-- A grain that a holder has. -/
structure Grain where
  holder : Holder
  asid : Half
  va : Dword
  size : Nat
  st : CState
  data : List Byte
  /-- dirty 32-byte sectors -/
  dirty : Nat
  /-- where its home keeps it; none for a line homed on the host -/
  pa : Option Nat := none
  cnt : CntState := .plain
  /-- clock of arming, for release of the least recently armed (08 R199) -/
  armedAt : Nat := 0
  /-- the home agent that serves its page, 2 x die + agent; 16 for a line homed on the host (02 R27, R92) -/
  home : Nat := 0
  /-- 32-byte sectors whose valid bit is clear (02 R33) -/
  lost : Nat := 0
  /-- the right to read that was granted at its fill (02 R38) -/
  rd : Bool := true
  deriving DecidableEq, Repr, Inhabited

/-- A store of one lane, or of a spine thread, that a write-combining entry holds: what a trap about it names. -/
structure WcSrc where
  agent : Agent
  /-- number of the store's operation -/
  op : Nat
  team : Nat
  instr : Instr
  tpc : Word := 0
  em : Word := 0
  lane : Nat := 0
  va : Dword
  n : Nat
  deriving DecidableEq, Repr

/-- A write-combining entry: 512 bytes of one cluster, with the bytes written, the agents that stored them and their stores
(02 R32). One that its home could not take at once is stuck: with the end of the step its stores wait at their agents
(03 R74; log entry 21). -/
structure WcEntry where
  cluster : Nat
  agents : List Agent
  asid : Half
  va : Dword
  bytes : FMap Byte
  lastStore : Nat
  stuck : Bool := false
  srcs : List WcSrc := []
  deriving DecidableEq, Repr, Inhabited

/-- A snoop announcement (02 R39). -/
structure Announce where
  die : Nat
  requester : Holder
  own : Bool
  asid : Half
  va : Dword
  acceptedAt : Option Nat := none
  deriving DecidableEq, Repr, Inhabited

/-- Kinds of request that a home may hold, park or answer later. -/
inductive ReqKind where
  | read (len : Nat)
  | write (data : List Byte)
  | atom (op size : Nat) (ty : LType) (operand expected : BitVec 128)
  | exec
  | ifetch
  deriving DecidableEq, Repr, Inhabited

/-- Who made a request (03 R76 `REQ`). -/
inductive Reqr where
  /-- a prefetch into the L1 of a cluster; nothing waits for it (17 R409) -/
  | prefetch (cluster : Nat)
  /-- a prefetch as far as the remote-data cache of a die -/
  | prefetchRdc (die : Nat)
  | squad (id log : Nat)
  | spine (team : Nat)
  | matrix (op : Nat)
  | copy (id : Nat)
  | device
  /-- the distributor: the `GXADDR` read of a grid, the exit record of a team -/
  | grid (id : Nat)
  | exitRec (team : Nat)
  /-- the report of an `ATTEST` command -/
  | svp
  /-- a store or atomic of a team that has ended: it is still performed (06 R133, 13 R295) -/
  | orphan (team : Nat)
  /-- a merged store of a team's spine thread whose drain could not be performed at once (02 R32; log entry 21) -/
  | merged (team : Nat)
  /-- the exit record of a team that `CTXFREE` has killed (06 R145) -/
  | killRec
  deriving DecidableEq, Repr, Inhabited

/-- Where a request stands. -/
inductive ReqSt where
  /-- on its way to its home -/
  | sent
  /-- answered STALE this many times in a row -/
  | stale (n : Nat)
  /-- a replayable fault of this kind waits for room to be recorded -/
  | faulted (kind : Nat)
  /-- attached to the pending-fault entry of this token -/
  | parked (token : Word)
  /-- held by HOLD or MOVEHOLD, or waiting for an engine-owned or host-held grain -/
  | held
  /-- it waits for one of the 2,048 outstanding requests of the PCIe link (04 R81) -/
  | queued
  /-- sent to the host or a peer -/
  | remote
  /-- the host refused its translation; a page request is out -/
  | pri
  deriving DecidableEq, Repr, Inhabited

/-- A request that its step could not complete. -/
structure Req where
  id : Nat
  who : Reqr
  kind : ReqKind
  asid : Half
  va : Dword
  st : ReqSt
  die : Nat := 0
  sentAt : Nat := 0
  port : Nat := 0
  /-- context slot; access class; lane of a squad's access; HME and leaf of its fault record -/
  slot : Nat := 0
  acc : Nat := 0
  lane : Nat := 0
  hme : Nat := 0
  pte : Nat := 0
  /-- the host has refused its translation once (04 R94) -/
  refused : Bool := false
  /-- the agent whose program order it belongs to, where `who` does not say so (04 R98, 10 R241) -/
  agent : Agent := .none
  /-- STALE answers in a row so far (03 R67) -/
  stales : Nat := 0
  /-- it asks the host for exclusive access to a line, into which a store goes (02 R34, 04 R92) -/
  own : Bool := false
  /-- `REQ` of its fault record where nothing waits for it, or where a codec unit reads for it (03 R76) -/
  code : Option Nat := none
  /-- bytes that the agent's write-combining entry held when it sent this load to a peer (10 R237), by offset -/
  newer : FMap Byte := []
  deriving DecidableEq, Repr, Inhabited

/-- An access that its home has held and that is no request of its own, because its instruction or operation waits as a
whole: who makes it, its die, place, and the STALE answers that it has had in a row (03 R67, R71). -/
structure HeldAcc where
  agent : Agent
  op : Option Nat
  die : Nat
  asid : Half
  va : Dword
  stales : Nat := 0
  deriving DecidableEq, Repr, Inhabited

/-- A pending-fault table entry (03 R75). -/
structure PFault where
  token : Word
  asid : Half
  page : Dword
  kind : Nat
  write : Bool
  slot : Nat
  reqs : List Nat
  deriving DecidableEq, Repr, Inhabited

/-- A home-map cache entry (03 R59) and a home translation (03 R66). -/
structure HmEntry where
  asid : Half
  granule : Dword
  hme : Word
  deriving DecidableEq, Repr, Inhabited

structure TlbEntry where
  asid : Half
  va : Dword
  /-- log2 of the page size: 16, 21 or 30 -/
  lg : Nat
  leafPa : Nat
  leaf : Dword
  deriving DecidableEq, Repr, Inhabited

/-- A table pointer in a die's walker caches (03 R59, R66): of a home map or a page table, the level of the table that it
names, and the address bits above what that table indexes. -/
structure WalkEntry where
  asid : Half
  map : Bool
  lv : Nat
  pre : Nat
  ptr : Dword
  deriving DecidableEq, Repr, Inhabited

/-- A page or granule that its home holds (03 R71). -/
structure Held where
  asid : Half
  va : Dword
  lg : Nat
  /-- the model's number when it was held: earlier copies still write the grains that they own (03 R69) -/
  since : Nat := 0
  deriving DecidableEq, Repr, Inhabited

/-- What a compute die holds. -/
structure Die where
  failed : Bool := false
  hcmdva : Dword := 0
  /-- command under way: its number, log2 of its page size, its ASID and its address -/
  hcmdBusy : Option (Nat × Nat × Half × Dword) := none
  hcmdErr : Bool := false
  hcmdDone : Bool := false
  heatctl : Word := 0x00001006
  heatcnt : Dword := 0
  heatlo : List Dword := [0, 0]
  heathi : List Dword := [0, 0]
  heatbase : List Dword := [0, 0]
  heatstmp : List Dword := [0, 0]
  /-- heat windows whose values are not defined, since software broke 03 R79 -/
  heatOpen : List Bool := [false, false]
  hazard : Bool := false
  agemax : Half := 4096
  fpwin : Word := 65536
  mewdt : Half := 10
  /-- codec counters, unit x 8 + i, and the requests in the queues of the two units (02 R43, R50) -/
  codec : FMap Dword := []
  codecQ : List (List Nat) := [[], []]
  hmc : List HmEntry := []
  tlb : List TlbEntry := []
  walks : List WalkEntry := []
  /-- the model's own: per ordered resource, the clock and the rank of its last operation, and how many it has taken in
  that clock (log entry 70) -/
  order : FMap (Nat × Nat × Nat) := []
  pft : List PFault := []
  held : List Held := []
  corrected : Nat := 0
  deriving DecidableEq, Repr, Inhabited

/-! ### Device block, I/O dies, SVP -/

/-- The device block (05 R120, R118). -/
structure Dev where
  step : Byte := 0x10
  ready : Bool := false
  rcvact : Bool := false
  rstcause : BitVec 4 := 1
  lc : BitVec 2 := 1
  ccbbase : Dword := 0
  svcerr : Word := 0
  svpwdt : Half := 100
  wdtStart : Nat := 0
  rcvCount : Half := 0
  rcvLast : BitVec 4 := 0
  mgmtTail : Half := 0
  mgmtHead : Half := 0
  mgmtRTail : Half := 0
  mgmtRHead : Half := 0
  /-- the entry at `MGMTHEAD` is in progress; its response that waits for room -/
  mgmtBusy : Bool := false
  /-- the entry in progress comes from a log under replay, not from the ring (05 R130; log entry 52) -/
  mgmtLog : Bool := false
  /-- the logged management entry that is in progress -/
  mgmtEntry : List Byte := []
  mgmtResp : Option (List Byte) := none
  mgmtRing : FMap Byte := []
  mgmtRRing : FMap Byte := []
  keys : Bool := true
  firmware : Nat := 0
  fwFailed : Bool := false
  /-- the walk and the rebuilding of the recovery under way are done (05 R122) -/
  rcvWalked : Bool := false
  deriving DecidableEq, Repr, Inhabited

/-- A second-tier CXL port (02 R28, R30). -/
structure Tier where
  cap : Half := 0
  persok : Bool := false
  link : Bool := false
  mode : BitVec 2 := 0
  /-- extents mapped into the port window: first GiB and length -/
  extents : List (Nat × Nat) := []
  deriving DecidableEq, Repr, Inhabited

/-- A host window (04 R86). -/
structure Window where
  off : Dword := 0
  fn : BitVec 6 := 0
  len : Dword := 0
  va : Dword := 0
  asid : Half := 0
  deriving DecidableEq, Repr, Inhabited

/-- A NOTIFY write that has not taken effect (04 R96, R97): its service queue, its writer's function, the tail, and the KL
write that it waits for. -/
structure Notify where
  svq : Nat
  fn : BitVec 6
  tail : Half
  seq : Option Word
  deriving DecidableEq, Repr, Inhabited

/-- The I/O dies. -/
structure Io where
  tiers : FMap Tier := []
  vplDevno : Half := 0
  vplUp : BitVec 12 := 0
  vplTmo : BitVec 4 := 4
  klNdrop : Half := 0
  klDegr : Bool := false
  klUp : Bool := false
  klSeq : Word := 0
  pcieWin : FMap Window := []
  klWin : FMap Window := []
  notifies : List Notify := []
  aer : Nat := 0
  pcieUp : Bool := true
  /-- address translation cache: PASID and 4 KiB page (04 R93) -/
  atc : List (Nat × Nat) := []
  /-- memory types that peers have returned: ASID, 64 KiB page, `MT` (04 R101) -/
  peerMt : List (Half × Nat × Nat) := []
  /-- log2 of the PF's BAR2 (04 R81, R82) -/
  bar2 : Nat := 30
  /-- MSI-X tables of the functions, 2048 x function + vector: entries of 16 bytes (04 R81, R82; log entry 82) -/
  msixTab : FMap (List Byte) := []
  deriving DecidableEq, Repr, Inhabited

/-- A placement set (06 R139, R141, R150). -/
structure PSet where
  cores : List Nat := []
  bullpen : Option Nat := none
  ptr : Nat := 0
  owner : Option Nat := none
  sliceStart : Nat := 0
  /-- a team of the owner has been Resident in this slice (06 R152) -/
  had : Bool := false
  /-- a swap is under way: next owner and clock of its start -/
  swap : Option (Nat × Nat) := none
  /-- a team has been spilled for this one, which is placed first (06 R155): its grid, and its number if it has one -/
  due : Option (Nat × Option Nat) := none
  deriving DecidableEq, Repr, Inhabited

/-- A queue push of the device or the SVP that waits for room (05 R111), with its 64 bytes; the lane operation or the
agent that waits for it. -/
structure DPush where
  id : Nat
  slot : Nat
  q : Nat
  entry : List Byte
  pop : Option Nat := none
  who : Agent := .none
  /-- the SVP thread that it holds, and the journal slot that its end frees: context slot and index -/
  thread : Option Nat := none
  journal : Option (Nat × Nat) := none
  /-- it is the launch of this command (05 R119) -/
  launch : Option HostCmd := none
  deriving DecidableEq, Repr, Inhabited

/-- A reservation that has not committed (05 R107). -/
structure Resv where
  id : Nat
  slot : Nat
  q : Nat
  at_ : Word
  who : Agent
  deriving DecidableEq, Repr, Inhabited

/-- Messages to the outside. -/
inductive Out where
  | host (tag : Nat) (ok : Bool) (data : List Byte)
  | retry (tag : Nat)
  | unsupported (tag : Nat)
  | abort (tag : Nat)
  | msix (fn : Nat) (vec : Nat)
  | klRecall (asid : Half) (va : Dword)
  /-- a request to the host: its number, PASID and address, and whether exclusive access is asked for (04 R92, R93) -/
  | klReq (req pasid : Nat) (va : Dword) (own : Bool)
  /-- an ATS translation request with its PASID (04 R93) -/
  | atsReq (pasid : Nat) (va : Dword)
  /-- a request to a peer: port, number, context on the peer, address (04 R101) -/
  | peerReq (port req : Nat) (rasid : Half) (va : Dword)
  /-- with the page's memory type (04 R101) -/
  | peerResp (dev : Half) (tag : Nat) (ok : Bool) (mt : Nat) (data : List Byte)
  /-- a grant to the host: grain, memory type, rights to read, to write and to atomics, exclusive, data (04 R90) -/
  | klGrant (tag : Nat) (asid : Half) (va : Dword) (grain mt : Nat) (rd wr at_ excl : Bool) (data : List Byte)
  /-- the answer to a read of a register (04 R83) -/
  | reg (tag : Nat) (data : List Byte)
  /-- the PCIe link has gone down (01 R22) -/
  | pcieDown
  | klSnooped (asid : Half) (va : Dword) (data : List Byte)
  | atsDone (asid : Half) (va : Dword)
  | pageReq (req : Nat)
  | cxlFlush
  | cxlAnswer (port : Nat) (ok : Bool)
  /-- a page has been compressed: the `CMP` that its leaf takes (02 R44) -/
  | pageStored (die : Nat) (unit : Bool) (cmp : Nat)
  deriving DecidableEq, Repr, Inhabited

/-- What happens next: a step of the device or of the outside with what it is about, or an agent's instruction. What the
opcode table has no row for comes with a name of its own (log entry 83). -/
inductive Move where
  | event (i : Instr) (arg : EvArg)
  | run (a : Agent)
  /-- a read of a register (04 R83) -/
  | readReg (arg : EvArg)
  /-- the PCIe link goes up or down (01 R22, 04 R103) -/
  | pcieLink (up : Bool)
  /-- the host sets the size of the PF's BAR2, as its log2 (04 R81) -/
  | resizeBar2 (lg : Nat)
  /-- the host writes an entry of the MSI-X table of a function (04 R82) -/
  | msixEntry (fn vec : Nat) (entry : List Byte)
  /-- the host reads in a function's MSI-X table (04 R82) -/
  | readMsix (arg : EvArg)
  /-- an SVP thread executes an instruction word of its firmware (05 R114) -/
  | svp (thread : Nat) (w : Word)
  deriving DecidableEq, Repr

/-- The machine. -/
structure State where
  /-- the model's own: what happens next, oldest first; with none, `turn` runs (log entry 6) -/
  moves : List Move := []
  turn : Agent := .none
  arg : EvArg := {}
  /-- the model's own: draws of free values so far, and the next fresh number (log entries 6, 8) -/
  freeNo : Nat := 0
  nextId : Nat := 1
  /-- the model's own: what the outside has been sent, newest first (log entry 6) -/
  outs : List Out := []
  /-- the model's own: resets of the device so far; the SVP sets the upper dies at each (01 R14; log entry 2) -/
  resets : Nat := 0
  /-- cluster clocks of each compute die (01 R16) -/
  clocks : FMap Nat := []
  timeNs : Dword := 0
  boost : Bool := false
  throttle : Nat := 0
  pwrLimit : Nat := 5400
  mem : List Host.Cell := []
  dev : Dev := {}
  dies : FMap Die := []
  io : Io := {}
  grains : List Grain := []
  wc : List WcEntry := []
  announces : List Announce := []
  reqs : List Req := []
  psets : FMap PSet := []
  grids : FMap Grid := []
  teams : FMap Team := []
  squads : FMap Squad := []
  /-- squads without threads: those that the former keeps, and those with matrix operations outstanding (06 R133) -/
  away : FMap Squad := []
  spines : FMap Spine := []
  clusters : FMap Cluster := []
  cores : FMap CoreSt := []
  pops : FMap POp := []
  mops : List MOp := []
  copies : List Copy := []
  creds : List Cred := []
  rgroups : List RGroup := []
  dpush : List DPush := []
  resvs : List Resv := []
  /-- SVP threads, 0 to 63 (05 R114) -/
  svps : FMap Spine := []
  /-- service queues whose SVP thread is awake (05 R114) -/
  svcAwake : Dword := 0
  svpFrozen : Bool := false
  /-- SVP's service-queue map: SVQ to slot and queue (05 R114) -/
  svqMap : FMap (Nat × Nat) := []
  /-- accesses that a home holds (03 R67, R71) -/
  heldAccs : List HeldAcc := []
  /-- recalls that the host has not answered: ASID and address (04 R90) -/
  asked : List (Half × Dword) := []
  /-- agents whose persistence fence waits for its acknowledgements (02 R52) -/
  pfences : List Agent := []
  /-- launchers of the entries of queue 0, slot x 65536 + counter -/
  launchers : FMap Launcher := []
  /-- log entries consumed by a replay, slot x 65536 + counter (05 R130); last MSI-X head, slot x 1024 + queue (05 R110) -/
  replay : FMap Nat := []
  /-- blocks of the context images, by slot (13 R307, R308) -/
  ctxBlocks : FMap (List Nat) := []
  /-- contexts that are closing, by slot: the teams that retired with status 2, and the command to answer (05 R115) -/
  closing : FMap (Nat × Option HostCmd) := []
  /-- commands that wait for the write of a report, by request (05 R127) -/
  svpWait : FMap HostCmd := []
  /-- the contents that the persistence domains of the CXL devices hold (02 R52, R53) -/
  durable : List Host.Cell := []
  msixHead : FMap Nat := []
  /-- MSI-X messages, function and vector, and the KL writes whose acknowledgement they wait for (04 R98) -/
  msixWait : List (Nat × Nat × List Nat) := []
  deriving DecidableEq, Repr

/-- The machine right after power-on reset (05 R125, R120): memory wiped, nothing resident. -/
def State.reset : State := {}

end Sys2Proof.Machine
end

