-- ==== Sys2Proof/Machine/Map.lean ====
section
/-! DEFINITION. Finite maps, memory as bytes, and bit fields of byte lists. Memory is a list of address and byte pairs
in one canonical form: addresses strictly rising, and no entry equal to what an unlisted address reads as. An
unlisted address reads as zero, since a reset wipes every memory (05 R125; log entry 1). -/

namespace Sys2Proof.Machine

/-- The value under a key. -/
def mget {α : Type} : FMap α → Nat → Option α
  | [], _ => none
  | (k, v) :: rest, n => bif k.beq n then some v else mget rest n

/-- Insert or replace, keeping keys rising. -/
def mset {α : Type} : FMap α → Nat → α → FMap α
  | [], n, x => [(n, x)]
  | (k, v) :: rest, n, x =>
    bif n.blt k then (n, x) :: (k, v) :: rest
    else bif n.beq k then (n, x) :: rest
    else (k, v) :: mset rest n x

/-- Remove a key. -/
def mdel {α : Type} : FMap α → Nat → FMap α
  | [], _ => []
  | (k, v) :: rest, n => bif k.beq n then rest else (k, v) :: mdel rest n

/-- Change the value under a key, if any. -/
def mmod {α : Type} (m : FMap α) (n : Nat) (f : α → α) : FMap α :=
  match mget m n with
  | some v => mset m n (f v)
  | none => m

/-- The value under a key, or the default of an unlisted one. -/
def mgetD {α : Type} (m : FMap α) (n : Nat) (d : α) : α := (mget m n).getD d

/-- Keys strictly rising. -/
def mwf {α : Type} : FMap α → Bool
  | (a, _) :: (b, y) :: rest => decide (a < b) && mwf ((b, y) :: rest)
  | _ => true

/-! ### Memory -/

/-- What an unlisted byte of memory reads as (05 R125, 10 R225; log entry 1). -/
def memDefault : Byte := 0

/-- One byte of memory. -/
def memRead : List Host.Cell → Nat → Byte
  | [], _ => memDefault
  | (k, v) :: rest, a => bif k.beq a then v else memRead rest a

/-- Insert or replace one listed byte. -/
def memInsert : List Host.Cell → Nat → Byte → List Host.Cell
  | [], a, b => [(a, b)]
  | (k, v) :: rest, a, b =>
    bif a.blt k then (a, b) :: (k, v) :: rest
    else bif a.beq k then (a, b) :: rest
    else (k, v) :: memInsert rest a b

/-- Remove one listed byte. -/
def memErase : List Host.Cell → Nat → List Host.Cell
  | [], _ => []
  | (k, v) :: rest, a => bif k.beq a then rest else (k, v) :: memErase rest a

/-- Write one byte, keeping the canonical form. -/
def memWrite (m : List Host.Cell) (a : Nat) (b : Byte) : List Host.Cell :=
  if b = memDefault then memErase m a else memInsert m a b

/-- n bytes from an address upward. -/
def memReadN (m : List Host.Cell) (a : Nat) : Nat → List Byte
  | 0 => []
  | n + 1 => memRead m a :: memReadN m (a + 1) n

/-- A list of bytes from an address upward. -/
def memWriteN (m : List Host.Cell) (a : Nat) : List Byte → List Host.Cell
  | [] => m
  | b :: bs => memWriteN (memWrite m a b) (a + 1) bs

/-- The canonical form of a memory. -/
def Memory.wf : List Host.Cell → Bool
  | [] => true
  | [(_, b)] => b != memDefault
  | (a, b) :: (a', b') :: rest => b != memDefault && decide (a < a') && Memory.wf ((a', b') :: rest)

/-! ### Bytes and fields -/

/-- Little-endian number of bytes i to i + n - 1 of a list; absent bytes read 0. -/
def fieldOf (bs : List Byte) (i : Nat) : Nat → Nat
  | 0 => 0
  | n + 1 => (bs.getD i 0).toNat + 256 * fieldOf bs (i + 1) n

/-- n little-endian bytes of a number. -/
def bytesOf : Nat → Nat → List Byte
  | 0, _ => []
  | n + 1, x => BitVec.ofNat 8 x :: bytesOf n (x / 256)

/-- Replace the bytes of a list from index i on. -/
def putBytes (bs : List Byte) (i : Nat) (new : List Byte) : List Byte :=
  bs.take i ++ new ++ bs.drop (i + new.length)

/-- n zero bytes. -/
def zeros (n : Nat) : List Byte := List.replicate n 0

/-- Bits lo to lo + n - 1 of a number. -/
def bitsOf (x lo n : Nat) : Nat := x / 2 ^ lo % 2 ^ n

/-- A flag at bit i. -/
def flagBit (b : Bool) (i : Nat) : Nat := if b then 2 ^ i else 0

def bitOf (x i : Nat) : Bool := x / 2 ^ i % 2 == 1

/-- Replace the i-th element. -/
def setAt {α : Type} : List α → Nat → α → List α
  | [], _, _ => []
  | _ :: xs, 0, y => y :: xs
  | x :: xs, n + 1, y => x :: setAt xs n y

/-- Lanes 0 to 31. -/
def laneIdx : List Nat :=
  [0, 1, 2, 3, 4, 5, 6, 7, 8, 9, 10, 11, 12, 13, 14, 15, 16, 17, 18, 19, 20, 21, 22, 23, 24, 25, 26, 27, 28, 29, 30, 31]

/-- A lane mask from a test. -/
def maskOf (f : Nat → Bool) : Word :=
  laneIdx.foldl (fun m l => if f l then m ||| BitVec.ofNat 32 (2 ^ l) else m) 0

/-- Bit l of a mask. -/
def inMask (m : Word) (l : Nat) : Bool := m.getLsbD l

/-- The lanes of a mask in ascending order. -/
def lanesOf (m : Word) : List Nat := laneIdx.filter (inMask m)

/-- The lowest lane of a mask. -/
def lowLane (m : Word) : Option Nat := laneIdx.find? (inMask m)

def zeroLanes : Lanes := List.replicate 32 0

/-- Element of a lane list. -/
def laneAt (v : Lanes) (l : Nat) : Word := v.getD l 0

/-- A lane list from a function. -/
def lanesFrom (f : Nat → Word) : Lanes := laneIdx.map f

end Sys2Proof.Machine
end

