-- ==== Sys2Proof/Machine/Translate.lean ====
section
/-! DEFINITION. Contexts, the home map, page tables, generations and the checks at a home (03 R54 to R68), page heat
(03 R78). Tables lie in memory; walkers read them there (03 R66). -/

namespace Sys2Proof.Machine

/-- Little-endian number of n bytes at a physical address. -/
def rdNat (m : List Host.Cell) (a n : Nat) : Nat := fieldOf (memReadN m a n) 0 n

/-- A new free value (log entries 8, 13). -/
def State.draw (s : State) : State := { s with freeNo := s.freeNo + 1 }

/-- A free choice below n (log entry 13). -/
def State.choice (s : State) (n : Nat) : Nat := Config.freeChoice s.freeNo % n

/-- A fresh number. -/
def State.fresh (s : State) : State := { s with nextId := s.nextId + 1 }

def getDie (s : State) (d : Nat) : Die := mgetD s.dies d {}

def setDie (s : State) (d : Nat) (x : Die) : State := { s with dies := mset s.dies d x }

/-- The cluster clock of a compute die (01 R16). -/
def clk (s : State) (d : Nat) : Nat := mgetD s.clocks d 0

/-- An operation of a rank on a resource of a die. Operations of one clock take place in rising rank, at most `width` of
them; one that comes later in the order of steps and would break that takes place in the next clock, and so those that
follow it there (log entry 70). The die's clock itself moves with time only (`tick`). -/
def inOrder (s : State) (die key rank width : Nat) : State :=
  let d := getDie s die
  let now := clk s die
  let put (at_ n : Nat) : State :=
    setDie s die { d with order := mset (d.order.filter fun x => decide (now ≤ x.2.1)) key (at_, rank, n) }
  match mget d.order key with
  | some (c, r, n) =>
    if c < now then put now 1
    else if rank < r ∨ width ≤ n then put (c + 1) 1
    else put c (n + 1)
  | none => put now 1

/-- Resources whose operations of one clock are ordered: the notification network (02 R39), the home agents (03 R78), a
team's transitions and traps (06 R142, 13 R294), entries of a cluster's shared registers (07 R182) and blocks of a core's local store
(08 R187). -/
abbrev ordSnoop : Nat := 0
abbrev ordHome : Nat := 1
abbrev ordTeam (team : Nat) : Nat := 2 + 8 * team
abbrev ordTrap (team : Nat) : Nat := 6 + 8 * team
abbrev ordShared (cluster key : Nat) : Nat := 3 + 4 * (cluster % 64 + 64 * key)
abbrev ordStore (core block : Nat) : Nat := 4 + 4 * (core % 256 + 256 * block)
/-- A cluster's prefix unit (18 R447). -/
abbrev ordPfx (cluster : Nat) : Nat := 5 + 4 * (cluster % 64)

/-! ### Context control blocks (05 R112, R113) -/

def ccbAt (s : State) (slot : Nat) : Nat := s.dev.ccbbase.toNat + 0x1000 * slot

/-- A field of a CCB. -/
def ccb (s : State) (slot off n : Nat) : Nat := rdNat s.mem (ccbAt s slot + off) n

def ctxState (s : State) (slot : Nat) : Nat := ccb s slot 0 8 % 4
def ctxLive (s : State) (slot : Nat) : Bool := ctxState s slot == 1
def ctxAsid (s : State) (slot : Nat) : Half := BitVec.ofNat 16 (ccb s slot 2 2)

/-- The context that holds an ASID: the live one, else one that is closing. -/
def slotOfAsid (s : State) (asid : Half) : Option Nat :=
  ((List.range 64).find? fun k => ctxLive s k && ctxAsid s k == asid).or
    ((List.range 64).find? fun k => ctxState s k != 0 && ctxAsid s k == asid)

/-! ### Table pointers and walks (03 R56 to R62) -/

/-- A table pointer (03 R60), with the table's size. A reserved bit makes it malformed whatever its `V` (00 R3). -/
inductive Ptr where
  | table (a : Nat)
  | invalid
  | malformed
  deriving DecidableEq, Repr

def ptrOf (w size : Nat) : Ptr :=
  let t := bitsOf w 8 44 * 256
  if bitsOf w 52 12 ≠ 0 ∨ bitsOf w 1 7 ≠ 0 ∨ t % size ≠ 0 then .malformed
  else if w % 2 = 0 then .invalid
  else .table t

/-- The table entry that a walker reads: with a die, a pointer may stand in its upper-level caches. Where the kept pointer
differs from memory's, either is used (03 R59, R66; log entry 69). -/
def walkRead (s : State) (die : Option Nat) (asid : Half) (map : Bool) (lv pre a size : Nat) : State × Nat :=
  let w := rdNat s.mem a 8
  match die with
  | none => (s, w)
  | some die =>
    let d := getDie s die
    match d.walks.find? fun e => e.asid == asid && e.map == map && e.lv == lv && e.pre == pre with
    | some e =>
      if e.ptr.toNat = w then (s, w) else if s.choice 2 = 0 then (s.draw, e.ptr.toNat) else (s.draw, w)
    | none =>
      match ptrOf w size with
      | .table _ => (setDie s die { d with walks := ⟨asid, map, lv, pre, BitVec.ofNat 64 w⟩ :: d.walks }, w)
      | _ => (s, w)

/-- Outcome of a home-map walk: the HME, or the pointer at which it ended. -/
inductive HmWalk where
  | hme (w : Nat)
  | unmapped (w : Nat)
  | malformed (w : Nat)
  deriving DecidableEq, Repr

/-- One level of a home-map walk. -/
def hmStep (r : State × Nat) (size : Nat) (k : State → Nat → State × HmWalk) : State × HmWalk :=
  match ptrOf r.2 size with
  | .invalid => (r.1, .unmapped r.2)
  | .malformed => (r.1, .malformed r.2)
  | .table t => k r.1 t

/-- The home map's leaf of an address (03 R56), as a walker of a die finds it, or as memory holds it. -/
def hmWalkAt (s : State) (die : Option Nat) (slot : Nat) (asid : Half) (va : Nat) : State × HmWalk :=
  hmStep (s, ccb s slot 0x10 8) 2048 fun s t0 =>
  hmStep (walkRead s die asid true 1 (va / 2 ^ 48) (t0 + 8 * bitsOf va 48 8) 4096) 4096 fun s t1 =>
  hmStep (walkRead s die asid true 2 (va / 2 ^ 39) (t1 + 8 * bitsOf va 39 9) 4096) 4096 fun s t2 =>
  hmStep (walkRead s die asid true 3 (va / 2 ^ 30) (t2 + 8 * bitsOf va 30 9) 2048) 2048 fun s t3 =>
  (s, .hme (rdNat s.mem (t3 + 4 * bitsOf va 21 9) 4))

def hmWalk (s : State) (slot va : Nat) : HmWalk := (hmWalkAt s none slot 0 va).2

def hmeHome (w : Nat) : Nat := w % 16
def hmeGen (w : Nat) : Nat := bitsOf w 4 8
def hmePeer (w : Nat) : Nat := bitsOf w 12 4

/-- Malformed home-map entries (03 R58). -/
def hmeBad (w : Nat) : Bool :=
  w / 2 ^ 16 != 0 || (decide (11 ≤ hmeHome w) && decide (hmeHome w ≤ 14)) || (hmePeer w != 0 && hmeHome w != 10)

/-- Outcome of a page-table walk: a leaf with its size and place, or the entry at which the walk ended. -/
inductive PtWalk where
  | leaf (lg at_ w : Nat)
  | invalid (w : Nat)
  | malformed (w : Nat)
  deriving DecidableEq, Repr

/-- An L2 or L3 entry whose bits [3:1] are zero is a pointer (03 R60). -/
def isPtr (w : Nat) : Bool := bitsOf w 1 3 == 0

/-- One level of a page-table walk. -/
def ptStep (r : State × Nat) (size : Nat) (k : State → Nat → State × PtWalk) : State × PtWalk :=
  match ptrOf r.2 size with
  | .invalid => (r.1, .invalid r.2)
  | .malformed => (r.1, .malformed r.2)
  | .table t => k r.1 t

/-- The page-table walk (03 R60), by a walker of a die, or as memory holds it. -/
def ptWalkAt (s : State) (die : Option Nat) (slot : Nat) (asid : Half) (va : Nat) : State × PtWalk :=
  ptStep (s, ccb s slot 8 8) 2048 fun s t0 =>
  ptStep (walkRead s die asid false 1 (va / 2 ^ 48) (t0 + 8 * bitsOf va 48 8) 4096) 4096 fun s t1 =>
  ptStep (walkRead s die asid false 2 (va / 2 ^ 39) (t1 + 8 * bitsOf va 39 9) 4096) 4096 fun s t2 =>
  let a2 := t2 + 8 * bitsOf va 30 9
  let r2 := walkRead s die asid false 3 (va / 2 ^ 30) a2 4096
  if isPtr r2.2 = false then (r2.1, .leaf 30 a2 r2.2)
  else ptStep r2 4096 fun s t3 =>
  let a3 := t3 + 8 * bitsOf va 21 9
  let r3 := walkRead s die asid false 4 (va / 2 ^ 21) a3 256
  if isPtr r3.2 = false then (r3.1, .leaf 21 a3 r3.2)
  else ptStep r3 256 fun s t4 =>
  let a4 := t4 + 8 * bitsOf va 16 5
  (s, .leaf 16 a4 (rdNat s.mem a4 8))

def ptWalk (s : State) (slot va : Nat) : PtWalk := (ptWalkAt s none slot 0 va).2

/-! ### Leaves (03 R61, R62) -/

def leafV (w : Nat) : Bool := bitOf w 0
def leafRD (w : Nat) : Bool := bitOf w 1
def leafWR (w : Nat) : Bool := bitOf w 2
def leafEX (w : Nat) : Bool := bitOf w 3
def leafMT (w : Nat) : Nat := bitsOf w 4 2
def leafCG (w : Nat) : Nat := bitsOf w 6 2
def leafAC (w : Nat) : Bool := bitOf w 8
def leafDT (w : Nat) : Bool := bitOf w 9
def leafAT (w : Nat) : Bool := bitOf w 10
def leafCF (w : Nat) : Bool := bitOf w 11
def leafTier (w : Nat) : Nat := bitsOf w 12 2
def leafCmp (w : Nat) : Nat := bitsOf w 14 2
def leafMxa (w : Nat) : Bool := bitOf w 16
def leafPers (w : Nat) : Bool := bitOf w 17
def leafGen (w : Nat) : Nat := bitsOf w 18 8
def leafG (w : Nat) : Bool := bitOf w 26
def leafPa (w : Nat) : Nat := bitsOf w 28 36 * 2 ^ 16

/-- Coherence grain in bytes. -/
def leafGrain (w : Nat) : Nat :=
  match leafCG w with
  | 0 => 32
  | 1 => 128
  | _ => 512

/-- The lowest n GB in whole 64 KiB pages (02 R26). -/
def gbBytes (n : Nat) : Nat := n * 1000000000 / 65536 * 65536

/-- The second-tier port of a physical address, if it lies on one (02 R26). -/
def portOf (pa : Nat) : Option Nat :=
  let region := pa / 2 ^ 44
  if 0x10 ≤ region ∧ region ≤ 0x17 then some (region - 0x10) else none

/-- Populated offsets of a second-tier port: within the capacity that it reports (02 R26). -/
def Tier.holds (t : Tier) (off size : Nat) : Bool :=
  (t.mode == 1 && decide (off + size ≤ gbBytes t.cap.toNat))
  || (t.mode == 2 && t.extents.any fun x => decide (x.1 * 2 ^ 30 ≤ off) && decide (off + size ≤ (x.1 + x.2) * 2 ^ 30))

/-- Populated physical addresses (02 R26). -/
def populated (s : State) (pa size : Nat) : Bool :=
  match portOf pa with
  | some p => (mgetD s.io.tiers p {}).holds (pa % 2 ^ 44) size
  | none => decide (pa / 2 ^ 44 < 16) && decide (pa % 2 ^ 44 + size ≤ gbBytes 48)

/-- Placement rules of a page of `size` bytes homed on a die (02 R26, R27). -/
def placed (s : State) (die tier pa size : Nat) : Bool :=
  populated s pa size
  && (match portOf pa with
      | some p => (mgetD s.io.tiers p {}).mode == BitVec.ofNat 2 tier
      | none => tier == 0 && pa / 2 ^ 44 / 2 == die)

/-- A persistent page stands on a CXL port with a persistence domain, stored raw (02 R51). A page that the device has
poisoned meets POISON, not the rule on `CMP` (R31; log entry 71). -/
def persOk (s : State) (w : Nat) : Bool :=
  leafTier w == 2 && (leafCmp w == 0 || leafCmp w == 3) && (mgetD s.io.tiers (leafPa w / 2 ^ 44 - 0x10) {}).persok

/-- Malformed leaves (03 R62), whatever their `V` (R67). The address of a page that is not present is ignored. -/
def leafBad (s : State) (die lg w : Nat) : Bool :=
  leafCG w == 3 || bitOf w 27 || (leafTier w == 3 && leafCmp w != 0)
  || (leafTier w != 3 && (leafPa w % 2 ^ lg != 0 || placed s die (leafTier w) (leafPa w) (2 ^ lg) == false))
  || (leafPers w && !persOk s w)

/-! ### All leaves of a context -/

/-- Entries of a table with their indices. -/
def tableAt (s : State) (p : Ptr) (n size : Nat) : List (Nat × Nat) :=
  match p with
  | .table t => (List.range n).map fun i => (i, rdNat s.mem (t + size * i) size)
  | _ => []

/-- A leaf: its address, log2 of its size, its place in memory and its value. -/
structure LeafAt where
  va : Nat
  lg : Nat
  at_ : Nat
  w : Nat
  deriving DecidableEq, Repr

def ptrBase : Ptr → Nat
  | .table t => t
  | _ => 0

/-- Leaves below an L2 entry, and below an L3 entry. -/
def leavesL3 (s : State) (va at_ e : Nat) : List LeafAt :=
  if isPtr e = false then [⟨va, 21, at_, e⟩]
  else
    let p := ptrOf e 256
    (tableAt s p 32 8).map fun x => ⟨va + x.1 * 2 ^ 16, 16, ptrBase p + 8 * x.1, x.2⟩

def leavesL2 (s : State) (va at_ e : Nat) : List LeafAt :=
  if isPtr e = false then [⟨va, 30, at_, e⟩]
  else
    let p := ptrOf e 4096
    ((tableAt s p 512 8).map fun x => leavesL3 s (va + x.1 * 2 ^ 21) (ptrBase p + 8 * x.1) x.2).flatten

/-- Every leaf of a context's page table, valid or not (03 R60). -/
def leavesOf (s : State) (slot : Nat) : List LeafAt :=
  ((tableAt s (ptrOf (ccb s slot 8 8) 2048) 256 8).map fun x0 =>
    ((tableAt s (ptrOf x0.2 4096) 512 8).map fun x1 =>
      let p := ptrOf x1.2 4096
      ((tableAt s p 512 8).map fun x2 =>
        leavesL2 s (x0.1 * 2 ^ 48 + x1.1 * 2 ^ 39 + x2.1 * 2 ^ 30) (ptrBase p + 8 * x2.1) x2.2).flatten).flatten).flatten

/-- Leaves of the live contexts that are valid and present, with their slots. -/
def mappedLeaves (s : State) : List (Nat × LeafAt) :=
  (((List.range 64).filter fun k => ctxState s k != 0).map fun k =>
    ((leavesOf s k).filter fun l => leafV l.w && leafTier l.w != 3).map fun l => (k, l)).flatten

/-! ### Home-map cache and home TLB (03 R59, R66) -/

/-- Drop one element, freely chosen, of a full cache (log entry 16). -/
def evictOne {α : Type} (s : State) (cap : Nat) (l : List α) : List α :=
  if l.length < cap then l else l.eraseIdx (s.choice l.length)

/-- The HME of an address at a die: from its home-map cache, or walked and cached. Where an entry was changed without
`HMINV`, the old or the new one routes the request (R59; log entry 69). -/
def homeLookup (s : State) (die slot : Nat) (asid : Half) (va : Nat) : State × HmWalk :=
  let granule := BitVec.ofNat 64 (va / 2 ^ 21 * 2 ^ 21)
  let r := hmWalkAt s (some die) slot asid va
  match (getDie s die).hmc.find? fun e => e.asid == asid && e.granule == granule with
  | some e =>
    let old := HmWalk.hme e.hme.toNat
    if r.2 = old then (s, old) else if s.choice 2 = 0 then (s.draw, old) else (r.1.draw, r.2)
  | none =>
    match r.2 with
    | .hme w =>
      let d := getDie r.1 die
      (setDie r.1 die { d with hmc := ⟨asid, granule, BitVec.ofNat 32 w⟩ :: evictOne s 4096 d.hmc }, .hme w)
    | x => (r.1, x)

/-- Drop a granule's HME from a die's cache. -/
def dropHme (s : State) (die : Nat) (asid : Half) (va : Nat) : State :=
  let granule := BitVec.ofNat 64 (va / 2 ^ 21 * 2 ^ 21)
  let d := getDie s die
  setDie s die { d with hmc := d.hmc.filter fun e => !(e.asid == asid && e.granule == granule) }

/-- A home TLB entry matches an address of a context (R61 `G`, R66). -/
def TlbEntry.hits (e : TlbEntry) (asid : Half) (va : Nat) : Bool :=
  (e.asid == asid || leafG e.leaf.toNat) && e.va.toNat / 2 ^ e.lg == va / 2 ^ e.lg

/-- Leaves that differ beyond `AC` and `DT`. -/
def leafDiffers (a b : Nat) : Bool := (a ||| 0x300) != (b ||| 0x300)

/-- What the home finds for an address: a TLB hit or a walk. Where global leaves of its address differ, the request is
served under any of them (R65; log entry 69). -/
def homeWalk (s : State) (die slot : Nat) (asid : Half) (va : Nat) : State × PtWalk :=
  match (getDie s die).tlb.filter (·.hits asid va) with
  | [] => ptWalkAt s (some die) slot asid va
  | e :: rest =>
    let entry (e : TlbEntry) : PtWalk := .leaf e.lg e.leafPa e.leaf.toNat
    let own : List PtWalk :=
      if e.asid = asid then []
      else match ptWalk s slot va with
        | .leaf lg a w => if leafV w && leafDiffers w e.leaf.toNat then [.leaf lg a w] else []
        | _ => []
    let others := (rest.filter fun x => leafDiffers x.leaf.toNat e.leaf.toNat).map entry ++ own
    if others.isEmpty then (s, entry e)
    else (s.draw, (entry e :: others).getD (s.choice (others.length + 1)) (entry e))

/-- Keep a valid leaf in the home TLB. -/
def tlbPut (s : State) (die : Nat) (asid : Half) (va lg at_ w : Nat) : State :=
  let d := getDie s die
  let rest := d.tlb.filter fun e => !(e.asid == asid && e.lg == lg && e.va.toNat / 2 ^ lg == va / 2 ^ lg)
  setDie s die { d with
    tlb := ⟨asid, BitVec.ofNat 64 (va / 2 ^ lg * 2 ^ lg), lg, at_, BitVec.ofNat 64 w⟩ :: evictOne s 32768 rest }

/-! ### Heat (03 R78) -/

def heatLo (d : Die) (w : Nat) : Nat := (d.heatlo.getD w 0).toNat
def heatHi (d : Die) (w : Nat) : Nat := (d.heathi.getD w 0).toNat

/-- The window of a physical address. -/
def heatWindow (d : Die) (pa : Nat) : Option Nat :=
  [0, 1].find? fun w => decide (heatLo d w ≤ pa) && decide (pa < heatHi d w)

/-- The epoch: time base over 1,000 x 2^EP, modulo 2^32. -/
def heatEpoch (s : State) (d : Die) : Nat := s.timeNs.toNat / (1000 * 2 ^ bitsOf d.heatctl.toNat 8 5) % 2 ^ 32

/-- Heat values of a window that 03 R79 leaves not defined: each update of a group leaves free bytes in it, within 0 to 255
(log entry 89). -/
def heatFree (s : State) (d : Die) (w g : Nat) : State :=
  let bytes : List Byte := (List.range 64).map fun i => (Config.free64 s.freeNo i).setWidth 8
  let m := memWriteN s.mem ((d.heatbase.getD w 0).toNat + 64 * g) bytes
  { s.draw with mem := memWriteN m ((d.heatstmp.getD w 0).toNat + 4 * g) (bytesOf 4 (heatEpoch s d)) }

/-- Update of the heat bytes for a sampled request, in a window that software has prepared as 03 R79 asks. -/
def heatSample (s : State) (d : Die) (w pa : Nat) : State :=
  let i := (pa - heatLo d w) / 65536
  let g := i / 64
  let base := (d.heatbase.getD w 0).toNat
  let stampAt := (d.heatstmp.getD w 0).toNat + 4 * g
  let e := heatEpoch s d
  let old := rdNat s.mem stampAt 4
  let m1 :=
    if old = e then s.mem
    else
      let k := Nat.min ((e + 2 ^ 32 - old) % 2 ^ 32) 8
      let bytes := (memReadN s.mem (base + 64 * g) 64).map fun (b : Byte) => b >>> k
      memWriteN (memWriteN s.mem (base + 64 * g) bytes) stampAt (bytesOf 4 e)
  let h := (memRead m1 (base + i)).toNat
  { s with mem := memWrite m1 (base + i) (BitVec.ofNat 8 (Nat.min (h + 1) 255)) }

/-- An accepted home request: `HEATCNT` rises; the sampled one updates its frame's heat. -/
def heatCount (s : State) (die : Nat) (pa : Option Nat) : State :=
  let d := getDie s die
  let n := d.heatcnt + 1
  let s := setDie s die { d with heatcnt := n }
  let ctl := d.heatctl.toNat
  match pa with
  | some pa =>
    if bitOf ctl 15 && n.toNat % 2 ^ bitsOf ctl 0 4 == 0 then
      match heatWindow d pa with
      | some w => if d.heatOpen.getD w false then heatFree s d w ((pa - heatLo d w) / 65536 / 64) else heatSample s d w pa
      | none => s
    else s
  | none => s

/-! ### Checks at the home (03 R55, R64, R67) -/

/-- Access classes, numbered as `ACC` of 03 R76; 5 is a prefetch, 6 the query of `loc` (15 R367), which needs no right. -/
abbrev accLoad : Nat := 0
abbrev accStore : Nat := 1
abbrev accAtomic : Nat := 2
abbrev accFill : Nat := 3
abbrev accFetch : Nat := 4
abbrev accPrefetch : Nat := 5
abbrev accQuery : Nat := 6

/-- The first requirement of a class that fails, as a fault kind (03 R64). An atomic to an alias page is never performed,
whatever its rights (02 R47; log entry 72). -/
def classFault (acc w : Nat) : Option Nat :=
  if acc = accStore ∨ acc = accAtomic then
    if acc = accAtomic ∧ leafMxa w then some 0x12
    else if acc = accAtomic ∧ leafRD w = false then some 0x04
    else if leafWR w = false then some 0x05
    else if acc = accAtomic ∧ leafAT w = false then some 0x07
    else if leafCmp w = 1 then some 0x09
    else none
  else if acc = accFetch then if leafEX w then none else some 0x06
  else if acc = accQuery then none
  else if leafRD w = false then some 0x04
  else if acc = accFill ∧ (leafCF w = false ∨ leafCG w = 0) then some 0x08
  else none

/-- A translation that passed. -/
structure TInfo where
  die : Nat
  hme : Nat
  lg : Nat
  leafAt : Nat
  leaf : Nat
  pa : Nat
  deriving DecidableEq, Repr

/-- What a request meets. -/
inductive TRes where
  | ok (t : TInfo)
  /-- kind, posting die, HME, leaf or pointer -/
  | fault (kind die hme pte : Nat)
  | poison (t : TInfo)
  /-- held at its home (03 R71) -/
  | held
  /-- homes 8, 9 and 10: home code and HME -/
  | remote (hme : Nat)
  deriving DecidableEq, Repr

def replayable (kind : Nat) : Bool := decide (kind ≤ 0x0A)

/-- A page or granule that the home holds. -/
def isHeld (d : Die) (asid : Half) (va : Nat) : Bool :=
  d.held.any fun h => h.asid == asid && h.va.toNat / 2 ^ h.lg == va / 2 ^ h.lg

/-- The page stands on a second-tier port whose link is down (02 R26). -/
def linkDown (s : State) (w : Nat) : Bool :=
  leafTier w != 0 && !(mgetD s.io.tiers (leafPa w / 2 ^ 44 - 0x10) {}).link

/-- Set `AC`, and `DT` for a class that writes, in memory and in the TLB (03 R63). -/
def setAcDt (s : State) (die : Nat) (asid : Half) (va lg at_ w acc : Nat) : State × Nat :=
  let w1 := if leafAC w then w else w + 2 ^ 8
  let w2 := if (acc = accStore ∨ acc = accAtomic) ∧ leafDT w1 = false then w1 + 2 ^ 9 else w1
  if w2 = w then (s, w)
  else
    let old := rdNat s.mem at_ 8
    let s := { s with mem := memWriteN s.mem at_ (bytesOf 8 (old ||| (w2 - w))) }
    (tlbPut s die asid va lg at_ w2, w2)

/-- The home agent of a page, and so its codec unit: the stack's for HBM, else `VA[16]` (02 R27). -/
def homeAgent (w pa va : Nat) : Nat := if leafTier w = 0 then pa / 2 ^ 44 % 2 else va / 2 ^ 16 % 2

/-- The home's verdict on a request of generation `gen`; `none` answers STALE (03 R55, R67). With `count` false the
home is only asked what it would find: no heat, no `AC`, no `DT`. Where neither the page table nor the home map yields a
generation to compare, the spec gives none, and the model takes the request's own (log entry 90). -/
def homeCheck (s : State) (die slot : Nat) (asid : Half) (va acc hme : Nat) (gen : Option Nat) (count : Bool) :
    State × Option TRes :=
  if isHeld (getDie s die) asid va then (s, some .held)
  else
    let good (g : Nat) : Bool := gen == none || gen == some g
    let bad (s : State) (kind w : Nat) : State × Option TRes :=
      let r := hmWalkAt s (some die) slot asid va
      let mapGen : Nat := match r.2 with
        | .hme w => hmeGen w
        | _ => hmeGen hme
      if good mapGen then (if count then heatCount r.1 die none else r.1, some (.fault kind die hme w)) else (r.1, none)
    match homeWalk s die slot asid va with
    | (s, .invalid w) => bad s 0x02 w
    | (s, .malformed w) => bad s 0x10 w
    | (s, .leaf lg at_ w) =>
      if leafBad s die lg w then bad s 0x10 w
      else if leafV w = false then bad s 0x02 w
      else if good (leafGen w) = false then (s, none)
      else if leafTier w = 3 then
        (if count then heatCount s die none else s, some (.fault 0x03 die hme w))
      else
        let pa := leafPa w + va % 2 ^ lg
        let s := if count then heatCount (inOrder s die ordHome (homeAgent w pa va) 2) die (some pa) else s
        let s := tlbPut s die asid va lg at_ w
        match classFault acc w with
        | some k => (s, some (.fault k die hme w))
        | none =>
          let t : TInfo := ⟨die, hme, lg, at_, w, pa⟩
          if leafCmp w = 3 then (s, some (.poison t))
          else if count = false then (s, some (.ok t))
          else if linkDown s w then
            let w' := w ||| 3 * 2 ^ 14
            (tlbPut { s with mem := memWriteN s.mem at_ (bytesOf 8 (rdNat s.mem at_ 8 ||| 3 * 2 ^ 14)) } die asid va lg at_ w',
             some (.poison { t with leaf := w' }))
          else
            let (s, w') := setAcDt s die asid va lg at_ w acc
            (s, some (.ok { t with leaf := w' }))

/-- A peer-table entry is valid and well formed (04 R100). -/
def peerOk (p : Nat) : Bool := bitOf p 12 && bitsOf p 48 16 == 0 && bitsOf p 13 3 == 0

/-- Routing by an HME (03 R55, R58): the faults found before the request leaves its die, a home outside, or the verdict of
a compute die. -/
def route (s : State) (die slot : Nat) (asid : Half) (va acc w : Nat) (count : Bool) : State × Option TRes :=
  if hmeBad w then (s, some (.fault 0x10 die w 0))
  else if hmeHome w = 15 then (s, some (.fault 0x01 die w 0))
  else if hmeHome w = 10 then
    let p := ccb s slot (0x80 + 8 * hmePeer w) 8
    if peerOk p then (s, some (.remote w)) else (s, some (.fault 0x10 die w 0))
  else if hmeHome w ≥ 8 then (s, some (.remote w))
  else homeCheck s (hmeHome w) slot asid va acc w (some (hmeGen w)) count

/-- One trip of a request: home lookup, routing, the home's verdict; `none` is a STALE answer. -/
def requestOnce (s : State) (die slot : Nat) (asid : Half) (va acc : Nat) (count : Bool) : State × Option TRes :=
  match homeLookup s die slot asid va with
  | (s, .unmapped p) => (s, some (.fault 0x01 die 0 p))
  | (s, .malformed p) => (s, some (.fault 0x10 die 0 p))
  | (s, .hme w) => route s die slot asid va acc w count

/-- A request until it is answered: a STALE answer drops the HME and reissues it; the eighth in a row raises the
generation-loop fault (R67). `n` is the number of answers still allowed. -/
def requestLoop (die slot : Nat) (asid : Half) (va acc : Nat) (count : Bool) : Nat → State → State × TRes
  | 0, s => (s, .fault 0x0A die (match hmWalk s slot va with | .hme w => w | _ => 0) 0)
  | n + 1, s =>
    match requestOnce s die slot asid va acc count with
    | (s, some r) => (s, r)
    | (s, none) => requestLoop die slot asid va acc count n (dropHme s die asid va)

/-- A request from its requester on (03 R54, R55, R67), with the number of STALE answers that it has had in a row. -/
def request (s : State) (die slot : Nat) (asid : Half) (va acc : Nat) (count : Bool) (stales : Nat := 0) : State × TRes :=
  if va ≥ 2 ^ 56 then (s, .fault 0x11 die 0 0) else requestLoop die slot asid va acc count (8 - stales) s

end Sys2Proof.Machine
end

