-- ==== Sys2Proof/Machine/Access.lean ====
section
/-! DEFINITION. Memory accesses: caches and coherence (02 R32 to R42), counted grains (08 R196 to R204), MX alias pages
(02 R47 to R49), write-combining (02 R32, 10 R237), poison (02 R31). An access is performed at one moment, within the
step that makes it (log entry 7). -/

namespace Sys2Proof.Machine

/-! ### Count events (08 R195, R204) -/

def getCluster (s : State) (c : Nat) : Cluster := mgetD s.clusters c {}

def modCluster (s : State) (c : Nat) (f : Cluster → Cluster) : State :=
  { s with clusters := mset s.clusters c (f (getCluster s c)) }

/-- The cluster of a core number (06 R139). -/
def clusterOf (core : Nat) : Nat := core / 4

def dieOfCluster (cl : Nat) : Nat := cl / 64

/-- A squad that is resident on a cluster (08 R204). -/
def residentOn (s : State) (squad cl : Nat) : Bool :=
  match mget s.squads squad with
  | some q => q.live && (match mget s.teams q.team with
      | some t => (t.state == .resident || t.state == .migrating) && t.cores.any fun c => clusterOf c == cl
      | none => false)
  | none => false

/-- An `UNDERREAD` or, with `lost`, a `COUNTLOST` event of a counted grain. -/
def countEvent (s : State) (lost : Bool) (cl team squad : Nat) : State :=
  let s := modCluster s cl fun c =>
    if lost then { c with clCountLost := c.clCountLost + 1 } else { c with clUnder := c.clUnder + 1 }
  let mark (t : Team) : Team :=
    if t.state == .retired then t
    else if lost then { t with countLost := true } else { t with underMark := true }
  let s := { s with teams := mmod s.teams team mark }
  if residentOn s squad cl then
    { s with squads := mmod s.squads squad fun q => { q with cstat := q.cstat ||| (if lost then 2 else 4) } }
  else s

/-! ### Grains -/

def Grain.covers (g : Grain) (asid : Half) (va : Nat) : Bool :=
  g.asid == asid && decide (g.va.toNat ≤ va) && decide (va < g.va.toNat + g.size)

def Grain.overlaps (g : Grain) (asid : Half) (va n : Nat) : Bool :=
  g.asid == asid && decide (g.va.toNat < va + n) && decide (va < g.va.toNat + g.size)

def Grain.owned (g : Grain) : Bool := g.st != .shared

def Grain.isArmed (g : Grain) : Bool :=
  match g.cnt with
  | .armed _ _ _ => true
  | _ => false

def isCounted (g : Grain) : Bool := g.cnt != .plain

/-- Number of a holder that is a cluster's L1. -/
def l1Of : Holder → Option Nat
  | .l1 c => some c
  | _ => none

/-- The die of a holder. -/
def holderDie : Holder → Option Nat
  | .l1 c | .copyEngine c | .operandFetch c => some (dieOfCluster c)
  | .codec d _ | .l2 d _ | .rdc d => some d.toNat
  | .host => none

def Grain.isL2 (g : Grain) : Bool := match g.holder with | .l2 _ _ => true | _ => false
def Grain.isRdc (g : Grain) : Bool := match g.holder with | .rdc _ => true | _ => false

/-- The L2 half of a home agent, and the remote-data cache of a die. -/
def l2Of (home : Nat) : Holder := .l2 (BitVec.ofNat 3 (home / 2)) (home % 2 == 1)
def rdcOf (die : Nat) : Holder := .rdc (BitVec.ofNat 3 die)

/-- The remote-data cache that stands behind an L1, for lines homed elsewhere (02 R36). -/
def rdcBehind (h : Option Holder) : Option Holder := (h.bind l1Of).map fun c => rdcOf (dieOfCluster c)

/-- The grain of a holder at an address, drained tags included. -/
def findGrain (s : State) (h : Holder) (asid : Half) (va : Nat) : Option Grain :=
  s.grains.find? fun g => g.holder == h && g.covers asid va

/-- Put a grain in place of its holder's copy, in an entry that has room. -/
def seatGrain (s : State) (g : Grain) : State :=
  { s with grains := g :: s.grains.filter fun x => !(x.holder == g.holder && x.overlaps g.asid g.va.toNat g.size) }

/-- Replace the sectors of a mask, from sector i on. -/
def putSectors (old new : List Byte) (mask i : Nat) : Nat → List Byte
  | 0 => old
  | n + 1 =>
    let old := if bitOf mask i then putBytes old (32 * i) ((new.drop (32 * i)).take 32) else old
    putSectors old new mask (i + 1) n

/-- Write the dirty sectors of a grain to memory from sector i on (02 R34). -/
def flushSectors (m : List Host.Cell) (pa dirty i : Nat) (data : List Byte) : Nat → List Host.Cell
  | 0 => m
  | n + 1 =>
    let m := if bitOf dirty i then memWriteN m (pa + 32 * i) ((data.drop (32 * i)).take 32) else m
    flushSectors m pa dirty (i + 1) data n

/-! ### Capacity (02 R33, R35, R36) -/

/-- A 512-byte entry of a holder: ASID and number. -/
def inEntry (h : Holder) (k : Half × Nat) (g : Grain) : Bool :=
  g.holder == h && g.asid == k.1 && g.va.toNat / 512 == k.2

def entryOf (g : Grain) : Half × Nat := (g.asid, g.va.toNat / 512)

/-- Ways of a cache; other holders keep no tags. -/
def waysOf : Holder → Option Nat
  | .l1 _ => some 8
  | .l2 _ _ | .rdc _ => some 16
  | _ => none

/-- Two entries of a cache share a set: 128 sets of an L1 by `VA[15:9]`; 4,096 of an L2 half and 2,048 of an RDC. -/
def sameSet (h : Holder) (a b : Half × Nat) : Bool :=
  match h with
  | .l1 _ => a.2 % 128 == b.2 % 128
  | .l2 _ _ => Config.cacheSet a.1 a.2 % 4096 == Config.cacheSet b.1 b.2 % 4096
  | _ => Config.cacheSet a.1 a.2 % 2048 == Config.cacheSet b.1 b.2 % 2048

def distinct {α : Type} [DecidableEq α] (l : List α) : List α :=
  l.foldl (fun r k => if r.contains k then r else r ++ [k]) []

/-- The entry that must leave for a new one: of the ways of its set that no counted line pins, a free one, since the spec
names pseudo-LRU and not its state (02 R33; log entry 73). -/
def victim (s : State) (g : Grain) : Option (Half × Nat) :=
  match waysOf g.holder with
  | none => none
  | some ways =>
    let mine := s.grains.filter fun x => x.holder == g.holder
    if mine.length < ways ∨ mine.any (fun x => entryOf x == entryOf g) then none
    else
      let set := (distinct (mine.map entryOf)).filter fun k => sameSet g.holder k (entryOf g)
      if set.length < ways then none
      else
        let free := set.filter fun k => !mine.any fun x => entryOf x == k && isCounted x
        free[s.choice free.length]?

/-- Write an L2 grain's dirty sectors to memory. -/
def flushL2 (s : State) (g : Grain) : State :=
  match g.pa with
  | some pa => { s with mem := flushSectors s.mem pa g.dirty 0 g.data (g.size / 32) }
  | none => s

/-- Put a grain into its home's L2; an entry that leaves goes to memory. -/
def putL2 (s : State) (g : Grain) : State :=
  match victim s g with
  | none => seatGrain s g
  | some k =>
    let gone := inEntry g.holder k
    let s1 := (s.grains.filter gone).foldl flushL2 s.draw
    seatGrain { s1 with grains := s1.grains.filter fun x => !gone x } g

/-- The dirty sectors of a grain of normal memory reach its home, which holds them in its L2. -/
def writeHome (s : State) (g : Grain) : State :=
  match g.pa with
  | none => s
  | some pa =>
    let line := (findGrain s (l2Of g.home) g.asid g.va.toNat).getD
      { g with holder := l2Of g.home, st := .exclusive, data := memReadN s.mem pa g.size, dirty := 0, cnt := .plain, lost := 0 }
    putL2 s { line with st := .modified, dirty := line.dirty ||| g.dirty
                        data := putSectors line.data g.data g.dirty 0 (g.size / 32) }

/-- A context's PASID (04 R92). -/
def pasidOf (s : State) (asid : Half) : Nat :=
  match slotOfAsid s asid with
  | some k => ccb s k 0x18 8 % 2 ^ 20
  | none => 0

/-- The dirty sectors of a line homed on the host are sent to it (02 R34, 04 R92). -/
def writeHost (s : State) (g : Grain) : State :=
  ((List.range (g.size / 32)).filter (bitOf g.dirty)).foldl (fun s i =>
    let va := g.va + BitVec.ofNat 64 (32 * i)
    { s with
      nextId := s.nextId + 1
      outs := .klReq s.nextId (pasidOf s g.asid) va false :: s.outs
      reqs := s.reqs ++ [{ id := s.nextId, who := .device, kind := .write ((g.data.drop (32 * i)).take 32), asid := g.asid, va := va,
                           st := .remote, hme := 8, slot := (slotOfAsid s g.asid).getD 0, sentAt := s.timeNs.toNat }] }) s

/-- Write a grain's dirty sectors back: from an L1 into the RDC that holds its line, else to the home; from an L2 to
memory (02 R34 to R36). -/
def flushGrain (s : State) (g : Grain) : State :=
  if g.st != .modified then s
  else if g.isL2 then flushL2 s g
  else
    match (rdcBehind (some g.holder)).bind fun h => findGrain s h g.asid g.va.toNat with
    | some r =>
      seatGrain s { r with st := .modified, dirty := r.dirty ||| g.dirty, data := putSectors r.data g.data g.dirty 0 (g.size / 32) }
    | none => if g.pa.isNone then writeHost s g else writeHome s g

/-- A recall of one grain: dirty data is supplied, or discarded when the page is poisoned; an armed count is lost
(08 R202). -/
def recallOne (s : State) (discard : Bool) (g : Grain) : State :=
  let s := if discard || g.cnt == .drained then s else flushGrain s g
  match g.cnt, l1Of g.holder with
  | .armed _ team squad, some c => countEvent s true c team squad
  | _, _ => s

def recallPass (s : State) (discard : Bool) (p : Grain → Bool) : State :=
  let s := (s.grains.filter p).foldl (fun s g => recallOne s discard g) s
  { s with grains := s.grains.filter fun g => !p g }

/-- Recall every grain that a test selects: from L1s, engines and the host, then from RDCs, then from L2s. -/
def recallWhere (s : State) (discard : Bool) (p : Grain → Bool) : State :=
  let s := recallPass s discard fun g => p g && !g.isRdc && !g.isL2
  let s := recallPass s discard fun g => p g && g.isRdc
  recallPass s discard fun g => p g && g.isL2

/-- A copy that a snoop on behalf of a holder reaches: every other one but its home's L2 and the RDC behind it. -/
def Grain.snooped (g : Grain) (h : Option Holder) : Bool :=
  some g.holder != h && !g.isL2 && some g.holder != rdcBehind h

/-- Recall the copies of a range held by others than `h` (02 R40). -/
def recallOthers (s : State) (h : Option Holder) (asid : Half) (va n : Nat) : State :=
  recallWhere s false fun g => g.overlaps asid va n && g.snooped h

def downgradePass (s : State) (p : Grain → Bool) : State :=
  let s := (s.grains.filter p).foldl flushGrain s
  { s with grains := s.grains.map fun g => if p g then { g with st := .shared, dirty := 0 } else g }

/-- A reader's snoop: modified and exclusive holders supply the data and move to shared (02 R39, 08 R200). -/
def downgradeOthers (s : State) (h : Option Holder) (asid : Half) (va n : Nat) : State :=
  let hit (g : Grain) : Bool := g.overlaps asid va n && g.snooped h && g.owned && g.cnt != .drained
  let s := downgradePass s fun g => hit g && !g.isRdc
  downgradePass s fun g => hit g && g.isRdc

/-- An entry leaves an RDC: its lines are first invalidated in the die's L1s, at the RDC's place in the die's snoop order
(02 R36). -/
def dropRdc (s : State) (h : Holder) (k : Half × Nat) : State :=
  let s := recallPass (inOrder s ((holderDie h).getD 0) 0 196 16) false fun g => rdcBehind (some g.holder) == some h && inEntry g.holder k g && decide (g.home / 2 != (holderDie h).getD 8)
  recallPass s false (inEntry h k)

/-- Put a grain in place of its holder's copy. A full set gives up an entry (02 R33, R35, R36). -/
def putGrain (s : State) (g : Grain) : State :=
  if g.isL2 then putL2 s g
  else
    match victim s g with
    | none => seatGrain s g
    | some k => seatGrain (if g.isRdc then dropRdc s.draw g.holder k else recallPass s.draw false (inEntry g.holder k)) g

/-- Sectors that bytes i to i + n - 1 of a grain touch. -/
def sectorMask (i n : Nat) : Nat :=
  ((List.range 16).filter fun k => decide (32 * k < i + n) && decide (i < 32 * k + 32)).foldl (fun m k => m + 2 ^ k) 0

/-- Write bytes into an owned grain. -/
def Grain.write (g : Grain) (va : Nat) (bs : List Byte) : Grain :=
  let i := va - g.va.toNat
  { g with st := .modified, data := putBytes g.data i bs, dirty := g.dirty ||| sectorMask i bs.length }

def Grain.read (g : Grain) (va n : Nat) : List Byte := (g.data.drop (va - g.va.toNat)).take n

/-! ### Waits of an access -/

/-- A copy that still owns unwritten grains of a range (02 R41). A copy itself waits only for earlier ones. -/
def engineOwns (s : State) (me : Option Nat) (asid : Half) (va n grain : Nat) : Bool :=
  s.copies.any fun c =>
    match c.dst with
    | .ls _ _ => false
    | .mem base =>
      c.ended == none && ctxAsid s c.slot == asid
      && (match me with | some k => decide (c.id < k) | none => true)
      && decide (c.done < c.len)
      && decide ((base.toNat + c.done) / grain * grain < va + n)
      && decide (va < (base.toNat + c.len + grain - 1) / grain * grain)

/-- The host must answer a recall first (04 R90). -/
def hostBlocks (s : State) (write : Bool) (asid : Half) (va n : Nat) : Bool :=
  s.grains.any fun g => g.holder == .host && g.overlaps asid va n && (write || g.owned)

/-- Ask the host for its copies, unless a recall of them is out. -/
def askHost (s : State) (asid : Half) (va : Nat) : State :=
  let k := (asid, BitVec.ofNat 64 va)
  if s.asked.contains k then s else { s with outs := .klRecall k.1 k.2 :: s.outs, asked := k :: s.asked }

/-- A step that waits keeps what it has told the outside, and what its homes hold (03 R71). -/
def keepSaid (s0 s : State) : State := { s0 with outs := s.outs, asked := s.asked, heldAccs := s.heldAccs }

/-- Ask the host for every copy that a test selects. -/
def askHosts (s : State) (p : Grain → Bool) : State :=
  (s.grains.filter fun g => g.holder == .host && p g).foldl (fun s g => askHost s g.asid g.va.toNat) s

/-! ### MX alias pages (02 R47 to R49) -/

/-- View bytes of one element: element byte and scale. -/
def mxViewElem (e sc : Byte) : Nat :=
  if sc = 0xFF then 0x7FC0
  else
    match fE4m3.dec e.toNat with
    | .nan _ => 0x7FC0
    | .inf _ => 0x7FC0
    | .fin n m x => (fBf16.round .rne false n m (x + (sc.toNat : Int) - 127)).bits

/-- The 64 view bytes of block b of a frame. -/
def mxViewBlock (m : List Host.Cell) (frame b : Nat) : List Byte :=
  let sc := memRead m (frame + 0x8000 + b)
  (laneIdx.map fun i => bytesOf 2 (mxViewElem (memRead m (frame + 32 * b + i)) sc)).flatten

/-- View bytes at an offset of the page, one grain or less. -/
def mxView (m : List Host.Cell) (frame off n : Nat) : List Byte :=
  let b0 := off / 64
  let bs := ((List.range ((off % 64 + n + 63) / 64)).map fun k => mxViewBlock m frame (b0 + k)).flatten
  (bs.drop (off % 64)).take n

/-- Exact value of an element under a scale. -/
def mxElemVal (e sc : Byte) : FVal :=
  if sc = 0xFF then .nan false
  else
    match fE4m3.dec e.toNat with
    | .fin n m x => .fin n m (x + (sc.toNat : Int) - 127)
    | v => v

/-- floor(log2) of a finite nonzero value. -/
def FVal.log2Floor : FVal → Int
  | .fin _ m e => (Nat.log2 m : Int) + e
  | _ => 0

def FVal.finite : FVal → Bool
  | .fin _ _ _ => true
  | _ => false

/-- Values of a block after a store, its new scale and elements, and how many elements saturated (02 R49). -/
def mxEncode (xs : List FVal) (old : List Byte) : Byte × List Byte × Nat :=
  if xs.any fun v => !v.finite then (0xFF, old, 0)
  else
    let nz := xs.filter fun v => !v.isZero
    let k : Int := match nz with
      | [] => -127
      | v :: vs => clampInt (-127) 127 ((vs.foldl (fun a w => if a < w.log2Floor then w.log2Floor else a) v.log2Floor) - 8)
    let enc (v : FVal) : FR := match v with
      | .fin n m e => fE4m3.round .rne true n m (e - k)
      | _ => fE4m3.round .rne true false 0 0
    let es := xs.map enc
    let big (v : FVal) : Bool := match v with
      | .fin _ m e =>
        let r := fE4m3.round .rne false false m (e - k)
        (match fE4m3.dec r.bits with | .fin _ _ _ => false | _ => true)
      | _ => false
    (BitVec.ofNat 8 (k + 127).toNat, es.map (fun r => BitVec.ofNat 8 r.bits), (xs.filter big).length)

/-- A store of view bytes to one block: re-encode it at the home. -/
def mxStoreBlock (m : List Host.Cell) (frame b off : Nat) (bs : List Byte) : List Host.Cell × Nat :=
  let sc := memRead m (frame + 0x8000 + b)
  let old := memReadN m (frame + 32 * b) 32
  let view := putBytes (mxViewBlock m frame b) off bs
  let touched (i : Nat) : Bool := decide (off < 2 * i + 2) && decide (2 * i < off + bs.length)
  let xs := laneIdx.map fun i =>
    if touched i then fBf16.dec (fieldOf view (2 * i) 2) else mxElemVal (old.getD i 0) sc
  let (s', es, sat) := mxEncode xs old
  (memWriteN (memWrite m (frame + 0x8000 + b) s') (frame + 32 * b) es, sat)

/-- Codec counters (02 R50): unit u of a die, counter i. -/
def codecBump (s : State) (die : Nat) (u : Bool) (i n : Nat) : State :=
  let d := getDie s die
  let k := (if u then 8 else 0) + i
  setDie s die { d with codec := mset d.codec k (mgetD d.codec k 0 + BitVec.ofNat 64 n) }

/-- The codec unit of a page: its home agent's (02 R27, R43). -/
def homeUnit (t : TInfo) (va : Nat) : Bool := homeAgent t.leaf t.pa va == 1

/-- The home agent of a translated address, 2 x die + agent. -/
def TInfo.home (t : TInfo) (va : Nat) : Nat := 2 * t.die + homeAgent t.leaf t.pa va

/-- The queue of a page's codec unit is full: a requester waits (02 R43). -/
def codecFull (s : State) (t : TInfo) (va : Nat) : Bool :=
  decide (64 ≤ ((getDie s t.die).codecQ.getD (homeUnit t va).toNat []).length)

/-- An access to an alias page waits while its codec unit's queue is full. -/
def aliasWaits (s : State) (t : TInfo) (va : Nat) : Bool := leafMxa t.leaf && codecFull s t va

/-- A store of bytes within one view block. -/
def mxStore (s : State) (t : TInfo) (va : Nat) (bs : List Byte) : State :=
  let frame := t.pa / 65536 * 65536
  let off := t.pa % 65536
  let (m, sat) := mxStoreBlock s.mem frame (off / 64) (off % 64) bs
  let u := homeUnit t va
  codecBump (codecBump { s with mem := m } t.die u 5 1) t.die u 6 sat

/-! ### Write-combining buffers (02 R32, 10 R237) -/

/-- The entry of a cluster for an address. -/
def WcEntry.at (e : WcEntry) (cluster : Nat) (asid : Half) (va : Nat) : Bool :=
  e.cluster == cluster && e.asid == asid && e.va.toNat == va / 512 * 512

def wcFind (s : State) (cluster : Nat) (asid : Half) (va : Nat) : Option WcEntry := s.wc.find? (·.at cluster asid va)

/-- The memory type that a peer has returned for a page (04 R101). -/
def peerType (s : State) (asid : Half) (va : Nat) : Option Nat :=
  (s.io.peerMt.find? fun x => x.1 == asid && x.2.1 == va / 65536).map (·.2.2)

/-- Bytes of memory with those over them that the agent's buffer still holds. -/
def wcMerge (s : State) (cluster : Nat) (agent : Agent) (asid : Half) (va : Nat) (bs : List Byte) : List Byte :=
  match wcFind s cluster asid va with
  | none => bs
  | some e => if e.agents.contains agent then bs.zipIdx.map fun x => mgetD e.bytes (va % 512 + x.2) x.1 else bs

def putBytesMap (m : FMap Byte) (i : Nat) : List Byte → FMap Byte
  | [] => m
  | b :: bs => putBytesMap (mset m i b) (i + 1) bs

/-- Write an entry's bytes at their home. One that cannot be written at once, as its page faults, is poisoned or held, its
grains belong to a copy, or its home is a peer, is stuck until the end of the step (`settleMerged`; log entry 21). -/
def wcDrainEntry (s : State) (e : WcEntry) : State :=
  let stuck (s : State) : State := { s with wc := { e with stuck := true } :: s.wc }
  match slotOfAsid s e.asid with
  | none => s
  | some slot =>
    let die := dieOfCluster e.cluster
    match (request s die slot e.asid e.va.toNat accStore false).2 with
    | .ok t =>
      if e.bytes.any fun b => engineOwns s none e.asid (e.va.toNat + b.1) 1 (leafGrain t.leaf) then stuck s
      else
        (match request s die slot e.asid e.va.toNat accStore true with
         | (s1, .ok t) =>
           let s2 := recallOthers s1 none e.asid e.va.toNat 512
           e.bytes.foldl (fun s b => { s with mem := memWrite s.mem (t.pa + b.1) b.2 }) s2
         | (s1, _) => stuck s1)
    | _ => stuck s

/-- Drain the write-combining entries that a test selects. -/
def wcDrain (s : State) (p : WcEntry → Bool) : State :=
  let todo := s.wc.filter p
  todo.foldl wcDrainEntry { s with wc := s.wc.filter fun e => !p e }

/-- Drain the entries that hold stores of an agent. -/
def drainAgent (s : State) (a : Agent) : State := wcDrain s fun e => e.agents.contains a

/-- Drain full entries. -/
def wcDrainFull (s : State) : State := wcDrain s fun e => decide (e.bytes.length ≥ 512)

/-- Merged stores of an agent that its drain has left: a release waits for them (02 R32, 10 R240). -/
def mergedLeft (s : State) (a : Agent) : Bool := s.wc.any fun e => e.agents.contains a

/-- A store that has entered a write-combining entry is noted there. -/
def noteMerged (s : State) (asid : Half) (x : WcSrc) : State :=
  { s with wc := s.wc.map fun e =>
      if e.asid == asid && e.agents.contains x.agent && decide (e.va.toNat ≤ x.va.toNat) && decide (x.va.toNat < e.va.toNat + 512)
      then { e with srcs := e.srcs ++ [x] } else e }

/-! ### Accesses -/

/-- Who accesses, and from where. -/
structure Rq where
  die : Nat
  cluster : Nat
  slot : Nat
  asid : Half
  agent : Agent
  /-- reads and writes through the cluster's L1 -/
  l1 : Bool
  /-- the copy that accesses -/
  copy : Option Nat := none
  /-- a request from outside: it enters at the home map, past every home-map cache (04 R87) -/
  outside : Bool := false
  /-- STALE answers that the access has had in a row (03 R67) -/
  stales : Nat := 0
  /-- an SVP thread: its addresses are physical (05 R114) -/
  phys : Bool := false
  /-- the matrix operation that accesses -/
  mop : Option Nat := none
  deriving DecidableEq, Repr

/-- What an access meets. -/
inductive Acc where
  | done
  | fault (kind die hme pte : Nat)
  | poison
  | held
  | remote (hme : Nat)
  deriving DecidableEq, Repr

/-- The home lookup and the checks of a request from outside (04 R87, R101). -/
def outsideCheck (s : State) (slot : Nat) (asid : Half) (va acc : Nat) (count : Bool) : State × TRes :=
  if va ≥ 2 ^ 56 then (s, .fault 0x11 0 0 0)
  else match hmWalk s slot va with
  | .hme w =>
    if hmeBad w then (s, .fault 0x10 0 w 0)
    else if hmeHome w = 15 then (s, .fault 0x01 0 w 0)
    else if hmeHome w ≥ 8 then (s, .remote w)
    else match homeCheck s (hmeHome w) slot asid va acc w (some (hmeGen w)) count with
      | (s, some r) => (s, r)
      | (s, none) => (s, .fault 0x0A 0 w 0)
  | .unmapped p => (s, .fault 0x01 0 0 p)
  | .malformed p => (s, .fault 0x10 0 0 p)

/-- An access of a requester that its home holds. -/
def HeldAcc.of (q : Rq) (va : Nat) (h : HeldAcc) : Bool :=
  h.agent == q.agent && h.op == q.copy.or q.mop && h.asid == q.asid && h.va.toNat == va

/-- STALE answers that an access has had in a row: those of its request, or of its wait at a held page (03 R67). -/
def stalesOf (s : State) (q : Rq) (va : Nat) : Nat :=
  match s.heldAccs.find? (·.of q va) with
  | some h => h.stales
  | none => q.stales

/-- A request that its home holds is noted; one that it answers is held no more. -/
def noteHeld (q : Rq) (va : Nat) (r : State × TRes) : State × TRes :=
  match r.2 with
  | .held =>
    if r.1.heldAccs.any (·.of q va) then r
    else ({ r.1 with heldAccs := ⟨q.agent, q.copy.or q.mop, q.die, q.asid, BitVec.ofNat 64 va, q.stales⟩ :: r.1.heldAccs }, .held)
  | x => ({ r.1 with heldAccs := r.1.heldAccs.filter fun h => !h.of q va }, x)

/-- A request of an agent. A copy that was issued before a page was held goes on with the grains that it owns (03 R69,
R71). -/
def requestFor (s : State) (q : Rq) (va acc : Nat) (count : Bool) : State × TRes :=
  if q.outside then outsideCheck s q.slot q.asid va acc count
  else
    let stales := stalesOf s q va
    let r := match q.copy with
      | none => request s q.die q.slot q.asid va acc count stales
      | some c =>
        let free (d : Die) : Die := { d with held := d.held.filter fun h => decide (h.since ≤ c) }
        let r := request { s with dies := s.dies.map fun d => (d.1, free d.2) } q.die q.slot q.asid va acc count stales
        ({ r.1 with dies := r.1.dies.map fun d => (d.1, { d.2 with held := (getDie s d.1).held }) }, r.2)
    if count then noteHeld q va r else r

/-- Failure of a request. -/
def TRes.acc : TRes → Acc
  | .ok _ => .done
  | .fault k d h p => .fault k d h p
  | .poison _ => .poison
  | .held => .held
  | .remote h => .remote h

/-- Normal memory that the caches may hold (02 R32). -/
def TInfo.normal (t : TInfo) : Bool := leafMT t.leaf == 0

/-- The grain's place at home, for an address translated by t. -/
def grainPa (t : TInfo) (va gva : Nat) : Nat := t.pa - (va - gva)

/-- An access to a strongly ordered page acts as if a system fence stood around it (10 R237): the agent's
write-combining entries drain. -/
def strongDrain (s : State) (a : Agent) (t : TInfo) : State :=
  if leafMT t.leaf = 3 then drainAgent s a else s

/-- Agent number on a die (02 R39). -/
def agentNo : Holder → Nat
  | .l1 c => 3 * (c % 64)
  | .copyEngine c => 3 * (c % 64) + 1
  | .operandFetch c => 3 * (c % 64) + 2
  | .codec _ u => 192 + u.toNat
  | .l2 _ h => 194 + h.toNat
  | .rdc _ => 196
  | .host => 197

/-- A snoop takes its place in a die's order: that of an agent of the home's die, or of the home agent for another's
(02 R39, R40). It was accepted 24 clocks before, with at most 15 others (log entry 70). -/
def snoop (s : State) (h : Option Holder) (home : Nat) : State :=
  match h with
  | some h =>
    if holderDie h = some (home / 2) then inOrder s (home / 2) ordSnoop (agentNo h) 16
    else inOrder s (home / 2) ordSnoop (194 + home % 2) 16
  | none => inOrder s (home / 2) ordSnoop (194 + home % 2) 16

/-- Cut a range into pieces within 32 aligned bytes. -/
def pieces (va n : Nat) : Nat → List (Nat × Nat)
  | 0 => []
  | fuel + 1 =>
    if n = 0 then []
    else
      let k := Nat.min n (32 - va % 32)
      (va, k) :: pieces (va + k) (n - k) fuel

/-- The bytes of a range at home: the L2's lines, memory, or the view of an alias page. -/
def homeBytes (s : State) (t : TInfo) (asid : Half) (va n : Nat) : List Byte :=
  if leafMxa t.leaf then mxView s.mem (t.pa / 65536 * 65536) (t.pa % 65536) n
  else (pieces va n (n / 32 + 2)).flatMap fun p =>
    match findGrain s (l2Of (t.home va)) asid p.1 with
    | some g => g.read p.1 p.2
    | none => memReadN s.mem (t.pa + (p.1 - va)) p.2

/-- The grain of an address as its home gives it out; the home's L2 keeps a line of normal memory (02 R32, R35). -/
def homeGrain (s : State) (h : Holder) (t : TInfo) (asid : Half) (va : Nat) : State × Grain :=
  let size := leafGrain t.leaf
  let gva := va / size * size
  let t := { t with pa := grainPa t va gva }
  let g : Grain := { holder := h, asid := asid, va := BitVec.ofNat 64 gva, size := size, st := .shared,
                     data := homeBytes s t asid gva size, dirty := 0, pa := some t.pa, home := t.home gva, rd := leafRD t.leaf }
  let l2 := l2Of g.home
  (if t.normal = false ∨ leafMxa t.leaf ∨ (findGrain s l2 asid gva).isSome then s
   else putL2 s { g with holder := l2, st := .exclusive }, g)

/-- A copy of a line takes its place: behind an L1, the RDC of its die keeps one homed elsewhere (02 R36). -/
def putCopy (s : State) (g : Grain) : State :=
  match rdcBehind (some g.holder), holderDie g.holder with
  | some r, some die =>
    if g.home / 2 = die then putGrain s g
    else
      let behind := (findGrain s r g.asid g.va.toNat).getD { g with holder := r, st := .shared, dirty := 0, cnt := .plain, lost := 0 }
      putGrain (putGrain s { behind with st := if g.owned && !behind.owned then .exclusive else behind.st }) g
  | _, _ => putGrain s g

/-- Fetch a grain's lost sectors again (02 R31). -/
def Grain.refill (g : Grain) (data : List Byte) : Grain :=
  { g with data := putSectors g.data data g.lost 0 (g.size / 32), lost := 0 }

/-- The holder's copy serves n bytes of an address: not drained, and every sector of them valid. -/
def holds (s : State) (h : Holder) (asid : Half) (va n : Nat) : Option Grain :=
  match findGrain s h asid va with
  | some g =>
    if g.cnt == .drained || sectorMask (va - g.va.toNat) n &&& g.lost != 0 then none else some g
  | none => none

/-- Holder through which an access is made: the L1, or nothing that keeps lines. -/
def Rq.holder (q : Rq) : Option Holder := if q.l1 then some (.l1 q.cluster) else none

/-- Holder into which an access stores: the L1, or a copy's engine (02 R41). -/
def Rq.storeHolder (q : Rq) : Option Holder :=
  if q.l1 then some (.l1 q.cluster) else q.copy.map fun _ => .copyEngine q.cluster

/-- The requester's own copy. -/
def ownCopy (s : State) (q : Rq) (va n : Nat) : Option Grain := q.holder.bind fun h => holds s h q.asid va n

/-- The copy in the RDC of the requester's die, of a line homed elsewhere. -/
def rdcCopy (s : State) (q : Rq) (va n : Nat) : Option Grain :=
  if q.outside then none else holds s (rdcOf q.die) q.asid va n

/-- A copy that an agent of the die reads through: its L1 takes a shared one (02 R36, R39). -/
def readThroughRdc (s : State) (q : Rq) (r : Grain) (va n : Nat) : State × List Byte :=
  let s1 := downgradePass (inOrder s q.die ordSnoop ((q.holder.map agentNo).getD 196) 16) fun g =>
    g.overlaps r.asid r.va.toNat r.size && rdcBehind (some g.holder) == some r.holder && g.owned && g.cnt != .drained
      && some g.holder != q.holder
  let r := (findGrain s1 r.holder r.asid va).getD r
  match q.holder with
  | some h =>
    match findGrain s1 h q.asid va with
    | none => (putGrain s1 { r with holder := h, st := .shared, dirty := 0, lost := 0 }, r.read va n)
    | some g => (seatGrain s1 (g.refill r.data), r.read va n)
  | none => (s1, r.read va n)

/-! ### Poisoning (02 R31) -/

/-- Set the page's `CMP` to poisoned and discard every cached copy. -/
def poisonPage (s : State) (t : TInfo) (asid : Half) (va : Nat) : State :=
  let old := rdNat s.mem t.leafAt 8
  let w := old ||| 3 * 2 ^ 14
  let s := { s with mem := memWriteN s.mem t.leafAt (bytesOf 8 w) }
  let s := tlbPut s t.die asid va t.lg t.leafAt (t.leaf ||| 3 * 2 ^ 14)
  let hit (g : Grain) : Bool := g.overlaps asid (va / 2 ^ t.lg * 2 ^ t.lg) (2 ^ t.lg)
  recallWhere (askHosts s hit) true hit

/-- Poison the page of an address at its home. -/
def poisonAt (s : State) (asid : Half) (va : Nat) : State :=
  match slotOfAsid s asid with
  | none => s
  | some slot =>
    match hmWalk s slot va with
    | .hme w =>
      if hmeBad w ∨ hmeHome w ≥ 8 then s
      else match homeWalk s (hmeHome w) slot asid va with
      | (s, .leaf lg at_ l) =>
        if leafBad s (hmeHome w) lg l ∨ leafV l = false ∨ leafTier l = 3 then s
        else poisonPage s ⟨hmeHome w, w, lg, at_, l, leafPa l + va % 2 ^ lg⟩ asid va
      | _ => s
    | _ => s

/-- Mapped pages whose frames lie in a range of physical addresses. -/
def mappedIn (s : State) (lo hi : Nat) : List (Nat × LeafAt) :=
  (mappedLeaves s).filter fun x => decide (leafPa x.2.w < hi) && decide (lo < leafPa x.2.w + 2 ^ x.2.lg)

/-- Poison every page whose frame meets a range of physical addresses. -/
def poisonFrames (s : State) (lo hi : Nat) : State :=
  (mappedIn s lo hi).foldl (fun s x => poisonAt s (ctxAsid s x.1) x.2.va) s

/-! ### Accesses by physical address (05 R114) -/

/-- A physical address on a second-tier port whose link is down (02 R26). -/
def physDown (s : State) (pa : Nat) : Bool :=
  match portOf pa with
  | some p => !(mgetD s.io.tiers p {}).link
  | none => false

/-- Every cached line of a physical range goes home (05 R114). -/
def physSync (s : State) (pa n : Nat) : State :=
  recallWhere s false fun g => g.holder != .host && g.pa.any fun a => decide (a < pa + n) && decide (pa < a + g.size)

/-- An access of an SVP thread: the old bytes of a physical range, and what takes their place. Nothing stands outside the
populated offsets; an access there waits (log entry 86). One to a port whose link is down poisons the pages there (02 R26). -/
def physPiece (s : State) (pa n : Nat) (f : Option (List Byte → List Byte)) : State × Acc × List Byte :=
  if populated s pa n = false then (s, .held, [])
  else if physDown s pa then (poisonFrames s pa (pa + n), .poison, [])
  else
    let s := physSync s pa n
    let old := memReadN s.mem pa n
    match f with
    | none => (s, .done, old)
    | some f => ({ s with mem := memWriteN s.mem pa (f old) }, .done, old)

/-- A write of an engine or of the device to lines that the host homes over KL is on its way: nobody takes a copy of them
before it is performed (10 R226). -/
def farWrite (s : State) (asid : Half) (va n : Nat) (p : Req → Bool) : Bool :=
  s.reqs.any fun r =>
    match r.kind, r.who with
    | _, .squad _ _ | _, .spine _ => false
    | .write bs, _ =>
      hmeHome r.hme == 8 && (r.st == .remote || r.st == .queued) && r.asid == asid && decide (r.va.toNat < va + n)
        && decide (va < r.va.toNat + bs.length) && p r
    | _, _ => false

/-- The line of an address that the host homes over KL, of 128 bytes, is still owned by a copy, or written by another
requester (02 R41, 04 R92). -/
def engineOwnsFar (s : State) (q : Rq) (va hme : Nat) : Bool :=
  hmeHome hme == 8
  && (engineOwns s q.copy q.asid (va / 128 * 128) 128 128
      || farWrite s q.asid (va / 128 * 128) 128 fun r =>
           q.copy.all (fun c => r.who != .copy c) && q.mop.all fun m => r.who != .matrix m)

/-- A request that its home on this device has not served: it waits, fails, or leaves for the host or a peer. An access to a
strongly ordered page of a peer first drains the agent's write-combining entries (10 R237; log entry 77). -/
def notServed (s s1 : State) (q : Rq) (va : Nat) (r : TRes) : State × Acc :=
  match r with
  | .remote h =>
    if engineOwnsFar s q va h then (s, .held)
    else if hmeHome h = 10 ∧ (peerType s q.asid va).getD 3 = 3 then (drainAgent s1 q.agent, .remote h)
    else (s1, .remote h)
  | r => (s1, r.acc)

/-- A copy of a line waits while an engine owns its grain (02 R41). -/
def Grain.waits (s : State) (q : Rq) (g : Grain) : Bool := engineOwns s q.copy q.asid g.va.toNat g.size g.size

/-- A read of n bytes within 32 aligned bytes. A cached copy serves it with the right to read granted at its fill (02 R38). -/
def loadPiece (s : State) (q : Rq) (acc va n : Nat) : State × Acc × List Byte :=
  if q.phys then physPiece s va n none else
  match (ownCopy s q va n).filter (·.rd) with
  | some g => if g.waits s q then (s, .held, []) else (s, .done, g.read va n)
  | none =>
    match if acc = accFetch then none else (rdcCopy s q va n).filter (·.rd) with
    | some r =>
      if r.waits s q then (s, .held, [])
      else
        let x := readThroughRdc s q r va n
        (x.1, .done, x.2)
    | none =>
      match requestFor s q va acc true with
      | (s1, .ok t) =>
        let grain := leafGrain t.leaf
        let gva := va / grain * grain
        if engineOwns s q.copy q.asid gva grain grain || aliasWaits s t va then (s, .held, [])
        else if hostBlocks s false q.asid gva grain then (askHost s q.asid gva, .held, [])
        else if t.normal = false then
          let s2 := strongDrain s1 q.agent t
          (s2, .done, wcMerge s2 q.cluster q.agent q.asid va (homeBytes s2 t q.asid va n))
        else
          let s2 := downgradeOthers (snoop s1 q.holder (t.home va)) q.holder q.asid gva grain
          let x := homeGrain s2 (q.holder.getD .host) t q.asid va
          let s3 : State :=
            match q.holder with
            | none => x.1
            | some h =>
              match findGrain s h q.asid va with
              | none => putCopy x.1 x.2
              | some g => if g.cnt == .drained then x.1 else seatGrain x.1 (g.refill x.2.data)
          (s3, .done, x.2.read va n)
      | (s1, r) =>
        let y := notServed s s1 q va r
        (y.1, y.2, [])

/-- The piece of a range at which a read of it fails (03 R76). -/
def loadFails (s : State) (q : Rq) (acc va n : Nat) : Nat :=
  (((pieces va n (n / 32 + 2)).find? fun p => (loadPiece s q acc p.1 p.2).2.1 != .done).map (·.1)).getD va

/-- Write bytes of one grain of normal memory at their home, in the L2. -/
def writeLine (s : State) (t : TInfo) (asid : Half) (va : Nat) (bs : List Byte) : State :=
  let x := homeGrain s (l2Of (t.home va)) t asid va
  match findGrain x.1 (l2Of (t.home va)) asid va with
  | some g => seatGrain x.1 (g.write va bs)
  | none => { x.1 with mem := memWriteN x.1.mem t.pa bs }

/-- Write bytes of normal memory at their home, in the L2. -/
def writeAtHome (s : State) (t : TInfo) (asid : Half) (va : Nat) (bs : List Byte) : State :=
  (pieces va bs.length (bs.length / 32 + 2)).foldl
    (fun s p => writeLine s { t with pa := t.pa + (p.1 - va) } asid p.1 ((bs.drop (p.1 - va)).take p.2)) s

/-- Bytes that a store of a page's view changes: a whole block of an alias page, else the grain of the address (02 R49,
10 R235). -/
def storeSpan (t : TInfo) (va : Nat) : Nat × Nat :=
  let grain := if leafMxa t.leaf then Nat.max 64 (leafGrain t.leaf) else leafGrain t.leaf
  (va / grain * grain, grain)

/-- A store of bytes at their home, past every cache above it. -/
def storeAtHome (s : State) (t : TInfo) (asid : Half) (va : Nat) (bs : List Byte) : State :=
  let span := storeSpan t va
  let s := recallOthers (snoop s none (t.home va)) none asid span.1 span.2
  if leafMxa t.leaf then mxStore s t va bs
  else if t.normal then writeAtHome s t asid va bs
  else { s with mem := memWriteN s.mem t.pa bs }

/-- Ownership of the grain of an address for a holder, with the holder's own data kept (02 R34). -/
def takeOwnership (s : State) (h : Holder) (t : TInfo) (asid : Half) (va : Nat) : State × Grain :=
  let grain := leafGrain t.leaf
  let gva := va / grain * grain
  let own := findGrain s h asid va
  let s := recallOthers (snoop s (some h) (t.home va)) (some h) asid gva grain
  let x := homeGrain s h t asid va
  let fresh : Grain := { x.2 with st := .exclusive }
  match own with
  | some g =>
    if g.cnt == .drained then (x.1, fresh)
    else (x.1, { g.refill fresh.data with st := if g.st == .modified then .modified else .exclusive })
  | none => (x.1, fresh)

/-- Ownership of a line that the die's RDC owns: the die's other L1s give theirs up (02 R36, R39). -/
def takeFromRdc (s : State) (h : Holder) (r : Grain) (va : Nat) : State × Grain :=
  let own := findGrain s h r.asid va
  let s := recallPass (inOrder s ((holderDie h).getD 0) ordSnoop (agentNo h) 16) false fun g =>
    g.overlaps r.asid r.va.toNat r.size && g.holder != h && g.holder != r.holder && holderDie g.holder == holderDie h && !g.isL2
  let r := (findGrain s r.holder r.asid va).getD r
  match own with
  | some g =>
    if g.cnt == .drained then (s, { r with holder := h, st := .exclusive, dirty := 0, lost := 0 })
    else (s, { g.refill r.data with st := if g.st == .modified then .modified else .exclusive })
  | none => (s, { r with holder := h, st := .exclusive, dirty := 0, lost := 0 })

/-- Merge a store into the cluster's write-combining entry (02 R32). -/
def wcStore (s : State) (q : Rq) (va : Nat) (bs : List Byte) : State :=
  let base := va / 512 * 512
  let e := (wcFind s q.cluster q.asid va).getD
    { cluster := q.cluster, agents := [], asid := q.asid, va := BitVec.ofNat 64 base, bytes := [], lastStore := 0 }
  let e := { e with bytes := putBytesMap e.bytes (va % 512) bs, lastStore := clk s q.die, stuck := false
                    agents := if e.agents.contains q.agent then e.agents else e.agents ++ [q.agent] }
  { s with wc := e :: s.wc.filter fun x => !x.at q.cluster q.asid va }

/-- The page of an address is write-combining, at a home here or, as it has said, at a peer, and allows a store: it merges
with no request to the home, which its drain makes (02 R32, 03 R78, 04 R101). -/
def wcTarget (s : State) (q : Rq) (va : Nat) : Option State :=
  if q.l1 && !q.outside then
    match requestFor s q va accStore false with
    | (s1, .ok t) => if leafMT t.leaf = 1 && !leafMxa t.leaf then some s1 else none
    | (s1, .remote h) => if hmeHome h = 10 ∧ peerType s q.asid va = some 1 then some s1 else none
    | _ => none
  else none

/-- A store of bytes within 32 aligned bytes, or within a block of an alias page. -/
def storePiece (s : State) (q : Rq) (va : Nat) (bs : List Byte) : State × Acc :=
  if q.phys then (let x := physPiece s va bs.length (some fun _ => bs); (x.1, x.2.1)) else
  match (q.storeHolder.bind fun h => holds s h q.asid va bs.length).filter Grain.owned,
        ((rdcCopy s q va bs.length).filter Grain.owned), q.holder with
  | some g, _, _ => if g.waits s q then (s, .held) else (seatGrain s (g.write va bs), .done)
  | none, some r, some h =>
    if r.waits s q then (s, .held)
    else
      let x := takeFromRdc s h r va
      (putGrain x.1 (x.2.write va bs), .done)
  | none, _, _ =>
    match wcTarget s q va with
    | some s1 => (wcDrainFull (wcStore s1 q va bs), .done)
    | none =>
      match requestFor s q va accStore true with
      | (s1, .ok t) =>
        let span := storeSpan t va
        if engineOwns s q.copy q.asid span.1 span.2 (leafGrain t.leaf) || aliasWaits s t va then (s, .held)
        else if hostBlocks s true q.asid span.1 span.2 then (askHosts s fun g => g.overlaps q.asid span.1 span.2, .held)
        else if leafMxa t.leaf then (storeAtHome s1 t q.asid va bs, .done)
        else if t.normal then
          match q.storeHolder with
          | some h =>
            let x := takeOwnership s1 h t q.asid va
            (seatGrain (putCopy x.1 x.2) (x.2.write va bs), .done)
          | none => (storeAtHome s1 t q.asid va bs, .done)
        else (storeAtHome (strongDrain s1 q.agent t) t q.asid va bs, .done)
      | (s1, r) => notServed s s1 q va r

/-- The right to write bytes within 32 aligned bytes, and ownership of their grain, with nothing written (15 R370). -/
def ownPiece (s : State) (q : Rq) (va n : Nat) : State × Acc :=
  if q.phys then (s, .done) else
  match (q.storeHolder.bind fun h => holds s h q.asid va n).filter Grain.owned with
  | some g => if g.waits s q then (s, .held) else (s, .done)
  | none =>
    match requestFor s q va accStore true with
    | (s1, .ok t) =>
      let span := storeSpan t va
      if engineOwns s q.copy q.asid span.1 span.2 (leafGrain t.leaf) || aliasWaits s t va then (s, .held)
      else if hostBlocks s true q.asid span.1 span.2 then (askHosts s fun g => g.overlaps q.asid span.1 span.2, .held)
      else
        (match q.storeHolder with
         | some h =>
           if t.normal && !leafMxa t.leaf then
             let x := takeOwnership s1 h t q.asid va
             (putCopy x.1 x.2, .done)
           else (s1, .done)
         | none => (s1, .done))
    | (s1, r) => notServed s s1 q va r

/-- The right to write a range, piece by piece; it stops at the first that fails. -/
def ownBytes (s : State) (q : Rq) (va n : Nat) : State × Acc :=
  (pieces va n (n / 32 + 2)).foldl (fun r p =>
    match r with
    | (s, .done) => ownPiece s q p.1 p.2
    | r => r) (s, .done)

/-- The piece of a range at which the right to write it fails. -/
def ownFails (s : State) (q : Rq) (va n : Nat) : Nat :=
  (((pieces va n (n / 32 + 2)).find? fun p => (ownPiece s q p.1 p.2).2 != .done).map (·.1)).getD va

/-- A merged store that waited is written at its home, past the buffer (02 R32, 03 R74). -/
def mergedPiece (s : State) (q : Rq) (va : Nat) (bs : List Byte) : State × Acc :=
  match requestFor s q va accStore true with
  | (s1, .ok t) =>
    let span := storeSpan t va
    if engineOwns s q.copy q.asid span.1 span.2 (leafGrain t.leaf) then (s, .held)
    else (storeAtHome s1 t q.asid va bs, .done)
  | (s1, r) => (s1, r.acc)

/-- An atomic on bytes within 16 aligned bytes, at the home or in the cluster L1 (10 R238); the old bytes. -/
def atomPiece (s : State) (q : Rq) (atHome : Bool) (va n : Nat) (f : List Byte → List Byte) : State × Acc × List Byte :=
  if q.phys then physPiece s va n (some f) else
  let own := (ownCopy s q va n).filter Grain.owned
  let near := if atHome then none else (rdcCopy s q va n).filter Grain.owned
  match requestFor s q va accAtomic (atHome || (own.isNone && near.isNone)) with
  | (s1, .ok t) =>
    let grain := leafGrain t.leaf
    let gva := va / grain * grain
    if engineOwns s q.copy q.asid gva grain grain then (s, .held, [])
    else if hostBlocks s true q.asid gva grain then (askHost s q.asid gva, .held, [])
    else if q.l1 && !atHome && t.normal then
      let x : State × Grain :=
        match own, near with
        | some g, _ => (s1, g)
        | none, some r => takeFromRdc s1 (.l1 q.cluster) r va
        | none, none => takeOwnership s1 (.l1 q.cluster) t q.asid va
      let old := x.2.read va n
      (seatGrain (putCopy x.1 x.2) (x.2.write va (f old)), .done, old)
    else
      let s2 := if t.normal then s1 else drainAgent s1 q.agent
      let s3 := recallOthers (snoop s2 none (t.home va)) none q.asid gva grain
      let old := homeBytes s3 t q.asid va n
      (if t.normal then writeAtHome s3 t q.asid va (f old) else { s3 with mem := memWriteN s3.mem t.pa (f old) }, .done, old)
  | (s1, r) =>
    let y := notServed s s1 q va r
    (y.1, y.2, [])

/-- A read of a range; it stops at the first piece that fails. -/
def loadRange (s : State) (q : Rq) (acc va n : Nat) : State × Acc × List Byte :=
  (pieces va n (n / 32 + 2)).foldl (fun r p =>
    match r with
    | (s, .done, bs) =>
      (match loadPiece s q acc p.1 p.2 with
       | (s, a, b) => (s, a, bs ++ b))
    | r => r) (s, .done, [])

/-- Bytes of one store: a write of more is one store to each block of an alias page that it touches, and one to each 32
bytes elsewhere (02 R49; log entry 74). -/
def storeWidth (s : State) (q : Rq) (va : Nat) : Nat :=
  if q.phys then 32 else
  match (requestFor s q va accStore false).2 with
  | .ok t => if leafMxa t.leaf then 64 else 32
  | _ => 32

/-- A store of a range; it stops at the first piece that fails. -/
def storeLoop (q : Rq) : Nat → State → Nat → List Byte → State × Acc
  | 0, s, _, _ => (s, .done)
  | fuel + 1, s, va, bs =>
    if bs.isEmpty then (s, .done)
    else
      let w := if va % 32 + bs.length ≤ 32 then 32 else storeWidth s q va
      let k := Nat.min bs.length (w - va % w)
      match storePiece s q va (bs.take k) with
      | (s, .done) => storeLoop q fuel s (va + k) (bs.drop k)
      | r => r

def storeRange (s : State) (q : Rq) (va : Nat) (bs : List Byte) : State × Acc := storeLoop q (bs.length / 32 + 2) s va bs

/-! ### Counted grains (08 R196 to R199) -/

/-- L1 set of an address (02 R33). -/
def l1Set (va : Nat) : Nat := bitsOf va 9 7

/-- 512-byte entries of a set that hold counted grains of a cluster, by entry address and ASID. -/
def countedEntries (s : State) (cl idx : Nat) : List (Half × Nat) :=
  (s.grains.filter fun g => g.holder == .l1 cl && isCounted g && l1Set g.va.toNat == idx).foldl (fun l g =>
    let k := (g.asid, g.va.toNat / 512)
    if l.contains k then l else l ++ [k]) []

/-- When an entry was last armed. -/
def entryArmedAt (s : State) (cl : Nat) (k : Half × Nat) : Nat :=
  (s.grains.filter fun g => inEntry (.l1 cl) k g && g.isArmed).foldl (fun a g => Nat.max a g.armedAt) 0

/-- Release a counted entry: armed grains become plain with their dirty sectors written back, each an `UNDERREAD`. -/
def releaseEntry (s : State) (cl : Nat) (k : Half × Nat) : State :=
  let sel := s.grains.filter fun g => inEntry (.l1 cl) k g && g.isArmed
  let s := sel.foldl (fun s g =>
    let s := flushGrain s g
    match g.cnt with
    | .armed _ team squad => countEvent s false cl team squad
    | _ => s) s
  let left : List Grain := s.grains.filterMap fun g =>
    if inEntry (.l1 cl) k g then
      (if g.cnt == .drained then none
       else if g.isArmed then some { g with cnt := .plain, dirty := 0, st := if g.st == .modified then .exclusive else g.st }
       else some g)
    else some g
  let s := { s with grains := left }
  modCluster s cl fun c => { c with clCntRel := c.clCntRel + 1 }

/-- Room for a counted entry of an address: at most 2 of a set's ways are counted (08 R199). -/
def makeCountedRoom (s : State) (cl : Nat) (asid : Half) (va : Nat) : State :=
  let es := countedEntries s cl (l1Set va)
  if es.contains (asid, va / 512) || decide (es.length < 2) then s
  else
    match es.find? fun k => s.grains.all fun g => !(inEntry (.l1 cl) k g && g.isArmed) with
    | some k => { s with grains := s.grains.filter fun g => !(inEntry (.l1 cl) k g && g.cnt == .drained) }
    | none =>
      match es with
      | [] => s
      | k :: ks =>
        releaseEntry s cl (ks.foldl (fun a b => if entryArmedAt s cl b < entryArmedAt s cl a then b else a) k)

/-- Fill and arm the grain of an address with a count (08 R196), the request already checked. -/
def armGrain (s : State) (cl : Nat) (t : TInfo) (asid : Half) (va n team squad : Nat) : State :=
  let grain := leafGrain t.leaf
  let gva := va / grain * grain
  let h : Holder := .l1 cl
  let arm (g : Grain) : Grain := { g with cnt := .armed n team squad, armedAt := clk s (dieOfCluster cl) }
  let fill (s : State) : State :=
    let x := homeGrain (downgradeOthers (snoop s (some h) (t.home va)) (some h) asid gva grain) h t asid va
    putCopy x.1 (arm x.2)
  match findGrain s h asid va with
  | some g =>
    match g.cnt with
    | .armed _ _ _ => countEvent (seatGrain s (arm g)) false cl team squad
    | .plain => seatGrain (makeCountedRoom s cl asid va) (arm g)
    | .drained => fill s
  | none => fill (makeCountedRoom s cl asid va)

/-- One consuming read of a grain: the count falls; at 0 the grain drops without write-back (08 R197, R198). -/
def consumeGrain (s : State) (cl : Nat) (asid : Half) (va : Nat) : State :=
  match findGrain s (.l1 cl) asid va with
  | some g =>
    match g.cnt with
    | .armed n team squad =>
      if n ≤ 1 then seatGrain s { g with cnt := .drained, data := [], dirty := 0, st := .shared }
      else seatGrain s { g with cnt := .armed (n - 1) team squad }
    | _ => s
  | none => s

/-- Make the grains plain that squads of a team have armed on a cluster that it leaves (08 R203). -/
def disarmTeam (s : State) (team : Nat) (cl : Nat → Bool) : State :=
  let hit (g : Grain) : Bool := match g.cnt, l1Of g.holder with
    | .armed _ t _, some c => t == team && cl c
    | _, _ => false
  let s := (s.grains.filter hit).foldl (fun s g =>
    let s := flushGrain s g
    match g.cnt, l1Of g.holder with
    | .armed _ t sq, some c => countEvent s false c t sq
    | _, _ => s) s
  { s with grains := s.grains.map fun g =>
      if hit g then { g with cnt := .plain, dirty := 0, st := if g.st == .modified then .exclusive else g.st } else g }

end Sys2Proof.Machine
end

