-- ==== Sys2Proof/Machine/LocalStore.lean ====
section
/-! DEFINITION. Segments of local store, their addresses and counted blocks (08 R185 to R195). -/

namespace Sys2Proof.Machine

def blockOf (off : Nat) : Nat := off / 128

def Segment.state (g : Segment) (b : Nat) : BlockSt := mgetD g.blocks b .plain

/-- A byte as an access reads it: a drained block reads as zero (08 R190, R191). -/
def Segment.byte (g : Segment) (off : Nat) : Byte :=
  match g.state (blockOf off) with
  | .drained => 0
  | _ => mgetD g.bytes off 0

def Segment.read (g : Segment) (off n : Nat) : List Byte := (List.range n).map fun i => g.byte (off + i)

def Segment.setBlock (g : Segment) (b : Nat) (x : BlockSt) : Segment :=
  { g with blocks := if x = .plain then mdel g.blocks b else mset g.blocks b x }

def putSegBytes (m : FMap Byte) (off : Nat) : List Byte → FMap Byte
  | [] => m
  | b :: bs => putSegBytes (if b = 0 then mdel m off else mset m off b) (off + 1) bs

/-- Blocks that n bytes from an offset touch. -/
def blocksOf (off n : Nat) : List Nat :=
  if n = 0 then [] else (List.range (blockOf (off + n - 1) - blockOf off + 1)).map fun k => blockOf off + k

/-- A write of `sts`, `atoms` or an unarmed copy: a drained block becomes plain (08 R191). -/
def Segment.write (g : Segment) (off : Nat) (bs : List Byte) : Segment :=
  let g := { g with bytes := putSegBytes g.bytes off bs }
  (blocksOf off bs.length).foldl (fun g b => if g.state b = .drained then g.setBlock b .plain else g) g

/-- A write of an arming copy: a drained block stays drained and keeps the bytes (08 R191). -/
def Segment.writeKept (g : Segment) (off : Nat) (bs : List Byte) : Segment :=
  { g with bytes := putSegBytes g.bytes off bs }

/-- Arm a block with a count; the Boolean is the `UNDERREAD` event (08 R191). -/
def Segment.arm (g : Segment) (b c : Nat) : Segment × Bool :=
  match g.state b with
  | .armed _ => if c = 0 then (g.setBlock b .plain, false) else (g.setBlock b (.armed c), true)
  | _ => if c = 0 then (g.setBlock b .plain, false) else (g.setBlock b (.armed c), false)

/-- Discard the bytes of a block. -/
def clearBlock (m : FMap Byte) (b : Nat) : FMap Byte := m.filter fun x => decide (blockOf x.1 ≠ b)

/-- One consuming access to a block (08 R191). -/
def Segment.consume (g : Segment) (b : Nat) : Segment :=
  match g.state b with
  | .armed n =>
    if n ≤ 1 then { g with bytes := clearBlock g.bytes b, blocks := mset g.blocks b .drained }
    else g.setBlock b (.armed (n - 1))
  | _ => g

/-- State code and count that `lsstat` reports (08 R190, 17 R419). -/
def BlockSt.code : BlockSt → Nat
  | .plain => 0
  | .armed n => 0x100 + n
  | .drained => 0x200

/-- Armed blocks left (08 R195). -/
def Segment.armedCount (g : Segment) : Nat :=
  (g.blocks.filter fun x => match x.2 with | .armed _ => true | _ => false).length

/-! ### Addresses (08 R186, R188) -/

/-- Rank of a squad's own core among its team's cores. -/
def ownRank (t : Team) (core : Nat) : Nat := t.cores.idxOf core

/-- Rank and offset of a local-store range of n bytes that obeys the rules but for alignment; `none` when it breaks them. -/
def lsRange (lskib cores own addr n : Nat) : Option (Nat × Nat) :=
  let core := bitsOf addr 20 4
  let off := bitsOf addr 0 19
  if bitsOf addr 24 8 ≠ 0 ∨ bitsOf addr 19 1 ≠ 0 then none
  else
    let rank := if core = 15 then own else core
    if (core ≠ 15 ∧ core ≥ 12) ∨ rank ≥ cores ∨ off + n > lskib * 1024 then none else some (rank, off)

/-- As `lsRange`, with natural alignment to n. -/
def lsAddr (lskib cores own addr n : Nat) : Option (Nat × Nat) :=
  if addr % 2 ^ 32 % n ≠ 0 then none else lsRange lskib cores own addr n

/-- A segment of a team by rank. -/
def Team.seg (t : Team) (r : Nat) : Segment := t.segs.getD r {}

def Team.setSeg (t : Team) (r : Nat) (g : Segment) : Team := { t with segs := setAt t.segs r g }

def modSeg (s : State) (team r : Nat) (f : Segment → Segment) : State :=
  { s with teams := mmod s.teams team fun t => t.setSeg r (f (t.seg r)) }

/-- The port of a core serves an access to blocks of a segment, one access per block and clock (08 R187): the core's own
squads come first, then far accesses, copies and matrix operands as they come. -/
def lsServe (s : State) (t : Team) (r rank : Nat) (blocks : List Nat) : State :=
  let owner := t.cores.getD r 0
  blocks.foldl (fun s b => inOrder s (owner / 256) (ordStore owner b) rank 1) s

abbrev lsFar : Nat := 24

/-- An access of a squad: the core's own squads by partition and issue slot. -/
def lsPort (s : State) (t : Team) (r core part : Nat) (slot : Bool) (blocks : List Nat) : State :=
  lsServe s t r (if t.cores.getD r 0 = core then 2 * part + slot.toNat else lsFar) blocks

/-- `UNDERREAD` of a block: the arming squad, wherever it is, its cluster's counter and its team (08 R195). -/
def underEvent (s : State) (team squad cl : Nat) : State :=
  let mark (q : Squad) : Squad := { q with cstat := q.cstat ||| 4 }
  modCluster { s with
    squads := mmod s.squads squad mark
    away := mmod s.away squad mark
    teams := mmod s.teams team fun t => { t with underMark := true } } cl fun c => { c with clUnder := c.clUnder + 1 }

/-- Arm one block for a squad of a cluster. -/
def armBlock (s : State) (team squad cl r b c : Nat) : State :=
  match mget s.teams team with
  | none => s
  | some t =>
    let (g, under) := (t.seg r).arm b c
    let s := { s with teams := mset s.teams team (t.setSeg r g) }
    if under then underEvent s team squad cl else s

end Sys2Proof.Machine
end

