-- ==== Sys2Proof/Machine/Ops.lean ====
section
/-! DEFINITION. The named operations over agents, teams and registers: completion flags and results (07 R166, R174,
R176), leaving and ending (06 R133, R145, 13 R295), the team barrier (17 R425), taking a trap and its record (13 R290
to R294, R298), the parking of accesses (03 R74, 13 R299). -/

namespace Sys2Proof.Machine

abbrev Outcome : Type := Host.Outcome State Fault Refusal

/-! ### Access to parts of the state -/

/-- A squad, whether or not it has threads. -/
def squadAny (s : State) (id : Nat) : Option Squad :=
  match mget s.squads id with
  | some q => some q
  | none => mget s.away id

def modSquad (s : State) (id : Nat) (f : Squad → Squad) : State :=
  match mget s.squads id with
  | some _ => { s with squads := mmod s.squads id f }
  | none => { s with away := mmod s.away id f }

def modTeam (s : State) (id : Nat) (f : Team → Team) : State := { s with teams := mmod s.teams id f }
def modSpine (s : State) (team : Nat) (f : Spine → Spine) : State := { s with spines := mmod s.spines team f }

def teamOf (s : State) (id : Nat) : Team := mgetD s.teams id { grid := 0, index := 0 }
def gridOf (s : State) (t : Team) : Grid := mgetD s.grids t.grid default

/-- A team's agents may issue: it is Resident and no spill stops it, or it migrates, which squads do only between
volleys (06 R142, R159, 13 R302). -/
def Team.runs (t : Team) : Bool := (t.state == .resident && !t.stopping) || t.state == .migrating

/-- Context slot of a team. -/
def slotOf (s : State) (team : Nat) : Nat := (gridOf s (teamOf s team)).slot

/-- Launch record of a team's grid. -/
def lrOf (s : State) (team : Nat) : LRec := (gridOf s (teamOf s team)).lr

/-- Image base of a team's context (14 R331). -/
def cbOf (s : State) (team : Nat) : Nat := ccb s (slotOf s team) 0x58 8

/-- Home cluster of a team: that of its first core (06 R131). -/
def homeCluster (t : Team) : Nat := clusterOf (t.cores.getD 0 0)

/-- Requests of a squad and of a spine thread. -/
def rqSquad (s : State) (id : Nat) (q : Squad) : Rq :=
  let slot := slotOf s q.team
  { die := q.core / 256, cluster := clusterOf q.core, slot := slot, asid := ctxAsid s slot, agent := .squad id, l1 := true }

/-- The number under which an SVP thread runs an instruction: no team's (05 R114; log entry 86). -/
def svpNo (q : Nat) : Nat := 2 ^ 40 + q

def isSvp (team : Nat) : Bool := decide (2 ^ 40 ≤ team) && decide (team < 2 ^ 40 + 64)

def rqSpine (s : State) (sp : Spine) : Rq :=
  let slot := slotOf s sp.team
  { die := dieOfCluster sp.cluster, cluster := sp.cluster, slot := slot, asid := ctxAsid s slot, agent := .spine sp.team,
    l1 := true, phys := isSvp sp.team }

/-- Squads of a team, with their numbers. -/
def squadsOf (s : State) (team : Nat) : List (Nat × Squad) := s.squads.filter fun x => x.2.team == team

/-- The operation that a reached team-scope boundary makes (06 R160). -/
def escape (s : State) (team : Nat) : State :=
  if (lrOf s team).idem then modTeam s team fun t => { t with escaped := true } else s

/-! ### Completion flags and results -/

/-- A `nap` ends (17 R426, 15 R365); the mark says so to the instruction. -/
def wakeSquad (s : State) (id : Nat) : State :=
  modSquad s id fun q => match q.wait with
    | .nap _ => { q with wait := .none, granted := some 1 }
    | _ => q

def wakeSpine (s : State) (team : Nat) : State :=
  modSpine s team fun sp => match sp.wait with
    | .nap _ => { sp with wait := .none, granted := some 1 }
    | _ => sp

/-- Wake every agent of the teams that a test selects. -/
def wakeTeams (s : State) (p : Nat → Bool) : State :=
  let s := s.squads.foldl (fun s x => if p x.2.team then wakeSquad s x.1 else s) s
  s.spines.foldl (fun s x => if p x.1 then wakeSpine s x.1 else s) s

def flagCount (q : Squad) (f : Nat) : Nat := (q.f.getD f 0).toNat

/-- Raise a completion flag (07 R176). -/
def raiseFlag (s : State) (id : Nat) (f : Option Nat) : State :=
  match f with
  | none => s
  | some f => modSquad s id fun q => { q with f := setAt q.f f (q.f.getD f 0 + 1) }

/-- Lower a completion flag; one that falls to 0 ends a `nap`. -/
def lowerFlag (s : State) (id : Nat) (f : Option Nat) : State :=
  match f with
  | none => s
  | some f =>
    match squadAny s id with
    | none => s
    | some q =>
      let n := flagCount q f
      let s := modSquad s id fun q => { q with f := setAt q.f f (BitVec.ofNat 6 (n - 1)) }
      if n = 1 then wakeSquad s id else s

/-- The flag that `FS` selects in the volley header in force (14 R318). -/
def flagOf (q : Squad) (fs : Bool) : Option Nat :=
  let k := (if fs then q.setb else q.seta).toNat
  if k = 15 then none else some k

/-- Registers of a result that its operation still owns take their values; the others were remapped (07 R174). -/
def landRegs (v : FMap VReg) (op idx : Nat) : Nat → List Lanes → FMap VReg
  | _, [] => v
  | i, x :: xs =>
    let v := match mget v (idx + i) with
      | some r => if r.pend = some op then mset v (idx + i) { val := x } else v
      | none => v
    landRegs v op idx (i + 1) xs

def landUniform (g : FMap Dword) (idx : Nat) (wide : Bool) (younger : List Nat) : Nat → List Lanes → FMap Dword
  | _, [] => g
  | i, x :: xs =>
    let val : Dword := (if wide then x.getD 1 0 else 0) ++ x.getD 0 0
    landUniform (if younger.contains i then g else mset g (idx + i) val) idx wide younger (i + 1) xs

/-- A predicate takes the bits of some lanes; p7 discards (07 R176). -/
def putPred (p : List Word) (idx : Nat) (lanes val : Word) : List Word :=
  setAt p idx ((p.getD idx 0 &&& ~~~lanes) ||| (val &&& lanes))

/-- A squad's registers after a result lands. -/
def landIn (q : Squad) (op : Nat) (p : POp) : Squad :=
  match p.dst with
  | .none => q
  | .v idx _ => { q with v := landRegs q.v op idx 0 p.vals }
  | .g idx _ wide => if p.lanes = 0 then q else { q with g := landUniform q.g idx wide p.overG 0 p.vals }
  | .p idx => if p.overP then q else { q with p := putPred q.p idx p.lanes p.pval }
  | .vp idx _ pidx =>
    { q with v := landRegs q.v op idx 0 p.vals, p := if p.overP then q.p else putPred q.p pidx p.lanes p.pval }

/-- A long-latency result lands: registers, then the set-flag; readers that waited for it may go on (07 R148, R174). -/
def landPop (s : State) (op : Nat) : State :=
  match mget s.pops op with
  | none => s
  | some p =>
    let s := { s with pops := mdel s.pops op }
    let s := modSquad s p.squad fun q => landIn q op p
    let s := lowerFlag s p.squad p.flag
    { s with squads := s.squads.map fun x => match x.2.wait with
        | .landing ops =>
          let rest := ops.filter fun k => k != op
          (x.1, { x.2 with wait := if rest.isEmpty then .none else .landing rest })
        | _ => x }

/-- Traps of a squad arrive: each has its place among those that enter the handler. Of one clock the lower squad index
comes first, and a stop of the team before all (13 R294, R311). -/
def trapArrives (s : State) (id : Nat) (q : Squad) (n : Nat) : State :=
  let s := inOrder s (q.core / 256) (ordTrap q.team) (q.index + 1) (2 ^ 16)
  modTeam s q.team fun t =>
    { t with hwait := t.hwait ++ (List.range n).map (fun k => (id, t.trapNo + k)), trapNo := t.trapNo + n }

/-- Traps numbered in the order of their arrival, from n on. -/
def arrivals (n : Nat) (ts : List Trap) : List Trap := ts.zipIdx.map fun x => { x.1 with arrival := n + x.2 }

/-- The squad observes errors of some operations (11 R250): their traps fall due. -/
def observe (s : State) (id : Nat) (p : Seen → Bool) : State :=
  match mget s.squads id with
  | none => s
  | some q =>
    if q.unseen.any p then
      let seen := arrivals (teamOf s q.team).trapNo ((q.unseen.filter p).map (·.trap))
      wakeSquad (modSquad (trapArrives s id q seen.length) id fun q => { q with
        traps := q.traps ++ seen, unseen := q.unseen.filter fun e => !p e }) id
    else s

/-- An unobserved error of an operation on a flag of a mask. -/
def onFlags (m : BitVec 12) (e : Seen) : Bool := match e.flag with | some f => m.getLsbD f | none => false

/-! ### Live threads and the barrier (17 R425, 09 R219) -/

def groupThreads (t : Team) : Nat := t.groups.foldl (fun n g => n + g.recs.length) 0

/-- The team's lane threads that have neither exited nor been switched off. -/
def liveThreads (s : State) (team : Nat) : Nat :=
  (squadsOf s team).foldl (fun n x => n + popNat 32 x.2.pm.toNat) (groupThreads (teamOf s team))

def unmark (r : ThreadRec) : ThreadRec := { r with marked := false }

/-- Completion of the barrier, tested after every arrival, exit and switch-off. -/
def barrierTest (s : State) (team : Nat) : State :=
  let t := teamOf s team
  if t.barArr ≥ liveThreads s team then
    let s := modTeam s team fun t => { t with
      barArr := 0, barPhase := !t.barPhase
      groups := t.groups.map fun g => { g with recs := g.recs.map unmark } }
    { s with squads := s.squads.map fun x =>
        if x.2.team = team then
          (x.1, { x.2 with marks := 0, phase := none,
                           wait := match x.2.wait with | .barrier _ => .none | w => w })
        else x }
  else s

/-! ### Leaving (06 R133, R145, 09 R213) -/

/-- Fold a squad's final `LFM` and `CSTAT` into the exit record. -/
def foldExit (t : Team) (index : Nat) (lfm cstat : Word) : Team :=
  { t with
    lfmor := t.lfmor ||| lfm
    lfmsq0 := if lfm = 0 then t.lfmsq0 else Nat.min t.lfmsq0 index
    lfmsqn := if lfm = 0 then t.lfmsqn else Nat.min (t.lfmsqn + 1) 0xFFFF
    deadrd := t.deadrd || bitOf cstat.toNat 0 }

/-- Threads of an origin that live outside a squad. -/
def originLives (s : State) (team index skip : Nat) : Bool :=
  ((squadsOf s team).any fun x =>
    x.1 != skip && (lanesOf x.2.pm).any fun l => (x.2.origin.getD l ⟨0, 0, 0⟩).osq == index)
  || (teamOf s team).groups.any fun g => g.recs.any fun r => r.org.osq == index

/-- Shared-register window of a team: free its entries; one found Full with a count of 1 to 254 marks the team
(07 R184). -/
def releaseWindow (s : State) (team : Nat) : State :=
  let t := teamOf s team
  let n := (gridOf s t).lr.hwin
  let cl := homeCluster t
  let inWin (k : Nat) : Bool := decide (t.window ≤ k) && decide (k < t.window + n)
  let c := getCluster s cl
  let left := c.bank.any fun e => inWin e.1 && e.2.full && e.2.count.toNat != 255 && e.2.count.toNat != 0
  let s := modCluster s cl fun c => { c with bank := c.bank.filter fun e => !inWin e.1 }
  if left then modTeam s team fun t => { t with underMark := true } else s

/-- A squad that leaves stays with the operations that it has outstanding (06 R133). -/
def stayAway (s : State) (id : Nat) (q : Squad) (keep : Bool) : State :=
  if keep ∨ s.mops.any (fun m => m.squad == id) then
    { s with away := mset s.away id { q with live := false, held := none, wait := .none, kept := keep } }
  else s

/-- The former keeps nothing more of an origin squad: its `LFM` and `CSTAT` are folded (09 R213). -/
def dropKept (s : State) (team : Nat) (p : Nat × Squad → Bool) : State :=
  s.away.foldl (fun s x =>
    if x.2.team == team && x.2.kept && p x then
      let s := modTeam s team fun t => foldExit t x.2.index x.2.lfm x.2.cstat
      stayAway { s with away := mdel s.away x.1 } x.1 x.2 false
    else s) s

/-- A team changes its state: at most once in a clock, and of the events of one clock the first of 06 R142's table. -/
def transit (s : State) (team rank : Nat) : State :=
  inOrder s ((teamOf s team).cores.getD 0 0 / 256) (ordTeam team) rank 1

/-- The last squad and the spine thread have left: the team is Exited (06 R133, R142; 08 R195, R203). -/
def teamExit (s : State) (team : Nat) : State :=
  let s := transit s team 2
  let s := dropKept s team fun _ => true
  let s := disarmTeam s team fun _ => true
  let s := releaseWindow s team
  let s := { s with spines := mdel s.spines team }
  modTeam s team fun t =>
    let und := t.segs.foldl (fun n g => n + g.armedCount) 0
    { t with state := .exited, undblk := und, underMark := t.underMark || und != 0, hsq := none, hwait := [],
             spawnSlot := none, groups := [] }

/-- Exited once no squad, no parked thread and no spine thread is left. -/
def exitTest (s : State) (team : Nat) : State :=
  let t := teamOf s team
  if t.state = .resident ∧ (squadsOf s team).isEmpty ∧ groupThreads t = 0
      ∧ ((mget s.spines team).all fun sp => !sp.live) then teamExit s team
  else s

/-- Bit `INH` of `TCAUSE`. -/
def inHandler (q : Squad) : Bool := bitOf q.tcause.toNat 9

/-- A squad whose `pm` is 0 leaves its slot (06 R133, 09 R213), and with it its handler. -/
def squadLeave (s : State) (id : Nat) : State :=
  match mget s.squads id with
  | none => s
  | some q =>
    let keep := q.originIdx && originLives s q.team q.index id
    let s := modTeam s q.team fun t =>
      { t with hsq := if inHandler q then none else t.hsq, hwait := t.hwait.filter fun w => w.1 != id
               lastIssue := Nat.max t.lastIssue q.lastIssue }
    let s := stayAway { s with squads := mdel s.squads id } id q keep
    let s := if keep then s else modTeam s q.team fun t => foldExit t q.index q.lfm q.cstat
    let s := dropKept s q.team fun x => !originLives s q.team x.2.index x.1
    exitTest s q.team

/-- Engine errors that the squad has not observed fall due when it would exit (18 R435). -/
def seeAll (s : State) (id : Nat) : State := observe s id fun _ => true

/-- A squad whose threads are away, not ended: the former keeps it (09 R213). -/
def keptAway (s : State) (id : Nat) (q : Squad) : Bool := q.originIdx && originLives s q.team q.index id

/-- When `pm` is 0 the squad exits once its operand log is empty and no trap is due (17 R423). One that exits observes its
engine errors first; one that the former keeps takes them along (18 R435, 09 R213). -/
def settleExit (s : State) (id : Nat) : State :=
  match mget s.squads id with
  | none => s
  | some q =>
    if q.pm = 0 ∧ q.log.isEmpty ∧ (q.traps.isEmpty ∨ inHandler q) then
      (if q.unseen.isEmpty || inHandler q || keptAway s id q then squadLeave s id else seeAll s id)
    else s

/-- Threads of some lanes end: they leave `pm` and `em` and the barrier's count. -/
def endLanes (s : State) (id : Nat) (lanes : Word) : State :=
  let s := modSquad s id fun q => { q with
    pm := q.pm &&& ~~~lanes, em := q.em &&& ~~~lanes, marks := q.marks &&& ~~~lanes
    leaving := q.leaving || (q.pm != 0 && q.pm &&& ~~~lanes == 0) }
  match mget s.squads id with
  | some q => barrierTest s q.team
  | none => s

/-- Lanes that broke a local-store rule are switched off (08 R188). -/
def switchOff (s : State) (id : Nat) (lanes : Word) : State :=
  if lanes = 0 then s
  else endLanes (modSquad s id fun q => { q with lfm := q.lfm ||| lanes }) id lanes

/-! ### Ending a team (13 R295, 06 R161, R115) -/

/-- Kill copies: the destination grains that they hold and that no recall has reached are discarded (13 R312). -/
def killCopies (s : State) (p : Copy → Bool) : State :=
  let sel := s.copies.filter p
  { s with
    copies := s.copies.filter fun c => !p c
    grains := s.grains.filter fun g => !sel.any fun c =>
      match c.dst with
      | .mem va => g.holder == .copyEngine c.cluster && g.overlaps (ctxAsid s c.slot) va.toNat c.done
      | .ls _ _ => false }

/-- A request that an agent of a team has made. -/
def Req.ofTeam (s : State) (team : Nat) (r : Req) : Bool :=
  match r.who with
  | .squad id _ => (match squadAny s id with | some q => q.team == team | none => false)
  | .spine t => t == team
  | _ => false

/-- `REQ` of a fault record (03 R76). The spec lists none for the report of `ATTEST` and for the former's accesses to a
spawn area; they take the distributor's (log entry 94). -/
def Reqr.code : Reqr → Nat
  | .squad _ _ => 0
  | .spine _ | .merged _ => 1
  | .copy _ => 2
  | .matrix _ => 3
  | _ => 5

/-- A request whose agent is gone: of one that has faulted the record is still to be posted (03 R74), and no more; its data is
dropped (13 R311). -/
def Req.leave (r : Req) : Option Req :=
  match r.st with
  | .faulted _ => some { r with who := .device, kind := .read 1, code := some (r.code.getD r.who.code) }
  | _ => none

/-- Requests of a team that ends: its stores and atomics are still performed, nothing waits for its loads, and the results
of its parked accesses land nowhere (06 R133, 13 R295). -/
def orphanReqs (s : State) (team : Nat) : State :=
  { s with
    pops := s.pops.filter fun p => !(squadsOf s team).any fun x => x.2.log.any fun e => e.pop == p.1
    reqs := s.reqs.filterMap fun r =>
      if r.ofTeam s team then
        match r.kind with
        | .write _ | .atom _ _ _ _ _ => some { r with who := .orphan team, code := some (r.code.getD r.who.code) }
        | _ => r.leave
      else some r }

/-- Squads and the spine thread issue no more; the team is Exited with a status. Its outstanding operations complete. -/
def teamEnd (s : State) (team status cause : Nat) : State :=
  let s := orphanReqs s team
  let s := (squadsOf s team).foldl (fun s x =>
    stayAway { modTeam s team (fun t => foldExit t x.2.index x.2.lfm x.2.cstat) with squads := mdel s.squads x.1 } x.1 x.2 false) s
  let s := modTeam s team fun t => { t with ended := some (status, cause) }
  teamExit s team

/-- A team is declared lost: it restarts if it is idempotent and has not escaped, else it is Retired with status 3 (06 R142,
R161). -/
def teamLose (s : State) (team : Nat) : State :=
  let t := teamOf s team
  let g := gridOf s t
  if g.lr.idem ∧ t.escaped = false then
    let s := disarmTeam (transit s team 11) team fun _ => true
    let s := releaseWindow s team
    let s := killCopies s fun c => c.team == team
    let s := { s with
      squads := s.squads.filter fun x => x.2.team != team
      spines := mdel s.spines team
      away := s.away.filter fun x => x.2.team != team
      pops := s.pops.filter fun p => match squadAny s p.2.squad with | some q => q.team != team | none => true
      reqs := s.reqs.filterMap fun r => if r.ofTeam s team then r.leave else some r
      mops := s.mops.filter fun m => match squadAny s m.squad with | some q => q.team != team | none => true
      grids := mmod s.grids t.grid fun g => { g with again := (g.again.filter fun k => k != team) ++ [team] } }
    modTeam s team fun t =>
      { grid := t.grid, index := t.index, restarted := true, children := t.children, tstart := t.tstart,
        hdrSlot := t.hdrSlot, image := t.image, nblk := t.nblk, blocks := t.blocks }
  else modTeam (teamEnd s team 3 0) team fun t => { t with state := .retired }

/-! ### Traps (13 R289 to R295) -/

/-- Code numbers of 13 R289. -/
abbrev tIllop : Byte := 0x01
abbrev tPriv : Byte := 0x02
abbrev tMisalign : Byte := 0x03
abbrev tMemfault : Byte := 0x04
abbrev tPoison : Byte := 0x05
abbrev tCodecsum : Byte := 0x06
abbrev tHostatom : Byte := 0x07
abbrev tOverread : Byte := 0x08
abbrev tPartial : Byte := 0x09
abbrev tTilelost : Byte := 0x0A
abbrev tSpawnfull : Byte := 0x0B
abbrev tBadret : Byte := 0x0C
abbrev tDiverge : Byte := 0x0D
abbrev tDepth : Byte := 0x0E
abbrev tRows : Byte := 0x0F
abbrev tHazard : Byte := 0x10
abbrev tQfull : Byte := 0x11
abbrev tSwtrap : Byte := 0x12
abbrev tBrk : Byte := 0x13

/-- A team has a handler (13 R292). -/
def hasHandler (s : State) (team : Nat) : Bool :=
  let th := (teamOf s team).thand.toNat
  bitsOf th 0 32 != 0 && decide (bitsOf th 32 19 + 320 ≤ (lrOf s team).lskib * 1024)

/-- The trap record (13 R293). -/
def trapRecord (tr : Trap) (tem resume : Word) : List Byte :=
  [tr.code, if tr.deferred then 1 else 0, 0, 0]
  ++ bytesOf 4 tr.tlm.toNat ++ bytesOf 4 tem.toNat ++ bytesOf 4 tr.tpc.toNat ++ bytesOf 4 resume.toNat
  ++ zeros 4 ++ bytesOf 8 tr.aux.toNat ++ bytesOf 12 tr.word.toNat ++ zeros 20
  ++ (laneIdx.map fun l => bytesOf 8 (if inMask tr.tlm l then (tr.vals.getD l 0).toNat else 0)).flatten

/-- A squad enters its team's handler (13 R292). -/
def enterHandler (s : State) (id : Nat) : State :=
  match mget s.squads id with
  | none => s
  | some q =>
    match q.cur with
    | none => s
    | some tr =>
      let t := teamOf s q.team
      let th := t.thand.toNat
      let resume := if tr.deferred then q.resume else tr.tpc
      let rec' := trapRecord tr q.em resume
      let s := modSeg s q.team (ownRank t q.core) fun g => g.write (bitsOf th 32 19) rec'
      let s := modTeam s q.team fun t => { t with hsq := some q.index, hwait := t.hwait.filter fun w => w != (id, tr.arrival) }
      modSquad s id fun q => { q with
        tcause := BitVec.ofNat 32 (tr.code.toNat + (if tr.deferred then 0x100 else 0) + 0x200)
        tpc := tr.tpc, tlm := tr.tlm, tem := q.em, em := q.pm, resume := resume
        pos := BitVec.ofNat 32 (bitsOf th 0 32), inVolley := false, held := none, wait := .none, code := []
        saved := some ⟨q.hdr, q.hpos, q.inVolley, q.granted, q.arrived⟩
        granted := none, arrived := false, eject := none, leaving := false }

/-- A trap that ends its team (13 R295); `TILELOST` declares it lost. -/
def trapEnd (s : State) (team : Nat) (code : Byte) : State :=
  if code = tTilelost then teamLose s team else teamEnd s team 1 code.toNat

/-- The squad waits to enter its handler. -/
def waitsEntry (s : State) (id : Nat) : Bool := (mget s.squads id).any fun q => q.wait == .handler

/-- A squad enters its handler: no other squad of the team is in it, and of those that wait none has come before (13 R294). -/
def mayEnter (s : State) (id : Nat) (t : Team) : Bool :=
  t.hsq.isNone && ((t.hwait.find? fun w => w.1 == id || waitsEntry s w.1).map (·.1)) == some id

/-- A trap that has arrived is due: it ends the team, waits for another squad's handler, or enters (13 R292, R294, R295). -/
def trapDue (s : State) (id : Nat) (tr : Trap) : State :=
  match mget s.squads id with
  | none => s
  | some q =>
    if inHandler q ∨ hasHandler s q.team = false then trapEnd s q.team tr.code
    else
      let s := modSquad s id fun q => { q with cur := some tr }
      if mayEnter s id (teamOf s q.team) then enterHandler s id
      else modSquad s id fun q => { q with wait := .handler, held := none }

/-- A precise trap arrives, and is due at once. -/
def takeTrap (s : State) (id : Nat) (tr : Trap) : State :=
  match mget s.squads id with
  | none => s
  | some q => trapDue (trapArrives s id q 1) id { tr with arrival := (teamOf s q.team).trapNo }

/-- A precise trap at the instruction or header that stands at the squad's position (13 R290). -/
def preciseTrap (s : State) (id : Nat) (code : Byte) (tlm : Word) (word : BitVec 96) (vals : List Dword := [])
    (aux : Dword := 0) : State :=
  match mget s.squads id with
  | none => s
  | some q => takeTrap s id { code := code, tlm := tlm, vals := vals, aux := aux, tpc := q.pos, word := word }

/-- A deferred trap arises: it is held until the next instruction boundary; it ends a `nap` (13 R294, R297). -/
def deferTrap (s : State) (id : Nat) (tr : Trap) : State :=
  match mget s.squads id with
  | none => modSquad s id fun q => { q with traps := q.traps ++ [{ tr with deferred := true }] }
  | some q =>
    wakeSquad (modSquad (trapArrives s id q 1) id fun q =>
      { q with traps := q.traps ++ [{ tr with deferred := true, arrival := (teamOf s q.team).trapNo }] }) id

/-- The held trap of the lowest code. -/
def lowestTrap : List Trap → Option Trap
  | [] => none
  | t :: ts =>
    match lowestTrap ts with
    | some u => if u.code < t.code then some u else some t
    | none => some t

/-- Remove the first trap of a code. -/
def removeTrap (ts : List Trap) (code : Byte) : List Trap :=
  match ts with
  | [] => []
  | t :: rest => if t.code = code then rest else t :: removeTrap rest code

/-- Where the squad would have gone on: its position, or its `yield`'s continuation (13 R297). -/
def resumeOf (q : Squad) : Word :=
  match q.wait with
  | .yield _ cont => cont
  | _ => q.pos

/-- An agent leaves every waiter list of shared-register entries. -/
def leaveWaiters (s : State) (a : Agent) : State :=
  let strip (e : Nat × HEntry) : Nat × HEntry := (e.1, { e.2 with waiters := e.2.waiters.filter fun w => w.1 != a })
  { s with clusters := s.clusters.map fun c =>
      (c.1, { c.2 with bank := c.2.bank.map strip, common := c.2.common.map strip }) }

/-- A squad gives up the contribution that waits at its position: its flag falls (13 R297, 16 R401). -/
def dropContribution (s : State) (id : Nat) (q : Squad) : State :=
  let mine (p : Nat × POp) : Bool := p.2.squad == id && p.2.tpc == q.pos && !p.2.ready && p.2.dst == .none
  (s.pops.filter mine).foldl (fun s p => lowerFlag { s with pops := mdel s.pops p.1 } id p.2.flag) s

/-- A squad gives up the queue operation or fetch that waits for a verdict. -/
def dropHeld (s : State) (id : Nat) : State :=
  let gone := (s.reqs.filter fun r => r.who == .squad id 0).map (·.id)
  { s with reqs := s.reqs.filterMap fun r => if r.who = .squad id 0 then r.leave else some r, dies := s.dies.map fun d =>
      (d.1, { d.2 with pft := d.2.pft.map fun p => { p with reqs := p.reqs.filter fun k => !gone.contains k } }) }

/-- Deliver the held trap of the lowest code at an instruction boundary; a wait under way is abandoned (13 R297). -/
def deliverTrap (s : State) (id : Nat) : State :=
  match mget s.squads id with
  | none => s
  | some q =>
    if inHandler q ∨ q.wait = .handler then s
    else
      match lowestTrap q.traps with
      | none => s
      | some tr =>
        let s := match q.wait with
          | .shared _ _ => dropContribution (leaveWaiters s (.squad id)) id q
          | .fault => dropHeld s id
          | _ => s
        let s := modSquad s id fun q => { q with
          traps := removeTrap q.traps tr.code, resume := resumeOf q, wait := .none, held := none, eject := none }
        trapDue s id tr

/-- A spine trap (13 R298). -/
def spineTrap (s : State) (team : Nat) (code : Byte) (val : Dword) : State :=
  match mget s.spines team with
  | none => s
  | some sp =>
    if sp.shand = 0 ∨ bitsOf sp.scause.toNat 0 8 ≠ 0 then trapEnd s team code
    else modSpine s team fun sp => { sp with
      scause := BitVec.ofNat 32 code.toNat, sepc := sp.pc, sval := val, pc := sp.shand, wait := .none, granted := none,
      log := none, resp := none, code := none }

/-! ### Parked requests (03 R74, R75) -/

/-- Add a request record. -/
def addReq (s : State) (r : Req) : State := { s with reqs := s.reqs ++ [{ r with id := s.nextId }], nextId := s.nextId + 1 }

def modReq (s : State) (id : Nat) (f : Req → Req) : State :=
  { s with reqs := s.reqs.map fun r => if r.id = id then f r else r }

def dropReq (s : State) (id : Nat) : State :=
  { s with reqs := s.reqs.filter fun r => r.id != id, dies := s.dies.map fun d =>
      (d.1, { d.2 with pft := d.2.pft.map fun p => { p with reqs := p.reqs.filter fun k => k != id } }) }

/-- The VPL port of a request: index h mod c of the usable ports (04 R101); 12 stands for none. -/
def peerPort (s : State) (slot hme : Nat) (va : Dword) : Nat :=
  let p := ccb s slot (0x80 + 8 * hmePeer hme) 8
  let ports := (List.range 12).filter fun i => bitOf p i && s.io.vplUp.getLsbD i
  ports.getD (Config.vplHash (BitVec.ofNat 47 (va.toNat / 512)) % ports.length) 12

def Req.isWrite (r : Req) : Bool := match r.kind with | .write _ => true | _ => false

def Req.isAtom (r : Req) : Bool := match r.kind with | .atom _ _ _ _ _ => true | _ => false

/-- A store through an L1 to a line that the host homes over KL asks for exclusive access to it (02 R34, 04 R92). -/
def Req.owns (r : Req) : Bool :=
  r.isWrite && hmeHome r.hme == 8 && (match r.who with | .squad _ _ | .spine _ => true | _ => false)

/-- A request over PCIe may be sent: the link is up, and of those that are not posted at most 2,048 are outstanding
(04 R81). -/
def pcieRoom (s : State) (r : Req) : Bool :=
  hmeHome r.hme != 9 || s.io.pcieUp && r.isWrite
  || s.io.pcieUp && decide ((s.reqs.filter fun x => x.st == .remote && hmeHome x.hme == 9 && !x.isWrite).length < 2048)

/-- A 4 KiB page of the address translation cache (04 R93; log entry 75). -/
def atcPage (s : State) (r : Req) : Nat × Nat := (pasidOf s r.asid, r.va.toNat / 4096)

/-- What a request puts on its link: over PCIe, where the address translation cache misses, an ATS translation request goes
first (04 R92, R93, R101). -/
def sendOuts (s : State) (r : Req) (id port : Nat) : List Out :=
  if hmeHome r.hme = 10 then
    [.peerReq port id (BitVec.ofNat 16 (bitsOf (ccb s r.slot (0x80 + 8 * hmePeer r.hme) 8) 32 16)) r.va]
  else
    let out : Out := .klReq id (pasidOf s r.asid) r.va r.owns
    if hmeHome r.hme = 9 ∧ s.io.atc.contains (atcPage s r) = false then [out, .atsReq (pasidOf s r.asid) r.va] else [out]

/-- A line homed on the host over KL that the device's caches hold, within a range (04 R92). -/
def Grain.hostLine (g : Grain) (asid : Half) (va n : Nat) : Bool := g.pa.isNone && g.holder != .host && g.overlaps asid va n

/-- Bytes that a request is about. -/
def Req.span (r : Req) : Nat :=
  match r.kind with
  | .read n => n
  | .write bs => bs.length
  | .atom _ n _ _ _ => n
  | _ => 0

/-- A write that the host performs first takes the device's copies of its lines away (10 R226). -/
def dropHostLines (s : State) (r : Req) : State :=
  if hmeHome r.hme = 8 ∧ r.isWrite ∧ r.owns = false then recallWhere s false fun g => g.hostLine r.asid r.va.toNat r.span else s

/-- A request to a page of a peer that is a device page or strongly ordered (04 R101, 10 R237; log entry 77). -/
def Req.orderedFar (s : State) (r : Req) : Bool :=
  hmeHome r.hme == 10 && decide (2 ≤ (peerType s r.asid r.va.toNat).getD 3)

/-- Accesses of one agent to such pages are performed one after another, whatever their ports (10 R237, R242). -/
def turnComes (s : State) (r : Req) : Bool :=
  r.agent == .none || !r.orderedFar s
  || !s.reqs.any fun x => x.agent == r.agent && x.orderedFar s && (x.st == .remote || x.st == .queued)
       && (r.id == 0 || decide (x.id < r.id))

/-- A request may go out on its link. -/
def linkRoom (s : State) (r : Req) : Bool := pcieRoom s r && turnComes s r

/-- Bytes that an agent's write-combining entries hold of a range, by offset (10 R237). -/
def mergedBytes (s : State) (a : Agent) (asid : Half) (va n : Nat) : FMap Byte :=
  (List.range n).filterMap fun i =>
    ((s.wc.find? fun e => e.asid == asid && e.agents.contains a && (va + i) / 512 == e.va.toNat / 512).bind fun e =>
      mget e.bytes ((va + i) % 512)).map fun b => (i, b)

/-- Send a request to the host or a peer, once its link has room and its turn has come (04 R81, R93, R101, 10 R242). A load
from a peer takes the bytes along that its agent's write-combining entries hold. A link that is down changes nothing but
this: over PCIe the request waits, over KL it is out, and to a peer without a usable port it goes to none (log entry 95). -/
def sendRemote (s : State) (r : Req) : State :=
  let s := dropHostLines s r
  let port := if hmeHome r.hme = 10 then peerPort s r.slot r.hme r.va else 0
  let room := linkRoom s r
  let r := match r.kind with
    | .read n => if hmeHome r.hme = 10 then { r with newer := mergedBytes s r.agent r.asid r.va.toNat n } else r
    | _ => r
  let s' := addReq s { r with st := if room then .remote else .queued, sentAt := s.timeNs.toNat, port := port, own := r.owns }
  if room then { s' with outs := sendOuts s r s.nextId port ++ s'.outs } else s'

/-- Writes that an agent has sent to the host or a peer and that no answer has acknowledged (04 R98, 10 R241). -/
def writesAway (s : State) (a : Agent) : List Nat :=
  (s.reqs.filter fun r => r.isWrite && r.agent == a && (r.st == .remote || r.st == .queued || r.st == .pri)).map (·.id)

/-- A write on its way to the host over PCIe, where writes are posted (10 R241). -/
def Req.posted (r : Req) : Bool := r.isWrite && hmeHome r.hme == 9 && r.st == .remote

/-- The device's read of PCIe host memory that follows an agent's posted writes: its completion says that they have arrived
(10 R241). -/
def Req.flushes (r : Req) : Bool :=
  r.who == .device && r.agent != .none && hmeHome r.hme == 9 && (match r.kind with | .read _ => true | _ => false)

/-- A release at system scope has the device read PCIe host memory behind the agent's posted writes (10 R241). -/
def pcieFlush (s : State) (a : Agent) : State :=
  match s.reqs.find? fun r => r.posted && r.agent == a with
  | some w =>
    if s.reqs.any fun r => r.flushes && r.agent == a then s
    else sendRemote s { id := 0, who := .device, kind := .read 4, asid := w.asid, va := w.va, st := .sent, die := w.die, slot := w.slot,
                        hme := w.hme, agent := a }
  | none => s

/-- The request record of an access that its step could not complete. -/
def parkAcc (s : State) (r : Req) (a : Acc) : State :=
  match a with
  | .fault k d h p => addReq s { r with st := .faulted k, die := d, hme := h, pte := p }
  | .remote h => sendRemote s { r with hme := h }
  | .held => addReq s { r with st := .held }
  | _ => s

end Sys2Proof.Machine
end

