-- ==== Sys2Proof/Machine/SharedRegs.lean ====
section
/-! DEFINITION. The shared-register bank (07 R178 to R184). Operations on one entry are performed one after another; one
that must wait is recorded in the entry's waiter list, which is retried in order when the entry changes. -/

namespace Sys2Proof.Machine

/-- Where an entry stands: its cluster, and a window entry or a common one (07 R178). -/
structure HLoc where
  cluster : Nat
  common : Bool
  key : Nat
  deriving DecidableEq, Repr

/-- `hN` of a team. -/
def hLoc (s : State) (team n : Nat) : HLoc :=
  let t := teamOf s team
  let g := gridOf s t
  if n < g.lr.hwin then ⟨homeCluster t, false, t.window + n⟩ else ⟨homeCluster t, true, 64 * g.slot + n⟩

def getH (s : State) (l : HLoc) : HEntry :=
  let c := getCluster s l.cluster
  if l.common then mgetD c.common l.key {} else mgetD c.bank l.key {}

/-- Store an entry. -/
def putH (s : State) (l : HLoc) (e : HEntry) : State :=
  modCluster s l.cluster fun c =>
    if l.common then { c with common := mset c.common l.key e } else { c with bank := mset c.bank l.key e }

/-- Teams that can name an entry: for a common one, every team of its context homed on the cluster. -/
def canName (s : State) (l : HLoc) (team : Nat) : Bool :=
  let t := teamOf s team
  let g := gridOf s t
  homeCluster t == l.cluster
  && (if l.common then g.slot == l.key / 64 && decide (g.lr.hwin ≤ l.key % 64)
      else decide (t.window ≤ l.key) && decide (l.key < t.window + g.lr.hwin))

/-- A value held in an entry: 32-bit integers extended by their type (07 R180). GTYPE: 0 i32, 1 n32, 2 i64, 3 n64, 4 f32. -/
def hExtend (ty x : Nat) : Nat :=
  match ty with
  | 0 => toBits 64 (sxNat 32 x)
  | 1 => x % 2 ^ 32
  | 4 => x % 2 ^ 32
  | _ => x % 2 ^ 64

/-- The combination of an entry's operation and type (07 R180): operations 0 add, 1 min, 2 max, 3 and, 4 or. -/
def hCombine (op ty a b : Nat) : Nat :=
  let lt : LType := match ty with | 0 => .i32 | 1 => .n32 | 2 => .i64 | 3 => .n64 | _ => .f32
  hExtend ty (combOp op lt false (a % 2 ^ lt.opW) (b % 2 ^ lt.opW))

/-- A contribution that names another operation, type or count than the entry's. -/
def hMismatch (e : HEntry) (op ty n : Nat) : Bool :=
  e.gather && !e.full && (e.op.toNat != op || e.gtype.toNat != ty || e.expect.toNat != n)

/-- One operation on an entry, where it need not wait: the new entry and the value read (07 R180). With the last read the
gather is over, and `RECV`, which counts the current gather (15 R359), is 0. -/
def hTry (e : HEntry) : HOp → Option (HEntry × Dword)
  | .put v c => if e.full || e.gather then none else some ({ e with value := v, count := BitVec.ofNat 8 c, full := true }, 0)
  | .read =>
    if e.full = false then none
    else if e.count.toNat = 255 then some (e, e.value)
    else
      let c := e.count - 1
      some (if c = 0 then { e with count := 0, full := false, gather := false, recv := 0 } else { e with count := c }, e.value)
  | .acc x op ty n =>
    if e.full then none
    else if e.gather = false then
      some ({ e with value := x, op := BitVec.ofNat 3 op, gtype := BitVec.ofNat 3 ty, expect := BitVec.ofNat 11 n, recv := 1,
                     gather := true, full := n == 1, count := if n = 1 then e.consumers else e.count }, 0)
    else
      let v : Dword := BitVec.ofNat 64 (hCombine e.op.toNat e.gtype.toNat e.value.toNat x.toNat)
      let r := e.recv + 1
      some (if r = e.expect then { e with value := v, recv := r, full := true, count := e.consumers }
            else { e with value := v, recv := r }, 0)

/-- A waiting agent's operation has been performed. -/
def hGrant (s : State) (a : Agent) (v : Dword) : State :=
  match a with
  | .squad id => modSquad s id fun q => { q with wait := .none, granted := some v }
  | .spine t => modSpine s t fun sp => { sp with wait := .none, granted := some v }
  | .none => s

/-- A mismatched contribution sets the squad's `CSTAT.HMIS`; a spine contributor has none. -/
def hMark (s : State) (a : Agent) (mis : Bool) : State :=
  match a with
  | .squad id => if mis then modSquad s id fun q => { q with cstat := q.cstat ||| 16 } else s
  | _ => s

def misOf (e : HEntry) : HOp → Bool
  | .acc _ op ty n => hMismatch e op ty n
  | _ => false

/-- Retry waiters in list order; those that can go on leave the list. -/
def hRetry : List (Agent × HOp) → State × HEntry × List (Agent × HOp) → State × HEntry × List (Agent × HOp)
  | [], r => r
  | (a, op) :: rest, (s, e, kept) =>
    match hTry e op with
    | some (e', v) => hRetry rest (hMark (hGrant s a v) a (misOf e op), e', kept)
    | none => hRetry rest (s, e, kept ++ [(a, op)])

/-- Repeat the retry while the list shrinks. -/
def hSettle : Nat → State × HEntry → State × HEntry
  | 0, r => r
  | n + 1, (s, e) =>
    let (s, e', kept) := hRetry e.waiters (s, e, [])
    if kept.length = e.waiters.length then (s, { e' with waiters := kept })
    else hSettle n (s, { e' with waiters := kept })

/-- An entry has changed: retry its waiters, and end the naps of every team that can name it (17 R426). -/
def hChanged (s : State) (l : HLoc) (e : HEntry) : State :=
  let (s, e) := hSettle (e.waiters.length + 1) (s, e)
  wakeTeams (putH s l e) (canName s l)

/-- Place of an agent among those whose operations reach an entry in one clock: spine threads, then squads by core,
partition and slot (07 R182). -/
def hRank (s : State) : Agent → Nat
  | .spine t => ((mget s.spines t).map (·.thread)).getD 0
  | .squad id => (match mget s.squads id with | some q => 8 + ((q.core * 12 + q.part) * 64 + q.slot) | none => 8)
  | .none => 0

/-- An operation of an agent takes its turn at an entry (07 R182, 15 R358). -/
def hTurn (s : State) (l : HLoc) (a : Agent) : State :=
  inOrder s (dieOfCluster l.cluster) (ordShared l.cluster (2 * l.key + l.common.toNat)) (hRank s a) (2 ^ 20)

/-- An operation reaches the bank: performed, with its value, or recorded as waiting (07 R182). -/
def hArrive (s : State) (l : HLoc) (a : Agent) (op : HOp) : State × Option Dword :=
  let s := hTurn s l a
  let e := getH s l
  match hTry e op with
  | some (e', v) =>
    let s := hMark s a (misOf e op)
    (if e' = e then s else hChanged s l e', some v)
  | none => (putH s l { e with waiters := e.waiters ++ [(a, op)] }, none)

/-- The layout that `hstat` reports (16 R401). -/
def hStatus (e : HEntry) : Nat :=
  e.recv.toNat * 2 ^ 16 + e.count.toNat * 2 ^ 8 + (if e.gather then 2 else 0) + (if e.full then 1 else 0)

end Sys2Proof.Machine
end

