-- ==== Sys2Proof/Machine/Operands.lean ====
section
/-! DEFINITION. Operand forms of lane and spine instructions: sources, literals, destinations, last use, rows and shapes
(07 R167 to R175, 14 R313 to R318, R325, 16 R373, R375), what an instruction waits for (06 R148, R156), and how one
ends: short, long or trapped. -/

namespace Sys2Proof.Machine

/-! ### The instruction at hand -/

/-- A lane instruction that runs: its squad and its active lanes (14 R317). -/
structure Lx where
  id : Nat
  q : Squad
  i : Instr
  o : LaneOp
  act : Word
  deriving Repr

/-- The 96-bit word of a lane instruction. -/
def laneWordOf (i : Instr) : BitVec 96 :=
  match i.lane? with
  | some (opc, o) => o.word opc
  | none => 0

def predVal (q : Squad) (n : Nat) : Word := if n = 7 then 0xFFFFFFFF else q.p.getD n 0

/-- Lanes of `em` in which the guard holds; in a uniform-only volley one lane stands for the squad (14 R317, R321). -/
def activeLanes (q : Squad) (o : LaneOp) : Word :=
  if q.uni then 1
  else
    let g := predVal q o.gp.toNat
    q.em &&& (if o.gn then ~~~g else g)

def Lx.trap (x : Lx) (s : State) (code : Byte) (tlm : Word) (vals : List Dword := []) (aux : Dword := 0) : State :=
  preciseTrap s x.id code tlm (laneWordOf x.i) vals aux

def Lx.illop (x : Lx) (s : State) : State := x.trap s tIllop x.q.em

/-! ### Reading operands -/

/-- Lane registers that a slot reads, at 32 or 64 bits. -/
def srcVs (w : Nat) : Src → List Nat
  | .v idx _ => if idx = 255 then [] else if w = 64 then [idx.toNat, idx.toNat + 1] else [idx.toNat]
  | _ => []

def srcGs : Src → List Nat
  | .g idx => [idx.toNat]
  | _ => []

def srcH : Src → Option Nat
  | .h idx => some idx.toNat
  | _ => none

/-- Registers that a slot's last-use bit frees (07 R169). -/
def srcFrees (w : Nat) (x : Src) : List Nat :=
  match x with
  | .v _ true => srcVs w x
  | _ => []

/-- The shared-register entry that an instruction names as a source. -/
def hSource (o : LaneOp) : Option Nat :=
  match srcH o.a, srcH o.b, srcH o.c with
  | some n, _, _ => some n
  | _, some n, _ => some n
  | _, _, n => n

/-- Repeat the low w bits n times. -/
def repNat (w x : Nat) : Nat → Nat
  | 0 => 0
  | n + 1 => repNat w x n * 2 ^ w + x % 2 ^ w

/-- Value of a literal (14 R315). -/
def litVal (t : LType) (imm : BitVec 24) : Nat :=
  match t with
  | .i64 | .n64 => toBits 64 (sxNat 24 imm.toNat)
  | .i32 | .n32 | .b32 => toBits 32 (sxNat 24 imm.toNat)
  | .f32 => imm.toNat * 256
  | .none => imm.toNat
  | t => repNat t.elemW imm.toNat (32 / t.elemW)

def readV (q : Squad) (n l : Nat) : Nat :=
  match mget q.v n with
  | some r => (laneAt r.val l).toNat
  | none => 0

def readG (q : Squad) (n : Nat) : Dword := mgetD q.g n 0

/-- Value of a slot in a lane; `hv` is what the consuming read returned (16 R373). -/
def srcVal (q : Squad) (o : LaneOp) (hv : Dword) (w : Nat) (x : Src) (l : Nat) : Nat :=
  match x with
  | .v idx _ =>
    if idx = 255 then 0
    else if w = 64 then readV q idx.toNat l + 2 ^ 32 * readV q (idx.toNat + 1) l
    else readV q idx.toNat l
  | .g idx => if w = 64 then (readG q idx.toNat).toNat else (readG q idx.toNat).toNat % 2 ^ 32
  | .h _ => if w = 64 then hv.toNat else hv.toNat % 2 ^ 32
  | .lit => litVal o.ty o.imm % 2 ^ w

/-- Value of a slot for the squad: in its lowest active lane. -/
def srcUni (x : Lx) (w : Nat) (c : Src) : Nat :=
  match lowLane x.act with
  | some l => srcVal x.q x.o 0 w c l
  | none => match c with
    | .v _ _ => 0
    | _ => srcVal x.q x.o 0 w c 0

/-! ### Rows and shapes (07 R172, R173) -/

/-- Rows of 32 lane values in the smallest exact shape. -/
def shapeRows (v : Lanes) : Nat :=
  let base := laneAt v 0
  let d := laneIdx.map fun l => (laneAt v l - base).toInt
  if d.all fun x => decide (x = 0) then 1
  else if d.all fun x => decide (-128 ≤ x) && decide (x ≤ 127) then 3
  else if d.all fun x => decide (-32768 ≤ x) && decide (x ≤ 32767) then 5
  else 8

def regRows (r : VReg) : Nat := if r.pend.isSome then 8 else shapeRows r.val

/-- Registers of an operation's destination. -/
def popRegs (p : POp) : List Nat :=
  match p.dst with
  | .v idx n => (List.range n).map (idx + ·)
  | .vp idx n _ => (List.range n).map (idx + ·)
  | _ => []

/-- Rows quarantined by an operation: its registers that a squad's table no longer maps to it (07 R174). -/
def quarRows (s : State) (op : Nat) (p : POp) : Nat :=
  8 * ((popRegs p).filter fun r => match mget s.squads p.squad with
    | some q => (match mget q.v r with | some x => x.pend != some op | none => true)
    | none => true).length

/-- Rows that a squad holds: mapped and quarantined. -/
def rowsHeld (s : State) (id : Nat) (q : Squad) : Nat :=
  let m := q.v.foldl (fun n x => n + regRows x.2) 0
  s.pops.foldl (fun n x => if x.2.squad = id then n + quarRows s x.1 x.2 else n) m

/-- The guarantee of a squad's index (09 R213). -/
def rowsGuarantee (s : State) (q : Squad) : Nat := if q.originIdx then (lrOf s q.team).rows else 0

/-- Squads that hold rows of a partition. -/
def inPartition (s : State) (core part : Nat) (q : Squad) : Bool :=
  q.core == core && q.part == part
  && (let st := (teamOf s q.team).state; st == .resident || st == .migrating)

/-- The free pool of a partition bank. -/
def freePool (s : State) (core part : Nat) : Nat :=
  let used := s.squads.foldl (fun n x =>
    if inPartition s core part x.2 then n + Nat.max (rowsHeld s x.1 x.2) (rowsGuarantee s x.2) else n) 0
  let orphan := s.pops.foldl (fun n x =>
    if (mget s.squads x.2.squad).isNone && x.2.core == core && x.2.part == part then n + quarRows s x.1 x.2 else n) 0
  2048 - (used + orphan)

/-- What a demand of rows meets (06 R156). -/
inductive Grow where
  | ok
  | wait
  | trap
  deriving DecidableEq, Repr

def growCheck (s : State) (id : Nat) (q : Squad) (rows : Nat) : Grow :=
  let held := rowsHeld s id q
  let g := rowsGuarantee s q
  if held + rows > 2048 then .trap
  else if Nat.max (held + rows) g - Nat.max held g ≤ freePool s q.core q.part then .ok
  else .wait

/-! ### What an instruction waits for (06 R148) -/

/-- Registers that an instruction reads and writes. -/
structure Uses where
  vs : List Nat := []
  gs : List Nat := []
  /-- predicates read beside the guard -/
  ps : List Nat := []
  /-- destinations: lane registers and a predicate, whose kept lanes are read when a lane is not active -/
  dv : List Nat := []
  dp : Option Nat := none
  deriving DecidableEq, Repr

def pendV (q : Squad) (n : Nat) : List Nat := ((mget q.v n).bind (·.pend)).toList

def pendG (s : State) (id n : Nat) : List Nat :=
  (s.pops.filter fun x => x.2.squad == id && match x.2.dst with
    | .g idx k _ => decide (idx ≤ n) && decide (n < idx + k) && !x.2.overG.contains (n - idx)
    | _ => false).map (·.1)

def pendP (s : State) (id n : Nat) : List Nat :=
  (s.pops.filter fun x => x.2.squad == id && !x.2.overP && match x.2.dst with
    | .p idx => idx == n
    | .vp _ _ idx => idx == n
    | _ => false).map (·.1)

/-- Operations that must land before the instruction runs. -/
def awaited (s : State) (id : Nat) (q : Squad) (o : LaneOp) (act : Word) (u : Uses) : List Nat :=
  let kept := act != 0xFFFFFFFF && act != 0
  (u.vs ++ if kept then u.dv else []).flatMap (pendV q)
  ++ u.gs.flatMap (pendG s id)
  ++ (o.gp.toNat :: u.ps ++ if kept then u.dp.toList else []).flatMap (pendP s id)

def setWait (s : State) (id : Nat) (w : Wait) : State :=
  modSquad s id fun q => { q with wait := w, held := none }

/-- The running squad, if the machine runs one. -/
def curSquad (s : State) : Option (Nat × Squad) :=
  match s.turn with
  | .squad id => (mget s.squads id).map fun q => (id, q)
  | _ => none

/-- Operands of an instruction that reads them only if a lane is active (16 R400, 18 R433). -/
def usesIfAny (s : State) (o : LaneOp) (u : Uses) : Uses :=
  if (curSquad s).any fun x => activeLanes x.2 o == 0 then {} else u

/-- The trap that a squad has taken between two states: the one in its handler or waiting for it, or the cause that has
ended its team. -/
def trapTaken (s0 s : State) (id : Nat) (q : Squad) : Option Nat :=
  let t := teamOf s q.team
  match (teamOf s0 q.team).ended, t.ended with
  | none, some (1, cause) => some cause
  | none, some _ => some tTilelost.toNat
  | _, _ =>
    match mget s.squads id with
    | some q' => if q'.cur = q.cur then none else q'.cur.map (·.code.toNat)
    | none => if t.restarted && t.state == .pending then some tTilelost.toNat else none

/-- Long-latency results, whose registers an instruction asks for before it has their values (07 R166). -/
def longOp (i : Instr) (o : LaneOp) : Bool :=
  (hSource o).isSome
  || (match i with
      | .rcp _ | .rsq _ | .sqrt _ | .exp2 _ | .log2 _ | .sin _ | .cos _ | .tanh _ | .sigm _ | .shfl _ | .vote _ | .redsq _
      | .scansq _ | .hget _ | .hstat _ => true
      | _ => (i.lane?.map fun p => decide (4 ≤ p.1.toNat / 128)).getD false)

/-- Precise causes that a read of an uncompleted result leaves certain: encodings, rights, a partial squad, a lost tile, depth
and the rows of a long-latency result; with a known address, its alignment and home, a drained block, and `HAZARD` itself for
the lanes that a local-store rule has left (13 R290; log entry 76). -/
def sureCause (addrKnown longLat : Bool) (code : Nat) : Bool :=
  [0x01, 0x02, 0x09, 0x0A, 0x0E].contains code || (longLat && code == 0x0F)
  || (addrKnown && [0x03, 0x07, 0x08, 0x10].contains code)

/-- Run a lane instruction: wait for what it reads, or trap `HAZARD` when the die's debug bit says so and no lower cause
applies, else go on. -/
def laneEnter (i : Instr) (o : LaneOp) (u : Uses) (s : State) (k : Lx → State) : Outcome :=
  match curSquad s with
  | none => .fault .noAgent
  | some (id, q) =>
    let act := activeLanes q o
    let x : Lx := { id := id, q := q, i := i, o := o, act := act }
    let ops := awaited s id q o act u
    .next (if ops.isEmpty then k x
           else if (getDie s (q.core / 256)).hazard then
             let s' := k x
             let addr := (awaited s id q o act { vs := srcVs 64 o.a ++ srcVs 32 o.b, gs := srcGs o.a ++ srcGs o.b }).isEmpty
             (match trapTaken s s' id q with
              | some c => if sureCause addr (longOp i o) c then s' else x.trap s tHazard q.em
              | none => x.trap s tHazard q.em)
           else setWait s id (.landing ops))

/-! ### Ending an instruction -/

/-- The squad moves to the next instruction; the `E` bit ends the volley (06 R147). -/
def advance (o : LaneOp) (q : Squad) : Squad :=
  let q := { q with pos := q.pos + 12, granted := none, arrived := false }
  if o.e then { q with inVolley := false, held := none, code := [] } else q

/-- Unmap registers (07 R169). -/
def unmapAll (v : FMap VReg) (l : List Nat) : FMap VReg := l.foldl (fun v n => mdel v n) v

/-- A read of an unmapped register (07 R170). -/
def deadRead (q : Squad) (vs : List Nat) : Bool := vs.any fun n => (mget q.v n).isNone

def markDead (q : Squad) (vs : List Nat) (x : Squad) : Squad :=
  if deadRead q vs then { x with cstat := x.cstat ||| 1 } else x

/-- New values in the active lanes; the others keep the previous mapping's (07 R168). -/
def mergeLanes (q : Squad) (n : Nat) (act : Word) (f : Nat → Nat) : Lanes :=
  lanesFrom fun l => if inMask act l then BitVec.ofNat 32 (f l) else BitVec.ofNat 32 (readV q n l)

def mapRegs (v : FMap VReg) : List (Nat × Lanes) → FMap VReg
  | [] => v
  | (n, x) :: rest => mapRegs (mset v n { val := x }) rest

/-- A younger write of a uniform register defines it, whatever still lands (07 R168, R175; log entry 22). -/
def overG (s : State) (id n : Nat) : State :=
  { s with pops := s.pops.map fun x =>
      if x.2.squad = id then
        (match x.2.dst with
         | .g idx k _ => if idx ≤ n ∧ n < idx + k then (x.1, { x.2 with overG := (n - idx) :: x.2.overG }) else x
         | _ => x)
      else x }

def overP (s : State) (id n : Nat) : State :=
  { s with pops := s.pops.map fun x =>
      if x.2.squad = id then
        (match x.2.dst with
         | .p idx => if idx = n then (x.1, { x.2 with overP := true }) else x
         | .vp _ _ idx => if idx = n then (x.1, { x.2 with overP := true }) else x
         | _ => x)
      else x }

/-- What an instruction changes in its squad, short of position and last use. -/
structure Effect where
  vs : List (Nat × Lanes) := []
  /-- uniform register and its 64 bits -/
  g : Option (Nat × Dword) := none
  /-- predicate, lanes, values -/
  p : Option (Nat × Word × Word) := none
  post : Squad → Squad := id

/-- A short-latency instruction ends: rows for what it writes, then last use, writes and position (07 R168, R169). -/
def finishShort (s : State) (x : Lx) (reads frees : List Nat) (e : Effect) : State :=
  let vs := if x.act = 0 then [] else e.vs.filter fun r => decide (r.1 < 255)
  let rows := vs.foldl (fun n r => n + shapeRows r.2) 0
  match (if rows = 0 then Grow.ok else growCheck s x.id x.q rows) with
  | .trap => x.trap s tRows x.q.em [] (BitVec.ofNat 64 rows)
  | .wait => setWait s x.id (.grow rows)
  | .ok =>
    let s := match e.g with
      | some (n, _) => if x.act = 0 then s else overG s x.id n
      | none => s
    let s := match e.p with
      | some (n, _, _) => if x.act = 0 then s else overP s x.id n
      | none => s
    modSquad s x.id fun q =>
      let q := markDead x.q reads { q with v := mapRegs (unmapAll q.v frees) vs }
      let q := match e.g with
        | some (n, val) => if x.act = 0 then q else { q with g := mset q.g n val }
        | none => q
      let q := match e.p with
        | some (n, lanes, val) => { q with p := putPred q.p n lanes val }
        | none => q
      advance x.o (e.post q)

/-- A long-latency instruction may issue: its flag is below 63, and its rows can be had; else it is held, waits or
traps (06 R148, R156). -/
def longReady (s : State) (x : Lx) (regs : Nat) (k : State → State) : State :=
  let full := match flagOf x.q x.o.fs with
    | some f => flagCount x.q f == 63
    | none => false
  if full then s
  else
    match (if x.act = 0 ∨ regs = 0 then Grow.ok else growCheck s x.id x.q (8 * regs)) with
    | .trap => x.trap s tRows x.q.em [] (BitVec.ofNat 64 (8 * regs))
    | .wait => setWait s x.id (.grow (8 * regs))
    | .ok => k s

/-- Map the registers of a destination to a pending operation. -/
def pendRegs (v : FMap VReg) (op : Nat) : List Nat → FMap VReg
  | [] => v
  | n :: rest => pendRegs (mset v n { val := [], pend := some op }) op rest

/-- A result in flight. -/
structure Result where
  dst : LDst := .none
  vals : List Lanes := []
  pval : Word := 0
  /-- the result is there; else an access still waits -/
  ready : Bool := true

/-- Issue a long-latency operation: registers pending, flag raised, position past it. Its number is `s.nextId`. -/
def finishLong (s : State) (x : Lx) (reads frees : List Nat) (r : Result) (post : Squad → Squad := id) : State :=
  let none' := x.act = 0
  let dst : LDst := match r.dst with
    | .v idx n => if idx ≥ 255 ∨ none' then .none else .v idx n
    | .p p => if p ≥ 7 ∨ none' then .none else .p p
    | .vp idx n p =>
      if none' then .none
      else if p ≥ 7 then (if idx ≥ 255 then .none else .v idx n)
      else if idx ≥ 255 then .p p else .vp idx n p
    | d => if none' then .none else d
  let op : POp := { squad := x.id, tpc := x.q.pos, dst := dst, lanes := x.act, vals := r.vals, pval := r.pval,
                    flag := flagOf x.q x.o.fs, ready := r.ready, core := x.q.core, part := x.q.part }
  let n := s.nextId
  let s := match dst with
    | .g idx k _ => (List.range k).foldl (fun s i => overG s x.id (idx + i)) s
    | .p idx => overP s x.id idx
    | .vp _ _ idx => overP s x.id idx
    | _ => s
  let s := { s with nextId := n + 1, pops := mset s.pops n op }
  let s := raiseFlag s x.id (flagOf x.q x.o.fs)
  modSquad s x.id fun q =>
    advance x.o (post (markDead x.q reads { q with v := pendRegs (unmapAll q.v frees) n (popRegs op) }))

/-- Full lane values of n destination registers from idx on. -/
def mergeRegs (q : Squad) (idx : Nat) (act : Word) (fs : List (Nat → Nat)) : List Lanes :=
  fs.zipIdx.map fun p => mergeLanes q (idx + p.2) act p.1

/-- Words of a uniform register's value: low and high. -/
def gWords (x : Nat) : Lanes := [BitVec.ofNat 32 x, BitVec.ofNat 32 (x / 2 ^ 32)]

/-- The consuming read of the instruction, once it has passed its checks (16 R401). -/
def withH (s : State) (x : Lx) (k : State → Dword → State) : State :=
  match hSource x.o with
  | none => k s 0
  | some n =>
    match x.q.granted with
    | some v => k s v
    | none =>
      let l := hLoc s x.q.team n
      let s := if l.common then escape s x.q.team else s
      match hArrive s l (.squad x.id) .read with
      | (s, some v) => k s v
      | (s, none) => setWait s x.id (.shared l.cluster l.key)

/-! ### Arithmetic frames -/

/-- Registers of a destination: a pair at 64 bits. -/
def dstVs (w : Nat) : Dst → List Nat
  | .v idx => if idx = 255 then [] else if w = 64 then [idx.toNat, idx.toNat + 1] else [idx.toNat]
  | _ => []

/-- Widths of the slots and of the result. -/
structure Shape where
  a : Nat := 32
  b : Nat := 32
  c : Nat := 32
  d : Nat := 32
  deriving DecidableEq, Repr

def usesOf (o : LaneOp) (w : Shape) : Uses :=
  { vs := srcVs w.a o.a ++ srcVs w.b o.b ++ srcVs w.c o.c
    gs := srcGs o.a ++ srcGs o.b ++ srcGs o.c
    dv := dstVs w.d o.dst
    dp := match o.dst with | .sp n => some n.toNat | _ => none }

def freesOf (o : LaneOp) (w : Shape) : List Nat := srcFrees w.a o.a ++ srcFrees w.b o.b ++ srcFrees w.c o.c

/-- Result of a value destination. -/
def valEffect (x : Lx) (w : Nat) (f : Nat → Nat) : Effect :=
  match x.o.dst with
  | .v idx =>
    if w = 64 then
      { vs := [(idx.toNat, mergeLanes x.q idx.toNat x.act fun l => f l % 2 ^ 32),
               (idx.toNat + 1, mergeLanes x.q (idx.toNat + 1) x.act fun l => f l / 2 ^ 32)] }
    else { vs := [(idx.toNat, mergeLanes x.q idx.toNat x.act f)] }
  | .g idx =>
    { g := (lowLane x.act).map fun l => (idx.toNat, BitVec.ofNat 64 (if w = 64 then f l else f l % 2 ^ 32)) }
  | _ => {}

def valResult (x : Lx) (w : Nat) (f : Nat → Nat) : Result :=
  match x.o.dst with
  | .v idx =>
    if w = 64 then
      { dst := .v idx.toNat 2, vals := mergeRegs x.q idx.toNat x.act [fun l => f l % 2 ^ 32, fun l => f l / 2 ^ 32] }
    else { dst := .v idx.toNat 1, vals := mergeRegs x.q idx.toNat x.act [f] }
  | .g idx =>
    match lowLane x.act with
    | some l => { dst := .g idx.toNat 1 (w == 64), vals := [gWords (f l)] }
    | none => {}
  | _ => {}

/-- An instruction that computes one value in each active lane: short-latency, or long with a source in space h. -/
def aluLane (i : Instr) (o : LaneOp) (w : Shape) (s : State) (f : Squad → Nat → Nat → Nat → Nat → Nat) : Outcome :=
  let u := usesOf o w
  laneEnter i o u s fun x =>
    let val (hv : Dword) (l : Nat) : Nat :=
      f x.q l (srcVal x.q o hv w.a o.a l) (srcVal x.q o hv w.b o.b l) (srcVal x.q o hv w.c o.c l)
    if (hSource o).isSome then
      longReady s x u.dv.length fun s => withH s x fun s hv => finishLong s x u.vs (freesOf o w) (valResult x w.d (val hv))
    else finishShort s x u.vs (freesOf o w) (valEffect x w.d (val 0))

/-- As `aluLane` for a predicate destination. -/
def predLane (i : Instr) (o : LaneOp) (w : Shape) (s : State) (f : Squad → Nat → Nat → Nat → Bool) : Outcome :=
  let u := usesOf o w
  laneEnter i o u s fun x =>
    let n := match o.dst with | .sp n => n.toNat | _ => 7
    let val (hv : Dword) : Word := maskOf fun l => f x.q (srcVal x.q o hv w.a o.a l) (srcVal x.q o hv w.b o.b l) (srcVal x.q o hv w.c o.c l)
    if (hSource o).isSome then
      longReady s x 0 fun s => withH s x fun s hv => finishLong s x u.vs (freesOf o w) { dst := .p n, pval := val hv }
    else finishShort s x u.vs (freesOf o w) { p := some (n, x.act, val 0) }

/-- A long-latency instruction that computes values for the active lanes. -/
def longLane (i : Instr) (o : LaneOp) (w : Shape) (s : State) (f : Lx → (Nat → Nat) → (Nat → Nat) → (Nat → Nat) → Nat → Nat) :
    Outcome :=
  let u := usesOf o w
  laneEnter i o u s fun x =>
    longReady s x u.dv.length fun s => withH s x fun s hv =>
      finishLong s x u.vs (freesOf o w)
        (valResult x w.d (f x (srcVal x.q o hv w.a o.a) (srcVal x.q o hv w.b o.b) (srcVal x.q o hv w.c o.c)))

/-! ### Spine operands (15 R344) -/

/-- `x0` reads as zero (07 R163). -/
def getX (sp : Spine) (n : BitVec 6) : Dword := if n = 0 then 0 else mgetD sp.x n.toNat 0

/-- Writes to `x0` are discarded. -/
def setX (sp : Spine) (n : BitVec 6) (v : Dword) : Spine := if n = 0 then sp else { sp with x := mset sp.x n.toNat v }

/-- The running spine thread, if the machine runs one. -/
def curSpine (s : State) : Option (Nat × Spine) :=
  match s.turn with
  | .spine t => (mget s.spines t).map fun sp => (t, sp)
  | _ => none

/-- Run a spine instruction. -/
def spineEnter (s : State) (k : Nat → Spine → State) : Outcome :=
  match curSpine s with
  | none => .fault .noAgent
  | some (t, sp) => .next (k t sp)

/-- The instruction retires: the thread goes on at the next word (07 R163). -/
def retire (sp : Spine) : Spine := { sp with pc := sp.pc + 4, granted := none, resp := none, code := none, log := none }

/-- x[D] takes a value and the thread goes on. -/
def spineSet (s : State) (t : Nat) (d : BitVec 6) (v : Dword) : State := modSpine s t fun sp => retire (setX sp d v)

/-- The word of a spine instruction, for `SVAL` of an `ILLOP`. -/
def spineIllop (s : State) (t : Nat) (i : Instr) : State :=
  spineTrap s t tIllop ((i.spineWord?.getD 0).setWidth 64)

end Sys2Proof.Machine
end

