-- ==== Sys2Proof/Machine/MemOps.lean ====
section
/-! DEFINITION. Shared parts of memory instructions: addresses and data of lanes (14 R325, 17 R404), the operation of an
atomic (15 R353, 17 R411), its place (10 R238), drains and acknowledgements (10 R230, 02 R52), the query of `loc`
(15 R367), the operand log (13 R299, R300) and the one-entry log of a spine thread (15 R344). -/

namespace Sys2Proof.Machine

/-! ### Looking up without an access -/

/-- The HME of an address as a die finds it; none when there is none. -/
def peekHme (s : State) (r : Rq) (va : Nat) : Option Nat :=
  if r.phys ∨ va ≥ 2 ^ 56 then none
  else match (homeLookup s r.die r.slot r.asid va).2 with
    | .hme w => if hmeBad w then none else some w
    | _ => none

/-- The home code of an address. -/
def peekHome (s : State) (r : Rq) (va : Nat) : Option Nat := (peekHme s r va).map hmeHome

/-- The valid leaf of an address homed on a compute die. -/
def peekLeaf (s : State) (r : Rq) (va : Nat) : Option Nat :=
  match peekHome s r va with
  | some h =>
    if h ≥ 8 then none
    else match (homeWalk s h r.slot r.asid va).2 with
      | .leaf lg _ w => if leafBad s h lg w || !leafV w then none else some w
      | _ => none
  | none => none

/-- The memory type of an address: its leaf's, or the one that its peer has returned; strongly ordered until it has
(04 R101, 03 R65; log entry 77). -/
def pageType (s : State) (r : Rq) (va : Nat) : Nat :=
  match peekLeaf s r va with
  | some w => leafMT w
  | none =>
    if peekHome s r va = some 10 then
      match s.io.peerMt.find? fun x => x.1 == r.asid && x.2.1 == va / 65536 with
      | some x => x.2.2
      | none => 3
    else 0

/-- The address lies on a device or strongly ordered page (10 R237). -/
def onDevicePage (s : State) (r : Rq) (va : Nat) : Bool := decide (2 ≤ pageType s r va)

def hostHomed (s : State) (r : Rq) (va : Nat) : Bool := peekHome s r va == some 8 || peekHome s r va == some 9

/-! ### Elements (17 R404) -/

/-- Little-endian words of bytes. -/
def wordsOf (bs : List Byte) : Nat → List Word
  | 0 => []
  | n + 1 => BitVec.ofNat 32 (fieldOf bs 0 4) :: wordsOf (bs.drop 4) n

def bytesOfWords : List Word → List Byte
  | [] => []
  | w :: ws => bytesOf 4 w.toNat ++ bytesOfWords ws

/-- 32-bit registers of an element. -/
def elemRegs (t : LType) : Nat := if t.memSize = 8 then 2 else 1

/-- Registers of a vector. -/
def vecRegs (o : LaneOp) : Nat := vecCount o * elemRegs o.ty

/-- Bytes of one access. -/
def accessSize (o : LaneOp) : Nat := vecCount o * o.ty.memSize

/-- Loaded bytes as register words: a sub-word element is extended. -/
def loadWords (t : LType) (count : Nat) (bs : List Byte) : List Word :=
  match t with
  | .i8x4 => [BitVec.ofNat 32 (toBits 32 (sxNat 8 (fieldOf bs 0 1)))]
  | .n8x4 => [BitVec.ofNat 32 (fieldOf bs 0 1)]
  | .i16x2 => [BitVec.ofNat 32 (toBits 32 (sxNat 16 (fieldOf bs 0 2)))]
  | .n16x2 => [BitVec.ofNat 32 (fieldOf bs 0 2)]
  | _ => wordsOf bs (count * elemRegs t)

/-- Bytes that a store of register words writes. -/
def storeBytes (t : LType) (ws : List Word) : List Byte :=
  match t.memSize with
  | 1 => bytesOf 1 (ws.getD 0 0).toNat
  | 2 => bytesOf 2 (ws.getD 0 0).toNat
  | _ => bytesOfWords ws

/-! ### Addresses and data of lanes -/

/-- The address of a lane (14 R325). -/
def laneAddr (q : Squad) (o : LaneOp) (l : Nat) : Dword :=
  let off : Dword := o.imm.signExtend 64
  match o.a with
  | .v _ _ => BitVec.ofNat 64 (srcVal q o 0 64 o.a l) + off
  | _ => BitVec.ofNat 64 (srcVal q o 0 64 o.a l) + BitVec.ofNat 64 (srcVal q o 0 32 o.b l) + off

def addrVs (o : LaneOp) : List Nat := srcVs 64 o.a ++ srcVs 32 o.b
def addrFrees (o : LaneOp) : List Nat := srcFrees 64 o.a ++ srcFrees 32 o.b

/-- Lane registers of a data slot of n registers. -/
def dataVs (n : Nat) : Src → List Nat
  | .v idx _ => if idx = 255 then [] else (List.range n).map (idx.toNat + ·)
  | _ => []

def dataFrees (n : Nat) (x : Src) : List Nat :=
  match x with
  | .v _ true => dataVs n x
  | _ => []

/-- Uniform registers of a data slot of `count` elements. -/
def dataGs (count : Nat) : Src → List Nat
  | .g idx => (List.range count).map (idx.toNat + ·)
  | _ => []

/-- Words of a data slot in a lane: from v, consecutive registers; from g, one register an element (17 R407). -/
def dataWords (q : Squad) (count per : Nat) (x : Src) (l : Nat) : List Word :=
  match x with
  | .v idx _ =>
    if idx = 255 then List.replicate (count * per) 0
    else (List.range (count * per)).map fun i => BitVec.ofNat 32 (readV q (idx.toNat + i) l)
  | .g idx => ((List.range count).map fun i => (gWords (readG q (idx.toNat + i)).toNat).take per).flatten
  | _ => []

/-! ### Atomics -/

/-- f(old, c) of `atom` and `atoms`: 0 swap, 1 add, 2 and, 3 or, 4 xor, 5 min, 6 max; `FPMODE` has no effect (17 R411). -/
def atomFn (op : Nat) (t : LType) (old c : Nat) : Nat :=
  match op with
  | 0 => c
  | 1 => combOp 0 t false old c
  | 2 => combOp 3 t false old c
  | 3 => combOp 4 t false old c
  | 4 => combOp 5 t false old c
  | 5 => combOp 1 t false old c
  | _ => combOp 2 t false old c

/-- New bytes of an atomic location. -/
def atomBytes (op : Nat) (t : LType) (c : List Word) (old : List Byte) : List Byte :=
  let n := t.opW / 8
  bytesOf n (atomFn op t (fieldOf old 0 n) (fieldOf (bytesOfWords c) 0 n))

/-- New bytes under compare-and-swap: the expected bytes come first in the captured data. -/
def casBytes (n : Nat) (data : List Word) (old : List Byte) : List Byte :=
  let bs := bytesOfWords data
  if old.take n = bs.take n then (bs.drop n).take n else old

/-- Scope code of an atomic is performed at the home agent: `.dv`, `.sy`, `.rlx`, and `.tm` for a team that spans
clusters (10 R238, 15 R352). -/
def atHome (t : Team) (order : Nat) : Bool :=
  match order with
  | 0 | 2 => false
  | 1 => t.cores.any fun c => clusterOf c != homeCluster t
  | _ => true

/-! ### Ordering -/

/-- Some port is in CXL mode, so pages may be persistent (02 R28, R51). -/
def anyCxl (s : State) : Bool := s.io.tiers.any fun t => t.2.mode == 2

/-- A grain of a persistent page. -/
def grainPers (s : State) (g : Grain) : Bool :=
  match slotOfAsid s g.asid with
  | some slot =>
    (match peekLeaf s { die := 0, cluster := 0, slot := slot, asid := g.asid, agent := .none, l1 := false } g.va.toNat with
     | some w => leafPers w
     | none => false)
  | none => false

/-- Write back every dirty grain of persistent pages, armed ones too: from L1s and engines, then RDCs, then L2s (02 R52). -/
def flushPers (s : State) : State :=
  let pass (s : State) (p : Grain → Bool) : State :=
    let hit (g : Grain) : Bool := g.st == .modified && g.holder != .host && p g && grainPers s g
    let s' := (s.grains.filter hit).foldl flushGrain s
    { s' with grains := s'.grains.map fun g => if hit g then { g with st := .exclusive, dirty := 0 } else g }
  let s := pass s fun g => !g.isRdc && !g.isL2
  let s := pass s Grain.isRdc
  pass s Grain.isL2

/-- Ranges of memory enter the persistence domains, which keep what else they hold (02 R52, 01 R22). -/
def persistRanges (s : State) (rs : List (Nat × Nat)) : State :=
  let within (c : Host.Cell) : Bool := rs.any fun p => decide (p.1 ≤ c.1) && decide (c.1 < p.1 + p.2)
  { s with durable := (s.mem.filter within).foldl (fun m c => memWrite m c.1 c.2) (s.durable.filter fun c => !within c) }

/-- Frames of the persistent pages that are mapped. -/
def persFrames (s : State) : List (Nat × Nat) :=
  ((mappedLeaves s).filter fun x => leafPers x.2.w).map fun x => (leafPa x.2.w, 2 ^ x.2.lg)

/-- The persistence domains hold what the persistent pages hold (02 R52). -/
def persist (s : State) : State := persistRanges s (persFrames s)

/-- CXL extents that back a persistent page: one that is mapped, or one whose contents a domain holds (02 R53; log
entry 78). -/
def persExtents (s : State) : List (Nat × Nat) :=
  let frames := persFrames s
  (s.io.tiers.flatMap fun t => t.2.extents.map fun x => ((0x10 + t.1) * 2 ^ 44 + x.1 * 2 ^ 30, x.2 * 2 ^ 30)).filter fun e =>
    (frames.any fun f => decide (f.1 < e.1 + e.2) && decide (e.1 < f.1 + f.2))
    || s.durable.any fun c => decide (e.1 ≤ c.1) && decide (c.1 < e.1 + e.2)

/-! ### The query of `loc` (15 R367) -/

/-- Home, peer and generation fields. -/
def locFields (hme : Nat) : Nat := hmeHome hme + hmePeer hme * 2 ^ 4 + hmeGen hme * 2 ^ 8

def locUnmapped : Nat := 2 ^ 19 + 15

/-- The report; none while the home holds the page. -/
def locQuery (s : State) (r : Rq) (va : Nat) : State × Option Nat :=
  if va ≥ 2 ^ 56 then (s, some locUnmapped)
  else
    match homeLookup s r.die r.slot r.asid va with
    | (s, .hme w0) =>
      if hmeBad w0 ∨ hmeHome w0 = 15 then (s, some locUnmapped)
      else if hmeHome w0 ≥ 8 then (s, some (locFields w0))
      else
        match noteHeld r va (request s r.die r.slot r.asid va accQuery false (stalesOf s r va)) with
        | (s, .ok t) => (s, some (locFields t.hme + 2 ^ 18 + leafTier t.leaf * 2 ^ 16))
        | (s, .poison t) => (s, some (locFields t.hme + 2 ^ 18 + leafTier t.leaf * 2 ^ 16))
        | (s, .remote w) => (s, some (locFields w))
        | (s, .held) => (s, none)
        | (s, .fault k _ w p) =>
          if k = 0x01 ∨ (k = 0x10 ∧ p = 0 ∧ hmeBad w) then (s, some locUnmapped)
          else if k = 0x03 then (s, some (locFields w + 2 ^ 19 + 2 ^ 18 + 3 * 2 ^ 16))
          else (s, some (locFields w + 2 ^ 19))
    | (s, _) => (s, some locUnmapped)

/-! ### One lane's access, by its instruction, from captured data -/

/-- A read for an `ldcf`: the class is counted fill at a device home; elsewhere it performs as `ld` (08 R196). -/
def fillRead (s : State) (r : Rq) (va n : Nat) : State × Acc × List Byte :=
  if pageType s r va ≠ 0 then loadRange s r accLoad va n
  else
    match request s r.die r.slot r.asid va accFill false with
    | (s, .remote _) => loadRange s r accLoad va n
    | (s, .ok _) => loadRange s r accFill va n
    | (s1, x) => if (ownCopy s r va n).isSome then (s1, x.acc, []) else loadRange s r accFill va n

/-- Arm the grain of an address where the page is normal and homed on a compute die (08 R196). -/
def armAt (s : State) (r : Rq) (va count team squad : Nat) : State :=
  match request s r.die r.slot r.asid va accFill false with
  | (s, .ok t) => if t.normal then armGrain s r.cluster t r.asid va count team squad else s
  | (s, _) => s

/-- Start of the grain of an address. -/
def grainBase (s : State) (r : Rq) (va : Nat) : Nat :=
  match peekLeaf s r va with
  | some w => va / leafGrain w * leafGrain w
  | none => va / 32 * 32

/-- The access of one lane: bytes read or replaced. -/
def laneAccess (s : State) (r : Rq) (team : Nat) (i : Instr) (va : Nat) (data : List Word) : State × Acc × List Byte :=
  match i with
  | .st o =>
    (match storeRange s r va (storeBytes o.ty data) with
     | (s, a) => (s, a, []))
  | .atom o =>
    atomPiece s r (atHome (teamOf s team) (o.md.extractLsb' 3 3).toNat) va (o.ty.opW / 8)
      (atomBytes (o.md.extractLsb' 0 3).toNat o.ty data)
  | .cas o =>
    atomPiece s r (atHome (teamOf s team) (o.md.extractLsb' 3 3).toNat) va (o.ty.opW / 8) (casBytes (o.ty.opW / 8) data)
  | .cas2 o => atomPiece s r (atHome (teamOf s team) (o.md.extractLsb' 3 3).toNat) va 16 (casBytes 16 data)
  | .ldcf o => fillRead s r va (accessSize o)
  | .ld o => loadRange s r accLoad va (accessSize o)
  | .ldu o => loadRange s r accLoad va (accessSize o)
  | .ldc o => loadRange s r accLoad va (accessSize o)
  | .tiget _ | .cred _ => loadRange s r accLoad va 64
  | .tiset _ =>
    (match storeRange s r va (bytesOfWords data) with
     | (s, a) => (s, a, []))
  | _ => (s, .done, [])

/-- Register words of what an access returned. -/
def resultWords (i : Instr) (bs : List Byte) : List Word :=
  match i with
  | .atom o => wordsOf bs (o.ty.opW / 32)
  | .cas o => wordsOf bs (o.ty.opW / 32)
  | .cas2 _ => wordsOf bs 4
  | .ld o => loadWords o.ty (vecCount o) bs
  | .ldu o => loadWords o.ty (vecCount o) bs
  | .ldcf o => loadWords o.ty (vecCount o) bs
  | .ldc o => loadWords o.ty (vecCount o) bs
  | .tiget _ => wordsOf bs 16
  | _ => []

/-- Access class of an instruction at an address (03 R64); an `ldcf` that performs as `ld` is a load (08 R196). -/
def accOf (s : State) (r : Rq) (i : Instr) (va : Nat) : Nat :=
  match i with
  | .st _ | .tiset _ => accStore
  | .atom _ | .cas _ | .cas2 _ => accAtomic
  | .ldcf _ => if pageType s r va ≠ 0 ∨ (peekHome s r va).any (8 ≤ ·) then accLoad else accFill
  | _ => accLoad

/-- What a request for an access carries. -/
def reqKindOf (i : Instr) (data : List Word) : ReqKind :=
  let v (bs : List Byte) : BitVec 128 := BitVec.ofNat 128 (fieldOf bs 0 16)
  let bs := bytesOfWords data
  match i with
  | .st o => .write (storeBytes o.ty data)
  | .atom o => .atom (o.md.extractLsb' 0 3).toNat (o.ty.opW / 8) o.ty (v bs) 0
  | .cas o => .atom 7 (o.ty.opW / 8) .b32 (v (bs.drop (o.ty.opW / 8))) (v (bs.take (o.ty.opW / 8)))
  | .cas2 _ => .atom 7 16 .b32 (v (bs.drop 16)) (v (bs.take 16))
  | .ld o | .ldu o | .ldcf o | .ldc o => .read (accessSize o)
  | .tiset _ => .write bs
  | .tiget _ | .cred _ => .read 64
  | _ => .read 0

/-! ### Results of lanes -/

/-- A lane's words enter a result; the result of `ldu` goes to every lane of the operation, that of `tiget` word by
word (18 R446). -/
def putResult (i : Instr) (p : POp) (l : Nat) (ws : List Word) : POp :=
  let all := match i with | .ldu _ | .tiget _ => true | _ => false
  let each := match i with | .tiget _ => true | _ => false
  match p.dst with
  | .g _ k wide =>
    { p with vals := (List.range k).map fun j =>
        if wide then [ws.getD (2 * j) 0, ws.getD (2 * j + 1) 0] else [ws.getD j 0, 0] }
  | _ =>
    { p with vals := p.vals.zipIdx.map fun x =>
        if all then lanesFrom fun k =>
          if inMask p.lanes k then ws.getD (if each then k % 16 else x.2) 0 else laneAt x.1 k
        else setAt x.1 l (ws.getD x.2 0) }

/-- Accesses of lanes in a given order: bytes of those performed, and what the others met. -/
def laneWalk (f : State → Nat → State × Acc × List Byte) :
    List Nat → State → State × List (Nat × List Byte) × List (Nat × Acc)
  | [], s => (s, [], [])
  | l :: ls, s =>
    let (s, a, bs) := f s l
    let (s, ok, bad) := laneWalk f ls s
    match a with
    | .done => (s, (l, bs) :: ok, bad)
    | a => (s, ok, (l, a) :: bad)

/-- A list in an order chosen by a free number (10 R223; log entry 13). -/
def freeOrder {α : Type} : Nat → Nat → List α → List α
  | 0, _, l => l
  | fuel + 1, n, l =>
    match l with
    | [] => []
    | [x] => [x]
    | x :: rest =>
      let k := n % (rest.length + 1)
      let l := x :: rest
      (l.drop k).take 1 ++ freeOrder fuel (n / (rest.length + 1)) (l.eraseIdx k)

/-! ### The operand log (13 R299, R300) -/

/-- Lanes of a log entry whose access waits for its record, a verdict or an answer. -/
def waitingLanes (s : State) (id log : Nat) : List Nat :=
  (s.reqs.filter fun r => r.who == .squad id log).map (·.lane)

/-- Waiting accesses of a squad: instruction, address and size. -/
def waitingAccesses (s : State) (id : Nat) (q : Squad) : List (Instr × Nat) :=
  (q.log.map fun e =>
    let ls := waitingLanes s id e.id
    (e.parked.filter fun p => ls.contains p.1).map fun p => (e.instr, p.2.1.toNat)).flatten

/-- Bytes of an access of an instruction. -/
def sizeOf? (i : Instr) : Nat :=
  match i with
  | .atom o | .cas o => o.ty.opW / 8
  | .cas2 _ => 16
  | .ld o | .st o | .ldu o | .ldcf o | .ldc o => accessSize o
  | .tiset _ | .tiget _ | .cred _ => 64
  | _ => 1

/-- An instruction that is an acquire (17 R405, R412). -/
def isAcquire : Instr → Bool
  | .ld o | .ldu o => o.md.getLsbD 5
  | .atom o | .cas o | .cas2 o => decide ((o.md.extractLsb' 3 3).toNat ≤ 4)
  | _ => false

/-- An instruction that is a release. -/
def isRelease : Instr → Bool
  | .st o => o.md.getLsbD 5
  | .atom o | .cas o | .cas2 o => decide ((o.md.extractLsb' 3 3).toNat ≤ 4)
  | _ => false

/-- An entry of the operand log that is only away at a host or peer home: it is not parked (13 R299). -/
def awayOnly (s : State) (id : Nat) (e : LogEntry) : Bool :=
  let rs := s.reqs.filter fun r => r.who == .squad id e.id
  !rs.isEmpty && rs.all fun r => r.st == .remote || r.st == .queued

/-- Eight instructions are parked: no further memory instruction issues (13 R299). -/
def logFull (s : State) (id : Nat) (q : Squad) : Bool :=
  decide (8 ≤ (q.log.filter fun e => !awayOnly s id e).length)

/-- A waiting access that every later access of the squad must follow: an acquire, or one on a strongly ordered page
(10 R229, R231, R237, R239, 17 R405). -/
def acquiring (s : State) (id : Nat) (q : Squad) (r : Rq) : Bool :=
  !q.log.isEmpty && (waitingAccesses s id q).any fun p => isAcquire p.1 || pageType s r p.2 == 3

/-- An operation on local store, a queue or the engine waits for such an access. -/
def acquireGate (s : State) (id : Nat) (q : Squad) (k : State → State) : State :=
  if acquiring s id q (rqSquad s id q) then setWait s id .hold else k s

/-- The instruction must wait for earlier accesses: the log is full; an acquire or a strongly ordered access is parked; it
is a release; it touches a parked location; its page is device or strongly ordered (10 R237, R240, 13 R299, 17 R405). -/
def memGate (s : State) (id : Nat) (q : Squad) (i : Instr) (r : Rq) (vas : List Nat) : Bool :=
  if q.log.isEmpty then false
  else
    let w := waitingAccesses s id q
    logFull s id q
    || (!w.isEmpty
        && (isRelease i || acquiring s id q r
            || vas.any fun a => onDevicePage s r a
                || w.any fun p => decide (a < p.2 + sizeOf? p.1) && decide (p.2 < a + sizeOf? i)))

/-- A release by a squad waits for its parked accesses and its writes to homes outside, and drains its write-combining
entries, waiting for those that cannot be drained (10 R232, R240, R241, 02 R32); one that its wait has performed goes on. -/
def laneRelease (s : State) (x : Lx) (k : State → State) : State :=
  if x.q.granted.isSome ∨ x.q.arrived then k s
  else if (waitingAccesses s x.id x.q).isEmpty && (writesAway s (.squad x.id)).isEmpty then
    let s := drainAgent s (.squad x.id)
    if mergedLeft s (.squad x.id) then setWait s x.id .hold else k s
  else setWait (pcieFlush s (.squad x.id)) x.id .hold

def modEntry (s : State) (id log : Nat) (f : LogEntry → LogEntry) : State :=
  modSquad s id fun q => { q with log := q.log.map fun e => if e.id = log then f e else e }

/-- An entry without parked lanes leaves the log, and its result may land. -/
def closeEntry (s : State) (id log : Nat) : State :=
  match (mget s.squads id).bind fun q => q.log.find? fun e => e.id == log with
  | none => s
  | some e =>
    if e.parked.isEmpty then
      let s := { s with pops := mmod s.pops e.pop fun p => { p with ready := true } }
      modSquad s id fun q => { q with log := q.log.filter fun x => x.id != log }
    else s

/-- Per-lane values of a trap record. -/
def trapVals (m : Word) (f : Nat → Dword) : List Dword := laneIdx.map fun l => if inMask m l then f l else 0

/-- The lanes that an `ldu`, `tiset`, `tiget` or `cred` speaks for: all of its active lanes (17 R408, 18 R433). -/
def trapLanes (i : Instr) (em : Word) (ls : List Nat) : Word :=
  match i with
  | .ldu _ | .tiset _ | .tiget _ | .cred _ => if ls.isEmpty then 0 else em
  | _ => maskOf fun l => ls.contains l

/-- Traps of lanes of one access, of one cause, that have not been delivered are one trap (13 R289, R300). -/
def mergeTrap (t : Trap) : List Trap → Option (List Trap)
  | [] => none
  | x :: xs =>
    if x.code = t.code ∧ x.aux = t.aux ∧ x.retry = t.retry then
      some ({ x with tlm := x.tlm ||| t.tlm, vals := (x.vals.zip t.vals).map fun p => p.1 ||| p.2 } :: xs)
    else (mergeTrap t xs).map (x :: ·)

/-- A deferred trap of lanes of a log entry joins the one that waits for other lanes of it. -/
def deferLanes (s : State) (id : Nat) (t : Trap) : State :=
  match (mget s.squads id).bind fun q => mergeTrap t q.traps with
  | some ts => modSquad s id fun q => { q with traps := ts }
  | none => deferTrap s id t

/-- A deferred trap of lanes of a log entry (13 R300, R301). -/
def lanesFail (s : State) (id : Nat) (e : LogEntry) (code : Byte) (aux : Dword) (ls : List Nat) : State :=
  if ls.isEmpty then s
  else
    let m := trapLanes e.instr e.em ls
    let va (l : Nat) : Dword := match e.parked.find? fun p => p.1 == l with
      | some p => p.2.1
      | none => match e.parked with | p :: _ => p.2.1 | [] => 0
    deferLanes s id { code := code, tlm := m, vals := trapVals m va, aux := aux, tpc := e.tpc, word := laneWordOf e.instr,
                      retry := .access e.id }

/-- Bytes kept one in each word. -/
def bytesOfEach (ws : List Word) : List Byte := ws.map (·.setWidth 8)

/-- AUX of a `MEMFAULT`: fault kind and access class (13 R289). -/
def memAux (kind acc : Nat) : Dword := BitVec.ofNat 64 (kind + 256 * acc)

/-- Lanes whose access was not performed: requests for those that wait, those that have faulted among them; an access whose
fault is not replayable fails once its record is posted (03 R74, 05 R111). Poison is a deferred trap at once. -/
def noteBad (s : State) (id : Nat) (r : Rq) (e : LogEntry) (bad : List (Nat × Acc)) : State :=
  let data (l : Nat) : Dword × List Word := match e.parked.find? fun p => p.1 == l with
    | some p => p.2
    | none => (0, [])
  let req (l : Nat) : Req :=
    { id := 0, who := .squad id e.id, kind := if e.merged then .write (bytesOfEach (data l).2) else reqKindOf e.instr (data l).2,
      asid := r.asid, va := (data l).1, st := .sent, die := r.die, slot := r.slot,
      acc := accOf s r e.instr (data l).1.toNat, lane := l, agent := .squad id, stales := r.stales }
  let s := bad.foldl (fun s b => parkAcc s (req b.1) b.2) s
  lanesFail s id e tPoison 0 ((bad.filter fun b => b.2 == .poison).map (·.1))

/-- Give performed lanes' results to the operation. -/
def noteOk (s : State) (i : Instr) (pop : Nat) (ok : List (Nat × List Byte)) : State :=
  { s with pops := mmod s.pops pop fun p => ok.foldl (fun p x => putResult i p x.1 (resultWords i x.2)) p }

/-- A log entry whose access has been performed otherwise leaves the log. -/
def dropEntry (s : State) (id log : Nat) : State :=
  modSquad s id fun q => { q with log := q.log.filter fun x => x.id != log }

/-- A reduction whose descriptor has been read sets out; its result waits for the group (18 R453). -/
def credPost (s : State) (pop team slot cluster : Nat) (desc : List Byte) : State :=
  { s with creds := s.creds ++ [{ id := pop, team := team, slot := slot, cluster := cluster, desc := desc }] }

/-- Give a lane's bytes to its operation; those of a `cred` are its descriptor. -/
def laneDone (s : State) (id : Nat) (r : Rq) (e : LogEntry) (l : Nat) (bs : List Byte) : State :=
  match e.instr with
  | .cred _ => credPost (dropEntry s id e.id) e.pop ((squadAny s id).elim 0 (·.team)) r.slot r.cluster bs
  | _ =>
    let s := noteOk s e.instr e.pop [(l, bs)]
    closeEntry (modEntry s id e.id fun e => { e with parked := e.parked.filter fun p => p.1 != l }) id e.id

/-- The access of a lane of a log entry: its instruction's, or the write of what a merged store has left. -/
def entryAccess (s : State) (r : Rq) (team : Nat) (e : LogEntry) (va : Nat) (data : List Word) : State × Acc × List Byte :=
  if e.merged then
    (match mergedPiece s r va (bytesOfEach data) with
     | (s, a) => (s, a, []))
  else laneAccess s r team e.instr va data

/-- A store that lanes of an instruction have performed is noted in the write-combining entries that it has entered. -/
def noteStores (s : State) (id team op : Nat) (q : Squad) (i : Instr) (tpc em : Word) (lanes : List (Nat × Dword)) : State :=
  let asid := ctxAsid s (slotOf s q.team)
  lanes.foldl (fun s x =>
    noteMerged s asid { agent := .squad id, op := op, team := team, instr := i, tpc := tpc, em := em, lane := x.1, va := x.2,
                        n := sizeOf? i }) s

/-- Perform the access of one lane of a log entry. An `ldcf` arms its grain with the last of its parked lanes there. An
atomic whose page the host homes by now traps (04 R95). -/
def redoLane (s : State) (id : Nat) (r : Rq) (e : LogEntry) (l : Nat) : State :=
  match e.parked.find? fun p => p.1 == l with
  | none => s
  | some (_, va, data) =>
    if accOf s r e.instr va.toNat = accAtomic ∧ hostHomed s r va.toNat then lanesFail s id e tHostatom 0 [l]
    else
    match entryAccess s r ((mget s.squads id).elim 0 (·.team)) e va.toNat data with
    | (s, .done, bs) =>
      let s := match e.instr with
        | .st o => (match mget s.squads id with
          | some q => if e.merged then s else noteStores s id q.team e.pop q (.st o) e.tpc e.em [(l, va)]
          | none => s)
        | .ldcf _ =>
          if (e.parked.any fun p => p.1 != l && grainBase s r p.2.1.toNat == grainBase s r va.toNat) then s
          else armAt s r va.toNat ((data.getD 0 0).toNat) ((mget s.squads id).elim 0 (·.team)) id
        | _ => s
      laneDone s id r e l bs
    | (s, a, _) => noteBad s id r e [(l, a)]

/-- A held or replayed access of a squad's lane is served from the home lookup; a replayed one once its team runs (13 R306). -/
def serveLane (s : State) (r : Req) : State :=
  match r.who with
  | .squad id log =>
    match mget s.squads id with
    | none => dropReq s r.id
    | some q =>
      if r.st = .sent ∧ (teamOf s q.team).runs = false then s
      else match q.log.find? fun e => e.id == log with
      | some e => redoLane (dropReq s r.id) id { rqSquad s id q with stales := r.stales } e r.lane
      | none => dropReq s r.id
  | _ => s

/-- A team goes on: verdicts that came while it was away are applied first (13 R306). -/
def serveTeam (s : State) (team : Nat) : State :=
  (s.reqs.filter fun r => r.st == .sent && r.ofTeam s team).foldl serveLane s

/-- Lanes of an entry fail on a fault of a kind that their access of a class has met (13 R300). -/
def failParked (s : State) (id log : Nat) (kind acc : Nat) (ls : List Nat) : State :=
  match (mget s.squads id).bind fun q => q.log.find? fun e => e.id == log with
  | none => s
  | some e => lanesFail s id e tMemfault (memAux kind acc) ls

/-! ### Merged stores that their drain has left (02 R32, 03 R74; log entry 21) -/

/-- Stores of one instruction, as a key. -/
def WcSrc.key (x : WcSrc) : WcSrc := { x with lane := 0, va := 0, n := 0 }

/-- Bytes that an entry holds of a store. -/
def WcEntry.bytesFor (e : WcEntry) (x : WcSrc) : List Byte :=
  (List.range x.n).filterMap fun i => mget e.bytes (x.va.toNat + i - e.va.toNat)

/-- The stores of one instruction wait at their agent: in a squad's operand log, where they are tried at once; for a spine
thread, or a squad that is gone, as requests. -/
def settleStores (e : WcEntry) (s : State) (k : WcSrc) : State :=
  let mine := e.srcs.filter fun x => x.key == k
  let slot := slotOf s k.team
  let req (who : Reqr) (s : State) (x : WcSrc) : State :=
    addReq s { id := 0, who := who, kind := .write (e.bytesFor x), asid := e.asid, va := x.va, st := .held,
               die := dieOfCluster e.cluster, slot := slot, acc := accStore, agent := x.agent }
  match k.agent with
  | .squad id =>
    (match mget s.squads id with
     | some q =>
       let x : LogEntry :=
         { id := s.nextId, instr := k.instr, tpc := k.tpc, em := k.em, pop := s.nextId, merged := true
           parked := mine.map fun x => (x.lane, x.va, (e.bytesFor x).map (·.setWidth 32)) }
       let s := modSquad { s with nextId := s.nextId + 1 } id fun q => { q with log := q.log ++ [x] }
       mine.foldl (fun s m =>
         match (mget s.squads id).bind fun q => q.log.find? fun y => y.id == x.id with
         | some y => redoLane s id (rqSquad s id q) y m.lane
         | none => s) s
     | none => mine.foldl (req (.orphan k.team)) s)
  | .spine t => mine.foldl (req (.merged t)) s
  | .none => s

/-- A stuck entry is drained after all, or its stores wait one by one. -/
def settleEntry (s : State) (e : WcEntry) : State :=
  let s := wcDrainEntry { s with wc := s.wc.filter fun x => x != e } e
  if s.wc.any fun x => x.at e.cluster e.asid e.va.toNat then
    (distinct (e.srcs.map WcSrc.key)).foldl (settleStores e)
      { s with wc := s.wc.filter fun x => !x.at e.cluster e.asid e.va.toNat }
  else s

/-- With the end of a step, no merged store stays stuck. -/
def settleMerged (s : State) : State := (s.wc.filter (·.stuck)).foldl settleEntry s

/-! ### Issue of a lane memory instruction -/

/-- Issue an access by the active lanes: the whole instruction waits while a lane is held; else performed lanes take
their results, and the others enter the operand log. `post` acts on the lanes that were performed. -/
def issueAccess (s : State) (x : Lx) (reads frees : List Nat) (r : Rq) (order : List Nat) (data : Nat → List Word)
    (res : Result) (post : State → List Nat → State) (va : Nat → Dword := laneAddr x.q x.o) : State :=
  let (s', ok, bad) := laneWalk (fun s l => laneAccess s r x.q.team x.i (va l).toNat (data l)) order s
  if bad.any fun b => b.2 == .held then setWait (keepSaid s s') x.id .hold
  else
    let s := post s' (ok.map (·.1))
    let op := s.nextId
    let s := finishLong s x reads frees { res with ready := bad.isEmpty }
    let s := noteOk s x.i op ok
    if bad.isEmpty then s
    else
      let e : LogEntry :=
        { id := s.nextId, instr := x.i, tpc := x.q.pos, em := x.act, pop := op,
          parked := bad.map fun b => (b.1, va b.1, data b.1) }
      let s := { s with nextId := s.nextId + 1 }
      noteBad (modSquad s x.id fun q => { q with log := q.log ++ [e] }) x.id r e bad

/-- Destination registers of a lane result, with the kept values of the lanes that are not active. -/
def regResult (x : Lx) (d : Dst) (n count : Nat) (wide : Bool) : Result :=
  match d with
  | .v idx =>
    if idx = 255 then {}
    else { dst := .v idx.toNat n, vals := mergeRegs x.q idx.toNat x.act (List.replicate n fun _ => 0) }
  | .g idx => { dst := .g idx.toNat count wide, vals := List.replicate count [0, 0] }
  | _ => {}

/-- Lane registers of a destination of n registers. -/
def regDst (d : Dst) (n : Nat) : List Nat :=
  match d with
  | .v idx => if idx = 255 then [] else (List.range n).map (idx.toNat + ·)
  | _ => []

/-- Lanes whose address is not a multiple of n. -/
def misaligned (x : Lx) (n : Nat) : Word := maskOf fun l => inMask x.act l && (laneAddr x.q x.o l).toNat % n != 0

def laneVas (x : Lx) : List Nat := (lanesOf x.act).map fun l => (laneAddr x.q x.o l).toNat

/-! ### Spine accesses (15 R344, 13 R299) -/

/-- A spine thread waits while its access is held, parked or away. -/
def spineWait (s : State) (t : Nat) (w : Wait) (log : Option Dword) : State :=
  modSpine s t fun sp => { sp with wait := w, log := log }

/-- The outcome of an access of a spine thread: go on with its bytes, trap, park, or wait. -/
def spineGot (s0 s : State) (t : Nat) (sp : Spine) (acc : Nat) (kind : ReqKind) (va : Dword) (a : Acc) (bs : List Byte)
    (k : State → List Byte → State) : State :=
  let r := rqSpine s sp
  let req : Req := { id := 0, who := .spine t, kind := kind, asid := r.asid, va := va, st := .sent, die := r.die,
                     slot := r.slot, acc := acc, agent := .spine t }
  match a with
  | .done => k s bs
  | .poison => spineTrap s t tPoison va
  | .held => spineWait (keepSaid s0 s) t .hold none
  | .fault kd d h p => spineWait (parkAcc s req (.fault kd d h p)) t .fault (some va)
  | .remote h =>
    let s := match kind with
      | .write _ | .atom _ _ _ _ _ => escape s t
      | _ => s
    spineWait (sendRemote s { req with hme := h }) t .fault (some va)

/-- A merged store of the thread waits for a range: later accesses to it follow (10 R224; log entry 21). -/
def mergedWaits (s : State) (t : Nat) (va n : Nat) : Bool :=
  s.reqs.any fun r => r.who == .merged t && (match r.kind with
    | .write bs => decide (r.va.toNat < va + n) && decide (va < r.va.toNat + bs.length)
    | _ => false)

/-- A read of a spine thread. The answer of a host or peer home stands in `resp`. -/
def spineRead (s : State) (t : Nat) (sp : Spine) (va : Dword) (n : Nat) (k : State → List Byte → State) : State :=
  match sp.resp with
  | some bs => k s bs
  | none =>
    if mergedWaits s t va.toNat n then spineWait s t .hold none else
    match loadRange s (rqSpine s sp) accLoad va.toNat n with
    | (s', a, bs) => spineGot s s' t sp accLoad (.read n) va a bs k

/-- A write of a spine thread, an operation that escapes once it is performed or sent (06 R160). One that merges is noted
in its write-combining entry. -/
def spineWrite (s : State) (t : Nat) (sp : Spine) (i : Instr) (va : Dword) (bs : List Byte) (k : State → State) : State :=
  match sp.resp with
  | some _ => k s
  | none =>
    if mergedWaits s t va.toNat bs.length then spineWait s t .hold none else
    let r := rqSpine s sp
    match storeRange s r va.toNat bs with
    | (s', a) => spineGot s s' t sp accStore (.write bs) va a [] fun s _ =>
        k (escape (noteMerged s r.asid { agent := .spine t, op := 0, team := t, instr := i, va := va, n := bs.length }) t)

/-- A write of bytes that the thread has taken, which it keeps until the write is performed: `granted` says that it has them,
`resp` holds them, and is empty once a home outside has answered. -/
def spineKept (s : State) (t : Nat) (sp : Spine) (va : Dword) (bs : List Byte) (k : State → State) : State :=
  let s := modSpine s t fun sp => { sp with granted := some 1, resp := some bs }
  match storeRange s (rqSpine s sp) va.toNat bs with
  | (s', a) => spineGot s s' t sp accStore (.write bs) va a [] fun s _ => k s

/-- Go on with a kept write, or start. -/
def spineKeeps (s : State) (t : Nat) (sp : Spine) (va : Dword) (k : State → State) (start : State) : State :=
  match sp.granted, sp.resp with
  | some _, some [] => k s
  | some _, some bs => spineKept s t sp va bs k
  | _, _ => start

end Sys2Proof.Machine
end

