-- ==== Sys2Proof/Machine/Tensor.lean ====
section
/-! DEFINITION. Tensor identifiers (12 R286 to R288), ECB blocks (12 R282 to R285, 02 R46), and the memory reads of the
engines that use them: matrix operand fetch (02 R42) and copies (18 R450). -/

namespace Sys2Proof.Machine

/-! ### Identifier entries (12 R286 to R288) -/

/-- Address of a tensor-identifier entry. -/
def tidVa (s : State) (slot n : Nat) : Nat := ccb s slot 0x40 8 + 64 * n

/-- A well-formed entry. -/
structure Tid where
  base : Nat
  fmt : LType
  rank : Nat
  ecb : Bool
  size : List Nat
  /-- strides of dimensions 0 to 4, in 16 bytes -/
  stride : List Nat
  inc : Int
  aux : Nat
  scale : Nat
  deriving DecidableEq, Repr

/-- Width in bits of one element of a tensor type; FP6 takes a byte (12 R267). -/
def tenW : LType → Nat
  | .mxe2m1 => 4
  | .mxe4m3 | .mxe5m2 | .mxe3m2 | .mxe2m3 | .mxi8 => 8
  | t => t.elemW

/-- Types that an entry may name (12 R287). -/
def tidFmt (b : Nat) : Option LType :=
  if b ≤ 0x07 ∨ b = 0x09 ∨ b = 0x0A ∨ (0x10 ≤ b ∧ b ≤ 0x18) ∨ (0x20 ≤ b ∧ b ≤ 0x25) then LType.ofCode (BitVec.ofNat 6 b)
  else none

/-- An entry of 64 bytes; none when it is malformed (12 R288). -/
def tidParse (bs : List Byte) : Option Tid :=
  match tidFmt (fieldOf bs 8 1) with
  | none => none
  | some ty =>
    let desc := fieldOf bs 9 1
    let rank := desc % 8
    let codec := bitsOf desc 3 2
    let size := (List.range 5).map fun d => fieldOf bs (12 + 4 * d) 4
    let stride := 0 :: (List.range 4).map fun d => fieldOf bs (32 + 4 * d) 4
    let aux := fieldOf bs 52 4
    let scale := fieldOf bs 56 8
    let base := fieldOf bs 0 8
    let bad := bitsOf base 56 8 != 0 || fieldOf bs 10 2 != 0 || bitsOf desc 5 3 != 0
      || rank == 0 || decide (5 < rank) || size.contains 0
      || (List.range 5).any (fun d => decide (rank ≤ d) && (size.getD d 1 != 1 || stride.getD d 0 != 0))
      || decide (2 ≤ codec) || (codec == 1 && ty.isMx)
      || (if codec = 1 then base % 16 != 0 || aux % 16 != 0 || decide (aux < 160) || decide (6288 < aux) || scale != 0
          else if ty.isMx then size.getD 0 1 % 32 != 0 || decide (aux < size.getD 0 1 / 32) || scale == 0
          else base % Nat.max 1 (tenW ty / 8) != 0 || aux != 0 || scale != 0)
    if bad then none
    else some { base := base, fmt := ty, rank := rank, ecb := codec == 1, size := size, stride := stride,
                inc := sxNat 32 (fieldOf bs 48 4), aux := aux, scale := scale }

/-- The entry that an operation has read, if it is well-formed. -/
def Entry.tid : Entry → Option Tid
  | .bytes bs => tidParse bs
  | _ => none

/-- Read entry n for an engine; an access that must wait or park is answered beside an unread entry. -/
def entryRead (s : State) (r : Rq) (n : Nat) : State × Entry × Acc :=
  let va := tidVa s r.slot n
  match peekHome s r va with
  | some h =>
    if 8 ≤ h ∧ h ≠ 15 then (s, .foreign, .done)
    else match loadRange s r accLoad va 64 with
      | (s', .done, bs) => (s', .bytes bs, .done)
      | (s', .poison, _) => (s', .poison, .done)
      | (s', .fault k d h p, _) => if replayable k then (s', .unread, .fault k d h p) else (s', .fault k, .fault k d h p)
      | (s', .remote _, _) => (s', .foreign, .done)
      | (s', a, _) => (s', .unread, a)
  | none =>
    match loadRange s r accLoad va 64 with
    | (s', .fault k d h p, _) => if replayable k then (s', .unread, .fault k d h p) else (s', .fault k, .fault k d h p)
    | (s', _, _) => (s', .foreign, .done)

/-! ### Logical bytes (12 R287) -/

/-- Some coordinates of the dimensions from 1 on place byte L within n bytes of dimension 0. -/
def dimsHold (n : Nat) : List (Nat × Nat) → Nat → Bool
  | [], l => decide (l < n)
  | (size, stride) :: rest, l =>
    if stride = 0 ∨ size = 1 then dimsHold n rest l
    else match rest with
      | [] => decide (l - 16 * stride * Nat.min (l / (16 * stride)) (size - 1) < n)
      | _ :: _ =>
        (List.range (Nat.min size (l / (16 * stride) + 1))).any fun c => dimsHold n rest (l - 16 * stride * c)

/-- Bytes of dimension 0. -/
def Tid.rowBytes (t : Tid) : Nat := (t.size.getD 0 1 * tenW t.fmt + 7) / 8

/-- Logical byte L belongs to the tensor. Strides of 0 come first in the test; the answer does not depend on the order. -/
def Tid.holds (t : Tid) (l : Nat) : Bool :=
  let dims := (t.size.zip t.stride).drop 1
  let real := dims.filter fun d => d.2 != 0 && d.1 != 1
  dimsHold t.rowBytes real l

/-! ### ECB blocks (12 R282 to R285) -/

/-- Code lengths of the 256 symbols. -/
def ecbLens (bs : List Byte) : List Nat :=
  ((bs.drop 16).take 128).flatMap fun b => [b.toNat % 16, b.toNat / 16]

/-- Symbols of a code length, ascending. -/
def symsOf (lens : List Nat) (l : Nat) : List Nat := (lens.zipIdx.filter fun x => x.1 == l).map (·.2)

/-- Present symbols by code length 1 to 12. -/
def ecbTable (lens : List Nat) : List (List Nat) := (List.range 12).map fun k => symsOf lens (k + 1)

/-- Complete code, or one symbol of length 1 (12 R283). -/
def ecbKraft (lens : List Nat) : Bool :=
  lens.all (fun l => decide (l ≤ 12))
  && (let sum := lens.foldl (fun n l => if l = 0 then n else n + 2 ^ (12 - l)) 0
      sum == 4096 || ((lens.filter fun l => l != 0) == [1]))

def bitsOfByte (b : Byte) : List Bool := (List.range 8).map b.getLsbD

/-- Decode n symbols from bits (12 R283, R284): `code` is what has been read of the present code beyond the first code
of its length, `tbl` the symbols of the lengths still possible. The result is reversed, with the bits left. -/
def ecbRun (all : List (List Nat)) : List Bool → Nat → Nat → List (List Nat) → List Byte → Option (List Byte × List Bool)
  | bits, 0, _, _, out => some (out, bits)
  | [], _ + 1, _, _, _ => none
  | _ :: _, _ + 1, _, [], _ => none
  | b :: bits, n + 1, code, syms :: tbl, out =>
    let c := 2 * code + (if b then 1 else 0)
    if c < syms.length then ecbRun all bits n 0 all (BitVec.ofNat 8 (syms.getD c 0) :: out)
    else ecbRun all bits (n + 1) (c - syms.length) tbl out

/-- One bit of CRC-32C (12 R284). -/
def crcBit (c : Word) : Word := if c.getLsbD 0 then (c >>> 1) ^^^ 0x82F63B78 else c >>> 1

def crcByte (c : Word) (b : Byte) : Word :=
  crcBit (crcBit (crcBit (crcBit (crcBit (crcBit (crcBit (crcBit (c ^^^ b.setWidth 32))))))))

/-- CRC-32C of bytes. -/
def crc32c (bs : List Byte) : Word := ~~~(bs.foldl crcByte 0xFFFFFFFF)

/-- Header fields as 12 R282 wants them. -/
def ecbHeaderOk (bs : List Byte) : Bool :=
  fieldOf bs 0 2 == 0xEC1B && fieldOf bs 2 1 == 1 && fieldOf bs 3 1 == 0 && fieldOf bs 4 2 == 4096
  && decide (1 ≤ fieldOf bs 6 2) && decide (fieldOf bs 6 2 ≤ 6144) && fieldOf bs 12 4 == 0

/-- The 4,096 bytes of a block; none for a block that 12 R285 reports. -/
def ecbDecode (bs : List Byte) : Option (List Byte) :=
  let lens := ecbLens bs
  let bits := ((bs.drop 144).take (fieldOf bs 6 2)).flatMap bitsOfByte
  if ecbHeaderOk bs && ecbKraft lens then
    match ecbRun (ecbTable lens) bits 4096 0 (ecbTable lens) [] with
    | some (out, rest) =>
      let out := out.reverse
      if rest.length < 8 ∧ (crc32c out).toNat = fieldOf bs 8 4 then some out else none
    | none => none
  else none

/-! ### Reads of an engine -/

/-- A 32-byte line: answered by a host or peer home before, or read now. -/
def readLine (s : State) (r : Rq) (resp : FMap (List Byte)) (line : Nat) : State × Acc × List Byte :=
  match mget resp line with
  | some bs => (s, .done, bs)
  | none => loadRange s r accLoad (32 * line) 32

/-- Lines in turn, up to the first that fails, which is named. -/
def readLines (r : Rq) (resp : FMap (List Byte)) :
    List Nat → State → FMap (List Byte) → State × Acc × Nat × FMap (List Byte)
  | [], s, got => (s, .done, 0, got)
  | l :: ls, s, got =>
    match readLine s r resp l with
    | (s, .done, bs) => readLines r resp ls s (mset got l bs)
    | (s, a, _) => (s, a, l, got)

/-- Lines of n bytes from an address. -/
def linesOf (va n : Nat) : List Nat :=
  if n = 0 then [] else (List.range ((va + n - 1) / 32 - va / 32 + 1)).map (va / 32 + ·)

/-- A byte among lines. -/
def lineByte (got : FMap (List Byte)) (va : Nat) : Byte := (mgetD got (va / 32) []).getD (va % 32) 0

def lineBytes (got : FMap (List Byte)) (va n : Nat) : List Byte := (List.range n).map fun i => lineByte got (va + i)

/-- What a read of tensor bytes meets: the access at a line that fails, which a codec unit makes for an ECB block, or a
block that 12 R285 reports. -/
inductive TenAns where
  | ok
  | acc (a : Acc) (line : Nat) (codec : Bool)
  | codecsum (block : Nat)
  deriving DecidableEq, Repr

/-- The codec unit of a block's home counts it (02 R46, R50). -/
def codecCount (s : State) (r : Rq) (va i : Nat) : State :=
  match request s r.die r.slot r.asid va accQuery false with
  | (_, .ok t) => codecBump s t.die (homeUnit t va) i 1
  | _ => s

/-- The operation whose block a codec unit decodes, as a request in its queue. -/
def codecOp (r : Rq) : Option Nat := r.copy.or r.mop

/-- The queue of the codec unit of a block's home is full, and the operation is not in it: the reader waits (02 R43). One that
finds room enters the queue and is served in its step. -/
def codecBusy (s : State) (r : Rq) (va : Nat) : Bool :=
  match request s r.die r.slot r.asid va accQuery false with
  | (_, .ok t) => codecFull s t va && !(codecOp r).any (((getDie s t.die).codecQ.getD (homeUnit t va).toNat []).contains ·)
  | _ => false

/-- An operation's request leaves the queues of codec units. -/
def codecForget (s : State) (op : Nat) : State :=
  if s.dies.any fun d => d.2.codecQ.any (·.contains op) then
    { s with dies := s.dies.map fun d => (d.1, { d.2 with codecQ := d.2.codecQ.map fun q => q.erase op }) }
  else s

/-- A decode has been served: its operation's request leaves its unit's queue. -/
def codecLeave (s : State) (r : Rq) : State :=
  match codecOp r with
  | some op => codecForget s op
  | none => s

/-- Read and decode blocks in turn. -/
def readBlocks (r : Rq) (resp : FMap (List Byte)) (t : Tid) :
    List Nat → State → FMap (List Byte) → State × TenAns × FMap (List Byte)
  | [], s, got => (s, .ok, got)
  | b :: bs, s, got =>
    let va := t.base + t.aux * b
    if codecBusy s r va then (s, .acc .held (va / 32) true, got)
    else match readLines r resp (linesOf va 16) s [] with
    | (s, .done, _, hdr) =>
      let h := lineBytes hdr va 16
      if ecbHeaderOk h then
        let n := 144 + fieldOf h 6 2
        match readLines r resp (linesOf va n) s [] with
        | (s, .done, _, all) =>
          (match ecbDecode (lineBytes all va n) with
           | some out => readBlocks r resp t bs (codecLeave s r) (mset got b out)
           | none => (codecCount (codecLeave s r) r va 4, .codecsum b, got))
        | (s, a, l, _) => (s, .acc a l true, got)
      else (codecCount (codecLeave s r) r va 4, .codecsum b, got)
    | (s, a, l, _) => (s, .acc a l true, got)

/-- Distinct numbers, rising. -/
def rising (l : List Nat) : List Nat := (l.foldl (fun m x => mset m x ()) ([] : FMap Unit)).map (·.1)

/-- The blocks of some logical bytes have been delivered: each counts in its unit's `CODEC_ECBBLK` (02 R50). -/
def ecbDelivered (s : State) (r : Rq) (t : Tid) (ls : List Nat) : State :=
  if t.ecb then (rising (ls.map (· / 4096))).foldl (fun s b => codecCount s r (t.base + t.aux * b) 3) s else s

/-- Read the lines or blocks of logical bytes, and lines of plain addresses. The result gives a logical byte and a plain
byte. -/
def readTensor (s : State) (r : Rq) (resp : FMap (List Byte)) (t : Tid) (ls plain : List Nat) :
    State × TenAns × (Nat → Byte) × (Nat → Byte) :=
  let lines := rising ((if t.ecb then [] else ls.map fun l => (t.base + l) / 32) ++ plain.map (· / 32))
  match readLines r resp lines s [] with
  | (s, .done, _, got) =>
    if t.ecb then
      (match readBlocks r resp t (rising (ls.map (· / 4096))) s [] with
       | (s, a, blocks) =>
         (s, a, fun l => (mgetD blocks (l / 4096) []).getD (l % 4096) 0, lineByte got))
    else (s, .ok, fun l => lineByte got (t.base + l), lineByte got)
  | (s, a, l, _) => (s, .acc a l false, fun _ => 0, fun _ => 0)

end Sys2Proof.Machine
end

