-- ==== Sys2Proof/Machine/Engine.lean ====
section
/-! DEFINITION. What the matrix engine computes (11 R254 to R259): one step into a tile, the composition of affine maps,
the scan of a pair; tiles, carries and their status words (11 R246 to R248). -/

namespace Sys2Proof.Machine

/-! ### Tiles and carries -/

/-- 1,024 zero elements. -/
def zeroTile : List Word := List.replicate 1024 0

/-- Elements as an operation reads them: a tile that is not valid reads as zero (07 R177). -/
def Tile.elems (t : Tile) : List Word := if t.valid ∧ t.data ≠ [] then t.data else zeroTile

/-- The tile is written: valid, dirty, of a kind. -/
def Tile.put (t : Tile) (k : TileKind) (d : List Word) : Tile := { t with valid := true, dirty := true, kind := k, data := d }

/-- gain 1.0 -/
abbrev oneF32 : Word := 0x3F800000

/-- The pairs of a carry; none listed stand for the identity (11 R248). -/
def Carry.get (c : Carry) : List (Word × Word) := if c.pairs = [] then List.replicate 32 (oneF32, 0) else c.pairs

def TileKind.code : TileKind → Nat
  | .fp32 => 0
  | .i32 => 1
  | .gain => 2
  | .offset => 3

/-- The status word (11 R247); `infl` is whether an operation on the tile is incomplete. -/
def Tile.status (t : Tile) (infl : Bool) : Nat :=
  let b (x : Bool) (i : Nat) : Nat := if x then 2 ^ i else 0
  t.ecause.toNat * 2 ^ 16 + t.kind.code * 2 ^ 10 + b t.ix 9 + b t.ovf 8 + b t.gu 7 + b t.of 6 + b t.nv 5 + b t.lost 4
  + b infl 3 + b t.dirty 2 + b t.valid 1

/-- Clear the W1C fields that a mask names. -/
def Tile.clear (t : Tile) (m : Nat) : Tile :=
  { t with
    ecause := if bitsOf m 16 4 = 0 then t.ecause else 0
    ix := t.ix && !bitOf m 9, ovf := t.ovf && !bitOf m 8, gu := t.gu && !bitOf m 7, of := t.of && !bitOf m 6
    nv := t.nv && !bitOf m 5 }

/-! ### Operand elements (18 R437) -/

/-- K of a step (11 R254). -/
def stepK : LType → Nat
  | .f16x2 | .bf16x2 => 16
  | .e3m2x4 | .e2m3x4 | .e2m1x8 | .mxe3m2 | .mxe2m3 | .mxe2m1 => 64
  | _ => 32

/-- Products of a group (11 R254). -/
def groupK : LType → Nat
  | .f16x2 | .bf16x2 => 4
  | .e4m3x4 | .e5m2x4 => 8
  | .e3m2x4 | .e2m3x4 | .e2m1x8 => 16
  | _ => 32

/-- Blocks of scales of a step. -/
def scaleBlocks (t : LType) : Nat := if t.isMx then stepK t / 32 else 0

/-- Bytes of operand B, without scales. -/
def bBytes (t : LType) : Nat := stepK t * 32 * tenW t / 8

/-- Element k of row i of a captured operand A. -/
def aElem (w : Nat) (rows : List Lanes) (i k : Nat) : Nat :=
  (laneAt (rows.getD (k * w / 32) []) i).toNat / 2 ^ (k * w % 32) % 2 ^ w

/-- Element n of packed bytes. -/
def packedElem (w : Nat) (bs : List Byte) (n : Nat) : Nat := fieldOf bs (n * w / 8) ((w + 7) / 8) / 2 ^ (n * w % 8) % 2 ^ w

/-- An operand: rows of A or columns of B, K elements each, and one scale for each block. -/
structure Operand where
  elems : List (List Nat)
  scales : List (List Nat)
  deriving DecidableEq, Repr

/-- Operand A from captured registers. -/
def operandA (t : LType) (rows : List Lanes) (scales : Lanes) : Operand :=
  { elems := laneIdx.map fun i => (List.range (stepK t)).map (aElem (tenW t) rows i)
    scales := laneIdx.map fun i => (List.range (scaleBlocks t)).map fun q => (laneAt scales i).toNat / 2 ^ (8 * q) % 256 }

/-- Operand B from bytes of local store: element (k, j) is number 32k + j; the scales follow. -/
def operandB (t : LType) (bs : List Byte) : Operand :=
  let w := tenW t
  let row (k : Nat) : List Byte := (bs.drop (4 * w * k)).take (4 * w)
  let rows := (List.range (stepK t)).map fun k => let r := row k; laneIdx.map (packedElem w r)
  let sc := bs.drop (bBytes t)
  { elems := laneIdx.map fun j => rows.map fun r => r.getD j 0
    scales := laneIdx.map fun j => (List.range (scaleBlocks t)).map fun q => (sc.getD (32 * q + j) 0).toNat }

/-! ### One step (11 R255, R256) -/

/-- Cut a list into pieces of n. -/
def chunks {α : Type} (n : Nat) : Nat → List α → List (List α)
  | 0, _ => []
  | fuel + 1, l => if l.isEmpty then [] else l.take n :: chunks n fuel (l.drop n)

/-- Element of a result with the status that it raises. -/
structure Elem where
  bits : Word
  nv : Bool := false
  of : Bool := false
  ovf : Bool := false
  ix : Bool := false
  deriving DecidableEq, Repr

/-- The exact sum of a group's products, scaled for an MX type, rounded once. -/
def groupSum (a b : List FVal) (sc : Option (Nat × Nat)) : FR :=
  let s := (a.zip b).foldl (fun s p => s.addProd p.1 p.2) DotSum.zero
  let nan := match sc with | some (x, y) => x == 255 || y == 255 | none => false
  let k : Int := match sc with | some (x, y) => (x : Int) + y - 254 | none => 0
  if nan then { bits := fB32.defNaN }
  else match s with
    | .nan => { bits := fB32.defNaN }
    | .inf n => { bits := fB32.withSign n fB32.infCode }
    | .fin d z => fB32.roundDyadic .rne z (d.scale k)

/-- Accumulate the groups of one element in ascending k. -/
def accFloat (d : Word) (groups : List (List FVal × List FVal × Option (Nat × Nat))) : Elem :=
  groups.foldl (fun e g =>
    let s := groupSum g.1 g.2.1 g.2.2
    let r := fB32.add .rne (fB32.dec e.bits.toNat) (fB32.dec s.bits)
    { e with bits := BitVec.ofNat 32 r.bits, nv := e.nv || (fB32.dec r.bits).isNan, of := e.of || s.of || r.of })
    { bits := d }

/-- Accumulate one element of an integer step. -/
def accInt (t : LType) (d : Word) (a b : List Nat) (sa sb : Nat) : Elem :=
  let v (x : Nat) : Int := if t = .n8x4 then (x : Int) else sxNat 8 x
  let s := (a.zip b).foldl (fun s p => s + v p.1 * v p.2) (0 : Int)
  let nan := t = .mxi8 ∧ (sa = 255 ∨ sb = 255)
  let e : Int := (sa : Int) + sb - 254
  let c : Int :=
    if t = .mxi8 then (if nan then 0 else if e ≥ 0 then s * (2 ^ e.toNat : Nat) else s / ((2 ^ (-e).toNat : Nat) : Int)) else s
  let x : Int := d.toInt + c
  { bits := BitVec.ofInt 32 x
    nv := decide nan
    ix := t == .mxi8 && !decide nan && decide (e < 0) && decide (s % ((2 ^ (-e).toNat : Nat) : Int) ≠ 0)
    ovf := decide (x < -(2 ^ 31)) || decide (2 ^ 31 - 1 < x) }

/-- Subnormals become zero of the same sign (11 R258). -/
def flush32 (x : Nat) : Nat := fB32.flush true x

/-- One element of a step: row of A, column of B, their scales. -/
def stepElem (t : LType) (aff : Bool) (d : Word) (a b : List Nat) (fa fb : List FVal) (sa sb : List Nat) : Elem :=
  if t.accInt then accInt t d a b (sa.getD 0 0) (sb.getD 0 0)
  else
    let g := groupK t
    let sc (q : Nat) : Option (Nat × Nat) := if t.isMx then some (sa.getD q 127, sb.getD q 127) else none
    let r := accFloat d (((chunks g 64 fa).zip (chunks g 64 fb)).zipIdx.map fun x => (x.1.1, x.1.2, sc x.2))
    if aff then { r with bits := BitVec.ofNat 32 (flush32 r.bits.toNat) } else r

/-- D + A x B: the elements with their status, row by row. -/
def matStep (t : LType) (aff : Bool) (a b : Operand) (d : List Word) : List Elem :=
  let val (x : Nat) : FVal := match t.fmt? with | some f => f.dec (x % 2 ^ f.width) | none => .fin false 0 0
  let fb := b.elems.map fun c => c.map val
  ((a.elems.zip a.scales).zipIdx.map fun r =>
    let fa := r.1.1.map val
    ((b.elems.zip fb).zip b.scales).zipIdx.map fun c =>
      stepElem t aff (d.getD (32 * r.2 + c.2) 0) r.1.1 c.1.1.1 fa c.1.1.2 r.1.2 c.1.2).flatten

/-- A tile after a step's elements. -/
def Tile.accumulate (t : Tile) (k : TileKind) (es : List Elem) : Tile :=
  { t.put k (es.map (·.bits)) with
    nv := t.nv || es.any (·.nv), of := t.of || es.any (·.of), ovf := t.ovf || es.any (·.ovf), ix := t.ix || es.any (·.ix) }

/-! ### Affine maps (11 R257 to R259) -/

/-- A pair with the status that its composition raised. -/
structure Aff where
  g : Word
  o : Word
  gu : Bool := false
  of : Bool := false
  nv : Bool := false
  deriving DecidableEq, Repr

/-- The gain product: a result below 2^-126 after rounding to 24 bits becomes zero and underflows. -/
def gainMul (x y : FVal) : FR × Bool :=
  match x, y with
  | .fin n1 m1 e1, .fin n2 m2 e2 =>
    let n := n1 != n2
    let m := m1 * m2
    let e := e1 + e2
    let q := (Nat.log2 m : Int) + e - 23
    let k := (roundAt .rne n m e q false).1
    if m ≠ 0 ∧ (Nat.log2 k : Int) + q < -126 then ({ bits := fB32.withSign n 0 }, true)
    else (fB32.mul .rne x y, false)
  | _, _ => (fB32.mul .rne x y, false)

/-- (g2, o2) o (g1, o1). -/
def compose (p2 p1 : Aff) : Aff :=
  let v (x : Word) : FVal := fB32.dec (flush32 x.toNat)
  let (g, gu) := gainMul (v p2.g) (v p1.g)
  let o := fB32.fma .rne (v p2.g) (v p1.o) (v p2.o)
  let nan (r : FR) : Bool := (fB32.dec r.bits).isNan
  { g := BitVec.ofNat 32 (flush32 g.bits), o := BitVec.ofNat 32 (flush32 o.bits)
    gu := p1.gu || p2.gu || gu, of := p1.of || p2.of || g.of || o.of, nv := p1.nv || p2.nv || nan g || nan o }

/-- One level of the scan at distance d: rows with their start marks. -/
def scanAt (p : List (Aff × Bool)) (d : Nat) : List (Aff × Bool) :=
  p.zipIdx.map fun x =>
    if d ≤ x.2 ∧ x.1.2 = false then
      let y := p.getD (x.2 - d) x.1
      (compose x.1.1 y.1, y.2)
    else x.1

/-- The scan of one channel: its rows after the carry-in (11 R259). -/
def scanChannel (rows : List (Word × Word)) (mask : Word) (carry : Word × Word) : List Aff :=
  let p : List (Aff × Bool) := rows.zipIdx.map fun x => ({ g := x.1.1, o := x.1.2 }, mask.getLsbD x.2)
  let p := [1, 2, 4, 8, 16].foldl scanAt p
  p.map fun x => if x.2 then x.1 else compose x.1 { g := carry.1, o := carry.2 }

/-- Every channel of a pair of tiles. -/
def scanPair (g o : List Word) (mask : Word) (c : List (Word × Word)) : List (List Aff) :=
  laneIdx.map fun j =>
    scanChannel (laneIdx.map fun i => (g.getD (32 * i + j) 0, o.getD (32 * i + j) 0)) mask (c.getD j (oneF32, 0))

/-- Elements row by row of channels' rows. -/
def fromChannels (f : Aff → Word) (chans : List (List Aff)) : List Word :=
  (laneIdx.map fun i => chans.map fun ch => match ch[i]? with | some x => f x | none => 0).flatten

end Sys2Proof.Machine
end

