-- ==== Sys2Proof/Machine/Queues.lean ====
section
/-! DEFINITION. Queues (05 R104 to R111, R474, 06 R137): queue control blocks at their home, reservation, commit and pop,
the full policies, and the queue instructions of lanes (17 R427, R428) and of the spine (15 R363, R369, R370). -/

namespace Sys2Proof.Machine

/-! ### Queue control blocks (R105, R106) -/

/-- The 64 bytes of a queue control block. -/
abbrev Qcb : Type := List Byte

def qBase (q : Qcb) : Nat := fieldOf q 0 8
def qHead (q : Qcb) : Nat := fieldOf q 8 2
def qTail (q : Qcb) : Nat := fieldOf q 10 2
def qResv (q : Qcb) : Nat := fieldOf q 12 2
def qWin (q : Qcb) : Nat := fieldOf q 14 2
def qSize (q : Qcb) : Nat := fieldOf q 16 1
def qPolicy (q : Qcb) : Nat := fieldOf q 17 1
def qBind (q : Qcb) : Nat := fieldOf q 18 1
def qProd (q : Qcb) : Nat := fieldOf q 19 1
def qTgt (q : Qcb) : Nat := fieldOf q 20 2
def qDrops (q : Qcb) : Nat := fieldOf q 24 8
def qErrs (q : Qcb) : Nat := fieldOf q 32 4

/-- Replace an n-byte field. -/
def qSet (q : Qcb) (off n v : Nat) : Qcb := putBytes q off (bytesOf n v)

/-- Difference of counters, modulo 2^16. -/
def ctrSub (a b : Nat) : Nat := (a + 65536 - b) % 65536

/-- MSI-X vectors of a context's function: the PF is slot 0 (04 R81, R82). -/
def msixVectors (slot : Nat) : Nat := if slot = 0 then 2048 else 32

/-- A malformed block of queue n of a context slot. -/
def qBad (slot n : Nat) (q : Qcb) : Bool :=
  fieldOf q 22 2 != 0 || fieldOf q 36 28 != 0 || decide (2 < qPolicy q) || decide (3 < qBind q) || decide (1 < qProd q)
  || qSize q == 0 || decide (15 < qSize q) || qWin q == 0 || decide (2 ^ qSize q < qWin q)
  || decide (2 ^ 56 ≤ qBase q) || qBase q % (64 * 2 ^ qSize q) != 0
  || ((qBind q == 2) != (n == 0))
  || ((qBind q == 0 || qBind q == 2) && qTgt q != 0) || (qBind q == 1 && decide (63 < qTgt q))
  || (qBind q == 3 && decide (msixVectors slot ≤ qTgt q))
  || decide (qWin q < ctrSub (qResv q) (qHead q))
  || decide (ctrSub (qResv q) (qHead q) < ctrSub (qTail q) (qHead q))

/-- Address of queue n's block, and of entry c. -/
def qcbVa (s : State) (slot n : Nat) : Nat := ccb s slot 0x20 8 + 64 * n
def slotVa (q : Qcb) (c : Nat) : Nat := qBase q + 64 * (c % 2 ^ qSize q)

/-! ### Access at the home (R104) -/

inductive QAcc where
  | ok (t : TInfo)
  | hostHome
  | peerHome
  | fault (kind die hme pte : Nat)
  | poison
  | held
  deriving DecidableEq, Repr

/-- Translate 64 aligned bytes for a queue operation. -/
def qOpen (s : State) (die slot : Nat) (asid : Half) (va acc : Nat) (agent : Agent := .none) : State × QAcc :=
  match requestFor s { die := die, cluster := 0, slot := slot, asid := asid, agent := agent, l1 := false } va acc true with
  | (s1, .ok t) =>
    let grain := leafGrain t.leaf
    let gva := va / grain * grain
    if engineOwns s none asid gva (Nat.max grain 64) grain then (s, .held)
    else if hostBlocks s (acc == accStore) asid gva (Nat.max grain 64) then
      (askHosts s fun g => g.overlaps asid gva (Nat.max grain 64), .held)
    else (s1, .ok t)
  | (s1, .remote w) => (s1, if hmeHome w = 10 then .peerHome else .hostHome)
  | (s1, .fault k d h p) => (s1, .fault k d h p)
  | (s1, .poison _) => (s1, .poison)
  | (s1, .held) => (s1, .held)

/-- Read and write 64 bytes at their home, cached copies recalled. -/
def qRead (s : State) (t : TInfo) (asid : Half) (va : Nat) : State × List Byte :=
  let s := recallOthers s none asid va 64
  (s, homeBytes s t asid va 64)

def qWrite (s : State) (t : TInfo) (asid : Half) (va : Nat) (bs : List Byte) : State :=
  storeAtHome (recallOthers s none asid va 64) t asid va bs

/-- What a queue operation is answered (R474). -/
inductive QAns where
  | trap (code : Byte) (va : Nat)
  /-- a fault of 03 R73 at an address, and the access class -/
  | fault (kind die hme pte va acc : Nat)
  /-- its page is held -/
  | held
  /-- full or empty: wait -/
  | wait
  /-- full or empty under `.try` -/
  | none'
  | dropped
  | reserved (c : Nat)
  | popped (bs : List Byte)
  deriving DecidableEq, Repr

/-- The answer that a failed access gives. -/
def QAcc.ans (a : QAcc) (va acc : Nat) : QAns :=
  match a with
  | .hostHome => .trap tHostatom va
  | .peerHome => .trap tMemfault va
  | .poison => .trap tPoison va
  | .held | .ok _ => .held
  | .fault k d h p => .fault k d h p va acc

/-- An open queue: its block, and the places of the block and of the ring slot concerned. -/
structure QOpen where
  q : Qcb
  qt : TInfo
  rt : TInfo
  deriving DecidableEq, Repr

/-- Open queue n and the ring slot that a counter names; `priv` says which blocks trap `PRIV` (R107). -/
def qLoad (s : State) (die slot : Nat) (asid : Half) (n : Nat) (priv : Qcb → Bool) (ctr : Qcb → Nat) (acc : Nat)
    (agent : Agent := .none) : State × (QAns ⊕ QOpen) :=
  let va := qcbVa s slot n
  match qOpen s die slot asid va accStore agent with
  | (s, .ok t) =>
    let (s, q) := qRead s t asid va
    if priv q then (s, .inl (.trap tPriv 0))
    else if qBad slot n q then (s, .inl (.trap tMemfault va))
    else
      let rva := slotVa q (ctr q)
      (match qOpen s die slot asid rva acc agent with
       | (s, .ok rt) => (s, .inr ⟨q, t, rt⟩)
       | (s, a) => (s, .inl (a.ans rva acc)))
  | (s, a) => (s, .inl (a.ans va accStore))

def qFull (q : Qcb) : Bool := decide (qWin q ≤ ctrSub (qResv q) (qHead q))

/-- Reserve a slot and write its entry (R107). The reservation takes the number `nextId`, which its producer uses up. -/
def qReserve (s : State) (slot : Nat) (asid : Half) (n : Nat) (o : QOpen) (entry : List Byte) (who : Agent) : State :=
  let c := qResv o.q
  let s := qWrite s o.qt asid (qcbVa s slot n) (qSet o.q 12 2 (c + 1))
  let s := qWrite s o.rt asid (slotVa o.q c) entry
  { s with resvs := s.resvs ++ [{ id := s.nextId, slot := slot, q := n, at_ := BitVec.ofNat 32 c, who := who }] }

/-- A launch by a spine thread, which never traps `PRIV` (15 R369; log entry 88). -/
def spineLaunches (r : Rq) (launch : Bool) : Bool := launch && match r.agent with | .spine _ => true | _ => false

/-- A push by an instruction: reservation, or the full policy (R107, R108; R137 for `launch`). -/
def qPush (s : State) (r : Rq) (n : Nat) (entry : List Byte) (launch try_ : Bool) (who : Agent) : State × QAns :=
  if n = 0 ∧ launch = false then (s, .trap tPriv 0)
  else
    match qLoad s r.die r.slot r.asid n (fun q => qProd q == 1 && !spineLaunches r launch) qResv accStore r.agent with
    | (s, .inl a) => (s, a)
    | (s, .inr o) =>
      if qFull o.q then
        if try_ then (s, .none')
        else if qPolicy o.q = 1 then (s, .trap tQfull 0)
        else if qPolicy o.q = 2 ∧ launch = false then
          (qWrite s o.qt r.asid (qcbVa s r.slot n) (qSet o.q 24 8 (qDrops o.q + 1)), .dropped)
        else (s, .wait)
      else (qReserve s r.slot r.asid n o entry who, .reserved (qResv o.q))

/-- A pop by an instruction (R107). -/
def qPop (s : State) (r : Rq) (n : Nat) (try_ : Bool) : State × QAns :=
  match qLoad s r.die r.slot r.asid n (fun q => qBind q != 0) qHead accLoad r.agent with
  | (s, .inl a) => (s, a)
  | (s, .inr o) =>
    if qTail o.q = qHead o.q then (s, if try_ then .none' else .wait)
    else
      let (s, bs) := qRead s o.rt r.asid (slotVa o.q (qHead o.q))
      (qWrite s o.qt r.asid (qcbVa s r.slot n) (qSet o.q 8 2 (qHead o.q + 1)), .popped bs)

/-! ### Commits and pushes of the device (R107, R110, R111, R114) -/

/-- `SVCERR` counts one more, saturating (R120). -/
def svcErr (s : State) : State :=
  { s with dev := { s.dev with svcerr := if s.dev.svcerr = 0xFFFFFFFF then s.dev.svcerr else s.dev.svcerr + 1 } }

/-- The SVP thread of a service queue wakes; wakes during a recovery's freeze are not kept (R122). -/
def svcWake (s : State) (q : Nat) : State :=
  if s.svpFrozen then s else { s with svcAwake := s.svcAwake ||| BitVec.ofNat 64 (2 ^ q) }

/-- An MSI-X message of a function, once every KL write that precedes it in the order of the agent that caused it has been
acknowledged (04 R98). -/
def msixSend (s : State) (fn vec : Nat) (who : Agent) : State :=
  let away := writesAway s who
  if away.isEmpty then { s with outs := .msix fn vec :: s.outs }
  else { s with msixWait := s.msixWait ++ [(fn, vec, away)] }

/-- Messages whose writes have all been acknowledged are sent. -/
def msixFlush (s : State) : State :=
  if s.msixWait.isEmpty then s
  else
    let stays (m : Nat × Nat × List Nat) : Bool := m.2.2.any fun k => s.reqs.any fun r => r.id == k
    { s with
      outs := ((s.msixWait.filter fun m => !stays m).map fun m => Out.msix m.1 m.2.1).reverse ++ s.outs
      msixWait := s.msixWait.filter stays }

/-- What follows a commit to queue n of a slot by an agent (R110, R114, 17 R426). -/
def qCommitted (s : State) (slot n : Nat) (q : Qcb) (who : Agent) : State :=
  let s := wakeTeams s fun t => slotOf s t == slot
  if qBind q = 1 then svcWake s (qTgt q)
  else if qBind q = 3 then
    let k := 1024 * slot + n
    if mget s.msixHead k = some (qHead q) then s
    else msixSend { s with msixHead := mset s.msixHead k (qHead q) } slot (qTgt q) who
  else s

/-- An entry that the device or the SVP pushes waits for room (R111). -/
def devicePush (s : State) (slot n : Nat) (entry : List Byte) : State :=
  { s with nextId := s.nextId + 1, dpush := s.dpush ++ [{ id := s.nextId, slot := slot, q := n, entry := entry }] }

/-! ### Responses of the SVP (R115, R118) and the end of a grid (06 R146) -/

/-- A pending response enters the response ring if it has room and the SVP runs: the rings' counts advance and the PF's
vector 0 is sent, after the device's earlier writes (R118, R122, 04 R98). -/
def mgmtFlush (s : State) : State :=
  let d := s.dev
  match d.mgmtResp with
  | none => s
  | some bs =>
    if s.svpFrozen ∨ ctrSub d.mgmtRTail.toNat d.mgmtRHead.toNat = 16 then s
    else
      msixSend { s with dev := { d with
          mgmtRRing := (bs.zipIdx).foldl (fun m p => mset m (64 * (d.mgmtRTail.toNat % 16) + p.2) p.1) d.mgmtRRing
          mgmtRTail := d.mgmtRTail + 1, mgmtHead := if d.mgmtLog then d.mgmtHead else d.mgmtHead + 1
          mgmtBusy := false, mgmtLog := false, mgmtResp := none } } 0 0 .none

/-- A response: host tag, opcode, status word, results (R115). -/
def responseBytes (tag opc status : Nat) (results : List Byte) : List Byte :=
  bytesOf 4 tag ++ bytesOf 2 opc ++ zeros 2 ++ bytesOf 4 status ++ zeros 4 ++ results ++ zeros (48 - results.length)

/-- The response to a command goes to the response ring, or to `COMPQ`. -/
def respond (s : State) (c : HostCmd) (status : Nat) (results : List Byte) : State :=
  let bs := responseBytes c.tag.toNat c.opc status results
  match c.src with
  | .mgmt => mgmtFlush { s with dev := { s.dev with mgmtResp := some bs } }
  | .svq q =>
    { s with nextId := s.nextId + 1,
             dpush := s.dpush ++ [{ id := s.nextId, slot := c.slot, q := ccb s c.slot 0x2C 4, entry := bs,
                                    thread := some q.toNat, journal := some (c.slot, c.jslot) }] }

/-- A journal slot (R113). -/
def journalAt (s : State) (slot j : Nat) : Nat := ccbAt s slot + 0x100 + 64 * j

/-- Free a journal slot: all its bytes are zero. -/
def journalFree (s : State) (j : Option (Nat × Nat)) : State :=
  match j with
  | some (slot, j) => { s with mem := memWriteN s.mem (journalAt s slot j) (zeros 64) }
  | none => s

/-- What follows the completion entry of a grid: the parent's children, the SVP's response; the grid goes with the end of
the step, which still writes its teams' headers (06 R143). -/
def gridFinish (s : State) (id status : Nat) : State :=
  match mget s.grids id with
  | none => s
  | some g =>
    let s := match g.parent with
      | some p => modTeam s p fun t => { t with children := t.children - 1 }
      | none => s
    let s := match g.host with
      | some c => respond s c status (bytesOf 8 g.lrec.toNat ++ bytesOf 8 g.count ++ bytesOf 8 g.lost)
      | none => s
    { s with grids := mset s.grids id { g with complete := true, done := none, host := none, gone := true } }

/-- A grid ends: its completion entry is pushed first, if it names a queue. -/
def gridEnd (s : State) (id status : Nat) : State :=
  match mget s.grids id with
  | none => s
  | some g =>
    if 1 ≤ g.lr.doneq ∧ g.lr.doneq ≤ 1023 then
      let n := s.nextId
      let s := devicePush s g.slot g.lr.doneq
        (bytesOf 8 g.lrec.toNat ++ bytesOf 8 g.tag.toNat ++ bytesOf 1 status ++ zeros 7 ++ bytesOf 8 g.count ++ bytesOf 8 g.lost
         ++ zeros 24)
      { s with grids := mset s.grids id { g with complete := true, done := some (n, status) } }
    else gridFinish s id status

/-- The grid whose completion entry has a number. -/
def gridOfPush (s : State) (n : Nat) : Option (Nat × Nat) :=
  s.grids.findSome? fun x => match x.2.done with
    | some (k, st) => if k = n then some (x.1, st) else none
    | none => none

/-- R107: a reserved entry commits when `TAIL` reaches it; the commit of a `launch` raises the team's children (R137),
and a lane form's set-flag falls (R474). Before its turn, or while its block cannot be reached, it waits. -/
def queueCommit (s : State) (id : Nat) : State :=
  match s.resvs.find? fun r => r.id == id with
  | none => s
  | some r =>
    let asid := ctxAsid s r.slot
    let va := qcbVa s r.slot r.q
    match qOpen s 0 r.slot asid va accStore with
    | (s1, .ok t) =>
      let (s1, q) := qRead s1 t asid va
      if qTail q = r.at_.toNat then
        let q := qSet q 10 2 (qTail q + 1)
        let s1 := qWrite s1 t asid va q
        let s1 := { s1 with resvs := s1.resvs.filter fun x => x.id != r.id }
        let s1 := match r.q, r.who with
          | 0, .spine team =>
            modTeam { s1 with launchers := mset s1.launchers (65536 * r.slot + r.at_.toNat) (.team team) } team fun t =>
              { t with children := t.children + 1 }
          | _, _ => s1
        let s1 := match gridOfPush s1 r.id with
          | some (g, st) => gridFinish s1 g st
          | none => s1
        landPop (qCommitted s1 r.slot r.q q r.who) r.id
      else s
    | _ => s

def execQueueCommit (s : State) : Outcome := .next (queueCommit s s.arg.id)

/-- One attempt of a device push: none while it waits; else whether the push was made. -/
def devicePushTry (s : State) (slot n : Nat) (entry : List Byte) (launch : Bool) : Option (State × Bool) :=
  let asid := ctxAsid s slot
  match qLoad s 0 slot asid n (fun q => qProd q == 1 || ((qBind q == 2) != launch)) qResv accStore with
  | (_, .inl .held) => none
  | (s, .inl _) => some (svcErr s, false)
  | (s, .inr o) => if qFull o.q then none else some ((qReserve s slot asid n o entry .none).fresh, true)

/-- An SVP thread makes this push: it waits while the threads are frozen (R111, R122). -/
def DPush.bySvp (p : DPush) : Bool := p.thread.isSome || p.launch.isSome

/-- The pushes to one queue are made in order. -/
def firstPush (s : State) (p : DPush) : Bool :=
  (s.dpush.find? fun x => x.slot == p.slot && x.q == p.q).map (·.id) == some p.id

/-- A push is made, as reservation `n`, or its entry is discarded: what waits for it goes on. -/
def pushDone (s : State) (p : DPush) (made : Bool) (n : Nat) : State :=
  let rest := s.dpush.filter fun x => x.id != p.id
  let s := journalFree { s with dpush := rest } p.journal
  let s := match gridOfPush s p.id with
    | some (g, st) =>
      if made then { s with grids := mmod s.grids g fun g => { g with done := some (n, st) } } else gridFinish s g st
    | none => s
  match p.pop with
  | some op =>
    if rest.any fun x => x.pop == p.pop then s else { s with pops := mmod s.pops op fun x => { x with ready := true } }
  | none => s

/-- The launch of a command stands in queue 0, or is answered with status 2 (R119). -/
def launchPushed (s : State) (p : DPush) (c : HostCmd) (made : Bool) (n : Nat) : State :=
  match made, s.resvs.find? fun r => r.id == n with
  | true, some r => { s with launchers := mset s.launchers (65536 * p.slot + r.at_.toNat) (.host c) }
  | _, _ => respond s c 2 []

/-- R111: a waiting push is made once there is room, or its entry is discarded when the queue is unusable. -/
def execDeviceQueuePush (s : State) : Outcome :=
  .next (match s.dpush.find? fun p => p.id == s.arg.id && firstPush s p with
  | none => s
  | some p =>
    if p.bySvp && s.svpFrozen then s
    else match devicePushTry s p.slot p.q p.entry p.launch.isSome with
    | none => s
    | some (s1, made) =>
      match p.launch with
      | none => pushDone s1 p made s.nextId
      | some c => launchPushed (pushDone s1 p made s.nextId) p c made s.nextId)

/-! ### Lane forms -/

/-- A fault of a queue operation or a fetch of a squad: it waits at the instruction for the verdict on a replayable
one; on another it traps, once the record is posted (R104, R111, 14 R322). Number 0 stands for no log entry. -/
def squadFault (s : State) (id : Nat) (r : Rq) (kind : ReqKind) (k d h p va acc : Nat) : State :=
  let s := parkAcc s { id := 0, who := .squad id 0, kind := kind, asid := r.asid, va := BitVec.ofNat 64 va, st := .sent,
                       die := d, slot := r.slot, acc := acc } (.fault k d h p)
  setWait s id .fault

/-- As `squadFault` for a spine thread. -/
def spineFault (s : State) (t : Nat) (r : Rq) (kind : ReqKind) (k d h p va acc : Nat) : State :=
  let s := parkAcc s { id := 0, who := .spine t, kind := kind, asid := r.asid, va := BitVec.ofNat 64 va, st := .sent,
                       die := d, slot := r.slot, acc := acc } (.fault k d h p)
  spineWait s t .fault (some (BitVec.ofNat 64 va))

/-- The answer to a lane queue operation that does not let it go on, or what follows. -/
def laneAns (s0 : State) (x : Lx) (r : Rq) (n : Nat) (res : State × QAns) (k : State → QAns → State) : State :=
  match res with
  | (s, .trap code va) => x.trap s code x.q.em (trapVals x.q.em fun _ => BitVec.ofNat 64 va)
  | (s, .fault kd d h p va acc) => squadFault s x.id r .exec kd d h p va acc
  | (s, .held) => setWait (keepSaid s0 s) x.id .hold
  | (s, .wait) => setWait s x.id (.queue n)
  | (s, a) => k (escape s x.q.team) a

/-- Predicate of a `.try`: written in every active lane with the answer; p7 discards. -/
def tryPred (s : State) (x : Lx) (ok : Bool) : State :=
  let n := (x.o.md.extractLsb' 1 3).toNat
  if x.o.md.getLsbD 0 = false ∨ n = 7 then s
  else modSquad (overP s x.id n) x.id fun q => { q with p := putPred q.p n x.act (if ok then 0xFFFFFFFF else 0) }

/-- A push by a lane instruction ends with its reservation, or with the answer that there is none (R474). -/
def lanePush (x : Lx) (s : State) (n : Nat) (entry : List Byte) (launch : Bool) (reads frees : List Nat) : State :=
  let r := rqSquad s x.id x.q
  let who : Agent := if launch then .spine x.q.team else .squad x.id
  laneRelease s x fun s => laneAns s x r n (qPush s r n entry launch (x.o.md.getLsbD 0 && !launch) who) fun s a =>
    let ok := match a with | .reserved _ => true | _ => false
    finishLong (if launch then s else tryPred s x ok) x reads frees { ready := !ok }

/-- The entry that register B of a lane `qpush` forms: lanes 0 to 15, active or not; 0 outside `pm` (R428). -/
def pushEntry (q : Squad) (o : LaneOp) : List Byte :=
  ((laneIdx.take 16).map fun l => bytesOf 4 (if inMask q.pm l then srcVal q o 0 32 o.b l else 0)).flatten

/-- A queue operation issues when its flag is below 63 (06 R148). Its rows are asked for with the queue's answer, whose traps
have the lower codes (13 R290). -/
def flagRoom (s : State) (x : Lx) (k : State → State) : State :=
  if (flagOf x.q x.o.fs).any fun f => flagCount x.q f == 63 then s else k s

/-- Run a lane queue operation: once for the squad, when a lane is active. -/
def laneQueue (i : Instr) (o : LaneOp) (s : State) (dv : List Nat) (k : Lx → State → Nat → State) : Outcome :=
  let u : Uses := { vs := srcVs 32 o.b, gs := srcGs o.a, dv := dv }
  laneEnter i o u s fun x =>
    if x.act = 0 then finishShort s x u.vs (srcFrees 32 o.b) {}
    else
      let n := srcVal x.q o 0 64 o.a 0
      if n > 1023 then x.illop s else flagRoom s x fun s => k x s n

/-- R428: push register B to queue A. -/
def execQpush (o : LaneOp) (s : State) : Outcome :=
  laneQueue (.qpush o) o s [] fun x s n => lanePush x s n (pushEntry x.q o) false (srcVs 32 o.b) (srcFrees 32 o.b)

/-- R428: push, or clear the predicate when the window is full. -/
def execQpushTry (o : LaneOp) (s : State) : Outcome :=
  laneQueue (.qpushTry o) o s [] fun x s n => lanePush x s n (pushEntry x.q o) false (srcVs 32 o.b) (srcFrees 32 o.b)

/-- A pop by a lane instruction, an acquire: word l mod 16 of the entry in lane l. -/
def lanePop (x : Lx) (s : State) (n : Nat) : State :=
  let r := rqSquad s x.id x.q
  let try_ := x.o.md.getLsbD 0
  acquireGate s x.id x.q fun s0 => laneAns s0 x r n (qPop s0 r n try_) fun s a =>
    longReady s0 x (regDst x.o.dst 1).length fun _ =>
    let bs := match a with | .popped bs => bs | _ => zeros 64
    let ok := match a with | .popped _ => true | _ => false
    let p := (x.o.md.extractLsb' 1 3).toNat
    let idx := match x.o.dst with | .v idx => idx.toNat | _ => 255
    let vals := mergeRegs x.q idx x.act [fun l => fieldOf bs (4 * (l % 16)) 4]
    let res : Result :=
      if try_ ∧ p ≠ 7 then { dst := .vp idx 1 p, vals := vals, pval := if ok then 0xFFFFFFFF else 0 }
      else { dst := .v idx 1, vals := vals }
    finishLong s x [] [] res

/-- R428: pop an entry of queue A. -/
def execQpop (o : LaneOp) (s : State) : Outcome :=
  laneQueue (.qpop o) o s (regDst o.dst 1) lanePop

/-- R428: pop, or clear the predicate when the queue is empty. -/
def execQpopTry (o : LaneOp) (s : State) : Outcome :=
  laneQueue (.qpopTry o) o s (regDst o.dst 1) lanePop

/-- Leader of a team among its squads (06 R131): squad 0 of a team without a spine part. -/
def isLeader (s : State) (q : Squad) : Bool := q.index == 0 && q.originIdx && !(lrOf s q.team).spine

/-- A launch entry (06 R137). -/
def launchEntry (lrec tag index depth : Nat) : List Byte :=
  bytesOf 8 lrec ++ bytesOf 4 index ++ bytesOf 1 depth ++ zeros 3 ++ bytesOf 8 tag ++ bytesOf 4 (index / 2 ^ 32) ++ zeros 36

/-- A fault on queue 0 that is not replayable gives a launch at depth 9 the lower code, once it is recorded. -/
def depthFault (s : State) (r : Rq) : Option QAns :=
  match (qPush s r 0 (zeros 64) true false .none).2 with
  | .fault k d h p va acc => if replayable k then none else some (.fault k d h p va acc)
  | _ => none

/-- The trap of a launch at depth 9, unless its queue gives a lower code (06 R132, 13 R290). -/
def depthTrap (s : State) (r : Rq) : Byte × Nat :=
  match qPush s r 0 (zeros 64) true false .none with
  | (_, .trap code va) => if code < tDepth then (code, va) else (tDepth, 0)
  | _ => (tDepth, 0)

/-- R427: push a child grid onto queue 0. -/
def execLaunch (o : LaneOp) (s : State) : Outcome :=
  let u : Uses := { gs := srcGs o.a ++ srcGs o.b }
  laneEnter (.launch o) o u s fun x =>
    let t := teamOf s x.q.team
    let depth := (gridOf s t).depth
    if x.act = 0 then finishShort s x [] [] {}
    else if isLeader s x.q = false then x.trap s tPriv x.q.em
    else if depth ≥ 9 then
      (match depthFault s (rqSquad s x.id x.q) with
       | some (.fault k d h p va acc) => squadFault s x.id (rqSquad s x.id x.q) .exec k d h p va acc
       | _ =>
         let d := depthTrap s (rqSquad s x.id x.q)
         x.trap s d.1 x.q.em (trapVals x.q.em fun _ => BitVec.ofNat 64 d.2))
    else flagRoom s x fun s =>
      lanePush x s 0 (launchEntry (srcVal x.q o 0 64 o.a 0) (srcVal x.q o 0 64 o.b 0) t.index (depth + 1)) true [] []

/-! ### Spine forms -/

/-- The answer to a spine queue operation. -/
def spineAns (s0 : State) (t : Nat) (sp : Spine) (n : Nat) (res : State × QAns) (k : State → QAns → State) : State :=
  match res with
  | (s, .trap code va) => spineTrap s t code (BitVec.ofNat 64 va)
  | (s, .fault kd d h p va acc) => spineFault s t (rqSpine s0 sp) .exec kd d h p va acc
  | (s, .held) => spineWait (keepSaid s0 s) t .hold none
  | (s, .wait) => modSpine s t fun sp => { sp with wait := .queue n }
  | (s, a) => k (escape s t) a

/-- The thread goes on after an answer; `d` takes 1 or 0 for `.try`. -/
def spineTried (s : State) (t : Nat) (d : Option (BitVec 6)) (ok : Bool) : State :=
  match d with
  | some d => spineSet s t d (if ok then 1 else 0)
  | none => modSpine s t retire

/-- Merged stores of a spine thread that its drain has left: in the buffer, or as requests. -/
def spineMerged (s : State) (t : Nat) : Bool := mergedLeft s (.spine t) || s.reqs.any fun r => r.who == .merged t

/-- A release by a spine thread waits for its writes to homes outside, and drains its write-combining entries, waiting for
those that cannot be drained (04 R98, 10 R240, R241). -/
def spineRelease (s : State) (t : Nat) (k : State → State) : State :=
  if (writesAway s (.spine t)).isEmpty then
    let s := drainAgent s (.spine t)
    if spineMerged s t then spineWait s t .hold none else k s
  else modSpine (pcieFlush s (.spine t)) t fun sp => { sp with wait := .hold }

/-- A push by a spine thread (R107). -/
def spinePush (s : State) (t : Nat) (sp : Spine) (n : Nat) (entry : List Byte) (launch : Bool) (d : Option (BitVec 6)) :
    State :=
  spineRelease s t fun s =>
  spineAns s t sp n (qPush s (rqSpine s sp) n entry launch d.isSome (.spine t)) fun s a =>
    match a with
    | .reserved _ => spineTried s.fresh t d true
    | _ => spineTried s t d false

/-- Operands of a spine queue operation, checked in the order of their codes: queue number, queue 0 for a push,
alignment (R368, R370). -/
def spineQueue (i : Instr) (push : Bool) (b a : BitVec 6) (s : State) (k : Nat → Spine → Nat → Dword → State) : Outcome :=
  spineEnter s fun t sp =>
    let n := (getX sp a).toNat
    let va := getX sp b
    if n > 1023 then spineIllop s t i
    else if push ∧ n = 0 then spineTrap s t tPriv 0
    else if va.toNat % 64 ≠ 0 then spineTrap s t tMisalign va
    else k t sp n va

/-- R370: push the 64 bytes at x[B] to queue x[A]. -/
def execSpineQpush (b a : BitVec 6) (s : State) : Outcome :=
  spineQueue (.spineQpush b a) true b a s fun t sp n va =>
    spineRead s t sp va 64 fun s bs => spinePush s t sp n bs false none

/-- R370: push, or report 0 when the window is full. -/
def execSpineQpushTry (b a d : BitVec 6) (s : State) : Outcome :=
  spineQueue (.spineQpushTry b a d) true b a s fun t sp n va =>
    spineRead s t sp va 64 fun s bs => spinePush s t sp n bs false (some d)

/-- A pop by a spine thread: first ownership of the destination, or for one homed on the host or a peer its consent; then the
pop and its write, which the thread awaits. -/
def spinePop (s : State) (t : Nat) (sp : Spine) (n : Nat) (va : Dword) (d : Option (BitVec 6)) : State :=
  let r := rqSpine s sp
  let done (s : State) : State := spineTried s t d true
  let pop (s : State) : State :=
    spineAns s t sp n (qPop s r n d.isSome) fun s a =>
      match a with
      | .popped bs => spineKept s t sp va bs done
      | _ => spineTried s t d false
  spineKeeps s t sp va done
    (match sp.resp with
     | some _ => pop s
     | none =>
       match ownBytes s r va.toNat 64 with
       | (s', .done) => pop s'
       | (s', .remote h) => spineGot s s' t sp accStore (.read 64) va (.remote h) [] fun s _ => s
       | (s', a) => spineGot s s' t sp accStore (.write (zeros 64)) va a [] fun s _ => s)

/-- R370: pop an entry of queue x[A] to x[B]. -/
def execSpineQpop (b a : BitVec 6) (s : State) : Outcome :=
  spineQueue (.spineQpop b a) false b a s fun t sp n va => spinePop s t sp n va none

/-- R370: pop, or report 0 when the queue is empty. -/
def execSpineQpopTry (b a d : BitVec 6) (s : State) : Outcome :=
  spineQueue (.spineQpopTry b a d) false b a s fun t sp n va => spinePop s t sp n va (some d)

/-- R369: push a child grid onto queue 0; the spine thread is always the leader. -/
def execSpineLaunch (b a : BitVec 6) (s : State) : Outcome :=
  spineEnter s fun t sp =>
    let team := teamOf s t
    let depth := (gridOf s team).depth
    if depth ≥ 9 then
      (match depthFault s (rqSpine s sp) with
       | some (.fault k d h p va acc) => spineFault s t (rqSpine s sp) .exec k d h p va acc
       | _ =>
         let d := depthTrap s (rqSpine s sp)
         spineTrap s t d.1 (BitVec.ofNat 64 d.2))
    else spinePush s t sp 0 (launchEntry (getX sp a).toNat (getX sp b).toNat team.index (depth + 1)) true none

/-- R363: push a service entry to `COMPQ`. -/
def execSvc (c : BitVec 8) (a : BitVec 6) (s : State) : Outcome :=
  spineEnter s fun t sp =>
    let index := (teamOf s t).index
    let entry := bytesOf 2 (0x8000 + c.toNat) ++ zeros 2 ++ bytesOf 4 index ++ bytesOf 8 (getX sp a).toNat
      ++ bytesOf 4 (index / 2 ^ 32) ++ zeros 44
    spinePush s t sp (ccb s (slotOf s t) 0x2C 4) entry false none

end Sys2Proof.Machine
end

