-- ==== Sys2Proof/Machine/Matrix.lean ====
section
/-! DEFINITION. Matrix and tensor instructions, class 6 (18 R433 to R448): their checks, posting, latch and captured
operands; passes, steps, the transfer port and completion tokens of the engine (11 R244, R249 to R253, 18 R434, R435,
06 R153); hangs and engine reset (11 R263, R264). -/

namespace Sys2Proof.Machine

/-! ### What an instruction names -/

def dstTile (o : LaneOp) : Nat := match o.dst with | .sp n => n.toNat | _ => 0

def isAff (o : LaneOp) : Bool := o.md.getLsbD 0

/-- Tiles that an instruction reads or writes. -/
def mopTiles : Instr → List Nat
  | .mma o | .mml o => if isAff o then [dstTile o, dstTile o + 1] else [dstTile o]
  | .mmz o | .mmld o | .mmst o => if o.ty = .afp then [dstTile o, dstTile o + 1] else [dstTile o]
  | .mmrd o => [o.imm.toNat % 16]
  | .mmwr o => [dstTile o]
  | .scan o => [dstTile o, dstTile o + 1]
  | .tstat o => [o.md.toNat % 16]
  | _ => []

def mopCarries : Instr → List Nat
  | .scan o | .cset o | .csetId o | .cget o => [o.imm.toNat % 8]
  | _ => []

/-- The instruction reads the tiles that it names. -/
def mopReads : Instr → Bool
  | .mmz _ | .mmld _ | .mmwr _ => false
  | _ => true

/-- The instruction runs steps on an array (18 R434). -/
def runsSteps : Instr → Bool
  | .mma _ | .mml _ | .scan _ => true
  | _ => false

/-- Two operations name a tile or a carry in common. -/
def meets (i j : Instr) : Bool :=
  (mopTiles i).any (mopTiles j).contains || (mopCarries i).any (mopCarries j).contains

def tileOf (q : Squad) (n : Nat) : Tile := mgetD q.tiles n {}
def carryOf (q : Squad) (n : Nat) : Carry := mgetD q.carries n {}
def setTile (n : Nat) (t : Tile) (q : Squad) : Squad := { q with tiles := mset q.tiles n t }
def setCarry (n : Nat) (c : Carry) (q : Squad) : Squad := { q with carries := mset q.carries n c }

/-! ### Issue checks (18 R433) -/

/-- Every tile and carry that the instruction names lies within the squad's allocation (07 R177). -/
def allocated (s : State) (q : Squad) (i : Instr) : Bool :=
  let r := lrOf s q.team
  q.originIdx && (mopTiles i).all (fun n => decide (n < r.tiles)) && (mopCarries i).all fun n => decide (n < r.carries)

/-- A tile's kind in its posted state, where it is valid, passes a test (11 R246). -/
def kindOk (q : Squad) (n : Nat) (p : TileKind → Bool) : Bool :=
  let t := tileOf q n
  !t.pvalid || p t.pkind

/-- Kinds of the tiles that an instruction names. -/
def kindsOk (q : Squad) (i : Instr) : Bool :=
  match i with
  | .mma o | .mml o =>
    if isAff o then kindOk q (dstTile o) (· == .gain) && kindOk q (dstTile o + 1) (· == .offset)
    else kindOk q (dstTile o) fun k => (k == .i32) == o.ty.accInt
  | .mmst o =>
    (match o.ty with
     | .f32 => kindOk q (dstTile o) (· != .i32)
     | .bf16x2 => kindOk q (dstTile o) (· == .fp32)
     | .i32 => kindOk q (dstTile o) (· == .i32)
     | _ => kindOk q (dstTile o) (· == .gain) && kindOk q (dstTile o + 1) (· == .offset))
  | .mmrd o => kindOk q (o.imm.toNat % 16) fun k => (k == .i32) == (o.ty == .i32)
  | .scan o => kindOk q (dstTile o) (· == .gain) && kindOk q (dstTile o + 1) (· == .offset)
  | _ => true

/-- A tile or carry is lost. -/
def isLost (q : Squad) (i : Instr) : Bool :=
  (mopTiles i).any (fun n => (tileOf q n).lost) || (mopCarries i).any fun n => (carryOf q n).lost

/-- The checks of a matrix instruction past its encoding, in their order; `bad` holds those of its own operands, `mis` a
misaligned address. -/
def matCheck (s : State) (x : Lx) (bad : Bool) (mis : Option Nat) (k : State) : State :=
  if !x.o.unguarded || !allocated s x.q x.i || !kindsOk x.q x.i || bad then x.illop s
  else match mis with
    | some va => x.trap s tMisalign x.q.em (trapVals x.q.em fun _ => BitVec.ofNat 64 va)
    | none =>
      if x.q.em ≠ 0xFFFFFFFF ∨ x.q.pm ≠ 0xFFFFFFFF then x.trap s tPartial x.q.em
      else if isLost x.q x.i then x.trap s tTilelost x.q.em
      else k

/-! ### Posting (11 R249, 06 R153) -/

/-- Cluster of an operation. -/
def mopCluster (s : State) (m : MOp) : Nat := match squadAny s m.squad with | some q => clusterOf q.core | none => 0

/-- The operation's tiles are in the engine: its team is not away. -/
def mopHere (s : State) (m : MOp) : Bool :=
  match squadAny s m.squad with
  | some q =>
    let t := teamOf s q.team
    (match t.state with
     | .resident | .migrating | .exited | .retired => true
     | .swapped => t.stopping
     | _ => false)
  | none => false

/-- Operations in a cluster's reservation table. -/
def engineOps (s : State) (cl : Nat) : List MOp := s.mops.filter fun m => mopCluster s m == cl && mopHere s m

/-- Posted state of the tiles that an operation writes. -/
def postTiles (ds : List (Nat × TileKind)) (q : Squad) : Squad :=
  ds.foldl (fun q d => setTile d.1 { tileOf q d.1 with pvalid := true, pkind := d.2 } q) q

def modMop (s : State) (id : Nat) (f : MOp → MOp) : State :=
  { s with mops := s.mops.map fun m => if m.id = id then f m else m }

/-- Add an operation to its engine's table; the engine's watch starts with the first one outstanding. -/
def addMop (s : State) (cl : Nat) (m : MOp) : State :=
  let idle := (engineOps s cl).isEmpty
  let held := if mopReads m.instr then
      (s.mops.filter fun k => k.squad == m.squad && (mopTiles k.instr).any (mopTiles m.instr).contains).map (·.id)
    else []
  let s := if idle then modCluster s cl fun c => { c with lastToken := s.timeNs.toNat } else s
  { s with mops := s.mops ++ [{ m with held := held }] }

/-- Requests of a matrix operation (10 R222). -/
def rqMop (s : State) (m : MOp) : Rq :=
  match squadAny s m.squad with
  | some q => { rqSquad s m.squad q with agent := .none, l1 := false, mop := some m.id }
  | none => { die := 0, cluster := 0, slot := 0, asid := 0, agent := .none, l1 := false }

/-- `REQ` of the fault record of a read: a codec unit's, or its engine's (03 R76). -/
abbrev reqCodec : Nat := 4
abbrev reqMatrix : Nat := 3
abbrev reqCopy : Nat := 2

/-- An access of an operation that waits: held, parked for a verdict, or sent away. -/
def parkMop (s0 s : State) (m : MOp) (acc va : Nat) (kind : ReqKind) (a : Acc) (codec : Bool := false) : State :=
  let r := rqMop s0 m
  let q : Req := { id := 0, who := .matrix m.id, kind := kind, asid := r.asid, va := BitVec.ofNat 64 va, st := .sent,
                   die := r.die, slot := r.slot, acc := acc, code := if codec then some reqCodec else none }
  match a with
  | .fault _ _ _ _ => modMop (parkAcc s q a) m.id fun x => { x with parked := some s.nextId }
  | .remote h => modMop (sendRemote s { q with hme := h }) m.id fun x => { x with parked := some s.nextId }
  | _ => keepSaid s0 s

/-- One entry, if it has not been read: its new value, or the access that waits. -/
def loadEntry (s : State) (r : Rq) (e : Entry) (n : Nat) : State × Entry × Acc :=
  match e with
  | .unread => entryRead s r n
  | e => (s, e, .done)

/-- Record a fault that is not replayable; the operation that made the access ends on its own (03 R74). -/
def noteFault (s : State) (q : Req) (a : Acc) : State :=
  match a with
  | .fault k _ _ _ => if replayable k then s else parkAcc s q a
  | _ => s

/-- Read what an `mml` has not read of its identifier entries (11 R253). -/
def loadEntries (s : State) (m : MOp) : State :=
  match m.loop with
  | none => s
  | some l =>
    let r := rqMop s m
    let req (n : Nat) : Req := { id := 0, who := .device, kind := .read 64, asid := r.asid, code := some reqMatrix,
                                 va := BitVec.ofNat 64 (tidVa s r.slot n), st := .sent, die := r.die, slot := r.slot }
    let put (s : State) (a b : Entry) : State := modMop s m.id fun x => { x with loop := some { l with enta := a, entb := b } }
    match loadEntry s r l.enta l.tida with
    | (s1, .unread, a) => parkMop s s1 m accLoad (tidVa s r.slot l.tida) (.read 64) a
    | (s1, ea, a) =>
      let s1 := noteFault s1 (req l.tida) a
      match loadEntry s1 r l.entb l.tidb with
      | (s2, .unread, a) => parkMop (put s1 ea .unread) (put s2 ea .unread) m accLoad (tidVa s r.slot l.tidb) (.read 64) a
      | (s2, eb, a) => put (noteFault s2 (req l.tidb) a) ea eb

/-- Post an operation; its long-latency result and flag take the same number. The issue of a matrix instruction is a
release (10 R232, R234); that of `tstat` is not. -/
def matPost (s : State) (x : Lx) (reads frees : List Nat) (regs : Nat) (res : Result) (m : MOp)
    (post : Squad → Squad := id) (release : Bool := true) : State :=
  let cl := clusterOf x.q.core
  let orders (k : State → State) : State :=
    acquireGate s x.id x.q fun s => if release then laneRelease s x k else k s
  if (engineOps s cl).length ≥ 64 then setWait s x.id .hold
  else longReady s x regs fun _ => orders fun s =>
    let n := s.nextId
    let m := { m with id := n, squad := x.id, instr := x.i, tpc := x.q.pos, em := x.q.em, flag := flagOf x.q x.o.fs }
    let s := finishLong s x reads frees { res with ready := false } fun q => postTiles m.dests (post q)
    loadEntries (addMop s cl m) m

/-- An operation to fill in. -/
def newMop : MOp := { id := 0, squad := 0, instr := .nop default, tpc := 0, em := 0, flag := none }

/-! ### Tokens (11 R250, R251, 18 R435) -/

/-- The completion token: the result lands, the flag falls, the entry frees. -/
def mopToken (s : State) (m : MOp) (vals : List Lanes) : State :=
  let cl := mopCluster s m
  let s := { s with
    mops := s.mops.filter fun k => k.id != m.id
    reqs := s.reqs.filter fun r => r.who != .matrix m.id
    pops := mmod s.pops m.id fun p => { p with ready := true, vals := if vals.isEmpty then p.vals else vals } }
  let s := landPop (codecForget s m.id) m.id
  let s := modCluster s cl fun c => { c with lastToken := s.timeNs.toNat }
  match mget s.away m.squad with
  | some q => stayAway { s with away := mdel s.away m.squad } m.squad q q.kept
  | none => s

/-- Causes of error tokens (11 R247) as trap codes. -/
def causeCode (c : Nat) : Byte :=
  match c with
  | 1 => tOverread
  | 2 => tMemfault
  | 3 => tPoison
  | 4 => tCodecsum
  | _ => tTilelost

/-- A tile that an operation with an error token names. -/
def markError (c : Nat) (t : Tile) : Tile := if t.ecause = 0 then { t with ecause := BitVec.ofNat 4 c } else t

/-- What a retry posts again: captured operands and progress, with the identifier entries to be read anew (13 R301). -/
def retryMop (m : MOp) (p : Option POp) : MOp :=
  { m with granted := 0, array := none, parked := none, resp := [], held := []
           dst := p.elim .none (·.dst), lanes := p.elim 0 (·.lanes), vals := p.elim [] (·.vals)
           loop := m.loop.map fun l => { l with enta := .unread, entb := .unread } }

/-- An error token: cause on the tiles, the posted kind stands, and a deferred trap waits to be observed. -/
def mopError (s : State) (m : MOp) (cause : Nat) (aux : Dword) : State :=
  let tr : Trap := { code := causeCode cause, tlm := m.em, aux := aux, tpc := m.tpc, word := laneWordOf m.instr,
                     deferred := true, retry := .matrix (retryMop m (mget s.pops m.id)) }
  let s := modSquad s m.squad fun q =>
    let q := m.dests.foldl (fun q d => setTile d.1 { tileOf q d.1 with valid := true, kind := d.2 } q) q
    let q := (if m.dests.isEmpty then mopTiles m.instr else m.dests.map (·.1)).foldl
      (fun q n => setTile n (markError cause (tileOf q n)) q) q
    if q.live then { q with unseen := q.unseen ++ [⟨m.id, m.flag, tr⟩] } else q
  let free : List Lanes := match mget s.pops m.id with
    | some p =>
      let takes (l : Nat) : Bool := match p.dst with | .g _ _ _ => true | _ => inMask p.lanes l
      p.vals.zipIdx.map fun v => (List.range v.1.length).map fun l =>
        if takes l then (Config.free64 s.freeNo (32 * v.2 + l)).setWidth 32 else laneAt v.1 l
    | none => []
  mopToken s m free

/-- An access of an operation that did not succeed; a fault that is not replayable ends it once its record is posted (03 R74, 05
R111). -/
def mopAcc (s0 s : State) (m : MOp) (acc va : Nat) (kind : ReqKind) (a : Acc) (codec : Bool := false) : State :=
  match a with
  | .done => s
  | .poison => mopError s m 3 0
  | a => parkMop s0 s m acc va kind a codec

/-- An operation leaves the scoreboard: the errors that held it are observed (11 R250, 13 R301). -/
def leaveBoard (s : State) (m : MOp) : State := observe s m.squad fun e => m.held.contains e.op

/-- Nothing posted earlier holds the operation, and it may be performed: the team is not stopped or away (11 R261). -/
def mopReady (s : State) (m : MOp) : Bool :=
  m.parked.isNone
  && !(s.mops.any fun k => decide (k.id < m.id) && k.squad == m.squad && meets k.instr m.instr)
  && (match squadAny s m.squad with
      | some q => (let t := teamOf s q.team
                   (t.state == .resident && !t.stopping) || t.state == .exited || t.state == .retired)
      | none => false)

/-! ### Passes and steps (11 R244, 06 R153) -/

/-- Steps that an operation has still to make. -/
def stepsLeft (m : MOp) : Nat := match m.loop with | some l => l.remain | none => 1

/-- The candidate of highest priority, then age: operations stand in order of posting. -/
def bestMop (s : State) (l : List MOp) : Option MOp :=
  let prio (m : MOp) : Nat := match squadAny s m.squad with | some q => (lrOf s q.team).prio | none => 0
  let top := l.foldl (fun p m => Nat.max p (prio m)) 0
  l.find? fun m => prio m == top

/-- R153, R244: grant one pass to the entry of highest priority and age, on an array that is free. -/
def execMatrixPassGrant (s : State) : Outcome :=
  .next (
    let cl := s.arg.cluster
    let ops := engineOps s cl
    match (List.range 4).find? fun a => !(ops.any fun m => m.array == some a) with
    | none => s
    | some a =>
      match bestMop s (ops.filter fun m => runsSteps m.instr && m.array.isNone && mopReady s m) with
      | none => s
      | some m => leaveBoard (modMop s m.id fun m => { m with granted := Nat.min 16 (stepsLeft m), array := some a }) m)

/-- A team's operations are brought to the quiescent point: of a pass, only the step under way is finished (11 R261). -/
def stopPasses (s : State) (team : Nat) : State :=
  { s with mops := s.mops.map fun m =>
      if (squadAny s m.squad).map (·.team) = some team then { m with granted := Nat.min 1 m.granted } else m }

/-- A step is done: the pass goes on, or competes again, or the token is sent. -/
def stepDone (s : State) (m : MOp) (loop : Option LoopRec) : State :=
  let m' := { m with loop := loop, granted := m.granted - 1, resp := [] }
  let left := match loop with | some l => l.remain | none => 0
  if left = 0 then mopToken s m []
  else modMop s m.id fun _ => if m'.granted = 0 then { m' with array := none } else m'

/-- Update the tile that a product accumulates into. -/
def accumulateIn (s : State) (m : MOp) (t : LType) (aff : Bool) (a b : Operand) : State :=
  m.dests.foldl (fun s d => modSquad s m.squad fun q =>
    let tile := tileOf q d.1
    setTile d.1 (tile.accumulate d.2 (matStep t aff a b tile.elems)) q) s

/-- The step of an `mma` (18 R437, R438, 08 R194). -/
def mmaStep (s : State) (m : MOp) (o : LaneOp) (team : Nat) : State :=
  let r := m.ops.getD 0 0
  let off := m.ops.getD 1 0
  let n := bBytes o.ty + 32 * scaleBlocks o.ty
  let g := (teamOf s team).seg r
  let bs := blocksOf off n
  let s := lsServe s (teamOf s team) r lsFar bs
  if bs.any fun b => g.state b == .drained then
    mopError (modCluster s (mopCluster s m) fun c => { c with clOverRead := c.clOverRead + 1 }) m 1 0
  else
    let b := operandB o.ty (g.read off n)
    let s := modSeg s team r fun g => bs.foldl Segment.consume g
    stepDone (accumulateIn s m o.ty (isAff o) (operandA o.ty m.rows m.scales) b) m none

/-- Coordinates of a logical offset in a tensor of at most two dimensions; idx is the element's number in its run
(18 R439). -/
def coordsOf (t : Tid) (l : Int) (idx : Nat) : Option (Nat × Nat) :=
  if l < 0 then none
  else
    let w := tenW t.fmt
    let pitch := 16 * t.stride.getD 1 0
    let c1 := if pitch = 0 then 0 else l.toNat / pitch
    let rem := if pitch = 0 then l.toNat else l.toNat % pitch
    let c0 := if w = 4 then 2 * rem + idx % 2 else rem / (w / 8)
    if c0 < t.size.getD 0 1 ∧ c1 < t.size.getD 1 1 then some (c0, c1) else none

/-- Logical offset of element (i, j), j along dimension 0, from a start. -/
def mmlOff (t : Tid) (start : Int) (i j : Nat) : Int := start + (j * tenW t.fmt / 8 : Nat) + 16 * (t.stride.getD 1 0 * i : Nat)

/-- Logical bytes of an element inside the tensor. -/
def elemBytes (t : Tid) (start : Int) (i j : Nat) : List Nat :=
  let l := mmlOff t start i j
  match coordsOf t l j with
  | some _ => if tenW t.fmt = 16 then [l.toNat, l.toNat + 1] else [l.toNat]
  | none => []

/-- Address of the scale of an element inside the tensor. -/
def scaleAt (t : Tid) (start : Int) (i j : Nat) : Option Nat :=
  (coordsOf t (mmlOff t start i j) j).map fun c => t.scale + c.1 / 32 + t.aux * c.2

/-- An element as it is read: zero outside the tensor. -/
def elemOf (t : Tid) (byte : Nat → Byte) (start : Int) (i j : Nat) : Nat :=
  match elemBytes t start i j with
  | [] => 0
  | l :: rest =>
    let v := (byte l).toNat + (match rest with | h :: _ => 256 * (byte h).toNat | [] => 0)
    if tenW t.fmt = 4 then v / 2 ^ (4 * (j % 2)) % 16 else v

def scaleOf (t : Tid) (byte : Nat → Byte) (start : Int) (i j : Nat) : Nat :=
  match scaleAt t start i j with
  | some a => (byte a).toNat
  | none => 0x7F

/-- Rows and columns of an operand: `n` rows of `k` elements along dimension 0. -/
def gridOf2 (n k : Nat) (f : Nat → Nat → List Nat) : List Nat :=
  ((List.range n).map fun i => ((List.range k).map fun j => f i j).flatten).flatten

/-- Operands A and B of a step of `mml`, once their bytes are there (18 R439). -/
def mmlOperands (t : LType) (ta tb : Tid) (fa pa fb pb : Nat → Byte) (a b : Int) : Operand × Operand :=
  let k := stepK t
  let nq := scaleBlocks t
  ({ elems := laneIdx.map fun i => (List.range k).map fun x => elemOf ta fa a i x
     scales := laneIdx.map fun i => (List.range nq).map fun q => scaleOf ta pa a i (32 * q) },
   { elems := laneIdx.map fun j => (List.range k).map fun x => elemOf tb fb b x j
     scales := laneIdx.map fun j => (List.range nq).map fun q => scaleOf tb pb b (32 * q) j })

/-- A read of tensor bytes that did not succeed. -/
def mopTensor (s0 s : State) (m : MOp) (a : TenAns) : State :=
  match a with
  | .ok => s
  | .acc a l codec => mopAcc s0 s m accLoad (32 * l) (.read 32) a codec
  | .codecsum b => mopError s m 4 (BitVec.ofNat 64 (b % 2 ^ 32))

/-- The entry names a tensor that the type can be taken from. -/
def mmlTid (t : LType) (e : Entry) : Option Tid := e.tid.filter fun d => decide (d.rank ≤ 2) && d.fmt == t

/-- The step of an `mml` (11 R253, 18 R439). -/
def mmlStep (s : State) (m : MOp) (o : LaneOp) (l : LoopRec) : State :=
  match l.enta, l.entb with
  | .poison, _ => mopError s m 3 0
  | .fault k, _ => mopError s m 2 (BitVec.ofNat 64 k)
  | _, .poison => mopError s m 3 0
  | _, .fault k => mopError s m 2 (BitVec.ofNat 64 k)
  | .unread, _ => loadEntries s m
  | _, .unread => loadEntries s m
  | ea, eb =>
    match mmlTid o.ty ea, mmlTid o.ty eb with
    | some ta, some tb =>
      let k := stepK o.ty
      let nq := scaleBlocks o.ty
      let a := l.aaddr.toInt
      let b := l.baddr.toInt
      let r := rqMop s m
      let bytesA := gridOf2 32 k (elemBytes ta a)
      let bytesB := gridOf2 k 32 (elemBytes tb b)
      (match readTensor s r m.resp ta bytesA
          (gridOf2 32 nq fun i q => (scaleAt ta a i (32 * q)).toList) with
       | (s1, .ok, fa, pa) =>
         (match readTensor s1 r m.resp tb bytesB
             (gridOf2 nq 32 fun q j => (scaleAt tb b (32 * q) j).toList) with
          | (s2, .ok, fb, pb) =>
            let ops := mmlOperands o.ty ta tb fa pa fb pb a b
            let s2 := ecbDelivered (ecbDelivered s2 r ta bytesA) r tb bytesB
            stepDone (accumulateIn s2 m o.ty (isAff o) ops.1 ops.2) m
              (some { l with remain := l.remain - 1, done := l.done + 1, aaddr := l.aaddr + BitVec.ofInt 64 ta.inc
                             baddr := l.baddr + BitVec.ofInt 64 tb.inc })
          | (s2, x, _, _) => mopTensor s s2 m x)
       | (s1, x, _, _) => mopTensor s s1 m x)
    | _, _ => mopError s m 2 0x10

/-- The scan of a pair with its carry (11 R259, 18 R443). -/
def scanStep (s : State) (m : MOp) (o : LaneOp) : State :=
  let d := dstTile o
  let c := o.imm.toNat % 8
  let mask : Word := BitVec.ofNat 32 (m.ops.getD 0 0)
  let s := modSquad s m.squad fun q =>
    let tg := tileOf q d
    let tO := tileOf q (d + 1)
    let ch := scanPair tg.elems tO.elems mask (carryOf q c).get
    let all := ch.flatten
    let g := { tg.put .gain (fromChannels (·.g) ch) with
      gu := tg.gu || all.any (·.gu), of := tg.of || all.any (·.of), nv := tg.nv || all.any (·.nv) }
    let last := ch.map fun rows => match rows[31]? with | some x => (x.g, x.o) | none => (0, 0)
    setCarry c { carryOf q c with pairs := last } (setTile (d + 1) (tO.put .offset (fromChannels (·.o) ch)) (setTile d g q))
  stepDone s m none

/-- R244: an array completes one step of its pass. A step of a lost tile ends its operation. -/
def execMatrixStepComplete (s : State) : Outcome :=
  .next (match s.mops.find? fun m => m.id == s.arg.id && decide (0 < m.granted) && m.parked.isNone with
  | none => s
  | some m =>
    match squadAny s m.squad with
    | none => s
    | some q =>
      if isLost q m.instr then mopError s m 5 0
      else match m.instr, m.loop with
        | .mma o, _ => mmaStep s m o q.team
        | .mml o, some l => mmlStep s m o l
        | .scan o, _ => scanStep s m o
        | _, _ => s)

/-! ### The transfer port (18 R434, R440 to R445) -/

/-- Bytes that `mmst` writes of its tiles. -/
def mmstBytes (q : Squad) (o : LaneOp) : List Byte :=
  let t := tileOf q (dstTile o)
  match o.ty with
  | .bf16x2 => (t.elems.map fun x => bytesOf 2 (fBf16.ofVal .rne false (fB32.dec x.toNat)).bits).flatten
  | .afp =>
    ((t.elems.zip (tileOf q (dstTile o + 1)).elems).map fun p => bytesOf 4 p.1.toNat ++ bytesOf 4 p.2.toNat).flatten
  | _ => (t.elems.map fun x => bytesOf 4 x.toNat).flatten

/-- Bytes of a whole tile of a type. -/
def tileBytes (t : LType) : Nat := match t with | .bf16x2 => 2048 | .afp => 8192 | _ => 4096

/-- Tiles after `mmld` of bytes. -/
def mmldPut (o : LaneOp) (bs : List Byte) (q : Squad) : Squad :=
  let ws := (chunks 4 2048 bs).map fun b => BitVec.ofNat 32 (fieldOf b 0 4)
  let d := dstTile o
  match o.ty with
  | .afp =>
    let ps := chunks 2 1024 ws
    setTile (d + 1) ((tileOf q (d + 1)).put .offset (ps.map fun p => p.getD 1 0))
      (setTile d ((tileOf q d).put .gain (ps.map fun p => p.getD 0 0)) q)
  | .i32 => setTile d ((tileOf q d).put .i32 ws) q
  | _ => setTile d ((tileOf q d).put .fp32 ws) q

/-- Lines that `mmst` has still to write; it goes on after one that must wait. -/
def mmstLines (r : Rq) (va : Nat) (bs : List Byte) :
    List Nat → State → FMap (List Byte) → State × Acc × Nat × FMap (List Byte)
  | [], s, done => (s, .done, 0, done)
  | l :: ls, s, done =>
    if (mget done l).isSome then mmstLines r va bs ls s done
    else match storeRange s r (32 * l) ((bs.drop (32 * l - va)).take 32) with
      | (s, .done) => mmstLines r va bs ls s (mset done l [])
      | (s, a) => (s, a, l, done)

/-- `mmld` and `mmst` of memory; local store in one piece (18 R441). -/
def moveTile (s : State) (m : MOp) (q : Squad) (o : LaneOp) (load : Bool) : State :=
  let n := tileBytes o.ty
  let va := m.ops.getD 0 0
  let r := rqMop s m
  if o.md.getLsbD 0 then
    let off := m.ops.getD 1 0
    if load then mopToken (modSquad s m.squad (mmldPut o (((teamOf s q.team).seg va).read off n))) m []
    else mopToken (modSeg s q.team va fun g => g.write off (mmstBytes q o)) m []
  else if load then
    match readLines r m.resp (linesOf va n) s [] with
    | (s', .done, _, got) => mopToken (modSquad s' m.squad (mmldPut o (lineBytes got va n))) m []
    | (s', a, l, _) => mopAcc s s' m accLoad (32 * l) (.read 32) a
  else
    let bs := mmstBytes q o
    match mmstLines r va bs (linesOf va n) s m.resp with
    | (s', .done, _, _) => mopToken s' m []
    | (s', a, l, done) =>
      mopAcc (modMop s' m.id fun m => { m with resp := done }) (modMop s' m.id fun m => { m with resp := done })
        { m with resp := done } accStore (32 * l) (.write ((bs.drop (32 * l - va)).take 32)) a

/-- Elements of a column group. -/
def mmrdVals (t : Tile) (g : Nat) : List Lanes :=
  let d := t.elems
  (List.range 8).map fun r => lanesFrom fun i => d.getD (32 * i + 8 * g + r) 0

/-- A tile with a column group replaced. -/
def mmwrElems (t : Tile) (g : Nat) (rows : List Lanes) : List Word :=
  t.elems.zipIdx.map fun x =>
    let j := x.2 % 32
    if j / 8 = g then laneAt (rows.getD (j % 8) []) (x.2 / 32) else x.1

/-- The kind that `mmwr` sets. -/
def mmwrKind (o : LaneOp) : TileKind :=
  match (o.md.extractLsb' 0 2).toNat with
  | 2 => .gain
  | 3 => .offset
  | _ => if o.ty = .i32 then .i32 else .fp32

/-- Tiles that `mmz` sets, with their kinds. -/
def mmzKinds (o : LaneOp) : List (Nat × TileKind) :=
  match o.ty with
  | .afp => [(dstTile o, .gain), (dstTile o + 1, .offset)]
  | .i32 => [(dstTile o, .i32)]
  | _ => [(dstTile o, .fp32)]

/-- A tile after `mmz`: the identity or zero, and its W1C fields clear. -/
def mmzTile (k : TileKind) (t : Tile) : Tile :=
  (t.put k (if k = .gain then List.replicate 1024 oneF32 else [])).clear 0xF03E0

/-- The transfer port performs an operation. -/
def transfer (s : State) (m : MOp) (q : Squad) : State :=
  match m.instr with
  | .mmz o => mopToken (modSquad s m.squad fun q => (mmzKinds o).foldl (fun q d => setTile d.1 (mmzTile d.2 (tileOf q d.1)) q) q) m []
  | .mmld o => moveTile s m q o true
  | .mmst o => moveTile s m q o false
  | .mmrd o => mopToken s m (mmrdVals (tileOf q (o.imm.toNat % 16)) (bitsOf o.imm.toNat 4 2))
  | .mmwr o =>
    let t := tileOf q (dstTile o)
    mopToken (modSquad s m.squad (setTile (dstTile o) (t.put (mmwrKind o) (mmwrElems t (o.imm.toNat % 4) m.rows)))) m []
  | .cset o =>
    let c := o.imm.toNat % 8
    let ps := laneIdx.map fun l => (laneAt (m.rows.getD 0 []) l, laneAt (m.rows.getD 1 []) l)
    mopToken (modSquad s m.squad (setCarry c { carryOf q c with pairs := ps })) m []
  | .csetId o =>
    let c := o.imm.toNat % 8
    mopToken (modSquad s m.squad (setCarry c { carryOf q c with pairs := [] })) m []
  | .cget o =>
    let ps := (carryOf q (o.imm.toNat % 8)).get
    mopToken s m [ps.map (·.1), ps.map (·.2)]
  | .tstat o =>
    let n := o.md.toNat % 16
    let t := tileOf q n
    let infl := s.mops.any fun k => k.id != m.id && k.squad == m.squad && (mopTiles k.instr).contains n
    let v : Word := BitVec.ofNat 32 (t.status infl)
    let s := modSquad s m.squad (setTile n (t.clear (m.ops.getD 0 0)))
    let s := { s with pops := mmod s.pops m.id fun p => match p.dst with
      | .g _ _ _ => { p with vals := [[v, 0]] }
      | _ => { p with vals := p.vals.map fun x => lanesFrom fun l => if inMask p.lanes l then v else laneAt x l } }
    mopToken s m []
  | _ => s

/-- `tstat` reports a lost tile; every other operation on one ends (07 R177, 18 R445). -/
def endsLost (q : Squad) (i : Instr) : Bool := match i with | .tstat _ => false | i => isLost q i

/-- R434: the transfer port finishes an operation that runs no step. -/
def execTransferPortComplete (s : State) : Outcome :=
  .next (match s.mops.find? fun m => m.id == s.arg.id && !runsSteps m.instr && mopReady s m with
  | none => s
  | some m =>
    let s := leaveBoard s m
    match squadAny s m.squad with
    | none => s
    | some q => if endsLost q m.instr then mopError s m 5 0 else transfer s m q)

/-! ### Hangs and reset (11 R263, R264) -/

/-- R263: an engine with an operation outstanding has sent no token for `MEWDT` ms: it is reported to the SVP. -/
def execEngineHang (s : State) : Outcome :=
  .next (
    let cl := s.arg.cluster
    let ms := (getDie s (dieOfCluster cl)).mewdt.toNat
    if ms ≠ 0 ∧ !(engineOps s cl).isEmpty ∧ (getCluster s cl).lastToken + ms * 1000000 ≤ s.timeNs.toNat then
      modCluster s cl fun c => { c with hung := true }
    else s)

/-- Every tile and carry of a squad is lost; its latch is discarded. -/
def loseTiles (r : LRec) (q : Squad) : Squad :=
  if q.originIdx then
    let q := (List.range r.tiles).foldl (fun q n => setTile n { tileOf q n with lost := true, data := [] } q) q
    let q := (List.range r.carries).foldl (fun q n => setCarry n { lost := true } q) q
    { q with latch := none }
  else q

/-- Squads, with or without threads, whose tiles are in a cluster's engine: those of a team whose image is not written yet
are (11 R262). -/
def engineSquads (s : State) (cl : Nat) : List (Nat × Squad) :=
  (s.squads ++ s.away).filter fun x => clusterOf x.2.core == cl
    && (let t := teamOf s x.2.team
        match t.state with | .resident | .migrating | .exited => true | .swapped => t.stopping | _ => false)

/-- R264: the SVP resets a hung engine. -/
def execEngineReset (s : State) : Outcome :=
  .next (
    let cl := s.arg.cluster
    if (getCluster s cl).hung then
      let ops := engineOps s cl
      let s := (engineSquads s cl).foldl (fun s x => modSquad s x.1 (loseTiles (lrOf s x.2.team))) s
      let s := ops.foldl (fun s m => mopError s m 5 0) s
      modCluster s cl fun c => { c with hung := false }
    else s)

/-! ### Matrix instructions -/

/-- The latch after an `mma`, or none when the form traps `ILLOP` (11 R252). -/
def latchUse (q : Squad) (o : LaneOp) (rows : List Lanes) (scales : Lanes) : Option (Latch × Option Latch) :=
  if o.a.unused then
    match q.latch with
    | some l => if l.ty = o.ty then some (l, if o.k then some l else none) else none
    | none => none
  else
    let l : Latch := ⟨o.ty, rows, scales⟩
    some (l, if o.k then some l else q.latch)

/-- Lane values of consecutive registers. -/
def captureRegs (q : Squad) (idx n : Nat) : List Lanes :=
  (List.range n).map fun r => lanesFrom fun l => BitVec.ofNat 32 (readV q (idx + r) l)

def srcIdx (c : Src) : Nat := match c with | .v idx _ => idx.toNat | _ => 255

/-- A local-store range named by a g register and the offset: rank and offset, or none (18 R433 step 4). -/
def matLs (s : State) (q : Squad) (addr n : Nat) : Option (Nat × Nat) :=
  let t := teamOf s q.team
  lsRange (lrOf s q.team).lskib t.cores.length (ownRank t q.core) (addr % 2 ^ 32) n

/-- gX + sign_extend(IMM24). -/
def matAddr (q : Squad) (o : LaneOp) (c : Src) : Nat :=
  (BitVec.ofNat 64 (srcVal q o 0 64 c 0) + o.imm.signExtend 64 : Dword).toNat

/-- The tile that a product writes, with the kind that it takes (18 R438, 11 R246). -/
def productDests (q : Squad) (o : LaneOp) : List (Nat × TileKind) :=
  if isAff o then [(dstTile o + 1, .offset)]
  else
    let t := tileOf q (dstTile o)
    [(dstTile o, if t.pvalid then t.pkind else if o.ty.accInt then .i32 else .fp32)]

/-- R437, R438: one step from lane rows and local store. -/
def execMma (o : LaneOp) (s : State) : Outcome :=
  let nA := if o.a.unused then 0 else o.ty.aRegs
  let aVs := (List.range nA).map (srcIdx o.a + ·)
  let cVs := srcVs 32 o.c
  let frees := (match o.a with | .v _ true => aVs | _ => []) ++ srcFrees 32 o.c
  laneEnter (.mma o) o { vs := aVs ++ cVs, gs := srcGs o.b } s fun x =>
    let addr := matAddr x.q o o.b % 2 ^ 32
    let scales := lanesFrom fun l => BitVec.ofNat 32 (srcVal x.q o 0 32 o.c l)
    let use := latchUse x.q o (captureRegs x.q (srcIdx o.a) nA) scales
    let place := matLs s x.q addr (bBytes o.ty + 32 * scaleBlocks o.ty)
    matCheck s x (use.isNone || place.isNone) (if addr % 128 = 0 then none else some addr)
      (match use, place with
       | some (l, latch), some (r, off) =>
         matPost s x (aVs ++ cVs) frees 0 {}
           { newMop with rows := l.rows, scales := l.scales, ops := [r, off], dests := productDests x.q o }
           fun q => { q with latch := latch }
       | _, _ => s)

/-- R439, R253: a loop of steps through tensor identifiers. It waits for a `tiset` of the squad that is parked (R446). -/
def execMml (o : LaneOp) (s : State) : Outcome :=
  laneEnter (.mml o) o { gs := srcGs o.a ++ srcGs o.b ++ srcGs o.c } s fun x =>
    let ids := srcVal x.q o 0 64 o.a 0
    let bad := bitsOf ids 10 6 ≠ 0 ∨ bitsOf ids 26 38 ≠ 0
    matCheck s x (decide bad) none
      (if x.q.log.any fun e => match e.instr with | .tiset _ => true | _ => false then setWait s x.id .hold
       else matPost s x [] [] 0 {}
         { newMop with
           dests := productDests x.q o
           loop := some { remain := o.imm.toNat % 8192, tida := bitsOf ids 0 10, tidb := bitsOf ids 16 10
                          aaddr := BitVec.ofNat 64 (srcVal x.q o 0 64 o.b 0)
                          baddr := BitVec.ofNat 64 (srcVal x.q o 0 64 o.c 0) } })

/-- R440: zero, or the identity. -/
def execMmz (o : LaneOp) (s : State) : Outcome :=
  laneEnter (.mmz o) o {} s fun x =>
    matCheck s x false none (matPost s x [] [] 0 {} { newMop with dests := mmzKinds o })

/-- Where `mmld` or `mmst` moves its tile: bad, misaligned, operands. -/
def moveAt (s : State) (x : Lx) : Bool × Option Nat × List Nat :=
  let va := matAddr x.q x.o x.o.a
  if x.o.md.getLsbD 0 then
    match matLs s x.q va (tileBytes x.o.ty) with
    | some (r, off) => (false, none, [r, off])
    | none => (true, none, [])
  else (false, if va % 128 = 0 then none else some va, [va])

/-- R441: load a whole tile. -/
def execMmld (o : LaneOp) (s : State) : Outcome :=
  laneEnter (.mmld o) o { gs := srcGs o.a } s fun x =>
    let p := moveAt s x
    matCheck s x p.1 p.2.1 (matPost s x [] [] 0 {} { newMop with ops := p.2.2, dests := mmzKinds o })

/-- R441: store a whole tile. -/
def execMmst (o : LaneOp) (s : State) : Outcome :=
  laneEnter (.mmst o) o { gs := srcGs o.a } s fun x =>
    let p := moveAt s x
    matCheck s x p.1 p.2.1
      (matPost (if o.md.getLsbD 0 then s else escape s x.q.team) x [] [] 0 {} { newMop with ops := p.2.2 })

/-- R442: a column group to eight lane registers. -/
def execMmrd (o : LaneOp) (s : State) : Outcome :=
  let dv := regDst o.dst 8
  laneEnter (.mmrd o) o { dv := dv } s fun x =>
    matCheck s x false none (matPost s x [] [] 8 (regResult x o.dst 8 0 false) newMop)

/-- R442: a column group from eight lane registers. -/
def execMmwr (o : LaneOp) (s : State) : Outcome :=
  let vs := (List.range 8).map (srcIdx o.a + ·)
  laneEnter (.mmwr o) o { vs := vs } s fun x =>
    matCheck s x false none
      (matPost s x vs (match o.a with | .v _ true => vs | _ => []) 0 {}
        { newMop with rows := captureRegs x.q (srcIdx o.a) 8, dests := [(dstTile o, mmwrKind o)] })

/-- R443: the scan of a pair with a carry. -/
def execScan (o : LaneOp) (s : State) : Outcome :=
  laneEnter (.scan o) o { gs := srcGs o.a } s fun x =>
    matCheck s x false none
      (matPost s x [] [] 0 {}
        { newMop with ops := [srcVal x.q o 0 32 o.a 0], dests := [(dstTile o, .gain), (dstTile o + 1, .offset)] })

/-- R444: a carry from lane registers. -/
def execCset (o : LaneOp) (s : State) : Outcome :=
  let vs := srcVs 64 o.a
  laneEnter (.cset o) o { vs := vs } s fun x =>
    matCheck s x false none
      (matPost s x vs (srcFrees 64 o.a) 0 {} { newMop with rows := captureRegs x.q (srcIdx o.a) 2 })

/-- R444: a carry to the identity. -/
def execCsetId (o : LaneOp) (s : State) : Outcome :=
  laneEnter (.csetId o) o {} s fun x => matCheck s x false none (matPost s x [] [] 0 {} newMop)

/-- R444: a carry to lane registers. -/
def execCget (o : LaneOp) (s : State) : Outcome :=
  let dv := regDst o.dst 2
  laneEnter (.cget o) o { dv := dv } s fun x =>
    matCheck s x false none (matPost s x [] [] 2 (regResult x o.dst 2 0 false) newMop)

/-! ### Tensor instructions -/

/-- R445: a tile's status word; any guard, no mask check, no trap on a lost tile. -/
def execTstat (o : LaneOp) (s : State) : Outcome :=
  let dv := regDst o.dst 1
  laneEnter (.tstat o) o { gs := srcGs o.a, dv := dv } s fun x =>
    if x.act = 0 then finishShort s x [] [] {}
    else if !allocated s x.q x.i then x.illop s
    else matPost s x [] [] dv.length (regResult x o.dst 1 1 false) { newMop with ops := [srcUni x 32 o.a] } id false

/-- The access of `tiset` or `tiget`, past its checks. -/
def tidAccess (s : State) (x : Lx) (n regs : Nat) (reads frees : List Nat) (data : List Word) (res : Result) : State :=
  let r := rqSquad s x.id x.q
  let va : Dword := BitVec.ofNat 64 (tidVa s r.slot n)
  if memGate s x.id x.q x.i r [va.toNat] then setWait s x.id .hold
  else longReady s x regs fun s =>
    issueAccess s x reads frees r (lowLane x.act).toList (fun _ => data) res (fun s _ => s) fun _ => va

/-- R446: write an identifier entry; it counts as a store (06 R160). -/
def execTiset (o : LaneOp) (s : State) : Outcome :=
  let vs := srcVs 32 o.b
  laneEnter (.tiset o) o (usesIfAny s o { vs := vs, gs := srcGs o.a }) s fun x =>
    if x.act = 0 then finishShort s x [] (srcFrees 32 o.b) {}
    else
      let n := srcUni x 64 o.a
      if n > 1023 then x.illop s
      else
        let data := (laneIdx.take 16).map fun l => if inMask x.q.pm l then BitVec.ofNat 32 (srcVal x.q o 0 32 o.b l) else 0
        tidAccess (escape s x.q.team) x n 0 vs (srcFrees 32 o.b) data {}

/-- R446: read an identifier entry: word l mod 16 in lane l. -/
def execTiget (o : LaneOp) (s : State) : Outcome :=
  let dv := regDst o.dst 1
  laneEnter (.tiget o) o { gs := srcGs o.a, dv := dv } s fun x =>
    if x.act = 0 then finishShort s x [] [] {}
    else
      let n := srcUni x 64 o.a
      if n > 1023 then x.illop s else tidAccess s x n dv.length [] [] [] (regResult x o.dst 1 0 false)

/-! ### Prefix deduplication (18 R447, R448) -/

/-- One lane's lookup: the nodes after it, id, found-new, and whether space lacked. -/
def pfxLane (nodes : List (Word × Word)) (a b : Word) : List (Word × Word) × Word × Bool × Bool :=
  if a ≠ 0xFFFFFFFF ∧ ¬ (a.toNat < nodes.length) then (nodes, 0xFFFFFFFF, false, false)
  else
    let k := nodes.idxOf (a, b)
    if k < nodes.length then (nodes, BitVec.ofNat 32 k, false, false)
    else if nodes.length ≥ 4096 then (nodes, 0xFFFFFFFF, false, true)
    else (nodes ++ [(a, b)], BitVec.ofNat 32 nodes.length, true, false)

/-- The active lanes in ascending order. -/
def pfxLanes (a b : Nat → Word) : List Nat → List (Word × Word) → List (Word × Word) × List (Nat × Word × Bool) × Bool
  | [], nodes => (nodes, [], false)
  | l :: ls, nodes =>
    let (nodes, id, f, ovf) := pfxLane nodes (a l) (b l)
    let (nodes, rest, ovf') := pfxLanes a b ls nodes
    (nodes, (l, id, f) :: rest, ovf || ovf')

/-- Prefix operations of one clock are performed by core, partition and slot (18 R447). -/
def pfxTurn (s : State) (x : Lx) : State :=
  let cl := clusterOf x.q.core
  inOrder s (dieOfCluster cl) (ordPfx cl) (hRank s (.squad x.id)) (2 ^ 20)

/-- R447: look up or insert nodes. -/
def execPfxh (o : LaneOp) (s : State) : Outcome :=
  let vs := srcVs 32 o.a ++ srcVs 32 o.b
  let frees := srcFrees 32 o.a ++ srcFrees 32 o.b
  let dv := regDst o.dst 1
  let p := (o.md.extractLsb' 0 3).toNat
  laneEnter (.pfxh o) o (usesIfAny s o { vs := vs, gs := srcGs o.a ++ srcGs o.b ++ srcGs o.c, dv := dv, dp := some p }) s fun x =>
    if x.act = 0 then finishShort s x [] frees {}
    else
      let h := srcUni x 32 o.c
      if h > 7 then x.illop s
      else longReady s x dv.length fun s =>
        let s := pfxTurn s x
        let cl := clusterOf x.q.core
        let val (c : Src) (l : Nat) : Word := BitVec.ofNat 32 (srcVal x.q o 0 32 c l)
        let unit := (mget (getCluster s cl).pfx h).filter fun u => u.slot == slotOf s x.q.team
        let (s, rs, ovf) := match unit with
          | some u =>
            let (nodes, rs, ovf) := pfxLanes (val o.a) (val o.b) (lanesOf x.act) u.nodes
            (modCluster s cl fun c => { c with pfx := mset c.pfx h { u with nodes := nodes } }, rs, ovf)
          | none => (s, (lanesOf x.act).map fun l => (l, (0xFFFFFFFF : Word), false), true)
        let at_ (l : Nat) : Word × Bool := match rs.find? fun r => r.1 == l with | some r => r.2 | none => (0, false)
        let idx := match o.dst with | .v i => i.toNat | _ => 255
        let vals := mergeRegs x.q idx x.act [fun l => (at_ l).1.toNat]
        let res : Result :=
          if p = 7 then { dst := .v idx 1, vals := vals }
          else { dst := .vp idx 1 p, vals := vals, pval := maskOf fun l => (at_ l).2 }
        finishLong s x vs frees res fun q => if ovf then { q with cstat := q.cstat ||| 8 } else q

/-- R447: empty a handle and bind it to the context. -/
def execPfxhClr (o : LaneOp) (s : State) : Outcome :=
  laneEnter (.pfxhClr o) o { gs := srcGs o.c } s fun x =>
    if x.act = 0 then finishShort s x [] [] {}
    else
      let h := srcUni x 32 o.c
      if h > 7 then x.illop s
      else longReady s x 0 fun s =>
        finishLong (modCluster (pfxTurn s x) (clusterOf x.q.core) fun c =>
          { c with pfx := mset c.pfx h ⟨slotOf s x.q.team, []⟩ }) x [] [] {}

/-! ### Verdicts and retries -/

/-- The verdict is replay: the step or move is made again (03 R74). -/
def mopReplay (s : State) (id : Nat) : State := modMop s id fun m => { m with parked := none }

/-- The verdict is unresolvable, or a host or peer home refused. -/
def mopUnresolved (s : State) (id kind : Nat) : State :=
  match s.mops.find? fun m => m.id == id with
  | some m => mopError s m 2 (BitVec.ofNat 64 kind)
  | none => s

/-- A host or peer home has answered a line. -/
def mopAnswer (s : State) (id line : Nat) (bs : List Byte) : State :=
  modMop s id fun m => { m with parked := none, resp := mset m.resp line bs }

/-- Registers of a long-latency destination. -/
def dstCount : LDst → Nat
  | .v _ n | .g _ n _ | .vp _ n _ => n
  | _ => 0

/-- Post a failed operation again, with its flag raised and its destination registers pending (18 R435, 13 R301). -/
def mopRepost (s : State) (m : MOp) : State :=
  match mget s.squads m.squad with
  | none => s
  | some q =>
    let n := s.nextId
    let p : POp := { squad := m.squad, tpc := m.tpc, dst := m.dst, lanes := m.lanes, flag := m.flag, ready := false, core := q.core
                     vals := m.vals, part := q.part }
    let s := modSquad { s with nextId := n + 1, pops := mset s.pops n p } m.squad fun q => { q with v := pendRegs q.v n (popRegs p) }
    let m := { m with id := n, dst := .none, lanes := 0, vals := [] }
    loadEntries (addMop (raiseFlag s m.squad m.flag) (clusterOf q.core) m) m

end Sys2Proof.Machine
end

