-- ==== Sys2Proof/Machine/Copy.lean ====
section
/-! DEFINITION. Copies (18 R449 to R452, 15 R371, 02 R41, 10 R233) and cross-die reductions (18 R453 to R456). -/

namespace Sys2Proof.Machine

/-! ### Progress of a copy (18 R450 to R452) -/

def modCopy (s : State) (id : Nat) (f : Copy → Copy) : State :=
  { s with copies := s.copies.map fun c => if c.id = id then f c else c }

def rqCopy (s : State) (c : Copy) : Rq :=
  { die := dieOfCluster c.cluster, cluster := c.cluster, slot := c.slot, asid := ctxAsid s c.slot, agent := .none, l1 := false,
    copy := some c.id }

/-- Destination grains that an engine holds for a copy are written back (13 R312). -/
def releaseGrains (s : State) (c : Copy) : State :=
  match c.dst with
  | .ls _ _ => s
  | .mem va =>
    let hit (g : Grain) : Bool := g.holder == .copyEngine c.cluster && g.overlaps (ctxAsid s c.slot) va.toNat c.len
    let s := (s.grains.filter hit).foldl flushGrain s
    { s with grains := s.grains.filter fun g => !hit g }

def dropCopy (s : State) (id : Nat) : State :=
  codecForget { s with copies := s.copies.filter fun c => c.id != id, reqs := s.reqs.filter fun r => r.who != .copy id } id

/-- The completion word of a spine copy (15 R371). -/
def copyWord (code blk : Nat) : Nat := blk * 2 ^ 32 + code * 2 ^ 8 + (if code = 0 then 1 else 2)

/-- A request of a copy that waits for a verdict or an answer. -/
def parkCopy (s0 s : State) (c : Copy) (acc va : Nat) (kind : ReqKind) (a : Acc) (codec : Bool := false) : State :=
  let r := rqCopy s0 c
  let q : Req := { id := 0, who := .copy c.id, kind := kind, asid := r.asid, va := BitVec.ofNat 64 va, st := .sent,
                   die := r.die, slot := r.slot, acc := acc, code := if codec then some reqCodec else none }
  match a with
  | .fault _ _ _ _ => modCopy (parkAcc s q a) c.id fun x => { x with parked := some s.nextId }
  | .remote h => modCopy (sendRemote s { q with hme := h }) c.id fun x => { x with parked := some s.nextId }
  | _ => keepSaid s0 s

/-- Record a fault of a copy's or reduction's access that is not replayable (03 R74, R76). -/
def noteCopy (s : State) (r : Rq) (acc va : Nat) (kind : ReqKind) (a : Acc) (codec : Bool := false) : State :=
  noteFault s { id := 0, who := .device, kind := kind, asid := r.asid, va := BitVec.ofNat 64 va, st := .sent, die := r.die,
                slot := r.slot, acc := acc, code := some (if codec then reqCodec else reqCopy) } a

/-- The completion word is written, or cannot be: the copy is over. -/
def writeWord (s : State) (c : Copy) : State :=
  match c.ended with
  | none => s
  | some (code, blk) =>
    let r : Rq := { rqCopy s c with copy := none, mop := some c.id }
    let bs := bytesOf 8 (copyWord code blk)
    match storeRange s r c.word.toNat bs with
    | (s', .done) => wakeSpine (dropCopy s' c.id) c.team
    | (s', .poison) => dropCopy s' c.id
    | (s', a) => parkCopy s s' c accStore c.word.toNat (.write bs) a

/-- A copy ends: code 0, or a trap code with a block index and a fault kind. Its squad gets the flag, and an error to be
observed; its spine thread gets the completion word (18 R452, 15 R371). -/
def copyEnd (s : State) (c : Copy) (code : Byte) (aux : Nat) (spineCode blk : Nat) : State :=
  let s := releaseGrains s c
  match c.squad with
  | some id =>
    let s := dropCopy s c.id
    let s := if code = 0 then s
      else modSquad s id fun q => if q.live then { q with
          unseen := q.unseen ++ [⟨c.id, c.flag,
            { code := code, tlm := c.em, aux := BitVec.ofNat 64 aux, tpc := c.tpc, word := laneWordOf c.instr, deferred := true,
              retry := .copy { c with parked := none, resp := [], ent := .unread } }⟩] } else q
    landPop { s with pops := mmod s.pops c.id fun p => { p with ready := true } } c.id
  | none =>
    if c.word = 0 then dropCopy s c.id
    else
      let c := { c with ended := some (spineCode, blk), parked := none }
      writeWord (modCopy s c.id fun _ => c) c

/-- A copy ends on a failed access; one that meets a fault that is not replayable ends once its record is posted (03 R74, 05
R111). -/
def copyAcc (s0 s : State) (c : Copy) (acc va : Nat) (kind : ReqKind) (a : Acc) (codec : Bool := false) : State :=
  match a with
  | .done => s
  | .poison => copyEnd s c tPoison 0 5 0
  | a => parkCopy s0 s c acc va kind a codec

/-- Bytes of the next unit: to the end of an ECB block, or to the end of the 128-byte range of the destination. -/
def unitLen (c : Copy) (ecb : Bool) : Nat :=
  let left := c.len - c.done
  let at_ := (match c.dst with | .mem va => va.toNat | .ls _ off => off) + c.done
  let from_ := (match c.src with | .mem va => va.toNat | .ls _ off => off) + c.done
  if ecb then Nat.min left (4096 - from_ % 4096)
  else Nat.min left (128 - at_ % 128)

/-- Write a unit to local store: an arming copy arms each block that the copy covers wholly once its last byte is there
(08 R193). -/
def unitToLs (s : State) (c : Copy) (r off : Nat) (bs : List Byte) : State :=
  let at_ := off + c.done
  let s := lsServe s (teamOf s c.team) r lsFar (blocksOf at_ bs.length)
  match c.arm with
  | none => modSeg s c.team r fun g => g.write at_ bs
  | some n =>
    let s := modSeg s c.team r fun g => g.writeKept at_ bs
    let full (b : Nat) : Bool := decide (off ≤ 128 * b) && decide (128 * b + 128 ≤ off + c.len)
      && decide (128 * b + 128 ≤ at_ + bs.length)
    ((blocksOf at_ bs.length).filter full).foldl (fun s b => armBlock s c.team (c.squad.getD 0) c.cluster r b n) s

/-- A write of a part of a unit. -/
def partWrite (s0 s : State) (c : Copy) (a : Nat) (bs : List Byte) (post : State → State) : State :=
  match storeRange s (rqCopy s c) a bs with
  | (s', .done) => post (modCopy s' c.id fun c => { c with done := c.done + bs.length, resp := [] })
  | (s', x) => copyAcc s0 { keepSaid s s' with dies := s'.dies } c accStore a (.write bs) x

/-- A unit's bytes reach the destination; `post` is what their delivery counts. The right to write the whole unit comes before
its first byte. A unit in two granules of which one is homed outside is written granule by granule: its home outside checks
its part alone. -/
def unitWrite (s0 s : State) (c : Copy) (bs : List Byte) (post : State → State := id) : State :=
  match c.dst with
  | .ls r off => post (modCopy (unitToLs s c r off bs) c.id fun c => { c with done := c.done + bs.length, resp := [] })
  | .mem va =>
    let a := va.toNat + c.done
    let r := rqCopy s c
    match ownBytes s r a bs.length with
    | (s', .done) => partWrite s0 s' c a bs post
    | (_, .remote _) => partWrite s0 s c a (bs.take (2097152 - a % 2097152)) post
    | (s', x) => copyAcc s0 { keepSaid s s' with dies := s'.dies } c accStore (ownFails s r a bs.length) (.write bs) x

/-- The ranges of a `cpys` overlap. -/
def lsOverlap (src dst : CopyEnd) (len : Nat) : Bool :=
  match src, dst with
  | .ls r a, .ls k b => r == k && decide (a < b + len) && decide (b < a + len)
  | _, _ => false

/-- The next n bytes of a `cpys` from offset `a` to offset `b` of one segment, whose ranges overlap. Each aligned 8-byte
unit of the destination takes the source's contents from before the copy or, where the copy has written all of its source
bytes, what it wrote there; which one is a free choice (R451; log entry 80). -/
def overlapUnit (s : State) (c : Copy) (g : Segment) (a b n : Nat) : List Byte :=
  let bits := Config.freeChoice s.freeNo
  let written (i : Nat) : Bool := decide (b ≤ a + i) && decide (a + i < b + c.done)
  let prior (i : Nat) : Byte := c.prior.getD i 0
  (List.range n).map fun k =>
    let i := c.done + k
    let lo := (b + i) / 8 * 8
    let unit := ((List.range 8).map (lo + ·)).filter fun x => decide (b ≤ x) && decide (x < b + c.len)
    let now := g.byte (a + i)
    if now ≠ prior i ∧ unit.all (fun x => written (x - b)) ∧ bits / 2 ^ (lo / 8 % 64) % 2 = 1 then now else prior i

/-- One unit of a copy that is not over. -/
def copyUnit (s : State) (c : Copy) : State :=
  let r := rqCopy s c
  match c.tid with
  | some _ =>
    (match c.ent.tid with
     | none => copyEnd s c tMemfault 0x10 1 0
     | some t =>
       let lo := match c.src with | .mem va => va.toNat | .ls _ off => off
       if (List.range c.len).all fun i => t.holds (lo + i) then
         let n := unitLen c t.ecb
         let ls := (List.range n).map (lo + c.done + ·)
         match readTensor s r c.resp t ls [] with
         | (s', .ok, f, _) => unitWrite s s' c (ls.map f) fun s => ecbDelivered s r t ls
         | (s', .acc a l codec, _, _) => copyAcc s s' c accLoad (32 * l) (.read 32) a codec
         | (s', .codecsum b, _, _) => copyEnd s' c tCodecsum (b % 2 ^ 32) 6 (b % 2 ^ 32)
       else copyEnd s c tMemfault 0x10 4 0)
  | none =>
    let n := unitLen c false
    match c.src with
    | .ls k off =>
      let g := (teamOf s c.team).seg k
      if c.prior.isEmpty then unitWrite s s c (g.read (off + c.done) n)
      else unitWrite s s.draw c (overlapUnit s c g off (match c.dst with | .ls _ b => b | .mem _ => 0) n)
    | .mem va =>
      let a := va.toNat + c.done
      match readLines r c.resp (linesOf a n) s [] with
      | (s', .done, _, got) => unitWrite s s' c (lineBytes got a n)
      | (s', x, l, _) => copyAcc s s' c accLoad (32 * l) (.read 32) x

/-- Read the identifier entry of a copy that has not read it. -/
def copyEntry (s : State) (c : Copy) : State :=
  match c.tid, c.ent with
  | some n, .unread =>
    let r := rqCopy s c
    let va := tidVa s c.slot n
    (match entryRead s r n with
     | (s', .unread, a) => parkCopy s s' c accLoad va (.read 64) a
     | (s', e, a) =>
       let s' := noteCopy s' r accLoad va (.read 64) a
       let c' := { c with ent := e }
       match e with
       | .poison => copyEnd s' c tPoison 0 5 0
       | .fault k => copyEnd s' c tMemfault k 4 0
       | _ => modCopy s' c.id fun _ => c')
  | _, _ => s

/-- The team's copies go on: it is on its cores, or gone for good (13 R306). -/
def copyRuns (s : State) (c : Copy) : Bool :=
  c.parked.isNone && (let t := teamOf s c.team
                      (t.state == .resident && !t.stopping) || t.state == .exited || t.state == .retired)

/-- Units in turn, at most `fuel` of them and at most up to `stop` bytes, until the copy waits or is over. -/
def copyRun (id stop : Nat) : Nat → State → State
  | 0, s => s
  | fuel + 1, s =>
    match s.copies.find? fun c => c.id == id && copyRuns s c with
    | none => s
    | some c =>
      if c.ended.isSome then writeWord s c
      else if c.tid.isSome ∧ c.ent = .unread then
        let s' := copyEntry s c
        if (s'.copies.any fun c => c.id == id && c.parked.isNone && c.ent != .unread) then copyRun id stop fuel s' else s'
      else if c.done ≥ c.len then copyEnd s c 0 0 0 0
      else if stop ≤ c.done then s
      else
        let s' := copyUnit s c
        if (s'.copies.any fun x => x.id == id && decide (c.done < x.done)) then copyRun id stop fuel s' else s'

/-- R452: a copy finishes its units, or those up to a bound that the move names, or ends at a failing unit. -/
def execCopyComplete (s : State) : Outcome :=
  .next (match s.copies.find? fun c => c.id == s.arg.id with
  | none => s
  | some c => copyRun c.id (if s.arg.len = 0 then c.len else s.arg.len) (c.len + 3) s)

/-- R285, R46: a copy of an ECB source decodes and writes its next block, or ends with `CODECSUM`. -/
def execEcbDecode (s : State) : Outcome :=
  .next (match s.copies.find? fun c => c.id == s.arg.id && copyRuns s c && c.ended.isNone && decide (c.done < c.len) with
  | none => s
  | some c =>
    match c.ent.tid with
    | some t => if t.ecb then copyUnit s c else s
    | none => s)

/-- Copies in the queue of a cluster's engine. -/
def queuedCopies (s : State) (cl : Nat) : Nat :=
  (s.copies.filter fun c => c.cluster == cl && (match (teamOf s c.team).state with
    | .spilled | .swapped | .pending => false | _ => true)).length

/-- A copy's engine asks the home for ownership of the grain of an address, and the next address to ask for (02 R41, 03
R63, R78). An earlier copy's grain and a page that no cache holds are left to its writes, the host's copies are recalled. -/
def ownGrain (s : State) (r : Rq) (va : Nat) : State × Nat :=
  match requestFor s r va accStore false with
  | (_, .ok t) =>
    let grain := leafGrain t.leaf
    let gva := va / grain * grain
    (if t.normal = false ∨ leafMxa t.leaf ∨ engineOwns s r.copy r.asid gva grain grain then s
     else if hostBlocks s true r.asid gva grain then askHost s r.asid gva
     else match requestFor s r va accStore true with
       | (s1, .ok t) =>
         let x := takeOwnership s1 (.copyEngine r.cluster) t r.asid va
         putCopy x.1 x.2
       | (s1, _) => s1, gva + grain)
  | (s1, _) => (s1, va / 32 * 32 + 32)

def ownRange (r : Rq) (stop : Nat) : Nat → State → Nat → State
  | 0, s, _ => s
  | n + 1, s, va =>
    if stop ≤ va then s
    else
      let x := ownGrain s r va
      ownRange r stop n x.1 x.2

/-- A copy is issued: it takes ownership of every grain of its destination in memory, and reads its identifier entry (02
R41). -/
def addCopy (s : State) (c : Copy) : State :=
  let s := match c.dst with
    | .mem va => ownRange (rqCopy s c) (va.toNat + c.len) (c.len / 32 + 2) s (va.toNat + c.done)
    | .ls _ _ => s
  copyEntry { s with copies := s.copies ++ [c] } c

/-! ### `cpy` and `cpys` -/

/-- A place of a lane copy: in memory, or a checked local-store range. -/
def copyPlace (s : State) (q : Squad) (ls : Bool) (addr len : Nat) : Option CopyEnd :=
  if ls then (matLs s q addr len).map fun p => .ls p.1 p.2 else some (.mem (BitVec.ofNat 64 addr))

/-- Issue a lane copy: operands from g registers, local-store ranges checked for every active lane. -/
def laneCopy (i : Instr) (o : LaneOp) (srcLs dstLs : Bool) (s : State) : Outcome :=
  laneEnter i o { gs := srcGs o.a ++ srcGs o.b ++ srcGs o.c } s fun x =>
    let len := srcVal x.q o 0 64 o.c 0
    let tensor := o.imm.getLsbD 10
    let tid : Option Nat := if tensor then some (o.imm.toNat % 1024) else none
    if x.act = 0 then finishShort s x [] [] {}
    else if len = 0 ∨ len ≥ 2 ^ 32 then x.illop s
    else
      match copyPlace s x.q srcLs (srcVal x.q o 0 64 o.a 0) len, copyPlace s x.q dstLs (srcVal x.q o 0 64 o.b 0) len with
      | some a, some b =>
        let cl := clusterOf x.q.core
        if queuedCopies s cl ≥ 128 then setWait s x.id .hold
        else if tensor && x.q.log.any (fun e => match e.instr with | .tiset _ => true | _ => false) then setWait s x.id .hold
        else longReady s x 0 fun s => laneRelease s x fun s =>
          let s := if dstLs then s else escape s x.q.team
          let n := s.nextId
          let s := finishLong s x [] [] { ready := false }
          addCopy s { id := n, cluster := cl, slot := slotOf s x.q.team, team := x.q.team, squad := some x.id, tpc := x.q.pos,
                      em := x.q.em, instr := i, src := a, dst := b, len := len, tid := tid,
                      prior := if lsOverlap a b len then
                          (match a with | .ls r off => ((teamOf s x.q.team).seg r).read off len | .mem _ => [])
                        else [],
                      arm := if o.md.getLsbD 2 then some (bitsOf o.imm.toNat 11 8) else none,
                      flag := flagOf x.q o.fs }
      | _, _ => finishShort (switchOff s x.id x.act) x [] [] {}

/-- R450: copy between memory and local store, or within memory. -/
def execCpy (o : LaneOp) (s : State) : Outcome :=
  let dir := (o.md.extractLsb' 0 2).toNat
  laneCopy (.cpy o) o (dir == 1) (dir == 0) s

/-- R451: copy between local-store ranges of the team. -/
def execCpys (o : LaneOp) (s : State) : Outcome := laneCopy (.cpys o) o true true s

/-! ### The spine's `cpy` (15 R371) -/

/-- The copy that a descriptor asks for; none when it is malformed. -/
def spineCopyOf (d : List Byte) : Option (CopyEnd × CopyEnd × Nat × Option Nat) :=
  let tid := fieldOf d 20 2
  let len := fieldOf d 16 4
  let scope := fieldOf d 22 1
  if len = 0 ∨ (tid > 1023 ∧ tid ≠ 0xFFFF) ∨ scope > 4 ∨ fieldOf d 23 9 ≠ 0 then none
  else some (.mem (BitVec.ofNat 64 (fieldOf d 0 8)), .mem (BitVec.ofNat 64 (fieldOf d 8 8)), len,
             if tid = 0xFFFF then none else some tid)

/-- The completion word is checked as a store of the thread: what a failing check does, or what follows. -/
def wordCheck (s : State) (t : Nat) (sp : Spine) (word : Dword) (k : State → State) : State :=
  if word = 0 then k s
  else
    let r := rqSpine s sp
    match request s r.die r.slot r.asid word.toNat accStore false with
    | (s', .ok _) => k s'
    | (s', .remote _) => k s'
    | (s', a) => spineGot s s' t sp accStore (.write (zeros 8)) word a.acc [] fun s _ => s

/-- A completion word that the host or a peer homes: its home is asked for the right to write before the copy is issued.
`granted` says that it has consented. -/
def wordConsent (s : State) (t : Nat) (sp : Spine) (word : Dword) (k : State → Spine → State) : State :=
  match peekHme s (rqSpine s sp) word.toNat with
  | some h =>
    if word = 0 ∨ hmeHome h < 8 ∨ sp.granted.isSome then k s sp
    else
      (match sp.resp with
       | some _ =>
         let ok (sp : Spine) : Spine := { sp with granted := some 1, resp := none }
         k (modSpine s t ok) (ok sp)
       | none => spineGot s s t sp accStore (.read 8) word (.remote h) [] fun s _ => s)
  | none => k s sp

/-- R371: a memory-to-memory copy under the descriptor at x[A], with the completion word at x[B]. -/
def execSpineCpy (b a : BitVec 6) (s : State) : Outcome :=
  spineEnter s fun t sp =>
    let da := getX sp a
    let word := getX sp b
    let cl := sp.cluster
    if da.toNat % 32 ≠ 0 then spineTrap s t tMisalign da
    else if word.toNat % 8 ≠ 0 then spineTrap s t tMisalign word
    else if queuedCopies s cl ≥ 128 then spineWait s t .hold none
    else wordConsent s t sp word fun s sp => spineRead s t sp da 32 fun s d => wordCheck s t sp word fun s => spineRelease s t fun s =>
      let s := escape s t
      let n := s.nextId
      let base : Copy := { id := n, cluster := cl, slot := slotOf s t, team := t, squad := none, tpc := sp.pc.setWidth 32, em := 0,
                           instr := .spineCpy b a, src := .mem 0, dst := .mem 0, len := 0, word := word }
      let s := modSpine { s with nextId := n + 1 } t retire
      match spineCopyOf d with
      | some (x, y, len, tid) => addCopy s { base with src := x, dst := y, len := len, tid := tid }
      | none => if word = 0 then s else { s with copies := s.copies ++ [{ base with ended := some (1, 0) }] }

/-! ### Cross-die reductions (18 R453 to R456) -/

def cGroup (d : List Byte) : Nat := fieldOf d 0 8
def cOp (d : List Byte) : Nat := fieldOf d 12 1
def cType (d : List Byte) : Nat := fieldOf d 13 1
def cMe (d : List Byte) : Nat := fieldOf d 14 1
def cMask (d : List Byte) : Nat := fieldOf d 16 4
def cDeadline (d : List Byte) : Nat := fieldOf d 24 8

/-- Element type of a reduction. -/
def credType (n : Nat) : LType :=
  match n with
  | 0 => .i32
  | 1 => .n32
  | 2 => .i64
  | 3 => .n64
  | _ => .f32

/-- Elements of a tensor. -/
def Tid.count (t : Tid) : Nat := t.size.foldl (· * ·) 1

/-- Logical offsets of the elements in coordinate order, c0 fastest. -/
def Tid.offsets (t : Tid) : List Nat :=
  let c0 := (List.range (t.size.getD 0 1)).map fun c => c * tenW t.fmt / 8
  ((t.size.zip t.stride).drop 1).foldl (fun l d =>
    if d.1 = 1 then l else (List.range d.1).flatMap fun c => l.map (· + 16 * d.2 * c)) c0

/-- Fields of the descriptor that do not depend on its identifiers. -/
def credFields (d : List Byte) : Bool :=
  decide (cOp d ≤ 2) && decide (cType d ≤ 4) && decide (cMe d ≤ 31) && bitOf (cMask d) (cMe d) && fieldOf d 15 1 == 0
  && fieldOf d 20 4 == 0 && fieldOf d 32 32 == 0 && cGroup d % 64 == 0
  && decide (fieldOf d 8 2 ≤ 1023) && decide (fieldOf d 10 2 ≤ 1023)

/-- Both identifiers fit the descriptor: the source's and the destination's entries. -/
def credIds (d : List Byte) (src dst : Entry) : Option (Tid × Tid) :=
  match src.tid, dst.tid with
  | some a, some b =>
    if a.ecb = false ∧ b.ecb = false ∧ a.fmt = credType (cType d) ∧ b.fmt = credType (cType d) ∧ a.count = b.count
        ∧ a.count ≤ 2 ^ 24 then some (a, b) else none
  | _, _ => none

/-- The status dword that lands in gD. -/
def credStatus (st cause : Nat) (arr : Word) : Dword := BitVec.ofNat 64 (cause * 2 ^ 40 + st * 2 ^ 32 + arr.toNat)

/-- 1 ms of time base after its deadline has passed (18 R456). -/
def credLate (s : State) (c : Cred) : Bool := decide (cDeadline c.desc + 1000000 < s.timeNs.toNat)

/-- A reduction completes with a status; a completion that comes too late is `LOST`, with `ARR` 0. -/
def credDone (s : State) (id st cause : Nat) (arr : Word) : State :=
  if s.creds.any fun c => c.id == id then
    let late := s.creds.any fun c => c.id == id && credLate s c
    let (st, cause, arr) : Nat × Nat × Word := if late then (4, 0, 0) else (st, cause, arr)
    let s := { s with
      creds := s.creds.filter fun c => c.id != id
      reqs := s.reqs.filter fun r => r.who != .copy id
      pops := mmod s.pops id fun p => { p with ready := true, vals := [gWords (credStatus st cause arr).toNat] } }
    landPop s id
  else s

/-- Requests of a reduction. -/
def rqCred (s : State) (cluster slot : Nat) : Rq :=
  { die := dieOfCluster cluster, cluster := cluster, slot := slot, asid := ctxAsid s slot, agent := .none, l1 := false }

/-- A reduction's access that waits for a verdict or an answer. -/
def parkCred (s0 s : State) (r : Rq) (id acc va : Nat) (kind : ReqKind) (a : Acc) : State :=
  let q : Req := { id := 0, who := .copy id, kind := kind, asid := r.asid, va := BitVec.ofNat 64 va, st := .sent,
                   die := r.die, slot := r.slot, acc := acc }
  match a with
  | .fault _ _ _ _ => parkAcc s q a
  | .remote h => sendRemote s { q with hme := h }
  | _ => keepSaid s0 s

/-- The reduction has an access that waits. -/
def credParked (s : State) (id : Nat) : Bool := s.reqs.any fun r => r.who == .copy id

/-- Trap code that reports a failed access. -/
def accCode (a : Acc) : Nat := match a with | .poison => tPoison.toNat | _ => tMemfault.toNat

/-- An access that will never be performed. -/
def accDead (a : Acc) : Bool := match a with | .poison => true | .fault k _ _ _ => !replayable k | _ => false

def modGroup (s : State) (slot : Nat) (va : Dword) (f : RGroup → RGroup) : State :=
  { s with rgroups := s.rgroups.map fun g => if g.slot = slot ∧ g.va = va then f g else g }

/-- A source's elements. -/
inductive SrcRead where
  | ok (xs : List Nat)
  | failed
  | wait
  deriving DecidableEq, Repr

/-- The elements of a tensor, with the access that failed and its line. -/
def readElems (s : State) (r : Rq) (resp : FMap (List Byte)) (t : Tid) : State × Acc × Nat × List Nat :=
  let n := tenW t.fmt / 8
  let places := t.offsets.map (t.base + ·)
  match readLines r resp (rising (places.flatMap fun a => [a / 32, (a + n - 1) / 32])) s [] with
  | (s', .done, _, got) => (s', .done, 0, places.map fun a => fieldOf (lineBytes got a n) 0 n)
  | (s', a, l, _) => (s', a, l, [])

/-- A source's elements as they stand, on a held page too, and before what copies have still to write; none where there is no
source on this device. -/
def credPeek (s : State) (c : Cred) : List Nat :=
  let s : State := { s with copies := [], dies := s.dies.map fun d => (d.1, { d.2 with held := [] }) }
  let r := rqCred s c.cluster c.slot
  if credFields c.desc = false then []
  else match (entryRead s r (fieldOf c.desc 8 2)).2.1.tid with
    | some t => if t.count ≤ 2 ^ 24 ∧ t.ecb = false then (readElems s r [] t).2.2.2 else []
    | none => []

/-- Each element of a source that was written since its reduction was issued has its old or its new value (R454; log entry
79). -/
def oldOrNew (s : State) (old xs : List Nat) : List Nat :=
  let bits := Config.freeChoice s.freeNo
  xs.zipIdx.map fun p =>
    let o := old.getD p.2 p.1
    if o ≠ p.1 ∧ bits / 2 ^ p.2 % 2 = 1 then o else p.1

/-- Read a contributor's source. -/
def readSource (s : State) (r : Rq) (c : Contrib) (t : Tid) : State × SrcRead :=
  match readElems s r c.resp t with
  | (s', .done, _, xs) => (s'.draw, .ok (oldOrNew s' c.old xs))
  | (s', a, l, _) =>
    if accDead a then (noteCopy s' r accLoad (32 * l) (.read 32) a, .failed)
    else (parkCred s s' r c.cred accLoad (32 * l) (.read 32) a, .wait)

/-- Read the sources of contributors; those whose read fails are named. -/
def readSources (r : Rq) : List Contrib → State → State × Bool × List Nat × List (List Nat)
  | [], s => (s, true, [], [])
  | c :: cs, s =>
    match tidParse c.ent with
    | none => (s, true, [], [])
    | some t =>
      match readSource s r c t with
      | (s, .wait) => (s, false, [], [])
      | (s, .failed) =>
        let (s, ok, bad, xs) := readSources r cs s
        (s, ok, c.me :: bad, xs)
      | (s, .ok x) =>
        let (s, ok, bad, xs) := readSources r cs s
        (s, ok, bad, x :: xs)

/-- Combine sources element by element, in ascending contributor order (R455). -/
def combine (op : Nat) (t : LType) : List (List Nat) → List Nat
  | [] => []
  | x :: xs => xs.foldl (fun acc y => List.zipWith (combOp op t false) acc y) x

/-- Write elements from number k on; the number of the one that fails. -/
def writeElems (r : Rq) (n : Nat) : List (Nat × Nat) → Nat → State → State × Acc × Nat × Nat
  | [], k, s => (s, .done, k, 0)
  | (va, x) :: rest, k, s =>
    match storeRange s r va (bytesOf n x) with
    | (s, .done) => writeElems r n rest (k + 1) s
    | (s, a) => (s, a, k, va)

/-- Contributors in ascending index. -/
def byMe (cs : List Contrib) : List Contrib := (List.range 32).filterMap fun m => cs.find? fun c => c.me == m

/-- Every arrived contributor completes (R455). -/
def groupFinal (s : State) (g : RGroup) (failed : List Nat) (dead : Option Nat) : State :=
  let arr : Word := maskOf fun m => g.arrived.any (fun c => c.me == m) && !failed.contains m
  let (st, cause) := match dead with
    | some k => (7, k)
    | none => (if arr.toNat = cMask g.desc then 1 else 3, 0)
  let s := modGroup s g.slot g.va fun g => { g with final := some arr, arrived := [], closing := false }
  g.arrived.foldl (fun s c => credDone s c.cred st cause arr) s

/-- A group combines: sources are read, the destination written. An access that waits leaves it closing. -/
def groupClose (s0 : State) (g : RGroup) : State :=
  let s := modGroup s0 g.slot g.va fun g => { g with closing := true }
  let r := rqCred s (64 * g.die) g.slot
  if g.dead.isSome then groupFinal s g g.failed g.dead
  else
    match readSources r (byMe (g.arrived.filter fun c => !g.failed.contains c.me)) s with
    | (s, false, _, _) => s
    | (s, true, bad, xs) =>
      let failed := g.failed ++ bad
      let s := modGroup s g.slot g.va fun g => { g with failed := failed }
      match tidParse g.destEnt with
      | none => groupFinal s g failed none
      | some t =>
        let n := tenW t.fmt / 8
        let vals := combine (cOp g.desc) (credType (cType g.desc)) xs
        match writeElems r n (((t.offsets.map (t.base + ·)).zip vals).drop g.wcount) g.wcount s with
        | (s', .done, _, _) => groupFinal s' g failed none
        | (s', a, k, va) =>
          let s' := modGroup s' g.slot g.va fun g => { g with wcount := k }
          let kind : ReqKind := .write (bytesOf n (vals.getD k 0))
          if accDead a then groupFinal (noteCopy s' r accStore va kind a) g failed (some (accCode a))
          else match g.arrived with
            | c :: _ => parkCred s' s' r c.cred accStore va kind a
            | [] => s'

/-- What the device writes into a record of a round that has begun: not zero; its contents are not stated (log entry 13). -/
def recordMark (s : State) : List Byte :=
  1 :: ((List.range 63).map fun i => BitVec.ofNat 8 ((Config.free64 s.freeNo i).toNat % 256))

/-- A contribution joins its group, opens it, or is refused. -/
def joinGroup (s : State) (c : Cred) (h : Nat) (record : List Byte) (src dst : Tid) (es ed : List Byte) : State :=
  let va : Dword := BitVec.ofNat 64 (cGroup c.desc)
  let r := rqCred s (64 * h) c.slot
  let _ := src
  let fresh := record.all (· == 0)
  let found := s.rgroups.find? fun g => g.slot == c.slot && g.va == va
  let open' (s : State) : State :=
    if (s.rgroups.filter fun g => g.die == h && g.final.isNone).length ≥ 16 then s
    else match storeRange s r va.toNat (recordMark s) with
      | (s', .done) =>
        { s' with rgroups := (s'.rgroups.filter fun g => !(g.slot == c.slot && g.va == va)) ++
          [{ slot := c.slot, va := va, die := h, desc := c.desc, destEnt := ed, arrived := [⟨c.id, cMe c.desc, es, c.old.getD [], []⟩] }] }
      | (s', a) =>
        let kind : ReqKind := .write (recordMark s)
        if accDead a then credDone (noteCopy s' r accStore va.toNat kind a) c.id 7 (accCode a) 0
        else parkCred s s' r c.id accStore va.toNat kind a
  match found with
  | none => open' s
  | some g =>
    match g.final with
    | some arr => if fresh then open' s else credDone s c.id 5 0 arr
    | none =>
      if g.closing then s
      else if cDeadline g.desc < s.timeNs.toNat then
        let s := groupClose s g
        match s.rgroups.findSome? fun x => if x.slot = c.slot ∧ x.va = va then x.final else none with
        | some arr => credDone s c.id 5 0 arr
        | none => s
      else if cOp g.desc ≠ cOp c.desc ∨ cType g.desc ≠ cType c.desc ∨ cMask g.desc ≠ cMask c.desc
          ∨ fieldOf g.desc 10 2 ≠ fieldOf c.desc 10 2 ∨ (tidParse g.destEnt).map (·.count) ≠ some dst.count
          ∨ g.arrived.any (fun x => x.me == cMe c.desc) then credDone s c.id 6 0 0
      else modGroup s c.slot va fun g => { g with arrived := g.arrived ++ [⟨c.id, cMe c.desc, es, c.old.getD [], []⟩] }

/-- The group completes when every contributor of `MASK` has arrived. -/
def closeIfFull (s : State) (slot : Nat) (va : Dword) : State :=
  match s.rgroups.find? fun g => g.slot == slot && g.va == va && g.final.isNone && !g.closing with
  | none => s
  | some g =>
    if (maskOf fun m => g.arrived.any fun c => c.me == m).toNat = cMask g.desc then groupClose s g else s

/-- R454: a contribution arrives at its record's home. It waits while an access of it waits. -/
def execCredArrival (s : State) : Outcome :=
  .next (match s.creds.find? fun c => c.id == s.arg.id && !credParked s c.id
      && !(s.rgroups.any fun g => g.arrived.any fun x => x.cred == c.id) with
  | none => s
  | some c =>
    let r := rqCred s c.cluster c.slot
    let dead (s : State) (va : Nat) (a : Acc) : State :=
      credDone (noteCopy s r accLoad va (.read 64) a) c.id 7 (accCode a) 0
    let vaS := tidVa s c.slot (fieldOf c.desc 8 2)
    let vaD := tidVa s c.slot (fieldOf c.desc 10 2)
    if credFields c.desc = false then credDone s c.id 2 0 0
    else
      match entryRead s r (fieldOf c.desc 8 2) with
      | (s1, .unread, a) => parkCred s s1 r c.id accLoad vaS (.read 64) a
      | (s1, .poison, _) => dead s1 vaS .poison
      | (s1, .fault _, a) => dead s1 vaS a
      | (s1, es, _) =>
        match entryRead s1 r (fieldOf c.desc 10 2) with
        | (s2, .unread, a) => parkCred s s2 r c.id accLoad vaD (.read 64) a
        | (s2, .poison, _) => dead s2 vaD .poison
        | (s2, .fault _, a) => dead s2 vaD a
        | (s2, ed, _) =>
          match credIds c.desc es ed, es, ed with
          | some (a, b), .bytes ba, .bytes bb =>
            let va := cGroup c.desc
            (match peekHome s2 r va with
             | some h =>
               if 8 ≤ h ∧ h ≠ 15 then credDone s2 c.id 2 0 0
               else match loadRange s2 r accLoad va 64 with
                 | (s3, .done, record) => closeIfFull (joinGroup s3 c h record a b ba bb) c.slot (BitVec.ofNat 64 va)
                 | (s3, x, _) => if accDead x then dead s3 va x else parkCred s s3 r c.id accLoad va (.read 64) x
             | none =>
               match loadRange s2 r accLoad va 64 with
               | (s3, x, _) => if accDead x then dead s3 va x else parkCred s s3 r c.id accLoad va (.read 64) x)
          | _, _, _ => credDone s2 c.id 2 0 0)

/-- An open group that a move names. -/
def openGroup (s : State) (slot : Nat) (va : Dword) : Option RGroup :=
  s.rgroups.find? fun g => g.slot == slot && g.va == va && g.final.isNone && !(g.arrived.any fun c => credParked s c.cred)

/-- R455: the time base has reached the group's deadline, or its combination goes on after a wait. -/
def execCredDeadline (s : State) : Outcome :=
  .next (match openGroup s s.arg.slot.toNat s.arg.va with
  | none => s
  | some g => if g.closing ∨ cDeadline g.desc ≤ s.timeNs.toNat then groupClose s g else s)

/-- R456: 1 ms after its deadline a reduction without completion reports `LOST`. -/
def execCredLostTimeout (s : State) : Outcome :=
  .next (match s.creds.find? fun c => c.id == s.arg.id with
  | none => s
  | some c => if cDeadline c.desc + 1000000 ≤ s.timeNs.toNat then credDone s c.id 4 0 0 else s)

/-- R453: issue a reduction under the descriptor at gA, read as a read of the squad. -/
def execCred (o : LaneOp) (s : State) : Outcome :=
  laneEnter (.cred o) o { gs := srcGs o.a } s fun x =>
    if x.act = 0 then finishShort s x [] [] {}
    else
      let va : Dword := BitVec.ofNat 64 (srcVal x.q o 0 64 o.a 0)
      let r := rqSquad s x.id x.q
      let res := regResult x o.dst 0 1 true
      if va.toNat % 64 ≠ 0 then x.trap s tMisalign x.act (trapVals x.act fun _ => va)
      else if memGate s x.id x.q x.i r [va.toNat] then setWait s x.id .hold
      else longReady s x 0 fun s => laneRelease s x fun s =>
        let s := escape s x.q.team
        match loadRange s r accLoad va.toNat 64 with
        | (s', .done, bs) =>
          let n := s'.nextId
          credPost (finishLong s' x [] [] { res with ready := false }) n x.q.team r.slot r.cluster bs
        | _ => issueAccess s x [] [] r (lowLane x.act).toList (fun _ => []) res (fun s _ => s) fun _ => va

/-! ### Verdicts, answers and retries -/

/-- The verdict is replay: the copy goes on; a reduction's event makes the access again. -/
def copyReplay (s : State) (id : Nat) : State := modCopy s id fun c => { c with parked := none }

/-- The verdict is unresolvable, or a host or peer home refused. -/
def copyUnresolved (s : State) (id kind acc : Nat) : State :=
  match s.copies.find? fun c => c.id == id with
  | some c => if c.ended.isSome then dropCopy s c.id else copyEnd s { c with parked := none } tMemfault kind 4 0
  | none =>
    match s.rgroups.find? fun g => g.arrived.any fun c => c.cred == id with
    | some g =>
      modGroup s g.slot g.va fun g =>
        if acc = accStore then { g with dead := some tMemfault.toNat }
        else { g with failed := g.failed ++ (g.arrived.filter fun c => c.cred == id).map (·.me) }
    | none => credDone s id 7 tMemfault.toNat 0

/-- A host or peer home has answered: a line read, or a write performed. -/
def copyAnswer (s : State) (id line : Nat) (write : Bool) (n : Nat) (bs : List Byte) : State :=
  match s.copies.find? fun c => c.id == id with
  | some c =>
    if c.ended.isSome then wakeSpine (dropCopy s id) c.team
    else modCopy s id fun c =>
      if write then { c with parked := none, done := c.done + n, resp := [] }
      else { c with parked := none, resp := mset c.resp line bs }
  | none =>
    { s with rgroups := s.rgroups.map fun g =>
        if g.arrived.any fun c => c.cred == id then
          (if write then { g with wcount := g.wcount + 1 }
           else { g with arrived := g.arrived.map fun c => if c.cred = id then { c with resp := mset c.resp line bs } else c })
        else g }

/-- Issue a failed copy again from its progress, with its flag raised (18 R435, R452). -/
def copyReissue (s : State) (c : Copy) : State :=
  match c.squad.bind (mget s.squads) with
  | none => s
  | some q =>
    let id := c.squad.getD 0
    let n := s.nextId
    let p : POp := { squad := id, tpc := c.tpc, dst := .none, lanes := c.em, vals := [], flag := c.flag, ready := false,
                     core := q.core, part := q.part }
    let s := { s with nextId := n + 1, pops := mset s.pops n p }
    addCopy (raiseFlag s id c.flag) { c with id := n, cluster := clusterOf q.core }

end Sys2Proof.Machine
end

