-- ==== Sys2Proof/Machine/Recording.lean ====
section
/-! DEFINITION. Recorded re-runs (05 R129, R130): the logging and the replay of `rdclk` and `rand` results. -/

namespace Sys2Proof.Machine

def recRec (rc : Nat) : Bool := bitOf rc 0
def recPlay (rc : Nat) : Bool := bitOf rc 1
def recQueue (rc : Nat) : Nat := bitsOf rc 16 16

/-- `RECCTL` of a context slot. -/
def recCtl (s : State) (slot : Nat) : Nat := ccb s slot 0x50 8

/-- Bytes 0 to 23 of the log entry of a result: kind 2 `rdclk`, 3 `rand`; agent 0 a squad, 1 a spine thread. -/
def logKey (kind agent sqn lane index cnt : Nat) : List Byte :=
  bytesOf 1 kind ++ bytesOf 1 agent ++ bytesOf 2 sqn ++ bytesOf 1 lane ++ zeros 3 ++ bytesOf 8 index ++ bytesOf 8 cnt

/-- What a search of a log finds: the entry of a counter, or a held page, where the search waits, or nothing. -/
inductive LogAns where
  | found (ctr : Nat) (bs : List Byte)
  | held
  | nothing
  deriving DecidableEq, Repr

/-- The first of n entries from counter c on that is not consumed and that a test selects. -/
def logScan (s : State) (slot : Nat) (asid : Half) (q : Qcb) (p : List Byte → Bool) (c : Nat) : Nat → LogAns
  | 0 => .nothing
  | n + 1 =>
    if (mget s.replay (65536 * slot + c % 65536)).isSome then logScan s slot asid q p (c + 1) n
    else match qOpen s 0 slot asid (slotVa q c) accLoad with
    | (_, .held) => .held
    | (s1, .ok t) =>
      let bs := (qRead s1 t asid (slotVa q c)).2
      if p bs then .found (c % 65536) bs else logScan s slot asid q p (c + 1) n
    | _ => logScan s slot asid q p (c + 1) n

/-- The oldest unconsumed entry of a context's log that a test selects. -/
def logFind (s : State) (slot : Nat) (p : List Byte → Bool) : LogAns :=
  match qLoad s 0 slot (ctxAsid s slot) (recQueue (recCtl s slot)) (fun _ => false) qHead accLoad with
  | (_, .inr o) => logScan s slot (ctxAsid s slot) o.q p (qHead o.q) (ctrSub (qTail o.q) (qHead o.q))
  | (_, .inl .held) => .held
  | _ => .nothing

/-- The log entry of a result. -/
def logHas (key : List Byte) (bs : List Byte) : Bool := bs.take key.length = key

/-- A page of the log is held at its home: the instruction that is to be replayed waits. -/
def logHeld (s : State) (slot : Nat) (key : List Byte) : Bool := recPlay (recCtl s slot) && logFind s slot (logHas key) == .held

/-- The value of a result: replayed under `PLAY`; else live, and logged under `REC`. The instruction waits for its
pushes: a lane operation by `pop`, a spine thread by `who`. -/
def logValue (s : State) (slot : Nat) (key : List Byte) (live : Dword) (pop : Option Nat) (who : Agent) : State × Dword :=
  let rc := recCtl s slot
  if recPlay rc then
    match logFind s slot (logHas key) with
    | .found c bs => ({ s with replay := mset s.replay (65536 * slot + c) 1 }, BitVec.ofNat 64 (fieldOf bs 24 8))
    | _ => (svcErr s, live)
  else if recRec rc then
    ({ s with nextId := s.nextId + 1,
              dpush := s.dpush ++ [{ id := s.nextId, slot := slot, q := recQueue rc, pop := pop, who := who,
                                     entry := key ++ bytesOf 8 live.toNat ++ zeros 32 }] }, live)
  else (s, live)

/-- A service entry taken for a context is logged (R129); 0xFF names the management ring. While the log has no room the
SVP thread waits, and takes nothing (R111). -/
def logService (s : State) (slot sq : Nat) (entry : List Byte) : Option State :=
  let rc := recCtl s slot
  if recRec rc = false then some s
  else if s.dpush.any fun p => p.slot == slot && p.q == recQueue rc then none
  else (devicePushTry s slot (recQueue rc) (bytesOf 1 1 ++ bytesOf 1 sq ++ entry.take 2 ++ entry.drop 4) false).map (·.1)

end Sys2Proof.Machine
end

