-- ==== Sys2Proof/Machine/LaneControl.lean ====
section
/-! DEFINITION. Lane control instructions, class 7: branches and divergence (17 R421, R422, 09 R206 to R218), `exit`,
`yield`, the team barrier, `nap`, control registers, traps, time and random values (17 R423 to R432). -/

namespace Sys2Proof.Machine

/-! ### Branches (09 R206 to R209) -/

/-- Offset that a branch names: the header's plus 12 x IMM24 (14 R322). -/
def branchTarget (q : Squad) (o : LaneOp) : Word := q.hpos + 12 * o.imm.signExtend 32

/-- The header after the volley; a flow instruction stands last in its volley (14 R320). -/
def fallThrough (q : Squad) : Word := q.pos + 12

/-- The volley ends and the squad goes on at a target; `advance` adds 12. -/
def laneJump (target : Word) (q : Squad) : Squad := { q with pos := target - 12 }

/-- Targets of lanes, each with how many lanes share it. -/
def targetCounts (targets : List (Nat × Word)) : List (Word × Nat) :=
  targets.foldl (fun l p =>
    if l.any fun x => x.1 == p.2 then l.map fun x => if x.1 == p.2 then (x.1, x.2 + 1) else x else l ++ [(p.2, 1)]) []

/-- The most common target; of two, the lowest (R207). -/
def stayTarget (counts : List (Word × Nat)) : Word :=
  match counts with
  | [] => 0
  | c :: cs => (cs.foldl (fun a b => if a.2 < b.2 ∨ (a.2 = b.2 ∧ b.1 < a.1) then b else a) c).1

/-! ### The spawn area (09 R210, R211) -/

/-- 64-byte units of a record of n live registers. -/
def recordUnits (n : Nat) : Nat := 1 + (4 * n + 63) / 64

/-- Places in use in a team's spawn area: first unit and length. -/
def spawnUsed (t : Team) : List (Nat × Nat) :=
  (t.groups.map fun g => g.recs.map fun r => (r.off, r.units)).flatten

def spawnFits (used : List (Nat × Nat)) (total n off : Nat) : Bool :=
  decide (off + n ≤ total) && used.all fun u => decide (off + n ≤ u.1) || decide (u.1 + u.2 ≤ off)

/-- The lowest place for n units. -/
def firstFit (used : List (Nat × Nat)) (total n : Nat) : Option Nat :=
  match (0 :: used.map fun u => u.1 + u.2).filter (spawnFits used total n) with
  | [] => none
  | c :: cs => some (cs.foldl Nat.min c)

/-- Places for k records of n units, all or none. -/
def spawnAlloc (used : List (Nat × Nat)) (total n : Nat) : Nat → Option (List Nat)
  | 0 => some []
  | k + 1 =>
    match firstFit used total n with
    | none => none
    | some off => (spawnAlloc ((off, n) :: used) total n k).map (off :: ·)

/-- Places for the records of k threads of a squad whose live registers are those mapped once `frees` are unmapped. -/
def spawnRoom (s : State) (q : Squad) (frees : List Nat) (link : List (Nat × Lanes)) (k : Nat) : Option (List Nat) :=
  let live := (mapRegs (unmapAll q.v frees) link).length
  spawnAlloc (spawnUsed (teamOf s q.team)) (16 * (lrOf s q.team).spawnkib) (recordUnits live) k

/-- Operations whose lane registers have not landed. -/
def pendingLanes (q : Squad) : List Nat := q.v.filterMap fun r => r.2.pend

/-- Rows that a call's link needs (07 R173). -/
def linkRows (link : List (Nat × Lanes)) : Nat := link.foldl (fun n r => n + shapeRows r.2) 0

/-- A branch with the target of each lane of `em`: go on, or trap, or wait to eject (R206 to R209, R220). -/
def laneBranch (s : State) (x : Lx) (frees reads : List Nat) (link : List (Nat × Lanes)) (noDiverge : Bool)
    (target : Nat → Word) : State :=
  let lanes := lanesOf x.q.em
  let targets := lanes.map fun l => (l, target l)
  let counts := targetCounts targets
  if x.q.eject.isSome then setWait s x.id .hold
  else if counts.length ≤ 1 then
    let dest := match counts with | c :: _ => c.1 | [] => fallThrough x.q
    finishShort s x reads frees { vs := link, post := laneJump dest }
  else
    let stay := stayTarget counts
    let out := targets.filter fun p => p.2 != stay
    let m := maskOf fun l => out.any fun p => p.1 == l
    let vals := trapVals m fun l => (target l).setWidth 64
    if noDiverge then x.trap s tDiverge m vals
    else if (lrOf s x.q.team).spawnkib = 0 ∨ (spawnRoom s x.q frees link out.length).isNone then x.trap s tSpawnfull m vals
    else if inHandler x.q then x.trap s tDiverge m vals
    else
      let ops := pendingLanes x.q
      let rows := linkRows link
      if !ops.isEmpty then setWait s x.id (.landing ops)
      else match (if rows = 0 then Grow.ok else growCheck s x.id x.q rows) with
      | .trap => x.trap s tRows x.q.em [] (BitVec.ofNat 64 rows)
      | .wait => setWait s x.id (.grow rows)
      | .ok =>
        modSquad s x.id fun q => { q with
          wait := .hold, held := none
          eject := some { kind := 0, out := out, stay := some stay, frees := frees, link := link, word := laneWordOf x.i } }

/-- Uses of a flow instruction with a source in slot A. -/
def flowUses (o : LaneOp) : Uses := { vs := srcVs 32 o.a, gs := srcGs o.a, dv := dstVs 32 o.dst }

def flowTarget (x : Lx) (l : Nat) : Word := BitVec.ofNat 32 (srcVal x.q x.o 0 32 x.o.a l)

/-- R421: lanes of `em` whose guard is true take the target; the others fall through. -/
def execBra (o : LaneOp) (s : State) : Outcome :=
  laneEnter (.bra o) o {} s fun x =>
    laneBranch s x [] [] [] false fun l => if inMask x.act l then branchTarget x.q o else fallThrough x.q

/-- R421: as `bra`, and the lanes must agree. A uniform-only volley branches once for the squad (14 R321). -/
def execBru (o : LaneOp) (s : State) : Outcome :=
  laneEnter (.bru o) o {} s fun x =>
    if x.q.uni then finishShort s x [] [] { post := laneJump (branchTarget x.q o) }
    else laneBranch s x [] [] [] true fun l => if inMask x.act l then branchTarget x.q o else fallThrough x.q

/-- Checks of targets, in the order of their codes (R422): those that a register gives, or one for every lane. -/
def checkTargets (s : State) (x : Lx) (ret : Bool) (k : State) (target : Nat → Word := flowTarget x) : State :=
  let bad := maskOf fun l => inMask x.q.em l && (target l).toNat % 12 != 0
  let zero := maskOf fun l => ret && inMask x.q.em l && flowTarget x l == 0
  if bad ≠ 0 then x.trap s tIllop bad
  else if zero ≠ 0 then x.trap s tBadret zero
  else k

/-- R422: each lane of `em` goes where its register says. -/
def execJmp (o : LaneOp) (s : State) : Outcome :=
  laneEnter (.jmp o) o (flowUses o) s fun x =>
    checkTargets s x false (laneBranch s x (srcFrees 32 o.a) (srcVs 32 o.a) [] false (flowTarget x))

/-- R422, R218: the link in each lane of `em`, then as a branch or as `jmp`. -/
def execCall (o : LaneOp) (s : State) : Outcome :=
  let u := flowUses o
  laneEnter (.call o) o u s fun x =>
    let ind := o.md.getLsbD 0
    let link : List (Nat × Lanes) := u.dv.map fun n => (n, mergeLanes x.q n x.act fun _ => (fallThrough x.q).toNat)
    let go (t : Nat → Word) : State :=
      laneBranch s x (if ind then srcFrees 32 o.a else []) (if ind then srcVs 32 o.a else []) link false t
    if ind then checkTargets s x false (go (flowTarget x))
    else checkTargets s x false (go fun _ => branchTarget x.q o) fun _ => branchTarget x.q o

/-- R422, R218: each lane of `em` goes to its link. -/
def execRet (o : LaneOp) (s : State) : Outcome :=
  laneEnter (.ret o) o (flowUses o) s fun x =>
    checkTargets s x true (laneBranch s x (srcFrees 32 o.a) (srcVs 32 o.a) [] false (flowTarget x))

/-! ### Rejoining (09 R214, R215) -/

/-- Every thread of `pm` is to be parked. -/
def parkAll (s : State) (x : Lx) (kind : Nat) : State :=
  let dest := fallThrough x.q
  let lanes := lanesOf x.q.pm
  if x.q.eject.isSome then setWait s x.id .hold
  else if (spawnRoom s x.q [] [] lanes.length).isNone then
    x.trap s tSpawnfull x.q.pm (trapVals x.q.pm fun _ => dest.setWidth 64)
  else
    let ops := pendingLanes x.q
    if !ops.isEmpty then setWait s x.id (.landing ops)
    else
      modSquad s x.id fun q => { q with
        wait := .hold, held := none
        eject := some { kind := kind, out := lanes.map fun l => (l, dest), stay := none, word := laneWordOf x.i } }

/-- R214: a partial squad parks; a whole one passes. -/
def execRejoin (o : LaneOp) (s : State) : Outcome :=
  laneEnter (.rejoin o) o {} s fun x =>
    if x.q.pm = 0xFFFFFFFF ∨ (lrOf s x.q.team).spawnkib = 0 then finishShort s x [] [] {}
    else parkAll s x 1

/-- Tickets of the present lanes' threads rise by 1, modulo 2^16. -/
def raiseTickets (q : Squad) : Squad :=
  { q with origin := q.origin.zipIdx.map fun p =>
      if inMask q.pm p.2 then { p.1 with ticket := p.1.ticket + 1 } else p.1 }

/-- The squad holds every live thread of its origin, in its lane, with one ticket (R215). -/
def holdsOrigin (s : State) (id : Nat) (q : Squad) : Bool :=
  let ls := lanesOf q.pm
  let org (l : Nat) : Origin := q.origin.getD l ⟨0, 0, 0⟩
  q.originIdx && ls.all (fun l => (org l).osq == q.index && (org l).oln == l)
  && ls.all (fun l => (org l).ticket == (org (ls.headD 0)).ticket)
  && !originLives s q.team q.index id

/-- R215: tickets rise; a squad that holds its whole origin passes, another parks. -/
def execRejoinS (o : LaneOp) (s : State) : Outcome :=
  laneEnter (.rejoinS o) o {} s fun x =>
    if holdsOrigin s x.id x.q ∨ (lrOf s x.q.team).spawnkib = 0 then finishShort s x [] [] { post := raiseTickets }
    else parkAll s x 2

/-! ### Ends and waits -/

/-- The threads of some lanes end, and the squad goes on with the others or leaves. -/
def exitLanes (o : LaneOp) (s : State) (x : Lx) : State :=
  settleExit (endLanes (modSquad s x.id (advance o)) x.id x.act) x.id

/-- R423, 18 R435: an `exit` that would end the squad waits until the operand log is empty; the deferred traps that are due
by then, and the engine errors that the squad has not observed, are delivered before it takes effect. -/
def execExit (o : LaneOp) (s : State) : Outcome :=
  laneEnter (.exit o) o {} s fun x =>
    if x.act = 0 then modSquad s x.id (advance o)
    else if x.act ≠ x.q.pm then exitLanes o s x
    else if !x.q.log.isEmpty then setWait s x.id .hold
    else if inHandler x.q || (x.q.traps.isEmpty && x.q.unseen.isEmpty) then exitLanes o s x
    else modSquad (seeAll s x.id) x.id fun q => { q with wait := .none }

/-- R424, R157: leave issue until the flags of the mask are 0, then go on at the label. -/
def execYield (o : LaneOp) (s : State) : Outcome :=
  laneEnter (.yield o) o { gs := srcGs o.a } s fun x =>
    let m := srcVal x.q o 0 64 o.a 0
    if m ≥ 2 ^ 12 then x.illop s
    else
      modSquad s x.id fun q =>
        let c := branchTarget q o
        { advance o q with pos := c, inVolley := false, held := none, wait := .yield (BitVec.ofNat 12 m) c }

/-- Arrival at the team barrier (R425). -/
def arrive (s : State) (x : Lx) : State :=
  let t := teamOf s x.q.team
  let s := modTeam s x.q.team fun t => { t with barArr := t.barArr + popNat 32 x.q.pm.toNat }
  let s := modSquad s x.id fun q => { q with marks := q.marks ||| q.pm, phase := some t.barPhase, arrived := true }
  barrierTest s x.q.team

/-- Wait while the phase that the squad arrived in lasts. -/
def barrierWait (s : State) (x : Lx) : State :=
  match mget s.squads x.id with
  | none => s
  | some q =>
    let ph := (teamOf s q.team).barPhase
    if q.phase = some ph then setWait s x.id (.barrier ph) else finishShort s x [] [] {}

/-- R425: arrive, then wait. -/
def execBar (o : LaneOp) (s : State) : Outcome :=
  laneEnter (.bar o) o {} s fun x =>
    if x.act = 0 then finishShort s x [] [] {}
    else if x.q.arrived then barrierWait s x
    else if x.q.marks &&& x.q.pm ≠ 0 then setWait s x.id (.barrier (teamOf s x.q.team).barPhase)
    else laneRelease s x fun s => barrierWait (arrive s x) x

/-- R425: arrive. -/
def execBarar (o : LaneOp) (s : State) : Outcome :=
  laneEnter (.barar o) o {} s fun x =>
    if x.act = 0 then finishShort s x [] [] {}
    else if x.q.marks &&& x.q.pm ≠ 0 then setWait s x.id (.barrier (teamOf s x.q.team).barPhase)
    else laneRelease s x fun s => finishShort (arrive s x) x [] [] {}

/-- R425: wait for the phase that the squad arrived in. -/
def execBarwt (o : LaneOp) (s : State) : Outcome :=
  laneEnter (.barwt o) o {} s fun x => if x.act = 0 then finishShort s x [] [] {} else barrierWait s x

/-- End of a nap of n nanoseconds; 0 sets no limit. -/
def napEnd (s : State) (n : Nat) : Option Nat := if n = 0 then none else some (s.timeNs.toNat + n)

/-- R426: a visible wait with a time limit. -/
def execNap (o : LaneOp) (s : State) : Outcome :=
  laneEnter (.nap o) o { gs := srcGs o.a } s fun x =>
    if x.act = 0 ∨ x.q.granted.isSome then finishShort s x [] [] {}
    else
      let n := match o.a with | .lit => o.imm.toNat | c => srcVal x.q o 0 64 c 0
      setWait s x.id (.nap (napEnd s n))

/-! ### Control registers (14 R330, 17 R430) -/

/-- A lane control register's value. -/
def laneCsr (s : State) (q : Squad) (n : Nat) : Nat :=
  match n with
  | 0 => q.tcause.toNat
  | 1 => q.tpc.toNat
  | 2 => q.tlm.toNat
  | 3 => q.tem.toNat
  | 4 => (teamOf s q.team).thand.toNat
  | 5 => q.lfm.toNat
  | 6 => q.cstat.toNat
  | _ => q.fpmode.toNat

/-- Width of a lane control register. -/
def csrWidth (n : Nat) : Nat := if n = 4 then 64 else 32

/-- R430: read a control register. -/
def execCsrr (o : LaneOp) (s : State) : Outcome :=
  let n := o.imm.toNat % 256
  let w := csrWidth n
  let u : Uses := { dv := dstVs w o.dst }
  laneEnter (.csrr o) o u s fun x =>
    longReady s x u.dv.length fun s => finishLong s x [] [] (valResult x w fun _ => laneCsr s x.q n)

/-- A write of a lane control register, by its access codes (07 R171, 12 R273, 13 R291). -/
def laneCsrWrite (s : State) (id team n v : Nat) : State :=
  match n with
  | 3 => modSquad s id fun q => { q with tem := BitVec.ofNat 32 v }
  | 4 =>
    if bitsOf v 0 32 % 12 ≠ 0 ∨ bitsOf v 32 19 % 64 ≠ 0 then s
    else modTeam s team fun t => { t with thand := BitVec.ofNat 64 (v % 2 ^ 51) }
  | 6 => modSquad s id fun q => { q with cstat := q.cstat &&& ~~~(BitVec.ofNat 32 (v % 32)) }
  | 7 => modSquad s id fun q => { q with fpmode := BitVec.ofNat 32 (v % 2) }
  | _ => s

/-- R430: write a control register with the value of the lowest active lane. -/
def execCsrw (o : LaneOp) (s : State) : Outcome :=
  let n := o.imm.toNat % 256
  let w := csrWidth n
  let u : Uses := { vs := srcVs w o.a, gs := srcGs o.a }
  laneEnter (.csrw o) o u s fun x =>
    let s := match lowLane x.act with
      | some l => laneCsrWrite s x.id x.q.team n (srcVal x.q o 0 w o.a l)
      | none => s
    finishShort s x u.vs (srcFrees w o.a) {}

/-! ### Traps, time, random values -/

/-- R431: `SWTRAP` with the immediate, when a lane is active. -/
def execTrap (o : LaneOp) (s : State) : Outcome :=
  laneEnter (.trap o) o {} s fun x =>
    if x.act = 0 then finishShort s x [] [] {} else x.trap s tSwtrap x.act [] (o.imm.setWidth 64)

/-- R431: `BRK`, when a lane is active. -/
def execBrk (o : LaneOp) (s : State) : Outcome :=
  laneEnter (.brk o) o {} s fun x => if x.act = 0 then finishShort s x [] [] {} else x.trap s tBrk x.act

/-- R431: no effect. -/
def execNop (o : LaneOp) (s : State) : Outcome := laneEnter (.nop o) o {} s fun x => finishShort s x [] [] {}

/-- How many `rdclk` and `rand` a squad index has issued, before and after one more (05 R129). -/
def ndetOf (t : Team) (index : Nat) : Nat := mgetD t.ndet index 0

def countNdet (s : State) (q : Squad) : State :=
  modTeam s q.team fun t => { t with ndet := mset t.ndet q.index (ndetOf t q.index + 1) }

/-- The log entry of a lane's result begins so. -/
def laneKey (s : State) (x : Lx) (kind l : Nat) : List Byte :=
  let t := teamOf s x.q.team
  logKey kind 0 x.q.index l t.index (ndetOf t x.q.index)

/-- Results of lanes, each logged or replayed, in ascending lane order. -/
def logLanes (x : Lx) (kind : Nat) (live : Nat → Dword) : List Nat → State → State × List (Nat × Dword)
  | [], s => (s, [])
  | l :: ls, s =>
    let (s, v) := logValue s (slotOf s x.q.team) (laneKey s x kind l) (live l) none .none
    let (s, rest) := logLanes x kind live ls s
    (s, (l, v) :: rest)

/-- The log pushes made since there were n of them wait for the operation `op`. -/
def tiePushes (s : State) (n op : Nat) : State :=
  { s with dpush := s.dpush.zipIdx.map fun p => if n ≤ p.2 then { p.1 with pop := some op } else p.1 }

/-- A result that the recording may log: the instruction counts once and ends when its log entries are pushed. It waits while a
page of the log that it is to be replayed from is held. -/
def execLogged (s : State) (x : Lx) (w kind : Nat) (lanes : List Nat) (live : Nat → Dword) : State :=
  if lanes.any fun l => logHeld s (slotOf s x.q.team) (laneKey s x kind l) then setWait s x.id .hold else
  let n := s.dpush.length
  let (s', vals) := logLanes x kind live lanes s
  let val (l : Nat) : Nat := match vals.find? fun p => p.1 == l with
    | some p => p.2.toNat
    | none => match vals with | p :: _ => p.2.toNat | [] => 0
  let s' := countNdet s' x.q
  let op := s'.nextId
  let s' := finishLong s' x [] [] { valResult x w val with ready := decide (s'.dpush.length = n) }
  tiePushes s' n op

/-- R432: the time base, sampled once. -/
def execRdclk (o : LaneOp) (s : State) : Outcome :=
  let u : Uses := { dv := dstVs 64 o.dst }
  laneEnter (.rdclk o) o u s fun x =>
    longReady s x u.dv.length fun s =>
      execLogged s x 64 2 (if x.act = 0 then [] else [0]) fun _ => s.timeNs

/-- R432: an independent random value in each active lane. -/
def execRand (o : LaneOp) (s : State) : Outcome :=
  let w := o.ty.opW
  let u : Uses := { dv := dstVs w o.dst }
  laneEnter (.rand o) o u s fun x =>
    longReady s x u.dv.length fun s =>
      execLogged s x w 3 (lanesOf x.act) fun l =>
        BitVec.ofNat 64 ((Config.free64 s.freeNo l).toNat % 2 ^ w)

end Sys2Proof.Machine
end

