-- ==== Sys2Proof/Machine/Volley.lean ====
section
/-! DEFINITION. Volleys: instruction fetch (14 R322), headers and their check (14 R319 to R321), eligibility and the choice
of an issue slot (06 R147, R148), visible waits (06 R154). -/

namespace Sys2Proof.Machine

/-! ### Fetching code (14 R322) -/

/-- What a fetch meets. -/
inductive Fetched where
  | bytes (bs : List Byte)
  | fault (kind die hme pte : Nat)
  | poison
  | held
  | remote (hme : Nat)
  deriving DecidableEq, Repr

/-- Fetch n bytes of code. -/
def fetchCode (s : State) (r : Rq) (va n : Nat) : State × Fetched :=
  match loadRange s { r with l1 := false } accFetch va n with
  | (s, .done, bs) => (s, .bytes bs)
  | (s, .fault k d h p, _) => (s, .fault k d h p)
  | (s, .poison, _) => (s, .poison)
  | (s, .held, _) => (s, .held)
  | (s, .remote h, _) => (s, .remote h)

/-- The lane word at an offset from `CB`: supplied by a host or peer home, or fetched. -/
def fetchWord (s : State) (id : Nat) (q : Squad) (off : Word) : State × Fetched :=
  match mget q.code off.toNat with
  | some (b :: bs) => (s, .bytes (b :: bs))
  | _ => fetchCode s (rqSquad s id q) (cbOf s q.team + off.toNat) 12

def wordVal (bs : List Byte) : BitVec 96 := BitVec.ofNat 96 (fieldOf bs 0 12)

/-- A word that cannot be read has no value to record (13 R293; log entry 13). -/
def unknownWord (s : State) : BitVec 96 := ((Config.free64 s.freeNo 0) ++ (Config.free64 s.freeNo 1)).setWidth 96

/-- A fetch that fails: the squad parks at the word, asks a host or peer home, waits, or traps; a fault whose verdict came while
the volley was checked is a trap now. -/
def fetchFailed (s0 s : State) (id : Nat) (q : Squad) (off : Word) (f : Fetched) : State :=
  let r := rqSquad s id q
  let va := cbOf s q.team + off.toNat
  let bad := loadFails s0 r accFetch va 12
  match f with
  | .bytes _ => s
  | .fault k d h p =>
    if mget q.code off.toNat = some [] then
      preciseTrap s id tMemfault q.em (unknownWord s) (trapVals q.em fun _ => BitVec.ofNat 64 bad) (memAux k accFetch)
    else squadFault s id r .ifetch k d h p bad accFetch
  | .poison => preciseTrap s id tPoison q.em (unknownWord s) (trapVals q.em fun _ => BitVec.ofNat 64 bad)
  | .held => keepSaid s0 s
  | .remote h =>
    setWait (sendRemote s { id := 0, who := .squad id 0, kind := .ifetch, asid := r.asid, va := BitVec.ofNat 64 va,
                            st := .sent, die := r.die, slot := r.slot, acc := accFetch, hme := h }) id .fault

/-! ### Headers (14 R319 to R321) -/

def hdrN (h : BitVec 96) : Nat := (h.extractLsb' 10 5).toNat
def hdrWait (h : BitVec 96) : BitVec 12 := h.extractLsb' 15 12
def hdrUni (h : BitVec 96) : Bool := h.getLsbD 36

/-- The header's own fields. -/
def hdrOk (h : BitVec 96) : Bool :=
  let set (x : BitVec 4) : Bool := decide (x.toNat ≤ 11) || x == 15
  h.extractLsb' 0 10 == 0 && h.extractLsb' 37 59 == 0 && decide (1 ≤ hdrN h) && decide (hdrN h ≤ 24)
  && set (h.extractLsb' 27 4) && set (h.extractLsb' 32 4)

/-- Opcodes of the flow instructions: 0x380 to 0x387 and `tret`. -/
def isFlowOpc (w : BitVec 96) : Bool :=
  let opc := (w.extractLsb' 0 10).toNat
  (decide (0x380 ≤ opc) && decide (opc ≤ 0x387)) || opc == 0x394

/-- A slot that the instruction uses names `v255`: with a uniform register there it would be as well formed. -/
def readsV255 (opc : BitVec 10) (o : LaneOp) : Bool :=
  let used (o : LaneOp) : Bool := (laneMk opc o).any Instr.wf
  (o.a.unused && used { o with a := .g 0 }) || (o.b.unused && used { o with b := .g 0 }) || (o.c.unused && used { o with c := .g 0 })

/-- What a uniform-only volley may hold (R321). -/
def uniOk (w : BitVec 96) : Bool :=
  match decodeLane w with
  | .error _ => false
  | .ok i =>
    match i.lane? with
    | none => false
    | some (opc, o) =>
      let kind := match i with
        | .icmp _ | .fcmp _ => false
        | .mov _ | .movk _ | .nop _ | .bru _ => true
        | .rdsp o => !([0, 11, 12, 13, 14].contains o.imm.toNat)
        | _ => decide (opc.toNat < 0x100)
      let dst := match o.dst with | .g _ | .none => true | _ => false
      let src (x : Src) : Bool := x.unused || x.isG || x.isLit
      kind && dst && (match i with | .movk _ => true | _ => src o.a && src o.b && src o.c) && !readsV255 opc o && o.unguarded

/-- Word k of a volley of n, in the header's terms (R320). -/
def wordOk (uni : Bool) (n k : Nat) (w : BitVec 96) : Bool :=
  w.extractLsb' 0 10 != 0 && (w.getLsbD 26 == (k == n)) && (k == n || !isFlowOpc w) && (!uni || uniOk w)

/-- What the check of a volley finds (R320): it is sound, or malformed, or a word of it is not there yet. A word that can never
be read is no word of the check: its fetch traps when the squad reaches it (R322; log entry 41). -/
inductive VolleyAns where
  | sound
  | malformed
  | missing (off : Word) (f : Fetched)
  deriving DecidableEq, Repr

/-- A word whose fetch has failed will come, or may: its page is held, a home outside sends it, or a verdict on its fault is
still to be had. -/
def Fetched.comes (q : Squad) (off : Word) : Fetched → Bool
  | .held | .remote _ => true
  | .fault k _ _ _ => replayable k && mget q.code off.toNat != some []
  | .bytes _ | .poison => false

/-- The words of a volley: their places and offsets, and what their fetches meet. -/
def volleyWords (s : State) (id : Nat) (q : Squad) (n : Nat) : List (Nat × Word × Fetched) :=
  (List.range n).map fun k =>
    let off := q.pos + BitVec.ofNat 32 (12 * (k + 1))
    (k + 1, off, (fetchWord s id q off).2)

/-- The header and the words of its volley are as R320 and R321 want them. -/
def volleyCheck (s : State) (id : Nat) (q : Squad) (h : BitVec 96) : VolleyAns :=
  if hdrOk h = false then .malformed
  else
    let ws := volleyWords s id q (hdrN h)
    let bad (x : Nat × Word × Fetched) : Bool := match x.2.2 with
      | .bytes bs => !wordOk (hdrUni h) (hdrN h) x.1 (wordVal bs)
      | _ => false
    if ws.any bad then .malformed
    else match ws.find? fun x => x.2.2.comes q x.2.1 with
      | some x => .missing x.2.1 x.2.2
      | none => .sound

/-- A squad at a header waits for the held page of a word. -/
def volleyHeld (s : State) (id : Nat) (q : Squad) : Bool :=
  match (fetchWord s id q q.pos).2 with
  | .bytes bs => (match volleyCheck s id q (wordVal bs) with | .missing _ .held => true | _ => false)
  | .held => true
  | _ => false

/-- Put a header in force. -/
def setHeader (h : BitVec 96) (at_ : Word) (q : Squad) : Squad :=
  { q with hdr := h, hpos := at_, seta := h.extractLsb' 27 4, setb := h.extractLsb' 32 4, yieldHint := h.getLsbD 31,
           uni := hdrUni h }

/-- The end of a wait on flags observes the errors of their operations (11 R250): outside a handler their traps come
first. -/
def waitEnds (s : State) (id : Nat) (q : Squad) (m : BitVec 12) (k : State → State) : State :=
  if q.unseen.any (onFlags m) then
    let s := observe s id (onFlags m)
    if inHandler q then k s else s
  else k s

/-- A squad arrives at a header: it is checked, and the volley begins. -/
def enterVolley (s : State) (id : Nat) (q : Squad) (slot : Bool) : State :=
  waitEnds s id q (match q.wait with | .yield m _ => m | _ => 0) fun s =>
    match fetchWord s id q q.pos with
    | (s1, .bytes bs) =>
      let h := wordVal bs
      match volleyCheck s1 id q h with
      | .malformed => preciseTrap s1 id tIllop q.em h
      | .missing off .held => setWait (keepSaid s (fetchWord s1 id q off).1) id .hold
      | .missing off f => fetchFailed s1 (fetchWord s1 id q off).1 id q off f
      | .sound =>
        waitEnds s1 id q (hdrWait h) fun s1 =>
          let now := clk s1 (q.core / 256)
          let s1 := { s1 with cores := mset s1.cores q.core { mgetD s1.cores q.core {} with idleSince := now } }
          modSquad s1 id fun x => { setHeader h q.pos x with
            pos := q.pos + 12, inVolley := true, held := some slot, wait := .none, wonAt := now }
    | (s1, f) => fetchFailed s s1 id q q.pos f

/-! ### Eligibility (06 R147, R148, R154) -/

/-- Every flag of a mask is 0. -/
def flagsClear (q : Squad) (m : BitVec 12) : Bool :=
  ((List.range 12).filter m.getLsbD).all fun f => flagCount q f == 0

/-- Where the next header stands: its page is held, or its flags are not all 0, or the squad may begin its volley. One that
cannot be read, a malformed volley, whose trap comes before its wait, and one of which a word is missing are looked at when
the squad wins (14 R320). -/
inductive HdrAns where
  | held
  | flags
  | ready
  deriving DecidableEq, Repr

def headerAns (s : State) (id : Nat) (q : Squad) : HdrAns :=
  match (fetchWord s id q q.pos).2 with
  | .bytes bs =>
    if flagsClear q (hdrWait (wordVal bs)) then .ready
    else if volleyCheck s id q (wordVal bs) = .sound then .flags else .ready
  | .held => .held
  | _ => .ready

def headerReady (s : State) (id : Nat) (q : Squad) : Bool := headerAns s id q == .ready

/-- A save of a team of the squad's context waits for a block, and the squad's core is affected: it issues nothing for the
context (13 R309). -/
def coreStopped (s : State) (q : Squad) : Bool :=
  s.teams.any fun t => t.2.noBlock && t.2.cores.contains q.core && (gridOf s t.2).slot == slotOf s q.team

/-- A squad that an issue slot may choose. One that waits in a queue or for an access to be made again is not: the end of
its wait frees it (05 R474, 06 R148, R154). -/
def eligible (s : State) (id : Nat) (q : Squad) : Bool :=
  let t := teamOf s q.team
  let next : Bool := if q.inVolley then true else t.state == .resident && headerReady s id q
  t.runs && !coreStopped s q && q.held.isNone && q.eject.isNone && (q.pm != 0 || (inHandler q && !q.leaving))
  && (q.traps.isEmpty || inHandler q)
  && match q.wait with
    | .none => next
    | .landing ops => ops.isEmpty && next
    | .grow rows => growCheck s id q rows != .wait && next
    | .yield m _ => flagsClear q m && next
    | _ => false

/-- A squad in a visible wait. -/
def visibleWait (s : State) (id : Nat) (q : Squad) : Bool :=
  match q.wait with
  | .shared _ _ | .nap _ | .barrier _ | .queue _ | .handler => true
  | .yield m _ => !flagsClear q m || headerAns s id q == .flags
  | .none => !q.inVolley && q.held.isNone && q.eject.isNone && headerAns s id q == .flags
  | _ => false

/-! ### The choice (06 R147) -/

def prioOf (s : State) (q : Squad) : Nat := (lrOf s q.team).prio

/-- The older of two squads; of equal age, the lower slot. -/
def olderSquad (a b : Nat × Squad) : Nat × Squad :=
  if b.2.wonAt < a.2.wonAt ∨ (b.2.wonAt = a.2.wonAt ∧ b.2.slot < a.2.slot) then b else a

def oldestSquad : List (Nat × Squad) → Option (Nat × Squad)
  | [] => none
  | x :: xs => some (xs.foldl olderSquad x)

/-- The winner among eligible squads. -/
def slotWinner (s : State) (agemax : Nat) (l : List (Nat × Squad)) : Option (Nat × Squad) :=
  if l.length ≤ 1 then l.head? else
  match oldestSquad (l.filter fun x => decide (agemax ≤ clk s (x.2.core / 256) - x.2.wonAt)) with
  | some x => some x
  | none =>
    let top := l.foldl (fun p x => Nat.max p (prioOf s x.2)) 0
    oldestSquad (l.filter fun x => prioOf s x.2 == top)

/-- R147: a free issue slot chooses a squad, which goes on within its volley or begins the next one. -/
def execIssueSlotSelect (s : State) : Outcome :=
  .next (
    let here (q : Squad) : Bool := q.core == s.arg.core && q.part == s.arg.part
    if s.squads.any fun x => here x.2 && x.2.held == some s.arg.issueSlot then s
    else
      match slotWinner s (getDie s (s.arg.core / 256)).agemax.toNat
          (s.squads.filter fun x => here x.2 && eligible s x.1 x.2) with
      | none => s
      | some (id, q) =>
        if q.inVolley then
          modSquad s id fun q => { q with held := some s.arg.issueSlot, wait := .none, wonAt := clk s (q.core / 256) }
        else enterVolley s id q s.arg.issueSlot)

end Sys2Proof.Machine
end

