-- ==== Sys2Proof/Machine/Former.lean ====
section
/-! DEFINITION. Ejection and parking, the former and the forming of squads (09 R209 to R215, R220), and the free squad
slots of a core (06 R141). -/

namespace Sys2Proof.Machine

/-! ### Squad slots (06 R141) -/

/-- Slots of a partition in use. -/
def usedSlots (s : State) (core part : Nat) : List Nat :=
  (s.squads.filter fun x => inPartition s core part x.2).map (·.2.slot)

def lowestFree (used : List Nat) (n : Nat) : Option Nat := (List.range n).find? fun k => !used.contains k

/-- The partition with the most free squad slots; of equals the lowest. `free` lists free slots by partition. -/
def bestPart (free : List Nat) : Nat :=
  let top := free.foldl Nat.max 0
  free.findIdx fun n => n == top

/-- Free slots of each partition of a core. -/
def freeSlots (s : State) (core : Nat) : List Nat := (List.range 12).map fun p => 8 - (usedSlots s core p).length

/-! ### Thread records (R211) -/

/-- The bytes of a record. -/
def recordBytes (r : ThreadRec) : List Byte :=
  let live := r.regs.foldl (fun m x => m ||| (1 <<< x.1)) 0
  let regs := (r.regs.map fun x => bytesOf 4 x.2.toNat).flatten
  bytesOf 8 r.tpc.toNat ++ bytesOf 2 r.org.osq ++ bytesOf 1 r.org.oln ++ bytesOf 1 r.kind ++ bytesOf 2 r.org.ticket.toNat
  ++ [r.preds, 1] ++ bytesOf 32 live ++ zeros 16 ++ regs ++ zeros (64 * r.units - 64 - regs.length)

/-- Address of the spawn area of a team (R210, 06 R141). -/
def spawnVa (s : State) (team : Nat) : Nat :=
  let lr := lrOf s team
  lr.spawnbase.toNat + 1024 * lr.spawnkib * (teamOf s team).spawnSlot.getD 0

/-- Requests of the device itself, made at a die. -/
def rqDevice (s : State) (die slot : Nat) : Rq :=
  { die := die, cluster := 64 * die, slot := slot, asid := ctxAsid s slot, agent := .none, l1 := false }

/-- Write records into the spawn area, up to the first that cannot be written: its address and bytes, and what it met. The
host or a peer that homes the area is sent them (log entry 56). -/
def writeRecords (r : Rq) (base : Nat) : List ThreadRec → State → State × Option (Nat × List Byte × Acc)
  | [], s => (s, none)
  | x :: xs, s =>
    let va := base + 64 * x.off
    let bs := recordBytes x
    match storeRange s r va bs with
    | (s, .done) => writeRecords r base xs s
    | (s, .remote h) =>
      writeRecords r base xs (sendRemote s { id := 0, who := .device, kind := .write bs, asid := r.asid, va := BitVec.ofNat 64 va,
                                             st := .sent, die := r.die, slot := r.slot, acc := accStore, hme := h })
    | (s, a) => (s, some (va, bs, a))

/-- The spawn area cannot be written: the ejecting squad waits while its page is held and for the verdict on a replayable
fault, and traps at its branch on poison, or once another fault is recorded (03 R74; log entry 56). -/
def ejectFails (s0 s : State) (id : Nat) (q : Squad) (e : Eject) (r : Rq) (va : Nat) (bs : List Byte) (a : Acc) : State :=
  let req : Req := { id := 0, who := .squad id 0, kind := .write bs, asid := r.asid, va := BitVec.ofNat 64 va, st := .sent,
                     die := r.die, slot := r.slot, acc := accStore }
  let trap (s : State) (code : Byte) (aux : Dword) : State :=
    takeTrap (modSquad s id fun q => { q with eject := none, wait := .none }) id
      { code := code, tlm := q.em, vals := trapVals q.em fun _ => BitVec.ofNat 64 va, aux := aux, tpc := q.pos, word := e.word }
  match a with
  | .fault _ _ _ _ => parkAcc s req a
  | .poison => trap s tPoison 0
  | _ => keepSaid s0 s

/-- The record of one lane. -/
def laneRecord (q : Squad) (kind : Nat) (v : FMap VReg) (lane off units : Nat) (tpc : Word) : ThreadRec :=
  let o := q.origin.getD lane ⟨0, 0, 0⟩
  { off := off, units := units, tpc := tpc, kind := kind, marked := inMask q.marks lane,
    org := if kind = 2 then { o with ticket := o.ticket + 1 } else o
    preds := BitVec.ofNat 8 (((List.range 7).filter fun k => inMask (q.p.getD k 0) lane).foldl (fun n k => n + 2 ^ k) 0)
    regs := v.map fun x => (x.1, laneAt x.2.val lane) }

/-! ### Groups (R212) -/

/-- Records that merge. -/
def sameKey (a b : ThreadRec) : Bool :=
  a.tpc == b.tpc
  && (if a.kind = 2 then b.kind == 2 && a.org.osq == b.org.osq && a.org.ticket == b.org.ticket else b.kind != 2)

/-- A record reaches the former of its core. -/
def arriveRecord (core now : Nat) (r : ThreadRec) : List Group → List Group
  | [] => [{ core := core, recs := [r], lastArrival := now }]
  | g :: gs =>
    if g.core = core ∧ (g.recs.head?.any fun x => sameKey x r) ∧ g.recs.length < 32 then
      { g with recs := g.recs ++ [r], lastArrival := now, due := false } :: gs
    else g :: arriveRecord core now r gs

/-- Lanes to eject in the order of their threads' origin lanes. -/
def originOrder (q : Squad) (out : List (Nat × Word)) : List (Nat × Word) :=
  (laneIdx.map fun k => out.filter fun p => (q.origin.getD p.1 ⟨0, 0, 0⟩).oln == k).flatten

/-- What an ejection waits for: a landing, an access that a verdict or an answer must end, its own write of a record
(R209, R217), and the handler of another squad of the team (R220). -/
def ejectWaits (s : State) (id : Nat) (q : Squad) : Bool :=
  let t := teamOf s q.team
  !t.runs || (t.hsq.isSome && t.hsq != some q.index) || !(pendingLanes q).isEmpty || !(waitingAccesses s id q).isEmpty
  || s.reqs.any fun r => r.who == .squad id 0

/-- R209, R214, R215: once the pending lane writes have landed, the records are written, all or none, and the threads
leave the squad. -/
def execThreadEjection (s : State) : Outcome :=
  .next (match mget s.squads s.arg.id with
  | none => s
  | some q =>
    let id := s.arg.id
    match q.eject with
    | none => s
    | some e =>
      let rows := linkRows e.link
      if ejectWaits s id q then s
      else if rows ≠ 0 ∧ growCheck s id q rows ≠ .ok then
        modSquad s id fun q => { q with eject := none, wait := .grow rows }
      else
        match spawnRoom s q e.frees e.link e.out.length with
        | none =>
          let m := maskOf fun l => e.out.any fun p => p.1 == l
          let val (l : Nat) : Dword := match e.out.find? fun p => p.1 == l with | some p => p.2.setWidth 64 | none => 0
          takeTrap (modSquad s id fun q => { q with eject := none, wait := .none }) id
            { code := tSpawnfull, tlm := if e.kind = 0 then m else q.pm, vals := trapVals (if e.kind = 0 then m else q.pm) val,
              tpc := q.pos, word := e.word }
        | some places =>
          let v := mapRegs (unmapAll q.v e.frees) e.link
          let out := originOrder q e.out
          let recs := (out.zip places).map fun p => laneRecord q e.kind v p.1.1 p.2 (recordUnits v.length) p.1.2
          let r := rqDevice s (q.core / 256) (slotOf s q.team)
          match writeRecords r (spawnVa s q.team) recs s with
          | (s1, some (va, bs, a)) => ejectFails s s1 id q e r va bs a
          | (s, none) =>
            let m := maskOf fun l => e.out.any fun p => p.1 == l
            let s := drainAgent s (.squad id)
            let s := modTeam s q.team fun t => { t with
              groups := recs.foldl (fun gs r => arriveRecord q.core (clk s (q.core / 256)) r gs) t.groups }
            let s := modSquad s id fun q => { q with
              v := v, pm := q.pm &&& ~~~m, em := q.em &&& ~~~m, marks := q.marks &&& ~~~m, eject := none, wait := .none
              pos := e.stay.getD (q.pos + 12), inVolley := false, held := none, granted := none, arrived := false, code := [] }
            settleExit s id)

/-! ### Release (R212, R213, R215, R220) -/

/-- A group that squads may be made of. -/
def waitsAll (s : State) (team : Nat) : Bool := (squadsOf s team).all fun x => visibleWait s x.1 x.2

/-- Every live thread of an origin is parked at some `rejoin.s` (R215). -/
def originParked (s : State) (team osq : Nat) : Bool :=
  ((squadsOf s team).all fun x => (lanesOf x.2.pm).all fun l => (x.2.origin.getD l ⟨0, 0, 0⟩).osq != osq)
  && (teamOf s team).groups.all fun g => g.recs.all fun r => r.org.osq != osq || r.kind == 2

/-- Order of release: target, then ticket. -/
def groupKey (g : Group) : Nat :=
  match g.recs with
  | r :: _ => r.tpc.toNat * 2 ^ 16 + (if r.kind = 2 then r.org.ticket.toNat else 0)
  | [] => 0

/-- No group of the same origin comes before a parked one (R215). -/
def firstOfOrigin (s : State) (team osq : Nat) (g : Group) : Bool :=
  (teamOf s team).groups.all fun h => match h.recs with
    | r :: _ => r.kind != 2 || r.org.osq != osq || decide (groupKey g ≤ groupKey h)
    | [] => true

/-- A group that the former may release now: full, quiet for 256 clocks, the first of an origin that is parked, or all others
waiting. -/
def groupDue (s : State) (team : Nat) (g : Group) : Bool :=
  match g.recs with
  | [] => false
  | r :: _ =>
    (if r.kind = 2 then originParked s team r.org.osq && firstOfOrigin s team r.org.osq g else g.due || decide (g.recs.length ≥ 32)) || waitsAll s team

def insertGroup (g : Group) : List Group → List Group
  | [] => [g]
  | x :: xs => if groupKey x ≤ groupKey g then x :: insertGroup g xs else g :: x :: xs

/-- The groups that a core's former may release, in order. -/
def dueGroups (s : State) (team core : Nat) : List Group :=
  ((teamOf s team).groups.filter fun g => g.core == core && groupDue s team g).foldl (fun l g => insertGroup g l) []

/-- R212: a group has had no new arrival for 256 clocks. -/
def execFormerGroupTimeout (s : State) : Outcome :=
  .next (modTeam s s.arg.id fun t => { t with groups := t.groups.zipIdx.map fun p =>
    if p.2 = s.arg.len ∧ p.1.lastArrival + 256 ≤ clk s (p.1.core / 256) then { p.1 with due := true } else p.1 })

/-- A record as the former reads it back: one that software has altered gives values that are not defined (R210; log
entry 13). -/
def readRecord (s : State) (r : Rq) (base n : Nat) (x : ThreadRec) : State × Acc × ThreadRec :=
  match loadRange s r accLoad (base + 64 * x.off) (64 * x.units) with
  | (s, .done, bs) =>
    if bs = recordBytes x then (s, .done, x)
    else
      let free (k : Nat) : Dword := Config.free64 s.freeNo (512 * n + k)
      (s, .done, { x with preds := (free 511).setWidth 8, regs := x.regs.map fun p => (p.1, (free p.1).setWidth 32) })
  | (s, .remote _, _) => (s, .done, x)
  | (s, a, _) => (s, a, x)

/-- Records, up to the first that cannot be read: its address and length, and what it met. -/
def readRecords (r : Rq) (base : Nat) : List (ThreadRec × Nat) → State → State × List ThreadRec × Option (Nat × Nat × Acc)
  | [], s => (s, [], none)
  | (x, n) :: xs, s =>
    match readRecord s r base n x with
    | (s, .done, y) =>
      (match readRecords r base xs s with
       | (s, ys, bad) => (s, y :: ys, bad))
    | (s, a, _) => (s, [], some (base + 64 * x.off, 64 * x.units, a))

/-- A read of the former that cannot be done is recorded once and parks; the group waits (03 R74; log entry 56). -/
def readFails (s : State) (r : Rq) (va n : Nat) (a : Acc) : Option State :=
  let req : Req := { id := 0, who := .device, kind := .read n, asid := r.asid, va := BitVec.ofNat 64 va, st := .sent, die := r.die,
                     slot := r.slot, acc := accLoad }
  if s.reqs.any fun x => x.who == .device && x.asid == r.asid && x.va == req.va && x.kind == req.kind then none
  else match a with
  | .fault _ _ _ _ => some (parkAcc s req a)
  | _ => none

/-- The lane of each record: its origin lane, or its place in order of arrival. -/
def placeLanes (recs : List ThreadRec) : List (Nat × ThreadRec) :=
  recs.zipIdx.map fun p => (if p.1.kind = 2 then p.1.org.oln else p.2, p.1)

/-- Lane registers of a formed squad: live in any lane; others read 0 there (R213). -/
def formRegs (ls : List (Nat × ThreadRec)) : FMap VReg :=
  ls.foldl (fun v p => p.2.regs.foldl (fun v x =>
    mset v x.1 { val := setAt (match mget v x.1 with | some r => r.val | none => zeroLanes) p.1 x.2 }) v) []

/-- The threads of records take their lanes in a squad that starts at their target (R213). -/
def formSquad (ls : List (Nat × ThreadRec)) (phase : Bool) (q : Squad) : Squad :=
  let m := maskOf fun l => ls.any fun p => p.1 == l
  { q with
    pm := m, em := m, v := formRegs ls
    p := (List.range 7).map fun k => maskOf fun l => ls.any fun p => p.1 == l && p.2.preds.getLsbD k
    origin := laneIdx.map fun l => match ls.find? fun p => p.1 == l with | some p => p.2.org | none => ⟨0, l, 0⟩
    marks := maskOf fun l => ls.any fun p => p.1 == l && p.2.marked
    phase := if ls.any fun p => p.2.marked then some phase else none }

/-- The lowest index of a team that a formed squad may take. -/
def formedIndex (s : State) (team : Nat) : Option Nat :=
  let lr := lrOf s team
  let n := lr.teamx * lr.teamy * lr.teamz / 32
  let used := (squadsOf s team).map (·.2.index)
  ((List.range (used.length + 1)).map (n + ·)).find? fun k => !used.contains k && decide (k ≤ 65535)

/-- The state of a squad at its start but for lanes and place (06 R144). -/
def freshSquad (s : State) (team index : Nat) (pos : Word) : Squad :=
  { team := team, index := index, pos := pos, g := [(0, (lrOf s team).args), (1, BitVec.ofNat 64 (cbOf s team))] }

/-- The origin squad that the former has kept for a group. -/
def keptSquad (s : State) (team : Nat) (recs : List ThreadRec) : Option (Nat × Squad) :=
  match recs with
  | r :: _ =>
    if r.kind = 2 ∧ ((squadsOf s team).all fun x => x.2.index != r.org.osq) then
      s.away.find? fun x => x.2.team == team && x.2.kept && x.2.index == r.org.osq
    else none
  | [] => none

/-- A due group takes its place on its former's core, if a squad slot and its rows can be had. -/
def formGroup (s : State) (team core : Nat) (g : Group) : Option State :=
  let t := teamOf s team
  let r := rqDevice s (core / 256) (slotOf s team)
  let part := bestPart (freeSlots s core)
  match lowestFree (usedSlots s core part) 8, formedIndex s team, readRecords r (spawnVa s team) g.recs.zipIdx s with
  | some _, some _, (_, _, some (va, n, a)) => readFails s r va n a
  | some slot, some index, (s1, recs, none) =>
    let ls := placeLanes recs
    let kept := keptSquad s team g.recs
    let tpc := match recs with | r :: _ => r.tpc | [] => 0
    let rows := (formRegs ls).foldl (fun n x => n + shapeRows x.2.val) 0
    let need := if kept.isSome then Nat.max rows (lrOf s team).rows else rows
    if need > freePool s core part then none
    else
      let s1 := modTeam s1 team fun t => { t with groups := t.groups.filter fun x => x != g }
      let place (q : Squad) : Squad := { q with core := core, part := part, slot := slot, wonAt := clk s (core / 256) }
      (match kept with
       | some (id, q) =>
         let x := place (formSquad ls t.barPhase { freshSquad s team q.index tpc with
           g := q.g, f := q.f, cstat := q.cstat, lfm := q.lfm, fpmode := q.fpmode, tiles := q.tiles, carries := q.carries
           latch := q.latch, traps := q.traps, unseen := q.unseen })
         let s2 := { s1 with away := mdel s1.away id, squads := mset s1.squads id x }
         let due := arrivals (teamOf s2 team).trapNo q.traps
         some (modSquad (trapArrives s2 id x due.length) id fun q => { q with traps := due })
       | none =>
         let q := formSquad ls t.barPhase { freshSquad s team index tpc with originIdx := false }
         some { s1 with squads := mset s1.squads s1.nextId (place q), nextId := s1.nextId + 1 })
  | _, _, _ => none

/-- R212, R213: of the groups that its former may release, in their order, the first that can be placed becomes a squad. -/
def execSquadForm (s : State) : Outcome :=
  .next (
    let team := s.arg.id
    let t := teamOf s team
    if t.state ≠ .resident ∨ t.stopping ∨ t.hsq.isSome then s
    else ((dueGroups s team s.arg.core).findSome? (formGroup s team s.arg.core)).getD s)

end Sys2Proof.Machine
end

