-- ==== Sys2Proof/Machine/Placement.lean ====
section
/-! DEFINITION. Placement (06 R139 to R141): the resource check, and the groups of cores that the distributor tries;
launch records (06 R134, R135). -/

namespace Sys2Proof.Machine

/-! ### Resources in use -/

/-- A team whose segments, tiles and windows stand on its cores: it is there, or its image is being written (13 R303). -/
def Team.onCores (t : Team) : Bool := t.state == .resident || t.state == .migrating || (t.state == .swapped && t.stopping)

/-- A team that has ended, or is lost; its operations go on (06 R133, 07 R177). -/
def Team.gone (t : Team) : Bool := t.state == .exited || t.state == .retired

/-- Matrix operations of a team. -/
def teamMops (s : State) (team : Nat) : List MOp := s.mops.filter fun m => (squadAny s m.squad).map (·.team) == some team

/-- A copy or a matrix operation of a team reads or writes its segments (06 R133). -/
def segmentOps (s : State) (team : Nat) : Bool :=
  let inLs (e : CopyEnd) : Bool := match e with | .ls _ _ => true | .mem _ => false
  let onLs (m : MOp) : Bool := match m.instr with
    | .mma _ => true
    | .mmld o | .mmst o => o.md.getLsbD 0
    | _ => false
  s.copies.any (fun c => c.team == team && (inLs c.src || inLs c.dst)) || (teamMops s team).any onLs

/-- A copy, reduction or matrix operation of a team is outstanding (06 R133). -/
def teamOps (s : State) (team : Nat) : Bool :=
  s.copies.any (fun c => c.team == team) || s.creds.any (fun c => c.team == team) || !(teamMops s team).isEmpty

/-- Sum over the teams that hold something. -/
def sumTeams (s : State) (holds : Nat → Team → Bool) (f : Team → LRec → Nat) : Nat :=
  s.teams.foldl (fun n x => if holds x.1 x.2 then n + f x.2 (gridOf s x.2).lr else n) 0

/-- Squads of a launch, and those of one rank (06 R131, R141). -/
def LRec.squads (lr : LRec) : Nat := lr.teamx * lr.teamy * lr.teamz / 32
def LRec.squadsOn (lr : LRec) (rank : Nat) : Nat := (lr.squads + lr.cores - 1 - rank) / lr.cores

/-- KiB of local store of a core, and those in use. -/
def lsCap (s : State) (core : Nat) : Nat := if Config.upperDie s.resets (core / 256) then 512 else 256
def lsUsed (s : State) (core : Nat) : Nat :=
  sumTeams s (fun id t => t.onCores || (t.gone && segmentOps s id)) fun t lr => lr.lskib * t.cores.count core

/-- Squads launched on the cores of a cluster. -/
def squadsAt (cores : List Nat) (lr : LRec) (cl : Nat) : Nat :=
  cores.zipIdx.foldl (fun n p => if clusterOf p.1 = cl then n + lr.squadsOn p.2 else n) 0

/-- Tiles, or carries, of a cluster's engine in use. -/
def tilesUsed (s : State) (cl : Nat) (f : LRec → Nat) : Nat :=
  sumTeams s (fun id t => t.onCores || (t.gone && !(teamMops s id).isEmpty)) fun t lr => f lr * squadsAt t.cores lr cl

/-- Window entries of a cluster's bank in use. -/
def windowUsed (s : State) (cl : Nat) : Nat :=
  sumTeams s (fun _ t => t.onCores) fun t lr => if homeCluster t = cl then lr.hwin else 0

/-- Spine threads of a cluster in use. -/
def spinesUsed (s : State) (cl : Nat) : List Nat :=
  (s.spines.filter fun x => x.2.live && x.2.cluster == cl && (teamOf s x.1).onCores).map (·.2.thread)

/-! ### The check of a group (06 R141) -/

/-- Clusters of one die share an edge of the mesh. -/
def meshNext (a b : Nat) : Bool :=
  let x := a % 64
  let y := b % 64
  a / 64 == b / 64 && (if x / 8 = y / 8 then x + 1 == y || y + 1 == x else x % 8 == y % 8 && (x + 8 == y || y + 8 == x))

/-- At most 3 adjacent clusters of one die. -/
def spanOk (cores : List Nat) : Bool :=
  let cls := rising (cores.map clusterOf)
  decide (cls.length ≤ 3) && cls.any fun a => cls.all fun b => a == b || meshNext a b

/-- Squads with their demands of rows take slots, one after another, in the partition with the most free slots; the
table lists the slots in use and the free rows of each partition. -/
def assign : List Nat → List (List Nat × Nat) → Option (List (Nat × Nat))
  | [], _ => some []
  | d :: ds, tab =>
    let p := bestPart (tab.map fun x => 8 - x.1.length)
    let (used, pool) := tab.getD p ([], 0)
    match lowestFree used 8 with
    | none => none
    | some k => if pool < d then none else (assign ds (setAt tab p (k :: used, pool - d))).map fun l => (p, k) :: l

/-- Partitions of a core as they stand, or empty. -/
def partTable (s : State) (empty : Bool) (core : Nat) : List (List Nat × Nat) :=
  (List.range 12).map fun p => if empty then ([], 2048) else (usedSlots s core p, freePool s core p)

/-- The check of a group of cores, with the partition and slot that each squad of each rank takes. `demands` holds the rows
of each rank's squads. -/
def groupFits (s : State) (empty : Bool) (lr : LRec) (spine : Bool) (cores : List Nat) (demands : List (List Nat)) :
    Option (List (List (Nat × Nat))) :=
  let used (n : Nat) : Nat := if empty then 0 else n
  let home := clusterOf (cores.getD 0 0)
  if spanOk cores
      && cores.all (fun c => !(getDie s (c / 256)).failed && decide (lr.lskib + used (lsUsed s c) ≤ lsCap s c))
      && (rising (cores.map clusterOf)).all (fun cl =>
        decide (lr.tiles * squadsAt cores lr cl + used (tilesUsed s cl (·.tiles)) ≤ 128)
        && decide (lr.carries * squadsAt cores lr cl + used (tilesUsed s cl (·.carries)) ≤ 64))
      && decide (lr.hwin + used (windowUsed s home) ≤ 192)
      && (!spine || decide (used (spinesUsed s home).length < 8)) then
    (cores.zip demands).mapM fun p => assign p.2 (partTable s empty p.1)
  else none

/-- Demands of a team at its first placement. -/
def launchDemands (lr : LRec) : List (List Nat) := (List.range lr.cores).map fun r => List.replicate (lr.squadsOn r) lr.rows

/-! ### The scan (06 R139 to R141) -/

def getSet (s : State) (k : Nat) : PSet := mgetD s.psets k {}

/-- The candidate group of a rank: that core and the next ones in rank order (log entry 42). -/
def candidate (ranks : List Nat) (n i : Nat) : List Nat := (List.range n).map fun k => ranks.getD ((i + k) % ranks.length) 0

/-- The first group from a rank onward that passes: its rank, its cores and the places of its squads. -/
def findGroup (s : State) (empty : Bool) (k : Nat) (lr : LRec) (spine : Bool) (demands : List (List Nat)) (ok : Nat → Bool) :
    Option (Nat × List Nat × List (List (Nat × Nat))) :=
  let p := getSet s k
  let l := p.cores.length
  if l = 0 ∨ lr.cores > l then none
  else (List.range l).findSome? fun j =>
    let i := (p.ptr + j) % l
    let cores := candidate p.cores lr.cores i
    if cores.all ok then (groupFits s empty lr spine cores demands).map fun a => (i, cores, a) else none

/-- The placement set of a context's grids: the bullpen linked to it, or the set of `SCHED` (06 R139, R150). -/
def setOf (s : State) (slot : Nat) (bullpen : Bool) : Option Nat :=
  if bullpen then (s.psets.find? fun x => x.2.bullpen == some slot).map (·.1)
  else
    let k := ccb s slot 0x48 2
    match mget s.psets k with
    | some p => if p.bullpen.isNone then some k else none
    | none => none

/-- Some group could pass with every core of the set empty (06 R135). -/
def placeable (s : State) (slot : Nat) (lr : LRec) : Bool :=
  match setOf s slot lr.bullpen with
  | some k => (findGroup s true k lr lr.spine (launchDemands lr) fun _ => true).isSome
  | none => false

/-! ### Launch records (06 R134) -/

/-- The fields of a record. -/
def lrParse (d : List Byte) : LRec :=
  let fl := fieldOf d 39 1
  { entryl := BitVec.ofNat 64 (fieldOf d 0 8), entrys := BitVec.ofNat 64 (fieldOf d 8 8), gridx := fieldOf d 16 4
    gridy := fieldOf d 20 2, gridz := fieldOf d 22 2, teamx := fieldOf d 24 2, teamy := fieldOf d 26 2, teamz := fieldOf d 28 2
    cores := fieldOf d 30 1, prio := fieldOf d 31 1, rows := fieldOf d 32 2, lskib := fieldOf d 34 2, tiles := fieldOf d 36 1
    carries := fieldOf d 37 1, hwin := fieldOf d 38 1, spine := bitOf fl 0, idem := bitOf fl 1, mig := bitOf fl 2
    bullpen := bitOf fl 3, gxind := bitOf fl 4, args := BitVec.ofNat 64 (fieldOf d 40 8)
    spawnbase := BitVec.ofNat 64 (fieldOf d 48 8), spawnkib := fieldOf d 56 4, spawnslots := fieldOf d 60 2
    gxaddr := BitVec.ofNat 64 (fieldOf d 64 8), exitrec := BitVec.ofNat 64 (fieldOf d 72 8), doneq := fieldOf d 80 2 }

/-- Fields outside their ranges, but for the bullpen (R135). -/
def lrBad (d : List Byte) : Bool :=
  let r := lrParse d
  let n := r.teamx * r.teamy * r.teamz
  fieldOf d 82 46 != 0 || fieldOf d 62 2 != 0 || fieldOf d 39 1 / 32 != 0 || decide (3 < r.prio)
  || r.entryl.toNat % 12 != 0 || r.entrys.toNat % 4 != 0 || (!r.spine && r.entrys != 0)
  || (if r.gxind then r.gridx != 0 else r.gridx == 0 || decide (2 ^ 31 ≤ r.gridx)) || r.gridy == 0 || r.gridz == 0
  || n % 32 != 0 || n == 0 || decide (32768 < n) || r.cores == 0 || decide (12 < r.cores)
  || decide (96 < (n / 32 + r.cores - 1) / r.cores) || r.rows == 0 || decide (2048 < r.rows) || decide (512 < r.lskib)
  || decide (16 < r.tiles) || decide (8 < r.carries) || decide (64 < r.hwin) || r.spawnbase.toNat % 4096 != 0
  || r.spawnkib % 4 != 0 || (r.spawnkib != 0 && r.spawnslots == 0)
  || (if r.gxind then r.gxaddr.toNat % 4 != 0 else r.gxaddr != 0) || r.exitrec.toNat % 64 != 0
  || r.doneq == 0 || (decide (1024 ≤ r.doneq) && r.doneq != 0xFFFF)

/-- Read a launch record: its bytes, where it is aligned, homed on a compute die and readable. -/
def lrRead (s : State) (slot va : Nat) : State × Option (List Byte) :=
  let r := rqDevice s 0 slot
  if va % 128 ≠ 0 then (s, none)
  else match peekHome s r va with
    | some h =>
      if h ≥ 8 then (s, none)
      else match loadRange s r accLoad va 128 with
        | (s, .done, bs) => (s, some bs)
        | (_, _, _) => (s, none)
    | none => (s, none)

/-- The page of a record is held at its home. -/
def lrHeld (s : State) (slot va : Nat) : Bool :=
  match loadRange s (rqDevice s 0 slot) accLoad va 128 with
  | (_, .held, _) => true
  | _ => false

/-- A record is malformed for a context (R135). -/
def lrMalformed (s : State) (slot : Nat) (d : List Byte) : Bool :=
  lrBad d || ((lrParse d).bullpen && (setOf s slot true).isNone)

end Sys2Proof.Machine
end

