-- ==== Sys2Proof/Machine/Teams.lean ====
section
/-! DEFINITION. Grids and teams: taking launches (06 R136 to R138), placement (R141, R144), retirement (R133, R145, R146),
time slices and dugout swaps (R150 to R152, 13 R303, R304), spills (06 R155, R156, 13 R305 to R308), migration (06 R158,
R159, 17 R429), lost teams (06 R161). -/

namespace Sys2Proof.Machine

/-! ### Taking launches (06 R136 to R138) -/

/-- Start a grid with its x dimension. -/
def gridStart (s : State) (id x : Nat) : State :=
  match mget s.grids id with
  | none => s
  | some g =>
    let lr := { g.lr with gridx := x }
    let s := { s with grids := mset s.grids id { g with lr := lr, count := x * lr.gridy * lr.gridz, waitGx := false } }
    if placeable s g.slot lr then s else gridEnd s id 4

/-- A word at `GXADDR` decides the grid (R136). -/
def gridWord (s : State) (id v : Nat) : State :=
  let s := { s with grids := mmod s.grids id fun g => { g with waitGx := false } }
  if v = 0 then gridEnd s id 0 else if v ≥ 2 ^ 31 then gridEnd s id 2 else gridStart s id v

/-- Read the word at `GXADDR`; a fault is recorded and the distributor waits. -/
def gridRead (s : State) (id : Nat) : State :=
  match mget s.grids id with
  | none => s
  | some g =>
    if g.gxReq.isSome then s
    else match g.gxResp with
    | some v => gridWord s id v
    | none =>
      let r := rqDevice s 0 g.slot
      let req : Req := { id := 0, who := .grid id, kind := .read 4, asid := r.asid, va := g.lr.gxaddr, st := .sent, slot := g.slot }
      let park (s : State) : State := { s with grids := mmod s.grids id fun g => { g with gxReq := some (s.nextId - 1) } }
      match loadRange s r accLoad g.lr.gxaddr.toNat 4 with
      | (s, .done, bs) => gridWord s id (fieldOf bs 0 4)
      | (s1, .held, _) => keepSaid s s1
      | (s1, .remote h, _) => park (sendRemote s1 { req with hme := h })
      | (s1, .fault k d h p, _) => park (parkAcc s1 req (.fault k d h p))
      | (s1, .poison, _) => gridWord s1 id (2 ^ 31)

/-- An entry of queue 0 that the distributor understands (R137). -/
def launchEntryOk (e : List Byte) : Bool :=
  fieldOf e 13 3 == 0 && (e.drop 28).all (· == 0) && decide (fieldOf e 12 1 ≤ 9)

/-- A popped entry becomes a grid. -/
def gridNew (s : State) (slot : Nat) (e : List Byte) (by_ : Option Launcher) : State :=
  let id := s.nextId
  let lrec := fieldOf e 0 8
  let g : Grid := { slot := slot, lrec := BitVec.ofNat 64 lrec, lr := default, tag := BitVec.ofNat 64 (fieldOf e 16 8),
                    depth := fieldOf e 12 1, parent := match by_ with | some (.team t) => some t | _ => none
                    host := match by_ with | some (.host c) => some c | _ => none }
  let put (s : State) (g : Grid) : State := { s with nextId := id + 1, grids := mset s.grids id g }
  match lrRead s slot lrec with
  | (s, none) => gridEnd (put s g) id 2
  | (s, some d) =>
    let s := put s { g with lr := lrParse d }
    if !launchEntryOk e || lrMalformed s slot d then gridEnd s id 2
    else if (lrParse d).gxind then
      gridRead { s with grids := mmod s.grids id fun g => { g with waitGx := true } } id
    else gridStart s id (lrParse d).gridx

/-- R138: once every team of the earlier grids of its context has been placed, the distributor takes the next entry of
queue 0. Distributors stop during a recovery (05 R122). Of a queue 0 that is malformed or cannot be reached the distributor
takes nothing, and nothing is counted (log entry 97). -/
def execLaunchTake (s : State) : Outcome :=
  .next (
    let slot := s.arg.slot.toNat
    let mine := s.grids.filter fun x => x.2.slot == slot && !x.2.complete
    if ctxLive s slot = false ∨ s.svpFrozen then s
    else match mine.find? fun x => x.2.waitGx with
    | some (id, _) => gridRead s id
    | none =>
      if mine.any fun x => decide (x.2.next < x.2.count) then s
      else
        let asid := ctxAsid s slot
        match qLoad s 0 slot asid 0 (fun _ => false) qHead accLoad with
        | (_, .inl _) => s
        | (s1, .inr o) =>
          if qTail o.q = qHead o.q then s
          else
            let (s1, e) := qRead s1 o.rt asid (slotVa o.q (qHead o.q))
            if lrHeld s slot (fieldOf e 0 8) then s else
            let key := 65536 * slot + qHead o.q
            let s1 := qWrite s1 o.qt asid (qcbVa s slot 0) (qSet o.q 8 2 (qHead o.q + 1))
            gridNew { s1 with launchers := mdel s1.launchers key } slot e (mget s1.launchers key))

/-! ### Who may be placed (06 R138, R141, R150) -/

/-- The restarted team of a grid of the lowest linear index. -/
def restartedTeam (s : State) (g : Grid) : Option Nat :=
  match g.again.filter fun t => (teamOf s t).state == .pending with
  | [] => none
  | t :: ts => some (ts.foldl (fun a b => if (teamOf s b).index < (teamOf s a).index then b else a) t)

/-- The next team of a context: of a grid, its spilled teams in the order in which they were spilled, then the others in
linear order, in which a restarted team comes before those not yet placed; grids in order. -/
def nextTeam (s : State) (slot : Nat) (bullpen : Bool) : Option (Nat × Option Nat) :=
  (s.grids.filter fun x => x.2.slot == slot && !x.2.complete && !x.2.waitGx && x.2.lr.bullpen == bullpen).findSome? fun x =>
    match (x.2.again.find? fun t => (teamOf s t).state == .spilled).or (restartedTeam s x.2) with
    | some t => some (x.1, some t)
    | none => if x.2.next < x.2.count then some (x.1, none) else none

/-- The team that is placed next on a set: the one for which another was spilled (R155), else the next of the context. -/
def dueTeam (s : State) (k slot : Nat) (bullpen : Bool) : Option (Nat × Option Nat) :=
  let waits (x : Nat × Option Nat) : Bool := match mget s.grids x.1 with
    | some g => g.slot == slot && !g.complete && g.lr.bullpen == bullpen
        && (match x.2 with | some t => g.again.contains t | none => decide (g.next < g.count))
    | none => false
  match (mgetD s.psets k {}).due with
  | some x => if waits x then some x else nextTeam s slot bullpen
  | none => nextTeam s slot bullpen

/-- Teams of a context that run on a placement set. -/
def teamsOn (s : State) (slot k : Nat) : List (Nat × Team) :=
  s.teams.filter fun x => (gridOf s x.2).slot == slot && x.2.cores.any fun c => (getSet s k).cores.contains c

/-- A context of a set has a Pending, Spilled or Swapped team (R150). -/
def hasWork (s : State) (k slot : Nat) : Bool :=
  ctxLive s slot && setOf s slot false == some k
  && ((nextTeam s slot false).isSome || (teamsOn s slot k).any fun x => x.2.state == .swapped)

/-- Place of a context in a round: descending priority, then ascending slot. -/
def roundKey (s : State) (slot : Nat) : Nat := (3 - bitsOf (ccb s slot 0x48 8) 16 2) * 64 + slot

def leastKey (s : State) (l : List Nat) : Option Nat :=
  match l with
  | [] => none
  | c :: cs => some (cs.foldl (fun a b => if roundKey s b < roundKey s a then b else a) c)

/-- The context that takes the next slice: the next in the round with work (R150). -/
def nextOwner (s : State) (k : Nat) : Option Nat :=
  let l := (List.range 64).filter fun c => hasWork s k c && (getSet s k).owner != some c
  match (getSet s k).owner with
  | none => leastKey s l
  | some o =>
    match leastKey s (l.filter fun c => decide (roundKey s o < roundKey s c)) with
    | some c => some c
    | none => leastKey s l

/-! ### Placement (06 R141, R144) -/

/-- Squads of a team at their cores, with the places that the check has found. -/
def seatSquads (s : State) (cores : List Nat) (places : List (List (Nat × Nat))) (rank j : Nat) (q : Squad) : Squad :=
  let p := (places.getD rank []).getD j (0, 0)
  let core := cores.getD rank 0
  { q with core := core, part := p.1, slot := p.2, wonAt := clk s (core / 256) }

/-- The squads of a first placement. -/
def launchSquads (s : State) (team : Nat) (lr : LRec) (cores : List Nat) (places : List (List (Nat × Nat))) : FMap Squad :=
  (List.range lr.squads).map fun i =>
    (s.nextId + i, seatSquads s cores places (i % lr.cores) (i / lr.cores)
      { freshSquad s team i (lr.entryl.setWidth 32) with origin := laneIdx.map fun l => ⟨i, l, 0⟩ })

/-- The spine thread of a team at its start. -/
def freshSpine (s : State) (team : Nat) (lr : LRec) (cluster thread : Nat) : Spine :=
  { team := team, cluster := cluster, thread := thread, pc := BitVec.ofNat 64 (cbOf s team) + lr.entrys, x := [(1, lr.args)],
    lastIssue := clk s (dieOfCluster cluster) }

/-- Header slots of a context's save area (13 R308). -/
def headerSlots (s : State) (slot : Nat) : Option Nat :=
  match loadRange s (rqDevice s 0 slot) accLoad (ccb s slot 0x38 8 + 8) 4 with
  | (_, .done, bs) => some (fieldOf bs 0 4)
  | _ => none

/-- The lowest free header slot. -/
def freeHeader (s : State) (slot : Nat) : Option Nat :=
  let used := (s.teams.filter fun x => (gridOf s x.2).slot == slot && x.2.state != .retired).filterMap fun x => x.2.hdrSlot
  (headerSlots s slot).bind fun n => lowestFree used (Nat.min n (used.length + 1))

/-- The lowest free slot of a grid's spawn pool. -/
def freeSpawn (s : State) (gid : Nat) (lr : LRec) : Option Nat :=
  lowestFree ((s.teams.filter fun x => x.2.grid == gid).filterMap fun x => x.2.spawnSlot) lr.spawnslots

/-- Cores on which a team has just been placed have let no window pass (R155; log entry 43). -/
def touchCores (s : State) (cores : List Nat) : State :=
  { s with cores := cores.foldl (fun m c => mset m c { mgetD m c {} with idleSince := clk s (c / 256) }) s.cores }

/-- The owner of a set has a Resident team in its slice (R152). -/
def noteResident (s : State) (cores : List Nat) : State :=
  { s with psets := s.psets.map fun p => if p.2.cores.contains (cores.getD 0 0) then (p.1, { p.2 with had := true }) else p }

/-- A header slot has a new team: a Retired one that had it writes its header no more (R143). -/
def takeHeader (s : State) (slot h : Nat) : State :=
  { s with teams := s.teams.map fun x =>
      if x.2.state = .retired ∧ x.2.hdrSlot = some h ∧ (gridOf s x.2).slot = slot then (x.1, { x.2 with hdrSlot := none, hdrDue := false }) else x }

/-- First placement of a team, or of a restarted one, on a group that passes. -/
def placeFresh (s : State) (k gid : Nat) (again : Option Nat) : State :=
  match mget s.grids gid with
  | none => s
  | some g =>
    let lr := g.lr
    let id := again.getD s.nextId
    let old : Team := match again with
      | some t => teamOf s t
      | none => { grid := gid, index := g.next }
    let hdr := match old.hdrSlot with | some h => some h | none => freeHeader s g.slot
    match findGroup s false k lr lr.spine (launchDemands lr) fun _ => true, hdr with
    | some (i, cores, places), some h =>
      if lr.spawnkib ≠ 0 ∧ (freeSpawn s gid lr).isNone then s
      else
        let s := takeHeader (if again.isNone then s.fresh else s) g.slot h
        let home := clusterOf (cores.getD 0 0)
        let t : Team := { old with
          state := .resident, cores := cores, placedAt := s.nextId, window := 64 * id, hdrSlot := some h
          vcores := (List.range lr.cores).map fun r => (i + r) % (getSet s k).cores.length
          spawnSlot := if lr.spawnkib = 0 then none else freeSpawn s gid lr
          segs := List.replicate lr.cores {}, tstart := if old.restarted then old.tstart else s.timeNs.toNat }
        let s1 := { s with
          teams := mset s.teams id t
          grids := mset s.grids gid { g with
            next := if again.isNone then g.next + 1 else g.next, again := g.again.filter fun x => some x != again }
          psets := mmod s.psets k fun p => { p with ptr := (i + 1) % p.cores.length, due := none } }
        let sq := launchSquads s1 id lr cores places
        let s2 := { s1 with
          squads := sq.foldl (fun m x => mset m x.1 x.2) s1.squads
          spines := if lr.spine then
              mset s1.spines id (freshSpine s1 id lr home ((lowestFree (spinesUsed s home) 8).getD 0))
            else s1.spines
          nextId := s1.nextId + lr.squads }
        transit (noteResident (touchCores s2 cores) cores) id 1
    | _, _ => s

/-- Squads of a team by rank, and the rows that each needs: those that it holds, and its guarantee. -/
def rankSquads (s : State) (id r : Nat) : List (Nat × Squad) :=
  (squadsOf s id).filter fun x => ownRank (teamOf s id) x.2.core == r

def returnDemands (s : State) (id : Nat) : List (List Nat) :=
  (List.range (teamOf s id).cores.length).map fun r =>
    (rankSquads s id r).map fun x => Nat.max (rowsHeld s x.1 x.2) (rowsGuarantee s x.2)

/-- Move the entries of a window to the bank of another home cluster. -/
def moveWindow (s : State) (id : Nat) (newHome : Nat) : State :=
  let t := teamOf s id
  let n := (gridOf s t).lr.hwin
  let inWin (e : Nat × HEntry) : Bool := decide (t.window ≤ e.1) && decide (e.1 < t.window + n)
  if homeCluster t = newHome then s
  else
    let es := (getCluster s (homeCluster t)).bank.filter inWin
    let s := modCluster s (homeCluster t) fun c => { c with bank := c.bank.filter fun e => !inWin e }
    modCluster s newHome fun c => { c with bank := es.foldl (fun m e => mset m e.1 e.2) c.bank }

/-- Squads of a rank take their places on the rank's core. -/
def reseat (s : State) (id : Nat) (cores : List Nat) (places : List (List (Nat × Nat))) : FMap Squad :=
  let seat (m : FMap Squad) (r : Nat) : FMap Squad :=
    (rankSquads s id r).zipIdx.foldl (fun m p =>
      mset m p.1.1 { seatSquads s cores places r p.2 p.1.2 with held := none }) m
  (List.range cores.length).foldl seat s.squads

/-- A team's copies go on in the copy engines of its clusters, with the grains that they own (13 R306, R312). -/
def moveCopies (s : State) (id : Nat) (newCluster : Nat → Nat) : State :=
  let mine := s.copies.filter fun c => c.team == id && newCluster c.cluster != c.cluster
  let owned (c : Copy) (g : Grain) : Bool :=
    match c.dst with
    | .mem va => g.holder == .copyEngine c.cluster && g.overlaps (ctxAsid s c.slot) va.toNat c.len
    | .ls _ _ => false
  { s with
    copies := s.copies.map fun c => if c.team = id then { c with cluster := newCluster c.cluster } else c
    grains := s.grains.map fun g => match mine.find? fun c => owned c g with
      | some c => { g with holder := .copyEngine (newCluster c.cluster) }
      | none => g }

/-- An engine that takes up operations again has had none outstanding until now: its watch starts (11 R263). -/
def watchEngines (s0 s : State) (cls : List Nat) : State :=
  cls.foldl (fun s c =>
    if (engineOps s0 c).isEmpty && !(engineOps s c).isEmpty then modCluster s c fun c => { c with lastToken := s.timeNs.toNat }
    else s) s

/-- What a return does to a squad's tiles: the status words of an image show the tiles that it holds as written (07 R177,
11 R261, 20 R468; log entry 99). -/
def reloadTiles (s : State) (id : Nat) : State :=
  let load (x : Nat × Squad) : Nat × Squad :=
    if x.2.team = id then (x.1, { x.2 with tiles := x.2.tiles.map fun y => (y.1, { y.2 with dirty := y.2.valid }) }) else x
  { s with squads := s.squads.map load, away := s.away.map load }

/-- Results of a team's squads land where their squads are now (07 R174). -/
def movePops (s : State) (id : Nat) : State :=
  { s with pops := s.pops.map fun p =>
      match squadAny s p.2.squad with
      | some q => if q.team = id then (p.1, { p.2 with core := q.core, part := q.part }) else p
      | none => p }

/-- A team that was away becomes Resident on a group that passes; the quiet time of its former's groups starts again
(09 R221), and a `nap` ends (15 R365, 17 R426). Verdicts that came meanwhile are applied (13 R306). -/
def returnTeam (s : State) (id : Nat) (cores : List Nat) (places : List (List (Nat × Nat))) : State :=
  let t := teamOf s id
  let s0 := s
  let s := transit s id (match t.state with | .migrating => 6 | .swapped => 7 | _ => 8)
  let home := clusterOf (cores.getD 0 0)
  let newCore (c : Nat) : Nat := cores.getD (ownRank t c) 0
  let s1 := moveWindow { s with squads := reseat s id cores places } id home
  let s1 := { s1 with
    away := s1.away.map fun x => if x.2.team = id then (x.1, { x.2 with core := newCore x.2.core }) else x
    spines := mmod s1.spines id fun sp => { sp with
      cluster := home, thread := if sp.cluster = home ∧ t.onCores then sp.thread else (lowestFree (spinesUsed s home) 8).getD 0 } }
  let s1 := modTeam s1 id fun t => { t with
    state := .resident, stopping := false, noBlock := false, cores := cores, placedAt := s.nextId, migTo := none
    groups := t.groups.map fun g => { g with core := newCore g.core, lastArrival := clk s (newCore g.core / 256), due := false } }
  let oldCore (cl : Nat) : Nat := (t.cores.find? fun c => clusterOf c == cl).getD 0
  let s1 := movePops (if t.state = .migrating then s1 else reloadTiles s1 id) id
  let s1 := watchEngines s0 (moveCopies s1 id fun cl => clusterOf (newCore (oldCore cl))) (distinct (cores.map clusterOf))
  let s1 := wakeTeams s1 fun t => t == id
  exitTest (serveTeam (noteResident (touchCores s1.fresh cores) cores) id) id

/-- Header of a save area: its size, its team headers, and the place of its first image block (13 R308). -/
def saveHeader (s : State) (slot : Nat) : Option (Nat × Nat) :=
  match loadRange s (rqDevice s 0 slot) accLoad (ccb s slot 0x38 8) 16 with
  | (_, .done, bs) => some (fieldOf bs 0 8, (64 + 64 * fieldOf bs 8 4 + 65535) / 65536 * 65536)
  | _ => none

/-- Image blocks of a context that no image holds, by number, and the place of block 0. -/
def freeBlocks (s : State) (slot : Nat) : Nat × List Nat :=
  match saveHeader s slot with
  | none => (0, [])
  | some (size, off) =>
    let used := s.teams.flatMap fun t => if (gridOf s t.2).slot = slot then t.2.blocks else []
    let used := used ++ mgetD s.ctxBlocks slot []
    (off, (List.range ((size - off) / 65536)).filter fun b => !used.contains b)

/-- The device keeps a field of the header current. -/
def setSave (s : State) (slot off n v : Nat) : State :=
  (storeRange s (rqDevice s 0 slot) (ccb s slot 0x38 8 + off) (bytesOf n v)).1

/-- Free blocks for an image: how many it takes, and which, the spec does not state (log entry 44). None while no block is
free. -/
def takeBlocks (s : State) (slot : Nat) : Option (State × List Nat × Dword) :=
  let (off, free) := freeBlocks s slot
  if free.isEmpty then none
  else
    let k := 1 + s.choice free.length
    let i := s.draw.choice free.length
    let bs := (free.drop i ++ free.take i).take k
    some (setSave s.draw.draw slot 12 4 (free.length - k), bs,
          BitVec.ofNat 64 (ccb s slot 0x38 8 + off + 65536 * bs.getD 0 0))

/-- Squads of a context on the cores of a team give up their slots. -/
def stopCores (s : State) (id : Nat) : State :=
  let t := teamOf s id
  let slot := slotOf s id
  { s with squads := s.squads.map fun x =>
      if t.cores.contains x.2.core && slotOf s x.2.team == slot then (x.1, { x.2 with held := none }) else x }

/-- Write a team's image, in blocks taken at its first save (13 R307). While no block is free the save waits, and the cores
of the team issue nothing for the context (R309). Saved tiles are clean (07 R177). -/
def saveImage (s : State) (id : Nat) : State × Bool :=
  let t := teamOf s id
  let clean (x : Nat × Squad) : Nat × Squad :=
    if x.2.team = id then (x.1, { x.2 with tiles := x.2.tiles.map fun y => (y.1, { y.2 with dirty := false }) }) else x
  let saved (s : State) : State := { s with squads := s.squads.map clean, away := s.away.map clean }
  if t.nblk ≠ 0 then (modTeam (saved s) id fun t => { t with noBlock := false }, true)
  else match takeBlocks s (gridOf s t).slot with
    | none => (modTeam (stopCores s id) id fun t => { t with noBlock := true }, false)
    | some (s, bs, va) =>
      (modTeam (saved s) id fun t => { t with nblk := bs.length, blocks := bs, image := va, noBlock := false }, true)

/-- A dugout swap saves the common entries of the outgoing context in its context image (13 R307). -/
def saveContext (s : State) (slot : Nat) : State × Bool :=
  if (mget s.ctxBlocks slot).isSome then (s, true)
  else match takeBlocks s slot with
    | none => (s, false)
    | some (s, bs, va) => (setSave { s with ctxBlocks := mset s.ctxBlocks slot bs } slot 16 8 va.toNat, true)

/-- A pass that was stopped and waits for an access is given back (11 R261). -/
def ungrant (s : State) (id : Nat) : State :=
  { s with mops := s.mops.map fun m =>
      if (squadAny s m.squad).map (·.team) = some id then { m with granted := 0, array := none } else m }

/-- The engine is quiescent for a team: no step of it is under way (11 R261). -/
def teamQuiet (s : State) (id : Nat) : Bool := (teamMops s id).all fun m => m.granted == 0 || m.parked.isSome

/-- A request that its home or the host answers without a verdict. -/
def Req.underWay (r : Req) : Bool :=
  match r.st with
  | .held | .stale _ | .remote | .queued | .pri => true
  | _ => false

/-- A result of a squad that must land before its team is saved: it is there, or nothing that the image holds brings it:
neither a parked access, nor an operation of the engines (13 R306, 07 R174). -/
def mustLand (s : State) (id : Nat) (p : POp) : Bool :=
  p.ready
  || !(s.mops.any (fun m => m.id == id) || s.copies.any (fun c => c.id == id) || s.creds.any (fun c => c.id == id)
       || match (squadAny s p.squad).bind fun q => q.log.find? fun e => e.pop == id with
          | some e => !(s.reqs.any fun r => r.who == .squad p.squad e.id && r.underWay)
          | none => false)

/-- Every lane write of a team has landed that must (07 R174). -/
def teamLanded (s : State) (id : Nat) : Bool :=
  s.pops.all fun p => (squadAny s p.2.squad).map (·.team) != some id || !mustLand s p.1 p.2

/-- The owner's slice ends at once when its last Resident team has left and it has no Pending team (R152). -/
def ownerDone (s : State) (k : Nat) : Bool :=
  match (getSet s k).owner with
  | none => true
  | some o =>
    !((teamsOn s o k).any fun x => x.2.state == .resident || x.2.state == .migrating)
    && (ctxLive s o == false
        || (getSet s k).had && !(s.grids.any fun x => x.2.slot == o && !x.2.complete && !x.2.lr.bullpen
             && (decide (x.2.next < x.2.count) || x.2.again.any fun t => (teamOf s t).state == .pending)))

/-- Swapped teams of a context in the order in which they were swapped out. -/
def swappedTeams (s : State) (slot k : Nat) : List Nat :=
  let l := (teamsOn s slot k).filter fun x => x.2.state == .swapped && !x.2.stopping
  (l.foldl (fun (m : FMap Nat) x => mset m x.2.awayAt x.1) []).map (·.2)

/-- Bring in swapped teams on the cores that they left, in their order. With the swap, those come in whose resources were free
there, since their state is in the shadow banks; as a drain frees space, each waits for the one before it (13 R303). -/
def swapIn (drain : Bool) : List Nat → State → State
  | [], s => s
  | id :: ids, s =>
    let t := teamOf s id
    let spine := (mget s.spines id).any (·.live)
    match groupFits s false (gridOf s t).lr spine t.cores (returnDemands s id) with
    | some places => swapIn drain ids (returnTeam s id t.cores places)
    | none => if drain then s else swapIn drain ids s

/-- A context enters its slice: its swapped teams come in, each if there is room (R151, 13 R303). -/
def enterSlice (s : State) (k : Nat) (next : Option Nat) : State :=
  let s := { s with psets := mmod s.psets k fun p => { p with owner := next, sliceStart := s.timeNs.toNat, swap := none, had := false } }
  match next with
  | some c => swapIn false (swappedTeams s c k) s
  | none => s

/-- The slice passes on when its owner is done. -/
def settleOwner (s : State) (k : Nat) : State :=
  let p := getSet s k
  if p.bullpen.isNone ∧ p.swap.isNone ∧ ownerDone s k then
    match nextOwner s k with
    | some c => enterSlice s k (some c)
    | none => s
  else s

/-- R141: the distributor places the next team on the first group that passes. -/
def execTeamPlace (s : State) : Outcome :=
  .next (
    let k := s.arg.slot.toNat
    if s.svpFrozen ∨ (mget s.psets k).isNone then s
    else
      let s := settleOwner s k
      let p := getSet s k
      let ctx := match p.bullpen with | some c => some c | none => if p.swap.isSome then none else p.owner
      match ctx with
      | none => s
      | some c =>
        if ctxLive s c = false then s
        else match dueTeam s k c p.bullpen.isSome with
        | none => s
        | some (g, none) => placeFresh s k g none
        | some (g, some id) =>
          if (teamOf s id).state = .pending then placeFresh s k g (some id)
          else
            let spine := (mget s.spines id).any (·.live)
            match findGroup s false k (gridOf s (teamOf s id)).lr spine (returnDemands s id) fun _ => true with
            | some (i, cores, places) =>
              let s := returnTeam s id cores places
              { s with
                grids := mmod s.grids g fun g => { g with again := g.again.filter fun x => x != id }
                psets := mmod s.psets k fun p => { p with ptr := (i + 1) % p.cores.length, due := none } }
            | none => s)

/-! ### Retirement (06 R133, R145, R146) -/

/-- The exit record. -/
def exitRecord (s : State) (t : Team) : List Byte :=
  let (st, cause) := t.ended.getD (0, 0)
  bytesOf 4 t.index ++ [BitVec.ofNat 8 st,
    BitVec.ofNat 8 (flagBit t.underMark 0 + flagBit t.escaped 1 + flagBit t.restarted 2 + flagBit t.deadrd 3 + flagBit t.countLost 4)]
  ++ zeros 2 ++ bytesOf 8 t.undblk ++ bytesOf 4 t.lfmor.toNat ++ bytesOf 2 t.lfmsq0 ++ bytesOf 2 t.lfmsqn ++ bytesOf 4 cause
  ++ bytesOf 4 (t.index / 2 ^ 32) ++ bytesOf 8 t.tstart ++ bytesOf 8 s.timeNs.toNat ++ zeros 16

/-- The team retires and counts towards its grid's completion; with the last team of its grid the grid ends. -/
def retireTeam (s : State) (id : Nat) : State :=
  let s := if (teamOf s id).state = .retired then s else transit s id 9
  let t := teamOf s id
  let slot := (gridOf s t).slot
  let lost := (t.ended.getD (0, 0)).1 == 3
  let s := if t.nblk = 0 then s else setSave s slot 12 4 ((freeBlocks s slot).2.length + t.nblk)
  let s := modTeam s id fun t => { t with
    state := .retired, image := 0, nblk := 0, blocks := [], noBlock := false, exitReq := none, counted := true }
  let s := { s with grids := mmod s.grids t.grid fun g => { g with
    retired := g.retired + 1, lost := if lost then g.lost + 1 else g.lost, again := g.again.filter fun x => x != id } }
  match mget s.grids t.grid with
  | some g => if g.retired = g.count ∧ g.complete = false then gridEnd s t.grid (if g.lost = 0 then 0 else 3) else s
  | none => s

/-- Agents whose stores may wait in a write-combining buffer although they are gone. -/
def deadAgent (s : State) (a : Agent) : Bool :=
  match a with
  | .squad id => (mget s.squads id).isNone
  | .spine t => (mget s.spines t).isNone
  | .none => true

/-- Stores of a team that is gone and that have not been performed: requests, and entries of write-combining buffers of its
context (R133). -/
def storesOut (s : State) (id : Nat) : Bool :=
  let asid := ctxAsid s (slotOf s id)
  s.reqs.any (fun r => r.who == .orphan id || (r.agent == .spine id && r.isWrite))
  || s.wc.any fun e => e.agents.any (deadAgent s) && e.asid == asid

/-- R133, R145: an exited team retires once its children, operations and stores are complete; its record is written
first. A team that is Retired already, lost or killed, waits for nothing else (R142). -/
def execTeamRetire (s : State) : Outcome :=
  .next (match mget s.teams s.arg.id with
  | none => s
  | some t =>
    let id := s.arg.id
    if t.counted ∨ t.exitReq.isSome ∨ !(t.state == .retired || t.state == .exited && t.children == 0 && !teamOps s id) then s
    else
      let slot := (gridOf s t).slot
      let asid := ctxAsid s slot
      let s := wcDrain s fun e => e.agents.any (deadAgent s) && e.asid == asid
      let lr := (gridOf s t).lr
      if t.state = .exited ∧ (storesOut s id ∨ s.wc.any fun e => e.agents.any (deadAgent s) && e.asid == asid) then s
      else if lr.exitrec = 0 ∨ t.exitDone then retireTeam s id
      else
        let r := rqDevice s (t.cores.getD 0 0 / 256) slot
        let va := lr.exitrec.toNat + 64 * t.index
        let bs := exitRecord s t
        let req : Req := { id := 0, who := .exitRec id, kind := .write bs, asid := r.asid, va := BitVec.ofNat 64 va, st := .sent,
                           die := r.die, slot := slot, acc := accStore }
        let park (s : State) : State := modTeam s id fun t => { t with exitReq := some (s.nextId - 1) }
        match storeRange s r va bs with
        | (s, .done) => retireTeam s id
        | (s1, .held) => keepSaid s s1
        | (s1, .remote h) => park (sendRemote s1 { req with hme := h })
        | (s1, .poison) => retireTeam (svcErr s1) id
        | (s1, .fault k d h p) => park (parkAcc s1 req (.fault k d h p)))

/-! ### Slices and swaps (06 R151, R152, 13 R303, R304) -/

/-- Slice length in ns (R150). -/
def sliceNs (s : State) (slot : Nat) : Nat :=
  let n := bitsOf (ccb s slot 0x48 8) 32 16
  1000 * (if n = 0 then 2000 else n)

/-- The shadow bank of a core, for the next owner if there is one (13 R304): what it holds for another is discarded, and an
empty one is filled, or ready where there is nothing to fill. -/
def shadowNext (s : State) (k core : Nat) (next : Option Nat) (c : CoreSt) : CoreSt :=
  let c := if c.shadow ≠ .draining ∧ c.shadow ≠ .empty ∧ c.shadowFor ≠ next then { c with shadow := .empty, shadowFor := none } else c
  match c.shadow, next with
  | .empty, some n =>
    let fill := (teamsOn s n k).any fun x => x.2.state == .swapped && x.2.cores.contains core
    { c with shadow := if fill then .filling else .ready, shadowFor := some n }
  | _, _ => c

/-- Shadow banks follow the next owner of each set that has an owner. -/
def syncShadows (s : State) : State :=
  s.psets.foldl (fun s p =>
    if p.2.owner.isNone ∨ p.2.swap.isSome then s
    else
      let next := nextOwner s p.1
      { s with cores := p.2.cores.foldl (fun m c => mset m c (shadowNext s p.1 c next (mgetD m c {}))) s.cores }) s

/-- A stop of a team by a swap or a spill: of a trap and a stop in one clock, the stop comes first (13 R311). -/
def stopFirst (s : State) (id : Nat) : State :=
  (distinct ((teamOf s id).cores.map (· / 256))).foldl (fun s d => inOrder s d (ordTrap id) 0 (2 ^ 16)) s

/-- A Resident team leaves its cores: it is Swapped, and its image is not written yet. Its engine finishes the steps under
way (11 R261). -/
def swapOut (s : State) (id : Nat) : State :=
  let s := stopPasses (transit (stopFirst s id) id 4) id
  let s := { s with squads := s.squads.map fun x => if x.2.team = id then (x.1, { x.2 with held := none }) else x }
  (modTeam s id fun t => { t with state := .swapped, stopping := true, awayAt := s.nextId }).fresh

/-- R151: a slice ends. With one context at work it renews; else every core starts its swap, once the shadow banks are
ready and no team of the owner is on the move. -/
def execSliceExpiry (s : State) : Outcome :=
  .next (
    let k := s.arg.slot.toNat
    let s := syncShadows s
    let p := getSet s k
    match p.owner with
    | none => s
    | some o =>
      if p.bullpen.isSome ∨ p.swap.isSome ∨ s.timeNs.toNat < p.sliceStart + sliceNs s o then s
      else match nextOwner s k with
      | none => { s with psets := mmod s.psets k fun p => { p with sliceStart := s.timeNs.toNat } }
      | some n =>
        let mine := teamsOn s o k
        if (mine.any fun x => x.2.state == .migrating || (x.2.state == .resident && x.2.stopping))
            ∨ (p.cores.any fun c => (mgetD s.cores c {}).shadow != .ready) then s
        else
          let out := (mine.filter fun x => x.2.state == .resident).map (·.1)
          if out.isEmpty then enterSlice s k (some n)
          else
            let s := out.foldl swapOut s
            { s with psets := mmod s.psets k fun p => { p with swap := some (n, clk s (p.cores.getD 0 0 / 256)) } })

/-- R303: 64 clocks after its start the swap is made: the next context's teams become Resident, and the shadow banks
hold the outgoing ones. -/
def execDugoutSwap (s : State) : Outcome :=
  .next (
    let k := s.arg.slot.toNat
    match (getSet s k).swap with
    | none => s
    | some (n, start) =>
      if clk s ((getSet s k).cores.getD 0 0 / 256) < start + 64 then s
      else
        let draining (c : Nat) : Bool := s.teams.any fun x => x.2.state == .swapped && x.2.stopping && x.2.cores.contains c
        let cores := (getSet s k).cores.foldl (fun m c =>
          mset m c { mgetD m c {} with shadow := if draining c then .draining else .empty, shadowFor := none }) s.cores
        enterSlice { s with cores := cores } k (some n))

/-- The placement set of a core. -/
def setOfCore (s : State) (core : Nat) : Option Nat := (s.psets.find? fun x => x.2.cores.contains core).map (·.1)

/-- R304: the background fill for the next owner is complete. -/
def execShadowFillComplete (s : State) : Outcome :=
  .next (
    let core := s.arg.core
    let s := syncShadows s
    let c := mgetD s.cores core {}
    if c.shadow = .filling then { s with cores := mset s.cores core { c with shadow := .ready } } else s)

/-- The write-combining entries that hold stores of a team's agents drain: it may go on elsewhere (10 R237, R240). -/
def drainStores (s : State) (id : Nat) : State :=
  wcDrain s fun e => e.agents.any fun a => match a with
    | .squad q => (squadAny s q).map (·.team) == some id
    | .spine t => t == id
    | .none => false

/-- One outgoing team of a core is saved, once its writes have landed and its engine is quiescent, and its context with it;
the mark says whether every one so far has been. -/
def drainTeam (r : State × Bool) (id : Nat) : State × Bool :=
  let s := r.1
  if teamLanded s id && teamQuiet s id then
    match saveContext s (slotOf s id) with
    | (s, false) => (modTeam (stopCores s id) id fun t => { t with noBlock := true }, false)
    | (s, true) =>
      match saveImage (ungrant (drainStores s id) id) id with
      | (s, true) => (modTeam s id fun t => { t with stopping := false }, r.2)
      | (s, false) => (s, false)
  else (s, false)

/-- R304: the outgoing teams of a core are written and their resources freed; teams of the owner that still wait come in. -/
def execShadowDrainComplete (s : State) : Outcome :=
  .next (
    let core := s.arg.core
    let c := mgetD s.cores core {}
    if c.shadow ≠ .draining then s
    else
      let out := (s.teams.filter fun x => x.2.state == .swapped && x.2.stopping && x.2.cores.contains core).map (·.1)
      match out.foldl drainTeam (s, true) with
      | (s, false) => s
      | (s, true) =>
        let s := { s with cores := mset s.cores core { c with shadow := .empty, shadowFor := none } }
        match setOfCore s core with
        | some k => (match (getSet s k).owner with | some o => swapIn true (swappedTeams s o k) s | none => s)
        | none => s)

/-! ### Spills (06 R155, R156, 13 R305) -/

/-- A spill stops a team at its next instruction boundary (13 R302). -/
def stopTeam (s : State) (id : Nat) : State :=
  let s := stopFirst s id
  let s := { s with squads := s.squads.map fun x => if x.2.team = id then (x.1, { x.2 with held := none }) else x }
  stopPasses (modTeam s id fun t => { t with stopping := true }) id

/-- Resident teams on a core that no spill stops yet. -/
def victims (s : State) (core : Nat) : List (Nat × Team) :=
  s.teams.filter fun x => x.2.state == .resident && !x.2.stopping && x.2.cores.contains core

/-- A partition of a core has been stalled on register growth for 1,024 clocks. -/
def growDue (s : State) (core : Nat) : List Nat :=
  ((mgetD s.cores core {}).growSince.filter fun x => decide (x.2 + 1024 ≤ clk s (core / 256))).map (·.1)

/-- The most recent issue of a team by any squad, present or gone, or its spine thread. -/
def lastIssueOf (s : State) (id : Nat) : Nat :=
  Nat.max ((squadsOf s id).foldl (fun n x => Nat.max n x.2.lastIssue) (teamOf s id).lastIssue) ((mget s.spines id).elim 0 (·.lastIssue))

/-- The least recently issuing team; of equals the highest index. -/
def leastRecent (s : State) (l : List (Nat × Team)) : Option Nat :=
  match l with
  | [] => none
  | x :: xs => some (xs.foldl (fun a b =>
      if lastIssueOf s b.1 < lastIssueOf s a.1 ∨ (lastIssueOf s b.1 = lastIssueOf s a.1 ∧ a.2.index < b.2.index) then b else a) x).1

/-- The team of a set's owner that waits to be placed and could be placed with every core of the set empty. -/
def waitingTeam (s : State) (k : Nat) : Option (Nat × Option Nat) :=
  let p := getSet s k
  ((match p.bullpen with | some c => some c | none => p.owner).bind fun o => dueTeam s k o p.bullpen.isSome).filter fun x =>
    match mget s.grids x.1 with
    | some g => (findGroup s true k g.lr g.lr.spine (launchDemands g.lr) fun _ => true).isSome
    | none => false

/-- R155: no squad of a core has issued for `FPWIN` clocks while a team waits to be placed: a team is spilled for it. -/
def execForwardProgressExpiry (s : State) : Outcome :=
  .next (
    let core := s.arg.core
    let c := mgetD s.cores core {}
    let win := (getDie s (core / 256)).fpwin.toNat
    match setOfCore s core with
    | none => s
    | some k =>
      match waitingTeam s k, leastRecent s (victims s core) with
      | some w, some id =>
        if win = 0 ∨ clk s (core / 256) < c.idleSince + win ∨ !(growDue s core).isEmpty then s
        else touchCores (stopTeam { s with psets := mmod s.psets k fun p => { p with due := some w } } id) [core]
      | _, _ => s)

/-- R156: the youngest team of a core whose partition is stalled on register growth is spilled. -/
def execRegisterGrowExpiry (s : State) : Outcome :=
  .next (
    let core := s.arg.core
    if !(growDue s core).contains s.arg.part then s
    else match victims s core with
      | [] => s
      | x :: xs =>
        let y := xs.foldl (fun a b => if a.2.placedAt < b.2.placedAt then b else a) x
        let s := touchCores (stopTeam s y.1) [core]
        let again (c : CoreSt) : CoreSt :=
          { c with growSince := c.growSince.map fun g => if g.1 = s.arg.part then (g.1, clk s (core / 256)) else g }
        { s with cores := mset s.cores core (again (mgetD s.cores core {})) })

/-- Places of a spilled team's squads in the waiter lists of common entries are removed; they wait again on return. Its spine
thread keeps its place (07 R184, 13 R302). -/
def leaveCommon (s : State) (id : Nat) : State :=
  let mine (a : Agent) : Bool := match a with
    | .squad q => (mget s.squads q).map (·.team) == some id
    | _ => false
  let strip (e : Nat × HEntry) : Nat × HEntry := (e.1, { e.2 with waiters := e.2.waiters.filter fun w => !mine w.1 })
  let left (a : Agent) : Bool := s.clusters.any fun c => c.2.common.any fun e => e.2.waiters.any fun w => w.1 == a
  { s with
    squads := s.squads.map fun x => if x.2.team = id ∧ left (.squad x.1) then (x.1, { x.2 with wait := .none }) else x
    clusters := s.clusters.map fun c => (c.1, { c.2 with common := c.2.common.map strip }) }

/-- R305: a stopped team's writes have landed and its engine is quiescent: its image is written and it is Spilled; the grains
that it has armed become plain (08 R203). -/
def execTeamSpillComplete (s : State) : Outcome :=
  .next (match mget s.teams s.arg.id with
  | none => s
  | some t =>
    let id := s.arg.id
    if t.state ≠ .resident ∨ t.stopping = false ∨ teamLanded s id = false ∨ teamQuiet s id = false then s
    else match saveImage (ungrant (drainStores s id) id) id with
      | (s, false) => s
      | (s, true) =>
        let s := transit (leaveCommon (disarmTeam s id fun _ => true) id) id 3
        let s := modTeam s id fun t => { t with state := .spilled, stopping := false }
        { s with grids := mmod s.grids t.grid fun g => { g with again := (g.again.filter fun x => x != id) ++ [id] } })

/-! ### Migration (06 R158, R159, 17 R429) -/

/-- A fault of the squad is parked, or its page request is out (R159, 04 R94). -/
def faultParked (s : State) (id : Nat) : Bool :=
  s.reqs.any fun r => (match r.who with | .squad k _ => k == id | _ => false)
    && (match r.st with | .faulted _ | .parked _ | .pri => true | _ => false)

/-- Nothing forbids a team to migrate now (R159, 13 R311). -/
def mayMigrate (s : State) (id : Nat) : Bool :=
  let t := teamOf s id
  let lr := (gridOf s t).lr
  lr.mig && lr.tiles == 0 && lr.carries == 0 && !lr.spine && t.hsq.isNone
  && (squadsOf s id).all fun x => x.2.f.all (· == 0) && !faultParked s x.1

/-- A group on a die for a team that comes from elsewhere. -/
def migrateGroup (s : State) (id die : Nat) : Option (Nat × List Nat × List (List (Nat × Nat))) :=
  let lr := lrOf s id
  (setOf s (slotOf s id) lr.bullpen).bind fun k => findGroup s false k lr false (returnDemands s id) fun c => c / 256 == die

/-- R429: ask for the team to move to the home die of an address. -/
def execTmig (o : LaneOp) (s : State) : Outcome :=
  laneEnter (.tmig o) o { gs := srcGs o.a } s fun x =>
    if x.act = 0 then finishShort s x [] [] {}
    else if isLeader s x.q = false then x.trap s tPriv x.q.em
    else longReady s x 0 fun s =>
      let id := x.q.team
      let p := match o.dst with | .sp n => n.toNat | _ => 7
      let res (ok ready : Bool) : Result :=
        { dst := if p = 7 then .none else .p p, pval := if ok then 0xFFFFFFFF else 0, ready := ready }
      match peekHome s (rqSquad s x.id x.q) (srcVal x.q o 0 64 o.a 0) with
      | some h =>
        if h ≥ 8 ∨ mayMigrate s id = false then finishLong s x [] [] (res false true)
        else if x.q.core / 256 = h then finishLong s x [] [] (res true true)
        else if (migrateGroup s id h).isNone then finishLong s x [] [] (res false true)
        else
          let n := s.nextId
          modTeam (transit (finishLong s x [] [] (res true false)) id 5) id fun t => { t with state := .migrating, migTo := some (h, n) }
      | none => finishLong s x [] [] (res false true)

/-- The squad has issued the `tmig`, and goes no further before its predicate lands (R159, 17 R429). -/
def awaitsMove (s : State) (pop id : Nat) (q : Squad) : Bool :=
  (mget s.pops pop).any fun p => p.squad == id && (q.eject.isSome || q.wait == .landing [pop])

/-- A squad has stopped for a migration: between volleys, in a visible wait (R159, 13 R302), or at the result of the `tmig`
itself. -/
def stopped (s : State) (pop id : Nat) (q : Squad) : Bool :=
  q.log.isEmpty && q.wait != .fault
  && (awaitsMove s pop id q || (q.eject.isNone && (!q.inVolley || visibleWait s id q)))

/-- R159: every squad has stopped and its requests are performed; the team resumes on the new cores. -/
def execMigrationComplete (s : State) : Outcome :=
  .next (match mget s.teams s.arg.id with
  | none => s
  | some t =>
    let id := s.arg.id
    match t.migTo with
    | none => s
    | some (die, pop) =>
      if t.state ≠ .migrating ∨ !((squadsOf s id).all fun x => stopped s pop x.1 x.2)
          ∨ (s.pops.any fun p => p.1 != pop && (squadAny s p.2.squad).map (·.team) == some id && mustLand s p.1 p.2) then s
      else match migrateGroup s id die with
        | none => s
        | some (_, cores, places) =>
          let s := leaveCommon (disarmTeam (drainStores s id) id fun _ => true) id
          let s := returnTeam s id cores places
          { s with pops := mmod s.pops pop fun p => { p with ready := true } })

/-! ### Lost teams (06 R161) -/

/-- R161: the SVP, unless it is frozen (05 R122), declares a team lost: its die has failed, or its cut cannot be mended (13 R310). -/
def execTeamLost (s : State) : Outcome :=
  .next (match mget s.teams s.arg.id with
  | none => s
  | some t =>
    let away := t.state == .spilled || t.state == .swapped
    let dead := t.cores.any fun c => (getDie s (c / 256)).failed
    if s.svpFrozen then s
    else if t.state ≠ .retired ∧ (dead ∨ (away ∧ t.cores.length > 1)) then teamLose s s.arg.id else s)

/-- Reductions after a die is lost: its own groups are gone, every other open group closes (18 R455). -/
def closeGroups (s : State) (die : Nat) : State :=
  let s := { s with rgroups := s.rgroups.filter fun g => g.die != die }
  s.rgroups.foldl (fun s g =>
    match s.rgroups.find? fun x => x.slot == g.slot && x.va == g.va && x.final.isNone && !x.closing with
    | some g => groupClose s g
    | none => s) s

/-- R161: a compute die fails. -/
def execDieFailure (s : State) : Outcome :=
  .next (
    let d := s.arg.die.toNat
    let s := setDie s d { getDie s d with failed := true }
    let lost := (s.teams.filter fun x => x.2.onCores && x.2.cores.any fun c => c / 256 == d).map (·.1)
    closeGroups (lost.foldl teamLose s) d)

end Sys2Proof.Machine
end

