-- ==== Sys2Proof/Machine/Homes.lean ====
section
/-! DEFINITION. Homes: walks (03 R56, R60, R66), requests that were held or answered STALE (R67, R71), fault records and
the pending-fault table (R74 to R76), verdicts (R77), the home commands (R69 to R71) and the flush of an ASID (02 R38). -/

namespace Sys2Proof.Machine

/-! ### Walks -/

/-- R56: a walker reads the home map for a granule that is not in a die's home-map cache. -/
def execHomeMapWalk (s : State) : Outcome :=
  .next (match slotOfAsid s s.arg.asid with
  | some slot =>
    if s.arg.va.toNat ≥ 2 ^ 56 then s else (homeLookup s s.arg.die.toNat slot s.arg.asid s.arg.va.toNat).1
  | none => s)

/-- R60: a walker reads the page table for an address that misses in the home TLB; a valid leaf is kept (R66). -/
def execPageTableWalk (s : State) : Outcome :=
  .next (match slotOfAsid s s.arg.asid with
  | some slot =>
    let a := s.arg
    let die := a.die.toNat
    let va := a.va.toNat
    if va ≥ 2 ^ 56 ∨ (getDie s die).tlb.any (·.hits a.asid va) then s
    else match ptWalkAt s (some die) slot a.asid va with
    | (s, .leaf lg at_ w) => if leafBad s die lg w || !leafV w then s else tlbPut s die a.asid va lg at_ w
    | (s, _) => s
  | none => s)

/-! ### Device writes of a report (05 R127) -/

/-- Bytes of a report. -/
def reportLen : Nat := 3461

/-- Write the report of an `ATTEST` command, and answer it once the write is performed. What a fault leaves unwritten waits with
its request. -/
def reportWrite (s : State) (c : HostCmd) (slot : Nat) (va : Dword) (bs : List Byte) : State :=
  let r := rqDevice s 0 slot
  let req : Req := { id := 0, who := .svp, kind := .write bs, asid := r.asid, va := va, st := .sent, slot := slot, acc := accStore }
  let wait (s : State) : State := { s with svpWait := mset s.svpWait (s.nextId - 1) c }
  match storeRange s r va.toNat bs with
  | (s, .done) => respond s c 0 (bytesOf 4 reportLen)
  | (s1, .held) => wait (addReq (keepSaid s s1) { req with st := .held })
  | (s1, .remote h) => wait (sendRemote s1 { req with hme := h })
  | (s1, .poison) => respond s1 c 2 []
  | (s1, .fault k d h p) =>
    let bad := ownFails s r va.toNat bs.length
    wait (parkAcc s1 { req with va := BitVec.ofNat 64 bad, kind := .write (bs.drop (bad - va.toNat)) } (.fault k d h p))

/-! ### Requests at a home (R55, R67, R71) -/

/-- New bytes under an atomic of a request: 7 is compare-and-swap, the others are those of `atom` (17 R411). -/
def peerAtom (op : Nat) (ty : LType) (n x e : Nat) (old : List Byte) : List Byte :=
  if op = 7 then (if fieldOf old 0 n = e % 2 ^ (8 * n) then bytesOf n x else old)
  else bytesOf n (atomFn op ty (fieldOf old 0 n) (x % 2 ^ (8 * n)))

/-- A store or atomic of a team that has ended is performed (06 R133, 13 R295), and so a write-back that the host no longer homes
(04 R94). One that fails on a fault that is not replayable is recorded and over; so is an atomic on a page that the host homes
by now (04 R95). -/
def serveOrphan (s : State) (r : Req) : State :=
  let rq : Rq := { rqDevice s r.die r.slot with asid := r.asid, stales := r.stales }
  let x : State × Acc :=
    match r.kind with
    | .write bs => storeRange s rq r.va.toNat bs
    | .atom op n ty v e =>
      (match atomPiece s rq true r.va.toNat n (peerAtom op ty n v.toNat e.toNat) with
       | (s, a, _) => (s, a))
    | _ => (s, .done)
  match x with
  | (s1, .done) => dropReq s1 r.id
  | (s1, .held) => keepSaid s s1
  | (s1, .remote h) => if r.isAtom && hmeHome h != 10 then dropReq s1 r.id else parkAcc (dropReq s1 r.id) r (.remote h)
  | (s1, .fault k d h p) =>
    parkAcc (dropReq s1 r.id) (if replayable k then r else { r with who := .device }) (.fault k d h p)
  | (s1, a) => parkAcc (dropReq s1 r.id) r a

/-- A merged store of a spine thread is written; one that fails is a trap of the thread (02 R31, 03 R74; log entry 21). -/
def serveMerged (s : State) (r : Req) (t : Nat) (bs : List Byte) : State :=
  match mergedPiece s { rqDevice s r.die r.slot with asid := r.asid, agent := .spine t, stales := r.stales } r.va.toNat bs with
  | (s1, .done) => dropReq s1 r.id
  | (s1, .held) => keepSaid s s1
  | (s1, .poison) => spineTrap (dropReq s1 r.id) t tPoison r.va
  | (s1, a) => parkAcc (dropReq s1 r.id) r a

/-- The exit record of a team that `CTXFREE` has killed; one that can never be written counts in `SVCERR` (06 R145). -/
def serveKill (s : State) (r : Req) (bs : List Byte) : State :=
  match storeRange s { rqDevice s r.die r.slot with asid := r.asid, stales := r.stales } r.va.toNat bs with
  | (s1, .done) => dropReq s1 r.id
  | (s1, .held) => keepSaid s s1
  | (s1, .poison) => svcErr (dropReq s1 r.id)
  | (s1, a) => parkAcc (dropReq s1 r.id) r a

/-- A request that waited for its link, or for its turn there, is sent (04 R81, 10 R242). -/
def sendQueued (s : State) (r : Req) : State :=
  if linkRoom s r then
    let s' := modReq s r.id fun r => { r with st := .remote, sentAt := s.timeNs.toNat }
    { s' with outs := sendOuts s r r.id r.port ++ s'.outs }
  else s

/-- A held or reissued request is served at its home from its start. -/
def serveReq (s : State) (r : Req) : State :=
  match r.who with
  | .squad _ _ => serveLane s r
  | .orphan _ | .device => serveOrphan s r
  | .merged t => (match r.kind with | .write bs => serveMerged s r t bs | _ => dropReq s r.id)
  | .killRec => (match r.kind with | .write bs => serveKill s r bs | _ => dropReq s r.id)
  | .svp =>
    (match mget s.svpWait r.id, r.kind with
     | some c, .write bs => reportWrite { dropReq s r.id with svpWait := mdel s.svpWait r.id } c r.slot r.va bs
     | _, _ => dropReq s r.id)
  | _ => dropReq s r.id

/-- R55: a request arrives at its home and is checked and served. -/
def execHomeRequest (s : State) : Outcome :=
  .next (match s.reqs.find? fun r => r.id == s.arg.id with
  | some r =>
    (match r.st with
     | .sent | .held => serveReq s r
     | .queued => sendQueued s r
     | _ => s)
  | none => s)

/-- R67: after a STALE answer the requester drops the HME and reissues the request; the eighth in a row raises the
generation-loop fault. -/
def execStaleResponse (s : State) : Outcome :=
  .next (match s.reqs.find? fun r => r.id == s.arg.id with
  | some r =>
    match r.st with
    | .stale n =>
      if n < 8 then modReq (dropHme s r.die r.asid r.va.toNat) r.id fun r => { r with st := .held, stales := n }
      else
        let hme := match hmWalk s r.slot r.va.toNat with | .hme w => w | _ => 0
        modReq s r.id fun r => { r with st := .faulted 0x0A, stales := 0, hme := hme }
    | _ => s
  | none => s)

/-! ### Accesses that fail (R74) -/

/-- A fault kind of a parked request. -/
def reqKindNo (s : State) (r : Req) : Nat :=
  match r.st with
  | .parked t => (match (getDie s r.die).pft.find? fun p => p.token == t with | some p => p.kind | none => 0x02)
  | .faulted k => k
  | _ => 0x02

/-- A squad whose queue operation or fetch cannot be performed traps at its instruction. A word of the next volley that cannot be
fetched lets the check go on without it: the squad traps when it reaches it (14 R322). -/
def squadFails (s : State) (id : Nat) (r : Req) (kind : Nat) : State :=
  match mget s.squads id with
  | none => dropReq s r.id
  | some q =>
    let w : BitVec 96 := match r.kind with
      | .ifetch => unknownWord s
      | _ => (match (fetchWord s id q q.pos).2 with | .bytes bs => wordVal bs | _ => unknownWord s)
    let off := (r.va.toNat - cbOf s q.team) / 12 * 12
    if r.kind = .ifetch ∧ q.inVolley = false ∧ off ≠ q.pos.toNat then
      modSquad (dropReq s r.id) id fun q => { q with wait := .none, code := mset q.code off [] }
    else
    let s := modSquad (dropReq s r.id) id fun q => { q with wait := .none, eject := none }
    preciseTrap s id tMemfault q.em w (trapVals q.em fun _ => r.va) (memAux kind r.acc)

/-- A request fails as an unresolvable fault (R74, 04 R103). -/
def reqFails (s : State) (r : Req) (kind : Nat) : State :=
  match r.who with
  | .squad id 0 => squadFails s id r kind
  | .squad id log => failParked (dropReq s r.id) id log kind r.acc [r.lane]
  | .spine t | .merged t => spineTrap (dropReq s r.id) t tMemfault r.va
  | .matrix m => mopUnresolved (dropReq s r.id) m kind
  | .copy c => copyUnresolved (dropReq s r.id) c kind r.acc
  | .grid g =>
    let s := dropReq s r.id
    gridWord { s with grids := mmod s.grids g fun g => { g with gxReq := none } } g (2 ^ 31)
  | .exitRec t => modTeam (svcErr (dropReq s r.id)) t fun t => { t with exitReq := none, exitDone := true }
  | .killRec => svcErr (dropReq s r.id)
  | .svp =>
    (match mget s.svpWait r.id with
     | some c => respond { dropReq s r.id with svpWait := mdel s.svpWait r.id } c 2 []
     | none => dropReq s r.id)
  | _ => dropReq s r.id

/-! ### Fault records (R74 to R76) -/

def Req.writes (r : Req) : Bool := r.acc == accStore || r.acc == accAtomic

/-- A fault record (R76), with the number of accesses attached. -/
def faultRecord (r : Req) (kind : Nat) (token : Word) (cnt : Nat) : List Byte :=
  bytesOf 8 (if kind = 0x11 then r.va.toNat else r.va.toNat % 2 ^ 56) ++ bytesOf 2 r.asid.toNat ++ bytesOf 1 kind
  ++ bytesOf 1 r.acc ++ bytesOf 1 (r.code.getD r.who.code) ++ bytesOf 1 (flagBit (replayable kind) 0)
  ++ bytesOf 2 (Nat.min cnt 65535)
  ++ bytesOf 4 token.toNat ++ bytesOf 4 r.hme ++ bytesOf 8 r.pte ++ bytesOf 1 r.die ++ zeros 31

def sameFault (r : Req) (kind : Nat) (p : PFault) : Bool :=
  p.asid == r.asid && p.page.toNat == r.va.toNat / 65536 && p.kind == kind && p.write == r.writes

/-- R74, R75: a replayable fault attaches to a matching pending entry; otherwise its record is posted, once the table and the
fault queue have room, and every matching fault that waits attaches with it. With the record of another fault its access
fails (05 R111). -/
def execFaultRecordPost (s : State) : Outcome :=
  .next (match s.reqs.find? fun r => r.id == s.arg.id with
  | none => s
  | some r =>
    match r.st with
    | .faulted kind =>
      let d := getDie s r.die
      (match if replayable kind then d.pft.find? (sameFault r kind) else none with
       | some p =>
         let put (x : PFault) : PFault := if x.token = p.token then { x with reqs := x.reqs ++ [r.id] } else x
         modReq (setDie s r.die { d with pft := d.pft.map put }) r.id fun r => { r with st := .parked p.token }
       | none =>
         if replayable kind ∧ d.pft.length ≥ 256 then s
         else
           let token : Word := BitVec.ofNat 32 s.nextId
           let p : PFault := ⟨token, r.asid, BitVec.ofNat 64 (r.va.toNat / 65536), kind, r.writes, r.slot, []⟩
           let same (x : Req) : Bool := x.id == r.id || (x.st == .faulted kind && x.die == r.die && sameFault x kind p)
           let ids := if replayable kind then (s.reqs.filter same).map (·.id) else [r.id]
           match devicePushTry s.fresh r.slot (ccb s r.slot 0x28 4) (faultRecord r kind token ids.length) false with
           | none => s
           | some (s, _) =>
             if replayable kind then
               let d := getDie s r.die
               ids.foldl (fun s k => modReq s k fun r => { r with st := .parked token })
                 (setDie s r.die { d with pft := d.pft ++ [{ p with reqs := ids }] })
             else
               match r.who with
               | .device | .orphan _ => dropReq s r.id
               | _ => reqFails s r kind)
    | _ => s)

/-! ### Verdicts (R74, R77) -/

/-- An access is made again from the home lookup (R74). -/
def reqReplay (s : State) (r : Req) : State :=
  match r.who with
  | .squad id 0 => modSquad (dropReq s r.id) id fun q => { q with wait := if q.wait = .fault then .none else q.wait }
  | .squad _ _ | .svp | .orphan _ | .merged _ | .killRec => modReq s r.id fun r => { r with st := .sent, stales := 0 }
  | .device => if r.isWrite then modReq s r.id fun r => { r with st := .sent, stales := 0 } else dropReq s r.id
  | .spine t => modSpine (dropReq s r.id) t fun sp => { sp with wait := .none, log := none }
  | .matrix m => mopReplay (dropReq s r.id) m
  | .copy c => copyReplay (dropReq s r.id) c
  | .grid g =>
    let s := dropReq s r.id
    gridRead { s with grids := mmod s.grids g fun g => { g with gxReq := none } } g
  | .exitRec t => modTeam (dropReq s r.id) t fun t => { t with exitReq := none }
  | _ => dropReq s r.id

/-- A write of `FREPLAY` by the SVP (R77), which writes nothing while it is frozen (05 R122). -/
def freplay (s : State) (die : Nat) (token : Word) (f : State → Req → State) : State :=
  if s.svpFrozen then s else
  let d := getDie s die
  match d.pft.find? fun p => p.token == token with
  | none => setDie s die { d with hcmdErr := true }
  | some p =>
    let todo := s.reqs.filter fun r => p.reqs.contains r.id
    let s := todo.foldl f s
    let d := getDie s die
    setDie s die { d with pft := d.pft.filter fun x => x.token != token }

/-- R74: the verdict is replay. -/
def execFreplayReplay (s : State) : Outcome := .next (freplay s s.arg.die.toNat s.arg.token reqReplay)

/-- R74: the verdict is unresolvable. -/
def execFreplayUnresolvable (s : State) : Outcome :=
  .next (freplay s s.arg.die.toNat s.arg.token fun s r => reqFails s r (reqKindNo s r))

/-! ### Walker caches (R59, R66, R71) -/

/-- Address bits below those that a kept pointer's prefix holds: pointers of level n are found with the bits above. -/
def WalkEntry.shift (e : WalkEntry) : Nat :=
  match e.lv with
  | 1 => 48
  | 2 => 39
  | 3 => 30
  | _ => 21

/-- A kept pointer lies on the way to an address of a range. -/
def WalkEntry.meets (e : WalkEntry) (map : Bool) (asid : Half) (base n : Nat) : Bool :=
  e.map == map && e.asid == asid && decide (e.pre * 2 ^ e.shift < base + n) && decide (base < (e.pre + 1) * 2 ^ e.shift)

/-- Drop the kept pointers of a home map or of page tables that a range of an ASID uses, at one die. -/
def dropWalks (s : State) (die : Nat) (map : Bool) (asid : Half) (base n : Nat) : State :=
  let d := getDie s die
  setDie s die { d with walks := d.walks.filter fun e => !e.meets map asid base n }

/-! ### Flush of an ASID (02 R38) -/

/-- Write back and invalidate every line and translation of an ASID; the host is asked for its copies. -/
def flushAsid (s : State) (asid : Half) : State :=
  let s := wcDrain s fun e => e.asid == asid
  let s := recallWhere s false fun g => g.asid == asid && g.holder != .host
  let s := askHosts s fun g => g.asid == asid
  { s with dies := s.dies.map fun d => (d.1, { d.2 with
      hmc := d.2.hmc.filter fun e => e.asid != asid, tlb := d.2.tlb.filter fun e => e.asid != asid
      walks := d.2.walks.filter fun e => e.asid != asid }) }

/-! ### Home commands (R70, R71) -/

/-- log2 of a command's page size. -/
def pageLg (size : BitVec 2) : Nat :=
  match size.toNat with
  | 0 => 16
  | 1 => 21
  | _ => 30

/-- Write back and recall the copies of a range; the host is asked for its own. -/
def recallRange (s : State) (asid : Half) (va lg : Nat) : State :=
  let s := wcDrain s fun e => e.asid == asid && e.va.toNat / 2 ^ lg == va / 2 ^ lg
  let base := va / 2 ^ lg * 2 ^ lg
  let s := recallWhere s false fun g => g.overlaps asid base (2 ^ lg) && g.holder != .host
  askHosts s fun g => g.overlaps asid base (2 ^ lg)

/-- Drop the translations of a range at a home, with the kept pointers to them. -/
def dropTlb (s : State) (die : Nat) (asid : Half) (va lg : Nat) : State :=
  let base := va / 2 ^ lg * 2 ^ lg
  let s := dropWalks s die false asid base (2 ^ lg)
  let d := getDie s die
  setDie s die { d with tlb := d.tlb.filter fun e =>
    !((e.asid == asid || leafG e.leaf.toNat) && decide (e.va.toNat < base + 2 ^ lg) && decide (base < e.va.toNat + 2 ^ e.lg)) }

/-- The held entry of a page or granule. -/
def heldIs (asid : Half) (va lg : Nat) (h : Held) : Bool := h.asid == asid && h.lg == lg && h.va.toNat / 2 ^ lg == va / 2 ^ lg

/-- Requests held for a granule at a home are answered STALE; an access that waits with its instruction or operation counts the
answer, and its die drops the HME (R67). -/
def staleReqs (s : State) (asid : Half) (va lg : Nat) : State :=
  let here (a : Half) (x : Dword) : Bool := a == asid && x.toNat / 2 ^ lg == va / 2 ^ lg
  let dies := distinct ((s.heldAccs.filter fun h => here h.asid h.va).map (·.die))
  let s := dies.foldl (fun s d => dropHme s d asid va) s
  { s with
    reqs := s.reqs.map fun r => if r.st = .held ∧ here r.asid r.va then { r with st := .stale (r.stales + 1) } else r
    heldAccs := s.heldAccs.map fun h => if here h.asid h.va then { h with stales := h.stales + 1 } else h }

/-- A command that is refused sets `ERR`. -/
def hcmdRefuse (s : State) (die : Nat) : State := setDie s die { getDie s die with hcmdErr := true }

/-- Start a command: it is executing until `HOME_COMMAND_DONE`. `HCMDST.DONE` says that the last command finished, so a new
one clears it (log entry 81). -/
def hcmdBusy (s : State) (die op lg : Nat) (asid : Half) : State :=
  let d := getDie s die
  setDie s die { d with hcmdBusy := some (op, lg, asid, d.hcmdva), hcmdDone := false }

/-- `HOLD` and `MOVEHOLD`. -/
def hcmdHold (s : State) (die op lg : Nat) (asid : Half) : State :=
  let d := getDie s die
  let va := d.hcmdva.toNat
  if d.held.length ≥ 16 then hcmdRefuse s die
  else
    let s := recallRange s asid va lg
    let s := hcmdBusy s die op lg asid
    let d := getDie s die
    (setDie s die { d with held := d.held ++ [⟨asid, BitVec.ofNat 64 (va / 2 ^ lg * 2 ^ lg), lg, s.nextId⟩] }).fresh

/-- A write of `HCMD` by the SVP, with the address in `HCMDVA`; the SVP writes nothing while it is frozen (05 R122). -/
def homeCommand (s : State) (die op : Nat) (size : BitVec 2) (asid : Half) : State :=
  let d := getDie s die
  let va := d.hcmdva.toNat
  if s.svpFrozen then s
  else if d.hcmdBusy.isSome ∨ op = 0 ∨ op > 6 ∨ (size = 3 ∧ op ≠ 4) then hcmdRefuse s die
  else
    let lg := pageLg size
    match op with
    | 1 => hcmdHold s die op lg asid
    | 2 =>
      let s := dropTlb (hcmdBusy s die op lg asid) die asid va lg
      let d := getDie s die
      setDie s die { d with held := d.held.filter fun h => !heldIs asid va lg h }
    | 3 => flushAsid (hcmdBusy s die op lg asid) asid
    | 4 => hcmdHold s die op 21 asid
    | 5 =>
      let s := dropTlb (hcmdBusy s die op 21 asid) die asid va 21
      let d := getDie s die
      staleReqs (setDie s die { d with held := d.held.filter fun h => !heldIs asid va 21 h }) asid va 21
    | _ =>
      let s := hcmdBusy s die op 21 asid
      (List.range 8).foldl (fun s d => dropWalks (dropHme s d asid va) d true asid (va / 2 ^ 21 * 2 ^ 21) (2 ^ 21)) s

/-- R71: hold a page and recall its copies. -/
def execHold (s : State) : Outcome := .next (homeCommand s s.arg.die.toNat 1 s.arg.size s.arg.asid)

/-- R71: drop a page's translations and resume its held requests. -/
def execRelease (s : State) : Outcome := .next (homeCommand s s.arg.die.toNat 2 s.arg.size s.arg.asid)

/-- R71: flush an ASID. -/
def execFlushasid (s : State) : Outcome := .next (homeCommand s s.arg.die.toNat 3 s.arg.size s.arg.asid)

/-- R71: hold a granule that moves and recall its copies. -/
def execMovehold (s : State) : Outcome := .next (homeCommand s s.arg.die.toNat 4 s.arg.size s.arg.asid)

/-- R71: drop a granule's translations and answer its held requests STALE. -/
def execMovedone (s : State) : Outcome := .next (homeCommand s s.arg.die.toNat 5 s.arg.size s.arg.asid)

/-- R71: drop a granule's HME from every die's cache. -/
def execHminv (s : State) : Outcome := .next (homeCommand s s.arg.die.toNat 6 s.arg.size s.arg.asid)

/-- R70: a command finishes; a hold does so once no copy of its page remains and no engine owns a grain of it. -/
def execHomeCommandDone (s : State) : Outcome :=
  .next (
    let die := s.arg.die.toNat
    match (getDie s die).hcmdBusy with
    | none => s
    | some (op, lg, asid, va) =>
      let base := va.toNat / 2 ^ lg * 2 ^ lg
      let finish (s : State) : State := setDie s die { getDie s die with hcmdBusy := none, hcmdDone := true }
      if op = 1 ∨ op = 4 then
        let s1 := recallRange s asid va.toNat lg
        if (s1.grains.any fun g => g.overlaps asid base (2 ^ lg)) ∨ engineOwns s1 none asid base (2 ^ lg) 512 then s
        else finish s1
      else if op = 3 then (if s.grains.any fun g => g.asid == asid then s else finish s)
      else finish s)

end Sys2Proof.Machine
end

