-- ==== Sys2Proof/Machine/Registers.lean ====
section
/-! DEFINITION. Control registers: the map of PF BAR0 (04 R83 to R85), reads and writes of registers (00 R3), and the
writes that have rules of their own: management counters (05 R118), the watchdog period (R120), NOTIFY (04 R96, R97,
05 R109). -/

namespace Sys2Proof.Machine

/-! ### Reads (04 R83 to R86, 05 R120) -/

/-- `CAP` of a port's extents, in whole GB. -/
def capOf (xs : List (Nat × Nat)) : Half := BitVec.ofNat 16 ((xs.foldl (fun n x => n + x.2) 0) * 2 ^ 30 / 1000000000)

/-- A port as its mode lets it be: one that is absent reports nothing, LPDDR-6 has no persistence domain, and CXL reports
what its extents hold (02 R28). -/
def Tier.shown (t : Tier) : Tier :=
  match t.mode.toNat with
  | 0 => {}
  | 1 => { t with persok := false, extents := [] }
  | 2 => { t with cap := capOf t.extents }
  | _ => { mode := t.mode }

def tierStat (s : State) (p : Nat) : Nat :=
  let t := (mgetD s.io.tiers p {}).shown
  t.cap.toNat * 2 ^ 8 + flagBit t.persok 3 + flagBit t.link 2 + t.mode.toNat

/-- A register of a host window (R86). -/
def windowReg (w : Window) (r : Nat) : Nat :=
  match r with
  | 0 => w.off.toNat + w.fn.toNat
  | 1 => w.len.toNat
  | 2 => w.va.toNat + w.asid.toNat
  | _ => 0

/-- The device block. -/
def devReg (s : State) (o : Nat) : Nat :=
  let d := s.dev
  match o with
  | 0x00 => 0x0820 * 2 ^ 16 + d.step.toNat * 2 ^ 8
  | 0x08 => flagBit d.rcvact 1 + flagBit d.ready 0
  | 0x10 => d.rstcause.toNat
  | 0x18 => d.lc.toNat
  | 0x20 => d.ccbbase.toNat
  | 0x28 => d.svcerr.toNat
  | 0x30 => d.svpwdt.toNat
  | 0x38 => d.rcvCount.toNat * 2 ^ 16 + d.rcvLast.toNat
  | 0x40 => d.mgmtTail.toNat
  | 0x48 => d.mgmtHead.toNat
  | 0x50 => d.mgmtRTail.toNat
  | 0x58 => d.mgmtRHead.toNat
  | _ =>
    let ring (m : FMap Byte) (i : Nat) : Nat := fieldOf ((List.range 8).map fun k => mgetD m (i + k) 0) 0 8
    if 0x1000 ≤ o ∧ o < 0x1400 then ring d.mgmtRing (o - 0x1000)
    else if 0x1400 ≤ o ∧ o < 0x1800 then ring d.mgmtRRing (o - 0x1400)
    else 0

/-- The control block of an I/O die. -/
def ioReg (s : State) (second : Bool) (o : Nat) : Nat :=
  if 0x100 ≤ o ∧ o < 0x120 then tierStat s ((o - 0x100) / 8 + if second then 4 else 0)
  else if 0x200 ≤ o ∧ o < 0xA00 then
    windowReg (mgetD (if second then s.io.klWin else s.io.pcieWin) ((o - 0x200) / 32) {}) (o % 32 / 8)
  else if o = 0x1000 then
    (if second then s.io.klNdrop.toNat * 2 ^ 16 + flagBit s.io.klDegr 1 + flagBit s.io.klUp 0
     else s.io.vplDevno.toNat * 2 ^ 16 + s.io.vplUp.toNat)
  else if o = 0x1008 then (if second then s.io.klSeq.toNat else s.io.vplTmo.toNat)
  else 0

/-- Counters of a cluster, in the order of 08 R204. -/
def clusterReg (c : Cluster) (i : Nat) : Nat :=
  match i with
  | 0 => c.clUnder.toNat
  | 1 => c.clCountLost.toNat
  | 2 => c.clCntRel.toNat
  | 3 => c.clOverRead.toNat
  | _ => 0

/-- The control block of a compute die. -/
def dieReg (s : State) (die o : Nat) : Nat :=
  let d := getDie s die
  let pair (l : List Dword) (i : Nat) : Nat := (l.getD i 0).toNat
  match o with
  | 0x000 => if Config.upperDie s.resets die then 2 ^ 16 + 512 else 256
  | 0x100 => d.hcmdva.toNat
  | 0x110 => flagBit d.hcmdErr 2 + flagBit d.hcmdDone 1 + flagBit d.hcmdBusy.isSome 0
  | 0x200 => d.heatctl.toNat
  | 0x208 => d.heatcnt.toNat
  | 0x210 => pair d.heatlo 0
  | 0x218 => pair d.heatlo 1
  | 0x220 => pair d.heathi 0
  | 0x228 => pair d.heathi 1
  | 0x230 => pair d.heatbase 0
  | 0x238 => pair d.heatbase 1
  | 0x240 => pair d.heatstmp 0
  | 0x248 => pair d.heatstmp 1
  | 0x300 => flagBit d.hazard 16 + d.agemax.toNat
  | 0x308 => d.fpwin.toNat
  | 0x310 => d.mewdt.toNat
  | _ =>
    if 0x400 ≤ o ∧ o < 0x440 then (mgetD d.codec ((o - 0x400) / 8) 0).toNat
    else if 0x480 ≤ o ∧ o < 0x4C0 then (mgetD d.codec (8 + (o - 0x480) / 8) 0).toNat
    else if 0x1000 ≤ o ∧ o < 0x2000 then clusterReg (getCluster s (64 * die + (o - 0x1000) / 0x40)) (o % 0x40 / 8)
    else 0

/-- The 64-bit register at an 8-byte aligned offset of PF BAR0; reserved and write-only registers read 0. -/
def regRead (s : State) (o : Nat) : Nat :=
  if o < 0x10000 then devReg s o
  else if 0x100000 ≤ o ∧ o < 0x180000 then ioReg s false (o - 0x100000)
  else if 0x180000 ≤ o ∧ o < 0x200000 then ioReg s true (o - 0x180000)
  else if 0x400000 ≤ o ∧ o < 0x800000 then dieReg s ((o - 0x400000) / 0x80000) ((o - 0x400000) % 0x80000)
  else 0

/-- In Winter only the identity and `LCSTATE` are answered (05 R124). -/
def winterSilent (s : State) (o : Nat) : Bool := s.dev.lc == 3 && o / 8 * 8 != 0x00 && o / 8 * 8 != 0x18

/-- A read at an aligned offset: the register, or its upper half. Fields that a read clears go to 0: `SVCERR` (05 R120) and
`KLSTAT.NDROP` (04 R89). -/
def readAt (s : State) (o : Nat) : State :=
  if winterSilent s o then s
  else
    let v := regRead s (o / 8 * 8) / (if o % 8 = 4 then 2 ^ 32 else 1)
    let s1 := if s.arg.svp then s else { s with outs := .reg s.arg.tag (bytesOf (if s.arg.wide then 8 else 4) v) :: s.outs }
    if o = 0x28 then { s1 with dev := { s1.dev with svcerr := 0 } }
    else if o = 0x181000 then { s1 with io := { s1.io with klNdrop := 0 } }
    else s1

/-- R83: a read in BAR0 of a function; one that is not of 32 or 64 aligned bits is aborted. The NOTIFY registers of a VF are
write-only. -/
def readRegister (s : State) : State :=
  let a := s.arg
  if a.narrow || a.off % (if a.wide then 8 else 4) != 0 then { s with outs := .abort a.tag :: s.outs }
  else if !a.svp && a.fn != 0 then { s with outs := .reg a.tag (zeros (if a.wide then 8 else 4)) :: s.outs }
  else readAt s a.off

/-- R120: a read of `SVCERR` clears it. -/
def execSvcerrRead (s : State) : Outcome := .next (readAt s 0x28)

/-- R89: a read of `KLSTAT` clears `NDROP`. -/
def execKlstatRead (s : State) : Outcome := .next (readAt s 0x181000)

/-! ### Writes (00 R3) -/

/-- The register's new value: a 32-bit write replaces one half. -/
def regMerge (old off v : Nat) (wide : Bool) : Nat :=
  if wide then v % 2 ^ 64
  else if off % 8 = 4 then old % 2 ^ 32 + v % 2 ^ 32 * 2 ^ 32
  else old / 2 ^ 32 * 2 ^ 32 + v % 2 ^ 32

/-- Bits lo to hi - 1 of a written value, in place; the others are reserved. -/
def keep (v lo hi : Nat) : Nat := bitsOf v lo (hi - lo) * 2 ^ lo

/-- R118: a management tail takes effect within 16 of the head and of the previous tail. -/
def mgmtTailWrite (s : State) (t : Nat) : State :=
  if ctrSub t s.dev.mgmtHead.toNat ≤ 16 ∧ ctrSub t s.dev.mgmtTail.toNat ≤ 16 then
    { s with dev := { s.dev with mgmtTail := BitVec.ofNat 16 t } }
  else svcErr s

/-- R118: the host has consumed responses; one that waits for room enters the ring. -/
def mgmtHeadWrite (s : State) (h : Nat) : State := mgmtFlush { s with dev := { s.dev with mgmtRHead := BitVec.ofNat 16 h } }

/-- R120: the SVP restarts the watchdog, with a new period unless that is 0. -/
def wdtWrite (s : State) (ms : Nat) : State :=
  { s with dev := { s.dev with
      wdtStart := s.timeNs.toNat, svpwdt := if ms % 65536 = 0 then s.dev.svpwdt else BitVec.ofNat 16 ms } }

/-- The device holds 256 NOTIFY writes: further posted writes of the host to BAR0 wait outside (04 R96). -/
def postedWait (s : State) : Bool := !s.arg.svp && decide (256 ≤ s.io.notifies.length)

def execMgmttailWrite (s : State) : Outcome :=
  .next (if postedWait s then s else mgmtTailWrite s (s.arg.val.toNat % 65536))

def execMgmtrheadWrite (s : State) : Outcome :=
  .next (if postedWait s then s else mgmtHeadWrite s (s.arg.val.toNat % 65536))

/-- R120: a host write of `SVPWDT` is ignored; the SVP writes nothing while it is frozen (R122). -/
def execSvpwdtWrite (s : State) : Outcome := .next (if s.arg.svp && !s.svpFrozen then wdtWrite s (s.arg.val.toNat % 65536) else s)

/-- A write in the device block. -/
def devWrite (s : State) (off v : Nat) (wide svp : Bool) : State :=
  let b := off / 8 * 8
  let n := regMerge (devReg s b) off v wide
  let low := off % 8 == 0
  if 0x1000 ≤ off ∧ off < 0x1400 then
    let bs := bytesOf (if wide then 8 else 4) v
    { s with dev := { s.dev with mgmtRing := putBytesMap s.dev.mgmtRing (off - 0x1000) bs } }
  else if b = 0x20 ∧ svp then { s with dev := { s.dev with ccbbase := BitVec.ofNat 64 (keep n 18 52) } }
  else if b = 0x30 ∧ svp ∧ low then wdtWrite s (n % 65536)
  else if b = 0x40 ∧ low then mgmtTailWrite s (n % 65536)
  else if b = 0x58 ∧ low then mgmtHeadWrite s (n % 65536)
  else s

/-- A write of a host-window register (R86). -/
def windowWrite (w : Window) (r n : Nat) : Window :=
  match r with
  | 0 => { w with off := BitVec.ofNat 64 (keep n 21 40), fn := BitVec.ofNat 6 n }
  | 1 => { w with len := BitVec.ofNat 64 (keep n 21 40) }
  | 2 => { w with va := BitVec.ofNat 64 (keep n 21 56), asid := BitVec.ofNat 16 n }
  | _ => w

/-- A write of the SVP in the control block of an I/O die. -/
def ioWrite (s : State) (second : Bool) (off v : Nat) (wide : Bool) : State :=
  let b := off / 8 * 8
  let n := regMerge (ioReg s second b) off v wide
  if 0x200 ≤ b ∧ b < 0xA00 then
    let k := (b - 0x200) / 32
    let m := if second then s.io.klWin else s.io.pcieWin
    let m := mset m k (windowWrite (mgetD m k {}) (b % 32 / 8) n)
    if second then { s with io := { s.io with klWin := m } } else { s with io := { s.io with pcieWin := m } }
  else if b = 0x1008 ∧ second = false ∧ n % 16 ≤ 10 then { s with io := { s.io with vplTmo := BitVec.ofNat 4 n } }
  else s

/-- A window's heat bytes and stamps are zero, as software leaves them before it sets `EN` (03 R79). -/
def heatZeroed (s : State) (d : Die) (w : Nat) : Bool :=
  let frames := (heatHi d w - heatLo d w) / 65536
  let base := (d.heatbase.getD w 0).toNat
  let stamps := (d.heatstmp.getD w 0).toNat
  s.mem.all fun c => c.2 == 0
    || !(decide (base ≤ c.1) && decide (c.1 < base + frames) || decide (stamps ≤ c.1) && decide (c.1 < stamps + 4 * ((frames + 63) / 64)))

/-- `HEATCTL` takes a value. A window whose bytes and stamps are not zero when `EN` is set, and every window when `EP`
changes under `EN`, has heat values that are not defined (03 R79; log entry 89). -/
def heatCtlWrite (s : State) (d : Die) (v : Word) : Die :=
  let was := d.heatctl.getLsbD 15
  let on := v.getLsbD 15
  let open_ (w : Nat) : Bool :=
    if on && !was then !heatZeroed s d w
    else d.heatOpen.getD w false || (on && bitsOf v.toNat 8 5 != bitsOf d.heatctl.toNat 8 5)
  { d with heatctl := v, heatOpen := [open_ 0, open_ 1] }

/-- A register of a heat window has been written: under `EN` its heat values are not defined from then on (03 R79). -/
def heatTouched (d : Die) (w : Nat) : Die :=
  if d.heatctl.getLsbD 15 then { d with heatOpen := setAt d.heatOpen w true } else d

/-- A write of the SVP in the control block of a compute die (03 R70, R77, R79, 06 R149, 11 R263). A 32-bit write of the low
half of `FREPLAY` gives the token with the verdict replay, and one of its high half does nothing (log entry 84). -/
def dieWrite (s : State) (die off v : Nat) (wide : Bool) : State :=
  let b := off / 8 * 8
  let n := regMerge (dieReg s die b) off v wide
  let d := getDie s die
  let low := off % 8 == 0
  let put (l : List Dword) (i x : Nat) : List Dword := setAt l i (BitVec.ofNat 64 x)
  match b with
  | 0x100 => setDie s die { d with hcmdva := BitVec.ofNat 64 (keep n 16 56) }
  | 0x108 =>
    if low then homeCommand s die (v % 16) (BitVec.ofNat 2 (bitsOf v 6 2)) (BitVec.ofNat 16 (bitsOf v 16 16)) else s
  | 0x110 => if low then setDie s die { d with hcmdErr := d.hcmdErr && !bitOf v 2, hcmdDone := d.hcmdDone && !bitOf v 1 } else s
  | 0x118 =>
    if low then freplay s die (BitVec.ofNat 32 v) (if wide && bitOf v 32 then fun s r => reqFails s r (reqKindNo s r) else reqReplay)
    else s
  | 0x200 =>
    if n % 16 > 12 ∨ bitsOf n 8 5 < 8 ∨ bitsOf n 8 5 > 20 then s
    else setDie s die (heatCtlWrite s d (BitVec.ofNat 32 (keep n 15 16 + keep n 8 13 + keep n 0 4)))
  | 0x210 => setDie s die (heatTouched { d with heatlo := put d.heatlo 0 (keep n 16 52) } 0)
  | 0x218 => setDie s die (heatTouched { d with heatlo := put d.heatlo 1 (keep n 16 52) } 1)
  | 0x220 => setDie s die (heatTouched { d with heathi := put d.heathi 0 (keep n 16 52) } 0)
  | 0x228 => setDie s die (heatTouched { d with heathi := put d.heathi 1 (keep n 16 52) } 1)
  | 0x230 => setDie s die (heatTouched { d with heatbase := put d.heatbase 0 (keep n 6 52) } 0)
  | 0x238 => setDie s die (heatTouched { d with heatbase := put d.heatbase 1 (keep n 6 52) } 1)
  | 0x240 => setDie s die (heatTouched { d with heatstmp := put d.heatstmp 0 (keep n 2 52) } 0)
  | 0x248 => setDie s die (heatTouched { d with heatstmp := put d.heatstmp 1 (keep n 2 52) } 1)
  | 0x300 =>
    setDie s die { d with hazard := bitOf n 16, agemax := if n % 65536 = 0 then d.agemax else BitVec.ofNat 16 n }
  | 0x308 => if 1 ≤ n % 2 ^ 32 ∧ n % 2 ^ 32 ≤ 4095 then s else setDie s die { d with fpwin := BitVec.ofNat 32 n }
  | 0x310 => setDie s die { d with mewdt := BitVec.ofNat 16 n }
  | _ => s

/-- R3, R83: a host or SVP write of a register of PF BAR0. Registers that the SVP alone writes ignore the host. Reserved
bits and refused values are not stored. -/
def execRegisterWrite (s : State) : Outcome :=
  .next (
    let a := s.arg
    let v := a.val.toNat
    let o := a.off
    if (if a.svp then s.svpFrozen else postedWait s) then s
    else if a.narrow || o % (if a.wide then 8 else 4) != 0 then { s with outs := .abort a.tag :: s.outs }
    else if !a.svp && a.fn != 0 then s
    else if o < 0x10000 then devWrite s o v a.wide a.svp
    else if a.svp = false then s
    else if 0x100000 ≤ o ∧ o < 0x180000 then ioWrite s false (o - 0x100000) v a.wide
    else if 0x180000 ≤ o ∧ o < 0x200000 then ioWrite s true (o - 0x180000) v a.wide
    else if 0x400000 ≤ o ∧ o < 0x800000 then dieWrite s ((o - 0x400000) / 0x80000) ((o - 0x400000) % 0x80000) v a.wide
    else s)

/-! ### NOTIFY (04 R96, R97, 05 R109, R114, R117) -/

/-- A NOTIFY takes effect; none while its queue's block is held at its home. One whose block is homed outside, faults or is poisoned
is ignored, and counts in `SVCERR` (log entry 97). -/
def notifyEffect (s : State) (n : Notify) : Option State :=
  match mget s.svqMap n.svq with
  | none => some (svcErr s)
  | some (slot, q) =>
    if n.fn ≠ 0 ∧ n.fn.toNat ≠ slot then some (svcErr s)
    else
      let asid := ctxAsid s slot
      let va := qcbVa s slot q
      match qOpen s 0 slot asid va accStore with
      | (_, .held) => none
      | (s, .ok t) =>
        let (s, b) := qRead s t asid va
        let tl := n.tail.toNat
        if qBad slot q b then some (svcErr s)
        else if qProd b = 0 ∨ ctrSub tl (qHead b) > qWin b ∨ ctrSub tl (qTail b) > qWin b then
          some (qWrite s t asid va (qSet b 32 4 (Nat.min (qErrs b + 1) 0xFFFFFFFF)))
        else
          let s := qWrite s t asid va (qSet (qSet b 10 2 tl) 12 2 tl)
          let s := wakeTeams s fun t => slotOf s t == slot
          some (svcWake s n.svq)
      | (s, _) => some (svcErr s)

/-- The KL write that a NOTIFY waits for has been performed. -/
def notifyReady (s : State) (n : Notify) : Bool :=
  match n.seq with
  | none => true
  | some k => decide ((s.io.klSeq - k).toNat < 2 ^ 31)

/-- The oldest NOTIFY of a service queue takes effect, if it may. -/
def notifyRun (s : State) (q : Nat) : State :=
  match s.io.notifies.find? fun n => n.svq == q with
  | none => s
  | some n =>
    if notifyReady s n = false then s
    else
      match notifyEffect s n with
      | none => s
      | some s => { s with io := { s.io with notifies := s.io.notifies.eraseP fun n => n.svq == q } }

/-- R97: a NOTIFY write arrives: it takes effect at once, or is held until its turn. While 256 are held it waits outside.
Over KL it follows the writes sent before it, of which `token` is the last number (log entry 50). -/
def execNotify (s : State) : Outcome :=
  .next (
    let a := s.arg
    let v := a.val.toNat
    if s.io.notifies.length ≥ 256 then s
    else
      let seq : Option Word :=
        if a.kl then some a.token
        else if a.wide && bitOf v 31 then some (BitVec.ofNat 32 (v / 2 ^ 32)) else none
      let n : Notify := ⟨a.slot.toNat, a.fn, BitVec.ofNat 16 v, seq⟩
      notifyRun { s with io := { s.io with notifies := s.io.notifies ++ [n] } } n.svq)

/-- R109: a held NOTIFY takes effect. -/
def execNotifyTakeEffect (s : State) : Outcome := .next (notifyRun s s.arg.slot.toNat)

end Sys2Proof.Machine
end

