-- ==== Sys2Proof/Machine/Device.lean ====
section
/-! DEFINITION. Resets, power and life cycle (01 R16, R21, R22, 05 R120, R124 to R126), memory errors (02 R31), CXL
ports (02 R28 to R30, R53). -/

namespace Sys2Proof.Machine

/-! ### Resets (05 R125, 02 R53) -/

/-- The ports keep their modules; the persistence domains of CXL devices keep their contents; fuses, keys and firmware
stay, but for the upper dies, whose state the SVP may change (01 R14); all else is wiped. The model's own fields go on. -/
def deviceReset (s : State) (cause : Nat) : State :=
  { State.reset with
    moves := s.moves, arg := s.arg, freeNo := s.freeNo, nextId := s.nextId, outs := s.outs, clocks := s.clocks
    resets := s.resets + 1, mem := s.durable, durable := s.durable
    dies := s.dies.filterMap fun d => if d.2.failed then some (d.1, { failed := true }) else none
    io := { tiers := s.io.tiers }
    dev := { step := s.dev.step, lc := s.dev.lc, keys := s.dev.keys, firmware := s.dev.firmware, fwFailed := s.dev.fwFailed
             rstcause := BitVec.ofNat 4 cause } }

/-- The modules and devices found at power-on: 4 bytes a port (log entry 4): mode, `PERSOK` and `LINK`, `CAP`. -/
def portsAt (bs : List Byte) : FMap Tier :=
  (List.range (bs.length / 4)).map fun p =>
    let f := fieldOf bs (4 * p + 1) 1
    let t : Tier := { mode := BitVec.ofNat 2 (fieldOf bs (4 * p) 1), persok := bitOf f 0, link := bitOf f 1,
                      cap := BitVec.ofNat 16 (fieldOf bs (4 * p + 2) 2) }
    (p, t.shown)

/-- R125: power is applied. -/
def execPowerOnReset (s : State) : Outcome :=
  .next (
    let s1 := deviceReset s 1
    if s.arg.data.isEmpty then s1 else { s1 with io := { s1.io with tiers := portsAt (s.arg.data.take 32) } })

/-- R53: the host asks for a reset: dirty grains of persistent pages are written back, and CXL devices are flushed; the
extents that back persistent pages are not wiped (log entry 78). -/
def execOrderlyHostReset (s : State) : Outcome :=
  .next (
    let s := flushPers s
    let s := persistRanges (persist s) (persExtents s)
    deviceReset { s with outs := .cxlFlush :: s.outs } 2)

/-- R120: PF reset or hot reset. -/
def execHotReset (s : State) : Outcome := .next (deviceReset s 3)

/-- R22: a die has reached 115 °C: the package is held in reset, and the PCIe link goes down. -/
def execThermalTrip (s : State) : Outcome :=
  .next (
    let s := deviceReset s 4
    { s with outs := .pcieDown :: s.outs, io := { s.io with pcieUp := false } })

/-- R125: the wipe and the boot are finished; the PCIe link is up. The SVP's threads start, and each scans its queue (log entry
86). -/
def execWipeComplete (s : State) : Outcome :=
  .next { s with svcAwake := 0xFFFFFFFFFFFFFFFF, dev := { s.dev with ready := true, wdtStart := s.timeNs.toNat }, io := { s.io with pcieUp := true } }

/-- R125: a configuration request is answered with retry status until the device is ready. What configuration space
holds, the spec does not say (log entry 51). -/
def execPcieConfigurationRequest (s : State) : Outcome :=
  .next (
    if s.dev.ready = false then { s with outs := .retry s.arg.tag :: s.outs }
    else { s with outs := .host s.arg.tag true (bytesOf 4 (Config.free64 s.freeNo 0).toNat) :: s.outs })

/-! ### Power (01 R16, R21) -/

/-- R21: boost goes first, then the cluster clock, then the engine voltage. -/
def execThrottle (s : State) : Outcome :=
  .next (if s.boost then { s with boost := false } else { s with throttle := Nat.min (s.throttle + 1) 2 })

/-- R16: the power controller raises the clock. What it took away last comes back first: the engine voltage, then the
cluster clock, then boost (log entry 10). -/
def execBoost (s : State) : Outcome :=
  .next (if s.throttle > 0 then { s with throttle := s.throttle - 1 } else { s with boost := true })

/-! ### Firmware and life cycle (05 R124, R126) -/

/-- R126: an image runs only if both of its signatures verify. -/
def execFirmwareUpdate (s : State) : Outcome :=
  .next (
    if s.arg.ok && s.arg.ok2 then { s with dev := { s.dev with firmware := s.arg.id } }
    else { s with dev := { s.dev with fwFailed := true } })

/-- A life-cycle transition wipes the device. -/
def lifeCycle (s : State) (phase : BitVec 2) : State :=
  let s := deviceReset s 6
  { s with dev := { s.dev with lc := phase, keys := s.dev.keys && phase != 3 } }

/-- R124: Spring to Summer, when the vendor's signature verifies. -/
def execVendorProvisioning (s : State) : Outcome := .next (if s.arg.ok && s.dev.lc == 0 then lifeCycle s 1 else s)

/-- R124: Summer to Autumn, when the owner's signature verifies. -/
def execOwnerDebug (s : State) : Outcome := .next (if s.arg.ok && s.dev.lc == 1 then lifeCycle s 2 else s)

/-- R124: Autumn to Summer, when the owner's signature verifies. -/
def execOwnerReturnToSummer (s : State) : Outcome := .next (if s.arg.ok && s.dev.lc == 2 then lifeCycle s 1 else s)

/-- R124: any state to Winter; the keys are destroyed. -/
def execDecommission (s : State) : Outcome := .next (if s.arg.ok then lifeCycle s 3 else s)

/-! ### Memory errors (02 R31) -/

/-- R31: a corrected error is counted. -/
def execCorrectedError (s : State) : Outcome :=
  .next (
    let d := getDie s s.arg.die.toNat
    setDie s s.arg.die.toNat { d with corrected := d.corrected + 1 })

/-- R31: an uncorrectable error poisons the page. The access that met it, like every later one, is answered POISON. -/
def execUncorrectableError (s : State) : Outcome := .next (poisonAt s s.arg.asid s.arg.va.toNat)

/-- R31: a soft error in a cache sector: a clean sector is fetched again, a dirty one poisons its page. The device has no
`CMP` of a page that the host homes: of its line the device's copies are dropped (log entry 93). -/
def execCacheSoftError (s : State) : Outcome :=
  .next (match findGrain s s.arg.holder s.arg.asid s.arg.va.toNat with
  | none => s
  | some g =>
    let i := (s.arg.va.toNat - g.va.toNat) / 32
    if g.st == .modified && bitOf g.dirty i then
      (match g.pa with
       | none => recallWhere s true fun x => x.hostLine g.asid g.va.toNat g.size
       | some _ => poisonAt s g.asid s.arg.va.toNat)
    else
      if g.cnt == .drained then s
      else seatGrain s { g with lost := g.lost ||| 2 ^ i })

/-! ### CXL ports (02 R28, R30) -/

def getTier (s : State) (p : Nat) : Tier := mgetD s.io.tiers p {}
def setTier (s : State) (p : Nat) (t : Tier) : State := { s with io := { s.io with tiers := mset s.io.tiers p t } }

def withExtents (t : Tier) (xs : List (Nat × Nat)) : Tier := { t with extents := xs, cap := capOf xs }

/-- Extents overlap. -/
def extentMeets (a b : Nat × Nat) : Bool := decide (a.1 < b.1 + b.2) && decide (b.1 < a.1 + a.2)

/-- R30: an add event is accepted: its extent, of whole GiB at a GiB offset (log entry 92), is mapped into the port window. -/
def execCxlExtentAdd (s : State) : Outcome :=
  .next (
    let p := s.arg.port.toNat
    let t := getTier s p
    let x := (s.arg.off, s.arg.len)
    if p ≥ 8 ∨ t.mode ≠ 2 ∨ s.arg.len = 0 ∨ s.arg.off + s.arg.len > 2 ^ 14 ∨ t.extents.any (extentMeets x) then s
    else setTier s p (withExtents t (t.extents ++ [x])))

/-- R30: a release request is granted only for an extent that backs no mapped page. -/
def execCxlExtentRelease (s : State) : Outcome :=
  .next (
    let p := s.arg.port.toNat
    let t := getTier s p
    let x := (s.arg.off, s.arg.len)
    let base := (0x10 + p) * 2 ^ 44
    let free := (mappedIn s (base + x.1 * 2 ^ 30) (base + (x.1 + x.2) * 2 ^ 30)).isEmpty
    if t.mode = 2 ∧ t.extents.contains x ∧ free then
      let s1 := setTier s p (withExtents t (t.extents.filter fun y => y != x))
      { s1 with outs := .cxlAnswer p true :: s1.outs }
    else { s with outs := .cxlAnswer p false :: s.outs })

/-- R30: a link drops: every page on the port becomes poisoned. -/
def execCxlLinkLoss (s : State) : Outcome :=
  .next (
    let p := s.arg.port.toNat
    let t := getTier s p
    if t.mode ≠ 2 then s
    else
      let s := setTier s p { t with link := false }
      let base := (0x10 + p) * 2 ^ 44
      (mappedIn s base (base + 2 ^ 44)).foldl (fun s x => poisonAt s (ctxAsid s x.1) x.2.va) s)

/-- R28: a port trains. -/
def execCxlLinkUp (s : State) : Outcome :=
  .next (
    let p := s.arg.port.toNat
    let t := getTier s p
    if t.mode ≠ 2 then s else setTier s p { t with link := true })

end Sys2Proof.Machine
end

