-- ==== Sys2Proof/Machine/Coherence.lean ====
section
/-! DEFINITION. Steps of caches, directory, notification network and codec units (02 R32 to R50). Accesses perform their
coherence steps themselves (Access.lean); the steps here move or drop copies without an access, as fills, recalls,
evictions and write-backs do (log entry 16). Where one stands for another agent's access, that access stands in `arg`. -/

namespace Sys2Proof.Machine

/-! ### Write-combining (R32) -/

/-- R32: an entry of the cluster's buffer drains 256 clocks after its last store. -/
def execWriteCombiningDrainTimeout (s : State) : Outcome :=
  .next (
    let a := s.arg
    wcDrain s fun e => e.at a.cluster a.asid a.va.toNat && decide (e.lastStore + 256 ≤ clk s (dieOfCluster e.cluster)))

/-! ### Copies (R34, R39) -/

/-- The home agent of an L2 half snoops for another die's request: the copies of its die and those beyond give way. -/
def homeObtains (s : State) (t : TInfo) (own : Bool) (asid : Half) (va : Nat) : State :=
  let grain := leafGrain t.leaf
  let gva := va / grain * grain
  let s1 := if own then recallOthers (snoop s none (t.home va)) none asid gva grain
    else downgradeOthers (snoop s none (t.home va)) none asid gva grain
  (homeGrain s1 (l2Of (t.home va)) t asid va).1

/-- A holder above the home takes a copy: exclusive, or shared with every sector filled. -/
def holderObtains (s : State) (h : Holder) (t : TInfo) (own : Bool) (asid : Half) (va : Nat) : State :=
  if own then
    let r := takeOwnership s h t asid va
    putCopy r.1 r.2
  else if (findGrain s h asid va).isSome then s
  else
    let grain := leafGrain t.leaf
    let r := homeGrain (downgradeOthers (snoop s (some h) (t.home va)) (some h) asid (va / grain * grain) grain) h t asid va
    putCopy r.1 r.2

/-- A holder may have a copy of a line of this home: an L2 half of its own lines, an RDC of lines homed elsewhere. -/
def mayHold (h : Holder) (home : Nat) : Bool :=
  match h with
  | .l2 _ _ => l2Of home == h
  | .rdc d => d.toNat != home / 2
  | _ => true

/-- A holder obtains a copy of a grain of normal memory. Alias pages are never owned above their home (R49). -/
def obtain (s : State) (h : Holder) (own : Bool) (asid : Half) (va : Nat) : State :=
  match holderDie h, slotOfAsid s asid with
  | some die, some slot =>
    (match request s die slot asid va (if own then accStore else accLoad) true with
     | (s1, .ok t) =>
       let grain := leafGrain t.leaf
       let gva := va / grain * grain
       if t.normal = false ∨ (own && leafMxa t.leaf) ∨ mayHold h (t.home va) = false ∨ engineOwns s none asid gva grain grain
           ∨ aliasWaits s t va then s
       else if hostBlocks s own asid gva grain then askHost s asid gva
       else if h == l2Of (t.home va) then homeObtains s1 t own asid va
       else holderObtains s1 h t own asid va
     | (_, _) => s)
  | _, _ => s

/-- R34: a read miss fills every sector of the grain. -/
def execReadMissFill (s : State) : Outcome := .next (obtain s s.arg.holder false s.arg.asid s.arg.va.toNat)

/-- R34: a store obtains ownership of a grain. -/
def execOwnershipGrant (s : State) : Outcome := .next (obtain s s.arg.holder true s.arg.asid s.arg.va.toNat)

/-- R34: a cache entry sends its dirty sectors on; a counted grain leaves only as 08 R199 says (10 R236). -/
def execWriteBack (s : State) : Outcome :=
  .next (match findGrain s s.arg.holder s.arg.asid s.arg.va.toNat with
  | none => s
  | some g =>
    if g.st != .modified ∨ g.cnt != .plain ∨ g.holder == .host then s
    else seatGrain (flushGrain s g) { g with st := .exclusive, dirty := 0 })

/-! ### The notification network (R39) -/

/-- R39: an agent that lacks a grain in a sufficient state posts an announcement. -/
def execSnoopRequest (s : State) : Outcome :=
  .next (
    let a := s.arg
    let enough : Bool := match findGrain s a.holder a.asid a.va.toNat with
      | some g => g.cnt != .drained && (g.owned || !a.own)
      | none => false
    match holderDie a.holder with
    | some d => if enough then s else { s with announces := s.announces ++ [{ die := d, requester := a.holder, own := a.own, asid := a.asid, va := a.va }] }
    | none => s)

/-- An announcement is this one and waits. -/
def announceIs (a : EvArg) (x : Announce) : Bool :=
  x.acceptedAt.isNone && x.requester == a.holder && x.own == a.own && x.asid == a.asid && x.va == a.va

/-- Accept the first waiting announcement that a test selects. -/
def acceptFirst (p : Announce → Bool) (now : Nat) : List Announce → List Announce
  | [] => []
  | x :: xs => if p x then { x with acceptedAt := some now } :: xs else x :: acceptFirst p now xs

/-- R39: at most 16 announcements of a die are accepted in one clock. -/
def execAnnouncementAccept (s : State) : Outcome :=
  .next (match holderDie s.arg.holder with
  | none => s
  | some d =>
    let used := (s.announces.filter fun x => x.die == d && x.acceptedAt == some (clk s d)).length
    if used ≥ 16 then s else { s with announces := acceptFirst (announceIs s.arg) (clk s d) s.announces })

/-- Place of an accepted announcement in its die's order. -/
def announceKey (x : Announce) : Nat := 256 * x.acceptedAt.getD 0 + agentNo x.requester

/-- Announcements of a die that are due: accepted 24 clocks ago. -/
def dueAnnounces (s : State) (d : Nat) : List Announce :=
  s.announces.filter fun x => x.die == d && (match x.acceptedAt with | some t => decide (t + 24 ≤ clk s d) | none => false)

/-- R39: 24 clocks after acceptance the agents of a die apply the snoop that is first in order. Nothing else happens
before a due one (`dueEvent`). -/
def execAnnouncementDelivery (s : State) : Outcome :=
  .next (
    let d := s.arg.die.toNat
    match dueAnnounces s d with
    | [] => s
    | x :: xs =>
      let first := xs.foldl (fun a b => if announceKey b < announceKey a then b else a) x
      obtain { s with announces := s.announces.erase first } first.requester first.own first.asid first.va.toNat)

/-! ### Directory and remote-data cache (R36, R40) -/

/-- Recall the copies of the grain of an address but one holder's, and the RDC's behind it; the host is asked for its own
(R36, R40). -/
def recallAt (s : State) (but : Option Holder) (asid : Half) (va : Nat) : State :=
  let hit (g : Grain) : Bool := g.covers asid va && g.snooped but
  let s1 := recallWhere s false fun g => hit g && g.holder != .host
  askHosts s1 hit

/-- R40: before a holder is granted exclusive access, every other copy is recalled. -/
def execDirectoryRecall (s : State) : Outcome := .next (recallAt s (some s.arg.holder) s.arg.asid s.arg.va.toNat)

/-- R40: an evicted directory entry's copies are recalled. -/
def execDirectoryEviction (s : State) : Outcome := .next (recallAt s none s.arg.asid s.arg.va.toNat)

/-- R36: an evicted entry of a die's remote-data cache takes the L1 copies of its lines, homed elsewhere, with it. -/
def execRdcEviction (s : State) : Outcome :=
  .next (
    let d := s.arg.die.toNat
    dropRdc s (rdcOf d) (s.arg.asid, s.arg.va.toNat / 512))

/-! ### Codec units (R43 to R50) -/

/-- R43: a unit takes a waiting request into its queue of 64. -/
def execCodecRequestAccept (s : State) : Outcome :=
  .next (
    let die := s.arg.die.toNat
    let d := getDie s die
    let u := s.arg.unit.toNat
    let q := d.codecQ.getD u []
    if q.length ≥ 64 then s else setDie s die { d with codecQ := setAt d.codecQ u (q ++ [s.arg.id]) })

/-- The unit of the step has its request in its queue. -/
def codecHas (s : State) : Bool := ((getDie s s.arg.die.toNat).codecQ.getD s.arg.unit.toNat []).contains s.arg.id

/-- A request is served and leaves its unit's queue. -/
def codecServed (s : State) : State :=
  let die := s.arg.die.toNat
  let d := getDie s die
  let u := s.arg.unit.toNat
  setDie s die { d with codecQ := setAt d.codecQ u ((d.codecQ.getD u []).erase s.arg.id) }

/-- Compressed length of a page in sixteen chunks. -/
def packedSize (bs : List Byte) : Nat :=
  ((List.range 16).map fun i => Config.compressedSize ((bs.drop (4096 * i)).take 4096)).foldl (· + ·) 0

/-- A codec unit stores the bytes of a page, and answers whether they are compressed (R44 to R46). -/
def pageStored (s : State) (a : EvArg) (bs : List Byte) : State :=
  let small := decide (packedSize bs ≤ 49152)
  let s1 := { s with mem := memWriteN s.mem (a.val.toNat / 65536 * 65536) bs }
  let s2 := codecServed (if a.ok then s1 else codecBump s1 a.die.toNat a.unit (if small then 0 else 1) 1)
  { s2 with outs := .pageStored a.die.toNat a.unit (if a.ok then 0 else if small then 1 else 2) :: s2.outs }

/-- The frame's lines in L2 reach memory, where the unit reads the page. -/
def frameHome (s : State) (frame : Nat) : State :=
  (s.grains.filter fun g => g.isL2 && g.st == .modified && g.pa.any fun a => a / 65536 == frame / 65536).foldl
    (fun s g => seatGrain (flushL2 s g) { g with st := .exclusive, dirty := 0 }) s

/-- R44: the page of the frame at `va` is stored in the frame at `val`: compressed, raw as incompressible, or, with `ok`,
raw as persistent. The stored layout is internal; the model keeps the page's bytes (log entry 15). -/
def execPageCompression (s : State) : Outcome :=
  .next (
    let frame := s.arg.va.toNat / 65536 * 65536
    if codecHas s then (let s1 := frameHome s frame; pageStored s1 s.arg (memReadN s1.mem frame 65536)) else s)

/-- R44, R45: a read of a compressed page decompresses a chunk. Its bytes are those of the page; a CRC mismatch, `ok`
clear, is counted and poisons the page. -/
def execCompressedPageRead (s : State) : Outcome :=
  .next (match slotOfAsid s s.arg.asid with
  | none => s
  | some slot =>
    match ptWalk s slot s.arg.va.toNat with
    | .leaf _ _ w =>
      if leafV w = false ∨ leafCmp w ≠ 1 ∨ codecHas s = false then s
      else
        let s1 := codecServed s
        if s.arg.ok then s1
        else poisonAt (codecBump s1 s.arg.die.toNat s.arg.unit 2 1) s.arg.asid s.arg.va.toNat
    | _ => s)

/-- The leaf of an address is an alias page. -/
def aliasPage (s : State) (asid : Half) (va : Nat) : Bool :=
  match slotOfAsid s asid with
  | some slot =>
    (match peekLeaf s { die := 0, cluster := 0, slot := slot, asid := asid, agent := .none, l1 := false } va with
     | some w => leafMxa w
     | none => false)
  | none => false

/-- R48: a read of an alias page: the holder's copy takes the decoded values. -/
def execMxAliasRead (s : State) : Outcome :=
  .next (
    if aliasPage s s.arg.asid s.arg.va.toNat && codecHas s then obtain (codecServed s) s.arg.holder false s.arg.asid s.arg.va.toNat else s)

/-- R49: a write to an alias page: the home encodes each touched block again. -/
def execMxAliasWrite (s : State) : Outcome :=
  .next (
    let a := s.arg
    match slotOfAsid s a.asid with
    | none => s
    | some slot =>
      if aliasPage s a.asid a.va.toNat = false ∨ codecHas s = false then s
      else
        let r : Rq := { die := a.die.toNat, cluster := 0, slot := slot, asid := a.asid, agent := .none, l1 := false }
        match storeRange (codecServed s) r a.va.toNat a.data with
        | (s1, .done) => s1
        | (s1, .held) => keepSaid s s1
        | _ => s)

end Sys2Proof.Machine
end

