-- ==== Sys2Proof/Machine/Handlers.lean ====
section
/-! DEFINITION. Handlers: `tret` (13 R296, R300, R301), entry of squads that wait (13 R294), delivery of deferred traps
(13 R297), and the ends of waits: results that land, naps, persistence fences. -/

namespace Sys2Proof.Machine

/-! ### The end of a handler -/

/-- A squad whose trap has arrived and has not entered: it waits with it, or the trap is still to be delivered. -/
def trapped (s : State) (k : Nat) : Bool :=
  match mget s.squads k with
  | some q => (q.cur.isSome && q.wait == .handler) || !q.traps.isEmpty
  | none => false

/-- The squad whose trap arrived first enters the team's handler; a deferred trap of a squad that holds a slot is delivered
at its boundary first (R294, R297). Without a handler the trap ends the team (R295). -/
def admitNext (s : State) (team : Nat) : State :=
  let t := teamOf s team
  if t.hsq.isSome then s
  else
    match t.hwait.find? fun w => trapped s w.1 with
    | none => s
    | some (k, _) =>
      match mget s.squads k with
      | none => s
      | some q =>
        match q.cur with
        | some tr => if hasHandler s team then enterHandler s k else trapEnd s team tr.code
        | none => if q.held.isSome then s else deliverTrap s k

/-- The trap that a squad handles came at a volley header. -/
def atHeader (q : Squad) : Bool :=
  match q.saved with
  | some v => !v.inVolley || v.hpos == q.tpc
  | none => true

/-- The squad stands at an instruction of the volley that it left, or at a header. `off` is the position. -/
def backTo (off : Word) (q : Squad) : Squad :=
  match q.saved with
  | none => { q with pos := off, inVolley := false }
  | some v =>
    let k := (off - v.hpos).toNat / 12
    let q := setHeader v.hdr v.hpos q
    { q with pos := off, inVolley := v.inVolley && decide (1 ≤ k) && decide (k ≤ hdrN v.hdr) }

/-- The squad leaves its handler: masks, registers and the slot (R296). -/
def leaveHandler (s : State) (id team : Nat) (f : Squad → Squad) : State :=
  let s := modTeam s team fun t => { t with hsq := none }
  modSquad s id fun q =>
    f { q with
      em := q.tem &&& q.pm, tcause := q.tcause &&& ~~~0x200, inVolley := false, held := none, granted := none,
      arrived := false, code := [], wait := .none }

/-- What the wait under way at the trap had performed is kept for its instruction. -/
def keepWait (q : Squad) : Squad :=
  match q.saved with
  | some v => { q with granted := v.granted, arrived := v.arrived }
  | none => q

def endTrap (q : Squad) : Squad := { q with saved := none, cur := none }

/-- Lanes of a log entry that a trap's lanes name. -/
def entryLanes (e : LogEntry) (m : Word) : List Nat := (e.parked.map (·.1)).filter (inMask m)

/-- What `retry` reissues: parked lanes, a matrix operation, a copy (R300, R301). -/
def reissue (s : State) (id : Nat) (q : Squad) : State :=
  match q.cur with
  | none => s
  | some tr =>
    match tr.retry with
    | .none => s
    | .access log =>
      (match q.log.find? fun e => e.id == log with
       | none => s
       | some e =>
         (entryLanes e tr.tlm).foldl (fun s l =>
           match (mget s.squads id).bind fun q => q.log.find? fun e => e.id == log with
           | some e => redoLane s id (rqSquad s id q) e l
           | none => s) s)
    | .matrix m => mopRepost s m
    | .copy c => copyReissue s c

/-- Result words of lanes whose access is abandoned: loads give 0; the old value that an atomic or a reduction would
return has no value in the spec (R300; log entry 13). -/
def skippedWords (s : State) (i : Instr) (l : Nat) : List Word :=
  match i with
  | .atom _ | .cas _ | .cas2 _ | .cred _ =>
    (List.range 4).map fun k => (Config.free64 s.freeNo (4 * l + k)).setWidth 32
  | i => resultWords i (zeros 64)

/-- What `skip` abandons. -/
def abandon (s : State) (id : Nat) (q : Squad) : State :=
  match q.cur with
  | none => s
  | some tr =>
    match tr.retry with
    | .access log =>
      (match q.log.find? fun e => e.id == log with
       | none => s
       | some e =>
         let ls := entryLanes e tr.tlm
         let give (p : POp) : POp := ls.foldl (fun p l => putResult e.instr p l (skippedWords s e.instr l)) p
         let s := { s with pops := mmod s.pops e.pop give }
         closeEntry (modEntry s id log fun e => { e with parked := e.parked.filter fun p => !ls.contains p.1 }) id log)
    | _ => s

/-- The operation that a retry would post has no room yet: its flag stands at 63, or the engine's table or queue is full. -/
def retryFull (s : State) (q : Squad) : Bool :=
  let full (f : Option Nat) : Bool := match f with | some f => flagCount q f == 63 | none => false
  match q.cur.map Trap.retry with
  | some (.matrix m) => full m.flag || decide ((engineOps s (clusterOf q.core)).length ≥ 64)
  | some (.copy c) => full c.flag || decide (queuedCopies s (clusterOf q.core) ≥ 128)
  | _ => false

/-- The end of a handler. -/
def tret (i : Instr) (o : LaneOp) (skip : Bool) (s : State) : Outcome :=
  laneEnter i o {} s fun x =>
    let q := x.q
    let deferred := bitOf q.tcause.toNat 8
    if inHandler q = false then x.illop s
    else if deferred = false ∧ skip ∧ atHeader q then x.illop s
    else if deferred ∧ skip = false ∧ retryFull s q then setWait s x.id .hold
    else
      let s :=
        if deferred then
          let s := leaveHandler s x.id q.team fun q => keepWait (backTo q.resume q)
          if skip then abandon s x.id q else reissue s x.id q
        else if skip then leaveHandler s x.id q.team fun q => backTo (q.tpc + 12) q
        else leaveHandler s x.id q.team fun q => keepWait (backTo q.tpc q)
      admitNext (modSquad s x.id endTrap) q.team

/-- R296: end the handler and retry the instruction or the operation. -/
def execTretRetry (o : LaneOp) (s : State) : Outcome := tret (.tretRetry o) o false s

/-- R296: end the handler and skip the instruction or abandon the operation. -/
def execTretSkip (o : LaneOp) (s : State) : Outcome := tret (.tretSkip o) o true s

/-! ### Steps of the device -/

/-- R292, R294: a squad that waits for its team's handler enters once no other squad is in it. -/
def execTrapEntry (s : State) : Outcome :=
  .next (match s.arg.agent with
  | .squad id =>
    (match mget s.squads id with
     | some q => if q.wait = .handler ∧ (teamOf s q.team).runs then admitNext s q.team else s
     | none => s)
  | _ => s)

/-- R297: the held trap of the lowest code is delivered at an instruction boundary. -/
def execDeferredTrapDelivery (s : State) : Outcome :=
  .next (match s.arg.agent with
  | .squad id =>
    (match mget s.squads id with
     | some q => if (teamOf s q.team).runs then deliverTrap s id else s
     | none => s)
  | _ => s)

/-- R174, R166: a result that is there lands, and its flag falls. -/
def execResultLanding (s : State) : Outcome :=
  .next (match mget s.pops s.arg.id with
  | some p => if p.ready then landPop s s.arg.id else s
  | none => s)

/-- The time limit of a wait has passed. -/
def napOver (s : State) (w : Wait) : Bool :=
  match w with
  | .nap (some t) => decide (t ≤ s.timeNs.toNat)
  | _ => false

/-- R426, R365: the time limit of a nap elapses. -/
def execNapTimeout (s : State) : Outcome :=
  .next (match s.arg.agent with
  | .squad id => (match mget s.squads id with | some q => if napOver s q.wait then wakeSquad s id else s | none => s)
  | .spine t => (match mget s.spines t with | some sp => if napOver s sp.wait then wakeSpine s t else s | none => s)
  | .none => s)

/-- R52: every persistence acknowledgement of an agent's fence has arrived. -/
def execPfenceComplete (s : State) : Outcome :=
  .next (
    if s.pfences.contains s.arg.agent then persist { s with pfences := s.pfences.filter fun a => a != s.arg.agent }
    else s)

end Sys2Proof.Machine
end

