-- ==== Sys2Proof/Machine/Host.lean ====
section
/-! DEFINITION. The host and peers: accesses through host windows (04 R86 to R91, R96), the host as a caching agent (R90,
R92), answers to requests sent to the host and to peers (R93, R94, R103), requests of peers (R101), links (R96, R99,
R103). A request from outside that must wait at its home has not arrived yet: it is presented again (log entry 49). -/

namespace Sys2Proof.Machine

/-! ### Windows (R86, R87) -/

/-- A request from outside in a context. -/
def rqOutside (slot : Nat) (asid : Half) : Rq :=
  { die := 0, cluster := 0, slot := slot, asid := asid, agent := .none, l1 := false, outside := true }

/-- The lowest-numbered window that an offset falls into, for a function or, over KL, any: its context and address. -/
def windowOf (ws : FMap Window) (fn : Option (BitVec 6)) (o : Nat) : Option (Half × Nat) :=
  (ws.find? fun w =>
    w.2.len != 0 && decide (w.2.off.toNat ≤ o) && decide (o < w.2.off.toNat + w.2.len.toNat)
    && (fn == none || fn == some w.2.fn)).map fun w => (w.2.asid, w.2.va.toNat + (o - w.2.off.toNat))

/-- Size of the BAR2 of a function: the PF's can be set, a VF's is 1 GB (R81, R82). -/
def bar2Size (s : State) (fn : BitVec 6) : Nat := if fn = 0 then 2 ^ s.io.bar2 else 2 ^ 30

/-- Where an access goes: the request and its address. -/
def routeOutside (s : State) (kl : Bool) : Option (Rq × Nat) :=
  if !kl && decide (bar2Size s s.arg.fn ≤ s.arg.off) then none
  else match windowOf (if kl then s.io.klWin else s.io.pcieWin) (if kl then none else some s.arg.fn) s.arg.off with
  | none => none
  | some (asid, va) => (slotOfAsid s asid).map fun slot => (rqOutside slot asid, va)

def say (s : State) (o : Out) : State := { s with outs := o :: s.outs }

/-- A write from outside that fails is not performed; its requests, up to the one that failed, have been counted at their
homes all the same (03 R78). -/
def countTried (s : State) (r : Rq) (va n : Nat) : State :=
  ((pieces va n (n / 32 + 2)).foldl (fun (x : State × Bool) p =>
    if x.2 then x
    else match requestFor x.1 r p.1 accStore true with
      | (s, .ok _) => (s, false)
      | (s, _) => (s, true)) (s, false)).1

/-! ### PCIe (R87, R88, R102) -/

/-- R87: a read of the host over PCIe. -/
def execPcieHostRead (s : State) : Outcome :=
  .next (match routeOutside s false with
  | none => say s (.abort s.arg.tag)
  | some (r, va) =>
    match loadRange s r accLoad va s.arg.len with
    | (s1, .done, bs) => say s1 (.host s.arg.tag true bs)
    | (s1, .held, _) => keepSaid s s1
    | (s1, _, _) => say s1 (.abort s.arg.tag))

/-- A PCIe write that fails is dropped and logged. -/
def dropWrite (s : State) : State := { s with io := { s.io with aer := s.io.aer + 1 } }

/-- R87: a write of the host over PCIe. -/
def execPcieHostWrite (s : State) : Outcome :=
  .next (match routeOutside s false with
  | none => dropWrite s
  | some (r, va) =>
    match storeRange s r va s.arg.data with
    | (s1, .done) => s1
    | (s1, .held) => keepSaid s s1
    | _ => dropWrite (countTried s r va s.arg.data.length))

/-- R88. -/
def execPcieAtomicop (s : State) : Outcome := .next (say s (.unsupported s.arg.tag))

/-! ### Knamar Link (R90, R91, R96) -/

/-- A grant of a grain of normal memory to the host: exclusive, or shared. A write to an alias page stays at the home
(02 R49). -/
def grantHost (s : State) (r : Rq) (t : TInfo) (va : Nat) (own : Bool) (tag : Nat) : State :=
  let grain := leafGrain t.leaf
  let gva := va / grain * grain
  let excl := own && !leafMxa t.leaf
  let s := snoop s none (t.home va)
  let s := if excl then recallOthers s (some .host) r.asid gva grain else downgradeOthers s (some .host) r.asid gva grain
  let (s, g) := homeGrain s .host t r.asid va
  say (putGrain s { g with st := if excl then .exclusive else .shared })
    (.klGrant tag r.asid (BitVec.ofNat 64 gva) grain (leafMT t.leaf) (leafRD t.leaf) (leafWR t.leaf) (leafAT t.leaf) excl g.data)

/-- R90: a request of the host for a grain of device memory. -/
def execKlHostRead (s : State) : Outcome :=
  .next (match routeOutside s true with
  | none => say s (.host s.arg.tag false [])
  | some (r, va) =>
    match requestFor s r va (if s.arg.own then accStore else accLoad) true with
    | (s1, .ok t) =>
      let grain := leafGrain t.leaf
      let gva := va / grain * grain
      if engineOwns s none r.asid gva grain grain || aliasWaits s t va then s
      else if t.normal then grantHost s1 r t va s.arg.own s.arg.tag
      else say s1 (.host s.arg.tag true (homeBytes s1 t r.asid va s.arg.len))
    | (_, .held) => s
    | (s1, _) => say s1 (.host s.arg.tag false []))

/-- R96: the next numbered write of the host; failed or not, it has its place in the sequence. -/
def execKlHostWrite (s : State) : Outcome :=
  .next (
    let next (s : State) : State := { s with io := { s.io with klSeq := s.io.klSeq + 1 } }
    match routeOutside s true with
    | none => next (say s (.host s.arg.tag false []))
    | some (r, va) =>
      match storeRange s r va s.arg.data with
      | (s1, .done) => next (say s1 (.host s.arg.tag true []))
      | (s1, .held) => keepSaid s s1
      | _ => next (say (countTried s r va s.arg.data.length) (.host s.arg.tag false [])))

/-- New bytes under a host atomic. -/
def hostAtom (op : HostAtomOp) (n x e : Nat) (old : List Byte) : List Byte :=
  match op with
  | .add => bytesOf n (fieldOf old 0 n + x)
  | .swap => bytesOf n x
  | .cas => if fieldOf old 0 n = e % 2 ^ (8 * n) then bytesOf n x else old
  | .other => old

/-- R91: an atomic of the host. -/
def execKlHostAtomic (s : State) : Outcome :=
  .next (
    let a := s.arg
    let n := a.len
    let listed := a.hostOp != .other && (n == 4 || n == 8 || (n == 16 && a.hostOp == .cas))
    match routeOutside s true with
    | none => say s (.host a.tag false [])
    | some (r, va) =>
      if listed = false ∨ va % n ≠ 0 then say s (.host a.tag false [])
      else match atomPiece s r true va n (hostAtom a.hostOp n a.operand.toNat a.expected.toNat) with
      | (s1, .done, old) => say s1 (.host a.tag true old)
      | (s1, .held, _) => keepSaid s s1
      | (s1, _, _) => say s1 (.host a.tag false []))

/-- R90: the host answers a recall: its data, if dirty, reaches the home; `ok` says that it keeps a shared copy. -/
def execHostRecallResponse (s : State) : Outcome :=
  .next (
  let s := { s with asked := s.asked.filter fun k => k != (s.arg.asid, s.arg.va) }
  match findGrain s .host s.arg.asid s.arg.va.toNat with
  | none => s
  | some g =>
    let s1 := if g.owned && !s.arg.data.isEmpty then
        writeHome s { g with st := .modified, dirty := sectorMask 0 g.size, data := putBytes g.data 0 (s.arg.data.take g.size) }
      else s
    let rest := s1.grains.filter fun x => !(x.holder == .host && x.asid == g.asid && x.va == g.va)
    let kept : Grain := { g with st := .shared, data := putBytes g.data 0 (s.arg.data.take g.size) }
    { s1 with grains := if s.arg.ok then kept :: rest else rest })

/-- R92: a snoop of the host for a line that it homes, in every context of the PASID `val`: an L1 gives what it has modified to
the RDC behind it, and each line that is modified goes to the host once. -/
def execHostSnoop (s : State) : Outcome :=
  .next (
    let mine (a : Half) : Bool := match slotOfAsid s a with
      | some k => ccb s k 0x18 8 % 2 ^ 20 == s.arg.val.toNat % 2 ^ 20
      | none => false
    let hit (g : Grain) : Bool := g.pa.isNone && mine g.asid && g.covers g.asid s.arg.va.toNat
    let up (g : Grain) : Bool := hit g && g.st == .modified && ((rdcBehind (some g.holder)).bind fun h => findGrain s h g.asid g.va.toNat).isSome
    let s1 := (s.grains.filter up).foldl flushGrain s
    let s2 := (s1.grains.filter fun g => hit g && g.st == .modified && !up g).foldl (fun s g => say s (.klSnooped g.asid g.va g.data)) s1
    if s.arg.own then { s2 with grains := s2.grains.filter fun g => !hit g }
    else { s2 with grains := s2.grains.map fun g => if hit g then { g with st := .shared, dirty := 0 } else g })

/-! ### Answers to requests sent away (R94, R103) -/

/-- The fault kinds that are ever reported (03 R73). -/
def listedKinds : List Nat := [1, 2, 3, 4, 5, 6, 7, 8, 9, 0x0A, 0x10, 0x11, 0x12]

/-- A request to a host or peer home fails. Which fault kind its report shows, the spec does not say (log entry 13). -/
def remoteFails (s : State) (r : Req) : State :=
  reqFails s.draw r (listedKinds.getD ((Config.free64 s.freeNo 0).toNat % 13) 2)

def awayReq (s : State) (id : Nat) : Option Req := s.reqs.find? fun r => r.id == id && r.st == .remote

/-- A home over KL or PCIe. -/
def hostHome (r : Req) : Bool := hmeHome r.hme == 8 || hmeHome r.hme == 9

/-- Send a request again under its number, once its link has room. -/
def resend (s : State) (r : Req) : State := sendQueued (modReq s r.id fun r => { r with st := .queued, refused := true }) r

/-- R94: the host refuses the translation: a page request is sent, or, the second time, the access fails. -/
def execHostRefusedTranslation (s : State) : Outcome :=
  .next (match awayReq s s.arg.id with
  | none => s
  | some r =>
    if hostHome r = false then s
    else if r.refused then remoteFails s r
    else say (modReq s r.id fun r => { r with st := .pri }) (.pageReq r.id))

/-- R94: on success the access is made once more, from the home lookup. -/
def execPageRequestResponse (s : State) : Outcome :=
  .next (match s.reqs.find? fun r => r.id == s.arg.id && r.st == .pri with
  | none => s
  | some r =>
    if s.arg.ok = false then remoteFails s r
    else match homeLookup s r.die r.slot r.asid r.va.toNat with
    | (s1, .hme w) =>
      if hmeBad w = false ∧ (hmeHome w = 8 ∨ hmeHome w = 9) then
        resend (modReq s1 r.id fun r => { r with hme := w, own := Req.owns { r with hme := w } }) { r with hme := w }
      else reqReplay s r
    | _ => reqReplay s r)

/-- R93: an invalidation drops its translations, of a PASID, and completes after the requests that used them, of whichever
context. -/
def execAtsInvalidation (s : State) : Outcome :=
  .next (
    let lo := s.arg.va.toNat
    let uses (r : Req) : Bool :=
      r.st == .remote && hmeHome r.hme == 9 && pasidOf s r.asid == pasidOf s s.arg.asid && decide (lo < r.va.toNat + Nat.max 1 r.span)
        && decide (r.va.toNat < lo + s.arg.len)
    let gone (p : Nat × Nat) : Bool :=
      p.1 == pasidOf s s.arg.asid && decide (lo < 4096 * (p.2 + 1)) && decide (4096 * p.2 < lo + s.arg.len)
    let s := { s with io := { s.io with atc := s.io.atc.filter fun p => !gone p } }
    if s.reqs.any uses then s else say s (.atsDone s.arg.asid s.arg.va))

def Req.len (r : Req) : Nat :=
  match r.kind with
  | .ifetch => (match r.who with | .spine _ => 4 | _ => 12)
  | _ => r.span

/-- The cache that a requester fills: its cluster's L1, or the RDC that a prefetch names. -/
def reqHolder (s : State) (r : Req) : Option Holder :=
  match r.who with
  | .squad id _ => (mget s.squads id).map fun q => .l1 (clusterOf q.core)
  | .spine t => (mget s.spines t).map fun sp => .l1 sp.cluster
  | .prefetch cl => some (.l1 cl)
  | .prefetchRdc die => some (rdcOf die)
  | _ => none

/-- A line homed on the host enters an L1 and the RDC behind it, or an RDC alone, shared or exclusive (R92). What another cache
of the device has modified of it stands over what the host sent. -/
def hostFill (s : State) (h : Holder) (asid : Half) (gva : Nat) (own : Bool) (bs : List Byte) : State :=
  let hit (g : Grain) : Bool := g.hostLine asid gva 128
  let newer (p : Grain → Bool) (d : List Byte) : List Byte :=
    (s.grains.filter fun g => hit g && p g && g.st == .modified).foldl (fun d g => putSectors d g.data g.dirty 0 4) d
  let data := newer (fun g => !g.isRdc) (newer Grain.isRdc bs)
  let s := if own then recallWhere s false hit else downgradePass (downgradePass s fun g => hit g && !g.isRdc) hit
  putCopy s { holder := h, asid := asid, va := BitVec.ofNat 64 gva, size := 128, st := if own then .exclusive else .shared,
              data := data, dirty := 0, home := 16 }

/-- Whole 128-byte lines of an answer of home code 8 enter the requester's cache (R92), unless an engine or the device is
writing the line (10 R226). A fetch keeps no copy. -/
def keepLines (s : State) (h : Holder) (asid : Half) (base : Nat) (bs : List Byte) : State :=
  (List.range (bs.length / 128)).foldl (fun s i =>
    if farWrite s asid (base + 128 * i) 128 fun _ => true then s
    else hostFill s h asid (base + 128 * i) false ((bs.drop (128 * i)).take 128)) s

/-- A store goes into the line of which the host has granted exclusive access (02 R34). -/
def storeLine (s : State) (cl : Nat) (asid : Half) (va : Nat) (bs data : List Byte) : State :=
  let gva := va / 128 * 128
  let s := hostFill s (.l1 cl) asid gva true (data.take 128 ++ zeros (128 - data.length))
  match findGrain s (.l1 cl) asid va with
  | some g => seatGrain s (g.write va bs)
  | none => s

/-- The bytes of an answer, under those that the requester's own merged stores hold. From home code 8 a read brings whole
lines. -/
def answerBytes (r : Req) (data : List Byte) : List Byte :=
  let bs := if hmeHome r.hme = 8 ∧ r.isWrite = false then data.drop (r.va.toNat % 128) else data
  r.newer.foldl (fun bs p => bs.set p.1 p.2) (bs.take r.len ++ zeros (r.len - bs.length))

/-- What an answer leaves in caches: a line read, or a line owned with the store in it; of another line written, no copy. -/
def answerCaches (s : State) (r : Req) (data : List Byte) : State :=
  if hmeHome r.hme ≠ 8 then s
  else match reqHolder s r, r.kind with
    | some h, .read _ => keepLines s h r.asid (r.va.toNat / 128 * 128) data
    | some (.l1 cl), .write bs => if r.own then storeLine s cl r.asid r.va.toNat bs data else dropHostLines s r
    | _, _ => dropHostLines s r

/-- The memory type that a peer has returned for a page is kept (R101). -/
def keepPeerMt (s : State) (r : Req) (mt : Nat) : State :=
  if hmeHome r.hme ≠ 10 then s
  else
    let page := r.va.toNat / 65536
    { s with io := { s.io with
        peerMt := (r.asid, page, mt) :: s.io.peerMt.filter fun x => !(x.1 == r.asid && x.2.1 == page) } }

/-- `IOD0` keeps the translation of a request over PCIe, among 8,192 (R93). -/
def keepAtc (s : State) (r : Req) : State :=
  if hmeHome r.hme ≠ 9 ∨ s.io.atc.contains (atcPage s r) then s
  else { s with io := { s.io with atc := atcPage s r :: evictOne s 8192 s.io.atc } }

/-- A good answer goes to its requester. -/
def answered (s : State) (r : Req) (bs : List Byte) : State :=
  let s1 := dropReq s r.id
  match r.who with
  | .squad id 0 =>
    (match mget s.squads id with
     | some q =>
       let off := r.va.toNat - cbOf s q.team
       modSquad s1 id fun q => { q with code := mset q.code off bs, wait := if q.wait = .fault then .none else q.wait }
     | none => s1)
  | .squad id log =>
    (match mget s.squads id with
     | some q => (match q.log.find? fun e => e.id == log with
       | some e => laneDone s1 id (rqSquad s id q) e r.lane bs
       | none => s1)
     | none => s1)
  | .spine t =>
    modSpine s1 t fun sp => match r.kind with
      | .ifetch => { sp with code := some bs, wait := .none, log := none }
      | .write _ => { sp with resp := some [], wait := .none, log := none }
      | _ => { sp with resp := some bs, wait := .none, log := none }
  | .matrix m => mopAnswer s1 m (r.va.toNat / 32) bs
  | .copy c => copyAnswer s1 c (r.va.toNat / 32) r.isWrite r.len bs
  | .grid g =>
    gridRead { s1 with grids := mmod s1.grids g fun g => { g with gxReq := none, gxResp := some (fieldOf bs 0 4) } } g
  | .exitRec t => modTeam s1 t fun t => { t with exitReq := none, exitDone := true }
  | .svp =>
    (match mget s.svpWait r.id with
     | some c => respond { s1 with svpWait := mdel s1.svpWait r.id } c 0 (bytesOf 4 reportLen)
     | none => s1)
  | .device | .prefetch _ | .prefetchRdc _ | .orphan _ | .merged _ | .killRec => s1

/-- The completion of a read over PCIe that follows posted writes: they have arrived (10 R241). -/
def arrived (r : Req) (s : State) : State :=
  if r.flushes then (s.reqs.filter fun w => w.posted && decide (w.id < r.id)).foldl (fun s w => answered s w []) s else s

/-- The time of a request to a peer is over (R103). -/
def peerLate (s : State) (r : Req) : Bool :=
  hmeHome r.hme == 10 && decide (r.sentAt + 2 ^ s.io.vplTmo.toNat * 64000 ≤ s.timeNs.toNat)

/-- R103: a home outside answers; an answer to nothing, or after its time, is discarded. An answer that names a posted write
stands for the completion of a later read (log entry 87). -/
def execRemoteHomeResponse (s : State) : Outcome :=
  .next (match awayReq s s.arg.id with
  | none => s
  | some r =>
    if s.arg.ok && !peerLate s r then
      arrived r <| answered (keepAtc (keepPeerMt (answerCaches s r s.arg.data) r s.arg.size.toNat) r) r (answerBytes r s.arg.data)
    else remoteFails s r)

/-! ### Peers (R99 to R101, R103) -/

/-- A peer-table entry of a context names a peer device and its context. -/
def peerKnown (s : State) (slot : Nat) (dev ctx : Half) : Bool :=
  (List.range 16).any fun i =>
    let p := ccb s slot (0x80 + 8 * i) 8
    bitOf p 12 && bitsOf p 48 16 == 0 && bitsOf p 13 3 == 0 && bitsOf p 16 16 == dev.toNat && bitsOf p 32 16 == ctx.toNat

/-- R101: a request of a peer, served at its home if the pairing matches. -/
def execPeerRequest (s : State) : Outcome :=
  .next (
    let a := s.arg
    let va := a.va.toNat
    let no (s : State) : State := say s (.peerResp a.dev a.tag false 0 [])
    match slotOfAsid s a.asid with
    | none => no s
    | some slot =>
      if peerKnown s slot a.dev a.sender = false then no s
      else
        let r := rqOutside slot a.asid
        let mt := (peekLeaf s r va).elim 0 leafMT
        let done (x : State × Acc × List Byte) : State :=
          match x with
          | (s1, .done, bs) => say s1 (.peerResp a.dev a.tag true mt bs)
          | (s1, .held, _) => keepSaid s s1
          | (s1, _, _) => no s1
        match a.peerOp with
        | .load n => done (loadRange s r accLoad va n)
        | .store =>
          (match storeRange s r va a.data with
           | (s1, .done) => done (s1, .done, [])
           | (s1, .held) => keepSaid s s1
           | _ => no (countTried s r va a.data.length))
        | .atom op ty n =>
          if !([4, 8, 16].contains n) ∨ va % n ≠ 0 then no s
          else done (atomPiece s r true va n (peerAtom op ty n a.operand.toNat a.expected.toNat)))

/-- R103: no answer within `VPLCTL.TMO`. -/
def execVplTimeout (s : State) : Outcome :=
  .next (match awayReq s s.arg.id with
  | none => s
  | some r =>
    if peerLate s r then remoteFails s r else s)

/-- R103: a port goes down with its outstanding requests. -/
def execVplPortDown (s : State) : Outcome :=
  .next (
    let p := s.arg.port.toNat
    let s1 := { s with io := { s.io with vplUp := s.io.vplUp &&& ~~~(BitVec.ofNat 12 (2 ^ p)) } }
    (s.reqs.filter fun r => r.st == .remote && hmeHome r.hme == 10 && r.port == p).foldl remoteFails s1)

/-- R99: a port trains; the SVP assigns the device's number. -/
def execVplLinkUp (s : State) : Outcome :=
  .next (
    let p := s.arg.port.toNat
    if p > 11 then s
    else { s with io := { s.io with vplUp := s.io.vplUp ||| BitVec.ofNat 12 (2 ^ p), vplDevno := s.arg.dev } })

/-! ### Knamar Link up and down (R96, R103) -/

/-- R96: the link trains, on fewer lanes if `ok2`; numbering starts again from 1. -/
def execKlLinkUp (s : State) : Outcome :=
  .next { s with io := { s.io with klUp := true, klDegr := s.arg.ok2, klSeq := 0 } }

/-- R96, R103: the link goes down: held NOTIFY writes are dropped and counted, requests over it fail. -/
def execKlLinkDown (s : State) : Outcome :=
  .next (
    let n := Nat.min (s.io.klNdrop.toNat + s.io.notifies.length) 0xFFFF
    let s1 := { s with io := { s.io with klUp := false, klDegr := false, notifies := [], klNdrop := BitVec.ofNat 16 n } }
    (s.reqs.filter fun r => (r.st == .remote || r.st == .pri) && hmeHome r.hme == 8).foldl remoteFails s1)

/-! ### PCIe up and down, BAR2, MSI-X tables (R81, R82, R103) -/

/-- R103: the PCIe link goes up, or down with the requests over it, which fail. -/
def pcieLink (s : State) (up : Bool) : State :=
  let s1 := { s with io := { s.io with pcieUp := up } }
  if up then s1
  else (s.reqs.filter fun r => (r.st == .remote || r.st == .pri) && hmeHome r.hme == 9).foldl remoteFails s1

/-- R81: the PF's BAR2 has 1 GB to 1 TB. -/
def resizeBar2 (s : State) (lg : Nat) : State :=
  if 30 ≤ lg ∧ lg ≤ 40 then { s with io := { s.io with bar2 := lg } } else s

/-- R82: a write of an entry of a function's MSI-X table. It waits as other posted writes to BAR0 do (R96). -/
def msixEntry (s : State) (fn vec : Nat) (entry : List Byte) : State :=
  if 256 ≤ s.io.notifies.length then s
  else if fn < 64 ∧ vec < msixVectors fn then { s with io := { s.io with msixTab := mset s.io.msixTab (2048 * fn + vec) (entry.take 16) } }
  else s

/-- An MSI-X entry at reset: its vector is masked (log entry 82). -/
def msixReset : List Byte := zeros 12 ++ bytesOf 4 1

/-- R82: a read in the MSI-X table of function `fn`, at a byte offset of the table. -/
def readMsix (s : State) : State :=
  let a := s.arg
  let n := if a.wide then 8 else 4
  if a.narrow || a.off % n != 0 then say s (.abort a.tag)
  else
    let vec := a.off / 16
    let bs := if vec < msixVectors a.fn.toNat then mgetD s.io.msixTab (2048 * a.fn.toNat + vec) msixReset else zeros 16
    say s (.reg a.tag ((bs.drop (a.off % 16)).take n ++ zeros (n - (bs.drop (a.off % 16)).length)))

end Sys2Proof.Machine
end

