-- ==== Sys2Proof/Machine/LaneCross.lean ====
section
/-! DEFINITION. Moves, cross-lane operations, masks and shared registers from lanes, class 3 (16 R391 to R401,
14 R332). -/

namespace Sys2Proof.Machine

/-- R392: A in each active lane. -/
def execMov (o : LaneOp) (s : State) : Outcome :=
  aluLane (.mov o) o { a := o.ty.opW, d := o.ty.opW } s fun _ _ a _ _ => a

/-- The immediate of `movk`: word 2 as it stands (14 R313). -/
def movkImm (o : LaneOp) : BitVec 32 :=
  o.imm ++ o.md ++ BitVec.ofBool o.fs ++ BitVec.ofBool (match o.c with | .v _ last => last | _ => false)

/-- R392: the 32-bit immediate, sign-extended for i64. -/
def execMovk (o : LaneOp) (s : State) : Outcome :=
  aluLane (.movk o) o { a := o.ty.opW, d := o.ty.opW } s fun _ _ _ _ _ =>
    if o.ty = .i64 then toBits 64 (sxNat 32 (movkImm o).toNat) else (movkImm o).toNat

/-- Lane that supplies lane l: mode 0 idx, 1 up, 2 down, 3 xor; w is the segment width (16 R393). -/
def shflLane (mode w l b : Nat) : Nat :=
  let base := l - l % w
  match mode with
  | 0 => base + b % w
  | 1 => if b < w ∧ base + b ≤ l then l - b else l
  | 2 => if b < w ∧ l + b < base + w then l + b else l
  | _ => base + ((l - base) ^^^ (b % w))

/-- R393: a value of another lane, 0 where that lane is not present. -/
def execShfl (o : LaneOp) (s : State) : Outcome :=
  longLane (.shfl o) o { a := o.ty.opW, d := o.ty.opW } s fun x a b _ l =>
    let k := shflLane (o.md.extractLsb' 0 2).toNat (2 ^ (o.md.extractLsb' 2 3).toNat) l (b l % 2 ^ 32)
    if inMask x.q.pm k then a k else 0

/-- Result of `vote` for a predicate: mode 1 all, 2 any, 3 eq (16 R394). -/
def voteTest (x : Lx) (mode : Nat) (cnd : Nat → Bool) (a : Nat → Nat) : Bool :=
  let ls := lanesOf x.act
  match mode with
  | 1 => ls.all cnd
  | 2 => ls.any cnd
  | _ => match ls with
    | [] => true
    | l :: rest => rest.all fun k => a k == a l

/-- R394: ballot to a register, or all, any or eq to a predicate. -/
def execVote (o : LaneOp) (s : State) : Outcome :=
  let mode := (o.md.extractLsb' 0 2).toNat
  let n := (o.md.extractLsb' 2 3).toNat
  let w : Shape := {}
  let u := { usesOf o w with ps := if mode = 3 then [] else [n] }
  laneEnter (.vote o) o u s fun x =>
    let cnd (l : Nat) : Bool := inMask (predVal x.q n) l != o.md.getLsbD 5
    longReady s x u.dv.length fun s => withH s x fun s hv =>
      let r : Result := match o.dst with
        | .sp p =>
          { dst := .p p.toNat
            pval := if voteTest x mode cnd (srcVal x.q o hv 32 o.a) then 0xFFFFFFFF else 0 }
        | _ => valResult x 32 fun _ => (x.act &&& maskOf cnd).toNat
      finishLong s x u.vs (freesOf o w) r

/-- The fixed-tree reduction over the active lanes (16 R395). -/
def squadReduce (op : Nat) (t : LType) (ftz : Bool) (act : Word) (a : Nat → Nat) : Nat :=
  (treeReduce (combOp op t ftz) (laneIdx.map fun l => if inMask act l then some (a l) else none)).getD (combIdentity op t)

/-- R395: every active lane, or g, takes the reduction. -/
def execRedsq (o : LaneOp) (s : State) : Outcome :=
  longLane (.redsq o) o { a := o.ty.opW, d := o.ty.opW } s fun x a _ _ _ =>
    squadReduce (o.md.extractLsb' 0 3).toNat o.ty (x.q.fpmode.getLsbD 0) x.act a

/-- The prefix of lane l, inclusive or exclusive (16 R396). -/
def squadScan (op : Nat) (t : LType) (ftz excl : Bool) (act : Word) (a : Nat → Nat) (l : Nat) : Nat :=
  let p := scanLevels (combOp op t ftz) (laneIdx.map fun k => if inMask act k then some (a k) else none)
  let r := if excl then (if l = 0 then none else p.getD (l - 1) none) else p.getD l none
  r.getD (combIdentity op t)

/-- R396: each active lane takes the prefix of the active lanes up to it. -/
def execScansq (o : LaneOp) (s : State) : Outcome :=
  longLane (.scansq o) o { a := o.ty.opW, d := o.ty.opW } s fun x a _ _ l =>
    squadScan (o.md.extractLsb' 0 3).toNat o.ty (x.q.fpmode.getLsbD 0) (o.md.getLsbD 3) x.act a l

/-- R397: true in the lowest active lane, false in the other active lanes. -/
def execElect (o : LaneOp) (s : State) : Outcome :=
  laneEnter (.elect o) o (usesOf o {}) s fun x =>
    let n := match o.dst with | .sp n => n.toNat | _ => 7
    finishShort s x [] [] { p := some (n, x.act, match lowLane x.act with | some l => maskOf fun k => k == l | none => 0) }

/-- The placement set of a grid: the bullpen that is linked to its context, or the set of `SCHED` (06 R139, R150). -/
def psetOf (s : State) (g : Grid) : Nat :=
  if g.lr.bullpen then ((s.psets.find? fun x => x.2.bullpen == some g.slot).map (·.1)).getD 0
  else ccb s g.slot 0x48 2

/-- A special value of a lane (14 R332). -/
def specialVal (s : State) (q : Squad) (n l : Nat) : Nat :=
  let t := teamOf s q.team
  let g := gridOf s t
  let r := g.lr
  let org := q.origin.getD l ⟨0, 0, 0⟩
  match n with
  | 0 => l
  | 1 => q.index
  | 2 => t.index % r.gridx
  | 3 => t.index / r.gridx % r.gridy
  | 4 => t.index / (r.gridx * r.gridy)
  | 5 => r.gridx
  | 6 => r.gridy
  | 7 => r.gridz
  | 8 => r.teamx
  | 9 => r.teamy
  | 10 => r.teamz
  | 11 => 32 * org.osq + org.oln
  | 12 => org.osq
  | 13 => org.oln
  | 14 => org.ticket.toNat
  | 15 => t.vcores.getD (ownRank t q.core) 0
  | 16 => psetOf s g
  | _ => g.depth

/-- R332, R397: a special value. -/
def execRdsp (o : LaneOp) (s : State) : Outcome :=
  aluLane (.rdsp o) o {} s fun q l _ _ _ => specialVal s q o.imm.toNat l

/-- R398: the execution mask as it stands. -/
def execEmget (o : LaneOp) (s : State) : Outcome := aluLane (.emget o) o {} s fun q _ _ _ _ => q.em.toNat

/-- R398, R176: `em` takes A AND `pm`, even when `em` is 0. -/
def execEmset (o : LaneOp) (s : State) : Outcome :=
  let u := usesOf o {}
  laneEnter (.emset o) o u s fun x =>
    finishShort s x [] [] { post := fun q => { q with em := BitVec.ofNat 32 (srcVal x.q o 0 32 o.a 0) &&& q.pm } }

/-- R398: a predicate as a mask over the present lanes. -/
def execPget (o : LaneOp) (s : State) : Outcome :=
  let n := (o.md.extractLsb' 0 3).toNat
  let u := { usesOf o {} with ps := [n] }
  laneEnter (.pget o) o u s fun x =>
    finishShort s x [] [] (valEffect x 32 fun _ => (predVal x.q n &&& x.q.pm).toNat)

/-- R398: each active lane's predicate takes its bit of A. -/
def execPset (o : LaneOp) (s : State) : Outcome :=
  let w : Shape := {}
  let u := usesOf o w
  laneEnter (.pset o) o u s fun x =>
    let n := match o.dst with | .sp n => n.toNat | _ => 7
    let val (hv : Dword) : Word := maskOf fun l => bitOf (srcVal x.q o hv 32 o.a l) l
    if (hSource o).isSome then
      longReady s x 0 fun s => withH s x fun s hv => finishLong s x u.vs (freesOf o w) { dst := .p n, pval := val hv }
    else finishShort s x u.vs (freesOf o w) { p := some (n, x.act, val 0) }

/-! ### Shared registers -/

/-- A value as an entry takes it: i32 sign-extended (16 R400). -/
def hValue (t : LType) (v : Nat) : Dword := BitVec.ofNat 64 (if t = .i32 then toBits 64 (sxNat 32 v) else v)

/-- The entry that a destination in space h names. -/
def hDest (o : LaneOp) : Nat := match o.dst with | .sp n => n.toNat | _ => 0

/-- Make an operation on the bank once; then go on, or wait for it. -/
def laneBank (s : State) (x : Lx) (op : HOp) (k : State → State) : State :=
  match x.q.granted with
  | some _ => k s
  | none =>
    let l := hLoc s x.q.team (hDest x.o)
    let s := if l.common then escape s x.q.team else s
    match hArrive s l (.squad x.id) op with
    | (s, some _) => k s
    | (s, none) => setWait s x.id (.shared l.cluster l.key)

/-- R400: put the value of the lowest active lane with a count; with no active lane, nothing. -/
def execHput (o : LaneOp) (s : State) : Outcome :=
  let w : Shape := { a := o.ty.opW }
  let u := usesIfAny s o { usesOf o w with dp := none }
  laneEnter (.hput o) o u s fun x =>
    match lowLane x.act with
    | none => finishShort s x [] (freesOf o w) {}
    | some l =>
      laneRelease s x fun s =>
        laneBank s x (.put (hValue o.ty (srcVal x.q o 0 w.a o.a l)) (o.imm.toNat % 256)) fun s =>
          finishShort s x u.vs (freesOf o w) {}

/-- Code of a gather's type (07 R180). -/
def gtypeOf : LType → Nat
  | .i32 => 0
  | .n32 => 1
  | .i64 => 2
  | .n64 => 3
  | _ => 4

/-- A contribution of a squad that the bank has not taken: the operation that holds its flag. -/
def pendingContribution (s : State) (id : Nat) (q : Squad) : Option Nat :=
  (s.pops.find? fun p => p.2.squad == id && p.2.tpc == q.pos && !p.2.ready && p.2.dst == .none).map (·.1)

/-- A contribution waits at a Full entry with its flag raised. -/
def contributionWaits (s : State) (x : Lx) : State :=
  let op : POp := { squad := x.id, tpc := x.q.pos, dst := .none, lanes := x.act, vals := [], flag := flagOf x.q x.o.fs, ready := false,
                    core := x.q.core, part := x.q.part }
  raiseFlag { s with nextId := s.nextId + 1, pops := mset s.pops s.nextId op } x.id op.flag

/-- R401: contribute the reduction of the active lanes; the set-flag rises at issue and falls when the bank takes it. -/
def execHacc (o : LaneOp) (s : State) : Outcome :=
  let w : Shape := { a := o.ty.opW }
  let u := { usesOf o w with dp := none }
  let op := (o.md.extractLsb' 0 3).toNat
  laneEnter (.hacc o) o u s fun x =>
    if x.q.granted.isSome then
      let s := match pendingContribution s x.id x.q with
        | some n => { s with pops := mmod s.pops n fun p => { p with ready := true } }
        | none => s
      finishShort s x u.vs (freesOf o w) {}
    else
    longReady s x 0 fun s => laneRelease s x fun s =>
      let v := squadReduce op o.ty (x.q.fpmode.getLsbD 0) x.act (srcVal x.q o 0 w.a o.a)
      let l := hLoc s x.q.team (hDest o)
      let s := if l.common then escape s x.q.team else s
      match hArrive s l (.squad x.id) (.acc (hValue o.ty v) op (gtypeOf o.ty) (o.imm.toNat % 2048)) with
      | (s, some _) => finishLong s x u.vs (freesOf o w) {}
      | (s, none) => setWait (contributionWaits s x) x.id (.shared l.cluster l.key)

/-- R401: the state of an entry, without waiting. -/
def execHstat (o : LaneOp) (s : State) : Outcome :=
  let u := usesOf o {}
  laneEnter (.hstat o) o u s fun x =>
    longReady s x u.dv.length fun s =>
      let h := hLoc s x.q.team ((srcH o.a).getD 0)
      let n := hStatus (getH s h)
      finishLong (hTurn s h (.squad x.id)) x [] [] (valResult x 32 fun _ => n)

/-- R401: a consuming read. -/
def execHget (o : LaneOp) (s : State) : Outcome :=
  longLane (.hget o) o { a := o.ty.opW, d := o.ty.opW } s fun _ a _ _ l => a l

end Sys2Proof.Machine
end

