-- ==== Sys2Proof/Machine/Special.lean ====
section
/-! DEFINITION. The special functions (12 R280). The exact result is enclosed by fixed-point arithmetic of 320
fraction bits; the result delivered is a free value of Config where that value keeps within the accuracy that the
spec states, and the nearest-even rounding otherwise, so exactly the results that the spec allows are possible. -/

namespace Sys2Proof.Machine

/-- The special functions. -/
inductive Sfu where
  | rcp
  | rsq
  | sqrt
  | exp2
  | log2
  | sin
  | cos
  | tanh
  | sigm
  deriving DecidableEq, Repr

def Sfu.num : Sfu → Nat
  | .rcp => 0
  | .rsq => 1
  | .sqrt => 2
  | .exp2 => 3
  | .log2 => 4
  | .sin => 5
  | .cos => 6
  | .tanh => 7
  | .sigm => 8

/-- Fraction bits of the enclosures. -/
def fxBits : Nat := 320
def fxOne : Int := (2 ^ fxBits : Nat)
def fxMul (a b : Int) : Int := a * b / fxOne

/-- Sum of t, t x y/k, t x y^2/(k(k+1)), ...: `n` terms of an exponential series. -/
def expSeries : Nat → Int → Int → Nat → Int
  | 0, _, _, _ => 0
  | n + 1, t, y, k => t + expSeries n (fxMul t y / (k : Int)) y (k + 1)

/-- e^y for 0 ≤ y < 1. -/
def fxExp (y : Int) : Int := expSeries 90 fxOne y 1

/-- Sum of z^(2i+1)/(2i+1) with sign s^i: `n` terms. -/
def oddSeries : Nat → Int → Int → Nat → Int → Int
  | 0, _, _, _, _ => 0
  | n + 1, p, z2, k, s => p / (k : Int) + oddSeries n (s * fxMul p z2) z2 (k + 2) s

/-- atanh z for z ≤ 1/3. -/
def fxAtanh (z : Int) : Int := oddSeries 110 z (fxMul z z) 1 1
def fxAtan (z : Int) : Int := oddSeries 150 z (fxMul z z) 1 (-1)
def fxLn2 : Int := 2 * fxAtanh (fxOne / 3)
def fxPi : Int := 16 * fxAtan (fxOne / 5) - 4 * fxAtan (fxOne / 239)

/-- Sum of t - t x y^2/(k(k+1)) + ...: `n` terms of a sine or cosine series. -/
def trigSeries : Nat → Int → Int → Nat → Int
  | 0, _, _, _ => 0
  | n + 1, t, y2, k => t - trigSeries n (fxMul t y2 / ((k * (k + 1) : Nat) : Int)) y2 (k + 2)

def fxSin (y : Int) : Int := trigSeries 50 y (fxMul y y) 2
def fxCos (y : Int) : Int := trigSeries 50 fxOne (fxMul y y) 1

/-- m x 2^e in fixed point (toward -infinity). -/
def fxOf (d : Dyadic) : Int :=
  let k := d.e + (fxBits : Int)
  if k ≥ 0 then d.n * (2 ^ k.toNat : Nat) else d.n / (2 ^ (-k).toNat : Nat)

def fxDy (x : Int) : Dyadic := ⟨x, -(fxBits : Int)⟩

/-- e^-y for y ≥ 0 in fixed point. -/
def fxExpNeg (y : Int) : Int :=
  let n := y / fxLn2 + 1
  fxExp (n * fxLn2 - y) / (2 ^ n.toNat : Nat)

/-- The exact result, to far more than binary32 precision, of a finite operand without a special case. -/
def sfuExact (f : Sfu) (d : Dyadic) : Dyadic :=
  let neg := decide (d.n < 0)
  match f with
  | .rcp => ⟨(2 ^ 256 : Nat) / d.n, -256 - d.e⟩
  | .sqrt =>
    let sh : Nat := if d.e % 2 = 0 then 200 else 201
    ⟨isqrt (d.n.natAbs * 2 ^ sh), (d.e - sh) / 2⟩
  | .rsq =>
    let sh : Nat := if d.e % 2 = 0 then 400 else 401
    ⟨isqrt (2 ^ sh / d.n.natAbs), (-(sh : Int) - d.e) / 2⟩
  | .exp2 =>
    let x := fxOf d
    let n := x / fxOne
    ⟨fxExp (fxMul (x - n * fxOne) fxLn2), n - (fxBits : Int)⟩
  | .log2 =>
    let k := (Nat.log2 d.n.natAbs : Int) + d.e
    let t := fxOf ⟨d.n, d.e - k⟩
    fxDy (k * fxOne + 2 * fxAtanh ((t - fxOne) * fxOne / (t + fxOne)) * fxOne / fxLn2)
  | .sin =>
    let x := fxOf d
    let n := (2 * x + fxPi / 2) / fxPi
    let r := x - n * fxPi / 2
    fxDy (match (n % 4).toNat with
      | 0 => fxSin r
      | 1 => fxCos r
      | 2 => -fxSin r
      | _ => -fxCos r)
  | .cos =>
    let x := fxOf d
    let n := (2 * x + fxPi / 2) / fxPi
    let r := x - n * fxPi / 2
    fxDy (match (n % 4).toNat with
      | 0 => fxCos r
      | 1 => -fxSin r
      | 2 => -fxCos r
      | _ => fxSin r)
  | .tanh =>
    let x := fxOf d
    let y := min (if neg then -x else x) (64 * fxOne)
    let t := fxExpNeg (2 * y)
    let r := (fxOne - t) * fxOne / (fxOne + t)
    fxDy (if neg then -r else r)
  | .sigm =>
    let x := fxOf d
    let t := fxExpNeg (min (if neg then -x else x) (200 * fxOne))
    fxDy (if neg then t * fxOne / (fxOne + t) else fxOne * fxOne / (fxOne + t))

/-- Stated accuracy in ulp; 0 stands for the absolute bound of sine and cosine. -/
def Sfu.ulps : Sfu → Nat
  | .rcp | .sqrt => 1
  | .sin | .cos => 0
  | _ => 2

/-- Whether a finite binary32 value keeps within the accuracy around the exact result. -/
def sfuWithin (f : Sfu) (x : Dyadic) (cand : FVal) : Bool :=
  match cand with
  | .fin _ _ _ =>
    let diff := Dyadic.add cand.dyadic ⟨-x.n, x.e⟩
    let top := max (-126) (if x.n = 0 then -126 else (Nat.log2 x.n.natAbs : Int) + x.e)
    let bound : Dyadic := if f.ulps = 0 then ⟨1, -21⟩ else ⟨f.ulps, top - 23⟩
    decide ((Dyadic.add bound ⟨-diff.n.natAbs, diff.e⟩).n ≥ 0)
  | _ => false

/-- A special function on a binary32 code: the special cases of 12 R280, else within its accuracy. `n` is the draw. -/
def sfuF32 (n : Nat) (f : Sfu) (x : Nat) : Nat :=
  let nan := fB32.defNaN
  let inf (neg : Bool) := fB32.withSign neg fB32.infCode
  let one : Nat := 0x3F800000
  match fB32.dec x with
  | .nan _ => nan
  | .inf neg =>
    match f with
    | .rcp => fB32.withSign neg 0
    | .rsq => if neg then nan else 0
    | .sqrt => if neg then nan else inf false
    | .exp2 => if neg then 0 else inf false
    | .log2 => if neg then nan else inf false
    | .sin | .cos => nan
    | .tanh => fB32.withSign neg one
    | .sigm => if neg then 0 else one
  | .fin neg m e =>
    let v := FVal.fin neg m e
    let d := v.dyadic
    let zeroCase : Option Nat :=
      match f with
      | .rcp | .rsq => some (inf neg)
      | .sqrt | .sin | .tanh => some x
      | .log2 => some (inf true)
      | _ => none
    let big := decide ((Nat.log2 m : Int) + e > 20) ||
      (decide ((Nat.log2 m : Int) + e = 20) && decide (m ≠ 2 ^ Nat.log2 m))
    if m = 0 && zeroCase.isSome then zeroCase.getD 0
    else if neg && m ≠ 0 && (f == .rsq || f == .sqrt || f == .log2) then nan
    else if (f == .sin || f == .cos) && big then nan
    else if f == .log2 && x = one then 0
    else if f == .exp2 && m ≠ 0 && (Nat.log2 m : Int) + e ≥ 9 then (if neg then 0 else inf false)
    else if f == .exp2 && (truncFin m e).2 == false &&
        decide (-126 ≤ (if neg then -(truncFin m e).1 else (truncFin m e).1 : Int)) &&
        decide ((if neg then -(truncFin m e).1 else (truncFin m e).1 : Int) ≤ 127) then
      (((if neg then -(truncFin m e).1 else (truncFin m e).1 : Int) + 127).toNat) * 2 ^ 23
    else
      let ex := sfuExact f d
      let nearest := (fB32.roundDyadic .rne neg ex).bits
      let cand := (Config.sfu n f.num (BitVec.ofNat 32 x)).toNat
      if sfuWithin f ex (fB32.dec cand) then cand else nearest

end Sys2Proof.Machine
end

