-- ==== Sys2Proof/Machine/LaneFloat.lean ====
section
/-! DEFINITION. Lane floating point, conversions, dot products and special functions, classes 1 and 2 (16 R380 to R390,
12 R272 to R280). -/

namespace Sys2Proof.Machine

def ftzOf (q : Squad) : Bool := q.fpmode.getLsbD 0

def laneRm (o : LaneOp) : Rm := Rm.ofBits o.rm

/-- The format of a class 1 type. -/
def fmtOf (t : LType) : Fmt := t.fmt?.getD fB32

/-- An elementwise operation on a and b prepared by the modifiers of R381; the result takes FTZ and the default NaN. -/
def laneF2 (o : LaneOp) (q : Squad) (op : Fmt → Rm → Nat → Nat → Nat) (a b : Nat) : Nat :=
  let f := fmtOf o.ty
  let z := ftzOf q
  elem2 o.ty (fun x y => finF f z (op f (laneRm o) (prepF f (o.md.getLsbD 3) (o.md.getLsbD 0) z x)
    (prepF f false (o.md.getLsbD 1) z y))) a b

def laneF1 (o : LaneOp) (q : Squad) (op : Fmt → Rm → Nat → Nat) (a : Nat) : Nat :=
  let f := fmtOf o.ty
  let z := ftzOf q
  elem1 o.ty (fun x => finF f z (op f (laneRm o) (prepF f (o.md.getLsbD 3) (o.md.getLsbD 0) z x))) a

/-- R381: a + b. -/
def execFadd (o : LaneOp) (s : State) : Outcome :=
  aluLane (.fadd o) o {} s fun q _ a b _ => laneF2 o q (fun f rm x y => (f.add rm (f.dec x) (f.dec y)).bits) a b

/-- R381: a - b. -/
def execFsub (o : LaneOp) (s : State) : Outcome :=
  aluLane (.fsub o) o {} s fun q _ a b _ => laneF2 o q (fun f rm x y => (f.add rm (f.dec x) (f.dec y).negate).bits) a b

/-- R381: a x b. -/
def execFmul (o : LaneOp) (s : State) : Outcome :=
  aluLane (.fmul o) o {} s fun q _ a b _ => laneF2 o q (fun f rm x y => (f.mul rm (f.dec x) (f.dec y)).bits) a b

/-- R381: minimumNumber. -/
def execFmin (o : LaneOp) (s : State) : Outcome :=
  aluLane (.fmin o) o {} s fun q _ a b _ => laneF2 o q (fun f _ x y => (f.minmax false x y).bits) a b

/-- R381: maximumNumber. -/
def execFmax (o : LaneOp) (s : State) : Outcome :=
  aluLane (.fmax o) o {} s fun q _ a b _ => laneF2 o q (fun f _ x y => (f.minmax true x y).bits) a b

/-- R381: a x b + c with one rounding. -/
def execFfma (o : LaneOp) (s : State) : Outcome :=
  aluLane (.ffma o) o {} s fun q _ a b c =>
    let f := fmtOf o.ty
    let z := ftzOf q
    elem3 o.ty (fun x y w => finF f z (f.fma (laneRm o) (f.dec (prepF f (o.md.getLsbD 3) (o.md.getLsbD 0) z x))
      (f.dec (prepF f false (o.md.getLsbD 1) z y)) (f.dec (prepF f false (o.md.getLsbD 2) z w))).bits) a b c

/-- R382: p[D] takes the comparison. -/
def execFcmp (o : LaneOp) (s : State) : Outcome :=
  predLane (.fcmp o) o {} s fun q a b _ =>
    let z := ftzOf q
    let c := (if o.md.getLsbD 2 then 4 else 0) + (o.md.extractLsb' 4 2).toNat
    fcmpCond c (cmpFVal (fB32.dec (prepF fB32 (o.md.getLsbD 3) (o.md.getLsbD 0) z a))
      (fB32.dec (prepF fB32 false (o.md.getLsbD 1) z b)))

/-- R383: round to an integral value. -/
def execFrnd (o : LaneOp) (s : State) : Outcome :=
  aluLane (.frnd o) o {} s fun q _ a _ _ => laneF1 o q (fun f rm x => (f.toIntegral rm x).bits) a

/-- R383: class of the encoding. -/
def execFclass (o : LaneOp) (s : State) : Outcome := aluLane (.fclass o) o {} s fun _ _ a _ _ => fclassF32 a

/-- R383: a x 2^B. -/
def execFscale (o : LaneOp) (s : State) : Outcome :=
  aluLane (.fscale o) o {} s fun q _ a b _ =>
    let z := ftzOf q
    finF fB32 z (fscaleF32 (laneRm o) (prepF fB32 (o.md.getLsbD 3) (o.md.getLsbD 0) z a) (sxNat 32 b))

/-! ### Conversions and packing -/

def srcTy (o : LaneOp) : LType := o.srcType.getD .i32

/-- R385: one scalar conversion. -/
def execCvt (o : LaneOp) (s : State) : Outcome :=
  aluLane (.cvt o) o { a := (srcTy o).scalarW, d := o.ty.scalarW } s fun q _ a _ _ =>
    convert o.ty (srcTy o) (laneRm o) (o.md.getLsbD 0) (ftzOf q) a

/-- R386: two conversions into a 16-bit packed register. -/
def execPack2 (o : LaneOp) (s : State) : Outcome :=
  aluLane (.pack2 o) o {} s fun q _ a b _ => aluPack2 o.ty (srcTy o) (laneRm o) (ftzOf q) a b

/-- R386: two conversions into position q of C. -/
def execPack4 (o : LaneOp) (s : State) : Outcome :=
  aluLane (.pack4 o) o {} s fun q _ a b c =>
    aluPack4 o.ty (srcTy o) (laneRm o) (o.md.getLsbD 2) (ftzOf q) (o.md.extractLsb' 0 2).toNat a b c

/-! ### Dot products and block scales -/

/-- R387: C plus the exact sum of products. -/
def execDot4 (o : LaneOp) (s : State) : Outcome := aluLane (.dot4 o) o {} s fun _ _ a b c => aluDot o.ty a b c

/-- R387: C plus the exact sum of products. -/
def execDot8 (o : LaneOp) (s : State) : Outcome := aluLane (.dot8 o) o {} s fun _ _ a b c => aluDot o.ty a b c

/-- R388: C plus the exact sum of narrow products, one rounding. -/
def execDotf4 (o : LaneOp) (s : State) : Outcome :=
  aluLane (.dotf4 o) o {} s fun q _ a b c => aluDotF o.ty (laneRm o) (ftzOf q) a b c

/-- R388: C plus the exact sum of narrow products, one rounding. -/
def execDotf8 (o : LaneOp) (s : State) : Outcome :=
  aluLane (.dotf8 o) o {} s fun q _ a b c => aluDotF o.ty (laneRm o) (ftzOf q) a b c

/-- R389: block scales applied to a partial sum. -/
def execMxscale (o : LaneOp) (s : State) : Outcome :=
  aluLane (.mxscale o) o {} s fun q _ a b c =>
    let sa := b / 256 ^ (o.md.extractLsb' 0 2).toNat % 256
    let sb := if o.md.getLsbD 4 then 127 else c / 256 ^ (o.md.extractLsb' 2 2).toNat % 256
    aluMxscale (o.ty == .f32) (ftzOf q) sa sb a

/-! ### Special functions (12 R280): a binary32 computation for each element -/

/-- One element: widened exactly, computed, rounded once to nearest even. -/
def sfuElem (n : Nat) (fn : Sfu) (f : Fmt) (z : Bool) (x : Nat) : Nat :=
  let wide := (fB32.ofVal .rne false (f.dec x)).bits
  let r := fB32.flush z (sfuF32 n fn (fB32.flush z wide))
  finF f z (f.ofVal .rne false (fB32.dec r)).bits

/-- R390: a special function, long-latency; what its accuracy leaves open is a free value (log entry 12). -/
def sfuLane (i : Instr) (fn : Sfu) (o : LaneOp) (s : State) : Outcome :=
  longLane i o {} s fun x a _ _ l =>
    let f := fmtOf o.ty
    let z := ftzOf x.q
    mapElems f.width (fun k => sfuElem (64 * s.freeNo + 2 * l + k) fn f z
      (prepF f (o.md.getLsbD 3) (o.md.getLsbD 0) z (elemAt f.width k (a l)))) o.ty.count

/-- R390: `rcp`. -/
def execRcp (o : LaneOp) (s : State) : Outcome := sfuLane (.rcp o) .rcp o s

/-- R390: `rsq`. -/
def execRsq (o : LaneOp) (s : State) : Outcome := sfuLane (.rsq o) .rsq o s

/-- R390: `sqrt`. -/
def execSqrt (o : LaneOp) (s : State) : Outcome := sfuLane (.sqrt o) .sqrt o s

/-- R390: `exp2`. -/
def execExp2 (o : LaneOp) (s : State) : Outcome := sfuLane (.exp2 o) .exp2 o s

/-- R390: `log2`. -/
def execLog2 (o : LaneOp) (s : State) : Outcome := sfuLane (.log2 o) .log2 o s

/-- R390: `sin`. -/
def execSin (o : LaneOp) (s : State) : Outcome := sfuLane (.sin o) .sin o s

/-- R390: `cos`. -/
def execCos (o : LaneOp) (s : State) : Outcome := sfuLane (.cos o) .cos o s

/-- R390: `tanh`. -/
def execTanh (o : LaneOp) (s : State) : Outcome := sfuLane (.tanh o) .tanh o s

/-- R390: `sigm`. -/
def execSigm (o : LaneOp) (s : State) : Outcome := sfuLane (.sigm o) .sigm o s

end Sys2Proof.Machine
end

