-- ==== Sys2Proof/Machine/LaneInt.lean ====
section
/-! DEFINITION. Lane integer and logic instructions, class 0 (16 R376 to R379). -/

namespace Sys2Proof.Machine

/-- Both data slots and the result at the width of `TYPE`. -/
def wide (t : LType) : Shape := { a := t.opW, b := t.opW, c := t.opW, d := t.opW }

/-- R377: A + B, optionally saturating. -/
def execAdd (o : LaneOp) (s : State) : Outcome :=
  aluLane (.add o) o (wide o.ty) s fun _ _ a b _ => aluAdd o.ty (o.md.getLsbD 0) a b

/-- R377: A - B, optionally saturating. -/
def execSub (o : LaneOp) (s : State) : Outcome :=
  aluLane (.sub o) o (wide o.ty) s fun _ _ a b _ => aluSub o.ty (o.md.getLsbD 0) a b

/-- R377: A + B + (C and 1), or its carry. -/
def execAddx (o : LaneOp) (s : State) : Outcome :=
  aluLane (.addx o) o (wide o.ty) s fun _ _ a b c => aluAddx (o.md.getLsbD 0) a b c

/-- R377: low product. -/
def execMul (o : LaneOp) (s : State) : Outcome :=
  aluLane (.mul o) o (wide o.ty) s fun _ _ a b _ => aluMul o.ty a b

/-- R377: high 32 bits of the product. -/
def execMulhi (o : LaneOp) (s : State) : Outcome :=
  aluLane (.mulhi o) o (wide o.ty) s fun _ _ a b _ => aluMulhi o.ty a b

/-- R377: A x B + C. -/
def execMad (o : LaneOp) (s : State) : Outcome :=
  aluLane (.mad o) o (wide o.ty) s fun _ _ a b c => aluMad o.ty a b c

/-- R377: 32 x 32 + 64 multiply-add. -/
def execMadw (o : LaneOp) (s : State) : Outcome :=
  aluLane (.madw o) o { c := 64, d := 64 } s fun _ _ a b c => aluMadw o.ty a b c

/-- R377: smaller. -/
def execMin (o : LaneOp) (s : State) : Outcome :=
  aluLane (.min o) o (wide o.ty) s fun _ _ a b _ => aluMinMax o.ty false a b

/-- R377: larger. -/
def execMax (o : LaneOp) (s : State) : Outcome :=
  aluLane (.max o) o (wide o.ty) s fun _ _ a b _ => aluMinMax o.ty true a b

/-- R377: absolute value, optionally saturating. -/
def execAbs (o : LaneOp) (s : State) : Outcome :=
  aluLane (.abs o) o (wide o.ty) s fun _ _ a _ _ => aluAbs o.ty (o.md.getLsbD 0) a

/-- R378: A + (ext(B) << s). -/
def execLea (o : LaneOp) (s : State) : Outcome :=
  aluLane (.lea o) o { a := 64, d := 64 } s fun _ _ a b _ => aluLea (o.md.getLsbD 3) (o.md.extractLsb' 0 3).toNat a b

/-- R378: p[D] takes the comparison. -/
def execIcmp (o : LaneOp) (s : State) : Outcome :=
  predLane (.icmp o) o (wide o.ty) s fun _ a b _ => icmpCond o.ty (o.md.extractLsb' 0 3).toNat a b

/-- R378: A or B by a predicate. -/
def execSel (o : LaneOp) (s : State) : Outcome :=
  let n := (o.md.extractLsb' 0 3).toNat
  let w := wide o.ty
  let u := { usesOf o w with ps := [n] }
  laneEnter (.sel o) o u s fun x =>
    let val (hv : Dword) (l : Nat) : Nat :=
      if inMask (predVal x.q n) l != o.md.getLsbD 3 then srcVal x.q o hv w.a o.a l else srcVal x.q o hv w.b o.b l
    if (hSource o).isSome then
      longReady s x u.dv.length fun s => withH s x fun s hv => finishLong s x u.vs (freesOf o w) (valResult x w.d (val hv))
    else finishShort s x u.vs (freesOf o w) (valEffect x w.d (val 0))

/-- R379: bitwise AND. -/
def execAnd (o : LaneOp) (s : State) : Outcome :=
  aluLane (.and o) o (wide o.ty) s fun _ _ a b _ => a &&& b

/-- R379: bitwise OR. -/
def execOr (o : LaneOp) (s : State) : Outcome :=
  aluLane (.or o) o (wide o.ty) s fun _ _ a b _ => a ||| b

/-- R379: bitwise XOR. -/
def execXor (o : LaneOp) (s : State) : Outcome :=
  aluLane (.xor o) o (wide o.ty) s fun _ _ a b _ => a ^^^ b

/-- R379: A AND NOT B. -/
def execAndn (o : LaneOp) (s : State) : Outcome :=
  aluLane (.andn o) o (wide o.ty) s fun _ _ a b _ => aluAndn o.ty.opW a b

/-- R379: three-input table. -/
def execLut3 (o : LaneOp) (s : State) : Outcome :=
  aluLane (.lut3 o) o (wide o.ty) s fun _ _ a b c => lut3 (o.imm.toNat % 256) a b c

/-- R379: shift left. -/
def execShl (o : LaneOp) (s : State) : Outcome :=
  aluLane (.shl o) o { a := o.ty.opW, d := o.ty.opW } s fun _ _ a b _ => aluShl o.ty a b

/-- R379: shift right with zeros. -/
def execShr (o : LaneOp) (s : State) : Outcome :=
  aluLane (.shr o) o { a := o.ty.opW, d := o.ty.opW } s fun _ _ a b _ => aluShr o.ty a b

/-- R379: shift right with copies of the sign. -/
def execSar (o : LaneOp) (s : State) : Outcome :=
  aluLane (.sar o) o { a := o.ty.opW, d := o.ty.opW } s fun _ _ a b _ => aluSar o.ty a b

/-- R379: funnel shift. -/
def execShf (o : LaneOp) (s : State) : Outcome :=
  aluLane (.shf o) o {} s fun _ _ a b c => aluShf (o.md.getLsbD 0) a b c

/-- R379: bit-field extract. -/
def execBfe (o : LaneOp) (s : State) : Outcome :=
  aluLane (.bfe o) o {} s fun _ _ a b _ => aluBfe o.ty.signed a b

/-- R379: bit-field insert. -/
def execBfi (o : LaneOp) (s : State) : Outcome :=
  aluLane (.bfi o) o {} s fun _ _ a b c => aluBfi a b c

/-- R379: count of one bits. -/
def execPopc (o : LaneOp) (s : State) : Outcome :=
  aluLane (.popc o) o {} s fun _ _ a _ _ => popNat 32 a

/-- R379: count of leading zeros. -/
def execClz (o : LaneOp) (s : State) : Outcome :=
  aluLane (.clz o) o {} s fun _ _ a _ _ => clzNat 32 a

/-- R379: bit order reversed. -/
def execBrev (o : LaneOp) (s : State) : Outcome :=
  aluLane (.brev o) o {} s fun _ _ a _ _ => revNat 32 a

end Sys2Proof.Machine
end

