-- ==== Sys2Proof/Machine/LaneMem.lean ====
section
/-! DEFINITION. Lane memory instructions, class 4 (17 R402 to R415, 08 R196, R197). -/

namespace Sys2Proof.Machine

/-- What a memory instruction with address operands reads beside a data slot of n registers for `count` elements. -/
def memUses (o : LaneOp) (n count : Nat) (dv : List Nat) : Uses :=
  { vs := addrVs o ++ dataVs n o.c, gs := srcGs o.a ++ dataGs count o.c, dv := dv }

def memFrees (o : LaneOp) (n : Nat) : List Nat := addrFrees o ++ dataFrees n o.c

/-- Checks before any lane's access: alignment, then host homes for atomics (17 R403). -/
def memChecks (s : State) (x : Lx) (r : Rq) (n : Nat) (atomic : Bool) (k : State) : State :=
  let m := misaligned x n
  let va (l : Nat) : Dword := laneAddr x.q x.o l
  if m ≠ 0 then x.trap s tMisalign m (trapVals m va)
  else
    let h := maskOf fun l => atomic && inMask x.act l && hostHomed s r (va l).toNat
    if h ≠ 0 then x.trap s tHostatom h (trapVals h va) else k

/-- The lanes in the order of their accesses: ascending on device pages, else freely chosen (10 R223). -/
def laneOrder (s : State) (x : Lx) (r : Rq) : List Nat :=
  let ls := lanesOf x.act
  if ls.any fun l => onDevicePage s r (laneAddr x.q x.o l).toNat then ls
  else freeOrder 32 (Config.freeChoice s.freeNo) ls

/-- A memory instruction past its checks: it waits behind the squad's parked accesses, then issues. A release, and an access to
a strongly ordered page, drain the squad's write-combining entries first (02 R32, 10 R237). -/
def memGo (s : State) (x : Lx) (r : Rq) (reads frees : List Nat) (order : List Nat) (data : Nat → List Word) (res : Result)
    (post : State → List Nat → State) : State :=
  if memGate s x.id x.q x.i r (laneVas x) then setWait (if isRelease x.i then pcieFlush s (.squad x.id) else s) x.id .hold
  else
    let drains := x.act != 0 && (isRelease x.i || (laneVas x).any fun a => pageType s r a == 3)
    let s := if drains then drainAgent s (.squad x.id) else s
    if drains && mergedLeft s (.squad x.id) then setWait s x.id .hold
    else issueAccess s x reads frees r order data res post

/-- R407: load. -/
def execLd (o : LaneOp) (s : State) : Outcome :=
  let n := vecRegs o
  let dv := regDst o.dst n
  let u := memUses o 0 0 dv
  laneEnter (.ld o) o u s fun x =>
    let r := rqSquad s x.id x.q
    memChecks s x r (accessSize o) false
      (longReady s x dv.length fun s =>
        memGo s x r u.vs (memFrees o 0) (lanesOf x.act) (fun _ => []) (regResult x o.dst n 0 false) fun s _ => s)

/-- R407: store. -/
def execSt (o : LaneOp) (s : State) : Outcome :=
  let n := vecRegs o
  let u := memUses o n (vecCount o) []
  laneEnter (.st o) o u s fun x =>
    let r := rqSquad s x.id x.q
    memChecks s x r (accessSize o) false
      (longReady s x 0 fun s =>
        let s := if x.act = 0 then s else escape s x.q.team
        memGo s x r u.vs (memFrees o n) (laneOrder s x r) (dataWords x.q (vecCount o) (elemRegs o.ty) o.c) {}
          fun s ok => noteStores s x.id x.q.team s.nextId x.q x.i x.q.pos x.act (ok.map fun l => (l, laneAddr x.q o l)))

/-- R408: one load for the squad, to every active lane or to uniform registers. -/
def execLdu (o : LaneOp) (s : State) : Outcome :=
  let n := vecRegs o
  let dv := regDst o.dst n
  let u := memUses o 0 0 dv
  laneEnter (.ldu o) o u s fun x =>
    let r := rqSquad s x.id x.q
    let va := laneAddr x.q o 0
    if x.act ≠ 0 ∧ va.toNat % accessSize o ≠ 0 then x.trap s tMisalign x.act (trapVals x.act fun _ => va)
    else longReady s x dv.length fun s =>
      memGo s x r u.vs (memFrees o 0) (lowLane x.act).toList (fun _ => [])
        (regResult x o.dst n (vecCount o) (elemRegs o.ty == 2)) fun s _ => s

/-- The die's remote-data cache takes a line homed on another die (17 R409). -/
def prefetchRdc (s : State) (r : Rq) (va : Nat) : State :=
  match requestFor s r va accPrefetch false with
  | (_, .ok t) =>
    if t.normal = false ∨ t.home va / 2 = r.die ∨ (findGrain s (rdcOf r.die) r.asid va).isSome then s
    else
      let x := homeGrain s (rdcOf r.die) t r.asid va
      putGrain x.1 x.2
  | _ => s

/-- One lane's prefetch; one that fails has no effect (03 R64). A line homed on the host over KL is asked for (04 R95). With
`l2` it stops short of the L1: in the home's L2, and for a line homed elsewhere in the die's remote-data cache (17 R409). -/
def prefetch (s : State) (r : Rq) (l2 : Bool) (va : Nat) : State :=
  match loadPiece s { r with l1 := !l2 } accPrefetch va 1 with
  | (s', .done, _) => if l2 then prefetchRdc s' r va else s'
  | (s', .remote h, _) =>
    if hmeHome h = 8 then
      sendRemote s' { id := 0, who := if l2 then .prefetchRdc r.die else .prefetch r.cluster, kind := .read 1, asid := r.asid, va := BitVec.ofNat 64 va, st := .sent,
                      die := r.die, slot := r.slot, acc := accPrefetch, hme := h }
    else s
  | _ => s

/-- R409: prefetch into the cluster L1, or only as far as the L2. -/
def execPrf (o : LaneOp) (s : State) : Outcome :=
  let u := memUses o 0 0 []
  laneEnter (.prf o) o u s fun x =>
    let r := rqSquad s x.id x.q
    if logFull s x.id x.q then setWait s x.id .hold
    else finishShort ((laneVas x).foldl (fun s va => prefetch s r (o.md.getLsbD 0) va) s) x u.vs (memFrees o 0) {}

/-- Grains of the performed lanes, each armed once (08 R196). -/
def armLanes (s : State) (x : Lx) (r : Rq) (count : Nat) : List Nat → List Nat → State
  | _, [] => s
  | seen, l :: ls =>
    let va := (laneAddr x.q x.o l).toNat
    let base := grainBase s r va
    if seen.contains base then armLanes s x r count seen ls
    else armLanes (armAt s r va count x.q.team x.id) x r count (base :: seen) ls

/-- R410, R196: counted fill. -/
def execLdcf (o : LaneOp) (s : State) : Outcome :=
  let n := vecRegs o
  let dv := regDst o.dst n
  let u := { memUses o 0 0 dv with gs := srcGs o.a ++ srcGs o.c }
  laneEnter (.ldcf o) o u s fun x =>
    let r := rqSquad s x.id x.q
    let count := srcVal x.q o 0 64 o.c 0
    if count = 0 ∨ count > 255 then x.illop s
    else memChecks s x r (accessSize o) false
      (longReady s x dv.length fun s =>
        memGo s x r u.vs (memFrees o 0) (lanesOf x.act) (fun _ => [BitVec.ofNat 32 count]) (regResult x o.dst n 0 false)
          fun s ok => armLanes s x r count [] ok)

/-- Count state of the grain that holds an address in the squad's cluster L1. -/
def grainCnt (s : State) (r : Rq) (va : Nat) : CntState :=
  match findGrain s (.l1 r.cluster) r.asid va with
  | some g => g.cnt
  | none => .plain

/-- One consuming access for each armed grain that the lanes touch (08 R197). -/
def consumeLanes (s : State) (x : Lx) (r : Rq) : List Nat → List Nat → State
  | _, [] => s
  | seen, l :: ls =>
    let va := (laneAddr x.q x.o l).toNat
    let base := match findGrain s (.l1 r.cluster) r.asid va with
      | some g => g.va.toNat
      | none => va
    if seen.contains base then consumeLanes s x r seen ls
    else consumeLanes (consumeGrain s r.cluster r.asid va) x r (base :: seen) ls

/-- R197: consuming load; a lane that touches a drained tag traps `OVERREAD`. -/
def execLdc (o : LaneOp) (s : State) : Outcome :=
  let n := vecRegs o
  let dv := regDst o.dst n
  let u := memUses o 0 0 dv
  laneEnter (.ldc o) o u s fun x =>
    let r := rqSquad s x.id x.q
    let drained := maskOf fun l => inMask x.act l && grainCnt s r (laneAddr x.q o l).toNat == .drained
    memChecks s x r (accessSize o) false
      (if drained ≠ 0 then
        x.trap (modCluster s r.cluster fun c => { c with clOverRead := c.clOverRead + 1 }) tOverread drained
          (trapVals drained (laneAddr x.q o))
      else longReady s x dv.length fun s =>
        let armed := (lanesOf x.act).filter fun l => grainCnt s r (laneAddr x.q o l).toNat != .plain
        memGo s x r u.vs (memFrees o 0) (lanesOf x.act) (fun _ => []) (regResult x o.dst n 0 false)
          fun s ok => consumeLanes s x r [] (ok.filter armed.contains))

/-- R411: atomic read-modify-write. -/
def execAtom (o : LaneOp) (s : State) : Outcome :=
  let n := o.ty.opW / 32
  let dv := regDst o.dst n
  let u := memUses o n 1 dv
  laneEnter (.atom o) o u s fun x =>
    let r := rqSquad s x.id x.q
    memChecks s x r (o.ty.opW / 8) true
      (longReady s x dv.length fun s =>
        let s := if x.act = 0 then s else escape s x.q.team
        memGo s x r u.vs (memFrees o n) (laneOrder s x r) (dataWords x.q 1 n o.c) (regResult x o.dst n 0 false) fun s _ => s)

/-- Compare-and-swap on n registers: D supplies the expected value and takes the old one (17 R413). -/
def laneCas (i : Instr) (o : LaneOp) (n : Nat) (s : State) : Outcome :=
  let dv := regDst o.dst n
  let u := { memUses o n 1 dv with vs := addrVs o ++ dataVs n o.c ++ dv }
  laneEnter i o u s fun x =>
    let r := rqSquad s x.id x.q
    let expect (l : Nat) : List Word := dv.map fun k => BitVec.ofNat 32 (readV x.q k l)
    let exp (l : Nat) : List Word := if dv.isEmpty then List.replicate n 0 else expect l
    memChecks s x r (4 * n) true
      (longReady s x dv.length fun s =>
        let s := if x.act = 0 then s else escape s x.q.team
        memGo s x r u.vs (memFrees o n) (laneOrder s x r) (fun l => exp l ++ dataWords x.q 1 n o.c l)
          (regResult x o.dst n 0 false) fun s _ => s)

/-- R413: compare-and-swap. -/
def execCas (o : LaneOp) (s : State) : Outcome := laneCas (.cas o) o (o.ty.opW / 32) s

/-- R413: 128-bit compare-and-swap. -/
def execCas2 (o : LaneOp) (s : State) : Outcome := laneCas (.cas2 o) o 4 s

/-- Some access of the squad waits (10 R240). -/
def anyWaiting (s : State) (x : Lx) : Bool := !(waitingAccesses s x.id x.q).isEmpty

/-- R414, R230, R241: a fence; it waits for the squad's parked accesses; kinds 2 and 3 wait for its writes to homes outside too,
and drain its write-combining entries. -/
def execFence (o : LaneOp) (s : State) : Outcome :=
  laneEnter (.fence o) o {} s fun x =>
    if anyWaiting s x then setWait (pcieFlush s (.squad x.id)) x.id .hold
    else if (o.md.extractLsb' 0 2).toNat ≥ 2 then laneRelease s x fun s => finishShort s x [] [] {}
    else finishShort s x [] [] {}

/-- R414, R243, R52: as `fence.ar.sy`; dirty grains of persistent pages are written back and acknowledged. -/
def execPfence (o : LaneOp) (s : State) : Outcome :=
  laneEnter (.pfence o) o {} s fun x =>
    if x.q.arrived then
      if s.pfences.contains (.squad x.id) then setWait s x.id .hold else finishShort s x [] [] {}
    else laneRelease s x fun s =>
      let s := flushPers s
      if anyCxl s then
        modSquad { s with pfences := s.pfences ++ [.squad x.id] } x.id fun q =>
          { q with arrived := true, wait := .hold, held := none }
      else finishShort s x [] [] {}

/-- The reports of lanes; none while a home holds a page. -/
def locLanes (x : Lx) (r : Rq) : List Nat → State → State × Option (List (Nat × Nat))
  | [], s => (s, some [])
  | l :: ls, s =>
    match locQuery s r (laneAddr x.q x.o l).toNat with
    | (s, none) => (s, none)
    | (s, some n) =>
      match locLanes x r ls s with
      | (s, some rest) => (s, some ((l, n) :: rest))
      | r => r

/-- R415: where each lane's address is homed. -/
def execLoc (o : LaneOp) (s : State) : Outcome :=
  let dv := regDst o.dst 1
  let u := memUses o 0 0 dv
  laneEnter (.loc o) o u s fun x =>
    if logFull s x.id x.q then setWait s x.id .hold
    else longReady s x dv.length fun s =>
      match locLanes x (rqSquad s x.id x.q) (lanesOf x.act) s with
      | (s, none) => setWait s x.id .hold
      | (s, some vals) => finishLong s x u.vs (memFrees o 0) (valResult x 32 fun l => ((vals.find? fun p => p.1 == l).elim 0 (·.2)))

end Sys2Proof.Machine
end

