-- ==== Sys2Proof/Machine/LaneLocal.lean ====
section
/-! DEFINITION. Local-store instructions of class 5 (17 R416 to R419, 08 R186 to R195). -/

namespace Sys2Proof.Machine

/-- The local-store address of a lane: bits [31:0] (08 R186). -/
def lsLane (q : Squad) (o : LaneOp) (l : Nat) : Nat := (laneAddr q o l).toNat % 2 ^ 32

/-- Rank and offset of a lane's access of n bytes. -/
def lsAt (s : State) (q : Squad) (o : LaneOp) (n l : Nat) : Option (Nat × Nat) :=
  let t := teamOf s q.team
  lsAddr (lrOf s q.team).lskib t.cores.length (ownRank t q.core) (lsLane q o l) n

/-- Every active lane is checked before any effect; those that break a rule are switched off, and the instruction
proceeds for the others (08 R188), behind an acquire of the squad that waits (10 R229, R239). -/
def lsEnter (s : State) (x : Lx) (u : Uses) (n : Nat) (k : State → Lx → State) : State :=
  acquireGate s x.id x.q fun s =>
    let bad := maskOf fun l => inMask x.act l && (lsAt s x.q x.o n l).isNone
    let s := switchOff s x.id bad
    let x := { x with act := x.act &&& ~~~bad, q := (mget s.squads x.id).getD x.q }
    let ops := awaited s x.id x.q x.o x.act u
    if ops.isEmpty then k s x
    else if (getDie s (x.q.core / 256)).hazard then
      let s' := k s x
      (match trapTaken s s' x.id x.q with
       | some c => if sureCause (awaited s x.id x.q x.o x.act { vs := addrVs x.o, gs := srcGs x.o.a }).isEmpty true c then s'
                   else x.trap s tHazard x.q.em
       | none => x.trap s tHazard x.q.em)
    else setWait s x.id (.landing ops)

def lsPlace (s : State) (x : Lx) (n l : Nat) : Nat × Nat := (lsAt s x.q x.o n l).getD (0, 0)

/-- Bytes of a lane's element access. -/
def lsRead (s : State) (x : Lx) (n l : Nat) : List Byte :=
  let p := lsPlace s x n l
  ((teamOf s x.q.team).seg p.1).read p.2 n

def lsWrite (s : State) (x : Lx) (n : Nat) (bs : List Byte) (l : Nat) : State :=
  let p := lsPlace s x n l
  modSeg s x.q.team p.1 fun g => g.write p.2 bs

/-- Blocks that the active lanes touch, each once: rank and block. -/
def lsBlocks (s : State) (x : Lx) (n : Nat) : List (Nat × Nat) :=
  (lanesOf x.act).foldl (fun bs l =>
    let p := lsPlace s x n l
    let b := (p.1, blockOf p.2)
    if bs.contains b then bs else bs ++ [b]) []

/-- The accesses of the active lanes take their turns at the ports of the blocks (08 R187). -/
def lsTouch (s : State) (x : Lx) (n : Nat) : State :=
  let t := teamOf s x.q.team
  (lsBlocks s x n).foldl (fun s b => lsPort s t b.1 x.q.core x.q.part (x.q.held.getD false) [b.2]) s

/-- Issue a load whose data is there: each active lane's words. -/
def issueWords (s : State) (x : Lx) (u : Uses) (frees : List Nat) (n : Nat) (f : Nat → List Word) : State :=
  let op := s.nextId
  let s := finishLong s x u.vs frees (regResult x x.o.dst n 0 false)
  { s with pops := mmod s.pops op fun p => (lanesOf x.act).foldl (fun p l => putResult x.i p l (f l)) p }

/-- R417: load. -/
def execLds (o : LaneOp) (s : State) : Outcome :=
  let n := vecRegs o
  let dv := regDst o.dst n
  let u := memUses o 0 0 dv
  laneEnter (.lds o) o u s fun x =>
    lsEnter s x u (accessSize o) fun s x =>
      longReady s x dv.length fun s =>
        issueWords (lsTouch s x (accessSize o)) x u (memFrees o 0) n fun l => loadWords o.ty (vecCount o) (lsRead s x (accessSize o) l)

/-- Stores of the active lanes, in an order freely chosen (10 R223). -/
def lsStores (s : State) (x : Lx) : State :=
  let s := lsTouch s x (accessSize x.o)
  (freeOrder 32 (Config.freeChoice s.freeNo) (lanesOf x.act)).foldl (fun s l =>
    lsWrite s x (accessSize x.o) (storeBytes x.o.ty (dataWords x.q (vecCount x.o) (elemRegs x.o.ty) x.o.c l)) l) s

/-- R417: store. -/
def execSts (o : LaneOp) (s : State) : Outcome :=
  let n := vecRegs o
  let u := memUses o n (vecCount o) []
  laneEnter (.sts o) o u s fun x =>
    lsEnter s x u (accessSize o) fun s x =>
      longReady s x 0 fun s => finishLong (lsStores s x) x u.vs (memFrees o n) {}

/-- R417, R193: store, then arm every block touched, once each. -/
def execStsArm (o : LaneOp) (s : State) : Outcome :=
  let n := vecRegs o
  let g := match o.dst with | .g k => k.toNat | _ => 0
  let u := { memUses o n (vecCount o) [] with gs := g :: (srcGs o.a ++ dataGs (vecCount o) o.c) }
  laneEnter (.stsArm o) o u s fun x =>
    let c := (readG x.q g).toNat
    if c > 255 then x.illop s
    else lsEnter s x u (accessSize o) fun s x =>
      longReady s x 0 fun s =>
        let s := lsStores s x
        let s := (lsBlocks s x (accessSize o)).foldl (fun s b => armBlock s x.q.team x.id (clusterOf x.q.core) b.1 b.2 c) s
        finishLong s x u.vs (memFrees o n) {}

/-- The lanes of `atoms`, in ascending order; each takes the value that its own operation replaced. -/
def lsAtoms (x : Lx) (n : Nat) : List Nat → State → State × List (Nat × List Byte)
  | [], s => (s, [])
  | l :: ls, s =>
    let old := lsRead s x n l
    let new := atomBytes (x.o.md.extractLsb' 0 3).toNat x.o.ty (dataWords x.q 1 (n / 4) x.o.c l) old
    let (s, rest) := lsAtoms x n ls (lsWrite s x n new l)
    (s, (l, old) :: rest)

/-- R418: atomic at the owning core's port. -/
def execAtoms (o : LaneOp) (s : State) : Outcome :=
  let n := o.ty.opW / 32
  let dv := regDst o.dst n
  let u := memUses o n 1 dv
  laneEnter (.atoms o) o u s fun x =>
    lsEnter s x u (4 * n) fun s x =>
      longReady s x dv.length fun s =>
        let (s, olds) := lsAtoms x (4 * n) (lanesOf x.act) (lsTouch s x (4 * n))
        issueWords s x u (memFrees o n) n fun l => wordsOf ((olds.find? fun p => p.1 == l).elim [] (·.2)) n

/-- R417, R191, R192: consuming load; a lane on a drained block traps `OVERREAD`; each touched block counts once. -/
def execLdsc (o : LaneOp) (s : State) : Outcome :=
  let n := vecRegs o
  let dv := regDst o.dst n
  let u := memUses o 0 0 dv
  laneEnter (.ldsc o) o u s fun x =>
    lsEnter s x u (accessSize o) fun s x =>
      let s := lsTouch s x (accessSize o)
      let drained := maskOf fun l => inMask x.act l
        && (let p := lsPlace s x (accessSize o) l; ((teamOf s x.q.team).seg p.1).state (blockOf p.2) == .drained)
      if drained ≠ 0 then
        x.trap (modCluster s (clusterOf x.q.core) fun c => { c with clOverRead := c.clOverRead + 1 }) tOverread drained
          (trapVals drained fun l => BitVec.ofNat 64 (lsLane x.q o l))
      else longReady s x dv.length fun s =>
        let vals := (lanesOf x.act).map fun l => (l, loadWords o.ty (vecCount o) (lsRead s x (accessSize o) l))
        let s := (lsBlocks s x (accessSize o)).foldl (fun s b => modSeg s x.q.team b.1 fun g => g.consume b.2) s
        issueWords s x u (memFrees o 0) n fun l => (vals.find? fun p => p.1 == l).elim [] (·.2)

/-- R419: arm a range of blocks; a range that fails its check switches every active lane off. -/
def execLsarm (o : LaneOp) (s : State) : Outcome :=
  let u := usesOf o { a := 64, c := 64 }
  laneEnter (.lsarm o) o u s fun x =>
    let c := srcVal x.q o 0 64 o.c 0
    let n := bitsOf c 8 13
    if c ≥ 2 ^ 21 ∨ n = 0 ∨ n > 4096 then x.illop s
    else acquireGate s x.id x.q fun s => longReady s x 0 fun s =>
      let done (s : State) : State := finishLong s x [] [] {}
      if x.act = 0 then done s
      else
        let t := teamOf s x.q.team
        let addr := lsLane x.q o 0
        match (if addr % 128 = 0 then lsRange (lrOf s x.q.team).lskib t.cores.length (ownRank t x.q.core) addr (128 * n)
               else none) with
        | none => done (switchOff s x.id x.act)
        | some (r, off) =>
          let s := lsPort s t r x.q.core x.q.part (x.q.held.getD false) ((List.range n).map (blockOf off + ·))
          done ((List.range n).foldl (fun s k => armBlock s x.q.team x.id (clusterOf x.q.core) r (blockOf off + k) (c % 256)) s)

/-- R419: state and count of the block that holds each lane's address. -/
def execLsstat (o : LaneOp) (s : State) : Outcome :=
  let dv := regDst o.dst 1
  let u := memUses o 0 0 dv
  laneEnter (.lsstat o) o u s fun x =>
    lsEnter s x u 1 fun s x =>
      longReady s x dv.length fun s =>
        finishLong (lsTouch s x 1) x u.vs (memFrees o 0) (valResult x 32 fun l =>
          let p := lsPlace s x 1 l
          (((teamOf s x.q.team).seg p.1).state (blockOf p.2)).code)

end Sys2Proof.Machine
end

