-- ==== Sys2Proof/Machine/Service.lean ====
section
/-! DEFINITION. The service processor: the entries that it takes (05 R114, R115, R118), its commands (R115 to R119, R127,
R129, 01 R20, 06 R139), and its recovery (R121 to R123). A command is performed at one moment; one that cannot be
performed at that moment stays in its queue. -/

namespace Sys2Proof.Machine

/-! ### The service-queue map (R114, R117) -/

def svqMask (s : State) (slot : Nat) : Nat := ccb s slot 0x30 8

/-- Slot and queue number of a service queue, from the blocks of the live contexts. -/
def svqOf (s : State) (q : Nat) : Option (Nat × Nat) :=
  ((List.range 64).find? fun k => ctxLive s k && bitOf (svqMask s k) q).bind fun k =>
    let n := ccb s k (0x800 + 2 * q) 2
    if n = 0xFFFF then none else some (k, n)

def rebuildSvq (s : State) : State :=
  { s with svqMap := (List.range 64).filterMap fun q => (svqOf s q).map fun x => (q, x) }

/-! ### Taking entries (R114, R115, R118, R130) -/

/-- An entry that the SVP has taken. -/
structure Cmd where
  c : HostCmd
  e : List Byte
  deriving DecidableEq, Repr

def cmdOpc (e : List Byte) : Nat := fieldOf e 0 2

/-- The context that an entry of the management ring is for. -/
def mgmtContext (e : List Byte) : Option Nat :=
  let k := fieldOf e 8 2
  if [1, 2, 3, 6, 8, 9].contains (cmdOpc e) ∧ k < 64 then some k else none

/-- The head of the management ring, while no earlier entry is in progress. -/
def mgmtPeek (s : State) : Option (List Byte) :=
  let d := s.dev
  if d.mgmtTail = d.mgmtHead then none
  else some ((List.range 64).map fun i => mgetD d.mgmtRing (64 * (d.mgmtHead.toNat % 16) + i) 0)

/-- A thread without an entry waits. -/
def svpSleep (s : State) (q : Nat) : State := { s with svcAwake := s.svcAwake &&& ~~~(BitVec.ofNat 64 (2 ^ q)) }

/-- A free journal slot (R113, R115). -/
def journalSlot (s : State) (slot : Nat) : Option Nat :=
  (List.range 28).find? fun j =>
    (memReadN s.mem (journalAt s slot j) 64).all (· == 0)
    && s.dpush.all fun p => p.journal != some (slot, j)

/-- A log entry of a service entry. -/
def isService (bs : List Byte) : Bool := fieldOf bs 0 1 == 1 && (decide (fieldOf bs 1 1 < 64) || fieldOf bs 1 1 == 0xFF)

/-- What a replay gives: the next logged entry, if there is one. -/
def replayNext (s : State) (slot : Nat) : LogAns := if recPlay (recCtl s slot) then logFind s slot isService else .nothing

/-- The service entry that a log entry holds. -/
def loggedEntry (bs : List Byte) : List Byte := (bs.drop 2).take 2 ++ zeros 2 ++ bs.drop 4

/-- A replayed entry is consumed. -/
def replayed (s : State) (slot c : Nat) : State := { s with replay := mset s.replay (65536 * slot + c) 1 }

/-- The command of a management entry, which is in progress from now on. -/
def mgmtTaken (s : State) (log : Bool) (e : List Byte) : State × Option Cmd :=
  ({ s with dev := { s.dev with mgmtBusy := true, mgmtLog := log, mgmtEntry := if log then e else [] } }, some ⟨⟨.mgmt, 0, 0, BitVec.ofNat 32 (fieldOf e 4 4), cmdOpc e⟩, e⟩)

/-- Take the management entry of a step: that of the ring, logged for its context, or, with `own`, the next one of the log
that the context `slot` replays (R129, R130; log entry 52). -/
def mgmtTake (s : State) (p : List Byte → Bool) : State × Option Cmd :=
  if s.dev.mgmtBusy ∨ s.dev.mgmtResp.isSome then (s, none)
  else if s.arg.own then
    let k := s.arg.slot.toNat
    match if ctxLive s k then replayNext s k else .nothing with
    | .found c bs => if fieldOf bs 1 1 = 0xFF ∧ p (loggedEntry bs) then mgmtTaken (replayed s k c) true (loggedEntry bs) else (s, none)
    | _ => (s, none)
  else match mgmtPeek s with
  | none => (s, none)
  | some e =>
    if p e = false then (s, none)
    else
      let logged := match (mgmtContext e).filter (ctxLive s) with
        | some k => logService s k 0xFF e
        | none => some s
      match logged with
      | some s1 => mgmtTaken s1 false e
      | none => (s, none)

/-- Log and journal an entry of a context's service queue, popped by `pop`; none while the log has no room. -/
def svqTaken (s : State) (q slot j : Nat) (e : List Byte) (pop : State → State) : State × Option Cmd :=
  match logService s slot q e with
  | none => (s, none)
  | some s1 =>
    let s2 := pop s1
    ({ s2 with mem := memWriteN s2.mem (journalAt s2 slot j) e },
     some ⟨⟨.svq (BitVec.ofNat 6 q), slot, j, BitVec.ofNat 32 (fieldOf e 4 4), cmdOpc e⟩, e⟩)

/-- Move a queue's head past the entry that was read. -/
def popHead (s : State) (slot n : Nat) : State :=
  let asid := ctxAsid s slot
  match qLoad s 0 slot asid n (fun b => qBind b != 1) qHead accLoad with
  | (s, .inr o) => qWrite s o.qt asid (qcbVa s slot n) (qSet o.q 8 2 (qHead o.q + 1))
  | _ => s

/-- A thread of the SVP that is awake takes an entry of its queue; a logged entry that is to be replayed wakes it (R114, R130).
What the queue's block or ring meets besides a hold is ignored, and counts in `SVCERR` (R106; log entry 97). -/
def svqTake (s : State) (q : Nat) (p : List Byte → Bool) : State × Option Cmd :=
  let logged (slot : Nat) : Bool := match replayNext s slot with | .found _ bs => fieldOf bs 1 1 == q | _ => false
  if s.dpush.any fun x => x.thread == some q then (s, none)
  else match mget s.svqMap q with
  | none => (svpSleep s q, none)
  | some (slot, n) =>
    if s.svcAwake.getLsbD q = false ∧ logged slot = false then (s, none)
    else match journalSlot s slot with
    | none => (s, none)
    | some j =>
      let asid := ctxAsid s slot
      match replayNext s slot with
      | .held => (s, none)
      | .found c bs =>
        if fieldOf bs 1 1 = q ∧ p (loggedEntry bs) then svqTaken (replayed s slot c) q slot j (loggedEntry bs) id else (s, none)
      | .nothing =>
        match qLoad s 0 slot asid n (fun b => !qBad slot n b && qBind b != 1) qHead accLoad with
        | (_, .inl .held) => (s, none)
        | (_, .inl (.trap code _)) => (svpSleep (if code = tPriv then s else svcErr s) q, none)
        | (_, .inl _) => (svpSleep (svcErr s) q, none)
        | (s1, .inr o) =>
          if qTail o.q = qHead o.q then (svpSleep s q, none)
          else
            let (s1, e) := qRead s1 o.rt asid (slotVa o.q (qHead o.q))
            if p e then svqTaken s1 q slot j e (fun s => popHead s slot n) else (s, none)

/-- Take the entry that a step is about. -/
def cmdTake (s : State) (p : List Byte → Bool) : State × Option Cmd :=
  if s.dev.ready = false ∨ s.svpFrozen then (s, none)
  else match s.arg.src with
  | .mgmt => mgmtTake s p
  | .svq q => svqTake s q.toNat p

/-! ### Performing entries (R115, R116, R118, R128) -/

def opcKnown (o : Nat) : Bool := decide (1 ≤ o) && decide (o ≤ 9)

/-- The step of a command takes its own entries and those that no step knows. -/
def cmdIs (opc : Nat) (e : List Byte) : Bool := cmdOpc e == opc || !opcKnown (cmdOpc e)

/-- A selector of `CTXCFG`; an unknown one is answered by any of its steps. -/
def cfgIs (sel : Nat) (e : List Byte) : Bool :=
  cmdIs 9 e && (cmdOpc e != 9 || fieldOf e 10 1 == sel || decide (2 < fieldOf e 10 1))

/-- Entries of a service queue that the path does not accept (R118). -/
def pathRefused (x : Cmd) : Bool :=
  match x.c.src with
  | .mgmt => false
  | .svq _ => !([1, 6, 8].contains (cmdOpc x.e)) || fieldOf x.e 8 2 != x.c.slot

/-- Bytes outside the named ranges, offset and length, are zero; so are the flags. -/
def onlyNamed (e : List Byte) (named : List (Nat × Nat)) : Bool :=
  (List.range 64).all fun i =>
    e.getD i 0 == 0 || ((0, 2) :: (4, 4) :: named).any fun r => decide (r.1 ≤ i) && decide (i < r.1 + r.2)

/-- What a command that must wait has done: a `CTXNEW` has begun to flush its ASID (02 R38). -/
def waitCmd (s : State) (x : Cmd) : State :=
  if x.c.opc = 2 then flushAsid s (BitVec.ofNat 16 (fieldOf x.e 10 2)) else s

/-- Perform a command. In Winter every command is refused (R124); the body answers none when it must wait. -/
def runCmd (s : State) (p : List Byte → Bool) (named : List (Nat × Nat)) (body : State → Cmd → Option State) : Outcome :=
  .next (match cmdTake s p with
  | (s1, none) => s1
  | (s1, some x) =>
    if opcKnown x.c.opc = false then respond s1 x.c 2 []
    else if s.dev.lc = 3 ∨ pathRefused x then respond s1 x.c 1 []
    else if onlyNamed x.e named = false then respond s1 x.c 2 []
    else (body s1 x).getD (waitCmd s x))

def cmdSlot (x : Cmd) : Nat := fieldOf x.e 8 2

/-- A body that needs a live context. -/
def liveBody (f : State → Cmd → Nat → Option State) (s : State) (x : Cmd) : Option State :=
  let k := cmdSlot x
  if k > 63 then some (respond s x.c 2 []) else if ctxLive s k = false then some (respond s x.c 1 []) else f s x k

/-- The launch of a command is pushed onto queue 0 of its context. -/
def launchPush (s : State) (x : Cmd) (k : Nat) : State :=
  { s with
    nextId := s.nextId + 1
    dpush := s.dpush ++ [{ id := s.nextId, slot := k, q := 0, launch := some x.c
                           entry := launchEntry (fieldOf x.e 16 8) (fieldOf x.e 24 8) (2 ^ 64 - 1) 0
                           thread := match x.c.src with | .svq q => some q.toNat | .mgmt => none }] }

/-- R119: check the record and push the launch; the response follows the end of the grid. -/
def launchBody (s : State) (x : Cmd) (k : Nat) : Option State :=
  let lrec := fieldOf x.e 16 8
  if ccb s k 0x28 4 = 0 then some (respond s x.c 1 [])
  else if lrHeld s k lrec then none
  else match lrRead s k lrec with
  | (s, none) => some (respond s x.c 2 [])
  | (s, some d) =>
    if lrMalformed s k d then some (respond s x.c 2 [])
    else some (launchPush s x k)

def execLaunchCommand (s : State) : Outcome := runCmd s (cmdIs 1) [(8, 2), (16, 16)] (liveBody launchBody)

/-! ### Contexts (R116, R117, 13 R308) -/

/-- Fields of `CTXNEW` that are out of range. -/
def ctxBad (e : List Byte) : Bool :=
  decide (63 < fieldOf e 8 2) || decide (2 ^ 20 ≤ fieldOf e 12 4) || fieldOf e 32 8 % 65536 != 0
  || decide (2 ^ 56 ≤ fieldOf e 32 8) || decide (63 < fieldOf e 40 2) || decide (3 < fieldOf e 42 2) || fieldOf e 46 2 != 0
  || fieldOf e 48 8 % 65536 != 0 || decide (2 ^ 56 ≤ fieldOf e 48 8) || fieldOf e 56 8 % 65536 != 0
  || decide (2 ^ 56 ≤ fieldOf e 56 8)

/-- The block of a new context, up to its service-queue map. -/
def ctxBlock (e : List Byte) : List Byte :=
  bytesOf 2 1 ++ e.extract 10 12 ++ zeros 4 ++ e.extract 16 32 ++ bytesOf 8 (fieldOf e 12 4) ++ e.extract 32 40 ++ zeros 16
  ++ e.extract 48 56 ++ zeros 8 ++ e.extract 40 48 ++ zeros 8 ++ e.extract 56 64 ++ zeros (0x800 - 0x60)
  ++ List.replicate 128 0xFF

/-- The header of a save area (13 R308): at least 20 blocks per core of the placement set and one per cluster (R309);
how many more, and how many team headers, the spec leaves to service software (log entry 45). -/
def newSaveHeader (s : State) (set : Nat) : List Byte :=
  let cores := (getSet s set).cores
  let least := 20 * cores.length + (rising (cores.map clusterOf)).length
  let blocks := Nat.max least 1 + Config.freeChoice s.freeNo % 2 ^ 32
  let hdrs := Config.freeChoice s.draw.freeNo % (1023 * blocks)
  let used := (64 + 64 * hdrs + 65535) / 65536
  bytesOf 8 (65536 * blocks) ++ bytesOf 4 hdrs ++ bytesOf 4 (blocks - used) ++ zeros 48

/-- R115, R116: a free slot becomes a live context with a flushed ASID: no cache, and not the host, holds a line of it
(02 R38). While the page of its save area is held it waits; a header that cannot be written is answered with status 2, and
no context is made (log entry 96). -/
def ctxnewBody (s : State) (x : Cmd) : Option State :=
  let e := x.e
  let k := cmdSlot x
  let asid : Half := BitVec.ofNat 16 (fieldOf e 10 2)
  if ctxBad e then some (respond s x.c 2 [])
  else if ctxState s k ≠ 0 ∨ ((List.range 64).any fun j => ctxLive s j && ctxAsid s j == asid) then some (respond s x.c 1 [])
  else
    let s1 := flushAsid s asid
    if s1.grains.any fun g => g.asid == asid then none else
    let s1 := { s1.draw.draw with
      mem := memWriteN s1.mem (ccbAt s1 k) (ctxBlock e)
      ctxBlocks := mdel s1.ctxBlocks k
      clusters := s1.clusters.map fun c => (c.1, { c.2 with common := c.2.common.filter fun h => h.1 / 64 != k }) }
    let r := rqDevice s1 0 k
    let va := fieldOf e 48 8
    match peekHome s1 r va with
    | some h =>
      if h ≥ 8 then some (respond s x.c 2 [])
      else match storeRange s1 r va (newSaveHeader s (fieldOf e 40 2)) with
        | (s1, .done) => some (respond (rebuildSvq s1) x.c 0 [])
        | (_, .held) => none
        | _ => some (respond s x.c 2 [])
    | none => some (respond s x.c 2 [])

def execCtxnew (s : State) : Outcome := runCmd s (cmdIs 2) [(8, 56)] ctxnewBody

/-- The exit record of a team that a `CTXFREE` kills (06 R142, R145). One that is held, faults or is homed outside is a request of
the device, and its grid completes after it. -/
def killRecord (s : State) (g : Grid) (t : Team) : State :=
  if g.lr.exitrec = 0 then s
  else
    let r := rqDevice s (t.cores.getD 0 0 / 256) g.slot
    let va := g.lr.exitrec.toNat + 64 * t.index
    let bs := exitRecord s { t with ended := some (2, 0) }
    match storeRange s r va bs with
    | (s, .done) => s
    | (s1, .poison) => svcErr s1
    | (s1, a) =>
      parkAcc (if a = .held then keepSaid s s1 else s1)
        { id := 0, who := .killRec, kind := .write bs, asid := r.asid, va := BitVec.ofNat 64 va, st := .sent, die := r.die, slot := g.slot,
          acc := accStore } a

/-- Retire one team with status 2 (06 R142). -/
def killTeam (s : State) (id : Nat) : State :=
  let s := transit s id 10
  let s := if (teamOf s id).state = .exited then s else teamEnd s id 2 0
  let t := teamOf s id
  let s := killRecord s (gridOf s t) t
  modTeam s id fun t => { t with state := .retired, ended := some (2, 0) }

/-- The grids of a context end: their teams that were never placed retire too. -/
def killGrid (s : State) (id : Nat) : State :=
  match mget s.grids id with
  | none => s
  | some g =>
    if g.complete then s
    else
      let rest := (List.range (g.count - g.next)).map fun i => g.next + i
      rest.foldl (fun s i => killRecord s g { grid := id, index := i }) s

/-- Commands whose launch has not become a grid are answered with status 2: nothing was launched (log entry 96). -/
def dropLaunches (s : State) (slot : Nat) : State :=
  let waiting := (s.dpush.filter fun p => p.slot == slot).filterMap (·.launch)
  let queued := (s.launchers.filter fun x => x.1 / 65536 == slot).filterMap fun x => match x.2 with | .host c => some c | .team _ => none
  let s := { s with
    dpush := s.dpush.filter fun p => !(p.slot == slot && p.launch.isSome)
    launchers := s.launchers.filter fun x => x.1 / 65536 != slot }
  (waiting ++ queued).foldl (fun s c => respond s c 2 []) s

/-- What a context's teams and queues have outstanding is gone; the pushes of the device and the SVP are not, nor fault records that
wait to be posted (R111), nor exit records (06 R145). -/
def dropContext (s : State) (slot : Nat) : State :=
  let asid := ctxAsid s slot
  let s := killCopies s fun c => c.slot == slot
  let team (t : Nat) : Bool := slotOf s t == slot
  let squad (id : Nat) : Bool := match squadAny s id with | some q => team q.team | none => false
  let agent (a : Agent) : Bool := match a with | .squad id => squad id | .spine t => team t | .none => false
  let left (r : Req) : Option Req := if r.slot != slot || r.who == .killRec then some r else r.leave
  { s with
    mops := s.mops.filter fun m => !squad m.squad
    pops := s.pops.filter fun p => !squad p.2.squad
    pfences := s.pfences.filter fun a => !agent a
    wc := s.wc.filter fun e => e.asid != asid
    creds := s.creds.filter fun c => c.slot != slot
    rgroups := s.rgroups.filter fun g => g.slot != slot
    reqs := s.reqs.filterMap left
    dies := s.dies.map fun d => (d.1, { d.2 with pft := d.2.pft.filter fun p => p.slot != slot })
    replay := s.replay.filter fun x => x.1 / 65536 != slot
    clusters := s.clusters.map fun c => (c.1, { c.2 with pfx := c.2.pfx.filter fun p => p.2.slot != slot })
    psets := s.psets.map fun p => (p.1, { p.2 with
      owner := if p.2.owner = some slot then none else p.2.owner
      swap := if p.2.owner = some slot ∨ (p.2.swap.map (·.1)) = some slot then none else p.2.swap })
    squads := s.squads.filter fun x => !team x.2.team
    away := s.away.filter fun x => !team x.2.team
    spines := s.spines.filter fun x => !team x.1
    ctxBlocks := mdel s.ctxBlocks slot }

/-- A context closes: its teams retire with status 2. -/
def ctxClose (s : State) (slot : Nat) (c : Option HostCmd) : State :=
  let asid := ctxAsid s slot
  let s := wcDrain s fun e => e.asid == asid
  let grids := s.grids.filter fun x => x.2.slot == slot && !x.2.complete
  let placed := (s.teams.filter fun x => (gridOf s x.2).slot == slot && x.2.state != .retired).map (·.1)
  let unplaced := grids.foldl (fun n x => n + (x.2.count - x.2.next)) 0
  let s := dropLaunches s slot
  let s := placed.foldl killTeam s
  let s := (grids.map (·.1)).foldl killGrid s
  let s := dropContext s slot
  rebuildSvq { s with
    closing := mset s.closing slot (placed.length + unplaced, c)
    mem := memWriteN s.mem (ccbAt s slot) (bytesOf 2 2 ++ bytesOf 2 asid.toNat) }

/-- Exit records of a context's teams, or fault records of its accesses, are still to be written. -/
def recordsWait (s : State) (slot : Nat) : Bool :=
  s.reqs.any fun r => r.slot == slot && (r.who == .killRec || match r.st with | .faulted _ => true | _ => false)

/-- The grids of a closing context complete: completion entries and responses follow (06 R146). -/
def closeGrids (s : State) (slot : Nat) : State :=
  (s.grids.filter fun g => g.2.slot == slot && !g.2.complete).foldl (fun s g => gridEnd s g.1 (if g.2.lost = 0 then 0 else 3)) s

/-- A closing context is free once its last records, completion entries and responses stand where they belong (R111, R115). -/
def closeTest (s : State) (x : Nat × Nat × Option HostCmd) : State :=
  let slot := x.1
  if s.svpFrozen ∨ recordsWait s slot then s else
  let s := closeGrids s slot
  if s.dpush.any (·.slot == slot) ∨ s.resvs.any (·.slot == slot) ∨ s.grids.any (fun g => g.2.slot == slot && !g.2.gone) then s
  else
    let s := { s with
      closing := mdel s.closing slot
      mem := memWriteN s.mem (ccbAt s slot) (zeros 8)
      msixHead := s.msixHead.filter fun x => x.1 / 1024 != slot
      reqs := s.reqs.filter fun r => r.slot != slot
      dies := s.dies.map fun d => (d.1, { d.2 with pft := d.2.pft.filter fun p => p.slot != slot })
      teams := s.teams.filter fun t => (gridOf s t.2).slot != slot
      grids := s.grids.filter fun g => g.2.slot != slot }
    match x.2.2 with
    | some c => respond s c 0 (bytesOf 8 x.2.1)
    | none => s

def settleClosing (s : State) : State := s.closing.foldl closeTest s

/-- R115, R116: the response follows when the context is free. -/
def execCtxfree (s : State) : Outcome :=
  runCmd s (cmdIs 3) [(8, 2)] (liveBody fun s x k => some (ctxClose s k (some x.c)))

/-- R115: a function-level reset of a VF frees its slot; it is no device reset. It waits while the SVP is frozen (R122). -/
def execVfFunctionLevelReset (s : State) : Outcome :=
  .next (let k := s.arg.fn.toNat
         if k = 0 ∨ ctxLive s k = false ∨ s.svpFrozen then s else ctxClose s k none)

/-- Write fields of a context's block. -/
def ccbPut (s : State) (slot off : Nat) (bs : List Byte) : State := { s with mem := memWriteN s.mem (ccbAt s slot + off) bs }

/-- An unknown selector, else the body. -/
def cfgBody (f : State → Cmd → Nat → Option State) : State → Cmd → Option State :=
  liveBody fun s x k => if fieldOf x.e 10 1 > 2 then some (respond s x.c 2 []) else f s x k

/-- R117, selector 0. -/
def cfgQueues (s : State) (x : Cmd) (k : Nat) : Option State :=
  let fq := fieldOf x.e 24 4
  let cq := fieldOf x.e 28 4
  let m := fieldOf x.e 32 8
  let taken := (List.range 64).any fun j => j != k && ctxLive s j && (List.range 64).any fun q => bitOf m q && bitOf (svqMask s j) q
  if fq = 0 ∨ fq > 1023 ∨ cq = 0 ∨ cq > 1023 ∨ fq = cq then some (respond s x.c 2 [])
  else if taken then some (respond s x.c 1 [])
  else
    let s := ccbPut s k 0x40 (x.e.extract 16 24)
    let s := ccbPut s k 0x28 (x.e.extract 24 40)
    some (respond (rebuildSvq s) x.c 0 [])

def execCtxcfgQueues (s : State) : Outcome := runCmd s (cfgIs 0) [(8, 3), (16, 24)] (cfgBody cfgQueues)

/-- R117, selector 1. -/
def cfgPeers (s : State) (x : Cmd) (k : Nat) : Option State :=
  let i := fieldOf x.e 12 1
  let c := fieldOf x.e 13 1
  if c = 0 ∨ c > 5 ∨ i + c > 16 ∨ (x.e.drop (16 + 8 * c)).any (· != 0) then some (respond s x.c 2 [])
  else some (respond (ccbPut s k (0x80 + 8 * i) (x.e.extract 16 (16 + 8 * c))) x.c 0 [])

def execCtxcfgPeers (s : State) : Outcome := runCmd s (cfgIs 1) [(8, 3), (12, 2), (16, 40)] (cfgBody cfgPeers)

/-- R117, selector 2. -/
def cfgSvqmap (s : State) (x : Cmd) (k : Nat) : Option State :=
  let q := fieldOf x.e 12 1
  let n := fieldOf x.e 16 2
  if q > 63 ∨ bitOf (svqMask s k) q = false ∨ !((decide (1 ≤ n) && decide (n ≤ 1023)) || n == 0xFFFF) then some (respond s x.c 2 [])
  else some (respond (rebuildSvq (ccbPut s k (0x800 + 2 * q) (bytesOf 2 n))) x.c 0 [])

def execCtxcfgSvqmap (s : State) : Outcome := runCmd s (cfgIs 2) [(8, 3), (12, 1), (16, 2)] (cfgBody cfgSvqmap)

/-! ### Placement sets, power, heat (06 R139, 01 R20, 03 R78) -/

/-- The set is in use by a live context. -/
def setInUse (s : State) (k : Nat) : Bool :=
  match mget s.psets k with
  | none => false
  | some p =>
    !p.cores.isEmpty && (match p.bullpen with
      | some c => ctxLive s c
      | none => (List.range 64).any fun c => ctxLive s c && ccb s c 0x48 2 == k)

/-- Cores of a 256-byte bitmap in ascending order. -/
def bitmapCores (bs : List Byte) : List Nat :=
  (List.range 2048).filter fun c => (bs.getD (c / 8) 0).getLsbD (c % 8)

/-- R139: configure a placement set or a bullpen. The bitmap is read in the context of bytes 12 and 13 (log entry 46). -/
def placeBody (s : State) (x : Cmd) : Option State :=
  let k := fieldOf x.e 8 2
  let fl := fieldOf x.e 10 1
  let ctx := fieldOf x.e 12 2
  if k > 63 ∨ fl > 1 ∨ ctx > 63 then some (respond s x.c 2 [])
  else if ctxLive s ctx = false then some (respond s x.c 1 [])
  else match loadRange s (rqDevice s 0 ctx) accLoad (fieldOf x.e 16 8) 256 with
  | (_, .held, _) => none
  | (s, .done, bs) =>
    let cores := bitmapCores bs
    let others := s.psets.filter fun p => p.1 != k
    let meets (p : Nat × PSet) : Bool := p.2.cores.any cores.contains
    let clash := others.any fun p => meets p && (fl == 1 || p.2.bullpen.isSome || p.2.cores != cores)
    let p : PSet := { cores := cores, bullpen := if fl = 1 then some ctx else none }
    let same := match mget s.psets k with
      | some old => old.cores == p.cores && old.bullpen == p.bullpen
      | none => false
    if same then some (respond s x.c 0 [])
    else if clash ∨ setInUse s k then some (respond s x.c 1 [])
    else some (respond { s with psets := mset s.psets k p } x.c 0 [])
  | (s, _, _) => some (respond s x.c 2 [])

def execPlace (s : State) : Outcome := runCmd s (cmdIs 4) [(8, 3), (12, 2), (16, 8)] placeBody

/-- R20: the package power limit. A limit that it does not allow is refused: status 1 (log entry 85). -/
def execPwrlimit (s : State) : Outcome :=
  runCmd s (cmdIs 5) [(8, 4)] fun s x =>
    let w := fieldOf x.e 8 4
    if w < 2000 ∨ w > 5400 ∨ w % 50 ≠ 0 then some (respond s x.c 1 (bytesOf 4 s.pwrLimit))
    else some (respond { s with pwrLimit := w } x.c 0 (bytesOf 4 w))

/-- A frame's heat after the shift of 03 R78. -/
def frameHeat (s : State) (d : Die) (w i : Nat) : Nat :=
  let old := rdNat s.mem ((d.heatstmp.getD w 0).toNat + 4 * (i / 64)) 4
  let k := Nat.min ((heatEpoch s d + 2 ^ 32 - old) % 2 ^ 32) 8
  (memRead s.mem ((d.heatbase.getD w 0).toNat + i)).toNat / 2 ^ k

/-- The frame that comes first under an order; of equals, a free choice. -/
def pickFrame (choice : Nat) (first : Nat → Nat → Bool) (l : List (Nat × Nat)) : Option (Nat × Nat) :=
  let best := l.filter fun x => l.all fun y => !first y.2 x.2
  if best.isEmpty then none else best[choice % best.length]?

/-- The n frames that come first. -/
def pickFrames (no : Nat) (first : Nat → Nat → Bool) : Nat → List (Nat × Nat) → List (Nat × Nat)
  | 0, _ => []
  | n + 1, l =>
    match pickFrame (Config.freeChoice (no + n)) first l with
    | none => []
    | some x => x :: pickFrames no first n (l.filter fun y => y.1 != x.1)

/-- The entries of a result; of a window with fewer frames the rest is zero (log entry 98). -/
def frameBytes (l : List (Nat × Nat)) (n : Nat) : List Byte :=
  let bs := (l.map fun x => bytesOf 4 x.1 ++ bytesOf 1 x.2 ++ zeros 3).flatten
  bs ++ zeros (8 * n - bs.length)

/-- R116: the hottest and the coolest frames of a heat window. -/
def execHeatscan (s : State) : Outcome :=
  runCmd s (cmdIs 7) [(8, 3)] fun s x =>
    let die := fieldOf x.e 8 1
    let w := fieldOf x.e 9 1
    let n := fieldOf x.e 10 1
    if die > 7 ∨ w > 1 ∨ n = 0 ∨ n > 3 then some (respond s x.c 2 [])
    else
      let d := getDie s die
      let l := (List.range ((heatHi d w - heatLo d w) / 65536)).map fun i => (i, frameHeat s d w i)
      let hot := pickFrames s.freeNo (fun a b => decide (b < a)) n l
      let cool := pickFrames (s.freeNo + 3) (fun a b => decide (a < b)) n l
      some (respond { s with freeNo := s.freeNo + 6 } x.c 0 (frameBytes hot 3 ++ frameBytes cool 3))

/-! ### Attestation and recording (R127, R129) -/

/-- Bytes of a measurement and of signatures of the running firmware (log entry 14). -/
def reportBytes (s : State) (nonce : List Byte) : List Byte :=
  (List.range 48).map (Config.signature s.dev.firmware)
  ++ bytesOf 1 s.dev.lc.toNat ++ zeros 3 ++ bytesOf 4 s.dev.rcvCount.toNat ++ nonce
  ++ (List.range 3373).map fun i => Config.signature s.freeNo (48 + i)

/-- R127: write the report. -/
def execAttest (s : State) : Outcome :=
  runCmd s (cmdIs 6) [(8, 2), (16, 40)] (liveBody fun s x k =>
    let va := fieldOf x.e 48 8
    if va % 64 ≠ 0 then some (respond s x.c 2 [])
    else some (reportWrite s x.c k (BitVec.ofNat 64 va) (reportBytes s (x.e.extract 16 48))))

/-- R129: write `RECCTL`. -/
def execRecord (s : State) : Outcome :=
  runCmd s (cmdIs 8) [(8, 2), (12, 4)] (liveBody fun s x k =>
    let rc := fieldOf x.e 12 4
    if bitsOf rc 2 14 ≠ 0 ∨ recQueue rc > 1023 ∨ (recRec rc && recPlay rc) then some (respond s x.c 2 [])
    else
      let s := ccbPut s k 0x50 (bytesOf 8 rc)
      some (respond { s with replay := s.replay.filter fun r => r.1 / 65536 != k } x.c 0 []))

/-! ### Recovery (R121 to R123) -/

/-- A recovery starts, or an error during one resets the device. -/
def recoverStart (s : State) (why : Nat) : State :=
  if s.dev.rcvact then deviceReset s 5
  else
    { s with
      svpFrozen := true
      dev := { s.dev with
        rcvact := true, rcvWalked := false, rcvLast := BitVec.ofNat 4 why, wdtStart := s.timeNs.toNat
        rcvCount := if s.dev.rcvCount = 0xFFFF then s.dev.rcvCount else s.dev.rcvCount + 1 } }

/-- R121: the SVP has not restarted the watchdog within its period. -/
def execSvpWatchdogExpiry (s : State) : Outcome :=
  .next (
    if s.dev.ready ∧ s.dev.wdtStart + 1000000 * s.dev.svpwdt.toNat ≤ s.timeNs.toNat then recoverStart s 1 else s)

/-- R121: an error strikes the SVP's own state: a mismatch between its copies (`ok`), or an uncorrectable error. -/
def execSvpStateError (s : State) : Outcome := .next (recoverStart s (if s.arg.ok then 3 else 2))

/-- R123. -/
def execRcvLockstepMismatch (s : State) : Outcome := .next (deviceReset s 5)

/-- Queues that the walk checks in a context. -/
def rcvQueues (s : State) (slot : Nat) : List Nat :=
  let svqs := (List.range 64).filterMap fun q =>
    let n := ccb s slot (0x800 + 2 * q) 2
    if bitOf (svqMask s slot) q ∧ n ≤ 1023 then some n else none
  rising ([0, ccb s slot 0x28 4, ccb s slot 0x2C 4] ++ svqs)

/-- The entry of a command that is in progress: in the management ring, or as it was replayed, or in its journal slot. -/
def cmdEntry (s : State) (c : HostCmd) : List Byte :=
  match c.src with
  | .mgmt => if s.dev.mgmtLog then s.dev.mgmtEntry else (mgmtPeek s).getD (zeros 64)
  | .svq _ => memReadN s.mem (journalAt s c.slot c.jslot) 64

/-- A `LAUNCH` is performed again from its start (R122); while its record is held, its push waits. -/
def relaunch (s : State) (c : HostCmd) : State :=
  let x : Cmd := ⟨c, cmdEntry s c⟩
  (liveBody launchBody s x).getD (launchPush s x (cmdSlot x))

/-- The RCV's walk does not wait for a page that the SVP, which is stopped, holds (log entry 47). -/
def freeHeld (s : State) : State := { s with dies := s.dies.map fun d => (d.1, { d.2 with held := [] }) }
def putHeld (s0 s : State) : State := { s with dies := s.dies.map fun d => (d.1, { d.2 with held := (getDie s0 d.1).held }) }

/-- A malformed block is reset to empty, and a response of status 2 is pushed for it; the counter value and the response's
tag and opcode are open (log entry 47). Launches that stood in queue 0 and no distributor had taken are replayed. -/
def rcvCheck (s : State) (slot n : Nat) : State :=
  let asid := ctxAsid s slot
  let va := qcbVa s slot n
  match qOpen (freeHeld s) 0 slot asid va accStore with
  | (s1, .ok t) =>
    let (s1, q) := qRead (putHeld s s1) t asid va
    if qBad slot n q then
      let c := (Config.free64 s1.freeNo 0).toNat
      let s1 := qWrite s1.draw t asid va (qSet (qSet (qSet q 8 2 c) 10 2 c) 12 2 c)
      let tag := (Config.free64 s1.freeNo 0).toNat
      let s1 := devicePush (svcErr s1.draw) slot (ccb s slot 0x2C 4) (responseBytes tag (tag / 2 ^ 32) 2 [])
      if n = 0 then
        let mine (x : Nat × Launcher) : Bool := x.1 / 65536 == slot
        let lost := (s1.launchers.filter mine).filterMap fun x => match x.2 with | .host c => some c | .team _ => none
        lost.foldl relaunch { s1 with launchers := s1.launchers.filter fun x => !mine x }
      else s1
    else s
  | _ => s

/-- R122: the walk and the rebuilding. A journal entry whose command is under way is performed again from its start, with
the same outcome (log entry 48). -/
def execRecovery (s : State) : Outcome :=
  .next (
    if s.dev.rcvact = false ∨ s.dev.rcvWalked then s
    else
      let slots := (List.range 64).filter fun k => ctxState s k != 0
      let s := slots.foldl (fun s k => (rcvQueues s k).foldl (fun s n => rcvCheck s k n) s) s
      rebuildSvq { s with dev := { s.dev with rcvWalked := true } })

/-- R122: the SVP's threads restart and scan their queues, and the distributors resume. -/
def execRecoveryRestart (s : State) : Outcome :=
  .next (
    if s.dev.rcvact ∧ s.dev.rcvWalked then
      mgmtFlush { s with svpFrozen := false, svcAwake := 0xFFFFFFFFFFFFFFFF
                         dev := { s.dev with rcvact := false, rcvWalked := false, wdtStart := s.timeNs.toNat } }
    else s)

end Sys2Proof.Machine
end

