-- ==== Sys2Proof/Machine/Flags.lean ====
section
/-! DEFINITION. Flag computations: the sticky flags of `SFPMODE` (12 R276, R277) and the control registers' write masks
(07 R171, 12 R273). Completion flags stand in Ops.lean, tile status in Engine.lean. -/

namespace Sys2Proof.Machine

/-- Rounding mode and flush of `SFPMODE`. -/
def sfpRm (m : Word) : Rm := Rm.ofBits (m.extractLsb' 8 2)
def sfpFtz (m : Word) : Bool := m.getLsbD 7

/-- The sticky bits of a result: NV 4, DZ 3, OF 2, UF 1, NX 0. -/
def FR.flags (r : FR) : Nat :=
  (if r.nv then 16 else 0) + (if r.dz then 8 else 0) + (if r.of then 4 else 0) + (if r.uf then 2 else 0)
  + (if r.nx then 1 else 0)

/-- A flushed result is a signed zero and sets `UF` and `NX` (12 R277). -/
def FR.flushed (r : FR) (f : Fmt) (ftz : Bool) : FR :=
  if ftz && f.isSubnormal r.bits then { r with bits := f.flush true r.bits, uf := true, nx := true } else r

/-- `SFPMODE` after a result: flags are only ever set. -/
def sfpSticky (m : Word) (r : FR) : Word := m ||| BitVec.ofNat 32 r.flags

/-- Writable bits of `SFPMODE`. -/
def sfpMask : Word := 0x39F

/-- Write-1-to-clear of `CSTAT` (07 R171). -/
def cstatWrite (old val : Word) : Word := old &&& ~~~(val &&& 0x1F)

end Sys2Proof.Machine
end

