-- ==== Sys2Proof/Machine/SpineFloat.lean ====
section
/-! DEFINITION. Spine floating point (15 R348 to R350, 12 R275 to R279). `p` selects binary32. -/

namespace Sys2Proof.Machine

def spFmt (p : Bool) : Fmt := if p then fB32 else fB64

/-- An input of the spine: the low bits of a register, flushed under `SFPMODE.FTZ`. -/
def spIn (sp : Spine) (f : Fmt) (a : Dword) : Nat :=
  f.flush (sfpFtz sp.sfpmode && (f == fB32 || f == fB64)) (a.toNat % 2 ^ f.width)

/-- A result retires: flushed, its flags sticky, upper bits zero (12 R276, R277). -/
def spOut (s : State) (t : Nat) (d : BitVec 6) (f : Fmt) (r : FR) : State :=
  modSpine s t fun sp =>
    let r := r.flushed f (sfpFtz sp.sfpmode && (f == fB32 || f == fB64))
    retire (setX { sp with sfpmode := sfpSticky sp.sfpmode r } d (BitVec.ofNat 64 r.bits))

/-- A two-operand operation of a format. -/
def spineF (p : Bool) (b a d : BitVec 6) (s : State) (op : Fmt → Rm → Nat → Nat → FR) : Outcome :=
  spineEnter s fun t sp =>
    let f := spFmt p
    spOut s t d f (op f (sfpRm sp.sfpmode) (spIn sp f (getX sp a)) (spIn sp f (getX sp b)))

/-- R348: A + B. -/
def execSpineFadd (p : Bool) (b a d : BitVec 6) (s : State) : Outcome :=
  spineF p b a d s fun f rm x y => f.add rm (f.dec x) (f.dec y)

/-- R348: A - B. -/
def execSpineFsub (p : Bool) (b a d : BitVec 6) (s : State) : Outcome :=
  spineF p b a d s fun f rm x y => f.add rm (f.dec x) (f.dec y).negate

/-- R348: A x B. -/
def execSpineFmul (p : Bool) (b a d : BitVec 6) (s : State) : Outcome :=
  spineF p b a d s fun f rm x y => f.mul rm (f.dec x) (f.dec y)

/-- R348: A / B. -/
def execSpineFdiv (p : Bool) (b a d : BitVec 6) (s : State) : Outcome :=
  spineF p b a d s fun f rm x y => f.div rm (f.dec x) (f.dec y)

/-- R348: minimumNumber. -/
def execSpineFmin (p : Bool) (b a d : BitVec 6) (s : State) : Outcome :=
  spineF p b a d s fun f _ x y => f.minmax false x y

/-- R348: maximumNumber. -/
def execSpineFmax (p : Bool) (b a d : BitVec 6) (s : State) : Outcome :=
  spineF p b a d s fun f _ x y => f.minmax true x y

/-- R348: square root. -/
def execSpineFsqrt (p : Bool) (a d : BitVec 6) (s : State) : Outcome :=
  spineF p a a d s fun f rm x _ => f.sqrt rm (f.dec x)

/-- A comparison: 1 or 0; `NV` for a signalling NaN, and for any NaN where the comparison orders (15 R348). -/
def spineFcmp (p : Bool) (b a d : BitVec 6) (s : State) (orders : Bool) (test : Option Ordering → Bool) : Outcome :=
  spineEnter s fun t sp =>
    let f := spFmt p
    let x := f.dec (spIn sp f (getX sp a))
    let y := f.dec (spIn sp f (getX sp b))
    let nv := x.isSnan || y.isSnan || (orders && (x.isNan || y.isNan))
    let v : Dword := if test (cmpFVal x y) then 1 else 0
    modSpine s t fun sp => retire (setX { sp with sfpmode := sp.sfpmode ||| (if nv then 16 else 0) } d v)

/-- R348: equality. -/
def execSpineFeq (p : Bool) (b a d : BitVec 6) (s : State) : Outcome := spineFcmp p b a d s false fun o => o == some .eq

/-- R348: less than. -/
def execSpineFlt (p : Bool) (b a d : BitVec 6) (s : State) : Outcome := spineFcmp p b a d s true fun o => o == some .lt

/-- R348: less than or equal. -/
def execSpineFle (p : Bool) (b a d : BitVec 6) (s : State) : Outcome :=
  spineFcmp p b a d s true fun o => o == some .lt || o == some .eq

/-- Float to integer of w bits: toward zero, saturating (12 R279); an i32 result is sign-extended. -/
def spToInt (s : State) (t : Nat) (sp : Spine) (d a : BitVec 6) (f : Fmt) (signed : Bool) (w : Nat) : State :=
  let lo : Int := if signed then -((2 ^ (w - 1) : Nat) : Int) else 0
  let hi : Int := if signed then ((2 ^ (w - 1) : Nat) : Int) - 1 else ((2 ^ w : Nat) : Int) - 1
  let (x, nv, nx) := toIntSat lo hi (f.dec (spIn sp f (getX sp a)))
  modSpine s t fun sp =>
    let m := sp.sfpmode ||| (if nv then 16 else 0) ||| (if nx then 1 else 0)
    retire (setX { sp with sfpmode := m } d (BitVec.ofNat 64 (toBits 64 x)))

/-- Float to float (12 R278). -/
def spConv (s : State) (t : Nat) (sp : Spine) (d a : BitVec 6) (src dst : Fmt) : State :=
  let v := src.dec (spIn sp src (getX sp a))
  let r := dst.ofVal (sfpRm sp.sfpmode) false v
  spOut s t d dst { r with nv := r.nv || v.isSnan }

/-- R349: conversion by code; codes above 0x13 trap `ILLOP`. -/
def execSpineFcvt (c a d : BitVec 6) (s : State) : Outcome :=
  spineEnter s fun t sp =>
    let rm := sfpRm sp.sfpmode
    match c.toNat with
    | 0x00 => spConv s t sp d a fB64 fB32
    | 0x01 => spConv s t sp d a fB32 fB64
    | 0x02 => spToInt s t sp d a fB64 true 64
    | 0x03 => spToInt s t sp d a fB64 false 64
    | 0x04 => spToInt s t sp d a fB64 true 32
    | 0x05 => spToInt s t sp d a fB64 false 32
    | 0x06 => spToInt s t sp d a fB32 true 64
    | 0x07 => spToInt s t sp d a fB32 false 64
    | 0x08 => spToInt s t sp d a fB32 true 32
    | 0x09 => spToInt s t sp d a fB32 false 32
    | 0x0A => spOut s t d fB64 (fB64.ofInt rm false (getX sp a).toInt)
    | 0x0B => spOut s t d fB64 (fB64.ofInt rm false (getX sp a).toNat)
    | 0x0C => spOut s t d fB32 (fB32.ofInt rm false (getX sp a).toInt)
    | 0x0D => spOut s t d fB32 (fB32.ofInt rm false (getX sp a).toNat)
    | 0x0E => spConv s t sp d a fB32 fB16
    | 0x0F => spConv s t sp d a fB16 fB32
    | 0x10 => spConv s t sp d a fB32 fBf16
    | 0x11 => spConv s t sp d a fBf16 fB32
    | 0x12 => spOut s t d fB64 (fB64.toIntegral rm (spIn sp fB64 (getX sp a)))
    | 0x13 => spOut s t d fB32 (fB32.toIntegral rm (spIn sp fB32 (getX sp a)))
    | _ => spineIllop s t (.spineFcvt c a d)

/-- +-(A x B) +- C with one rounding (15 R350). -/
def spineFma (p negP negC : Bool) (c b a d : BitVec 6) (s : State) : Outcome :=
  spineEnter s fun t sp =>
    let f := spFmt p
    let v (n : Bool) (r : BitVec 6) : FVal :=
      let x := f.dec (spIn sp f (getX sp r))
      if n then x.negate else x
    spOut s t d f (f.fma (sfpRm sp.sfpmode) (v negP a) (v false b) (v negC c))

/-- R350: A x B + C in binary64. -/
def execSpineFfma (c b a d : BitVec 6) (s : State) : Outcome := spineFma false false false c b a d s

/-- R350: A x B + C in binary32. -/
def execSpineFfmaS (c b a d : BitVec 6) (s : State) : Outcome := spineFma true false false c b a d s

/-- R350: A x B - C in binary64. -/
def execSpineFfms (c b a d : BitVec 6) (s : State) : Outcome := spineFma false false true c b a d s

/-- R350: A x B - C in binary32. -/
def execSpineFfmsS (c b a d : BitVec 6) (s : State) : Outcome := spineFma true false true c b a d s

/-- R350: -(A x B) - C in binary64. -/
def execSpineFnfma (c b a d : BitVec 6) (s : State) : Outcome := spineFma false true true c b a d s

/-- R350: -(A x B) - C in binary32. -/
def execSpineFnfmaS (c b a d : BitVec 6) (s : State) : Outcome := spineFma true true true c b a d s

/-- R350: -(A x B) + C in binary64. -/
def execSpineFnfms (c b a d : BitVec 6) (s : State) : Outcome := spineFma false true false c b a d s

/-- R350: -(A x B) + C in binary32. -/
def execSpineFnfmsS (c b a d : BitVec 6) (s : State) : Outcome := spineFma true true false c b a d s

end Sys2Proof.Machine
end

