-- ==== Sys2Proof/Machine/SpineInt.lean ====
section
/-! DEFINITION. Spine integer instructions, branches and jumps (15 R345 to R347, R355, R356). -/

namespace Sys2Proof.Machine

/-- x[D] from x[A] and x[B] by an operation of 15 R345, R346. -/
def spineBin (op : SpineOp) (w : Bool) (b a d : BitVec 6) (s : State) : Outcome :=
  spineEnter s fun t sp => spineSet s t d (spineInt op w (getX sp a) (getX sp b))

def spineUnary (op : SpineUn) (w : Bool) (a d : BitVec 6) (s : State) : Outcome :=
  spineEnter s fun t sp => spineSet s t d (spineUn op w (getX sp a))

/-- x[D] from x[A] and a sign-extended immediate (15 R347). -/
def spineImm (op : SpineOp) (i : BitVec 14) (a d : BitVec 6) (s : State) : Outcome :=
  spineEnter s fun t sp => spineSet s t d (spineInt op false (getX sp a) (i.signExtend 64))

/-- x[D] from x[A] shifted by an immediate. -/
def spineShi (op : SpineOp) (n a d : BitVec 6) (s : State) : Outcome :=
  spineEnter s fun t sp => spineSet s t d (spineInt op false (getX sp a) (n.setWidth 64))

/-- R345: add. -/
def execSpineAdd (w : Bool) (b a d : BitVec 6) (s : State) : Outcome := spineBin .add w b a d s

/-- R345: subtract. -/
def execSpineSub (w : Bool) (b a d : BitVec 6) (s : State) : Outcome := spineBin .sub w b a d s

/-- R345: bitwise AND. -/
def execSpineAnd (w : Bool) (b a d : BitVec 6) (s : State) : Outcome := spineBin .and w b a d s

/-- R345: bitwise OR. -/
def execSpineOr (w : Bool) (b a d : BitVec 6) (s : State) : Outcome := spineBin .or w b a d s

/-- R345: bitwise XOR. -/
def execSpineXor (w : Bool) (b a d : BitVec 6) (s : State) : Outcome := spineBin .xor w b a d s

/-- R345: A AND NOT B. -/
def execSpineAndn (w : Bool) (b a d : BitVec 6) (s : State) : Outcome := spineBin .andn w b a d s

/-- R345: shift left. -/
def execSpineShl (w : Bool) (b a d : BitVec 6) (s : State) : Outcome := spineBin .shl w b a d s

/-- R345: shift right with zeros. -/
def execSpineShr (w : Bool) (b a d : BitVec 6) (s : State) : Outcome := spineBin .shr w b a d s

/-- R345: shift right with copies of the sign. -/
def execSpineSar (w : Bool) (b a d : BitVec 6) (s : State) : Outcome := spineBin .sar w b a d s

/-- R345: low product. -/
def execSpineMul (w : Bool) (b a d : BitVec 6) (s : State) : Outcome := spineBin .mul w b a d s

/-- R345: high signed product. -/
def execSpineMulh (w : Bool) (b a d : BitVec 6) (s : State) : Outcome := spineBin .mulh w b a d s

/-- R345: high natural product. -/
def execSpineMulhn (w : Bool) (b a d : BitVec 6) (s : State) : Outcome := spineBin .mulhn w b a d s

/-- R346: signed quotient. -/
def execSpineDiv (w : Bool) (b a d : BitVec 6) (s : State) : Outcome := spineBin .div w b a d s

/-- R346: natural quotient. -/
def execSpineDivn (w : Bool) (b a d : BitVec 6) (s : State) : Outcome := spineBin .divn w b a d s

/-- R346: signed remainder. -/
def execSpineRem (w : Bool) (b a d : BitVec 6) (s : State) : Outcome := spineBin .rem w b a d s

/-- R346: natural remainder. -/
def execSpineRemn (w : Bool) (b a d : BitVec 6) (s : State) : Outcome := spineBin .remn w b a d s

/-- R345: smaller, signed. -/
def execSpineMin (w : Bool) (b a d : BitVec 6) (s : State) : Outcome := spineBin .min w b a d s

/-- R345: larger, signed. -/
def execSpineMax (w : Bool) (b a d : BitVec 6) (s : State) : Outcome := spineBin .max w b a d s

/-- R345: smaller, natural. -/
def execSpineMinn (w : Bool) (b a d : BitVec 6) (s : State) : Outcome := spineBin .minn w b a d s

/-- R345: larger, natural. -/
def execSpineMaxn (w : Bool) (b a d : BitVec 6) (s : State) : Outcome := spineBin .maxn w b a d s

/-- R345: 1 if A < B, signed. -/
def execSpineSlt (w : Bool) (b a d : BitVec 6) (s : State) : Outcome := spineBin .slt w b a d s

/-- R345: 1 if A < B, natural. -/
def execSpineSltn (w : Bool) (b a d : BitVec 6) (s : State) : Outcome := spineBin .sltn w b a d s

/-- R345: leading zero bits. -/
def execSpineClz (w : Bool) (a d : BitVec 6) (s : State) : Outcome := spineUnary .clz w a d s

/-- R345: trailing zero bits. -/
def execSpineCtz (w : Bool) (a d : BitVec 6) (s : State) : Outcome := spineUnary .ctz w a d s

/-- R345: number of one bits. -/
def execSpinePopc (w : Bool) (a d : BitVec 6) (s : State) : Outcome := spineUnary .popc w a d s

/-- R345: bit order reversed. -/
def execSpineBrev (w : Bool) (a d : BitVec 6) (s : State) : Outcome := spineUnary .brev w a d s

/-- R347: `addi`, its immediate sign-extended. -/
def execAddi (i : BitVec 14) (a d : BitVec 6) (s : State) : Outcome := spineImm .add i a d s

/-- R347: `andi`, its immediate sign-extended. -/
def execAndi (i : BitVec 14) (a d : BitVec 6) (s : State) : Outcome := spineImm .and i a d s

/-- R347: `ori`, its immediate sign-extended. -/
def execOri (i : BitVec 14) (a d : BitVec 6) (s : State) : Outcome := spineImm .or i a d s

/-- R347: `xori`, its immediate sign-extended. -/
def execXori (i : BitVec 14) (a d : BitVec 6) (s : State) : Outcome := spineImm .xor i a d s

/-- R347: `slti`, its immediate sign-extended. -/
def execSlti (i : BitVec 14) (a d : BitVec 6) (s : State) : Outcome := spineImm .slt i a d s

/-- R347: `sltni`, its immediate sign-extended. -/
def execSltni (i : BitVec 14) (a d : BitVec 6) (s : State) : Outcome := spineImm .sltn i a d s

/-- R347: `shli`. -/
def execShli (n a d : BitVec 6) (s : State) : Outcome := spineShi .shl n a d s

/-- R347: `shri`. -/
def execShri (n a d : BitVec 6) (s : State) : Outcome := spineShi .shr n a d s

/-- R347: `sari`. -/
def execSari (n a d : BitVec 6) (s : State) : Outcome := spineShi .sar n a d s

/-- sign_extend(IMM20) << 12. -/
def upperImm (i : BitVec 20) : Dword := i.signExtend 64 <<< 12

/-- R347: the shifted upper immediate. -/
def execMovu (i : BitVec 20) (d : BitVec 6) (s : State) : Outcome := spineEnter s fun t _ => spineSet s t d (upperImm i)

/-- R347: this instruction's address plus the shifted upper immediate. -/
def execAddpc (i : BitVec 20) (d : BitVec 6) (s : State) : Outcome :=
  spineEnter s fun t sp => spineSet s t d (sp.pc + upperImm i)

/-- The thread goes on at an address. -/
def jumpTo (sp : Spine) (a : Dword) : Spine := { retire sp with pc := a }

/-- Conditions of 15 R355: equal, signed less, natural less. -/
inductive BrCond where
  | eq
  | lt
  | ltn
  deriving DecidableEq, Repr

def BrCond.holds (c : BrCond) (a b : Dword) : Bool :=
  match c with
  | .eq => a == b
  | .lt => a.slt b
  | .ltn => a.ult b

/-- A branch, taken when the condition's truth is `want` (15 R355). -/
def spineBranch (c : BrCond) (want : Bool) (i : BitVec 14) (b a : BitVec 6) (s : State) : Outcome :=
  spineEnter s fun t sp =>
    modSpine s t fun sp' =>
      if c.holds (getX sp a) (getX sp b) = want then jumpTo sp' (sp.pc + (i.signExtend 64 <<< 2)) else retire sp'

/-- R355: branch if A = B. -/
def execBeq (i : BitVec 14) (b a : BitVec 6) (s : State) : Outcome := spineBranch .eq true i b a s

/-- R355: branch if A ≠ B. -/
def execBne (i : BitVec 14) (b a : BitVec 6) (s : State) : Outcome := spineBranch .eq false i b a s

/-- R355: branch if A < B, signed. -/
def execBlt (i : BitVec 14) (b a : BitVec 6) (s : State) : Outcome := spineBranch .lt true i b a s

/-- R355: branch if A ≥ B, signed. -/
def execBge (i : BitVec 14) (b a : BitVec 6) (s : State) : Outcome := spineBranch .lt false i b a s

/-- R355: branch if A < B, natural. -/
def execBltn (i : BitVec 14) (b a : BitVec 6) (s : State) : Outcome := spineBranch .ltn true i b a s

/-- R355: branch if A ≥ B, natural. -/
def execBgen (i : BitVec 14) (b a : BitVec 6) (s : State) : Outcome := spineBranch .ltn false i b a s

/-- R356: jump relative to this instruction and link. -/
def execJl (i : BitVec 20) (d : BitVec 6) (s : State) : Outcome :=
  spineEnter s fun t sp =>
    modSpine s t fun sp' => jumpTo (setX sp' d (sp.pc + 4)) (sp.pc + (i.signExtend 64 <<< 2))

/-- R356, R327: jump through a register and link; a target that is not a multiple of 4 traps `MISALIGN`. -/
def execJlr (i : BitVec 14) (a d : BitVec 6) (s : State) : Outcome :=
  spineEnter s fun t sp =>
    let target := getX sp a + i.signExtend 64
    if target &&& 3 ≠ 0 then spineTrap s t tMisalign target
    else modSpine s t fun sp' => jumpTo (setX sp' d (sp.pc + 4)) target

end Sys2Proof.Machine
end

