-- ==== Sys2Proof/Machine/SpineMem.lean ====
section
/-! DEFINITION. Spine loads, stores, atomics, acquiring loads, releasing stores, fences and the query of `loc`
(15 R351 to R354, R357, R367). -/

namespace Sys2Proof.Machine

/-- Size in bytes of a load or store (15 R351). -/
def spSize (z : BitVec 3) : Nat := 2 ^ z.toNat

/-- x[A] + sign_extend(IMM10) x size. -/
def spAddr (sp : Spine) (i : BitVec 10) (z : BitVec 3) (a : BitVec 6) : Dword :=
  getX sp a + BitVec.ofNat 64 (spSize z) * i.signExtend 64

/-- A loaded value: zero- or sign-extended. -/
def spExt (sx : Bool) (n : Nat) (bs : List Byte) : Dword :=
  BitVec.ofNat 64 (if sx then toBits 64 (sxNat (8 * n) (fieldOf bs 0 n)) else fieldOf bs 0 n)

/-- A misaligned address traps before anything else. -/
def spAligned (s : State) (t : Nat) (va : Dword) (n : Nat) (k : State) : State :=
  if va.toNat % n ≠ 0 then spineTrap s t tMisalign va else k

/-- R351: load. -/
def execSpineLd (i : BitVec 10) (x : Bool) (z : BitVec 3) (a d : BitVec 6) (s : State) : Outcome :=
  spineEnter s fun t sp =>
    let va := spAddr sp i z a
    spAligned s t va (spSize z) (spineRead s t sp va (spSize z) fun s bs => spineSet s t d (spExt x (spSize z) bs))

/-- R351: store. -/
def execSpineSt (i : BitVec 10) (z : BitVec 3) (a r : BitVec 6) (s : State) : Outcome :=
  spineEnter s fun t sp =>
    let va := spAddr sp i z a
    spAligned s t va (spSize z)
      (spineWrite s t sp (.spineSt i z a r) va (bytesOf (spSize z) (getX sp r).toNat) fun s => modSpine s t retire)

/-- Operations of `amo`. -/
inductive AmoOp where
  | swap
  | int (op : SpineOp)
  deriving DecidableEq, Repr

/-- New value of the location, n bits wide. -/
def AmoOp.apply (op : AmoOp) (w old x : Nat) : Nat :=
  match op with
  | .swap => x % 2 ^ w
  | .int f => spineOp f w old (x % 2 ^ w)

/-- Code of an atomic in a request to a peer: as `atom`; 7 compare-and-swap. -/
def AmoOp.code : AmoOp → Nat
  | .swap => 0
  | .int .add => 1
  | .int .and => 2
  | .int .or => 3
  | .int .xor => 4
  | .int .min | .int .minn => 5
  | _ => 6

/-- Type of an atomic in a request to a peer. -/
def AmoOp.type (op : AmoOp) (w : Bool) : LType :=
  match op with
  | .int .minn | .int .maxn => if w then .n64 else .n32
  | _ => if w then .i64 else .i32

/-- The access of a spine atomic, past its checks (15 R353, R354). An acquire-release drains the thread's
write-combining entries first. -/
def spineAtomic (s : State) (t : Nat) (sp : Spine) (order : BitVec 3) (va : Dword) (n : Nat) (kind : ReqKind)
    (f : List Byte → List Byte) (k : State → List Byte → State) : State :=
  if va.toNat % n ≠ 0 then spineTrap s t tMisalign va
  else if hostHomed s (rqSpine s sp) va.toNat then spineTrap s t tHostatom va
  else
    match sp.resp with
    | some bs => k s bs
    | none =>
      if mergedWaits s t va.toNat n then spineWait s t .hold none else
      (if order.toNat ≤ 4 then spineRelease s t else fun k => k s) fun s =>
      match atomPiece s (rqSpine s sp) (atHome (teamOf s t) order.toNat) va.toNat n f with
      | (s', a, bs) => spineGot s s' t sp accAtomic kind va a bs fun s bs => k (escape s t) bs

/-- The old value as x[D] takes it: the `.w` form is sign-extended. -/
def amoOld (w : Bool) (bs : List Byte) : Dword := spExt (!w) (if w then 8 else 4) bs

/-- R353: `amo` on 32 or 64 bits. -/
def spineAmo (op : AmoOp) (w : Bool) (o : BitVec 3) (b a d : BitVec 6) (s : State) : Outcome :=
  spineEnter s fun t sp =>
    let n := if w then 8 else 4
    let x := (getX sp b).toNat
    spineAtomic s t sp o (getX sp a) n (.atom op.code n (op.type w) (BitVec.ofNat 128 (x % 2 ^ (8 * n))) 0)
      (fun old => bytesOf n (op.apply (8 * n) (fieldOf old 0 n) x))
      fun s bs => spineSet s t d (amoOld w bs)

/-- R353: swap. -/
def execAmoSwap (w : Bool) (o : BitVec 3) (b a d : BitVec 6) (s : State) : Outcome := spineAmo .swap w o b a d s
/-- R353: wrapping add. -/
def execAmoAdd (w : Bool) (o : BitVec 3) (b a d : BitVec 6) (s : State) : Outcome := spineAmo (.int .add) w o b a d s
/-- R353: bitwise AND. -/
def execAmoAnd (w : Bool) (o : BitVec 3) (b a d : BitVec 6) (s : State) : Outcome := spineAmo (.int .and) w o b a d s
/-- R353: bitwise OR. -/
def execAmoOr (w : Bool) (o : BitVec 3) (b a d : BitVec 6) (s : State) : Outcome := spineAmo (.int .or) w o b a d s
/-- R353: bitwise XOR. -/
def execAmoXor (w : Bool) (o : BitVec 3) (b a d : BitVec 6) (s : State) : Outcome := spineAmo (.int .xor) w o b a d s
/-- R353: signed minimum. -/
def execAmoMin (w : Bool) (o : BitVec 3) (b a d : BitVec 6) (s : State) : Outcome := spineAmo (.int .min) w o b a d s
/-- R353: signed maximum. -/
def execAmoMax (w : Bool) (o : BitVec 3) (b a d : BitVec 6) (s : State) : Outcome := spineAmo (.int .max) w o b a d s
/-- R353: natural minimum. -/
def execAmoMinn (w : Bool) (o : BitVec 3) (b a d : BitVec 6) (s : State) : Outcome := spineAmo (.int .minn) w o b a d s
/-- R353: natural maximum. -/
def execAmoMaxn (w : Bool) (o : BitVec 3) (b a d : BitVec 6) (s : State) : Outcome := spineAmo (.int .maxn) w o b a d s

/-- R353: compare-and-swap; x[D] is the expected value and takes the old one. -/
def execSpineCas (w : Bool) (o : BitVec 3) (b a d : BitVec 6) (s : State) : Outcome :=
  spineEnter s fun t sp =>
    let n := if w then 8 else 4
    let e := (getX sp d).toNat % 2 ^ (8 * n)
    let x := (getX sp b).toNat % 2 ^ (8 * n)
    spineAtomic s t sp o (getX sp a) n (.atom 7 n .b32 (BitVec.ofNat 128 x) (BitVec.ofNat 128 e))
      (fun old => if fieldOf old 0 n = e then bytesOf n x else old)
      fun s bs => spineSet s t d (amoOld w bs)

/-- The pair x[N+1]:x[N]. -/
def getPair (sp : Spine) (n : BitVec 6) : Nat := (getX sp n).toNat + 2 ^ 64 * (getX sp (n + 1)).toNat

/-- R353: 128-bit compare-and-swap; the low dword is at the address. -/
def execSpineCas2 (o : BitVec 3) (b a d : BitVec 6) (s : State) : Outcome :=
  spineEnter s fun t sp =>
    let e := getPair sp d
    let x := getPair sp b
    spineAtomic s t sp o (getX sp a) 16 (.atom 7 16 .b32 (BitVec.ofNat 128 x) (BitVec.ofNat 128 e))
      (fun old => if fieldOf old 0 16 = e then bytesOf 16 x else old)
      fun s bs => modSpine s t fun sp =>
        retire (setX (setX sp d (BitVec.ofNat 64 (fieldOf bs 0 8))) (d + 1) (BitVec.ofNat 64 (fieldOf bs 8 8)))

/-- R354: acquiring load. -/
def execLda (w : Bool) (_o : BitVec 3) (a d : BitVec 6) (s : State) : Outcome :=
  spineEnter s fun t sp =>
    let n := if w then 8 else 4
    let va := getX sp a
    spAligned s t va n (spineRead s t sp va n fun s bs => spineSet s t d (amoOld w bs))

/-- R354: releasing store. -/
def execStl (w : Bool) (o : BitVec 3) (b a : BitVec 6) (s : State) : Outcome :=
  spineEnter s fun t sp =>
    let n := if w then 8 else 4
    let va := getX sp a
    spAligned s t va n
      (let write (s : State) : State :=
         spineWrite s t sp (.stl w o b a) va (bytesOf n (getX sp b).toNat) fun s => modSpine s t retire
       if sp.resp.isSome then write s else spineRelease s t write)

/-- R357, R230: a fence; kinds 2 and 3 drain the thread's write-combining entries. -/
def execSpineFence (k : BitVec 2) (_sc : BitVec 3) (s : State) : Outcome :=
  spineEnter s fun t _ =>
    if k.toNat ≥ 2 then spineRelease s t fun s => modSpine s t retire else modSpine s t retire

/-- R357, R243, R52: every dirty grain of persistent pages is written back, and the thread waits for the
acknowledgements of the CXL ports, if any port is one. -/
def execSpinePfence (s : State) : Outcome :=
  spineEnter s fun t sp =>
    if sp.granted.isSome then
      if s.pfences.contains (.spine t) then s else modSpine s t retire
    else
      spineRelease s t fun s =>
      let s := flushPers s
      if anyCxl s then
        modSpine { s with pfences := s.pfences ++ [.spine t] } t fun sp => { sp with wait := .hold, granted := some 0 }
      else modSpine s t retire

/-- R367: where an address is homed. -/
def execSpineLoc (a d : BitVec 6) (s : State) : Outcome :=
  spineEnter s fun t sp =>
    match locQuery s (rqSpine s sp) (getX sp a).toNat with
    | (s, some n) => spineSet s t d (BitVec.ofNat 64 n)
    | (s, none) => spineWait s t .hold none

end Sys2Proof.Machine
end

