-- ==== Sys2Proof/Machine/SpineSys.lean ====
section
/-! DEFINITION. Spine instructions on shared registers (15 R358 to R361), control registers, the end of a thread,
breakpoints, `nap`, time, random values and tensor identifiers (15 R362 to R366, R372). -/

namespace Sys2Proof.Machine

/-! ### Shared registers -/

/-- An operation on a shared register: performed once, with the value that it returns, or the thread waits. -/
def spineBank (s : State) (t : Nat) (sp : Spine) (n : Nat) (op : HOp) (k : State → Dword → State) : State :=
  match sp.granted with
  | some v => k s v
  | none =>
    let l := hLoc s t n
    let s := if l.common then escape s t else s
    match hArrive s l (.spine t) op with
    | (s, some v) => k s v
    | (s, none) => modSpine s t fun sp => { sp with wait := .shared l.cluster l.key }

/-- An operation that releases (10 R232): the thread's writes to homes outside and its write-combining entries come first. -/
def spineBankRelease (s : State) (t : Nat) (sp : Spine) (n : Nat) (op : HOp) (k : State → Dword → State) : State :=
  if sp.granted.isSome then spineBank s t sp n op k
  else spineRelease s t fun s => spineBank s t sp n op k

/-- R359: put x[A] with the count x[D]. -/
def execSpineHput (i : BitVec 8) (a d : BitVec 6) (s : State) : Outcome :=
  spineEnter s fun t sp =>
    let c := (getX sp d).toNat
    if c = 0 ∨ c > 255 then spineIllop s t (.spineHput i a d)
    else spineBankRelease s t sp i.toNat (.put (getX sp a) c) fun s _ => modSpine s t retire

/-- R359: one consuming read. -/
def execSpineHget (i : BitVec 8) (d : BitVec 6) (s : State) : Outcome :=
  spineEnter s fun t sp => spineBank s t sp i.toNat .read fun s v => spineSet s t d v

/-- R359: the entry's state, without waiting. -/
def execHpeek (i : BitVec 8) (d : BitVec 6) (s : State) : Outcome :=
  spineEnter s fun t _ =>
    let l := hLoc s t i.toNat
    spineSet (hTurn s l (.spine t)) t d (BitVec.ofNat 64 (hStatus (getH s l)))

/-- A descriptor that `hacc` refuses (R360). -/
def accBad (x : Nat) : Bool :=
  x / 2 ^ 23 != 0 || decide (4 < bitsOf x 20 3) || bitOf x 19 || decide (4 < bitsOf x 16 3) || bitsOf x 11 5 != 0
  || bitsOf x 0 11 == 0 || decide (1024 < bitsOf x 0 11)

/-- R360: contribute x[A] under the descriptor x[D]. -/
def execSpineHacc (i : BitVec 8) (a d : BitVec 6) (s : State) : Outcome :=
  spineEnter s fun t sp =>
    let x := (getX sp d).toNat
    if accBad x then spineIllop s t (.spineHacc i a d)
    else
      let ty := bitsOf x 20 3
      spineBankRelease s t sp i.toNat
        (.acc (BitVec.ofNat 64 (hExtend ty (getX sp a).toNat)) (bitsOf x 16 3) ty (bitsOf x 0 11))
        fun s _ => modSpine s t retire

/-- R361: set `CONSUMERS`, clear, or both. -/
def execHcfg (i : BitVec 8) (a : BitVec 6) (s : State) : Outcome :=
  spineEnter s fun t sp =>
    let x := (getX sp a).toNat
    let cmd := x % 4
    let cons := bitsOf x 8 8
    if x / 2 ^ 16 ≠ 0 ∨ bitsOf x 2 6 ≠ 0 ∨ cmd = 3 ∨ (cmd ≠ 1 ∧ cons = 0) then spineIllop s t (.hcfg i a)
    else
      let l := hLoc s t i.toNat
      let s := hTurn (if l.common then escape s t else s) l (.spine t)
      let e := getH s l
      let e1 := if cmd = 0 then e else { e with value := 0, full := false, count := 0, gather := false, recv := 0 }
      let e2 := if cmd = 1 then e1 else { e1 with consumers := BitVec.ofNat 8 cons }
      modSpine (if e2 = e then s else hChanged s l e2) t retire

/-! ### Control registers (14 R330, 15 R362) -/

def spineCsr (s : State) (sp : Spine) (n : Nat) : Dword :=
  match n with
  | 0x80 => sp.scause.setWidth 64
  | 0x81 => sp.sepc
  | 0x82 => sp.sval
  | 0x83 => sp.shand
  | 0x84 => sp.sfpmode.setWidth 64
  | 0x85 => BitVec.ofNat 64 (cbOf s sp.team)
  | _ => BitVec.ofNat 64 ((ctxAsid s (slotOf s sp.team)).toNat * 2 ^ 16 + slotOf s sp.team)

/-- R362: read. -/
def execSpineCsrr (i : BitVec 8) (d : BitVec 6) (s : State) : Outcome :=
  spineEnter s fun t sp => spineSet s t d (spineCsr s sp i.toNat)

/-- A write, by the access codes of 13 R298 and 12 R276. -/
def spineCsrWrite (sp : Spine) (n : Nat) (v : Dword) : Spine :=
  match n with
  | 0x80 => { sp with scause := v.setWidth 32 &&& 0xFF }
  | 0x81 => { sp with sepc := v }
  | 0x83 => if v.toNat % 4 = 0 then { sp with shand := v } else sp
  | 0x84 => { sp with sfpmode := v.setWidth 32 &&& 0x39F }
  | _ => sp

/-- R362: write. -/
def execSpineCsrw (i : BitVec 8) (a : BitVec 6) (s : State) : Outcome :=
  spineEnter s fun t sp => modSpine s t fun q => retire (spineCsrWrite q i.toNat (getX sp a))

/-! ### Ends and waits -/

/-- R363: the thread leaves, once its earlier accesses have been performed: merged stores and writes on their way among
them. -/
def execSpineExit (s : State) : Outcome :=
  spineEnter s fun t _ =>
    spineRelease s t fun s => exitTest (modSpine s t fun sp => { retire sp with live := false }) t

/-- R364: breakpoint. -/
def execSpineBrk (_c : BitVec 8) (s : State) : Outcome := spineEnter s fun t _ => spineTrap s t tBrk 0

/-- R365: a visible wait with a time limit of x[A] nanoseconds. -/
def execSpineNap (a : BitVec 6) (s : State) : Outcome :=
  spineEnter s fun t sp =>
    if sp.granted.isSome then modSpine s t retire
    else
      let n := (getX sp a).toNat
      modSpine s t fun sp => { sp with wait := .nap (if n = 0 then none else some (s.timeNs.toNat + n)) }

/-! ### Time and random values -/

/-- A result that the recording may log; the thread waits until its log entry is pushed. -/
def spineLogged (s : State) (t : Nat) (sp : Spine) (kind : Nat) (live : Dword) (d : BitVec 6) : State :=
  if isSvp t then spineSet s t d live else
  match sp.granted with
  | some v => if s.dpush.any fun p => p.who == .spine t then modSpine s t fun sp => { sp with wait := .hold } else spineSet s t d v
  | none =>
    let key := logKey kind 1 0 0 (teamOf s t).index sp.ndet
    if logHeld s (slotOf s t) key then spineWait s t .hold none else
    let (s', v) := logValue s (slotOf s t) key live none (.spine t)
    let s' := modSpine s' t fun sp => { sp with ndet := sp.ndet + 1 }
    if s'.dpush.any fun p => p.who == .spine t then modSpine s' t fun sp => { sp with wait := .hold, granted := some v }
    else spineSet s' t d v

/-- R366: the time base. -/
def execSpineRdclk (d : BitVec 6) (s : State) : Outcome := spineEnter s fun t sp => spineLogged s t sp 2 s.timeNs d

/-- R366: 64 random bits. -/
def execSpineRand (d : BitVec 6) (s : State) : Outcome :=
  spineEnter s fun t sp => spineLogged s t sp 3 (Config.free64 s.freeNo 0) d

/-! ### Tensor identifiers -/

/-- R372: write the 64 bytes at x[B] into entry x[A]. -/
def execSpineTiset (b a : BitVec 6) (s : State) : Outcome :=
  spineEnter s fun t sp =>
    let n := (getX sp a).toNat
    let src := getX sp b
    if n > 1023 then spineIllop s t (.spineTiset b a)
    else if src.toNat % 64 ≠ 0 then spineTrap s t tMisalign src
    else
      let va : Dword := BitVec.ofNat 64 (tidVa s (slotOf s t) n)
      let done (s : State) : State := modSpine (escape s t) t retire
      spineKeeps s t sp va done (spineRead s t sp src 64 fun s bs => spineKept s t sp va bs done)

end Sys2Proof.Machine
end

