-- ==== Sys2Proof/Machine/Dispatch.lean ====
section
/-! DEFINITION. The dispatch: one arm per instruction, a direct call of its meaning. -/

namespace Sys2Proof.Machine

open Sys2Proof

def exec (i : Instr) (s : State) : Host.Outcome State Fault Refusal :=
  match i with
  | .add o => Sys2Proof.Machine.execAdd o s
  | .sub o => Sys2Proof.Machine.execSub o s
  | .addx o => Sys2Proof.Machine.execAddx o s
  | .mul o => Sys2Proof.Machine.execMul o s
  | .mulhi o => Sys2Proof.Machine.execMulhi o s
  | .mad o => Sys2Proof.Machine.execMad o s
  | .madw o => Sys2Proof.Machine.execMadw o s
  | .min o => Sys2Proof.Machine.execMin o s
  | .max o => Sys2Proof.Machine.execMax o s
  | .abs o => Sys2Proof.Machine.execAbs o s
  | .lea o => Sys2Proof.Machine.execLea o s
  | .icmp o => Sys2Proof.Machine.execIcmp o s
  | .sel o => Sys2Proof.Machine.execSel o s
  | .and o => Sys2Proof.Machine.execAnd o s
  | .or o => Sys2Proof.Machine.execOr o s
  | .xor o => Sys2Proof.Machine.execXor o s
  | .andn o => Sys2Proof.Machine.execAndn o s
  | .lut3 o => Sys2Proof.Machine.execLut3 o s
  | .shl o => Sys2Proof.Machine.execShl o s
  | .shr o => Sys2Proof.Machine.execShr o s
  | .sar o => Sys2Proof.Machine.execSar o s
  | .shf o => Sys2Proof.Machine.execShf o s
  | .bfe o => Sys2Proof.Machine.execBfe o s
  | .bfi o => Sys2Proof.Machine.execBfi o s
  | .popc o => Sys2Proof.Machine.execPopc o s
  | .clz o => Sys2Proof.Machine.execClz o s
  | .brev o => Sys2Proof.Machine.execBrev o s
  | .fadd o => Sys2Proof.Machine.execFadd o s
  | .fsub o => Sys2Proof.Machine.execFsub o s
  | .fmul o => Sys2Proof.Machine.execFmul o s
  | .ffma o => Sys2Proof.Machine.execFfma o s
  | .fmin o => Sys2Proof.Machine.execFmin o s
  | .fmax o => Sys2Proof.Machine.execFmax o s
  | .fcmp o => Sys2Proof.Machine.execFcmp o s
  | .frnd o => Sys2Proof.Machine.execFrnd o s
  | .fclass o => Sys2Proof.Machine.execFclass o s
  | .fscale o => Sys2Proof.Machine.execFscale o s
  | .cvt o => Sys2Proof.Machine.execCvt o s
  | .pack2 o => Sys2Proof.Machine.execPack2 o s
  | .pack4 o => Sys2Proof.Machine.execPack4 o s
  | .dot4 o => Sys2Proof.Machine.execDot4 o s
  | .dot8 o => Sys2Proof.Machine.execDot8 o s
  | .dotf4 o => Sys2Proof.Machine.execDotf4 o s
  | .dotf8 o => Sys2Proof.Machine.execDotf8 o s
  | .rcp o => Sys2Proof.Machine.execRcp o s
  | .rsq o => Sys2Proof.Machine.execRsq o s
  | .sqrt o => Sys2Proof.Machine.execSqrt o s
  | .exp2 o => Sys2Proof.Machine.execExp2 o s
  | .log2 o => Sys2Proof.Machine.execLog2 o s
  | .sin o => Sys2Proof.Machine.execSin o s
  | .cos o => Sys2Proof.Machine.execCos o s
  | .tanh o => Sys2Proof.Machine.execTanh o s
  | .sigm o => Sys2Proof.Machine.execSigm o s
  | .mxscale o => Sys2Proof.Machine.execMxscale o s
  | .mov o => Sys2Proof.Machine.execMov o s
  | .movk o => Sys2Proof.Machine.execMovk o s
  | .shfl o => Sys2Proof.Machine.execShfl o s
  | .vote o => Sys2Proof.Machine.execVote o s
  | .redsq o => Sys2Proof.Machine.execRedsq o s
  | .scansq o => Sys2Proof.Machine.execScansq o s
  | .elect o => Sys2Proof.Machine.execElect o s
  | .rdsp o => Sys2Proof.Machine.execRdsp o s
  | .emget o => Sys2Proof.Machine.execEmget o s
  | .emset o => Sys2Proof.Machine.execEmset o s
  | .pget o => Sys2Proof.Machine.execPget o s
  | .pset o => Sys2Proof.Machine.execPset o s
  | .hput o => Sys2Proof.Machine.execHput o s
  | .hacc o => Sys2Proof.Machine.execHacc o s
  | .hstat o => Sys2Proof.Machine.execHstat o s
  | .hget o => Sys2Proof.Machine.execHget o s
  | .ld o => Sys2Proof.Machine.execLd o s
  | .st o => Sys2Proof.Machine.execSt o s
  | .ldu o => Sys2Proof.Machine.execLdu o s
  | .prf o => Sys2Proof.Machine.execPrf o s
  | .ldcf o => Sys2Proof.Machine.execLdcf o s
  | .ldc o => Sys2Proof.Machine.execLdc o s
  | .atom o => Sys2Proof.Machine.execAtom o s
  | .cas o => Sys2Proof.Machine.execCas o s
  | .cas2 o => Sys2Proof.Machine.execCas2 o s
  | .fence o => Sys2Proof.Machine.execFence o s
  | .pfence o => Sys2Proof.Machine.execPfence o s
  | .loc o => Sys2Proof.Machine.execLoc o s
  | .lds o => Sys2Proof.Machine.execLds o s
  | .sts o => Sys2Proof.Machine.execSts o s
  | .stsArm o => Sys2Proof.Machine.execStsArm o s
  | .atoms o => Sys2Proof.Machine.execAtoms o s
  | .ldsc o => Sys2Proof.Machine.execLdsc o s
  | .lsarm o => Sys2Proof.Machine.execLsarm o s
  | .lsstat o => Sys2Proof.Machine.execLsstat o s
  | .cpy o => Sys2Proof.Machine.execCpy o s
  | .cpys o => Sys2Proof.Machine.execCpys o s
  | .cred o => Sys2Proof.Machine.execCred o s
  | .mma o => Sys2Proof.Machine.execMma o s
  | .mml o => Sys2Proof.Machine.execMml o s
  | .mmz o => Sys2Proof.Machine.execMmz o s
  | .mmld o => Sys2Proof.Machine.execMmld o s
  | .mmst o => Sys2Proof.Machine.execMmst o s
  | .mmrd o => Sys2Proof.Machine.execMmrd o s
  | .mmwr o => Sys2Proof.Machine.execMmwr o s
  | .scan o => Sys2Proof.Machine.execScan o s
  | .cset o => Sys2Proof.Machine.execCset o s
  | .csetId o => Sys2Proof.Machine.execCsetId o s
  | .cget o => Sys2Proof.Machine.execCget o s
  | .tstat o => Sys2Proof.Machine.execTstat o s
  | .tiset o => Sys2Proof.Machine.execTiset o s
  | .tiget o => Sys2Proof.Machine.execTiget o s
  | .pfxh o => Sys2Proof.Machine.execPfxh o s
  | .pfxhClr o => Sys2Proof.Machine.execPfxhClr o s
  | .bra o => Sys2Proof.Machine.execBra o s
  | .bru o => Sys2Proof.Machine.execBru o s
  | .jmp o => Sys2Proof.Machine.execJmp o s
  | .call o => Sys2Proof.Machine.execCall o s
  | .ret o => Sys2Proof.Machine.execRet o s
  | .rejoin o => Sys2Proof.Machine.execRejoin o s
  | .rejoinS o => Sys2Proof.Machine.execRejoinS o s
  | .exit o => Sys2Proof.Machine.execExit o s
  | .yield o => Sys2Proof.Machine.execYield o s
  | .bar o => Sys2Proof.Machine.execBar o s
  | .barar o => Sys2Proof.Machine.execBarar o s
  | .barwt o => Sys2Proof.Machine.execBarwt o s
  | .nap o => Sys2Proof.Machine.execNap o s
  | .launch o => Sys2Proof.Machine.execLaunch o s
  | .qpush o => Sys2Proof.Machine.execQpush o s
  | .qpushTry o => Sys2Proof.Machine.execQpushTry o s
  | .qpop o => Sys2Proof.Machine.execQpop o s
  | .qpopTry o => Sys2Proof.Machine.execQpopTry o s
  | .tmig o => Sys2Proof.Machine.execTmig o s
  | .csrr o => Sys2Proof.Machine.execCsrr o s
  | .csrw o => Sys2Proof.Machine.execCsrw o s
  | .trap o => Sys2Proof.Machine.execTrap o s
  | .brk o => Sys2Proof.Machine.execBrk o s
  | .tretRetry o => Sys2Proof.Machine.execTretRetry o s
  | .tretSkip o => Sys2Proof.Machine.execTretSkip o s
  | .nop o => Sys2Proof.Machine.execNop o s
  | .rdclk o => Sys2Proof.Machine.execRdclk o s
  | .rand o => Sys2Proof.Machine.execRand o s
  | .spineAdd w b a d => Sys2Proof.Machine.execSpineAdd w b a d s
  | .spineSub w b a d => Sys2Proof.Machine.execSpineSub w b a d s
  | .spineAnd w b a d => Sys2Proof.Machine.execSpineAnd w b a d s
  | .spineOr w b a d => Sys2Proof.Machine.execSpineOr w b a d s
  | .spineXor w b a d => Sys2Proof.Machine.execSpineXor w b a d s
  | .spineAndn w b a d => Sys2Proof.Machine.execSpineAndn w b a d s
  | .spineShl w b a d => Sys2Proof.Machine.execSpineShl w b a d s
  | .spineShr w b a d => Sys2Proof.Machine.execSpineShr w b a d s
  | .spineSar w b a d => Sys2Proof.Machine.execSpineSar w b a d s
  | .spineMul w b a d => Sys2Proof.Machine.execSpineMul w b a d s
  | .spineMulh w b a d => Sys2Proof.Machine.execSpineMulh w b a d s
  | .spineMulhn w b a d => Sys2Proof.Machine.execSpineMulhn w b a d s
  | .spineDiv w b a d => Sys2Proof.Machine.execSpineDiv w b a d s
  | .spineDivn w b a d => Sys2Proof.Machine.execSpineDivn w b a d s
  | .spineRem w b a d => Sys2Proof.Machine.execSpineRem w b a d s
  | .spineRemn w b a d => Sys2Proof.Machine.execSpineRemn w b a d s
  | .spineMin w b a d => Sys2Proof.Machine.execSpineMin w b a d s
  | .spineMax w b a d => Sys2Proof.Machine.execSpineMax w b a d s
  | .spineMinn w b a d => Sys2Proof.Machine.execSpineMinn w b a d s
  | .spineMaxn w b a d => Sys2Proof.Machine.execSpineMaxn w b a d s
  | .spineSlt w b a d => Sys2Proof.Machine.execSpineSlt w b a d s
  | .spineSltn w b a d => Sys2Proof.Machine.execSpineSltn w b a d s
  | .spineClz w a d => Sys2Proof.Machine.execSpineClz w a d s
  | .spineCtz w a d => Sys2Proof.Machine.execSpineCtz w a d s
  | .spinePopc w a d => Sys2Proof.Machine.execSpinePopc w a d s
  | .spineBrev w a d => Sys2Proof.Machine.execSpineBrev w a d s
  | .addi m a d => Sys2Proof.Machine.execAddi m a d s
  | .andi m a d => Sys2Proof.Machine.execAndi m a d s
  | .ori m a d => Sys2Proof.Machine.execOri m a d s
  | .xori m a d => Sys2Proof.Machine.execXori m a d s
  | .shli n a d => Sys2Proof.Machine.execShli n a d s
  | .shri n a d => Sys2Proof.Machine.execShri n a d s
  | .sari n a d => Sys2Proof.Machine.execSari n a d s
  | .slti m a d => Sys2Proof.Machine.execSlti m a d s
  | .sltni m a d => Sys2Proof.Machine.execSltni m a d s
  | .movu m d => Sys2Proof.Machine.execMovu m d s
  | .addpc m d => Sys2Proof.Machine.execAddpc m d s
  | .spineFadd p b a d => Sys2Proof.Machine.execSpineFadd p b a d s
  | .spineFsub p b a d => Sys2Proof.Machine.execSpineFsub p b a d s
  | .spineFmul p b a d => Sys2Proof.Machine.execSpineFmul p b a d s
  | .spineFdiv p b a d => Sys2Proof.Machine.execSpineFdiv p b a d s
  | .spineFsqrt p a d => Sys2Proof.Machine.execSpineFsqrt p a d s
  | .spineFmin p b a d => Sys2Proof.Machine.execSpineFmin p b a d s
  | .spineFmax p b a d => Sys2Proof.Machine.execSpineFmax p b a d s
  | .spineFeq p b a d => Sys2Proof.Machine.execSpineFeq p b a d s
  | .spineFlt p b a d => Sys2Proof.Machine.execSpineFlt p b a d s
  | .spineFle p b a d => Sys2Proof.Machine.execSpineFle p b a d s
  | .spineFcvt c a d => Sys2Proof.Machine.execSpineFcvt c a d s
  | .spineFfma c b a d => Sys2Proof.Machine.execSpineFfma c b a d s
  | .spineFfmaS c b a d => Sys2Proof.Machine.execSpineFfmaS c b a d s
  | .spineFfms c b a d => Sys2Proof.Machine.execSpineFfms c b a d s
  | .spineFfmsS c b a d => Sys2Proof.Machine.execSpineFfmsS c b a d s
  | .spineFnfma c b a d => Sys2Proof.Machine.execSpineFnfma c b a d s
  | .spineFnfmaS c b a d => Sys2Proof.Machine.execSpineFnfmaS c b a d s
  | .spineFnfms c b a d => Sys2Proof.Machine.execSpineFnfms c b a d s
  | .spineFnfmsS c b a d => Sys2Proof.Machine.execSpineFnfmsS c b a d s
  | .spineLd m x z a d => Sys2Proof.Machine.execSpineLd m x z a d s
  | .spineSt m z a r => Sys2Proof.Machine.execSpineSt m z a r s
  | .amoSwap w o b a d => Sys2Proof.Machine.execAmoSwap w o b a d s
  | .amoAdd w o b a d => Sys2Proof.Machine.execAmoAdd w o b a d s
  | .amoAnd w o b a d => Sys2Proof.Machine.execAmoAnd w o b a d s
  | .amoOr w o b a d => Sys2Proof.Machine.execAmoOr w o b a d s
  | .amoXor w o b a d => Sys2Proof.Machine.execAmoXor w o b a d s
  | .amoMin w o b a d => Sys2Proof.Machine.execAmoMin w o b a d s
  | .amoMax w o b a d => Sys2Proof.Machine.execAmoMax w o b a d s
  | .amoMinn w o b a d => Sys2Proof.Machine.execAmoMinn w o b a d s
  | .amoMaxn w o b a d => Sys2Proof.Machine.execAmoMaxn w o b a d s
  | .spineCas w o b a d => Sys2Proof.Machine.execSpineCas w o b a d s
  | .spineCas2 o b a d => Sys2Proof.Machine.execSpineCas2 o b a d s
  | .lda w o a d => Sys2Proof.Machine.execLda w o a d s
  | .stl w o b a => Sys2Proof.Machine.execStl w o b a s
  | .beq m b a => Sys2Proof.Machine.execBeq m b a s
  | .bne m b a => Sys2Proof.Machine.execBne m b a s
  | .blt m b a => Sys2Proof.Machine.execBlt m b a s
  | .bge m b a => Sys2Proof.Machine.execBge m b a s
  | .bltn m b a => Sys2Proof.Machine.execBltn m b a s
  | .bgen m b a => Sys2Proof.Machine.execBgen m b a s
  | .jl m d => Sys2Proof.Machine.execJl m d s
  | .jlr m a d => Sys2Proof.Machine.execJlr m a d s
  | .spineFence k r => Sys2Proof.Machine.execSpineFence k r s
  | .spinePfence => Sys2Proof.Machine.execSpinePfence s
  | .spineHput m a d => Sys2Proof.Machine.execSpineHput m a d s
  | .spineHget m d => Sys2Proof.Machine.execSpineHget m d s
  | .hpeek m d => Sys2Proof.Machine.execHpeek m d s
  | .spineHacc m a d => Sys2Proof.Machine.execSpineHacc m a d s
  | .hcfg m a => Sys2Proof.Machine.execHcfg m a s
  | .spineCsrr m d => Sys2Proof.Machine.execSpineCsrr m d s
  | .spineCsrw m a => Sys2Proof.Machine.execSpineCsrw m a s
  | .spineExit => Sys2Proof.Machine.execSpineExit s
  | .svc c a => Sys2Proof.Machine.execSvc c a s
  | .spineBrk c => Sys2Proof.Machine.execSpineBrk c s
  | .spineNap a => Sys2Proof.Machine.execSpineNap a s
  | .spineRdclk d => Sys2Proof.Machine.execSpineRdclk d s
  | .spineRand d => Sys2Proof.Machine.execSpineRand d s
  | .spineLoc a d => Sys2Proof.Machine.execSpineLoc a d s
  | .spineLaunch b a => Sys2Proof.Machine.execSpineLaunch b a s
  | .spineCpy b a => Sys2Proof.Machine.execSpineCpy b a s
  | .spineQpush b a => Sys2Proof.Machine.execSpineQpush b a s
  | .spineQpushTry b a d => Sys2Proof.Machine.execSpineQpushTry b a d s
  | .spineQpop b a => Sys2Proof.Machine.execSpineQpop b a s
  | .spineQpopTry b a d => Sys2Proof.Machine.execSpineQpopTry b a d s
  | .spineTiset b a => Sys2Proof.Machine.execSpineTiset b a s
  | .powerOnReset => Sys2Proof.Machine.execPowerOnReset s
  | .orderlyHostReset => Sys2Proof.Machine.execOrderlyHostReset s
  | .hotReset => Sys2Proof.Machine.execHotReset s
  | .vfFunctionLevelReset => Sys2Proof.Machine.execVfFunctionLevelReset s
  | .thermalTrip => Sys2Proof.Machine.execThermalTrip s
  | .throttle => Sys2Proof.Machine.execThrottle s
  | .boost => Sys2Proof.Machine.execBoost s
  | .wipeComplete => Sys2Proof.Machine.execWipeComplete s
  | .pcieConfigurationRequest => Sys2Proof.Machine.execPcieConfigurationRequest s
  | .firmwareUpdate => Sys2Proof.Machine.execFirmwareUpdate s
  | .vendorProvisioning => Sys2Proof.Machine.execVendorProvisioning s
  | .ownerDebug => Sys2Proof.Machine.execOwnerDebug s
  | .ownerReturnToSummer => Sys2Proof.Machine.execOwnerReturnToSummer s
  | .decommission => Sys2Proof.Machine.execDecommission s
  | .correctedError => Sys2Proof.Machine.execCorrectedError s
  | .uncorrectableError => Sys2Proof.Machine.execUncorrectableError s
  | .cacheSoftError => Sys2Proof.Machine.execCacheSoftError s
  | .cxlExtentAdd => Sys2Proof.Machine.execCxlExtentAdd s
  | .cxlExtentRelease => Sys2Proof.Machine.execCxlExtentRelease s
  | .cxlLinkLoss => Sys2Proof.Machine.execCxlLinkLoss s
  | .writeCombiningDrainTimeout => Sys2Proof.Machine.execWriteCombiningDrainTimeout s
  | .snoopRequest => Sys2Proof.Machine.execSnoopRequest s
  | .announcementAccept => Sys2Proof.Machine.execAnnouncementAccept s
  | .announcementDelivery => Sys2Proof.Machine.execAnnouncementDelivery s
  | .readMissFill => Sys2Proof.Machine.execReadMissFill s
  | .ownershipGrant => Sys2Proof.Machine.execOwnershipGrant s
  | .writeBack => Sys2Proof.Machine.execWriteBack s
  | .directoryRecall => Sys2Proof.Machine.execDirectoryRecall s
  | .directoryEviction => Sys2Proof.Machine.execDirectoryEviction s
  | .rdcEviction => Sys2Proof.Machine.execRdcEviction s
  | .homeMapWalk => Sys2Proof.Machine.execHomeMapWalk s
  | .pageTableWalk => Sys2Proof.Machine.execPageTableWalk s
  | .homeRequest => Sys2Proof.Machine.execHomeRequest s
  | .staleResponse => Sys2Proof.Machine.execStaleResponse s
  | .faultRecordPost => Sys2Proof.Machine.execFaultRecordPost s
  | .hold => Sys2Proof.Machine.execHold s
  | .release => Sys2Proof.Machine.execRelease s
  | .flushasid => Sys2Proof.Machine.execFlushasid s
  | .movehold => Sys2Proof.Machine.execMovehold s
  | .movedone => Sys2Proof.Machine.execMovedone s
  | .hminv => Sys2Proof.Machine.execHminv s
  | .homeCommandDone => Sys2Proof.Machine.execHomeCommandDone s
  | .freplayReplay => Sys2Proof.Machine.execFreplayReplay s
  | .freplayUnresolvable => Sys2Proof.Machine.execFreplayUnresolvable s
  | .registerWrite => Sys2Proof.Machine.execRegisterWrite s
  | .svcerrRead => Sys2Proof.Machine.execSvcerrRead s
  | .klstatRead => Sys2Proof.Machine.execKlstatRead s
  | .pcieHostRead => Sys2Proof.Machine.execPcieHostRead s
  | .pcieHostWrite => Sys2Proof.Machine.execPcieHostWrite s
  | .pcieAtomicop => Sys2Proof.Machine.execPcieAtomicop s
  | .klHostRead => Sys2Proof.Machine.execKlHostRead s
  | .klHostWrite => Sys2Proof.Machine.execKlHostWrite s
  | .klHostAtomic => Sys2Proof.Machine.execKlHostAtomic s
  | .hostRecallResponse => Sys2Proof.Machine.execHostRecallResponse s
  | .klLinkUp => Sys2Proof.Machine.execKlLinkUp s
  | .klLinkDown => Sys2Proof.Machine.execKlLinkDown s
  | .notify => Sys2Proof.Machine.execNotify s
  | .notifyTakeEffect => Sys2Proof.Machine.execNotifyTakeEffect s
  | .atsInvalidation => Sys2Proof.Machine.execAtsInvalidation s
  | .hostRefusedTranslation => Sys2Proof.Machine.execHostRefusedTranslation s
  | .pageRequestResponse => Sys2Proof.Machine.execPageRequestResponse s
  | .remoteHomeResponse => Sys2Proof.Machine.execRemoteHomeResponse s
  | .peerRequest => Sys2Proof.Machine.execPeerRequest s
  | .vplTimeout => Sys2Proof.Machine.execVplTimeout s
  | .vplPortDown => Sys2Proof.Machine.execVplPortDown s
  | .vplLinkUp => Sys2Proof.Machine.execVplLinkUp s
  | .codecRequestAccept => Sys2Proof.Machine.execCodecRequestAccept s
  | .pageCompression => Sys2Proof.Machine.execPageCompression s
  | .compressedPageRead => Sys2Proof.Machine.execCompressedPageRead s
  | .ecbDecode => Sys2Proof.Machine.execEcbDecode s
  | .mxAliasRead => Sys2Proof.Machine.execMxAliasRead s
  | .mxAliasWrite => Sys2Proof.Machine.execMxAliasWrite s
  | .pfenceComplete => Sys2Proof.Machine.execPfenceComplete s
  | .mgmttailWrite => Sys2Proof.Machine.execMgmttailWrite s
  | .mgmtrheadWrite => Sys2Proof.Machine.execMgmtrheadWrite s
  | .svpwdtWrite => Sys2Proof.Machine.execSvpwdtWrite s
  | .launchCommand => Sys2Proof.Machine.execLaunchCommand s
  | .ctxnew => Sys2Proof.Machine.execCtxnew s
  | .ctxfree => Sys2Proof.Machine.execCtxfree s
  | .place => Sys2Proof.Machine.execPlace s
  | .pwrlimit => Sys2Proof.Machine.execPwrlimit s
  | .attest => Sys2Proof.Machine.execAttest s
  | .heatscan => Sys2Proof.Machine.execHeatscan s
  | .record => Sys2Proof.Machine.execRecord s
  | .ctxcfgQueues => Sys2Proof.Machine.execCtxcfgQueues s
  | .ctxcfgPeers => Sys2Proof.Machine.execCtxcfgPeers s
  | .ctxcfgSvqmap => Sys2Proof.Machine.execCtxcfgSvqmap s
  | .deviceQueuePush => Sys2Proof.Machine.execDeviceQueuePush s
  | .queueCommit => Sys2Proof.Machine.execQueueCommit s
  | .svpWatchdogExpiry => Sys2Proof.Machine.execSvpWatchdogExpiry s
  | .svpStateError => Sys2Proof.Machine.execSvpStateError s
  | .rcvLockstepMismatch => Sys2Proof.Machine.execRcvLockstepMismatch s
  | .recovery => Sys2Proof.Machine.execRecovery s
  | .recoveryRestart => Sys2Proof.Machine.execRecoveryRestart s
  | .launchTake => Sys2Proof.Machine.execLaunchTake s
  | .teamPlace => Sys2Proof.Machine.execTeamPlace s
  | .teamRetire => Sys2Proof.Machine.execTeamRetire s
  | .issueSlotSelect => Sys2Proof.Machine.execIssueSlotSelect s
  | .sliceExpiry => Sys2Proof.Machine.execSliceExpiry s
  | .dugoutSwap => Sys2Proof.Machine.execDugoutSwap s
  | .shadowFillComplete => Sys2Proof.Machine.execShadowFillComplete s
  | .shadowDrainComplete => Sys2Proof.Machine.execShadowDrainComplete s
  | .matrixPassGrant => Sys2Proof.Machine.execMatrixPassGrant s
  | .forwardProgressExpiry => Sys2Proof.Machine.execForwardProgressExpiry s
  | .registerGrowExpiry => Sys2Proof.Machine.execRegisterGrowExpiry s
  | .teamSpillComplete => Sys2Proof.Machine.execTeamSpillComplete s
  | .migrationComplete => Sys2Proof.Machine.execMigrationComplete s
  | .dieFailure => Sys2Proof.Machine.execDieFailure s
  | .teamLost => Sys2Proof.Machine.execTeamLost s
  | .resultLanding => Sys2Proof.Machine.execResultLanding s
  | .threadEjection => Sys2Proof.Machine.execThreadEjection s
  | .formerGroupTimeout => Sys2Proof.Machine.execFormerGroupTimeout s
  | .squadForm => Sys2Proof.Machine.execSquadForm s
  | .matrixStepComplete => Sys2Proof.Machine.execMatrixStepComplete s
  | .transferPortComplete => Sys2Proof.Machine.execTransferPortComplete s
  | .engineHang => Sys2Proof.Machine.execEngineHang s
  | .engineReset => Sys2Proof.Machine.execEngineReset s
  | .trapEntry => Sys2Proof.Machine.execTrapEntry s
  | .deferredTrapDelivery => Sys2Proof.Machine.execDeferredTrapDelivery s
  | .copyComplete => Sys2Proof.Machine.execCopyComplete s
  | .credArrival => Sys2Proof.Machine.execCredArrival s
  | .credDeadline => Sys2Proof.Machine.execCredDeadline s
  | .credLostTimeout => Sys2Proof.Machine.execCredLostTimeout s
  | .napTimeout => Sys2Proof.Machine.execNapTimeout s
  | .hostSnoop => Sys2Proof.Machine.execHostSnoop s
  | .cxlLinkUp => Sys2Proof.Machine.execCxlLinkUp s

end Sys2Proof.Machine
end

