-- ==== Sys2Proof/Machine/Run.lean ====
section
/-! DEFINITION. What a step of an agent does: fetch, decode and run its next instruction (14 R313 to R322, 13 R297); an
instruction of an SVP thread (05 R114); what falls due at its exact clock (00 R5); and what accompanies every step: time,
waits that end without an event of their own, the ages of squads (06 R147), the stall of register growth (06 R156), shadow
banks (13 R304) and the team headers in memory (06 R143, 13 R308). -/

namespace Sys2Proof.Machine

/-! ### Agents -/

/-- The squad's slot runs the word at its position (14 R320, 06 R148). -/
def runWord (s : State) (id : Nat) (q : Squad) : Outcome :=
  match fetchWord s id q q.pos with
  | (s1, .bytes bs) =>
    let w := wordVal bs
    if wordOk (hdrUni q.hdr) (hdrN q.hdr) ((q.pos - q.hpos).toNat / 12) w then
      match decodeLane w with
      | .error _ => .next (preciseTrap s1 id tIllop q.em w)
      | .ok i =>
        let now := clk s (q.core / 256)
        let s2 := modSquad s1 id fun q => { q with code := mdel q.code q.pos.toNat, lastIssue := now }
        exec i { s2 with cores := mset s2.cores q.core { mgetD s2.cores q.core {} with idleSince := now } }
    else .next (takeTrap s1 id { code := tIllop, tlm := q.em, tpc := q.hpos, word := q.hdr })
  | (s1, f) => .next (fetchFailed s s1 id q q.pos f)

/-- One turn of a squad: deliver a trap, leave without threads, or run the next word of its volley. -/
def runSquad (s : State) (id : Nat) : Outcome :=
  match mget s.squads id with
  | none => .next s
  | some q =>
    if (teamOf s q.team).runs = false then .next s
    else if !q.traps.isEmpty && !inHandler q && q.wait != .handler then .next (deliverTrap s id)
    else if q.pm = 0 ∧ (inHandler q = false ∨ q.leaving) then .next (settleExit s id)
    else if q.held.isSome && q.inVolley then runWord s id q
    else .next s

/-- A fetch of spine code that fails. -/
def spineFetchFailed (s0 s : State) (t : Nat) (sp : Spine) (f : Fetched) : State :=
  let r := rqSpine s sp
  match f with
  | .bytes _ => s
  | .fault k d h p => spineFault s t r .ifetch k d h p sp.pc.toNat accFetch
  | .poison => spineTrap s t tPoison sp.pc
  | .held => s0
  | .remote h =>
    spineWait (sendRemote s { id := 0, who := .spine t, kind := .ifetch, asid := r.asid, va := sp.pc, st := .sent,
                              die := r.die, slot := r.slot, acc := accFetch, hme := h }) t .fault (some sp.pc)

/-- The word at a spine thread's pc. -/
def spineFetch (s : State) (sp : Spine) : State × Fetched :=
  match sp.code with
  | some bs => (s, .bytes bs)
  | none => fetchCode s (rqSpine s sp) sp.pc.toNat 4

/-- A spine thread runs its next instruction (07 R163). -/
def runSpineWord (s : State) (t : Nat) (sp : Spine) : Outcome :=
  match spineFetch s sp with
  | (s1, .bytes bs) =>
    let w : Word := BitVec.ofNat 32 (fieldOf bs 0 4)
    let s2 := modSpine s1 t fun sp => { sp with wait := .none, lastIssue := clk s (dieOfCluster sp.cluster) }
    match decodeSpine w with
    | .error _ => .next (spineTrap s2 t tIllop (w.setWidth 64))
    | .ok i => exec i s2
  | (s1, f) => .next (spineFetchFailed s s1 t sp f)

/-- One turn of a spine thread. -/
def runSpine (s : State) (t : Nat) : Outcome :=
  match mget s.spines t with
  | none => .next s
  | some sp =>
    if !sp.live || !(teamOf s t).runs then .next s
    else if sp.wait = .none then runSpineWord s t sp
    else .next s

/-- One turn of an agent. -/
def runAgent (s : State) (a : Agent) : Outcome :=
  match a with
  | .none => .next s
  | .squad id => runSquad s id
  | .spine t => runSpine s t

/-! ### SVP threads (05 R114; log entry 86) -/

/-- Instructions that an SVP thread runs: those on its registers and memory. The others belong to a team's thread. -/
def svpRuns (i : Instr) : Bool :=
  match i with
  | .spineLaunch _ _ | .spineCpy _ _ | .spineQpush _ _ | .spineQpushTry _ _ _ | .spineQpop _ _ | .spineQpopTry _ _ _
  | .spineTiset _ _ | .svc _ _ | .spineExit | .spineBrk _ | .spineHput _ _ _ | .spineHget _ _ | .hpeek _ _ | .spineHacc _ _ _
  | .hcfg _ _ | .spineLoc _ _ => false
  | _ => true

/-- An SVP thread that is awake runs an instruction of its firmware; its addresses are physical. A `nap` puts it to sleep, until it
is woken or its time is over (15 R365). -/
def runSvp (s : State) (q : Nat) (w : Word) : Outcome :=
  if q ≥ 64 ∨ s.svpFrozen ∨ s.svcAwake.getLsbD q = false ∨ s.dpush.any (fun p => p.thread == some q) then .next s
  else
    let t := svpNo q
    let sp : Spine := { mgetD s.svps q { team := t, cluster := 0, pc := 0 } with team := t, wait := .none }
    match decodeSpine w with
    | .error _ => .next s
    | .ok i =>
      if svpRuns i = false then .next s
      else match exec i { s with turn := .spine t, spines := mset s.spines t sp } with
        | .next s' =>
          let sp' := mgetD s'.spines t sp
          let s' := { s' with turn := s.turn, spines := mdel s'.spines t }
          (match sp'.wait with
           | .nap _ => .next (svpSleep { s' with svps := mset s'.svps q (retire sp') } q)
           | _ => .next { s' with svps := mset s'.svps q sp' })
        | o => o

/-- SVP threads whose `nap` has lasted its time wake. -/
def wakeSvps (s : State) : State :=
  s.svps.foldl (fun s x =>
    match x.2.wait with
    | .nap (some n) =>
      if n ≤ s.timeNs.toNat then { svcWake s x.1 with svps := mset s.svps x.1 { x.2 with wait := .none } } else s
    | _ => s) s

/-! ### Events at exact clocks (00 R5) -/

/-- Groups of a team that wait for 256 clocks without an arrival, with their places (09 R212). -/
def quietGroups (t : Team) : List (Nat × Group) := (t.groups.zipIdx.filter fun p => !p.1.due).map fun p => (p.2, p.1)

/-- Cores whose team must be spilled for one that waits, with the clock at which their count reaches `FPWIN` (06 R155). -/
def fpCores (s : State) : List (Nat × Nat) :=
  s.cores.filterMap fun x =>
    match setOfCore s x.1 with
    | none => none
    | some k =>
      if (waitingTeam s k).isNone ∨ (victims s x.1).isEmpty then none
      else
        let win := (getDie s (x.1 / 256)).fpwin.toNat
        if win = 0 then none else some (x.1, x.2.idleSince + win)

/-- Partitions whose stall on register growth ends with a spill, with the clock (06 R156). -/
def growCores (s : State) : List (Nat × Nat × Nat) :=
  (s.cores.filter fun x => !x.2.growSince.isEmpty && !(victims s x.1).isEmpty).flatMap fun x =>
    x.2.growSince.map fun g => (x.1, g.1, g.2 + 1024)

/-- What falls due, in the order of the rules: its die, its clock, the step and what it is about. The clocks of a dugout swap are
those of the die of the set's first core (log entry 91). -/
def deadlines (s : State) : List (Nat × Nat × Instr × EvArg) :=
  (s.announces.filterMap fun x => x.acceptedAt.map fun c => (x.die, c + 24, .announcementDelivery, { die := BitVec.ofNat 3 x.die }))
  ++ (s.wc.filter fun e => !e.stuck).map (fun e => (dieOfCluster e.cluster, e.lastStore + 256, .writeCombiningDrainTimeout,
        { cluster := e.cluster, asid := e.asid, va := e.va }))
  ++ (s.teams.flatMap fun x => (quietGroups x.2).map fun g =>
        (g.2.core / 256, g.2.lastArrival + 256, .formerGroupTimeout, { id := x.1, len := g.1 }))
  ++ (growCores s).map (fun x => (x.1 / 256, x.2.2, .registerGrowExpiry, { core := x.1, part := x.2.1 }))
  ++ (fpCores s).map (fun x => (x.1 / 256, x.2, .forwardProgressExpiry, { core := x.1 }))
  ++ s.psets.filterMap fun p => p.2.swap.map fun w => (p.2.cores.getD 0 0 / 256, w.2 + 64, .dugoutSwap, { slot := BitVec.ofNat 6 p.1 })

/-- What falls due on the time base: the watchdog (05 R121), engines without a token (11 R263), requests to peers (04 R103),
and the nanosecond after the deadline of a reduction, and after the 1 ms that follows it (18 R455, R456). -/
def timeDeadlines (s : State) : List (Nat × Instr × EvArg) :=
  (if s.dev.ready then [(s.dev.wdtStart + 1000000 * s.dev.svpwdt.toNat, .svpWatchdogExpiry, default)] else [])
  ++ (distinct (s.mops.map (mopCluster s))).filterMap (fun cl =>
        let ms := (getDie s (dieOfCluster cl)).mewdt.toNat
        let c := getCluster s cl
        if ms = 0 ∨ c.hung ∨ (engineOps s cl).isEmpty then none else some (c.lastToken + ms * 1000000, .engineHang, { cluster := cl }))
  ++ (s.reqs.filter fun r => r.st == .remote && hmeHome r.hme == 10).map (fun r =>
        (r.sentAt + 2 ^ s.io.vplTmo.toNat * 64000, .vplTimeout, { id := r.id }))
  ++ (s.rgroups.filter fun g => !g.closing && openGroup s g.slot g.va == some g).map (fun g =>
        (cDeadline g.desc + 1, .credDeadline, { slot := BitVec.ofNat 6 g.slot, va := g.va }))
  ++ s.creds.map fun c => (cDeadline c.desc + 1000001, .credLostTimeout, { id := c.id })

/-- The first step that is due: it comes before anything else. -/
def dueEvent (s : State) : Option (Instr × EvArg) :=
  (((deadlines s).find? fun x => decide (x.2.1 ≤ clk s x.1)).map fun x => x.2.2).or
    (((timeDeadlines s).find? fun x => decide (x.1 ≤ s.timeNs.toNat)).map fun x => x.2)

/-- The clock of a die after some clocks, not past the next step that falls due there. -/
def clockNext (s : State) (due : List (Nat × Nat × Instr × EvArg)) (d n : Nat) : Nat :=
  match (due.filter fun x => x.1 == d).map (fun x => x.2.1) with
  | [] => clk s d + n
  | c :: cs => Nat.max (clk s d) (Nat.min (clk s d + n) (cs.foldl Nat.min c))

/-- The time base after n ns, not past the next step that falls due on it. -/
def timeNext (s : State) (n : Nat) : Nat :=
  match (timeDeadlines s).map (·.1) with
  | [] => s.timeNs.toNat + n
  | c :: cs => Nat.max s.timeNs.toNat (Nat.min (s.timeNs.toNat + n) (cs.foldl Nat.min c))

/-! ### Waits that end without an event of their own -/

/-- What an agent's next word would do. -/
def tryWord (s : State) (a : Agent) : Option State :=
  let out (o : Outcome) : Option State := match o with | .next t => some t | _ => none
  match a with
  | .none => none
  | .squad id => (mget s.squads id).bind fun q => out (runWord { s with turn := a } id q)
  | .spine t => (mget s.spines t).bind fun sp => out (runSpineWord { s with turn := a } t sp)

/-- A wait that another try of the instruction may end. -/
def Wait.tried : Wait → Bool
  | .hold | .queue _ => true
  | _ => false

/-- What a try that waits again has asked for. -/
def keepAsked (s t : State) : State := { keepSaid s t with reqs := t.reqs, nextId := t.nextId }

/-- A squad whose instruction would wait again goes on waiting; another one may be issued (06 R148, 05 R474). -/
def retrySquad (s : State) (x : Nat × Squad) : State :=
  if x.2.wait.tried = false ∨ x.2.eject.isSome ∨ (teamOf s x.2.team).runs = false then s
  else if x.2.inVolley = false then
    (if x.2.wait = .hold ∧ volleyHeld s x.1 x.2 then s else modSquad s x.1 fun q => { q with wait := .none })
  else match tryWord s (.squad x.1) with
    | none => s
    | some t =>
      match mget t.squads x.1 with
      | some q => if q.wait = x.2.wait ∧ q.pos = x.2.pos then keepAsked s t else modSquad s x.1 fun q => { q with wait := .none }
      | none => modSquad s x.1 fun q => { q with wait := .none }

def retrySpine (s : State) (x : Nat × Spine) : State :=
  if x.2.wait.tried = false ∨ x.2.live = false ∨ (teamOf s x.1).runs = false then s
  else match tryWord s (.spine x.1) with
    | none => s
    | some t =>
      match mget t.spines x.1 with
      | some sp => if sp.wait = x.2.wait ∧ sp.pc = x.2.pc then keepAsked s t else modSpine s x.1 fun sp => { sp with wait := .none }
      | none => modSpine s x.1 fun sp => { sp with wait := .none }

def retryHeld (s : State) : State := s.spines.foldl retrySpine (s.squads.foldl retrySquad s)

/-! ### What accompanies a step -/

/-- A squad wins no slot by becoming eligible, but its age restarts; one that has held a slot until now ages on from its last
win, but a volley with a yield hint restarts its age at the end (06 R147). -/
def ageSquad (s0 s1 : State) (x : Nat × Squad) : Nat × Squad :=
  let before := mget s0.squads x.1
  let was := match before with | some q => q.held.isSome || eligible s0 x.1 q | none => false
  let ended := match before with | some q => q.inVolley && !x.2.inVolley && q.yieldHint | none => false
  if (eligible s1 x.1 x.2 && !was) || ended then (x.1, { x.2 with wonAt := clk s1 (x.2.core / 256) }) else x

/-- Some resident squad of a partition is stalled on register growth that its pool cannot meet, and every other one is so
stalled or in a visible wait (06 R156). -/
def growStalled (s : State) (core part : Nat) : Bool :=
  let here := s.squads.filter fun x => x.2.core == core && x.2.part == part && (teamOf s x.2.team).state == .resident
  let stalled (x : Nat × Squad) : Bool := match x.2.wait with | .grow rows => growCheck s x.1 x.2 rows == .wait | _ => false
  here.any stalled && here.all fun x => stalled x || visibleWait s x.1 x.2

/-- Since when each partition of a core has been stalled so. -/
def growClock (s : State) (x : Nat × CoreSt) : Nat × CoreSt :=
  let now := clk s (x.1 / 256)
  (x.1, { x.2 with growSince := ((List.range 12).filter (growStalled s x.1)).map fun p => (p, mgetD x.2.growSince p now) })

/-- Code of a team state in its header (06 R143). -/
def TeamState.code : TeamState → Nat
  | .pending => 0
  | .resident => 1
  | .spilled => 2
  | .swapped => 3
  | .migrating => 4
  | .exited => 5
  | .retired => 6

/-- A team header (06 R143, 13 R308). -/
def teamHeader (s : State) (t : Team) : List Byte :=
  let g := gridOf s t
  let spawn := match t.spawnSlot with
    | some k => g.lr.spawnbase.toNat + 1024 * g.lr.spawnkib * k
    | none => 0
  bytesOf 4 t.index ++ bytesOf 1 t.state.code
  ++ bytesOf 1 (flagBit g.lr.idem 0 + flagBit t.escaped 1 + flagBit g.lr.mig 2 + flagBit t.restarted 3)
  ++ bytesOf 1 g.depth ++ zeros 1 ++ bytesOf 4 t.children
  ++ bytesOf 4 (t.barArr + flagBit t.barPhase 31) ++ bytesOf 8 g.lrec.toNat ++ bytesOf 8 spawn
  ++ bytesOf 8 t.image.toNat ++ bytesOf 4 t.nblk ++ bytesOf 4 (t.hsq.getD 0xFFFFFFFF) ++ bytesOf 8 t.cut.toNat
  ++ bytesOf 4 (t.index / 2 ^ 32) ++ zeros 4

/-- Keep a team's header in memory (R143): the device writes it when it changes, and once its page is no longer held. -/
def syncHeader (s0 s : State) (x : Nat × Team) : State :=
  match x.2.hdrSlot with
  | none => s
  | some k =>
    let new := teamHeader s x.2
    let old := match mget s0.teams x.1 with | some t => if t.hdrSlot = some k then teamHeader s0 t else [] | none => []
    if old = new ∧ x.2.hdrDue = false then s
    else
      let slot := (gridOf s x.2).slot
      let r : Rq := { die := 0, cluster := 0, slot := slot, asid := ctxAsid s slot, agent := .none, l1 := false }
      let due (s : State) (b : Bool) : State := if x.2.hdrDue = b then s else modTeam s x.1 fun t => { t with hdrDue := b }
      match storeRange s r (ccb s slot 0x38 8 + 64 + 64 * k) new with
      | (s', .done) => due s' false
      | (s', .held) => due (keepSaid s s') true
      | _ => due s false

def syncHeaders (s0 s : State) : State := s.teams.foldl (syncHeader s0) s

/-- A grid that has ended, whose teams' headers are written and their operations over (07 R177). -/
def leaves (s : State) (id : Nat) (g : Grid) : Bool := g.gone && !s.teams.any fun t => t.2.grid == id && (t.2.hdrDue || teamOps s t.1)

/-- Grids that have ended leave, with their teams, once the headers are written. -/
def dropGone (s : State) : State :=
  if s.grids.any (·.2.gone) then
    { s with
      teams := s.teams.filter fun t => !leaves s t.2.grid (mgetD s.grids t.2.grid default)
      grids := s.grids.filter fun g => !leaves s g.1 g.2 }
  else s

/-- The elements of a reduction's source as they stand at its issue (18 R454; log entry 79). -/
def snapCreds (s : State) : State :=
  { s with creds := s.creds.map fun c => if c.old.isNone then { c with old := some (credPeek s c) } else c }

/-- `CODEC_STALL` counts the clocks in which a unit's queue is full (02 R50). -/
def stallCodecs (d : Die) (n : Nat) : Die :=
  let full (u : Nat) : Bool := decide (64 ≤ (d.codecQ.getD u []).length)
  let bump (m : FMap Dword) (u : Nat) : FMap Dword :=
    if full u then mset m (8 * u + 7) (mgetD m (8 * u + 7) 0 + BitVec.ofNat 64 n) else m
  { d with codec := bump (bump d.codec 0) 1 }

/-- The access of an agent or operation that is still there (03 R67). -/
def HeldAcc.stands (s : State) (h : HeldAcc) : Bool :=
  match h.op, h.agent with
  | some k, _ => s.copies.any (fun c => c.id == k) || s.mops.any (fun m => m.id == k) || s.creds.any fun c => c.id == k
  | none, .squad id => (mget s.squads id).isSome
  | none, .spine t => (mget s.spines t).isSome
  | none, .none => true

def dropHeldAccs (s : State) : State := { s with heldAccs := s.heldAccs.filter (·.stands s) }

/-- What follows a step's own effect, before time passes. -/
def settle (s0 s : State) : State :=
  settleClosing (dropGone (syncHeaders s0 (syncShadows (msixFlush (snapCreds (dropHeldAccs (settleMerged s)))))))

/-- Time passes with every step; ages, stalls and waits follow. -/
def tick (s0 s : State) : State :=
  let s1 := settle s0 s
  let due := deadlines s1
  let clocks := (List.range 8).foldl (fun m d => mset m d (clockNext s1 due d (Config.stepClocks (8 * s.freeNo + d)))) s1.clocks
  let s2 := { s1 with
    clocks := clocks
    timeNs := BitVec.ofNat 64 (timeNext s1 (Config.stepNs s.freeNo))
    freeNo := s1.freeNo + 1
    dies := s1.dies.map fun d => (d.1, stallCodecs d.2 (mgetD clocks d.1 0 - clk s1 d.1)) }
  let s3 := retryHeld (wakeSvps s2)
  { s3 with
    squads := s3.squads.map (ageSquad s0 s3)
    cores := s3.cores.map (growClock s3) }

/-- A step's outcome with what accompanies it. -/
def tickOutcome (s : State) (o : Outcome) : Outcome :=
  match o with
  | .next t => .next (tick s t)
  | o => o

end Sys2Proof.Machine
end

