-- ==== Sys2Proof/Machine/Boot.lean ====
section
/-! DEFINITION. A loaded program for one instruction: a live context with one page of code, and an agent about to fetch
the instruction there. It stands for what the host and the SVP do before a program runs (log entry 23). -/

namespace Sys2Proof.Machine

/-- Physical place of the code page, in the first stack of the first die, past the 64 context blocks. -/
abbrev bootPage : Nat := 0x100000

/-- A leaf for that page: valid, readable, writable, executable, accessed and dirty, atomics allowed. -/
abbrev bootLeaf : Nat := 0x70F + bootPage / 65536 * 2 ^ 28

/-- Home map and page table of that page, each entry leading to the next table: VA 0 is homed on die 0. -/
abbrev bootHm : Nat := 0x300000
abbrev bootPt : Nat := 0x304000

/-- Write a chain of n table pointers, one to each 4 KiB table after the first. -/
def bootTables (m : List Host.Cell) (base : Nat) : Nat → List Host.Cell
  | 0 => m
  | n + 1 => memWriteN (bootTables m base n) (base + 0x1000 * n) (bytesOf 8 (base + 0x1000 * (n + 1) + 1))

/-- Memory of the context: its block, its home map and page table. -/
def bootMem (s : State) : List Host.Cell :=
  let m := memWriteN s.mem (ccbAt s 0) (bytesOf 8 (1 + 2 ^ 16) ++ bytesOf 8 (bootPt + 1) ++ bytesOf 8 (bootHm + 1))
  memWriteN (bootTables (bootTables m bootHm 3) bootPt 4) (bootPt + 0x4000) (bytesOf 8 bootLeaf)

/-- The launch record of one team of 32 threads on one core. -/
def bootLr (spine : Bool) : LRec :=
  { gridx := 1, gridy := 1, gridz := 1, teamx := 32, teamy := 1, teamz := 1, cores := 1, rows := 1, spine := spine,
    doneq := 0xFFFF }

/-- A live context in slot 0 with ASID 1, its code page at VA 0, and the grid and team of number n. -/
def bootContext (s : State) (n : Nat) (spine : Bool) : State :=
  let d := getDie s 0
  { s with
    moves := []
    mem := bootMem s
    dies := mset s.dies 0 { d with
      hmc := ⟨1, 0, 0⟩ :: d.hmc
      tlb := ⟨1, 0, 16, bootPt + 0x4000, BitVec.ofNat 64 bootLeaf⟩ :: d.tlb }
    grids := mset s.grids n { slot := 0, lrec := 0, lr := bootLr spine, tag := 0, parent := none, depth := 0, next := 1, count := 1 }
    teams := mset s.teams n { grid := n, index := 0, state := .resident, cores := [0], vcores := [0], segs := [{}] }
    nextId := n + 1 }

/-- The header of the volley that holds the word: it is the last word, or the first of two. -/
def bootHeader (w : Nat) : BitVec 96 :=
  BitVec.ofNat 96 ((if bitOf w 26 then 1 else 2) * 2 ^ 10 + 15 * 2 ^ 27 + 15 * 2 ^ 32)

/-- An agent about to fetch the word: a spine thread for 32 bits, a squad within a volley for 96. -/
def withWord (s : State) (nbits w : Nat) : State :=
  let n := s.nextId
  if nbits = 32 then
    let s := bootContext s n true
    { s with
      turn := .spine n
      mem := memWriteN s.mem (bootPage + 16) (bytesOf 4 w)
      spines := mset s.spines n { team := n, cluster := 0, pc := 16 } }
  else
    let s := bootContext s n false
    { s with
      turn := .squad n
      mem := memWriteN s.mem (bootPage + 12) (bytesOf 12 w)
      squads := mset s.squads n (setHeader (bootHeader w) 0
        { team := n, index := 0, pos := 12, inVolley := true, held := some false,
          origin := laneIdx.map fun l => ⟨0, l, 0⟩ }) }

end Sys2Proof.Machine
end

