-- ==== Sys2Proof/Machine/Step.lean ====
section
/-! DEFINITION. One step of the machine: what is due at its exact clock, else the oldest waiting move, else the agent whose
turn it is (log entry 6). -/

namespace Sys2Proof.Machine

/-- One step that nothing due comes before. -/
def stepMove (s : State) : Outcome :=
  match s.moves with
  | .event i a :: rest => exec i { s with moves := rest, arg := a }
  | .run a :: rest => runAgent { s with moves := rest, turn := a } a
  | .readReg a :: rest => .next (readRegister { s with moves := rest, arg := a })
  | .pcieLink up :: rest => .next (pcieLink { s with moves := rest } up)
  | .resizeBar2 lg :: rest => .next (resizeBar2 { s with moves := rest } lg)
  | .msixEntry fn vec e :: rest => .next (msixEntry { s with moves := rest } fn vec e)
  | .readMsix a :: rest => .next (readMsix { s with moves := rest, arg := a })
  | .svp q w :: rest => runSvp { s with moves := rest } q w
  | [] => runAgent s s.turn

/-- One step. -/
def step (s : State) : Outcome :=
  match dueEvent s with
  | some (i, a) => tickOutcome s (exec i { s with arg := a })
  | none => tickOutcome s (stepMove s)

/-- A state whose next step runs a given instruction (log entry 23). -/
def State.withFetchWord (s : State) (nbits w : Nat) : State := withWord s nbits w

end Sys2Proof.Machine
end

