-- ==== Sys2Proof/Certificates/Slice0/Obligations.lean ====
section
/-! DEFINITION. The statements for the provers. Words that they share stand in `Sys2Proof.Claims`; each docstring names the
rules of the spec that a statement formalises, and the log entry where a clause rests on the model's choice. -/

namespace Sys2Proof.Claims

open Sys2Proof Sys2Proof.Machine

/-! ### Words of the statements: spine threads -/

/-- A thread that has left its instruction for an address. -/
def gone (sp : Spine) (pc : Dword) : Spine :=
  { sp with pc := pc, granted := none, resp := none, code := none, log := none }

/-- The state in which thread t stands so; nothing else differs. -/
def thread (s : State) (t : Nat) (sp : Spine) : State := { s with spines := mset s.spines t sp }

/-- The thread has written x[D] and stands at the next word (07 R163, 15 R344). -/
def wrote (s : State) (t : Nat) (sp : Spine) (d : BitVec 6) (v : Dword) : State :=
  thread s t (gone (setX sp d v) (sp.pc + 4))

/-- The two-operand integer instructions with their results at a width, as 15 R345 and R346 give them. -/
def intTable : List ((Bool → BitVec 6 → BitVec 6 → BitVec 6 → Instr) × ((n : Nat) → BitVec n → BitVec n → BitVec n)) :=
  [(.spineAdd, fun _ a b => a + b), (.spineSub, fun _ a b => a - b), (.spineAnd, fun _ a b => a &&& b),
   (.spineOr, fun _ a b => a ||| b), (.spineXor, fun _ a b => a ^^^ b), (.spineAndn, fun _ a b => a &&& ~~~b),
   (.spineShl, fun n a b => a <<< (b.toNat % n)), (.spineShr, fun n a b => a >>> (b.toNat % n)),
   (.spineSar, fun n a b => a.sshiftRight (b.toNat % n)), (.spineMul, fun _ a b => a * b),
   (.spineMulh, fun n a b => (a.signExtend (2 * n) * b.signExtend (2 * n)).extractLsb' n n),
   (.spineMulhn, fun n a b => (a.setWidth (2 * n) * b.setWidth (2 * n)).extractLsb' n n),
   (.spineDiv, fun n a b => if b = 0 then BitVec.allOnes n else a.sdiv b),
   (.spineDivn, fun n a b => if b = 0 then BitVec.allOnes n else a / b),
   (.spineRem, fun _ a b => if b = 0 then a else a.srem b), (.spineRemn, fun _ a b => if b = 0 then a else a % b),
   (.spineMin, fun _ a b => if a.sle b then a else b), (.spineMax, fun _ a b => if a.sle b then b else a),
   (.spineMinn, fun _ a b => if a.ule b then a else b), (.spineMaxn, fun _ a b => if a.ule b then b else a),
   (.spineSlt, fun n a b => if a.slt b then 1#n else 0), (.spineSltn, fun n a b => if a.ult b then 1#n else 0)]

/-- The one-operand ones. -/
def intUnTable : List ((Bool → BitVec 6 → BitVec 6 → Instr) × ((n : Nat) → BitVec n → BitVec n)) :=
  [(.spineClz, fun _ a => a.clz), (.spineCtz, fun _ a => a.ctz), (.spinePopc, fun _ a => a.cpop),
   (.spineBrev, fun _ a => a.reverse)]

/-- The immediate forms, with the operand that the sign-extended immediate, or the shift amount, makes (15 R347). -/
def immTable : List ((BitVec 14 → BitVec 6 → BitVec 6 → Instr) × (Dword → Dword → Dword)) :=
  [(.addi, fun a b => a + b), (.andi, fun a b => a &&& b), (.ori, fun a b => a ||| b), (.xori, fun a b => a ^^^ b),
   (.slti, fun a b => if a.slt b then 1 else 0), (.sltni, fun a b => if a.ult b then 1 else 0)]

def shiftTable : List ((BitVec 6 → BitVec 6 → BitVec 6 → Instr) × (Dword → Nat → Dword)) :=
  [(.shli, fun a n => a <<< n), (.shri, fun a n => a >>> n), (.sari, fun a n => a.sshiftRight n)]

/-- Branches with their conditions (15 R355). -/
def branchTable : List ((BitVec 14 → BitVec 6 → BitVec 6 → Instr) × (Dword → Dword → Bool)) :=
  [(.beq, fun a b => a == b), (.bne, fun a b => a != b), (.blt, fun a b => a.slt b), (.bge, fun a b => b.sle a),
   (.bltn, fun a b => a.ult b), (.bgen, fun a b => b.ule a)]

end Sys2Proof.Claims

open Sys2Proof Sys2Proof.Machine

/-- 15 R344 to R347: each two-operand integer instruction writes its result, computed at 64 bits or, in the `.w` form, on
the low halves and sign-extended; so do the bit counts and the bit reversal, the immediate forms, `movu` and `addpc`.
Nothing else changes but the thread's position. -/
def Obligations.SpineIntegerResults : Prop :=
  ∀ (s : State) (t : Nat) (sp : Spine), curSpine s = some (t, sp) →
    (∀ r ∈ Claims.intTable, ∀ (w : Bool) (b a d : BitVec 6),
      exec (r.1 w b a d) s = .next (Claims.wrote s t sp d
        (if w then (r.2 32 ((getX sp a).setWidth 32) ((getX sp b).setWidth 32)).signExtend 64
         else r.2 64 (getX sp a) (getX sp b))))
    ∧ (∀ r ∈ Claims.intUnTable, ∀ (w : Bool) (a d : BitVec 6),
      exec (r.1 w a d) s = .next (Claims.wrote s t sp d
        (if w then (r.2 32 ((getX sp a).setWidth 32)).signExtend 64 else r.2 64 (getX sp a))))
    ∧ (∀ r ∈ Claims.immTable, ∀ (i : BitVec 14) (a d : BitVec 6),
      exec (r.1 i a d) s = .next (Claims.wrote s t sp d (r.2 (getX sp a) (i.signExtend 64))))
    ∧ (∀ r ∈ Claims.shiftTable, ∀ (n a d : BitVec 6),
      exec (r.1 n a d) s = .next (Claims.wrote s t sp d (r.2 (getX sp a) n.toNat)))
    ∧ (∀ (i : BitVec 20) (d : BitVec 6),
      exec (.movu i d) s = .next (Claims.wrote s t sp d (i.signExtend 64 <<< 12)))
    ∧ (∀ (i : BitVec 20) (d : BitVec 6),
      exec (.addpc i d) s = .next (Claims.wrote s t sp d (sp.pc + (i.signExtend 64 <<< 12))))

/-- 15 R355, R356, R327: a branch goes to its address + 4 x immediate if its comparison holds, else to the next word, and
writes no register. `jl` and `jlr` link and jump; `jlr` computes its target first, and a target that is not a multiple of
4 traps `MISALIGN` with the target in `SVAL`. -/
def Obligations.SpineBranchesAndJumps : Prop :=
  ∀ (s : State) (t : Nat) (sp : Spine), curSpine s = some (t, sp) →
    (∀ r ∈ Claims.branchTable, ∀ (i : BitVec 14) (b a : BitVec 6),
      exec (r.1 i b a) s = .next (Claims.thread s t (Claims.gone sp
        (if r.2 (getX sp a) (getX sp b) then sp.pc + 4 * i.signExtend 64 else sp.pc + 4))))
    ∧ (∀ (i : BitVec 20) (d : BitVec 6),
      exec (.jl i d) s = .next (Claims.thread s t (Claims.gone (setX sp d (sp.pc + 4)) (sp.pc + 4 * i.signExtend 64))))
    ∧ ∀ (i : BitVec 14) (a d : BitVec 6),
      let target := getX sp a + i.signExtend 64
      exec (.jlr i a d) s = .next
        (if target.toNat % 4 = 0 then Claims.thread s t (Claims.gone (setX sp d (sp.pc + 4)) target)
         else spineTrap s t tMisalign target)

namespace Sys2Proof.Claims

open Sys2Proof Sys2Proof.Machine

/-! ### Words of the statements: exact numbers and their rounding -/

/-- The number of a finite value. -/
def num (neg : Bool) (m : Nat) (e : Int) : ℚ := (if neg then -(m : ℚ) else m) * 2 ^ e

/-- The magnitude of a code of a format (12 R266); codes past the largest finite one go on as if exponents had no upper
bound. -/
def mag (f : Fmt) (c : Nat) : ℚ :=
  if c / 2 ^ f.mw = 0 then (c : ℚ) * 2 ^ f.qmin
  else ((2 ^ f.mw + c % 2 ^ f.mw : Nat) : ℚ) * 2 ^ (f.qmin + (c / 2 ^ f.mw : Nat) - 1)

/-- A mode takes a magnitude of a sign away from zero, towards zero, or to the nearest (12 R272). -/
def isAway (r : Rm) (neg : Bool) : Bool := (r == .rd && neg) || (r == .ru && !neg)

/-- The k-th of increasing magnitudes is x rounded in a mode; at a tie k is even. `up` compares: the identity, or the square
where x is the square of the magnitude meant. -/
def nearest (v : Nat → ℚ) (r : Rm) (neg : Bool) (up : ℚ → ℚ) (x : ℚ) (k : Nat) : Prop :=
  if r = .rne then
    x ≤ up ((v k + v (k + 1)) / 2) ∧ (x = up ((v k + v (k + 1)) / 2) → k % 2 = 0)
    ∧ (0 < k → up ((v (k - 1) + v k) / 2) ≤ x ∧ (x = up ((v (k - 1) + v k) / 2) → k % 2 = 0))
  else if isAway r neg = true then x ≤ up (v k) ∧ (0 < k → up (v (k - 1)) < x)
  else up (v k) ≤ x ∧ x < up (v (k + 1))

/-- The magnitude of a result that rounds past the largest finite one (12 R272, R278). -/
def overflowed (f : Fmt) (r : Rm) (sat neg : Bool) : Nat :=
  if sat = true ∨ f.top = .finite then f.maxFinite
  else if f.top = .nanOnly then f.defNaN
  else if r = .rne ∨ isAway r neg = true then f.infCode else f.maxFinite

/-- A result is a magnitude x of a sign, rounded once to a format (12 R272, R277, R278): its code, and its exceptions;
tininess is found after rounding, at the precision of the format with no lower bound of exponents. -/
def rounded (f : Fmt) (r : Rm) (sat neg : Bool) (up : ℚ → ℚ) (x : ℚ) (y : FR) : Prop :=
  y.nv = false ∧ y.dz = false ∧ ∃ c, nearest (mag f) r neg up x c
    ∧ (c ≤ f.maxFinite → y.bits = f.withSign neg c ∧ y.of = false ∧ (y.nx = true ↔ up (mag f c) ≠ x)
        ∧ (y.uf = true ↔ up (mag f c) ≠ x ∧ ∃ k, nearest (fun k => (k : ℚ) * 2 ^ (f.qmin - 1)) r neg up x k ∧ k < 2 ^ (f.mw + 1)))
    ∧ (f.maxFinite < c → y.bits = f.withSign neg (overflowed f r sat neg) ∧ y.of = true ∧ y.nx = true ∧ y.uf = false)

/-- A result is an exact number, rounded once; where that is zero, a zero of a sign. -/
def exactly (f : Fmt) (r : Rm) (zero : Bool) (x : ℚ) (y : FR) : Prop :=
  (x = 0 → y = { bits := f.withSign zero 0 }) ∧ (x ≠ 0 → rounded f r false (decide (x < 0)) id |x| y)

/-- The sign of a zero sum: that of two equal signs, else minus only towards minus infinity (IEEE 754-2019). -/
def zeroSum (r : Rm) (a b : Bool) : Bool := if a = b then a else r == .rd

/-- The default NaN of a format; `NV` where a signalling NaN or an invalid operation gave it. -/
def nanOf (f : Fmt) (nv : Bool) : FR := { bits := f.defNaN, nv := nv }
def infOf (f : Fmt) (neg : Bool) : FR := { bits := f.withSign neg f.infCode }

/-- The sum of two values in a format. -/
def sums (f : Fmt) (r : Rm) : Prop :=
  (∀ n m e n' m' e', exactly f r (zeroSum r n n') (num n m e + num n' m' e') (f.add r (.fin n m e) (.fin n' m' e')))
  ∧ (∀ n n', f.add r (.inf n) (.inf n') = if n = n' then infOf f n else nanOf f true)
  ∧ (∀ n n' m e, f.add r (.inf n) (.fin n' m e) = infOf f n ∧ f.add r (.fin n' m e) (.inf n) = infOf f n)
  ∧ ∀ a b, a.isNan = true ∨ b.isNan = true → f.add r a b = nanOf f (a.isSnan || b.isSnan)

/-- The product. -/
def products (f : Fmt) (r : Rm) : Prop :=
  (∀ n m e n' m' e', rounded f r false (n != n') id |num n m e * num n' m' e'| (f.mul r (.fin n m e) (.fin n' m' e')))
  ∧ (∀ n n', f.mul r (.inf n) (.inf n') = infOf f (n != n'))
  ∧ (∀ n n' m e, let y := if m = 0 then nanOf f true else infOf f (n != n')
      f.mul r (.inf n) (.fin n' m e) = y ∧ f.mul r (.fin n' m e) (.inf n) = y)
  ∧ ∀ a b, a.isNan = true ∨ b.isNan = true → f.mul r a b = nanOf f (a.isSnan || b.isSnan)

/-- The quotient and the square root of values of a format. -/
def quotients (f : Fmt) (r : Rm) : Prop :=
  (∀ x y n m e n' m' e', f.dec x = .fin n m e → f.dec y = .fin n' m' e' →
    (m' ≠ 0 → rounded f r false (n != n') id |num n m e / num n' m' e'| (f.div r (f.dec x) (f.dec y)))
    ∧ (m' = 0 → m ≠ 0 → f.div r (f.dec x) (f.dec y) = { infOf f (n != n') with dz := true })
    ∧ (m' = 0 → m = 0 → f.div r (f.dec x) (f.dec y) = nanOf f true))
  ∧ (∀ n n' m e, f.div r (.inf n) (.fin n' m e) = infOf f (n != n')
      ∧ f.div r (.fin n' m e) (.inf n) = { bits := f.withSign (n' != n) 0 } ∧ f.div r (.inf n) (.inf n') = nanOf f true)
  ∧ (∀ a b, a.isNan = true ∨ b.isNan = true → f.div r a b = nanOf f (a.isSnan || b.isSnan))
  ∧ (∀ x m e, f.dec x = .fin false m e → m ≠ 0 → rounded f r false false (fun v => v * v) (num false m e) (f.sqrt r (f.dec x)))
  ∧ (∀ n e, f.sqrt r (.fin n 0 e) = { bits := f.withSign n 0 }) ∧ (∀ m e, m ≠ 0 → f.sqrt r (.fin true m e) = nanOf f true)
  ∧ f.sqrt r (.inf false) = infOf f false ∧ f.sqrt r (.inf true) = nanOf f true
  ∧ ∀ q, f.sqrt r (.nan q) = nanOf f q

/-- The fused sum: one rounding; an infinity times a zero is invalid whatever the addend. -/
def fused (f : Fmt) (r : Rm) : Prop :=
  (∀ n m e n' m' e' k a b, exactly f r (zeroSum r (n != n') k) (num n m e * num n' m' e' + num k a b)
    (f.fma r (.fin n m e) (.fin n' m' e') (.fin k a b)))
  ∧ (∀ n n' e c, f.fma r (.inf n) (.fin n' 0 e) c = nanOf f true ∧ f.fma r (.fin n' 0 e) (.inf n) c = nanOf f true)
  ∧ (∀ n n' m e k a b, m ≠ 0 → (let y := infOf f (n != n')
      f.fma r (.inf n) (.fin n' m e) (.fin k a b) = y ∧ f.fma r (.fin n' m e) (.inf n) (.fin k a b) = y
      ∧ f.fma r (.inf n) (.inf n') (.fin k a b) = y)
      ∧ (let y := if (n != n') = k then infOf f k else nanOf f true
        f.fma r (.inf n) (.fin n' m e) (.inf k) = y ∧ f.fma r (.fin n' m e) (.inf n) (.inf k) = y
        ∧ f.fma r (.inf n) (.inf n') (.inf k) = y))
  ∧ (∀ n m e n' m' e' k, f.fma r (.fin n m e) (.fin n' m' e') (.inf k) = infOf f k)
  ∧ ∀ a b c, a.isNan = true ∨ b.isNan = true ∨ c.isNan = true →
      ¬ (∃ n n' e, (a = .inf n ∧ b = .fin n' 0 e) ∨ (a = .fin n' 0 e ∧ b = .inf n)) →
      f.fma r a b c = nanOf f (a.isSnan || b.isSnan || c.isSnan)

/-- A value read from another format, an integer, and an integral value (12 R278, R279, 15 R349, 16 R383). -/
def conversions (f : Fmt) (r : Rm) (sat : Bool) : Prop :=
  (∀ n m e, rounded f r sat n id |num n m e| (f.ofVal r sat (.fin n m e)))
  ∧ (∀ n, f.ofVal r sat (.inf n) = { bits := f.withSign n (if sat = true ∨ f.top = .finite then f.maxFinite
                                                    else if f.top = .nanOnly then f.defNaN else f.infCode) })
  ∧ (∀ q, f.ofVal r sat (.nan q) = nanOf f q)
  ∧ ∀ x : Int, rounded f r sat (decide (x < 0)) id |(x : ℚ)| (f.ofInt r sat x)

/-- Rounding to an integral value of the same format: an integer, rounded in the mode, with the operand's sign. -/
def integrals (f : Fmt) (r : Rm) : Prop :=
  ∀ x, x < 2 ^ f.width →
    (∀ n m e, f.dec x = .fin n m e → ∃ k c : Nat, nearest (fun k => (k : ℚ)) r n id |num n m e| k ∧ mag f c = k
      ∧ f.toIntegral r x = { bits := f.withSign n c, nx := decide ((k : ℚ) ≠ |num n m e|) })
    ∧ (∀ n, f.dec x = .inf n → f.toIntegral r x = infOf f n) ∧ (∀ q, f.dec x = .nan q → f.toIntegral r x = nanOf f q)

/-- Float to integer: towards zero, clamped; NaN gives 0 (12 R279). -/
def integers (lo hi : Int) : Prop :=
  (∀ n m e, let x := num n m e
    ∃ k : Int, |(k : ℚ)| ≤ |x| ∧ |x| < |(k : ℚ)| + 1 ∧ 0 ≤ (k : ℚ) * x
      ∧ toIntSat lo hi (.fin n m e) = if k < lo then (lo, true, false) else if hi < k then (hi, true, false)
                                    else (k, false, decide ((k : ℚ) ≠ x)))
  ∧ (∀ n, toIntSat lo hi (.inf n) = (if n then lo else hi, true, false)) ∧ ∀ q, toIntSat lo hi (.nan q) = (0, true, false)

/-- The formats of 12 R266. -/
def formats : List Fmt := [fB64, fB32, fB16, fBf16, fE4m3, fE5m2, fE3m2, fE2m3, fE2m1]

end Sys2Proof.Claims

namespace Sys2Proof.Claims

open Sys2Proof Sys2Proof.Machine

/-! ### Words of the statements: spine floating point -/

/-- Rounding mode and flush of a thread (12 R276). -/
def rm (sp : Spine) : Rm := Rm.ofBits (sp.sfpmode.extractLsb' 8 2)
def ftz (sp : Spine) : Bool := sp.sfpmode.getLsbD 7

/-- The format that `FN[7]` selects, and its inputs: the low bits of a register, a subnormal flushed under `FTZ`. -/
def fmt (p : Bool) : Fmt := if p then fB32 else fB64
def input (sp : Spine) (f : Fmt) (a : BitVec 6) : Nat :=
  f.flush (ftz sp && (f == fB32 || f == fB64)) ((getX sp a).toNat % 2 ^ f.width)

/-- A floating-point result retires (12 R276, R277): a subnormal one is flushed under `FTZ` and sets `UF` and `NX`; its
flags are added to the sticky ones; the bits above the format are zero. -/
def floatWrote (s : State) (t : Nat) (sp : Spine) (d : BitVec 6) (f : Fmt) (r : FR) : State :=
  let r := r.flushed f (ftz sp && (f == fB32 || f == fB64))
  thread s t (gone (setX { sp with sfpmode := sp.sfpmode ||| BitVec.ofNat 32 r.flags } d (BitVec.ofNat 64 r.bits)) (sp.pc + 4))

/-- The two-operand operations of 15 R348. -/
def floatTable : List ((Bool → BitVec 6 → BitVec 6 → BitVec 6 → Instr) × (Fmt → Rm → Nat → Nat → FR)) :=
  [(.spineFadd, fun f rm x y => f.add rm (f.dec x) (f.dec y)),
   (.spineFsub, fun f rm x y => f.add rm (f.dec x) (f.dec y).negate),
   (.spineFmul, fun f rm x y => f.mul rm (f.dec x) (f.dec y)), (.spineFdiv, fun f rm x y => f.div rm (f.dec x) (f.dec y)),
   (.spineFmin, fun f _ x y => f.minmax false x y), (.spineFmax, fun f _ x y => f.minmax true x y)]

/-- The comparisons: which orderings hold, and whether a quiet NaN sets `NV` too. -/
def compareTable : List ((Bool → BitVec 6 → BitVec 6 → BitVec 6 → Instr) × List Ordering × Bool) :=
  [(.spineFeq, [.eq], false), (.spineFlt, [.lt], true), (.spineFle, [.lt, .eq], true)]

/-- The fused operations of 15 R350: binary32 or not, negated product, negated addend. -/
def fmaTable : List ((BitVec 6 → BitVec 6 → BitVec 6 → BitVec 6 → Instr) × Bool × Bool × Bool) :=
  [(.spineFfma, false, false, false), (.spineFfmaS, true, false, false), (.spineFfms, false, false, true),
   (.spineFfmsS, true, false, true), (.spineFnfma, false, true, true), (.spineFnfmaS, true, true, true),
   (.spineFnfms, false, true, false), (.spineFnfmsS, true, true, false)]

/-- A value with its sign turned if asked. -/
def signed (neg : Bool) (v : FVal) : FVal := if neg then v.negate else v

/-- What `fcvt` does for a code (15 R349): from a float format to another, to an integer of a width, from an integer,
or to an integral value. -/
inductive Conv where
  | float (src dst : Fmt)
  | toInt (src : Fmt) (signed : Bool) (w : Nat)
  | ofInt (dst : Fmt) (signed : Bool)
  | integral (f : Fmt)

def convTable : List (BitVec 6 × Conv) :=
  [(0x00, .float fB64 fB32), (0x01, .float fB32 fB64), (0x02, .toInt fB64 true 64), (0x03, .toInt fB64 false 64),
   (0x04, .toInt fB64 true 32), (0x05, .toInt fB64 false 32), (0x06, .toInt fB32 true 64), (0x07, .toInt fB32 false 64),
   (0x08, .toInt fB32 true 32), (0x09, .toInt fB32 false 32), (0x0A, .ofInt fB64 true), (0x0B, .ofInt fB64 false),
   (0x0C, .ofInt fB32 true), (0x0D, .ofInt fB32 false), (0x0E, .float fB32 fB16), (0x0F, .float fB16 fB32),
   (0x10, .float fB32 fBf16), (0x11, .float fBf16 fB32), (0x12, .integral fB64), (0x13, .integral fB32)]

/-- The state after a conversion of x[A] into x[D]. An integer result is clamped to the type's range; NaN gives 0; both
set `NV`, and any other inexact one sets `NX` (12 R279). -/
def converted (s : State) (t : Nat) (sp : Spine) (d a : BitVec 6) : Conv → State
  | .float src dst =>
    let v := src.dec (input sp src a)
    let r := dst.ofVal (rm sp) false v
    floatWrote s t sp d dst { r with nv := r.nv || v.isSnan }
  | .toInt src sg w =>
    let lo : Int := if sg then -2 ^ (w - 1) else 0
    let hi : Int := if sg then 2 ^ (w - 1) - 1 else 2 ^ w - 1
    let (x, nv, nx) := toIntSat lo hi (src.dec (input sp src a))
    thread s t (gone (setX { sp with sfpmode := sp.sfpmode ||| (if nv then 16 else 0) ||| (if nx then 1 else 0) } d
      (BitVec.ofInt 64 x)) (sp.pc + 4))
  | .ofInt dst sg =>
    floatWrote s t sp d dst (dst.ofInt (rm sp) false (if sg then (getX sp a).toInt else (getX sp a).toNat))
  | .integral f => floatWrote s t sp d f (f.toIntegral (rm sp) (input sp f a))

end Sys2Proof.Claims

/-- 15 R348, R350, 12 R266, R272, R277 to R279: floating-point arithmetic writes the rounded result and sets sticky flags;
nothing else changes. What the shared operations answer is fixed against the exact number: sum, product, quotient, root and
fused sum are the exact result rounded once in the mode, with overflow, underflow and inexactness as it has them; so are
conversions between formats and from integers; the lanes' conversions, dot products and scalings use the same operations
(`LaneIntegerResults`). Special results, in binary64 without flushing: a finite nonzero value divided by a zero gives the signed infinity
and sets `DZ`; the root of a negative nonzero value gives the default NaN and sets `NV`; the root of -0 is -0; a comparison
with a NaN gives 0. -/
def Obligations.SpineFloatResults : Prop :=
  (∀ (p : Bool) (s : State) (t : Nat) (sp : Spine), curSpine s = some (t, sp) →
      (∀ r ∈ Claims.floatTable, ∀ (b a d : BitVec 6),
        exec (r.1 p b a d) s = .next (Claims.floatWrote s t sp d (Claims.fmt p)
          (r.2 (Claims.fmt p) (Claims.rm sp) (Claims.input sp (Claims.fmt p) a) (Claims.input sp (Claims.fmt p) b))))
      ∧ (∀ (a d : BitVec 6),
        exec (.spineFsqrt p a d) s = .next (Claims.floatWrote s t sp d (Claims.fmt p)
          ((Claims.fmt p).sqrt (Claims.rm sp) ((Claims.fmt p).dec (Claims.input sp (Claims.fmt p) a)))))
      ∧ (∀ r ∈ Claims.compareTable, ∀ (b a d : BitVec 6),
        let x := (Claims.fmt p).dec (Claims.input sp (Claims.fmt p) a)
        let y := (Claims.fmt p).dec (Claims.input sp (Claims.fmt p) b)
        let nv := x.isSnan || y.isSnan || (r.2.2 && (x.isNan || y.isNan))
        exec (r.1 p b a d) s = .next (Claims.thread s t (Claims.gone
          (setX { sp with sfpmode := sp.sfpmode ||| (if nv then 16 else 0) } d
            (if r.2.1.any (fun o => cmpFVal x y == some o) then 1 else 0)) (sp.pc + 4))))
      ∧ ∀ r ∈ Claims.fmaTable, ∀ (c b a d : BitVec 6),
        let f := Claims.fmt r.2.1
        let v (n : Bool) (k : BitVec 6) := Claims.signed n (f.dec (Claims.input sp f k))
        exec (r.1 c b a d) s = .next (Claims.floatWrote s t sp d f
          (f.fma (Claims.rm sp) (v r.2.2.1 a) (v false b) (v r.2.2.2 c))))
  ∧ (∀ (b a d : BitVec 6) (s : State) (t : Nat) (sp : Spine), curSpine s = some (t, sp) → sp.sfpmode.getLsbD 7 = false →
      let x := getX sp a
      let y := getX sp b
      let done (m : Word) (v : Dword) : Outcome :=
        .next (Claims.thread s t (Claims.gone (setX { sp with sfpmode := sp.sfpmode ||| m } d v) (sp.pc + 4)))
      (x.extractLsb' 52 11 ≠ 0x7FF → x.extractLsb' 0 63 ≠ 0 → y.extractLsb' 0 63 = 0 →
        exec (.spineFdiv false b a d) s = done 8
          (if x.getLsbD 63 = y.getLsbD 63 then 0x7FF0000000000000 else 0xFFF0000000000000))
      ∧ (x.getLsbD 63 = true → x.toNat ≤ 0xFFF0000000000000 → x.extractLsb' 0 63 ≠ 0 →
        exec (.spineFsqrt false a d) s = done 16 0x7FF8000000000000)
      ∧ (x = 0x8000000000000000 → exec (.spineFsqrt false a d) s = done 0 0x8000000000000000)
      ∧ (x.extractLsb' 52 11 = 0x7FF → x.extractLsb' 0 52 ≠ 0 →
        (∀ r ∈ Claims.compareTable, ∃ m, exec (r.1 false b a d) s = done m 0)
        ∧ exec (.spineFlt false b a d) s = done 16 0 ∧ exec (.spineFle false b a d) s = done 16 0))
  -- the numbers: codes, and the operations on them
  ∧ (∀ f ∈ Claims.formats, ∀ (neg : Bool) (c : Nat), c ≤ f.maxFinite →
      ∃ m e, f.dec (f.withSign neg c) = .fin neg m e ∧ |Claims.num neg m e| = Claims.mag f c)
  ∧ (∀ f ∈ [fB64, fB32, fB16, fBf16], ∀ r : Rm, Claims.sums f r ∧ Claims.products f r ∧ Claims.quotients f r ∧ Claims.fused f r
      ∧ Claims.integrals f r)
  ∧ (∀ f ∈ Claims.formats, ∀ (r : Rm) (sat : Bool), Claims.conversions f r sat)
  ∧ ∀ lo hi : Int, lo ≤ 0 → 0 ≤ hi → Claims.integers lo hi

/-- 15 R349: `fcvt` by its code; codes 0x14 to 0x3F trap `ILLOP` with the instruction word in `SVAL`. -/
def Obligations.SpineConversions : Prop :=
  ∀ (a d : BitVec 6) (s : State) (t : Nat) (sp : Spine), curSpine s = some (t, sp) →
    (∀ r ∈ Claims.convTable, exec (.spineFcvt r.1 a d) s = .next (Claims.converted s t sp d a r.2))
    ∧ ∀ c : BitVec 6, 0x14 ≤ c.toNat →
      exec (.spineFcvt c a d) s = .next (spineTrap s t tIllop (((Instr.spineFcvt c a d).spineWord?.getD 0).setWidth 64))

namespace Sys2Proof.Claims

open Sys2Proof Sys2Proof.Machine

/-! ### Words of the statements: conversions, dot products and scales of the lanes -/

/-- Element k of a lane type. -/
def el (t : LType) (k x : Nat) : Nat := x / 2 ^ (t.elemW * k) % 2 ^ t.elemW

/-- The integer that an element of a type holds, and the range of the type (12 R265). -/
def intOf (t : LType) (x : Nat) : Int := if t.signed ∧ 2 ^ (t.elemW - 1) ≤ x then (x : Int) - 2 ^ t.elemW else x
def clampTo (t : LType) (x : Int) : Int := max t.minInt (min t.maxInt x)
def lowOf (t : LType) (x : Int) : Nat := (x % 2 ^ t.elemW).toNat

/-- The integer types and the floating-point types that `cvt`, `pack2` and `pack4` name, with their formats. -/
def intTypes : List LType := [.i32, .n32, .i64, .n64, .i16x2, .n16x2, .i8x4, .n8x4, .i4x8, .n4x8]
def floatTypes : List (LType × Fmt) :=
  [(.f32, fB32), (.f16x2, fB16), (.bf16x2, fBf16), (.e4m3x4, fE4m3), (.e5m2x4, fE5m2), (.e3m2x4, fE3m2), (.e2m3x4, fE2m3),
   (.e2m1x8, fE2m1)]

/-- `FTZ` reaches binary32, binary16 and BF16 (12 R273). -/
def flushes (f : Fmt) (ftz : Bool) : Bool := ftz && (f == fB32 || f == fB16 || f == fBf16)

/-- FP8 saturates unless told not to, FP6 and FP4 always do (12 R278). -/
def saturates (t : LType) (nosat : Bool) : Bool :=
  [LType.e3m2x4, .e2m3x4, .e2m1x8].contains t || ([LType.e4m3x4, .e5m2x4].contains t && !nosat)

/-- 16 R385: the scalar conversions, by the kinds of source and destination. -/
def converts (r : Rm) (nosat ftz : Bool) (x : Nat) : Prop :=
  (∀ a ∈ floatTypes,
    let v := a.2.dec (a.2.flush (flushes a.2 ftz) (x % 2 ^ a.2.width))
    (∀ b ∈ floatTypes, convert b.1 a.1 r nosat ftz x = b.2.flush (flushes b.2 ftz) (b.2.ofVal r (saturates b.1 nosat) v).bits)
    ∧ (∀ d ∈ intTypes, convert d a.1 r nosat ftz x = lowOf d (toIntSat d.minInt d.maxInt v).1)
    -- the exponent, clamped
    ∧ (∀ n m e, v = .fin n m e → (m = 0 → convert .e8m0x4 a.1 r nosat ftz x = 0)
        ∧ ∀ k : Int, (2 : ℚ) ^ k ≤ |num n m e| → |num n m e| < 2 ^ (k + 1) →
            convert .e8m0x4 a.1 r nosat ftz x = (max (-127) (min 127 k) + 127).toNat)
    ∧ ((∀ n m e, v ≠ .fin n m e) → convert .e8m0x4 a.1 r nosat ftz x = 0xFF))
  ∧ (∀ d ∈ intTypes,
      (∀ b ∈ floatTypes, convert b.1 d r nosat ftz x
        = b.2.flush (flushes b.2 ftz) (b.2.ofInt r (saturates b.1 nosat) (intOf d (x % 2 ^ d.elemW))).bits)
      ∧ ∀ c ∈ intTypes, convert c d r nosat ftz x = lowOf c (clampTo c (intOf d (x % 2 ^ d.elemW))))
  ∧ (x < 255 → ∃ y, rounded fB32 .rne false false id ((2 : ℚ) ^ ((x : Int) - 127)) y
      ∧ convert .f32 .e8m0x4 r nosat ftz x = fB32.flush ftz y.bits)
  ∧ (x = 255 → convert .f32 .e8m0x4 r nosat ftz x = 0x7FC00000)

/-- A product that is no number: a NaN, or an infinity times a zero. -/
def invalid (a b : FVal) : Prop :=
  a.isNan = true ∨ b.isNan = true ∨ (∃ n n' e, (a = .inf n ∧ b = .fin n' 0 e) ∨ (a = .fin n' 0 e ∧ b = .inf n))

/-- A product is infinite, of a sign. -/
def infinite (n : Bool) (a b : FVal) : Prop :=
  ¬ invalid a b ∧ (a.neg? != b.neg?) = n ∧ ((∃ k, a = .inf k) ∨ ∃ k, b = .inf k)

/-- The number of a value that is finite. -/
def numOf : FVal → ℚ
  | .fin n m e => num n m e
  | _ => 0

/-- 12 R266, 16 R388, 11 R255: what a sum of n products with an addend comes to: the default NaN, an infinity, or the exact
sum; and the sign of a zero sum of products, minus only where every product is -0. -/
structure SumOf where
  nan : Prop
  inf : Bool → Prop
  value : ℚ
  minus : Prop

def sumOf (n : Nat) (a b : Nat → FVal) : SumOf where
  nan := (∃ k < n, invalid (a k) (b k)) ∨ ((∃ k < n, infinite true (a k) (b k)) ∧ ∃ k < n, infinite false (a k) (b k))
  inf s := ∃ k < n, infinite s (a k) (b k)
  value := ∑ k ∈ Finset.range n, numOf (a k) * numOf (b k)
  minus := ∑ k ∈ Finset.range n, numOf (a k) * numOf (b k) < 0
    ∨ ∀ k < n, numOf (a k) * numOf (b k) = 0 ∧ (a k).neg? ≠ (b k).neg?

/-- 16 R388: C plus the sum of products, rounded once. -/
def dotted (t : LType) (f : Fmt) (r : Rm) (ftz : Bool) (a b c : Nat) : Prop :=
  let v (x k : Nat) : FVal := f.dec (el t k x % 2 ^ f.width)
  let n := 32 / t.elemW
  let p := sumOf n (v a) (v b)
  let z := fB32.dec (fB32.flush ftz c)
  let y := aluDotF t r ftz a b c
  (p.nan ∨ z.isNan = true ∨ (∃ s, p.inf s ∧ z = .inf (!s)) → y = 0x7FC00000)
  ∧ (¬ p.nan → ∀ s, (p.inf s ∧ z ≠ .inf (!s) ∧ z.isNan = false) ∨ (z = .inf s ∧ ¬ p.inf (!s)) → y = fB32.withSign s fB32.infCode)
  ∧ ∀ m e neg, ¬ p.nan → (∀ s, ¬ p.inf s) → z = .fin neg m e →
      ∃ w zero, (p.minus → zero = zeroSum r neg true) ∧ (¬ p.minus → zero = zeroSum r neg false)
        ∧ exactly fB32 r zero (num neg m e + p.value) w ∧ y = fB32.flush ftz w.bits

/-- 16 R389: a partial sum times two scales. -/
def scaled (ftz : Bool) (sa sb a : Nat) : Prop :=
  let k : Int := (sa : Int) + sb - 254
  ((sa = 255 ∨ sb = 255) → ∀ f32, aluMxscale f32 ftz sa sb a = 0x7FC00000)
  ∧ (sa < 255 → sb < 255 →
    (∀ n m e, fB32.dec (fB32.flush ftz a) = .fin n m e →
      ∃ y, rounded fB32 .rne false n id (|num n m e| * 2 ^ k) y ∧ aluMxscale true ftz sa sb a = fB32.flush ftz y.bits)
    ∧ (∀ n, fB32.dec a = .inf n → aluMxscale true ftz sa sb a = fB32.withSign n fB32.infCode)
    ∧ ((fB32.dec a).isNan = true → aluMxscale true ftz sa sb a = 0x7FC00000)
    ∧ (let x := intOf .i32 a
       ∃ y, rounded fB32 .rne false (decide (x < 0)) id (|(x : ℚ)| * 2 ^ (k - 12)) y
         ∧ aluMxscale false ftz sa sb a = fB32.flush ftz y.bits))

end Sys2Proof.Claims

namespace Sys2Proof.Claims

open Sys2Proof Sys2Proof.Machine

/-! ### Words of the statements: spine memory and system instructions -/

/-- Thread t, as it stands in a state, has written x[D] and stands at the next word. -/
def wrote' (s : State) (t : Nat) (d : BitVec 6) (v : Dword) : State :=
  modSpine s t fun sp => gone (setX sp d v) (sp.pc + 4)

/-- Thread t stands at the next word. -/
def passed (s : State) (t : Nat) : State := modSpine s t fun sp => gone sp (sp.pc + 4)

/-- A read of n bytes by a thread is performed: its caches and homes supply it, or the answer of a host or peer home
has arrived. `s'` is the state after it. -/
def reads (s : State) (t : Nat) (sp : Spine) (va : Dword) (n : Nat) (s' : State) (bs : List Byte) : Prop :=
  (sp.resp = some bs ∧ s' = s)
  ∨ (sp.resp = none ∧ mergedWaits s t va.toNat n = false ∧ loadRange s (rqSpine s sp) accLoad va.toNat n = (s', .done, bs))

/-- A write of bytes by an instruction of a thread is performed: its home outside has answered, or it is made, noted in the
write-combining entry that it has merged into, and lets the team escape (06 R160, 13 R310). -/
def writes (s : State) (t : Nat) (sp : Spine) (i : Instr) (va : Dword) (bs : List Byte) (s' : State) : Prop :=
  (sp.resp ≠ none ∧ s' = s)
  ∨ (sp.resp = none ∧ mergedWaits s t va.toNat bs.length = false ∧ ∃ s1,
      storeRange s (rqSpine s sp) va.toNat bs = (s1, .done)
      ∧ s' = escape (noteMerged s1 (rqSpine s sp).asid
          { agent := .spine t, op := 0, team := t, instr := i, va := va, n := bs.length }) t)

/-- A release of a thread goes on: no write that it sent to the host or a peer is unacknowledged, and its
write-combining entries have drained, none of its merged stores left (10 R230, R241). -/
def settled (s : State) (t : Nat) (s' : State) : Prop :=
  writesAway s (.spine t) = [] ∧ s' = drainAgent s (.spine t) ∧ spineMerged s' t = false

/-- An atomic of a thread is performed on n bytes: they become `f` of what they were. -/
def atomics (s : State) (t : Nat) (sp : Spine) (order : BitVec 3) (va : Dword) (n : Nat) (f : List Byte → List Byte)
    (s' : State) (old : List Byte) : Prop :=
  (sp.resp = some old ∧ s' = s) ∨
  (sp.resp = none ∧ mergedWaits s t va.toNat n = false ∧ ∃ s1 s2, (if order.toNat ≤ 4 then settled s t s1 else s1 = s) ∧
    atomPiece s1 (rqSpine s1 sp) (atHome (teamOf s1 t) order.toNat) va.toNat n f = (s2, .done, old) ∧ s' = escape s2 t)

/-- Loaded bytes: zero- or sign-extended to 64 bits (15 R351). -/
def extended (sx : Bool) (n : Nat) (bs : List Byte) : Dword :=
  if sx then (BitVec.ofNat (8 * n) (fieldOf bs 0 n)).signExtend 64 else BitVec.ofNat 64 (fieldOf bs 0 n)

/-- Bytes of the two widths. -/
def wide (w : Bool) : Nat := if w then 8 else 4

/-- New values of the atomics of 15 R353 at a width. -/
def amoTable : List ((Bool → BitVec 3 → BitVec 6 → BitVec 6 → BitVec 6 → Instr) × ((n : Nat) → BitVec n → BitVec n → BitVec n)) :=
  [(.amoSwap, fun _ _ x => x), (.amoAdd, fun _ o x => o + x), (.amoAnd, fun _ o x => o &&& x), (.amoOr, fun _ o x => o ||| x),
   (.amoXor, fun _ o x => o ^^^ x), (.amoMin, fun _ o x => if o.sle x then o else x),
   (.amoMax, fun _ o x => if o.sle x then x else o), (.amoMinn, fun _ o x => if o.ule x then o else x),
   (.amoMaxn, fun _ o x => if o.ule x then x else o)]

/-- The location's new bytes under an operation of a width. -/
def amoBytes (n : Nat) (f : BitVec (8 * n) → BitVec (8 * n) → BitVec (8 * n)) (x : Dword) (old : List Byte) : List Byte :=
  bytesOf n (f (BitVec.ofNat (8 * n) (fieldOf old 0 n)) (x.setWidth (8 * n))).toNat

/-- The location's new bytes under compare-and-swap. -/
def swapBytes (n : Nat) (expected new : Nat) (old : List Byte) : List Byte :=
  if fieldOf old 0 n = expected % 2 ^ (8 * n) then bytesOf n (new % 2 ^ (8 * n)) else old

/-- x[N+1]:x[N]. -/
def pair (sp : Spine) (n : BitVec 6) : Nat := (getX sp n).toNat + 2 ^ 64 * (getX sp (n + 1)).toNat

/-- An operation on a shared register is performed for a thread, with the value that it returns: at once, or while the
thread waited. -/
def bank (s : State) (t : Nat) (sp : Spine) (n : Nat) (op : HOp) (s' : State) (v : Dword) : Prop :=
  let l := hLoc s t n
  (sp.granted = some v ∧ s' = s) ∨
  (sp.granted = none ∧ hArrive (if l.common then escape s t else s) l (.spine t) op = (s', some v))

/-- The log entry of a result begins with these bytes (05 R130): kind 2 `rdclk`, 3 `rand`; agent 0 a squad, 1 a thread. -/
def resultKey (kind agent squad lane index count : Nat) : List Byte :=
  bytesOf 1 kind ++ bytesOf 1 agent ++ bytesOf 2 squad ++ bytesOf 1 lane ++ zeros 3 ++ bytesOf 8 index ++ bytesOf 8 count

/-- The home of a completion word needs not be asked: there is none, a compute die homes it, or its home has consented. -/
def consents (s : State) (sp : Spine) (word : Dword) : Prop :=
  word = 0 ∨ ∀ h, peekHme s (rqSpine s sp) word.toNat = some h → hmeHome h < 8 ∨ sp.granted ≠ none

/-- A completion word passes its check as a store of the thread. -/
def wordStored (s : State) (sp : Spine) (word : Dword) (s' : State) : Prop :=
  (word = 0 ∧ s' = s)
  ∨ (word ≠ 0 ∧ let r := rqSpine s sp
      ∃ x, request s r.die r.slot r.asid word.toNat accStore false = (s', x) ∧ ((∃ i, x = .ok i) ∨ ∃ w, x = .remote w))

/-- A releasing operation of a thread may be made: it was performed while the thread waited, or what it releases has
settled. -/
def releases (s : State) (t : Nat) (sp : Spine) (s' : State) : Prop :=
  (sp.granted ≠ none ∧ s' = s) ∨ (sp.granted = none ∧ settled s t s')

/-- A push by a thread is performed: the reservation of counter c. -/
def pushes (s : State) (t : Nat) (sp : Spine) (n : Nat) (entry : List Byte) (launch try_ : Bool) (s' : State) (c : Nat) : Prop :=
  ∃ s1, settled s t s1 ∧ qPush s1 (rqSpine s1 sp) n entry launch try_ (.spine t) = (s', .reserved c)

end Sys2Proof.Claims

/-- 13 R298: a spine trap with a handler set and none running saves the cause, the address and the value, and the thread
goes on at `SHAND`; else the team ends with the code. -/
def Obligations.SpineTrapEntry : Prop :=
  ∀ (s : State) (t : Nat) (sp : Spine) (code : Byte) (val : Dword), mget s.spines t = some sp →
    (sp.shand ≠ 0 → sp.scause.extractLsb' 0 8 = 0 →
      spineTrap s t code val = Claims.thread s t
        { sp with scause := code.setWidth 32, sepc := sp.pc, sval := val, pc := sp.shand, wait := .none, granted := none,
                  log := none, resp := none, code := none })
    ∧ (sp.shand = 0 ∨ sp.scause.extractLsb' 0 8 ≠ 0 → spineTrap s t code val = trapEnd s t code)

/-- 15 R351, R354, R344: loads and stores of the spine, acquiring loads and releasing stores. A misaligned address traps
`MISALIGN` with the address in `SVAL` and accesses nothing; a performed access completes the instruction. -/
def Obligations.SpineLoadsAndStores : Prop :=
  ∀ (s : State) (t : Nat) (sp : Spine), curSpine s = some (t, sp) →
    (∀ (i : BitVec 10) (x : Bool) (z : BitVec 3) (a d : BitVec 6),
      let n := 2 ^ z.toNat
      let va := getX sp a + BitVec.ofNat 64 n * i.signExtend 64
      (va.toNat % n ≠ 0 → exec (.spineLd i x z a d) s = .next (spineTrap s t tMisalign va)
        ∧ exec (.spineSt i z a d) s = .next (spineTrap s t tMisalign va))
      ∧ (va.toNat % n = 0 → ∀ s' bs,
        (z.toNat ≤ 3 → Claims.reads s t sp va n s' bs →
          exec (.spineLd i x z a d) s = .next (Claims.wrote' s' t d (Claims.extended x n bs)))
        ∧ (Claims.writes s t sp (.spineSt i z a d) va (bytesOf n (getX sp d).toNat) s' →
          exec (.spineSt i z a d) s = .next (Claims.passed s' t))))
    ∧ ∀ (w : Bool) (o : BitVec 3) (b a d : BitVec 6),
      let n := Claims.wide w
      let va := getX sp a
      (va.toNat % n ≠ 0 → exec (.lda w o a d) s = .next (spineTrap s t tMisalign va)
        ∧ exec (.stl w o b a) s = .next (spineTrap s t tMisalign va))
      ∧ (va.toNat % n = 0 → ∀ s' bs,
        (Claims.reads s t sp va n s' bs → exec (.lda w o a d) s = .next (Claims.wrote' s' t d (Claims.extended true n bs)))
        ∧ (∀ s1, (sp.resp ≠ none ∧ s1 = s) ∨ (sp.resp = none ∧ Claims.settled s t s1) →
          Claims.writes s1 t sp (.stl w o b a) va (bytesOf n (getX sp b).toNat) s' →
          exec (.stl w o b a) s = .next (Claims.passed s' t)))

/-- 15 R353, R354: an atomic traps `MISALIGN` on a misaligned address, then `HOSTATOM` on a host-homed one; performed, it
gives its location the new value and x[D] the old one, sign-extended in the `.w` form. -/
def Obligations.SpineAtomics : Prop :=
  ∀ (w : Bool) (o : BitVec 3) (b a d : BitVec 6) (s : State) (t : Nat) (sp : Spine), curSpine s = some (t, sp) →
    let n := Claims.wide w
    let va := getX sp a
    (∀ i ∈ (Claims.amoTable.map fun r => r.1 w o b a d) ++ [.spineCas w o b a d],
      (va.toNat % n ≠ 0 → exec i s = .next (spineTrap s t tMisalign va))
      ∧ (va.toNat % n = 0 → hostHomed s (rqSpine s sp) va.toNat = true → exec i s = .next (spineTrap s t tHostatom va)))
    ∧ (va.toNat % n = 0 → hostHomed s (rqSpine s sp) va.toNat = false → ∀ s' old,
      (∀ r ∈ Claims.amoTable,
        Claims.atomics s t sp o va n (Claims.amoBytes n (r.2 (8 * n)) (getX sp b)) s' old →
        exec (r.1 w o b a d) s = .next (Claims.wrote' s' t d (Claims.extended true n old)))
      ∧ (Claims.atomics s t sp o va n (Claims.swapBytes n (getX sp d).toNat (getX sp b).toNat) s' old →
        exec (.spineCas w o b a d) s = .next (Claims.wrote' s' t d (Claims.extended true n old))))
    ∧ (va.toNat % 16 ≠ 0 → exec (.spineCas2 o b a d) s = .next (spineTrap s t tMisalign va))
    ∧ (va.toNat % 16 = 0 → hostHomed s (rqSpine s sp) va.toNat = true →
      exec (.spineCas2 o b a d) s = .next (spineTrap s t tHostatom va))
    ∧ (va.toNat % 16 = 0 → hostHomed s (rqSpine s sp) va.toNat = false → ∀ s' old,
      Claims.atomics s t sp o va 16 (Claims.swapBytes 16 (Claims.pair sp d) (Claims.pair sp b)) s' old →
      exec (.spineCas2 o b a d) s = .next (modSpine s' t fun q =>
        Claims.gone (setX (setX q d (BitVec.ofNat 64 (fieldOf old 0 8))) (d + 1) (BitVec.ofNat 64 (fieldOf old 8 8))) (q.pc + 4)))

/-- 15 R357, R367, 10 R230, R241, 02 R52: an acquire fence completes at once; a release fence and `pfence` drain the
thread's write-combining entries, and wait while a write that the thread sent to the host or a peer is unacknowledged; with
none, and none of its merged stores left, a release fence completes, and so does `pfence` without a CXL port, else it waits
for the ports' acknowledgements; `loc` reports. (Kind 00 is refused at decoding, R357; as a term it runs as an acquire. That
a merged store that its drain could not perform waits at its thread is log entry 21.) -/
def Obligations.SpineFencesAndLoc : Prop :=
  ∀ (s : State) (t : Nat) (sp : Spine), curSpine s = some (t, sp) →
    (∀ (k : BitVec 2) (c : BitVec 3),
      (k.toNat < 2 → exec (.spineFence k c) s = .next (Claims.passed s t))
      ∧ (2 ≤ k.toNat → (∀ s', Claims.settled s t s' → exec (.spineFence k c) s = .next (Claims.passed s' t))
          ∧ (writesAway s (.spine t) ≠ [] → exec (.spineFence k c) s = .next
              (modSpine (pcieFlush s (.spine t)) t fun q => { q with wait := .hold }))))
    ∧ (sp.granted = none → ∀ s0, Claims.settled s t s0 →
       let s1 := flushPers s0
       (anyCxl s1 = false → exec .spinePfence s = .next (Claims.passed s1 t))
       ∧ (anyCxl s1 = true → exec .spinePfence s = .next (modSpine { s1 with pfences := s1.pfences ++ [.spine t] } t fun q =>
          { q with wait := .hold, granted := some 0 })))
    ∧ (sp.granted = none → writesAway s (.spine t) ≠ [] → exec .spinePfence s = .next
        (modSpine (pcieFlush s (.spine t)) t fun q => { q with wait := .hold }))
    ∧ (sp.granted ≠ none → s.pfences.contains (.spine t) = true → exec .spinePfence s = .next s)
    ∧ (sp.granted ≠ none → s.pfences.contains (.spine t) = false → exec .spinePfence s = .next (Claims.passed s t))
    ∧ ∀ (a d : BitVec 6) s' n, locQuery s (rqSpine s sp) (getX sp a).toNat = (s', some n) →
      exec (.spineLoc a d) s = .next (Claims.wrote' s' t d (BitVec.ofNat 64 n))

/-- 15 R358 to R361, 07 R182, 10 R232: shared-register instructions of the spine, each of which takes its turn among the
operations of its clock, and of which `hput` and `hacc` release; counts, descriptors and commands outside their limits trap
`ILLOP` before the entry is touched. -/
def Obligations.SpineSharedRegisters : Prop :=
  ∀ (i : BitVec 8) (a d : BitVec 6) (s : State) (t : Nat) (sp : Spine), curSpine s = some (t, sp) →
    let c := (getX sp d).toNat
    let x := (getX sp a).toNat
    let word (j : Instr) : Dword := (j.spineWord?.getD 0).setWidth 64
    (c = 0 ∨ 255 < c → exec (.spineHput i a d) s = .next (spineTrap s t tIllop (word (.spineHput i a d))))
    ∧ (1 ≤ c → c ≤ 255 → ∀ s0, Claims.releases s t sp s0 → ∀ s' v, Claims.bank s0 t sp i.toNat (.put (getX sp a) c) s' v →
      exec (.spineHput i a d) s = .next (Claims.passed s' t))
    ∧ (∀ s' v, Claims.bank s t sp i.toNat .read s' v → exec (.spineHget i d) s = .next (Claims.wrote' s' t d v))
    ∧ (let e := getH s (hLoc s t i.toNat)
       exec (.hpeek i d) s = .next (Claims.wrote' (hTurn s (hLoc s t i.toNat) (.spine t)) t d (BitVec.ofNat 64
         (2 ^ 16 * e.recv.toNat + 2 ^ 8 * e.count.toNat + (if e.gather then 2 else 0) + (if e.full then 1 else 0)))))
    ∧ (let ok := c / 2 ^ 23 = 0 ∧ bitsOf c 20 3 ≤ 4 ∧ bitOf c 19 = false ∧ bitsOf c 16 3 ≤ 4 ∧ bitsOf c 11 5 = 0
                 ∧ 1 ≤ bitsOf c 0 11 ∧ bitsOf c 0 11 ≤ 1024
       (¬ ok → exec (.spineHacc i a d) s = .next (spineTrap s t tIllop (word (.spineHacc i a d))))
       ∧ (ok → ∀ s0, Claims.releases s t sp s0 → ∀ s' v, Claims.bank s0 t sp i.toNat
            (.acc (BitVec.ofNat 64 (hExtend (bitsOf c 20 3) x)) (bitsOf c 16 3) (bitsOf c 20 3) (bitsOf c 0 11)) s' v →
          exec (.spineHacc i a d) s = .next (Claims.passed s' t)))
    ∧ (let cmd := x % 4
       let cons := bitsOf x 8 8
       let ok := x / 2 ^ 16 = 0 ∧ bitsOf x 2 6 = 0 ∧ cmd ≠ 3 ∧ (cmd = 1 ∨ cons ≠ 0)
       (¬ ok → exec (.hcfg i a) s = .next (spineTrap s t tIllop (word (.hcfg i a))))
       ∧ (ok →
          let l := hLoc s t i.toNat
          let s1 := hTurn (if l.common then escape s t else s) l (.spine t)
          let e := getH s1 l
          let e1 := if cmd = 0 then e else { e with value := 0, count := 0, full := false, gather := false, recv := 0 }
          let e2 := if cmd = 1 then e1 else { e1 with consumers := BitVec.ofNat 8 cons }
          exec (.hcfg i a) s = .next (Claims.passed (if e2 = e then s1 else hChanged s1 l e2) t)))

/-- 15 R362 to R366, 05 R129, R130: control registers, the end of the thread once its earlier accesses have been performed, the
breakpoint, `nap`, and `rdclk` and `rand` without a recording, under REC and under PLAY. A value of `rand` is free (log entry
13), and an SVP thread's are not recorded (log entry 86). -/
def Obligations.SpineSystemInstructions : Prop :=
  ∀ (s : State) (t : Nat) (sp : Spine), curSpine s = some (t, sp) →
    (∀ (d : BitVec 6),
      exec (.spineCsrr 0x80 d) s = .next (Claims.wrote s t sp d (sp.scause.setWidth 64))
      ∧ exec (.spineCsrr 0x81 d) s = .next (Claims.wrote s t sp d sp.sepc)
      ∧ exec (.spineCsrr 0x82 d) s = .next (Claims.wrote s t sp d sp.sval)
      ∧ exec (.spineCsrr 0x83 d) s = .next (Claims.wrote s t sp d sp.shand)
      ∧ exec (.spineCsrr 0x84 d) s = .next (Claims.wrote s t sp d (sp.sfpmode.setWidth 64))
      ∧ exec (.spineCsrr 0x85 d) s = .next (Claims.wrote s t sp d (BitVec.ofNat 64 (cbOf s sp.team)))
      ∧ exec (.spineCsrr 0x86 d) s = .next (Claims.wrote s t sp d (BitVec.ofNat 64
          (2 ^ 16 * (ctxAsid s (slotOf s sp.team)).toNat + slotOf s sp.team))))
    ∧ (∀ (i : BitVec 8) (a : BitVec 6),
      let v := getX sp a
      exec (.spineCsrw i a) s = .next (Claims.thread s t (Claims.gone
        (if i = 0x80 then { sp with scause := v.setWidth 32 &&& 0xFF }
         else if i = 0x81 then { sp with sepc := v }
         else if i = 0x83 ∧ v.toNat % 4 = 0 then { sp with shand := v }
         else if i = 0x84 then { sp with sfpmode := v.setWidth 32 &&& 0x39F }
         else sp) (sp.pc + 4))))
    ∧ (∀ s1, Claims.settled s t s1 → exec .spineExit s =
        .next (exitTest (modSpine s1 t fun q => { Claims.gone q (q.pc + 4) with live := false }) t))
    ∧ (∀ c : BitVec 8, exec (.spineBrk c) s = .next (spineTrap s t tBrk 0))
    ∧ (∀ a : BitVec 6,
      (sp.granted = none → exec (.spineNap a) s = .next (Claims.thread s t
        { sp with wait := .nap (if getX sp a = 0 then none else some (s.timeNs.toNat + (getX sp a).toNat)) }))
      ∧ (sp.granted ≠ none → exec (.spineNap a) s = .next (Claims.passed s t)))
    ∧ ∀ d : BitVec 6,
      (isSvp t = true →
        exec (.spineRdclk d) s = .next (Claims.wrote s t sp d s.timeNs)
        ∧ exec (.spineRand d) s = .next (Claims.wrote s t sp d (Config.free64 s.freeNo 0)))
      ∧ (isSvp t = false → ∀ x ∈ [(2, Instr.spineRdclk d, s.timeNs), (3, .spineRand d, Config.free64 s.freeNo 0)],
        let key := Claims.resultKey x.1 1 0 0 (teamOf s t).index sp.ndet
        let rc := recCtl s (slotOf s t)
        let pushing := s.dpush.any fun p => p.who == .spine t
        let push : DPush := { id := s.nextId, slot := slotOf s t, q := bitsOf rc 16 16, who := .spine t,
                              entry := key ++ bytesOf 8 x.2.2.toNat ++ zeros 32 }
        let after (s : State) (v : Dword) : State :=
          modSpine s t fun q => Claims.gone (setX { q with ndet := q.ndet + 1 } d v) (q.pc + 4)
        -- neither REC nor PLAY
        (sp.granted = none → rc.testBit 0 = false → rc.testBit 1 = false → pushing = false →
          exec x.2.1 s = .next (after s x.2.2))
        -- REC: the live value is pushed to the log, and the thread waits for that
        ∧ (sp.granted = none → rc.testBit 0 = true → rc.testBit 1 = false → exec x.2.1 s = .next
            (modSpine { s with nextId := s.nextId + 1, dpush := s.dpush ++ [push] } t fun q =>
              { q with ndet := q.ndet + 1, wait := .hold, granted := some x.2.2 }))
        ∧ (∀ v, sp.granted = some v → pushing = false → exec x.2.1 s = .next (Claims.wrote s t sp d v))
        -- PLAY: the oldest matching entry's value; without one the live value, and SVCERR
        ∧ (sp.granted = none → rc.testBit 1 = true → pushing = false →
          (∀ c bs, logFind s (slotOf s t) (fun e => e.take 24 = key) = .found c bs → exec x.2.1 s = .next
            (after { s with replay := mset s.replay (65536 * slotOf s t + c) 1 } (BitVec.ofNat 64 (fieldOf bs 24 8))))
          ∧ (logFind s (slotOf s t) (fun e => e.take 24 = key) = .nothing → exec x.2.1 s = .next (after (svcErr s) x.2.2))
          ∧ (logFind s (slotOf s t) (fun e => e.take 24 = key) = .held → exec x.2.1 s = .next
            (modSpine s t fun q => { q with wait := .hold, log := none }))))

/-- 15 R363, R368 to R372, 05 R107: queue and engine instructions of the spine whose checks pass and whose accesses are
performed. -/
def Obligations.SpineQueueAndEngineInstructions : Prop :=
  ∀ (b a d : BitVec 6) (s : State) (t : Nat) (sp : Spine), curSpine s = some (t, sp) →
    let n := (getX sp a).toNat
    let va := getX sp b
    let team := teamOf s t
    let depth := (gridOf s team).depth
    -- a push that is reserved completes the instruction; `.try` reports it
    (n ≤ 1023 → n ≠ 0 → va.toNat % 64 = 0 → ∀ s1 bs s2 c, Claims.reads s t sp va 64 s1 bs →
      (Claims.pushes s1 t sp n bs false false s2 c →
        exec (.spineQpush b a) s = .next (Claims.passed (escape s2 t).fresh t))
      ∧ (Claims.pushes s1 t sp n bs false true s2 c →
        exec (.spineQpushTry b a d) s = .next (Claims.wrote' (escape s2 t).fresh t d 1)))
    -- a pop whose destination can be written completes; `.try` reports it
    ∧ (n ≤ 1023 → va.toNat % 64 = 0 → sp.resp = none → ∀ s1, ownBytes s (rqSpine s sp) va.toNat 64 = (s1, .done) →
      ∀ s2 bs s3,
        let kept := modSpine (escape s2 t) t fun q => { q with granted := some 1, resp := some bs }
        storeRange kept (rqSpine kept sp) va.toNat bs = (s3, .done) →
        (qPop s1 (rqSpine s sp) n false = (s2, .popped bs) → exec (.spineQpop b a) s = .next (Claims.passed s3 t))
        ∧ (qPop s1 (rqSpine s sp) n true = (s2, .popped bs) → exec (.spineQpopTry b a d) s = .next (Claims.wrote' s3 t d 1)))
    -- `launch` and `svc` push their entries
    ∧ (depth < 9 → ∀ s2 c,
        Claims.pushes s t sp 0 (bytesOf 8 (getX sp a).toNat ++ bytesOf 4 team.index ++ bytesOf 1 (depth + 1) ++ zeros 3
          ++ bytesOf 8 (getX sp b).toNat ++ bytesOf 4 (team.index / 2 ^ 32) ++ zeros 36) true false s2 c →
        exec (.spineLaunch b a) s = .next (Claims.passed (escape s2 t).fresh t))
    ∧ (∀ (k : BitVec 8) s2 c,
        Claims.pushes s t sp (ccb s (slotOf s t) 0x2C 4) (bytesOf 2 (0x8000 + k.toNat) ++ zeros 2 ++ bytesOf 4 team.index
          ++ bytesOf 8 (getX sp a).toNat ++ bytesOf 4 (team.index / 2 ^ 32) ++ zeros 44) false false s2 c →
        exec (.svc k a) s = .next (Claims.passed (escape s2 t).fresh t))
    -- `tiset` writes the 64 bytes to the identifier's entry
    ∧ (n ≤ 1023 → va.toNat % 64 = 0 → sp.granted = none → ∀ s1 bs s2, Claims.reads s t sp va 64 s1 bs →
      let at_ : Dword := BitVec.ofNat 64 (tidVa s (slotOf s t) n)
      let kept := modSpine s1 t fun q => { q with granted := some 1, resp := some bs }
      storeRange kept (rqSpine kept sp) at_.toNat bs = (s2, .done) →
      exec (.spineTiset b a) s = .next (Claims.passed (escape s2 t) t))
    -- a write kept by a pop or a `tiset`, which a home outside has answered, completes the instruction
    ∧ (n ≤ 1023 → va.toNat % 64 = 0 → sp.granted ≠ none → sp.resp = some [] →
      exec (.spineQpop b a) s = .next (Claims.passed s t)
      ∧ exec (.spineQpopTry b a d) s = .next (Claims.wrote' s t d 1)
      ∧ exec (.spineTiset b a) s = .next (Claims.passed (escape s t) t))
    -- `cpy` issues the copy that its descriptor asks for; a bad descriptor puts 1 in the completion word, if there is one
    ∧ ((getX sp a).toNat % 32 = 0 → va.toNat % 8 = 0 → queuedCopies s sp.cluster < 128 → Claims.consents s sp va →
      ∀ s0 s1 s1' bs, Claims.reads s t sp (getX sp a) 32 s0 bs → Claims.wordStored s0 sp va s1 → Claims.settled s1 t s1' →
      let s2 := escape s1' t
      let s3 := Claims.passed { s2 with nextId := s2.nextId + 1 } t
      exec (.spineCpy b a) s = .next (match spineCopyOf bs with
        | some (x, y, len, tid) =>
          addCopy s3 { id := s2.nextId, cluster := sp.cluster, slot := slotOf s2 t, team := t, squad := none,
                       tpc := sp.pc.setWidth 32, em := 0, instr := .spineCpy b a, src := x, dst := y, len := len, tid := tid,
                       word := va }
        | none =>
          if va = 0 then s3
          else { s3 with copies := s3.copies ++
                 [{ id := s2.nextId, cluster := sp.cluster, slot := slotOf s2 t, team := t, squad := none, tpc := sp.pc.setWidth 32,
                    em := 0, instr := .spineCpy b a, src := .mem 0, dst := .mem 0, len := 0, word := va,
                    ended := some (1, 0) }] }))
    ∧ ((getX sp a).toNat % 32 ≠ 0 → exec (.spineCpy b a) s = .next (spineTrap s t tMisalign (getX sp a)))
    ∧ ((getX sp a).toNat % 32 = 0 → va.toNat % 8 ≠ 0 → exec (.spineCpy b a) s = .next (spineTrap s t tMisalign va))
    ∧ (9 ≤ depth →
        (depthFault s (rqSpine s sp) = none → let e := depthTrap s (rqSpine s sp)
          exec (.spineLaunch b a) s = .next (spineTrap s t e.1 (BitVec.ofNat 64 e.2)))
        ∧ (∀ k dd h p v acc, depthFault s (rqSpine s sp) = some (.fault k dd h p v acc) →
          exec (.spineLaunch b a) s = .next (spineFault s t (rqSpine s sp) .exec k dd h p v acc)))
    -- operands outside their limits trap, in this order
    ∧ (1023 < n → ∀ i ∈ [Instr.spineQpush b a, .spineQpushTry b a d, .spineQpop b a, .spineQpopTry b a d, .spineTiset b a],
      exec i s = .next (spineTrap s t tIllop ((i.spineWord?.getD 0).setWidth 64)))
    ∧ (n = 0 → ∀ i ∈ [Instr.spineQpush b a, .spineQpushTry b a d], exec i s = .next (spineTrap s t tPriv 0))
    ∧ (n ≤ 1023 → va.toNat % 64 ≠ 0 → ∀ i ∈ [Instr.spineQpop b a, .spineQpopTry b a d, .spineTiset b a],
      exec i s = .next (spineTrap s t tMisalign va))
    ∧ (n ≤ 1023 → n ≠ 0 → va.toNat % 64 ≠ 0 → ∀ i ∈ [Instr.spineQpush b a, .spineQpushTry b a d],
      exec i s = .next (spineTrap s t tMisalign va))

namespace Sys2Proof.Claims

open Sys2Proof Sys2Proof.Machine

/-! ### Words of the statements: lane instructions -/

/-- The instruction at hand of a running squad: its active lanes are those of `em` in which the guard holds (14 R317). -/
def at_ (id : Nat) (q : Squad) (i : Instr) (o : LaneOp) : Lx :=
  { id := id, q := q, i := i, o := o, act := activeLanes q o }

/-- A squad runs, and every result that the instruction reads has landed (06 R148). -/
def ready (s : State) (id : Nat) (q : Squad) (o : LaneOp) (u : Uses) : Prop :=
  curSquad s = some (id, q) ∧ awaited s id q o (activeLanes q o) u = []

/-- Lane registers that a short-latency instruction maps: none without an active lane, and never `v255`. -/
def mapped (x : Lx) (e : Effect) : List (Nat × Lanes) :=
  if x.act = 0 then [] else e.vs.filter fun r => decide (r.1 < 255)

/-- The rows that they take can be had (06 R156, 07 R172). -/
def room (s : State) (x : Lx) (e : Effect) : Prop :=
  let rows := ((mapped x e).map fun r => shapeRows r.2).sum
  rows = 0 ∨ growCheck s x.id x.q rows = .ok

/-- The squad goes on at the next word; the `E` bit ends its volley and gives the slot up (06 R147). -/
def onward (o : LaneOp) (q : Squad) : Squad :=
  { q with pos := q.pos + 12, granted := none, arrived := false,
           inVolley := q.inVolley && !o.e, held := if o.e then none else q.held, code := if o.e then [] else q.code }

/-- The squad after a short-latency instruction: an unmapped source sets `CSTAT` bit 0 (07 R170), last-use sources are
unmapped (07 R169), then its results are written. -/
def shortSquad (x : Lx) (reads frees : List Nat) (e : Effect) (q : Squad) : Squad :=
  onward x.o (e.post { q with
    v := mapRegs (frees.foldl mdel q.v) (mapped x e)
    cstat := if reads.any fun n => (mget x.q.v n).isNone then q.cstat ||| 1 else q.cstat
    g := match e.g with | some (n, val) => if x.act = 0 then q.g else mset q.g n val | none => q.g
    p := match e.p with | some (n, lanes, val) => putPred q.p n lanes val | none => q.p })

/-- The state after it: a uniform register or predicate that it writes is defined whatever still lands (log entry 22). -/
def shortState (s : State) (x : Lx) (reads frees : List Nat) (e : Effect) : State :=
  let s := match e.g with | some (n, _) => if x.act = 0 then s else overG s x.id n | none => s
  let s := match e.p with | some (n, _, _) => if x.act = 0 then s else overP s x.id n | none => s
  modSquad s x.id (shortSquad x reads frees e)

/-- A long-latency instruction may issue: its set-flag is below 63, and its destination's rows can be had (06 R148). -/
def issues (s : State) (x : Lx) (regs : Nat) : Prop :=
  (∀ f, flagOf x.q x.o.fs = some f → flagCount x.q f ≠ 63)
  ∧ (x.act = 0 ∨ regs = 0 ∨ growCheck s x.id x.q (8 * regs) = .ok)

/-- The consuming read of a shared-register source returns a value: there is none, it was granted while the squad
waited, or the bank performs it now (16 R373, R401). -/
def consumed (s : State) (x : Lx) (s' : State) (hv : Dword) : Prop :=
  match hSource x.o with
  | none => s' = s ∧ hv = 0
  | some n =>
    let l := hLoc s x.q.team n
    (x.q.granted = some hv ∧ s' = s) ∨
    (x.q.granted = none ∧ hArrive (if l.common then escape s x.q.team else s) l (.squad x.id) .read = (s', some hv))

/-- Widths of the slots when all are those of `TYPE`. -/
def typed (t : LType) : Shape := { a := t.opW, b := t.opW, c := t.opW, d := t.opW }

/-- The instructions that compute one value in each active lane: widths of their slots, and the value from the lane and
the three slots (16 R377 to R392, R397, R398). -/
def laneTable : List ((LaneOp → Instr) × (LaneOp → Shape) × (State → LaneOp → Squad → Nat → Nat → Nat → Nat → Nat)) :=
  [(.add, fun o => typed o.ty, fun _ o _ _ a b _ => aluAdd o.ty (o.md.getLsbD 0) a b),
   (.sub, fun o => typed o.ty, fun _ o _ _ a b _ => aluSub o.ty (o.md.getLsbD 0) a b),
   (.addx, fun o => typed o.ty, fun _ o _ _ a b c => aluAddx (o.md.getLsbD 0) a b c),
   (.mul, fun o => typed o.ty, fun _ o _ _ a b _ => aluMul o.ty a b),
   (.mulhi, fun o => typed o.ty, fun _ o _ _ a b _ => aluMulhi o.ty a b),
   (.mad, fun o => typed o.ty, fun _ o _ _ a b c => aluMad o.ty a b c),
   (.madw, fun _ => { c := 64, d := 64 }, fun _ o _ _ a b c => aluMadw o.ty a b c),
   (.min, fun o => typed o.ty, fun _ o _ _ a b _ => aluMinMax o.ty false a b),
   (.max, fun o => typed o.ty, fun _ o _ _ a b _ => aluMinMax o.ty true a b),
   (.abs, fun o => typed o.ty, fun _ o _ _ a _ _ => aluAbs o.ty (o.md.getLsbD 0) a),
   (.lea, fun _ => { a := 64, d := 64 }, fun _ o _ _ a b _ => aluLea (o.md.getLsbD 3) (o.md.extractLsb' 0 3).toNat a b),
   (.and, fun o => typed o.ty, fun _ _ _ _ a b _ => a &&& b), (.or, fun o => typed o.ty, fun _ _ _ _ a b _ => a ||| b),
   (.xor, fun o => typed o.ty, fun _ _ _ _ a b _ => a ^^^ b),
   (.andn, fun o => typed o.ty, fun _ o _ _ a b _ => aluAndn o.ty.opW a b),
   (.lut3, fun o => typed o.ty, fun _ o _ _ a b c => lut3 (o.imm.toNat % 256) a b c),
   (.shl, fun o => { a := o.ty.opW, d := o.ty.opW }, fun _ o _ _ a b _ => aluShl o.ty a b),
   (.shr, fun o => { a := o.ty.opW, d := o.ty.opW }, fun _ o _ _ a b _ => aluShr o.ty a b),
   (.sar, fun o => { a := o.ty.opW, d := o.ty.opW }, fun _ o _ _ a b _ => aluSar o.ty a b),
   (.shf, fun _ => {}, fun _ o _ _ a b c => aluShf (o.md.getLsbD 0) a b c),
   (.bfe, fun _ => {}, fun _ o _ _ a b _ => aluBfe o.ty.signed a b), (.bfi, fun _ => {}, fun _ _ _ _ a b c => aluBfi a b c),
   (.popc, fun _ => {}, fun _ _ _ _ a _ _ => popNat 32 a), (.clz, fun _ => {}, fun _ _ _ _ a _ _ => clzNat 32 a),
   (.brev, fun _ => {}, fun _ _ _ _ a _ _ => revNat 32 a),
   (.fadd, fun _ => {}, fun _ o q _ a b _ => laneF2 o q (fun f rm x y => (f.add rm (f.dec x) (f.dec y)).bits) a b),
   (.fsub, fun _ => {}, fun _ o q _ a b _ => laneF2 o q (fun f rm x y => (f.add rm (f.dec x) (f.dec y).negate).bits) a b),
   (.fmul, fun _ => {}, fun _ o q _ a b _ => laneF2 o q (fun f rm x y => (f.mul rm (f.dec x) (f.dec y)).bits) a b),
   (.fmin, fun _ => {}, fun _ o q _ a b _ => laneF2 o q (fun f _ x y => (f.minmax false x y).bits) a b),
   (.fmax, fun _ => {}, fun _ o q _ a b _ => laneF2 o q (fun f _ x y => (f.minmax true x y).bits) a b),
   (.ffma, fun _ => {}, fun _ o q _ a b c =>
      let f := fmtOf o.ty
      let z := q.fpmode.getLsbD 0
      elem3 o.ty (fun x y w => finF f z (f.fma (laneRm o) (f.dec (prepF f (o.md.getLsbD 3) (o.md.getLsbD 0) z x))
        (f.dec (prepF f false (o.md.getLsbD 1) z y)) (f.dec (prepF f false (o.md.getLsbD 2) z w))).bits) a b c),
   (.frnd, fun _ => {}, fun _ o q _ a _ _ => laneF1 o q (fun f rm x => (f.toIntegral rm x).bits) a),
   (.fclass, fun _ => {}, fun _ _ _ _ a _ _ => fclassF32 a),
   (.fscale, fun _ => {}, fun _ o q _ a b _ =>
      let z := q.fpmode.getLsbD 0
      finF fB32 z (fscaleF32 (laneRm o) (prepF fB32 (o.md.getLsbD 3) (o.md.getLsbD 0) z a) (sxNat 32 b))),
   (.cvt, fun o => { a := (srcTy o).scalarW, d := o.ty.scalarW }, fun _ o q _ a _ _ =>
      convert o.ty (srcTy o) (laneRm o) (o.md.getLsbD 0) (q.fpmode.getLsbD 0) a),
   (.pack2, fun _ => {}, fun _ o q _ a b _ => aluPack2 o.ty (srcTy o) (laneRm o) (q.fpmode.getLsbD 0) a b),
   (.pack4, fun _ => {}, fun _ o q _ a b c =>
      aluPack4 o.ty (srcTy o) (laneRm o) (o.md.getLsbD 2) (q.fpmode.getLsbD 0) (o.md.extractLsb' 0 2).toNat a b c),
   (.dot4, fun _ => {}, fun _ o _ _ a b c => aluDot o.ty a b c), (.dot8, fun _ => {}, fun _ o _ _ a b c => aluDot o.ty a b c),
   (.dotf4, fun _ => {}, fun _ o q _ a b c => aluDotF o.ty (laneRm o) (q.fpmode.getLsbD 0) a b c),
   (.dotf8, fun _ => {}, fun _ o q _ a b c => aluDotF o.ty (laneRm o) (q.fpmode.getLsbD 0) a b c),
   (.mxscale, fun _ => {}, fun _ o q _ a b c =>
      aluMxscale (o.ty == .f32) (q.fpmode.getLsbD 0) (b / 256 ^ (o.md.extractLsb' 0 2).toNat % 256)
        (if o.md.getLsbD 4 then 127 else c / 256 ^ (o.md.extractLsb' 2 2).toNat % 256) a),
   (.mov, fun o => { a := o.ty.opW, d := o.ty.opW }, fun _ _ _ _ a _ _ => a),
   (.movk, fun o => { a := o.ty.opW, d := o.ty.opW }, fun _ o _ _ _ _ _ =>
      if o.ty = .i64 then toBits 64 (sxNat 32 (movkImm o).toNat) else (movkImm o).toNat),
   (.rdsp, fun _ => {}, fun s o q l _ _ _ => specialVal s q o.imm.toNat l),
   (.emget, fun _ => {}, fun _ _ q _ _ _ _ => q.em.toNat)]

/-- The long-latency ones: the value of a lane from the values of every lane in the slots. -/
def longTable : List ((LaneOp → Instr) × (LaneOp → Shape) ×
    (State → Lx → (Nat → Nat) → (Nat → Nat) → Nat → Nat)) :=
  let sfu (fn : Sfu) (s : State) (x : Lx) (a _b : Nat → Nat) (l : Nat) : Nat :=
    let f := fmtOf x.o.ty
    let z := x.q.fpmode.getLsbD 0
    mapElems f.width (fun k => sfuElem (64 * s.freeNo + 2 * l + k) fn f z
      (prepF f (x.o.md.getLsbD 3) (x.o.md.getLsbD 0) z (elemAt f.width k (a l)))) x.o.ty.count
  let one (o : LaneOp) : Shape := { a := o.ty.opW, d := o.ty.opW }
  [(.rcp, fun _ => {}, sfu .rcp), (.rsq, fun _ => {}, sfu .rsq), (.sqrt, fun _ => {}, sfu .sqrt),
   (.exp2, fun _ => {}, sfu .exp2), (.log2, fun _ => {}, sfu .log2), (.sin, fun _ => {}, sfu .sin),
   (.cos, fun _ => {}, sfu .cos), (.tanh, fun _ => {}, sfu .tanh), (.sigm, fun _ => {}, sfu .sigm),
   (.shfl, one, fun _ x a b l =>
      let k := shflLane (x.o.md.extractLsb' 0 2).toNat (2 ^ (x.o.md.extractLsb' 2 3).toNat) l (b l % 2 ^ 32)
      if inMask x.q.pm k then a k else 0),
   (.redsq, one, fun _ x a _ _ => squadReduce (x.o.md.extractLsb' 0 3).toNat x.o.ty (x.q.fpmode.getLsbD 0) x.act a),
   (.scansq, one, fun _ x a _ l =>
      squadScan (x.o.md.extractLsb' 0 3).toNat x.o.ty (x.q.fpmode.getLsbD 0) (x.o.md.getLsbD 3) x.act a l),
   (.hget, one, fun _ _ a _ l => a l)]

/-- The comparisons: widths, and the test on two slots. -/
def testTable : List ((LaneOp → Instr) × (LaneOp → Shape) × (LaneOp → Squad → Nat → Nat → Bool)) :=
  [(.icmp, fun o => typed o.ty, fun o _ a b => icmpCond o.ty (o.md.extractLsb' 0 3).toNat a b),
   (.fcmp, fun _ => {}, fun o q a b =>
      let z := q.fpmode.getLsbD 0
      fcmpCond ((if o.md.getLsbD 2 then 4 else 0) + (o.md.extractLsb' 4 2).toNat)
        (cmpFVal (fB32.dec (prepF fB32 (o.md.getLsbD 3) (o.md.getLsbD 0) z a)) (fB32.dec (prepF fB32 false (o.md.getLsbD 1) z b))))]

/-- A release by a squad goes on: where its wait already performed it, at once; else once none of the squad's accesses
waits and no write that it sent to the host or a peer is unacknowledged, with its write-combining entries drained, none of
its merged stores left (10 R232, R240, R241). -/
def released (s : State) (id : Nat) (q : Squad) (s' : State) : Prop :=
  ((q.granted.isSome ∨ q.arrived = true) ∧ s' = s) ∨
  (q.granted = none ∧ q.arrived = false ∧ waitingAccesses s id q = [] ∧ writesAway s (.squad id) = []
    ∧ s' = drainAgent s (.squad id) ∧ mergedLeft s' (.squad id) = false)

/-- The predicate that a destination names. -/
def predOf (o : LaneOp) : Nat := match o.dst with | .sp n => n.toNat | _ => 7

end Sys2Proof.Claims

/-- 16 R375, 07 R168 to R170: the arithmetic, logic, bit-field, conversion, dot-product and move instructions. Without a
shared-register source they are short-latency and write their values at once; with one they make its consuming read and
issue as long-latency operations. So do the special functions (16 R390, R393; log entry 12: what their accuracy leaves
open is a free value) and the cross-lane operations (R395, R396, R401). -/
def Obligations.LaneArithmetic : Prop :=
  (∀ r ∈ Claims.laneTable, ∀ (o : LaneOp) (s : State) (id : Nat) (q : Squad),
    let w := r.2.1 o
    let u := usesOf o w
    let x := Claims.at_ id q (r.1 o) o
    let val (hv : Dword) (l : Nat) : Nat :=
      r.2.2 s o q l (srcVal q o hv w.a o.a l) (srcVal q o hv w.b o.b l) (srcVal q o hv w.c o.c l)
    Claims.ready s id q o u →
    (hSource o = none → Claims.room s x (valEffect x w.d (val 0)) →
      exec (r.1 o) s = .next (Claims.shortState s x u.vs (freesOf o w) (valEffect x w.d (val 0))))
    ∧ (hSource o ≠ none → Claims.issues s x u.dv.length → ∀ s' hv, Claims.consumed s x s' hv →
      exec (r.1 o) s = .next (finishLong s' x u.vs (freesOf o w) (valResult x w.d (val hv)))))
  ∧ ∀ r ∈ Claims.longTable, ∀ (o : LaneOp) (s : State) (id : Nat) (q : Squad),
    let w := r.2.1 o
    let u := usesOf o w
    let x := Claims.at_ id q (r.1 o) o
    Claims.ready s id q o u → Claims.issues s x u.dv.length → ∀ s' hv, Claims.consumed s x s' hv →
      exec (r.1 o) s = .next (finishLong s' x u.vs (freesOf o w)
        (valResult x w.d (r.2.2 s x (srcVal q o hv w.a o.a) (srcVal q o hv w.b o.b))))

/-- 16 R378, R382, R394, R397, R398: instructions with predicates or masks. -/
def Obligations.LanePredicates : Prop :=
  ∀ (o : LaneOp) (s : State) (id : Nat) (q : Squad),
    let n := Claims.predOf o
    let d : Shape := {}
    (∀ r ∈ Claims.testTable,
      let w := r.2.1 o
      let u := usesOf o w
      let x := Claims.at_ id q (r.1 o) o
      let val (hv : Dword) : Word := maskOf fun l => r.2.2 o q (srcVal q o hv w.a o.a l) (srcVal q o hv w.b o.b l)
      Claims.ready s id q o u →
      (hSource o = none →
        exec (r.1 o) s = .next (Claims.shortState s x u.vs (freesOf o w) { p := some (n, x.act, val 0) }))
      ∧ (hSource o ≠ none → Claims.issues s x 0 → ∀ s' hv, Claims.consumed s x s' hv →
        exec (r.1 o) s = .next (finishLong s' x u.vs (freesOf o w) { dst := .p n, pval := val hv })))
    ∧ (let u := usesOf o d
       let x := Claims.at_ id q (.pset o) o
       let val (hv : Dword) : Word := maskOf fun l => bitOf (srcVal q o hv 32 o.a l) l
       Claims.ready s id q o u →
       (hSource o = none →
        exec (.pset o) s = .next (Claims.shortState s x u.vs (freesOf o d) { p := some (n, x.act, val 0) }))
       ∧ (hSource o ≠ none → Claims.issues s x 0 → ∀ s' hv, Claims.consumed s x s' hv →
        exec (.pset o) s = .next (finishLong s' x u.vs (freesOf o d) { dst := .p n, pval := val hv })))
    ∧ (let k := (o.md.extractLsb' 0 3).toNat
       let w := Claims.typed o.ty
       let u := { usesOf o w with ps := [k] }
       let x := Claims.at_ id q (.sel o) o
       let val (hv : Dword) (l : Nat) : Nat :=
         if inMask (predVal q k) l = o.md.getLsbD 3 then srcVal q o hv w.b o.b l else srcVal q o hv w.a o.a l
       Claims.ready s id q o u →
       (hSource o = none → Claims.room s x (valEffect x w.d (val 0)) →
        exec (.sel o) s = .next (Claims.shortState s x u.vs (freesOf o w) (valEffect x w.d (val 0))))
       ∧ (hSource o ≠ none → Claims.issues s x u.dv.length → ∀ s' hv, Claims.consumed s x s' hv →
        exec (.sel o) s = .next (finishLong s' x u.vs (freesOf o w) (valResult x w.d (val hv)))))
    ∧ (let x := Claims.at_ id q (.elect o) o
       Claims.ready s id q o (usesOf o d) →
       exec (.elect o) s = .next (Claims.shortState s x [] []
         { p := some (n, x.act, maskOf fun k => lowLane x.act == some k) }))
    ∧ (let x := Claims.at_ id q (.emset o) o
       Claims.ready s id q o (usesOf o d) →
       exec (.emset o) s = .next (Claims.shortState s x [] []
         { post := fun q' => { q' with em := BitVec.ofNat 32 (srcVal q o 0 32 o.a 0) &&& q'.pm } }))
    ∧ (let k := (o.md.extractLsb' 0 3).toNat
       let x := Claims.at_ id q (.pget o) o
       let e := valEffect x 32 fun _ => (predVal q k &&& q.pm).toNat
       Claims.ready s id q o { usesOf o d with ps := [k] } → Claims.room s x e →
       exec (.pget o) s = .next (Claims.shortState s x [] [] e))
    ∧ (let mode := (o.md.extractLsb' 0 2).toNat
       let k := (o.md.extractLsb' 2 3).toNat
       let u := { usesOf o d with ps := if mode = 3 then [] else [k] }
       let x := Claims.at_ id q (.vote o) o
       let holds (l : Nat) : Bool := inMask (predVal q k) l != o.md.getLsbD 5
       Claims.ready s id q o u → Claims.issues s x u.dv.length → ∀ s' hv, Claims.consumed s x s' hv →
       exec (.vote o) s = .next (finishLong s' x u.vs (freesOf o d) (match o.dst with
         | .sp p => { dst := .p p.toNat
                      pval := if voteTest x mode holds (srcVal q o hv 32 o.a) then 0xFFFFFFFF else 0 }
         | _ => valResult x 32 fun _ => (x.act &&& maskOf holds).toNat)))

/-- 16 R400, R401, 10 R232: puts and contributions of a squad to shared registers, which release, and the state of an entry.
A `hput` without an active lane reads nothing. The set-flag of `hacc` rises at its issue: one that finds its entry Full waits
with the flag raised, and goes on once the bank has taken its contribution. -/
def Obligations.LaneSharedRegisters : Prop :=
  ∀ (o : LaneOp) (s : State) (id : Nat) (q : Squad),
    let w : Shape := { a := o.ty.opW }
    let u := usesIfAny s o { usesOf o w with dp := none }
    let entry := match o.dst with | .sp n => n.toNat | _ => 0
    -- an operation is performed, as a release is
    let bank (x : Lx) (op : HOp) (s' : State) : Prop :=
      (∃ v, q.granted = some v ∧ s' = s) ∨
      (q.granted = none ∧
        ∃ s1, Claims.released s id q s1 ∧
        let l := hLoc s1 q.team entry
        ∃ v, hArrive (if l.common then escape s1 q.team else s1) l (.squad x.id) op = (s', some v))
    (let x := Claims.at_ id q (.hput o) o
     Claims.ready s id q o u →
      (lowLane x.act = none → exec (.hput o) s = .next (Claims.shortState s x [] (freesOf o w) {}))
      ∧ (∀ l, lowLane x.act = some l → ∀ s',
          bank x (.put (hValue o.ty (srcVal q o 0 w.a o.a l)) (o.imm.toNat % 256)) s' →
          exec (.hput o) s = .next (Claims.shortState s' x u.vs (freesOf o w) {})))
    ∧ (let x := Claims.at_ id q (.hacc o) o
       let op := (o.md.extractLsb' 0 3).toNat
       let v := squadReduce op o.ty (q.fpmode.getLsbD 0) x.act (srcVal q o 0 w.a o.a)
       let u := { usesOf o w with dp := none }
       Claims.ready s id q o u →
       (q.granted ≠ none →
          let taken := match pendingContribution s id q with
            | some n => { s with pops := mmod s.pops n fun p => { p with ready := true } }
            | none => s
          exec (.hacc o) s = .next (Claims.shortState taken x u.vs (freesOf o w) {}))
       ∧ (q.granted = none → Claims.issues s x 0 → ∀ s1, Claims.released s id q s1 →
          let l := hLoc s1 q.team entry
          let op := HOp.acc (hValue o.ty v) op (gtypeOf o.ty) (o.imm.toNat % 2048)
          ∀ s',
          (∀ v, hArrive (if l.common then escape s1 q.team else s1) l (.squad id) op = (s', some v) →
            exec (.hacc o) s = .next (finishLong s' x u.vs (freesOf o w) {}))
          ∧ (hArrive (if l.common then escape s1 q.team else s1) l (.squad id) op = (s', none) →
            exec (.hacc o) s = .next (setWait (contributionWaits s' x) id (.shared l.cluster l.key)))))
    ∧ (let x := Claims.at_ id q (.hstat o) o
       let u := usesOf o {}
       let e := getH s (hLoc s q.team ((srcH o.a).getD 0))
       Claims.ready s id q o u → Claims.issues s x u.dv.length →
        exec (.hstat o) s = .next (finishLong (hTurn s (hLoc s q.team ((srcH o.a).getD 0)) (.squad id)) x [] [] (valResult x 32 fun _ =>
          2 ^ 16 * e.recv.toNat + 2 ^ 8 * e.count.toNat + (if e.gather then 2 else 0) + (if e.full then 1 else 0))))

namespace Sys2Proof.Claims

open Sys2Proof Sys2Proof.Machine

/-! ### Words of the statements: lane accesses -/

/-- A lane memory instruction with one access per active lane. -/
structure MemRow where
  make : LaneOp → Instr
  /-- bytes of an access, and lane registers of the destination -/
  size : LaneOp → Nat
  regs : LaneOp → List Nat
  uses : LaneOp → Uses
  frees : LaneOp → List Nat
  atomic : Bool := false
  writes : Bool := true
  /-- words that a lane sends: expected and new values, or the stored ones -/
  data : Squad → LaneOp → Nat → List Word
  res : Lx → Result
  /-- what performed lanes leave beside their accesses -/
  post : State → Lx → List Nat → State := fun s _ _ => s

/-- Expected words of a compare-and-swap: those of the destination; `v255` supplies zeros (17 R413). -/
def expected (q : Squad) (o : LaneOp) (n l : Nat) : List Word :=
  if (regDst o.dst n).isEmpty then List.replicate n 0 else (regDst o.dst n).map fun k => BitVec.ofNat 32 (readV q k l)

def casUses (o : LaneOp) (n : Nat) : Uses :=
  { memUses o n 1 (regDst o.dst n) with vs := addrVs o ++ dataVs n o.c ++ regDst o.dst n }

/-- The loads, stores and atomics of 17 R407, R411, R413. -/
def memTable : List MemRow :=
  [{ make := .ld, size := accessSize, regs := fun o => regDst o.dst (vecRegs o), writes := false
     uses := fun o => memUses o 0 0 (regDst o.dst (vecRegs o)), frees := fun o => memFrees o 0, data := fun _ _ _ => []
     res := fun x => regResult x x.o.dst (vecRegs x.o) 0 false },
   { make := .st, size := accessSize, regs := fun _ => [], uses := fun o => memUses o (vecRegs o) (vecCount o) []
     frees := fun o => memFrees o (vecRegs o), data := fun q o => dataWords q (vecCount o) (elemRegs o.ty) o.c
     res := fun _ => {}
     -- a store is noted in the write-combining entry that it has merged into (02 R32; log entry 21)
     post := fun s x ok => noteStores s x.id x.q.team s.nextId x.q x.i x.q.pos x.act (ok.map fun l => (l, laneAddr x.q x.o l)) },
   { make := .atom, size := fun o => o.ty.opW / 8, regs := fun o => regDst o.dst (o.ty.opW / 32), atomic := true
     uses := fun o => memUses o (o.ty.opW / 32) 1 (regDst o.dst (o.ty.opW / 32)), frees := fun o => memFrees o (o.ty.opW / 32)
     data := fun q o => dataWords q 1 (o.ty.opW / 32) o.c
     res := fun x => regResult x x.o.dst (x.o.ty.opW / 32) 0 false },
   { make := .cas, size := fun o => 4 * (o.ty.opW / 32), regs := fun o => regDst o.dst (o.ty.opW / 32), atomic := true
     uses := fun o => casUses o (o.ty.opW / 32), frees := fun o => memFrees o (o.ty.opW / 32)
     data := fun q o l => expected q o (o.ty.opW / 32) l ++ dataWords q 1 (o.ty.opW / 32) o.c l
     res := fun x => regResult x x.o.dst (x.o.ty.opW / 32) 0 false },
   { make := .cas2, size := fun _ => 16, regs := fun o => regDst o.dst 4, atomic := true, uses := fun o => casUses o 4
     frees := fun o => memFrees o 4, data := fun q o l => expected q o 4 l ++ dataWords q 1 4 o.c l
     res := fun x => regResult x x.o.dst 4 0 false }]

/-- Lanes that access a misaligned address, and lanes of an atomic whose address is homed on the host (17 R403). -/
def offGrid (x : Lx) (n : Nat) : Word := maskOf fun l => inMask x.act l && (laneAddr x.q x.o l).toNat % n != 0
def onHost (s : State) (x : Lx) : Word :=
  maskOf fun l => inMask x.act l && hostHomed s (rqSquad s x.id x.q) (laneAddr x.q x.o l).toNat

/-- Every access of an instruction is performed, in an order; `s'` is the state after them and `ok` their bytes. -/
def accessed (s : State) (x : Lx) (r : Rq) (order : List Nat) (va : Nat → Dword) (data : Nat → List Word) (s' : State)
    (ok : List (Nat × List Byte)) : Prop :=
  laneWalk (fun s l => laneAccess s r x.q.team x.i (va l).toNat (data l)) order s = (s', ok, [])

/-- The instruction's operation is issued with the bytes of its lanes as its result. -/
def issued (s : State) (x : Lx) (reads frees : List Nat) (res : Result) (ok : List (Nat × List Byte)) : State :=
  noteOk (finishLong s x reads frees { res with ready := true }) x.i s.nextId ok

/-- It drains the squad's write-combining entries: a release, or an access to a strongly ordered page (02 R32, 10 R232, R237). -/
def drains (s : State) (x : Lx) (r : Rq) : Prop :=
  x.act ≠ 0 ∧ (isRelease x.i = true ∨ ∃ a ∈ laneVas x, pageType s r a = 3)

/-- Past its checks a memory instruction does not wait behind the squad's parked accesses, nor for a merged store that its
drain leaves (10 R237, R240, 13 R299; log entry 21). -/
def goes (s : State) (x : Lx) (r : Rq) : Prop :=
  memGate s x.id x.q x.i r (laneVas x) = false
  ∧ (drains s x r → mergedLeft (drainAgent s (.squad x.id)) (.squad x.id) = false)

/-- The state in which its accesses start, where a store or an atomic is a team-scope boundary (06 R160). -/
def entered (s : State) (x : Lx) (writes : Bool) : State := if writes ∧ x.act ≠ 0 then escape s x.q.team else s

/-- The state after its drain, if it drains. -/
def begun (s : State) (x : Lx) (r : Rq) (writes : Bool) (s' : State) : Prop :=
  let s1 := entered s x writes
  (drains s1 x r ∧ s' = drainAgent s1 (.squad x.id)) ∨ (¬ drains s1 x r ∧ s' = s1)

/-! ### Local store -/

/-- Lanes whose local-store access of n bytes breaks a rule of 08 R188. -/
def lsBad (s : State) (x : Lx) (n : Nat) : Word := maskOf fun l => inMask x.act l && (lsAt s x.q x.o n l).isNone

/-- The instruction goes on for the other lanes, in the state in which the bad ones are switched off, for the squad as it
stands then. -/
def lsLeft (s : State) (x : Lx) (n : Nat) : State := switchOff s x.id (lsBad s x n)
def lsX (s : State) (x : Lx) (n : Nat) : Lx :=
  { x with act := x.act &&& ~~~lsBad s x n, q := (mget (lsLeft s x n).squads x.id).getD x.q }

/-- No acquire of the squad waits (10 R229). -/
def acquired (s : State) (id : Nat) (q : Squad) : Prop := acquiring s id q (rqSquad s id q) = false

/-- The lane instruction's results, computed at issue, enter its operation. -/
def withWords (s : State) (x : Lx) (reads frees : List Nat) (n : Nat) (f : Nat → List Word) : State :=
  let t := finishLong s x reads frees (regResult x x.o.dst n 0 false)
  { t with pops := mmod t.pops s.nextId fun p => (lanesOf x.act).foldl (fun p l => putResult x.i p l (f l)) p }

end Sys2Proof.Claims

/-- 17 R403, R407, R411, R413: loads, stores and atomics of lanes. A misaligned lane traps `MISALIGN`, then for atomics a
lane on a host-homed address `HOSTATOM`, before any access; performed accesses issue the operation with their results. -/
def Obligations.LaneLoadsStoresAndAtomics : Prop :=
  ∀ r ∈ Claims.memTable, ∀ (o : LaneOp) (s : State) (id : Nat) (q : Squad),
    let x := Claims.at_ id q (r.make o) o
    let n := r.size o
    let rq := rqSquad s id q
    let va (l : Nat) : Dword := laneAddr q o l
    Claims.ready s id q o (r.uses o) →
    (Claims.offGrid x n ≠ 0 →
      exec (r.make o) s = .next (x.trap s tMisalign (Claims.offGrid x n) (trapVals (Claims.offGrid x n) va)))
    ∧ (Claims.offGrid x n = 0 → r.atomic = true → Claims.onHost s x ≠ 0 →
      exec (r.make o) s = .next (x.trap s tHostatom (Claims.onHost s x) (trapVals (Claims.onHost s x) va)))
    ∧ (Claims.offGrid x n = 0 → (r.atomic = true → Claims.onHost s x = 0) → Claims.issues s x (r.regs o).length →
        Claims.goes (Claims.entered s x r.writes) x rq →
        let ord := if r.writes then laneOrder (Claims.entered s x true) x rq else lanesOf x.act
        ∀ s1 s' ok, Claims.begun s x rq r.writes s1 → Claims.accessed s1 x rq ord va (r.data q o) s' ok →
        exec (r.make o) s = .next
          (Claims.issued (r.post s' x (ok.map (·.1))) x (r.uses o).vs (r.frees o) (r.res x) ok))

/-- 17 R408 to R410, R414, R415, 08 R196, R197, 10 R230, R241, R243: the uniform load, prefetch, counted fill, consuming load,
fences and `loc` of lanes. A release fence and `pfence` wait while an access of the squad waits or a write that it sent to the
host or a peer is unacknowledged. That `ldcf` arms its grains after its reads is the model's choice (log entry 38). -/
def Obligations.LaneOtherMemoryInstructions : Prop :=
  ∀ (o : LaneOp) (s : State) (id : Nat) (q : Squad),
    let rq := rqSquad s id q
    let n := vecRegs o
    let dv := regDst o.dst n
    let u := memUses o 0 0 dv
    -- `ldu`: one access for the squad
    (let x := Claims.at_ id q (.ldu o) o
     let va := laneAddr q o 0
     Claims.ready s id q o u →
      (x.act ≠ 0 → va.toNat % accessSize o ≠ 0 →
        exec (.ldu o) s = .next (x.trap s tMisalign x.act (trapVals x.act fun _ => va)))
      ∧ ((x.act ≠ 0 → va.toNat % accessSize o = 0) → Claims.issues s x dv.length → Claims.goes s x rq → ∀ s1 s' ok,
          Claims.begun s x rq false s1 →
          Claims.accessed s1 x rq (lowLane x.act).toList (laneAddr q o) (fun _ => []) s' ok →
          exec (.ldu o) s = .next (Claims.issued s' x u.vs (memFrees o 0)
            (regResult x o.dst n (vecCount o) (elemRegs o.ty == 2)) ok)))
    -- `prf`: it completes whatever its lanes meet, once the squad's log has room
    ∧ (let x := Claims.at_ id q (.prf o) o
       let u := memUses o 0 0 []
       Claims.ready s id q o u → logFull s id q = false →
        exec (.prf o) s = .next (Claims.shortState
          ((laneVas x).foldl (fun s va => prefetch s rq (o.md.getLsbD 0) va) s) x u.vs (memFrees o 0) {}))
    -- `ldcf`: a count of 1 to 255; its grains are armed
    ∧ (let x := Claims.at_ id q (.ldcf o) o
       let u := { u with gs := srcGs o.a ++ srcGs o.c }
       let count := srcVal q o 0 64 o.c 0
       Claims.ready s id q o u →
        (count = 0 ∨ 255 < count → exec (.ldcf o) s = .next (x.trap s tIllop q.em))
        ∧ (1 ≤ count → count ≤ 255 → Claims.offGrid x (accessSize o) ≠ 0 → exec (.ldcf o) s = .next (x.trap s tMisalign
            (Claims.offGrid x (accessSize o)) (trapVals (Claims.offGrid x (accessSize o)) (laneAddr q o))))
        ∧ (1 ≤ count → count ≤ 255 → Claims.offGrid x (accessSize o) = 0 → Claims.issues s x dv.length → Claims.goes s x rq →
            ∀ s1 s' ok, Claims.begun s x rq false s1 →
            Claims.accessed s1 x rq (lanesOf x.act) (laneAddr q o) (fun _ => [BitVec.ofNat 32 count]) s' ok →
            exec (.ldcf o) s = .next (Claims.issued (armLanes s' x rq count [] (ok.map (·.1))) x u.vs (memFrees o 0)
              (regResult x o.dst n 0 false) ok)))
    -- `ldc`: a lane on a drained grain traps; each armed grain touched is consumed once
    ∧ (let x := Claims.at_ id q (.ldc o) o
       let cnt (l : Nat) : CntState := grainCnt s rq (laneAddr q o l).toNat
       let hit := maskOf fun l => inMask x.act l && cnt l == .drained
       Claims.ready s id q o u →
        (Claims.offGrid x (accessSize o) ≠ 0 → exec (.ldc o) s = .next (x.trap s tMisalign
          (Claims.offGrid x (accessSize o)) (trapVals (Claims.offGrid x (accessSize o)) (laneAddr q o))))
        ∧ (Claims.offGrid x (accessSize o) = 0 → hit ≠ 0 → exec (.ldc o) s = .next (x.trap
          (modCluster s rq.cluster fun c => { c with clOverRead := c.clOverRead + 1 }) tOverread hit (trapVals hit (laneAddr q o))))
        ∧ (Claims.offGrid x (accessSize o) = 0 → hit = 0 → Claims.issues s x dv.length → Claims.goes s x rq → ∀ s1 s' ok,
            Claims.begun s x rq false s1 → Claims.accessed s1 x rq (lanesOf x.act) (laneAddr q o) (fun _ => []) s' ok →
            let armed := (lanesOf x.act).filter fun l => cnt l != .plain
            exec (.ldc o) s = .next (Claims.issued (consumeLanes s' x rq [] ((ok.map (·.1)).filter armed.contains)) x u.vs
              (memFrees o 0) (regResult x o.dst n 0 false) ok)))
    -- fences: once no access of the squad waits; a release once its writes to homes outside are acknowledged
    ∧ (let x := Claims.at_ id q (.fence o) o
       let kind := (o.md.extractLsb' 0 2).toNat
       Claims.ready s id q o {} →
        (waitingAccesses s id q ≠ [] → exec (.fence o) s = .next (setWait (pcieFlush s (.squad id)) id .hold))
        ∧ (waitingAccesses s id q = [] →
          (kind < 2 → exec (.fence o) s = .next (Claims.shortState s x [] [] {}))
          ∧ (2 ≤ kind → (∀ s1, Claims.released s id q s1 → exec (.fence o) s = .next (Claims.shortState s1 x [] [] {}))
            ∧ (q.granted = none → q.arrived = false → writesAway s (.squad id) ≠ [] →
              exec (.fence o) s = .next (setWait (pcieFlush s (.squad id)) id .hold)))))
    ∧ (let x := Claims.at_ id q (.pfence o) o
       Claims.ready s id q o {} →
        (q.arrived = false →
          (∀ s0, Claims.released s id q s0 →
            let s1 := flushPers s0
            (anyCxl s1 = false → exec (.pfence o) s = .next (Claims.shortState s1 x [] [] {}))
            ∧ (anyCxl s1 = true → exec (.pfence o) s = .next
                (modSquad { s1 with pfences := s1.pfences ++ [.squad id] } id fun q =>
                  { q with arrived := true, wait := .hold, held := none })))
          ∧ (q.granted = none → waitingAccesses s id q ≠ [] ∨ writesAway s (.squad id) ≠ [] →
              exec (.pfence o) s = .next (setWait (pcieFlush s (.squad id)) id .hold)))
        ∧ (q.arrived = true → s.pfences.contains (.squad id) = false →
          exec (.pfence o) s = .next (Claims.shortState s x [] [] {})))
    -- `loc`: one report for each lane
    ∧ (let x := Claims.at_ id q (.loc o) o
       let dv := regDst o.dst 1
       let u := memUses o 0 0 dv
       Claims.ready s id q o u → logFull s id q = false → Claims.issues s x dv.length → ∀ s' vals,
        locLanes x rq (lanesOf x.act) s = (s', some vals) →
        exec (.loc o) s = .next (finishLong s' x u.vs (memFrees o 0)
          (valResult x 32 fun l => ((vals.find? fun p => p.1 == l).elim 0 (·.2)))))

/-- 17 R416 to R419, 08 R188, R190 to R193: local-store instructions. Lanes whose access breaks a rule are switched off
first, and the instruction goes on for the others. -/
def Obligations.LocalStoreInstructions : Prop :=
  ∀ (o : LaneOp) (s : State) (id : Nat) (q : Squad),
    let n := vecRegs o
    let bytes := accessSize o
    let dv := regDst o.dst n
    -- the instruction enters: no acquire waits, and nothing is awaited before or after the bad lanes have left
    let enters (i : Instr) (u : Uses) (k : Nat) : Prop :=
      let x := Claims.at_ id q i o
      Claims.ready s id q o u ∧ Claims.acquired s id q
        ∧ awaited (Claims.lsLeft s x k) id (Claims.lsX s x k).q o (Claims.lsX s x k).act u = []
    (let x := Claims.at_ id q (.lds o) o
     let u := memUses o 0 0 dv
     let s1 := Claims.lsLeft s x bytes
     let x1 := Claims.lsX s x bytes
     enters (.lds o) u bytes → Claims.issues s1 x1 dv.length →
      exec (.lds o) s = .next (Claims.withWords (lsTouch s1 x1 bytes) x1 u.vs (memFrees o 0) n fun l =>
        loadWords o.ty (vecCount o) (lsRead s1 x1 bytes l)))
    ∧ (let x := Claims.at_ id q (.sts o) o
       let u := memUses o n (vecCount o) []
       let s1 := Claims.lsLeft s x bytes
       let x1 := Claims.lsX s x bytes
       enters (.sts o) u bytes → Claims.issues s1 x1 0 →
        exec (.sts o) s = .next (finishLong (lsStores s1 x1) x1 u.vs (memFrees o n) {}))
    ∧ (let x := Claims.at_ id q (.stsArm o) o
       let g := match o.dst with | .g k => k.toNat | _ => 0
       let u := { memUses o n (vecCount o) [] with gs := g :: (srcGs o.a ++ dataGs (vecCount o) o.c) }
       let c := (readG q g).toNat
       let s1 := Claims.lsLeft s x bytes
       let x1 := Claims.lsX s x bytes
       (Claims.ready s id q o u → 255 < c → exec (.stsArm o) s = .next (x.trap s tIllop q.em))
       ∧ (c ≤ 255 → enters (.stsArm o) u bytes → Claims.issues s1 x1 0 →
          exec (.stsArm o) s = .next (finishLong ((lsBlocks (lsStores s1 x1) x1 bytes).foldl
            (fun s b => armBlock s x1.q.team id (clusterOf x1.q.core) b.1 b.2 c) (lsStores s1 x1)) x1 u.vs (memFrees o n) {})))
    ∧ (let k := o.ty.opW / 32
       let dv := regDst o.dst k
       let x := Claims.at_ id q (.atoms o) o
       let u := memUses o k 1 dv
       let s1 := Claims.lsLeft s x (4 * k)
       let x1 := Claims.lsX s x (4 * k)
       let r := lsAtoms x1 (4 * k) (lanesOf x1.act) (lsTouch s1 x1 (4 * k))
       enters (.atoms o) u (4 * k) → Claims.issues s1 x1 dv.length →
        exec (.atoms o) s = .next (Claims.withWords r.1 x1 u.vs (memFrees o k) k fun l =>
          wordsOf ((r.2.find? fun p => p.1 == l).elim [] (·.2)) k))
    ∧ (let x := Claims.at_ id q (.ldsc o) o
       let u := memUses o 0 0 dv
       let s1 := Claims.lsLeft s x bytes
       let x1 := Claims.lsX s x bytes
       let s2 := lsTouch s1 x1 bytes
       let hit := maskOf fun l => inMask x1.act l
         && (let p := lsPlace s2 x1 bytes l; ((teamOf s2 x1.q.team).seg p.1).state (blockOf p.2) == .drained)
       let vals := (lanesOf x1.act).map fun l => (l, loadWords o.ty (vecCount o) (lsRead s2 x1 bytes l))
       enters (.ldsc o) u bytes →
        (hit ≠ 0 → exec (.ldsc o) s = .next (x1.trap
          (modCluster s2 (clusterOf x1.q.core) fun c => { c with clOverRead := c.clOverRead + 1 }) tOverread hit
          (trapVals hit fun l => BitVec.ofNat 64 (lsLane x1.q o l))))
        ∧ (hit = 0 → Claims.issues s2 x1 dv.length →
          exec (.ldsc o) s = .next (Claims.withWords ((lsBlocks s2 x1 bytes).foldl
            (fun s b => modSeg s x1.q.team b.1 fun g => g.consume b.2) s2) x1 u.vs (memFrees o 0) n
            fun l => (vals.find? fun p => p.1 == l).elim [] (·.2))))
    ∧ (let x := Claims.at_ id q (.lsarm o) o
       let c := srcVal q o 0 64 o.c 0
       let m := bitsOf c 8 13
       let t := teamOf s q.team
       let place := if lsLane q o 0 % 128 = 0
         then lsRange (lrOf s q.team).lskib t.cores.length (ownRank t q.core) (lsLane q o 0) (128 * m) else none
       Claims.ready s id q o (usesOf o { a := 64, c := 64 }) →
        (2 ^ 21 ≤ c ∨ m = 0 ∨ 4096 < m → exec (.lsarm o) s = .next (x.trap s tIllop q.em))
        ∧ (c < 2 ^ 21 → 1 ≤ m → m ≤ 4096 → Claims.acquired s id q → Claims.issues s x 0 →
          (x.act = 0 → exec (.lsarm o) s = .next (finishLong s x [] [] {}))
          ∧ (x.act ≠ 0 → place = none → exec (.lsarm o) s = .next (finishLong (switchOff s id x.act) x [] [] {}))
          ∧ (x.act ≠ 0 → ∀ r off, place = some (r, off) →
            exec (.lsarm o) s = .next (finishLong ((List.range m).foldl
              (fun s k => armBlock s q.team id (clusterOf q.core) r (blockOf off + k) (c % 256))
              (lsPort s t r q.core q.part (q.held.getD false) ((List.range m).map (blockOf off + ·)))) x [] [] {}))))
    ∧ (let dv := regDst o.dst 1
       let x := Claims.at_ id q (.lsstat o) o
       let u := memUses o 0 0 dv
       let s1 := Claims.lsLeft s x 1
       let x1 := Claims.lsX s x 1
       enters (.lsstat o) u 1 → Claims.issues s1 x1 dv.length →
        exec (.lsstat o) s = .next (finishLong (lsTouch s1 x1 1) x1 u.vs (memFrees o 0) (valResult x1 32 fun l =>
          let p := lsPlace s1 x1 1 l
          (((teamOf s1 x1.q.team).seg p.1).state (blockOf p.2)).code)))

namespace Sys2Proof.Claims

open Sys2Proof Sys2Proof.Machine

/-! ### Words of the statements: lane control -/

/-- An instruction that sends each lane of `em` somewhere (17 R421, R422). -/
structure FlowRow where
  make : LaneOp → Instr
  /-- an indirect form reads its targets from slot A -/
  ind : LaneOp → Bool
  uses : LaneOp → Uses
  target : Lx → Nat → Word
  links : Bool := false
  /-- the lanes must agree -/
  bound : Bool := false
  /-- a target of 0 is no return address -/
  back : Bool := false
  /-- targets that are no multiple of 12 trap (17 R422) -/
  checked : Bool := false

/-- Targets of a direct form under the guard, and of an indirect one. -/
def guarded (x : Lx) (l : Nat) : Word :=
  if inMask x.act l then x.q.hpos + 12 * x.o.imm.signExtend 32 else x.q.pos + 12
def named (x : Lx) (l : Nat) : Word := BitVec.ofNat 32 (srcVal x.q x.o 0 32 x.o.a l)
def aUses (o : LaneOp) : Uses := { vs := srcVs 32 o.a, gs := srcGs o.a, dv := dstVs 32 o.dst }

def flowTable : List FlowRow :=
  [{ make := .bra, ind := fun _ => false, uses := fun _ => {}, target := guarded },
   { make := .bru, ind := fun _ => false, uses := fun _ => {}, target := guarded, bound := true },
   { make := .jmp, ind := fun _ => true, uses := aUses, target := named, checked := true },
   { make := .call, ind := fun o => o.md.getLsbD 0, uses := aUses, links := true, checked := true
     target := fun x => if x.o.md.getLsbD 0 then named x else fun _ => x.q.hpos + 12 * x.o.imm.signExtend 32 },
   { make := .ret, ind := fun _ => true, uses := aUses, target := named, back := true, checked := true }]

/-- The link that `call` writes: the address after it, in each active lane. -/
def linked (r : FlowRow) (x : Lx) : List (Nat × Lanes) :=
  if r.links then (dstVs 32 x.o.dst).map fun n => (n, mergeLanes x.q n x.act fun _ => (x.q.pos + 12).toNat) else []

/-- Lanes of `em` with a target of some property. -/
def aimed (x : Lx) (target : Nat → Word) (p : Word → Bool) : Word := maskOf fun l => inMask x.q.em l && p (target l)

/-- Every lane of `em` goes to one place; a squad without one goes on at the next word. -/
def agree (x : Lx) (target : Nat → Word) (dest : Word) : Prop :=
  (∀ l ∈ lanesOf x.q.em, target l = dest) ∧ (x.q.em = 0 → dest = x.q.pos + 12)

/-- The lanes of `em` that go to a place. -/
def crowd (x : Lx) (target : Nat → Word) (dest : Word) : Nat := (lanesOf x.q.em).countP fun l => target l == dest

/-- The target that stays: the most common one, of several the lowest (09 R207). -/
def stays (x : Lx) (target : Nat → Word) (stay : Word) : Prop :=
  (∃ l ∈ lanesOf x.q.em, target l = stay) ∧
  ∀ l ∈ lanesOf x.q.em, target l ≠ stay →
    crowd x target (target l) < crowd x target stay ∨
    (crowd x target (target l) = crowd x target stay ∧ stay < target l)

/-- Lanes that leave, with their targets. -/
def leaves (x : Lx) (target : Nat → Word) (stay : Word) : List (Nat × Word) :=
  ((lanesOf x.q.em).map fun l => (l, target l)).filter fun p => p.2 != stay

/-- Values of lanes that `rdclk` or `rand` takes from its log, lane after lane: the oldest unconsumed entry of its key, which
is consumed, or where there is none the live value, and `SVCERR` counts (05 R130). -/
def replayed (slot : Nat) (key : Nat → List Byte) (live : Nat → Dword) : List Nat → State → State → List (Nat × Dword) → Prop
  | [], s, s', vals => s' = s ∧ vals = []
  | l :: ls, s, s', vals =>
    (∃ c bs rest, logFind s slot (fun e => e.take 24 = key l) = .found c bs
      ∧ replayed slot key live ls { s with replay := mset s.replay (65536 * slot + c) 1 } s' rest
      ∧ vals = (l, BitVec.ofNat 64 (fieldOf bs 24 8)) :: rest)
    ∨ (logFind s slot (fun e => e.take 24 = key l) = .nothing
      ∧ ∃ rest, replayed slot key live ls (svcErr s) s' rest ∧ vals = (l, live l) :: rest)

/-- The value of a lane, or of the lowest where the lane has none: an inactive one. -/
def valueOf (vals : List (Nat × Dword)) (l : Nat) : Nat :=
  match vals.find? fun p => p.1 == l with
  | some p => p.2.toNat
  | none => match vals with | p :: _ => p.2.toNat | [] => 0

/-- The squad waits while its former ejects threads. -/
def ejecting (s : State) (x : Lx) (e : Eject) : State :=
  modSquad s x.id fun q => { q with wait := .hold, held := none, eject := some e }

/-- The lane control registers as 14 R330 numbers them, with their values. -/
def controlRegister (s : State) (q : Squad) : Nat → Nat
  | 0 => q.tcause.toNat
  | 1 => q.tpc.toNat
  | 2 => q.tlm.toNat
  | 3 => q.tem.toNat
  | 4 => (teamOf s q.team).thand.toNat
  | 5 => q.lfm.toNat
  | 6 => q.cstat.toNat
  | _ => q.fpmode.toNat

/-- `THAND` has 64 bits. -/
def controlWidth (n : Nat) : Nat := if n = 4 then 64 else 32

end Sys2Proof.Claims

/-- 17 R421, R422, 09 R206 to R209, R218: branches, jumps, calls and returns. Lanes that agree go on together; a call
writes its link. Where lanes differ, the most common target stays (the lowest of several) and the others are ejected,
if the team has a spawn area with room, no handler runs, and no lane register is awaited; else the squad traps. -/
def Obligations.LaneFlow : Prop :=
  (∀ r ∈ Claims.flowTable, ∀ (o : LaneOp) (s : State) (id : Nat) (q : Squad),
    let x := Claims.at_ id q (r.make o) o
    let reads := if r.ind o then srcVs 32 o.a else []
    let frees := if r.ind o then srcFrees 32 o.a else []
    let link := Claims.linked r x
    let bad := Claims.aimed x (r.target x) fun t => t.toNat % 12 != 0
    let zero := Claims.aimed x (r.target x) fun t => t == 0
    Claims.ready s id q o (r.uses o) → (r.bound = true → q.uni = false) →
    (r.checked = true → bad ≠ 0 → exec (r.make o) s = .next (x.trap s tIllop bad))
    ∧ (r.back = true → bad = 0 → zero ≠ 0 → exec (r.make o) s = .next (x.trap s tBadret zero))
    ∧ ((r.checked = true → bad = 0) → (r.back = true → zero = 0) → q.eject = none →
      (∀ dest, Claims.agree x (r.target x) dest →
        let e : Effect := { vs := link, post := fun q => { q with pos := dest - 12 } }
        Claims.room s x e → exec (r.make o) s = .next (Claims.shortState s x reads frees e))
      ∧ (∀ stay, Claims.stays x (r.target x) stay →
        let out := Claims.leaves x (r.target x) stay
        let m := maskOf fun l => out.any fun p => p.1 == l
        let full := (lrOf s q.team).spawnkib = 0 ∨ spawnRoom s q frees link out.length = none
        let rows := (link.map fun n => shapeRows n.2).sum
        let grow := if rows = 0 then Grow.ok else growCheck s id q rows
        out ≠ [] →
        (r.bound = true → exec (r.make o) s = .next (x.trap s tDiverge m (trapVals m fun l => (r.target x l).setWidth 64)))
        ∧ (r.bound = false → full →
            exec (r.make o) s = .next (x.trap s tSpawnfull m (trapVals m fun l => (r.target x l).setWidth 64)))
        ∧ (r.bound = false → ¬ full → inHandler q = true →
            exec (r.make o) s = .next (x.trap s tDiverge m (trapVals m fun l => (r.target x l).setWidth 64)))
        -- the rows of a call's link are asked for first (07 R173)
        ∧ (r.bound = false → ¬ full → inHandler q = false → (∀ v ∈ q.v, v.2.pend = none) →
            (grow = .trap → exec (r.make o) s = .next (x.trap s tRows q.em [] (BitVec.ofNat 64 rows)))
            ∧ (grow = .wait → exec (r.make o) s = .next (setWait s id (.grow rows)))
            ∧ (grow = .ok → exec (r.make o) s = .next (Claims.ejecting s x
                { kind := 0, out := out, stay := some stay, frees := frees, link := link, word := laneWordOf (r.make o) }))))))
  -- a uniform-only volley branches once for the squad
  ∧ ∀ (o : LaneOp) (s : State) (id : Nat) (q : Squad), Claims.ready s id q o {} → q.uni = true →
      exec (.bru o) s = .next (Claims.shortState s (Claims.at_ id q (.bru o) o) [] []
        { post := fun x => { x with pos := q.hpos + 12 * o.imm.signExtend 32 - 12 } })

/-- 09 R214, R215, 17 R423, R424: rejoining, `exit` and `yield`. -/
def Obligations.LaneRejoinExitYield : Prop :=
  ∀ (o : LaneOp) (s : State) (id : Nat) (q : Squad),
    let dest : Word := q.pos + 12
    let noArea := (lrOf s q.team).spawnkib = 0
    let all (x : Lx) (kind : Nat) (i : Instr) : State := Claims.ejecting s x
      { kind := kind, out := (lanesOf q.pm).map fun l => (l, dest), stay := none, word := laneWordOf i }
    let parks : Prop := q.eject = none ∧ (spawnRoom s q [] [] (lanesOf q.pm).length).isSome ∧ ∀ v ∈ q.v, v.2.pend = none
    (let x := Claims.at_ id q (.rejoin o) o
     Claims.ready s id q o {} →
      (q.pm = 0xFFFFFFFF ∨ noArea → exec (.rejoin o) s = .next (Claims.shortState s x [] [] {}))
      ∧ (q.pm ≠ 0xFFFFFFFF → ¬ noArea → parks → exec (.rejoin o) s = .next (all x 1 (.rejoin o))))
    ∧ (let x := Claims.at_ id q (.rejoinS o) o
       Claims.ready s id q o {} →
        (holdsOrigin s id q = true ∨ noArea → exec (.rejoinS o) s = .next (Claims.shortState s x [] [] { post := raiseTickets }))
        ∧ (holdsOrigin s id q = false → ¬ noArea → parks → exec (.rejoinS o) s = .next (all x 2 (.rejoinS o))))
    ∧ (let x := Claims.at_ id q (.exit o) o
       let on := modSquad s id (Claims.onward o)
       Claims.ready s id q o {} →
        (x.act = 0 → exec (.exit o) s = .next on)
        ∧ (x.act ≠ 0 → (x.act ≠ q.pm ∨ (q.log = [] ∧ (inHandler q = true ∨ (q.traps = [] ∧ q.unseen = [])))) →
            exec (.exit o) s = .next (settleExit (endLanes on id x.act) id))
        -- what is due or unseen is delivered before the squad's last thread ends (18 R435)
        ∧ (x.act ≠ 0 → x.act = q.pm → q.log = [] → inHandler q = false → (q.traps ≠ [] ∨ q.unseen ≠ []) →
            exec (.exit o) s = .next (modSquad (seeAll s id) id fun q' => { q' with wait := .none }))
        ∧ (x.act ≠ 0 → x.act = q.pm → q.log ≠ [] → exec (.exit o) s = .next (setWait s id .hold)))
    ∧ (let m := srcVal q o 0 64 o.a 0
       Claims.ready s id q o { gs := srcGs o.a } →
        (m < 2 ^ 12 → exec (.yield o) s = .next (modSquad s id fun q' => { Claims.onward o q' with
          pos := q'.hpos + 12 * o.imm.signExtend 32, inVolley := false, held := none,
          wait := .yield (BitVec.ofNat 12 m) (q'.hpos + 12 * o.imm.signExtend 32) }))
        ∧ (2 ^ 12 ≤ m → exec (.yield o) s = .next ((Claims.at_ id q (.yield o) o).trap s tIllop q.em)))

/-- 17 R425, R426: the team barrier and `nap`. A squad without an active lane passes. -/
def Obligations.LaneBarriersAndNaps : Prop :=
  ∀ (o : LaneOp) (s : State) (id : Nat) (q : Squad),
    let lanes (i : Instr) : Lx := Claims.at_ id q i o
    (∀ i ∈ [Instr.bar o, .barar o, .barwt o], Claims.ready s id q o {} → (lanes i).act = 0 →
      exec i s = .next (Claims.shortState s (lanes i) [] [] {}))
    -- arriving: `barar` goes on, `bar` goes on if its arrival completes the phase, else waits for the phase's end
    ∧ (Claims.ready s id q o {} → q.arrived = false → q.marks &&& q.pm = 0 → ∀ s', Claims.released s id q s' →
        let x := lanes (.bar o)
        let y := lanes (.barar o)
        let t := arrive s' x
        x.act ≠ 0 →
        exec (.barar o) s = .next (Claims.shortState t y [] [] {})
        ∧ ∀ q', mget t.squads id = some q' →
          (q'.phase ≠ some (teamOf t q'.team).barPhase → exec (.bar o) s = .next (Claims.shortState t x [] [] {}))
          ∧ (q'.phase = some (teamOf t q'.team).barPhase →
              exec (.bar o) s = .next (setWait t id (.barrier (teamOf t q'.team).barPhase))))
    -- waiting: while the phase of the arrival lasts
    ∧ (let x := lanes (.barwt o)
       let ph := (teamOf s q.team).barPhase
       Claims.ready s id q o {} → x.act ≠ 0 →
        (q.phase ≠ some ph → exec (.barwt o) s = .next (Claims.shortState s x [] [] {}))
        ∧ (q.phase = some ph → exec (.barwt o) s = .next (setWait s id (.barrier ph))))
    -- the second arrival of a thread waits for the next phase
    ∧ (∀ i ∈ [Instr.bar o, .barar o], Claims.ready s id q o {} → q.arrived = false → (lanes i).act ≠ 0 →
        q.marks &&& q.pm ≠ 0 → exec i s = .next (setWait s id (.barrier (teamOf s q.team).barPhase)))
    ∧ (let x := lanes (.nap o)
       let n := match o.a with | .lit => o.imm.toNat | c => srcVal q o 0 64 c 0
       Claims.ready s id q o { gs := srcGs o.a } →
        (x.act = 0 ∨ q.granted.isSome → exec (.nap o) s = .next (Claims.shortState s x [] [] {}))
        ∧ (x.act ≠ 0 → q.granted = none →
            exec (.nap o) s = .next (setWait s id (.nap (if n = 0 then none else some (s.timeNs.toNat + n))))))

/-- 14 R330, 17 R430 to R432, 07 R171, 12 R273, 05 R129, R130: control registers, traps, `nop`, the time base and random
values, without a recording, under REC (each lane's value is pushed to the log, and the result is ready with the pushes) and
under PLAY. What `rand` gives is a free value (log entry 13); an `rdclk` or `rand` without an active lane counts (log entry
36). -/
def Obligations.LaneSystemInstructions : Prop :=
  ∀ (o : LaneOp) (s : State) (id : Nat) (q : Squad),
    let n := o.imm.toNat % 256
    let w := Claims.controlWidth n
    (let x := Claims.at_ id q (.csrr o) o
     Claims.ready s id q o { dv := dstVs w o.dst } → Claims.issues s x (dstVs w o.dst).length →
      exec (.csrr o) s = .next (finishLong s x [] [] (valResult x w fun _ => Claims.controlRegister s q n)))
    ∧ (let x := Claims.at_ id q (.csrw o) o
       let v (l : Nat) : Nat := srcVal q o 0 w o.a l
       let u : Uses := { vs := srcVs w o.a, gs := srcGs o.a }
       let goOn (s : State) : Host.Outcome State Fault Refusal :=
         .next (Claims.shortState s x u.vs (srcFrees w o.a) {})
       Claims.ready s id q o u →
        (x.act = 0 → exec (.csrw o) s = goOn s)
        ∧ ∀ l, lowLane x.act = some l →
          (n = 3 → exec (.csrw o) s = goOn (modSquad s id fun q => { q with tem := BitVec.ofNat 32 (v l) }))
          ∧ (n = 4 → exec (.csrw o) s = goOn
              (if bitsOf (v l) 0 32 % 12 = 0 ∧ bitsOf (v l) 32 19 % 64 = 0
               then modTeam s q.team fun t => { t with thand := BitVec.ofNat 64 (v l % 2 ^ 51) } else s))
          ∧ (n = 6 → exec (.csrw o) s = goOn (modSquad s id fun q =>
              { q with cstat := q.cstat &&& ~~~(BitVec.ofNat 32 (v l % 32)) }))
          ∧ (n = 7 → exec (.csrw o) s = goOn (modSquad s id fun q => { q with fpmode := BitVec.ofNat 32 (v l % 2) }))
          ∧ (n ∉ [3, 4, 6, 7] → exec (.csrw o) s = goOn s))
    ∧ (let x := Claims.at_ id q (.trap o) o
       Claims.ready s id q o {} →
        (x.act = 0 → exec (.trap o) s = .next (Claims.shortState s x [] [] {}))
        ∧ (x.act ≠ 0 → exec (.trap o) s = .next (x.trap s tSwtrap x.act [] (o.imm.setWidth 64))))
    ∧ (let x := Claims.at_ id q (.brk o) o
       Claims.ready s id q o {} →
        (x.act = 0 → exec (.brk o) s = .next (Claims.shortState s x [] [] {}))
        ∧ (x.act ≠ 0 → exec (.brk o) s = .next (x.trap s tBrk x.act)))
    ∧ (Claims.ready s id q o {} →
        exec (.nop o) s = .next (Claims.shortState s (Claims.at_ id q (.nop o) o) [] [] {}))
    ∧ (let slot := slotOf s q.team
       let rc := recCtl s slot
       let team := teamOf s q.team
       let act := activeLanes q o
       ∀ r ∈ [(Instr.rdclk o, 2, 64, if act = 0 then [] else [0], fun _ => s.timeNs),
              (.rand o, 3, o.ty.opW, lanesOf act, fun l => BitVec.ofNat 64 ((Config.free64 s.freeNo l).toNat % 2 ^ o.ty.opW))],
        let i := r.1
        let w := r.2.2.1
        let lanes := r.2.2.2.1
        let live := r.2.2.2.2
        let x := Claims.at_ id q i o
        let key (l : Nat) : List Byte := Claims.resultKey r.2.1 0 q.index l team.index (ndetOf team q.index)
        Claims.ready s id q o { dv := dstVs w o.dst } → Claims.issues s x (dstVs w o.dst).length →
        (rc.testBit 0 = false → rc.testBit 1 = false → exec i s = .next (finishLong (countNdet s q) x [] []
          (valResult x w (Claims.valueOf (lanes.map fun l => (l, live l))))))
        ∧ (rc.testBit 0 = true → rc.testBit 1 = false → lanes ≠ [] →
            let pushed := lanes.foldl (fun (t : State) l => { t with
              nextId := t.nextId + 1
              dpush := t.dpush ++ [{ id := t.nextId, slot := slot, q := bitsOf rc 16 16,
                                     entry := key l ++ bytesOf 8 (live l).toNat ++ zeros 32 }] }) s
            exec i s = .next (tiePushes (finishLong (countNdet pushed q) x [] []
              { valResult x w (Claims.valueOf (lanes.map fun l => (l, live l))) with ready := false })
              s.dpush.length pushed.nextId))
        ∧ (rc.testBit 1 = true →
            (∀ s' vals, (∀ l ∈ lanes, logFind s slot (fun e => e.take 24 = key l) ≠ .held) →
              Claims.replayed slot key live lanes s s' vals →
              exec i s = .next (finishLong (countNdet s' q) x [] [] (valResult x w (Claims.valueOf vals))))
            ∧ ((∃ l ∈ lanes, logFind s slot (fun e => e.take 24 = key l) = .held) → exec i s = .next (setWait s id .hold))))

/-- 17 R427, R428, R474, 06 R132, R137, 05 R107, R108: `launch` and the queue instructions of lanes. A push that is reserved
and a pop that finds an entry complete; a full window and an empty queue are waited for, or reported by `.try`, or the full
policy applies; without an active lane nothing happens. The predicate of a `.try` push is written with the answer, while the
set-flag stays raised (log entry 33). -/
def Obligations.LaneQueueInstructions : Prop :=
  ∀ (o : LaneOp) (s : State) (id : Nat) (q : Squad),
    let n := srcVal q o 0 64 o.a 0
    let vs := srcVs 32 o.b
    let fs := srcFrees 32 o.b
    let team := teamOf s q.team
    let depth := (gridOf s team).depth
    let entry : List Byte :=
      ((laneIdx.take 16).map fun l => bytesOf 4 (if inMask q.pm l then srcVal q o 0 32 o.b l else 0)).flatten
    let p := (o.md.extractLsb' 1 3).toNat
    (∀ r ∈ [(Instr.qpush, false), (Instr.qpushTry, true)], o.md.getLsbD 0 = r.2 →
      let x := Claims.at_ id q (r.1 o) o
      Claims.ready s id q o { vs := vs, gs := srcGs o.a } →
      (x.act = 0 → exec (r.1 o) s = .next (Claims.shortState s x vs fs {}))
      ∧ (x.act ≠ 0 → 1023 < n → exec (r.1 o) s = .next (x.trap s tIllop q.em))
      ∧ (x.act ≠ 0 → n ≤ 1023 → Claims.issues s x 0 → ∀ s1 s2 c, Claims.released s id q s1 →
          qPush s1 (rqSquad s id q) n entry false r.2 (.squad id) = (s2, .reserved c) →
          exec (r.1 o) s = .next (finishLong
            (if r.2 = true ∧ p ≠ 7 then modSquad (overP (escape s2 q.team) id p) id fun q =>
              { q with p := putPred q.p p x.act 0xFFFFFFFF } else escape s2 q.team) x vs fs { ready := false }))
      ∧ (x.act ≠ 0 → n ≤ 1023 → Claims.issues s x 0 → ∀ s1 s2, Claims.released s id q s1 →
          (qPush s1 (rqSquad s id q) n entry false r.2 (.squad id) = (s2, .wait) →
            exec (r.1 o) s = .next (setWait s2 id (.queue n)))
          ∧ (∀ c va, qPush s1 (rqSquad s id q) n entry false r.2 (.squad id) = (s2, .trap c va) →
            exec (r.1 o) s = .next (x.trap s2 c q.em (trapVals q.em fun _ => BitVec.ofNat 64 va)))
          ∧ (qPush s1 (rqSquad s id q) n entry false r.2 (.squad id) = (s2, .dropped) → r.2 = false →
            exec (r.1 o) s = .next (finishLong (escape s2 q.team) x vs fs {}))
          ∧ (qPush s1 (rqSquad s id q) n entry false r.2 (.squad id) = (s2, .none') →
            exec (r.1 o) s = .next (finishLong
              (if r.2 = true ∧ p ≠ 7 then modSquad (overP (escape s2 q.team) id p) id fun q =>
                { q with p := putPred q.p p x.act 0 } else escape s2 q.team) x vs fs {}))))
    ∧ (∀ r ∈ [(Instr.qpop, false), (Instr.qpopTry, true)], o.md.getLsbD 0 = r.2 →
      let x := Claims.at_ id q (r.1 o) o
      let dv := regDst o.dst 1
      let idx := match o.dst with | .v k => k.toNat | _ => 255
      let words (bs : List Byte) : List Lanes := mergeRegs q idx x.act [fun l => fieldOf bs (4 * (l % 16)) 4]
      Claims.ready s id q o { vs := vs, gs := srcGs o.a, dv := dv } →
      (x.act = 0 → exec (r.1 o) s = .next (Claims.shortState s x vs fs {}))
      ∧ (x.act ≠ 0 → 1023 < n → exec (r.1 o) s = .next (x.trap s tIllop q.em))
      ∧ (x.act ≠ 0 → n ≤ 1023 → Claims.issues s x dv.length → Claims.acquired s id q → ∀ s2 bs,
          qPop s (rqSquad s id q) n r.2 = (s2, .popped bs) →
          exec (r.1 o) s = .next (finishLong (escape s2 q.team) x [] []
            (if r.2 = true ∧ p ≠ 7 then { dst := .vp idx 1 p, vals := words bs, pval := 0xFFFFFFFF }
             else { dst := .v idx 1, vals := words bs })))
      ∧ (x.act ≠ 0 → n ≤ 1023 → Claims.issues s x dv.length → Claims.acquired s id q → ∀ s2,
          (qPop s (rqSquad s id q) n r.2 = (s2, .wait) → exec (r.1 o) s = .next (setWait s2 id (.queue n)))
          ∧ (∀ c va, qPop s (rqSquad s id q) n r.2 = (s2, .trap c va) →
            exec (r.1 o) s = .next (x.trap s2 c q.em (trapVals q.em fun _ => BitVec.ofNat 64 va)))
          ∧ (qPop s (rqSquad s id q) n r.2 = (s2, .none') →
            exec (r.1 o) s = .next (finishLong (escape s2 q.team) x [] []
              (if r.2 = true ∧ p ≠ 7 then { dst := .vp idx 1 p, vals := words (zeros 64), pval := 0 }
               else { dst := .v idx 1, vals := words (zeros 64) })))))
    ∧ (let x := Claims.at_ id q (.launch o) o
       Claims.ready s id q o { gs := srcGs o.a ++ srcGs o.b } →
      (x.act = 0 → exec (.launch o) s = .next (Claims.shortState s x [] [] {}))
      ∧ (x.act ≠ 0 → isLeader s q = false → exec (.launch o) s = .next (x.trap s tPriv q.em))
      ∧ (x.act ≠ 0 → isLeader s q = true → 9 ≤ depth →
          (depthFault s (rqSquad s id q) = none →
            let d := depthTrap s (rqSquad s id q)
            exec (.launch o) s = .next (x.trap s d.1 q.em (trapVals q.em fun _ => BitVec.ofNat 64 d.2)))
          ∧ (∀ k dd h p v acc, depthFault s (rqSquad s id q) = some (.fault k dd h p v acc) →
            exec (.launch o) s = .next (squadFault s id (rqSquad s id q) .exec k dd h p v acc)))
      ∧ (x.act ≠ 0 → isLeader s q = true → depth < 9 → Claims.issues s x 0 → ∀ s1 s2 c, Claims.released s id q s1 →
          qPush s1 (rqSquad s id q) 0
            (bytesOf 8 n ++ bytesOf 4 team.index ++ bytesOf 1 (depth + 1) ++ zeros 3
              ++ bytesOf 8 (srcVal q o 0 64 o.b 0) ++ bytesOf 4 (team.index / 2 ^ 32) ++ zeros 36)
            true false (.spine q.team) = (s2, .reserved c) →
          exec (.launch o) s = .next (finishLong (escape s2 q.team) x [] [] { ready := false })))

namespace Sys2Proof.Claims

open Sys2Proof Sys2Proof.Machine

/-! ### Words of the statements: matrix, tensor, copy and handler instructions -/

/-- Every check of a matrix instruction that does not concern its own operands passes (18 R433): no guard, tiles and
carries within the allocation, kinds as the instruction asks, a whole squad, nothing lost. -/
def clear (s : State) (x : Lx) : Prop :=
  x.o.unguarded = true ∧ allocated s x.q x.i = true ∧ kindsOk x.q x.i = true ∧ x.q.em = 0xFFFFFFFF ∧ x.q.pm = 0xFFFFFFFF
  ∧ isLost x.q x.i = false

/-- The engine's table has room, no acquire of the squad waits (10 R229), and the instruction may issue. -/
def posts (s : State) (x : Lx) (regs : Nat) : Prop :=
  (engineOps s (clusterOf x.q.core)).length < 64 ∧ acquired s x.id x.q ∧ issues s x regs

/-- The operation is posted (11 R249): its flag is raised, its captured operands enter the engine's table, the tiles that
it writes take their posted kinds, and an `mml` begins to read its identifier entries. -/
def posted (s : State) (x : Lx) (reads frees : List Nat) (res : Result) (m : MOp) (post : Squad → Squad := id) : State :=
  let m := { m with id := s.nextId, squad := x.id, instr := x.i, tpc := x.q.pos, em := x.q.em, flag := flagOf x.q x.o.fs }
  loadEntries (addMop (finishLong s x reads frees { res with ready := false } fun q => postTiles m.dests (post q))
    (clusterOf x.q.core) m) m

/-- A matrix instruction without operands of its own to check. -/
structure MatRow where
  make : LaneOp → Instr
  uses : LaneOp → Uses := fun _ => {}
  frees : LaneOp → List Nat := fun _ => []
  regs : Nat := 0
  res : Lx → Result := fun _ => {}
  mop : Lx → MOp

def aRegs (o : LaneOp) (n : Nat) : List Nat := (List.range n).map (srcIdx o.a + ·)

def matTable : List MatRow :=
  [{ make := .mmz, mop := fun x => { newMop with dests := mmzKinds x.o } },
   { make := .mmrd, uses := fun o => { dv := regDst o.dst 8 }, regs := 8, res := fun x => regResult x x.o.dst 8 0 false
     mop := fun _ => newMop },
   { make := .mmwr, uses := fun o => { vs := aRegs o 8 }, frees := fun o => match o.a with | .v _ true => aRegs o 8 | _ => []
     mop := fun x => { newMop with rows := captureRegs x.q (srcIdx x.o.a) 8, dests := [(dstTile x.o, mmwrKind x.o)] } },
   { make := .scan, uses := fun o => { gs := srcGs o.a }
     mop := fun x => { newMop with ops := [srcVal x.q x.o 0 32 x.o.a 0],
                                   dests := [(dstTile x.o, .gain), (dstTile x.o + 1, .offset)] } },
   { make := .cset, uses := fun o => { vs := srcVs 64 o.a }, frees := fun o => srcFrees 64 o.a
     mop := fun x => { newMop with rows := captureRegs x.q (srcIdx x.o.a) 2 } },
   { make := .csetId, mop := fun _ => newMop },
   { make := .cget, uses := fun o => { dv := regDst o.dst 2 }, regs := 2, res := fun x => regResult x x.o.dst 2 0 false
     mop := fun _ => newMop }]

/-- What a matrix instruction's checks stop, in the order of their trap codes (18 R433): its form, its allocation, its kinds and
its own operands, a misaligned address, a partial squad, a lost tile or carry. -/
def refuses (s : State) (x : Lx) (bad : Prop) (misaligned : Option Nat) : Prop :=
  (x.o.unguarded = false ∨ allocated s x.q x.i = false ∨ kindsOk x.q x.i = false ∨ bad →
    exec x.i s = .next (x.trap s tIllop x.q.em))
  ∧ (x.o.unguarded = true → allocated s x.q x.i = true → kindsOk x.q x.i = true → ¬ bad →
      (∀ va, misaligned = some va →
        exec x.i s = .next (x.trap s tMisalign x.q.em (trapVals x.q.em fun _ => BitVec.ofNat 64 va)))
      ∧ (misaligned = none →
        (x.q.em ≠ 0xFFFFFFFF ∨ x.q.pm ≠ 0xFFFFFFFF → exec x.i s = .next (x.trap s tPartial x.q.em))
        ∧ (x.q.em = 0xFFFFFFFF → x.q.pm = 0xFFFFFFFF → isLost x.q x.i = true →
            exec x.i s = .next (x.trap s tTilelost x.q.em))))

/-- The number that a lane instruction names in slot A, in one of its active lanes. -/
def slotA (x : Lx) : Nat := srcUni x 64 x.o.a

end Sys2Proof.Claims

/-- 18 R433, R437 to R444, 11 R249, R252, 10 R232: every matrix instruction checks, in the order of the trap codes, then posts,
as a release does. -/
def Obligations.MatrixInstructions : Prop :=
  (∀ r ∈ Claims.matTable, ∀ (o : LaneOp) (s : State) (id : Nat) (q : Squad),
    let x := Claims.at_ id q (r.make o) o
    Claims.ready s id q o (r.uses o) →
    Claims.refuses s x False none
    ∧ (Claims.clear s x → Claims.posts s x r.regs → ∀ s1, Claims.released s id q s1 →
      exec (r.make o) s = .next (Claims.posted s1 x (r.uses o).vs (r.frees o) (r.res x) (r.mop x))))
  ∧ ∀ (o : LaneOp) (s : State) (id : Nat) (q : Squad),
    -- `mma`: operand A from registers or the latch, B from local store
    (let x := Claims.at_ id q (.mma o) o
     let n := if o.a.unused then 0 else o.ty.aRegs
     let vs := Claims.aRegs o n ++ srcVs 32 o.c
     let addr := matAddr q o o.b % 2 ^ 32
     let use := latchUse q o (captureRegs q (srcIdx o.a) n) (lanesFrom fun l => BitVec.ofNat 32 (srcVal q o 0 32 o.c l))
     let place := matLs s q addr (bBytes o.ty + 32 * scaleBlocks o.ty)
     Claims.ready s id q o { vs := vs, gs := srcGs o.b } →
      Claims.refuses s x (use = none ∨ place = none) (if addr % 128 = 0 then none else some addr)
      ∧ (∀ l latch p, use = some (l, latch) → place = some p → Claims.clear s x → addr % 128 = 0 → Claims.posts s x 0 →
          ∀ s1, Claims.released s id q s1 → exec (.mma o) s = .next (Claims.posted s1 x vs
            ((match o.a with | .v _ true => Claims.aRegs o n | _ => []) ++ srcFrees 32 o.c) {}
            { newMop with rows := l.rows, scales := l.scales, ops := [p.1, p.2], dests := productDests q o }
            fun q => { q with latch := latch })))
    -- `mml`: a loop of steps over two tensor identifiers
    ∧ (let x := Claims.at_ id q (.mml o) o
       let ids := srcVal q o 0 64 o.a 0
       let bad := bitsOf ids 10 6 ≠ 0 ∨ bitsOf ids 26 38 ≠ 0
       Claims.ready s id q o { gs := srcGs o.a ++ srcGs o.b ++ srcGs o.c } →
        Claims.refuses s x bad none
        ∧ (¬ bad → Claims.clear s x → Claims.posts s x 0 → (∀ e ∈ q.log, ∀ y, e.instr ≠ .tiset y) →
          ∀ s1, Claims.released s id q s1 →
          exec (.mml o) s = .next (Claims.posted s1 x [] [] {}
            { newMop with
              dests := productDests q o
              loop := some { remain := o.imm.toNat % 8192, tida := bitsOf ids 0 10, tidb := bitsOf ids 16 10
                             aaddr := BitVec.ofNat 64 (srcVal q o 0 64 o.b 0)
                             baddr := BitVec.ofNat 64 (srcVal q o 0 64 o.c 0) } })))
    -- `mmld`, `mmst`: a whole tile from or to memory or local store
    ∧ (let va := matAddr q o o.a
       let lsForm := o.md.getLsbD 0
       let place := matLs s q va (tileBytes o.ty)
       let ops := if lsForm then (place.elim [] fun p => [p.1, p.2]) else [va]
       let x := Claims.at_ id q (.mmld o) o
       let y := Claims.at_ id q (.mmst o) o
       let s' := if lsForm then s else escape s q.team
       Claims.ready s id q o { gs := srcGs o.a } →
        (let mis := if lsForm ∨ va % 128 = 0 then none else some va
         Claims.refuses s x (lsForm = true ∧ place = none) mis ∧ Claims.refuses s y (lsForm = true ∧ place = none) mis)
        ∧ ((if lsForm then place ≠ none else va % 128 = 0) →
          (Claims.clear s x → Claims.posts s x 0 → ∀ s1, Claims.released s id q s1 →
            exec (.mmld o) s = .next (Claims.posted s1 x [] [] {} { newMop with ops := ops, dests := mmzKinds o }))
          ∧ (Claims.clear s y → Claims.posts s' y 0 → ∀ s1, Claims.released s' id q s1 →
            exec (.mmst o) s = .next (Claims.posted s1 y [] [] {} { newMop with ops := ops }))))

/-- 18 R445 to R448: `tstat`, `tiset`, `tiget`, and the prefix unit, whose operations of one clock come by core, partition and
slot. Without an active lane nothing happens. -/
def Obligations.TensorInstructions : Prop :=
  ∀ (o : LaneOp) (s : State) (id : Nat) (q : Squad),
    let dv := regDst o.dst 1
    (let x := Claims.at_ id q (.tstat o) o
     Claims.ready s id q o { gs := srcGs o.a, dv := dv } →
      (x.act = 0 → exec (.tstat o) s = .next (Claims.shortState s x [] [] {}))
      ∧ (x.act ≠ 0 → allocated s q (.tstat o) = false → exec (.tstat o) s = .next (x.trap s tIllop q.em))
      ∧ (x.act ≠ 0 → allocated s q (.tstat o) = true → Claims.posts s x dv.length →
          exec (.tstat o) s = .next (Claims.posted s x [] [] (regResult x o.dst 1 1 false)
            { newMop with ops := [srcUni x 32 o.a] })))
    -- a tensor identifier's entry is written and read as 16 words of the lanes
    ∧ (let x := Claims.at_ id q (.tiset o) o
       let vs := srcVs 32 o.b
       let n := Claims.slotA x
       let s1 := escape s q.team
       let rq := rqSquad s1 id q
       let va : Dword := BitVec.ofNat 64 (tidVa s1 rq.slot n)
       let data : List Word := (laneIdx.take 16).map fun l =>
         if inMask q.pm l then BitVec.ofNat 32 (srcVal q o 0 32 o.b l) else 0
       Claims.ready s id q o (usesIfAny s o { vs := vs, gs := srcGs o.a }) →
        (x.act = 0 → exec (.tiset o) s = .next (Claims.shortState s x [] (srcFrees 32 o.b) {}))
        ∧ (x.act ≠ 0 → 1023 < n → exec (.tiset o) s = .next (x.trap s tIllop q.em))
        ∧ (x.act ≠ 0 → n ≤ 1023 → memGate s1 id q (.tiset o) rq [va.toNat] = false → Claims.issues s1 x 0 → ∀ s' ok,
            Claims.accessed s1 x rq (lowLane x.act).toList (fun _ => va) (fun _ => data) s' ok →
            exec (.tiset o) s = .next (Claims.issued s' x vs (srcFrees 32 o.b) {} ok)))
    ∧ (let x := Claims.at_ id q (.tiget o) o
       let n := Claims.slotA x
       let rq := rqSquad s id q
       let va : Dword := BitVec.ofNat 64 (tidVa s rq.slot n)
       Claims.ready s id q o { gs := srcGs o.a, dv := dv } →
        (x.act = 0 → exec (.tiget o) s = .next (Claims.shortState s x [] [] {}))
        ∧ (x.act ≠ 0 → 1023 < n → exec (.tiget o) s = .next (x.trap s tIllop q.em))
        ∧ (x.act ≠ 0 → n ≤ 1023 → memGate s id q (.tiget o) rq [va.toNat] = false → Claims.issues s x dv.length → ∀ s' ok,
            Claims.accessed s x rq (lowLane x.act).toList (fun _ => va) (fun _ => []) s' ok →
            exec (.tiget o) s = .next (Claims.issued s' x [] [] (regResult x o.dst 1 0 false) ok)))
    -- prefixes: the active lanes in ascending order; a handle that is not the context's gives all ones and `CSTAT` bit 3
    ∧ (let x := Claims.at_ id q (.pfxh o) o
       let vs := srcVs 32 o.a ++ srcVs 32 o.b
       let fs := srcFrees 32 o.a ++ srcFrees 32 o.b
       let p := (o.md.extractLsb' 0 3).toNat
       let h := srcUni x 32 o.c
       let cl := clusterOf q.core
       -- its turn among the prefix operations of its clock
       let s1 := pfxTurn s x
       let idx := match o.dst with | .v i => i.toNat | _ => 255
       let done (s' : State) (rs : List (Nat × Word × Bool)) (over_ : Bool) : Host.Outcome State Fault Refusal :=
         let found (l : Nat) : Word × Bool := match rs.find? fun r => r.1 == l with | some r => r.2 | none => (0, false)
         let vals := mergeRegs q idx x.act [fun l => (found l).1.toNat]
         .next (finishLong s' x vs fs
           (if p = 7 then { dst := .v idx 1, vals := vals }
            else { dst := .vp idx 1 p, vals := vals, pval := maskOf fun l => (found l).2 })
           fun q => if over_ then { q with cstat := q.cstat ||| 8 } else q)
       Claims.ready s id q o
          (usesIfAny s o { vs := vs, gs := srcGs o.a ++ srcGs o.b ++ srcGs o.c, dv := dv, dp := some p }) →
        (x.act = 0 → exec (.pfxh o) s = .next (Claims.shortState s x [] fs {}))
        ∧ (x.act ≠ 0 → 7 < h → exec (.pfxh o) s = .next (x.trap s tIllop q.em))
        ∧ (x.act ≠ 0 → h ≤ 7 → Claims.issues s x dv.length →
          ((∀ u, mget (getCluster s1 cl).pfx h = some u → u.slot ≠ slotOf s1 q.team) →
            exec (.pfxh o) s = done s1 ((lanesOf x.act).map fun l => (l, (0xFFFFFFFF : Word), false)) true)
          ∧ ∀ u, mget (getCluster s1 cl).pfx h = some u → u.slot = slotOf s1 q.team →
            let val (c : Src) (l : Nat) : Word := BitVec.ofNat 32 (srcVal q o 0 32 c l)
            let r := pfxLanes (val o.a) (val o.b) (lanesOf x.act) u.nodes
            exec (.pfxh o) s = done
              (modCluster s1 cl fun c => { c with pfx := mset c.pfx h { u with nodes := r.1 } }) r.2.1 r.2.2))
    ∧ (let x := Claims.at_ id q (.pfxhClr o) o
       let h := srcUni x 32 o.c
       Claims.ready s id q o { gs := srcGs o.c } →
        (x.act = 0 → exec (.pfxhClr o) s = .next (Claims.shortState s x [] [] {}))
        ∧ (x.act ≠ 0 → 7 < h → exec (.pfxhClr o) s = .next (x.trap s tIllop q.em))
        ∧ (x.act ≠ 0 → h ≤ 7 → Claims.issues s x 0 →
            exec (.pfxhClr o) s = .next (finishLong (modCluster (pfxTurn s x) (clusterOf q.core) fun c =>
              { c with pfx := mset c.pfx h ⟨slotOf s q.team, []⟩ }) x [] [] {})))

/-- 18 R449 to R453, 17 R429, 06 R159: copies, reductions and `tmig` of lanes. A `cpys` whose ranges overlap keeps the prior
contents of its source (R451; log entry 80). -/
def Obligations.LaneCopiesReductionsAndMigration : Prop :=
  ∀ (o : LaneOp) (s : State) (id : Nat) (q : Squad),
    let len := srcVal q o 0 64 o.c 0
    let cl := clusterOf q.core
    -- the direction of a `cpy` says which end is a local-store range; both ends of a `cpys` are
    (∀ r ∈ [(Instr.cpy, (o.md.extractLsb' 0 2).toNat == 1, (o.md.extractLsb' 0 2).toNat == 0), (Instr.cpys, true, true)],
      let x := Claims.at_ id q (r.1 o) o
      let a := copyPlace s q r.2.1 (srcVal q o 0 64 o.a 0) len
      let b := copyPlace s q r.2.2 (srcVal q o 0 64 o.b 0) len
      Claims.ready s id q o { gs := srcGs o.a ++ srcGs o.b ++ srcGs o.c } →
      (x.act = 0 → exec (r.1 o) s = .next (Claims.shortState s x [] [] {}))
      ∧ (x.act ≠ 0 → len = 0 ∨ 2 ^ 32 ≤ len → exec (r.1 o) s = .next (x.trap s tIllop q.em))
      ∧ (x.act ≠ 0 → 1 ≤ len → len < 2 ^ 32 →
        (a = none ∨ b = none → exec (r.1 o) s = .next (Claims.shortState (switchOff s id x.act) x [] [] {}))
        ∧ ∀ a' b', a = some a' → b = some b' → queuedCopies s cl < 128 → Claims.issues s x 0 →
          (o.imm.getLsbD 10 = true → ∀ e ∈ q.log, ∀ y, e.instr ≠ .tiset y) →
          ∀ s1, Claims.released s id q s1 →
          let s2 := if r.2.2 then s1 else escape s1 q.team
          let s3 := finishLong s2 x [] [] { ready := false }
          exec (r.1 o) s = .next (addCopy s3
            { id := s2.nextId, cluster := cl, slot := slotOf s3 q.team, team := q.team,
              squad := some id, tpc := q.pos, em := q.em, instr := r.1 o, src := a', dst := b', len := len
              tid := if o.imm.getLsbD 10 then some (o.imm.toNat % 1024) else none
              prior := if lsOverlap a' b' len then
                  (match a' with | .ls k off => ((teamOf s3 q.team).seg k).read off len | .mem _ => []) else []
              arm := if o.md.getLsbD 2 then some (bitsOf o.imm.toNat 11 8) else none, flag := flagOf q o.fs })))
    -- `cred` reads its descriptor, then is posted
    ∧ (let x := Claims.at_ id q (.cred o) o
       let va : Dword := BitVec.ofNat 64 (srcVal q o 0 64 o.a 0)
       let rq := rqSquad s id q
       Claims.ready s id q o { gs := srcGs o.a } →
        (x.act = 0 → exec (.cred o) s = .next (Claims.shortState s x [] [] {}))
        ∧ (x.act ≠ 0 → va.toNat % 64 ≠ 0 → exec (.cred o) s = .next (x.trap s tMisalign x.act (trapVals x.act fun _ => va)))
        ∧ (x.act ≠ 0 → va.toNat % 64 = 0 → memGate s id q (.cred o) rq [va.toNat] = false → Claims.issues s x 0 →
          ∀ s1, Claims.released s id q s1 → ∀ s2 bs, loadRange (escape s1 q.team) rq accLoad va.toNat 64 = (s2, .done, bs) →
            exec (.cred o) s = .next (credPost
              (finishLong s2 x [] [] { regResult x o.dst 0 1 true with ready := false }) s2.nextId q.team rq.slot rq.cluster bs)))
    -- `tmig` answers by its predicate, or the team begins to migrate
    ∧ (let x := Claims.at_ id q (.tmig o) o
       let p := match o.dst with | .sp n => n.toNat | _ => 7
       let res (ok ready : Bool) : Result :=
         { dst := if p = 7 then .none else .p p, pval := if ok then 0xFFFFFFFF else 0, ready := ready }
       let home := peekHome s (rqSquad s id q) (srcVal q o 0 64 o.a 0)
       Claims.ready s id q o { gs := srcGs o.a } →
        (x.act = 0 → exec (.tmig o) s = .next (Claims.shortState s x [] [] {}))
        ∧ (x.act ≠ 0 → isLeader s q = false → exec (.tmig o) s = .next (x.trap s tPriv q.em))
        ∧ (x.act ≠ 0 → isLeader s q = true → Claims.issues s x 0 →
          (home = none → exec (.tmig o) s = .next (finishLong s x [] [] (res false true)))
          ∧ ∀ h, home = some h →
            (8 ≤ h ∨ mayMigrate s q.team = false → exec (.tmig o) s = .next (finishLong s x [] [] (res false true)))
            ∧ (h < 8 → mayMigrate s q.team = true →
              (q.core / 256 = h → exec (.tmig o) s = .next (finishLong s x [] [] (res true true)))
              ∧ (q.core / 256 ≠ h → migrateGroup s q.team h = none →
                  exec (.tmig o) s = .next (finishLong s x [] [] (res false true)))
              ∧ (q.core / 256 ≠ h → migrateGroup s q.team h ≠ none →
                  exec (.tmig o) s = .next (modTeam (transit (finishLong s x [] [] (res true false)) q.team 5) q.team fun t =>
                    { t with state := .migrating, migTo := some (h, s.nextId) })))))

/-- 13 R296, R300, R301: the ends of a handler. A precise trap's `retry` goes back to the instruction, its `skip` past
it; a deferred trap's `retry` reissues the operation and its `skip` abandons it. Outside a handler, and for a `skip` of a
trap at a volley header, they trap `ILLOP`. The next waiting squad then enters. -/
def Obligations.HandlerEnds : Prop :=
  ∀ r ∈ [(Instr.tretRetry, false), (Instr.tretSkip, true)], ∀ (o : LaneOp) (s : State) (id : Nat) (q : Squad),
    let x := Claims.at_ id q (r.1 o) o
    let deferred := bitOf q.tcause.toNat 8
    let back (pos : Word) (keep : Bool) : State :=
      leaveHandler s id q.team fun q => if keep then keepWait (backTo pos q) else backTo pos q
    let ends (s' : State) : Host.Outcome State Fault Refusal := .next (admitNext (modSquad s' id endTrap) q.team)
    Claims.ready s id q o {} →
    (inHandler q = false ∨ (deferred = false ∧ r.2 = true ∧ atHeader q = true) →
      exec (r.1 o) s = .next (x.trap s tIllop q.em))
    ∧ (inHandler q = true → deferred = false → r.2 = false → exec (r.1 o) s = ends (back q.tpc true))
    ∧ (inHandler q = true → deferred = false → r.2 = true → atHeader q = false →
        exec (r.1 o) s = ends (back (q.tpc + 12) false))
    ∧ (inHandler q = true → deferred = true → r.2 = false → retryFull s q = false →
        exec (r.1 o) s = ends (reissue (back q.resume true) id q))
    ∧ (inHandler q = true → deferred = true → r.2 = true → exec (r.1 o) s = ends (abandon (back q.resume true) id q))

namespace Sys2Proof.Claims

open Sys2Proof Sys2Proof.Machine

/-! ### Words of the statements: moves of the device -/

/-- An event without effect leaves the state as it is. -/
def still (i : Instr) (s : State) : Prop := exec i s = .next s

end Sys2Proof.Claims

/-- 07 R174, 17 R426, 02 R52, 13 R294, R297: results land, naps and persistence fences end, squads enter handlers and
take deferred traps. What an event names may be absent or not due: it then has no effect (log
entry 6). -/
def Obligations.AgentEvents : Prop :=
  ∀ s : State,
    (∀ p, mget s.pops s.arg.id = some p →
      (p.ready = true → exec .resultLanding s = .next (landPop s s.arg.id))
      ∧ (p.ready = false → Claims.still .resultLanding s))
    ∧ (∀ id q, s.arg.agent = .squad id → mget s.squads id = some q →
      (∀ t, q.wait = .nap (some t) → t ≤ s.timeNs.toNat →
        exec .napTimeout s = .next (modSquad s id fun q => { q with wait := .none, granted := some 1 }))
      ∧ (∀ t, q.wait = .nap (some t) → s.timeNs.toNat < t → Claims.still .napTimeout s)
      ∧ (q.wait = .handler → (teamOf s q.team).state = .resident → (teamOf s q.team).stopping = false →
          exec .trapEntry s = .next (admitNext s q.team))
      ∧ (q.wait ≠ .handler → Claims.still .trapEntry s)
      ∧ ((teamOf s q.team).state = .resident → (teamOf s q.team).stopping = false →
          exec .deferredTrapDelivery s = .next (deliverTrap s id)))
    ∧ (∀ t sp, s.arg.agent = .spine t → mget s.spines t = some sp → ∀ e, sp.wait = .nap (some e) → e ≤ s.timeNs.toNat →
        exec .napTimeout s = .next (modSpine s t fun sp => { sp with wait := .none, granted := some 1 }))
    ∧ (s.arg.agent ∈ s.pfences → exec .pfenceComplete s = .next (persist { s with pfences := s.pfences.filter (· != s.arg.agent) }))
    ∧ (s.arg.agent ∉ s.pfences → Claims.still .pfenceComplete s)

/-- 06 R147, 09 R209 to R215: an issue slot chooses a squad, which goes on in its volley or begins the next; ejected
threads are recorded; a former's group falls due; a released group becomes a squad. -/
def Obligations.SquadEvents : Prop :=
  ∀ s : State,
    (let here (q : Squad) : Bool := q.core == s.arg.core && q.part == s.arg.part
     let winner := slotWinner s (getDie s (s.arg.core / 256)).agemax.toNat (s.squads.filter fun x => here x.2 && eligible s x.1 x.2)
     ((∃ x ∈ s.squads, here x.2 = true ∧ x.2.held = some s.arg.issueSlot) → Claims.still .issueSlotSelect s)
     ∧ ((∀ x ∈ s.squads, here x.2 = true → x.2.held ≠ some s.arg.issueSlot) →
        (winner = none → Claims.still .issueSlotSelect s)
        ∧ ∀ id q, winner = some (id, q) →
          (q.inVolley = true → exec .issueSlotSelect s = .next (modSquad s id fun q =>
            { q with held := some s.arg.issueSlot, wait := .none, wonAt := clk s (q.core / 256) }))
          ∧ (q.inVolley = false → exec .issueSlotSelect s = .next (enterVolley s id q s.arg.issueSlot))))
    ∧ (∀ q e, mget s.squads s.arg.id = some q → q.eject = some e →
      let id := s.arg.id
      let t := teamOf s q.team
      let v := mapRegs (e.frees.foldl mdel q.v) e.link
      let m := maskOf fun l => e.out.any fun p => p.1 == l
      ((t.hsq.isSome ∧ t.hsq ≠ some q.index) ∨ pendingLanes q ≠ [] ∨ waitingAccesses s id q ≠ [] →
          Claims.still .threadEjection s)
      ∧ (t.state = .resident → t.stopping = false → t.hsq = none ∨ t.hsq = some q.index → pendingLanes q = [] →
          waitingAccesses s id q = [] → (∀ r ∈ s.reqs, r.who ≠ .squad id 0) → growCheck s id q (linkRows e.link) = .ok →
          ∀ places s', spawnRoom s q e.frees e.link e.out.length = some places →
          let recs := ((originOrder q e.out).zip places).map fun p =>
            laneRecord q e.kind v p.1.1 p.2 (recordUnits v.length) p.1.2
          writeRecords (rqDevice s (q.core / 256) (slotOf s q.team)) (spawnVa s q.team) recs s = (s', none) →
          let s1 := drainAgent s' (.squad id)
          exec .threadEjection s = .next (settleExit
            (modSquad (modTeam s1 q.team fun t =>
                { t with groups := recs.foldl (fun gs r => arriveRecord q.core (clk s1 (q.core / 256)) r gs) t.groups }) id fun q =>
              { q with v := v, pm := q.pm &&& ~~~m, em := q.em &&& ~~~m, marks := q.marks &&& ~~~m, eject := none, wait := .none
                       pos := e.stay.getD (q.pos + 12), inVolley := false, held := none, granted := none, arrived := false
                       code := [] }) id)))
    ∧ exec .formerGroupTimeout s = .next (modTeam s s.arg.id fun t => { t with groups := t.groups.zipIdx.map fun p =>
        if p.2 = s.arg.len ∧ p.1.lastArrival + 256 ≤ (clk s (p.1.core / 256)) then { p.1 with due := true } else p.1 })
    ∧ (let team := s.arg.id
       let core := s.arg.core
       let t := teamOf s team
       let part := bestPart (freeSlots s core)
       t.state = .resident → t.stopping = false → t.hsq = none →
        -- the first group in the order of release that can be placed
        ∀ before g after, dueGroups s team core = before ++ g :: after → (∀ x ∈ before, formGroup s team core x = none) →
        ∀ slot index, lowestFree (usedSlots s core part) 8 = some slot → formedIndex s team = some index →
          let rq := rqDevice s (core / 256) (slotOf s team)
          -- a record that cannot be read is recorded and parks; its group waits (log entry 56)
          (∀ s1 recs va n a s2, readRecords rq (spawnVa s team) g.recs.zipIdx s = (s1, recs, some (va, n, a)) →
            readFails s rq va n a = some s2 → exec .squadForm s = .next s2)
          ∧ ∀ s1 recs, readRecords rq (spawnVa s team) g.recs.zipIdx s = (s1, recs, none) → ∀ r, recs.head? = some r →
          let ls := placeLanes recs
          let rows := ((formRegs ls).map fun x => shapeRows x.2.val).sum
          let s2 := modTeam s1 team fun t => { t with groups := t.groups.filter fun x => x != g }
          (keptSquad s team g.recs = none → rows ≤ freePool s core part →
            exec .squadForm s = .next { s2 with
              nextId := s1.nextId + 1
              squads := mset s2.squads s1.nextId
                { formSquad ls t.barPhase { freshSquad s team index r.tpc with originIdx := false } with
                  core := core, part := part, slot := slot, wonAt := clk s (core / 256) } })
          -- the threads of an origin squad take their squad's own state up again
          ∧ ∀ id q, keptSquad s team g.recs = some (id, q) →
            Nat.max rows (lrOf s team).rows ≤ freePool s core part →
            let x : Squad := { formSquad ls t.barPhase { freshSquad s team q.index r.tpc with
                    g := q.g, f := q.f, cstat := q.cstat, lfm := q.lfm, fpmode := q.fpmode, tiles := q.tiles
                    carries := q.carries, latch := q.latch, traps := q.traps, unseen := q.unseen } with
                  core := core, part := part, slot := slot, wonAt := clk s (core / 256) }
            let s3 := { s2 with away := mdel s2.away id, squads := mset s2.squads id x }
            -- its traps that are due stand in line again, in their order
            let due := arrivals (teamOf s3 team).trapNo q.traps
            exec .squadForm s = .next (modSquad (trapArrives s3 id x due.length) id fun q => { q with traps := due }))

namespace Sys2Proof.Claims

open Sys2Proof Sys2Proof.Machine

/-! ### Words of the statements: what the matrix engine computes -/

/-- The types of a step into binary32 accumulators and into integer ones (11 R254). -/
def engineFloats : List (LType × Fmt) :=
  [(.f16x2, fB16), (.bf16x2, fBf16), (.e4m3x4, fE4m3), (.e5m2x4, fE5m2), (.e3m2x4, fE3m2), (.e2m3x4, fE2m3), (.e2m1x8, fE2m1),
   (.mxe4m3, fE4m3), (.mxe5m2, fE5m2), (.mxe3m2, fE3m2), (.mxe2m3, fE2m3), (.mxe2m1, fE2m1)]

/-- 11 R255: the sum of a group, exact and rounded once; with scales, times their powers of two. -/
def groupSums (a b : List FVal) (sc : Option (Nat × Nat)) : Prop :=
  let p := sumOf a.length (fun k => a.getD k (.nan false)) (fun k => b.getD k (.nan false))
  let bad : Prop := p.nan ∨ ∃ x y, sc = some (x, y) ∧ (x = 255 ∨ y = 255)
  let k : Int := match sc with | some (x, y) => (x : Int) + y - 254 | none => 0
  let r := groupSum a b sc
  (bad → r = { bits := 0x7FC00000 })
  ∧ (¬ bad → ∀ s, p.inf s → r = infOf fB32 s)
  ∧ (¬ bad → (∀ s, ¬ p.inf s) → ∃ zero, (p.minus → zero = true) ∧ (¬ p.minus → zero = false)
      ∧ exactly fB32 .rne zero (p.value * 2 ^ k) r)

/-- 11 R255: the groups of an element are added one after another, each sum rounded; what they raise stays. -/
def accumulates (d : Word) : Prop :=
  accFloat d [] = { bits := d }
  ∧ ∀ gs g, let e := accFloat d gs
      let s := groupSum g.1 g.2.1 g.2.2
      let r := fB32.add .rne (fB32.dec e.bits.toNat) (fB32.dec s.bits)
      accFloat d (gs ++ [g])
        = { e with bits := BitVec.ofNat 32 r.bits, nv := e.nv || (fB32.dec r.bits).isNan, of := e.of || s.of || r.of }

/-- 11 R256: an integer accumulator: the exact sum of the step's products, wrapped; for `mxi8` scaled and rounded down. -/
def accumulatesInt (t : LType) (d : Word) (a b : List Nat) (sa sb : Nat) : Prop :=
  let v (x : Nat) : Int := if t = .n8x4 then x else if 128 ≤ x then (x : Int) - 256 else x
  let sum : Int := ∑ k ∈ Finset.range a.length, v (a.getD k 0) * v (b.getD k 0)
  let mx := t = .mxi8
  let nan := mx ∧ (sa = 255 ∨ sb = 255)
  let x : ℚ := sum * 2 ^ ((sa : Int) + sb - 254)
  let c : Int := if nan then 0 else if mx then ⌊x⌋ else sum
  let e := accInt t d a b sa sb
  e.bits = d + BitVec.ofInt 32 c ∧ (e.nv = true ↔ nan) ∧ (e.ix = true ↔ mx ∧ ¬ nan ∧ x ≠ (⌊x⌋ : ℚ)) ∧ e.of = false
  ∧ (e.ovf = true ↔ d.toInt + c < -2 ^ 31 ∨ 2 ^ 31 - 1 < d.toInt + c)

/-- 11 R254 to R256: element (i, j) of a step: row i of A, column j of B, group by group in ascending k; an affine offset is
flushed (11 R257, R258). -/
def stepElements (t : LType) (f : Fmt) (aff : Bool) (a b : Operand) (d : List Word) : Prop :=
  let g := groupK t
  ∀ i j, i < 32 → j < 32 →
    let ra := (a.elems.getD i []).map fun x => f.dec (x % 2 ^ f.width)
    let rb := (b.elems.getD j []).map fun x => f.dec (x % 2 ^ f.width)
    let e := accFloat (d.getD (32 * i + j) 0) ((List.range (stepK t / g)).map fun q =>
      ((ra.drop (g * q)).take g, (rb.drop (g * q)).take g,
        if t.isMx then some ((a.scales.getD i []).getD q 127, (b.scales.getD j []).getD q 127) else none))
    (matStep t aff a b d).getD (32 * i + j) { bits := 0 }
      = if aff then { e with bits := BitVec.ofNat 32 (fB32.flush true e.bits.toNat) } else e

/-- An operand has 32 rows (columns) of a step's length, and their scales. -/
def Operand.ofType (t : LType) (a : Operand) : Prop :=
  a.elems.length = 32 ∧ a.scales.length = 32 ∧ ∀ r ∈ a.elems, r.length = stepK t

/-- 11 R258: (g2, o2) o (g1, o1), each result rounded once, subnormal inputs and results zero; a gain product that is not zero
and whose value at 24 bits lies below 2^-126 underflows to zero. -/
def composes (p2 p1 : Aff) : Prop :=
  let v (x : Word) : FVal := fB32.dec (fB32.flush true x.toNat)
  let n := (v p2.g).neg? != (v p1.g).neg?
  let mul := fB32.mul .rne (v p2.g) (v p1.g)
  let fma := fB32.fma .rne (v p2.g) (v p1.o) (v p2.o)
  let p := |numOf (v p2.g) * numOf (v p1.g)|
  let small := (v p2.g).dyadic.n ≠ 0 ∧ (v p1.g).dyadic.n ≠ 0 ∧ ∃ k, nearest (fun k => (k : ℚ) * 2 ^ (-150 : Int)) .rne n id p k ∧ k < 2 ^ 24
  let y := compose p2 p1
  (small → y.g = (if n then 0x80000000 else 0) ∧ y.gu = true)
  ∧ (¬ small → y.g = BitVec.ofNat 32 (fB32.flush true mul.bits) ∧ y.gu = (p1.gu || p2.gu))
  ∧ y.o = BitVec.ofNat 32 (fB32.flush true fma.bits)
  ∧ y.of = (p1.of || p2.of || mul.of || fma.of)
  ∧ y.nv = (p1.nv || p2.nv || (fB32.dec mul.bits).isNan || (fB32.dec fma.bits).isNan)

/-- 11 R259: the scan of a channel by levels, with the carry last. -/
def scans (rows : List (Word × Word)) (mask : Word) (carry : Word × Word) : Prop :=
  ∃ lvl : Nat → Nat → Aff × Bool,
    (∀ i, i < 32 → lvl 0 i = ({ g := (rows.getD i (0, 0)).1, o := (rows.getD i (0, 0)).2 }, mask.getLsbD i))
    ∧ (∀ n i, n < 5 → i < 32 → lvl (n + 1) i =
        if 2 ^ n ≤ i ∧ (lvl n i).2 = false then (compose (lvl n i).1 (lvl n (i - 2 ^ n)).1, (lvl n (i - 2 ^ n)).2) else lvl n i)
    ∧ ∀ i, i < 32 → (scanChannel rows mask carry)[i]? =
        some (if (lvl 5 i).2 then (lvl 5 i).1 else compose (lvl 5 i).1 { g := carry.1, o := carry.2 })

end Sys2Proof.Claims

/-- 18 R434, R435, 11 R244, R250, R255 to R259, R263, R264, 06 R153: passes, steps, transfers, hangs and resets of the matrix
engine; what a step computes: the elements of operand A in captured registers and of operand B in local store (R437), the
products and their accumulation, the composition of affine maps and the scan of a channel. `SpineFloatResults` fixes the
sum, product and rounding that they share.
Only a hung engine is reset: log entry 66; where an error token leaves its cause: entry 67. -/
def Obligations.EngineEvents : Prop :=
  ∀ s : State,
    (let cl := s.arg.cluster
     let ops := engineOps s cl
     let free (a : Nat) : Prop := a < 4 ∧ ∀ m ∈ ops, m.array ≠ some a
     let cands := ops.filter fun m => runsSteps m.instr && m.array.isNone && mopReady s m
     ((¬ ∃ a, free a) → Claims.still .matrixPassGrant s)
     ∧ (∀ a, free a → (∀ b < a, ¬ free b) →
        (cands = [] → Claims.still .matrixPassGrant s)
        ∧ ∀ m, bestMop s cands = some m → exec .matrixPassGrant s = .next (observe
            (modMop s m.id fun m => { m with granted := Nat.min 16 (stepsLeft m), array := some a }) m.squad
            fun e => m.held.contains e.op)))
    -- the operation that an event names
    ∧ (∀ m, (s.mops.find? fun m => m.id == s.arg.id && decide (0 < m.granted) && m.parked.isNone) = some m →
      ∀ q, squadAny s m.squad = some q →
        (isLost q m.instr = true → exec .matrixStepComplete s = .next (mopError s m 5 0))
        ∧ (isLost q m.instr = false →
          (∀ o, m.instr = .mma o → exec .matrixStepComplete s = .next (mmaStep s m o q.team))
          ∧ (∀ o l, m.instr = .mml o → m.loop = some l → exec .matrixStepComplete s = .next (mmlStep s m o l))
          ∧ (∀ o, m.instr = .scan o → exec .matrixStepComplete s = .next (scanStep s m o))))
    ∧ (∀ m, (s.mops.find? fun m => m.id == s.arg.id && !runsSteps m.instr && mopReady s m) = some m →
      let s1 := observe s m.squad fun e => m.held.contains e.op
      ∀ q, squadAny s1 m.squad = some q →
        (endsLost q m.instr = true → exec .transferPortComplete s = .next (mopError s1 m 5 0))
        ∧ (endsLost q m.instr = false → exec .transferPortComplete s = .next (transfer s1 m q)))
    ∧ (let cl := s.arg.cluster
       let ms := (getDie s (dieOfCluster cl)).mewdt.toNat
       exec .engineHang s = .next
         (if ms ≠ 0 ∧ engineOps s cl ≠ [] ∧ (getCluster s cl).lastToken + ms * 1000000 ≤ s.timeNs.toNat
          then modCluster s cl fun c => { c with hung := true } else s))
    ∧ (let cl := s.arg.cluster
       ((getCluster s cl).hung = false → Claims.still .engineReset s)
       ∧ ((getCluster s cl).hung = true → exec .engineReset s = .next
          (modCluster ((engineOps s cl).foldl (fun s m => mopError s m 5 0)
            ((engineSquads s cl).foldl (fun s x => modSquad s x.1 (loseTiles (lrOf s x.2.team))) s)) cl
            fun c => { c with hung := false })))
    -- what a step computes
    ∧ (∀ (a b : List FVal) sc, a.length = b.length → Claims.groupSums a b sc)
    ∧ (∀ d, Claims.accumulates d)
    ∧ (∀ t ∈ [LType.i8x4, .n8x4, .mxi8], ∀ (aff : Bool) (a b : Operand) (d : List Word),
        Claims.Operand.ofType t a → Claims.Operand.ofType t b → (∀ r ∈ a.elems, ∀ x ∈ r, x < 256) → (∀ r ∈ b.elems, ∀ x ∈ r, x < 256) →
        ∀ i j, i < 32 → j < 32 →
          let d0 := d.getD (32 * i + j) 0
          let ra := a.elems.getD i []
          let rb := b.elems.getD j []
          let sa := (a.scales.getD i []).getD 0 0
          let sb := (b.scales.getD j []).getD 0 0
          (matStep t aff a b d).getD (32 * i + j) { bits := 0 } = accInt t d0 ra rb sa sb
          ∧ Claims.accumulatesInt t d0 ra rb sa sb)
    ∧ (∀ x ∈ Claims.engineFloats, ∀ (aff : Bool) (a b : Operand) (d : List Word),
        Claims.Operand.ofType x.1 a → Claims.Operand.ofType x.1 b → Claims.stepElements x.1 x.2 aff a b d)
    ∧ (∀ t, t = LType.mxi8 ∨ t = .i8x4 ∨ t = .n8x4 ∨ (∃ x ∈ Claims.engineFloats, x.1 = t) →
        ∀ (rows : List Lanes) (scales : Lanes) (bs : List Byte) i k, i < 32 → k < stepK t → bBytes t + 32 * scaleBlocks t ≤ bs.length →
          let w := tenW t
          ((operandA t rows scales).elems.getD i []).getD k 0
            = (laneAt (rows.getD (k * w / 32) []) i).toNat / 2 ^ (k * w % 32) % 2 ^ w
          ∧ ((operandB t bs).elems.getD i []).getD k 0
            = fieldOf bs ((32 * k + i) * w / 8) ((w + 7) / 8) / 2 ^ ((32 * k + i) * w % 8) % 2 ^ w
          ∧ ∀ q, q < scaleBlocks t → ((operandB t bs).scales.getD i []).getD q 0 = (bs.getD (bBytes t + 32 * q + i) 0).toNat
              ∧ ((operandA t rows scales).scales.getD i []).getD q 0 = (laneAt scales i).toNat / 2 ^ (8 * q) % 256)
    -- into its tile
    ∧ (∀ (tile : Tile) k es, let t := tile.accumulate k es
        t.data = es.map (·.bits) ∧ t.valid = true ∧ t.dirty = true ∧ t.kind = k
        ∧ t.nv = (tile.nv || es.any (·.nv)) ∧ t.of = (tile.of || es.any (·.of))
        ∧ t.ovf = (tile.ovf || es.any (·.ovf)) ∧ t.ix = (tile.ix || es.any (·.ix)))
    -- affine maps
    ∧ (∀ p2 p1 : Aff, Claims.composes p2 p1)
    ∧ (∀ (rows : List (Word × Word)) mask carry, rows.length = 32 → Claims.scans rows mask carry)
    ∧ ∀ (g o : List Word) mask (c : List (Word × Word)) i j, i < 32 → j < 32 →
        let ch := scanPair g o mask c
        ch.getD j [] = scanChannel ((List.range 32).map fun r => (g.getD (32 * r + j) 0, o.getD (32 * r + j) 0)) mask
          (c.getD j (0x3F800000, 0))
        ∧ (fromChannels (·.g) ch).getD (32 * i + j) 0 = (((ch.getD j [])[i]?.map (·.g)).getD 0)
        ∧ (fromChannels (·.o) ch).getD (32 * i + j) 0 = (((ch.getD j [])[i]?.map (·.o)).getD 0)

/-- 18 R452 to R456, 02 R46: copies finish their units; contributions join and close their groups. -/
def Obligations.CopyAndReductionEvents : Prop :=
  ∀ s : State,
    (∀ c, (s.copies.find? fun c => c.id == s.arg.id) = some c →
      exec .copyComplete s = .next (copyRun c.id (if s.arg.len = 0 then c.len else s.arg.len) (c.len + 3) s))
    ∧ (∀ c, (s.copies.find? fun c => c.id == s.arg.id && copyRuns s c && c.ended.isNone && decide (c.done < c.len)) = some c →
      ∀ t, c.ent.tid = some t →
        (t.ecb = true → exec .ecbDecode s = .next (copyUnit s c)) ∧ (t.ecb = false → Claims.still .ecbDecode s))
    -- a contribution whose descriptor and tensors are sound joins its group at the record's home
    ∧ (∀ c, (s.creds.find? fun c => c.id == s.arg.id && !credParked s c.id
          && !(s.rgroups.any fun g => g.arrived.any fun x => x.cred == c.id)) = some c →
      (credFields c.desc = false → exec .credArrival s = .next (credDone s c.id 2 0 0))
      ∧ (credFields c.desc = true →
        let r := rqCred s c.cluster c.slot
        let va := cGroup c.desc
        ∀ s1 s2 s3 ba bb a b h record x1 x2,
          entryRead s r (fieldOf c.desc 8 2) = (s1, .bytes ba, x1) →
          entryRead s1 r (fieldOf c.desc 10 2) = (s2, .bytes bb, x2) →
          credIds c.desc (.bytes ba) (.bytes bb) = some (a, b) →
          peekHome s2 r va = some h → h < 8 ∨ h = 15 → loadRange s2 r accLoad va 64 = (s3, .done, record) →
          exec .credArrival s = .next (closeIfFull (joinGroup s3 c h record a b ba bb) c.slot (BitVec.ofNat 64 va))))
    ∧ (∀ g, openGroup s s.arg.slot.toNat s.arg.va = some g →
      exec .credDeadline s = .next (if g.closing = true ∨ cDeadline g.desc ≤ s.timeNs.toNat then groupClose s g else s))
    ∧ (∀ c, (s.creds.find? fun c => c.id == s.arg.id) = some c →
      exec .credLostTimeout s = .next (if cDeadline c.desc + 1000000 ≤ s.timeNs.toNat then credDone s c.id 4 0 0 else s))

/-- 05 R107, R111: a reserved entry commits in its turn, and a waiting push of the device is made once there is room or
discarded when its queue is unusable; the pushes to one queue are made in order, and those of the SVP's threads wait
through a freeze (05 R122). -/
def Obligations.QueueEvents : Prop :=
  ∀ s : State,
    (∀ r, (s.resvs.find? fun r => r.id == s.arg.id) = some r →
      let asid := ctxAsid s r.slot
      let va := qcbVa s r.slot r.q
      ∀ s1 s2 t q, qOpen s 0 r.slot asid va accStore = (s1, .ok t) → qRead s1 t asid va = (s2, q) →
        (qTail q ≠ r.at_.toNat → Claims.still .queueCommit s)
        ∧ (qTail q = r.at_.toNat →
          let q' := qSet q 10 2 (qTail q + 1)
          let s3 := qWrite s2 t asid va q'
          let s4 := { s3 with resvs := s3.resvs.filter fun x => x.id != r.id };
          (r.q ≠ 0 → gridOfPush s4 r.id = none →
            exec .queueCommit s = .next (landPop (qCommitted s4 r.slot r.q q' r.who) r.id))
          -- the commit of a `launch`: the team has one child more
          ∧ ∀ team, r.q = 0 → r.who = .spine team →
            let s5 := modTeam { s4 with launchers := mset s4.launchers (65536 * r.slot + r.at_.toNat) (.team team) } team fun t =>
              { t with children := t.children + 1 };
            gridOfPush s5 r.id = none →
            exec .queueCommit s = .next (landPop (qCommitted s5 r.slot r.q q' r.who) r.id)))
    ∧ (∀ p, (s.dpush.find? fun p => p.id == s.arg.id) = some p →
      (firstPush s p = false → (s.dpush.filter fun p => p.id == s.arg.id) = [p] → Claims.still .deviceQueuePush s)
      ∧ (p.bySvp = true → s.svpFrozen = true → (s.dpush.filter fun p => p.id == s.arg.id) = [p] →
          Claims.still .deviceQueuePush s)
      ∧ (firstPush s p = true → p.bySvp = false ∨ s.svpFrozen = false →
        (devicePushTry s p.slot p.q p.entry p.launch.isSome = none → Claims.still .deviceQueuePush s)
        ∧ ∀ s1 made, devicePushTry s p.slot p.q p.entry p.launch.isSome = some (s1, made) →
          (p.launch = none → exec .deviceQueuePush s = .next (pushDone s1 p made s.nextId))
          ∧ ∀ c, p.launch = some c → exec .deviceQueuePush s = .next (launchPushed (pushDone s1 p made s.nextId) p c made s.nextId)))

namespace Sys2Proof.Claims

open Sys2Proof Sys2Proof.Machine

/-- An access over PCIe or KL goes through a window to an address of a context (04 R81, R86, R87). -/
def routed (s : State) (kl : Bool) (slot : Nat) (asid : Half) (va : Nat) : Prop :=
  (kl = false → s.arg.off < bar2Size s s.arg.fn)
  ∧ windowOf (if kl then s.io.klWin else s.io.pcieWin) (if kl then none else some s.arg.fn) s.arg.off = some (asid, va)
  ∧ slotOfAsid s asid = some slot

/-- The device answers. -/
def said (s : State) (o : Out) : State := { s with outs := o :: s.outs }

/-- The next write of the host over KL has its place (04 R96). -/
def numbered (s : State) : State := { s with io := { s.io with klSeq := s.io.klSeq + 1 } }

/-- A grain of normal memory may be obtained at its home: the page is mapped, no engine owns a grain of it, the host does not
block it, and for an alias page its codec unit has room. -/
def fillable (s : State) (die slot : Nat) (own : Bool) (asid : Half) (va : Nat) (s1 : State) (t : TInfo) : Prop :=
  let grain := leafGrain t.leaf
  request s die slot asid va (if own then accStore else accLoad) true = (s1, .ok t) ∧ t.normal = true
  ∧ (own = true → leafMxa t.leaf = false)
  ∧ engineOwns s none asid (va / grain * grain) grain grain = false ∧ hostBlocks s own asid (va / grain * grain) grain = false
  ∧ aliasWaits s t va = false

/-- A command at a home executes: it is not refused. -/
def commands (s : State) : Prop := (getDie s s.arg.die.toNat).hcmdBusy = none

end Sys2Proof.Claims

/-- 02 R32, R34, R36, R39, R40: entries drain, copies are filled, owned, written back and recalled, and announcements are
posted, accepted and applied in their order. -/
def Obligations.CoherenceEvents : Prop :=
  ∀ s : State,
    let a := s.arg
    let va := a.va.toNat
    (exec .writeCombiningDrainTimeout s = .next (wcDrain s fun e =>
      e.cluster == a.cluster && e.asid == a.asid && e.va.toNat == va / 512 * 512
      && decide (e.lastStore + 256 ≤ (clk s (dieOfCluster e.cluster)))))
    ∧ (∀ die slot s1 t, holderDie a.holder = some die → slotOfAsid s a.asid = some slot → mayHold a.holder (t.home va) = true →
      let grain := leafGrain t.leaf
      let gva := va / grain * grain
      let me := some a.holder
      -- a holder above the home: a fill leaves a shared copy of the home's bytes with every sector valid, a grant an owned one
      (a.holder ≠ l2Of (t.home va) →
        (Claims.fillable s die slot false a.asid va s1 t →
          ((findGrain s1 a.holder a.asid va).isSome → exec .readMissFill s = .next s1)
          ∧ (findGrain s1 a.holder a.asid va = none →
            let s2 := downgradeOthers (snoop s1 me (t.home va)) me a.asid gva grain
            let r := homeGrain s2 a.holder t a.asid va
            r.2 = { holder := a.holder, asid := a.asid, va := BitVec.ofNat 64 gva, size := grain, st := .shared, dirty := 0
                    data := homeBytes s2 { t with pa := grainPa t va gva } a.asid gva grain
                    pa := some (grainPa t va gva), home := TInfo.home { t with pa := grainPa t va gva } gva, rd := leafRD t.leaf }
            ∧ exec .readMissFill s = .next (putCopy r.1 r.2)))
        ∧ (Claims.fillable s die slot true a.asid va s1 t →
          let r := takeOwnership s1 a.holder t a.asid va
          exec .ownershipGrant s = .next (putCopy r.1 r.2)))
      -- the home's own L2 snoops for another die
      ∧ (a.holder = l2Of (t.home va) →
        (Claims.fillable s die slot false a.asid va s1 t → exec .readMissFill s = .next
          (homeGrain (downgradeOthers (snoop s1 none (t.home va)) none a.asid gva grain) a.holder t a.asid va).1)
        ∧ (Claims.fillable s die slot true a.asid va s1 t → exec .ownershipGrant s = .next
          (homeGrain (recallOthers (snoop s1 none (t.home va)) none a.asid gva grain) a.holder t a.asid va).1)))
    -- only a plain modified entry is written back: a counted grain leaves as 08 R199 says
    ∧ (∀ g, findGrain s a.holder a.asid va = some g →
      (g.st = .modified → g.cnt = .plain → g.holder ≠ .host →
        exec .writeBack s = .next (seatGrain (flushGrain s g) { g with st := .exclusive, dirty := 0 }))
      ∧ (g.st ≠ .modified ∨ g.cnt ≠ .plain → Claims.still .writeBack s))
    ∧ (∀ d, holderDie a.holder = some d →
      (findGrain s a.holder a.asid va = none → exec .snoopRequest s = .next { s with
        announces := s.announces ++ [{ die := d, requester := a.holder, own := a.own, asid := a.asid, va := a.va }] })
      ∧ (∀ g, findGrain s a.holder a.asid va = some g → g.cnt ≠ .drained → g.owned = true ∨ a.own = false →
          Claims.still .snoopRequest s)
      ∧ (let used := s.announces.countP fun x => x.die == d && x.acceptedAt == some (clk s d)
         (16 ≤ used → Claims.still .announcementAccept s)
         ∧ (used < 16 → exec .announcementAccept s = .next { s with
            announces := acceptFirst (announceIs a) (clk s d) s.announces })))
    -- of the announcements accepted 24 clocks ago the first in the die's order is applied
    ∧ (let due := s.announces.filter fun x => x.die == a.die.toNat && x.acceptedAt.any fun t => decide (t + 24 ≤ (clk s a.die.toNat))
       (due = [] → Claims.still .announcementDelivery s)
       ∧ ∀ x ∈ due, (∀ y ∈ due, y = x ∨ announceKey x < announceKey y) → exec .announcementDelivery s = .next
          (obtain { s with announces := s.announces.erase x } x.requester x.own x.asid x.va.toNat))
    ∧ (exec .directoryRecall s = .next (recallAt s (some a.holder) a.asid va))
    ∧ (exec .directoryEviction s = .next (recallAt s none a.asid va))
    -- an entry of a remote-data cache leaves after the die's copies of its lines, in the order of snoops
    ∧ (let rdc := rdcOf a.die.toNat
       let entry := (a.asid, va / 512)
       exec .rdcEviction s = .next (recallPass
        (recallPass (inOrder s ((holderDie rdc).getD 0) 0 196 16) false fun g => rdcBehind (some g.holder) == some rdc && inEntry g.holder entry g
          && decide (g.home / 2 != (holderDie rdc).getD 8))
        false (inEntry rdc entry)))

/-- 02 R43 to R49: codec units. Compressed and alias pages read as their values; a checksum error poisons the page. -/
def Obligations.CodecEvents : Prop :=
  ∀ s : State,
    let a := s.arg
    let die := a.die.toNat
    let d := getDie s die
    let queue := d.codecQ.getD a.unit.toNat []
    -- a unit serves what stands in its queue of 64
    (a.id ∉ queue → ∀ i ∈ [Instr.pageCompression, .compressedPageRead, .mxAliasRead, .mxAliasWrite], Claims.still i s)
    ∧ (exec .codecRequestAccept s = .next
      (if 64 ≤ queue.length then s else setDie s die { d with codecQ := setAt d.codecQ a.unit.toNat (queue ++ [a.id]) }))
    ∧ (let page := a.va.toNat / 65536 * 65536
       let s0 := frameHome s page
       let bs := memReadN s0.mem page 65536
       let small : Bool := decide (packedSize bs ≤ 49152)
       let s1 := { s0 with mem := memWriteN s0.mem (a.val.toNat / 65536 * 65536) bs }
       let s2 := codecServed (if a.ok then s1 else codecBump s1 die a.unit (if small then 0 else 1) 1)
       a.id ∈ queue → exec .pageCompression s = .next (Claims.said s2 (.pageStored die a.unit (if a.ok then 0 else if small then 1 else 2))))
    ∧ (∀ slot lg at_ w, slotOfAsid s a.asid = some slot → ptWalk s slot a.va.toNat = .leaf lg at_ w →
      leafV w = true → leafCmp w = 1 → a.id ∈ queue →
        (a.ok = true → exec .compressedPageRead s = .next (codecServed s))
        ∧ (a.ok = false → exec .compressedPageRead s = .next
            (poisonAt (codecBump (codecServed s) die a.unit 2 1) a.asid a.va.toNat)))
    ∧ (aliasPage s a.asid a.va.toNat = true → a.id ∈ queue →
      (exec .mxAliasRead s = .next (obtain (codecServed s) a.holder false a.asid a.va.toNat))
      ∧ ∀ slot, slotOfAsid s a.asid = some slot → ∀ s1,
        storeRange (codecServed s) { die := die, cluster := 0, slot := slot, asid := a.asid, agent := .none, l1 := false } a.va.toNat a.data
          = (s1, .done) →
        exec .mxAliasWrite s = .next s1)
    ∧ (aliasPage s a.asid a.va.toNat = false → Claims.still .mxAliasRead s ∧ Claims.still .mxAliasWrite s)

/-- 03 R56, R60, R66, R67, R74, R76, R77: walks, requests that are held or answered STALE, fault records and verdicts. -/
def Obligations.TranslationEvents : Prop :=
  ∀ s : State,
    let a := s.arg
    let die := a.die.toNat
    let va := a.va.toNat
    (∀ slot, slotOfAsid s a.asid = some slot →
      (2 ^ 56 ≤ va → Claims.still .homeMapWalk s ∧ Claims.still .pageTableWalk s)
      ∧ (va < 2 ^ 56 →
        exec .homeMapWalk s = .next (homeLookup s die slot a.asid va).1
        ∧ ((∃ e ∈ (getDie s die).tlb, (e.asid = a.asid ∨ leafG e.leaf.toNat = true) ∧ e.va.toNat / 2 ^ e.lg = va / 2 ^ e.lg) →
          Claims.still .pageTableWalk s)
        ∧ ∀ s1 lg at_ w, ptWalkAt s (some die) slot a.asid va = (s1, .leaf lg at_ w) →
          (∀ e ∈ (getDie s die).tlb, (e.asid = a.asid ∨ leafG e.leaf.toNat = true) → e.va.toNat / 2 ^ e.lg ≠ va / 2 ^ e.lg) →
          exec .pageTableWalk s = .next
            (if leafBad s1 die lg w = false ∧ leafV w = true then tlbPut s1 die a.asid va lg at_ w else s1)))
    ∧ (∀ r, (s.reqs.find? fun r => r.id == a.id) = some r →
      (r.st = .sent ∨ r.st = .held → exec .homeRequest s = .next (serveReq s r))
      -- one that waits for its link is sent when there is room
      ∧ (r.st = .queued →
        (linkRoom s r = false → Claims.still .homeRequest s)
        ∧ (linkRoom s r = true →
          let s1 := modReq s r.id fun r => { r with st := .remote, sentAt := s.timeNs.toNat }
          exec .homeRequest s = .next { s1 with outs := sendOuts s r r.id r.port ++ s1.outs }))
      ∧ (∀ n, r.st = .stale n → exec .staleResponse s = .next
        (if n < 8 then modReq (dropHme s r.die r.asid r.va.toNat) r.id fun r => { r with st := .held, stales := n }
         else modReq s r.id fun r => { r with st := .faulted 0x0A, stales := 0
                                              hme := match hmWalk s r.slot r.va.toNat with | .hme w => w | _ => 0 }))
      ∧ ∀ kind, r.st = .faulted kind →
        let d := getDie s r.die
        let token : Word := BitVec.ofNat 32 s.nextId
        -- a replayable fault attaches to a matching entry of the pending-fault table
        (replayable kind = true → ∀ p, d.pft.find? (sameFault r kind) = some p →
          exec .faultRecordPost s = .next (modReq (setDie s r.die { d with
            pft := d.pft.map fun x => if x.token = p.token then { x with reqs := x.reqs ++ [r.id] } else x }) r.id
            fun r => { r with st := .parked p.token }))
        -- else its record is posted and it parks under a new token, with every such fault that waits, when the table and the
        -- queue have room
        ∧ (replayable kind = true → d.pft.find? (sameFault r kind) = none →
          (256 ≤ d.pft.length → Claims.still .faultRecordPost s)
          ∧ (d.pft.length < 256 →
              let p : PFault := ⟨token, r.asid, BitVec.ofNat 64 (r.va.toNat / 65536), kind, r.writes, r.slot, []⟩
              let ids := (s.reqs.filter fun x =>
                x.id == r.id || (x.st == .faulted kind && x.die == r.die && sameFault x kind p)).map (·.id)
              let record := faultRecord r kind token ids.length
              (devicePushTry s.fresh r.slot (ccb s r.slot 0x28 4) record false = none → Claims.still .faultRecordPost s)
              ∧ ∀ s1 made, devicePushTry s.fresh r.slot (ccb s r.slot 0x28 4) record false = some (s1, made) →
                exec .faultRecordPost s = .next (ids.foldl (fun s k => modReq s k fun r => { r with st := .parked token })
                  (setDie s1 r.die { getDie s1 r.die with pft := (getDie s1 r.die).pft ++ [{ p with reqs := ids }] }))))
        ∧ (replayable kind = false → ∀ s1 made,
            devicePushTry s.fresh r.slot (ccb s r.slot 0x28 4) (faultRecord r kind token 1) false = some (s1, made) →
            -- with its record the access fails (05 R111); a write of the device, or of a team that has ended, is over
            ((r.who = .device ∨ ∃ k, r.who = .orphan k) → exec .faultRecordPost s = .next (dropReq s1 r.id))
            ∧ (r.who ≠ .device → (∀ k, r.who ≠ .orphan k) → exec .faultRecordPost s = .next (reqFails s1 r kind))))
    -- a verdict: every request of the token is made again, or fails; an unknown token sets `ERR`; the SVP gives none while it
    -- is frozen (05 R122)
    ∧ (let found := (getDie s die).pft.find? fun p => p.token == a.token
       let ends (f : State → Req → State) (p : PFault) : State :=
         let s1 := (s.reqs.filter fun r => p.reqs.contains r.id).foldl f s
         setDie s1 die { getDie s1 die with pft := (getDie s1 die).pft.filter fun x => x.token != a.token }
       (s.svpFrozen = true → Claims.still .freplayReplay s ∧ Claims.still .freplayUnresolvable s)
       ∧ (s.svpFrozen = false → found = none → ∀ i ∈ [Instr.freplayReplay, .freplayUnresolvable],
          exec i s = .next (setDie s die { getDie s die with hcmdErr := true }))
       ∧ ∀ p, s.svpFrozen = false → found = some p →
          exec .freplayReplay s = .next (ends reqReplay p)
          ∧ exec .freplayUnresolvable s = .next (ends (fun s r => reqFails s r (reqKindNo s r)) p))

/-- 03 R67, R69 to R71, 02 R38: the home commands. One that finds another executing, or its table of held pages full, sets
`ERR`; a page size of 3 is refused but for `MOVEHOLD`, which takes a granule. The SVP gives none while it is frozen (05
R122). -/
def Obligations.HomeCommands : Prop :=
  ∀ s : State,
    let a := s.arg
    let die := a.die.toNat
    let va := (getDie s die).hcmdva.toNat
    let lg := pageLg a.size
    let refuse : Host.Outcome State Fault Refusal := .next (setDie s die { getDie s die with hcmdErr := true })
    let begin_ (s : State) (op lg : Nat) : State :=
      setDie s die { getDie s die with hcmdBusy := some (op, lg, a.asid, (getDie s die).hcmdva), hcmdDone := false }
    -- `HOLD` and `MOVEHOLD` recall the copies and hold the page or granule
    let holds (op lg : Nat) : Host.Outcome State Fault Refusal :=
      let s1 := begin_ (recallRange s a.asid va lg) op lg
      .next (setDie s1 die { getDie s1 die with
        held := (getDie s1 die).held ++ [⟨a.asid, BitVec.ofNat 64 (va / 2 ^ lg * 2 ^ lg), lg, s1.nextId⟩] }).fresh
    -- `RELEASE` and `MOVEDONE` drop translations and end the hold: held requests go on
    let frees (op lg : Nat) : State :=
      let s1 := dropTlb (begin_ s op lg) die a.asid va lg
      setDie s1 die { getDie s1 die with held := (getDie s1 die).held.filter fun h => !heldIs a.asid va lg h }
    let granule := va / 2 ^ 21
    let here (x : Half) (v : Dword) : Bool := x == a.asid && v.toNat / 2 ^ 21 == granule
    -- a held request of the granule is answered STALE
    let stale (r : Req) : Req :=
      if r.st = .held ∧ here r.asid r.va = true then { r with st := .stale (r.stales + 1) } else r
    (s.svpFrozen = true → ∀ i ∈ [Instr.hold, .release, .flushasid, .movehold, .movedone, .hminv], Claims.still i s)
    ∧ (s.svpFrozen = false → ¬ Claims.commands s →
        ∀ i ∈ [Instr.hold, .release, .flushasid, .movehold, .movedone, .hminv], exec i s = refuse)
    ∧ (s.svpFrozen = false → a.size = 3 → ∀ i ∈ [Instr.hold, .release, .flushasid, .movedone, .hminv], exec i s = refuse)
    ∧ (s.svpFrozen = false → Claims.commands s → 16 ≤ (getDie s die).held.length →
        (a.size ≠ 3 → exec .hold s = refuse) ∧ exec .movehold s = refuse)
    ∧ (s.svpFrozen = false → Claims.commands s → (getDie s die).held.length < 16 →
        (a.size ≠ 3 → exec .hold s = holds 1 lg) ∧ exec .movehold s = holds 4 21)
    ∧ (s.svpFrozen = false → Claims.commands s → a.size ≠ 3 →
        exec .release s = .next (frees 2 lg)
        -- an access that waits with its instruction counts the answer too, and its die drops the HME
        ∧ (let s0 := frees 5 21
           let s1 := (distinct ((s0.heldAccs.filter fun h => here h.asid h.va).map (·.die))).foldl (fun s d => dropHme s d a.asid va) s0
           exec .movedone s = .next { s1 with
             reqs := s1.reqs.map stale
             heldAccs := s1.heldAccs.map fun h => if here h.asid h.va then { h with stales := h.stales + 1 } else h })
        ∧ exec .flushasid s = .next (flushAsid (begin_ s 3 lg) a.asid)
        ∧ exec .hminv s = .next ((List.range 8).foldl
            (fun s d => dropWalks (dropHme s d a.asid va) d true a.asid (granule * 2 ^ 21) (2 ^ 21)) (begin_ s 6 21)))
    -- a command is done: a hold once no copy of its page is left, a flush once none of its ASID is
    ∧ (∀ op lg asid va, (getDie s die).hcmdBusy = some (op, lg, asid, va) →
      let base := va.toNat / 2 ^ lg * 2 ^ lg
      let done (s : State) : State := setDie s die { getDie s die with hcmdBusy := none, hcmdDone := true }
      let s1 := recallRange s asid va.toNat lg
      (op = 1 ∨ op = 4 → (∀ g ∈ s1.grains, g.overlaps asid base (2 ^ lg) = false) →
        engineOwns s1 none asid base (2 ^ lg) 512 = false → exec .homeCommandDone s = .next (done s1))
      ∧ (op = 3 → (∀ g ∈ s.grains, g.asid ≠ asid) → exec .homeCommandDone s = .next (done s))
      ∧ (op ∉ [1, 3, 4] → exec .homeCommandDone s = .next (done s)))

/-- 04 R86 to R92, R96: the host's reads, writes and atomics over PCIe and Knamar Link, its recalls and its snoops.
A request that meets a held page has no effect and is presented again (log entry 49). -/
def Obligations.HostEvents : Prop :=
  ∀ s : State,
    let a := s.arg
    (∀ slot asid va, Claims.routed s false slot asid va →
      (∀ s1 bs, loadRange s (rqOutside slot asid) accLoad va a.len = (s1, .done, bs) →
        exec .pcieHostRead s = .next (Claims.said s1 (.host a.tag true bs)))
      ∧ (∀ s1, storeRange s (rqOutside slot asid) va a.data = (s1, .done) → exec .pcieHostWrite s = .next s1)
      -- one that fails has been counted at its home all the same (03 R78)
      ∧ (∀ s1 acc bs, loadRange s (rqOutside slot asid) accLoad va a.len = (s1, acc, bs) → acc ≠ .done → acc ≠ .held →
        exec .pcieHostRead s = .next (Claims.said s1 (.abort a.tag)))
      ∧ (∀ s1 acc, storeRange s (rqOutside slot asid) va a.data = (s1, acc) → acc ≠ .done → acc ≠ .held →
        exec .pcieHostWrite s = .next (let s2 := countTried s (rqOutside slot asid) va a.data.length
          { s2 with io := { s2.io with aer := s2.io.aer + 1 } })))
    ∧ (windowOf s.io.pcieWin (some a.fn) a.off = none ∨ bar2Size s a.fn ≤ a.off →
        exec .pcieHostRead s = .next (Claims.said s (.abort a.tag))
        ∧ exec .pcieHostWrite s = .next { s with io := { s.io with aer := s.io.aer + 1 } })
    ∧ (exec .pcieAtomicop s = .next (Claims.said s (.unsupported a.tag)))
    ∧ (∀ slot asid va, Claims.routed s true slot asid va →
      let r := rqOutside slot asid
      (∀ s1 t, requestFor s r va (if a.own then accStore else accLoad) true = (s1, .ok t) →
        let grain := leafGrain t.leaf
        let gva := va / grain * grain
        let pa := grainPa t va gva
        engineOwns s none asid gva grain grain = false → aliasWaits s t va = false →
        (t.normal = false → exec .klHostRead s = .next (Claims.said s1 (.host a.tag true (homeBytes s1 t asid va a.len))))
        ∧ (t.normal = true →
          -- the grain is granted with its page's rights: exclusive, with the other copies recalled, or shared; an alias page
          -- only shared
          let excl := a.own && !leafMxa t.leaf
          let s2 := snoop s1 none (t.home va)
          let s3 := if excl then recallOthers s2 (some .host) asid gva grain else downgradeOthers s2 (some .host) asid gva grain
          let home : TInfo := { t with pa := pa }
          let data := homeBytes s3 home asid gva grain
          exec .klHostRead s = .next (Claims.said (putGrain (homeGrain s3 .host t asid va).1
            { holder := .host, asid := asid, va := BitVec.ofNat 64 gva, size := grain, home := home.home gva
              st := if excl then .exclusive else .shared, data := data, dirty := 0, pa := some pa, rd := leafRD t.leaf })
            (.klGrant a.tag asid (BitVec.ofNat 64 gva) grain (leafMT t.leaf) (leafRD t.leaf) (leafWR t.leaf) (leafAT t.leaf)
              excl data))))
      ∧ (∀ s1, storeRange s r va a.data = (s1, .done) →
          exec .klHostWrite s = .next (Claims.numbered (Claims.said s1 (.host a.tag true []))))
      ∧ (a.hostOp ≠ .other → a.len ∈ [4, 8] ∨ (a.len = 16 ∧ a.hostOp = .cas) → va % a.len = 0 → ∀ s1 old,
          atomPiece s r true va a.len (hostAtom a.hostOp a.len a.operand.toNat a.expected.toNat) = (s1, .done, old) →
          exec .klHostAtomic s = .next (Claims.said s1 (.host a.tag true old)))
      ∧ (a.hostOp = .other ∨ a.len ∉ [4, 8, 16] ∨ (a.len = 16 ∧ a.hostOp ≠ .cas) ∨ va % a.len ≠ 0 →
          exec .klHostAtomic s = .next (Claims.said s (.host a.tag false []))))
    ∧ (windowOf s.io.klWin none a.off = none →
        exec .klHostRead s = .next (Claims.said s (.host a.tag false []))
        ∧ exec .klHostWrite s = .next (Claims.numbered (Claims.said s (.host a.tag false [])))
        ∧ exec .klHostAtomic s = .next (Claims.said s (.host a.tag false [])))
    -- a recalled grain's data reach its home; with `ok` the host keeps a shared copy
    ∧ (∀ g pa, findGrain s .host a.asid a.va.toNat = some g → g.pa = some pa → g.owned = true → a.data ≠ [] →
      let s0 := { s with asked := s.asked.filter fun k => k != (a.asid, a.va) }
      let s1 := writeHome s0
        { g with st := .modified, dirty := sectorMask 0 g.size, data := putBytes g.data 0 (a.data.take g.size) }
      let rest := s1.grains.filter fun x => !(x.holder == .host && x.asid == g.asid && x.va == g.va)
      exec .hostRecallResponse s = .next { s1 with
        grains := if a.ok then { g with st := .shared, data := putBytes g.data 0 (a.data.take g.size) } :: rest else rest })
    -- a snoop of a line that the host homes: modified copies are sent, and the copies go or become shared
    ∧ (let mine (x : Half) : Bool := (slotOfAsid s x).any fun k => ccb s k 0x18 8 % 2 ^ 20 == a.val.toNat % 2 ^ 20
       let hit (g : Grain) : Bool := g.pa.isNone && mine g.asid && g.covers g.asid a.va.toNat
       let up (g : Grain) : Bool := hit g && g.st == .modified
         && ((rdcBehind (some g.holder)).bind fun h => findGrain s h g.asid g.va.toNat).isSome
       -- an L1 gives what it has modified to the copy behind it
       let s1 := (s.grains.filter up).foldl flushGrain s
       let s2 := (s1.grains.filter fun g => hit g && g.st == .modified && !up g).foldl
         (fun s g => Claims.said s (.klSnooped g.asid g.va g.data)) s1
       exec .hostSnoop s = .next (if a.own then { s2 with grains := s2.grains.filter fun g => !hit g }
         else { s2 with grains := s2.grains.map fun g => if hit g then { g with st := .shared, dirty := 0 } else g }))

/-- 04 R93, R94, R99 to R103, R96: answers and refusals of requests sent away, requests of peers, and the links. A
request that fails shows one of the kinds of 03 R73, which of them the spec does not state (log entry 13). -/
def Obligations.LinkEvents : Prop :=
  ∀ s : State,
    let a := s.arg
    let fails (s : State) (r : Req) : State :=
      reqFails s.draw r (listedKinds.getD ((Config.free64 s.freeNo 0).toNat % 13) 2)
    let home (r : Req) : Nat := hmeHome r.hme
    let sent := s.reqs.find? fun r => r.id == a.id && r.st == .remote
    (∀ r, sent = some r →
      (exec .remoteHomeResponse s = .next
        -- an answer after its time is no answer
        (if a.ok = true ∧ ¬ (home r = 10 ∧ r.sentAt + 2 ^ s.io.vplTmo.toNat * 64000 ≤ s.timeNs.toNat) then arrived r
          (answered (keepAtc (keepPeerMt (answerCaches s r a.data) r a.size.toNat) r) r (answerBytes r a.data))
         else fails s r))
      ∧ (home r = 8 ∨ home r = 9 → exec .hostRefusedTranslation s = .next
          (if r.refused then fails s r else Claims.said (modReq s r.id fun r => { r with st := .pri }) (.pageReq r.id)))
      ∧ (exec .vplTimeout s = .next
          (if home r = 10 ∧ r.sentAt + 2 ^ s.io.vplTmo.toNat * 64000 ≤ s.timeNs.toNat then fails s r else s)))
    ∧ (sent = none → ∀ i ∈ [Instr.remoteHomeResponse, .hostRefusedTranslation, .vplTimeout], Claims.still i s)
    ∧ (∀ r, (s.reqs.find? fun r => r.id == a.id && r.st == .pri) = some r →
      (a.ok = false → exec .pageRequestResponse s = .next (fails s r))
      -- the access is made once more, from the home lookup
      ∧ (a.ok = true → ∀ s1 w, homeLookup s r.die r.slot r.asid r.va.toNat = (s1, .hme w) →
          (hmeBad w = true ∨ hmeHome w ∉ [8, 9] → exec .pageRequestResponse s = .next (reqReplay s r))
          ∧ (hmeBad w = false → hmeHome w ∈ [8, 9] → exec .pageRequestResponse s = .next
              (resend (modReq s1 r.id fun r => { r with hme := w, own := Req.owns { r with hme := w } }) { r with hme := w }))))
    -- an invalidation drops the translations of its range in its PASID; it is complete when no request that used one is
    -- outstanding, of whichever context
    ∧ (let meets (va n : Nat) : Bool := decide (a.va.toNat < va + n) && decide (va < a.va.toNat + a.len)
       let used := s.reqs.any fun r => r.st == .remote && home r == 9 && pasidOf s r.asid == pasidOf s a.asid && meets r.va.toNat (Nat.max 1 r.span)
       let s1 := { s with io := { s.io with
         atc := s.io.atc.filter fun p => !(p.1 == pasidOf s a.asid && meets (4096 * p.2) 4096) } }
       exec .atsInvalidation s = .next (if used then s1 else Claims.said s1 (.atsDone a.asid a.va)))
    -- a request of a peer that the context's table names
    ∧ (∀ slot, slotOfAsid s a.asid = some slot →
      let r := rqOutside slot a.asid
      let va := a.va.toNat
      let mt := (peekLeaf s r va).elim 0 leafMT
      let no := Host.Outcome.next (φ := Fault) (ρ := Refusal) (Claims.said s (.peerResp a.dev a.tag false 0 []))
      (peerKnown s slot a.dev a.sender = false → exec .peerRequest s = no)
      ∧ (peerKnown s slot a.dev a.sender = true →
        (∀ n s1 bs, a.peerOp = .load n → loadRange s r accLoad va n = (s1, .done, bs) →
          exec .peerRequest s = .next (Claims.said s1 (.peerResp a.dev a.tag true mt bs)))
        ∧ (∀ s1, a.peerOp = .store → storeRange s r va a.data = (s1, .done) →
          exec .peerRequest s = .next (Claims.said s1 (.peerResp a.dev a.tag true mt [])))
        ∧ (∀ s1 acc, a.peerOp = .store → storeRange s r va a.data = (s1, acc) → acc ≠ .done → acc ≠ .held →
          exec .peerRequest s = .next (Claims.said (countTried s r va a.data.length) (.peerResp a.dev a.tag false 0 [])))
        ∧ (∀ op ty n, a.peerOp = .atom op ty n →
          (n ∉ [4, 8, 16] ∨ va % n ≠ 0 → exec .peerRequest s = no)
          ∧ (n ∈ [4, 8, 16] → va % n = 0 → ∀ s1 old,
              atomPiece s r true va n (peerAtom op ty n a.operand.toNat a.expected.toNat) = (s1, .done, old) →
              exec .peerRequest s = .next (Claims.said s1 (.peerResp a.dev a.tag true mt old))))))
    -- ports and the link
    ∧ (exec .vplPortDown s = .next ((s.reqs.filter fun r => r.st == .remote && home r == 10 && r.port == a.port.toNat).foldl fails
        { s with io := { s.io with vplUp := s.io.vplUp &&& ~~~(BitVec.ofNat 12 (2 ^ a.port.toNat)) } }))
    ∧ (exec .vplLinkUp s = .next (if 11 < a.port.toNat then s else { s with io := { s.io with
        vplUp := s.io.vplUp ||| BitVec.ofNat 12 (2 ^ a.port.toNat), vplDevno := a.dev } }))
    ∧ (exec .klLinkUp s = .next { s with io := { s.io with klUp := true, klDegr := a.ok2, klSeq := 0 } })
    ∧ (exec .klLinkDown s = .next ((s.reqs.filter fun r => (r.st == .remote || r.st == .pri) && home r == 8).foldl fails
        { s with io := { s.io with klUp := false, klDegr := false, notifies := []
                                   klNdrop := BitVec.ofNat 16 (Nat.min (s.io.klNdrop.toNat + s.io.notifies.length) 0xFFFF) } }))

namespace Sys2Proof.Claims

open Sys2Proof Sys2Proof.Machine

/-! ### Words of the statements: device, registers, service -/

/-- The device after a reset of a cause (05 R125): all as at `State.reset`, but for what stands outside the wipe: the
attached modules, what the persistence domains keep, life cycle, keys and firmware, and the model's own fields. One reset
more has happened, after which the state of the upper dies may be another (01 R14). -/
def wiped (s : State) (cause : BitVec 4) : State :=
  { State.reset with
    moves := s.moves, arg := s.arg, freeNo := s.freeNo, nextId := s.nextId, outs := s.outs, clocks := s.clocks
    resets := s.resets + 1, mem := s.durable, durable := s.durable
    dies := s.dies.filterMap fun d => if d.2.failed then some (d.1, { failed := true }) else none
    io := { tiers := s.io.tiers }
    dev := { step := s.dev.step, lc := s.dev.lc, keys := s.dev.keys, firmware := s.dev.firmware, fwFailed := s.dev.fwFailed
             rstcause := cause } }

/-- A life-cycle transition: the device is reset and stands in the new state; Winter destroys the keys (05 R124). -/
def phase (s : State) (lc : BitVec 2) : State :=
  let t := wiped s 6
  { t with dev := { t.dev with lc := lc, keys := s.dev.keys && lc != 3 } }

/-- A port of the CXL tier, and the state in which it stands so (02 R28). -/
def port (s : State) : Tier := mgetD s.io.tiers s.arg.port.toNat {}
def withPort (s : State) (t : Tier) : State := { s with io := { s.io with tiers := mset s.io.tiers s.arg.port.toNat t } }

/-- Capacity of extents in whole GB (04 R85). -/
def capacity (xs : List (Nat × Nat)) : Half := BitVec.ofNat 16 (((xs.map (·.2)).sum) * 2 ^ 30 / 1000000000)

/-- Bits lo to hi - 1 of a value, in place. -/
def bits (v lo hi : Nat) : Nat := v / 2 ^ lo % 2 ^ (hi - lo) * 2 ^ lo

/-- `HEATCTL` takes a value: the heat values of a window that are not defined from then on (03 R79; log entry 89). -/
def heatLost (s : State) (d : Die) (v : Word) (w : Nat) : Bool :=
  if v.getLsbD 15 && !d.heatctl.getLsbD 15 then !heatZeroed s d w
  else d.heatOpen.getD w false || (v.getLsbD 15 && v.extractLsb' 8 5 != d.heatctl.extractLsb' 8 5)

/-- The windows whose heat values are not defined once a register of window w is written under `EN`. -/
def heatTouch (d : Die) (w : Nat) : List Bool := if d.heatctl.getLsbD 15 then setAt d.heatOpen w true else d.heatOpen

/-- Registers of a compute die that the service processor writes, with their effect (03 R70, R79, 06 R149, R155, 11
R263). A refused value leaves the register as it was. -/
def dieTable : List (Nat × (State → Die → Nat → Option Die)) :=
  let at_ (n lo : Nat) : Dword := BitVec.ofNat 64 (bits n lo 52)
  [(0x100, fun _ d n => some { d with hcmdva := BitVec.ofNat 64 (bits n 16 56) }),
   (0x110, fun _ d n => some { d with hcmdErr := d.hcmdErr && !bitOf n 2, hcmdDone := d.hcmdDone && !bitOf n 1 }),
   (0x200, fun s d n => if n % 16 ≤ 12 ∧ 8 ≤ bitsOf n 8 5 ∧ bitsOf n 8 5 ≤ 20
      then (let v := BitVec.ofNat 32 (bits n 15 16 + bits n 8 13 + bits n 0 4)
            some { d with heatctl := v, heatOpen := [heatLost s d v 0, heatLost s d v 1] }) else none),
   (0x210, fun _ d n => some { d with heatlo := setAt d.heatlo 0 (at_ n 16), heatOpen := heatTouch d 0 }),
   (0x218, fun _ d n => some { d with heatlo := setAt d.heatlo 1 (at_ n 16), heatOpen := heatTouch d 1 }),
   (0x220, fun _ d n => some { d with heathi := setAt d.heathi 0 (at_ n 16), heatOpen := heatTouch d 0 }),
   (0x228, fun _ d n => some { d with heathi := setAt d.heathi 1 (at_ n 16), heatOpen := heatTouch d 1 }),
   (0x230, fun _ d n => some { d with heatbase := setAt d.heatbase 0 (at_ n 6), heatOpen := heatTouch d 0 }),
   (0x238, fun _ d n => some { d with heatbase := setAt d.heatbase 1 (at_ n 6), heatOpen := heatTouch d 1 }),
   (0x240, fun _ d n => some { d with heatstmp := setAt d.heatstmp 0 (at_ n 2), heatOpen := heatTouch d 0 }),
   (0x248, fun _ d n => some { d with heatstmp := setAt d.heatstmp 1 (at_ n 2), heatOpen := heatTouch d 1 }),
   (0x300, fun _ d n => some { d with hazard := bitOf n 16, agemax := if n % 65536 = 0 then d.agemax else BitVec.ofNat 16 n }),
   (0x308, fun _ d n => if 1 ≤ n % 2 ^ 32 ∧ n % 2 ^ 32 ≤ 4095 then none else some { d with fpwin := BitVec.ofNat 32 n }),
   (0x310, fun _ d n => some { d with mewdt := BitVec.ofNat 16 n })]

end Sys2Proof.Claims

/-- 05 R120, R124 to R126, 01 R16, R21, R22, 02 R53: resets wipe the device and say their cause; power and life cycle. What a
reset keeps is log entry 68, that the service processor's threads run from then on entry 86, the levels of throttling entry 10, what a configuration read answers (a free value) entry 51, and
when persistent memory becomes durable entries 63 and 78. -/
def Obligations.DeviceEvents : Prop :=
  ∀ s : State,
    let a := s.arg
    (exec .powerOnReset s = .next (let t := Claims.wiped s 1
        if a.data = [] then t else { t with io := { t.io with tiers := portsAt (a.data.take 32) } }))
    ∧ (let s1 := flushPers s
       let s2 := persistRanges (persist s1) (persExtents s1)
       exec .orderlyHostReset s = .next (Claims.wiped { s2 with outs := .cxlFlush :: s2.outs } 2))
    ∧ exec .hotReset s = .next (Claims.wiped s 3)
    ∧ exec .thermalTrip s = .next (let t := Claims.wiped s 4
        { t with outs := .pcieDown :: t.outs, io := { t.io with pcieUp := false } })
    ∧ exec .rcvLockstepMismatch s = .next (Claims.wiped s 5)
    ∧ exec .wipeComplete s = .next { s with
        dev := { s.dev with ready := true, wdtStart := s.timeNs.toNat }, io := { s.io with pcieUp := true }
        svcAwake := BitVec.allOnes 64 }
    ∧ exec .pcieConfigurationRequest s = .next (Claims.said s (if s.dev.ready = false then .retry a.tag
        else .host a.tag true (bytesOf 4 (Config.free64 s.freeNo 0).toNat)))
    ∧ exec .throttle s = .next (if s.boost then { s with boost := false } else { s with throttle := Nat.min (s.throttle + 1) 2 })
    ∧ exec .boost s = .next (if 0 < s.throttle then { s with throttle := s.throttle - 1 } else { s with boost := true })
    ∧ exec .firmwareUpdate s = .next (if a.ok = true ∧ a.ok2 = true then { s with dev := { s.dev with firmware := a.id } }
        else { s with dev := { s.dev with fwFailed := true } })
    ∧ exec .vendorProvisioning s = .next (if a.ok = true ∧ s.dev.lc = 0 then Claims.phase s 1 else s)
    ∧ exec .ownerDebug s = .next (if a.ok = true ∧ s.dev.lc = 1 then Claims.phase s 2 else s)
    ∧ exec .ownerReturnToSummer s = .next (if a.ok = true ∧ s.dev.lc = 2 then Claims.phase s 1 else s)
    ∧ exec .decommission s = .next (if a.ok = true then Claims.phase s 3 else s)

/-- 02 R28, R30, R31: memory errors are counted, or poison the page at its home; CXL extents and links. -/
def Obligations.MemoryErrorAndPortEvents : Prop :=
  ∀ s : State,
    let a := s.arg
    let t := Claims.port s
    let x := (a.off, a.len)
    let base := (16 + a.port.toNat) * 2 ^ 44
    (exec .correctedError s = .next (setDie s a.die.toNat
        { getDie s a.die.toNat with corrected := (getDie s a.die.toNat).corrected + 1 }))
    ∧ (∀ slot w s1 lg at_ l, slotOfAsid s a.asid = some slot → hmWalk s slot a.va.toNat = .hme w → hmeBad w = false → hmeHome w < 8 →
        homeWalk s (hmeHome w) slot a.asid a.va.toNat = (s1, .leaf lg at_ l) → leafBad s1 (hmeHome w) lg l = false → leafV l = true →
        leafTier l ≠ 3 →
        exec .uncorrectableError s = .next
          (poisonPage s1 ⟨hmeHome w, w, lg, at_, l, leafPa l + a.va.toNat % 2 ^ lg⟩ a.asid a.va.toNat))
    ∧ (slotOfAsid s a.asid = none → Claims.still .uncorrectableError s)
    -- a cache: a dirty sector poisons its page, a clean one is fetched again; of a line that the host homes, whose page the
    -- device cannot poison, no copy of the device stays where a dirty sector is lost (log entry 93)
    ∧ (∀ g, findGrain s a.holder a.asid a.va.toNat = some g →
        let i := (a.va.toNat - g.va.toNat) / 32
        (g.pa.isSome → g.st = .modified → bitOf g.dirty i = true →
          exec .cacheSoftError s = .next (poisonAt s g.asid a.va.toNat))
        ∧ (g.cnt ≠ .drained → g.st ≠ .modified ∨ bitOf g.dirty i = false →
          exec .cacheSoftError s = .next (seatGrain s { g with lost := g.lost ||| 2 ^ i }))
        ∧ (g.pa = none → g.st = .modified → bitOf g.dirty i = true → exec .cacheSoftError s = .next
            (recallWhere s true fun x => x.hostLine g.asid g.va.toNat g.size)))
    ∧ (exec .cxlExtentAdd s = .next
        (if a.port.toNat < 8 ∧ t.mode = 2 ∧ a.len ≠ 0 ∧ a.off + a.len ≤ 2 ^ 14
            ∧ ∀ y ∈ t.extents, a.off + a.len ≤ y.1 ∨ y.1 + y.2 ≤ a.off
         then Claims.withPort s { t with extents := t.extents ++ [x], cap := Claims.capacity (t.extents ++ [x]) } else s))
    ∧ (let granted : Prop := t.mode = 2 ∧ x ∈ t.extents
         ∧ ∀ y ∈ mappedLeaves s, ¬ (leafPa y.2.w < base + (a.off + a.len) * 2 ^ 30 ∧ base + a.off * 2 ^ 30 < leafPa y.2.w + 2 ^ y.2.lg)
       (granted → exec .cxlExtentRelease s = .next (Claims.said (Claims.withPort s
          { t with extents := t.extents.filter (· != x), cap := Claims.capacity (t.extents.filter (· != x)) })
          (.cxlAnswer a.port.toNat true)))
       ∧ (¬ granted → exec .cxlExtentRelease s = .next (Claims.said s (.cxlAnswer a.port.toNat false))))
    ∧ (t.mode = 2 → exec .cxlLinkLoss s = .next (let s1 := Claims.withPort s { t with link := false }
        (mappedIn s1 base (base + 2 ^ 44)).foldl (fun s x => poisonAt s (ctxAsid s x.1) x.2.va) s1))
    ∧ (exec .cxlLinkUp s = .next (if t.mode = 2 then Claims.withPort s { t with link := true } else s))

/-- 00 R3, 04 R83 to R86, R89, R96, R97, 05 R109, R118, R120: control registers. Reads of `SVCERR` and `KLSTAT` clear what
they report; writes that break a register's rule are not stored. The place of a
NOTIFY among the host's writes is log entry 50, and what of the heat values is not defined entry 89. -/
def Obligations.RegisterEvents : Prop :=
  ∀ s : State,
    let a := s.arg
    let reads (v : Nat) : State := if a.svp then s else Claims.said s (.reg a.tag (bytesOf (if a.wide then 8 else 4) v))
    -- posted writes of the host to BAR0 wait outside while 256 NOTIFYs are held; a frozen service processor writes nothing
    let full : Prop := 256 ≤ s.io.notifies.length
    let waits : Prop := if a.svp then s.svpFrozen = true else full
    -- in Winter these registers are not answered
    (s.dev.lc = 3 → Claims.still .svcerrRead s ∧ Claims.still .klstatRead s)
    ∧ (s.dev.lc ≠ 3 → exec .svcerrRead s = .next { reads s.dev.svcerr.toNat with dev := { s.dev with svcerr := 0 } })
    ∧ (s.dev.lc ≠ 3 → exec .klstatRead s = .next { reads (s.io.klNdrop.toNat * 2 ^ 16 + flagBit s.io.klDegr 1 + flagBit s.io.klUp 0) with
        io := { s.io with klNdrop := 0 } })
    ∧ (let t := a.val.toNat % 65536
       exec .mgmttailWrite s = .next
        (if a.svp = false ∧ full then s else if ctrSub t s.dev.mgmtHead.toNat ≤ 16 ∧ ctrSub t s.dev.mgmtTail.toNat ≤ 16
         then { s with dev := { s.dev with mgmtTail := BitVec.ofNat 16 t } } else svcErr s))
    ∧ (exec .mgmtrheadWrite s = .next
        (if a.svp = false ∧ full then s
         else mgmtFlush { s with dev := { s.dev with mgmtRHead := BitVec.ofNat 16 (a.val.toNat % 65536) } }))
    ∧ (let ms := a.val.toNat % 65536
       exec .svpwdtWrite s = .next (if a.svp = true ∧ s.svpFrozen = false then { s with dev := { s.dev with
          wdtStart := s.timeNs.toNat, svpwdt := if ms = 0 then s.dev.svpwdt else BitVec.ofNat 16 ms } } else s))
    -- a write: 32 or 64 aligned bits, functions, the registers that only the service processor writes
    ∧ (waits → Claims.still .registerWrite s)
    ∧ (¬ waits → a.narrow = true ∨ a.off % (if a.wide then 8 else 4) ≠ 0 → exec .registerWrite s = .next (Claims.said s (.abort a.tag)))
    ∧ (a.narrow = false → a.off % (if a.wide then 8 else 4) = 0 → a.svp = false →
        (a.fn ≠ 0 → Claims.still .registerWrite s)
        ∧ (0x10000 ≤ a.off → Claims.still .registerWrite s))
    ∧ (a.svp = true → s.svpFrozen = false → a.narrow = false → a.wide = true → ∀ r ∈ Claims.dieTable, ∀ die, die < 8 → a.off = 0x400000 + 0x80000 * die + r.1 →
        exec .registerWrite s = .next (match r.2 s (getDie s die) a.val.toNat with | some d => setDie s die d | none => s))
    ∧ (a.svp = true → s.svpFrozen = false → a.narrow = false → a.wide = true → a.off = 0x20 → exec .registerWrite s = .next
        { s with dev := { s.dev with ccbbase := BitVec.ofNat 64 (Claims.bits a.val.toNat 18 52) } })
    -- NOTIFY waits its turn among those of its queue, and outside while 256 are held
    ∧ (256 ≤ s.io.notifies.length → Claims.still .notify s)
    ∧ (s.io.notifies.length < 256 →
        let v := a.val.toNat
        let seq : Option Word := if a.kl then some a.token
          else if a.wide = true ∧ bitOf v 31 = true then some (BitVec.ofNat 32 (v / 2 ^ 32)) else none
        exec .notify s = .next (notifyRun { s with io := { s.io with
          notifies := s.io.notifies ++ [⟨a.slot.toNat, a.fn, BitVec.ofNat 16 v, seq⟩] } } a.slot.toNat))
    ∧ (exec .notifyTakeEffect s = .next (notifyRun s a.slot.toNat))

/-- 06 R133, R138, R141, R145, R146, R151, R152, R155, R156, R158, R159, R161, 13 R303 to R305: grids are taken, teams are
placed, retired, swapped, spilled, moved and lost. An event that is not due has no effect (log entry 6); entries 42 to 44, 57 and 61 say what else is the model's. -/
def Obligations.TeamEvents : Prop :=
  ∀ s : State,
    let a := s.arg
    (∀ slot, slot = a.slot.toNat → ctxLive s slot = true → s.svpFrozen = false →
      let mine := s.grids.filter fun x => x.2.slot == slot && !x.2.complete
      -- the next entry of queue 0 becomes a grid once every team of the earlier grids has been placed
      (∀ x ∈ mine, x.2.waitGx = false ∧ x.2.next = x.2.count) →
      let asid := ctxAsid s slot
      ∀ s1 o s2 e, qLoad s 0 slot asid 0 (fun _ => false) qHead accLoad = (s1, .inr o) → qTail o.q ≠ qHead o.q →
        qRead s1 o.rt asid (slotVa o.q (qHead o.q)) = (s2, e) → lrHeld s slot (fieldOf e 0 8) = false →
        let key := 65536 * slot + qHead o.q
        let s3 := qWrite s2 o.qt asid (qcbVa s slot 0) (qSet o.q 8 2 (qHead o.q + 1))
        exec .launchTake s = .next (gridNew { s3 with launchers := mdel s3.launchers key } slot e (mget s3.launchers key)))
    ∧ (ctxLive s a.slot.toNat = false ∨ s.svpFrozen = true → Claims.still .launchTake s)
    -- the next team of a bullpen's context, or of a set's owner, is placed, anew or as it was spilled
    ∧ (let k := a.slot.toNat
       (s.svpFrozen = true → Claims.still .teamPlace s)
       ∧ ∀ p c g, s.svpFrozen = false → mget s.psets k = some p →
          (p.bullpen = some c ∨ (p.bullpen = none ∧ p.swap = none ∧ p.owner = some c ∧ ownerDone s k = false)) →
          ctxLive s c = true →
          (dueTeam s k c p.bullpen.isSome = some (g, none) → exec .teamPlace s = .next (placeFresh s k g none))
          ∧ ∀ id, dueTeam s k c p.bullpen.isSome = some (g, some id) →
            ((teamOf s id).state = .pending → exec .teamPlace s = .next (placeFresh s k g (some id)))
            ∧ ((teamOf s id).state ≠ .pending → ∀ i cores places,
              findGroup s false k (gridOf s (teamOf s id)).lr ((mget s.spines id).any (·.live)) (returnDemands s id) (fun _ => true)
                = some (i, cores, places) →
              let t := returnTeam s id cores places
              exec .teamPlace s = .next { t with
                grids := mmod t.grids g fun g => { g with again := g.again.filter fun x => x != id }
                psets := mmod t.psets k fun p => { p with ptr := (i + 1) % p.cores.length, due := none } }))
    -- an exited team retires once its children, operations and stores are complete, and one that is Retired already at once;
    -- its record is written first
    ∧ (∀ t, mget s.teams a.id = some t →
      let slot := (gridOf s t).slot
      let asid := ctxAsid s slot
      let s1 := wcDrain s fun e => e.agents.any (deadAgent s) && e.asid == asid
      let va := (gridOf s1 t).lr.exitrec.toNat + 64 * t.index
      (t.counted = true ∨ (t.state ≠ .exited ∧ t.state ≠ .retired) → Claims.still .teamRetire s)
      ∧ (t.state = .exited → t.children ≠ 0 ∨ teamOps s a.id = true → Claims.still .teamRetire s)
      ∧ (t.counted = false → t.exitReq = none →
          t.state = .retired ∨ (t.state = .exited ∧ t.children = 0 ∧ teamOps s a.id = false ∧ storesOut s1 a.id = false
            ∧ ∀ e ∈ s1.wc, e.asid = asid → e.agents.any (deadAgent s1) = false) →
          ((gridOf s1 t).lr.exitrec = 0 → exec .teamRetire s = .next (retireTeam s1 a.id))
          ∧ ((gridOf s1 t).lr.exitrec ≠ 0 → t.exitDone = false → ∀ s2,
              storeRange s1 (rqDevice s1 (t.cores.getD 0 0 / 256) slot) va (exitRecord s1 t) = (s2, .done) →
              exec .teamRetire s = .next (retireTeam s2 a.id))))
    -- a slice ends: with one context at work it renews; else its teams leave, and 64 clocks later the next one's enter
    -- the shadow banks always follow the next owner
    ∧ (let k := a.slot.toNat
       let s0 := syncShadows s
       let p := getSet s0 k
       ∀ o, p.owner = some o → p.bullpen = none → p.swap = none →
        (s0.timeNs.toNat < p.sliceStart + sliceNs s0 o → exec .sliceExpiry s = .next s0)
        ∧ (p.sliceStart + sliceNs s0 o ≤ s0.timeNs.toNat →
          (nextOwner s0 k = none → exec .sliceExpiry s = .next { s0 with
            psets := mmod s0.psets k fun p => { p with sliceStart := s0.timeNs.toNat } })
          ∧ ∀ n, nextOwner s0 k = some n →
            let mine := teamsOn s0 o k
            let out := (mine.filter fun x => x.2.state == .resident).map (·.1)
            (∀ x ∈ mine, x.2.state ≠ .migrating ∧ (x.2.state = .resident → x.2.stopping = false)) →
            (∀ c ∈ p.cores, (mgetD s0.cores c {}).shadow = .ready) →
            (out = [] → exec .sliceExpiry s = .next (enterSlice s0 k (some n)))
            ∧ (out ≠ [] → exec .sliceExpiry s = .next (let t := out.foldl swapOut s0
                { t with psets := mmod t.psets k fun x => { x with swap := some (n, clk t (p.cores.getD 0 0 / 256)) } }))))
    ∧ (let k := a.slot.toNat
       ∀ n start, (getSet s k).swap = some (n, start) →
        let now := clk s ((getSet s k).cores.getD 0 0 / 256)
        (now < start + 64 → Claims.still .dugoutSwap s)
        ∧ (start + 64 ≤ now →
          let draining (c : Nat) : Bool := s.teams.any fun x => x.2.state == .swapped && x.2.stopping && x.2.cores.contains c
          exec .dugoutSwap s = .next (enterSlice { s with cores := (getSet s k).cores.foldl (fun m c =>
            mset m c { mgetD m c {} with shadow := if draining c then .draining else .empty, shadowFor := none }) s.cores } k (some n))))
    ∧ (let s0 := syncShadows s
       let c := mgetD s0.cores a.core {}
       exec .shadowFillComplete s = .next
        (if c.shadow = .filling then { s0 with cores := mset s0.cores a.core { c with shadow := .ready } } else s0))
    ∧ (let c := mgetD s.cores a.core {}
       let out := (s.teams.filter fun x => x.2.state == .swapped && x.2.stopping && x.2.cores.contains a.core).map (·.1)
       (c.shadow ≠ .draining → Claims.still .shadowDrainComplete s)
       -- not before every outgoing team of the core is saved
       ∧ (c.shadow = .draining → ∀ s1, out.foldl drainTeam (s, true) = (s1, false) → exec .shadowDrainComplete s = .next s1)
       ∧ (c.shadow = .draining → ∀ s1, out.foldl drainTeam (s, true) = (s1, true) →
          let s2 := { s1 with cores := mset s1.cores a.core { c with shadow := .empty, shadowFor := none } }
          exec .shadowDrainComplete s = .next (match (setOfCore s2 a.core).bind fun k => (getSet s2 k).owner.map (k, ·) with
            | some (k, o) => swapIn true (swappedTeams s2 o k) s2
            | none => s2)))
    -- forward progress: a team leaves a core on which no squad issues, or whose register growth is stalled
    ∧ (let win := (getDie s (a.core / 256)).fpwin.toNat
       ∀ k w id, setOfCore s a.core = some k → waitingTeam s k = some w → leastRecent s (victims s a.core) = some id →
        exec .forwardProgressExpiry s = .next
          (if win ≠ 0 ∧ (mgetD s.cores a.core {}).idleSince + win ≤ (clk s (a.core / 256)) ∧ growDue s a.core = []
           then touchCores (stopTeam { s with psets := mmod s.psets k fun p => { p with due := some w } } id) [a.core] else s))
    ∧ (a.part ∈ growDue s a.core → ∀ x, victims s a.core = [x] →
        let t := touchCores (stopTeam s x.1) [a.core]
        let c := mgetD t.cores a.core {}
        let again : CoreSt := { c with growSince := c.growSince.map fun g => if g.1 = a.part then (g.1, clk t (a.core / 256)) else g }
        exec .registerGrowExpiry s = .next { t with cores := mset t.cores a.core again })
    ∧ (a.part ∉ growDue s a.core → Claims.still .registerGrowExpiry s)
    -- a spilled team's image is written once its writes have landed, its merged stores are sent, its engine is quiescent, and a
    -- block is free
    ∧ (∀ t, mget s.teams a.id = some t →
      (t.state ≠ .resident ∨ t.stopping = false → Claims.still .teamSpillComplete s)
      ∧ (t.state = .resident → t.stopping = true → teamLanded s a.id = true → teamQuiet s a.id = true → ∀ s1,
        (saveImage (ungrant (drainStores s a.id) a.id) a.id = (s1, false) → exec .teamSpillComplete s = .next s1)
        ∧ (saveImage (ungrant (drainStores s a.id) a.id) a.id = (s1, true) →
        let s2 := modTeam (transit (leaveCommon (disarmTeam s1 a.id fun _ => true) a.id) a.id 3) a.id fun t =>
          { t with state := .spilled, stopping := false }
        exec .teamSpillComplete s = .next { s2 with
          grids := mmod s2.grids t.grid fun g => { g with again := (g.again.filter fun x => x != a.id) ++ [a.id] } })))
    -- a migration ends once every squad has stopped and its requests are performed
    ∧ (∀ t die pop, mget s.teams a.id = some t → t.migTo = some (die, pop) → t.state = .migrating →
        (∀ x ∈ squadsOf s a.id, stopped s pop x.1 x.2 = true) →
        (∀ p ∈ s.pops, p.1 ≠ pop → (squadAny s p.2.squad).map (·.team) = some a.id → mustLand s p.1 p.2 = false) →
        ∀ i cores places, migrateGroup s a.id die = some (i, cores, places) →
          let s2 := returnTeam (leaveCommon (disarmTeam (drainStores s a.id) a.id fun _ => true) a.id) a.id cores places
          exec .migrationComplete s = .next { s2 with pops := mmod s2.pops pop fun p => { p with ready := true } })
    -- losses; the SVP detects one, and not while it is frozen (05 R122)
    ∧ (∀ t, mget s.teams a.id = some t →
        (s.svpFrozen = true → Claims.still .teamLost s)
        ∧ (s.svpFrozen = false → t.state ≠ .retired → (∃ c ∈ t.cores, (getDie s (c / 256)).failed = true) → exec .teamLost s = .next (teamLose s a.id))
        ∧ (t.state = .retired → Claims.still .teamLost s))
    ∧ (let d := a.die.toNat
       let s1 := setDie s d { getDie s d with failed := true }
       exec .dieFailure s = .next (closeGroups
        (((s1.teams.filter fun x => x.2.onCores && x.2.cores.any fun c => c / 256 == d).map (·.1)).foldl teamLose s1) d))

namespace Sys2Proof.Claims

open Sys2Proof Sys2Proof.Machine

/-! ### Words of the statements: commands of the service processor -/

/-- A command's event: the entries that it takes, and the bytes of an entry that it names. -/
structure CmdRow where
  event : Instr
  mine : List Byte → Bool
  named : List (Nat × Nat)

def rowLaunch : CmdRow := ⟨.launchCommand, cmdIs 1, [(8, 2), (16, 16)]⟩
def rowNew : CmdRow := ⟨.ctxnew, cmdIs 2, [(8, 56)]⟩
def rowFree : CmdRow := ⟨.ctxfree, cmdIs 3, [(8, 2)]⟩
def rowPlace : CmdRow := ⟨.place, cmdIs 4, [(8, 3), (12, 2), (16, 8)]⟩
def rowPower : CmdRow := ⟨.pwrlimit, cmdIs 5, [(8, 4)]⟩
def rowAttest : CmdRow := ⟨.attest, cmdIs 6, [(8, 2), (16, 40)]⟩
def rowHeat : CmdRow := ⟨.heatscan, cmdIs 7, [(8, 3)]⟩
def rowRecord : CmdRow := ⟨.record, cmdIs 8, [(8, 2), (12, 4)]⟩
def rowQueues : CmdRow := ⟨.ctxcfgQueues, cfgIs 0, [(8, 3), (16, 24)]⟩
def rowPeers : CmdRow := ⟨.ctxcfgPeers, cfgIs 1, [(8, 3), (12, 2), (16, 40)]⟩
def rowMap : CmdRow := ⟨.ctxcfgSvqmap, cfgIs 2, [(8, 3), (12, 1), (16, 2)]⟩

def cmdTable : List CmdRow :=
  [rowLaunch, rowNew, rowFree, rowPlace, rowPower, rowAttest, rowHeat, rowRecord, rowQueues, rowPeers, rowMap]

/-- Those that name a context which must be live. -/
def slotTable : List CmdRow := [rowLaunch, rowFree, rowAttest, rowRecord, rowQueues, rowPeers, rowMap]

/-- The service processor takes an entry, and the entry is sound: its opcode is known, the device is not in Winter, its
path accepts it, and no byte that it does not name is set. -/
def taken (r : CmdRow) (s s1 : State) (x : Cmd) : Prop :=
  cmdTake s r.mine = (s1, some x) ∧ opcKnown x.c.opc = true ∧ s.dev.lc ≠ 3 ∧ pathRefused x = false
  ∧ onlyNamed x.e r.named = true

/-- A sound entry whose context, in bytes 8 and 9, is live. -/
def takenLive (r : CmdRow) (s s1 : State) (x : Cmd) (k : Nat) : Prop :=
  taken r s s1 x ∧ k = fieldOf x.e 8 2 ∧ k < 64 ∧ ctxLive s1 k = true

/-- Fields written in a context's control block. -/
def putBlock (s : State) (slot off : Nat) (bs : List Byte) : State := { s with mem := memWriteN s.mem (ccbAt s slot + off) bs }

end Sys2Proof.Claims

/-- 05 R115, R116, R118, R124: what every command meets. Without an entry nothing is performed; an unknown opcode and
bytes outside the named ones are answered with status 2, Winter and a path that does not accept the command with status
1; a context that does not exist with status 2, one that is not live with status 1. -/
def Obligations.CommandRefusals : Prop :=
  ∀ s s1 : State,
    (∀ r ∈ Claims.cmdTable,
      (cmdTake s r.mine = (s1, none) → exec r.event s = .next s1)
      ∧ ∀ x, cmdTake s r.mine = (s1, some x) →
        (opcKnown x.c.opc = false → exec r.event s = .next (respond s1 x.c 2 []))
        ∧ (opcKnown x.c.opc = true → s.dev.lc = 3 ∨ pathRefused x = true → exec r.event s = .next (respond s1 x.c 1 []))
        ∧ (opcKnown x.c.opc = true → s.dev.lc ≠ 3 → pathRefused x = false → onlyNamed x.e r.named = false →
            exec r.event s = .next (respond s1 x.c 2 [])))
    ∧ (∀ r ∈ Claims.slotTable, ∀ x, Claims.taken r s s1 x →
      (63 < fieldOf x.e 8 2 → exec r.event s = .next (respond s1 x.c 2 []))
      ∧ (fieldOf x.e 8 2 ≤ 63 → ctxLive s1 (fieldOf x.e 8 2) = false → exec r.event s = .next (respond s1 x.c 1 [])))
    ∧ (s.dev.ready = false ∨ s.svpFrozen = true → ∀ r ∈ Claims.cmdTable, Claims.still r.event s)

/-- 05 R116, R117, R119, 01 R20, 06 R139, 03 R78, 05 R127, R129: what each command does. The header of a new context's
save area (log entry 45), signatures (14) and the choice among frames of equal heat (13) are free values. -/
def Obligations.Commands : Prop :=
  ∀ (s s1 : State) (x : Cmd) (k : Nat),
    -- LAUNCH pushes an entry to queue 0 of a context with a fault queue; its response follows the grid's end
    (Claims.takenLive Claims.rowLaunch s s1 x k →
      let lrec := fieldOf x.e 16 8
      (ccb s1 k 0x28 4 = 0 → exec .launchCommand s = .next (respond s1 x.c 1 []))
      ∧ (ccb s1 k 0x28 4 ≠ 0 → lrHeld s1 k lrec = false → ∀ s2 d, lrRead s1 k lrec = (s2, some d) →
        (lrMalformed s2 k d = true → exec .launchCommand s = .next (respond s2 x.c 2 []))
        ∧ (lrMalformed s2 k d = false → exec .launchCommand s = .next { s2 with
            nextId := s2.nextId + 1
            dpush := s2.dpush ++ [{ id := s2.nextId, slot := k, q := 0, launch := some x.c
                                    entry := launchEntry lrec (fieldOf x.e 24 8) (2 ^ 64 - 1) 0
                                    thread := match x.c.src with | .svq q => some q.toNat | .mgmt => none }] })))
    -- CTXNEW: a free slot and an ASID of no live context; the ASID is flushed, and once no line of it is cached, at the
    -- host neither, the block and the save area's header are written; while the header's page is held, it waits
    ∧ (Claims.taken Claims.rowNew s s1 x → k = fieldOf x.e 8 2 →
      let asid : Half := BitVec.ofNat 16 (fieldOf x.e 10 2)
      let used : Prop := ∃ j < 64, ctxLive s1 j = true ∧ ctxAsid s1 j = asid
      (ctxBad x.e = true → exec .ctxnew s = .next (respond s1 x.c 2 []))
      ∧ (ctxBad x.e = false → ctxState s1 k ≠ 0 ∨ used → exec .ctxnew s = .next (respond s1 x.c 1 []))
      ∧ (ctxBad x.e = false → ctxState s1 k = 0 → ¬ used →
        let s2 := flushAsid s1 asid
        let s3 := { s2.draw.draw with
          mem := memWriteN s2.mem (ccbAt s2 k) (ctxBlock x.e)
          ctxBlocks := mdel s2.ctxBlocks k
          clusters := s2.clusters.map fun c => (c.1, { c.2 with common := c.2.common.filter fun h => h.1 / 64 != k }) }
        (x.c.opc = 2 → (∃ g ∈ s2.grains, g.asid = asid) → exec .ctxnew s = .next (flushAsid s asid))
        ∧ ((∀ g ∈ s2.grains, g.asid ≠ asid) → ∀ h s4, peekHome s3 (rqDevice s3 0 k) (fieldOf x.e 48 8) = some h → h < 8 →
          let header := storeRange s3 (rqDevice s3 0 k) (fieldOf x.e 48 8) (newSaveHeader s1 (fieldOf x.e 40 2))
          (header = (s4, .done) → exec .ctxnew s = .next (respond (rebuildSvq s4) x.c 0 []))
          ∧ (header = (s4, .held) → x.c.opc = 2 → exec .ctxnew s = .next (flushAsid s asid)))))
    -- CTXFREE and a function-level reset retire the context's teams and close it; while the service processor runs and no
    -- exit or fault record of the context waits to be written, its grids complete, and the slot is free, and CTXFREE is
    -- answered with the number of those teams, once the context's last completion entries and responses stand in their queues
    ∧ (Claims.takenLive Claims.rowFree s s1 x k → exec .ctxfree s = .next (ctxClose s1 k (some x.c)))
    ∧ (exec .vfFunctionLevelReset s = .next
        (if s.arg.fn ≠ 0 ∧ ctxLive s s.arg.fn.toNat = true ∧ s.svpFrozen = false then ctxClose s s.arg.fn.toNat none else s))
    ∧ (∀ n c, s.svpFrozen = true ∨ recordsWait s k = true → closeTest s (k, n, c) = s)
    ∧ (∀ n c, s.svpFrozen = false → recordsWait s k = false →
      let s1 := closeGrids s k
      let waits : Bool := s1.dpush.any (·.slot == k) || s1.resvs.any (·.slot == k) || s1.grids.any fun g => g.2.slot == k && !g.2.gone
      (waits = true → closeTest s (k, n, c) = s1)
      ∧ (waits = false →
        let t := { s1 with
          closing := mdel s1.closing k, mem := memWriteN s1.mem (ccbAt s1 k) (zeros 8)
          msixHead := s1.msixHead.filter fun x => x.1 / 1024 != k, reqs := s1.reqs.filter fun r => r.slot != k
          dies := s1.dies.map fun d => (d.1, { d.2 with pft := d.2.pft.filter fun p => p.slot != k })
          teams := s1.teams.filter fun t => (gridOf s1 t.2).slot != k, grids := s1.grids.filter fun g => g.2.slot != k }
        closeTest s (k, n, c) = match c with | some c => respond t c 0 (bytesOf 8 n) | none => t))
    -- CTXCFG: queues and service queues, peers, the service-queue map
    ∧ (Claims.takenLive Claims.rowQueues s s1 x k → fieldOf x.e 10 1 = 0 →
      let fq := fieldOf x.e 24 4
      let cq := fieldOf x.e 28 4
      let taken : Prop := ∃ j < 64, j ≠ k ∧ ctxLive s1 j = true ∧ ∃ q < 64, bitOf (fieldOf x.e 32 8) q = true ∧ bitOf (svqMask s1 j) q = true
      (fq = 0 ∨ 1023 < fq ∨ cq = 0 ∨ 1023 < cq ∨ fq = cq → exec .ctxcfgQueues s = .next (respond s1 x.c 2 []))
      ∧ (1 ≤ fq → fq ≤ 1023 → 1 ≤ cq → cq ≤ 1023 → fq ≠ cq →
        (taken → exec .ctxcfgQueues s = .next (respond s1 x.c 1 []))
        ∧ (¬ taken → exec .ctxcfgQueues s = .next (respond (rebuildSvq
            (Claims.putBlock (Claims.putBlock s1 k 0x40 (x.e.extract 16 24)) k 0x28 (x.e.extract 24 40))) x.c 0 []))))
    ∧ (Claims.takenLive Claims.rowPeers s s1 x k → fieldOf x.e 10 1 = 1 →
      let i := fieldOf x.e 12 1
      let c := fieldOf x.e 13 1
      let ok : Prop := 1 ≤ c ∧ c ≤ 5 ∧ i + c ≤ 16 ∧ ∀ b ∈ x.e.drop (16 + 8 * c), b = 0
      (ok → exec .ctxcfgPeers s = .next (respond (Claims.putBlock s1 k (0x80 + 8 * i) (x.e.extract 16 (16 + 8 * c))) x.c 0 []))
      ∧ (¬ ok → exec .ctxcfgPeers s = .next (respond s1 x.c 2 [])))
    ∧ (Claims.takenLive Claims.rowMap s s1 x k → fieldOf x.e 10 1 = 2 →
      let q := fieldOf x.e 12 1
      let n := fieldOf x.e 16 2
      let ok : Prop := q < 64 ∧ bitOf (svqMask s1 k) q = true ∧ ((1 ≤ n ∧ n ≤ 1023) ∨ n = 0xFFFF)
      (ok → exec .ctxcfgSvqmap s = .next (respond (rebuildSvq (Claims.putBlock s1 k (0x800 + 2 * q) (bytesOf 2 n))) x.c 0 []))
      ∧ (¬ ok → exec .ctxcfgSvqmap s = .next (respond s1 x.c 2 [])))
    -- PLACE: the bitmap's cores, which no other set may share but an equal one of its kind; a set in use is not changed
    ∧ (Claims.taken Claims.rowPlace s s1 x → k = fieldOf x.e 8 2 → k < 64 → fieldOf x.e 10 1 ≤ 1 → fieldOf x.e 12 2 < 64 →
      ctxLive s1 (fieldOf x.e 12 2) = true → ∀ s2 bs,
        loadRange s1 (rqDevice s1 0 (fieldOf x.e 12 2)) accLoad (fieldOf x.e 16 8) 256 = (s2, .done, bs) →
        let bullpen := fieldOf x.e 10 1 = 1
        let cores := bitmapCores bs
        let clash : Prop := ∃ p ∈ s2.psets, p.1 ≠ k ∧ (∃ c ∈ p.2.cores, c ∈ cores)
          ∧ (bullpen ∨ p.2.bullpen.isSome ∨ p.2.cores ≠ cores)
        let same : Prop := ∃ old, mget s2.psets k = some old ∧ old.cores = cores
          ∧ old.bullpen = if bullpen then some (fieldOf x.e 12 2) else none
        (same → exec .place s = .next (respond s2 x.c 0 []))
        ∧ (¬ same → clash ∨ setInUse s2 k = true → exec .place s = .next (respond s2 x.c 1 []))
        ∧ (¬ same → ¬ clash → setInUse s2 k = false →
            let p : Machine.PSet := { cores := cores, bullpen := if bullpen then some (fieldOf x.e 12 2) else none }
            exec .place s = .next (respond { s2 with psets := mset s2.psets k p } x.c 0 [])))
    -- PWRLIMIT: 2,000 to 5,400 W in steps of 50; which status refuses another one is log entry 85
    ∧ (Claims.taken Claims.rowPower s s1 x →
      let w := fieldOf x.e 8 4
      let ok : Prop := 2000 ≤ w ∧ w ≤ 5400 ∧ w % 50 = 0
      (ok → exec .pwrlimit s = .next (respond { s1 with pwrLimit := w } x.c 0 (bytesOf 4 w)))
      ∧ (¬ ok → exec .pwrlimit s = .next (respond s1 x.c 1 (bytesOf 4 s1.pwrLimit))))
    -- HEATSCAN: the hottest and the coolest frames of a window
    ∧ (Claims.taken Claims.rowHeat s s1 x →
      let d := fieldOf x.e 8 1
      let w := fieldOf x.e 9 1
      let n := fieldOf x.e 10 1
      (d < 8 → w < 2 → 1 ≤ n → n ≤ 3 →
        let die := getDie s1 d
        let l := (List.range ((heatHi die w - heatLo die w) / 65536)).map fun i => (i, frameHeat s1 die w i)
        exec .heatscan s = .next (respond { s1 with freeNo := s1.freeNo + 6 } x.c 0
          (frameBytes (pickFrames s1.freeNo (fun a b => decide (b < a)) n l) 3
            ++ frameBytes (pickFrames (s1.freeNo + 3) (fun a b => decide (a < b)) n l) 3)))
      ∧ (7 < d ∨ 1 < w ∨ n = 0 ∨ 3 < n → exec .heatscan s = .next (respond s1 x.c 2 [])))
    -- ATTEST writes its report; RECORD sets `RECCTL`
    ∧ (Claims.takenLive Claims.rowAttest s s1 x k →
      let va := fieldOf x.e 48 8
      (va % 64 ≠ 0 → exec .attest s = .next (respond s1 x.c 2 []))
      ∧ (va % 64 = 0 → ∀ s2,
        storeRange s1 (rqDevice s1 0 k) (BitVec.ofNat 64 va : Dword).toNat (reportBytes s1 (x.e.extract 16 48)) = (s2, .done) →
        exec .attest s = .next (respond s2 x.c 0 (bytesOf 4 3461))))
    ∧ (Claims.takenLive Claims.rowRecord s s1 x k →
      let rc := fieldOf x.e 12 4
      let ok : Prop := bitsOf rc 2 14 = 0 ∧ recQueue rc ≤ 1023 ∧ ¬ (recRec rc = true ∧ recPlay rc = true)
      (ok → exec .record s = .next (respond { Claims.putBlock s1 k 0x50 (bytesOf 8 rc) with
        replay := s1.replay.filter fun r => r.1 / 65536 != k } x.c 0 []))
      ∧ (¬ ok → exec .record s = .next (respond s1 x.c 2 [])))

/-- 05 R121 to R123: the service processor's watchdog and errors start a recovery, a second error resets the device; the
walk and the restart end it. What the spec leaves open of a recovery is log entries 47, 48 and 63. -/
def Obligations.RecoveryEvents : Prop :=
  ∀ s : State,
    let starts (why : BitVec 4) : State :=
      if s.dev.rcvact = true then Claims.wiped s 5
      else { s with
        svpFrozen := true
        dev := { s.dev with
          rcvact := true, rcvWalked := false, rcvLast := why, wdtStart := s.timeNs.toNat
          rcvCount := if s.dev.rcvCount = 0xFFFF then s.dev.rcvCount else s.dev.rcvCount + 1 } }
    (exec .svpWatchdogExpiry s = .next
      (if s.dev.ready = true ∧ s.dev.wdtStart + 1000000 * s.dev.svpwdt.toNat ≤ s.timeNs.toNat then starts 1 else s))
    ∧ (exec .svpStateError s = .next (starts (if s.arg.ok then 3 else 2)))
    ∧ (s.dev.rcvact = true → s.dev.rcvWalked = false → exec .recovery s = .next
        (let t := ((List.range 64).filter fun k => ctxState s k != 0).foldl
           (fun t k => (rcvQueues t k).foldl (fun t n => rcvCheck t k n) t) s
         rebuildSvq { t with dev := { t.dev with rcvWalked := true } }))
    ∧ (s.dev.rcvact = false ∨ s.dev.rcvWalked = true → Claims.still .recovery s)
    ∧ (exec .recoveryRestart s = .next
        (if s.dev.rcvact = true ∧ s.dev.rcvWalked = true then mgmtFlush { s with
          svpFrozen := false, svcAwake := 0xFFFFFFFFFFFFFFFF
          dev := { s.dev with rcvact := false, rcvWalked := false, wdtStart := s.timeNs.toNat } } else s))

namespace Sys2Proof.Claims

open Sys2Proof

/-- Fields of a lane word that a worked example does not name. -/
def bare : LaneOp :=
  { gn := false, gp := 7, k := false, e := false, dst := .none, ty := .none, a := .v 255 false, b := .v 255 false,
    c := .v 255 false, imm := 0, md := 0, fs := false }

end Sys2Proof.Claims

/-- 14 R313, R326 to R329: words that the worked examples of 14, 15, 16 and 17 write out, and what they decode to. -/
def Obligations.WordsOfTheSpec : Prop :=
  decodeSpine 0x001851C1#32 = .ok (.spineAdd false 6 5 7)
  ∧ decodeSpine 0x801851C1#32 = .ok (.spineAdd true 6 5 7)
  ∧ decodeSpine 0xFFB03142#32 = .ok (.addi 0x3FEC 3 5)
  ∧ decodeSpine 0x0C2CA241#32 = .ok (.spineDiv false 11 10 9)
  ∧ decodeSpine 0x8C2CA241#32 = .ok (.spineDiv true 11 10 9)
  ∧ decodeSpine 0x400C4106#32 = .ok (.shri 3 4 4)
  ∧ decodeSpine 0x00E8210D#32 = .ok (.spineLd 3 true 2 2 4)
  ∧ decodeSpine 0xB11C614F#32 = .ok (.amoAdd true 3 7 6 5)
  ∧ decodeSpine 0xFFF800D1#32 = .ok (.bne 0x3FFE 0 3)
  ∧ decodeSpine 0x11000018#32 = .ok (.spineFence 2 1)
  ∧ decodeSpine 0x3C000018#32 = .ok .spinePfence
  ∧ decodeSpine 0x000C8259#32 = .ok (.spineHput 3 8 9)
  ∧ decodeSpine 0x1400031A#32 = .ok (.spineRdclk 12)
  ∧ decodeLane 0x000000003FC7F80270044107#96 =
      .ok (.rcp { Claims.bare with dst := .v 4, ty := .f32, a := .v 2 false })
  ∧ decodeLane 0xFFFFFC003FD8040174050001#96 =
      .ok (.add { Claims.bare with e := true, dst := .v 5, ty := .i32, a := .v 1 true, b := .lit, imm := 0xFFFFFC })
  ∧ decodeLane 0x00000A083FD800037201000C#96 =
      .ok (.icmp { Claims.bare with dst := .sp 1, ty := .i32, a := .v 3 false, b := .lit, md := 2, imm := 10 })
  ∧ decodeLane 0x000004003FC7FC097204018D#96 =
      .ok (.hacc { Claims.bare with dst := .sp 4, ty := .i32, a := .v 9 true, imm := 4 })
  ∧ decodeLane 0x0000000800C0100174064083#96 =
      .ok (.ffma { Claims.bare with e := true, dst := .v 6, ty := .f32, a := .v 1 false, b := .v 2 false, c := .v 3 false, md := 2 })
  ∧ decodeLane 0x000008B03FC0090270042200#96 =
      .ok (.ld { Claims.bare with dst := .v 4, ty := .b32, a := .g 2, b := .v 1 false, md := 0x2C, imm := 8 })
  ∧ decodeLane 0x000000C001E0090277002201#96 =
      .ok (.st { Claims.bare with e := true, ty := .b32, a := .g 2, b := .v 1 true, c := .v 7 false, md := 0x30 })
  ∧ decodeLane 0xFFFFFD003FC7F8FFA700FF80#96 =
      .ok (.bra { Claims.bare with gn := true, gp := 2, e := true, imm := 0xFFFFFD })
  ∧ decodeLane 0x000C0770410819027300FE86#96 =
      .ok (.cpy { Claims.bare with a := .g 2, b := .g 3, c := .g 4, md := 0x1C, imm := 0xC07 })
  ∧ decodeLane 0x000000023FC828087A014F00#96 =
      .ok (.mma { Claims.bare with k := true, dst := .sp 1, ty := .e4m3x4, a := .v 8 false, b := .g 5, fs := true })
  ∧ decodeLane 0x000000003FC7F90676026707#96 =
      .ok (.scan { Claims.bare with e := true, dst := .sp 2, ty := .afp, a := .g 6 })

/-- 14 R326 to R329: a well-formed spine instruction's word decodes to it, from bytes with whatever follows. -/
def Obligations.SpineDecodeOfEncode : Prop :=
  ∀ (i : Instr) (rest : List Byte), i.wf = true → i.spineWord?.isSome →
    decodeSpineBytes (encode i ++ rest) = .ok (i, rest)

/-- 14 R313 to R325: the same of lane instructions: no operand and no modifier is dropped. -/
def Obligations.LaneDecodeOfEncode : Prop :=
  ∀ (i : Instr) (rest : List Byte), i.wf = true → i.lane?.isSome → decodeLaneBytes (encode i ++ rest) = .ok (i, rest)

/-- 14 R313, R326: a word that is accepted is the word of the well-formed instruction that it decodes to: two words never
decode to one instruction, and a field that an instruction does not use is zero. R324, R344: words that are refused: a
spine word of major opcode 0 or above 0x1C, a lane word of opcode 0, and words that the spec calls reserved. -/
def Obligations.AcceptedAndRefusedWords : Prop :=
  (∀ (w : Word) (i : Instr), decodeSpine w = .ok i → i.wf = true ∧ i.spineWord? = some w)
  ∧ (∀ (w : BitVec 96) (i : Instr), decodeLane w = .ok i → i.wf = true ∧ ∃ opc o, i.lane? = some (opc, o) ∧ o.word opc = w)
  ∧ (∀ w : Word, (w.extractLsb' 0 6 = 0 ∨ 0x1C < (w.extractLsb' 0 6).toNat) → ∀ i, decodeSpine w ≠ .ok i)
  ∧ (∀ w : Word, w.extractLsb' 0 6 = 0x0F → (w.extractLsb' 24 4).toNat ≥ 0xD → ∀ i, decodeSpine w ≠ .ok i)
  ∧ (∀ w : BitVec 96, w.extractLsb' 0 10 = 0 → ∀ i, decodeLane w ≠ .ok i)
  ∧ ∀ w : BitVec 96, w.extractLsb' 40 2 = 1#2 → w.getLsbD 39 = true → ∀ i, decodeLane w ≠ .ok i

namespace Sys2Proof.Claims

open Sys2Proof Sys2Proof.Machine

/-! ### Words of the statements: steps -/

/-- The squad is about to run a word of its volley: its team runs, no trap is due outside a handler, it has threads or
is in its handler, and it holds an issue slot (06 R142, R147, 13 R297). -/
def atWord (s : State) (q : Squad) : Prop :=
  (teamOf s q.team).runs = true ∧ (q.traps = [] ∨ inHandler q = true ∨ q.wait = .handler)
  ∧ (q.pm ≠ 0 ∨ inHandler q = true ∧ q.leaving = false) ∧ q.held.isSome = true ∧ q.inVolley = true

/-- The word of the squad is given to its slot: it counts as issued now. -/
def given (s0 s : State) (id : Nat) (q : Squad) : State :=
  let s2 := modSquad s id fun q' => { q' with code := mdel q'.code q'.pos.toNat, lastIssue := clk s0 (q.core / 256) }
  { s2 with cores := mset s2.cores q.core { mgetD s2.cores q.core {} with idleSince := clk s0 (q.core / 256) } }

/-- The thread is about to run its word (07 R163). -/
def atSpineWord (s : State) (t : Nat) (sp : Spine) : Prop :=
  sp.live = true ∧ (teamOf s t).runs = true ∧ sp.wait = .none

/-- Nothing is due at its exact clock; the agent is the one whose turn it is with no move waiting, or the one that the
oldest move names. -/
def runs (s s' : State) (a : Agent) : Prop :=
  dueEvent s = none ∧ ((s.moves = [] ∧ s.turn = a ∧ s' = s) ∨ ∃ rest, s.moves = .run a :: rest ∧ s' = { s with moves := rest, turn := a })

/-- The byte that a holder has of an address, if it holds its grain undrained (02 R32). -/
def heldByte (s : State) (h : Holder) (asid : Half) (a : Nat) : Option Byte :=
  match findGrain s h asid a with
  | some g => if g.cnt = .drained then none else some (g.data.getD (a - g.va.toNat) 0)
  | none => none

/-- A holder's grain g holds n bytes of an address, with every sector valid, and is the only one of them that it has. -/
def holdsLine (s : State) (h : Holder) (asid : Half) (va n : Nat) (g : Grain) : Prop :=
  findGrain s h asid va = some g ∧ va + n ≤ g.va.toNat + g.size ∧ g.cnt ≠ .drained ∧ g.lost = 0
  ∧ g.va.toNat % 32 = 0 ∧ g.size % 32 = 0 ∧ g.data.length = g.size
  ∧ ∀ y ∈ s.grains, y.holder = h → y.overlaps asid g.va.toNat g.size = true → y = g

/-- The requester may write those bytes at once: it owns the grain, and no copy has one of them left to write (02 R41). -/
def mayWrite (s : State) (r : Rq) (va n : Nat) (g : Grain) : Prop :=
  ∃ h, r.storeHolder = some h ∧ r.phys = false ∧ holdsLine s h r.asid va n g ∧ g.owned = true ∧ g.waits s r = false

/-- Bytes that a holder has written from an address on; every other byte of a cached line is as it was. -/
def wroteLine (s s' : State) (h : Holder) (asid : Half) (va : Nat) (bs : List Byte) : Prop :=
  ∀ k b a, heldByte s' k b a
    = if k = h ∧ b = asid ∧ va ≤ a ∧ a < va + bs.length then some (bs.getD (a - va) 0) else heldByte s k b a

/-! ### Words of the statements: lane integers -/

/-- Clamped sums and differences. -/
def satAddI {n : Nat} (a b : BitVec n) : BitVec n :=
  if a.toInt + b.toInt < -(2 ^ (n - 1)) then BitVec.ofInt n (-(2 ^ (n - 1)))
  else if 2 ^ (n - 1) ≤ a.toInt + b.toInt then BitVec.ofInt n (2 ^ (n - 1) - 1) else a + b
def satSubI {n : Nat} (a b : BitVec n) : BitVec n :=
  if a.toInt - b.toInt < -(2 ^ (n - 1)) then BitVec.ofInt n (-(2 ^ (n - 1)))
  else if 2 ^ (n - 1) ≤ a.toInt - b.toInt then BitVec.ofInt n (2 ^ (n - 1) - 1) else a - b

/-- A field of n bits of a word from bit p on. -/
def bits32 (a : BitVec 32) (p n : Nat) : BitVec 32 := (a <<< (32 - p - n)) >>> (32 - n)

/-- The 32-bit forms of 16 R377 with their results. -/
def sum32Table : List ((Nat → Nat → Nat → Nat) × (BitVec 32 → BitVec 32 → BitVec 32 → BitVec 32)) :=
  [(fun a b _ => aluAdd .i32 false a b, fun a b _ => a + b), (fun a b _ => aluAdd .n32 false a b, fun a b _ => a + b),
   (fun a b _ => aluAdd .i32 true a b, fun a b _ => satAddI a b),
   (fun a b _ => aluAdd .n32 true a b, fun a b _ => if a + b < a then BitVec.allOnes 32 else a + b),
   (fun a b _ => aluSub .i32 false a b, fun a b _ => a - b), (fun a b _ => aluSub .n32 false a b, fun a b _ => a - b),
   (fun a b _ => aluSub .i32 true a b, fun a b _ => satSubI a b),
   (fun a b _ => aluSub .n32 true a b, fun a b _ => if a < b then 0 else a - b),
   (fun a b c => aluAddx false a b c, fun a b c => a + b + (c &&& 1)),
   (fun a b c => aluAddx true a b c, fun a b c => if 2 ^ 32 ≤ a.toNat + b.toNat + c.toNat % 2 then 1 else 0),
   (fun a b _ => aluMul .i32 a b, fun a b _ => a * b), (fun a b _ => aluMul .n32 a b, fun a b _ => a * b),
   (fun a b _ => aluMulhi .i32 a b, fun a b _ => (a.signExtend 64 * b.signExtend 64).extractLsb' 32 32),
   (fun a b _ => aluMulhi .n32 a b, fun a b _ => (a.setWidth 64 * b.setWidth 64).extractLsb' 32 32),
   (fun a b c => aluMad .i32 a b c, fun a b c => a * b + c), (fun a b c => aluMad .n32 a b c, fun a b c => a * b + c),
   (fun a b _ => aluMinMax .i32 false a b, fun a b _ => if a.sle b then a else b),
   (fun a b _ => aluMinMax .n32 false a b, fun a b _ => if a.ule b then a else b),
   (fun a b _ => aluMinMax .i32 true a b, fun a b _ => if a.sle b then b else a),
   (fun a b _ => aluMinMax .n32 true a b, fun a b _ => if a.ule b then b else a),
   (fun a _ _ => aluAbs .i32 false a, fun a _ _ => if a.msb then -a else a),
   (fun a _ _ => aluAbs .i32 true a, fun a _ _ => if a = 0x80000000 then 0x7FFFFFFF else if a.msb then -a else a)]

/-- The 32-bit forms of 16 R379. -/
def bit32Table : List ((Nat → Nat → Nat → Nat) × (BitVec 32 → BitVec 32 → BitVec 32 → BitVec 32)) :=
  [(fun a b _ => aluAndn 32 a b, fun a b _ => a &&& ~~~b),
   (fun a b _ => aluShl .b32 a b, fun a b _ => a <<< (b.toNat % 32)),
   (fun a b _ => aluShr .b32 a b, fun a b _ => a >>> (b.toNat % 32)),
   (fun a b _ => aluSar .b32 a b, fun a b _ => a.sshiftRight (b.toNat % 32)),
   (fun a b c => aluShf false a b c, fun a b c => ((b ++ a) >>> (c.toNat % 32)).setWidth 32),
   (fun a b c => aluShf true a b c, fun a b c => ((a ++ b) <<< (c.toNat % 32)).extractLsb' 32 32),
   (fun a b _ => aluBfe false a b, fun a b _ =>
      let p := b.toNat % 256
      let n := b.toNat / 256 % 256
      if 32 ≤ p ∨ n = 0 then 0 else bits32 a p (min n (32 - p))),
   (fun a b _ => aluBfe true a b, fun a b _ =>
      let p := b.toNat % 256
      let n := b.toNat / 256 % 256
      if 32 ≤ p ∨ n = 0 then 0 else (a <<< (32 - p - min n (32 - p))).sshiftRight (32 - min n (32 - p))),
   (fun a b c => aluBfi a b c, fun a b c =>
      let p := c.toNat % 256
      let n := c.toNat / 256 % 256
      let m := (BitVec.allOnes 32 >>> (32 - min n (32 - p))) <<< p
      if 32 ≤ p ∨ n = 0 then a else (a &&& ~~~m) ||| ((b <<< p) &&& m)),
   (fun a _ _ => popNat 32 a, fun a _ _ => a.cpop), (fun a _ _ => clzNat 32 a, fun a _ _ => a.clz),
   (fun a _ _ => revNat 32 a, fun a _ _ => a.reverse)]

/-- The 64-bit forms. -/
def int64Table : List ((Nat → Nat → Nat) × (BitVec 64 → BitVec 64 → BitVec 64)) :=
  [(aluAdd .i64 false, fun a b => a + b), (aluAdd .n64 false, fun a b => a + b), (aluAdd .i64 true, satAddI),
   (aluAdd .n64 true, fun a b => if a + b < a then BitVec.allOnes 64 else a + b),
   (aluSub .i64 false, fun a b => a - b), (aluSub .n64 false, fun a b => a - b), (aluSub .i64 true, satSubI),
   (aluSub .n64 true, fun a b => if a < b then 0 else a - b),
   (aluMul .i64, fun a b => a * b), (aluMul .n64, fun a b => a * b),
   (aluMinMax .i64 false, fun a b => if a.sle b then a else b), (aluMinMax .n64 false, fun a b => if a.ule b then a else b),
   (aluMinMax .i64 true, fun a b => if a.sle b then b else a), (aluMinMax .n64 true, fun a b => if a.ule b then b else a),
   (fun a _ => aluAbs .i64 false a, fun a _ => if a.msb then -a else a),
   (aluAndn 64, fun a b => a &&& ~~~b),
   (aluShl .n64, fun a b => a <<< (b.toNat % 64)), (aluShr .n64, fun a b => a >>> (b.toNat % 64)),
   (aluSar .n64, fun a b => a.sshiftRight (b.toNat % 64))]

/-! ### Words of the statements: shared registers -/

/-- The entry after k consuming reads and what they return; none when one of them must wait. -/
def readTimes : Nat → HEntry → Option (HEntry × List Dword)
  | 0, e => some (e, [])
  | k + 1, e =>
    match hTry e .read with
    | none => none
    | some (e', v) => (readTimes k e').map fun r => (r.1, v :: r.2)

/-- The entry after contributions of one operation, type and count; none when one must wait. -/
def contribute (op ty n : Nat) : List Dword → HEntry → Option HEntry
  | [], e => some e
  | x :: xs, e =>
    match hTry e (.acc x op ty n) with
    | none => none
    | some (e', _) => contribute op ty n xs e'

end Sys2Proof.Claims

/-- A step runs what falls due at its exact clock (00 R5); else the event that the oldest move names; else the instruction
that the agent's next word decodes to (14 R320, 07 R163). What accompanies every step is `AroundAStep`. A word that decodes to nothing traps `ILLOP`, and so does a
volley whose word does not agree with its header. Which agent runs next is data of the model (log entry 6). -/
def Obligations.StepRunsDecoded : Prop :=
  (∀ (s : State) (i : Instr) (a : EvArg), dueEvent s = some (i, a) → step s = tickOutcome s (exec i { s with arg := a }))
  ∧ (∀ (s : State) (i : Instr) (a : EvArg) (rest : List Move), dueEvent s = none → s.moves = .event i a :: rest →
    step s = tickOutcome s (exec i { s with moves := rest, arg := a }))
  ∧ (∀ (s s' : State) (id : Nat) (q : Squad) (s1 : State) (bs : List Byte), Claims.runs s s' (.squad id) →
      mget s'.squads id = some q → Claims.atWord s' q → fetchWord s' id q q.pos = (s1, .bytes bs) →
      let w := wordVal bs
      (wordOk (hdrUni q.hdr) (hdrN q.hdr) ((q.pos - q.hpos).toNat / 12) w = true →
        (∀ i, decodeLane w = .ok i → step s = tickOutcome s (exec i (Claims.given s' s1 id q)))
        ∧ (∀ e, decodeLane w = .error e → step s = tickOutcome s (.next (preciseTrap s1 id tIllop q.em w))))
      ∧ (wordOk (hdrUni q.hdr) (hdrN q.hdr) ((q.pos - q.hpos).toNat / 12) w = false →
        step s = tickOutcome s (.next (takeTrap s1 id { code := tIllop, tlm := q.em, tpc := q.hpos, word := q.hdr }))))
  ∧ ∀ (s s' : State) (t : Nat) (sp : Spine) (s1 : State) (bs : List Byte), Claims.runs s s' (.spine t) →
      mget s'.spines t = some sp → Claims.atSpineWord s' t sp → spineFetch s' sp = (s1, .bytes bs) →
      let w : Word := BitVec.ofNat 32 (fieldOf bs 0 4)
      let s2 := modSpine s1 t fun sp => { sp with wait := .none, lastIssue := clk s' (dieOfCluster sp.cluster) }
      (∀ i, decodeSpine w = .ok i → step s = tickOutcome s (exec i s2))
      ∧ (∀ e, decodeSpine w = .error e → step s = tickOutcome s (.next (spineTrap s2 t tIllop (w.setWidth 64))))

/-- What accompanies a step whose waits are not tried again, and after which no thread of the service processor has napped its
time: each die's clock passes by a free number of clocks (01 R16; log entry 8), never past a clock at which a step falls due
(00 R5), and the time base by a free amount, never past a deadline of its own. Beside what settles at the end of the step,
nothing else changes but the ages of squads (06 R147), the counters of clocks in which a codec queue is full (02 R50), and
since when register growth has stalled (06 R156); and nothing settles where no team has a header in memory to keep (06 R143),
no shadow bank to follow (13 R304), no context is closing (05 R115), no grid has ended, no MSI-X message waits (04 R98), no
reduction was issued (18 R454), no merged store could not be written (02 R32; log entry 21), and each access that waits at a
held page is of an agent or operation that is still there (03 R67). -/
def Obligations.AroundAStep : Prop :=
  (∀ s0 s : State,
    let s1 := settle s0 s
    let t := tick s0 s
    (∀ x ∈ s1.squads, x.2.wait.tried = false) → (∀ x ∈ s1.spines, x.2.wait.tried = false) →
    (∀ x ∈ s1.svps, ∀ n, x.2.wait = .nap (some n) → t.timeNs.toNat < n) →
    (∀ d, clk s1 d ≤ clk t d)
    ∧ (∀ d, d < 8 → deadlines s1 = [] → clk t d = clk s1 d + Config.stepClocks (8 * s.freeNo + d))
    ∧ (∀ x ∈ deadlines s1, clk s1 x.1 ≤ x.2.1 → clk t x.1 ≤ x.2.1)
    ∧ (timeDeadlines s1 = [] → t.timeNs = s1.timeNs + BitVec.ofNat 64 (Config.stepNs s.freeNo))
    ∧ (∀ x ∈ timeDeadlines s1, s1.timeNs.toNat ≤ x.1 → t.timeNs.toNat ≤ x.1)
    ∧ t.freeNo = s1.freeNo + 1
    ∧ { t with clocks := s1.clocks, timeNs := s1.timeNs, freeNo := s1.freeNo, dies := s1.dies, squads := s1.squads,
               cores := s1.cores } = s1
    ∧ (∀ id, (mget t.squads id).map (fun q => { q with wonAt := 0 })
        = (mget s1.squads id).map fun q => { q with wonAt := 0 })
    ∧ (∀ c, (mget t.cores c).map (fun x => { x with growSince := [] })
        = (mget s1.cores c).map fun x => { x with growSince := [] })
    ∧ (∀ d, (mget t.dies d).map (fun x => { x with codec := [] }) = (mget s1.dies d).map fun x => { x with codec := [] })
    ∧ ∀ d x y k, mget t.dies d = some x → mget s1.dies d = some y → k ≠ 7 → k ≠ 15 → mget x.codec k = mget y.codec k)
  ∧ ∀ s0 s : State, (∀ x ∈ s.teams, x.2.hdrSlot = none) → s.closing = [] → (∀ x ∈ s.grids, x.2.gone = false) →
      (∀ x ∈ s.psets, x.2.owner = none ∨ x.2.swap.isSome = true) → s.msixWait = [] →
      (∀ x ∈ s.creds, x.old.isSome = true) → (∀ e ∈ s.wc, e.stuck = false) → (∀ h ∈ s.heldAccs, h.stands s = true) →
      settle s0 s = s

/-- 02 R26, 10 R225: memory is bytes. A write changes the bytes written and no other, and memories in canonical form that
read the same are the same. -/
def Obligations.MemoryBytes : Prop :=
  (∀ (m : List Host.Cell) (a : Nat) (b : Byte), Memory.wf m = true →
    ∀ c, memRead (memWrite m a b) c = if c = a then b else memRead m c)
  ∧ (∀ (m : List Host.Cell) (a : Nat) (bs : List Byte), Memory.wf m = true →
    (∀ c, memRead (memWriteN m a bs) c = if a ≤ c ∧ c < a + bs.length then bs.getD (c - a) 0 else memRead m c)
    ∧ memReadN (memWriteN m a bs) a bs.length = bs)
  ∧ ∀ m m' : List Host.Cell, Memory.wf m = true → Memory.wf m' = true → (∀ a, memRead m a = memRead m' a) → m = m'

/-- Every step keeps the canonical form of memory, and of what the persistence domains hold. -/
def Obligations.MemoryStaysCanonical : Prop :=
  ∀ s t : State, Memory.wf s.mem = true → Memory.wf s.durable = true → step s = .next t →
    Memory.wf t.mem = true ∧ Memory.wf t.durable = true

/-- 05 R120, R125, 03 R79, 06 R149, 11 R263, 04 R99: what reset leaves: every byte of memory reads zero (that a wiped byte
reads zero is the model's choice, log entry 1), in canonical form, the registers listed have the reset values of their tables (`OP`, `GTYPE` and
`EXPECT` of a shared register: log entry 11), and nothing is resident. -/
def Obligations.ResetState : Prop :=
  let s := State.reset
  Memory.wf s.mem = true ∧ Memory.wf s.durable = true ∧ (∀ a, memRead s.mem a = 0) ∧ (∀ d, clk s d = 0)
  ∧ s.dev.ready = false ∧ s.dev.rcvact = false ∧ s.dev.rstcause = 1 ∧ s.dev.step = 0x10 ∧ s.dev.lc = 1
  ∧ s.dev.ccbbase = 0 ∧ s.dev.svcerr = 0 ∧ s.dev.svpwdt = 100 ∧ s.dev.rcvCount = 0 ∧ s.dev.rcvLast = 0
  ∧ s.dev.mgmtTail = 0 ∧ s.dev.mgmtHead = 0 ∧ s.dev.mgmtRTail = 0 ∧ s.dev.mgmtRHead = 0
  ∧ (∀ d, (getDie s d).heatctl = 0x00001006 ∧ (getDie s d).hazard = false ∧ (getDie s d).agemax = 4096
      ∧ (getDie s d).fpwin = 65536 ∧ (getDie s d).mewdt = 10 ∧ (getDie s d).hmc = [] ∧ (getDie s d).tlb = []
      ∧ (getDie s d).walks = []
      ∧ (getDie s d).pft = [] ∧ (getDie s d).held = [])
  ∧ s.io.vplTmo = 4 ∧ s.io.vplUp = 0 ∧ s.io.vplDevno = 0 ∧ s.io.klSeq = 0
  ∧ s.squads = [] ∧ s.away = [] ∧ s.spines = [] ∧ s.svps = [] ∧ s.teams = [] ∧ s.grids = [] ∧ s.closing = []
  ∧ s.grains = [] ∧ s.wc = [] ∧ s.reqs = [] ∧ s.asked = [] ∧ s.heldAccs = []
  ∧ ∀ l : HLoc, getH s l = { consumers := 1 }

/-- 07 R163, 15 R345, R347, R355, R356: the frame of the register-only spine instructions. Beside x[D] no register of the
thread changes, and x0 reads zero after every one of them; no control register, no other thread, no squad, no byte of
memory and nothing else of the machine changes. -/
def Obligations.SpineFrames : Prop :=
  (∀ (sp : Spine) (d n : BitVec 6) (v : Dword),
    getX sp 0 = 0 ∧ getX (setX sp d v) n = (if n = 0 then 0 else if n = d then v else getX sp n))
  ∧ ∀ (s : State) (t : Nat) (sp : Spine) (i : Instr) (d : BitVec 6), curSpine s = some (t, sp) →
    ((∃ r ∈ Claims.intTable, ∃ w b a, i = r.1 w b a d) ∨ (∃ r ∈ Claims.intUnTable, ∃ w a, i = r.1 w a d)
      ∨ (∃ r ∈ Claims.immTable, ∃ k a, i = r.1 k a d) ∨ (∃ r ∈ Claims.shiftTable, ∃ n a, i = r.1 n a d)
      ∨ (∃ k, i = .movu k d) ∨ (∃ k, i = .addpc k d) ∨ (∃ k, i = .jl k d)
      ∨ (∃ r ∈ Claims.branchTable, ∃ k b a, i = r.1 k b a ∧ d = 0)) →
    ∃ s' sp', exec i s = .next s' ∧ mget s'.spines t = some sp'
      ∧ (∀ n, n ≠ d → getX sp' n = getX sp n) ∧ getX sp' 0 = 0
      ∧ (sp'.scause, sp'.sepc, sp'.sval, sp'.shand, sp'.sfpmode) = (sp.scause, sp.sepc, sp.sval, sp.shand, sp.sfpmode)
      ∧ (sp'.live, sp'.wait, sp'.team, sp'.cluster) = (sp.live, sp.wait, sp.team, sp.cluster)
      ∧ (∀ u, u ≠ t → mget s'.spines u = mget s.spines u)
      ∧ (∀ a, memRead s'.mem a = memRead s.mem a)
      ∧ { s' with spines := s.spines } = s

/-- 07 R168 to R170, R175, 16 R377 to R392, 06 R147: the frame and the registers of the short-latency lane instructions of
`LaneArithmetic`. In the active lanes the destination takes the instruction's values; in the others it keeps its own. Only
the destination and the last-use sources change among the registers, an unmapped source sets `CSTAT.DEADRD`, and nothing
else of the machine changes but the position. -/
def Obligations.LaneFrames : Prop :=
  ∀ r ∈ Claims.laneTable, ∀ (o : LaneOp) (s : State) (id : Nat) (q : Squad),
    let w := r.2.1 o
    let u := usesOf o w
    let x := Claims.at_ id q (r.1 o) o
    let val (l : Nat) : Nat :=
      r.2.2 s o q l (srcVal q o 0 w.a o.a l) (srcVal q o 0 w.b o.b l) (srcVal q o 0 w.c o.c l)
    Claims.ready s id q o u → hSource o = none → Claims.room s x (valEffect x w.d val) →
    ∃ t q', exec (r.1 o) s = .next t ∧ mget t.squads id = some q'
      -- the destination
      ∧ (∀ idx l, o.dst = .v idx → idx ≠ 255 → x.act ≠ 0 → l < 32 →
          (w.d = 32 → readV q' idx.toNat l = if inMask x.act l then val l % 2 ^ 32 else readV q idx.toNat l)
          ∧ (w.d = 64 → idx ≠ 254 →
              readV q' idx.toNat l = (if inMask x.act l then val l % 2 ^ 32 else readV q idx.toNat l)
              ∧ readV q' (idx.toNat + 1) l
                = if inMask x.act l then val l / 2 ^ 32 % 2 ^ 32 else readV q (idx.toNat + 1) l))
      ∧ (∀ idx l, o.dst = .g idx → lowLane x.act = some l →
          readG q' idx.toNat = BitVec.ofNat 64 (if w.d = 64 then val l else val l % 2 ^ 32))
      -- every other register
      ∧ (∀ n, n ∉ freesOf o w → n ∉ dstVs w.d o.dst → mget q'.v n = mget q.v n)
      ∧ (∀ n, (∀ idx, o.dst = .g idx → n ≠ idx.toNat) → mget q'.g n = mget q.g n)
      ∧ q'.cstat = (if u.vs.any fun n => (mget q.v n).isNone then q.cstat ||| 1 else q.cstat)
      ∧ q'.pos = q.pos + 12
      ∧ { q' with v := q.v, g := q.g, cstat := q.cstat, pos := q.pos, granted := q.granted, arrived := q.arrived,
                  inVolley := q.inVolley, held := q.held, code := q.code } = q
      -- the rest of the machine
      ∧ (∀ k, k ≠ id → mget t.squads k = mget s.squads k)
      ∧ (∀ a, memRead t.mem a = memRead s.mem a)
      ∧ { t with squads := s.squads, pops := s.pops } = s

/-- 16 R377, R379, R385 to R389: the results of the lane integer instructions at 32 and 64 bits, and that the elements of a
packed type do not interact; conversions, packing, dot products and block scales against the exact numbers
(`SpineFloatResults` fixes the rounding that they share). -/
def Obligations.LaneIntegerResults : Prop :=
  (∀ r ∈ Claims.sum32Table ++ Claims.bit32Table, ∀ a b c : BitVec 32, r.1 a.toNat b.toNat c.toNat = (r.2 a b c).toNat)
  ∧ (∀ r ∈ Claims.int64Table, ∀ a b : BitVec 64, r.1 a.toNat b.toNat = (r.2 a b).toNat)
  ∧ (∀ (a b : BitVec 32) (c : BitVec 64),
      aluMadw .i64 a.toNat b.toNat c.toNat = (a.signExtend 64 * b.signExtend 64 + c).toNat
      ∧ aluMadw .n64 a.toNat b.toNat c.toNat = (a.setWidth 64 * b.setWidth 64 + c).toNat
      ∧ ∀ sh : BitVec 3, aluLea true sh.toNat c.toNat a.toNat = (c + (a.signExtend 64 <<< sh.toNat)).toNat
          ∧ aluLea false sh.toNat c.toNat a.toNat = (c + (a.setWidth 64 <<< sh.toNat)).toNat)
  ∧ (∀ (tbl : BitVec 8) (a b c : BitVec 32) (i : Nat), i < 32 →
      (lut3 tbl.toNat a.toNat b.toNat c.toNat).testBit i
        = tbl.getLsbD (4 * (a.getLsbD i).toNat + 2 * (b.getLsbD i).toNat + (c.getLsbD i).toNat))
  ∧ (∀ t ∈ [LType.i16x2, .n16x2, .i8x4, .n8x4], ∀ (sat : Bool) (a b k : Nat), k < 32 / t.elemW →
      let e (x : Nat) : Nat := x / 2 ^ (t.elemW * k) % 2 ^ t.elemW
      let signed (x : Nat) : Int := if t.signed ∧ 2 ^ (t.elemW - 1) ≤ x then (x : Int) - 2 ^ t.elemW else x
      let fit (x : Int) : Int := if sat then max t.minInt (min t.maxInt x) else x
      let low (x : Int) : Nat := (x % 2 ^ t.elemW).toNat
      e (aluAdd t sat a b) = low (fit (signed (e a) + signed (e b)))
      ∧ e (aluSub t sat a b) = low (fit (signed (e a) - signed (e b)))
      ∧ e (aluMul t a b) = e a * e b % 2 ^ t.elemW
      ∧ e (aluMinMax t false a b) = low (min (signed (e a)) (signed (e b)))
      ∧ e (aluMinMax t true a b) = low (max (signed (e a)) (signed (e b)))
      ∧ e (aluAbs t sat a) = low (fit (signed (e a)).natAbs)
      ∧ e (aluShl t a b) = e a * 2 ^ (b % t.elemW) % 2 ^ t.elemW
      ∧ e (aluShr t a b) = e a / 2 ^ (b % t.elemW))
  -- conversions and packing
  ∧ (∀ (r : Rm) (nosat ftz : Bool) (a b c : Nat),
      Claims.converts r nosat ftz a
      ∧ (∀ t ∈ [LType.i16x2, .n16x2, .f16x2, .bf16x2], ∀ u ∈ [LType.i32, .n32, .f32],
          Claims.el t 0 (aluPack2 t u r ftz a b) = convert t u r false ftz a
          ∧ Claims.el t 1 (aluPack2 t u r ftz a b) = convert t u r false ftz b ∧ aluPack2 t u r ftz a b < 2 ^ 32)
      ∧ ∀ t ∈ [LType.i8x4, .n8x4, .e4m3x4, .e5m2x4, .e3m2x4, .e2m3x4, .i4x8, .n4x8, .e2m1x8], ∀ u ∈ [LType.i32, .n32, .f32],
          ∀ q k, k < 32 / t.elemW → Claims.el t k (aluPack4 t u r nosat ftz q a b c)
            = if k = 2 * q then convert t u r nosat ftz a else if k = 2 * q + 1 then convert t u r nosat ftz b
              else Claims.el t k c)
  -- dot products and scales
  ∧ (∀ t ∈ [LType.i8x4, .n8x4, .i4x8, .n4x8], ∀ a b c : Nat,
      aluDot t a b c = (((c : Int) + ∑ k ∈ Finset.range (32 / t.elemW),
        Claims.intOf t (Claims.el t k a) * Claims.intOf t (Claims.el t k b)) % 2 ^ 32).toNat)
  ∧ (∀ t ∈ [LType.e4m3x4, .e5m2x4, .e3m2x4, .e2m3x4, .e2m1x8], ∀ x ∈ Claims.floatTypes, x.1 = t →
      ∀ (r : Rm) (ftz : Bool) (a b c : Nat), c < 2 ^ 32 → Claims.dotted t x.2 r ftz a b c)
  ∧ ∀ (ftz : Bool) (sa sb a : Nat), a < 2 ^ 32 → sa < 256 → sb < 256 → Claims.scaled ftz sa sb a

/-- 07 R166, R168, R174, R176: a long-latency result lands. A register that the operation still owns takes its value; one
that a younger write has remapped keeps its own; the set-flag falls by one; no other register, no memory changes. -/
def Obligations.ResultsLand : Prop :=
  ∀ (s : State) (op : Nat) (p : POp) (q : Squad), mget s.pops op = some p → mget s.squads p.squad = some q →
    let t := landPop s op
    { t with squads := s.squads, pops := s.pops } = s ∧ t.pops = mdel s.pops op
    ∧ ∃ q', mget t.squads p.squad = some q'
      ∧ (∀ idx n i, p.dst = .v idx n → i < p.vals.length →
          mget q'.v (idx + i) = match mget q.v (idx + i) with
            | some r => if r.pend = some op then some { val := p.vals.getD i [] } else some r
            | none => none)
      ∧ (∀ m, (∀ idx n, p.dst = .v idx n → m < idx ∨ idx + p.vals.length ≤ m) →
          (∀ idx n k, p.dst = .vp idx n k → m < idx ∨ idx + p.vals.length ≤ m) → mget q'.v m = mget q.v m)
      ∧ (∀ k, p.dst = .p k → k < q.p.length → ∀ l, l < 32 →
          (q'.p.getD k 0).getLsbD l
            = if p.overP = false ∧ p.lanes.getLsbD l = true then p.pval.getLsbD l else (q.p.getD k 0).getLsbD l)
      ∧ (∀ idx wd, p.dst = .g idx 1 wd → p.lanes ≠ 0 → p.overG = [] → ∀ lo hi, p.vals = [[lo, hi]] →
          readG q' idx = if wd then hi ++ lo else lo.setWidth 64)
      ∧ (∀ f, f < q.f.length → flagCount q' f = if p.flag = some f then flagCount q f - 1 else flagCount q f)
      ∧ (q'.pm, q'.em, q'.pos, q'.tiles, q'.carries) = (q.pm, q.em, q.pos, q.tiles, q.carries)

/-- 13 R292 to R295: a trap of a squad whose team has a handler, none running, when no trap of another squad that waits to
enter arose before the squad's first one: the trap registers, the mode bit, `em`, the record at `TREC` and the position; the
squad's registers, flags, tiles and threads stay. While another squad of the team is in the handler, or entitled to enter
before it, it waits its turn. Without a handler, or raised in it, the trap ends the team. Traps of a team are numbered as they
arrive. -/
def Obligations.SquadTrapEntry : Prop :=
  ∀ (s : State) (id : Nat) (q : Squad) (tm : Team) (tr : Trap),
    mget s.squads id = some q → mget s.teams q.team = some tm →
    let s' := takeTrap s id tr
    let trec := bitsOf tm.thand.toNat 32 19
    let r := ownRank tm q.core
    let first := tm.hwait.find? fun w => w.1 == id || waitsEntry s w.1
    (inHandler q = false → hasHandler s q.team = true → tm.hsq = none → (∀ w, first = some w → w.1 = id) →
      r < tm.segs.length →
      ∃ q' tm' rec, mget s'.squads id = some q' ∧ mget s'.teams q.team = some tm'
        ∧ q'.tcause = tr.code.setWidth 32 ||| (if tr.deferred then 0x100 else 0) ||| 0x200
        ∧ q'.tpc = tr.tpc ∧ q'.tlm = tr.tlm ∧ q'.tem = q.em ∧ q'.em = q.pm
        ∧ q'.pos = tm.thand.setWidth 32 ∧ q'.inVolley = false ∧ q'.held = none ∧ q'.wait = .none
        ∧ (q'.v, q'.g, q'.p, q'.f, q'.pm) = (q.v, q.g, q.p, q.f, q.pm)
        ∧ (q'.tiles, q'.carries, q'.lfm, q'.cstat, q'.fpmode, q'.origin)
            = (q.tiles, q.carries, q.lfm, q.cstat, q.fpmode, q.origin)
        ∧ tm'.hsq = some q.index ∧ tm'.thand = tm.thand
        ∧ tm'.hwait = (tm.hwait.filter fun w => w != (id, tm.trapNo)) ∧ tm'.trapNo = tm.trapNo + 1
        ∧ tm'.seg r = (tm.seg r).write trec rec ∧ (∀ k, k ≠ r → tm'.seg k = tm.seg k)
        -- the record
        ∧ rec.length = 320 ∧ fieldOf rec 0 1 = tr.code.toNat ∧ fieldOf rec 1 1 = (if tr.deferred then 1 else 0)
        ∧ fieldOf rec 2 2 = 0 ∧ fieldOf rec 20 4 = 0 ∧ fieldOf rec 44 20 = 0
        ∧ fieldOf rec 4 4 = tr.tlm.toNat ∧ fieldOf rec 8 4 = q.em.toNat ∧ fieldOf rec 12 4 = tr.tpc.toNat
        ∧ fieldOf rec 16 4 = (if tr.deferred then q.resume else tr.tpc).toNat
        ∧ fieldOf rec 24 8 = tr.aux.toNat ∧ fieldOf rec 32 12 = tr.word.toNat
        ∧ (∀ l, l < 32 → fieldOf rec (64 + 8 * l) 8 = if inMask tr.tlm l then (tr.vals.getD l 0).toNat else 0)
        -- the rest; the order of the team's traps is the model's own record
        ∧ (∀ k, k ≠ id → mget s'.squads k = mget s.squads k)
        ∧ (∀ k, k ≠ q.team → mget s'.teams k = mget s.teams k)
        ∧ { s' with squads := s.squads, teams := s.teams } = inOrder s (q.core / 256) (ordTrap q.team) (q.index + 1) (2 ^ 16))
    ∧ (inHandler q = false → hasHandler s q.team = true →
        (tm.hsq ≠ none ∨ ∃ w, first = some w ∧ w.1 ≠ id) →
      ∃ q' tm', mget s'.squads id = some q' ∧ mget s'.teams q.team = some tm'
        ∧ q'.wait = .handler ∧ q'.held = none ∧ q'.cur = some { tr with arrival := tm.trapNo } ∧ q'.pos = q.pos ∧ q'.em = q.em
        ∧ (q'.v, q'.g, q'.p, q'.f, q'.pm) = (q.v, q.g, q.p, q.f, q.pm)
        ∧ tm'.hwait = tm.hwait ++ [(id, tm.trapNo)] ∧ tm'.hsq = tm.hsq ∧ tm'.segs = tm.segs)
    ∧ (inHandler q = true ∨ hasHandler s q.team = false →
      let s1 := trapArrives s id q 1
      s' = if tr.code = 0x0A then teamLose s1 q.team else teamEnd s1 q.team 1 tr.code.toNat)

/-- 15 R351, R353, 17 R407, R411, 18 R452, 02 R32, R34: the frames of what reads and stores, where the requester's cache
holds the line with every sector valid. A store of a squad, a spine thread or a copy engine that owns its line changes exactly
the bytes from its address on, in that cache alone, and nothing else of the machine; the stores of all lanes of an instruction
change no other bytes than theirs, in whatever order they are made; an atomic on an owned line homed on the requester's die
gives its bytes the new value and returns the old one, and changes no other byte and nothing at home. A spine load changes no
byte anywhere, and a spine store no register. A copy's unit that reaches local store changes exactly its bytes of the
destination's segment (08 R187, R191). -/
def Obligations.LoadAndStoreFrames : Prop :=
  -- a store of bytes into a line that the requester owns
  (∀ (s : State) (r : Rq) (va : Nat) (bs : List Byte) (g : Grain), Claims.mayWrite s r va bs.length g → bs ≠ [] →
    ∃ s' h, storeRange s r va bs = (s', .done) ∧ r.storeHolder = some h
      ∧ Claims.wroteLine s s' h r.asid va bs ∧ { s' with grains := s.grains } = s)
  -- the stores of lanes
  ∧ (∀ (s : State) (r : Rq) (team : Nat) (o : LaneOp) (order : List Nat) (va : Nat → Nat) (data : Nat → List Word),
    let bytes (l : Nat) : List Byte := storeBytes o.ty (data l)
    (∀ l ∈ order, bytes l ≠ [] ∧ ∃ g, Claims.mayWrite s r (va l) (bytes l).length g) →
    ∃ s' ok, laneWalk (fun s l => laneAccess s r team (.st o) (va l) (data l)) order s = (s', ok, [])
      ∧ ok.map (·.1) = order ∧ { s' with grains := s.grains } = s
      ∧ ∀ k b a, (∀ l ∈ order, b = r.asid → ¬ (va l ≤ a ∧ a < va l + (bytes l).length)) →
          Claims.heldByte s' k b a = Claims.heldByte s k b a)
  -- an atomic in the requester's L1
  ∧ (∀ (s s1 : State) (r : Rq) (va n : Nat) (f : List Byte → List Byte) (g : Grain) (t : TInfo),
    r.l1 = true → Claims.mayWrite s r va n g → (∀ old, old.length = n → (f old).length = n) → 0 < n →
    requestFor s r va accAtomic false = (s1, .ok t) → s1.grains = s.grains → t.normal = true →
    let size := leafGrain t.leaf
    engineOwns s r.copy r.asid (va / size * size) size size = false → hostBlocks s true r.asid (va / size * size) size = false →
    g.home / 2 = dieOfCluster r.cluster →
    let old := g.read va n
    ∃ s', atomPiece s r false va n f = (s', .done, old) ∧ Claims.wroteLine s1 s' (.l1 r.cluster) r.asid va (f old)
      ∧ { s' with grains := s1.grains } = s1)
  -- a spine thread's load and store
  ∧ (∀ (s : State) (t : Nat) (sp : Spine) (i : BitVec 10) (z : BitVec 3) (x : Bool) (a d : BitVec 6) (g : Grain),
    curSpine s = some (t, sp) → isSvp sp.team = false → sp.resp = none → z.toNat ≤ 3 →
    let n := 2 ^ z.toNat
    let va := (getX sp a + BitVec.ofNat 64 n * i.signExtend 64).toNat
    let r := rqSpine s sp
    va % n = 0 → mergedWaits s t va n = false → Claims.holdsLine s (.l1 sp.cluster) r.asid va n g → g.waits s r = false →
    (g.rd = true → ∃ s' sp', exec (.spineLd i x z a d) s = .next s' ∧ mget s'.spines t = some sp'
      ∧ (d ≠ 0 → x = false → (getX sp' d).toNat = fieldOf (g.data.drop (va - g.va.toNat)) 0 n)
      ∧ { s' with spines := s.spines } = s)
    ∧ (g.owned = true → (∀ e ∈ s.wc, ¬ (e.asid = r.asid ∧ e.agents.contains (.spine t) = true ∧ e.va.toNat ≤ va ∧ va < e.va.toNat + 512)) →
      ∃ s', exec (.spineSt i z a d) s = .next s'
        ∧ Claims.wroteLine s s' (.l1 sp.cluster) r.asid va (bytesOf n (getX sp d).toNat)
        ∧ (∀ sp', mget s'.spines t = some sp' → ∀ k, getX sp' k = getX sp k)
        ∧ { s' with spines := s.spines, grains := s.grains, teams := s.teams } = s))
  -- a unit of a copy into local store
  ∧ ∀ (s : State) (c : Copy) (tm : Team) (r off : Nat) (bs : List Byte), mget s.teams c.team = some tm → r < tm.segs.length →
    c.arm = none →
    let at_ := off + c.done
    (∀ b ∈ blocksOf at_ bs.length, (tm.seg r).state b ≠ .drained) →
    let s' := unitToLs s c r off bs
    ∃ tm', mget s'.teams c.team = some tm' ∧ { tm' with segs := tm.segs } = tm ∧ (∀ k, k ≠ r → tm'.seg k = tm.seg k)
      ∧ (∀ a, (tm'.seg r).byte a = if at_ ≤ a ∧ a < at_ + bs.length then bs.getD (a - at_) 0 else (tm.seg r).byte a)
      ∧ (∀ k, k ≠ c.team → mget s'.teams k = mget s.teams k) ∧ { s' with teams := s.teams, dies := s.dies } = s

/-- 07 R180: put with a count, read: the value comes back that many times, and then readers wait; a count of 255 never
runs out. Contributions combine in the order of arrival and the last one makes the entry full, with `CONSUMERS` reads.
Whatever the entry's state does not allow waits. -/
def Obligations.SharedRegisterCounts : Prop :=
  (∀ (e : HEntry) (v : Dword) (c k : Nat), e.full = false → e.gather = false → 1 ≤ c → c ≤ 254 →
    ∃ e1, hTry e (.put v c) = some (e1, 0)
      ∧ (k < c → ∃ e2, Claims.readTimes k e1 = some (e2, List.replicate k v)
          ∧ e2.full = true ∧ e2.gather = false ∧ e2.count.toNat = c - k ∧ e2.value = v)
      ∧ (∃ e2, Claims.readTimes c e1 = some (e2, List.replicate c v)
          ∧ e2.full = false ∧ e2.gather = false ∧ e2.count = 0)
      ∧ (c < k → Claims.readTimes k e1 = none))
  ∧ (∀ (e : HEntry) (v : Dword) (k : Nat), e.full = false → e.gather = false →
      ∃ e1, hTry e (.put v 255) = some (e1, 0) ∧ Claims.readTimes k e1 = some (e1, List.replicate k v))
  ∧ (∀ (e : HEntry) (op ty n : Nat) (x : Dword) (xs : List Dword), e.full = false → e.gather = false →
      op ≤ 4 → ty ≤ 4 → n ≤ 1024 → xs.length + 1 ≤ n →
      ∃ e1, Claims.contribute op ty n (x :: xs) e = some e1
        ∧ e1.value = xs.foldl (fun v y => BitVec.ofNat 64 (hCombine op ty v.toNat y.toNat)) x
        ∧ e1.gather = true ∧ e1.recv.toNat = xs.length + 1
        ∧ e1.full = decide (xs.length + 1 = n) ∧ (xs.length + 1 = n → e1.count = e.consumers))
  ∧ ∀ (e : HEntry) (v : Dword) (c op ty n : Nat),
      ((e.full = true ∨ e.gather = true) → hTry e (.put v c) = none)
      ∧ (e.full = false → hTry e .read = none) ∧ (e.full = true → hTry e (.acc v op ty n) = none)
end

