-- ==== Sys2Proof/Laws/Map.lean ====
section
/-! SUPPORT. Laws of finite maps and of the canonical form of memory: every memory operation keeps it. -/

namespace Sys2Proof.Machine

/-! ### One listed entry -/

theorem cond_beq {α : Type} (a b : Nat) (x y : α) : (bif a.beq b then x else y) = if a = b then x else y := by
  cases h : a.beq b
  · rw [if_neg fun e => by simp [e, Nat.beq_refl] at h]; rfl
  · rw [if_pos (Nat.eq_of_beq_eq_true h)]; rfl

theorem cond_blt {α : Type} (a b : Nat) (x y : α) : (bif a.blt b then x else y) = if a < b then x else y := by
  cases h : a.blt b
  · rw [if_neg fun e => by simp [Nat.blt_eq.mpr e] at h]; rfl
  · rw [if_pos (Nat.blt_eq.mp h)]; rfl

theorem mget_cons {α : Type} (k : Nat) (v : α) (m : FMap α) (n : Nat) :
    mget ((k, v) :: m) n = if k = n then some v else mget m n := cond_beq _ _ _ _

theorem mset_cons {α : Type} (k : Nat) (v : α) (m : FMap α) (n : Nat) (x : α) :
    mset ((k, v) :: m) n x = if n < k then (n, x) :: (k, v) :: m else if n = k then (n, x) :: m else (k, v) :: mset m n x := by
  rw [mset, cond_blt, cond_beq]

theorem mdel_cons {α : Type} (k : Nat) (v : α) (m : FMap α) (n : Nat) :
    mdel ((k, v) :: m) n = if k = n then m else (k, v) :: mdel m n := cond_beq _ _ _ _

theorem memRead_cons (k : Nat) (v : Byte) (m : List Host.Cell) (a : Nat) :
    memRead ((k, v) :: m) a = if k = a then v else memRead m a := cond_beq _ _ _ _

theorem memInsert_cons (k : Nat) (v : Byte) (m : List Host.Cell) (a : Nat) (b : Byte) :
    memInsert ((k, v) :: m) a b =
      if a < k then (a, b) :: (k, v) :: m else if a = k then (a, b) :: m else (k, v) :: memInsert m a b := by
  rw [memInsert, cond_blt, cond_beq]

theorem memErase_cons (k : Nat) (v : Byte) (m : List Host.Cell) (a : Nat) :
    memErase ((k, v) :: m) a = if k = a then m else (k, v) :: memErase m a := cond_beq _ _ _ _

/-! ### Finite maps -/

theorem mget_mset_self {α : Type} (m : FMap α) (n : Nat) (x : α) : mget (mset m n x) n = some x := by
  induction m with
  | nil => simp [mset, mget_cons]
  | cons h t ih =>
    obtain ⟨k, v⟩ := h
    by_cases h1 : n < k
    · simp [mset_cons, h1, mget_cons]
    · by_cases h2 : n = k
      · simp [mset_cons, h2, mget_cons]
      · have h3 : ¬ k = n := fun e => h2 e.symm
        simp [mset_cons, h1, h2, h3, mget_cons, ih]

theorem mget_mset_ne {α : Type} (m : FMap α) (n k : Nat) (x : α) (h : k ≠ n) : mget (mset m n x) k = mget m k := by
  induction m with
  | nil =>
    have h' : ¬ n = k := fun e => h e.symm
    simp [mset, mget_cons, h']
  | cons hd t ih =>
    obtain ⟨j, v⟩ := hd
    have h' : ¬ n = k := fun e => h e.symm
    by_cases h1 : n < j
    · simp [mset_cons, h1, mget_cons, h']
    · by_cases h2 : n = j
      · subst h2; simp [mset_cons, mget_cons, h']
      · simp only [mset_cons, h1, h2, mget_cons, if_false]
        by_cases h3 : j = k <;> simp [h3, ih]

theorem mget_mdel_ne {α : Type} (m : FMap α) (n k : Nat) (h : k ≠ n) : mget (mdel m n) k = mget m k := by
  induction m with
  | nil => rfl
  | cons hd t ih =>
    obtain ⟨j, v⟩ := hd
    have h' : ¬ n = k := fun e => h e.symm
    by_cases h1 : j = n
    · subst h1
      simp [mdel_cons, mget_cons, h']
    · by_cases h3 : j = k
      · subst h3
        simp [mdel_cons, h1, mget_cons]
      · simp [mdel_cons, h1, mget_cons, h3, ih]

theorem mget_mmod_ne {α : Type} (m : FMap α) (n k : Nat) (f : α → α) (h : k ≠ n) : mget (mmod m n f) k = mget m k := by
  unfold mmod
  cases mget m n with
  | none => rfl
  | some v => exact mget_mset_ne m n k (f v) h

theorem mget_mmod_self {α : Type} (m : FMap α) (n : Nat) (f : α → α) : mget (mmod m n f) n = (mget m n).map f := by
  unfold mmod
  cases h : mget m n with
  | none => simpa using h
  | some v => simpa using mget_mset_self m n (f v)

/-! ### The canonical form of memory -/

/-- Every listed address is above a bound. -/
def above (a : Nat) (m : List Host.Cell) : Prop := ∀ c ∈ m, a < c.1

theorem Memory.wf_cons (a : Nat) (b : Byte) (m : List Host.Cell) :
    Memory.wf ((a, b) :: m) = true ↔ b ≠ memDefault ∧ above a m ∧ Memory.wf m = true := by
  induction m generalizing a b with
  | nil => simp [Memory.wf, above]
  | cons h t ih =>
    obtain ⟨a', b'⟩ := h
    simp only [Memory.wf, Bool.and_eq_true, bne_iff_ne, ne_eq, decide_eq_true_eq, above, List.mem_cons, forall_eq_or_imp]
    constructor
    · rintro ⟨⟨h1, h2⟩, h3⟩
      exact ⟨h1, ⟨h2, fun c hc => Nat.lt_trans h2 (((ih a' b').mp h3).2.1 c hc)⟩, h3⟩
    · rintro ⟨h1, ⟨h2, _⟩, h3⟩
      exact ⟨⟨h1, h2⟩, h3⟩

theorem above_memInsert {n a : Nat} {b : Byte} {m : List Host.Cell} (h : above n m) (ha : n < a) : above n (memInsert m a b) := by
  induction m with
  | nil => intro c hc; simp [memInsert] at hc; subst hc; exact ha
  | cons hd t ih =>
    obtain ⟨k, v⟩ := hd
    have hk : n < k := h (k, v) (by simp)
    have ht : above n t := fun c hc => h c (List.mem_cons_of_mem _ hc)
    rw [memInsert_cons]
    split
    · intro c hc
      rcases List.mem_cons.mp hc with rfl | hc
      · exact ha
      · exact h c hc
    · split
      · intro c hc
        rcases List.mem_cons.mp hc with rfl | hc
        · exact ha
        · exact ht c hc
      · intro c hc
        rcases List.mem_cons.mp hc with rfl | hc
        · exact hk
        · exact ih ht c hc

theorem memInsert_wf {m : List Host.Cell} {a : Nat} {b : Byte} (h : Memory.wf m = true) (hb : b ≠ memDefault) :
    Memory.wf (memInsert m a b) = true := by
  induction m with
  | nil => simp [memInsert, Memory.wf, hb]
  | cons hd t ih =>
    obtain ⟨k, v⟩ := hd
    obtain ⟨hv, hab, ht⟩ := (Memory.wf_cons k v t).mp h
    rw [memInsert_cons]
    split
    · rename_i hlt
      exact (Memory.wf_cons _ _ _).mpr ⟨hb, fun c hc => by
        rcases List.mem_cons.mp hc with rfl | hc
        · exact hlt
        · exact Nat.lt_trans hlt (hab c hc), h⟩
    · split
      · rename_i h2
        subst h2
        exact (Memory.wf_cons _ _ _).mpr ⟨hb, hab, ht⟩
      · exact (Memory.wf_cons _ _ _).mpr ⟨hv, above_memInsert hab (by omega), ih ht⟩

theorem memErase_sub {m : List Host.Cell} {a : Nat} : ∀ c ∈ memErase m a, c ∈ m := by
  induction m with
  | nil => intro c hc; exact hc
  | cons hd t ih =>
    obtain ⟨k, v⟩ := hd
    intro c hc
    rw [memErase_cons] at hc
    split at hc
    · exact List.mem_cons_of_mem _ hc
    · rcases List.mem_cons.mp hc with rfl | hc
      · exact List.mem_cons_self
      · exact List.mem_cons_of_mem _ (ih c hc)

theorem memErase_wf {m : List Host.Cell} {a : Nat} (h : Memory.wf m = true) : Memory.wf (memErase m a) = true := by
  induction m with
  | nil => rfl
  | cons hd t ih =>
    obtain ⟨k, v⟩ := hd
    obtain ⟨hv, hab, ht⟩ := (Memory.wf_cons k v t).mp h
    rw [memErase_cons]
    split
    · exact ht
    · exact (Memory.wf_cons _ _ _).mpr ⟨hv, fun c hc => hab c (memErase_sub c hc), ih ht⟩

/-- A byte written keeps the canonical form. -/
theorem memWrite_wf {m : List Host.Cell} {a : Nat} {b : Byte} (h : Memory.wf m = true) : Memory.wf (memWrite m a b) = true := by
  unfold memWrite
  split
  · exact memErase_wf h
  · rename_i hb; exact memInsert_wf h hb

/-- Bytes written keep it. -/
theorem memWriteN_wf {m : List Host.Cell} {a : Nat} {bs : List Byte} (h : Memory.wf m = true) :
    Memory.wf (memWriteN m a bs) = true := by
  induction bs generalizing m a with
  | nil => exact h
  | cons b bs ih => exact ih (memWrite_wf h)

/-- Sectors of a grain written back keep it. -/
theorem flushSectors_wf {m : List Host.Cell} {pa dirty i n : Nat} {data : List Byte} (h : Memory.wf m = true) :
    Memory.wf (flushSectors m pa dirty i data n) = true := by
  induction n generalizing m i with
  | zero => exact h
  | succ n ih =>
    unfold flushSectors
    apply ih
    split
    · exact memWriteN_wf h
    · exact h

/-- A block stored through a view page keeps it. -/
theorem mxStoreBlock_wf {m : List Host.Cell} {frame b off : Nat} {bs : List Byte} (h : Memory.wf m = true) :
    Memory.wf (mxStoreBlock m frame b off bs).1 = true := memWriteN_wf (memWrite_wf h)

/-- Filtering keeps it: what a wipe leaves, and what the persistence domains hold. -/
theorem filter_wf {m : List Host.Cell} {p : Host.Cell → Bool} (h : Memory.wf m = true) : Memory.wf (m.filter p) = true := by
  induction m with
  | nil => rfl
  | cons hd t ih =>
    obtain ⟨k, v⟩ := hd
    obtain ⟨hv, hab, ht⟩ := (Memory.wf_cons k v t).mp h
    simp only [List.filter_cons]
    split
    · exact (Memory.wf_cons _ _ _).mpr ⟨hv, fun c hc => hab c (List.mem_filter.mp hc).1, ih ht⟩
    · exact ih ht

end Sys2Proof.Machine
end

