-- ==== Sys2Proof/Laws/State.lean ====
section
/-! SUPPORT. What each update of the state leaves alone, field by field, and what it writes. -/

namespace Sys2Proof.Machine

/-! ### modTeam -/

@[simp] theorem modTeam_moves (s : State) (id : Nat) (f : Team → Team) : (modTeam s id f).moves = s.moves := rfl
@[simp] theorem modTeam_turn (s : State) (id : Nat) (f : Team → Team) : (modTeam s id f).turn = s.turn := rfl
@[simp] theorem modTeam_arg (s : State) (id : Nat) (f : Team → Team) : (modTeam s id f).arg = s.arg := rfl
@[simp] theorem modTeam_freeNo (s : State) (id : Nat) (f : Team → Team) : (modTeam s id f).freeNo = s.freeNo := rfl
@[simp] theorem modTeam_nextId (s : State) (id : Nat) (f : Team → Team) : (modTeam s id f).nextId = s.nextId := rfl
@[simp] theorem modTeam_outs (s : State) (id : Nat) (f : Team → Team) : (modTeam s id f).outs = s.outs := rfl
@[simp] theorem modTeam_resets (s : State) (id : Nat) (f : Team → Team) : (modTeam s id f).resets = s.resets := rfl
@[simp] theorem modTeam_clocks (s : State) (id : Nat) (f : Team → Team) : (modTeam s id f).clocks = s.clocks := rfl
@[simp] theorem modTeam_timeNs (s : State) (id : Nat) (f : Team → Team) : (modTeam s id f).timeNs = s.timeNs := rfl
@[simp] theorem modTeam_boost (s : State) (id : Nat) (f : Team → Team) : (modTeam s id f).boost = s.boost := rfl
@[simp] theorem modTeam_throttle (s : State) (id : Nat) (f : Team → Team) : (modTeam s id f).throttle = s.throttle := rfl
@[simp] theorem modTeam_pwrLimit (s : State) (id : Nat) (f : Team → Team) : (modTeam s id f).pwrLimit = s.pwrLimit := rfl
@[simp] theorem modTeam_mem (s : State) (id : Nat) (f : Team → Team) : (modTeam s id f).mem = s.mem := rfl
@[simp] theorem modTeam_dev (s : State) (id : Nat) (f : Team → Team) : (modTeam s id f).dev = s.dev := rfl
@[simp] theorem modTeam_dies (s : State) (id : Nat) (f : Team → Team) : (modTeam s id f).dies = s.dies := rfl
@[simp] theorem modTeam_io (s : State) (id : Nat) (f : Team → Team) : (modTeam s id f).io = s.io := rfl
@[simp] theorem modTeam_grains (s : State) (id : Nat) (f : Team → Team) : (modTeam s id f).grains = s.grains := rfl
@[simp] theorem modTeam_wc (s : State) (id : Nat) (f : Team → Team) : (modTeam s id f).wc = s.wc := rfl
@[simp] theorem modTeam_announces (s : State) (id : Nat) (f : Team → Team) : (modTeam s id f).announces = s.announces := rfl
@[simp] theorem modTeam_reqs (s : State) (id : Nat) (f : Team → Team) : (modTeam s id f).reqs = s.reqs := rfl
@[simp] theorem modTeam_psets (s : State) (id : Nat) (f : Team → Team) : (modTeam s id f).psets = s.psets := rfl
@[simp] theorem modTeam_grids (s : State) (id : Nat) (f : Team → Team) : (modTeam s id f).grids = s.grids := rfl
@[simp] theorem modTeam_squads (s : State) (id : Nat) (f : Team → Team) : (modTeam s id f).squads = s.squads := rfl
@[simp] theorem modTeam_away (s : State) (id : Nat) (f : Team → Team) : (modTeam s id f).away = s.away := rfl
@[simp] theorem modTeam_spines (s : State) (id : Nat) (f : Team → Team) : (modTeam s id f).spines = s.spines := rfl
@[simp] theorem modTeam_clusters (s : State) (id : Nat) (f : Team → Team) : (modTeam s id f).clusters = s.clusters := rfl
@[simp] theorem modTeam_cores (s : State) (id : Nat) (f : Team → Team) : (modTeam s id f).cores = s.cores := rfl
@[simp] theorem modTeam_pops (s : State) (id : Nat) (f : Team → Team) : (modTeam s id f).pops = s.pops := rfl
@[simp] theorem modTeam_mops (s : State) (id : Nat) (f : Team → Team) : (modTeam s id f).mops = s.mops := rfl
@[simp] theorem modTeam_copies (s : State) (id : Nat) (f : Team → Team) : (modTeam s id f).copies = s.copies := rfl
@[simp] theorem modTeam_creds (s : State) (id : Nat) (f : Team → Team) : (modTeam s id f).creds = s.creds := rfl
@[simp] theorem modTeam_rgroups (s : State) (id : Nat) (f : Team → Team) : (modTeam s id f).rgroups = s.rgroups := rfl
@[simp] theorem modTeam_dpush (s : State) (id : Nat) (f : Team → Team) : (modTeam s id f).dpush = s.dpush := rfl
@[simp] theorem modTeam_resvs (s : State) (id : Nat) (f : Team → Team) : (modTeam s id f).resvs = s.resvs := rfl
@[simp] theorem modTeam_svps (s : State) (id : Nat) (f : Team → Team) : (modTeam s id f).svps = s.svps := rfl
@[simp] theorem modTeam_svcAwake (s : State) (id : Nat) (f : Team → Team) : (modTeam s id f).svcAwake = s.svcAwake := rfl
@[simp] theorem modTeam_svpFrozen (s : State) (id : Nat) (f : Team → Team) : (modTeam s id f).svpFrozen = s.svpFrozen := rfl
@[simp] theorem modTeam_svqMap (s : State) (id : Nat) (f : Team → Team) : (modTeam s id f).svqMap = s.svqMap := rfl
@[simp] theorem modTeam_heldAccs (s : State) (id : Nat) (f : Team → Team) : (modTeam s id f).heldAccs = s.heldAccs := rfl
@[simp] theorem modTeam_asked (s : State) (id : Nat) (f : Team → Team) : (modTeam s id f).asked = s.asked := rfl
@[simp] theorem modTeam_pfences (s : State) (id : Nat) (f : Team → Team) : (modTeam s id f).pfences = s.pfences := rfl
@[simp] theorem modTeam_launchers (s : State) (id : Nat) (f : Team → Team) : (modTeam s id f).launchers = s.launchers := rfl
@[simp] theorem modTeam_replay (s : State) (id : Nat) (f : Team → Team) : (modTeam s id f).replay = s.replay := rfl
@[simp] theorem modTeam_ctxBlocks (s : State) (id : Nat) (f : Team → Team) : (modTeam s id f).ctxBlocks = s.ctxBlocks := rfl
@[simp] theorem modTeam_closing (s : State) (id : Nat) (f : Team → Team) : (modTeam s id f).closing = s.closing := rfl
@[simp] theorem modTeam_svpWait (s : State) (id : Nat) (f : Team → Team) : (modTeam s id f).svpWait = s.svpWait := rfl
@[simp] theorem modTeam_durable (s : State) (id : Nat) (f : Team → Team) : (modTeam s id f).durable = s.durable := rfl
@[simp] theorem modTeam_msixHead (s : State) (id : Nat) (f : Team → Team) : (modTeam s id f).msixHead = s.msixHead := rfl
@[simp] theorem modTeam_msixWait (s : State) (id : Nat) (f : Team → Team) : (modTeam s id f).msixWait = s.msixWait := rfl

/-! ### modSpine -/

@[simp] theorem modSpine_moves (s : State) (t : Nat) (f : Spine → Spine) : (modSpine s t f).moves = s.moves := rfl
@[simp] theorem modSpine_turn (s : State) (t : Nat) (f : Spine → Spine) : (modSpine s t f).turn = s.turn := rfl
@[simp] theorem modSpine_arg (s : State) (t : Nat) (f : Spine → Spine) : (modSpine s t f).arg = s.arg := rfl
@[simp] theorem modSpine_freeNo (s : State) (t : Nat) (f : Spine → Spine) : (modSpine s t f).freeNo = s.freeNo := rfl
@[simp] theorem modSpine_nextId (s : State) (t : Nat) (f : Spine → Spine) : (modSpine s t f).nextId = s.nextId := rfl
@[simp] theorem modSpine_outs (s : State) (t : Nat) (f : Spine → Spine) : (modSpine s t f).outs = s.outs := rfl
@[simp] theorem modSpine_resets (s : State) (t : Nat) (f : Spine → Spine) : (modSpine s t f).resets = s.resets := rfl
@[simp] theorem modSpine_clocks (s : State) (t : Nat) (f : Spine → Spine) : (modSpine s t f).clocks = s.clocks := rfl
@[simp] theorem modSpine_timeNs (s : State) (t : Nat) (f : Spine → Spine) : (modSpine s t f).timeNs = s.timeNs := rfl
@[simp] theorem modSpine_boost (s : State) (t : Nat) (f : Spine → Spine) : (modSpine s t f).boost = s.boost := rfl
@[simp] theorem modSpine_throttle (s : State) (t : Nat) (f : Spine → Spine) : (modSpine s t f).throttle = s.throttle := rfl
@[simp] theorem modSpine_pwrLimit (s : State) (t : Nat) (f : Spine → Spine) : (modSpine s t f).pwrLimit = s.pwrLimit := rfl
@[simp] theorem modSpine_mem (s : State) (t : Nat) (f : Spine → Spine) : (modSpine s t f).mem = s.mem := rfl
@[simp] theorem modSpine_dev (s : State) (t : Nat) (f : Spine → Spine) : (modSpine s t f).dev = s.dev := rfl
@[simp] theorem modSpine_dies (s : State) (t : Nat) (f : Spine → Spine) : (modSpine s t f).dies = s.dies := rfl
@[simp] theorem modSpine_io (s : State) (t : Nat) (f : Spine → Spine) : (modSpine s t f).io = s.io := rfl
@[simp] theorem modSpine_grains (s : State) (t : Nat) (f : Spine → Spine) : (modSpine s t f).grains = s.grains := rfl
@[simp] theorem modSpine_wc (s : State) (t : Nat) (f : Spine → Spine) : (modSpine s t f).wc = s.wc := rfl
@[simp] theorem modSpine_announces (s : State) (t : Nat) (f : Spine → Spine) : (modSpine s t f).announces = s.announces := rfl
@[simp] theorem modSpine_reqs (s : State) (t : Nat) (f : Spine → Spine) : (modSpine s t f).reqs = s.reqs := rfl
@[simp] theorem modSpine_psets (s : State) (t : Nat) (f : Spine → Spine) : (modSpine s t f).psets = s.psets := rfl
@[simp] theorem modSpine_grids (s : State) (t : Nat) (f : Spine → Spine) : (modSpine s t f).grids = s.grids := rfl
@[simp] theorem modSpine_teams (s : State) (t : Nat) (f : Spine → Spine) : (modSpine s t f).teams = s.teams := rfl
@[simp] theorem modSpine_squads (s : State) (t : Nat) (f : Spine → Spine) : (modSpine s t f).squads = s.squads := rfl
@[simp] theorem modSpine_away (s : State) (t : Nat) (f : Spine → Spine) : (modSpine s t f).away = s.away := rfl
@[simp] theorem modSpine_clusters (s : State) (t : Nat) (f : Spine → Spine) : (modSpine s t f).clusters = s.clusters := rfl
@[simp] theorem modSpine_cores (s : State) (t : Nat) (f : Spine → Spine) : (modSpine s t f).cores = s.cores := rfl
@[simp] theorem modSpine_pops (s : State) (t : Nat) (f : Spine → Spine) : (modSpine s t f).pops = s.pops := rfl
@[simp] theorem modSpine_mops (s : State) (t : Nat) (f : Spine → Spine) : (modSpine s t f).mops = s.mops := rfl
@[simp] theorem modSpine_copies (s : State) (t : Nat) (f : Spine → Spine) : (modSpine s t f).copies = s.copies := rfl
@[simp] theorem modSpine_creds (s : State) (t : Nat) (f : Spine → Spine) : (modSpine s t f).creds = s.creds := rfl
@[simp] theorem modSpine_rgroups (s : State) (t : Nat) (f : Spine → Spine) : (modSpine s t f).rgroups = s.rgroups := rfl
@[simp] theorem modSpine_dpush (s : State) (t : Nat) (f : Spine → Spine) : (modSpine s t f).dpush = s.dpush := rfl
@[simp] theorem modSpine_resvs (s : State) (t : Nat) (f : Spine → Spine) : (modSpine s t f).resvs = s.resvs := rfl
@[simp] theorem modSpine_svps (s : State) (t : Nat) (f : Spine → Spine) : (modSpine s t f).svps = s.svps := rfl
@[simp] theorem modSpine_svcAwake (s : State) (t : Nat) (f : Spine → Spine) : (modSpine s t f).svcAwake = s.svcAwake := rfl
@[simp] theorem modSpine_svpFrozen (s : State) (t : Nat) (f : Spine → Spine) : (modSpine s t f).svpFrozen = s.svpFrozen := rfl
@[simp] theorem modSpine_svqMap (s : State) (t : Nat) (f : Spine → Spine) : (modSpine s t f).svqMap = s.svqMap := rfl
@[simp] theorem modSpine_heldAccs (s : State) (t : Nat) (f : Spine → Spine) : (modSpine s t f).heldAccs = s.heldAccs := rfl
@[simp] theorem modSpine_asked (s : State) (t : Nat) (f : Spine → Spine) : (modSpine s t f).asked = s.asked := rfl
@[simp] theorem modSpine_pfences (s : State) (t : Nat) (f : Spine → Spine) : (modSpine s t f).pfences = s.pfences := rfl
@[simp] theorem modSpine_launchers (s : State) (t : Nat) (f : Spine → Spine) : (modSpine s t f).launchers = s.launchers := rfl
@[simp] theorem modSpine_replay (s : State) (t : Nat) (f : Spine → Spine) : (modSpine s t f).replay = s.replay := rfl
@[simp] theorem modSpine_ctxBlocks (s : State) (t : Nat) (f : Spine → Spine) : (modSpine s t f).ctxBlocks = s.ctxBlocks := rfl
@[simp] theorem modSpine_closing (s : State) (t : Nat) (f : Spine → Spine) : (modSpine s t f).closing = s.closing := rfl
@[simp] theorem modSpine_svpWait (s : State) (t : Nat) (f : Spine → Spine) : (modSpine s t f).svpWait = s.svpWait := rfl
@[simp] theorem modSpine_durable (s : State) (t : Nat) (f : Spine → Spine) : (modSpine s t f).durable = s.durable := rfl
@[simp] theorem modSpine_msixHead (s : State) (t : Nat) (f : Spine → Spine) : (modSpine s t f).msixHead = s.msixHead := rfl
@[simp] theorem modSpine_msixWait (s : State) (t : Nat) (f : Spine → Spine) : (modSpine s t f).msixWait = s.msixWait := rfl

/-! ### modCluster -/

@[simp] theorem modCluster_moves (s : State) (c : Nat) (f : Cluster → Cluster) : (modCluster s c f).moves = s.moves := rfl
@[simp] theorem modCluster_turn (s : State) (c : Nat) (f : Cluster → Cluster) : (modCluster s c f).turn = s.turn := rfl
@[simp] theorem modCluster_arg (s : State) (c : Nat) (f : Cluster → Cluster) : (modCluster s c f).arg = s.arg := rfl
@[simp] theorem modCluster_freeNo (s : State) (c : Nat) (f : Cluster → Cluster) : (modCluster s c f).freeNo = s.freeNo := rfl
@[simp] theorem modCluster_nextId (s : State) (c : Nat) (f : Cluster → Cluster) : (modCluster s c f).nextId = s.nextId := rfl
@[simp] theorem modCluster_outs (s : State) (c : Nat) (f : Cluster → Cluster) : (modCluster s c f).outs = s.outs := rfl
@[simp] theorem modCluster_resets (s : State) (c : Nat) (f : Cluster → Cluster) : (modCluster s c f).resets = s.resets := rfl
@[simp] theorem modCluster_clocks (s : State) (c : Nat) (f : Cluster → Cluster) : (modCluster s c f).clocks = s.clocks := rfl
@[simp] theorem modCluster_timeNs (s : State) (c : Nat) (f : Cluster → Cluster) : (modCluster s c f).timeNs = s.timeNs := rfl
@[simp] theorem modCluster_boost (s : State) (c : Nat) (f : Cluster → Cluster) : (modCluster s c f).boost = s.boost := rfl
@[simp] theorem modCluster_throttle (s : State) (c : Nat) (f : Cluster → Cluster) : (modCluster s c f).throttle = s.throttle := rfl
@[simp] theorem modCluster_pwrLimit (s : State) (c : Nat) (f : Cluster → Cluster) : (modCluster s c f).pwrLimit = s.pwrLimit := rfl
@[simp] theorem modCluster_mem (s : State) (c : Nat) (f : Cluster → Cluster) : (modCluster s c f).mem = s.mem := rfl
@[simp] theorem modCluster_dev (s : State) (c : Nat) (f : Cluster → Cluster) : (modCluster s c f).dev = s.dev := rfl
@[simp] theorem modCluster_dies (s : State) (c : Nat) (f : Cluster → Cluster) : (modCluster s c f).dies = s.dies := rfl
@[simp] theorem modCluster_io (s : State) (c : Nat) (f : Cluster → Cluster) : (modCluster s c f).io = s.io := rfl
@[simp] theorem modCluster_grains (s : State) (c : Nat) (f : Cluster → Cluster) : (modCluster s c f).grains = s.grains := rfl
@[simp] theorem modCluster_wc (s : State) (c : Nat) (f : Cluster → Cluster) : (modCluster s c f).wc = s.wc := rfl
@[simp] theorem modCluster_announces (s : State) (c : Nat) (f : Cluster → Cluster) : (modCluster s c f).announces = s.announces := rfl
@[simp] theorem modCluster_reqs (s : State) (c : Nat) (f : Cluster → Cluster) : (modCluster s c f).reqs = s.reqs := rfl
@[simp] theorem modCluster_psets (s : State) (c : Nat) (f : Cluster → Cluster) : (modCluster s c f).psets = s.psets := rfl
@[simp] theorem modCluster_grids (s : State) (c : Nat) (f : Cluster → Cluster) : (modCluster s c f).grids = s.grids := rfl
@[simp] theorem modCluster_teams (s : State) (c : Nat) (f : Cluster → Cluster) : (modCluster s c f).teams = s.teams := rfl
@[simp] theorem modCluster_squads (s : State) (c : Nat) (f : Cluster → Cluster) : (modCluster s c f).squads = s.squads := rfl
@[simp] theorem modCluster_away (s : State) (c : Nat) (f : Cluster → Cluster) : (modCluster s c f).away = s.away := rfl
@[simp] theorem modCluster_spines (s : State) (c : Nat) (f : Cluster → Cluster) : (modCluster s c f).spines = s.spines := rfl
@[simp] theorem modCluster_cores (s : State) (c : Nat) (f : Cluster → Cluster) : (modCluster s c f).cores = s.cores := rfl
@[simp] theorem modCluster_pops (s : State) (c : Nat) (f : Cluster → Cluster) : (modCluster s c f).pops = s.pops := rfl
@[simp] theorem modCluster_mops (s : State) (c : Nat) (f : Cluster → Cluster) : (modCluster s c f).mops = s.mops := rfl
@[simp] theorem modCluster_copies (s : State) (c : Nat) (f : Cluster → Cluster) : (modCluster s c f).copies = s.copies := rfl
@[simp] theorem modCluster_creds (s : State) (c : Nat) (f : Cluster → Cluster) : (modCluster s c f).creds = s.creds := rfl
@[simp] theorem modCluster_rgroups (s : State) (c : Nat) (f : Cluster → Cluster) : (modCluster s c f).rgroups = s.rgroups := rfl
@[simp] theorem modCluster_dpush (s : State) (c : Nat) (f : Cluster → Cluster) : (modCluster s c f).dpush = s.dpush := rfl
@[simp] theorem modCluster_resvs (s : State) (c : Nat) (f : Cluster → Cluster) : (modCluster s c f).resvs = s.resvs := rfl
@[simp] theorem modCluster_svps (s : State) (c : Nat) (f : Cluster → Cluster) : (modCluster s c f).svps = s.svps := rfl
@[simp] theorem modCluster_svcAwake (s : State) (c : Nat) (f : Cluster → Cluster) : (modCluster s c f).svcAwake = s.svcAwake := rfl
@[simp] theorem modCluster_svpFrozen (s : State) (c : Nat) (f : Cluster → Cluster) : (modCluster s c f).svpFrozen = s.svpFrozen := rfl
@[simp] theorem modCluster_svqMap (s : State) (c : Nat) (f : Cluster → Cluster) : (modCluster s c f).svqMap = s.svqMap := rfl
@[simp] theorem modCluster_heldAccs (s : State) (c : Nat) (f : Cluster → Cluster) : (modCluster s c f).heldAccs = s.heldAccs := rfl
@[simp] theorem modCluster_asked (s : State) (c : Nat) (f : Cluster → Cluster) : (modCluster s c f).asked = s.asked := rfl
@[simp] theorem modCluster_pfences (s : State) (c : Nat) (f : Cluster → Cluster) : (modCluster s c f).pfences = s.pfences := rfl
@[simp] theorem modCluster_launchers (s : State) (c : Nat) (f : Cluster → Cluster) : (modCluster s c f).launchers = s.launchers := rfl
@[simp] theorem modCluster_replay (s : State) (c : Nat) (f : Cluster → Cluster) : (modCluster s c f).replay = s.replay := rfl
@[simp] theorem modCluster_ctxBlocks (s : State) (c : Nat) (f : Cluster → Cluster) : (modCluster s c f).ctxBlocks = s.ctxBlocks := rfl
@[simp] theorem modCluster_closing (s : State) (c : Nat) (f : Cluster → Cluster) : (modCluster s c f).closing = s.closing := rfl
@[simp] theorem modCluster_svpWait (s : State) (c : Nat) (f : Cluster → Cluster) : (modCluster s c f).svpWait = s.svpWait := rfl
@[simp] theorem modCluster_durable (s : State) (c : Nat) (f : Cluster → Cluster) : (modCluster s c f).durable = s.durable := rfl
@[simp] theorem modCluster_msixHead (s : State) (c : Nat) (f : Cluster → Cluster) : (modCluster s c f).msixHead = s.msixHead := rfl
@[simp] theorem modCluster_msixWait (s : State) (c : Nat) (f : Cluster → Cluster) : (modCluster s c f).msixWait = s.msixWait := rfl

/-! ### modSeg -/

@[simp] theorem modSeg_moves (s : State) (team r : Nat) (f : Segment → Segment) : (modSeg s team r f).moves = s.moves := rfl
@[simp] theorem modSeg_turn (s : State) (team r : Nat) (f : Segment → Segment) : (modSeg s team r f).turn = s.turn := rfl
@[simp] theorem modSeg_arg (s : State) (team r : Nat) (f : Segment → Segment) : (modSeg s team r f).arg = s.arg := rfl
@[simp] theorem modSeg_freeNo (s : State) (team r : Nat) (f : Segment → Segment) : (modSeg s team r f).freeNo = s.freeNo := rfl
@[simp] theorem modSeg_nextId (s : State) (team r : Nat) (f : Segment → Segment) : (modSeg s team r f).nextId = s.nextId := rfl
@[simp] theorem modSeg_outs (s : State) (team r : Nat) (f : Segment → Segment) : (modSeg s team r f).outs = s.outs := rfl
@[simp] theorem modSeg_resets (s : State) (team r : Nat) (f : Segment → Segment) : (modSeg s team r f).resets = s.resets := rfl
@[simp] theorem modSeg_clocks (s : State) (team r : Nat) (f : Segment → Segment) : (modSeg s team r f).clocks = s.clocks := rfl
@[simp] theorem modSeg_timeNs (s : State) (team r : Nat) (f : Segment → Segment) : (modSeg s team r f).timeNs = s.timeNs := rfl
@[simp] theorem modSeg_boost (s : State) (team r : Nat) (f : Segment → Segment) : (modSeg s team r f).boost = s.boost := rfl
@[simp] theorem modSeg_throttle (s : State) (team r : Nat) (f : Segment → Segment) : (modSeg s team r f).throttle = s.throttle := rfl
@[simp] theorem modSeg_pwrLimit (s : State) (team r : Nat) (f : Segment → Segment) : (modSeg s team r f).pwrLimit = s.pwrLimit := rfl
@[simp] theorem modSeg_mem (s : State) (team r : Nat) (f : Segment → Segment) : (modSeg s team r f).mem = s.mem := rfl
@[simp] theorem modSeg_dev (s : State) (team r : Nat) (f : Segment → Segment) : (modSeg s team r f).dev = s.dev := rfl
@[simp] theorem modSeg_dies (s : State) (team r : Nat) (f : Segment → Segment) : (modSeg s team r f).dies = s.dies := rfl
@[simp] theorem modSeg_io (s : State) (team r : Nat) (f : Segment → Segment) : (modSeg s team r f).io = s.io := rfl
@[simp] theorem modSeg_grains (s : State) (team r : Nat) (f : Segment → Segment) : (modSeg s team r f).grains = s.grains := rfl
@[simp] theorem modSeg_wc (s : State) (team r : Nat) (f : Segment → Segment) : (modSeg s team r f).wc = s.wc := rfl
@[simp] theorem modSeg_announces (s : State) (team r : Nat) (f : Segment → Segment) : (modSeg s team r f).announces = s.announces := rfl
@[simp] theorem modSeg_reqs (s : State) (team r : Nat) (f : Segment → Segment) : (modSeg s team r f).reqs = s.reqs := rfl
@[simp] theorem modSeg_psets (s : State) (team r : Nat) (f : Segment → Segment) : (modSeg s team r f).psets = s.psets := rfl
@[simp] theorem modSeg_grids (s : State) (team r : Nat) (f : Segment → Segment) : (modSeg s team r f).grids = s.grids := rfl
@[simp] theorem modSeg_squads (s : State) (team r : Nat) (f : Segment → Segment) : (modSeg s team r f).squads = s.squads := rfl
@[simp] theorem modSeg_away (s : State) (team r : Nat) (f : Segment → Segment) : (modSeg s team r f).away = s.away := rfl
@[simp] theorem modSeg_spines (s : State) (team r : Nat) (f : Segment → Segment) : (modSeg s team r f).spines = s.spines := rfl
@[simp] theorem modSeg_clusters (s : State) (team r : Nat) (f : Segment → Segment) : (modSeg s team r f).clusters = s.clusters := rfl
@[simp] theorem modSeg_cores (s : State) (team r : Nat) (f : Segment → Segment) : (modSeg s team r f).cores = s.cores := rfl
@[simp] theorem modSeg_pops (s : State) (team r : Nat) (f : Segment → Segment) : (modSeg s team r f).pops = s.pops := rfl
@[simp] theorem modSeg_mops (s : State) (team r : Nat) (f : Segment → Segment) : (modSeg s team r f).mops = s.mops := rfl
@[simp] theorem modSeg_copies (s : State) (team r : Nat) (f : Segment → Segment) : (modSeg s team r f).copies = s.copies := rfl
@[simp] theorem modSeg_creds (s : State) (team r : Nat) (f : Segment → Segment) : (modSeg s team r f).creds = s.creds := rfl
@[simp] theorem modSeg_rgroups (s : State) (team r : Nat) (f : Segment → Segment) : (modSeg s team r f).rgroups = s.rgroups := rfl
@[simp] theorem modSeg_dpush (s : State) (team r : Nat) (f : Segment → Segment) : (modSeg s team r f).dpush = s.dpush := rfl
@[simp] theorem modSeg_resvs (s : State) (team r : Nat) (f : Segment → Segment) : (modSeg s team r f).resvs = s.resvs := rfl
@[simp] theorem modSeg_svps (s : State) (team r : Nat) (f : Segment → Segment) : (modSeg s team r f).svps = s.svps := rfl
@[simp] theorem modSeg_svcAwake (s : State) (team r : Nat) (f : Segment → Segment) : (modSeg s team r f).svcAwake = s.svcAwake := rfl
@[simp] theorem modSeg_svpFrozen (s : State) (team r : Nat) (f : Segment → Segment) : (modSeg s team r f).svpFrozen = s.svpFrozen := rfl
@[simp] theorem modSeg_svqMap (s : State) (team r : Nat) (f : Segment → Segment) : (modSeg s team r f).svqMap = s.svqMap := rfl
@[simp] theorem modSeg_heldAccs (s : State) (team r : Nat) (f : Segment → Segment) : (modSeg s team r f).heldAccs = s.heldAccs := rfl
@[simp] theorem modSeg_asked (s : State) (team r : Nat) (f : Segment → Segment) : (modSeg s team r f).asked = s.asked := rfl
@[simp] theorem modSeg_pfences (s : State) (team r : Nat) (f : Segment → Segment) : (modSeg s team r f).pfences = s.pfences := rfl
@[simp] theorem modSeg_launchers (s : State) (team r : Nat) (f : Segment → Segment) : (modSeg s team r f).launchers = s.launchers := rfl
@[simp] theorem modSeg_replay (s : State) (team r : Nat) (f : Segment → Segment) : (modSeg s team r f).replay = s.replay := rfl
@[simp] theorem modSeg_ctxBlocks (s : State) (team r : Nat) (f : Segment → Segment) : (modSeg s team r f).ctxBlocks = s.ctxBlocks := rfl
@[simp] theorem modSeg_closing (s : State) (team r : Nat) (f : Segment → Segment) : (modSeg s team r f).closing = s.closing := rfl
@[simp] theorem modSeg_svpWait (s : State) (team r : Nat) (f : Segment → Segment) : (modSeg s team r f).svpWait = s.svpWait := rfl
@[simp] theorem modSeg_durable (s : State) (team r : Nat) (f : Segment → Segment) : (modSeg s team r f).durable = s.durable := rfl
@[simp] theorem modSeg_msixHead (s : State) (team r : Nat) (f : Segment → Segment) : (modSeg s team r f).msixHead = s.msixHead := rfl
@[simp] theorem modSeg_msixWait (s : State) (team r : Nat) (f : Segment → Segment) : (modSeg s team r f).msixWait = s.msixWait := rfl

/-! ### putH -/

@[simp] theorem putH_moves (s : State) (l : HLoc) (e : HEntry) : (putH s l e).moves = s.moves := rfl
@[simp] theorem putH_turn (s : State) (l : HLoc) (e : HEntry) : (putH s l e).turn = s.turn := rfl
@[simp] theorem putH_arg (s : State) (l : HLoc) (e : HEntry) : (putH s l e).arg = s.arg := rfl
@[simp] theorem putH_freeNo (s : State) (l : HLoc) (e : HEntry) : (putH s l e).freeNo = s.freeNo := rfl
@[simp] theorem putH_nextId (s : State) (l : HLoc) (e : HEntry) : (putH s l e).nextId = s.nextId := rfl
@[simp] theorem putH_outs (s : State) (l : HLoc) (e : HEntry) : (putH s l e).outs = s.outs := rfl
@[simp] theorem putH_resets (s : State) (l : HLoc) (e : HEntry) : (putH s l e).resets = s.resets := rfl
@[simp] theorem putH_clocks (s : State) (l : HLoc) (e : HEntry) : (putH s l e).clocks = s.clocks := rfl
@[simp] theorem putH_timeNs (s : State) (l : HLoc) (e : HEntry) : (putH s l e).timeNs = s.timeNs := rfl
@[simp] theorem putH_boost (s : State) (l : HLoc) (e : HEntry) : (putH s l e).boost = s.boost := rfl
@[simp] theorem putH_throttle (s : State) (l : HLoc) (e : HEntry) : (putH s l e).throttle = s.throttle := rfl
@[simp] theorem putH_pwrLimit (s : State) (l : HLoc) (e : HEntry) : (putH s l e).pwrLimit = s.pwrLimit := rfl
@[simp] theorem putH_mem (s : State) (l : HLoc) (e : HEntry) : (putH s l e).mem = s.mem := rfl
@[simp] theorem putH_dev (s : State) (l : HLoc) (e : HEntry) : (putH s l e).dev = s.dev := rfl
@[simp] theorem putH_dies (s : State) (l : HLoc) (e : HEntry) : (putH s l e).dies = s.dies := rfl
@[simp] theorem putH_io (s : State) (l : HLoc) (e : HEntry) : (putH s l e).io = s.io := rfl
@[simp] theorem putH_grains (s : State) (l : HLoc) (e : HEntry) : (putH s l e).grains = s.grains := rfl
@[simp] theorem putH_wc (s : State) (l : HLoc) (e : HEntry) : (putH s l e).wc = s.wc := rfl
@[simp] theorem putH_announces (s : State) (l : HLoc) (e : HEntry) : (putH s l e).announces = s.announces := rfl
@[simp] theorem putH_reqs (s : State) (l : HLoc) (e : HEntry) : (putH s l e).reqs = s.reqs := rfl
@[simp] theorem putH_psets (s : State) (l : HLoc) (e : HEntry) : (putH s l e).psets = s.psets := rfl
@[simp] theorem putH_grids (s : State) (l : HLoc) (e : HEntry) : (putH s l e).grids = s.grids := rfl
@[simp] theorem putH_teams (s : State) (l : HLoc) (e : HEntry) : (putH s l e).teams = s.teams := rfl
@[simp] theorem putH_squads (s : State) (l : HLoc) (e : HEntry) : (putH s l e).squads = s.squads := rfl
@[simp] theorem putH_away (s : State) (l : HLoc) (e : HEntry) : (putH s l e).away = s.away := rfl
@[simp] theorem putH_spines (s : State) (l : HLoc) (e : HEntry) : (putH s l e).spines = s.spines := rfl
@[simp] theorem putH_cores (s : State) (l : HLoc) (e : HEntry) : (putH s l e).cores = s.cores := rfl
@[simp] theorem putH_pops (s : State) (l : HLoc) (e : HEntry) : (putH s l e).pops = s.pops := rfl
@[simp] theorem putH_mops (s : State) (l : HLoc) (e : HEntry) : (putH s l e).mops = s.mops := rfl
@[simp] theorem putH_copies (s : State) (l : HLoc) (e : HEntry) : (putH s l e).copies = s.copies := rfl
@[simp] theorem putH_creds (s : State) (l : HLoc) (e : HEntry) : (putH s l e).creds = s.creds := rfl
@[simp] theorem putH_rgroups (s : State) (l : HLoc) (e : HEntry) : (putH s l e).rgroups = s.rgroups := rfl
@[simp] theorem putH_dpush (s : State) (l : HLoc) (e : HEntry) : (putH s l e).dpush = s.dpush := rfl
@[simp] theorem putH_resvs (s : State) (l : HLoc) (e : HEntry) : (putH s l e).resvs = s.resvs := rfl
@[simp] theorem putH_svps (s : State) (l : HLoc) (e : HEntry) : (putH s l e).svps = s.svps := rfl
@[simp] theorem putH_svcAwake (s : State) (l : HLoc) (e : HEntry) : (putH s l e).svcAwake = s.svcAwake := rfl
@[simp] theorem putH_svpFrozen (s : State) (l : HLoc) (e : HEntry) : (putH s l e).svpFrozen = s.svpFrozen := rfl
@[simp] theorem putH_svqMap (s : State) (l : HLoc) (e : HEntry) : (putH s l e).svqMap = s.svqMap := rfl
@[simp] theorem putH_heldAccs (s : State) (l : HLoc) (e : HEntry) : (putH s l e).heldAccs = s.heldAccs := rfl
@[simp] theorem putH_asked (s : State) (l : HLoc) (e : HEntry) : (putH s l e).asked = s.asked := rfl
@[simp] theorem putH_pfences (s : State) (l : HLoc) (e : HEntry) : (putH s l e).pfences = s.pfences := rfl
@[simp] theorem putH_launchers (s : State) (l : HLoc) (e : HEntry) : (putH s l e).launchers = s.launchers := rfl
@[simp] theorem putH_replay (s : State) (l : HLoc) (e : HEntry) : (putH s l e).replay = s.replay := rfl
@[simp] theorem putH_ctxBlocks (s : State) (l : HLoc) (e : HEntry) : (putH s l e).ctxBlocks = s.ctxBlocks := rfl
@[simp] theorem putH_closing (s : State) (l : HLoc) (e : HEntry) : (putH s l e).closing = s.closing := rfl
@[simp] theorem putH_svpWait (s : State) (l : HLoc) (e : HEntry) : (putH s l e).svpWait = s.svpWait := rfl
@[simp] theorem putH_durable (s : State) (l : HLoc) (e : HEntry) : (putH s l e).durable = s.durable := rfl
@[simp] theorem putH_msixHead (s : State) (l : HLoc) (e : HEntry) : (putH s l e).msixHead = s.msixHead := rfl
@[simp] theorem putH_msixWait (s : State) (l : HLoc) (e : HEntry) : (putH s l e).msixWait = s.msixWait := rfl

/-! ### seatGrain -/

@[simp] theorem seatGrain_moves (s : State) (g : Grain) : (seatGrain s g).moves = s.moves := rfl
@[simp] theorem seatGrain_turn (s : State) (g : Grain) : (seatGrain s g).turn = s.turn := rfl
@[simp] theorem seatGrain_arg (s : State) (g : Grain) : (seatGrain s g).arg = s.arg := rfl
@[simp] theorem seatGrain_freeNo (s : State) (g : Grain) : (seatGrain s g).freeNo = s.freeNo := rfl
@[simp] theorem seatGrain_nextId (s : State) (g : Grain) : (seatGrain s g).nextId = s.nextId := rfl
@[simp] theorem seatGrain_outs (s : State) (g : Grain) : (seatGrain s g).outs = s.outs := rfl
@[simp] theorem seatGrain_resets (s : State) (g : Grain) : (seatGrain s g).resets = s.resets := rfl
@[simp] theorem seatGrain_clocks (s : State) (g : Grain) : (seatGrain s g).clocks = s.clocks := rfl
@[simp] theorem seatGrain_timeNs (s : State) (g : Grain) : (seatGrain s g).timeNs = s.timeNs := rfl
@[simp] theorem seatGrain_boost (s : State) (g : Grain) : (seatGrain s g).boost = s.boost := rfl
@[simp] theorem seatGrain_throttle (s : State) (g : Grain) : (seatGrain s g).throttle = s.throttle := rfl
@[simp] theorem seatGrain_pwrLimit (s : State) (g : Grain) : (seatGrain s g).pwrLimit = s.pwrLimit := rfl
@[simp] theorem seatGrain_mem (s : State) (g : Grain) : (seatGrain s g).mem = s.mem := rfl
@[simp] theorem seatGrain_dev (s : State) (g : Grain) : (seatGrain s g).dev = s.dev := rfl
@[simp] theorem seatGrain_dies (s : State) (g : Grain) : (seatGrain s g).dies = s.dies := rfl
@[simp] theorem seatGrain_io (s : State) (g : Grain) : (seatGrain s g).io = s.io := rfl
@[simp] theorem seatGrain_wc (s : State) (g : Grain) : (seatGrain s g).wc = s.wc := rfl
@[simp] theorem seatGrain_announces (s : State) (g : Grain) : (seatGrain s g).announces = s.announces := rfl
@[simp] theorem seatGrain_reqs (s : State) (g : Grain) : (seatGrain s g).reqs = s.reqs := rfl
@[simp] theorem seatGrain_psets (s : State) (g : Grain) : (seatGrain s g).psets = s.psets := rfl
@[simp] theorem seatGrain_grids (s : State) (g : Grain) : (seatGrain s g).grids = s.grids := rfl
@[simp] theorem seatGrain_teams (s : State) (g : Grain) : (seatGrain s g).teams = s.teams := rfl
@[simp] theorem seatGrain_squads (s : State) (g : Grain) : (seatGrain s g).squads = s.squads := rfl
@[simp] theorem seatGrain_away (s : State) (g : Grain) : (seatGrain s g).away = s.away := rfl
@[simp] theorem seatGrain_spines (s : State) (g : Grain) : (seatGrain s g).spines = s.spines := rfl
@[simp] theorem seatGrain_clusters (s : State) (g : Grain) : (seatGrain s g).clusters = s.clusters := rfl
@[simp] theorem seatGrain_cores (s : State) (g : Grain) : (seatGrain s g).cores = s.cores := rfl
@[simp] theorem seatGrain_pops (s : State) (g : Grain) : (seatGrain s g).pops = s.pops := rfl
@[simp] theorem seatGrain_mops (s : State) (g : Grain) : (seatGrain s g).mops = s.mops := rfl
@[simp] theorem seatGrain_copies (s : State) (g : Grain) : (seatGrain s g).copies = s.copies := rfl
@[simp] theorem seatGrain_creds (s : State) (g : Grain) : (seatGrain s g).creds = s.creds := rfl
@[simp] theorem seatGrain_rgroups (s : State) (g : Grain) : (seatGrain s g).rgroups = s.rgroups := rfl
@[simp] theorem seatGrain_dpush (s : State) (g : Grain) : (seatGrain s g).dpush = s.dpush := rfl
@[simp] theorem seatGrain_resvs (s : State) (g : Grain) : (seatGrain s g).resvs = s.resvs := rfl
@[simp] theorem seatGrain_svps (s : State) (g : Grain) : (seatGrain s g).svps = s.svps := rfl
@[simp] theorem seatGrain_svcAwake (s : State) (g : Grain) : (seatGrain s g).svcAwake = s.svcAwake := rfl
@[simp] theorem seatGrain_svpFrozen (s : State) (g : Grain) : (seatGrain s g).svpFrozen = s.svpFrozen := rfl
@[simp] theorem seatGrain_svqMap (s : State) (g : Grain) : (seatGrain s g).svqMap = s.svqMap := rfl
@[simp] theorem seatGrain_heldAccs (s : State) (g : Grain) : (seatGrain s g).heldAccs = s.heldAccs := rfl
@[simp] theorem seatGrain_asked (s : State) (g : Grain) : (seatGrain s g).asked = s.asked := rfl
@[simp] theorem seatGrain_pfences (s : State) (g : Grain) : (seatGrain s g).pfences = s.pfences := rfl
@[simp] theorem seatGrain_launchers (s : State) (g : Grain) : (seatGrain s g).launchers = s.launchers := rfl
@[simp] theorem seatGrain_replay (s : State) (g : Grain) : (seatGrain s g).replay = s.replay := rfl
@[simp] theorem seatGrain_ctxBlocks (s : State) (g : Grain) : (seatGrain s g).ctxBlocks = s.ctxBlocks := rfl
@[simp] theorem seatGrain_closing (s : State) (g : Grain) : (seatGrain s g).closing = s.closing := rfl
@[simp] theorem seatGrain_svpWait (s : State) (g : Grain) : (seatGrain s g).svpWait = s.svpWait := rfl
@[simp] theorem seatGrain_durable (s : State) (g : Grain) : (seatGrain s g).durable = s.durable := rfl
@[simp] theorem seatGrain_msixHead (s : State) (g : Grain) : (seatGrain s g).msixHead = s.msixHead := rfl
@[simp] theorem seatGrain_msixWait (s : State) (g : Grain) : (seatGrain s g).msixWait = s.msixWait := rfl

/-! ### keepSaid -/

@[simp] theorem keepSaid_moves (s t : State) : (keepSaid s t).moves = s.moves := rfl
@[simp] theorem keepSaid_turn (s t : State) : (keepSaid s t).turn = s.turn := rfl
@[simp] theorem keepSaid_arg (s t : State) : (keepSaid s t).arg = s.arg := rfl
@[simp] theorem keepSaid_freeNo (s t : State) : (keepSaid s t).freeNo = s.freeNo := rfl
@[simp] theorem keepSaid_nextId (s t : State) : (keepSaid s t).nextId = s.nextId := rfl
@[simp] theorem keepSaid_resets (s t : State) : (keepSaid s t).resets = s.resets := rfl
@[simp] theorem keepSaid_clocks (s t : State) : (keepSaid s t).clocks = s.clocks := rfl
@[simp] theorem keepSaid_timeNs (s t : State) : (keepSaid s t).timeNs = s.timeNs := rfl
@[simp] theorem keepSaid_boost (s t : State) : (keepSaid s t).boost = s.boost := rfl
@[simp] theorem keepSaid_throttle (s t : State) : (keepSaid s t).throttle = s.throttle := rfl
@[simp] theorem keepSaid_pwrLimit (s t : State) : (keepSaid s t).pwrLimit = s.pwrLimit := rfl
@[simp] theorem keepSaid_mem (s t : State) : (keepSaid s t).mem = s.mem := rfl
@[simp] theorem keepSaid_dev (s t : State) : (keepSaid s t).dev = s.dev := rfl
@[simp] theorem keepSaid_dies (s t : State) : (keepSaid s t).dies = s.dies := rfl
@[simp] theorem keepSaid_io (s t : State) : (keepSaid s t).io = s.io := rfl
@[simp] theorem keepSaid_grains (s t : State) : (keepSaid s t).grains = s.grains := rfl
@[simp] theorem keepSaid_wc (s t : State) : (keepSaid s t).wc = s.wc := rfl
@[simp] theorem keepSaid_announces (s t : State) : (keepSaid s t).announces = s.announces := rfl
@[simp] theorem keepSaid_reqs (s t : State) : (keepSaid s t).reqs = s.reqs := rfl
@[simp] theorem keepSaid_psets (s t : State) : (keepSaid s t).psets = s.psets := rfl
@[simp] theorem keepSaid_grids (s t : State) : (keepSaid s t).grids = s.grids := rfl
@[simp] theorem keepSaid_teams (s t : State) : (keepSaid s t).teams = s.teams := rfl
@[simp] theorem keepSaid_squads (s t : State) : (keepSaid s t).squads = s.squads := rfl
@[simp] theorem keepSaid_away (s t : State) : (keepSaid s t).away = s.away := rfl
@[simp] theorem keepSaid_spines (s t : State) : (keepSaid s t).spines = s.spines := rfl
@[simp] theorem keepSaid_clusters (s t : State) : (keepSaid s t).clusters = s.clusters := rfl
@[simp] theorem keepSaid_cores (s t : State) : (keepSaid s t).cores = s.cores := rfl
@[simp] theorem keepSaid_pops (s t : State) : (keepSaid s t).pops = s.pops := rfl
@[simp] theorem keepSaid_mops (s t : State) : (keepSaid s t).mops = s.mops := rfl
@[simp] theorem keepSaid_copies (s t : State) : (keepSaid s t).copies = s.copies := rfl
@[simp] theorem keepSaid_creds (s t : State) : (keepSaid s t).creds = s.creds := rfl
@[simp] theorem keepSaid_rgroups (s t : State) : (keepSaid s t).rgroups = s.rgroups := rfl
@[simp] theorem keepSaid_dpush (s t : State) : (keepSaid s t).dpush = s.dpush := rfl
@[simp] theorem keepSaid_resvs (s t : State) : (keepSaid s t).resvs = s.resvs := rfl
@[simp] theorem keepSaid_svps (s t : State) : (keepSaid s t).svps = s.svps := rfl
@[simp] theorem keepSaid_svcAwake (s t : State) : (keepSaid s t).svcAwake = s.svcAwake := rfl
@[simp] theorem keepSaid_svpFrozen (s t : State) : (keepSaid s t).svpFrozen = s.svpFrozen := rfl
@[simp] theorem keepSaid_svqMap (s t : State) : (keepSaid s t).svqMap = s.svqMap := rfl
@[simp] theorem keepSaid_pfences (s t : State) : (keepSaid s t).pfences = s.pfences := rfl
@[simp] theorem keepSaid_launchers (s t : State) : (keepSaid s t).launchers = s.launchers := rfl
@[simp] theorem keepSaid_replay (s t : State) : (keepSaid s t).replay = s.replay := rfl
@[simp] theorem keepSaid_ctxBlocks (s t : State) : (keepSaid s t).ctxBlocks = s.ctxBlocks := rfl
@[simp] theorem keepSaid_closing (s t : State) : (keepSaid s t).closing = s.closing := rfl
@[simp] theorem keepSaid_svpWait (s t : State) : (keepSaid s t).svpWait = s.svpWait := rfl
@[simp] theorem keepSaid_durable (s t : State) : (keepSaid s t).durable = s.durable := rfl
@[simp] theorem keepSaid_msixHead (s t : State) : (keepSaid s t).msixHead = s.msixHead := rfl
@[simp] theorem keepSaid_msixWait (s t : State) : (keepSaid s t).msixWait = s.msixWait := rfl

/-! ### inOrder -/

@[simp] theorem inOrder_moves (s : State) (die key rank width : Nat) : (inOrder s die key rank width).moves = s.moves := by
  unfold inOrder; dsimp only; repeat (first | rfl | split)
@[simp] theorem inOrder_turn (s : State) (die key rank width : Nat) : (inOrder s die key rank width).turn = s.turn := by
  unfold inOrder; dsimp only; repeat (first | rfl | split)
@[simp] theorem inOrder_arg (s : State) (die key rank width : Nat) : (inOrder s die key rank width).arg = s.arg := by
  unfold inOrder; dsimp only; repeat (first | rfl | split)
@[simp] theorem inOrder_freeNo (s : State) (die key rank width : Nat) : (inOrder s die key rank width).freeNo = s.freeNo := by
  unfold inOrder; dsimp only; repeat (first | rfl | split)
@[simp] theorem inOrder_nextId (s : State) (die key rank width : Nat) : (inOrder s die key rank width).nextId = s.nextId := by
  unfold inOrder; dsimp only; repeat (first | rfl | split)
@[simp] theorem inOrder_outs (s : State) (die key rank width : Nat) : (inOrder s die key rank width).outs = s.outs := by
  unfold inOrder; dsimp only; repeat (first | rfl | split)
@[simp] theorem inOrder_resets (s : State) (die key rank width : Nat) : (inOrder s die key rank width).resets = s.resets := by
  unfold inOrder; dsimp only; repeat (first | rfl | split)
@[simp] theorem inOrder_clocks (s : State) (die key rank width : Nat) : (inOrder s die key rank width).clocks = s.clocks := by
  unfold inOrder; dsimp only; repeat (first | rfl | split)
@[simp] theorem inOrder_timeNs (s : State) (die key rank width : Nat) : (inOrder s die key rank width).timeNs = s.timeNs := by
  unfold inOrder; dsimp only; repeat (first | rfl | split)
@[simp] theorem inOrder_boost (s : State) (die key rank width : Nat) : (inOrder s die key rank width).boost = s.boost := by
  unfold inOrder; dsimp only; repeat (first | rfl | split)
@[simp] theorem inOrder_throttle (s : State) (die key rank width : Nat) : (inOrder s die key rank width).throttle = s.throttle := by
  unfold inOrder; dsimp only; repeat (first | rfl | split)
@[simp] theorem inOrder_pwrLimit (s : State) (die key rank width : Nat) : (inOrder s die key rank width).pwrLimit = s.pwrLimit := by
  unfold inOrder; dsimp only; repeat (first | rfl | split)
@[simp] theorem inOrder_mem (s : State) (die key rank width : Nat) : (inOrder s die key rank width).mem = s.mem := by
  unfold inOrder; dsimp only; repeat (first | rfl | split)
@[simp] theorem inOrder_dev (s : State) (die key rank width : Nat) : (inOrder s die key rank width).dev = s.dev := by
  unfold inOrder; dsimp only; repeat (first | rfl | split)
@[simp] theorem inOrder_io (s : State) (die key rank width : Nat) : (inOrder s die key rank width).io = s.io := by
  unfold inOrder; dsimp only; repeat (first | rfl | split)
@[simp] theorem inOrder_grains (s : State) (die key rank width : Nat) : (inOrder s die key rank width).grains = s.grains := by
  unfold inOrder; dsimp only; repeat (first | rfl | split)
@[simp] theorem inOrder_wc (s : State) (die key rank width : Nat) : (inOrder s die key rank width).wc = s.wc := by
  unfold inOrder; dsimp only; repeat (first | rfl | split)
@[simp] theorem inOrder_announces (s : State) (die key rank width : Nat) : (inOrder s die key rank width).announces = s.announces := by
  unfold inOrder; dsimp only; repeat (first | rfl | split)
@[simp] theorem inOrder_reqs (s : State) (die key rank width : Nat) : (inOrder s die key rank width).reqs = s.reqs := by
  unfold inOrder; dsimp only; repeat (first | rfl | split)
@[simp] theorem inOrder_psets (s : State) (die key rank width : Nat) : (inOrder s die key rank width).psets = s.psets := by
  unfold inOrder; dsimp only; repeat (first | rfl | split)
@[simp] theorem inOrder_grids (s : State) (die key rank width : Nat) : (inOrder s die key rank width).grids = s.grids := by
  unfold inOrder; dsimp only; repeat (first | rfl | split)
@[simp] theorem inOrder_teams (s : State) (die key rank width : Nat) : (inOrder s die key rank width).teams = s.teams := by
  unfold inOrder; dsimp only; repeat (first | rfl | split)
@[simp] theorem inOrder_squads (s : State) (die key rank width : Nat) : (inOrder s die key rank width).squads = s.squads := by
  unfold inOrder; dsimp only; repeat (first | rfl | split)
@[simp] theorem inOrder_away (s : State) (die key rank width : Nat) : (inOrder s die key rank width).away = s.away := by
  unfold inOrder; dsimp only; repeat (first | rfl | split)
@[simp] theorem inOrder_spines (s : State) (die key rank width : Nat) : (inOrder s die key rank width).spines = s.spines := by
  unfold inOrder; dsimp only; repeat (first | rfl | split)
@[simp] theorem inOrder_clusters (s : State) (die key rank width : Nat) : (inOrder s die key rank width).clusters = s.clusters := by
  unfold inOrder; dsimp only; repeat (first | rfl | split)
@[simp] theorem inOrder_cores (s : State) (die key rank width : Nat) : (inOrder s die key rank width).cores = s.cores := by
  unfold inOrder; dsimp only; repeat (first | rfl | split)
@[simp] theorem inOrder_pops (s : State) (die key rank width : Nat) : (inOrder s die key rank width).pops = s.pops := by
  unfold inOrder; dsimp only; repeat (first | rfl | split)
@[simp] theorem inOrder_mops (s : State) (die key rank width : Nat) : (inOrder s die key rank width).mops = s.mops := by
  unfold inOrder; dsimp only; repeat (first | rfl | split)
@[simp] theorem inOrder_copies (s : State) (die key rank width : Nat) : (inOrder s die key rank width).copies = s.copies := by
  unfold inOrder; dsimp only; repeat (first | rfl | split)
@[simp] theorem inOrder_creds (s : State) (die key rank width : Nat) : (inOrder s die key rank width).creds = s.creds := by
  unfold inOrder; dsimp only; repeat (first | rfl | split)
@[simp] theorem inOrder_rgroups (s : State) (die key rank width : Nat) : (inOrder s die key rank width).rgroups = s.rgroups := by
  unfold inOrder; dsimp only; repeat (first | rfl | split)
@[simp] theorem inOrder_dpush (s : State) (die key rank width : Nat) : (inOrder s die key rank width).dpush = s.dpush := by
  unfold inOrder; dsimp only; repeat (first | rfl | split)
@[simp] theorem inOrder_resvs (s : State) (die key rank width : Nat) : (inOrder s die key rank width).resvs = s.resvs := by
  unfold inOrder; dsimp only; repeat (first | rfl | split)
@[simp] theorem inOrder_svps (s : State) (die key rank width : Nat) : (inOrder s die key rank width).svps = s.svps := by
  unfold inOrder; dsimp only; repeat (first | rfl | split)
@[simp] theorem inOrder_svcAwake (s : State) (die key rank width : Nat) : (inOrder s die key rank width).svcAwake = s.svcAwake := by
  unfold inOrder; dsimp only; repeat (first | rfl | split)
@[simp] theorem inOrder_svpFrozen (s : State) (die key rank width : Nat) : (inOrder s die key rank width).svpFrozen = s.svpFrozen := by
  unfold inOrder; dsimp only; repeat (first | rfl | split)
@[simp] theorem inOrder_svqMap (s : State) (die key rank width : Nat) : (inOrder s die key rank width).svqMap = s.svqMap := by
  unfold inOrder; dsimp only; repeat (first | rfl | split)
@[simp] theorem inOrder_heldAccs (s : State) (die key rank width : Nat) : (inOrder s die key rank width).heldAccs = s.heldAccs := by
  unfold inOrder; dsimp only; repeat (first | rfl | split)
@[simp] theorem inOrder_asked (s : State) (die key rank width : Nat) : (inOrder s die key rank width).asked = s.asked := by
  unfold inOrder; dsimp only; repeat (first | rfl | split)
@[simp] theorem inOrder_pfences (s : State) (die key rank width : Nat) : (inOrder s die key rank width).pfences = s.pfences := by
  unfold inOrder; dsimp only; repeat (first | rfl | split)
@[simp] theorem inOrder_launchers (s : State) (die key rank width : Nat) : (inOrder s die key rank width).launchers = s.launchers := by
  unfold inOrder; dsimp only; repeat (first | rfl | split)
@[simp] theorem inOrder_replay (s : State) (die key rank width : Nat) : (inOrder s die key rank width).replay = s.replay := by
  unfold inOrder; dsimp only; repeat (first | rfl | split)
@[simp] theorem inOrder_ctxBlocks (s : State) (die key rank width : Nat) : (inOrder s die key rank width).ctxBlocks = s.ctxBlocks := by
  unfold inOrder; dsimp only; repeat (first | rfl | split)
@[simp] theorem inOrder_closing (s : State) (die key rank width : Nat) : (inOrder s die key rank width).closing = s.closing := by
  unfold inOrder; dsimp only; repeat (first | rfl | split)
@[simp] theorem inOrder_svpWait (s : State) (die key rank width : Nat) : (inOrder s die key rank width).svpWait = s.svpWait := by
  unfold inOrder; dsimp only; repeat (first | rfl | split)
@[simp] theorem inOrder_durable (s : State) (die key rank width : Nat) : (inOrder s die key rank width).durable = s.durable := by
  unfold inOrder; dsimp only; repeat (first | rfl | split)
@[simp] theorem inOrder_msixHead (s : State) (die key rank width : Nat) : (inOrder s die key rank width).msixHead = s.msixHead := by
  unfold inOrder; dsimp only; repeat (first | rfl | split)
@[simp] theorem inOrder_msixWait (s : State) (die key rank width : Nat) : (inOrder s die key rank width).msixWait = s.msixWait := by
  unfold inOrder; dsimp only; repeat (first | rfl | split)

/-! ### setDie -/

@[simp] theorem setDie_moves (s : State) (d : Nat) (x : Die) : (setDie s d x).moves = s.moves := rfl
@[simp] theorem setDie_turn (s : State) (d : Nat) (x : Die) : (setDie s d x).turn = s.turn := rfl
@[simp] theorem setDie_arg (s : State) (d : Nat) (x : Die) : (setDie s d x).arg = s.arg := rfl
@[simp] theorem setDie_freeNo (s : State) (d : Nat) (x : Die) : (setDie s d x).freeNo = s.freeNo := rfl
@[simp] theorem setDie_nextId (s : State) (d : Nat) (x : Die) : (setDie s d x).nextId = s.nextId := rfl
@[simp] theorem setDie_outs (s : State) (d : Nat) (x : Die) : (setDie s d x).outs = s.outs := rfl
@[simp] theorem setDie_resets (s : State) (d : Nat) (x : Die) : (setDie s d x).resets = s.resets := rfl
@[simp] theorem setDie_clocks (s : State) (d : Nat) (x : Die) : (setDie s d x).clocks = s.clocks := rfl
@[simp] theorem setDie_timeNs (s : State) (d : Nat) (x : Die) : (setDie s d x).timeNs = s.timeNs := rfl
@[simp] theorem setDie_boost (s : State) (d : Nat) (x : Die) : (setDie s d x).boost = s.boost := rfl
@[simp] theorem setDie_throttle (s : State) (d : Nat) (x : Die) : (setDie s d x).throttle = s.throttle := rfl
@[simp] theorem setDie_pwrLimit (s : State) (d : Nat) (x : Die) : (setDie s d x).pwrLimit = s.pwrLimit := rfl
@[simp] theorem setDie_mem (s : State) (d : Nat) (x : Die) : (setDie s d x).mem = s.mem := rfl
@[simp] theorem setDie_dev (s : State) (d : Nat) (x : Die) : (setDie s d x).dev = s.dev := rfl
@[simp] theorem setDie_io (s : State) (d : Nat) (x : Die) : (setDie s d x).io = s.io := rfl
@[simp] theorem setDie_grains (s : State) (d : Nat) (x : Die) : (setDie s d x).grains = s.grains := rfl
@[simp] theorem setDie_wc (s : State) (d : Nat) (x : Die) : (setDie s d x).wc = s.wc := rfl
@[simp] theorem setDie_announces (s : State) (d : Nat) (x : Die) : (setDie s d x).announces = s.announces := rfl
@[simp] theorem setDie_reqs (s : State) (d : Nat) (x : Die) : (setDie s d x).reqs = s.reqs := rfl
@[simp] theorem setDie_psets (s : State) (d : Nat) (x : Die) : (setDie s d x).psets = s.psets := rfl
@[simp] theorem setDie_grids (s : State) (d : Nat) (x : Die) : (setDie s d x).grids = s.grids := rfl
@[simp] theorem setDie_teams (s : State) (d : Nat) (x : Die) : (setDie s d x).teams = s.teams := rfl
@[simp] theorem setDie_squads (s : State) (d : Nat) (x : Die) : (setDie s d x).squads = s.squads := rfl
@[simp] theorem setDie_away (s : State) (d : Nat) (x : Die) : (setDie s d x).away = s.away := rfl
@[simp] theorem setDie_spines (s : State) (d : Nat) (x : Die) : (setDie s d x).spines = s.spines := rfl
@[simp] theorem setDie_clusters (s : State) (d : Nat) (x : Die) : (setDie s d x).clusters = s.clusters := rfl
@[simp] theorem setDie_cores (s : State) (d : Nat) (x : Die) : (setDie s d x).cores = s.cores := rfl
@[simp] theorem setDie_pops (s : State) (d : Nat) (x : Die) : (setDie s d x).pops = s.pops := rfl
@[simp] theorem setDie_mops (s : State) (d : Nat) (x : Die) : (setDie s d x).mops = s.mops := rfl
@[simp] theorem setDie_copies (s : State) (d : Nat) (x : Die) : (setDie s d x).copies = s.copies := rfl
@[simp] theorem setDie_creds (s : State) (d : Nat) (x : Die) : (setDie s d x).creds = s.creds := rfl
@[simp] theorem setDie_rgroups (s : State) (d : Nat) (x : Die) : (setDie s d x).rgroups = s.rgroups := rfl
@[simp] theorem setDie_dpush (s : State) (d : Nat) (x : Die) : (setDie s d x).dpush = s.dpush := rfl
@[simp] theorem setDie_resvs (s : State) (d : Nat) (x : Die) : (setDie s d x).resvs = s.resvs := rfl
@[simp] theorem setDie_svps (s : State) (d : Nat) (x : Die) : (setDie s d x).svps = s.svps := rfl
@[simp] theorem setDie_svcAwake (s : State) (d : Nat) (x : Die) : (setDie s d x).svcAwake = s.svcAwake := rfl
@[simp] theorem setDie_svpFrozen (s : State) (d : Nat) (x : Die) : (setDie s d x).svpFrozen = s.svpFrozen := rfl
@[simp] theorem setDie_svqMap (s : State) (d : Nat) (x : Die) : (setDie s d x).svqMap = s.svqMap := rfl
@[simp] theorem setDie_heldAccs (s : State) (d : Nat) (x : Die) : (setDie s d x).heldAccs = s.heldAccs := rfl
@[simp] theorem setDie_asked (s : State) (d : Nat) (x : Die) : (setDie s d x).asked = s.asked := rfl
@[simp] theorem setDie_pfences (s : State) (d : Nat) (x : Die) : (setDie s d x).pfences = s.pfences := rfl
@[simp] theorem setDie_launchers (s : State) (d : Nat) (x : Die) : (setDie s d x).launchers = s.launchers := rfl
@[simp] theorem setDie_replay (s : State) (d : Nat) (x : Die) : (setDie s d x).replay = s.replay := rfl
@[simp] theorem setDie_ctxBlocks (s : State) (d : Nat) (x : Die) : (setDie s d x).ctxBlocks = s.ctxBlocks := rfl
@[simp] theorem setDie_closing (s : State) (d : Nat) (x : Die) : (setDie s d x).closing = s.closing := rfl
@[simp] theorem setDie_svpWait (s : State) (d : Nat) (x : Die) : (setDie s d x).svpWait = s.svpWait := rfl
@[simp] theorem setDie_durable (s : State) (d : Nat) (x : Die) : (setDie s d x).durable = s.durable := rfl
@[simp] theorem setDie_msixHead (s : State) (d : Nat) (x : Die) : (setDie s d x).msixHead = s.msixHead := rfl
@[simp] theorem setDie_msixWait (s : State) (d : Nat) (x : Die) : (setDie s d x).msixWait = s.msixWait := rfl

/-! ### addReq -/

@[simp] theorem addReq_moves (s : State) (r : Req) : (addReq s r).moves = s.moves := rfl
@[simp] theorem addReq_turn (s : State) (r : Req) : (addReq s r).turn = s.turn := rfl
@[simp] theorem addReq_arg (s : State) (r : Req) : (addReq s r).arg = s.arg := rfl
@[simp] theorem addReq_freeNo (s : State) (r : Req) : (addReq s r).freeNo = s.freeNo := rfl
@[simp] theorem addReq_outs (s : State) (r : Req) : (addReq s r).outs = s.outs := rfl
@[simp] theorem addReq_resets (s : State) (r : Req) : (addReq s r).resets = s.resets := rfl
@[simp] theorem addReq_clocks (s : State) (r : Req) : (addReq s r).clocks = s.clocks := rfl
@[simp] theorem addReq_timeNs (s : State) (r : Req) : (addReq s r).timeNs = s.timeNs := rfl
@[simp] theorem addReq_boost (s : State) (r : Req) : (addReq s r).boost = s.boost := rfl
@[simp] theorem addReq_throttle (s : State) (r : Req) : (addReq s r).throttle = s.throttle := rfl
@[simp] theorem addReq_pwrLimit (s : State) (r : Req) : (addReq s r).pwrLimit = s.pwrLimit := rfl
@[simp] theorem addReq_mem (s : State) (r : Req) : (addReq s r).mem = s.mem := rfl
@[simp] theorem addReq_dev (s : State) (r : Req) : (addReq s r).dev = s.dev := rfl
@[simp] theorem addReq_dies (s : State) (r : Req) : (addReq s r).dies = s.dies := rfl
@[simp] theorem addReq_io (s : State) (r : Req) : (addReq s r).io = s.io := rfl
@[simp] theorem addReq_grains (s : State) (r : Req) : (addReq s r).grains = s.grains := rfl
@[simp] theorem addReq_wc (s : State) (r : Req) : (addReq s r).wc = s.wc := rfl
@[simp] theorem addReq_announces (s : State) (r : Req) : (addReq s r).announces = s.announces := rfl
@[simp] theorem addReq_psets (s : State) (r : Req) : (addReq s r).psets = s.psets := rfl
@[simp] theorem addReq_grids (s : State) (r : Req) : (addReq s r).grids = s.grids := rfl
@[simp] theorem addReq_teams (s : State) (r : Req) : (addReq s r).teams = s.teams := rfl
@[simp] theorem addReq_squads (s : State) (r : Req) : (addReq s r).squads = s.squads := rfl
@[simp] theorem addReq_away (s : State) (r : Req) : (addReq s r).away = s.away := rfl
@[simp] theorem addReq_spines (s : State) (r : Req) : (addReq s r).spines = s.spines := rfl
@[simp] theorem addReq_clusters (s : State) (r : Req) : (addReq s r).clusters = s.clusters := rfl
@[simp] theorem addReq_cores (s : State) (r : Req) : (addReq s r).cores = s.cores := rfl
@[simp] theorem addReq_pops (s : State) (r : Req) : (addReq s r).pops = s.pops := rfl
@[simp] theorem addReq_mops (s : State) (r : Req) : (addReq s r).mops = s.mops := rfl
@[simp] theorem addReq_copies (s : State) (r : Req) : (addReq s r).copies = s.copies := rfl
@[simp] theorem addReq_creds (s : State) (r : Req) : (addReq s r).creds = s.creds := rfl
@[simp] theorem addReq_rgroups (s : State) (r : Req) : (addReq s r).rgroups = s.rgroups := rfl
@[simp] theorem addReq_dpush (s : State) (r : Req) : (addReq s r).dpush = s.dpush := rfl
@[simp] theorem addReq_resvs (s : State) (r : Req) : (addReq s r).resvs = s.resvs := rfl
@[simp] theorem addReq_svps (s : State) (r : Req) : (addReq s r).svps = s.svps := rfl
@[simp] theorem addReq_svcAwake (s : State) (r : Req) : (addReq s r).svcAwake = s.svcAwake := rfl
@[simp] theorem addReq_svpFrozen (s : State) (r : Req) : (addReq s r).svpFrozen = s.svpFrozen := rfl
@[simp] theorem addReq_svqMap (s : State) (r : Req) : (addReq s r).svqMap = s.svqMap := rfl
@[simp] theorem addReq_heldAccs (s : State) (r : Req) : (addReq s r).heldAccs = s.heldAccs := rfl
@[simp] theorem addReq_asked (s : State) (r : Req) : (addReq s r).asked = s.asked := rfl
@[simp] theorem addReq_pfences (s : State) (r : Req) : (addReq s r).pfences = s.pfences := rfl
@[simp] theorem addReq_launchers (s : State) (r : Req) : (addReq s r).launchers = s.launchers := rfl
@[simp] theorem addReq_replay (s : State) (r : Req) : (addReq s r).replay = s.replay := rfl
@[simp] theorem addReq_ctxBlocks (s : State) (r : Req) : (addReq s r).ctxBlocks = s.ctxBlocks := rfl
@[simp] theorem addReq_closing (s : State) (r : Req) : (addReq s r).closing = s.closing := rfl
@[simp] theorem addReq_svpWait (s : State) (r : Req) : (addReq s r).svpWait = s.svpWait := rfl
@[simp] theorem addReq_durable (s : State) (r : Req) : (addReq s r).durable = s.durable := rfl
@[simp] theorem addReq_msixHead (s : State) (r : Req) : (addReq s r).msixHead = s.msixHead := rfl
@[simp] theorem addReq_msixWait (s : State) (r : Req) : (addReq s r).msixWait = s.msixWait := rfl

/-! ### modReq -/

@[simp] theorem modReq_moves (s : State) (id : Nat) (f : Req → Req) : (modReq s id f).moves = s.moves := rfl
@[simp] theorem modReq_turn (s : State) (id : Nat) (f : Req → Req) : (modReq s id f).turn = s.turn := rfl
@[simp] theorem modReq_arg (s : State) (id : Nat) (f : Req → Req) : (modReq s id f).arg = s.arg := rfl
@[simp] theorem modReq_freeNo (s : State) (id : Nat) (f : Req → Req) : (modReq s id f).freeNo = s.freeNo := rfl
@[simp] theorem modReq_nextId (s : State) (id : Nat) (f : Req → Req) : (modReq s id f).nextId = s.nextId := rfl
@[simp] theorem modReq_outs (s : State) (id : Nat) (f : Req → Req) : (modReq s id f).outs = s.outs := rfl
@[simp] theorem modReq_resets (s : State) (id : Nat) (f : Req → Req) : (modReq s id f).resets = s.resets := rfl
@[simp] theorem modReq_clocks (s : State) (id : Nat) (f : Req → Req) : (modReq s id f).clocks = s.clocks := rfl
@[simp] theorem modReq_timeNs (s : State) (id : Nat) (f : Req → Req) : (modReq s id f).timeNs = s.timeNs := rfl
@[simp] theorem modReq_boost (s : State) (id : Nat) (f : Req → Req) : (modReq s id f).boost = s.boost := rfl
@[simp] theorem modReq_throttle (s : State) (id : Nat) (f : Req → Req) : (modReq s id f).throttle = s.throttle := rfl
@[simp] theorem modReq_pwrLimit (s : State) (id : Nat) (f : Req → Req) : (modReq s id f).pwrLimit = s.pwrLimit := rfl
@[simp] theorem modReq_mem (s : State) (id : Nat) (f : Req → Req) : (modReq s id f).mem = s.mem := rfl
@[simp] theorem modReq_dev (s : State) (id : Nat) (f : Req → Req) : (modReq s id f).dev = s.dev := rfl
@[simp] theorem modReq_dies (s : State) (id : Nat) (f : Req → Req) : (modReq s id f).dies = s.dies := rfl
@[simp] theorem modReq_io (s : State) (id : Nat) (f : Req → Req) : (modReq s id f).io = s.io := rfl
@[simp] theorem modReq_grains (s : State) (id : Nat) (f : Req → Req) : (modReq s id f).grains = s.grains := rfl
@[simp] theorem modReq_wc (s : State) (id : Nat) (f : Req → Req) : (modReq s id f).wc = s.wc := rfl
@[simp] theorem modReq_announces (s : State) (id : Nat) (f : Req → Req) : (modReq s id f).announces = s.announces := rfl
@[simp] theorem modReq_psets (s : State) (id : Nat) (f : Req → Req) : (modReq s id f).psets = s.psets := rfl
@[simp] theorem modReq_grids (s : State) (id : Nat) (f : Req → Req) : (modReq s id f).grids = s.grids := rfl
@[simp] theorem modReq_teams (s : State) (id : Nat) (f : Req → Req) : (modReq s id f).teams = s.teams := rfl
@[simp] theorem modReq_squads (s : State) (id : Nat) (f : Req → Req) : (modReq s id f).squads = s.squads := rfl
@[simp] theorem modReq_away (s : State) (id : Nat) (f : Req → Req) : (modReq s id f).away = s.away := rfl
@[simp] theorem modReq_spines (s : State) (id : Nat) (f : Req → Req) : (modReq s id f).spines = s.spines := rfl
@[simp] theorem modReq_clusters (s : State) (id : Nat) (f : Req → Req) : (modReq s id f).clusters = s.clusters := rfl
@[simp] theorem modReq_cores (s : State) (id : Nat) (f : Req → Req) : (modReq s id f).cores = s.cores := rfl
@[simp] theorem modReq_pops (s : State) (id : Nat) (f : Req → Req) : (modReq s id f).pops = s.pops := rfl
@[simp] theorem modReq_mops (s : State) (id : Nat) (f : Req → Req) : (modReq s id f).mops = s.mops := rfl
@[simp] theorem modReq_copies (s : State) (id : Nat) (f : Req → Req) : (modReq s id f).copies = s.copies := rfl
@[simp] theorem modReq_creds (s : State) (id : Nat) (f : Req → Req) : (modReq s id f).creds = s.creds := rfl
@[simp] theorem modReq_rgroups (s : State) (id : Nat) (f : Req → Req) : (modReq s id f).rgroups = s.rgroups := rfl
@[simp] theorem modReq_dpush (s : State) (id : Nat) (f : Req → Req) : (modReq s id f).dpush = s.dpush := rfl
@[simp] theorem modReq_resvs (s : State) (id : Nat) (f : Req → Req) : (modReq s id f).resvs = s.resvs := rfl
@[simp] theorem modReq_svps (s : State) (id : Nat) (f : Req → Req) : (modReq s id f).svps = s.svps := rfl
@[simp] theorem modReq_svcAwake (s : State) (id : Nat) (f : Req → Req) : (modReq s id f).svcAwake = s.svcAwake := rfl
@[simp] theorem modReq_svpFrozen (s : State) (id : Nat) (f : Req → Req) : (modReq s id f).svpFrozen = s.svpFrozen := rfl
@[simp] theorem modReq_svqMap (s : State) (id : Nat) (f : Req → Req) : (modReq s id f).svqMap = s.svqMap := rfl
@[simp] theorem modReq_heldAccs (s : State) (id : Nat) (f : Req → Req) : (modReq s id f).heldAccs = s.heldAccs := rfl
@[simp] theorem modReq_asked (s : State) (id : Nat) (f : Req → Req) : (modReq s id f).asked = s.asked := rfl
@[simp] theorem modReq_pfences (s : State) (id : Nat) (f : Req → Req) : (modReq s id f).pfences = s.pfences := rfl
@[simp] theorem modReq_launchers (s : State) (id : Nat) (f : Req → Req) : (modReq s id f).launchers = s.launchers := rfl
@[simp] theorem modReq_replay (s : State) (id : Nat) (f : Req → Req) : (modReq s id f).replay = s.replay := rfl
@[simp] theorem modReq_ctxBlocks (s : State) (id : Nat) (f : Req → Req) : (modReq s id f).ctxBlocks = s.ctxBlocks := rfl
@[simp] theorem modReq_closing (s : State) (id : Nat) (f : Req → Req) : (modReq s id f).closing = s.closing := rfl
@[simp] theorem modReq_svpWait (s : State) (id : Nat) (f : Req → Req) : (modReq s id f).svpWait = s.svpWait := rfl
@[simp] theorem modReq_durable (s : State) (id : Nat) (f : Req → Req) : (modReq s id f).durable = s.durable := rfl
@[simp] theorem modReq_msixHead (s : State) (id : Nat) (f : Req → Req) : (modReq s id f).msixHead = s.msixHead := rfl
@[simp] theorem modReq_msixWait (s : State) (id : Nat) (f : Req → Req) : (modReq s id f).msixWait = s.msixWait := rfl

/-! ### dropReq -/

@[simp] theorem dropReq_moves (s : State) (id : Nat) : (dropReq s id).moves = s.moves := rfl
@[simp] theorem dropReq_turn (s : State) (id : Nat) : (dropReq s id).turn = s.turn := rfl
@[simp] theorem dropReq_arg (s : State) (id : Nat) : (dropReq s id).arg = s.arg := rfl
@[simp] theorem dropReq_freeNo (s : State) (id : Nat) : (dropReq s id).freeNo = s.freeNo := rfl
@[simp] theorem dropReq_nextId (s : State) (id : Nat) : (dropReq s id).nextId = s.nextId := rfl
@[simp] theorem dropReq_outs (s : State) (id : Nat) : (dropReq s id).outs = s.outs := rfl
@[simp] theorem dropReq_resets (s : State) (id : Nat) : (dropReq s id).resets = s.resets := rfl
@[simp] theorem dropReq_clocks (s : State) (id : Nat) : (dropReq s id).clocks = s.clocks := rfl
@[simp] theorem dropReq_timeNs (s : State) (id : Nat) : (dropReq s id).timeNs = s.timeNs := rfl
@[simp] theorem dropReq_boost (s : State) (id : Nat) : (dropReq s id).boost = s.boost := rfl
@[simp] theorem dropReq_throttle (s : State) (id : Nat) : (dropReq s id).throttle = s.throttle := rfl
@[simp] theorem dropReq_pwrLimit (s : State) (id : Nat) : (dropReq s id).pwrLimit = s.pwrLimit := rfl
@[simp] theorem dropReq_mem (s : State) (id : Nat) : (dropReq s id).mem = s.mem := rfl
@[simp] theorem dropReq_dev (s : State) (id : Nat) : (dropReq s id).dev = s.dev := rfl
@[simp] theorem dropReq_io (s : State) (id : Nat) : (dropReq s id).io = s.io := rfl
@[simp] theorem dropReq_grains (s : State) (id : Nat) : (dropReq s id).grains = s.grains := rfl
@[simp] theorem dropReq_wc (s : State) (id : Nat) : (dropReq s id).wc = s.wc := rfl
@[simp] theorem dropReq_announces (s : State) (id : Nat) : (dropReq s id).announces = s.announces := rfl
@[simp] theorem dropReq_psets (s : State) (id : Nat) : (dropReq s id).psets = s.psets := rfl
@[simp] theorem dropReq_grids (s : State) (id : Nat) : (dropReq s id).grids = s.grids := rfl
@[simp] theorem dropReq_teams (s : State) (id : Nat) : (dropReq s id).teams = s.teams := rfl
@[simp] theorem dropReq_squads (s : State) (id : Nat) : (dropReq s id).squads = s.squads := rfl
@[simp] theorem dropReq_away (s : State) (id : Nat) : (dropReq s id).away = s.away := rfl
@[simp] theorem dropReq_spines (s : State) (id : Nat) : (dropReq s id).spines = s.spines := rfl
@[simp] theorem dropReq_clusters (s : State) (id : Nat) : (dropReq s id).clusters = s.clusters := rfl
@[simp] theorem dropReq_cores (s : State) (id : Nat) : (dropReq s id).cores = s.cores := rfl
@[simp] theorem dropReq_pops (s : State) (id : Nat) : (dropReq s id).pops = s.pops := rfl
@[simp] theorem dropReq_mops (s : State) (id : Nat) : (dropReq s id).mops = s.mops := rfl
@[simp] theorem dropReq_copies (s : State) (id : Nat) : (dropReq s id).copies = s.copies := rfl
@[simp] theorem dropReq_creds (s : State) (id : Nat) : (dropReq s id).creds = s.creds := rfl
@[simp] theorem dropReq_rgroups (s : State) (id : Nat) : (dropReq s id).rgroups = s.rgroups := rfl
@[simp] theorem dropReq_dpush (s : State) (id : Nat) : (dropReq s id).dpush = s.dpush := rfl
@[simp] theorem dropReq_resvs (s : State) (id : Nat) : (dropReq s id).resvs = s.resvs := rfl
@[simp] theorem dropReq_svps (s : State) (id : Nat) : (dropReq s id).svps = s.svps := rfl
@[simp] theorem dropReq_svcAwake (s : State) (id : Nat) : (dropReq s id).svcAwake = s.svcAwake := rfl
@[simp] theorem dropReq_svpFrozen (s : State) (id : Nat) : (dropReq s id).svpFrozen = s.svpFrozen := rfl
@[simp] theorem dropReq_svqMap (s : State) (id : Nat) : (dropReq s id).svqMap = s.svqMap := rfl
@[simp] theorem dropReq_heldAccs (s : State) (id : Nat) : (dropReq s id).heldAccs = s.heldAccs := rfl
@[simp] theorem dropReq_asked (s : State) (id : Nat) : (dropReq s id).asked = s.asked := rfl
@[simp] theorem dropReq_pfences (s : State) (id : Nat) : (dropReq s id).pfences = s.pfences := rfl
@[simp] theorem dropReq_launchers (s : State) (id : Nat) : (dropReq s id).launchers = s.launchers := rfl
@[simp] theorem dropReq_replay (s : State) (id : Nat) : (dropReq s id).replay = s.replay := rfl
@[simp] theorem dropReq_ctxBlocks (s : State) (id : Nat) : (dropReq s id).ctxBlocks = s.ctxBlocks := rfl
@[simp] theorem dropReq_closing (s : State) (id : Nat) : (dropReq s id).closing = s.closing := rfl
@[simp] theorem dropReq_svpWait (s : State) (id : Nat) : (dropReq s id).svpWait = s.svpWait := rfl
@[simp] theorem dropReq_durable (s : State) (id : Nat) : (dropReq s id).durable = s.durable := rfl
@[simp] theorem dropReq_msixHead (s : State) (id : Nat) : (dropReq s id).msixHead = s.msixHead := rfl
@[simp] theorem dropReq_msixWait (s : State) (id : Nat) : (dropReq s id).msixWait = s.msixWait := rfl

/-! ### draw -/

@[simp] theorem draw_moves (s : State) : (s.draw).moves = s.moves := rfl
@[simp] theorem draw_turn (s : State) : (s.draw).turn = s.turn := rfl
@[simp] theorem draw_arg (s : State) : (s.draw).arg = s.arg := rfl
@[simp] theorem draw_nextId (s : State) : (s.draw).nextId = s.nextId := rfl
@[simp] theorem draw_outs (s : State) : (s.draw).outs = s.outs := rfl
@[simp] theorem draw_resets (s : State) : (s.draw).resets = s.resets := rfl
@[simp] theorem draw_clocks (s : State) : (s.draw).clocks = s.clocks := rfl
@[simp] theorem draw_timeNs (s : State) : (s.draw).timeNs = s.timeNs := rfl
@[simp] theorem draw_boost (s : State) : (s.draw).boost = s.boost := rfl
@[simp] theorem draw_throttle (s : State) : (s.draw).throttle = s.throttle := rfl
@[simp] theorem draw_pwrLimit (s : State) : (s.draw).pwrLimit = s.pwrLimit := rfl
@[simp] theorem draw_mem (s : State) : (s.draw).mem = s.mem := rfl
@[simp] theorem draw_dev (s : State) : (s.draw).dev = s.dev := rfl
@[simp] theorem draw_dies (s : State) : (s.draw).dies = s.dies := rfl
@[simp] theorem draw_io (s : State) : (s.draw).io = s.io := rfl
@[simp] theorem draw_grains (s : State) : (s.draw).grains = s.grains := rfl
@[simp] theorem draw_wc (s : State) : (s.draw).wc = s.wc := rfl
@[simp] theorem draw_announces (s : State) : (s.draw).announces = s.announces := rfl
@[simp] theorem draw_reqs (s : State) : (s.draw).reqs = s.reqs := rfl
@[simp] theorem draw_psets (s : State) : (s.draw).psets = s.psets := rfl
@[simp] theorem draw_grids (s : State) : (s.draw).grids = s.grids := rfl
@[simp] theorem draw_teams (s : State) : (s.draw).teams = s.teams := rfl
@[simp] theorem draw_squads (s : State) : (s.draw).squads = s.squads := rfl
@[simp] theorem draw_away (s : State) : (s.draw).away = s.away := rfl
@[simp] theorem draw_spines (s : State) : (s.draw).spines = s.spines := rfl
@[simp] theorem draw_clusters (s : State) : (s.draw).clusters = s.clusters := rfl
@[simp] theorem draw_cores (s : State) : (s.draw).cores = s.cores := rfl
@[simp] theorem draw_pops (s : State) : (s.draw).pops = s.pops := rfl
@[simp] theorem draw_mops (s : State) : (s.draw).mops = s.mops := rfl
@[simp] theorem draw_copies (s : State) : (s.draw).copies = s.copies := rfl
@[simp] theorem draw_creds (s : State) : (s.draw).creds = s.creds := rfl
@[simp] theorem draw_rgroups (s : State) : (s.draw).rgroups = s.rgroups := rfl
@[simp] theorem draw_dpush (s : State) : (s.draw).dpush = s.dpush := rfl
@[simp] theorem draw_resvs (s : State) : (s.draw).resvs = s.resvs := rfl
@[simp] theorem draw_svps (s : State) : (s.draw).svps = s.svps := rfl
@[simp] theorem draw_svcAwake (s : State) : (s.draw).svcAwake = s.svcAwake := rfl
@[simp] theorem draw_svpFrozen (s : State) : (s.draw).svpFrozen = s.svpFrozen := rfl
@[simp] theorem draw_svqMap (s : State) : (s.draw).svqMap = s.svqMap := rfl
@[simp] theorem draw_heldAccs (s : State) : (s.draw).heldAccs = s.heldAccs := rfl
@[simp] theorem draw_asked (s : State) : (s.draw).asked = s.asked := rfl
@[simp] theorem draw_pfences (s : State) : (s.draw).pfences = s.pfences := rfl
@[simp] theorem draw_launchers (s : State) : (s.draw).launchers = s.launchers := rfl
@[simp] theorem draw_replay (s : State) : (s.draw).replay = s.replay := rfl
@[simp] theorem draw_ctxBlocks (s : State) : (s.draw).ctxBlocks = s.ctxBlocks := rfl
@[simp] theorem draw_closing (s : State) : (s.draw).closing = s.closing := rfl
@[simp] theorem draw_svpWait (s : State) : (s.draw).svpWait = s.svpWait := rfl
@[simp] theorem draw_durable (s : State) : (s.draw).durable = s.durable := rfl
@[simp] theorem draw_msixHead (s : State) : (s.draw).msixHead = s.msixHead := rfl
@[simp] theorem draw_msixWait (s : State) : (s.draw).msixWait = s.msixWait := rfl

/-! ### fresh -/

@[simp] theorem fresh_moves (s : State) : (s.fresh).moves = s.moves := rfl
@[simp] theorem fresh_turn (s : State) : (s.fresh).turn = s.turn := rfl
@[simp] theorem fresh_arg (s : State) : (s.fresh).arg = s.arg := rfl
@[simp] theorem fresh_freeNo (s : State) : (s.fresh).freeNo = s.freeNo := rfl
@[simp] theorem fresh_outs (s : State) : (s.fresh).outs = s.outs := rfl
@[simp] theorem fresh_resets (s : State) : (s.fresh).resets = s.resets := rfl
@[simp] theorem fresh_clocks (s : State) : (s.fresh).clocks = s.clocks := rfl
@[simp] theorem fresh_timeNs (s : State) : (s.fresh).timeNs = s.timeNs := rfl
@[simp] theorem fresh_boost (s : State) : (s.fresh).boost = s.boost := rfl
@[simp] theorem fresh_throttle (s : State) : (s.fresh).throttle = s.throttle := rfl
@[simp] theorem fresh_pwrLimit (s : State) : (s.fresh).pwrLimit = s.pwrLimit := rfl
@[simp] theorem fresh_mem (s : State) : (s.fresh).mem = s.mem := rfl
@[simp] theorem fresh_dev (s : State) : (s.fresh).dev = s.dev := rfl
@[simp] theorem fresh_dies (s : State) : (s.fresh).dies = s.dies := rfl
@[simp] theorem fresh_io (s : State) : (s.fresh).io = s.io := rfl
@[simp] theorem fresh_grains (s : State) : (s.fresh).grains = s.grains := rfl
@[simp] theorem fresh_wc (s : State) : (s.fresh).wc = s.wc := rfl
@[simp] theorem fresh_announces (s : State) : (s.fresh).announces = s.announces := rfl
@[simp] theorem fresh_reqs (s : State) : (s.fresh).reqs = s.reqs := rfl
@[simp] theorem fresh_psets (s : State) : (s.fresh).psets = s.psets := rfl
@[simp] theorem fresh_grids (s : State) : (s.fresh).grids = s.grids := rfl
@[simp] theorem fresh_teams (s : State) : (s.fresh).teams = s.teams := rfl
@[simp] theorem fresh_squads (s : State) : (s.fresh).squads = s.squads := rfl
@[simp] theorem fresh_away (s : State) : (s.fresh).away = s.away := rfl
@[simp] theorem fresh_spines (s : State) : (s.fresh).spines = s.spines := rfl
@[simp] theorem fresh_clusters (s : State) : (s.fresh).clusters = s.clusters := rfl
@[simp] theorem fresh_cores (s : State) : (s.fresh).cores = s.cores := rfl
@[simp] theorem fresh_pops (s : State) : (s.fresh).pops = s.pops := rfl
@[simp] theorem fresh_mops (s : State) : (s.fresh).mops = s.mops := rfl
@[simp] theorem fresh_copies (s : State) : (s.fresh).copies = s.copies := rfl
@[simp] theorem fresh_creds (s : State) : (s.fresh).creds = s.creds := rfl
@[simp] theorem fresh_rgroups (s : State) : (s.fresh).rgroups = s.rgroups := rfl
@[simp] theorem fresh_dpush (s : State) : (s.fresh).dpush = s.dpush := rfl
@[simp] theorem fresh_resvs (s : State) : (s.fresh).resvs = s.resvs := rfl
@[simp] theorem fresh_svps (s : State) : (s.fresh).svps = s.svps := rfl
@[simp] theorem fresh_svcAwake (s : State) : (s.fresh).svcAwake = s.svcAwake := rfl
@[simp] theorem fresh_svpFrozen (s : State) : (s.fresh).svpFrozen = s.svpFrozen := rfl
@[simp] theorem fresh_svqMap (s : State) : (s.fresh).svqMap = s.svqMap := rfl
@[simp] theorem fresh_heldAccs (s : State) : (s.fresh).heldAccs = s.heldAccs := rfl
@[simp] theorem fresh_asked (s : State) : (s.fresh).asked = s.asked := rfl
@[simp] theorem fresh_pfences (s : State) : (s.fresh).pfences = s.pfences := rfl
@[simp] theorem fresh_launchers (s : State) : (s.fresh).launchers = s.launchers := rfl
@[simp] theorem fresh_replay (s : State) : (s.fresh).replay = s.replay := rfl
@[simp] theorem fresh_ctxBlocks (s : State) : (s.fresh).ctxBlocks = s.ctxBlocks := rfl
@[simp] theorem fresh_closing (s : State) : (s.fresh).closing = s.closing := rfl
@[simp] theorem fresh_svpWait (s : State) : (s.fresh).svpWait = s.svpWait := rfl
@[simp] theorem fresh_durable (s : State) : (s.fresh).durable = s.durable := rfl
@[simp] theorem fresh_msixHead (s : State) : (s.fresh).msixHead = s.msixHead := rfl
@[simp] theorem fresh_msixWait (s : State) : (s.fresh).msixWait = s.msixWait := rfl

/-! ### modSquad -/

@[simp] theorem modSquad_moves (s : State) (id : Nat) (f : Squad → Squad) : (modSquad s id f).moves = s.moves := by unfold modSquad; split <;> rfl
@[simp] theorem modSquad_turn (s : State) (id : Nat) (f : Squad → Squad) : (modSquad s id f).turn = s.turn := by unfold modSquad; split <;> rfl
@[simp] theorem modSquad_arg (s : State) (id : Nat) (f : Squad → Squad) : (modSquad s id f).arg = s.arg := by unfold modSquad; split <;> rfl
@[simp] theorem modSquad_freeNo (s : State) (id : Nat) (f : Squad → Squad) : (modSquad s id f).freeNo = s.freeNo := by unfold modSquad; split <;> rfl
@[simp] theorem modSquad_nextId (s : State) (id : Nat) (f : Squad → Squad) : (modSquad s id f).nextId = s.nextId := by unfold modSquad; split <;> rfl
@[simp] theorem modSquad_outs (s : State) (id : Nat) (f : Squad → Squad) : (modSquad s id f).outs = s.outs := by unfold modSquad; split <;> rfl
@[simp] theorem modSquad_resets (s : State) (id : Nat) (f : Squad → Squad) : (modSquad s id f).resets = s.resets := by unfold modSquad; split <;> rfl
@[simp] theorem modSquad_clocks (s : State) (id : Nat) (f : Squad → Squad) : (modSquad s id f).clocks = s.clocks := by unfold modSquad; split <;> rfl
@[simp] theorem modSquad_timeNs (s : State) (id : Nat) (f : Squad → Squad) : (modSquad s id f).timeNs = s.timeNs := by unfold modSquad; split <;> rfl
@[simp] theorem modSquad_boost (s : State) (id : Nat) (f : Squad → Squad) : (modSquad s id f).boost = s.boost := by unfold modSquad; split <;> rfl
@[simp] theorem modSquad_throttle (s : State) (id : Nat) (f : Squad → Squad) : (modSquad s id f).throttle = s.throttle := by unfold modSquad; split <;> rfl
@[simp] theorem modSquad_pwrLimit (s : State) (id : Nat) (f : Squad → Squad) : (modSquad s id f).pwrLimit = s.pwrLimit := by unfold modSquad; split <;> rfl
@[simp] theorem modSquad_mem (s : State) (id : Nat) (f : Squad → Squad) : (modSquad s id f).mem = s.mem := by unfold modSquad; split <;> rfl
@[simp] theorem modSquad_dev (s : State) (id : Nat) (f : Squad → Squad) : (modSquad s id f).dev = s.dev := by unfold modSquad; split <;> rfl
@[simp] theorem modSquad_dies (s : State) (id : Nat) (f : Squad → Squad) : (modSquad s id f).dies = s.dies := by unfold modSquad; split <;> rfl
@[simp] theorem modSquad_io (s : State) (id : Nat) (f : Squad → Squad) : (modSquad s id f).io = s.io := by unfold modSquad; split <;> rfl
@[simp] theorem modSquad_grains (s : State) (id : Nat) (f : Squad → Squad) : (modSquad s id f).grains = s.grains := by unfold modSquad; split <;> rfl
@[simp] theorem modSquad_wc (s : State) (id : Nat) (f : Squad → Squad) : (modSquad s id f).wc = s.wc := by unfold modSquad; split <;> rfl
@[simp] theorem modSquad_announces (s : State) (id : Nat) (f : Squad → Squad) : (modSquad s id f).announces = s.announces := by unfold modSquad; split <;> rfl
@[simp] theorem modSquad_reqs (s : State) (id : Nat) (f : Squad → Squad) : (modSquad s id f).reqs = s.reqs := by unfold modSquad; split <;> rfl
@[simp] theorem modSquad_psets (s : State) (id : Nat) (f : Squad → Squad) : (modSquad s id f).psets = s.psets := by unfold modSquad; split <;> rfl
@[simp] theorem modSquad_grids (s : State) (id : Nat) (f : Squad → Squad) : (modSquad s id f).grids = s.grids := by unfold modSquad; split <;> rfl
@[simp] theorem modSquad_teams (s : State) (id : Nat) (f : Squad → Squad) : (modSquad s id f).teams = s.teams := by unfold modSquad; split <;> rfl
@[simp] theorem modSquad_spines (s : State) (id : Nat) (f : Squad → Squad) : (modSquad s id f).spines = s.spines := by unfold modSquad; split <;> rfl
@[simp] theorem modSquad_clusters (s : State) (id : Nat) (f : Squad → Squad) : (modSquad s id f).clusters = s.clusters := by unfold modSquad; split <;> rfl
@[simp] theorem modSquad_cores (s : State) (id : Nat) (f : Squad → Squad) : (modSquad s id f).cores = s.cores := by unfold modSquad; split <;> rfl
@[simp] theorem modSquad_pops (s : State) (id : Nat) (f : Squad → Squad) : (modSquad s id f).pops = s.pops := by unfold modSquad; split <;> rfl
@[simp] theorem modSquad_mops (s : State) (id : Nat) (f : Squad → Squad) : (modSquad s id f).mops = s.mops := by unfold modSquad; split <;> rfl
@[simp] theorem modSquad_copies (s : State) (id : Nat) (f : Squad → Squad) : (modSquad s id f).copies = s.copies := by unfold modSquad; split <;> rfl
@[simp] theorem modSquad_creds (s : State) (id : Nat) (f : Squad → Squad) : (modSquad s id f).creds = s.creds := by unfold modSquad; split <;> rfl
@[simp] theorem modSquad_rgroups (s : State) (id : Nat) (f : Squad → Squad) : (modSquad s id f).rgroups = s.rgroups := by unfold modSquad; split <;> rfl
@[simp] theorem modSquad_dpush (s : State) (id : Nat) (f : Squad → Squad) : (modSquad s id f).dpush = s.dpush := by unfold modSquad; split <;> rfl
@[simp] theorem modSquad_resvs (s : State) (id : Nat) (f : Squad → Squad) : (modSquad s id f).resvs = s.resvs := by unfold modSquad; split <;> rfl
@[simp] theorem modSquad_svps (s : State) (id : Nat) (f : Squad → Squad) : (modSquad s id f).svps = s.svps := by unfold modSquad; split <;> rfl
@[simp] theorem modSquad_svcAwake (s : State) (id : Nat) (f : Squad → Squad) : (modSquad s id f).svcAwake = s.svcAwake := by unfold modSquad; split <;> rfl
@[simp] theorem modSquad_svpFrozen (s : State) (id : Nat) (f : Squad → Squad) : (modSquad s id f).svpFrozen = s.svpFrozen := by unfold modSquad; split <;> rfl
@[simp] theorem modSquad_svqMap (s : State) (id : Nat) (f : Squad → Squad) : (modSquad s id f).svqMap = s.svqMap := by unfold modSquad; split <;> rfl
@[simp] theorem modSquad_heldAccs (s : State) (id : Nat) (f : Squad → Squad) : (modSquad s id f).heldAccs = s.heldAccs := by unfold modSquad; split <;> rfl
@[simp] theorem modSquad_asked (s : State) (id : Nat) (f : Squad → Squad) : (modSquad s id f).asked = s.asked := by unfold modSquad; split <;> rfl
@[simp] theorem modSquad_pfences (s : State) (id : Nat) (f : Squad → Squad) : (modSquad s id f).pfences = s.pfences := by unfold modSquad; split <;> rfl
@[simp] theorem modSquad_launchers (s : State) (id : Nat) (f : Squad → Squad) : (modSquad s id f).launchers = s.launchers := by unfold modSquad; split <;> rfl
@[simp] theorem modSquad_replay (s : State) (id : Nat) (f : Squad → Squad) : (modSquad s id f).replay = s.replay := by unfold modSquad; split <;> rfl
@[simp] theorem modSquad_ctxBlocks (s : State) (id : Nat) (f : Squad → Squad) : (modSquad s id f).ctxBlocks = s.ctxBlocks := by unfold modSquad; split <;> rfl
@[simp] theorem modSquad_closing (s : State) (id : Nat) (f : Squad → Squad) : (modSquad s id f).closing = s.closing := by unfold modSquad; split <;> rfl
@[simp] theorem modSquad_svpWait (s : State) (id : Nat) (f : Squad → Squad) : (modSquad s id f).svpWait = s.svpWait := by unfold modSquad; split <;> rfl
@[simp] theorem modSquad_durable (s : State) (id : Nat) (f : Squad → Squad) : (modSquad s id f).durable = s.durable := by unfold modSquad; split <;> rfl
@[simp] theorem modSquad_msixHead (s : State) (id : Nat) (f : Squad → Squad) : (modSquad s id f).msixHead = s.msixHead := by unfold modSquad; split <;> rfl
@[simp] theorem modSquad_msixWait (s : State) (id : Nat) (f : Squad → Squad) : (modSquad s id f).msixWait = s.msixWait := by unfold modSquad; split <;> rfl

/-! ### What an update writes -/

theorem modTeam_teams (s : State) (id : Nat) (f : Team → Team) : (modTeam s id f).teams = mmod s.teams id f := rfl
theorem modSpine_spines (s : State) (t : Nat) (f : Spine → Spine) : (modSpine s t f).spines = mmod s.spines t f := rfl
theorem modCluster_clusters (s : State) (c : Nat) (f : Cluster → Cluster) :
    (modCluster s c f).clusters = mset s.clusters c (f (getCluster s c)) := rfl
theorem setDie_dies (s : State) (d : Nat) (x : Die) : (setDie s d x).dies = mset s.dies d x := rfl
theorem draw_freeNo (s : State) : s.draw.freeNo = s.freeNo + 1 := rfl
theorem fresh_nextId (s : State) : s.fresh.nextId = s.nextId + 1 := rfl

theorem getTeam_modTeam (s : State) (id k : Nat) (f : Team → Team) :
    mget (modTeam s id f).teams k = if k = id then (mget s.teams id).map f else mget s.teams k := by
  rw [modTeam_teams]
  split
  · next h => rw [h, mget_mmod_self]
  · next h => exact mget_mmod_ne _ _ _ _ h

theorem getSpine_modSpine (s : State) (t k : Nat) (f : Spine → Spine) :
    mget (modSpine s t f).spines k = if k = t then (mget s.spines t).map f else mget s.spines k := by
  rw [modSpine_spines]
  split
  · next h => rw [h, mget_mmod_self]
  · next h => exact mget_mmod_ne _ _ _ _ h

theorem getSquad_modSquad (s : State) (id k : Nat) (f : Squad → Squad) :
    mget (modSquad s id f).squads k = if k = id then (mget s.squads id).map f else mget s.squads k := by
  unfold modSquad
  split
  · next q h =>
    split
    · next e => rw [e, mget_mmod_self]
    · next e => exact mget_mmod_ne _ _ _ _ e
  · next h =>
    split
    · next e => rw [e, h]; rfl
    · rfl

@[simp] theorem getCluster_modCluster (s : State) (c : Nat) (f : Cluster → Cluster) :
    getCluster (modCluster s c f) c = f (getCluster s c) := by
  simp [getCluster, modCluster_clusters, mgetD, mget_mset_self]

theorem getCluster_modCluster_ne (s : State) (c k : Nat) (f : Cluster → Cluster) (h : k ≠ c) :
    getCluster (modCluster s c f) k = getCluster s k := by
  simp [getCluster, modCluster_clusters, mgetD, mget_mset_ne _ _ _ _ h]

@[simp] theorem getDie_setDie (s : State) (d : Nat) (x : Die) : getDie (setDie s d x) d = x := by
  simp [getDie, setDie_dies, mgetD, mget_mset_self]

theorem getDie_setDie_ne (s : State) (d k : Nat) (x : Die) (h : k ≠ d) : getDie (setDie s d x) k = getDie s k := by
  simp [getDie, setDie_dies, mgetD, mget_mset_ne _ _ _ _ h]

/-! ### Registers of a spine thread: x0 reads zero and drops what is written (07 R163) -/

@[simp] theorem getX_zero (sp : Spine) : getX sp 0 = 0 := rfl

theorem getX_setX (sp : Spine) (d n : BitVec 6) (v : Dword) :
    getX (setX sp d v) n = if n = 0 then 0 else if n = d then v else getX sp n := by
  unfold getX setX
  by_cases hn : n = 0
  · simp [hn]
  · by_cases hd : d = 0
    · subst hd; rw [if_pos rfl]; split <;> rfl
    · simp only [hn, hd, if_false, mgetD]
      by_cases h : n = d
      · subst h; simp [mget_mset_self]
      · rw [mget_mset_ne _ _ _ _ (by intro e; exact h (BitVec.eq_of_toNat_eq e))]; simp [h]

end Sys2Proof.Machine
end

