-- ==== Sys2Proof/Safety.lean ====
section
/-! DEFINITION. What counts as a safe run, in the terms that statements use. -/

namespace Sys2Proof.Safety

open Sys2Proof Sys2Proof.Machine

/-- The canonical form: memory, and what the persistence domains hold, list rising addresses and no byte that an unlisted
address reads as. -/
def Canonical (s : State) : Prop := Memory.wf s.mem = true ∧ Memory.wf s.durable = true

/-- The states that steps reach from a state. -/
inductive Reaches (s : State) : State → Prop
  | here : Reaches s s
  | step {t u : State} : Reaches s t → Machine.step t = .next u → Reaches s u

/-- A state in which the machine goes on. -/
def GoesOn (s : State) : Prop := ∃ t, Machine.step s = .next t

/-- A safe run: no step from a state on stops. -/
def Safe (s : State) : Prop := ∀ t, Reaches s t → GoesOn t

/-- Something that holds in a state and that every step keeps. -/
def Invariant (inv : State → Prop) : Prop := ∀ s t, inv s → Machine.step s = .next t → inv t

/-- What every step keeps holds in every state that is reached: the one induction over runs. -/
theorem Invariant.reaches {inv : State → Prop} (h : Invariant inv) {s t : State} (hs : inv s) (r : Reaches s t) : inv t := by
  induction r with
  | here => exact hs
  | step _ e ih => exact h _ _ ih e

end Sys2Proof.Safety
end

