-- ==== Sys2Proof/Laws/Canonical.lean ====
section
/-! SUPPORT. What the shared operations do to memory: those that write it keep the canonical form, the others leave memory and
the persistence domains alone. -/

namespace Sys2Proof.Machine

open Safety

/-! ### The form of a state given by its fields, of a fold, of a choice -/
@[simp] theorem Canonical_mk (moves : List Move) (turn : Agent) (arg : EvArg) (freeNo : Nat) (nextId : Nat) (outs :
    List Out) (resets : Nat) (clocks : FMap Nat) (timeNs : Dword) (boost : Bool) (throttle : Nat) (pwrLimit : Nat)
    (mem : List Host.Cell) (dev : Dev) (dies : FMap Die) (io : Io) (grains : List Grain) (wc : List WcEntry)
    (announces : List Announce) (reqs : List Req) (psets : FMap PSet) (grids : FMap Grid) (teams : FMap Team) (squads
    : FMap Squad) (away : FMap Squad) (spines : FMap Spine) (clusters : FMap Cluster) (cores : FMap CoreSt) (pops :
    FMap POp) (mops : List MOp) (copies : List Copy) (creds : List Cred) (rgroups : List RGroup) (dpush : List DPush)
    (resvs : List Resv) (svps : FMap Spine) (svcAwake : Dword) (svpFrozen : Bool) (svqMap : FMap (Nat × Nat))
    (heldAccs : List HeldAcc) (asked : List (Half × Dword)) (pfences : List Agent) (launchers : FMap Launcher) (replay
    : FMap Nat) (ctxBlocks : FMap (List Nat)) (closing : FMap (Nat × Option HostCmd)) (svpWait : FMap HostCmd)
    (durable : List Host.Cell) (msixHead : FMap Nat) (msixWait : List (Nat × Nat × List Nat)) : Canonical ⟨moves,
    turn, arg, freeNo, nextId, outs, resets, clocks, timeNs, boost, throttle, pwrLimit, mem, dev, dies, io, grains,
    wc, announces, reqs, psets, grids, teams, squads, away, spines, clusters, cores, pops, mops, copies, creds,
    rgroups, dpush, resvs, svps, svcAwake, svpFrozen, svqMap, heldAccs, asked, pfences, launchers, replay, ctxBlocks,
    closing, svpWait, durable, msixHead, msixWait⟩ ↔ Memory.wf mem = true ∧ Memory.wf durable = true := Iff.rfl

@[simp] theorem Canonical.wf_mem {s : State} (h : Canonical s) : Memory.wf s.mem = true := h.1

@[simp] theorem Canonical.wf_durable {s : State} (h : Canonical s) : Memory.wf s.durable = true := h.2

/-- What leaves memory and the persistence domains alone keeps the form. -/
theorem Canonical_of_eq {s t : State} (h : Canonical s) (hm : t.mem = s.mem) (hd : t.durable = s.durable) :
    Canonical t := by
  unfold Canonical
  rw [hm, hd]
  exact h

theorem Canonical_foldl {α : Type} {f : State → α → State} (hf : ∀ s a, Canonical s → Canonical (f s a)) (l : List α)
    {s : State} (h : Canonical s) : Canonical (l.foldl f s) := by
  induction l generalizing s with
  | nil => exact h
  | cons a l ih => exact ih (hf s a h)

theorem Canonical_ite {c : Prop} [Decidable c] {a b : State} (ha : Canonical a) (hb : Canonical b) :
    Canonical (if c then a else b) := by split <;> assumption

theorem draw_canon {s : State} (h : Canonical s) : Canonical s.draw := h

theorem setDie_canon {s : State} {d x} (h : Canonical s) : Canonical (setDie s d x) := h

theorem inOrder_canon {s : State} {d k r w} (h : Canonical s) : Canonical (inOrder s d k r w) :=
  Canonical_of_eq h (by simp) (by simp)

/-! ### Walks, the checks at a home, requests -/

theorem walkRead_canon {s : State} {die asid map lv pre a size} (h : Canonical s) :
    Canonical (walkRead s die asid map lv pre a size).1 := by
  unfold walkRead
  dsimp only
  repeat' split
  all_goals exact h

theorem hmStep_canon {r : State × Nat} {size} {k : State → Nat → State × HmWalk}
    (hk : ∀ s t, Canonical s → Canonical (k s t).1) (h : Canonical r.1) : Canonical (hmStep r size k).1 := by
  unfold hmStep
  split
  · exact h
  · exact h
  · exact hk _ _ h

theorem hmWalkAt_canon {s : State} {die slot asid va} (h : Canonical s) : Canonical (hmWalkAt s die slot asid va).1 :=
  hmStep_canon (fun _ _ h => hmStep_canon (fun _ _ h => hmStep_canon (fun _ _ h => hmStep_canon (fun _ _ h => h)
    (walkRead_canon h)) (walkRead_canon h)) (walkRead_canon h)) h

theorem ptStep_canon {r : State × Nat} {size} {k : State → Nat → State × PtWalk}
    (hk : ∀ s t, Canonical s → Canonical (k s t).1) (h : Canonical r.1) : Canonical (ptStep r size k).1 := by
  unfold ptStep
  split
  · exact h
  · exact h
  · exact hk _ _ h

theorem ptWalkAt_canon {s : State} {die slot asid va} (h : Canonical s) : Canonical (ptWalkAt s die slot asid va).1 := by
  refine ptStep_canon (fun s t h => ptStep_canon (fun s t h => ptStep_canon (fun s t h => ?_) (walkRead_canon h))
    (walkRead_canon h)) h
  dsimp only
  split
  · exact walkRead_canon h
  · refine ptStep_canon (fun s t h => ?_) (walkRead_canon h)
    split
    · exact walkRead_canon h
    · exact ptStep_canon (fun _ _ h => h) (walkRead_canon h)

theorem homeLookup_canon {s : State} {die slot asid va} (h : Canonical s) :
    Canonical (homeLookup s die slot asid va).1 := by
  have h1 := @hmWalkAt_canon s (some die) slot asid va h
  unfold homeLookup
  dsimp only
  repeat' split
  all_goals first | exact h | exact h1

theorem dropHme_canon {s : State} {die asid va} (h : Canonical s) : Canonical (dropHme s die asid va) := setDie_canon h

theorem homeWalk_canon {s : State} {die slot asid va} (h : Canonical s) : Canonical (homeWalk s die slot asid va).1 := by
  unfold homeWalk
  dsimp only
  repeat' split
  all_goals first | exact ptWalkAt_canon h | exact h

theorem heatSample_canon {s : State} {d w pa} (h : Canonical s) : Canonical (heatSample s d w pa) := by
  unfold heatSample
  dsimp only
  split <;> grind [Canonical_mk, Canonical.wf_mem, Canonical.wf_durable, memWrite_wf, memWriteN_wf]

theorem heatFree_canon {s : State} {d w g} (h : Canonical s) : Canonical (heatFree s d w g) :=
  ⟨memWriteN_wf (memWriteN_wf h.1), h.2⟩

theorem heatCount_canon {s : State} {d x} (h : Canonical s) : Canonical (heatCount s d x) := by
  unfold heatCount
  dsimp only
  repeat' split
  all_goals first
    | with_reducible exact setDie_canon h | with_reducible exact heatSample_canon (setDie_canon h)
    | with_reducible exact heatFree_canon (setDie_canon h)

theorem tlbPut_canon {s : State} {d a b c e f} (h : Canonical s) : Canonical (tlbPut s d a b c e f) := setDie_canon h

theorem setAcDt_canon {s : State} {d a b c e f g} (h : Canonical s) : Canonical (setAcDt s d a b c e f g).1 := by
  unfold setAcDt
  dsimp only
  generalize (if leafAC f then f else f + 2 ^ 8) = w
  generalize (if (g = accStore ∨ g = accAtomic) ∧ leafDT w = false then w + 2 ^ 9 else w) = v
  split
  · exact h
  · exact tlbPut_canon ⟨memWriteN_wf h.1, h.2⟩

theorem homeCheck_canon {s : State} {die slot asid va acc hme gen count} (h : Canonical s) :
    Canonical (homeCheck s die slot asid va acc hme gen count).1 := by
  have bad : ∀ (s : State) (kind w : Nat), Canonical s → Canonical
      (if (gen == none || gen == some (match (hmWalkAt s (some die) slot asid va).2 with
          | .hme w => hmeGen w
          | _ => hmeGen hme)) = true then
        (if count = true then heatCount (hmWalkAt s (some die) slot asid va).1 die none
          else (hmWalkAt s (some die) slot asid va).1, some (TRes.fault kind die hme w))
      else ((hmWalkAt s (some die) slot asid va).1, none)).1 := by
    intro s kind w hs
    have h1 := @hmWalkAt_canon s (some die) slot asid va hs
    revert h1
    generalize hmWalkAt s (some die) slot asid va = r
    intro h1
    have h2 := @heatCount_canon r.1 die none h1
    repeat' split
    all_goals first | with_reducible exact h1 | with_reducible exact h2
  have h1 := @homeWalk_canon s die slot asid va h
  revert h1
  unfold homeCheck
  dsimp only
  generalize homeWalk s die slot asid va = r
  intro h1
  split
  · exact h
  · rcases r with ⟨t, w⟩
    cases w with
    | invalid w => exact bad t _ w h1
    | malformed w => exact bad t _ w h1
    | leaf lg at_ w =>
      dsimp only
      split
      · exact bad t _ w h1
      split
      · exact bad t _ w h1
      split
      · exact h1
      split
      · exact Canonical_ite (heatCount_canon h1) h1
      have h2 : Canonical (tlbPut (if count = true then heatCount (inOrder t die ordHome (homeAgent w (leafPa w + va % 2 ^ lg) va) 2)
          die (some (leafPa w + va % 2 ^ lg)) else t) die asid va lg at_ w) :=
        tlbPut_canon (Canonical_ite (heatCount_canon (inOrder_canon h1)) h1)
      revert h2
      generalize tlbPut _ die asid va lg at_ w = u
      intro h2
      split
      · exact h2
      split
      · exact h2
      split
      · exact h2
      split
      · exact tlbPut_canon ⟨memWriteN_wf h2.1, h2.2⟩
      · exact setAcDt_canon h2

theorem route_canon {s : State} {die slot asid va acc w count} (h : Canonical s) :
    Canonical (route s die slot asid va acc w count).1 := by
  unfold route
  dsimp only
  repeat' split
  all_goals first | exact h | exact homeCheck_canon h

theorem requestOnce_canon {s : State} {die slot asid va acc count} (h : Canonical s) :
    Canonical (requestOnce s die slot asid va acc count).1 := by
  have h1 := @homeLookup_canon s die slot asid va h
  revert h1
  unfold requestOnce
  generalize homeLookup s die slot asid va = r
  intro h1
  rcases r with ⟨t, w⟩
  cases w
  all_goals first | exact h1 | exact route_canon h1

theorem requestLoop_canon {die slot asid va acc count} (n : Nat) {s : State} (h : Canonical s) :
    Canonical (requestLoop die slot asid va acc count n s).1 := by
  induction n generalizing s with
  | zero => exact h
  | succ n ih =>
    have h1 := @requestOnce_canon s die slot asid va acc count h
    revert h1
    unfold requestLoop
    generalize requestOnce s die slot asid va acc count = r
    intro h1
    rcases r with ⟨t, _ | r⟩
    · exact ih (dropHme_canon h1)
    · exact h1

theorem request_canon {s : State} {die slot asid va acc count n} (h : Canonical s) :
    Canonical (request s die slot asid va acc count n).1 := by
  unfold request
  split
  · exact h
  · exact requestLoop_canon _ h

theorem outsideCheck_canon {s : State} {slot asid va acc count} (h : Canonical s) :
    Canonical (outsideCheck s slot asid va acc count).1 := by
  unfold outsideCheck
  split
  · exact h
  · split
    · next w _ =>
      repeat' split
      all_goals try exact h
      all_goals next e => have := @homeCheck_canon s (hmeHome w) slot asid va acc w (some (hmeGen w)) count h; rw [e] at this; exact this
    · exact h
    · exact h

theorem noteHeld_canon {q va} {r : State × TRes} (h : Canonical r.1) : Canonical (noteHeld q va r).1 := by
  unfold noteHeld
  dsimp only
  repeat' split
  all_goals exact h

theorem requestFor_canon {s : State} {q va acc count} (h : Canonical s) : Canonical (requestFor s q va acc count).1 := by
  unfold requestFor
  split
  · exact outsideCheck_canon h
  · dsimp only
    cases q.copy with
    | none =>
      dsimp only
      split
      · exact noteHeld_canon (request_canon h)
      · exact request_canon h
    | some c =>
      dsimp only
      generalize hx : request _ q.die q.slot q.asid va acc count (stalesOf s q va) = x
      have h1 : Canonical x.1 := hx ▸ request_canon (by rw [Canonical_mk]; exact h)
      split
      · exact noteHeld_canon (by rw [Canonical_mk]; exact h1)
      · rw [Canonical_mk]; exact h1

/-! ### Caches -/

theorem modCluster_canon {s : State} {c f} (h : Canonical s) : Canonical (modCluster s c f) := h

theorem countEvent_canon {s : State} {lost cl team squad} (h : Canonical s) : Canonical (countEvent s lost cl team squad) := by
  unfold countEvent
  exact Canonical_ite h h

theorem seatGrain_canon {s : State} {g} (h : Canonical s) : Canonical (seatGrain s g) := h

theorem flushL2_canon {s : State} {g} (h : Canonical s) : Canonical (flushL2 s g) := by
  unfold flushL2
  split
  · exact ⟨flushSectors_wf h.1, h.2⟩
  · exact h

theorem putL2_canon {s : State} {g} (h : Canonical s) : Canonical (putL2 s g) := by
  unfold putL2
  dsimp only
  split
  · exact h
  · exact seatGrain_canon (Canonical_foldl (f := flushL2) (fun _ _ hs => flushL2_canon hs) _ (draw_canon h))

theorem writeHome_canon {s : State} {g} (h : Canonical s) : Canonical (writeHome s g) := by
  unfold writeHome
  dsimp only
  split
  · exact h
  · exact putL2_canon h

theorem writeHost_canon {s : State} {g} (h : Canonical s) : Canonical (writeHost s g) :=
  Canonical_foldl (fun s i hs => by dsimp only; rw [Canonical_mk]; exact hs) _ h

theorem flushGrain_canon {s : State} {g} (h : Canonical s) : Canonical (flushGrain s g) := by
  unfold flushGrain
  repeat' split
  all_goals first
    | exact h | with_reducible exact flushL2_canon h | with_reducible exact seatGrain_canon h
    | with_reducible exact writeHost_canon h | with_reducible exact writeHome_canon h

theorem recallOne_canon {s : State} {d g} (h : Canonical s) : Canonical (recallOne s d g) := by
  unfold recallOne
  have h1 : Canonical (if (d || g.cnt == .drained) = true then s else flushGrain s g) := by
    split
    · exact h
    · exact flushGrain_canon h
  dsimp only
  split
  · exact countEvent_canon h1
  · exact h1

theorem recallPass_canon {s : State} {d p} (h : Canonical s) : Canonical (recallPass s d p) :=
  have h1 := Canonical_foldl (f := fun s g => recallOne s d g) (fun _ _ hs => recallOne_canon hs) (s.grains.filter p) h
  h1

theorem recallWhere_canon {s : State} {d p} (h : Canonical s) : Canonical (recallWhere s d p) :=
  recallPass_canon (recallPass_canon (recallPass_canon h))

theorem recallOthers_canon {s : State} {k a va n} (h : Canonical s) : Canonical (recallOthers s k a va n) := recallWhere_canon h

theorem downgradePass_canon {s : State} {p} (h : Canonical s) : Canonical (downgradePass s p) :=
  have h1 := Canonical_foldl (f := flushGrain) (fun _ _ hs => flushGrain_canon hs) (s.grains.filter p) h
  h1

theorem downgradeOthers_canon {s : State} {k a va n} (h : Canonical s) : Canonical (downgradeOthers s k a va n) :=
  downgradePass_canon (downgradePass_canon h)

theorem dropRdc_canon {s : State} {k e} (h : Canonical s) : Canonical (dropRdc s k e) :=
  recallPass_canon (recallPass_canon (inOrder_canon h))

theorem putGrain_canon {s : State} {g} (h : Canonical s) : Canonical (putGrain s g) := by
  unfold putGrain
  split
  · exact putL2_canon h
  · split
    · exact h
    · exact seatGrain_canon (Canonical_ite (dropRdc_canon (draw_canon h)) (recallPass_canon (draw_canon h)))

theorem putCopy_canon {s : State} {g} (h : Canonical s) : Canonical (putCopy s g) := by
  unfold putCopy
  dsimp only
  split
  · exact Canonical_ite (putGrain_canon h) (putGrain_canon (putGrain_canon h))
  · exact putGrain_canon h

theorem snoop_canon {s : State} {k home} (h : Canonical s) : Canonical (snoop s k home) := by
  unfold snoop
  repeat' split
  all_goals exact inOrder_canon h

theorem homeGrain_canon {s : State} {k t a va} (h : Canonical s) : Canonical (homeGrain s k t a va).1 := by
  unfold homeGrain
  dsimp only
  exact Canonical_ite h (putL2_canon h)

theorem codecBump_canon {s : State} {d u i n} (h : Canonical s) : Canonical (codecBump s d u i n) := setDie_canon h

theorem mxStore_canon {s : State} {t va bs} (h : Canonical s) : Canonical (mxStore s t va bs) := by
  unfold mxStore
  dsimp only
  refine codecBump_canon (codecBump_canon ?_)
  exact ⟨mxStoreBlock_wf h.1, h.2⟩

theorem askHost_canon {s : State} {a va} (h : Canonical s) : Canonical (askHost s a va) := by
  unfold askHost
  exact Canonical_ite h h

theorem askHosts_canon {s : State} {p} (h : Canonical s) : Canonical (askHosts s p) :=
  Canonical_foldl (fun _ _ hs => askHost_canon hs) _ h

theorem keepSaid_canon {s t : State} (h : Canonical s) : Canonical (keepSaid s t) := h

theorem wcDrainEntry_canon {s : State} {e} (h : Canonical s) : Canonical (wcDrainEntry s e) := by
  unfold wcDrainEntry
  dsimp only
  split
  · exact h
  · next slot _ =>
    split
    · split
      · exact h
      · have h1 := @request_canon s (dieOfCluster e.cluster) slot e.asid e.va.toNat accStore true 0 h
        revert h1
        generalize request s (dieOfCluster e.cluster) slot e.asid e.va.toNat accStore true 0 = r
        intro h1
        rcases r with ⟨t, r⟩
        cases r
        · refine Canonical_foldl (fun s b hs => ?_) _ (recallOthers_canon h1)
          rw [Canonical_mk]; exact ⟨memWrite_wf hs.1, hs.2⟩
        all_goals exact h1
    · exact h

theorem wcDrain_canon {s : State} {p} (h : Canonical s) : Canonical (wcDrain s p) := by
  unfold wcDrain
  exact Canonical_foldl (fun _ _ hs => wcDrainEntry_canon hs) _ (by simp [h])

theorem drainAgent_canon {s : State} {a} (h : Canonical s) : Canonical (drainAgent s a) := wcDrain_canon h

theorem wcDrainFull_canon {s : State} (h : Canonical s) : Canonical (wcDrainFull s) := wcDrain_canon h

theorem wcStore_canon {s : State} {q va bs} (h : Canonical s) : Canonical (wcStore s q va bs) := h

theorem strongDrain_canon {s : State} {a t} (h : Canonical s) : Canonical (strongDrain s a t) := by
  unfold strongDrain; split
  · exact wcDrain_canon h
  · exact h

/-! ### Accesses -/

theorem poisonPage_canon {s : State} {t a va} (h : Canonical s) : Canonical (poisonPage s t a va) := by
  unfold poisonPage
  exact recallWhere_canon (askHosts_canon (tlbPut_canon ⟨memWriteN_wf h.1, h.2⟩))

theorem poisonAt_canon {s : State} {a va} (h : Canonical s) : Canonical (poisonAt s a va) := by
  unfold poisonAt
  split
  · exact h
  next slot _ =>
  split
  · next w _ =>
    split
    · exact h
    have h1 := @homeWalk_canon s (hmeHome w) slot a va h
    revert h1
    generalize homeWalk s (hmeHome w) slot a va = r
    intro h1
    rcases r with ⟨u, l⟩
    cases l with
    | leaf => exact Canonical_ite h1 (poisonPage_canon h1)
    | _ => exact h
  · exact h

theorem poisonFrames_canon {s : State} {lo hi} (h : Canonical s) : Canonical (poisonFrames s lo hi) :=
  Canonical_foldl (fun _ _ hs => poisonAt_canon hs) _ h

theorem physPiece_canon {s : State} {pa n f} (h : Canonical s) : Canonical (physPiece s pa n f).1 := by
  unfold physPiece
  dsimp only
  have h1 : Canonical (physSync s pa n) := recallWhere_canon h
  split
  · exact h
  split
  · with_reducible exact poisonFrames_canon h
  · split
    · exact h1
    · rw [Canonical_mk]; exact ⟨memWriteN_wf h1.1, h1.2⟩

theorem notServed_canon {s u : State} {q va r} (h : Canonical s) (h1 : Canonical u) : Canonical (notServed s u q va r).1 := by
  unfold notServed
  repeat' split
  all_goals first | exact h | exact h1 | exact drainAgent_canon h1

theorem readThroughRdc_canon {s : State} {q r va n} (h : Canonical s) : Canonical (readThroughRdc s q r va n).1 := by
  unfold readThroughRdc
  dsimp only
  have h1 : ∀ k w p, Canonical (downgradePass (inOrder s q.die ordSnoop k w) p) := fun k w p => downgradePass_canon (inOrder_canon h)
  split
  · split
    · exact putGrain_canon (h1 _ _ _)
    · exact seatGrain_canon (h1 _ _ _)
  · exact h1 _ _ _

theorem writeLine_canon {s : State} {t a va bs} (h : Canonical s) : Canonical (writeLine s t a va bs) := by
  have h1 := @homeGrain_canon s (l2Of (t.home va)) t a va h
  unfold writeLine
  dsimp only
  split
  · exact seatGrain_canon h1
  · exact ⟨memWriteN_wf h1.1, h1.2⟩

theorem writeAtHome_canon {s : State} {t a va bs} (h : Canonical s) : Canonical (writeAtHome s t a va bs) := by
  unfold writeAtHome
  generalize pieces va bs.length (bs.length / 32 + 2) = l
  induction l generalizing s with
  | nil => exact h
  | cons p l ih => exact ih (writeLine_canon h)

theorem storeAtHome_canon {s : State} {t a va bs} (h : Canonical s) : Canonical (storeAtHome s t a va bs) := by
  unfold storeAtHome
  dsimp only
  have h1 : Canonical (recallOthers (snoop s none (t.home va)) none a (storeSpan t va).1 (storeSpan t va).2) :=
    recallOthers_canon (snoop_canon h)
  split
  · exact mxStore_canon h1
  · split
    · exact writeAtHome_canon h1
    · exact ⟨memWriteN_wf h1.1, h1.2⟩

theorem takeOwnership_canon {s : State} {k t a va} (h : Canonical s) : Canonical (takeOwnership s k t a va).1 := by
  have h1 : Canonical (homeGrain (recallOthers (snoop s (some k) (t.home va)) (some k) a
      (va / leafGrain t.leaf * leafGrain t.leaf) (leafGrain t.leaf)) k t a va).1 :=
    homeGrain_canon (recallOthers_canon (snoop_canon h))
  unfold takeOwnership
  dsimp only
  repeat' split
  all_goals exact h1

theorem takeFromRdc_canon {s : State} {k r va} (h : Canonical s) : Canonical (takeFromRdc s k r va).1 := by
  unfold takeFromRdc
  dsimp only
  repeat' split
  all_goals exact recallPass_canon (inOrder_canon h)

theorem wcTarget_canon {s t : State} {q va} (h : Canonical s) (e : wcTarget s q va = some t) : Canonical t := by
  have h1 := @requestFor_canon s q va accStore false h
  revert h1 e
  unfold wcTarget
  generalize requestFor s q va accStore false = r
  intro e h1
  rcases r with ⟨u, r⟩
  cases r <;> dsimp only at e <;> split at e <;> try (cases e; done)
  all_goals
    split at e
    · cases e; exact h1
    · cases e

theorem loadPiece_canon {s : State} {q acc va n} (h : Canonical s) : Canonical (loadPiece s q acc va n).1 := by
  have h1 := @requestFor_canon s q va acc true h
  revert h1
  unfold loadPiece
  generalize requestFor s q va acc true = r
  intro h1
  rcases r with ⟨t, r⟩
  split
  · exact physPiece_canon h
  split
  · split <;> exact h
  split
  · split
    · exact h
    · exact readThroughRdc_canon h
  cases r with
  | ok w =>
    dsimp only
    split
    · exact h
    split
    · exact askHost_canon h
    split
    · exact strongDrain_canon h1
    · split
      · with_reducible exact homeGrain_canon (downgradeOthers_canon (snoop_canon h1))
      split
      · with_reducible exact putCopy_canon (homeGrain_canon (downgradeOthers_canon (snoop_canon h1)))
      split
      · with_reducible exact homeGrain_canon (downgradeOthers_canon (snoop_canon h1))
      · with_reducible exact seatGrain_canon (homeGrain_canon (downgradeOthers_canon (snoop_canon h1)))
  | _ => exact notServed_canon h h1

theorem storePiece_canon {s : State} {q va bs} (h : Canonical s) : Canonical (storePiece s q va bs).1 := by
  have h1 := @requestFor_canon s q va accStore true h
  revert h1
  unfold storePiece
  dsimp only
  generalize requestFor s q va accStore true = r
  intro h1
  rcases r with ⟨t, r⟩
  split
  · exact physPiece_canon h
  split
  · split
    · exact h
    · exact seatGrain_canon h
  · split
    · exact h
    · exact putGrain_canon (takeFromRdc_canon h)
  · split
    · next e => exact wcDrainFull_canon (wcStore_canon (wcTarget_canon h e))
    cases r with
    | ok w =>
      dsimp only
      split
      · exact h
      split
      · exact askHosts_canon h
      split
      · exact storeAtHome_canon h1
      split
      · split
        · exact seatGrain_canon (putCopy_canon (takeOwnership_canon h1))
        · exact storeAtHome_canon h1
      · exact storeAtHome_canon (strongDrain_canon h1)
    | _ => exact notServed_canon h h1

theorem ownPiece_canon {s : State} {q va n} (h : Canonical s) : Canonical (ownPiece s q va n).1 := by
  have h1 := @requestFor_canon s q va accStore true h
  revert h1
  unfold ownPiece
  dsimp only
  generalize requestFor s q va accStore true = r
  intro h1
  rcases r with ⟨t, r⟩
  split
  · exact h
  split
  · split <;> exact h
  cases r with
  | ok w =>
    dsimp only
    split
    · exact h
    split
    · exact askHosts_canon h
    split
    · split
      · exact putCopy_canon (takeOwnership_canon h1)
      · exact h1
    · exact h1
  | _ => exact notServed_canon h h1

theorem ownBytes_canon {s : State} {q va n} (h : Canonical s) : Canonical (ownBytes s q va n).1 := by
  unfold ownBytes
  generalize pieces va n (n / 32 + 2) = l
  suffices H : ∀ (l : List (Nat × Nat)) (r : State × Acc), Canonical r.1 → Canonical (l.foldl (fun r p =>
      match r with
      | (s, .done) => ownPiece s q p.1 p.2
      | r => r) r).1 from H l _ h
  intro l
  induction l with
  | nil => exact fun r hr => hr
  | cons p l ih =>
    rintro ⟨t, a⟩ hr
    refine ih _ ?_
    cases a with
    | done => exact ownPiece_canon hr
    | _ => exact hr

theorem mergedPiece_canon {s : State} {q va bs} (h : Canonical s) : Canonical (mergedPiece s q va bs).1 := by
  have h1 := @requestFor_canon s q va accStore true h
  revert h1
  unfold mergedPiece
  dsimp only
  generalize requestFor s q va accStore true = r
  intro h1
  rcases r with ⟨t, r⟩
  cases r with
  | ok w =>
    dsimp only
    split
    · exact h
    · exact storeAtHome_canon h1
  | _ => exact h1

theorem atomPiece_canon {s : State} {q k va n f} (h : Canonical s) : Canonical (atomPiece s q k va n f).1 := by
  unfold atomPiece
  split
  · exact physPiece_canon h
  dsimp only
  generalize hc : (_ || _ : Bool) = c
  have h1 := @requestFor_canon s q va accAtomic c h
  revert h1
  generalize requestFor s q va accAtomic c = r
  intro h1
  rcases r with ⟨t, r⟩
  cases r with
  | ok w =>
    dsimp only
    split
    · exact h
    split
    · exact askHost_canon h
    split
    · refine seatGrain_canon (putCopy_canon ?_)
      split
      · exact h1
      · exact takeFromRdc_canon h1
      · exact takeOwnership_canon h1
    · have h2 : Canonical (recallOthers (snoop (if w.normal = true then t else drainAgent t q.agent) none (w.home va)) none q.asid
          (va / leafGrain w.leaf * leafGrain w.leaf) (leafGrain w.leaf)) :=
        recallOthers_canon (snoop_canon (Canonical_ite h1 (drainAgent_canon h1)))
      revert h2
      generalize recallOthers _ none q.asid _ _ = u
      intro h2
      split
      · exact writeAtHome_canon h2
      · exact ⟨memWriteN_wf h2.1, h2.2⟩
  | _ => exact notServed_canon h h1

theorem loadRange_canon {s : State} {q acc va n} (h : Canonical s) : Canonical (loadRange s q acc va n).1 := by
  unfold loadRange
  generalize pieces va n (n / 32 + 2) = l
  suffices H : ∀ (l : List (Nat × Nat)) (r : State × Acc × List Byte), Canonical r.1 → Canonical (l.foldl (fun r p =>
      match r with
      | (s, .done, bs) => (match loadPiece s q acc p.1 p.2 with | (s, a, b) => (s, a, bs ++ b))
      | r => r) r).1 from H l _ h
  intro l
  induction l with
  | nil => exact fun r hr => hr
  | cons p l ih =>
    rintro ⟨t, a, bs⟩ hr
    refine ih _ ?_
    cases a with
    | done => exact loadPiece_canon hr
    | _ => exact hr

theorem storeLoop_canon {q} (n : Nat) {s : State} {va bs} (h : Canonical s) : Canonical (storeLoop q n s va bs).1 := by
  induction n generalizing s va bs with
  | zero => exact h
  | succ n ih =>
    unfold storeLoop
    split
    · exact h
    · dsimp only
      generalize (if va % 32 + bs.length ≤ 32 then 32 else storeWidth s q va) = w
      have h1 := @storePiece_canon s q va (bs.take (Nat.min bs.length (w - va % w))) h
      revert h1
      generalize storePiece s q va _ = r
      intro h1
      rcases r with ⟨t, a⟩
      cases a with
      | done => exact ih h1
      | _ => exact h1

theorem storeRange_canon {s : State} {q va bs} (h : Canonical s) : Canonical (storeRange s q va bs).1 := storeLoop_canon _ h

/-! ### Counted grains -/

theorem releaseEntry_canon {s : State} {cl k} (h : Canonical s) : Canonical (releaseEntry s cl k) := by
  unfold releaseEntry
  refine modCluster_canon ?_
  rw [Canonical_mk]
  refine Canonical_foldl (fun s g hs => ?_) _ h
  dsimp only
  split
  · exact countEvent_canon (flushGrain_canon hs)
  · exact flushGrain_canon hs

theorem makeCountedRoom_canon {s : State} {cl a va} (h : Canonical s) : Canonical (makeCountedRoom s cl a va) := by
  unfold makeCountedRoom
  dsimp only
  refine Canonical_ite h ?_
  split
  · exact Canonical_of_eq h rfl rfl
  · split
    · exact h
    · exact releaseEntry_canon h

theorem armGrain_canon {s : State} {cl t a va n team squad} (h : Canonical s) :
    Canonical (armGrain s cl t a va n team squad) := by
  have fill : ∀ s, Canonical s → ∀ g, Canonical (putCopy (homeGrain (downgradeOthers (snoop s (some (.l1 cl)) (t.home va))
      (some (.l1 cl)) a (va / leafGrain t.leaf * leafGrain t.leaf) (leafGrain t.leaf)) (.l1 cl) t a va).1 g) :=
    fun _ hs _ => putCopy_canon (homeGrain_canon (downgradeOthers_canon (snoop_canon hs)))
  unfold armGrain
  dsimp only
  split
  · split
    · exact countEvent_canon (seatGrain_canon h)
    · exact seatGrain_canon (makeCountedRoom_canon h)
    · exact fill _ h _
  · exact fill _ (makeCountedRoom_canon h) _

theorem disarmTeam_canon {s : State} {team cl} (h : Canonical s) : Canonical (disarmTeam s team cl) := by
  unfold disarmTeam
  dsimp only
  rw [Canonical_mk]
  refine Canonical_foldl (fun s g hs => ?_) _ h
  split
  · exact countEvent_canon (flushGrain_canon hs)
  · exact flushGrain_canon hs


/-! ### Folds, and the update helpers: memory and the persistence domains stay -/

theorem mem_foldl {α : Type} {f : State → α → State} (hf : ∀ s a, (f s a).mem = s.mem) (l : List α) (s : State) :
    (l.foldl f s).mem = s.mem := by
  induction l generalizing s with
  | nil => rfl
  | cons a l ih => rw [List.foldl_cons, ih, hf]

theorem durable_foldl {α : Type} {f : State → α → State} (hf : ∀ s a, (f s a).durable = s.durable) (l : List α)
    (s : State) : (l.foldl f s).durable = s.durable := by
  induction l generalizing s with
  | nil => rfl
  | cons a l ih => rw [List.foldl_cons, ih, hf]

@[simp] theorem consumeGrain_mem (s : State) (cl : Nat) (asid : Half) (va : Nat) :
    (consumeGrain s cl asid va).mem = s.mem := by
  unfold consumeGrain
  try dsimp only
  repeat' split
  all_goals rfl

@[simp] theorem consumeGrain_durable (s : State) (cl : Nat) (asid : Half) (va : Nat) :
    (consumeGrain s cl asid va).durable = s.durable := by
  unfold consumeGrain
  try dsimp only
  repeat' split
  all_goals rfl

@[simp] theorem underEvent_mem (s : State) (team squad cl : Nat) : (underEvent s team squad cl).mem = s.mem := by
  unfold underEvent
  try dsimp only
  all_goals rfl

@[simp] theorem underEvent_durable (s : State) (team squad cl : Nat) :
    (underEvent s team squad cl).durable = s.durable := by
  unfold underEvent
  try dsimp only
  all_goals rfl

@[simp] theorem armBlock_mem (s : State) (team squad cl r b c : Nat) :
    (armBlock s team squad cl r b c).mem = s.mem := by
  unfold armBlock
  try dsimp only
  repeat' split
  all_goals rfl

@[simp] theorem armBlock_durable (s : State) (team squad cl r b c : Nat) :
    (armBlock s team squad cl r b c).durable = s.durable := by
  unfold armBlock
  try dsimp only
  repeat' split
  all_goals rfl

@[simp] theorem escape_mem (s : State) (team : Nat) : (escape s team).mem = s.mem := by
  unfold escape
  try dsimp only
  repeat' split
  all_goals rfl

@[simp] theorem escape_durable (s : State) (team : Nat) : (escape s team).durable = s.durable := by
  unfold escape
  try dsimp only
  repeat' split
  all_goals rfl

@[simp] theorem wakeSquad_mem (s : State) (id : Nat) : (wakeSquad s id).mem = s.mem := by
  unfold wakeSquad
  try dsimp only
  all_goals first | rfl | simp

@[simp] theorem wakeSquad_durable (s : State) (id : Nat) : (wakeSquad s id).durable = s.durable := by
  unfold wakeSquad
  try dsimp only
  all_goals first | rfl | simp

@[simp] theorem wakeSpine_mem (s : State) (team : Nat) : (wakeSpine s team).mem = s.mem := by
  unfold wakeSpine
  try dsimp only
  all_goals rfl

@[simp] theorem wakeSpine_durable (s : State) (team : Nat) : (wakeSpine s team).durable = s.durable := by
  unfold wakeSpine
  try dsimp only
  all_goals rfl

@[simp] theorem raiseFlag_mem (s : State) (id : Nat) (f : Option Nat) : (raiseFlag s id f).mem = s.mem := by
  unfold raiseFlag
  try dsimp only
  repeat' split
  all_goals first | rfl | simp

@[simp] theorem raiseFlag_durable (s : State) (id : Nat) (f : Option Nat) :
    (raiseFlag s id f).durable = s.durable := by
  unfold raiseFlag
  try dsimp only
  repeat' split
  all_goals first | rfl | simp

@[simp] theorem lowerFlag_mem (s : State) (id : Nat) (f : Option Nat) : (lowerFlag s id f).mem = s.mem := by
  unfold lowerFlag
  try dsimp only
  repeat' split
  all_goals first | rfl | simp

@[simp] theorem lowerFlag_durable (s : State) (id : Nat) (f : Option Nat) :
    (lowerFlag s id f).durable = s.durable := by
  unfold lowerFlag
  try dsimp only
  repeat' split
  all_goals first | rfl | simp

@[simp] theorem trapArrives_mem (s : State) (id : Nat) (q : Squad) (n : Nat) : (trapArrives s id q n).mem = s.mem := by
  unfold trapArrives
  try dsimp only
  all_goals first | rfl | simp

@[simp] theorem trapArrives_durable (s : State) (id : Nat) (q : Squad) (n : Nat) :
    (trapArrives s id q n).durable = s.durable := by
  unfold trapArrives
  try dsimp only
  all_goals first | rfl | simp

@[simp] theorem landPop_mem (s : State) (op : Nat) : (landPop s op).mem = s.mem := by
  unfold landPop
  try dsimp only
  repeat' split
  all_goals first | rfl | simp

@[simp] theorem landPop_durable (s : State) (op : Nat) : (landPop s op).durable = s.durable := by
  unfold landPop
  try dsimp only
  repeat' split
  all_goals first | rfl | simp

@[simp] theorem observe_mem (s : State) (id : Nat) (p : Seen → Bool) : (observe s id p).mem = s.mem := by
  unfold observe
  try dsimp only
  repeat' split
  all_goals first | rfl | simp

@[simp] theorem observe_durable (s : State) (id : Nat) (p : Seen → Bool) : (observe s id p).durable = s.durable := by
  unfold observe
  try dsimp only
  repeat' split
  all_goals first | rfl | simp

@[simp] theorem barrierTest_mem (s : State) (team : Nat) : (barrierTest s team).mem = s.mem := by
  unfold barrierTest
  try dsimp only
  repeat' split
  all_goals rfl

@[simp] theorem barrierTest_durable (s : State) (team : Nat) : (barrierTest s team).durable = s.durable := by
  unfold barrierTest
  try dsimp only
  repeat' split
  all_goals rfl

@[simp] theorem releaseWindow_mem (s : State) (team : Nat) : (releaseWindow s team).mem = s.mem := by
  unfold releaseWindow
  try dsimp only
  repeat' split
  all_goals rfl

@[simp] theorem releaseWindow_durable (s : State) (team : Nat) : (releaseWindow s team).durable = s.durable := by
  unfold releaseWindow
  try dsimp only
  repeat' split
  all_goals rfl

@[simp] theorem stayAway_mem (s : State) (id : Nat) (q : Squad) (keep : Bool) :
    (stayAway s id q keep).mem = s.mem := by
  unfold stayAway
  try dsimp only
  repeat' split
  all_goals rfl

@[simp] theorem stayAway_durable (s : State) (id : Nat) (q : Squad) (keep : Bool) :
    (stayAway s id q keep).durable = s.durable := by
  unfold stayAway
  try dsimp only
  repeat' split
  all_goals rfl

@[simp] theorem endLanes_mem (s : State) (id : Nat) (lanes : Word) : (endLanes s id lanes).mem = s.mem := by
  unfold endLanes
  try dsimp only
  repeat' split
  all_goals first | rfl | simp

@[simp] theorem endLanes_durable (s : State) (id : Nat) (lanes : Word) :
    (endLanes s id lanes).durable = s.durable := by
  unfold endLanes
  try dsimp only
  repeat' split
  all_goals first | rfl | simp

@[simp] theorem switchOff_mem (s : State) (id : Nat) (lanes : Word) : (switchOff s id lanes).mem = s.mem := by
  unfold switchOff
  try dsimp only
  repeat' split
  all_goals first | rfl | simp

@[simp] theorem switchOff_durable (s : State) (id : Nat) (lanes : Word) :
    (switchOff s id lanes).durable = s.durable := by
  unfold switchOff
  try dsimp only
  repeat' split
  all_goals first | rfl | simp

@[simp] theorem killCopies_mem (s : State) (p : Copy → Bool) : (killCopies s p).mem = s.mem := by
  unfold killCopies
  try dsimp only

@[simp] theorem killCopies_durable (s : State) (p : Copy → Bool) : (killCopies s p).durable = s.durable := by
  unfold killCopies
  try dsimp only

@[simp] theorem orphanReqs_mem (s : State) (team : Nat) : (orphanReqs s team).mem = s.mem := by
  unfold orphanReqs
  try dsimp only

@[simp] theorem orphanReqs_durable (s : State) (team : Nat) : (orphanReqs s team).durable = s.durable := by
  unfold orphanReqs
  try dsimp only

@[simp] theorem deferTrap_mem (s : State) (id : Nat) (tr : Trap) : (deferTrap s id tr).mem = s.mem := by
  unfold deferTrap
  try dsimp only
  repeat' split
  all_goals first | rfl | simp

@[simp] theorem deferTrap_durable (s : State) (id : Nat) (tr : Trap) : (deferTrap s id tr).durable = s.durable := by
  unfold deferTrap
  try dsimp only
  repeat' split
  all_goals first | rfl | simp

@[simp] theorem leaveWaiters_mem (s : State) (a : Agent) : (leaveWaiters s a).mem = s.mem := by
  unfold leaveWaiters
  try dsimp only

@[simp] theorem leaveWaiters_durable (s : State) (a : Agent) : (leaveWaiters s a).durable = s.durable := by
  unfold leaveWaiters
  try dsimp only

@[simp] theorem dropHeld_mem (s : State) (id : Nat) : (dropHeld s id).mem = s.mem := by
  unfold dropHeld
  try dsimp only

@[simp] theorem dropHeld_durable (s : State) (id : Nat) : (dropHeld s id).durable = s.durable := by
  unfold dropHeld
  try dsimp only

@[simp] theorem hGrant_mem (s : State) (a : Agent) (v : Dword) : (hGrant s a v).mem = s.mem := by
  unfold hGrant
  try dsimp only
  repeat' split
  all_goals first | rfl | simp

@[simp] theorem hGrant_durable (s : State) (a : Agent) (v : Dword) : (hGrant s a v).durable = s.durable := by
  unfold hGrant
  try dsimp only
  repeat' split
  all_goals first | rfl | simp

@[simp] theorem hMark_mem (s : State) (a : Agent) (mis : Bool) : (hMark s a mis).mem = s.mem := by
  unfold hMark
  try dsimp only
  repeat' split
  all_goals first | rfl | simp

@[simp] theorem hMark_durable (s : State) (a : Agent) (mis : Bool) : (hMark s a mis).durable = s.durable := by
  unfold hMark
  try dsimp only
  repeat' split
  all_goals first | rfl | simp

@[simp] theorem setWait_mem (s : State) (id : Nat) (w : Wait) : (setWait s id w).mem = s.mem := by
  unfold setWait
  try dsimp only
  all_goals first | rfl | simp

@[simp] theorem setWait_durable (s : State) (id : Nat) (w : Wait) : (setWait s id w).durable = s.durable := by
  unfold setWait
  try dsimp only
  all_goals first | rfl | simp

@[simp] theorem overG_mem (s : State) (id n : Nat) : (overG s id n).mem = s.mem := by
  unfold overG
  try dsimp only

@[simp] theorem overG_durable (s : State) (id n : Nat) : (overG s id n).durable = s.durable := by
  unfold overG
  try dsimp only

@[simp] theorem overP_mem (s : State) (id n : Nat) : (overP s id n).mem = s.mem := by
  unfold overP
  try dsimp only

@[simp] theorem overP_durable (s : State) (id n : Nat) : (overP s id n).durable = s.durable := by
  unfold overP
  try dsimp only

@[simp] theorem spineSet_mem (s : State) (t : Nat) (d : BitVec 6) (v : Dword) : (spineSet s t d v).mem = s.mem := by
  unfold spineSet
  try dsimp only
  all_goals rfl

@[simp] theorem spineSet_durable (s : State) (t : Nat) (d : BitVec 6) (v : Dword) :
    (spineSet s t d v).durable = s.durable := by
  unfold spineSet
  try dsimp only
  all_goals rfl

@[simp] theorem modEntry_mem (s : State) (id log : Nat) (f : LogEntry → LogEntry) :
    (modEntry s id log f).mem = s.mem := by
  unfold modEntry
  try dsimp only
  all_goals first | rfl | simp

@[simp] theorem modEntry_durable (s : State) (id log : Nat) (f : LogEntry → LogEntry) :
    (modEntry s id log f).durable = s.durable := by
  unfold modEntry
  try dsimp only
  all_goals first | rfl | simp

@[simp] theorem closeEntry_mem (s : State) (id log : Nat) : (closeEntry s id log).mem = s.mem := by
  unfold closeEntry
  try dsimp only
  repeat' split
  all_goals first | rfl | simp

@[simp] theorem closeEntry_durable (s : State) (id log : Nat) : (closeEntry s id log).durable = s.durable := by
  unfold closeEntry
  try dsimp only
  repeat' split
  all_goals first | rfl | simp

@[simp] theorem deferLanes_mem (s : State) (id : Nat) (t : Trap) : (deferLanes s id t).mem = s.mem := by
  unfold deferLanes
  try dsimp only
  repeat' split
  all_goals first | rfl | simp

@[simp] theorem deferLanes_durable (s : State) (id : Nat) (t : Trap) : (deferLanes s id t).durable = s.durable := by
  unfold deferLanes
  try dsimp only
  repeat' split
  all_goals first | rfl | simp

@[simp] theorem lanesFail_mem (s : State) (id : Nat) (e : LogEntry) (code : Byte) (aux : Dword) (ls : List Nat) :
    (lanesFail s id e code aux ls).mem = s.mem := by
  unfold lanesFail
  try dsimp only
  repeat' split
  all_goals first | rfl | simp

@[simp] theorem lanesFail_durable (s : State) (id : Nat) (e : LogEntry) (code : Byte) (aux : Dword) (ls : List Nat) :
    (lanesFail s id e code aux ls).durable = s.durable := by
  unfold lanesFail
  try dsimp only
  repeat' split
  all_goals first | rfl | simp

@[simp] theorem noteOk_mem (s : State) (i : Instr) (pop : Nat) (ok : List (Nat × List Byte)) :
    (noteOk s i pop ok).mem = s.mem := by
  unfold noteOk
  try dsimp only

@[simp] theorem noteOk_durable (s : State) (i : Instr) (pop : Nat) (ok : List (Nat × List Byte)) :
    (noteOk s i pop ok).durable = s.durable := by
  unfold noteOk
  try dsimp only

@[simp] theorem dropEntry_mem (s : State) (id log : Nat) : (dropEntry s id log).mem = s.mem := by
  unfold dropEntry
  try dsimp only
  all_goals first | rfl | simp

@[simp] theorem dropEntry_durable (s : State) (id log : Nat) : (dropEntry s id log).durable = s.durable := by
  unfold dropEntry
  try dsimp only
  all_goals first | rfl | simp

@[simp] theorem credPost_mem (s : State) (pop team slot cluster : Nat) (desc : List Byte) :
    (credPost s pop team slot cluster desc).mem = s.mem := by
  unfold credPost
  try dsimp only

@[simp] theorem credPost_durable (s : State) (pop team slot cluster : Nat) (desc : List Byte) :
    (credPost s pop team slot cluster desc).durable = s.durable := by
  unfold credPost
  try dsimp only

@[simp] theorem failParked_mem (s : State) (id log kind acc : Nat) (ls : List Nat) :
    (failParked s id log kind acc ls).mem = s.mem := by
  unfold failParked
  try dsimp only
  repeat' split
  all_goals first | rfl | simp

@[simp] theorem failParked_durable (s : State) (id log kind acc : Nat) (ls : List Nat) :
    (failParked s id log kind acc ls).durable = s.durable := by
  unfold failParked
  try dsimp only
  repeat' split
  all_goals first | rfl | simp

@[simp] theorem spineWait_mem (s : State) (t : Nat) (w : Wait) (log : Option Dword) :
    (spineWait s t w log).mem = s.mem := by
  unfold spineWait
  try dsimp only
  all_goals rfl

@[simp] theorem spineWait_durable (s : State) (t : Nat) (w : Wait) (log : Option Dword) :
    (spineWait s t w log).durable = s.durable := by
  unfold spineWait
  try dsimp only
  all_goals rfl

@[simp] theorem enterHandler_mem (s : State) (id : Nat) : (enterHandler s id).mem = s.mem := by
  unfold enterHandler
  try dsimp only
  repeat' split
  all_goals first | rfl | simp

@[simp] theorem enterHandler_durable (s : State) (id : Nat) : (enterHandler s id).durable = s.durable := by
  unfold enterHandler
  try dsimp only
  repeat' split
  all_goals first | rfl | simp

@[simp] theorem transit_mem (s : State) (team rank : Nat) : (transit s team rank).mem = s.mem := by simp [transit]

@[simp] theorem transit_durable (s : State) (team rank : Nat) : (transit s team rank).durable = s.durable := by simp [transit]

@[simp] theorem dropContribution_mem (s : State) (id : Nat) (q : Squad) : (dropContribution s id q).mem = s.mem := by
  exact mem_foldl (fun s p => by simp) _ _

@[simp] theorem dropContribution_durable (s : State) (id : Nat) (q : Squad) :
    (dropContribution s id q).durable = s.durable := by
  exact durable_foldl (fun s p => by simp) _ _

/-! ### Waits, shared registers -/
@[simp] theorem wakeTeams_mem (s : State) (p : Nat → Bool) : (wakeTeams s p).mem = s.mem := by
  unfold wakeTeams
  rw [mem_foldl, mem_foldl] <;> intro s a <;> split <;> simp

@[simp] theorem wakeTeams_durable (s : State) (p : Nat → Bool) : (wakeTeams s p).durable = s.durable := by
  unfold wakeTeams
  rw [durable_foldl, durable_foldl] <;> intro s a <;> split <;> simp

theorem hRetry_mem (l : List (Agent × HOp)) (r : State × HEntry × List (Agent × HOp)) :
    (hRetry l r).1.mem = r.1.mem ∧ (hRetry l r).1.durable = r.1.durable := by
  induction l generalizing r with
  | nil => exact ⟨rfl, rfl⟩
  | cons x l ih =>
    obtain ⟨a, op⟩ := x
    obtain ⟨s, e, k⟩ := r
    unfold hRetry
    split
    · next e' v _ =>
      have h1 := ih (hMark (hGrant s a v) a (misOf e op), e', k)
      simp only [hMark_mem, hGrant_mem, hMark_durable, hGrant_durable] at h1
      exact h1
    · exact ih _

theorem hSettle_mem (n : Nat) (r : State × HEntry) :
    (hSettle n r).1.mem = r.1.mem ∧ (hSettle n r).1.durable = r.1.durable := by
  induction n generalizing r with
  | zero => exact ⟨rfl, rfl⟩
  | succ n ih =>
    obtain ⟨s, e⟩ := r
    have h1 := hRetry_mem e.waiters (s, e, [])
    unfold hSettle
    dsimp only
    split
    · exact h1
    · exact ⟨(ih _).1.trans h1.1, (ih _).2.trans h1.2⟩

@[simp] theorem hChanged_mem (s : State) (l : HLoc) (e : HEntry) : (hChanged s l e).mem = s.mem := by
  unfold hChanged
  simp [(hSettle_mem _ _).1]

@[simp] theorem hChanged_durable (s : State) (l : HLoc) (e : HEntry) : (hChanged s l e).durable = s.durable := by
  unfold hChanged
  simp [(hSettle_mem _ _).2]

@[simp] theorem hTurn_mem (s : State) (l : HLoc) (a : Agent) : (hTurn s l a).mem = s.mem := by simp [hTurn]

@[simp] theorem hTurn_durable (s : State) (l : HLoc) (a : Agent) : (hTurn s l a).durable = s.durable := by simp [hTurn]

@[simp] theorem hArrive_mem (s : State) (l : HLoc) (a : Agent) (op : HOp) : (hArrive s l a op).1.mem = s.mem := by
  unfold hArrive
  dsimp only
  split
  · dsimp only; split <;> simp
  · simp

@[simp] theorem hArrive_durable (s : State) (l : HLoc) (a : Agent) (op : HOp) :
    (hArrive s l a op).1.durable = s.durable := by
  unfold hArrive
  dsimp only
  split
  · dsimp only; split <;> simp
  · simp

/-! ### Teams, traps -/
@[simp] theorem dropKept_mem (s : State) (team : Nat) (p : Nat × Squad → Bool) : (dropKept s team p).mem = s.mem := by
  unfold dropKept
  rw [mem_foldl]
  intro s a
  split <;> simp

@[simp] theorem dropKept_durable (s : State) (team : Nat) (p : Nat × Squad → Bool) :
    (dropKept s team p).durable = s.durable := by
  unfold dropKept
  rw [durable_foldl]
  intro s a
  split <;> simp

theorem modTeam_canon {s : State} {t f} (h : Canonical s) : Canonical (modTeam s t f) := h

theorem modSpine_canon {s : State} {t f} (h : Canonical s) : Canonical (modSpine s t f) := h

theorem setWait_canon {s : State} {id w} (h : Canonical s) : Canonical (setWait s id w) :=
  Canonical_of_eq h (by simp) (by simp)

theorem spineWait_canon {s : State} {t w log} (h : Canonical s) : Canonical (spineWait s t w log) := h

theorem teamExit_canon {s : State} {team} (h : Canonical s) : Canonical (teamExit s team) := by
  unfold teamExit
  dsimp only
  generalize hx : dropKept (transit s team 2) team (fun _ => true) = x
  have h1 : Canonical x := Canonical_of_eq h (by rw [← hx]; simp) (by rw [← hx]; simp)
  generalize hy : disarmTeam x team (fun _ => true) = y
  have h2 : Canonical y := hy ▸ disarmTeam_canon h1
  exact Canonical_of_eq h2 (by simp) (by simp)

theorem exitTest_canon {s : State} {team} (h : Canonical s) : Canonical (exitTest s team) := by
  unfold exitTest
  dsimp only
  exact Canonical_ite (teamExit_canon h) h

theorem squadLeave_canon {s : State} {id} (h : Canonical s) : Canonical (squadLeave s id) := by
  unfold squadLeave
  split
  · exact h
  · dsimp only
    refine exitTest_canon (Canonical_of_eq h ?_ ?_) <;> simp <;> (repeat' split) <;> simp

theorem settleExit_canon {s : State} {id} (h : Canonical s) : Canonical (settleExit s id) := by
  unfold settleExit
  split
  · exact h
  · exact Canonical_ite (Canonical_ite (squadLeave_canon h)
      (Canonical_of_eq h (by simp [seeAll]) (by simp [seeAll]))) h

theorem teamEnd_canon {s : State} {team a b} (h : Canonical s) : Canonical (teamEnd s team a b) := by
  unfold teamEnd
  dsimp only
  refine teamExit_canon (Canonical_of_eq h ?_ ?_)
  · simp only [modTeam_mem]
    exact mem_foldl (fun s a => by simp) _ _
  · simp only [modTeam_durable]
    exact durable_foldl (fun s a => by simp) _ _

theorem teamLose_canon {s : State} {team} (h : Canonical s) : Canonical (teamLose s team) := by
  unfold teamLose
  dsimp only
  split
  · generalize hy : disarmTeam (transit s team 11) team (fun _ => true) = y
    have h2 : Canonical y := hy ▸ disarmTeam_canon (Canonical_of_eq h (by simp) (by simp))
    exact Canonical_of_eq h2 (by simp) (by simp)
  · exact modTeam_canon (teamEnd_canon h)

theorem trapEnd_canon {s : State} {team code} (h : Canonical s) : Canonical (trapEnd s team code) :=
  Canonical_ite (teamLose_canon h) (teamEnd_canon h)

theorem trapDue_canon {s : State} {id tr} (h : Canonical s) : Canonical (trapDue s id tr) := by
  unfold trapDue
  dsimp only
  split
  · exact h
  · refine Canonical_ite (trapEnd_canon h) (Canonical_ite ?_ ?_)
    · exact Canonical_of_eq h (by simp) (by simp)
    · exact Canonical_of_eq h (by simp) (by simp)

theorem takeTrap_canon {s : State} {id tr} (h : Canonical s) : Canonical (takeTrap s id tr) := by
  unfold takeTrap
  split
  · exact h
  · exact trapDue_canon (Canonical_of_eq h (by simp) (by simp))

theorem preciseTrap_canon {s : State} {id code tlm word vals aux} (h : Canonical s) :
    Canonical (preciseTrap s id code tlm word vals aux) := by
  unfold preciseTrap
  split
  · exact h
  · exact takeTrap_canon h

theorem deliverTrap_canon {s : State} {id} (h : Canonical s) : Canonical (deliverTrap s id) := by
  unfold deliverTrap
  dsimp only
  repeat' split
  all_goals first
    | exact h
    | exact trapDue_canon (Canonical_of_eq h (by simp) (by simp))

theorem admitNext_canon {s : State} {team} (h : Canonical s) : Canonical (admitNext s team) := by
  unfold admitNext
  dsimp only
  repeat' split
  all_goals first
    | exact h | exact trapEnd_canon h | exact deliverTrap_canon h | exact Canonical_of_eq h (by simp) (by simp)

theorem spineTrap_canon {s : State} {t code val} (h : Canonical s) : Canonical (spineTrap s t code val) := by
  unfold spineTrap
  split
  · exact h
  · exact Canonical_ite (trapEnd_canon h) (Canonical_of_eq h (by simp) (by simp))

theorem Lx.trap_canon {s : State} {x : Lx} {code tlm vals aux} (h : Canonical s) : Canonical (x.trap s code tlm vals aux) :=
  preciseTrap_canon h

/-! ### Requests sent away -/

theorem sendRemote_canon {s : State} {r} (h : Canonical s) : Canonical (sendRemote s r) := by
  have h1 : Canonical (dropHostLines s r) := Canonical_ite (recallWhere_canon h) h
  unfold sendRemote
  dsimp only
  split <;> exact Canonical_of_eq h1 (by simp) (by simp)

theorem parkAcc_canon {s : State} {r a} (h : Canonical s) : Canonical (parkAcc s r a) := by
  unfold parkAcc
  split
  · exact Canonical_of_eq h (by simp) (by simp)
  · exact sendRemote_canon h
  · exact Canonical_of_eq h (by simp) (by simp)
  · exact h

theorem pcieFlush_canon {s : State} {a} (h : Canonical s) : Canonical (pcieFlush s a) := by
  unfold pcieFlush
  split
  · exact Canonical_ite h (sendRemote_canon h)
  · exact h

/-! ### Lane instructions -/
theorem finishShort_canon {s : State} {x r f e} (h : Canonical s) : Canonical (finishShort s x r f e) := by
  unfold finishShort
  dsimp only
  split
  · exact Lx.trap_canon h
  · exact Canonical_of_eq h (by simp) (by simp)
  · refine Canonical_of_eq h ?_ ?_ <;> simp <;> (repeat' split) <;> simp

theorem longReady_canon {s : State} {x n} {k : State → State} (hk : ∀ s, Canonical s → Canonical (k s)) (h : Canonical s) :
    Canonical (longReady s x n k) := by
  unfold longReady
  dsimp only
  refine Canonical_ite h ?_
  split
  · exact Lx.trap_canon h
  · exact Canonical_of_eq h (by simp) (by simp)
  · exact hk s h

theorem finishLong_canon {s : State} {x r f res post} (h : Canonical s) : Canonical (finishLong s x r f res post) := by
  unfold finishLong
  dsimp only
  refine Canonical_of_eq h ?_ ?_
  · simp only [modSquad_mem, raiseFlag_mem]
    split
    · exact mem_foldl (fun s i => by simp) _ _
    all_goals simp
  · simp only [modSquad_durable, raiseFlag_durable]
    split
    · exact durable_foldl (fun s i => by simp) _ _
    all_goals simp

theorem withH_canon {s : State} {x} {k : State → Dword → State} (hk : ∀ s v, Canonical s → Canonical (k s v))
    (h : Canonical s) : Canonical (withH s x k) := by
  unfold withH
  split
  · exact hk _ _ h
  · split
    · exact hk _ _ h
    · next n _ _ _ =>
      dsimp only
      generalize hl : hLoc s x.q.team n = l
      generalize ht : (if l.common = true then escape s x.q.team else s) = t
      have h1 : Canonical t := ht ▸ Canonical_ite (Canonical_of_eq h (by simp) (by simp)) h
      generalize hr : hArrive t l (.squad x.id) .read = r
      have h2 : Canonical r.1 := Canonical_of_eq h1 (by rw [← hr]; simp) (by rw [← hr]; simp)
      rcases r with ⟨u, _ | v⟩
      · exact Canonical_of_eq h2 (by simp) (by simp)
      · exact hk _ _ h2

theorem laneRelease_canon {s : State} {x} {k : State → State} (hk : ∀ s, Canonical s → Canonical (k s)) (h : Canonical s) :
    Canonical (laneRelease s x k) := by
  unfold laneRelease
  exact Canonical_ite (hk _ h) (Canonical_ite
    (Canonical_ite (setWait_canon (drainAgent_canon h)) (hk _ (drainAgent_canon h)))
    (setWait_canon (pcieFlush_canon h)))

theorem acquireGate_canon {s : State} {id q} {k : State → State} (hk : ∀ s, Canonical s → Canonical (k s))
    (h : Canonical s) : Canonical (acquireGate s id q k) :=
  Canonical_ite (Canonical_of_eq h (by simp) (by simp)) (hk _ h)

/-- A lane instruction keeps the form if its meaning does for an active squad. -/
theorem laneEnter_canon {s t : State} {i o u} {k : Lx → State} (hk : ∀ x, Canonical (k x)) (h : Canonical s)
    (e : laneEnter i o u s k = .next t) : Canonical t := by
  unfold laneEnter at e
  split at e
  · cases e
  · injection e with e
    rw [← e]
    refine Canonical_ite (hk _) (Canonical_ite ?_ (Canonical_of_eq h (by simp) (by simp)))
    dsimp only
    split
    · exact Canonical_ite (hk _) (Lx.trap_canon h)
    · exact Lx.trap_canon h

/-- A local-store instruction keeps the form if its meaning does. -/
theorem lsEnter_canon {s : State} {x u n} {k : State → Lx → State} (hk : ∀ s x, Canonical s → Canonical (k s x))
    (h : Canonical s) : Canonical (lsEnter s x u n k) := by
  unfold lsEnter
  refine acquireGate_canon (fun s h => ?_) h
  dsimp only
  generalize hx : switchOff s x.id _ = y
  have h1 : Canonical y := Canonical_of_eq h (by rw [← hx]; simp) (by rw [← hx]; simp)
  refine Canonical_ite (hk _ _ h1) (Canonical_ite ?_ (Canonical_of_eq h1 (by simp) (by simp)))
  split
  · exact Canonical_ite (hk _ _ h1) (Lx.trap_canon h1)
  · exact Lx.trap_canon h1

/-- A spine instruction keeps the form if its meaning does. -/
theorem spineEnter_canon {s t : State} {k : Nat → Spine → State} (hk : ∀ a b, Canonical (k a b))
    (e : spineEnter s k = .next t) : Canonical t := by
  unfold spineEnter at e
  split at e
  · cases e
  · cases e; exact hk _ _

/-! ### Accesses of spine threads and lanes -/
theorem spineGot_canon {s0 s : State} {t sp acc kind va a bs} {k : State → List Byte → State}
    (hk : ∀ s bs, Canonical s → Canonical (k s bs)) (h0 : Canonical s0) (h : Canonical s) :
    Canonical (spineGot s0 s t sp acc kind va a bs k) := by
  unfold spineGot
  dsimp only
  split
  · exact hk _ _ h
  · exact spineTrap_canon h
  · exact spineWait_canon (keepSaid_canon h0)
  · exact spineWait_canon (parkAcc_canon h)
  · refine spineWait_canon (sendRemote_canon ?_)
    split
    all_goals first | exact h | exact Canonical_of_eq h (by simp) (by simp)

theorem spineRead_canon {s : State} {t sp va n} {k : State → List Byte → State}
    (hk : ∀ s bs, Canonical s → Canonical (k s bs)) (h : Canonical s) : Canonical (spineRead s t sp va n k) := by
  unfold spineRead
  split
  · exact hk _ _ h
  · exact Canonical_ite (spineWait_canon h) (spineGot_canon hk h (loadRange_canon h))

theorem spineWrite_canon {s : State} {t sp i va bs} {k : State → State} (hk : ∀ s, Canonical s → Canonical (k s))
    (h : Canonical s) : Canonical (spineWrite s t sp i va bs k) := by
  unfold spineWrite
  split
  · exact hk _ h
  · exact Canonical_ite (spineWait_canon h) (spineGot_canon (fun s _ hs => hk _ (Canonical_of_eq hs
      (by simp [noteMerged]) (by simp [noteMerged]))) h (storeRange_canon h))

theorem spineRelease_canon {s : State} {t} {k : State → State} (hk : ∀ s, Canonical s → Canonical (k s))
    (h : Canonical s) : Canonical (spineRelease s t k) :=
  Canonical_ite (Canonical_ite (spineWait_canon (drainAgent_canon h)) (hk _ (drainAgent_canon h)))
    (modSpine_canon (pcieFlush_canon h))

theorem fillRead_canon {s : State} {r va n} (h : Canonical s) : Canonical (fillRead s r va n).1 := by
  have h1 := @request_canon s r.die r.slot r.asid va accFill false 0 h
  revert h1
  unfold fillRead
  generalize request s r.die r.slot r.asid va accFill false = q
  intro h1
  rcases q with ⟨t, q⟩
  split
  · exact loadRange_canon h
  · cases q with
    | remote => exact loadRange_canon h1
    | ok => exact loadRange_canon h1
    | _ =>
      dsimp only
      split
      · exact h1
      · exact loadRange_canon h

theorem armAt_canon {s : State} {r va n team squad} (h : Canonical s) : Canonical (armAt s r va n team squad) := by
  have h1 := @request_canon s r.die r.slot r.asid va accFill false 0 h
  revert h1
  unfold armAt
  generalize request s r.die r.slot r.asid va accFill false = q
  intro h1
  rcases q with ⟨t, q⟩
  cases q
  all_goals first | exact h1 | exact Canonical_ite (armGrain_canon h1) h1

theorem laneAccess_canon {s : State} {r team i va data} (h : Canonical s) :
    Canonical (laneAccess s r team i va data).1 := by
  unfold laneAccess
  split
  all_goals first
    | exact h | exact storeRange_canon h | exact atomPiece_canon h | exact fillRead_canon h | exact loadRange_canon h

theorem laneWalk_canon {f : State → Nat → State × Acc × List Byte} (hf : ∀ s l, Canonical s → Canonical (f s l).1)
    (ls : List Nat) {s : State} (h : Canonical s) : Canonical (laneWalk f ls s).1 := by
  induction ls generalizing s with
  | nil => exact h
  | cons l ls ih =>
    have h1 := ih (hf s l h)
    unfold laneWalk
    dsimp only
    split <;> exact h1

theorem lanesFail_canon {s : State} {id e code aux ls} (h : Canonical s) : Canonical (lanesFail s id e code aux ls) :=
  Canonical_of_eq h (by simp) (by simp)

theorem noteBad_canon {s : State} {id r e bad} (h : Canonical s) : Canonical (noteBad s id r e bad) := by
  unfold noteBad
  dsimp only
  exact lanesFail_canon (Canonical_foldl (fun s b hs => parkAcc_canon hs) bad h)

/-- A lane access is issued: what it does to memory is what the accesses of its lanes do, and what `post` does. -/
theorem issueAccess_canon {s : State} {x reads frees r order data res} {post : State → List Nat → State} {va}
    (hp : ∀ s l, Canonical s → Canonical (post s l)) (h : Canonical s) :
    Canonical (issueAccess s x reads frees r order data res post va) := by
  unfold issueAccess
  dsimp only
  have h1 := @laneWalk_canon (fun s l => laneAccess s r x.q.team x.i (va l).toNat (data l))
    (fun s l hs => laneAccess_canon hs) order s h
  revert h1
  generalize laneWalk _ order s = w
  intro h1
  rcases w with ⟨u, ok, bad⟩
  dsimp only at h1 ⊢
  have h2 := @finishLong_canon _ x reads frees { res with ready := bad.isEmpty } id (hp u (ok.map (·.1)) h1)
  refine Canonical_ite (Canonical_of_eq h (by simp) (by simp)) (Canonical_ite ?_ (noteBad_canon ?_))
  · exact Canonical_of_eq h2 (by simp) (by simp)
  · exact Canonical_of_eq h2 (by simp) (by simp)

/-! ### Persistence -/

theorem flushPers_canon {s : State} (h : Canonical s) : Canonical (flushPers s) := by
  have pass : ∀ (s : State) (p : Grain → Bool) (f : Grain → Grain), Canonical s →
      Canonical { (s.grains.filter p).foldl flushGrain s with
        grains := ((s.grains.filter p).foldl flushGrain s).grains.map f } :=
    fun s p f hs => Canonical_foldl (f := flushGrain) (fun _ _ hs => flushGrain_canon hs) _ hs
  exact pass _ _ _ (pass _ _ _ (pass _ _ _ h))

theorem persistRanges_canon {s : State} {rs} (h : Canonical s) : Canonical (persistRanges s rs) := by
  refine ⟨h.1, ?_⟩
  have fold : ∀ (l m : List Host.Cell), Memory.wf m = true →
      Memory.wf (l.foldl (fun m c => memWrite m c.1 c.2) m) = true := by
    intro l
    induction l with
    | nil => exact fun _ h => h
    | cons c l ih => exact fun m hm => ih _ (memWrite_wf hm)
  exact fold _ _ (filter_wf h.2)

theorem persist_canon {s : State} (h : Canonical s) : Canonical (persist s) := persistRanges_canon h

end Sys2Proof.Machine
end

