-- ==== Sys2Proof/Laws/Ops.lean ====
section
/-! SUPPORT. What each shared operation of an instruction answers: one lemma for each way that it can go. -/

namespace Sys2Proof.Machine

/-! ### Spine threads -/

theorem curSpine_mget {s : State} {t : Nat} {sp : Spine} (h : curSpine s = some (t, sp)) : mget s.spines t = some sp := by
  unfold curSpine at h
  split at h
  · next u _ =>
    cases hm : mget s.spines u <;> simp [hm] at h
    obtain ⟨rfl, rfl⟩ := h
    exact hm
  · cases h

/-- An instruction of the running thread is its meaning at that thread. -/
theorem spineEnter_next {s : State} {t : Nat} {sp : Spine} (h : curSpine s = some (t, sp)) (k : Nat → Spine → State) :
    spineEnter s k = .next (k t sp) := by
  simp [spineEnter, h]

/-- Without a thread there is no instruction (log entry 54). -/
theorem spineEnter_none {s : State} (h : curSpine s = none) (k : Nat → Spine → State) :
    spineEnter s k = .fault .noAgent := by
  simp [spineEnter, h]

theorem modSpine_of_mget {s : State} {t : Nat} {sp : Spine} (h : mget s.spines t = some sp) (f : Spine → Spine) :
    modSpine s t f = { s with spines := mset s.spines t (f sp) } := by
  simp [modSpine, mmod, h]

@[simp] theorem setX_pc (sp : Spine) (d : BitVec 6) (v : Dword) : (setX sp d v).pc = sp.pc := by
  unfold setX; split <;> rfl

theorem retire_pc (sp : Spine) : (retire sp).pc = sp.pc + 4 := rfl

/-- A result is written and the thread stands at the next word (15 R344). -/
theorem spineSet_of_mget {s : State} {t : Nat} {sp : Spine} (h : mget s.spines t = some sp) (d : BitVec 6) (v : Dword) :
    spineSet s t d v = { s with spines := mset s.spines t (retire (setX sp d v)) } := modSpine_of_mget h _

/-- A trap without a handler, or in one, ends the team (13 R298, R295). -/
theorem spineTrap_ends {s : State} {t : Nat} {sp : Spine} (h : mget s.spines t = some sp) (code : Byte) (val : Dword)
    (hh : sp.shand = 0 ∨ bitsOf sp.scause.toNat 0 8 ≠ 0) : spineTrap s t code val = trapEnd s t code := by
  simp only [spineTrap, h]
  exact if_pos hh

/-- Bytes of a read that is performed reach the continuation. -/
theorem spineRead_done {s s' : State} {t : Nat} {sp : Spine} {va : Dword} {n : Nat} {bs : List Byte}
    (hr : sp.resp = none)
    (hm : mergedWaits s t va.toNat n = false) (h : loadRange s (rqSpine s sp) accLoad va.toNat n = (s', .done, bs))
    (k : State → List Byte → State) : spineRead s t sp va n k = k s' bs := by
  simp [spineRead, hr, hm, h, spineGot]

/-- So do those that a host or peer home has answered. -/
theorem spineRead_answer {s : State} {t : Nat} {sp : Spine} {va : Dword} {n : Nat} {bs : List Byte}
    (hr : sp.resp = some bs) (k : State → List Byte → State) : spineRead s t sp va n k = k s bs := by
  simp [spineRead, hr]

/-- A read that meets a held page waits, with nothing else changed but what the outside was asked (log entry 9). -/
theorem spineRead_held {s s' : State} {t : Nat} {sp : Spine} {va : Dword} {n : Nat} {bs : List Byte}
    (hr : sp.resp = none)
    (hm : mergedWaits s t va.toNat n = false) (h : loadRange s (rqSpine s sp) accLoad va.toNat n = (s', .held, bs))
    (k : State → List Byte → State) : spineRead s t sp va n k = spineWait (keepSaid s s') t .hold none := by
  simp [spineRead, hr, hm, h, spineGot]

/-- A read of a poisoned page traps (13 R301). -/
theorem spineRead_poison {s s' : State} {t : Nat} {sp : Spine} {va : Dword} {n : Nat} {bs : List Byte}
    (hr : sp.resp = none)
    (hm : mergedWaits s t va.toNat n = false) (h : loadRange s (rqSpine s sp) accLoad va.toNat n = (s', .poison, bs))
    (k : State → List Byte → State) : spineRead s t sp va n k = spineTrap s' t tPoison va := by
  simp [spineRead, hr, hm, h, spineGot]

/-- A write that is performed escapes (06 R160), and is noted in the write-combining entry that it has entered. -/
theorem spineWrite_done {s s' : State} {t : Nat} {sp : Spine} {i : Instr} {va : Dword} {bs : List Byte}
    (hr : sp.resp = none) (hm : mergedWaits s t va.toNat bs.length = false)
    (h : storeRange s (rqSpine s sp) va.toNat bs = (s', .done)) (k : State → State) :
    spineWrite s t sp i va bs k = k (escape (noteMerged s' (rqSpine s sp).asid
      { agent := .spine t, op := 0, team := t, instr := i, va := va, n := bs.length }) t) := by
  simp [spineWrite, hr, hm, h, spineGot]

theorem spineWrite_answer {s : State} {t : Nat} {sp : Spine} {i : Instr} {va : Dword} {bs r : List Byte}
    (hr : sp.resp = some r) (k : State → State) : spineWrite s t sp i va bs k = k s := by
  simp [spineWrite, hr]

/-! ### Lane instructions -/

theorem curSquad_mget {s : State} {id : Nat} {q : Squad} (h : curSquad s = some (id, q)) : mget s.squads id = some q := by
  unfold curSquad at h
  split at h
  · next u _ =>
    cases hm : mget s.squads u <;> simp [hm] at h
    obtain ⟨rfl, rfl⟩ := h
    exact hm
  · cases h

/-- An instruction whose registers have landed is its meaning at the running squad. -/
theorem laneEnter_next {s : State} {id : Nat} {q : Squad} {i : Instr} {o : LaneOp} {u : Uses} (h : curSquad s = some (id, q))
    (hw : awaited s id q o (activeLanes q o) u = []) (k : Lx → State) :
    laneEnter i o u s k = .next (k { id := id, q := q, i := i, o := o, act := activeLanes q o }) := by
  unfold laneEnter
  simp only [h, hw]
  rfl

/-- One that must wait for a register waits (06 R148); where the die's debug bit is set it traps instead (07 R173). -/
theorem laneEnter_waits {s : State} {id : Nat} {q : Squad} {i : Instr} {o : LaneOp} {u : Uses}
    (h : curSquad s = some (id, q)) (hw : awaited s id q o (activeLanes q o) u ≠ [])
    (hz : (getDie s (q.core / 256)).hazard = false) (k : Lx → State) :
    laneEnter i o u s k = .next (setWait s id (.landing (awaited s id q o (activeLanes q o) u))) := by
  unfold laneEnter
  simp only [h]
  rw [if_neg (by simpa using hw), hz]
  rfl

theorem laneEnter_none {s : State} {i : Instr} {o : LaneOp} {u : Uses} (h : curSquad s = none) (k : Lx → State) :
    laneEnter i o u s k = .fault .noAgent := by
  unfold laneEnter
  simp only [h]

/-- A long-latency instruction whose flag has room and whose rows can be had goes on. -/
theorem longReady_go {s : State} {x : Lx} {n : Nat} (hf : ∀ f, flagOf x.q x.o.fs = some f → flagCount x.q f ≠ 63)
    (hr : x.act = 0 ∨ n = 0 ∨ growCheck s x.id x.q (8 * n) = .ok) (k : State → State) : longReady s x n k = k s := by
  unfold longReady
  have hg : (if x.act = 0 ∨ n = 0 then Grow.ok else growCheck s x.id x.q (8 * n)) = .ok := by
    split
    · rfl
    · next h => rcases hr with h1 | h1 | h1 <;> simp_all
  cases hq : flagOf x.q x.o.fs with
  | none => simp only [hg]; rfl
  | some f =>
    have h3 : (flagCount x.q f == 63) = false := by simpa using hf f hq
    simp only [hg, h3]; rfl

/-- One whose flag stands at 63 is held (07 R176). -/
theorem longReady_held {s : State} {x : Lx} {n f : Nat} (hf : flagOf x.q x.o.fs = some f) (h : flagCount x.q f = 63)
    (k : State → State) : longReady s x n k = s := by
  simp [longReady, hf, h]

/-- The consuming read of a shared-register source: none, already granted, performed now, or waiting (16 R401). -/
theorem withH_none {s : State} {x : Lx} (h : hSource x.o = none) (k : State → Dword → State) : withH s x k = k s 0 := by
  simp [withH, h]

theorem withH_granted {s : State} {x : Lx} {n : Nat} {v : Dword} (h : hSource x.o = some n) (hg : x.q.granted = some v)
    (k : State → Dword → State) : withH s x k = k s v := by
  simp [withH, h, hg]

theorem withH_served {s s' : State} {x : Lx} {n : Nat} {v : Dword} (h : hSource x.o = some n) (hg : x.q.granted = none)
    (hr : hArrive (if (hLoc s x.q.team n).common then escape s x.q.team else s) (hLoc s x.q.team n) (.squad x.id) .read
      = (s', some v)) (k : State → Dword → State) : withH s x k = k s' v := by
  simp [withH, h, hg, hr]

theorem withH_waits {s s' : State} {x : Lx} {n : Nat} (h : hSource x.o = some n) (hg : x.q.granted = none)
    (hr : hArrive (if (hLoc s x.q.team n).common then escape s x.q.team else s) (hLoc s x.q.team n) (.squad x.id) .read
      = (s', none)) (k : State → Dword → State) :
    withH s x k = setWait s' x.id (.shared (hLoc s x.q.team n).cluster (hLoc s x.q.team n).key) := by
  simp [withH, h, hg, hr]

/-- A release goes on once no access of the squad is parked, no write of it is away, and its write-combining entries are
drained (10 R232, R240). -/
theorem laneRelease_go {s : State} {x : Lx} (hg : x.q.granted = none) (ha : x.q.arrived = false)
    (hw : waitingAccesses s x.id x.q = []) (hr : writesAway s (.squad x.id) = [])
    (hm : mergedLeft (drainAgent s (.squad x.id)) (.squad x.id) = false) (k : State → State) :
    laneRelease s x k = k (drainAgent s (.squad x.id)) := by
  simp [laneRelease, hg, ha, hw, hr, hm]

/-- While a merged store that its drain has left is not performed, it waits (log entry 21). -/
theorem laneRelease_merged {s : State} {x : Lx} (hg : x.q.granted = none) (ha : x.q.arrived = false)
    (hw : waitingAccesses s x.id x.q = []) (hr : writesAway s (.squad x.id) = [])
    (hm : mergedLeft (drainAgent s (.squad x.id)) (.squad x.id) = true) (k : State → State) :
    laneRelease s x k = setWait (drainAgent s (.squad x.id)) x.id .hold := by
  simp [laneRelease, hg, ha, hw, hr, hm]

theorem laneRelease_waits {s : State} {x : Lx} (hg : x.q.granted = none) (ha : x.q.arrived = false)
    (hw : waitingAccesses s x.id x.q ≠ []) (k : State → State) :
    laneRelease s x k = setWait (pcieFlush s (.squad x.id)) x.id .hold := by
  simp [laneRelease, hg, ha, hw]

/-- Accesses that are all performed: the operation is issued with their results. -/
theorem issueAccess_done {s s' : State} {x : Lx} {reads frees : List Nat} {r : Rq} {order : List Nat}
    {data : Nat → List Word} {res : Result} {post : State → List Nat → State} {va : Nat → Dword}
    {ok : List (Nat × List Byte)}
    (h : laneWalk (fun s l => laneAccess s r x.q.team x.i (va l).toNat (data l)) order s = (s', ok, [])) :
    issueAccess s x reads frees r order data res post va =
      noteOk (finishLong (post s' (ok.map (·.1))) x reads frees { res with ready := true }) x.i
        (post s' (ok.map (·.1))).nextId ok := by
  unfold issueAccess
  rw [h]
  simp

/-- A lane whose page is held makes the whole instruction wait, with no effect (log entry 9). -/
theorem issueAccess_held {s s' : State} {x : Lx} {reads frees : List Nat} {r : Rq} {order : List Nat}
    {data : Nat → List Word} {res : Result} {post : State → List Nat → State} {va : Nat → Dword}
    {ok : List (Nat × List Byte)} {bad : List (Nat × Acc)}
    (h : laneWalk (fun s l => laneAccess s r x.q.team x.i (va l).toNat (data l)) order s = (s', ok, bad))
    (hb : bad.any (fun b => b.2 == .held) = true) :
    issueAccess s x reads frees r order data res post va = setWait (keepSaid s s') x.id .hold := by
  unfold issueAccess
  rw [h]
  simp only [hb, if_true]

/-! ### Numbers -/

theorem foldl_add_sum {α : Type} (f : α → Nat) (l : List α) (k : Nat) : l.foldl (fun n r => n + f r) k = k + (l.map f).sum := by
  induction l generalizing k with
  | nil => simp
  | cons a l ih => simp only [List.foldl_cons, List.map_cons, List.sum_cons, ih]; omega

theorem fieldOf_lt (bs : List Byte) (n i : Nat) : fieldOf bs i n < 256 ^ n := by
  induction n generalizing i with
  | zero => simp [fieldOf]
  | succ n ih =>
    have h1 := ih (i + 1)
    have h2 := (bs.getD i 0).isLt
    simp only [fieldOf, Nat.pow_succ]
    omega

end Sys2Proof.Machine
end

