-- ==== Sys2Proof/Laws/PerInstr.lean ====
section
/-! SUPPORT. What holds of every instruction as syntax, one lemma a constructor. -/

namespace Sys2Proof.Laws

/-! ### WordKind: a row is a spine word of 4 bytes, a lane word of 12 bytes, or a step of the device without a word
(14 R313, R326) -/

def WordKind.Statement (i : Instr) : Prop :=
  (i.spineWord?.isSome = true ∧ i.lane? = none ∧ (encode i).length = 4)
  ∨ (i.spineWord? = none ∧ i.lane?.isSome = true ∧ (encode i).length = 12)
  ∨ (i.spineWord? = none ∧ i.lane? = none ∧ encode i = [])

theorem WordKind.add (o : LaneOp) : WordKind.Statement (.add o) := .inr (.inl ⟨rfl, rfl, rfl⟩)
theorem WordKind.sub (o : LaneOp) : WordKind.Statement (.sub o) := .inr (.inl ⟨rfl, rfl, rfl⟩)
theorem WordKind.addx (o : LaneOp) : WordKind.Statement (.addx o) := .inr (.inl ⟨rfl, rfl, rfl⟩)
theorem WordKind.mul (o : LaneOp) : WordKind.Statement (.mul o) := .inr (.inl ⟨rfl, rfl, rfl⟩)
theorem WordKind.mulhi (o : LaneOp) : WordKind.Statement (.mulhi o) := .inr (.inl ⟨rfl, rfl, rfl⟩)
theorem WordKind.mad (o : LaneOp) : WordKind.Statement (.mad o) := .inr (.inl ⟨rfl, rfl, rfl⟩)
theorem WordKind.madw (o : LaneOp) : WordKind.Statement (.madw o) := .inr (.inl ⟨rfl, rfl, rfl⟩)
theorem WordKind.min (o : LaneOp) : WordKind.Statement (.min o) := .inr (.inl ⟨rfl, rfl, rfl⟩)
theorem WordKind.max (o : LaneOp) : WordKind.Statement (.max o) := .inr (.inl ⟨rfl, rfl, rfl⟩)
theorem WordKind.abs (o : LaneOp) : WordKind.Statement (.abs o) := .inr (.inl ⟨rfl, rfl, rfl⟩)
theorem WordKind.lea (o : LaneOp) : WordKind.Statement (.lea o) := .inr (.inl ⟨rfl, rfl, rfl⟩)
theorem WordKind.icmp (o : LaneOp) : WordKind.Statement (.icmp o) := .inr (.inl ⟨rfl, rfl, rfl⟩)
theorem WordKind.sel (o : LaneOp) : WordKind.Statement (.sel o) := .inr (.inl ⟨rfl, rfl, rfl⟩)
theorem WordKind.and (o : LaneOp) : WordKind.Statement (.and o) := .inr (.inl ⟨rfl, rfl, rfl⟩)
theorem WordKind.or (o : LaneOp) : WordKind.Statement (.or o) := .inr (.inl ⟨rfl, rfl, rfl⟩)
theorem WordKind.xor (o : LaneOp) : WordKind.Statement (.xor o) := .inr (.inl ⟨rfl, rfl, rfl⟩)
theorem WordKind.andn (o : LaneOp) : WordKind.Statement (.andn o) := .inr (.inl ⟨rfl, rfl, rfl⟩)
theorem WordKind.lut3 (o : LaneOp) : WordKind.Statement (.lut3 o) := .inr (.inl ⟨rfl, rfl, rfl⟩)
theorem WordKind.shl (o : LaneOp) : WordKind.Statement (.shl o) := .inr (.inl ⟨rfl, rfl, rfl⟩)
theorem WordKind.shr (o : LaneOp) : WordKind.Statement (.shr o) := .inr (.inl ⟨rfl, rfl, rfl⟩)
theorem WordKind.sar (o : LaneOp) : WordKind.Statement (.sar o) := .inr (.inl ⟨rfl, rfl, rfl⟩)
theorem WordKind.shf (o : LaneOp) : WordKind.Statement (.shf o) := .inr (.inl ⟨rfl, rfl, rfl⟩)
theorem WordKind.bfe (o : LaneOp) : WordKind.Statement (.bfe o) := .inr (.inl ⟨rfl, rfl, rfl⟩)
theorem WordKind.bfi (o : LaneOp) : WordKind.Statement (.bfi o) := .inr (.inl ⟨rfl, rfl, rfl⟩)
theorem WordKind.popc (o : LaneOp) : WordKind.Statement (.popc o) := .inr (.inl ⟨rfl, rfl, rfl⟩)
theorem WordKind.clz (o : LaneOp) : WordKind.Statement (.clz o) := .inr (.inl ⟨rfl, rfl, rfl⟩)
theorem WordKind.brev (o : LaneOp) : WordKind.Statement (.brev o) := .inr (.inl ⟨rfl, rfl, rfl⟩)
theorem WordKind.fadd (o : LaneOp) : WordKind.Statement (.fadd o) := .inr (.inl ⟨rfl, rfl, rfl⟩)
theorem WordKind.fsub (o : LaneOp) : WordKind.Statement (.fsub o) := .inr (.inl ⟨rfl, rfl, rfl⟩)
theorem WordKind.fmul (o : LaneOp) : WordKind.Statement (.fmul o) := .inr (.inl ⟨rfl, rfl, rfl⟩)
theorem WordKind.ffma (o : LaneOp) : WordKind.Statement (.ffma o) := .inr (.inl ⟨rfl, rfl, rfl⟩)
theorem WordKind.fmin (o : LaneOp) : WordKind.Statement (.fmin o) := .inr (.inl ⟨rfl, rfl, rfl⟩)
theorem WordKind.fmax (o : LaneOp) : WordKind.Statement (.fmax o) := .inr (.inl ⟨rfl, rfl, rfl⟩)
theorem WordKind.fcmp (o : LaneOp) : WordKind.Statement (.fcmp o) := .inr (.inl ⟨rfl, rfl, rfl⟩)
theorem WordKind.frnd (o : LaneOp) : WordKind.Statement (.frnd o) := .inr (.inl ⟨rfl, rfl, rfl⟩)
theorem WordKind.fclass (o : LaneOp) : WordKind.Statement (.fclass o) := .inr (.inl ⟨rfl, rfl, rfl⟩)
theorem WordKind.fscale (o : LaneOp) : WordKind.Statement (.fscale o) := .inr (.inl ⟨rfl, rfl, rfl⟩)
theorem WordKind.cvt (o : LaneOp) : WordKind.Statement (.cvt o) := .inr (.inl ⟨rfl, rfl, rfl⟩)
theorem WordKind.pack2 (o : LaneOp) : WordKind.Statement (.pack2 o) := .inr (.inl ⟨rfl, rfl, rfl⟩)
theorem WordKind.pack4 (o : LaneOp) : WordKind.Statement (.pack4 o) := .inr (.inl ⟨rfl, rfl, rfl⟩)
theorem WordKind.dot4 (o : LaneOp) : WordKind.Statement (.dot4 o) := .inr (.inl ⟨rfl, rfl, rfl⟩)
theorem WordKind.dot8 (o : LaneOp) : WordKind.Statement (.dot8 o) := .inr (.inl ⟨rfl, rfl, rfl⟩)
theorem WordKind.dotf4 (o : LaneOp) : WordKind.Statement (.dotf4 o) := .inr (.inl ⟨rfl, rfl, rfl⟩)
theorem WordKind.dotf8 (o : LaneOp) : WordKind.Statement (.dotf8 o) := .inr (.inl ⟨rfl, rfl, rfl⟩)
theorem WordKind.rcp (o : LaneOp) : WordKind.Statement (.rcp o) := .inr (.inl ⟨rfl, rfl, rfl⟩)
theorem WordKind.rsq (o : LaneOp) : WordKind.Statement (.rsq o) := .inr (.inl ⟨rfl, rfl, rfl⟩)
theorem WordKind.sqrt (o : LaneOp) : WordKind.Statement (.sqrt o) := .inr (.inl ⟨rfl, rfl, rfl⟩)
theorem WordKind.exp2 (o : LaneOp) : WordKind.Statement (.exp2 o) := .inr (.inl ⟨rfl, rfl, rfl⟩)
theorem WordKind.log2 (o : LaneOp) : WordKind.Statement (.log2 o) := .inr (.inl ⟨rfl, rfl, rfl⟩)
theorem WordKind.sin (o : LaneOp) : WordKind.Statement (.sin o) := .inr (.inl ⟨rfl, rfl, rfl⟩)
theorem WordKind.cos (o : LaneOp) : WordKind.Statement (.cos o) := .inr (.inl ⟨rfl, rfl, rfl⟩)
theorem WordKind.tanh (o : LaneOp) : WordKind.Statement (.tanh o) := .inr (.inl ⟨rfl, rfl, rfl⟩)
theorem WordKind.sigm (o : LaneOp) : WordKind.Statement (.sigm o) := .inr (.inl ⟨rfl, rfl, rfl⟩)
theorem WordKind.mxscale (o : LaneOp) : WordKind.Statement (.mxscale o) := .inr (.inl ⟨rfl, rfl, rfl⟩)
theorem WordKind.mov (o : LaneOp) : WordKind.Statement (.mov o) := .inr (.inl ⟨rfl, rfl, rfl⟩)
theorem WordKind.movk (o : LaneOp) : WordKind.Statement (.movk o) := .inr (.inl ⟨rfl, rfl, rfl⟩)
theorem WordKind.shfl (o : LaneOp) : WordKind.Statement (.shfl o) := .inr (.inl ⟨rfl, rfl, rfl⟩)
theorem WordKind.vote (o : LaneOp) : WordKind.Statement (.vote o) := .inr (.inl ⟨rfl, rfl, rfl⟩)
theorem WordKind.redsq (o : LaneOp) : WordKind.Statement (.redsq o) := .inr (.inl ⟨rfl, rfl, rfl⟩)
theorem WordKind.scansq (o : LaneOp) : WordKind.Statement (.scansq o) := .inr (.inl ⟨rfl, rfl, rfl⟩)
theorem WordKind.elect (o : LaneOp) : WordKind.Statement (.elect o) := .inr (.inl ⟨rfl, rfl, rfl⟩)
theorem WordKind.rdsp (o : LaneOp) : WordKind.Statement (.rdsp o) := .inr (.inl ⟨rfl, rfl, rfl⟩)
theorem WordKind.emget (o : LaneOp) : WordKind.Statement (.emget o) := .inr (.inl ⟨rfl, rfl, rfl⟩)
theorem WordKind.emset (o : LaneOp) : WordKind.Statement (.emset o) := .inr (.inl ⟨rfl, rfl, rfl⟩)
theorem WordKind.pget (o : LaneOp) : WordKind.Statement (.pget o) := .inr (.inl ⟨rfl, rfl, rfl⟩)
theorem WordKind.pset (o : LaneOp) : WordKind.Statement (.pset o) := .inr (.inl ⟨rfl, rfl, rfl⟩)
theorem WordKind.hput (o : LaneOp) : WordKind.Statement (.hput o) := .inr (.inl ⟨rfl, rfl, rfl⟩)
theorem WordKind.hacc (o : LaneOp) : WordKind.Statement (.hacc o) := .inr (.inl ⟨rfl, rfl, rfl⟩)
theorem WordKind.hstat (o : LaneOp) : WordKind.Statement (.hstat o) := .inr (.inl ⟨rfl, rfl, rfl⟩)
theorem WordKind.hget (o : LaneOp) : WordKind.Statement (.hget o) := .inr (.inl ⟨rfl, rfl, rfl⟩)
theorem WordKind.ld (o : LaneOp) : WordKind.Statement (.ld o) := .inr (.inl ⟨rfl, rfl, rfl⟩)
theorem WordKind.st (o : LaneOp) : WordKind.Statement (.st o) := .inr (.inl ⟨rfl, rfl, rfl⟩)
theorem WordKind.ldu (o : LaneOp) : WordKind.Statement (.ldu o) := .inr (.inl ⟨rfl, rfl, rfl⟩)
theorem WordKind.prf (o : LaneOp) : WordKind.Statement (.prf o) := .inr (.inl ⟨rfl, rfl, rfl⟩)
theorem WordKind.ldcf (o : LaneOp) : WordKind.Statement (.ldcf o) := .inr (.inl ⟨rfl, rfl, rfl⟩)
theorem WordKind.ldc (o : LaneOp) : WordKind.Statement (.ldc o) := .inr (.inl ⟨rfl, rfl, rfl⟩)
theorem WordKind.atom (o : LaneOp) : WordKind.Statement (.atom o) := .inr (.inl ⟨rfl, rfl, rfl⟩)
theorem WordKind.cas (o : LaneOp) : WordKind.Statement (.cas o) := .inr (.inl ⟨rfl, rfl, rfl⟩)
theorem WordKind.cas2 (o : LaneOp) : WordKind.Statement (.cas2 o) := .inr (.inl ⟨rfl, rfl, rfl⟩)
theorem WordKind.fence (o : LaneOp) : WordKind.Statement (.fence o) := .inr (.inl ⟨rfl, rfl, rfl⟩)
theorem WordKind.pfence (o : LaneOp) : WordKind.Statement (.pfence o) := .inr (.inl ⟨rfl, rfl, rfl⟩)
theorem WordKind.loc (o : LaneOp) : WordKind.Statement (.loc o) := .inr (.inl ⟨rfl, rfl, rfl⟩)
theorem WordKind.lds (o : LaneOp) : WordKind.Statement (.lds o) := .inr (.inl ⟨rfl, rfl, rfl⟩)
theorem WordKind.sts (o : LaneOp) : WordKind.Statement (.sts o) := .inr (.inl ⟨rfl, rfl, rfl⟩)
theorem WordKind.stsArm (o : LaneOp) : WordKind.Statement (.stsArm o) := .inr (.inl ⟨rfl, rfl, rfl⟩)
theorem WordKind.atoms (o : LaneOp) : WordKind.Statement (.atoms o) := .inr (.inl ⟨rfl, rfl, rfl⟩)
theorem WordKind.ldsc (o : LaneOp) : WordKind.Statement (.ldsc o) := .inr (.inl ⟨rfl, rfl, rfl⟩)
theorem WordKind.lsarm (o : LaneOp) : WordKind.Statement (.lsarm o) := .inr (.inl ⟨rfl, rfl, rfl⟩)
theorem WordKind.lsstat (o : LaneOp) : WordKind.Statement (.lsstat o) := .inr (.inl ⟨rfl, rfl, rfl⟩)
theorem WordKind.cpy (o : LaneOp) : WordKind.Statement (.cpy o) := .inr (.inl ⟨rfl, rfl, rfl⟩)
theorem WordKind.cpys (o : LaneOp) : WordKind.Statement (.cpys o) := .inr (.inl ⟨rfl, rfl, rfl⟩)
theorem WordKind.cred (o : LaneOp) : WordKind.Statement (.cred o) := .inr (.inl ⟨rfl, rfl, rfl⟩)
theorem WordKind.mma (o : LaneOp) : WordKind.Statement (.mma o) := .inr (.inl ⟨rfl, rfl, rfl⟩)
theorem WordKind.mml (o : LaneOp) : WordKind.Statement (.mml o) := .inr (.inl ⟨rfl, rfl, rfl⟩)
theorem WordKind.mmz (o : LaneOp) : WordKind.Statement (.mmz o) := .inr (.inl ⟨rfl, rfl, rfl⟩)
theorem WordKind.mmld (o : LaneOp) : WordKind.Statement (.mmld o) := .inr (.inl ⟨rfl, rfl, rfl⟩)
theorem WordKind.mmst (o : LaneOp) : WordKind.Statement (.mmst o) := .inr (.inl ⟨rfl, rfl, rfl⟩)
theorem WordKind.mmrd (o : LaneOp) : WordKind.Statement (.mmrd o) := .inr (.inl ⟨rfl, rfl, rfl⟩)
theorem WordKind.mmwr (o : LaneOp) : WordKind.Statement (.mmwr o) := .inr (.inl ⟨rfl, rfl, rfl⟩)
theorem WordKind.scan (o : LaneOp) : WordKind.Statement (.scan o) := .inr (.inl ⟨rfl, rfl, rfl⟩)
theorem WordKind.cset (o : LaneOp) : WordKind.Statement (.cset o) := .inr (.inl ⟨rfl, rfl, rfl⟩)
theorem WordKind.csetId (o : LaneOp) : WordKind.Statement (.csetId o) := .inr (.inl ⟨rfl, rfl, rfl⟩)
theorem WordKind.cget (o : LaneOp) : WordKind.Statement (.cget o) := .inr (.inl ⟨rfl, rfl, rfl⟩)
theorem WordKind.tstat (o : LaneOp) : WordKind.Statement (.tstat o) := .inr (.inl ⟨rfl, rfl, rfl⟩)
theorem WordKind.tiset (o : LaneOp) : WordKind.Statement (.tiset o) := .inr (.inl ⟨rfl, rfl, rfl⟩)
theorem WordKind.tiget (o : LaneOp) : WordKind.Statement (.tiget o) := .inr (.inl ⟨rfl, rfl, rfl⟩)
theorem WordKind.pfxh (o : LaneOp) : WordKind.Statement (.pfxh o) := .inr (.inl ⟨rfl, rfl, rfl⟩)
theorem WordKind.pfxhClr (o : LaneOp) : WordKind.Statement (.pfxhClr o) := .inr (.inl ⟨rfl, rfl, rfl⟩)
theorem WordKind.bra (o : LaneOp) : WordKind.Statement (.bra o) := .inr (.inl ⟨rfl, rfl, rfl⟩)
theorem WordKind.bru (o : LaneOp) : WordKind.Statement (.bru o) := .inr (.inl ⟨rfl, rfl, rfl⟩)
theorem WordKind.jmp (o : LaneOp) : WordKind.Statement (.jmp o) := .inr (.inl ⟨rfl, rfl, rfl⟩)
theorem WordKind.call (o : LaneOp) : WordKind.Statement (.call o) := .inr (.inl ⟨rfl, rfl, rfl⟩)
theorem WordKind.ret (o : LaneOp) : WordKind.Statement (.ret o) := .inr (.inl ⟨rfl, rfl, rfl⟩)
theorem WordKind.rejoin (o : LaneOp) : WordKind.Statement (.rejoin o) := .inr (.inl ⟨rfl, rfl, rfl⟩)
theorem WordKind.rejoinS (o : LaneOp) : WordKind.Statement (.rejoinS o) := .inr (.inl ⟨rfl, rfl, rfl⟩)
theorem WordKind.exit (o : LaneOp) : WordKind.Statement (.exit o) := .inr (.inl ⟨rfl, rfl, rfl⟩)
theorem WordKind.yield (o : LaneOp) : WordKind.Statement (.yield o) := .inr (.inl ⟨rfl, rfl, rfl⟩)
theorem WordKind.bar (o : LaneOp) : WordKind.Statement (.bar o) := .inr (.inl ⟨rfl, rfl, rfl⟩)
theorem WordKind.barar (o : LaneOp) : WordKind.Statement (.barar o) := .inr (.inl ⟨rfl, rfl, rfl⟩)
theorem WordKind.barwt (o : LaneOp) : WordKind.Statement (.barwt o) := .inr (.inl ⟨rfl, rfl, rfl⟩)
theorem WordKind.nap (o : LaneOp) : WordKind.Statement (.nap o) := .inr (.inl ⟨rfl, rfl, rfl⟩)
theorem WordKind.launch (o : LaneOp) : WordKind.Statement (.launch o) := .inr (.inl ⟨rfl, rfl, rfl⟩)
theorem WordKind.qpush (o : LaneOp) : WordKind.Statement (.qpush o) := .inr (.inl ⟨rfl, rfl, rfl⟩)
theorem WordKind.qpushTry (o : LaneOp) : WordKind.Statement (.qpushTry o) := .inr (.inl ⟨rfl, rfl, rfl⟩)
theorem WordKind.qpop (o : LaneOp) : WordKind.Statement (.qpop o) := .inr (.inl ⟨rfl, rfl, rfl⟩)
theorem WordKind.qpopTry (o : LaneOp) : WordKind.Statement (.qpopTry o) := .inr (.inl ⟨rfl, rfl, rfl⟩)
theorem WordKind.tmig (o : LaneOp) : WordKind.Statement (.tmig o) := .inr (.inl ⟨rfl, rfl, rfl⟩)
theorem WordKind.csrr (o : LaneOp) : WordKind.Statement (.csrr o) := .inr (.inl ⟨rfl, rfl, rfl⟩)
theorem WordKind.csrw (o : LaneOp) : WordKind.Statement (.csrw o) := .inr (.inl ⟨rfl, rfl, rfl⟩)
theorem WordKind.trap (o : LaneOp) : WordKind.Statement (.trap o) := .inr (.inl ⟨rfl, rfl, rfl⟩)
theorem WordKind.brk (o : LaneOp) : WordKind.Statement (.brk o) := .inr (.inl ⟨rfl, rfl, rfl⟩)
theorem WordKind.tretRetry (o : LaneOp) : WordKind.Statement (.tretRetry o) := .inr (.inl ⟨rfl, rfl, rfl⟩)
theorem WordKind.tretSkip (o : LaneOp) : WordKind.Statement (.tretSkip o) := .inr (.inl ⟨rfl, rfl, rfl⟩)
theorem WordKind.nop (o : LaneOp) : WordKind.Statement (.nop o) := .inr (.inl ⟨rfl, rfl, rfl⟩)
theorem WordKind.rdclk (o : LaneOp) : WordKind.Statement (.rdclk o) := .inr (.inl ⟨rfl, rfl, rfl⟩)
theorem WordKind.rand (o : LaneOp) : WordKind.Statement (.rand o) := .inr (.inl ⟨rfl, rfl, rfl⟩)
theorem WordKind.spineAdd (w : Bool) (b : BitVec 6) (a : BitVec 6) (d : BitVec 6) : WordKind.Statement (.spineAdd w b a d) := .inl ⟨rfl, rfl, rfl⟩
theorem WordKind.spineSub (w : Bool) (b : BitVec 6) (a : BitVec 6) (d : BitVec 6) : WordKind.Statement (.spineSub w b a d) := .inl ⟨rfl, rfl, rfl⟩
theorem WordKind.spineAnd (w : Bool) (b : BitVec 6) (a : BitVec 6) (d : BitVec 6) : WordKind.Statement (.spineAnd w b a d) := .inl ⟨rfl, rfl, rfl⟩
theorem WordKind.spineOr (w : Bool) (b : BitVec 6) (a : BitVec 6) (d : BitVec 6) : WordKind.Statement (.spineOr w b a d) := .inl ⟨rfl, rfl, rfl⟩
theorem WordKind.spineXor (w : Bool) (b : BitVec 6) (a : BitVec 6) (d : BitVec 6) : WordKind.Statement (.spineXor w b a d) := .inl ⟨rfl, rfl, rfl⟩
theorem WordKind.spineAndn (w : Bool) (b : BitVec 6) (a : BitVec 6) (d : BitVec 6) : WordKind.Statement (.spineAndn w b a d) := .inl ⟨rfl, rfl, rfl⟩
theorem WordKind.spineShl (w : Bool) (b : BitVec 6) (a : BitVec 6) (d : BitVec 6) : WordKind.Statement (.spineShl w b a d) := .inl ⟨rfl, rfl, rfl⟩
theorem WordKind.spineShr (w : Bool) (b : BitVec 6) (a : BitVec 6) (d : BitVec 6) : WordKind.Statement (.spineShr w b a d) := .inl ⟨rfl, rfl, rfl⟩
theorem WordKind.spineSar (w : Bool) (b : BitVec 6) (a : BitVec 6) (d : BitVec 6) : WordKind.Statement (.spineSar w b a d) := .inl ⟨rfl, rfl, rfl⟩
theorem WordKind.spineMul (w : Bool) (b : BitVec 6) (a : BitVec 6) (d : BitVec 6) : WordKind.Statement (.spineMul w b a d) := .inl ⟨rfl, rfl, rfl⟩
theorem WordKind.spineMulh (w : Bool) (b : BitVec 6) (a : BitVec 6) (d : BitVec 6) : WordKind.Statement (.spineMulh w b a d) := .inl ⟨rfl, rfl, rfl⟩
theorem WordKind.spineMulhn (w : Bool) (b : BitVec 6) (a : BitVec 6) (d : BitVec 6) : WordKind.Statement (.spineMulhn w b a d) := .inl ⟨rfl, rfl, rfl⟩
theorem WordKind.spineDiv (w : Bool) (b : BitVec 6) (a : BitVec 6) (d : BitVec 6) : WordKind.Statement (.spineDiv w b a d) := .inl ⟨rfl, rfl, rfl⟩
theorem WordKind.spineDivn (w : Bool) (b : BitVec 6) (a : BitVec 6) (d : BitVec 6) : WordKind.Statement (.spineDivn w b a d) := .inl ⟨rfl, rfl, rfl⟩
theorem WordKind.spineRem (w : Bool) (b : BitVec 6) (a : BitVec 6) (d : BitVec 6) : WordKind.Statement (.spineRem w b a d) := .inl ⟨rfl, rfl, rfl⟩
theorem WordKind.spineRemn (w : Bool) (b : BitVec 6) (a : BitVec 6) (d : BitVec 6) : WordKind.Statement (.spineRemn w b a d) := .inl ⟨rfl, rfl, rfl⟩
theorem WordKind.spineMin (w : Bool) (b : BitVec 6) (a : BitVec 6) (d : BitVec 6) : WordKind.Statement (.spineMin w b a d) := .inl ⟨rfl, rfl, rfl⟩
theorem WordKind.spineMax (w : Bool) (b : BitVec 6) (a : BitVec 6) (d : BitVec 6) : WordKind.Statement (.spineMax w b a d) := .inl ⟨rfl, rfl, rfl⟩
theorem WordKind.spineMinn (w : Bool) (b : BitVec 6) (a : BitVec 6) (d : BitVec 6) : WordKind.Statement (.spineMinn w b a d) := .inl ⟨rfl, rfl, rfl⟩
theorem WordKind.spineMaxn (w : Bool) (b : BitVec 6) (a : BitVec 6) (d : BitVec 6) : WordKind.Statement (.spineMaxn w b a d) := .inl ⟨rfl, rfl, rfl⟩
theorem WordKind.spineSlt (w : Bool) (b : BitVec 6) (a : BitVec 6) (d : BitVec 6) : WordKind.Statement (.spineSlt w b a d) := .inl ⟨rfl, rfl, rfl⟩
theorem WordKind.spineSltn (w : Bool) (b : BitVec 6) (a : BitVec 6) (d : BitVec 6) : WordKind.Statement (.spineSltn w b a d) := .inl ⟨rfl, rfl, rfl⟩
theorem WordKind.spineClz (w : Bool) (a : BitVec 6) (d : BitVec 6) : WordKind.Statement (.spineClz w a d) := .inl ⟨rfl, rfl, rfl⟩
theorem WordKind.spineCtz (w : Bool) (a : BitVec 6) (d : BitVec 6) : WordKind.Statement (.spineCtz w a d) := .inl ⟨rfl, rfl, rfl⟩
theorem WordKind.spinePopc (w : Bool) (a : BitVec 6) (d : BitVec 6) : WordKind.Statement (.spinePopc w a d) := .inl ⟨rfl, rfl, rfl⟩
theorem WordKind.spineBrev (w : Bool) (a : BitVec 6) (d : BitVec 6) : WordKind.Statement (.spineBrev w a d) := .inl ⟨rfl, rfl, rfl⟩
theorem WordKind.addi (i : BitVec 14) (a : BitVec 6) (d : BitVec 6) : WordKind.Statement (.addi i a d) := .inl ⟨rfl, rfl, rfl⟩
theorem WordKind.andi (i : BitVec 14) (a : BitVec 6) (d : BitVec 6) : WordKind.Statement (.andi i a d) := .inl ⟨rfl, rfl, rfl⟩
theorem WordKind.ori (i : BitVec 14) (a : BitVec 6) (d : BitVec 6) : WordKind.Statement (.ori i a d) := .inl ⟨rfl, rfl, rfl⟩
theorem WordKind.xori (i : BitVec 14) (a : BitVec 6) (d : BitVec 6) : WordKind.Statement (.xori i a d) := .inl ⟨rfl, rfl, rfl⟩
theorem WordKind.shli (n : BitVec 6) (a : BitVec 6) (d : BitVec 6) : WordKind.Statement (.shli n a d) := .inl ⟨rfl, rfl, rfl⟩
theorem WordKind.shri (n : BitVec 6) (a : BitVec 6) (d : BitVec 6) : WordKind.Statement (.shri n a d) := .inl ⟨rfl, rfl, rfl⟩
theorem WordKind.sari (n : BitVec 6) (a : BitVec 6) (d : BitVec 6) : WordKind.Statement (.sari n a d) := .inl ⟨rfl, rfl, rfl⟩
theorem WordKind.slti (i : BitVec 14) (a : BitVec 6) (d : BitVec 6) : WordKind.Statement (.slti i a d) := .inl ⟨rfl, rfl, rfl⟩
theorem WordKind.sltni (i : BitVec 14) (a : BitVec 6) (d : BitVec 6) : WordKind.Statement (.sltni i a d) := .inl ⟨rfl, rfl, rfl⟩
theorem WordKind.movu (i : BitVec 20) (d : BitVec 6) : WordKind.Statement (.movu i d) := .inl ⟨rfl, rfl, rfl⟩
theorem WordKind.addpc (i : BitVec 20) (d : BitVec 6) : WordKind.Statement (.addpc i d) := .inl ⟨rfl, rfl, rfl⟩
theorem WordKind.spineFadd (p : Bool) (b : BitVec 6) (a : BitVec 6) (d : BitVec 6) : WordKind.Statement (.spineFadd p b a d) := .inl ⟨rfl, rfl, rfl⟩
theorem WordKind.spineFsub (p : Bool) (b : BitVec 6) (a : BitVec 6) (d : BitVec 6) : WordKind.Statement (.spineFsub p b a d) := .inl ⟨rfl, rfl, rfl⟩
theorem WordKind.spineFmul (p : Bool) (b : BitVec 6) (a : BitVec 6) (d : BitVec 6) : WordKind.Statement (.spineFmul p b a d) := .inl ⟨rfl, rfl, rfl⟩
theorem WordKind.spineFdiv (p : Bool) (b : BitVec 6) (a : BitVec 6) (d : BitVec 6) : WordKind.Statement (.spineFdiv p b a d) := .inl ⟨rfl, rfl, rfl⟩
theorem WordKind.spineFsqrt (p : Bool) (a : BitVec 6) (d : BitVec 6) : WordKind.Statement (.spineFsqrt p a d) := .inl ⟨rfl, rfl, rfl⟩
theorem WordKind.spineFmin (p : Bool) (b : BitVec 6) (a : BitVec 6) (d : BitVec 6) : WordKind.Statement (.spineFmin p b a d) := .inl ⟨rfl, rfl, rfl⟩
theorem WordKind.spineFmax (p : Bool) (b : BitVec 6) (a : BitVec 6) (d : BitVec 6) : WordKind.Statement (.spineFmax p b a d) := .inl ⟨rfl, rfl, rfl⟩
theorem WordKind.spineFeq (p : Bool) (b : BitVec 6) (a : BitVec 6) (d : BitVec 6) : WordKind.Statement (.spineFeq p b a d) := .inl ⟨rfl, rfl, rfl⟩
theorem WordKind.spineFlt (p : Bool) (b : BitVec 6) (a : BitVec 6) (d : BitVec 6) : WordKind.Statement (.spineFlt p b a d) := .inl ⟨rfl, rfl, rfl⟩
theorem WordKind.spineFle (p : Bool) (b : BitVec 6) (a : BitVec 6) (d : BitVec 6) : WordKind.Statement (.spineFle p b a d) := .inl ⟨rfl, rfl, rfl⟩
theorem WordKind.spineFcvt (c : BitVec 6) (a : BitVec 6) (d : BitVec 6) : WordKind.Statement (.spineFcvt c a d) := .inl ⟨rfl, rfl, rfl⟩
theorem WordKind.spineFfma (c : BitVec 6) (b : BitVec 6) (a : BitVec 6) (d : BitVec 6) : WordKind.Statement (.spineFfma c b a d) := .inl ⟨rfl, rfl, rfl⟩
theorem WordKind.spineFfmaS (c : BitVec 6) (b : BitVec 6) (a : BitVec 6) (d : BitVec 6) : WordKind.Statement (.spineFfmaS c b a d) := .inl ⟨rfl, rfl, rfl⟩
theorem WordKind.spineFfms (c : BitVec 6) (b : BitVec 6) (a : BitVec 6) (d : BitVec 6) : WordKind.Statement (.spineFfms c b a d) := .inl ⟨rfl, rfl, rfl⟩
theorem WordKind.spineFfmsS (c : BitVec 6) (b : BitVec 6) (a : BitVec 6) (d : BitVec 6) : WordKind.Statement (.spineFfmsS c b a d) := .inl ⟨rfl, rfl, rfl⟩
theorem WordKind.spineFnfma (c : BitVec 6) (b : BitVec 6) (a : BitVec 6) (d : BitVec 6) : WordKind.Statement (.spineFnfma c b a d) := .inl ⟨rfl, rfl, rfl⟩
theorem WordKind.spineFnfmaS (c : BitVec 6) (b : BitVec 6) (a : BitVec 6) (d : BitVec 6) : WordKind.Statement (.spineFnfmaS c b a d) := .inl ⟨rfl, rfl, rfl⟩
theorem WordKind.spineFnfms (c : BitVec 6) (b : BitVec 6) (a : BitVec 6) (d : BitVec 6) : WordKind.Statement (.spineFnfms c b a d) := .inl ⟨rfl, rfl, rfl⟩
theorem WordKind.spineFnfmsS (c : BitVec 6) (b : BitVec 6) (a : BitVec 6) (d : BitVec 6) : WordKind.Statement (.spineFnfmsS c b a d) := .inl ⟨rfl, rfl, rfl⟩
theorem WordKind.spineLd (i : BitVec 10) (x : Bool) (z : BitVec 3) (a : BitVec 6) (d : BitVec 6) : WordKind.Statement (.spineLd i x z a d) := .inl ⟨rfl, rfl, rfl⟩
theorem WordKind.spineSt (i : BitVec 10) (z : BitVec 3) (a : BitVec 6) (s : BitVec 6) : WordKind.Statement (.spineSt i z a s) := .inl ⟨rfl, rfl, rfl⟩
theorem WordKind.amoSwap (w : Bool) (o : BitVec 3) (b : BitVec 6) (a : BitVec 6) (d : BitVec 6) : WordKind.Statement (.amoSwap w o b a d) := .inl ⟨rfl, rfl, rfl⟩
theorem WordKind.amoAdd (w : Bool) (o : BitVec 3) (b : BitVec 6) (a : BitVec 6) (d : BitVec 6) : WordKind.Statement (.amoAdd w o b a d) := .inl ⟨rfl, rfl, rfl⟩
theorem WordKind.amoAnd (w : Bool) (o : BitVec 3) (b : BitVec 6) (a : BitVec 6) (d : BitVec 6) : WordKind.Statement (.amoAnd w o b a d) := .inl ⟨rfl, rfl, rfl⟩
theorem WordKind.amoOr (w : Bool) (o : BitVec 3) (b : BitVec 6) (a : BitVec 6) (d : BitVec 6) : WordKind.Statement (.amoOr w o b a d) := .inl ⟨rfl, rfl, rfl⟩
theorem WordKind.amoXor (w : Bool) (o : BitVec 3) (b : BitVec 6) (a : BitVec 6) (d : BitVec 6) : WordKind.Statement (.amoXor w o b a d) := .inl ⟨rfl, rfl, rfl⟩
theorem WordKind.amoMin (w : Bool) (o : BitVec 3) (b : BitVec 6) (a : BitVec 6) (d : BitVec 6) : WordKind.Statement (.amoMin w o b a d) := .inl ⟨rfl, rfl, rfl⟩
theorem WordKind.amoMax (w : Bool) (o : BitVec 3) (b : BitVec 6) (a : BitVec 6) (d : BitVec 6) : WordKind.Statement (.amoMax w o b a d) := .inl ⟨rfl, rfl, rfl⟩
theorem WordKind.amoMinn (w : Bool) (o : BitVec 3) (b : BitVec 6) (a : BitVec 6) (d : BitVec 6) : WordKind.Statement (.amoMinn w o b a d) := .inl ⟨rfl, rfl, rfl⟩
theorem WordKind.amoMaxn (w : Bool) (o : BitVec 3) (b : BitVec 6) (a : BitVec 6) (d : BitVec 6) : WordKind.Statement (.amoMaxn w o b a d) := .inl ⟨rfl, rfl, rfl⟩
theorem WordKind.spineCas (w : Bool) (o : BitVec 3) (b : BitVec 6) (a : BitVec 6) (d : BitVec 6) : WordKind.Statement (.spineCas w o b a d) := .inl ⟨rfl, rfl, rfl⟩
theorem WordKind.spineCas2 (o : BitVec 3) (b : BitVec 6) (a : BitVec 6) (d : BitVec 6) : WordKind.Statement (.spineCas2 o b a d) := .inl ⟨rfl, rfl, rfl⟩
theorem WordKind.lda (w : Bool) (o : BitVec 3) (a : BitVec 6) (d : BitVec 6) : WordKind.Statement (.lda w o a d) := .inl ⟨rfl, rfl, rfl⟩
theorem WordKind.stl (w : Bool) (o : BitVec 3) (b : BitVec 6) (a : BitVec 6) : WordKind.Statement (.stl w o b a) := .inl ⟨rfl, rfl, rfl⟩
theorem WordKind.beq (i : BitVec 14) (b : BitVec 6) (a : BitVec 6) : WordKind.Statement (.beq i b a) := .inl ⟨rfl, rfl, rfl⟩
theorem WordKind.bne (i : BitVec 14) (b : BitVec 6) (a : BitVec 6) : WordKind.Statement (.bne i b a) := .inl ⟨rfl, rfl, rfl⟩
theorem WordKind.blt (i : BitVec 14) (b : BitVec 6) (a : BitVec 6) : WordKind.Statement (.blt i b a) := .inl ⟨rfl, rfl, rfl⟩
theorem WordKind.bge (i : BitVec 14) (b : BitVec 6) (a : BitVec 6) : WordKind.Statement (.bge i b a) := .inl ⟨rfl, rfl, rfl⟩
theorem WordKind.bltn (i : BitVec 14) (b : BitVec 6) (a : BitVec 6) : WordKind.Statement (.bltn i b a) := .inl ⟨rfl, rfl, rfl⟩
theorem WordKind.bgen (i : BitVec 14) (b : BitVec 6) (a : BitVec 6) : WordKind.Statement (.bgen i b a) := .inl ⟨rfl, rfl, rfl⟩
theorem WordKind.jl (i : BitVec 20) (d : BitVec 6) : WordKind.Statement (.jl i d) := .inl ⟨rfl, rfl, rfl⟩
theorem WordKind.jlr (i : BitVec 14) (a : BitVec 6) (d : BitVec 6) : WordKind.Statement (.jlr i a d) := .inl ⟨rfl, rfl, rfl⟩
theorem WordKind.spineFence (k : BitVec 2) (s : BitVec 3) : WordKind.Statement (.spineFence k s) := .inl ⟨rfl, rfl, rfl⟩
theorem WordKind.spinePfence : WordKind.Statement .spinePfence := .inl ⟨rfl, rfl, rfl⟩
theorem WordKind.spineHput (i : BitVec 8) (a : BitVec 6) (d : BitVec 6) : WordKind.Statement (.spineHput i a d) := .inl ⟨rfl, rfl, rfl⟩
theorem WordKind.spineHget (i : BitVec 8) (d : BitVec 6) : WordKind.Statement (.spineHget i d) := .inl ⟨rfl, rfl, rfl⟩
theorem WordKind.hpeek (i : BitVec 8) (d : BitVec 6) : WordKind.Statement (.hpeek i d) := .inl ⟨rfl, rfl, rfl⟩
theorem WordKind.spineHacc (i : BitVec 8) (a : BitVec 6) (d : BitVec 6) : WordKind.Statement (.spineHacc i a d) := .inl ⟨rfl, rfl, rfl⟩
theorem WordKind.hcfg (i : BitVec 8) (a : BitVec 6) : WordKind.Statement (.hcfg i a) := .inl ⟨rfl, rfl, rfl⟩
theorem WordKind.spineCsrr (i : BitVec 8) (d : BitVec 6) : WordKind.Statement (.spineCsrr i d) := .inl ⟨rfl, rfl, rfl⟩
theorem WordKind.spineCsrw (i : BitVec 8) (a : BitVec 6) : WordKind.Statement (.spineCsrw i a) := .inl ⟨rfl, rfl, rfl⟩
theorem WordKind.spineExit : WordKind.Statement .spineExit := .inl ⟨rfl, rfl, rfl⟩
theorem WordKind.svc (c : BitVec 8) (a : BitVec 6) : WordKind.Statement (.svc c a) := .inl ⟨rfl, rfl, rfl⟩
theorem WordKind.spineBrk (c : BitVec 8) : WordKind.Statement (.spineBrk c) := .inl ⟨rfl, rfl, rfl⟩
theorem WordKind.spineNap (a : BitVec 6) : WordKind.Statement (.spineNap a) := .inl ⟨rfl, rfl, rfl⟩
theorem WordKind.spineRdclk (d : BitVec 6) : WordKind.Statement (.spineRdclk d) := .inl ⟨rfl, rfl, rfl⟩
theorem WordKind.spineRand (d : BitVec 6) : WordKind.Statement (.spineRand d) := .inl ⟨rfl, rfl, rfl⟩
theorem WordKind.spineLoc (a : BitVec 6) (d : BitVec 6) : WordKind.Statement (.spineLoc a d) := .inl ⟨rfl, rfl, rfl⟩
theorem WordKind.spineLaunch (b : BitVec 6) (a : BitVec 6) : WordKind.Statement (.spineLaunch b a) := .inl ⟨rfl, rfl, rfl⟩
theorem WordKind.spineCpy (b : BitVec 6) (a : BitVec 6) : WordKind.Statement (.spineCpy b a) := .inl ⟨rfl, rfl, rfl⟩
theorem WordKind.spineQpush (b : BitVec 6) (a : BitVec 6) : WordKind.Statement (.spineQpush b a) := .inl ⟨rfl, rfl, rfl⟩
theorem WordKind.spineQpushTry (b : BitVec 6) (a : BitVec 6) (d : BitVec 6) : WordKind.Statement (.spineQpushTry b a d) := .inl ⟨rfl, rfl, rfl⟩
theorem WordKind.spineQpop (b : BitVec 6) (a : BitVec 6) : WordKind.Statement (.spineQpop b a) := .inl ⟨rfl, rfl, rfl⟩
theorem WordKind.spineQpopTry (b : BitVec 6) (a : BitVec 6) (d : BitVec 6) : WordKind.Statement (.spineQpopTry b a d) := .inl ⟨rfl, rfl, rfl⟩
theorem WordKind.spineTiset (b : BitVec 6) (a : BitVec 6) : WordKind.Statement (.spineTiset b a) := .inl ⟨rfl, rfl, rfl⟩
theorem WordKind.powerOnReset : WordKind.Statement .powerOnReset := .inr (.inr ⟨rfl, rfl, rfl⟩)
theorem WordKind.orderlyHostReset : WordKind.Statement .orderlyHostReset := .inr (.inr ⟨rfl, rfl, rfl⟩)
theorem WordKind.hotReset : WordKind.Statement .hotReset := .inr (.inr ⟨rfl, rfl, rfl⟩)
theorem WordKind.vfFunctionLevelReset : WordKind.Statement .vfFunctionLevelReset := .inr (.inr ⟨rfl, rfl, rfl⟩)
theorem WordKind.thermalTrip : WordKind.Statement .thermalTrip := .inr (.inr ⟨rfl, rfl, rfl⟩)
theorem WordKind.throttle : WordKind.Statement .throttle := .inr (.inr ⟨rfl, rfl, rfl⟩)
theorem WordKind.boost : WordKind.Statement .boost := .inr (.inr ⟨rfl, rfl, rfl⟩)
theorem WordKind.wipeComplete : WordKind.Statement .wipeComplete := .inr (.inr ⟨rfl, rfl, rfl⟩)
theorem WordKind.pcieConfigurationRequest : WordKind.Statement .pcieConfigurationRequest := .inr (.inr ⟨rfl, rfl, rfl⟩)
theorem WordKind.firmwareUpdate : WordKind.Statement .firmwareUpdate := .inr (.inr ⟨rfl, rfl, rfl⟩)
theorem WordKind.vendorProvisioning : WordKind.Statement .vendorProvisioning := .inr (.inr ⟨rfl, rfl, rfl⟩)
theorem WordKind.ownerDebug : WordKind.Statement .ownerDebug := .inr (.inr ⟨rfl, rfl, rfl⟩)
theorem WordKind.ownerReturnToSummer : WordKind.Statement .ownerReturnToSummer := .inr (.inr ⟨rfl, rfl, rfl⟩)
theorem WordKind.decommission : WordKind.Statement .decommission := .inr (.inr ⟨rfl, rfl, rfl⟩)
theorem WordKind.correctedError : WordKind.Statement .correctedError := .inr (.inr ⟨rfl, rfl, rfl⟩)
theorem WordKind.uncorrectableError : WordKind.Statement .uncorrectableError := .inr (.inr ⟨rfl, rfl, rfl⟩)
theorem WordKind.cacheSoftError : WordKind.Statement .cacheSoftError := .inr (.inr ⟨rfl, rfl, rfl⟩)
theorem WordKind.cxlExtentAdd : WordKind.Statement .cxlExtentAdd := .inr (.inr ⟨rfl, rfl, rfl⟩)
theorem WordKind.cxlExtentRelease : WordKind.Statement .cxlExtentRelease := .inr (.inr ⟨rfl, rfl, rfl⟩)
theorem WordKind.cxlLinkLoss : WordKind.Statement .cxlLinkLoss := .inr (.inr ⟨rfl, rfl, rfl⟩)
theorem WordKind.writeCombiningDrainTimeout : WordKind.Statement .writeCombiningDrainTimeout := .inr (.inr ⟨rfl, rfl, rfl⟩)
theorem WordKind.snoopRequest : WordKind.Statement .snoopRequest := .inr (.inr ⟨rfl, rfl, rfl⟩)
theorem WordKind.announcementAccept : WordKind.Statement .announcementAccept := .inr (.inr ⟨rfl, rfl, rfl⟩)
theorem WordKind.announcementDelivery : WordKind.Statement .announcementDelivery := .inr (.inr ⟨rfl, rfl, rfl⟩)
theorem WordKind.readMissFill : WordKind.Statement .readMissFill := .inr (.inr ⟨rfl, rfl, rfl⟩)
theorem WordKind.ownershipGrant : WordKind.Statement .ownershipGrant := .inr (.inr ⟨rfl, rfl, rfl⟩)
theorem WordKind.writeBack : WordKind.Statement .writeBack := .inr (.inr ⟨rfl, rfl, rfl⟩)
theorem WordKind.directoryRecall : WordKind.Statement .directoryRecall := .inr (.inr ⟨rfl, rfl, rfl⟩)
theorem WordKind.directoryEviction : WordKind.Statement .directoryEviction := .inr (.inr ⟨rfl, rfl, rfl⟩)
theorem WordKind.rdcEviction : WordKind.Statement .rdcEviction := .inr (.inr ⟨rfl, rfl, rfl⟩)
theorem WordKind.homeMapWalk : WordKind.Statement .homeMapWalk := .inr (.inr ⟨rfl, rfl, rfl⟩)
theorem WordKind.pageTableWalk : WordKind.Statement .pageTableWalk := .inr (.inr ⟨rfl, rfl, rfl⟩)
theorem WordKind.homeRequest : WordKind.Statement .homeRequest := .inr (.inr ⟨rfl, rfl, rfl⟩)
theorem WordKind.staleResponse : WordKind.Statement .staleResponse := .inr (.inr ⟨rfl, rfl, rfl⟩)
theorem WordKind.faultRecordPost : WordKind.Statement .faultRecordPost := .inr (.inr ⟨rfl, rfl, rfl⟩)
theorem WordKind.hold : WordKind.Statement .hold := .inr (.inr ⟨rfl, rfl, rfl⟩)
theorem WordKind.release : WordKind.Statement .release := .inr (.inr ⟨rfl, rfl, rfl⟩)
theorem WordKind.flushasid : WordKind.Statement .flushasid := .inr (.inr ⟨rfl, rfl, rfl⟩)
theorem WordKind.movehold : WordKind.Statement .movehold := .inr (.inr ⟨rfl, rfl, rfl⟩)
theorem WordKind.movedone : WordKind.Statement .movedone := .inr (.inr ⟨rfl, rfl, rfl⟩)
theorem WordKind.hminv : WordKind.Statement .hminv := .inr (.inr ⟨rfl, rfl, rfl⟩)
theorem WordKind.homeCommandDone : WordKind.Statement .homeCommandDone := .inr (.inr ⟨rfl, rfl, rfl⟩)
theorem WordKind.freplayReplay : WordKind.Statement .freplayReplay := .inr (.inr ⟨rfl, rfl, rfl⟩)
theorem WordKind.freplayUnresolvable : WordKind.Statement .freplayUnresolvable := .inr (.inr ⟨rfl, rfl, rfl⟩)
theorem WordKind.registerWrite : WordKind.Statement .registerWrite := .inr (.inr ⟨rfl, rfl, rfl⟩)
theorem WordKind.svcerrRead : WordKind.Statement .svcerrRead := .inr (.inr ⟨rfl, rfl, rfl⟩)
theorem WordKind.klstatRead : WordKind.Statement .klstatRead := .inr (.inr ⟨rfl, rfl, rfl⟩)
theorem WordKind.pcieHostRead : WordKind.Statement .pcieHostRead := .inr (.inr ⟨rfl, rfl, rfl⟩)
theorem WordKind.pcieHostWrite : WordKind.Statement .pcieHostWrite := .inr (.inr ⟨rfl, rfl, rfl⟩)
theorem WordKind.pcieAtomicop : WordKind.Statement .pcieAtomicop := .inr (.inr ⟨rfl, rfl, rfl⟩)
theorem WordKind.klHostRead : WordKind.Statement .klHostRead := .inr (.inr ⟨rfl, rfl, rfl⟩)
theorem WordKind.klHostWrite : WordKind.Statement .klHostWrite := .inr (.inr ⟨rfl, rfl, rfl⟩)
theorem WordKind.klHostAtomic : WordKind.Statement .klHostAtomic := .inr (.inr ⟨rfl, rfl, rfl⟩)
theorem WordKind.hostRecallResponse : WordKind.Statement .hostRecallResponse := .inr (.inr ⟨rfl, rfl, rfl⟩)
theorem WordKind.klLinkUp : WordKind.Statement .klLinkUp := .inr (.inr ⟨rfl, rfl, rfl⟩)
theorem WordKind.klLinkDown : WordKind.Statement .klLinkDown := .inr (.inr ⟨rfl, rfl, rfl⟩)
theorem WordKind.notify : WordKind.Statement .notify := .inr (.inr ⟨rfl, rfl, rfl⟩)
theorem WordKind.notifyTakeEffect : WordKind.Statement .notifyTakeEffect := .inr (.inr ⟨rfl, rfl, rfl⟩)
theorem WordKind.atsInvalidation : WordKind.Statement .atsInvalidation := .inr (.inr ⟨rfl, rfl, rfl⟩)
theorem WordKind.hostRefusedTranslation : WordKind.Statement .hostRefusedTranslation := .inr (.inr ⟨rfl, rfl, rfl⟩)
theorem WordKind.pageRequestResponse : WordKind.Statement .pageRequestResponse := .inr (.inr ⟨rfl, rfl, rfl⟩)
theorem WordKind.remoteHomeResponse : WordKind.Statement .remoteHomeResponse := .inr (.inr ⟨rfl, rfl, rfl⟩)
theorem WordKind.peerRequest : WordKind.Statement .peerRequest := .inr (.inr ⟨rfl, rfl, rfl⟩)
theorem WordKind.vplTimeout : WordKind.Statement .vplTimeout := .inr (.inr ⟨rfl, rfl, rfl⟩)
theorem WordKind.vplPortDown : WordKind.Statement .vplPortDown := .inr (.inr ⟨rfl, rfl, rfl⟩)
theorem WordKind.vplLinkUp : WordKind.Statement .vplLinkUp := .inr (.inr ⟨rfl, rfl, rfl⟩)
theorem WordKind.codecRequestAccept : WordKind.Statement .codecRequestAccept := .inr (.inr ⟨rfl, rfl, rfl⟩)
theorem WordKind.pageCompression : WordKind.Statement .pageCompression := .inr (.inr ⟨rfl, rfl, rfl⟩)
theorem WordKind.compressedPageRead : WordKind.Statement .compressedPageRead := .inr (.inr ⟨rfl, rfl, rfl⟩)
theorem WordKind.ecbDecode : WordKind.Statement .ecbDecode := .inr (.inr ⟨rfl, rfl, rfl⟩)
theorem WordKind.mxAliasRead : WordKind.Statement .mxAliasRead := .inr (.inr ⟨rfl, rfl, rfl⟩)
theorem WordKind.mxAliasWrite : WordKind.Statement .mxAliasWrite := .inr (.inr ⟨rfl, rfl, rfl⟩)
theorem WordKind.pfenceComplete : WordKind.Statement .pfenceComplete := .inr (.inr ⟨rfl, rfl, rfl⟩)
theorem WordKind.mgmttailWrite : WordKind.Statement .mgmttailWrite := .inr (.inr ⟨rfl, rfl, rfl⟩)
theorem WordKind.mgmtrheadWrite : WordKind.Statement .mgmtrheadWrite := .inr (.inr ⟨rfl, rfl, rfl⟩)
theorem WordKind.svpwdtWrite : WordKind.Statement .svpwdtWrite := .inr (.inr ⟨rfl, rfl, rfl⟩)
theorem WordKind.launchCommand : WordKind.Statement .launchCommand := .inr (.inr ⟨rfl, rfl, rfl⟩)
theorem WordKind.ctxnew : WordKind.Statement .ctxnew := .inr (.inr ⟨rfl, rfl, rfl⟩)
theorem WordKind.ctxfree : WordKind.Statement .ctxfree := .inr (.inr ⟨rfl, rfl, rfl⟩)
theorem WordKind.place : WordKind.Statement .place := .inr (.inr ⟨rfl, rfl, rfl⟩)
theorem WordKind.pwrlimit : WordKind.Statement .pwrlimit := .inr (.inr ⟨rfl, rfl, rfl⟩)
theorem WordKind.attest : WordKind.Statement .attest := .inr (.inr ⟨rfl, rfl, rfl⟩)
theorem WordKind.heatscan : WordKind.Statement .heatscan := .inr (.inr ⟨rfl, rfl, rfl⟩)
theorem WordKind.record : WordKind.Statement .record := .inr (.inr ⟨rfl, rfl, rfl⟩)
theorem WordKind.ctxcfgQueues : WordKind.Statement .ctxcfgQueues := .inr (.inr ⟨rfl, rfl, rfl⟩)
theorem WordKind.ctxcfgPeers : WordKind.Statement .ctxcfgPeers := .inr (.inr ⟨rfl, rfl, rfl⟩)
theorem WordKind.ctxcfgSvqmap : WordKind.Statement .ctxcfgSvqmap := .inr (.inr ⟨rfl, rfl, rfl⟩)
theorem WordKind.deviceQueuePush : WordKind.Statement .deviceQueuePush := .inr (.inr ⟨rfl, rfl, rfl⟩)
theorem WordKind.queueCommit : WordKind.Statement .queueCommit := .inr (.inr ⟨rfl, rfl, rfl⟩)
theorem WordKind.svpWatchdogExpiry : WordKind.Statement .svpWatchdogExpiry := .inr (.inr ⟨rfl, rfl, rfl⟩)
theorem WordKind.svpStateError : WordKind.Statement .svpStateError := .inr (.inr ⟨rfl, rfl, rfl⟩)
theorem WordKind.rcvLockstepMismatch : WordKind.Statement .rcvLockstepMismatch := .inr (.inr ⟨rfl, rfl, rfl⟩)
theorem WordKind.recovery : WordKind.Statement .recovery := .inr (.inr ⟨rfl, rfl, rfl⟩)
theorem WordKind.recoveryRestart : WordKind.Statement .recoveryRestart := .inr (.inr ⟨rfl, rfl, rfl⟩)
theorem WordKind.launchTake : WordKind.Statement .launchTake := .inr (.inr ⟨rfl, rfl, rfl⟩)
theorem WordKind.teamPlace : WordKind.Statement .teamPlace := .inr (.inr ⟨rfl, rfl, rfl⟩)
theorem WordKind.teamRetire : WordKind.Statement .teamRetire := .inr (.inr ⟨rfl, rfl, rfl⟩)
theorem WordKind.issueSlotSelect : WordKind.Statement .issueSlotSelect := .inr (.inr ⟨rfl, rfl, rfl⟩)
theorem WordKind.sliceExpiry : WordKind.Statement .sliceExpiry := .inr (.inr ⟨rfl, rfl, rfl⟩)
theorem WordKind.dugoutSwap : WordKind.Statement .dugoutSwap := .inr (.inr ⟨rfl, rfl, rfl⟩)
theorem WordKind.shadowFillComplete : WordKind.Statement .shadowFillComplete := .inr (.inr ⟨rfl, rfl, rfl⟩)
theorem WordKind.shadowDrainComplete : WordKind.Statement .shadowDrainComplete := .inr (.inr ⟨rfl, rfl, rfl⟩)
theorem WordKind.matrixPassGrant : WordKind.Statement .matrixPassGrant := .inr (.inr ⟨rfl, rfl, rfl⟩)
theorem WordKind.forwardProgressExpiry : WordKind.Statement .forwardProgressExpiry := .inr (.inr ⟨rfl, rfl, rfl⟩)
theorem WordKind.registerGrowExpiry : WordKind.Statement .registerGrowExpiry := .inr (.inr ⟨rfl, rfl, rfl⟩)
theorem WordKind.teamSpillComplete : WordKind.Statement .teamSpillComplete := .inr (.inr ⟨rfl, rfl, rfl⟩)
theorem WordKind.migrationComplete : WordKind.Statement .migrationComplete := .inr (.inr ⟨rfl, rfl, rfl⟩)
theorem WordKind.dieFailure : WordKind.Statement .dieFailure := .inr (.inr ⟨rfl, rfl, rfl⟩)
theorem WordKind.teamLost : WordKind.Statement .teamLost := .inr (.inr ⟨rfl, rfl, rfl⟩)
theorem WordKind.resultLanding : WordKind.Statement .resultLanding := .inr (.inr ⟨rfl, rfl, rfl⟩)
theorem WordKind.threadEjection : WordKind.Statement .threadEjection := .inr (.inr ⟨rfl, rfl, rfl⟩)
theorem WordKind.formerGroupTimeout : WordKind.Statement .formerGroupTimeout := .inr (.inr ⟨rfl, rfl, rfl⟩)
theorem WordKind.squadForm : WordKind.Statement .squadForm := .inr (.inr ⟨rfl, rfl, rfl⟩)
theorem WordKind.matrixStepComplete : WordKind.Statement .matrixStepComplete := .inr (.inr ⟨rfl, rfl, rfl⟩)
theorem WordKind.transferPortComplete : WordKind.Statement .transferPortComplete := .inr (.inr ⟨rfl, rfl, rfl⟩)
theorem WordKind.engineHang : WordKind.Statement .engineHang := .inr (.inr ⟨rfl, rfl, rfl⟩)
theorem WordKind.engineReset : WordKind.Statement .engineReset := .inr (.inr ⟨rfl, rfl, rfl⟩)
theorem WordKind.trapEntry : WordKind.Statement .trapEntry := .inr (.inr ⟨rfl, rfl, rfl⟩)
theorem WordKind.deferredTrapDelivery : WordKind.Statement .deferredTrapDelivery := .inr (.inr ⟨rfl, rfl, rfl⟩)
theorem WordKind.copyComplete : WordKind.Statement .copyComplete := .inr (.inr ⟨rfl, rfl, rfl⟩)
theorem WordKind.credArrival : WordKind.Statement .credArrival := .inr (.inr ⟨rfl, rfl, rfl⟩)
theorem WordKind.credDeadline : WordKind.Statement .credDeadline := .inr (.inr ⟨rfl, rfl, rfl⟩)
theorem WordKind.credLostTimeout : WordKind.Statement .credLostTimeout := .inr (.inr ⟨rfl, rfl, rfl⟩)
theorem WordKind.napTimeout : WordKind.Statement .napTimeout := .inr (.inr ⟨rfl, rfl, rfl⟩)
theorem WordKind.hostSnoop : WordKind.Statement .hostSnoop := .inr (.inr ⟨rfl, rfl, rfl⟩)
theorem WordKind.cxlLinkUp : WordKind.Statement .cxlLinkUp := .inr (.inr ⟨rfl, rfl, rfl⟩)

end Sys2Proof.Laws
end

