-- ==== Sys2Proof/Tests/Slice0.lean ====
section
/-! SUPPORT. Checks of single decisions, words of the spec, ill-formed terms, and for every statement with hypotheses a
state and operands that meet them. -/

namespace Sys2Proof.Tests

open Sys2Proof Sys2Proof.Machine

-- One theorem at a time: each keeps a thread with a large stack while it waits.
set_option Elab.async false

/-! ### Small states: one agent about to run in a context with one page of memory -/

/-- A spine thread with some registers. -/
def threadWith (xs : List (Nat × Dword)) (f : Spine → Spine := id) : State :=
  modSpine (State.reset.withFetchWord 32 0) 1 fun sp => f { sp with x := xs }

/-- The running thread. -/
def thr (s : State) : Spine := ((curSpine s).map (·.2)).getD { team := 0, cluster := 0, pc := 0 }

/-- A squad of 32 active lanes. -/
def squadWith (f : Squad → Squad := id) : State := modSquad (State.reset.withFetchWord 96 0) 1 f

/-- The running squad. -/
def sqd (s : State) : Squad := ((curSquad s).map (·.2)).getD { team := 0, index := 0, pos := 0 }

abbrev runsThread (s : State) : Prop := curSpine s = some (1, thr s)
abbrev runsSquad (s : State) : Prop := curSquad s = some (1, sqd s)

/-! ### Spine instructions -/

/-- x1 = 64 is aligned, x2 = 65 is not, x5 = 1. -/
def thread1 : State := threadWith [(1, 64), (2, 65), (5, 1)]

theorem witness_thread : curSpine thread1 = some (1, thr thread1) := by decide +kernel

/-- `SpineFloatResults`: 1 / 0; the root of -1; the root of -0; a NaN. `FTZ` is clear. -/
theorem witness_SpineFloatResults :
    let s := threadWith [(1, 0x3FF0000000000000), (2, 0xBFF0000000000000), (3, 0x8000000000000000), (4, 0x7FF8000000000000)]
    let x := getX (thr s)
    curSpine s = some (1, thr s) ∧ (thr s).sfpmode.getLsbD 7 = false
    ∧ (x 1).extractLsb' 52 11 ≠ 0x7FF ∧ (x 1).extractLsb' 0 63 ≠ 0 ∧ (x 0).extractLsb' 0 63 = 0
    ∧ (x 2).getLsbD 63 = true ∧ (x 2).toNat ≤ 0xFFF0000000000000 ∧ (x 2).extractLsb' 0 63 ≠ 0
    ∧ x 3 = 0x8000000000000000 ∧ (x 4).extractLsb' 52 11 = 0x7FF ∧ (x 4).extractLsb' 0 52 ≠ 0 := by decide +kernel

/-- `SpineConversions`: the codes where its two clauses meet. -/
theorem witness_SpineConversions : (Claims.convTable.map (·.1)).contains 0x13 = true ∧ 0x14 ≤ (0x14 : BitVec 6).toNat
    ∧ (Claims.convTable.map (·.1)).contains 0x14 = false := by decide +kernel

theorem witness_SpineTrapEntry :
    let s := threadWith [] fun sp => { sp with shand := 0x40 }
    let u := threadWith [] fun sp => { sp with shand := 0x40, scause := 3 }
    mget s.spines 1 = some (thr s) ∧ (thr s).shand ≠ 0 ∧ (thr s).scause.extractLsb' 0 8 = 0
    ∧ mget thread1.spines 1 = some (thr thread1) ∧ (thr thread1).shand = 0
    ∧ mget u.spines 1 = some (thr u) ∧ (thr u).scause.extractLsb' 0 8 ≠ 0 := by decide +kernel

/-- A thread has a posted write on its way to the host; a release of it is settled otherwise. -/
def threadAway : State :=
  { thread1 with reqs := [{ id := 7, who := .spine 1, kind := .write (zeros 8), asid := 1, va := 64, st := .remote, agent := .spine 1 }] }

theorem witness_settled : writesAway thread1 (.spine 1) = [] ∧ writesAway (escape thread1 1) (.spine 1) = []
    ∧ spineMerged (drainAgent thread1 (.spine 1)) 1 = false ∧ mergedWaits thread1 1 64 8 = false
    ∧ (thr threadAway).granted = none ∧ curSpine threadAway = some (1, thr threadAway) ∧ writesAway threadAway (.spine 1) ≠ [] := by decide +kernel

/-- An access of the thread's page is performed at every width; x2 is misaligned for all but bytes. -/
theorem witness_SpineLoadsAndStores :
    let sp := thr thread1
    let rel := drainAgent (escape thread1 1) (.spine 1)
    curSpine thread1 = some (1, sp) ∧ sp.resp = none
    ∧ (getX sp 2).toNat % 2 ≠ 0 ∧ (getX sp 2).toNat % Claims.wide false ≠ 0 ∧ (getX sp 2).toNat % Claims.wide true ≠ 0
    ∧ ([1, 2, 4, 8].all fun n => decide ((getX sp 1).toNat % n = 0)
        && decide ((loadRange thread1 (rqSpine thread1 sp) accLoad 64 n).2.1 = .done)
        && decide ((storeRange (escape thread1 1) (rqSpine (escape thread1 1) sp) 64 (bytesOf n (getX sp 5).toNat)).2 = .done)
        && decide ((storeRange rel (rqSpine rel sp) 64 (bytesOf n (getX sp 5).toNat)).2 = .done)) = true := by decide +kernel

/-- An address whose granule the host homes. -/
def threadHost : State :=
  let s := threadWith [(1, 0x200000), (5, 1)]
  { s with mem := memWriteN s.mem (bootHm + 0x3004) (bytesOf 4 8) }

theorem witness_SpineAtomics :
    let sp := thr thread1
    let at_ (o : BitVec 3) (n : Nat) (f : List Byte → List Byte) : Bool :=
      let s1 := escape thread1 1
      let s2 := if o.toNat ≤ 4 then drainAgent s1 (.spine 1) else s1
      decide ((atomPiece s2 (rqSpine s2 sp) (atHome (teamOf s2 1) o.toNat) 64 n f).2.1 = .done)
    curSpine thread1 = some (1, sp) ∧ sp.resp = none ∧ hostHomed thread1 (rqSpine thread1 sp) 64 = false
    ∧ ([0, 4, 5].all fun o => Claims.amoTable.all fun r => at_ o 4 (Claims.amoBytes 4 (r.2 32) (getX sp 5))
        && at_ o 8 (Claims.amoBytes 8 (r.2 64) (getX sp 5))) = true
    ∧ at_ 0 4 (Claims.swapBytes 4 0 1) = true ∧ at_ 0 8 (Claims.swapBytes 8 0 1) = true
    ∧ (getX sp 1).toNat % 16 = 0 ∧ at_ 0 16 (Claims.swapBytes 16 (Claims.pair sp 1) (Claims.pair sp 5)) = true
    ∧ (getX sp 2).toNat % 4 ≠ 0 ∧ (getX sp 2).toNat % 16 ≠ 0
    ∧ curSpine threadHost = some (1, thr threadHost) ∧ (getX (thr threadHost) 1).toNat % 16 = 0
    ∧ hostHomed threadHost (rqSpine threadHost (thr threadHost)) (getX (thr threadHost) 1).toNat = true := by decide +kernel

/-- A port in CXL mode. -/
def threadCxl : State := { thread1 with io := { thread1.io with tiers := [(0, { mode := 2 })] } }

theorem witness_SpineFencesAndLoc :
    let done := threadWith [] fun sp => { sp with granted := some 0 }
    curSpine thread1 = some (1, thr thread1) ∧ (thr thread1).granted = none
    ∧ writesAway thread1 (.spine 1) = [] ∧ anyCxl (flushPers (drainAgent thread1 (.spine 1))) = false
    ∧ curSpine threadCxl = some (1, thr threadCxl) ∧ (thr threadCxl).granted = none ∧ writesAway threadCxl (.spine 1) = []
    ∧ anyCxl (flushPers (drainAgent threadCxl (.spine 1))) = true
    ∧ curSpine done = some (1, thr done) ∧ (thr done).granted ≠ none ∧ done.pfences.contains (.spine 1) = false
    ∧ ({ done with pfences := [.spine 1] } : State).pfences.contains (.spine 1) = true
    ∧ (locQuery thread1 (rqSpine thread1 (thr thread1)) 64).2.isSome = true := by decide +kernel

/-- x1 = 1, x2 = 255, x3 = 256: the limits of a count; x4 is a descriptor of one i32 contribution, x6 of 1,024; x7 of
none; x8 = 0x100 sets consumers, x9 clears. -/
def threadBank : State :=
  threadWith [(1, 1), (2, 255), (3, 256), (4, 1), (6, 1024), (7, 1025), (8, 0x100), (9, 1), (10, 3), (11, 0)]

theorem witness_SpineSharedRegisters :
    let sp := thr threadBank
    let s0 := drainAgent threadBank (.spine 1)
    let full := (hArrive threadBank (hLoc threadBank 1 0) (.spine 1) (.put 7 2)).1
    let ok (c : Nat) : Bool := c / 2 ^ 23 = 0 ∧ bitsOf c 20 3 ≤ 4 ∧ bitOf c 19 = false ∧ bitsOf c 16 3 ≤ 4 ∧ bitsOf c 11 5 = 0
                 ∧ 1 ≤ bitsOf c 0 11 ∧ bitsOf c 0 11 ≤ 1024
    let cfg (x : Nat) : Bool := x / 2 ^ 16 = 0 ∧ bitsOf x 2 6 = 0 ∧ x % 4 ≠ 3 ∧ (x % 4 = 1 ∨ bitsOf x 8 8 ≠ 0)
    curSpine threadBank = some (1, sp) ∧ sp.granted = none ∧ writesAway threadBank (.spine 1) = []
    ∧ (getX sp 11).toNat = 0 ∧ 255 < (getX sp 3).toNat
    ∧ (hArrive (if (hLoc s0 1 0).common then escape s0 1 else s0) (hLoc s0 1 0) (.spine 1) (.put 5 255)).2.isSome = true
    ∧ curSpine full = some (1, thr full)
    ∧ (hArrive (if (hLoc full 1 0).common then escape full 1 else full) (hLoc full 1 0) (.spine 1) .read).2.isSome = true
    ∧ (hArrive (if (hLoc s0 1 0).common then escape s0 1 else s0) (hLoc s0 1 0) (.spine 1) (.acc 5 0 0 1)).2.isSome = true
    ∧ ok (getX sp 4).toNat = true ∧ ok (getX sp 6).toNat = true ∧ ok (getX sp 7).toNat = false ∧ ok 0 = false
    ∧ cfg (getX sp 8).toNat = true ∧ cfg (getX sp 9).toNat = true ∧ cfg (getX sp 10).toNat = false ∧ cfg 0 = false := by
  decide +kernel

theorem witness_SpineSystemInstructions :
    let done := threadWith [] fun sp => { sp with granted := some 1 }
    let svp : State := { thread1 with turn := .spine (svpNo 3), spines := [(svpNo 3, { team := svpNo 3, cluster := 0, pc := 0 })] }
    curSpine thread1 = some (1, thr thread1) ∧ (thr thread1).granted = none ∧ recCtl thread1 (slotOf thread1 1) = 0
    ∧ (thread1.dpush.any fun p => p.who == .spine 1) = false ∧ isSvp 1 = false
    ∧ curSpine svp = some (svpNo 3, thr svp) ∧ isSvp (svpNo 3) = true
    ∧ curSpine done = some (1, thr done) ∧ (thr done).granted ≠ none := by decide +kernel

/-! ### Queues -/

/-- The block of queue n of a context: base 0x4000, 64 entries, its counters, nothing dropped. -/
def queueBlock (n head tail : Nat) : List Byte :=
  bytesOf 8 0x4000 ++ bytesOf 2 head ++ bytesOf 2 tail ++ bytesOf 2 tail ++ bytesOf 2 64
    ++ [6, 0, if n = 0 then 2 else 0, 0] ++ zeros 44

/-- The context has queues at VA 0x8000; queue n is as its block says. -/
def withQueue (s : State) (n head tail : Nat) : State :=
  { s with
    mem := memWriteN (memWriteN s.mem (ccbAt s 0 + 0x20) (bytesOf 8 0x8000)) (bootPage + 0x8000 + 64 * n)
      (queueBlock n head tail) }

/-- x1 = 5 names a queue, x2 = 0, x3 = 1024, x4 = 0x1000 is aligned, x5 = 0x1001 is not, x6 = 1023. -/
def threadQueue (n head tail : Nat) : State :=
  withQueue (threadWith [(1, 5), (3, 1024), (4, 0x1000), (5, 0x1001), (6, 1023)]) n head tail

theorem witness_SpineQueueAndEngineInstructions_push :
    let s := threadQueue 5 0 0
    let sp := thr s
    let r := loadRange s (rqSpine s sp) accLoad 0x1000 64
    let d (s : State) := drainAgent s (.spine 1)
    curSpine s = some (1, sp) ∧ (getX sp 1).toNat ≤ 1023 ∧ (getX sp 1).toNat ≠ 0 ∧ (getX sp 4).toNat % 64 = 0
    ∧ sp.resp = none ∧ r.2.1 = .done ∧ writesAway r.1 (.spine 1) = []
    ∧ ([false, true].all fun y => decide ((qPush (d r.1) (rqSpine (d r.1) sp) 5 r.2.2 false y (.spine 1)).2 = .reserved 0)) = true
    ∧ 1023 < (getX sp 3).toNat ∧ (getX sp 2).toNat = 0 ∧ (getX sp 5).toNat % 64 ≠ 0 ∧ (getX sp 6).toNat ≤ 1023 := by
  decide +kernel

theorem witness_SpineQueueAndEngineInstructions_pop :
    let s := threadQueue 5 0 1
    let sp := thr s
    curSpine s = some (1, sp) ∧ sp.resp = none
    ∧ (storeRange s (rqSpine s sp) 0x1000 (zeros 64)).2 = .done
    ∧ (qPop s (rqSpine s sp) 5 false).2 = .popped (zeros 64) ∧ (qPop s (rqSpine s sp) 5 true).2 = .popped (zeros 64) := by
  decide +kernel

/-- `launch` and `svc` (whose queue the control block names, 0x2C), `tiset` and `cpy`. -/
theorem witness_SpineQueueAndEngineInstructions :
    let s := threadQueue 0 0 0
    let sp := thr s
    let d (s : State) := drainAgent s (.spine 1)
    let u0 := threadQueue 5 0 0
    let u := { u0 with mem := memWriteN u0.mem (ccbAt u0 0 + 0x2C) (bytesOf 4 5) }
    let r := loadRange s (rqSpine s sp) accLoad 0x1000 64
    let e := escape r.1 1
    let deep := { s with grids := mmod s.grids 1 fun g => { g with depth := 9 } }
    curSpine s = some (1, sp) ∧ (gridOf s (teamOf s 1)).depth < 9 ∧ writesAway s (.spine 1) = []
    ∧ curSpine deep = some (1, thr deep) ∧ (gridOf deep (teamOf deep 1)).depth = 9
    ∧ (qPush (d s) (rqSpine (d s) sp) 0 (zeros 64) true false (.spine 1)).2 = .reserved 0
    ∧ curSpine u = some (1, thr u) ∧ writesAway u (.spine 1) = [] ∧ ccb u (slotOf u 1) 0x2C 4 = 5
    ∧ (qPush (d u) (rqSpine (d u) (thr u)) 5 (zeros 64) false false (.spine 1)).2 = .reserved 0
    ∧ (storeRange e (rqSpine e sp) (tidVa e (rqSpine e sp).slot 5) r.2.2).2 = .done
    ∧ (getX sp 4).toNat % 32 = 0 ∧ getX sp 2 = 0 ∧ queuedCopies s sp.cluster < 128
    ∧ (loadRange s (rqSpine s sp) accLoad (getX sp 4).toNat 32).2.1 = .done := by decide +kernel

/-- The context records (1) or replays (2) under queue 5, whose ring holds the value 9 of the thread's first `rdclk`. -/
def recording (s : State) (ctl tail : Nat) (key : List Byte) : State :=
  let s := withQueue s 5 0 tail
  { s with mem := memWriteN (memWriteN s.mem (ccbAt s 0 + 0x50) (bytesOf 8 (ctl + 5 * 65536))) (bootPage + 0x4000) (key ++ [9]) }

def pageHeld (s : State) : State := setDie s 0 { getDie s 0 with held := [⟨1, 0, 16, 0⟩] }

/-- `SpineSystemInstructions`: REC, its push under way, done; PLAY with an entry, without, with its page held. -/
theorem witness_SpineSystemInstructions_recording :
    let key := Claims.resultKey 2 1 0 0 0 0
    let done := recording (threadWith [] fun sp => { sp with granted := some 4 }) 1 0 key
    let rec_ := recording thread1 1 0 key
    let play := recording thread1 2 1 key
    let without := recording thread1 2 0 key
    let k (s : State) := Claims.resultKey 2 1 0 0 (teamOf s 1).index (thr s).ndet
    [rec_, play, without, pageHeld play].all (fun s => decide (runsThread s) && decide ((thr s).granted = none)
        && !s.dpush.any fun p => p.who == .spine 1) = true
    ∧ (recCtl rec_ (slotOf rec_ 1)).testBit 0 = true ∧ (recCtl rec_ (slotOf rec_ 1)).testBit 1 = false
    ∧ curSpine done = some (1, thr done) ∧ (thr done).granted = some 4 ∧ (done.dpush.any fun p => p.who == .spine 1) = false
    ∧ [play, without, pageHeld play].all (fun s => (recCtl s (slotOf s 1)).testBit 1 && decide (k s = key)) = true
    ∧ (match logFind play 0 fun e => e.take 24 = key with | .found c bs => decide (c = 0 ∧ fieldOf bs 24 8 = 9) | _ => false) = true
    ∧ logFind without 0 (fun e => e.take 24 = key) = .nothing ∧ logFind (pageHeld play) 0 (fun e => e.take 24 = key) = .held := by
  decide +kernel

/-- `SpineQueueAndEngineInstructions`: a pop and its write, one answered from outside; `cpy` with a completion word at 0x40,
on which nobody is asked; misaligned operands. -/
theorem witness_SpineQueueAndEngineInstructions_kept :
    let s := threadQueue 5 0 1
    let sp := thr s
    let s1 := (ownBytes s (rqSpine s sp) 0x1000 64).1
    let s2 := (qPop s1 (rqSpine s sp) 5 false).1
    let kept := modSpine (escape s2 1) 1 fun q => { q with granted := some 1, resp := some (zeros 64) }
    let answered := threadWith [(1, 5), (4, 0x1000)] fun q => { q with granted := some 1, resp := some [] }
    let word : Dword := 0x40
    (ownBytes s (rqSpine s sp) 0x1000 64).2 = .done ∧ (qPop s1 (rqSpine s sp) 5 true).2 = .popped (zeros 64)
    ∧ (qPop s1 (rqSpine s sp) 5 false).2 = .popped (zeros 64)
    ∧ (storeRange kept (rqSpine kept sp) 0x1000 (zeros 64)).2 = .done
    ∧ runsThread answered ∧ (thr answered).granted ≠ none ∧ (thr answered).resp = some []
    ∧ (peekHme s (rqSpine s sp) word.toNat).map hmeHome = some 0
    ∧ (match request s (rqSpine s sp).die (rqSpine s sp).slot (rqSpine s sp).asid word.toNat accStore false with
        | (_, .ok _) => true | _ => false) = true
    ∧ spineCopyOf (zeros 32) = none ∧ (spineCopyOf (zeros 16 ++ [8])).isSome = true
    ∧ (getX sp 5).toNat % 32 ≠ 0 ∧ (getX sp 5).toNat % 8 ≠ 0 := by decide +kernel

/-- The block of queue 0 lies at an address; the thread's grid has depth 9. -/
def deepQueue (tab : Nat) : State :=
  let s := threadQueue 0 0 0
  { s with mem := memWriteN s.mem (ccbAt s 0 + 0x20) (bytesOf 8 tab), grids := mmod s.grids 1 fun g => { g with depth := 9 } }

theorem witness_SpineQueueAndEngineInstructions_deep :
    depthFault (deepQueue (2 ^ 57)) (rqSpine (deepQueue (2 ^ 57)) (thr (deepQueue (2 ^ 57)))) = some (.fault 17 0 0 0 (2 ^ 57) 1)
    ∧ depthFault (deepQueue 0x8000) (rqSpine (deepQueue 0x8000) (thr (deepQueue 0x8000))) = none
    ∧ (gridOf (deepQueue 0x8000) (teamOf (deepQueue 0x8000) 1)).depth = 9 := by decide +kernel

/-! ### Lane instructions: hypotheses as Booleans -/

theorem all_of {α : Type} {l : List α} {p : α → Bool} {c : α → Prop} (h : l.all p = true) (k : ∀ a, p a = true → c a) :
    ∀ a ∈ l, c a := fun a m => k a (List.all_eq_true.mp h a m)

/-- Squad 1 stands as `sqd` says. -/
abbrev lx (s : State) (i : Instr) (o : LaneOp) : Lx := Claims.at_ 1 (sqd s) i o

def readyB (s : State) (o : LaneOp) (u : Uses) : Bool :=
  decide (curSquad s = some (1, sqd s)) && (awaited s 1 (sqd s) o (activeLanes (sqd s) o) u).isEmpty

theorem ready_of {s : State} {o : LaneOp} {u : Uses} (h : readyB s o u = true) : Claims.ready s 1 (sqd s) o u := by
  simp only [readyB, Bool.and_eq_true, decide_eq_true_eq, List.isEmpty_iff] at h; exact h

def roomB (s : State) (x : Lx) (e : Effect) : Bool :=
  let rows := ((Claims.mapped x e).map fun r => shapeRows r.2).sum
  decide (rows = 0) || decide (growCheck s x.id x.q rows = .ok)

theorem room_of {s : State} {x : Lx} {e : Effect} (h : roomB s x e = true) : Claims.room s x e := by
  simpa [roomB, Claims.room] using h

def issuesB (s : State) (x : Lx) (n : Nat) : Bool :=
  (match flagOf x.q x.o.fs with | none => true | some f => decide (flagCount x.q f ≠ 63))
  && (decide (x.act = 0) || decide (n = 0) || decide (growCheck s x.id x.q (8 * n) = .ok))

theorem issues_of {s : State} {x : Lx} {n : Nat} (h : issuesB s x n = true) : Claims.issues s x n := by
  simp only [issuesB, Bool.and_eq_true, Bool.or_eq_true, decide_eq_true_eq, or_assoc] at h
  refine ⟨fun f hf => ?_, h.2⟩
  have := h.1; rw [hf] at this; simpa using this

/-- A source that a shared register supplies: the bank performs the read, or there is none. -/
def consumedB (s : State) (x : Lx) : Bool :=
  match hSource x.o with
  | none => true
  | some n =>
    let l := hLoc s x.q.team n
    decide (x.q.granted = none) && (hArrive (if l.common then escape s x.q.team else s) l (.squad x.id) .read).2.isSome

theorem consumed_of {s : State} {x : Lx} (h : consumedB s x = true) : ∃ s' hv, Claims.consumed s x s' hv := by
  cases e : hSource x.o with
  | none => exact ⟨s, 0, by simp [Claims.consumed, e]⟩
  | some n =>
    simp only [consumedB, e, Bool.and_eq_true, decide_eq_true_eq, Option.isSome_iff_exists] at h
    obtain ⟨g, v, hv⟩ := h
    exact ⟨_, v, by simp only [Claims.consumed, e]; exact .inr ⟨g, by rw [← hv]⟩⟩

/-- The instruction begins and may issue. -/
abbrev Goes (s : State) (i : LaneOp → Instr) (o : LaneOp) (u : Uses) (n : Nat) : Prop :=
  Claims.ready s 1 (sqd s) o u ∧ Claims.issues s (lx s (i o) o) n

theorem goes_of {s : State} {i : LaneOp → Instr} {o : LaneOp} {u : Uses} {n : Nat}
    (h : (readyB s o u && issuesB s (lx s (i o) o) n) = true) : Goes s i o u n := by
  simp only [Bool.and_eq_true] at h; exact ⟨ready_of h.1, issues_of h.2⟩

def accessedB (s : State) (x : Lx) (r : Rq) (order : List Nat) (va : Nat → Dword) (data : Nat → List Word) : Bool :=
  (laneWalk (fun s l => laneAccess s r x.q.team x.i (va l).toNat (data l)) order s).2.2.isEmpty

theorem accessed_of {s : State} {x : Lx} {r : Rq} {order : List Nat} {va : Nat → Dword} {data : Nat → List Word}
    (h : accessedB s x r order va data = true) : ∃ s' ok, Claims.accessed s x r order va data s' ok := by
  simp only [accessedB, List.isEmpty_iff] at h
  exact ⟨_, _, Prod.ext rfl (Prod.ext rfl h)⟩

theorem released_of {s : State} {id : Nat} {q : Squad} (h : (decide (q.granted = none) && !q.arrived
    && ((waitingAccesses s id q).isEmpty && (writesAway s (.squad id)).isEmpty)
    && !mergedLeft (drainAgent s (.squad id)) (.squad id)) = true) : ∃ s', Claims.released s id q s' := by
  simp only [Bool.and_eq_true, decide_eq_true_eq, List.isEmpty_iff, Bool.not_eq_true'] at h
  exact ⟨_, .inr ⟨h.1.1.1, h.1.1.2, h.1.2.1, h.1.2.2, rfl, h.2⟩⟩

/-- The state in which a memory instruction's accesses start. -/
def drainsB (s : State) (x : Lx) (r : Rq) : Bool :=
  decide (x.act ≠ 0) && (isRelease x.i || (laneVas x).any fun a => pageType s r a == 3)

def begunAt (s : State) (x : Lx) (r : Rq) (writes : Bool) : State :=
  let s1 := Claims.entered s x writes
  if drainsB s1 x r then drainAgent s1 (.squad x.id) else s1

theorem drains_iff (s : State) (x : Lx) (r : Rq) : drainsB s x r = true ↔ Claims.drains s x r := by
  simp [drainsB, Claims.drains]

theorem begun_at (s : State) (x : Lx) (r : Rq) (writes : Bool) : Claims.begun s x r writes (begunAt s x r writes) := by
  unfold Claims.begun begunAt
  dsimp only
  rw [← drains_iff]
  split
  · next h => exact .inl ⟨h, rfl⟩
  · next h => exact .inr ⟨h, rfl⟩

theorem memGoes_of {s : State} {x : Lx} {r : Rq} (h : (!memGate s x.id x.q x.i r (laneVas x)
    && !mergedLeft (drainAgent s (.squad x.id)) (.squad x.id)) = true) : Claims.goes s x r := by
  simp only [Bool.and_eq_true, Bool.not_eq_true'] at h
  exact ⟨h.1, fun _ => h.2⟩

/-! ### Lane instructions: states and operands -/

def regOf (n : Nat) : VReg := { val := List.replicate 32 (BitVec.ofNat 32 n) }

/-- A squad whose flag 3 is one below its limit, with registers, and shared register 7 full. -/
def squad1 : State :=
  let s := squadWith fun q => { q with
    seta := 3, f := setAt q.f 3 62, v := [(1, regOf 1), (2, regOf 2), (3, regOf 3)], g := [(2, 64), (3, 65), (4, 1024), (5, 255), (6, 256), (7, 1)] }
  (hArrive s (hLoc s 1 7) .none (.put 5 2)).1

/-- The same without an active lane. -/
def squad0 : State := modSquad squad1 1 fun q => { q with em := 0 }

/-- v4 = op(v1, v2, v3); the same with shared register 7 in slot B. -/
def op3 : LaneOp := { Claims.bare with dst := .v 4, ty := .i32, a := .v 1 false, b := .v 2 true, c := .v 3 false }
def opH : LaneOp := { op3 with b := .h 7 }

theorem witness_LaneArithmetic : ∀ r ∈ Claims.laneTable,
    Claims.ready squad1 1 (sqd squad1) op3 (usesOf op3 (r.2.1 op3)) ∧ hSource op3 = none
    ∧ Claims.room squad1 (lx squad1 (r.1 op3) op3) (valEffect (lx squad1 (r.1 op3) op3) (r.2.1 op3).d fun l =>
        r.2.2 squad1 op3 (sqd squad1) l 1 2 3) :=
  all_of (p := fun r => readyB squad1 op3 (usesOf op3 (r.2.1 op3)) && roomB squad1 (lx squad1 (r.1 op3) op3)
      (valEffect (lx squad1 (r.1 op3) op3) (r.2.1 op3).d fun l => r.2.2 squad1 op3 (sqd squad1) l 1 2 3))
    (by decide +kernel) fun _ h => ⟨ready_of (Bool.and_eq_true _ _ ▸ h).1, rfl, room_of (Bool.and_eq_true _ _ ▸ h).2⟩

theorem witness_LaneArithmetic_shared : ∀ r ∈ Claims.laneTable,
    Claims.ready squad1 1 (sqd squad1) opH (usesOf opH (r.2.1 opH)) ∧ hSource opH ≠ none
    ∧ Claims.issues squad1 (lx squad1 (r.1 opH) opH) (usesOf opH (r.2.1 opH)).dv.length
    ∧ ∃ s' hv, Claims.consumed squad1 (lx squad1 (r.1 opH) opH) s' hv :=
  all_of (p := fun r => readyB squad1 opH (usesOf opH (r.2.1 opH))
      && (issuesB squad1 (lx squad1 (r.1 opH) opH) (usesOf opH (r.2.1 opH)).dv.length && consumedB squad1 (lx squad1 (r.1 opH) opH)))
    (by decide +kernel) fun _ h => by
      simp only [Bool.and_eq_true] at h
      exact ⟨ready_of h.1, by decide, issues_of h.2.1, consumed_of h.2.2⟩

theorem witness_LaneArithmetic_long : ∀ r ∈ Claims.longTable,
    Claims.ready squad1 1 (sqd squad1) op3 (usesOf op3 (r.2.1 op3))
    ∧ Claims.issues squad1 (lx squad1 (r.1 op3) op3) (usesOf op3 (r.2.1 op3)).dv.length
    ∧ ∃ s' hv, Claims.consumed squad1 (lx squad1 (r.1 op3) op3) s' hv :=
  all_of (p := fun r => readyB squad1 op3 (usesOf op3 (r.2.1 op3))
      && (issuesB squad1 (lx squad1 (r.1 op3) op3) (usesOf op3 (r.2.1 op3)).dv.length && consumedB squad1 (lx squad1 (r.1 op3) op3)))
    (by decide +kernel) fun _ h => by
      simp only [Bool.and_eq_true] at h
      exact ⟨ready_of h.1, issues_of h.2.1, consumed_of h.2.2⟩

/-- p1 = op(v1, v2); with shared register 7 in slot A; a uniform destination. -/
def opP : LaneOp := { op3 with dst := .sp 1 }
def opPH : LaneOp := { opP with a := .h 7 }

theorem witness_LanePredicates_tests : ∀ r ∈ Claims.testTable,
    (Claims.ready squad1 1 (sqd squad1) opP (usesOf opP (r.2.1 opP)) ∧ hSource opP = none)
    ∧ (Goes squad1 r.1 opPH (usesOf opPH (r.2.1 opPH)) 0 ∧ hSource opPH ≠ none)
    ∧ ∃ s' hv, Claims.consumed squad1 (lx squad1 (r.1 opPH) opPH) s' hv :=
  all_of (p := fun r => readyB squad1 opP (usesOf opP (r.2.1 opP)) && ((readyB squad1 opPH (usesOf opPH (r.2.1 opPH))
      && issuesB squad1 (lx squad1 (r.1 opPH) opPH) 0) && consumedB squad1 (lx squad1 (r.1 opPH) opPH)))
    (by decide +kernel) fun _ h => by
      rw [Bool.and_eq_true, Bool.and_eq_true] at h
      exact ⟨⟨ready_of h.1, rfl⟩, ⟨goes_of h.2.1, by decide⟩, consumed_of h.2.2⟩

theorem witness_LanePredicates :
    (Claims.ready squad1 1 (sqd squad1) opP (usesOf opP {}) ∧ hSource opP = none)
    ∧ (Goes squad1 .pset opPH (usesOf opPH {}) 0 ∧ ∃ s' hv, Claims.consumed squad1 (lx squad1 (.pset opPH) opPH) s' hv)
    ∧ (Goes squad1 .sel op3 { usesOf op3 (Claims.typed op3.ty) with ps := [0] } 1
        ∧ Claims.room squad1 (lx squad1 (.sel op3) op3) (valEffect (lx squad1 (.sel op3) op3) 32 fun _ => 0))
    ∧ (Goes squad1 .sel opH { usesOf opH (Claims.typed opH.ty) with ps := [0] } 1
        ∧ ∃ s' hv, Claims.consumed squad1 (lx squad1 (.sel opH) opH) s' hv)
    ∧ (Claims.ready squad1 1 (sqd squad1) op3 { usesOf op3 {} with ps := [0] }
        ∧ Claims.room squad1 (lx squad1 (.pget op3) op3) (valEffect (lx squad1 (.pget op3) op3) 32 fun _ => 0))
    ∧ Goes squad1 .vote opPH { usesOf opPH {} with ps := [0] } 0
    ∧ (∃ s' hv, Claims.consumed squad1 (lx squad1 (.vote opPH) opPH) s' hv)
    ∧ Goes squad1 .vote { op3 with md := 3 } { usesOf { op3 with md := 3 } {} with ps := [] } 1 :=
  ⟨⟨ready_of (by decide +kernel), rfl⟩, ⟨goes_of (by decide +kernel), consumed_of (by decide +kernel)⟩,
   ⟨goes_of (by decide +kernel), room_of (by decide +kernel)⟩,
   ⟨goes_of (by decide +kernel), consumed_of (by decide +kernel)⟩,
   ⟨ready_of (by decide +kernel), room_of (by decide +kernel)⟩,
   goes_of (by decide +kernel), consumed_of (by decide +kernel), goes_of (by decide +kernel)⟩

/-- h4 = op(v1); a contribution of 32 lanes to h4; h7 in slot A. -/
def opSR : LaneOp := { op3 with dst := .sp 4, imm := 4 }

/-- Its contribution, operation 3, has been taken while it waited. -/
def squadGranted : State :=
  modSquad { squad1 with pops := [(3, { squad := 1, tpc := (sqd squad1).pos, dst := .none, lanes := 0, vals := [], flag := none, ready := false })] } 1
    fun q => { q with granted := some 0 }

theorem witness_LaneSharedRegisters :
    let q := sqd squad1
    let s1 := drainAgent squad1 (.squad 1)
    let op (k : HOp) : Bool :=
      (hArrive (if (hLoc s1 q.team 4).common then escape s1 q.team else s1) (hLoc s1 q.team 4) (.squad 1) k).2.isSome
    (Goes squad1 .hput opSR (usesIfAny squad1 opSR { usesOf opSR { a := 32 } with dp := none }) 0
      ∧ Goes squad1 .hacc opSR { usesOf opSR { a := 32 } with dp := none } 0)
    ∧ Claims.ready squad0 1 (sqd squad0) opSR (usesIfAny squad0 opSR { usesOf opSR { a := 32 } with dp := none })
    ∧ Claims.ready squadGranted 1 (sqd squadGranted) opSR { usesOf opSR { a := 32 } with dp := none }
    ∧ (sqd squadGranted).granted ≠ none ∧ pendingContribution squadGranted 1 (sqd squadGranted) = some 3
    ∧ pendingContribution { squadGranted with pops := [] } 1 (sqd squadGranted) = none
    ∧ (hArrive (if (hLoc s1 q.team 7).common then escape s1 q.team else s1) (hLoc s1 q.team 7) (.squad 1) (.acc 5 0 0 4)).2 = none
    ∧ (∃ s', Claims.released squad1 1 q s')
    ∧ Goes squad1 .hstat { op3 with a := .h 7 } (usesOf { op3 with a := .h 7 } {}) 1
    ∧ q.granted = none ∧ q.arrived = false ∧ waitingAccesses squad1 1 q = [] ∧ writesAway squad1 (.squad 1) = []
    ∧ lowLane (lx squad1 (.hput opSR) opSR).act = some 0
    ∧ lowLane (lx squad0 (.hput opSR) opSR).act = none ∧ op (.put 1 4) = true ∧ op (.acc 32 0 0 4) = true :=
  ⟨⟨goes_of (by decide +kernel), goes_of (by decide +kernel)⟩, ready_of (by decide +kernel), ready_of (by decide +kernel),
   by decide +kernel, by decide +kernel, by decide +kernel, by decide +kernel, released_of (by decide +kernel),
   goes_of (by decide +kernel), by decide +kernel⟩

/-! ### Lane accesses -/

/-- v4 = [g2 + v1] in the first and the last lane, with v1 = 64 or 65; a stored or combined v8 to v11; addresses that the host homes. -/
def opM : LaneOp := { Claims.bare with dst := .v 4, ty := .b32, a := .g 2, b := .v 1 false, c := .v 8 false }
def squadM (x : Nat) : State :=
  modSquad squad1 1 fun q => { q with em := 0x80000001, v := mset q.v 1 (regOf x) }
def squadHost : State :=
  { squadM 0x200000 with mem := memWriteN squad1.mem (bootHm + 0x3004) (bytesOf 4 8) }

theorem witness_LaneLoadsStoresAndAtomics : ∀ r ∈ Claims.memTable,
    (Goes (squadM 64) r.make opM (r.uses opM) (r.regs opM).length
      ∧ Claims.offGrid (lx (squadM 64) (r.make opM) opM) (r.size opM) = 0
      ∧ Claims.onHost (squadM 64) (lx (squadM 64) (r.make opM) opM) = 0)
    ∧ (Claims.ready (squadM 65) 1 (sqd (squadM 65)) opM (r.uses opM)
      ∧ Claims.offGrid (lx (squadM 65) (r.make opM) opM) (r.size opM) ≠ 0)
    ∧ (Claims.ready squadHost 1 (sqd squadHost) opM (r.uses opM)
      ∧ Claims.offGrid (lx squadHost (r.make opM) opM) (r.size opM) = 0
      ∧ Claims.onHost squadHost (lx squadHost (r.make opM) opM) ≠ 0) :=
  all_of (p := fun r => (readyB (squadM 64) opM (r.uses opM) && issuesB (squadM 64) (lx (squadM 64) (r.make opM) opM) (r.regs opM).length
        && (decide (Claims.offGrid (lx (squadM 64) (r.make opM) opM) (r.size opM) = 0)
          && decide (Claims.onHost (squadM 64) (lx (squadM 64) (r.make opM) opM) = 0)))
      && ((readyB (squadM 65) opM (r.uses opM) && decide (Claims.offGrid (lx (squadM 65) (r.make opM) opM) (r.size opM) ≠ 0))
      && (readyB squadHost opM (r.uses opM) && (decide (Claims.offGrid (lx squadHost (r.make opM) opM) (r.size opM) = 0)
          && decide (Claims.onHost squadHost (lx squadHost (r.make opM) opM) ≠ 0)))))
    (by decide +kernel) fun _ h => by
      simp only [Bool.and_eq_true, decide_eq_true_eq] at h
      exact ⟨⟨goes_of (by simp [h.1.1]), h.1.2⟩, ⟨ready_of h.2.1.1, h.2.1.2⟩, ready_of h.2.2.1, h.2.2.2⟩

/-- The access of lane 2 is performed. -/
theorem witness_LaneLoadsStoresAndAtomics_performed : ∀ r ∈ Claims.memTable,
    let s := modSquad (squadM 64) 1 fun q => { q with em := 4 }
    let x := lx s (r.make opM) opM
    let rq := rqSquad s 1 (sqd s)
    Claims.goes (Claims.entered s x r.writes) x rq
    ∧ ∃ s1 s' ok, Claims.begun s x rq r.writes s1 ∧ Claims.accessed s1 x rq
        (if r.writes then laneOrder (Claims.entered s x true) x rq else lanesOf x.act)
        (fun l => laneAddr (sqd s) opM l) (r.data (sqd s) opM) s' ok :=
  all_of (p := fun r =>
    let s := modSquad (squadM 64) 1 fun q => { q with em := 4 }
    let x := lx s (r.make opM) opM
    let rq := rqSquad s 1 (sqd s)
    let s0 := Claims.entered s x r.writes
    (!memGate s0 x.id x.q x.i rq (laneVas x) && !mergedLeft (drainAgent s0 (.squad x.id)) (.squad x.id))
    && accessedB (begunAt s x rq r.writes) x rq
        (if r.writes then laneOrder (Claims.entered s x true) x rq else lanesOf x.act)
        (fun l => laneAddr (sqd s) opM l) (r.data (sqd s) opM))
    (by decide +kernel) fun r h => by
      have h := (Bool.and_eq_true _ _).mp h
      obtain ⟨s', ok, e⟩ := accessed_of h.2
      exact ⟨memGoes_of h.1, _, s', ok, begun_at _ _ _ _, e⟩

/-- The same access in a grain of the cluster that is drained, or armed. -/
def squadCnt (c : CntState) : State :=
  let s := squadM 64
  let t := (loadRange s (rqSquad s 1 (sqd s)) accLoad 128 4).1
  { t with grains := t.grains.map fun g => { g with cnt := c } }

/-- One or two ports in CXL mode with an acknowledgement to wait for; it has come. -/
def squadAcked : State := modSquad squad1 1 fun q => { q with arrived := true }

/-- The page takes counted fills of 128 bytes (03 R64). -/
def squadFill : State :=
  let s := squadM 64
  setDie { s with mem := memWriteN s.mem (bootPt + 0x4000) (bytesOf 8 (bootLeaf + 0x840)) } 0 { getDie s 0 with tlb := [] }

def opN (c : Src) : LaneOp := { opM with c := c }

theorem witness_LaneOtherMemoryInstructions :
    let s := squadM 64
    let q := sqd s
    let rq := rqSquad s 1 q
    let x (i : LaneOp → Instr) := lx s (i opM) opM
    let u := memUses opM 0 0 (regDst opM.dst 1)
    Goes s .ldu opM u 1 ∧ Goes s .prf opM (memUses opM 0 0 []) 0 ∧ Goes s .ldc opM u 1 ∧ Goes s .loc opM u 1
    ∧ (Goes squadFill .ldcf (opN (.g 5)) { memUses (opN (.g 5)) 0 0 [4] with gs := [2, 5] } 1 ∧ srcVal q (opN (.g 5)) 0 64 (.g 5) 0 = 255)
    ∧ (Goes squadFill .ldcf (opN (.g 6)) { memUses (opN (.g 6)) 0 0 [4] with gs := [2, 6] } 1 ∧ srcVal q (opN (.g 6)) 0 64 (.g 6) 0 = 256)
    ∧ (Goes squadFill .ldcf (opN (.g 7)) { memUses (opN (.g 7)) 0 0 [4] with gs := [2, 7] } 1 ∧ srcVal q (opN (.g 7)) 0 64 (.g 7) 0 = 1)
    ∧ srcVal q (opN (.g 8)) 0 64 (.g 8) 0 = 0
    ∧ Goes s .fence opM {} 0 ∧ Goes squadAcked .pfence opM {} 0
    ∧ (∃ s' ok, Claims.accessed s (x .ldu) rq [0] (laneAddr q opM) (fun _ => []) s' ok)
    ∧ (∃ s' ok, Claims.accessed s (x .ldc) rq laneIdx (laneAddr q opM) (fun _ => []) s' ok)
    ∧ (∃ s' ok, Claims.accessed squadFill (lx squadFill (.ldcf (opN (.g 5))) (opN (.g 5))) rq laneIdx (laneAddr q opM) (fun _ => [255]) s' ok)
    ∧ (locLanes (x .loc) rq (lanesOf (x .loc).act) s).2.isSome = true
    ∧ (x .ldu).act ≠ 0 ∧ (laneAddr q opM 0).toNat % accessSize opM = 0
    ∧ (laneAddr (sqd (squadM 65)) opM 0).toNat % accessSize opM ≠ 0 ∧ Claims.offGrid (x .ldc) (accessSize opM) = 0 :=
  ⟨goes_of (by decide +kernel), goes_of (by decide +kernel), goes_of (by decide +kernel), goes_of (by decide +kernel),
   ⟨goes_of (by decide +kernel), by decide +kernel⟩, ⟨goes_of (by decide +kernel), by decide +kernel⟩,
   ⟨goes_of (by decide +kernel), by decide +kernel⟩, by decide +kernel, goes_of (by decide +kernel), goes_of (by decide +kernel),
   accessed_of (by decide +kernel), accessed_of (by decide +kernel), accessed_of (by decide +kernel),
   by decide +kernel⟩

theorem witness_LaneOtherMemoryInstructions_counts :
    let s := squadM 64
    let q := sqd s
    let ud := sqd (squadCnt .drained)
    let goes (s : State) (i : LaneOp → Instr) (o : LaneOp) : Bool :=
      !memGate s 1 (sqd s) (i o) (rqSquad s 1 (sqd s)) (laneVas (lx s (i o) o))
    grainCnt (squadCnt .drained) (rqSquad (squadCnt .drained) 1 ud) (laneAddr ud opM 0).toNat = .drained
    ∧ grainCnt (squadCnt (.armed 1 1 1)) (rqSquad s 1 q) (laneAddr q opM 0).toNat = .armed 1 1 1
    ∧ logFull s 1 q = false ∧ waitingAccesses s 1 q = [] ∧ anyCxl (flushPers (drainAgent s (.squad 1))) = false
    ∧ q.arrived = false ∧ (sqd squadAcked).arrived = true ∧ squadAcked.pfences.contains (.squad 1) = false
    ∧ goes s .ldu opM = true ∧ goes s .ldc opM = true ∧ goes squadFill .ldcf (opN (.g 5)) = true := by decide +kernel

/-! ### Local store -/

/-- A segment of 16 KiB: v1 = 64 and g2 = 0 address it; lane 5 is misaligned; block 0 is drained. -/
def withSeg (s : State) : State := { s with grids := mmod s.grids 1 fun g => { g with lr := { g.lr with lskib := 16 } } }
def squadLs : State :=
  withSeg (modSquad squad1 1 fun q => { q with
    v := mset q.v 1 { val := lanesFrom fun l => if l = 5 then 65 else BitVec.ofNat 32 (4 * l) }, g := mset q.g 2 0 })
def squadLsOff : State := modSquad squadLs 1 fun q => { q with em := 0xFFFFFFDF }
def squadLsDrained : State := modSeg squadLs 1 0 fun g => { g with blocks := [(0, .drained)] }

/-- The instruction enters: nothing is awaited before or after the bad lane has left. -/
abbrev Enters (s : State) (i : LaneOp → Instr) (o : LaneOp) (u : Uses) (k n : Nat) : Prop :=
  Claims.ready s 1 (sqd s) o u ∧ Claims.acquired s 1 (sqd s)
  ∧ awaited (Claims.lsLeft s (lx s (i o) o) k) 1 (sqd s) o (Claims.lsX s (lx s (i o) o) k).act u = []
  ∧ Claims.issues (Claims.lsLeft s (lx s (i o) o) k) (Claims.lsX s (lx s (i o) o) k) n

theorem enters_of {s : State} {i : LaneOp → Instr} {o : LaneOp} {u : Uses} {k n : Nat}
    (h : (readyB s o u && (!acquiring s 1 (sqd s) (rqSquad s 1 (sqd s)) && (awaited (Claims.lsLeft s (lx s (i o) o) k) 1 (sqd s) o (Claims.lsX s (lx s (i o) o) k).act u).isEmpty
      && issuesB (Claims.lsLeft s (lx s (i o) o) k) (Claims.lsX s (lx s (i o) o) k) n)) = true) : Enters s i o u k n := by
  rw [Bool.and_eq_true, Bool.and_eq_true, Bool.and_eq_true, List.isEmpty_iff, Bool.not_eq_true'] at h
  exact ⟨ready_of h.1, h.2.1.1, h.2.1.2, issues_of h.2.2⟩

/-- `lsarm` of one block, of 4,096 and of 4,097; a count of 256 in slot D of `stsArm`. -/
def opArm (n : Nat) : LaneOp := { opM with b := .v 255 false, a := .g 9, c := .g (BitVec.ofNat 7 n) }
def squadArm : State := modSquad squadLs 1 fun q => { q with g := [(10, 0x101), (11, 0x100001), (12, 0x100101), (13, 0x200000)] }

theorem witness_LocalStoreInstructions :
    let o := { opM with dst := .g 5 }
    let bad := lx squadLs (.lds opM) opM
    Enters squadLs .lds opM (memUses opM 0 0 [4]) 4 1 ∧ Enters squadLsOff .lds opM (memUses opM 0 0 [4]) 4 1
    ∧ Enters squadLs .sts opM (memUses opM 1 1 []) 4 0
    ∧ Enters squadLs .stsArm o { memUses o 1 1 [] with gs := [5, 2] } 4 0
    ∧ Claims.ready squadLs 1 (sqd squadLs) { opM with dst := .g 6 } { memUses opM 1 1 [] with gs := [6, 2] }
    ∧ Enters squadLs .atoms opM (memUses opM 1 1 [4]) 4 1
    ∧ Enters squadLs .ldsc opM (memUses opM 0 0 [4]) 4 1 ∧ Enters squadLsDrained .ldsc opM (memUses opM 0 0 [4]) 4 1
    ∧ Goes squadArm .lsarm (opArm 10) (usesOf (opArm 10) { a := 64, c := 64 }) 0
    ∧ Goes squadArm .lsarm (opArm 11) (usesOf (opArm 11) { a := 64, c := 64 }) 0
    ∧ Claims.ready squadArm 1 (sqd squadArm) (opArm 12) (usesOf (opArm 12) { a := 64, c := 64 })
    ∧ Claims.ready squadArm 1 (sqd squadArm) (opArm 13) (usesOf (opArm 13) { a := 64, c := 64 })
    ∧ Enters squadLs .lsstat opM (memUses opM 0 0 [4]) 1 1
    ∧ Claims.lsBad squadLs bad 4 = 32 ∧ (readG (sqd squadLs) 5).toNat = 255 ∧ 255 < (readG (sqd squadLs) 6).toNat
    ∧ ((teamOf squadLsDrained 1).seg 0).state 0 = .drained ∧ ((teamOf squadLs 1).seg 0).state 0 ≠ .drained
    ∧ ([10, 11, 12].map fun n => bitsOf (srcVal (sqd squadArm) (opArm n) 0 64 (opArm n).c 0) 8 13) = [1, 4096, 4097]
    ∧ srcVal (sqd squadArm) (opArm 13) 0 64 (.g 13) 0 = 2 ^ 21
    ∧ lsRange 16 1 0 (lsLane (sqd squadArm) (opArm 10) 0) 128 ≠ none
    ∧ lsRange 16 1 0 (lsLane (sqd squadArm) (opArm 11) 0) (128 * 4096) = none :=
  ⟨enters_of (by decide +kernel), enters_of (by decide +kernel), enters_of (by decide +kernel), enters_of (by decide +kernel),
   ready_of (by decide +kernel), enters_of (by decide +kernel), enters_of (by decide +kernel), enters_of (by decide +kernel),
   goes_of (by decide +kernel), goes_of (by decide +kernel), ready_of (by decide +kernel), ready_of (by decide +kernel),
   enters_of (by decide +kernel), by decide +kernel⟩

/-- An access of the squad waits; a write of it is away at the host; a CXL port is there. -/
def squadWaits : State := { (modSquad squad1 1 fun q => { q with
    log := [{ id := 4, instr := .fence opM, tpc := 0, em := 1, parked := [(0, 64, [])], pop := 0 }] }) with
  reqs := [{ id := 7, who := .squad 1 4, kind := .read 4, asid := 1, va := 64, st := .held, agent := .squad 1 }] }
def squadAway : State :=
  { squad1 with reqs := [{ id := 7, who := .device, kind := .write (zeros 8), asid := 1, va := 64, st := .remote, agent := .squad 1 }] }
def squadCxl : State := { squad1 with io := { squad1.io with tiers := [(0, { mode := 2 })] } }

theorem witness_LaneOtherMemoryInstructions_releases :
    let free (s : State) : Bool := decide ((sqd s).granted = none) && !(sqd s).arrived
    (∀ s ∈ [squadWaits, squadAway, squadCxl], Claims.ready s 1 (sqd s) opM {})
    ∧ waitingAccesses squadWaits 1 (sqd squadWaits) ≠ [] ∧ waitingAccesses squadAway 1 (sqd squadAway) = []
    ∧ writesAway squadAway (.squad 1) ≠ [] ∧ free squadWaits = true ∧ free squadAway = true ∧ free squadCxl = true
    ∧ (∃ s0, Claims.released squadCxl 1 (sqd squadCxl) s0) ∧ anyCxl (flushPers (drainAgent squadCxl (.squad 1))) = true
    ∧ ((opM.md.extractLsb' 0 2).toNat < 2 ∧ 2 ≤ (({ opM with md := 3 } : LaneOp).md.extractLsb' 0 2).toNat)
    ∧ (∃ s1, Claims.begun (squadM 64) (lx (squadM 64) (.ldc opM) opM) (rqSquad (squadM 64) 1 (sqd (squadM 64))) false s1) :=
  ⟨all_of (p := fun s => readyB s opM {}) (by decide +kernel) fun _ h => ready_of h, by decide +kernel, by decide +kernel,
   by decide +kernel, by decide +kernel, by decide +kernel, by decide +kernel, released_of (by decide +kernel),
   by decide +kernel, by decide +kernel, _, begun_at _ _ _ _⟩

/-! ### Lane control -/

/-- p0 holds in lanes 0 to 15; v1 = 24 there and 36 in the others, v5 = 25 and v6 = 0; a spawn area of 8 KiB. -/
def squadFlow (kib : Nat := 8) (f : Squad → Squad := id) : State :=
  modSquad { squad1 with grids := mmod squad1.grids 1 fun g => { g with lr := { g.lr with spawnkib := kib } } } 1 fun q =>
    f { q with p := setAt q.p 0 0xFFFF, g := mset q.g 8 24
               v := [(1, { val := lanesFrom fun l => if l < 16 then 24 else 36 }), (5, regOf 25), (6, regOf 0)] }

/-- Under p0 and through v1 the lanes differ; without a guard and through g8 they agree on 24. -/
def opSplit : LaneOp := { Claims.bare with gp := 0, dst := .v 4, a := .v 1 true, md := 1 }
def opAgree : LaneOp := { opSplit with gp := 7, a := .g 8, imm := 2 }

theorem witness_LaneFlow_agree : ∀ r ∈ Claims.flowTable,
    let x := lx (squadFlow) (r.make opAgree) opAgree
    Claims.ready (squadFlow) 1 (sqd (squadFlow)) opAgree (r.uses opAgree) ∧ (sqd (squadFlow)).uni = false
    ∧ Claims.aimed x (r.target x) (fun t => t.toNat % 12 != 0) = 0 ∧ Claims.aimed x (r.target x) (fun t => t == 0) = 0 ∧ (sqd (squadFlow)).eject = none
    ∧ Claims.agree x (r.target x) 24
    ∧ Claims.room (squadFlow) x { vs := Claims.linked r x, post := fun q => { q with pos := 24 - 12 } } :=
  all_of (p := fun r =>
    let x := lx (squadFlow) (r.make opAgree) opAgree
    readyB (squadFlow) opAgree (r.uses opAgree) && (roomB (squadFlow) x { vs := Claims.linked r x, post := fun q => { q with pos := 24 - 12 } }
    && decide ((sqd (squadFlow)).uni = false
    ∧ Claims.aimed x (r.target x) (fun t => t.toNat % 12 != 0) = 0 ∧ Claims.aimed x (r.target x) (fun t => t == 0) = 0 ∧ (sqd (squadFlow)).eject = none
    ∧ (∀ l ∈ lanesOf x.q.em, r.target x l = 24) ∧ x.q.em ≠ 0)))
    (by decide +kernel) fun r h => by
      simp only [Bool.and_eq_true, decide_eq_true_eq] at h
      exact ⟨ready_of h.1, h.2.2.1, h.2.2.2.1, h.2.2.2.2.1, h.2.2.2.2.2.1, ⟨h.2.2.2.2.2.2.1, fun e => absurd e h.2.2.2.2.2.2.2⟩,
        room_of h.2.1⟩

/-- 16 lanes go to 24 and 16 elsewhere: the lower target stays. Nothing is awaited, no handler runs; there is an area with
room, or there is none; a handler runs. -/
theorem witness_LaneFlow_split : ∀ r ∈ Claims.flowTable.filter fun r => !r.links || r.ind opSplit,
    let s := squadFlow
    let x := lx s (r.make opSplit) opSplit
    let stay : Word := if r.ind opSplit then 24 else 0
    Claims.ready s 1 (sqd s) opSplit (r.uses opSplit)
    ∧ (r.checked = true → Claims.aimed x (r.target x) (fun t => t.toNat % 12 != 0) = 0)
    ∧ (r.back = true → Claims.aimed x (r.target x) (fun t => t == 0) = 0)
    ∧ Claims.stays x (r.target x) stay ∧ (Claims.leaves x (r.target x) stay).length = 16
    ∧ spawnRoom s x.q [1] (Claims.linked r x) 16 ≠ none ∧ (lrOf s 1).spawnkib ≠ 0 ∧ (lrOf (squadFlow 0) 1).spawnkib = 0
    ∧ spawnRoom (squadFlow 1) x.q [1] (Claims.linked r x) 16 = none
    ∧ inHandler x.q = false ∧ (∀ v ∈ x.q.v, v.2.pend = none)
    ∧ inHandler (sqd (squadFlow 8 fun q => { q with tcause := 0x200 })) = true :=
  all_of (p := fun r =>
    let s := squadFlow
    let x := lx s (r.make opSplit) opSplit
    let stay : Word := if r.ind opSplit then 24 else 0
    readyB s opSplit (r.uses opSplit)
    && decide ((r.checked = true → Claims.aimed x (r.target x) (fun t => t.toNat % 12 != 0) = 0)
    ∧ (r.back = true → Claims.aimed x (r.target x) (fun t => t == 0) = 0)
    ∧ ((∃ l ∈ lanesOf x.q.em, r.target x l = stay) ∧
        ∀ l ∈ lanesOf x.q.em, r.target x l ≠ stay →
          Claims.crowd x (r.target x) (r.target x l) < Claims.crowd x (r.target x) stay ∨
          (Claims.crowd x (r.target x) (r.target x l) = Claims.crowd x (r.target x) stay ∧ stay < r.target x l))
    ∧ (Claims.leaves x (r.target x) stay).length = 16
    ∧ spawnRoom s x.q [1] (Claims.linked r x) 16 ≠ none ∧ (lrOf s 1).spawnkib ≠ 0 ∧ (lrOf (squadFlow 0) 1).spawnkib = 0
    ∧ spawnRoom (squadFlow 1) x.q [1] (Claims.linked r x) 16 = none
    ∧ inHandler x.q = false ∧ (∀ v ∈ x.q.v, v.2.pend = none)
    ∧ inHandler (sqd (squadFlow 8 fun q => { q with tcause := 0x200 })) = true))
    (by decide +kernel) fun r h => by
      rw [Bool.and_eq_true, decide_eq_true_eq] at h
      exact ⟨ready_of h.1, h.2⟩

/-- The squad, or another one of its partition, holds every row: the link of a call whose lanes differ asks for more. -/
def fullRows : FMap VReg := (List.range 256).map fun n => (n, { val := lanesFrom fun l => BitVec.ofNat 32 ((l + 1) * 0x9E3779B1) })
def squadFull : State :=
  squadFlow 8 fun q => { q with v := mset fullRows 1 { val := lanesFrom fun l => if l < 16 then 24 else 36 } }
def squadShort : State :=
  { squadFlow with squads := mset (squadFlow).squads 2 { sqd squadFlow with index := 1, slot := 1, v := fullRows } }

theorem witness_LaneFlow_rows : ∀ y ∈ [(squadFlow, Grow.ok), (squadFull, .trap), (squadShort, .wait)],
    let x := lx y.1 (.call opSplit) opSplit
    let link := (dstVs 32 opSplit.dst).map fun n => (n, mergeLanes x.q n x.act fun _ => (x.q.pos + 12).toNat)
    Claims.ready y.1 1 (sqd y.1) opSplit (Claims.aUses opSplit)
    ∧ (link.map fun n => shapeRows n.2).sum ≠ 0 ∧ growCheck y.1 1 (sqd y.1) (link.map fun n => shapeRows n.2).sum = y.2
    ∧ (Claims.leaves x (Claims.named x) 24).length = 16 ∧ inHandler (sqd y.1) = false ∧ (sqd y.1).eject = none
    ∧ (∀ v ∈ (sqd y.1).v, v.2.pend = none) :=
  all_of (p := fun y : State × Grow =>
    let x := lx y.1 (.call opSplit) opSplit
    let link := (dstVs 32 opSplit.dst).map fun n => (n, mergeLanes x.q n x.act fun _ => (x.q.pos + 12).toNat)
    readyB y.1 opSplit (Claims.aUses opSplit)
    && decide ((link.map fun n => shapeRows n.2).sum ≠ 0 ∧ growCheck y.1 1 (sqd y.1) (link.map fun n => shapeRows n.2).sum = y.2
    ∧ (Claims.leaves x (Claims.named x) 24).length = 16 ∧ inHandler (sqd y.1) = false ∧ (sqd y.1).eject = none
    ∧ (∀ v ∈ (sqd y.1).v, v.2.pend = none)))
    (by decide +kernel) fun _ h => by rw [Bool.and_eq_true, decide_eq_true_eq] at h; exact ⟨ready_of h.1, h.2⟩

/-- Targets that are misaligned and that are 0, through v5 and v6; a uniform-only volley. -/
theorem witness_LaneFlow :
    let o (n : BitVec 8) : LaneOp := { opSplit with a := .v n false }
    let uni := squadFlow 8 fun q => { q with uni := true }
    (∀ n ∈ [5, 6], Claims.ready (squadFlow) 1 (sqd (squadFlow)) (o n) { vs := srcVs 32 (.v n false), dv := dstVs 32 (.v 4) })
    ∧ Claims.aimed (lx (squadFlow) (.ret (o 5)) (o 5)) (Claims.named (lx (squadFlow) (.ret (o 5)) (o 5))) (fun t => t.toNat % 12 != 0) ≠ 0
    ∧ Claims.aimed (lx (squadFlow) (.ret (o 6)) (o 6)) (Claims.named (lx (squadFlow) (.ret (o 6)) (o 6))) (fun t => t.toNat % 12 != 0) = 0
    ∧ Claims.aimed (lx (squadFlow) (.ret (o 6)) (o 6)) (Claims.named (lx (squadFlow) (.ret (o 6)) (o 6))) (fun t => t == 0) ≠ 0
    ∧ Claims.ready uni 1 (sqd uni) opAgree {} ∧ (sqd uni).uni = true :=
  ⟨all_of (p := fun n : BitVec 8 => readyB (squadFlow) { opSplit with a := .v n false } { vs := srcVs 32 (.v n false), dv := dstVs 32 (.v 4) })
      (by decide +kernel) fun _ h => ready_of h,
   by decide +kernel, by decide +kernel, by decide +kernel, ready_of (by decide +kernel), by decide +kernel⟩

/-- The squad of `squadFlow` with its threads of another origin, or with only 16 of them. -/
def squadElse : State := squadFlow 8 fun q => { q with origin := laneIdx.map fun l => ⟨0, 31 - l, 0⟩ }
def squadHalf (kib : Nat := 8) : State := squadFlow kib fun q => { q with pm := 0xFFFF, em := 0xFFFF }

def opBare : LaneOp := Claims.bare

theorem witness_LaneRejoinExitYield :
    let parks (s : State) : Prop := (sqd s).eject = none ∧ (spawnRoom s (sqd s) [] [] (lanesOf (sqd s).pm).length).isSome
      ∧ ∀ v ∈ (sqd s).v, v.2.pend = none
    let y (n : BitVec 7) : LaneOp := { opBare with a := .g n }
    let m (n : BitVec 7) : Nat := srcVal (sqd (squadHalf)) (y n) 0 64 (y n).a 0
    (∀ s ∈ [squadHalf, squadHalf 0, squadElse, squadFlow, squad0], Claims.ready s 1 (sqd s) opBare {})
    ∧ (∀ n ∈ [(4 : BitVec 7), 14, 15], Claims.ready (squadHalf) 1 (sqd (squadHalf)) (y n) { gs := [n.toNat] })
    ∧ (sqd (squadFlow)).pm = 0xFFFFFFFF ∧ (sqd (squadHalf)).pm ≠ 0xFFFFFFFF ∧ (lrOf (squadHalf 0) 1).spawnkib = 0
    ∧ parks (squadHalf) ∧ parks squadElse
    ∧ holdsOrigin (squadFlow) 1 (sqd (squadFlow)) = true ∧ holdsOrigin squadElse 1 (sqd squadElse) = false
    ∧ activeLanes (sqd squad0) opBare = 0 ∧ activeLanes (sqd (squadHalf)) opBare = (sqd (squadHalf)).pm
    ∧ activeLanes (sqd (squadHalf)) { opBare with gn := true, gp := 1 } ≠ 0
    ∧ (sqd (squadHalf)).log = [] ∧ (sqd (squadHalf)).traps = [] ∧ (sqd (squadHalf)).unseen = []
    ∧ m 4 < 2 ^ 12 ∧ (sqd (squadFlow 8 fun q => { q with g := [(14, 4095), (15, 4096)] })).g = [(14, 4095), (15, 4096)] :=
  ⟨all_of (p := fun s => readyB s opBare {}) (by decide +kernel) fun _ h => ready_of h,
   all_of (p := fun n : BitVec 7 => readyB (squadHalf) { opBare with a := .g n } { gs := [n.toNat] }) (by decide +kernel)
     fun _ h => ready_of h, by decide +kernel⟩

/-- A squad that has arrived at the team's phase, or at the one before; whose threads are marked; whose wait has ended. -/
def squadBar (ph : Option Bool) (marks : Word := 0) (gr : Option Dword := none) : State :=
  modSquad squad1 1 fun q => { q with phase := ph, marks := marks, granted := gr }

/-- The arrival of the team's only squad ends the phase; beside another one it does not. -/
def squadBar2 : State :=
  { squadBar none with squads := mset (squadBar none).squads 2 { sqd squad1 with index := 1, slot := 1 } }

theorem witness_LaneBarriersAndNaps :
    let x := lx squad1 (.bar opBare) opBare
    let y (s : State) : Option Bool × Bool := ((sqd (arrive s x)).phase, (teamOf (arrive s x) 1).barPhase)
    (∀ s ∈ [squad1, squad0, squadBar (some false), squadBar (some true), squadBar none 1, squadBar none 0 (some 0), squadBar2],
      Claims.ready s 1 (sqd s) opBare {})
    ∧ (∃ s', Claims.released squad1 1 (sqd squad1) s')
    ∧ (lx squad0 (.bar opBare) opBare).act = 0 ∧ x.act ≠ 0 ∧ (sqd squad1).arrived = false ∧ (sqd squad1).marks &&& (sqd squad1).pm = 0
    ∧ (sqd (squadBar none 1)).marks &&& (sqd (squadBar none 1)).pm ≠ 0 ∧ (sqd (squadBar none 0 (some 0))).granted.isSome = true
    ∧ y squad1 = (none, true) ∧ y squadBar2 = (some false, false)
    ∧ (teamOf squad1 1).barPhase = false ∧ (sqd (squadBar (some true))).phase = some true :=
  ⟨all_of (p := fun s => readyB s opBare {}) (by decide +kernel) fun _ h => ready_of h, released_of (by decide +kernel), by decide +kernel⟩

/-- v4 = the control register that an immediate names; the same from v1. -/
def opCsr (n : BitVec 24) : LaneOp := { opBare with dst := .v 4, a := .v 1 false, imm := n, ty := .n64 }

theorem witness_LaneSystemInstructions :
    (∀ n ∈ [(0 : BitVec 24), 1, 2, 3, 4, 5, 6, 7], Goes squad1 .csrr (opCsr n) { dv := dstVs (Claims.controlWidth n.toNat) (.v 4) }
      (dstVs (Claims.controlWidth n.toNat) (.v 4)).length)
    ∧ (∀ n ∈ [(0 : BitVec 24), 3, 4, 6, 7], Claims.ready squad1 1 (sqd squad1) (opCsr n)
      { vs := srcVs (Claims.controlWidth n.toNat) (.v 1 false), gs := [] })
    ∧ (∀ s ∈ [squad1, squad0], Claims.ready s 1 (sqd s) opBare {})
    ∧ Goes squad1 .rdclk (opCsr 0) { dv := [4, 5] } 2 ∧ Goes squad1 .rand (opCsr 0) { dv := dstVs LType.n64.opW (.v 4) } 2
    ∧ lowLane (lx squad1 (.csrw (opCsr 3)) (opCsr 3)).act = some 0 ∧ (lx squad0 (.csrw (opCsr 3)) (opCsr 3)).act = 0
    ∧ recPlay (recCtl squad1 (slotOf squad1 1)) = false ∧ recRec (recCtl squad1 (slotOf squad1 1)) = false :=
  ⟨all_of (p := fun n : BitVec 24 => readyB squad1 (opCsr n) { dv := dstVs (Claims.controlWidth n.toNat) (.v 4) }
      && issuesB squad1 (lx squad1 (.csrr (opCsr n)) (opCsr n)) (dstVs (Claims.controlWidth n.toNat) (.v 4)).length)
      (by decide +kernel) fun _ h => goes_of h,
   all_of (p := fun n : BitVec 24 => readyB squad1 (opCsr n) { vs := srcVs (Claims.controlWidth n.toNat) (.v 1 false), gs := [] })
      (by decide +kernel) fun _ h => ready_of h,
   all_of (p := fun s => readyB s opBare {}) (by decide +kernel) fun _ h => ready_of h,
   goes_of (by decide +kernel), goes_of (by decide +kernel), by decide +kernel⟩

/-- Queue g2 (a number), entry v1; `.try` answers in p1. -/
def opQ (g : BitVec 7) (t : Bool) : LaneOp := { opBare with dst := .v 4, a := .g g, b := .v 1 false, md := if t then 3 else 0 }
def squadQ (n head tail : Nat) : State := withQueue (modSquad squad1 1 fun q => { q with g := [(2, 5), (4, 1024), (5, 1023)] }) n head tail

theorem witness_LaneQueueInstructions :
    let s := squadQ 5 0 0
    let d := drainAgent s (.squad 1)
    let t := squadQ 5 0 1
    let u := squadQ 0 0 0
    let e := drainAgent u (.squad 1)
    let n (o : LaneOp) : Nat := srcVal (sqd s) o 0 64 o.a 0
    (∀ y ∈ [false, true], Goes s .qpush (opQ 2 y) { vs := [1], gs := [2] } 0 ∧ (opQ 2 y).md.getLsbD 0 = y)
    ∧ (∀ y ∈ [false, true], Goes t .qpop (opQ 2 y) { vs := [1], gs := [2], dv := [4] } 1)
    ∧ Claims.ready s 1 (sqd s) (opQ 4 false) { vs := [1], gs := [4] }
    ∧ Claims.ready squad0 1 (sqd squad0) (opQ 2 false) { vs := [1], gs := [2], dv := [4] }
    ∧ Goes u .launch { opQ 2 false with b := .g 4 } { gs := [2, 4] } 0
    ∧ (∃ s1, Claims.released s 1 (sqd s) s1) ∧ (∃ s1, Claims.released u 1 (sqd u) s1)
    ∧ Claims.acquired t 1 (sqd t)
    ∧ (n (opQ 2 false), n (opQ 4 false), n (opQ 5 false)) = (5, 1024, 1023)
    ∧ (∀ y ∈ [false, true], (qPush d (rqSquad d 1 (sqd s)) 5 (zeros 64) false y (.squad 1)).2 = .reserved 0)
    ∧ (∀ y ∈ [false, true], (qPop t (rqSquad t 1 (sqd t)) 5 y).2 = .popped (zeros 64))
    ∧ isLeader u (sqd u) = true ∧ isLeader u { sqd u with index := 1 } = false ∧ (gridOf u (teamOf u 1)).depth < 9
    ∧ (let deep := { u with grids := mmod u.grids 1 fun g => { g with depth := 9 } }
       (gridOf deep (teamOf deep 1)).depth = 9 ∧ sqd deep = sqd u ∧ curSquad deep = some (1, sqd deep))
    ∧ (qPush e (rqSquad e 1 (sqd u)) 0 (zeros 64) true false (.spine 1)).2 = .reserved 0 :=
  ⟨all_of (p := fun y => (readyB (squadQ 5 0 0) (opQ 2 y) { vs := [1], gs := [2] }
      && issuesB (squadQ 5 0 0) (lx (squadQ 5 0 0) (.qpush (opQ 2 y)) (opQ 2 y)) 0) && (opQ 2 y).md.getLsbD 0 == y)
      (by decide +kernel) fun _ h => by rw [Bool.and_eq_true, beq_iff_eq] at h; exact ⟨goes_of h.1, h.2⟩,
   all_of (p := fun y => readyB (squadQ 5 0 1) (opQ 2 y) { vs := [1], gs := [2], dv := [4] }
      && issuesB (squadQ 5 0 1) (lx (squadQ 5 0 1) (.qpop (opQ 2 y)) (opQ 2 y)) 1) (by decide +kernel) fun _ h => goes_of h,
   ready_of (by decide +kernel), ready_of (by decide +kernel), goes_of (by decide +kernel),
   released_of (by decide +kernel), released_of (by decide +kernel), show acquiring (squadQ 5 0 1) 1 (sqd (squadQ 5 0 1)) (rqSquad (squadQ 5 0 1) 1 (sqd (squadQ 5 0 1))) = false by decide +kernel,
   by decide +kernel⟩

/-- `LaneRejoinExitYield`: the last threads exit with a trap due, with an error unseen, with an access waiting. -/
def squadLast (f : Squad → Squad) : State := modSquad squadHalf 1 f

theorem witness_LaneRejoinExitYield_due :
    let t := squadLast fun q => { q with traps := [{ code := 4, tlm := 1, tpc := 0 }] }
    let u := squadLast fun q => { q with unseen := [⟨3, none, { code := 8, tlm := 1, tpc := 0 }⟩] }
    let v := squadLast fun q => { q with log := [{ id := 4, instr := .fence opM, tpc := 0, em := 1, parked := [], pop := 0 }] }
    (∀ s ∈ [t, u, v], Claims.ready s 1 (sqd s) opBare {})
    ∧ [t, u, v].all (fun s => !inHandler (sqd s) && activeLanes (sqd s) opBare == (sqd s).pm && (sqd s).pm != 0) = true
    ∧ (sqd t).log = [] ∧ (sqd t).traps ≠ [] ∧ (sqd u).log = [] ∧ (sqd u).unseen ≠ [] ∧ (sqd v).log ≠ [] :=
  ⟨all_of (p := fun s => readyB s opBare {}) (by decide +kernel) fun _ h => ready_of h, by decide +kernel⟩

/-- `LaneSystemInstructions`: a context that records, or replays a log with one entry, without one, or whose page is held. -/
theorem witness_LaneSystemInstructions_recording :
    let key := Claims.resultKey 2 0 0 0 0 0
    let rec_ := recording squad1 1 0 key
    let play := recording squad1 2 1 key
    let s0 := slotOf squad1 1
    (∀ s ∈ [rec_, play, pageHeld play], Goes s .rdclk (opCsr 0) { dv := dstVs 64 (.v 4) } 2
      ∧ Goes s .rand (opCsr 0) { dv := dstVs LType.n64.opW (.v 4) } 2)
    ∧ (recCtl rec_ s0).testBit 0 = true ∧ (recCtl rec_ s0).testBit 1 = false ∧ (recCtl play s0).testBit 1 = true
    ∧ recCtl (pageHeld play) s0 = recCtl play s0
    ∧ (∃ s' vals, Claims.replayed s0 (fun l => Claims.resultKey 2 0 0 l 0 0) (fun _ => 7) [0] play s' vals)
    ∧ (∃ s' vals, Claims.replayed s0 (fun l => Claims.resultKey 3 0 0 l 0 0) (fun _ => 7) [0] play s' vals)
    ∧ logFind play s0 (fun e => e.take 24 = key) ≠ .held ∧ logFind (pageHeld play) s0 (fun e => e.take 24 = key) = .held :=
  ⟨all_of (p := fun s => (readyB s (opCsr 0) { dv := dstVs 64 (.v 4) } && issuesB s (lx s (.rdclk (opCsr 0)) (opCsr 0)) 2)
      && (readyB s (opCsr 0) { dv := dstVs LType.n64.opW (.v 4) } && issuesB s (lx s (.rand (opCsr 0)) (opCsr 0)) 2))
      (by decide +kernel) fun _ h => by
        have h := (Bool.and_eq_true _ _).mp h; exact ⟨goes_of h.1, goes_of h.2⟩,
   by decide +kernel, by decide +kernel, by decide +kernel, by decide +kernel,
   ⟨_, _, .inl ⟨0, Claims.resultKey 2 0 0 0 0 0 ++ [9] ++ zeros 39, [], by decide +kernel, ⟨rfl, rfl⟩, rfl⟩⟩,
   ⟨_, _, .inr ⟨by decide +kernel, [], ⟨rfl, rfl⟩, rfl⟩⟩, by decide +kernel, by decide +kernel⟩

/-- A queue that is full, of each policy; one that only the host may use; an empty one. -/
def squadQFull (policy : Byte) : State :=
  let s := squadQ 5 0 64
  { s with mem := memWriteN s.mem (bootPage + 0x8000 + 64 * 5 + 17) [policy] }
def squadQHost : State :=
  let s := squadQ 5 0 1
  { s with mem := memWriteN s.mem (bootPage + 0x8000 + 64 * 5 + 18) [1, 1] }

theorem witness_LaneQueueInstructions_answers :
    let push (s : State) (y : Bool) : QAns := (qPush (drainAgent s (.squad 1)) (rqSquad s 1 (sqd s)) 5 (zeros 64) false y (.squad 1)).2
    let pop (s : State) (y : Bool) : QAns := (qPop s (rqSquad s 1 (sqd s)) 5 y).2
    (∀ s ∈ [squadQFull 0, squadQFull 2, squadQHost, squadQ 5 0 0],
      Goes s .qpush (opQ 2 false) { vs := [1], gs := [2] } 0 ∧ Goes s .qpop (opQ 2 false) { vs := [1], gs := [2], dv := [4] } 1)
    ∧ (∃ s1, Claims.released (squadQFull 0) 1 (sqd (squadQFull 0)) s1)
    ∧ push (squadQFull 0) false = .wait ∧ push (squadQFull 0) true = .none'
    ∧ push (squadQFull 2) false = .dropped ∧ push squadQHost false = .trap tPriv 0
    ∧ pop (squadQ 5 0 0) false = .wait ∧ pop (squadQ 5 0 0) true = .none' ∧ pop squadQHost false = .trap tPriv 0 :=
  ⟨all_of (p := fun s => (readyB s (opQ 2 false) { vs := [1], gs := [2] } && issuesB s (lx s (.qpush (opQ 2 false)) (opQ 2 false)) 0)
      && (readyB s (opQ 2 false) { vs := [1], gs := [2], dv := [4] } && issuesB s (lx s (.qpop (opQ 2 false)) (opQ 2 false)) 1))
      (by decide +kernel) fun _ h => by
        have h := (Bool.and_eq_true _ _).mp h; exact ⟨goes_of h.1, goes_of h.2⟩,
   released_of (by decide +kernel), by decide +kernel⟩

/-- `launch` at depth 9: queue 0's block faults, or is sound. -/
theorem witness_LaneQueueInstructions_deep :
    let deep (tab : Nat) : State :=
      let s := squadQ 0 0 0
      { s with mem := memWriteN s.mem (ccbAt s 0 + 0x20) (bytesOf 8 tab), grids := mmod s.grids 1 fun g => { g with depth := 9 } }
    depthFault (deep (2 ^ 57)) (rqSquad (deep (2 ^ 57)) 1 (sqd (deep (2 ^ 57)))) = some (.fault 17 0 0 0 (2 ^ 57) 1)
    ∧ depthFault (deep 0x8000) (rqSquad (deep 0x8000) 1 (sqd (deep 0x8000))) = none
    ∧ isLeader (deep 0x8000) (sqd (deep 0x8000)) = true := by decide +kernel

/-! ### Matrix, tensor, copy and handler instructions -/

/-- Four tiles, two carries and a segment of 16 KiB; g9 and g10 address it, g11 does not, g12 is misaligned. -/
def squadMat (f : Squad → Squad := id) : State :=
  modSquad { squad1 with grids := mmod squad1.grids 1 fun g => { g with lr := { g.lr with tiles := 4, carries := 2, lskib := 16 } } } 1
    fun q => f { q with g := [(9, 0), (10, 256), (11, 0x80000), (12, 257), (13, 0x10000400), (14, 0x400)] }

/-- Every tile and carry has been lost; the squad has lost threads. -/
def squadLost : State := squadMat fun q => { q with
  tiles := (List.range 4).map fun n => (n, { lost := true }), carries := (List.range 2).map fun n => (n, { lost := true }) }
def squadPart : State := squadMat fun q => { q with pm := 0xFFFF, em := 0xFFFF }

theorem clear_of {s : State} {x : Lx} (h : decide (x.o.unguarded = true ∧ allocated s x.q x.i = true ∧ kindsOk x.q x.i = true
    ∧ x.q.em = 0xFFFFFFFF ∧ x.q.pm = 0xFFFFFFFF ∧ isLost x.q x.i = false) = true) : Claims.clear s x := by
  simp only [decide_eq_true_eq] at h; exact h

theorem posts_of {s : State} {x : Lx} {n : Nat}
    (h : (decide ((engineOps s (clusterOf x.q.core)).length < 64) && (!acquiring s x.id x.q (rqSquad s x.id x.q) && issuesB s x n)) = true) :
    Claims.posts s x n := by
  rw [Bool.and_eq_true, decide_eq_true_eq, Bool.and_eq_true, Bool.not_eq_true'] at h; exact ⟨h.1, h.2.1, issues_of h.2.2⟩

/-- Tile 1, tile 2 beside it, lane registers from v8 on. -/
def opT : LaneOp := { opBare with dst := .sp 1, ty := .f32, a := .v 8 false, b := .g 9 }

theorem witness_MatrixInstructions_table : ∀ r ∈ Claims.matTable,
    let x (s : State) := lx s (r.make opT) opT
    let ready (s : State) := Claims.ready s 1 (sqd s) opT (r.uses opT)
    (ready squadMat ∧ Claims.clear squadMat (x squadMat) ∧ Claims.posts squadMat (x squadMat) r.regs)
    ∧ (ready squad1 ∧ allocated squad1 (sqd squad1) (r.make opT) = false)
    ∧ (ready squadPart ∧ (sqd squadPart).pm ≠ 0xFFFFFFFF ∧ allocated squadPart (sqd squadPart) (r.make opT) = true
        ∧ kindsOk (sqd squadPart) (r.make opT) = true)
    ∧ (ready squadLost ∧ isLost (sqd squadLost) (r.make opT) = true ∧ (sqd squadLost).em = 0xFFFFFFFF
        ∧ (sqd squadLost).pm = 0xFFFFFFFF) :=
  all_of (p := fun r =>
    let x (s : State) := lx s (r.make opT) opT
    let ready (s : State) := readyB s opT (r.uses opT)
    ((ready squadMat && (decide ((x squadMat).o.unguarded = true ∧ allocated squadMat (x squadMat).q (x squadMat).i = true
        ∧ kindsOk (x squadMat).q (x squadMat).i = true ∧ (x squadMat).q.em = 0xFFFFFFFF ∧ (x squadMat).q.pm = 0xFFFFFFFF
        ∧ isLost (x squadMat).q (x squadMat).i = false)
      && (decide ((engineOps squadMat (clusterOf (x squadMat).q.core)).length < 64)
        && (!acquiring squadMat (x squadMat).id (x squadMat).q (rqSquad squadMat (x squadMat).id (x squadMat).q)
          && issuesB squadMat (x squadMat) r.regs))))
    && ((ready squad1 && decide (allocated squad1 (sqd squad1) (r.make opT) = false))
    && ((ready squadPart && decide ((sqd squadPart).pm ≠ 0xFFFFFFFF ∧ allocated squadPart (sqd squadPart) (r.make opT) = true
        ∧ kindsOk (sqd squadPart) (r.make opT) = true))
    && (ready squadLost && decide (isLost (sqd squadLost) (r.make opT) = true ∧ (sqd squadLost).em = 0xFFFFFFFF
        ∧ (sqd squadLost).pm = 0xFFFFFFFF))))))
    (by decide +kernel) fun r h => by
      simp only [Bool.and_eq_true] at h
      exact ⟨⟨ready_of h.1.1, clear_of h.1.2.1, posts_of (by simpa using h.1.2.2)⟩, ⟨ready_of h.2.1.1, of_decide_eq_true h.2.1.2⟩,
        ⟨ready_of h.2.2.1.1, of_decide_eq_true h.2.2.1.2⟩, ready_of h.2.2.2.1, of_decide_eq_true h.2.2.2.2⟩

/-- A product from v8 on with B at g10, or out of the segment at g11; without A and without a latch; identifiers in g10,
or with bits set outside them in g14; whole tiles at g9 in memory and in local store. -/
def opP8 : LaneOp := { opT with ty := .e4m3x4, b := .g 10 }
def opTile (g : BitVec 7) (ls : Bool) : LaneOp := { opT with a := .g g, md := if ls then 1 else 0 }

theorem witness_MatrixInstructions :
    let s := squadMat
    let q := sqd s
    let n := LType.e4m3x4.aRegs
    let vs := Claims.aRegs opP8 n ++ srcVs 32 opP8.c
    let ids (g : BitVec 7) : LaneOp := { opT with ty := .e4m3x4, a := .g g, b := .g 9, c := .g 9 }
    let x (i : LaneOp → Instr) (o : LaneOp) : Lx := lx s (i o) o
    let latch (o : LaneOp) := latchUse q o (captureRegs q (srcIdx o.a) n) (lanesFrom fun l => BitVec.ofNat 32 (srcVal q o 0 32 o.c l))
    let place (o : LaneOp) := matLs s q (matAddr q o o.b % 2 ^ 32) (bBytes o.ty + 32 * scaleBlocks o.ty)
    (∃ s1, Claims.released s 1 q s1) ∧
    (Claims.ready s 1 q opP8 { vs := vs, gs := [10] } ∧ Claims.clear s (x .mma opP8) ∧ Claims.posts s (x .mma opP8) 0)
    ∧ Claims.ready s 1 q { opP8 with b := .g 11 } { vs := vs, gs := [11] }
    ∧ (Claims.ready s 1 q (ids 9) { gs := [9, 9, 9] } ∧ Claims.clear s (x .mml (ids 9)) ∧ Claims.posts s (x .mml (ids 9)) 0)
    ∧ Claims.ready s 1 q (ids 14) { gs := [14, 9, 9] }
    ∧ (∀ g ∈ [(9 : BitVec 7), 11, 12], Claims.ready s 1 q (opTile g false) { gs := [g.toNat] })
    ∧ (∀ ls ∈ [true, false], Claims.clear s (x .mmld (opTile 9 ls)) ∧ Claims.posts s (x .mmld (opTile 9 ls)) 0)
    ∧ (∀ ls ∈ [true, false], Claims.clear s (x .mmst (opTile 9 ls)) ∧ Claims.posts s (x .mmst (opTile 9 ls)) 0)
    ∧ latch opP8 ≠ none ∧ place opP8 ≠ none ∧ matAddr q opP8 (.g 10) % 2 ^ 32 % 128 = 0 ∧ place { opP8 with b := .g 11 } = none
    ∧ latch { opP8 with a := .v 255 false } = none ∧ q.log = []
    ∧ bitsOf (srcVal q (ids 9) 0 64 (.g 9) 0) 10 6 = 0 ∧ bitsOf (srcVal q (ids 14) 0 64 (.g 14) 0) 10 6 ≠ 0
    ∧ matLs s q (matAddr q (opTile 9 true) (.g 9)) 4096 ≠ none ∧ matLs s q (matAddr q (opTile 11 true) (.g 11)) 4096 = none
    ∧ matAddr q (opTile 9 false) (.g 9) % 128 = 0 ∧ matAddr q (opTile 12 false) (.g 12) % 128 ≠ 0 :=
  ⟨released_of (by decide +kernel),
   ⟨ready_of (by decide +kernel), clear_of (by decide +kernel), posts_of (by decide +kernel)⟩, ready_of (by decide +kernel),
   ⟨ready_of (by decide +kernel), clear_of (by decide +kernel), posts_of (by decide +kernel)⟩, ready_of (by decide +kernel),
   all_of (p := fun g : BitVec 7 => readyB squadMat (opTile g false) { gs := [g.toNat] }) (by decide +kernel) fun _ h => ready_of h,
   by simp only [List.forall_mem_cons]
      exact ⟨⟨clear_of (by decide +kernel), posts_of (by decide +kernel)⟩, ⟨clear_of (by decide +kernel), posts_of (by decide +kernel)⟩,
        by simp⟩,
   by simp only [List.forall_mem_cons]
      exact ⟨⟨clear_of (by decide +kernel), posts_of (by decide +kernel)⟩, ⟨clear_of (by decide +kernel), posts_of (by decide +kernel)⟩,
        by simp⟩,
   by decide +kernel⟩

/-- The four products and tile moves on a squad of 16 threads, on lost tiles, and with an address that is misaligned (g12). -/
theorem witness_MatrixInstructions_refused :
    let ids : LaneOp := { opT with ty := .e4m3x4, a := .g 9, b := .g 9, c := .g 9 }
    let table : List (Instr × LaneOp × Uses) :=
      [(.mma opP8, opP8, { vs := Claims.aRegs opP8 LType.e4m3x4.aRegs ++ srcVs 32 opP8.c, gs := [10] }),
       (.mml ids, ids, { gs := [9, 9, 9] }), (.mmld (opTile 9 false), opTile 9 false, { gs := [9] }),
       (.mmst (opTile 9 false), opTile 9 false, { gs := [9] })]
    let bad : List (Instr × LaneOp) := [(.mma { opP8 with b := .g 12 }, { opP8 with b := .g 12 }),
      (.mmld (opTile 12 false), opTile 12 false), (.mmst (opTile 12 false), opTile 12 false)]
    (∀ r ∈ table, (Claims.ready squadPart 1 (sqd squadPart) r.2.1 r.2.2 ∧ Claims.ready squadLost 1 (sqd squadLost) r.2.1 r.2.2)
      ∧ allocated squadPart (sqd squadPart) r.1 = true ∧ kindsOk (sqd squadPart) r.1 = true ∧ (sqd squadPart).pm ≠ 0xFFFFFFFF
      ∧ isLost (sqd squadLost) r.1 = true)
    ∧ (∀ r ∈ bad, allocated squadMat (sqd squadMat) r.1 = true ∧ isLost (sqd squadMat) r.1 = false)
    ∧ Claims.ready squadMat 1 (sqd squadMat) { opP8 with b := .g 12 } { vs := Claims.aRegs opP8 LType.e4m3x4.aRegs ++ srcVs 32 opP8.c, gs := [12] }
    ∧ matAddr (sqd squadMat) { opP8 with b := .g 12 } (.g 12) % 2 ^ 32 % 128 ≠ 0
    ∧ (matLs squadMat (sqd squadMat) 257 (bBytes .e4m3x4 + 32 * scaleBlocks .e4m3x4)).isSome = true :=
  ⟨all_of (p := fun r : Instr × LaneOp × Uses => (readyB squadPart r.2.1 r.2.2 && readyB squadLost r.2.1 r.2.2)
      && decide (allocated squadPart (sqd squadPart) r.1 = true ∧ kindsOk (sqd squadPart) r.1 = true ∧ (sqd squadPart).pm ≠ 0xFFFFFFFF
        ∧ isLost (sqd squadLost) r.1 = true)) (by decide +kernel) fun _ h => by
        have h := (Bool.and_eq_true _ _).mp h
        have k := (Bool.and_eq_true _ _).mp h.1
        exact ⟨⟨ready_of k.1, ready_of k.2⟩, of_decide_eq_true h.2⟩,
   by decide +kernel, ready_of (by decide +kernel), by decide +kernel, by decide +kernel⟩

/-- The identifier table of slot 0 (control block, 0x60 on) lies in the page; handle 7 of cluster 0 is the context's. -/
def squadTen (own : Bool) : State :=
  modCluster squadMat 0 fun c => { c with pfx := mset c.pfx 7 ⟨if own then 0 else 1, []⟩ }
def squadTen0 : State := modSquad squadMat 1 fun q => { q with em := 0 }

/-- Identifier g9 = 0; a handle in g9, g15 = 7 or g16 = 8; identifiers 1,023 and 1,024 in g17 and g18. -/
def opI (a : BitVec 7) (c : BitVec 7 := 9) : LaneOp := { opBare with dst := .v 4, a := .g a, b := .v 1 false, c := .g c }
def squadIds (own : Bool) : State :=
  modSquad (squadTen own) 1 fun q => { q with g := q.g ++ [(15, 7), (16, 8), (17, 1023), (18, 1024)] }

theorem witness_TensorInstructions :
    let s := squadIds true
    let q := sqd s
    let e := escape s 1
    let u (n : Nat) : Uses := { vs := [1], gs := [n] }
    let p (c : BitVec 7) : Uses := { vs := [1], gs := [9, c.toNat], dv := [4], dp := some 7 }
    let x := lx s (.tiset (opI 9)) (opI 9)
    let opX (c : BitVec 7) : LaneOp := { opI 9 c with a := .v 1 false, b := .g 9, md := 7 }
    (Claims.ready s 1 q (opI 9) { gs := [9], dv := [4] } ∧ Claims.posts s (lx s (.tstat (opI 9)) (opI 9)) 1)
    ∧ Claims.ready squad1 1 (sqd squad1) (opI 9) { gs := [9], dv := [4] }
    ∧ Claims.ready squadTen0 1 (sqd squadTen0) (opI 9) { gs := [9], dv := [4] }
    ∧ Claims.ready squadTen0 1 (sqd squadTen0) (opI 9) (usesIfAny squadTen0 (opI 9) (u 9))
    ∧ (Claims.ready s 1 q (opI 9) (usesIfAny s (opI 9) (u 9)) ∧ Claims.issues e (lx s (.tiset (opI 9)) (opI 9)) 0)
    ∧ Claims.ready s 1 q (opI 18) (usesIfAny s (opI 18) (u 18)) ∧ Goes s .tiget (opI 9) { gs := [9], dv := [4] } 1
    ∧ (∃ s' ok, Claims.accessed e x (rqSquad e 1 q) (lowLane x.act).toList
        (fun _ => BitVec.ofNat 64 (tidVa e (rqSquad e 1 q).slot 0)) (fun _ => List.replicate 16 0) s' ok)
    ∧ (∃ s' ok, Claims.accessed s (lx s (.tiget (opI 9)) (opI 9)) (rqSquad s 1 q) (lowLane x.act).toList
        (fun _ => BitVec.ofNat 64 (tidVa s (rqSquad s 1 q).slot 0)) (fun _ => []) s' ok)
    ∧ (∀ c ∈ [(9 : BitVec 7), 15, 16], Goes s .pfxh (opX c) (usesIfAny s (opX c) (p c)) 1)
    ∧ Goes s .pfxhClr (opI 9 15) { gs := [15] } 0
    ∧ allocated s q (.tstat (opI 9)) = true ∧ allocated squad1 (sqd squad1) (.tstat (opI 9)) = false ∧ x.act ≠ 0
    ∧ (lx squadTen0 (.tiset (opI 9)) (opI 9)).act = 0
    ∧ ([9, 17, 18].map fun n => Claims.slotA (lx s (.tiset (opI n)) (opI n))) = [0, 1023, 1024]
    ∧ memGate e 1 q (.tiset (opI 9)) (rqSquad e 1 q) [(BitVec.ofNat 64 (tidVa e 0 0)).toNat] = false
    ∧ ([9, 15, 16].map fun c => srcUni (lx s (.pfxh (opX c)) (opX c)) 32 (opX c).c) = [0, 7, 8]
    ∧ (mget (getCluster s 0).pfx 7 = some ⟨0, []⟩) ∧ mget (getCluster (squadIds false) 0).pfx 7 = some ⟨1, []⟩
    ∧ slotOf s 1 = 0 ∧ mget (getCluster s 0).pfx 0 = none :=
  ⟨⟨ready_of (by decide +kernel), posts_of (by decide +kernel)⟩, ready_of (by decide +kernel), ready_of (by decide +kernel),
   ready_of (by decide +kernel), ⟨ready_of (by decide +kernel), issues_of (by decide +kernel)⟩, ready_of (by decide +kernel),
   goes_of (by decide +kernel), accessed_of (by decide +kernel), accessed_of (by decide +kernel),
   all_of (p := fun c : BitVec 7 =>
      let o : LaneOp := { opI 9 c with a := .v 1 false, b := .g 9, md := 7 }
      readyB (squadIds true) o (usesIfAny (squadIds true) o { vs := [1], gs := [9, c.toNat], dv := [4], dp := some 7 })
      && issuesB (squadIds true) (lx (squadIds true) (.pfxh o) o) 1) (by decide +kernel) fun _ h => goes_of h,
   goes_of (by decide +kernel), by decide +kernel⟩

/-- A copy of g10 = 256 bytes from g9 to g14; of none and of 2^32; to a place outside the segment. -/
def opCpy (len : BitVec 7 := 10) (b : BitVec 7 := 14) (d : BitVec 6 := 0) : LaneOp :=
  { opBare with a := .g 9, b := .g b, c := .g len, md := d }

/-- No flag is raised and the team may migrate, from core 0, on which and on core 256 it may be placed; the home of 2 MiB is
die 1, or a host. -/
def squadMig (home : Word) (cores : List Nat := [0, 256]) : State :=
  let s := squadWith fun q => { q with g := [(9, 0), (10, 0x200000)] }
  { s with mem := memWriteN s.mem (bootHm + 0x3004) (bytesOf 4 home.toNat), psets := [(0, { cores := cores })], grids := mmod s.grids 1 fun g => { g with lr := { g.lr with mig := true } } }

/-- The same at 1 GiB, which no home map covers. -/
def squadLone : State := modSquad (squadMig 1) 1 fun q => { q with g := [(9, 0), (10, 0x40000000)] }

theorem witness_LaneCopiesReductionsAndMigration :
    let s := modSquad squadMat 1 fun q => { q with g := q.g ++ [(15, 0x100000000), (16, 0xFFFFFFFF), (17, 1)] }
    let q := sqd s
    let a9 : LaneOp := { opBare with dst := .sp 1, a := .g 9 }
    let rq := rqSquad s 1 q
    let g (o : LaneOp) : List Nat := srcGs o.a ++ srcGs o.b ++ srcGs o.c
    let m := squadMig 1
    let t : LaneOp := { a9 with a := .g 10 }
    let home (s : State) (o : LaneOp) := peekHome s (rqSquad s 1 (sqd s)) (srcVal (sqd s) o 0 64 o.a 0)
    (∀ r ∈ [(Instr.cpy, opCpy), (.cpy, opCpy 10 14 1), (.cpy, opCpy 10 14 2), (.cpys, opCpy), (.cpys, opCpy 16), (.cpys, opCpy 17)],
      Goes s r.1 r.2 { gs := g r.2 } 0)
    ∧ (∀ o ∈ [opCpy 9, opCpy 15, opCpy 10 11], Claims.ready s 1 q o { gs := g o })
    ∧ Claims.ready squad0 1 (sqd squad0) opCpy { gs := g opCpy }
    ∧ (∃ s1, Claims.released s 1 q s1)
    ∧ Goes s .cred a9 { gs := [9] } 0 ∧ Claims.ready s 1 q { a9 with a := .g 12 } { gs := [12] }
    ∧ (∀ s ∈ [m, squadMig 8, squadMig 1 [0], squadLone, squad1], Goes s .tmig t { gs := [10] } 0)
    ∧ Goes m .tmig a9 { gs := [9] } 0
    ∧ ([9, 10, 15, 16, 17].map fun n => srcVal q (opCpy n) 0 64 (.g n) 0) = [0, 256, 2 ^ 32, 2 ^ 32 - 1, 1]
    ∧ (match copyPlace s q true 0 256 with | some p => lsOverlap p p 256 | none => false) = true
    ∧ copyPlace s q true 0x400 256 ≠ none ∧ copyPlace s q true 0x80000 256 = none ∧ queuedCopies s 0 < 128 ∧ q.log = []
    ∧ (srcVal q a9 0 64 (.g 12) 0) % 64 ≠ 0 ∧ memGate s 1 q (.cred a9) rq [0] = false
    ∧ (loadRange (escape (drainAgent s (.squad 1)) 1) rq accLoad 0 64).2.1 = .done
    ∧ home m t = some 1 ∧ home (squadMig 8) t = some 8 ∧ home squadLone t = none ∧ home squad1 t = some 0 ∧ home m a9 = some 0
    ∧ isLeader m (sqd m) = true ∧ mayMigrate m 1 = true ∧ mayMigrate squad1 1 = false
    ∧ migrateGroup m 1 1 ≠ none ∧ migrateGroup (squadMig 1 [0]) 1 1 = none :=
  ⟨all_of (p := fun r : (LaneOp → Instr) × LaneOp =>
      let s := modSquad squadMat 1 fun q => { q with g := q.g ++ [(15, 0x100000000), (16, 0xFFFFFFFF), (17, 1)] }
      readyB s r.2 { gs := srcGs r.2.a ++ srcGs r.2.b ++ srcGs r.2.c } && issuesB s (lx s (r.1 r.2) r.2) 0)
      (by decide +kernel) fun _ h => goes_of h,
   all_of (p := fun o : LaneOp =>
      let s := modSquad squadMat 1 fun q => { q with g := q.g ++ [(15, 0x100000000), (16, 0xFFFFFFFF), (17, 1)] }
      readyB s o { gs := srcGs o.a ++ srcGs o.b ++ srcGs o.c }) (by decide +kernel) fun _ h => ready_of h,
   ready_of (by decide +kernel), released_of (by decide +kernel), goes_of (by decide +kernel), ready_of (by decide +kernel),
   all_of (p := fun s : State => readyB s { opBare with dst := .sp 1, a := .g 10 } { gs := [10] }
      && issuesB s (lx s (.tmig { opBare with dst := .sp 1, a := .g 10 }) { opBare with dst := .sp 1, a := .g 10 }) 0)
      (by decide +kernel) fun _ h => goes_of h,
   goes_of (by decide +kernel), by decide +kernel⟩

/-- A squad in its handler: of a precise trap within a volley, of one at a header, of a deferred trap. -/
def squadH (cause : Word) (inV : Bool) : State :=
  modSquad squad1 1 fun q => { q with
    tcause := cause, tpc := 24, saved := some { hdr := q.hdr, hpos := 0, inVolley := inV, granted := none, arrived := false } }

theorem witness_HandlerEnds :
    (∀ s ∈ [squad1, squadH 0x20E true, squadH 0x20E false, squadH 0x30A true], Claims.ready s 1 (sqd s) opBare {})
    ∧ inHandler (sqd squad1) = false ∧ inHandler (sqd (squadH 0x20E true)) = true ∧ inHandler (sqd (squadH 0x30A true)) = true
    ∧ bitOf (sqd (squadH 0x20E true)).tcause.toNat 8 = false ∧ bitOf (sqd (squadH 0x30A true)).tcause.toNat 8 = true
    ∧ atHeader (sqd (squadH 0x20E true)) = false ∧ atHeader (sqd (squadH 0x20E false)) = true
    ∧ retryFull (squadH 0x30A true) (sqd (squadH 0x30A true)) = false :=
  ⟨all_of (p := fun s => readyB s opBare {}) (by decide +kernel) fun _ h => ready_of h, by decide +kernel⟩

/-! ### Events -/

/-- The state that an instruction leaves. -/
def after (i : Instr) (s : State) : State := match exec i s with | .next t => t | _ => s
def withArg (s : State) (f : EvArg → EvArg) : State := { s with arg := f {} }

/-- A result under way, whose lanes are all there or not; naps that end at 5 ns; squads that wait to enter a handler. -/
def squadPop (ready : Bool) : State :=
  { squad1 with
    arg := { id := 2, agent := .squad 1 }
    pops := [(2, { squad := 1, tpc := 12, dst := .none, lanes := 0, vals := [], flag := some 3, ready := ready })] }
def squadNap (now : Dword) : State :=
  { modSquad squad1 1 fun q => { q with wait := .nap (some 5) } with timeNs := now, arg := { agent := .squad 1 } }
def threadNap (now : Dword) : State :=
  { modSpine thread1 1 fun q => { q with wait := .nap (some 5) } with timeNs := now, arg := { agent := .spine 1 } }

theorem witness_AgentEvents :
    let h := modSquad (squadNap 0) 1 fun q => { q with wait := .handler }
    (mget (squadPop true).pops 2).map (·.ready) = some true ∧ (mget (squadPop false).pops 2).map (·.ready) = some false
    ∧ ([4, 5].all fun n => decide (mget (squadNap n).squads 1 = some (sqd (squadNap n)) ∧ (sqd (squadNap n)).wait = .nap (some 5)
      ∧ mget (threadNap n).spines 1 = some (thr (threadNap n)) ∧ (thr (threadNap n)).wait = .nap (some 5))) = true
    ∧ mget h.squads 1 = some (sqd h) ∧ (sqd h).wait = .handler ∧ (teamOf h 1).state = .resident ∧ (teamOf h 1).stopping = false
    ∧ (sqd (squadNap 0)).wait ≠ .handler ∧ Agent.squad 1 ∈ ({ squadNap 0 with pfences := [.squad 1] } : State).pfences
    ∧ Agent.squad 1 ∉ (squadNap 0).pfences := by decide +kernel

/-- The squad does not hold its slot, within a volley or at a header; it waits at a barrier. -/
def squadSlot (inV : Bool) (w : Wait := .none) : State :=
  modSquad squad1 1 fun q => { q with held := none, inVolley := inV, pos := if inV then 12 else 0, wait := w }

/-- Lane 0 of a squad is being ejected, with a spawn area at 0x2000; it has been, and its group is due. -/
def squadOut : State :=
  let s := squadFlow 8 fun q => { q with p := setAt q.p 0 1 }
  let s := after (.bra opSplit) { s with grids := mmod s.grids 1 fun g => { g with lr := { g.lr with spawnbase := 0x2000 } } }
  { s with arg := { id := 1 } }
def squadDue : State := modTeam (after .threadEjection squadOut) 1 fun t => { t with groups := t.groups.map fun g => { g with due := true } }

/-- The former keeps the squad, whose record is one of a `rejoin`. -/
def squadKept : State :=
  let s := modTeam squadDue 1 fun t => { t with groups := t.groups.map fun g => { g with recs := g.recs.map fun r => { r with kind := 2 } } }
  let s := (writeRecords (rqDevice s 0 0) (spawnVa s 1) ((teamOf s 1).groups.flatMap (·.recs)) s).1
  { s with squads := [], away := [(1, { sqd squadDue with kept := true })] }

def recsOf (s : State) : List ThreadRec :=
  let q := sqd s
  match q.eject with
  | none => []
  | some e => ((originOrder q e.out).zip ((spawnRoom s q e.frees e.link e.out.length).getD [])).map fun p =>
      laneRecord q e.kind (mapRegs (e.frees.foldl mdel q.v) e.link) p.1.1 p.2
        (recordUnits (mapRegs (e.frees.foldl mdel q.v) e.link).length) p.1.2

theorem witness_SquadEvents :
    let win (s : State) := (slotWinner s 4096 (s.squads.filter fun x => (x.2.core == 0 && x.2.part == 0) && eligible s x.1 x.2)).map (·.1)
    let s := squadOut
    let q := sqd s
    let d := squadDue
    let g := (teamOf d 1).groups.headD default
    let rr := readRecords (rqDevice d 0 0) (spawnVa d 1) g.recs.zipIdx d
    let k := squadKept
    let gk := (teamOf k 1).groups.headD default
    let kk := readRecords (rqDevice k 0 0) (spawnVa k 1) gk.recs.zipIdx k
    let busy := modTeam s 1 fun t => { t with hsq := some 9 }
    (sqd squad1).held = some false ∧ (sqd (squadSlot true)).held = none ∧ (getDie squad1 0).agemax.toNat = 4096
    ∧ win (squadSlot true) = some 1 ∧ win (squadSlot false) = some 1 ∧ win (squadSlot true (.barrier false)) = none
    ∧ (sqd (squadSlot false)).inVolley = false ∧ mget s.squads s.arg.id = some q ∧ (q.eject.map (·.kind)) = some 0
    ∧ (teamOf s 1).state = .resident ∧ (teamOf s 1).stopping = false ∧ (teamOf s 1).hsq = none ∧ pendingLanes q = []
    ∧ waitingAccesses s 1 q = [] ∧ s.reqs = [] ∧ (q.eject.map fun e => growCheck s 1 q (linkRows e.link)) = some .ok
    ∧ (q.eject.bind fun e => spawnRoom s q e.frees e.link e.out.length).isSome = true ∧ (recsOf s).length = 1
    ∧ (writeRecords (rqDevice s 0 (slotOf s 1)) (spawnVa s 1) (recsOf s) s).2 = none
    ∧ mget busy.squads 1 = some q ∧ (teamOf busy 1).hsq.isSome = true ∧ (teamOf busy 1).hsq ≠ some q.index
    ∧ (teamOf d 1).state = .resident ∧ (teamOf d 1).stopping = false ∧ (teamOf d 1).hsq = none
    ∧ dueGroups d 1 0 = [g] ∧ keptSquad d 1 g.recs = none ∧ (lowestFree (usedSlots d 0 (bestPart (freeSlots d 0))) 8) = some 0
    ∧ rr.2.2 = none ∧ rr.2.1.length = 1 ∧ (formedIndex d 1).isSome = true
    ∧ ((formRegs (placeLanes rr.2.1)).map fun y => shapeRows y.2.val).sum ≤ freePool d 0 (bestPart (freeSlots d 0))
    ∧ dueGroups k 1 0 = [gk] ∧ (keptSquad k 1 gk.recs).map (fun x => (x.1, x.2.traps)) = some (1, [])
    ∧ (lowestFree (usedSlots k 0 (bestPart (freeSlots k 0))) 8).isSome = true ∧ kk.2.2 = none ∧ kk.2.1.length = 1
    ∧ (formedIndex k 1).isSome = true
    ∧ Nat.max ((formRegs (placeLanes kk.2.1)).map fun y => shapeRows y.2.val).sum (lrOf k 1).rows ≤ freePool k 0 (bestPart (freeSlots k 0)) := by
  decide +kernel

/-- An engine with a product, a loop, a scan or a clear; with four products on the arrays; with a grant; reset to come. -/
def engineOf (i : Instr) (f : MOp → MOp := id) (s : State := squadMat) : State :=
  let t := after i s
  { t with mops := t.mops.map f, arg := { id := 2 } }
def loopOp : LaneOp := { opT with ty := .e4m3x4, a := .g 9, b := .g 9, c := .g 9, imm := 2 }
def granted (m : MOp) : MOp := { m with granted := 1 }
def lostTiles (s : State) : State := modSquad s 1 fun q => { q with
  tiles := (List.range 4).map fun n => (n, { lost := true }), carries := (List.range 2).map fun n => (n, { lost := true }) }

theorem witness_EngineEvents :
    let mine (s : State) : Option Nat :=
      ((s.mops.find? fun m => m.id == s.arg.id && decide (0 < m.granted) && m.parked.isNone).bind fun m => squadAny s m.squad).map (·.team)
    let port (s : State) : Option Nat :=
      ((s.mops.find? fun m => m.id == s.arg.id && !runsSteps m.instr && mopReady s m).bind fun m => squadAny s m.squad).map (·.team)
    let e := engineOf (.mma opP8)
    let busy := { e with mops := (List.range 4).map fun a => { e.mops.headD newMop with array := some a } }
    let cands (s : State) := (engineOps s 0).filter fun m => runsSteps m.instr && m.array.isNone && mopReady s m
    (mine (engineOf (.mma opP8) granted) = some 1 ∧ mine (engineOf (.mml loopOp) granted) = some 1
      ∧ mine (engineOf (.scan { opT with a := .g 9 }) granted) = some 1)
    ∧ ((engineOf (.mml loopOp) granted).mops.all fun m => m.loop.isSome) = true
    ∧ isLost (sqd squadLost) (.mma opP8) = true ∧ mine (lostTiles (engineOf (.mma opP8) granted)) = some 1
    ∧ isLost (sqd (engineOf (.mma opP8))) (.mma opP8) = false ∧ port (engineOf (.mmz opT)) = some 1
    ∧ port (lostTiles (engineOf (.mmz opT))) = some 1 ∧ endsLost (sqd squadLost) (.mmz opT) = true
    ∧ endsLost (sqd squadMat) (.mmz opT) = false
    ∧ (bestMop e (cands e)).isSome = true ∧ cands squadMat = [] ∧ (∀ m ∈ engineOps e 0, m.array ≠ some 0)
    ∧ ((engineOps busy 0).map (·.array)) = [some 0, some 1, some 2, some 3]
    ∧ (getCluster squadMat 0).hung = false ∧ (getCluster (modCluster squadMat 0 fun c => { c with hung := true }) 0).hung = true := by
  decide +kernel

/-- The former's group waits while its area is not mapped. -/
theorem witness_SquadEvents_unread :
    let s := { squadDue with grids := mmod squadDue.grids 1 fun g => { g with lr := { g.lr with spawnbase := 0x40000000 } } }
    let rq := rqDevice s 0 (slotOf s 1)
    let rr := readRecords rq (spawnVa s 1) ((teamOf s 1).groups.headD default).recs.zipIdx s
    dueGroups s 1 0 = [(teamOf s 1).groups.headD default]
    ∧ (match rr.2.2 with | some (va, n, a) => (readFails s rq va n a).isSome | none => false) = true := by decide +kernel

/-- Operands of a step; a word of a step's operand A; rows of a scan. -/
theorem witness_EngineEvents_operands : ∀ t ∈ [LType.i8x4, .n8x4, .mxi8] ++ Claims.engineFloats.map (·.1),
    Claims.Operand.ofType t ⟨List.replicate 32 (List.replicate (stepK t) 1), List.replicate 32 (List.replicate (scaleBlocks t) 127)⟩
    ∧ (zeros (bBytes t + 32 * scaleBlocks t)).length = bBytes t + 32 * scaleBlocks t ∧ 0 < stepK t := by
  simp only [Claims.Operand.ofType]; decide +kernel

def setMem (s : State) (l : List (Nat × Nat × Nat)) : State :=
  { s with mem := l.foldl (fun m x => memWriteN m x.1 (bytesOf x.2.1 x.2.2)) s.mem }

/-- Tables of slot 0 for VA 0: the home map at PA 0x110000, with a home, and the page table at 0x114000, with a leaf. Caches
of translations are empty. -/
def withTables (s : State) (home leaf : Nat) : State :=
  let s := setMem s [(ccbAt s 0 + 0x10, 8, 0x110001), (0x110000, 8, 0x111001), (0x111000, 8, 0x112001), (0x112000, 8, 0x113001),
    (0x113000, 4, home), (ccbAt s 0 + 8, 8, 0x114001), (0x114000, 8, 0x115001), (0x115000, 8, 0x116001), (0x116000, 8, 0x117001),
    (0x117000, 8, 0x118001), (0x118000, 8, leaf)]
  setDie s 0 { getDie s 0 with hmc := [], tlb := [] }

/-- The identifier table of slot 0 at VA 0x9000 in the page; entry 0 names 8 values of `i32`; a well-formed descriptor of a
reduction whose record lies at 0xA000, one with a wrong operation. -/
def tidBytes (codec : Nat) : List Byte :=
  bytesOf 8 0xB000 ++ [LType.i32.code.setWidth 8, BitVec.ofNat 8 (1 + 8 * codec), 0, 0]
    ++ bytesOf 4 8 ++ bytesOf 4 1 ++ bytesOf 4 1 ++ bytesOf 4 1 ++ bytesOf 4 1 ++ zeros 20 ++ bytesOf 4 (if codec = 1 then 160 else 0)
    ++ zeros 8
def credDesc (op : Nat) : List Byte :=
  bytesOf 8 0xA000 ++ zeros 4 ++ [BitVec.ofNat 8 op, 0, 0, 0] ++ bytesOf 4 3 ++ zeros 4 ++ bytesOf 8 9 ++ zeros 32
def credState (op : Nat) : State :=
  let s := setMem thread1 [(ccbAt thread1 0 + 0x40, 8, 0x9000)]
  { s with
    mem := memWriteN s.mem (bootPage + 0x9000) (tidBytes 0)
    creds := [{ id := 2, team := 1, slot := 0, cluster := 0, desc := credDesc op }], arg := { id := 2, va := 0xA000 }, timeNs := 9 }

/-- A copy under an identifier, with its entry. -/
def copyState (codec : Nat) : State :=
  { thread1 with
    arg := { id := 2 }
    copies := [{ id := 2, cluster := 0, slot := 0, team := 1, squad := none, tpc := 0, em := 0, instr := .spineCpy 0 0,
                 src := .mem 0, dst := .mem 0x4000, len := 16, tid := some 0, ent := .bytes (tidBytes codec) }] }

theorem witness_CopyAndReductionEvents :
    let c (s : State) := s.copies.find? fun c => c.id == s.arg.id && copyRuns s c && c.ended.isNone && decide (c.done < c.len)
    let d := credState 0
    let r := rqCred d 0 0
    let e0 := entryRead d r 0
    let e1 := entryRead e0.1 r 0
    let open_ := { d with rgroups := [{ slot := 0, va := 0xA000, die := 0, desc := credDesc 0, destEnt := [], arrived := [] }] }
    ((c (copyState 0)).bind (·.ent.tid)).map (·.ecb) = some false ∧ ((c (copyState 1)).bind (·.ent.tid)).map (·.ecb) = some true
    ∧ (d.creds.find? fun c => c.id == d.arg.id && !credParked d c.id && !(d.rgroups.any fun g => g.arrived.any fun x => x.cred == c.id)).isSome
    ∧ credFields (credDesc 0) = true ∧ credFields (credDesc 3) = false
    ∧ e0.2.1 = .bytes (tidBytes 0) ∧ e1.2.1 = .bytes (tidBytes 0)
    ∧ (credIds (credDesc 0) (.bytes (tidBytes 0)) (.bytes (tidBytes 0))).isSome = true
    ∧ peekHome e1.1 r (cGroup (credDesc 0)) = some 0 ∧ (loadRange e1.1 r accLoad (cGroup (credDesc 0)) 64).2.1 = .done
    ∧ (openGroup open_ open_.arg.slot.toNat open_.arg.va).isSome = true := by decide +kernel

/-- An entry reserved at the tail of queue 5, or behind it; pushes of the device, the first of the queue and the second; a full
queue; a launch. -/
def resvState (at_ : Word) : State :=
  { threadQueue 5 0 0 with resvs := [{ id := 7, slot := 0, q := 5, at_ := at_, who := .none }], arg := { id := 7 } }
def pushState (id : Nat) (head tail : Nat) : State :=
  { threadQueue 5 head tail with
    arg := { id := id }
    dpush := [{ id := 7, slot := 0, q := 5, entry := zeros 64 }, { id := 8, slot := 0, q := 5, entry := zeros 64 }] }
def launchState : State :=
  { threadQueue 0 0 0 with
    arg := { id := 7 }
    dpush := [{ id := 7, slot := 0, q := 0, entry := zeros 64, launch := some ⟨.mgmt, 0, 0, 0, 1⟩ }] }

/-- The reservation of a `launch`; a push of the SVP in a freeze. -/
def resvLaunch : State :=
  { threadQueue 0 0 0 with resvs := [{ id := 7, slot := 0, q := 0, at_ := 0, who := .spine 1 }], arg := { id := 7 } }
def pushFrozen : State :=
  { pushState 7 0 0 with svpFrozen := true, dpush := [{ id := 7, slot := 0, q := 5, entry := zeros 64, thread := some 3 }] }

theorem witness_QueueEvents :
    let tail (s : State) (k : Nat := 5) : Option Nat :=
      match qOpen s 0 0 1 (qcbVa s 0 k) accStore with
      | (s1, .ok t) => some (qTail (qRead s1 t 1 (qcbVa s 0 k)).2)
      | _ => none
    let made (s : State) := (s.dpush.find? fun p => p.id == s.arg.id).map fun p =>
      (firstPush s p, (devicePushTry s p.slot p.q p.entry p.launch.isSome).map (·.2))
    (resvState 0).resvs.map (·.id) = [7] ∧ ctxAsid (resvState 0) 0 = 1 ∧ tail (resvState 0) = some 0 ∧ tail (resvState 1) = some 0
    ∧ tail resvLaunch 0 = some 0 ∧ resvLaunch.resvs.map (fun r => (r.q, r.who)) = [(0, .spine 1)] ∧ gridOfPush resvLaunch 7 = none
    ∧ pushFrozen.dpush.map (·.bySvp) = [true] ∧ pushFrozen.svpFrozen = true ∧ (pushState 7 0 0).dpush.map (·.bySvp) = [false, false]
    ∧ gridOfPush (resvState 0) 7 = none ∧ made (pushState 7 0 0) = some (true, some true) ∧ (made (pushState 8 0 0)).map (·.1) = some false
    ∧ made (pushState 7 0 64) = some (true, none) ∧ made launchState = some (true, some true)
    ∧ ((pushState 8 0 0).dpush.filter fun p => p.id == 8).length = 1 := by decide +kernel

/-- A grain of the page in the L1 of cluster 0, in a state; announcements of it that are due and not. -/
def grainState (st : CState) : State :=
  let t := (loadRange thread1 (rqSpine thread1 (thr thread1)) accLoad 64 4).1
  { t with grains := t.grains.map fun g => { g with st := st }, arg := { holder := .l1 0, asid := 1, va := 64, agent := .spine 1 } }
def annState (ts : List (Option Nat)) (now : Nat) : State :=
  { thread1 with
    clocks := [(0, now)], arg := { holder := .l1 0, asid := 1, va := 64 }
    announces := ts.map fun t => ⟨0, .l1 0, false, 1, 64, t⟩ }

theorem witness_CoherenceEvents :
    let home (s : State) (own : Bool) : Option Nat := match request s 0 0 1 64 (if own then accStore else accLoad) true with
      | (_, .ok t) => if t.normal && !leafMxa t.leaf && !aliasWaits s t 64 && !engineOwns s none 1 64 32 32 && !hostBlocks s own 1 64 32
          && leafGrain t.leaf == 32 then some (t.home 64) else none
      | _ => none
    let l1 (s : State) : Bool := (findGrain (request s 0 0 1 64 accLoad true).1 (.l1 0) 1 64).isSome
    let g (st : CState) := findGrain (grainState st) (.l1 0) 1 64
    let due (s : State) := s.announces.filter fun x => x.die == 0 && x.acceptedAt.any fun t => decide (t + 24 ≤ clk s 0)
    let used (s : State) := s.announces.countP fun x => x.die == 0 && x.acceptedAt == some (clk s 0)
    let keys (s : State) := (due s).map announceKey
    ([thread1, grainState .shared].all fun s => [false, true].all fun own => home s own == some 0) = true
    ∧ l1 thread1 = false ∧ l1 (grainState .shared) = true
    ∧ slotOfAsid thread1 1 = some 0 ∧ ([Holder.l1 0, l2Of 0].all fun h => holderDie h == some 0 && mayHold h 0) = true ∧ .l1 0 ≠ l2Of 0
    ∧ (g .modified).map (fun g => (g.st, g.cnt, g.holder)) = some (.modified, .plain, .l1 0)
    ∧ (g .shared).map (fun g => (g.st, g.cnt)) = some (.shared, .plain)
    ∧ findGrain thread1 (.l1 0) 1 64 = none
    ∧ used (annState (List.replicate 16 (some 9)) 9) = 16 ∧ used (annState (List.replicate 15 (some 9)) 9) = 15
    ∧ keys (annState [some 8, some 9, none] 33) = [2048, 2304] ∧ due (annState [some 9] 32) = [] := by decide +kernel

/-- A compressed page, an alias page; request 7 stands in a codec unit's queue. -/
def codecState (leaf : Nat) (ids : List Nat) : State :=
  let s := withTables thread1 0 leaf
  setDie { s with arg := { id := 7, asid := 1 } } 0 { getDie s 0 with codecQ := [ids, []] }

theorem witness_CodecEvents :
    let s (leaf : Nat) := codecState leaf [3, 7]
    let q (s : State) := (getDie s 0).codecQ.getD s.arg.unit.toNat []
    let r : Rq := { die := 0, cluster := 0, slot := 0, asid := 1, agent := .none, l1 := false }
    7 ∈ q (s bootLeaf) ∧ 7 ∉ q (codecState bootLeaf [3])
    ∧ ptWalk (s (bootLeaf + 0x4000)) 0 0 = .leaf 16 0x118000 (bootLeaf + 0x4000)
    ∧ leafV (bootLeaf + 0x4000) = true ∧ leafCmp (bootLeaf + 0x4000) = 1
    ∧ aliasPage (s (bootLeaf + 0x10040)) 1 0 = true ∧ aliasPage (s bootLeaf) 1 0 = false ∧ slotOfAsid (s bootLeaf) 1 = some 0
    ∧ (storeRange (codecServed (s (bootLeaf + 0x10040))) r 0 (zeros 32)).2 = .done := by decide +kernel

/-- A request of the spine at the page, in a state; the pending-fault table; the context's fault queue is 5. -/
def reqState (st : ReqSt) (pft : Nat := 0) (token : Word := 9) (hme : Nat := 0) (refused : Bool := false)
    (tail : Nat := 0) : State :=
  let s := setMem (threadQueue 5 0 tail) [(ccbAt thread1 0 + 0x28, 4, 5)]
  let s := setDie s 0 { getDie s 0 with pft := List.replicate pft ⟨token, 1, 0, 3, false, 0, [7]⟩ }
  { s with
    arg := { id := 7, token := 9, asid := 1 }
    reqs := [{ id := 7, who := .spine 1, kind := .read 8, asid := 1, va := 64, st := st, hme := hme, refused := refused }] }

theorem witness_TranslationEvents :
    let w := withTables thread1 0 bootLeaf
    let walk := ptWalkAt w (some 0) 0 1 0
    let hit := setDie w 0 { getDie w 0 with tlb := [⟨1, 0, 16, 0, BitVec.ofNat 64 bootLeaf⟩] }
    let room (up : Bool) : Option Bool :=
      let s := reqState .queued 0 9 9
      let s := { s with io := { s.io with pcieUp := up } }
      s.reqs.head?.map (linkRoom s)
    let push (kind : Nat) (tail : Nat) : Option Bool :=
      let s := reqState (.faulted kind) 0 9 0 false tail
      (s.reqs.head?.bind fun r => devicePushTry s.fresh r.slot (ccb s r.slot 0x28 4) (faultRecord r kind 2 1) false).map (·.2)
    let same (kind pft : Nat) : Option Bool :=
      let s := reqState (.faulted kind) pft
      s.reqs.head?.map fun r => ((getDie s 0).pft.find? (sameFault r kind)).isSome
    (walk.2 = .leaf 16 0x118000 bootLeaf ∧ (getDie w 0).tlb = [] ∧ slotOfAsid w 1 = some 0 ∧ slotOfAsid hit 1 = some 0
      ∧ ((getDie hit 0).tlb.map fun e => (e.asid, e.va.toNat / 2 ^ e.lg)) = [(1, 0)])
    ∧ (reqState .sent).reqs.map (fun r => (r.id, r.st)) = [(7, .sent)] ∧ (reqState .held).reqs.map (·.st) = [.held]
    ∧ room true = some true ∧ room false = some false
    ∧ ((reqState (.stale 7)).reqs.map (·.st) = [.stale 7] ∧ (reqState (.stale 8)).reqs.map (·.st) = [.stale 8])
    ∧ replayable 3 = true ∧ replayable 10 = true ∧ replayable 11 = false ∧ same 3 1 = some true ∧ same 10 1 = some false
    ∧ same 10 255 = some false ∧ (getDie (reqState (.faulted 10) 256) 0).pft.length = 256
    ∧ push 10 0 = some true ∧ push 11 0 = some true ∧ push 10 64 = none
    ∧ ((getDie (reqState .held 1) 0).pft.find? fun p => p.token == 9).isSome = true
    ∧ (getDie (reqState .held 0) 0).pft.find? (fun p => p.token == 9) = none := by decide +kernel

/-- A record of the device's own write and of a thread's; a frozen SVP. -/
theorem witness_TranslationEvents_who :
    let dev : State := { reqState (.faulted 11) with reqs := (reqState (.faulted 11)).reqs.map fun (r : Req) => { r with who := .device } }
    ((dev.reqs.map fun r => decide (r.who = .device)) = [true])
    ∧ ((reqState (.faulted 11)).reqs.map fun r => decide (r.who ≠ .device) && (match r.who with | .orphan _ => false | _ => true)) = [true]
    ∧ ({ reqState .held 1 with svpFrozen := true } : State).svpFrozen = true ∧ (reqState .held 1).svpFrozen = false := by decide +kernel

/-- A die with pages held and a command under way. -/
def homeState (held : Nat) (busy : Option Nat) (size : BitVec 2) : State :=
  let s := setDie thread1 0 { getDie thread1 0 with
    held := List.replicate held ⟨1, 0, 16, 0⟩, hcmdBusy := busy.map fun op => (op, 16, 1, 0) }
  { s with arg := { size := size, asid := 1 } }

theorem witness_HomeCommands :
    (getDie (homeState 0 none 0) 0).hcmdBusy = none ∧ (getDie (homeState 0 (some 1) 0) 0).hcmdBusy ≠ none
    ∧ (getDie (homeState 16 none 0) 0).held.length = 16 ∧ (getDie (homeState 15 none 0) 0).held.length < 16
    ∧ (homeState 0 none 3).arg.size = 3 ∧ (homeState 0 none 2).arg.size ≠ 3
    ∧ ([1, 3, 4, 2].map fun op => (getDie (homeState 0 (some op) 0) 0).hcmdBusy) = [some (1, 16, 1, 0), some (3, 16, 1, 0), some (4, 16, 1, 0), some (2, 16, 1, 0)]
    ∧ (recallRange (homeState 0 (some 1) 0) 1 0 16).grains = [] ∧ engineOwns (recallRange (homeState 0 (some 1) 0) 1 0 16) none 1 0 65536 512 = false
    ∧ (homeState 0 (some 3) 0).grains = [] ∧ (homeState 0 none 0).svpFrozen = false ∧ (homeState 16 none 3).arg.size = 3
    ∧ (getDie (homeState 16 none 3) 0).hcmdBusy = none ∧ ({ homeState 0 none 0 with svpFrozen := true } : State).svpFrozen = true := by
  decide +kernel

/-- A window of 64 KiB of host addresses from 0 on onto the page, over PCIe for function 0 and over KL; the context's tables. -/
def hostState (f : EvArg → EvArg := id) : State :=
  let s := withTables thread1 0 bootLeaf
  let w : Window := { off := 0, fn := 0, len := 0x10000, va := 0, asid := 1 }
  { s with io := { s.io with pcieWin := [(0, w)], klWin := [(0, w)] }, arg := f { len := 8, data := zeros 8, off := 64, asid := 1, va := 64 } }

/-- The host holds a grain of the page, or a line that it homes. -/
def hostHolds (st : CState) (pa : Option Nat) : State :=
  { hostState with grains := [{ holder := .host, asid := 1, va := 64, size := 32, st := st, data := zeros 32, dirty := 0, pa := pa }] }

theorem witness_HostEvents :
    let s := hostState
    let r := rqOutside 0 1
    let kl (s : State) (own : Bool) : Option Bool := match requestFor s r 64 (if own then accStore else accLoad) true with
      | (_, .ok t) =>
        if engineOwns s none 1 64 (leafGrain t.leaf) (leafGrain t.leaf) || aliasWaits s t 64 then none else some t.normal
      | _ => none
    let dev := withTables s 0 (bootLeaf + 0x20)
    (windowOf s.io.pcieWin (some 0) 64 = some (1, 64) ∧ windowOf s.io.klWin none 64 = some (1, 64) ∧ slotOfAsid s 1 = some 0)
    ∧ s.arg.off < bar2Size s 0 ∧ bar2Size s 1 ≤ (2 ^ 30 : Nat) ∧ s.arg.hostOp ≠ .other
    ∧ (windowOf s.io.pcieWin (some 0) 0xFFFF).isSome = true ∧ windowOf s.io.pcieWin (some 0) 0x10000 = none
    ∧ windowOf s.io.pcieWin (some 1) 64 = none ∧ windowOf s.io.klWin none 0x10000 = none
    ∧ (loadRange s r accLoad 64 8).2.1 = .done ∧ (storeRange s r 64 (zeros 8)).2 = .done ∧ kl s false = some true ∧ kl s true = some true
    ∧ kl dev false = some false
    ∧ ([(8, HostAtomOp.add), (16, .cas), (4, .swap)].all fun x => decide (64 % x.1 = 0)
        && decide ((atomPiece s r true 64 x.1 (hostAtom x.2 x.1 0 0)).2.1 = .done)) = true
    ∧ (findGrain (hostHolds .exclusive (some bootPage)) .host 1 64).map (fun g => (g.pa, g.owned)) = some (some bootPage, true)
    ∧ (hostState).arg.data ≠ [] ∧ ((hostHolds .shared none).grains.map (·.st)) = [.shared] := by decide +kernel

/-- A peer of the context: device 7, sender 9. -/
def peerState (f : EvArg → EvArg) : State :=
  setMem (hostState fun a => f { a with dev := 7, sender := 9 }) [(ccbAt thread1 0 + 0x80, 8, 0x900071000)]

theorem witness_LinkEvents :
    let sent (s : State) := s.reqs.find? fun r => r.id == s.arg.id && r.st == .remote
    let p := peerState id
    let w (home : Nat) := withTables (reqState .pri) home bootLeaf
    let looked (home : Nat) : Option Nat := match (homeLookup (w home) 0 0 1 64).2 with
      | .hme h => some h
      | _ => none
    ([8, 9, 10].map fun h => (sent (reqState .remote 0 9 h)).map (hmeHome ·.hme)) = [some 8, some 9, some 10]
    ∧ sent (reqState .sent) = none ∧ (sent (reqState .remote 0 9 8 true)).map (·.refused) = some true
    ∧ ((w 0).reqs.map fun r => decide (r.id = (w 0).arg.id ∧ r.st = .pri ∧ r.die = 0 ∧ r.slot = 0 ∧ r.asid = 1 ∧ r.va = 64)) = [true]
    ∧ [0, 8, 9, 11].map looked = [some 0, some 8, some 9, some 11] ∧ [0, 8, 9, 11].map hmeBad = [false, false, false, true]
    ∧ slotOfAsid p 1 = some 0 ∧ peerKnown p 0 7 9 = true ∧ peerKnown p 0 7 8 = false
    ∧ (loadRange p (rqOutside 0 1) accLoad 64 32).2.1 = .done ∧ (storeRange p (rqOutside 0 1) 64 (zeros 32)).2 = .done
    ∧ (atomPiece p (rqOutside 0 1) true 64 8 (peerAtom 0 .n64 8 1 0)).2.1 = .done ∧ 64 % 8 = 0 := by decide +kernel

/-- A grain with a dirty sector, or clean. -/
def softState (st : CState) (dirty : Nat) : State :=
  let s := grainState st
  { s with grains := s.grains.map fun g => { g with dirty := dirty } }

/-- A live context whose page table is empty, beside a port. -/
def cxlState (mode : BitVec 2) (off : Nat) : State :=
  { thread1 with
    mem := thread1.mem.filter fun c => decide (c.1 < bootPt)
    io := { thread1.io with tiers := [(0, { mode := mode, extents := [(0, 4), (8, 1)] })] }, arg := { off := off, len := 4 } }

theorem witness_MemoryErrorAndPortEvents :
    let w := { withTables thread1 0 bootLeaf with arg := { asid := 1 } }
    let g (s : State) := findGrain s (.l1 0) 1 64
    let soft (s : State) := (g s).map fun g => (g.pa.isSome, g.st, bitOf g.dirty ((64 - g.va.toNat) / 32), g.cnt)
    slotOfAsid w 1 = some 0 ∧ hmWalk w 0 0 = .hme 0 ∧ hmeBad 0 = false ∧ (homeWalk w 0 0 1 0).2 = .leaf 16 0x118000 bootLeaf
    ∧ leafBad (homeWalk w 0 0 1 0).1 0 16 bootLeaf = false ∧ leafV bootLeaf = true ∧ leafTier bootLeaf ≠ 3 ∧ slotOfAsid w 2 = none
    ∧ soft (softState .modified 1) = some (true, .modified, true, .plain) ∧ soft (softState .exclusive 0) = some (true, .exclusive, false, .plain) := by
  decide +kernel

theorem witness_MemoryErrorAndPortEvents_extents :
    (Claims.port (cxlState 2 4)).mode = 2 ∧ (0, 4) ∈ (Claims.port (cxlState 2 0)).extents ∧ ctxLive (cxlState 2 0) 0 = true
    ∧ mappedLeaves (cxlState 2 0) = []
    ∧ (4, 4) ∉ (Claims.port (cxlState 2 4)).extents := by decide +kernel

theorem witness_RegisterEvents :
    let n (k : Nat) : State := { thread1 with io := { thread1.io with notifies := List.replicate k ⟨0, 0, 0, none⟩ } }
    let r : EvArg := { svp := true, wide := true, off := 0x400000 + 0x80000 * 7 + 0x310 }
    (n 256).io.notifies.length = 256 ∧ (n 255).io.notifies.length < 256 ∧ r.svp = true ∧ r.wide = true ∧ r.narrow = false
    ∧ thread1.dev.lc ≠ 3 ∧ ({ thread1.dev with lc := 3 } : Dev).lc = 3 ∧ thread1.svpFrozen = false ∧ ({ r with narrow := true } : EvArg).narrow = true
    ∧ (Claims.dieTable.map (·.1)).contains 0x310 = true ∧ r.off % 8 = 0 ∧ ({ r with off := 4 } : EvArg).off % 8 ≠ 0
    ∧ ({ svp := false, off := 8, fn := 1 } : EvArg).fn ≠ 0 ∧ ({ svp := false, off := 0x10000 } : EvArg).off % 4 = 0 := by decide +kernel

/-- `HostEvents`, `LinkEvents`: an access from outside that fails at its home, at 1 GiB; an answer of a peer before its time
and at it; a line that the host homes with a lost dirty sector. -/
theorem witness_HostEvents_failed :
    let s := hostState
    let p := peerState id
    let r := rqOutside 0 1
    let at_ (n : Dword) (st : ReqSt) : List Bool := ({ reqState st 0 9 10 with timeNs := n } : State).reqs.map fun r =>
      decide (hmeHome r.hme = 10 ∧ r.sentAt + 2 ^ s.io.vplTmo.toNat * 64000 ≤ n.toNat)
    let soft := { softState .modified 1 with grains := (softState .modified 1).grains.map fun g => { g with pa := none } }
    ([s, p].all fun s => (match (loadRange s r accLoad 0x40000000 8).2.1 with | .done => false | .held => false | _ => true)
      && (match (storeRange s r 0x40000000 (zeros 8)).2 with | .done => false | .held => false | _ => true)) = true
    ∧ at_ 0 .remote = [false] ∧ at_ (BitVec.ofNat 64 (2 ^ s.io.vplTmo.toNat * 64000)) .remote = [true]
    ∧ ((findGrain soft (.l1 0) 1 64).map fun g => (g.pa, g.st, bitOf g.dirty ((64 - g.va.toNat) / 32))) = some (none, .modified, true) := by
  decide +kernel

/-! ### Teams and commands -/

/-- A live context in slot 1 with ASID 2 and a grid whose team 3 awaits its place; set 0 holds cores 0 and 1. -/
def twoContexts (o : Option Nat) (next : Nat := 0) (again : List Nat := []) (p : Machine.PSet → Machine.PSet := id) : State :=
  let s := setMem squad1 [(ccbAt squad1 1, 8, 1 + 2 ^ 17)]
  { s with
    psets := [(0, p { cores := [0, 1], owner := o })], arg := { id := 1, core := 0 }
    grids := mset s.grids 3 { slot := 1, lrec := 0, lr := bootLr false, tag := 0, parent := none, depth := 0, next := next, count := 1,
                              again := again } }

/-- Team 3 has been spilled, or awaits its place again. -/
def spilledTeam (st : TeamState) : State :=
  let s := twoContexts (some 1) 1 [3]
  { s with teams := mset s.teams 3 { grid := 3, index := 0, state := st, cores := [0], vcores := [0], segs := [{}] } }

def teamAs (s : State) (f : Team → Team) : State := modTeam s 1 f

theorem witness_TeamEvents_launchAndPlace :
    let l := threadQueue 0 0 1
    let tail := match qLoad l 0 0 1 0 (fun _ => false) qHead accLoad with
      | (_, .inr o) => some (qTail o.q, qHead o.q)
      | _ => none
    let s := twoContexts (some 1)
    let b := twoContexts none 0 [] fun p => { p with bullpen := some 1 }
    let fit (s : State) := (findGroup s false 0 (bootLr false) false (returnDemands s 3) fun _ => true).isSome
    (ctxLive l 0 = true ∧ l.svpFrozen = false ∧ (l.grids.map fun x => (x.2.waitGx, x.2.next, x.2.count)) = [(false, 1, 1)]
      ∧ tail = some (1, 0) ∧ lrHeld l 0 0 = false ∧ ctxLive l 5 = false)
    ∧ ((getSet s 0).owner = some 1 ∧ (getSet s 0).swap = none ∧ ownerDone s 0 = false ∧ ctxLive s 1 = true
      ∧ dueTeam s 0 1 false = some (3, none))
    ∧ ((getSet b 0).bullpen = some 1 ∧ dueTeam (twoContexts none 0) 0 1 false = some (3, none))
    ∧ (dueTeam (spilledTeam .spilled) 0 1 false = some (3, some 3) ∧ (teamOf (spilledTeam .spilled) 3).state = .spilled
      ∧ fit (spilledTeam .spilled) = true)
    ∧ (dueTeam (spilledTeam .pending) 0 1 false = some (3, some 3) ∧ (teamOf (spilledTeam .pending) 3).state = .pending) := by
  decide +kernel

/-- Core 0 swaps, fills and drains; the team is swapped out. -/
def shadowState (c : Shadow) (f : Team → Team := id) : State :=
  let s := teamAs (twoContexts (some 0)) f
  { s with cores := mset s.cores 0 { mgetD s.cores 0 {} with shadow := c } }

theorem witness_TeamEvents_slices :
    let late (o : Option Nat) (next : Nat) : State := syncShadows { twoContexts o next with timeNs := 2000000 }
    let s := late (some 0) 0
    let idle := late (some 0) 1
    let gone := teamAs s fun t => { t with state := .exited }
    let sw := twoContexts (some 0) 0 [] fun p => { p with swap := some (1, 0) }
    let d := shadowState .draining fun t => { t with state := .swapped, stopping := true, nblk := 1 }
    let saved := { d with ctxBlocks := [(0, [0])] }
    let outs (s : State) := ((s.teams.filter fun x => x.2.state == .swapped && x.2.stopping && x.2.cores.contains 0).map (·.1)).foldl drainTeam (s, true)
    let f := { spilledTeam .swapped with psets := [(0, { cores := [0, 1], owner := some 0 })] }
    ((getSet s 0).owner = some 0 ∧ (getSet s 0).bullpen = none ∧ (getSet s 0).swap = none ∧ sliceNs s 0 = 2000000
      ∧ (getSet s 0).sliceStart = 0 ∧ s.timeNs = 2000000)
    ∧ nextOwner idle 0 = none ∧ nextOwner s 0 = some 1 ∧ nextOwner gone 0 = some 1
    ∧ ((teamsOn s 0 0).map fun x => (x.1, x.2.state, x.2.stopping)) = [(1, .resident, false)]
    ∧ (teamsOn gone 0 0).filter (fun x => x.2.state == .resident) = []
    ∧ ([s, gone].all fun s => [0, 1].all fun c => (mgetD s.cores c {}).shadow == .ready) = true
    ∧ (getSet sw 0).swap = some (1, 0) ∧ clk { sw with clocks := [(0, 64)] } 0 = 0 + 64 ∧ clk sw 0 = 0
    ∧ setOfCore f 0 = some 0 ∧ nextOwner f 0 = some 1 ∧ (mgetD (syncShadows f).cores 0 {}).shadow = .filling
    ∧ (mgetD d.cores 0 {}).shadow = .draining ∧ (mgetD s.cores 0 {}).shadow ≠ .draining
    ∧ (outs saved).2 = true ∧ (outs d).2 = false := by decide +kernel

/-- A team that is over, in whole or with a child; with a record at 0xC000; that spills, has migrated, and whose die has
failed. -/
def exited (n : Nat) (rec : Dword) : State :=
  let s := teamAs squad1 fun t => { t with state := .exited, children := n }
  { s with arg := { id := 1 }, squads := [], grids := mmod s.grids 1 fun g => { g with lr := { g.lr with exitrec := rec } } }

theorem witness_TeamEvents_ends :
    let e := exited 0 0xC000
    let s1 := wcDrain e fun w => w.agents.any (deadAgent e) && w.asid == 1
    let r := teamAs e fun t => { t with state := .retired }
    let ex (s : State) := (storesOut s 1, teamOps s 1, (teamOf s 1).exitReq, (teamOf s 1).exitDone, (teamOf s 1).counted)
    (((teamOf e 1).state = .exited ∧ (teamOf e 1).children = 0) ∧ (teamOf r 1).state = .retired
      ∧ ex s1 = (false, false, none, false, false) ∧ s1.wc.length = 0 ∧ squad1.svpFrozen = false ∧ (teamOf squad1 1).state = .resident
      ∧ (gridOf s1 (teamOf e 1)).lr.exitrec = 0xC000
      ∧ (storeRange s1 (rqDevice s1 0 0) 0xC000 (exitRecord s1 (teamOf e 1))).2 = .done)
    ∧ (teamOf (exited 1 0) 1).children ≠ 0 ∧ (gridOf (exited 0 0) (teamOf (exited 0 0) 1)).lr.exitrec = 0
    ∧ ((teamOf squad1 1).state ≠ .retired ∧ (getDie (setDie squad1 0 { failed := true }) 0).failed = true ∧ (teamOf squad1 1).cores = [0]) := by
  decide +kernel

theorem witness_TeamEvents_moves :
    let sp (n : Nat) := teamAs squad1 fun t => { t with stopping := true, nblk := n }
    let m := teamAs (modSquad (squadMig 1) 1 fun q => { q with inVolley := false }) fun t => { t with state := .migrating, migTo := some (1, 9) }
    let w := twoContexts (some 1)
    let g := { squad1 with clocks := [(0, 1024)], cores := [(0, { growSince := [(3, 0)] })] }
    (setOfCore w 0 = some 0 ∧ waitingTeam w 0 = some (3, none) ∧ leastRecent w (victims w 0) = some 1)
    ∧ (growDue g 0 = [3] ∧ (victims g 0).map (·.1) = [1] ∧ growDue { g with clocks := [(0, 1023)] } 0 = [])
    ∧ ((teamOf (sp 1) 1).state = .resident ∧ ([0, 1].all fun n => teamLanded (sp n) 1 && teamQuiet (sp n) 1) = true
      ∧ (saveImage (ungrant (drainStores (sp 1) 1) 1) 1).2 = true ∧ (saveImage (ungrant (drainStores (sp 0) 1) 1) 1).2 = false ∧ (teamOf squad1 1).stopping = false)
    ∧ ((teamOf m 1).migTo = some (1, 9) ∧ (∀ x ∈ squadsOf m 1, stopped m 9 x.1 x.2 = true) ∧ m.pops = []
      ∧ (migrateGroup m 1 1).isSome = true) := by
  decide +kernel

/-- An entry of the management ring: opcode, and its fields by offset and length. -/
def entryOf (opc : Nat) (l : List (Nat × Nat × Nat)) : List Byte :=
  l.foldl (fun e x => putBytes e x.1 (bytesOf x.2.1 x.2.2)) (putBytes (zeros 64) 0 (bytesOf 2 opc))

/-- The entry waits in the ring of a device that is ready. -/
def cmdState (e : List Byte) (s : State := withTables thread1 0 bootLeaf) : State :=
  { s with dev := { s.dev with ready := true, mgmtTail := 1, mgmtRing := e.zipIdx.map fun x => (x.2, x.1) } }

/-- An entry of service queue 0, which is queue 5 of slot 0. -/
def svqState (opc : Nat) : State :=
  let s := setMem (threadQueue 5 0 1) [(bootPage + 0x8000 + 64 * 5 + 18, 1, 1), (bootPage + 0x4000, 1, opc), (ccbAt thread1 0 + 0x30, 8, 1)]
  { s with dev := { s.dev with ready := true }, svcAwake := 1, svqMap := [(0, (0, 5))], arg := { src := .svq 0 } }

/-- The entry that a command's step takes. -/
def takes (r : Claims.CmdRow) (s : State) : Option Cmd := (cmdTake s r.mine).2
def takenB (r : Claims.CmdRow) (s : State) : Bool :=
  match takes r s with
  | some x => opcKnown x.c.opc && decide (s.dev.lc ≠ 3) && !pathRefused x && onlyNamed x.e r.named
  | none => false

theorem taken_of {r : Claims.CmdRow} {s : State} (h : takenB r s = true) : ∃ x, Claims.taken r s (cmdTake s r.mine).1 x := by
  unfold takenB at h
  split at h
  · next x e =>
    simp only [Bool.and_eq_true, decide_eq_true_eq, Bool.not_eq_true'] at h
    exact ⟨x, Prod.ext rfl e, h.1.1.1, h.1.1.2, h.1.2, h.2⟩
  · cases h

/-- One sound entry of every command. -/
def sound : List (Claims.CmdRow × List Byte) :=
  [(Claims.rowLaunch, entryOf 1 [(16, 8, 0x200)]), (Claims.rowNew, entryOf 2 [(8, 2, 5), (10, 2, 7)]), (Claims.rowFree, entryOf 3 []),
   (Claims.rowPlace, entryOf 4 [(8, 1, 2)]), (Claims.rowPower, entryOf 5 [(8, 4, 2000)]), (Claims.rowAttest, entryOf 6 []),
   (Claims.rowHeat, entryOf 7 [(10, 1, 1)]), (Claims.rowRecord, entryOf 8 []), (Claims.rowQueues, entryOf 9 []),
   (Claims.rowPeers, entryOf 9 [(10, 1, 1)]), (Claims.rowMap, entryOf 9 [(10, 1, 2)])]

theorem witness_CommandRefusals :
    ∀ p ∈ sound, ∃ x, Claims.taken p.1 (cmdState p.2) (cmdTake (cmdState p.2) p.1.mine).1 x :=
  all_of (p := fun p : Claims.CmdRow × List Byte => takenB p.1 (cmdState p.2)) (by decide +kernel) fun _ h => taken_of h

theorem witness_CommandRefusals_none : (sound.all fun p => (takes p.1 thread1).isNone) = true := by decide +kernel

theorem witness_CommandRefusals_unknown :
    (sound.all fun p => (takes p.1 (cmdState (entryOf 10 []))).any fun x => !opcKnown x.c.opc) = true := by decide +kernel

theorem witness_CommandRefusals_named :
    (sound.all fun p => (takes p.1 (cmdState (putBytes p.2 2 [1]))).any fun x => opcKnown x.c.opc && !onlyNamed x.e p.1.named
      && !pathRefused x) = true := by decide +kernel

theorem witness_CommandRefusals_slots :
    (takes Claims.rowFree (cmdState (entryOf 3 [(8, 2, 64)]))).map (fun x => fieldOf x.e 8 2) = some 64
    ∧ takenB Claims.rowFree (cmdState (entryOf 3 [(8, 2, 63)])) = true
    ∧ ctxLive (cmdTake (cmdState (entryOf 3 [(8, 2, 63)])) Claims.rowFree.mine).1 63 = false
    ∧ (takes Claims.rowFree (svqState 3)).map (fun x => (opcKnown x.c.opc, pathRefused x)) = some (true, true)
    ∧ thread1.dev.ready = false := by decide +kernel

/-- The context of `cmdState` with a launch record at VA 0x200 and zeros at 0x400; with fault queue 5. -/
def cmdPage (fq : Nat) (leaf : Nat := bootLeaf) : State :=
  setMem (withTables (threadQueue 5 0 0) 0 leaf) [(bootPage + 0x200 + 16, 4, 1), (bootPage + 0x200 + 20, 2, 1), (bootPage + 0x200 + 22, 2, 1),
    (bootPage + 0x200 + 24, 2, 32), (bootPage + 0x200 + 26, 2, 1), (bootPage + 0x200 + 28, 2, 1), (bootPage + 0x200 + 30, 1, 1),
    (bootPage + 0x200 + 32, 2, 1), (bootPage + 0x200 + 80, 2, 0xFFFF), (ccbAt thread1 0 + 0x28, 4, fq), (ccbAt thread1 0 + 0x30, 8, 1)]

/-- An entry is taken, and what its command then reads. -/
def takenAs (r : Claims.CmdRow) (e : List Byte) (s : State) : State := (cmdTake (cmdState e s) r.mine).1
def entryX (r : Claims.CmdRow) (e : List Byte) (s : State) : List Byte := ((takes r (cmdState e s)).map (·.e)).getD []

theorem witness_Commands_launch :
    let l := takenAs Claims.rowLaunch (entryOf 1 [(16, 8, 0x200)]) (cmdPage 5)
    let m := takenAs Claims.rowLaunch (entryOf 1 [(16, 8, 0x400)]) (cmdPage 5)
    let n := takenAs Claims.rowLaunch (entryOf 1 [(16, 8, 0x200)]) (cmdPage 0)
    let rec_ (s : State) (va : Nat) := (lrRead s 0 va).2.map (lrMalformed (lrRead s 0 va).1 0)
    takenB Claims.rowLaunch (cmdState (entryOf 1 [(16, 8, 0x200)]) (cmdPage 5)) = true ∧ ctxLive l 0 = true
    ∧ ccb l 0 0x28 4 = 5 ∧ ccb n 0 0x28 4 = 0 ∧ lrHeld l 0 0x200 = false ∧ lrHeld m 0 0x400 = false
    ∧ rec_ l 0x200 = some false ∧ rec_ m 0x400 = some true := by decide +kernel

theorem memErase_absent {m : List Host.Cell} {a : Nat} (h : ∀ c ∈ m, c.1 ≠ a) : memErase m a = m := by
  induction m with
  | nil => rfl
  | cons c m ih =>
    have e : c.1 ≠ a := h c List.mem_cons_self
    obtain ⟨k, v⟩ := c
    rw [memErase_cons, if_neg (show ¬ (k = a) from e), ih fun c hc => h c (List.mem_cons_of_mem _ hc)]

/-- Zeros written where nothing is listed change nothing. -/
theorem memWriteN_zeros {m : List Host.Cell} (n : Nat) {a : Nat} (h : ∀ c ∈ m, c.1 < a ∨ a + n ≤ c.1) : memWriteN m a (zeros n) = m := by
  induction n generalizing a with
  | zero => rfl
  | succ n ih =>
    rw [zeros, List.replicate_succ, memWriteN, memWrite, if_pos (show (0 : Byte) = memDefault from rfl), memErase_absent fun c hc e => by have := h c hc; omega]
    exact ih fun c hc => by have := h c hc; omega

theorem memWriteN_append {m : List Host.Cell} {a : Nat} (xs ys : List Byte) :
    memWriteN m a (xs ++ ys) = memWriteN (memWriteN m a xs) (a + xs.length) ys := by
  induction xs generalizing m a with
  | nil => rfl
  | cons x xs ih => simp only [List.cons_append, memWriteN, ih, List.length_cons, Nat.add_assoc, Nat.add_comm 1]

/-- A new context in a slot under an ASID, with the tables of slot 0; the state in which `CTXNEW` is taken, and the one whose
save area it writes. -/
def newEntry (k a : Nat) : List Byte := entryOf 2 [(8, 2, k), (10, 2, a), (16, 8, 0x114001), (24, 8, 0x110001)]
def newTaken : State := takenAs Claims.rowNew (newEntry 5 7) (cmdPage 5)
def newBlock (m : List Host.Cell) : State :=
  let s := flushAsid newTaken 7
  { s.draw.draw with
    mem := m, ctxBlocks := mdel s.ctxBlocks 5
    clusters := s.clusters.map fun c => (c.1, { c.2 with common := c.2.common.filter fun h => h.1 / 64 != 5 }) }

/-- A line under the ASID of the context to be made. -/
def newCached : State :=
  takenAs Claims.rowNew (newEntry 5 7) { cmdPage 5 with
    grains := [{ holder := .host, asid := 7, va := 64, size := 32, st := .shared, data := zeros 32, dirty := 0, pa := some 0 }] }

/-- Slot 5 is closing, with a push that waits or without. -/
def closingState (wait : Bool) : State :=
  { thread1 with
    closing := [(5, (2, none))], dpush := if wait then [{ id := 7, slot := 5, q := 5, entry := zeros 64 }] else [] }
def newHead : List Byte := (ctxBlock (newEntry 5 7)).take 0x60

theorem ctxBlock_parts : ctxBlock (newEntry 5 7) = newHead ++ (zeros (0x800 - 0x60) ++ List.replicate 128 0xFF) := by
  rw [newHead, ctxBlock, List.append_assoc, List.take_left' (by decide +kernel)]

theorem newMem : memWriteN (flushAsid newTaken 7).mem (ccbAt newTaken 5) (ctxBlock (newEntry 5 7))
    = memWriteN (memWriteN (flushAsid newTaken 7).mem (ccbAt newTaken 5) newHead) (ccbAt newTaken 5 + 0x60 + (0x800 - 0x60))
        (List.replicate 128 0xFF) := by
  rw [ctxBlock_parts, memWriteN_append, memWriteN_append, memWriteN_zeros]
  · rw [show newHead.length = 0x60 by decide +kernel, show (zeros (0x800 - 0x60)).length = 0x800 - 0x60 from List.length_replicate ..]
  · decide +kernel

theorem witness_Commands_contexts :
    let t := newBlock (memWriteN (flushAsid newTaken 7).mem (ccbAt newTaken 5) (ctxBlock (newEntry 5 7)))
    let fr := takenAs Claims.rowFree (entryOf 3 []) (cmdPage 5)
    takenB Claims.rowNew (cmdState (newEntry 5 7) (cmdPage 5)) = true ∧ takenB Claims.rowNew (cmdState (newEntry 64 7) (cmdPage 5)) = true
    ∧ ctxBad (newEntry 64 7) = true ∧ ctxBad (newEntry 5 7) = false ∧ ctxBad (newEntry 63 7) = false
    ∧ ctxState newTaken 5 = 0 ∧ ctxState newTaken 0 ≠ 0
    ∧ slotOfAsid newTaken 7 = none ∧ slotOfAsid newTaken 1 = some 0 ∧ peekHome t (rqDevice t 0 5) 0 = some 0
    ∧ (storeRange t (rqDevice t 0 5) 0 (newSaveHeader newTaken 0)).2 = .done ∧ (flushAsid newTaken 7).grains = []
    ∧ ((flushAsid newCached 7).grains.map (·.asid)) = [7]
    ∧ ([true, false].map fun w => (closingState w).dpush.any (·.slot == 5)) = [true, false]
    ∧ ((closingState false).resvs.any (·.slot == 5) || (closingState false).grids.any fun g => g.2.slot == 5 && !g.2.gone) = false
    ∧ ((takes Claims.rowNew (cmdState (newEntry 5 7) (cmdPage 5))).map (·.c.opc)) = some 2
    ∧ takenB Claims.rowFree (cmdState (entryOf 3 []) (cmdPage 5)) = true ∧ ctxLive fr 0 = true := by
  rw [newMem]; decide +kernel

/-- `Commands`: an ASID of a live context and of a closing one; a held header; a closing context in a freeze, with a fault
record that waits. -/
theorem witness_Commands_closing :
    let used (s : State) (a : Half) : Prop := ∃ j < 64, ctxLive s j = true ∧ ctxAsid s j = a
    let held (s : State) := setDie s 0 { getDie s 0 with held := [⟨1, 0, 16, 0⟩] }
    let req : Req := { id := 7, who := .spine 1, kind := .read 8, asid := 2, va := 64, st := .faulted 3, slot := 5 }
    used newTaken 1 ∧ ¬ used newTaken 7
    ∧ (storeRange (held thread1) (rqDevice (held thread1) 0 0) 64 (zeros 8)).2 = .held
    ∧ recordsWait { closingState false with reqs := [req] } 5 = true ∧ recordsWait (closingState false) 5 = false
    ∧ (closingState false).svpFrozen = false ∧ (closeGrids (closingState true) 5).dpush.length = 1
    ∧ (closeGrids (closingState false) 5).dpush = [] := by decide +kernel

/-- Fault queue and completion queue at the limits; peers; the map of the context's service queue 0. -/
theorem witness_Commands_configuration :
    let q (f c : Nat) := entryOf 9 [(24, 4, f), (28, 4, c), (32, 8, 1)]
    let p (i c b : Nat) := entryOf 9 [(10, 1, 1), (12, 1, i), (13, 1, c), (55, 1, b)]
    let m (k n : Nat) := entryOf 9 [(10, 1, 2), (12, 1, k), (16, 2, n)]
    let s := cmdPage 5
    let two := setMem s [(ccbAt s 1, 8, 1 + 2 ^ 17), (ccbAt s 1 + 0x30, 8, 1)]
    let mask := svqMask (takenAs Claims.rowMap (m 0 5) s) 0
    takenB Claims.rowQueues (cmdState (q 1 1023) s) = true ∧ takenB Claims.rowQueues (cmdState (q 1024 1) s) = true
    ∧ takenB Claims.rowPeers (cmdState (p 11 5 0) s) = true ∧ takenB Claims.rowPeers (cmdState (p 12 5 0) s) = true
    ∧ takenB Claims.rowPeers (cmdState (p 0 4 9) s) = true
    ∧ takenB Claims.rowMap (cmdState (m 0 1023) s) = true ∧ takenB Claims.rowMap (cmdState (m 0 1024) s) = true
    ∧ bitOf mask 0 = true ∧ bitOf mask 1 = false
    ∧ (bitOf (svqMask (takenAs Claims.rowQueues (q 1 2) two) 1) 0 = true ∧ ctxLive (takenAs Claims.rowQueues (q 1 2) two) 1 = true
      ∧ ctxLive (takenAs Claims.rowQueues (q 1 2) s) 1 = false) := by decide +kernel

/-- Set 2 for a bitmap at VA 0x1000 that names core 9; set 0 holds it or core 8; set 2 is in use. -/
theorem witness_Commands_place :
    let e := entryOf 4 [(8, 1, 2), (16, 8, 0x1000)]
    let base := setMem (cmdPage 5) [(bootPage + 0x1001, 1, 2)]
    let s (l : List (Nat × Machine.PSet)) := takenAs Claims.rowPlace e { base with psets := l }
    let used := takenAs Claims.rowPlace e (setMem { base with psets := [(2, { cores := [8] })] } [(ccbAt base 0 + 0x48, 2, 2)])
    let r := loadRange (s []) (rqDevice (s []) 0 0) accLoad 0x1000 256
    takenB Claims.rowPlace (cmdState e base) = true ∧ ctxLive (s []) 0 = true ∧ r.2.1 = .done ∧ bitmapCores r.2.2 = [9]
    ∧ (s [(0, { cores := [8] })]).psets = [(0, { cores := [8] })] ∧ (s [(0, { cores := [8, 9] })]).psets = [(0, { cores := [8, 9] })]
    ∧ setInUse (s [(0, { cores := [8] })]) 2 = false ∧ setInUse used 2 = true
    ∧ ((mget (s [(2, { cores := [9] })]).psets 2).map fun p => (p.cores, p.bullpen)) = some ([9], none) := by decide +kernel

theorem witness_Commands_fields :
    (([5400, 5450].map fun w => takenB Claims.rowPower (cmdState (entryOf 5 [(8, 4, w)]))) = [true, true])
    ∧ (([(7, 1, 3), (8, 1, 1)].map fun x =>
        takenB Claims.rowHeat (cmdState (entryOf 7 [(8, 1, x.1), (9, 1, x.2.1), (10, 1, x.2.2)]))) = [true, true])
    ∧ (([1 + 65536 * 1023, 3].map fun rc => takenB Claims.rowRecord (cmdState (entryOf 8 [(12, 4, rc)]) (cmdPage 5))) = [true, true])
    ∧ recQueue (1 + 65536 * 1023) = 1023 ∧ bitsOf (1 + 65536 * 1023) 2 14 = 0 ∧ bitsOf 4 2 14 ≠ 0 ∧ recRec 3 = true ∧ recPlay 3 = true := by
  decide +kernel

/-- The report goes to a page that no cache holds: its first lines, and the last of its 3429 bytes. -/
theorem witness_Commands_attest :
    let s := withTables thread1 0 (bootLeaf + 0x20)
    let t := takenAs Claims.rowAttest (entryOf 6 []) s
    (([0, 32].map fun va => takenB Claims.rowAttest (cmdState (entryOf 6 [(48, 8, va)]) s)) = [true, true])
    ∧ ctxLive t 0 = true
    ∧ (([(0, 64), (3424, 5)].all fun x => decide ((storeRange t (rqDevice s 0 0) x.1 (zeros x.2)).2 = .done)) = true) := by
  decide +kernel

/-! ### Steps, frames and memory -/

/-- The next word of a squad and of a thread, as loaded for a step; a word that decodes to nothing; a volley of one word at
a header of two words that does not agree with it. -/
def squadStep (w : Nat) : State := { State.reset.withFetchWord 96 w with moves := [.run (.squad 1)] }
def threadStep (w : Nat) : State := { State.reset.withFetchWord 32 w with moves := [.run (.spine 1)] }

theorem witness_StepRunsDecoded :
    let add : Nat := 0xFFFFFC003FD8040174050001
    let s := squadStep add
    let s' : State := { s with moves := [], turn := .squad 1 }
    let u := threadStep 0x001851C1
    let u' : State := { u with moves := [], turn := .spine 1 }
    let fetched (s : State) := match (fetchWord s 1 (sqd s) (sqd s).pos).2 with | .bytes bs => some (wordVal bs) | _ => none
    let fetched' (s : State) := match (spineFetch s (thr s)).2 with | .bytes bs => some (fieldOf bs 0 4) | _ => none
    (s'.moves = [] ∧ (teamOf s' 1).runs = true ∧ (sqd s').traps = [] ∧ (sqd s').pm ≠ 0 ∧ (sqd s').held.isSome = true ∧ (sqd s').inVolley = true
      ∧ mget s'.squads 1 = some (sqd s'))
    ∧ fetched s' = some (BitVec.ofNat 96 add) ∧ fetched (squadStep 0) = some 0
    ∧ ((fetched s').map fun w => wordOk (hdrUni (sqd s').hdr) (hdrN (sqd s').hdr) (((sqd s').pos - (sqd s').hpos).toNat / 12) w) = some true
    ∧ (decodeLane (BitVec.ofNat 96 add)).isOk = true ∧ (decodeLane 0).isOk = false
    ∧ wordOk (hdrUni (sqd s').hdr) 2 1 (BitVec.ofNat 96 add) = false
    ∧ (mget u'.spines 1 = some (thr u') ∧ (thr u').live = true ∧ (teamOf u' 1).runs = true ∧ (thr u').wait = .none)
    ∧ fetched' u' = some 0x001851C1 ∧ (decodeSpine 0x001851C1).isOk = true ∧ (decodeSpine 0).isOk = false
    ∧ ([s, s', u, u'].all fun s => (dueEvent s).isNone) = true
    ∧ (dueEvent (annState [some 9] 33)).map (·.1) = some .announcementDelivery ∧ dueEvent (annState [some 9] 32) = none := by decide +kernel

/-- Nothing is due, or an announcement is accepted; no agent's wait is tried again, and nothing settles. -/
theorem witness_AroundAStep :
    let s := annState [some 9] 9
    let t := settle thread1 thread1
    (∀ x ∈ t.squads, x.2.wait.tried = false) ∧ (∀ x ∈ t.spines, x.2.wait.tried = false) ∧ (deadlines t).length = 0
    ∧ ((deadlines (settle s s)).map fun x => (x.1, x.2.1)) = [(0, 33)]
    ∧ (∀ x ∈ thread1.teams, x.2.hdrSlot = none) ∧ thread1.closing = [] ∧ (∀ x ∈ thread1.grids, x.2.gone = false)
    ∧ (∀ x ∈ thread1.psets, x.2.owner = none ∨ x.2.swap.isSome = true) ∧ thread1.msixWait = [] ∧ thread1.creds.length = 0
    ∧ thread1.svps.length = 0 ∧ thread1.wc.length = 0 ∧ thread1.heldAccs.length = 0 ∧ (timeDeadlines thread1).length = 0
    ∧ ((timeDeadlines { thread1 with dev := { thread1.dev with ready := true } }).map (·.1)) = [100000000] := by decide +kernel

/-- A step from the state after reset, whose memory is canonical. -/
theorem witness_MemoryStaysCanonical : Memory.wf State.reset.mem = true ∧ Memory.wf State.reset.durable = true
    ∧ (∃ t, step State.reset = .next t) ∧ Memory.wf (memWriteN [] 5 [1, 0, 2]) = true := by
  refine ⟨rfl, rfl, ?_, by decide⟩
  exact ⟨_, rfl⟩

/-- Words that the rows of the tables and the well-formed instructions are about. -/
theorem witness_DecodeOfEncode : (Instr.spineAdd false 6 5 7).wf = true ∧ (Instr.spineAdd false 6 5 7).spineWord?.isSome = true
    ∧ (Instr.rcp { Claims.bare with dst := .v 4, ty := .f32, a := .v 2 false }).wf = true
    ∧ (Instr.rcp { Claims.bare with dst := .v 4, ty := .f32, a := .v 2 false }).lane?.isSome = true
    ∧ BitVec.extractLsb' 0 6 (0x1D#32) = 0x1D ∧ 0x1C < (BitVec.extractLsb' 0 6 (0x1D#32)).toNat
    ∧ (BitVec.extractLsb' 24 4 (0x0D00000F#32)).toNat = 0xD := by decide +kernel

theorem witness_SpineFrames : curSpine thread1 = some (1, thr thread1) ∧ (Claims.intTable.length, Claims.intUnTable.length) = (22, 4)
    ∧ (Claims.immTable.length, Claims.shiftTable.length, Claims.branchTable.length) = (6, 3, 6) := by decide +kernel

/-- Destinations of every kind: v4, the last pair v253, g5; a guard that only lane 31 passes. -/
def opFrame (d : Dst) : LaneOp := { op3 with dst := d, gp := 1, ty := .n32 }
def squadFrame : State := modSquad squad1 1 fun q => { q with p := setAt q.p 1 0x80000000 }
theorem witness_LaneFrames : ∀ d ∈ [Dst.v 4, .v 253, .g 5], ∀ r ∈ Claims.laneTable,
    (Claims.ready squadFrame 1 (sqd squadFrame) (opFrame d) (usesOf (opFrame d) (r.2.1 (opFrame d))) ∧ hSource (opFrame d) = none
    ∧ lowLane (lx squadFrame (r.1 (opFrame d)) (opFrame d)).act = some 31)
    ∧ Claims.room squadFrame (lx squadFrame (r.1 (opFrame d)) (opFrame d)) (valEffect (lx squadFrame (r.1 (opFrame d)) (opFrame d))
        (r.2.1 (opFrame d)).d fun _ => 1) :=
  all_of (p := fun d => Claims.laneTable.all fun r =>
      (readyB squadFrame (opFrame d) (usesOf (opFrame d) (r.2.1 (opFrame d))) && decide (hSource (opFrame d) = none
        ∧ lowLane (lx squadFrame (r.1 (opFrame d)) (opFrame d)).act = some 31))
      && roomB squadFrame (lx squadFrame (r.1 (opFrame d)) (opFrame d)) (valEffect (lx squadFrame (r.1 (opFrame d)) (opFrame d))
        (r.2.1 (opFrame d)).d fun _ => 1))
    (by decide +kernel) fun _ h => all_of h fun _ h => by
      simp only [Bool.and_eq_true, decide_eq_true_eq] at h
      exact ⟨⟨ready_of h.1.1, h.1.2⟩, room_of h.2⟩

/-- Results under way for v4, for g5, for a predicate and for both. -/
def popTo (d : LDst) (n : Nat) : State :=
  let s := modSquad squad1 1 fun q => { q with v := mset q.v 4 { val := zeroLanes, pend := some 9 } }
  { s with pops := [(9, { squad := 1, tpc := 12, dst := d, lanes := 1, vals := List.replicate n (if d matches .g _ _ _ then [7, 0] else zeroLanes),
                          pval := 1, flag := some 3, ready := true })] }
theorem witness_ResultsLand :
    (∀ d ∈ [LDst.v 4 1, .g 5 1 true, .g 5 1 false, .p 1, .vp 4 1 1], ((mget (popTo d 1).pops 9).map (·.dst)) = some d
      ∧ ((mget (popTo d 1).pops 9).map (·.squad)) = some 1 ∧ (mget (popTo d 1).squads 1).isSome = true)
    ∧ ((mget (popTo (.v 4 1) 1).squads 1).bind fun q => (mget q.v 4).bind (·.pend)) = some 9
    ∧ ((mget (popTo (.g 5 1 true) 1).pops 9).map (·.vals)) = some [[7, 0]] := by decide +kernel

/-- A team with a handler; another squad of it is in the handler, or waits with an earlier trap; a squad that runs its
handler; a team without one. -/
def trapTeam (hsq : Option Nat) : State := teamAs squadLs fun t => { t with thand := 12, hsq := hsq }
theorem witness_SquadTrapEntry :
    mget (trapTeam none).squads 1 = some (sqd (trapTeam none)) ∧ mget (trapTeam none).teams 1 = some (teamOf (trapTeam none) 1)
    ∧ inHandler (sqd (trapTeam none)) = false ∧ hasHandler (trapTeam none) 1 = true ∧ (teamOf (trapTeam none) 1).hsq = none
    ∧ ownRank (teamOf (trapTeam none) 1) 0 < (teamOf (trapTeam none) 1).segs.length ∧ (teamOf (trapTeam (some 4)) 1).hsq = some 4
    ∧ (let first (s : State) := (teamOf s 1).hwait.find? fun w => w.1 == 1 || waitsEntry s w.1
       let other := { trapTeam none with squads := mset (trapTeam none).squads 7 { sqd squad1 with index := 1, slot := 1, wait := .handler } }
       first (trapTeam none) = none ∧ first (teamAs other fun t => { t with hwait := [(7, 0)] }) = some (7, 0)
         ∧ first (teamAs other fun t => { t with hwait := [(1, 0), (7, 1)] }) = some (1, 0)
         ∧ first (teamAs (trapTeam none) fun t => { t with hwait := [(7, 0)] }) = none)
    ∧ hasHandler squadLs 1 = false ∧ inHandler (sqd (squadH 0x20E true)) = true := by decide +kernel

/-- A cache holds the grain at 64 alone, with every sector valid. -/
def lineB (s : State) (va n : Nat) : Bool :=
  match findGrain s (.l1 0) 1 va with
  | some g => decide (va + n ≤ g.va.toNat + g.size) && decide (g.cnt ≠ .drained) && decide (g.lost = 0) && decide (g.va.toNat % 32 = 0)
      && decide (g.size % 32 = 0) && decide (g.data.length = g.size)
      && s.grains.all fun y => decide (y.holder ≠ .l1 0) || !y.overlaps 1 g.va.toNat g.size || decide (y = g)
  | none => false

/-- The cluster of a squad and of a thread holds the line at 64: shared, or owned, when its bytes may be written; `st` writes
two lanes of it, an atomic 4 bytes of it at its home's die; a copy's unit goes to local store. -/
theorem witness_LoadAndStoreFrames :
    let s := grainState .modified
    let sp := thr s
    let r := rqSpine s sp
    let g := findGrain s (.l1 0) 1 64
    let c : Copy := { id := 2, cluster := 0, slot := 0, team := 1, squad := none, tpc := 0, em := 0, instr := .spineCpy 0 0,
                      src := .mem 0, dst := .ls 0 0, len := 16 }
    let t := teamOf squadLs 1
    lineB s 64 8 = true ∧ lineB (grainState .shared) 64 8 = true ∧ lineB s 68 4 = true
    ∧ r.storeHolder = some (.l1 0) ∧ r.phys = false ∧ r.asid = 1 ∧ r.l1 = true
    ∧ (g.map fun g => (g.owned, g.rd, g.waits s r, g.home / 2)) = some (true, true, false, dieOfCluster r.cluster)
    ∧ ((findGrain (grainState .shared) (.l1 0) 1 64).map (·.owned)) = some false
    ∧ s.wc.length = 0 ∧ mergedWaits s 1 64 8 = false ∧ isSvp sp.team = false ∧ sp.resp = none
    ∧ storeBytes .b32 [5] ≠ [] ∧ (storeBytes .b32 [5]).length = 4
    ∧ (match requestFor s r 64 accAtomic false with
        | (s1, .ok t) => t.normal && decide (s1.grains = s.grains)
          && !engineOwns s none 1 (64 / leafGrain t.leaf * leafGrain t.leaf) (leafGrain t.leaf) (leafGrain t.leaf)
          && !hostBlocks s true 1 (64 / leafGrain t.leaf * leafGrain t.leaf) (leafGrain t.leaf)
        | _ => false) = true
    ∧ mget squadLs.teams c.team = some t ∧ 0 < t.segs.length ∧ c.arm = none
    ∧ (blocksOf (0 + c.done) 16).all (fun b => decide ((t.seg 0).state b ≠ .drained)) = true
    ∧ curSpine s = some (1, sp) := by decide +kernel

theorem witness_SharedRegisterCounts :
    let e : HEntry := {}
    let gather : HEntry := ((hTry e (.acc 1 0 0 2)).map (·.1)).getD e
    let full : HEntry := ((hTry e (.put 1 254)).map (·.1)).getD e
    e.full = false ∧ e.gather = false ∧ gather.gather = true ∧ gather.full = false ∧ full.full = true ∧ full.count = 254 := by decide +kernel

theorem witness_LaneIntegerResults : (Claims.sum32Table.length, Claims.bit32Table.length, Claims.int64Table.length) = (22, 12, 19)
    ∧ 31 < 32 ∧ 3 < 32 / LType.i8x4.elemW ∧ 1 < 32 / LType.i16x2.elemW := by decide +kernel

/-! ### Words written out from the encoding tables of the spec -/

def laneWordIs (w : BitVec 96) (i : Instr) : Bool :=
  match decodeLane w with
  | .ok j => j == i && encode i == leBytes 12 w.toNat
  | .error _ => false

def spineWordIs (w : Word) (i : Instr) : Bool :=
  match decodeSpine w with
  | .ok j => j == i && encode i == leBytes 4 w.toNat
  | .error _ => false

/-- The integer operations: `MAJ` 0x01, `FN` as 14 R329 lists it, the 32-bit form. -/
theorem test_words_spine_integer : (([
    (0x801E5A41#32, .spineAdd true 7 37 41),
    (0x811E5A41#32, .spineSub true 7 37 41),
    (0x821E5A41#32, .spineAnd true 7 37 41),
    (0x831E5A41#32, .spineOr true 7 37 41),
    (0x841E5A41#32, .spineXor true 7 37 41),
    (0x851E5A41#32, .spineAndn true 7 37 41),
    (0x861E5A41#32, .spineShl true 7 37 41),
    (0x871E5A41#32, .spineShr true 7 37 41),
    (0x881E5A41#32, .spineSar true 7 37 41),
    (0x891E5A41#32, .spineMul true 7 37 41),
    (0x8A1E5A41#32, .spineMulh true 7 37 41),
    (0x8B1E5A41#32, .spineMulhn true 7 37 41),
    (0x8C1E5A41#32, .spineDiv true 7 37 41),
    (0x8D1E5A41#32, .spineDivn true 7 37 41),
    (0x8E1E5A41#32, .spineRem true 7 37 41),
    (0x8F1E5A41#32, .spineRemn true 7 37 41),
    (0x901E5A41#32, .spineMin true 7 37 41),
    (0x911E5A41#32, .spineMax true 7 37 41),
    (0x921E5A41#32, .spineMinn true 7 37 41),
    (0x931E5A41#32, .spineMaxn true 7 37 41),
    (0x941E5A41#32, .spineSlt true 7 37 41),
    (0x951E5A41#32, .spineSltn true 7 37 41),
    (0x96025A41#32, .spineClz true 37 41),
    (0x97025A41#32, .spineCtz true 37 41),
    (0x98025A41#32, .spinePopc true 37 41),
    (0x99025A41#32, .spineBrev true 37 41)
  ] : List (BitVec 32 × Instr)).all fun p => spineWordIs p.1 p.2) = true := by decide +kernel

/-- Immediate forms: 14 R327 and R328. -/
theorem test_words_spine_immediate : (([
    (0xE9EE5A42#32, .addi 14971 37 41),
    (0xE9EE5A43#32, .andi 14971 37 41),
    (0xE9EE5A44#32, .ori 14971 37 41),
    (0xE9EE5A45#32, .xori 14971 37 41),
    (0x00B65A46#32, .shli 45 37 41),
    (0x40B65A46#32, .shri 45 37 41),
    (0x80B65A46#32, .sari 45 37 41),
    (0xE9EE5A47#32, .slti 14971 37 41),
    (0xE9EE5A48#32, .sltni 14971 37 41),
    (0xC3A59A49#32, .movu 801369 41),
    (0xC3A59A4A#32, .addpc 801369 41)
  ] : List (BitVec 32 × Instr)).all fun p => spineWordIs p.1 p.2) = true := by decide +kernel

/-- Floating point: `MAJ` 0x0B, 0x0C, 0x1C. -/
theorem test_words_spine_float : (([
    (0x801E5A4B#32, .spineFadd true 7 37 41),
    (0x811E5A4B#32, .spineFsub true 7 37 41),
    (0x821E5A4B#32, .spineFmul true 7 37 41),
    (0x831E5A4B#32, .spineFdiv true 7 37 41),
    (0x84025A4B#32, .spineFsqrt true 37 41),
    (0x851E5A4B#32, .spineFmin true 7 37 41),
    (0x861E5A4B#32, .spineFmax true 7 37 41),
    (0x871E5A4B#32, .spineFeq true 7 37 41),
    (0x881E5A4B#32, .spineFlt true 7 37 41),
    (0x891E5A4B#32, .spineFle true 7 37 41),
    (0x0A4E5A4B#32, .spineFcvt 19 37 41),
    (0x131E5A4C#32, .spineFfma 19 7 37 41),
    (0x531E5A4C#32, .spineFfms 19 7 37 41),
    (0x931E5A4C#32, .spineFnfma 19 7 37 41),
    (0xD31E5A4C#32, .spineFnfms 19 7 37 41),
    (0x131E5A5C#32, .spineFfmaS 19 7 37 41),
    (0x531E5A5C#32, .spineFfmsS 19 7 37 41),
    (0x931E5A5C#32, .spineFnfmaS 19 7 37 41),
    (0xD31E5A5C#32, .spineFnfmsS 19 7 37 41)
  ] : List (BitVec 32 × Instr)).all fun p => spineWordIs p.1 p.2) = true := by decide +kernel

/-- Loads, stores and atomics: `MAJ` 0x0D to 0x0F (15 R352, R353). -/
theorem test_words_spine_memory : (([
    (0xB4EA5A4D#32, .spineLd 723 true 2 37 41),
    (0xB4CA5A4E#32, .spineSt 723 2 37 41),
    (0xC01E5A4F#32, .amoSwap true 4 7 37 41),
    (0xC11E5A4F#32, .amoAdd true 4 7 37 41),
    (0xC21E5A4F#32, .amoAnd true 4 7 37 41),
    (0xC31E5A4F#32, .amoOr true 4 7 37 41),
    (0xC41E5A4F#32, .amoXor true 4 7 37 41),
    (0xC51E5A4F#32, .amoMin true 4 7 37 41),
    (0xC61E5A4F#32, .amoMax true 4 7 37 41),
    (0xC71E5A4F#32, .amoMinn true 4 7 37 41),
    (0xC81E5A4F#32, .amoMaxn true 4 7 37 41),
    (0xC91E5A4F#32, .spineCas true 4 7 37 41),
    (0xCA1A5A0F#32, .spineCas2 4 6 37 40),
    (0xCB025A4F#32, .lda true 4 37 41),
    (0xCC1E500F#32, .stl true 4 7 37)
  ] : List (BitVec 32 × Instr)).all fun p => spineWordIs p.1 p.2) = true := by decide +kernel

/-- Branches, jumps and fences: `MAJ` 0x10 to 0x18. -/
theorem test_words_spine_control : (([
    (0xE9EC7950#32, .beq 14971 7 37),
    (0xE9EC7951#32, .bne 14971 7 37),
    (0xE9EC7952#32, .blt 14971 7 37),
    (0xE9EC7953#32, .bge 14971 7 37),
    (0xE9EC7954#32, .bltn 14971 7 37),
    (0xE9EC7955#32, .bgen 14971 7 37),
    (0xC3A59A56#32, .jl 801369 41),
    (0xE9EE5A57#32, .jlr 14971 37 41),
    (0x14000018#32, .spineFence 2 4),
    (0x3C000018#32, .spinePfence)
  ] : List (BitVec 32 × Instr)).all fun p => spineWordIs p.1 p.2) = true := by decide +kernel

/-- Shared registers, system and engine operations: `MAJ` 0x19 to 0x1B. -/
theorem test_words_spine_system : (([
    (0x00B65A59#32, .spineHput 45 37 41),
    (0x04B40A59#32, .spineHget 45 41),
    (0x08B40A59#32, .hpeek 45 41),
    (0x0CB65A59#32, .spineHacc 45 37 41),
    (0x10B65019#32, .hcfg 45 37),
    (0x02140A5A#32, .spineCsrr 133 41),
    (0x0616501A#32, .spineCsrw 133 37),
    (0x0800001A#32, .spineExit),
    (0x084E501A#32, .svc 19 37),
    (0x0C4C001A#32, .spineBrk 19),
    (0x1002501A#32, .spineNap 37),
    (0x14000A5A#32, .spineRdclk 41),
    (0x18000A5A#32, .spineRand 41),
    (0x1C025A5A#32, .spineLoc 37 41),
    (0x001E501B#32, .spineLaunch 7 37),
    (0x011E501B#32, .spineCpy 7 37),
    (0x021E501B#32, .spineQpush 7 37),
    (0x031E5A5B#32, .spineQpushTry 7 37 41),
    (0x041E501B#32, .spineQpop 7 37),
    (0x051E5A5B#32, .spineQpopTry 7 37 41),
    (0x061E501B#32, .spineTiset 7 37)
  ] : List (BitVec 32 × Instr)).all fun p => spineWordIs p.1 p.2) = true := by decide +kernel

/-- Class 0 (14 R313 to R318, 16 R376). The word holds the operation code of 14 R324 and the fields at the places of 14 R313. -/
theorem test_words_lane_class0 : (([
    (0x000000063FD04C0600050001#96, .add { Claims.bare with gp := 0, dst := .v 5, ty := .i32, a := .v 6 true, b := .h 9, md := 1, fs := true }),
    (0xFFFFFE003FD8000891072802#96, .sub { Claims.bare with gn := true, gp := 1, dst := .g 7, ty := .n64, a := .v 8 false, b := .lit, imm := 0xFFFFFE }),
    (0x000000050248380624050403#96, .addx { Claims.bare with gp := 2, e := true, dst := .v 5, ty := .n32, a := .v 6 false, b := .g 7, c := .v 9 true, md := 1 }),
    (0x00ABCD003FC03300B4050804#96, .mul { Claims.bare with gn := true, gp := 3, e := true, dst := .v 5, ty := .i16x2, a := .lit, b := .v 6 false, imm := 0xABCD }),
    (0x000000003FE64CC841090005#96, .mulhi { Claims.bare with gp := 4, dst := .g 9, ty := .i32, a := .v 200 true, b := .v 201 true }),
    (0x0000000042003806D0050C06#96, .mad { Claims.bare with gn := true, gp := 5, dst := .v 5, ty := .n16x2, a := .v 6 false, b := .v 7 false, c := .g 8 }),
    (0x0000000103082003640A2407#96, .madw { Claims.bare with gp := 6, e := true, dst := .v 10, ty := .i64, a := .v 3 false, b := .g 4, c := .v 12 true }),
    (0x00007F003FD8000684051408#96, .min { Claims.bare with gn := true, gp := 0, e := true, dst := .v 5, ty := .n8x4, a := .v 6 false, b := .lit, imm := 0x7F }),
    (0x000000003FC0500810062409#96, .max { Claims.bare with gp := 1, dst := .v 6, ty := .i64, a := .v 8 false, b := .v 10 false }),
    (0x000000043FC7FC06A005100A#96, .abs { Claims.bare with gn := true, gp := 2, dst := .v 5, ty := .i8x4, a := .v 6 true, md := 1 }),
    (0x000000143FC049083406280B#96, .lea { Claims.bare with gp := 3, e := true, dst := .v 6, ty := .n64, a := .g 8, b := .v 9 false, md := 5 }),
    (0x000000143FE03005C603040C#96, .icmp { Claims.bare with gn := true, gp := 4, e := true, dst := .sp 3, ty := .n32, a := .v 5 false, b := .v 6 true, md := 5 }),
    (0x0000052C3FD800065005200D#96, .sel { Claims.bare with gp := 5, dst := .v 5, ty := .b32, a := .v 6 false, b := .lit, imm := 0x5, md := 11 }),
    (0x000000003FC03806E005200E#96, .and { Claims.bare with gn := true, gp := 6, dst := .v 5, ty := .b32, a := .v 6 false, b := .v 7 false }),
    (0x000000003FC850080406280F#96, .or { Claims.bare with gp := 0, e := true, dst := .v 6, ty := .n64, a := .v 8 false, b := .g 10 }),
    (0x123456003FD8010695052010#96, .xor { Claims.bare with gn := true, gp := 1, e := true, dst := .g 5, ty := .b32, a := .g 6, b := .lit, imm := 0x123456 }),
    (0x000000003FE0380620052011#96, .andn { Claims.bare with gp := 2, dst := .v 5, ty := .b32, a := .v 6 false, b := .v 7 true }),
    (0x0000E80002003806B0052012#96, .lut3 { Claims.bare with gn := true, gp := 3, dst := .v 5, ty := .b32, a := .v 6 false, b := .v 7 false, c := .v 8 false, imm := 0xE8 }),
    (0x00000C003FD8000644050013#96, .shl { Claims.bare with gp := 4, e := true, dst := .v 5, ty := .i32, a := .v 6 false, b := .lit, imm := 0xC }),
    (0x000000003FC04808D4062814#96, .shr { Claims.bare with gn := true, gp := 5, e := true, dst := .v 6, ty := .n64, a := .v 8 false, b := .v 9 false }),
    (0x000000003FC8380660052015#96, .sar { Claims.bare with gp := 6, dst := .v 5, ty := .b32, a := .v 6 false, b := .g 7 }),
    (0x000000040200380680052016#96, .shf { Claims.bare with gn := true, gp := 0, dst := .v 5, ty := .b32, a := .v 6 false, b := .v 7 false, c := .v 8 false, md := 1 }),
    (0x000000003FC0380614050417#96, .bfe { Claims.bare with gp := 1, e := true, dst := .v 5, ty := .n32, a := .v 6 false, b := .v 7 false }),
    (0x000A0500C0003806A4052018#96, .bfi { Claims.bare with gn := true, gp := 2, e := true, dst := .v 5, ty := .b32, a := .v 6 false, b := .v 7 false, c := .lit, imm := 0xA05 }),
    (0x000000003FC7F80630052019#96, .popc { Claims.bare with gp := 3, dst := .v 5, ty := .b32, a := .v 6 false }),
    (0x000000023FC7FA21C005201A#96, .clz { Claims.bare with gn := true, gp := 4, dst := .v 5, ty := .b32, a := .h 33, fs := true }),
    (0x000000003FC7FC065405201B#96, .brev { Claims.bare with gp := 5, e := true, dst := .v 5, ty := .b32, a := .v 6 true })
  ] : List (BitVec 96 × Instr)).all fun p => laneWordIs p.1 p.2) = true := by decide +kernel

/-- Class 1 (16 R380). The word holds the operation code of 14 R324 and the fields at the places of 14 R313. -/
theorem test_words_lane_class1 : (([
    (0x000000EC3FC03806E4054080#96, .fadd { Claims.bare with gn := true, gp := 6, e := true, dst := .v 5, ty := .f32, a := .v 6 false, b := .v 7 false, md := 59 }),
    (0x003C00403FD8000600054481#96, .fsub { Claims.bare with gp := 0, dst := .v 5, ty := .f16x2, a := .v 6 false, b := .lit, imm := 0x3C00, md := 16 }),
    (0x000000083FE0380690054882#96, .fmul { Claims.bare with gn := true, gp := 1, dst := .v 5, ty := .bf16x2, a := .v 6 false, b := .v 7 true, md := 2 }),
    (0x000000FC0200380624054083#96, .ffma { Claims.bare with gp := 2, e := true, dst := .v 5, ty := .f32, a := .v 6 false, b := .v 7 false, c := .v 8 false, md := 63 }),
    (0x3F80002C3FD80006B4054084#96, .fmin { Claims.bare with gn := true, gp := 3, e := true, dst := .v 5, ty := .f32, a := .v 6 false, b := .lit, imm := 0x3F8000, md := 11 }),
    (0x000000203FC0390640054485#96, .fmax { Claims.bare with gp := 4, dst := .v 5, ty := .f16x2, a := .g 6, b := .v 7 false, md := 8 }),
    (0x000000F43FC03005D2044086#96, .fcmp { Claims.bare with gn := true, gp := 5, dst := .sp 4, ty := .f32, a := .v 5 false, b := .v 6 false, md := 61 }),
    (0x000000C43FC7F80664054087#96, .frnd { Claims.bare with gp := 6, e := true, dst := .v 5, ty := .f32, a := .v 6 false, md := 49 }),
    (0x000000003FC7F80684054088#96, .fclass { Claims.bare with gn := true, gp := 0, e := true, dst := .v 5, ty := .f32, a := .v 6 false }),
    (0x000000803FC0380610054089#96, .fscale { Claims.bare with gp := 1, dst := .v 5, ty := .f32, a := .v 6 false, b := .v 7 false, md := 32 })
  ] : List (BitVec 96 × Instr)).all fun p => laneWordIs p.1 p.2) = true := by decide +kernel

/-- Class 2 (16 R384). The word holds the operation code of 14 R324 and the fields at the places of 14 R313. -/
theorem test_words_lane_class2 : (([
    (0x000010C43FC7FC06A0054D00#96, .cvt { Claims.bare with gn := true, gp := 2, dst := .v 5, ty := .e4m3x4, a := .v 6 true, imm := 0x10, md := 49 }),
    (0x000010803FC0380634054501#96, .pack2 { Claims.bare with gp := 3, e := true, dst := .v 5, ty := .f16x2, a := .v 6 false, b := .v 7 false, imm := 0x10, md := 32 }),
    (0x0000000C02003806C4051902#96, .pack4 { Claims.bare with gn := true, gp := 4, e := true, dst := .v 5, ty := .i4x8, a := .v 6 false, b := .v 7 false, c := .v 8 false, md := 3 }),
    (0x000000010200380650051103#96, .dot4 { Claims.bare with gp := 5, dst := .v 5, ty := .i8x4, a := .v 6 false, b := .v 7 false, c := .v 8 true }),
    (0x0000000042003806E0051D04#96, .dot8 { Claims.bare with gn := true, gp := 6, dst := .v 5, ty := .n4x8, a := .v 6 false, b := .v 7 false, c := .g 8 }),
    (0x000000400200380604055905#96, .dotf4 { Claims.bare with gp := 0, e := true, dst := .v 5, ty := .e2m3x4, a := .v 6 false, b := .v 7 false, c := .v 8 false, md := 16 }),
    (0x000000C00200380694055D06#96, .dotf8 { Claims.bare with gn := true, gp := 1, e := true, dst := .v 5, ty := .e2m1x8, a := .v 6 false, b := .v 7 false, c := .v 8 false, md := 48 }),
    (0x000000E23FC7F80620054107#96, .rcp { Claims.bare with gp := 2, dst := .v 5, ty := .f32, a := .v 6 false, md := 56, fs := true }),
    (0x000000003FC7F806B0054508#96, .rsq { Claims.bare with gn := true, gp := 3, dst := .v 5, ty := .f16x2, a := .v 6 false }),
    (0x000000203FC7F80644054909#96, .sqrt { Claims.bare with gp := 4, e := true, dst := .v 5, ty := .bf16x2, a := .v 6 false, md := 8 }),
    (0x000000043FC7F806D505410A#96, .exp2 { Claims.bare with gn := true, gp := 5, e := true, dst := .g 5, ty := .f32, a := .v 6 false, md := 1 }),
    (0x000000023FC7FC066005410B#96, .log2 { Claims.bare with gp := 6, dst := .v 5, ty := .f32, a := .v 6 true, fs := true }),
    (0x000000403FC7F8068005410C#96, .sin { Claims.bare with gn := true, gp := 0, dst := .v 5, ty := .f32, a := .v 6 false, md := 16 }),
    (0x000000003FC7F8061405410D#96, .cos { Claims.bare with gp := 1, e := true, dst := .v 5, ty := .f32, a := .v 6 false }),
    (0x3F8000003FC7FB00A405410E#96, .tanh { Claims.bare with gn := true, gp := 2, e := true, dst := .v 5, ty := .f32, a := .lit, imm := 0x3F8000 }),
    (0x000000003FC7F8063005410F#96, .sigm { Claims.bare with gp := 3, dst := .v 5, ty := .f32, a := .v 6 false }),
    (0x0000001402003806C0054110#96, .mxscale { Claims.bare with gn := true, gp := 4, dst := .v 5, ty := .f32, a := .v 6 false, b := .v 7 false, c := .v 8 false, md := 5 })
  ] : List (BitVec 96 × Instr)).all fun p => laneWordIs p.1 p.2) = true := by decide +kernel

/-- Class 3 (16 R391). The word holds the operation code of 14 R324 and the fields at the places of 14 R313. -/
theorem test_words_lane_class3 : (([
    (0x000000003FC7F80854066580#96, .mov { Claims.bare with gp := 5, e := true, dst := .v 6, ty := .afp, a := .v 8 false }),
    (0xDEADBEEE3FC7F8FFE5054181#96, .movk { Claims.bare with gn := true, gp := 6, e := true, dst := .g 5, ty := .f32, imm := 0xDEADBE, md := 59, fs := true }),
    (0x0000005A3FE0380600052182#96, .shfl { Claims.bare with gp := 0, dst := .v 5, ty := .b32, a := .v 6 false, b := .v 7 true, md := 22, fs := true }),
    (0x0000000C3FC7F80592032183#96, .vote { Claims.bare with gn := true, gp := 1, dst := .sp 3, ty := .b32, a := .v 5 false, md := 3 }),
    (0x000000083FC7F80625054184#96, .redsq { Claims.bare with gp := 2, e := true, dst := .g 5, ty := .f32, a := .v 6 false, md := 2 }),
    (0x000000363FC7F808B4062985#96, .scansq { Claims.bare with gn := true, gp := 3, e := true, dst := .v 6, ty := .n64, a := .v 8 false, md := 13, fs := true }),
    (0x000000003FC7F8FF4203FD86#96, .elect { Claims.bare with gp := 4, dst := .sp 3 }),
    (0x000011003FC7FB00D005FD87#96, .rdsp { Claims.bare with gn := true, gp := 5, dst := .v 5, a := .lit, imm := 0x11 }),
    (0x000000003FC7F8FF65052188#96, .emget { Claims.bare with gp := 6, e := true, dst := .g 5, ty := .b32 }),
    (0x00FFFF003FC7FB0077002189#96, .emset { Claims.bare with e := true, ty := .b32, a := .lit, imm := 0xFFFF }),
    (0x000000183FC7F8FF1005218A#96, .pget { Claims.bare with gp := 1, dst := .v 5, ty := .b32, md := 6 }),
    (0x000000003FC7F805A203218B#96, .pset { Claims.bare with gn := true, gp := 2, dst := .sp 3, ty := .b32, a := .v 5 false }),
    (0x0000FF003FC7F8063628258C#96, .hput { Claims.bare with gp := 3, e := true, dst := .sp 40, ty := .i64, a := .v 6 false, imm := 0xFF }),
    (0x0004000A3FC7FC06C629418D#96, .hacc { Claims.bare with gn := true, gp := 4, e := true, dst := .sp 41, ty := .f32, a := .v 6 true, imm := 0x400, md := 2, fs := true }),
    (0x000000003FC7FA2A5005218E#96, .hstat { Claims.bare with gp := 5, dst := .v 5, ty := .b32, a := .h 42 }),
    (0x000000023FC7FA2BE006298F#96, .hget { Claims.bare with gn := true, gp := 6, dst := .v 6, ty := .n64, a := .h 43, fs := true })
  ] : List (BitVec 96 × Instr)).all fun p => laneWordIs p.1 p.2) = true := by decide +kernel

/-- Class 4 (17 R406). The word holds the operation code of 14 R324 and the fields at the places of 14 R313. -/
theorem test_words_lane_class4 : (([
    (0xFFFFF8BA3FE0310504084200#96, .ld { Claims.bare with gp := 0, e := true, dst := .v 8, ty := .f32, a := .g 5, b := .v 6 true, imm := 0xFFFFF8, md := 46, fs := true }),
    (0x000010C40207F80697002601#96, .st { Claims.bare with gn := true, gp := 1, e := true, ty := .i64, a := .v 6 false, c := .v 8 false, imm := 0x10, md := 49 }),
    (0x000008083FC7F90621052202#96, .ldu { Claims.bare with gp := 2, dst := .g 5, ty := .b32, a := .g 6, imm := 0x8, md := 2 }),
    (0x000040043FC03105B300FE03#96, .prf { Claims.bare with gn := true, gp := 3, a := .g 5, b := .v 6 false, imm := 0x40, md := 1 }),
    (0x000004024200390644050604#96, .ldcf { Claims.bare with gp := 4, e := true, dst := .v 5, ty := .n32, a := .g 6, b := .v 7 false, c := .g 8, imm := 0x4, fs := true }),
    (0x000001003FC03906D4051205#96, .ldc { Claims.bare with gn := true, gp := 5, e := true, dst := .v 5, ty := .i8x4, a := .g 6, b := .v 7 false, imm := 0x1 }),
    (0x000004AF0200390660052206#96, .atom { Claims.bare with gp := 6, dst := .v 5, ty := .b32, a := .g 6, b := .v 7 false, c := .v 8 true, imm := 0x4, md := 43, fs := true }),
    (0x000008600280490880062A07#96, .cas { Claims.bare with gn := true, gp := 0, dst := .v 6, ty := .n64, a := .g 8, b := .v 9 false, c := .v 10 false, imm := 0x8, md := 24 }),
    (0x000010A00300310514082A08#96, .cas2 { Claims.bare with gp := 1, e := true, dst := .v 8, ty := .n64, a := .g 5, b := .v 6 false, c := .v 12 false, imm := 0x10, md := 40 }),
    (0x000000383FC7F8FF7700FE09#96, .fence { Claims.bare with e := true, md := 14 }),
    (0x0000004C3FC7F8FF7300FE0A#96, .pfence { Claims.bare with md := 19 }),
    (0x000000003FC7F906C105220B#96, .loc { Claims.bare with gn := true, gp := 4, dst := .g 5, ty := .b32, a := .g 6 })
  ] : List (BitVec 96 × Instr)).all fun p => laneWordIs p.1 p.2) = true := by decide +kernel

/-- Class 5 (17 R416, 18 R449). The word holds the operation code of 14 R324 and the fields at the places of 14 R313. -/
theorem test_words_lane_class5 : (([
    (0x000002003FC0390654050A80#96, .lds { Claims.bare with gp := 5, e := true, dst := .v 5, ty := .i16x2, a := .g 6, b := .v 7 false, imm := 0x2 }),
    (0x0000040802003906E7002281#96, .sts { Claims.bare with gn := true, gp := 6, e := true, ty := .b32, a := .g 6, b := .v 7 false, c := .v 8 false, imm := 0x4, md := 2 }),
    (0x000004120200390601092281#96, .stsArm { Claims.bare with gp := 0, dst := .g 9, ty := .b32, a := .g 6, b := .v 7 false, c := .v 8 false, imm := 0x4, md := 4, fs := true }),
    (0x000004180200390690050282#96, .atoms { Claims.bare with gn := true, gp := 1, dst := .v 5, ty := .i32, a := .g 6, b := .v 7 false, c := .v 8 false, imm := 0x4, md := 6 }),
    (0x000000063FC0390624084283#96, .ldsc { Claims.bare with gp := 2, e := true, dst := .v 8, ty := .f32, a := .g 6, b := .v 7 false, md := 1, fs := true }),
    (0x8000030241C7F906B700FE84#96, .lsarm { Claims.bare with gn := true, gp := 3, e := true, a := .g 6, c := .g 7, imm := 0x800003, fs := true }),
    (0x000004003FC0390640052285#96, .lsstat { Claims.bare with gp := 4, dst := .v 5, ty := .b32, a := .g 6, b := .v 7 false, imm := 0x4 }),
    (0x07F4039242083906D300FE86#96, .cpy { Claims.bare with gn := true, gp := 5, a := .g 6, b := .g 7, c := .g 8, imm := 0x7F403, md := 36, fs := true }),
    (0x03F80070420839066700FE87#96, .cpys { Claims.bare with gp := 6, e := true, a := .g 6, b := .g 7, c := .g 8, imm := 0x3F800, md := 28 }),
    (0x000000023FC7F9068505FE88#96, .cred { Claims.bare with gn := true, gp := 0, e := true, dst := .g 5, a := .g 6, fs := true })
  ] : List (BitVec 96 × Instr)).all fun p => laneWordIs p.1 p.2) = true := by decide +kernel

/-- Class 6 (18 R436). The word holds the operation code of 14 R324 and the fields at the places of 14 R313. -/
theorem test_words_lane_class6 : (([
    (0x00C001043FC834081A044700#96, .mma { Claims.bare with gp := 1, k := true, dst := .sp 4, ty := .f16x2, a := .v 8 true, b := .g 6, imm := 0xC001, md := 1 }),
    (0x0010000242083906A2051301#96, .mml { Claims.bare with gn := true, gp := 2, dst := .sp 5, ty := .i8x4, a := .g 6, b := .g 7, c := .g 8, imm := 0x1000, fs := true }),
    (0x000000003FC7F8FF36066702#96, .mmz { Claims.bare with gp := 3, e := true, dst := .sp 6, ty := .afp }),
    (0x800010043FC7F906C6074303#96, .mmld { Claims.bare with gn := true, gp := 4, e := true, dst := .sp 7, ty := .f32, a := .g 6, imm := 0x800010, md := 1 }),
    (0x000040023FC7F90652084B04#96, .mmst { Claims.bare with gp := 5, dst := .sp 8, ty := .bf16x2, a := .g 6, imm := 0x40, fs := true }),
    (0x00003F003FC7F8FFE0F00305#96, .mmrd { Claims.bare with gn := true, gp := 6, dst := .v 240, ty := .i32, imm := 0x3F }),
    (0x0000030C3FC7F81006034306#96, .mmwr { Claims.bare with gp := 0, e := true, dst := .sp 3, ty := .f32, a := .v 16 false, imm := 0x3, md := 3 }),
    (0x000007003FC7F90696026707#96, .scan { Claims.bare with gn := true, gp := 1, e := true, dst := .sp 2, ty := .afp, a := .g 6, imm := 0x7 }),
    (0x000005003FC7F80823006708#96, .cset { Claims.bare with gp := 2, ty := .afp, a := .v 8 false, imm := 0x5 }),
    (0x000006043FC7F8FFB3006708#96, .csetId { Claims.bare with gn := true, gp := 3, ty := .afp, imm := 0x6, md := 1 }),
    (0x000004003FC7F8FF44086709#96, .cget { Claims.bare with gp := 4, e := true, dst := .v 8, ty := .afp, imm := 0x4 }),
    (0x0000090C3FC7FB00D405230A#96, .tstat { Claims.bare with gn := true, gp := 5, e := true, dst := .v 5, ty := .b32, a := .lit, imm := 0x9, md := 3 }),
    (0x00000B003FC043006300FF0B#96, .tiset { Claims.bare with gp := 6, a := .lit, b := .v 8 false, imm := 0xB }),
    (0x000000003FC7F9098008FF0C#96, .tiget { Claims.bare with gn := true, gp := 0, dst := .v 8, a := .g 9 }),
    (0x00000014420038061405030D#96, .pfxh { Claims.bare with gp := 1, e := true, dst := .v 5, ty := .i32, a := .v 6 false, b := .v 7 false, c := .g 8, md := 5 }),
    (0x000000204207F8FFA700030D#96, .pfxhClr { Claims.bare with gn := true, gp := 2, e := true, ty := .i32, c := .g 8, md := 8 })
  ] : List (BitVec 96 × Instr)).all fun p => laneWordIs p.1 p.2) = true := by decide +kernel

/-- Class 7 (17 R420, 13 R296). The word holds the operation code of 14 R324 and the fields at the places of 14 R313. -/
theorem test_words_lane_class7 : (([
    (0xFFFFF0003FC7F8FF3300FF80#96, .bra { Claims.bare with gp := 3, imm := 0xFFFFF0 }),
    (0x000010003FC7F8FFC300FF81#96, .bru { Claims.bare with gn := true, gp := 4, imm := 0x10 }),
    (0x000000003FC7FC067700FF82#96, .jmp { Claims.bare with e := true, a := .v 6 true }),
    (0x000000043FC7F9067405FF83#96, .call { Claims.bare with e := true, dst := .v 5, a := .g 6, md := 1 }),
    (0x000000003FC7F8057300FF84#96, .ret { Claims.bare with a := .v 5 false }),
    (0x000000003FC7F8FF7300FF85#96, .rejoin Claims.bare),
    (0x000000043FC7F8FF7700FF85#96, .rejoinS { Claims.bare with e := true, md := 1 }),
    (0x000000003FC7F8FFB700FF86#96, .exit { Claims.bare with gn := true, gp := 3, e := true }),
    (0xFFFFFF003FC7F9067300FF87#96, .yield { Claims.bare with a := .g 6, imm := 0xFFFFFF }),
    (0x000000003FC7F8FFD300FF88#96, .bar { Claims.bare with gn := true, gp := 5 }),
    (0x000000003FC7F8FF6700FF89#96, .barar { Claims.bare with gp := 6, e := true }),
    (0x000000003FC7F8FF8700FF8A#96, .barwt { Claims.bare with gn := true, gp := 0, e := true }),
    (0xFFFFFF003FC7FB001300FF8B#96, .nap { Claims.bare with gp := 1, a := .lit, imm := 0xFFFFFF }),
    (0x000000003FC83906A300FF8C#96, .launch { Claims.bare with gn := true, gp := 2, a := .g 6, b := .g 7 }),
    (0x000000003FC041063700FF8D#96, .qpush { Claims.bare with gp := 3, e := true, a := .g 6, b := .v 8 false }),
    (0x0000001C3FC04106C700FF8D#96, .qpushTry { Claims.bare with gn := true, gp := 4, e := true, a := .g 6, b := .v 8 false, md := 7 }),
    (0x000001003FC7FB005008FF8E#96, .qpop { Claims.bare with gp := 5, dst := .v 8, a := .lit, imm := 0x1 }),
    (0x000002243FC7FB00E008FF8E#96, .qpopTry { Claims.bare with gn := true, gp := 6, dst := .v 8, a := .lit, imm := 0x2, md := 9 }),
    (0x000000003FC7F9060603FF8F#96, .tmig { Claims.bare with gp := 0, e := true, dst := .sp 3, a := .g 6 }),
    (0x000004003FC7F8FF94062B90#96, .csrr { Claims.bare with gn := true, gp := 1, e := true, dst := .v 6, ty := .n64, imm := 0x4 }),
    (0x000007003FC7F80623002391#96, .csrw { Claims.bare with gp := 2, ty := .b32, a := .v 6 false, imm := 0x7 }),
    (0xABCDEF003FC7F8FFB300FF92#96, .trap { Claims.bare with gn := true, gp := 3, imm := 0xABCDEF }),
    (0x000123003FC7F8FF4700FF93#96, .brk { Claims.bare with gp := 4, e := true, imm := 0x123 }),
    (0x000000003FC7F8FF7700FF94#96, .tretRetry { Claims.bare with e := true }),
    (0x000000043FC7F8FF7700FF94#96, .tretSkip { Claims.bare with e := true, md := 1 }),
    (0x000000003FC7F8FF8300FF95#96, .nop { Claims.bare with gn := true, gp := 0 }),
    (0x000000023FC7F8FF15062B96#96, .rdclk { Claims.bare with gp := 1, e := true, dst := .g 6, ty := .n64, fs := true }),
    (0x000000003FC7F8FFA4052397#96, .rand { Claims.bare with gn := true, gp := 2, e := true, dst := .v 5, ty := .b32 })
  ] : List (BitVec 96 × Instr)).all fun p => laneWordIs p.1 p.2) = true := by decide +kernel

/-! ### Ill-formed terms: each breaks the one check that its line names -/

def refusedAll (l : List Instr) : Bool := l.all fun i => !i.wf

/-- `add.i32 v5, v6, v7`. -/
def addOp : LaneOp := { Claims.bare with dst := .v 5, ty := .i32, a := .v 6 false, b := .v 7 false }
/-- `add.i64 v4, v6, v8`. -/
def addOp64 : LaneOp := { addOp with ty := .i64, dst := .v 4, b := .v 8 false }
def rcpOp : LaneOp := { Claims.bare with dst := .v 5, ty := .f32, a := .v 6 false }
def ldOp : LaneOp := { Claims.bare with dst := .v 4, ty := .b32, a := .g 2, b := .v 1 false, imm := 8 }
def stOp : LaneOp := { Claims.bare with ty := .b32, a := .g 2, b := .v 1 false, c := .v 8 false, imm := 8 }
def lanesOp : LaneOp := { Claims.bare with dst := .v 5, ty := .b32, a := .g 6, b := .v 7 false }

theorem test_wf_bases : ([Instr.add addOp, .add addOp64, .rcp rcpOp, .ld ldOp, .st stOp, .lds lanesOp] : List Instr).all Instr.wf = true := by
  decide +kernel

/-- What every lane word meets (14 R313 to R318, 07 R167). -/
theorem test_wf_lane_row : refusedAll [
    .add { addOp with ty := .f32 },                         -- a type that the row does not list
    .add { addOp with dst := .sp 5 }, .add { addOp with dst := .none },  -- a destination space that it does not admit
    .icmp { addOp with dst := .sp 8 },                      -- a predicate above 7
    .hput { Claims.bare with ty := .i32, dst := .sp 64, a := .v 6 false, imm := 1 },  -- a window entry above 63
    .mmz { Claims.bare with ty := .f32, dst := .sp 16 },    -- a tile above 15
    .add { addOp64 with dst := .v 5 }, .add { addOp64 with dst := .v 254 },  -- a pair from 0 to 252, even
    .add { addOp64 with a := .v 7 false }, .add { addOp64 with b := .v 254 false },
    .add { addOp with c := .v 8 false },                    -- an unused slot that is not v255
    .add { addOp with c := .v 255 true }, .add { addOp with a := .v 255 true },  -- last use of v255
    .hstat { Claims.bare with ty := .b32, dst := .v 5, a := .v 6 false },  -- a source space that the row does not admit
    .cred { Claims.bare with dst := .g 5, a := .v 6 false },
    .emset { Claims.bare with ty := .b32, a := .v 6 false },
    .hput { Claims.bare with ty := .i32, dst := .sp 1, a := .lit, imm := 1 },
    .csetId { Claims.bare with ty := .afp, a := .v 6 false, md := 1 },
    .add { addOp with md := 2 },                            -- a modifier bit that the row does not list
    .add { addOp with imm := 1 },                           -- an immediate with no literal
    .add { addOp with b := .lit, ty := .i16x2, imm := 0x10000 },  -- high literal bits
    .add { addOp with b := .lit, ty := .i8x4, imm := 0x100 },
    .dot8 { addOp with c := .lit, ty := .i4x8, imm := 0x10 },
    .mov { addOp64 with ty := .afp, a := .lit, b := .v 255 false },  -- a type without literals
    .lut3 { addOp with ty := .b32, c := .v 8 false, imm := 0x100 },  -- more than eight bits
    .lut3 { addOp with ty := .b32, c := .lit, imm := 1 },   -- no literal beside a use of the immediate
    .bra { Claims.bare with a := .lit },
    .nop { Claims.bare with imm := 1 },
    .add { addOp with a := .lit, b := .lit },               -- two literals
    .add { addOp with a := .h 1, b := .h 2, fs := true },   -- two window entries
    .add { addOp with k := true },                          -- `K` outside `mma`
    .add { addOp with fs := true }                          -- `FS` on a short-latency result
  ] = true := by decide +kernel

/-- Limits of one row (16 R376 to R401). -/
theorem test_wf_lane_arithmetic : refusedAll [
    .icmp { addOp with dst := .sp 1, md := 6 },             -- a comparison above 5
    .shfl { addOp with ty := .b32, md := 0x18 },            -- a mode above 5
    .cvt { Claims.bare with dst := .v 5, ty := .f32, a := .v 6 false, imm := 0x10 },  -- a type to itself
    .cvt { Claims.bare with dst := .v 5, ty := .f32, a := .v 6 false, imm := 0x20 },  -- an MX source
    .cvt { Claims.bare with dst := .v 5, ty := .f32, a := .v 6 false, imm := 0x0B },  -- a code not listed
    .cvt { Claims.bare with dst := .v 5, ty := .f32, a := .v 6 false, imm := 0x40 },
    .cvt { Claims.bare with dst := .v 5, ty := .f32, a := .v 7 false, imm := 0x09 },  -- an odd pair of the source type
    .cvt { Claims.bare with dst := .v 5, ty := .f32, a := .lit, imm := 0 },
    .cvt { Claims.bare with dst := .v 5, ty := .f32, a := .v 6 false, md := 2 },
    .cvt { Claims.bare with dst := .v 5, ty := .f16x2, a := .v 6 false, imm := 0x10, md := 1 },  -- `.nosat` off FP8
    .cvt { Claims.bare with dst := .v 5, ty := .i32, a := .v 6 false, imm := 0x10, md := 0x10 },  -- rounding to an integer
    .cvt { Claims.bare with dst := .v 5, ty := .i32, a := .v 6 false, imm := 0x18 },  -- E8M0 only with f32
    .cvt { Claims.bare with dst := .v 5, ty := .f32, a := .v 6 false, imm := 0x18, k := true },
    .cvt { Claims.bare with dst := .v 5, ty := .i32, a := .v 6 false, imm := 0x10, fs := true },
    .pack2 { addOp with ty := .f16x2, imm := 0x11 },        -- a source type other than i32, n32, f32
    .pack2 { addOp with ty := .i8x4, imm := 0 }, .pack2 { addOp with ty := .f16x2, imm := 0x10, md := 1 },
    .pack4 { addOp with ty := .f16x2, c := .v 8 false, imm := 0x10 },
    .pack4 { addOp with ty := .i8x4, c := .v 8 false, md := 2 },  -- a half of a word of eight, for four
    .pack4 { addOp with ty := .e2m3x4, c := .v 8 false, imm := 0x10, md := 4 },  -- `.nosat` off FP8
    .pack4 { addOp with ty := .i4x8, c := .v 8 false, md := 0x10 },
    .mxscale { addOp with ty := .f32, md := 0x10, c := .v 8 false },
    .movk { Claims.bare with dst := .v 5, ty := .i32 }, .movk { Claims.bare with dst := .v 5, ty := .b32, a := .v 6 false },
    .movk { Claims.bare with dst := .v 5, ty := .b32, c := .v 6 false }, .movk { Claims.bare with dst := .v 5, ty := .b32, k := true },
    .vote { Claims.bare with dst := .sp 1, ty := .none }, .vote { Claims.bare with dst := .v 5, ty := .b32, md := 3, a := .v 6 false },
    .vote { Claims.bare with dst := .v 5, md := 1 },
    .redsq { rcpOp with ty := .f32, md := 3 }, .redsq { rcpOp with ty := .b32, md := 2 }, .scansq { rcpOp with ty := .i32, md := 6 },
    .rdsp { Claims.bare with dst := .v 5, a := .lit, imm := 18 }, .rdsp { Claims.bare with dst := .v 5, a := .g 1 },
    .emset { Claims.bare with ty := .b32, a := .lit, gp := 1 },  -- a guard on an unguarded instruction
    .hput { Claims.bare with ty := .i32, dst := .sp 1, a := .v 6 false, imm := 0 },  -- a count from 1
    .hacc { Claims.bare with ty := .i32, dst := .sp 1, a := .v 6 false, imm := 0 },
    .hacc { Claims.bare with ty := .i32, dst := .sp 1, a := .v 6 false, imm := 1025 },
    .hacc { Claims.bare with ty := .i32, dst := .sp 1, a := .v 6 false, imm := 1, md := 5 }
  ] = true := by decide +kernel

/-- Memory, local-store and copy rows (14 R325, 17 R404 to R419, 18 R449). -/
theorem test_wf_lane_memory : refusedAll [
    .ld { ldOp with ty := .f16x2 }, .ld { ldOp with k := true },
    .ld { ldOp with a := .v 3 false }, .ld { ldOp with a := .v 2 false }, .ld { ldOp with a := .v 2 false, b := .v 255 true },  -- address forms
    .ld { ldOp with b := .g 1 }, .ld { ldOp with b := .lit }, .ld { ldOp with b := .v 255 true },
    .ld { ldOp with md := 3 }, .ld { ldOp with ty := .i64, md := 2 }, .ld { ldOp with ty := .i8x4, md := 1 },  -- vector forms
    .ld { ldOp with dst := .v 5, md := 1 }, .ld { ldOp with dst := .v 6, md := 2 }, .ld { ldOp with dst := .v 252, md := 2 },
    .ld { ldOp with dst := .g 4 }, .ld { ldOp with c := .v 8 false },
    .ld { ldOp with md := 4 }, .ld { ldOp with md := 0x34 },     -- a scope without order; a scope above 4
    .st { stOp with dst := .v 1 }, .st { stOp with c := .h 1 }, .st { stOp with c := .v 255 true }, .st { stOp with c := .g 126, md := 2 },
    .ldu { ldOp with dst := .g 4 }, .ldu { ldOp with a := .v 2 false, b := .v 255 false }, .ldu { ldOp with b := .v 255 false, dst := .g 127, md := 1 },
    .prf { Claims.bare with a := .g 2, md := 2 }, .prf { Claims.bare with a := .g 2, fs := true }, .prf { Claims.bare with a := .g 2, dst := .v 1 },
    .ldcf ldOp, .ldc { ldOp with md := 4 },
    .atom { stOp with dst := .v 5, c := .lit }, .atom { stOp with dst := .g 5 }, .atom { stOp with dst := .v 5, md := 7 },
    .atom { stOp with dst := .v 5, ty := .f32, md := 2 }, .atom { stOp with dst := .v 5, md := 5 }, .atom { stOp with dst := .v 5, md := 0x30 },
    .cas { stOp with dst := .v 5, ty := .f32 }, .cas { stOp with dst := .v 5, md := 1 },
    .cas2 { stOp with dst := .v 8, ty := .n32 }, .cas2 { stOp with dst := .v 6, ty := .n64 }, .cas2 { stOp with dst := .v 252, ty := .n64 },
    .cas2 { stOp with dst := .v 8, ty := .n64, c := .v 10 false }, .cas2 { stOp with dst := .v 8, ty := .n64, md := 1 },
    .fence Claims.bare, .fence { Claims.bare with md := 0x15 }, .fence { Claims.bare with md := 1, gp := 1 },
    .pfence { Claims.bare with md := 3 }, .pfence { Claims.bare with md := 0x13, gn := true },
    .loc { lanesOp with md := 1 }, .lsstat { lanesOp with ty := .i32 },
    .lds { lanesOp with md := 4 }, .ldsc { lanesOp with c := .v 8 false },
    .sts { stOp with md := 4 }, .sts { stOp with dst := .g 1 }, .stsArm { stOp with dst := .g 1 }, .stsArm { stOp with md := 4 },
    .sts { stOp with md := 8 }, .atoms { stOp with dst := .v 5, md := 8 },
    .lsarm { Claims.bare with a := .g 1, c := .v 2 false },
    .cpy { Claims.bare with a := .g 2, b := .g 3, c := .g 4, md := 0x28 },       -- a scope above 4
    .cpy { Claims.bare with a := .g 2, b := .g 3, c := .g 4, md := 3 },          -- no fourth direction
    .cpy { Claims.bare with a := .g 2, b := .g 3, c := .g 4, md := 5 },          -- a count only where the local store is written
    .cpy { Claims.bare with a := .g 2, b := .g 3, c := .g 4, imm := 0x800 },     -- a count without arming
    .cpy { Claims.bare with a := .g 2, b := .g 3, c := .g 4, imm := 1 },         -- a tensor identifier without the bit
    .cpy { Claims.bare with a := .g 2, b := .g 3, c := .g 4, md := 1, imm := 0x400 },
    .cpys { Claims.bare with a := .g 2, b := .g 3, c := .g 4, md := 1 }, .cpys { Claims.bare with a := .g 2, b := .g 3, c := .g 4, imm := 0x400 }
  ] = true := by decide +kernel

/-- Matrix rows (18 R436 to R447). -/
theorem test_wf_matrix :
    let mm : LaneOp := { Claims.bare with dst := .sp 4, ty := .f16x2, a := .v 8 false, b := .g 5 }
    let ml : LaneOp := { Claims.bare with dst := .sp 4, ty := .f16x2, a := .g 1, b := .g 2, c := .g 3, imm := 1 }
    Instr.wf (.mma mm) = true ∧ Instr.wf (.mml ml) = true
    ∧ refusedAll [
      .mma { mm with ty := .f32 }, .mma { mm with dst := .v 4 }, .mma { mm with b := .v 5 false }, .mma { mm with md := 2 },
      .mma { mm with a := .v 9 false }, .mma { mm with a := .v 248 false }, .mma { mm with ty := .e2m3x4, a := .v 240 false },
      .mma { mm with a := .g 8 }, .mma { mm with a := .v 255 true }, .mma { mm with c := .v 9 false }, .mma { mm with ty := .mxi8 },
      .mma { mm with c := .v 255 true }, .mma { mm with dst := .sp 5, md := 1 }, .mma { mm with ty := .i8x4, md := 1 },
      .mml { ml with imm := 0 }, .mml { ml with imm := 4097 }, .mml { ml with c := .v 255 false }, .mml { ml with dst := .sp 5, md := 1 },
      .mmz { Claims.bare with dst := .sp 3, ty := .afp }, .mmz { Claims.bare with dst := .sp 3, ty := .b32 },
      .mmld { Claims.bare with dst := .sp 3, ty := .afp, a := .g 1 }, .mmst { Claims.bare with dst := .sp 3, ty := .f16x2, a := .g 1 },
      .mmrd { Claims.bare with dst := .v 4, ty := .f32 }, .mmrd { Claims.bare with dst := .v 248, ty := .f32 },
      .mmrd { Claims.bare with dst := .v 8, ty := .f32, imm := 64 },
      .mmwr { Claims.bare with dst := .sp 4, ty := .f32, a := .v 4 false }, .mmwr { Claims.bare with dst := .sp 4, ty := .f32, a := .v 8 false, md := 1 },
      .mmwr { Claims.bare with dst := .sp 5, ty := .f32, a := .v 8 false, md := 2 }, .mmwr { Claims.bare with dst := .sp 4, ty := .f32, a := .v 8 false, md := 3 },
      .mmwr { Claims.bare with dst := .sp 4, ty := .i32, a := .v 8 false, md := 2 },
      .scan { Claims.bare with dst := .sp 3, ty := .afp, a := .g 1 }, .scan { Claims.bare with dst := .sp 2, ty := .afp, a := .g 1, imm := 8 },
      .cset { Claims.bare with ty := .afp, a := .g 1 }, .csetId { Claims.bare with ty := .afp }, .cget { Claims.bare with ty := .afp, dst := .v 255 },
      .tstat { Claims.bare with dst := .v 5, ty := .b32, a := .lit, md := 0x10 },
      .tiset { Claims.bare with a := .lit, b := .g 1 }, .tiget { Claims.bare with a := .lit, dst := .g 1 },
      .pfxh { Claims.bare with ty := .i32, dst := .v 5, a := .v 6 false, b := .v 7 false, c := .v 8 false },
      .pfxhClr { Claims.bare with ty := .i32, c := .g 1 }] = true := by decide +kernel

/-- Control rows, whole and of the spine (13 R296, 14 R326 to R330, 15, 17 R420 to R431). -/
theorem test_wf_control : refusedAll [
    .jmp { Claims.bare with a := .g 1, gp := 2 }, .jmp { Claims.bare with a := .lit }, .ret { Claims.bare with a := .g 1, gn := true },
    .call { Claims.bare with dst := .v 5, a := .g 1 },
    .call { Claims.bare with dst := .v 5, a := .g 1, md := 1, imm := 4 }, .call { Claims.bare with dst := .v 5, gp := 1 },
    .rejoin { Claims.bare with md := 1 }, .rejoinS Claims.bare, .rejoin { Claims.bare with gp := 1 }, .yield { Claims.bare with a := .g 1, gp := 1 },
    .tretRetry Claims.bare, .tretSkip { Claims.bare with e := true }, .tretRetry { Claims.bare with e := true, md := 1 },
    .qpush { Claims.bare with a := .g 1, b := .v 8 false, md := 2 }, .qpush { Claims.bare with a := .g 1, b := .v 8 false, md := 1 },
    .qpushTry { Claims.bare with a := .g 1, b := .v 8 false }, .qpop { Claims.bare with a := .g 1, dst := .none },
    .csrr { Claims.bare with dst := .v 4, ty := .b32, imm := 4 }, .csrr { Claims.bare with dst := .v 4, ty := .n64, imm := 0 },
    .csrr { Claims.bare with dst := .v 4, ty := .b32, imm := 8 }, .csrw { Claims.bare with a := .v 4 false, ty := .b32, imm := 0x80 },
    .spineFcvt 0x14 1 2, .spineLd 0 false 4 1 2, .spineLd 0 true 3 1 2, .spineSt 0 4 1 2, .amoSwap true 6 1 2 3, .amoAdd true 6 1 2 3,
    .amoAnd true 6 1 2 3, .amoOr true 6 1 2 3, .amoXor true 6 1 2 3, .amoMin true 6 1 2 3, .amoMax true 6 1 2 3, .amoMinn true 6 1 2 3,
    .amoMaxn true 6 1 2 3, .spineCas true 6 1 2 3, .spineCas2 6 2 1 4, .spineCas2 0 3 1 4, .spineCas2 0 2 1 5, .lda true 5 1 2, .stl true 5 1 2,
    .spineFence 0 1, .spineFence 1 5, .spineHput 64 1 2, .spineHget 64 1, .hpeek 64 1, .spineHacc 64 1 2, .hcfg 64 1,
    .spineCsrr 0x07 1, .spineCsrr 0x87 1, .spineCsrw 0x7F 1, .svc 0 1
  ] = true := by decide +kernel

/-- Words that the decoder rejects by name: a header in an instruction position, a reserved lane opcode, major opcode 0 and
0x1D, a minor value not listed, a field that must be zero, an index in space g above 127 (14 R314, R324, R328, R329). -/
theorem test_decode_refusals :
    ([0x000000003FC7F8FF77000000#96, 0x000000003FC7F8FF7700001C#96, 0x000000003FC7F8FF770003FF#96, 0x000000003FC7F98074050007#96]
      : List (BitVec 96)).all (fun w => !(decodeLane w).isOk) = true
    ∧ ([0x00000000#32, 0x0000001D#32, 0x1A000001#32, 0x16040001#32, 0xC0000006#32, 0x1C000019#32, 0x0700001B#32] : List Word).all
        (fun w => !(decodeSpine w).isOk) = true := by decide +kernel

/-- The next state of an outcome. -/
def nextOf : Outcome → Option State
  | .next t => some t
  | _ => none

/-! ### More states for the statements -/

/-- `SpineIntegerResults`, `SpineBranchesAndJumps`: a thread; a register to jump through that is aligned, and one that is not. -/
theorem witness_SpineIntegerResults_SpineBranchesAndJumps : curSpine thread1 = some (1, thr thread1)
    ∧ (getX (thr thread1) 1 + (0x3FFC : BitVec 14).signExtend 64).toNat % 4 = 0
    ∧ (getX (thr thread1) 2 + (0 : BitVec 14).signExtend 64).toNat % 4 = 1 := by decide +kernel

/-- `SpineFloatResults`, `LaneIntegerResults`: a code of every format that is a number, and one of binary32 of each other kind;
scales and a product that is not a number. -/
theorem witness_numbers :
    (Claims.formats.all fun f => decide (f.maxFinite < 2 ^ f.width) && (match f.dec f.maxFinite with | .fin _ m _ => m != 0 | _ => false)
      && (match f.dec 0 with | .fin _ m _ => m == 0 | _ => false)) = true
    ∧ fB32.dec 0x7F800000 = .inf false ∧ fB32.dec 0xFF800000 = .inf true ∧ (fB32.dec 0x7FC00000).isNan = true
    ∧ (fB32.dec 0x7F800001).isSnan = true ∧ 254 < 255 ∧ (Claims.floatTypes.map (·.1)).contains .e2m1x8 = true := by decide +kernel

/-- `DeviceEvents`: both ways of each condition. -/
theorem witness_DeviceEvents :
    let s := State.reset
    let on := ((nextOf (exec .powerOnReset s)).bind fun t => nextOf (exec .wipeComplete t)).getD s
    s.dev.ready = false ∧ on.dev.ready = true ∧ s.throttle = 0 ∧ s.dev.lc = 1
    ∧ ({ s with arg := { s.arg with ok := true, ok2 := true } } : State).arg.ok = true := by decide +kernel

/-- `RecoveryEvents`: a device that is not recovering; one that is and has not walked the rings; one that has. -/
theorem witness_RecoveryEvents :
    let s := State.reset
    let r : State := { s with dev := { s.dev with rcvact := true } }
    let w : State := { s with dev := { s.dev with rcvact := true, rcvWalked := true } }
    s.dev.rcvact = false ∧ (r.dev.rcvact = true ∧ r.dev.rcvWalked = false) ∧ (w.dev.rcvact = true ∧ w.dev.rcvWalked = true) := by
  decide

/-- `MemoryBytes`: a memory of three bytes; writing a byte that an unlisted address reads as removes it. -/
theorem witness_MemoryBytes : Memory.wf (memWriteN [] 5 [1, 2, 3]) = true ∧ memWrite (memWriteN [] 5 [1, 2]) 5 0 = memWriteN [] 6 [2]
    ∧ memRead (memWriteN [] 5 [1, 2, 3]) 7 = 3 ∧ memRead (memWriteN [] 5 [1, 2, 3]) 8 = 0 := by decide

/-! ### Results that the spec's worked examples give -/

/-- x3 after one instruction. -/
def x3After (i : Instr) (s : State) : Option Dword := (nextOf (exec i s)).map fun t => getX (thr t) 3

/-- 15 R346: the division table. -/
theorem test_division :
    let s := threadWith [(1, 0xFFFFFFFFFFFFFFF9), (2, 2), (5, 7), (6, 0x80000000), (7, 0xFFFFFFFFFFFFFFFF), (8, 9)]
    x3After (.spineDiv false 2 1 3) s = some 0xFFFFFFFFFFFFFFFD ∧ x3After (.spineRem false 2 1 3) s = some 0xFFFFFFFFFFFFFFFF
    ∧ x3After (.spineDivn false 0 5 3) s = some 0xFFFFFFFFFFFFFFFF ∧ x3After (.spineRem false 0 5 3) s = some 7
    ∧ x3After (.spineDiv true 7 6 3) s = some 0xFFFFFFFF80000000 ∧ x3After (.spineDivn true 0 8 3) s = some 0xFFFFFFFFFFFFFFFF := by
  decide +kernel

/-- 12 R279: conversions from binary32 in mode 00. -/
theorem test_conversions :
    let cv (t : LType) (nosat : Bool) (x : Nat) := convert t .f32 .rne nosat false x
    cv .e4m3x4 false 0x3E99999A = 0x2A ∧ cv .e4m3x4 false 0x43EB0000 = 0x7E ∧ cv .e4m3x4 true 0x43EB0000 = 0x7F
    ∧ cv .e4m3x4 true 0x43E60000 = 0x7E ∧ cv .e5m2x4 false 0x43EB0000 = 0x5F ∧ cv .e4m3x4 false 0x3A83126F = 0x01
    ∧ cv .e4m3x4 false 0xC47A0000 = 0xFE ∧ cv .e2m1x8 false 0x40A66666 = 0x7 ∧ cv .e8m0x4 false 0x3E99999A = 0x7D := by decide +kernel

/-- 16, the order of a squad sum: 2^24 and thirty-one ones sum to 16,777,246; without lane 0 to 31. -/
theorem test_squad_sum :
    let a (l : Nat) : Nat := if l = 0 then 0x4B800000 else 0x3F800000
    squadReduce 0 .f32 false 0xFFFFFFFF a = 0x4B80000F ∧ squadReduce 0 .f32 false 0xFFFFFFFE a = 0x41F80000 := by decide +kernel

/-- 18 R447: tokens 5, 5, 7, 5 under the root, then 9 under node 1 and under node 4. -/
theorem test_prefix_nodes :
    let one := pfxLanes (fun _ => 0xFFFFFFFF) (fun l => [5, 5, 7, 5].getD l 0) [0, 1, 2, 3] []
    let two := pfxLanes (fun l => [1, 4].getD l 0) (fun _ => 9) [0, 1] one.1
    one.2 = ([(0, 0, true), (1, 0, false), (2, 1, true), (3, 0, false)], false)
    ∧ two.2 = ([(0, 2, true), (1, 0xFFFFFFFF, false)], false) := by decide +kernel

/-- 12 R285: the bits 1 0 | 0 | 1 1 0 | 1 1 1 | 0 of the example's code decode to 0x38, 0x00, 0x40, 0xB8, 0x00 (held reversed). -/
theorem test_ecb_codes :
    let lens := (List.range 256).map fun k => if k = 0 then 1 else if k = 0x38 then 2 else if k = 0x40 ∨ k = 0xB8 then 3 else 0
    let all := ecbTable lens
    ecbKraft lens = true ∧ (ecbRun all [true, false, false, true, true, false, true, true, true, false] 5 0 all []).map (·.1)
      = some [0x00, 0xB8, 0x40, 0x00, 0x38] := by decide +kernel

/-- 12 R284: the check value of CRC-32C over the digits 1 to 9. -/
theorem test_crc32c : crc32c [0x31, 0x32, 0x33, 0x34, 0x35, 0x36, 0x37, 0x38, 0x39] = 0xE3069283 := by decide +kernel

/-- 16 R398: with `pm` all ones, a write of 0x3FF narrows `em`; with lane 31 gone, a write of all ones gives 0x7FFFFFFF. -/
theorem test_emset :
    let em (pm : Word) (g : Dword) := (nextOf (exec (.emset { Claims.bare with ty := .b32, a := .g 4 })
      (squadWith fun q => { q with pm := pm, em := pm, g := [(4, g)] }))).map fun t => (sqd t).em
    em 0xFFFFFFFF 0x3FF = some 0x3FF ∧ em 0x7FFFFFFF 0xFFFFFFFF = some 0x7FFFFFFF := by decide +kernel

/-- 16 R377: `add.i32` wraps and with `.sat` clamps; `addx.cy` gives the carry of the whole sum. -/
theorem test_lane_add : aluAdd .i32 false 0x7FFFFFFF 1 = 0x80000000 ∧ aluAdd .i32 true 0x7FFFFFFF 1 = 0x7FFFFFFF
    ∧ aluAddx true 0xFFFFFFFF 0 3 = 1 ∧ aluAddx false 0xFFFFFFFF 0 3 = 0 := by decide +kernel

end Sys2Proof.Tests
end

/-! ## Traps of squads (13 R290 to R295): the trap record, the handler's entry and what stands before it -/

namespace Sys2Proof.SquadTraps

open Sys2Proof Sys2Proof.Machine

/-! ### Finite maps and lists -/

theorem mset_mset_self {α : Type} (m : FMap α) (n : Nat) (x y : α) : mset (mset m n x) n y = mset m n y := by
  induction m with
  | nil => simp [mset, mset_cons]
  | cons hd t ih =>
    obtain ⟨k, v⟩ := hd
    by_cases hlt : n < k
    · simp [mset_cons, hlt]
    · by_cases heq : n = k <;> simp [mset_cons, hlt, heq, ih]

theorem mmod_mmod {α : Type} (m : FMap α) (n : Nat) (f g : α → α) : mmod (mmod m n f) n g = mmod m n fun x => g (f x) := by
  cases h : mget m n <;> simp [mmod, h, mget_mset_self, mset_mset_self]

theorem mgetD_of_mget {α : Type} {m : FMap α} {n : Nat} {v d : α} (h : mget m n = some v) : mgetD m n d = v := by
  simp [mgetD, h]

theorem getD_setAt_self {α : Type} (l : List α) (i : Nat) (x d : α) (h : i < l.length) : (setAt l i x).getD i d = x := by
  induction l generalizing i with
  | nil => simp at h
  | cons a l ih =>
    cases i with
    | zero => rfl
    | succ i => simpa [setAt] using ih i (by simpa using h)

theorem getD_setAt_ne {α : Type} (l : List α) (i k : Nat) (x d : α) (h : k ≠ i) : (setAt l i x).getD k d = l.getD k d := by
  induction l generalizing i k with
  | nil => rfl
  | cons a l ih =>
    cases i with
    | zero => cases k with
      | zero => exact absurd rfl h
      | succ k => rfl
    | succ i => cases k with
      | zero => rfl
      | succ k => simpa [setAt] using ih i k (by omega)

/-! ### Fields of byte lists -/

@[simp] theorem length_bytesOf (n x : Nat) : (bytesOf n x).length = n := by
  induction n generalizing x with
  | zero => rfl
  | succ n ih => simp [bytesOf, ih]

@[simp] theorem length_zeros (n : Nat) : (zeros n).length = n := List.length_replicate

/-- A field that begins past the first part of a list lies in the rest. -/
theorem fieldOf_append_right (a b : List Byte) (i n : Nat) (h : a.length ≤ i) :
    fieldOf (a ++ b) i n = fieldOf b (i - a.length) n := by
  induction n generalizing i with
  | zero => rfl
  | succ n ih => simp only [fieldOf, List.getD_append_right _ _ _ _ h, ih (i + 1) (by omega), Nat.sub_add_comm h]

/-- A field that ends within the first part of a list does not see the rest. -/
theorem fieldOf_append_left (a b : List Byte) (i n : Nat) (h : i + n ≤ a.length) :
    fieldOf (a ++ b) i n = fieldOf a i n := by
  induction n generalizing i with
  | zero => rfl
  | succ n ih => simp only [fieldOf, List.getD_append _ _ _ _ (show i < a.length by omega), ih (i + 1) (by omega)]

theorem fieldOf_cons (b : Byte) (bs : List Byte) (i n : Nat) : fieldOf (b :: bs) (i + 1) n = fieldOf bs i n :=
  fieldOf_append_right [b] bs (i + 1) n (by simp)

theorem fieldOf_bytesOf (n x : Nat) : fieldOf (bytesOf n x) 0 n = x % 256 ^ n := by
  induction n generalizing x with
  | zero => simp [fieldOf, Nat.mod_one]
  | succ n ih =>
    rw [bytesOf, fieldOf, fieldOf_cons, ih, Nat.pow_succ', Nat.mod_mul]
    rfl

/-- A word of n bytes, written as bytes, is read back. -/
theorem fieldOf_bytesOf_toNat (n : Nat) {w : Nat} (x : BitVec w) (h : 2 ^ w = 256 ^ n := by decide) :
    fieldOf (bytesOf n x.toNat) 0 n = x.toNat := by
  rw [fieldOf_bytesOf, ← h, Nat.mod_eq_of_lt x.isLt]

theorem fieldOf_zeros (k i n : Nat) : fieldOf (zeros k) i n = 0 := by
  induction n generalizing i with
  | zero => rfl
  | succ n ih =>
    have hd : (zeros k).getD i 0 = 0 := by
      rw [zeros, List.getD_eq_getElem?_getD, List.getElem?_replicate]
      split <;> rfl
    rw [fieldOf, ih, hd]
    rfl

/-- A whole part of a list of parts begins where the parts before it end. -/
theorem fieldOf_flatten_part (ps : List (List Byte)) (rest : List Byte) (k n : Nat) (h : k < ps.length)
    (hn : ps[k].length = n) :
    fieldOf (ps.flatten ++ rest) ((ps.take k).map List.length).sum n = fieldOf ps[k] 0 n := by
  induction ps generalizing k with
  | nil => simp at h
  | cons p ps ih =>
    rw [List.flatten_cons, List.append_assoc]
    cases k with
    | zero => exact fieldOf_append_left _ _ _ _ (by simpa using hn.ge)
    | succ k =>
      rw [List.take_succ_cons, List.map_cons, List.sum_cons, fieldOf_append_right _ _ _ _ (Nat.le_add_right _ _),
        Nat.add_sub_cancel_left]
      exact ih k (by simpa using h) hn

/-- The k-th of parts of equal length. -/
theorem fieldOf_flatten_map {α : Type} (f : α → List Byte) (w : Nat) (hw : ∀ a, (f a).length = w) (l : List α) (k : Nat)
    (h : k < l.length) : fieldOf (l.map f).flatten (w * k) w = fieldOf (f l[k]) 0 w := by
  induction l generalizing k with
  | nil => simp at h
  | cons a l ih =>
    rw [List.map_cons, List.flatten_cons]
    cases k with
    | zero => rw [fieldOf_append_left _ _ _ _ (by simp [hw])]; simp
    | succ k =>
      rw [fieldOf_append_right _ _ _ _ (by rw [hw]; exact Nat.le_mul_of_pos_right w k.succ_pos), hw, Nat.mul_succ,
        Nat.add_sub_cancel, ih k (by simpa using h)]
      simp

/-! ### The trap record (13 R293) -/

section Record
variable (tr : Trap) (tem resume : Word)

/-- The eight bytes that the record holds for a lane. -/
def laneBytes (l : Nat) : List Byte := bytesOf 8 (if inMask tr.tlm l then (tr.vals.getD l 0).toNat else 0)

/-- The parts of the record before the lanes' values, in their order. -/
def recordParts : List (List Byte) :=
  [[tr.code], [if tr.deferred then 1 else 0], zeros 2, bytesOf 4 tr.tlm.toNat, bytesOf 4 tem.toNat, bytesOf 4 tr.tpc.toNat,
   bytesOf 4 resume.toNat, zeros 4, bytesOf 8 tr.aux.toNat, bytesOf 12 tr.word.toNat, zeros 20]

theorem trapRecord_eq :
    trapRecord tr tem resume = (recordParts tr tem resume).flatten ++ (laneIdx.map (laneBytes tr)).flatten := by
  simp [trapRecord, recordParts, zeros]
  rfl

theorem length_trapRecord : (trapRecord tr tem resume).length = 320 := by
  simp [trapRecord_eq, recordParts, laneBytes, laneIdx]

/-- A field of the record is the part that stands at its place. -/
theorem fieldOf_trapRecord (k i n : Nat) (h : k < 11)
    (hi : (((recordParts tr tem resume).take k).map List.length).sum = i) (hn : ((recordParts tr tem resume)[k]'h).length = n) :
    fieldOf (trapRecord tr tem resume) i n = fieldOf ((recordParts tr tem resume)[k]'h) 0 n := by
  rw [trapRecord_eq, ← hi]
  exact fieldOf_flatten_part (recordParts tr tem resume) _ k n h hn

theorem record_code : fieldOf (trapRecord tr tem resume) 0 1 = tr.code.toNat := by simp [trapRecord, fieldOf]

theorem record_rflg : fieldOf (trapRecord tr tem resume) 1 1 = if tr.deferred then 1 else 0 := by
  cases h : tr.deferred <;> simp [trapRecord, fieldOf, h]

theorem record_tlm : fieldOf (trapRecord tr tem resume) 4 4 = tr.tlm.toNat :=
  (fieldOf_trapRecord tr tem resume 3 4 4 (by decide) rfl rfl).trans (fieldOf_bytesOf_toNat 4 _)

theorem record_tem : fieldOf (trapRecord tr tem resume) 8 4 = tem.toNat :=
  (fieldOf_trapRecord tr tem resume 4 8 4 (by decide) rfl rfl).trans (fieldOf_bytesOf_toNat 4 _)

theorem record_tpc : fieldOf (trapRecord tr tem resume) 12 4 = tr.tpc.toNat :=
  (fieldOf_trapRecord tr tem resume 5 12 4 (by decide) rfl rfl).trans (fieldOf_bytesOf_toNat 4 _)

theorem record_resume : fieldOf (trapRecord tr tem resume) 16 4 = resume.toNat :=
  (fieldOf_trapRecord tr tem resume 6 16 4 (by decide) rfl rfl).trans (fieldOf_bytesOf_toNat 4 _)

theorem record_aux : fieldOf (trapRecord tr tem resume) 24 8 = tr.aux.toNat :=
  (fieldOf_trapRecord tr tem resume 8 24 8 (by decide) rfl rfl).trans (fieldOf_bytesOf_toNat 8 _)

theorem record_word : fieldOf (trapRecord tr tem resume) 32 12 = tr.word.toNat :=
  (fieldOf_trapRecord tr tem resume 9 32 12 (by decide) rfl rfl).trans (fieldOf_bytesOf_toNat 12 _)

/-- Bytes 2 and 3, 20 to 23 and 44 to 63 are zero. -/
theorem record_zeros : fieldOf (trapRecord tr tem resume) 2 2 = 0 ∧ fieldOf (trapRecord tr tem resume) 20 4 = 0
    ∧ fieldOf (trapRecord tr tem resume) 44 20 = 0 :=
  ⟨(fieldOf_trapRecord tr tem resume 2 2 2 (by decide) rfl rfl).trans (fieldOf_zeros ..),
   (fieldOf_trapRecord tr tem resume 7 20 4 (by decide) rfl rfl).trans (fieldOf_zeros ..),
   (fieldOf_trapRecord tr tem resume 10 44 20 (by decide) rfl rfl).trans (fieldOf_zeros ..)⟩

theorem record_lane (l : Nat) (hl : l < 32) :
    fieldOf (trapRecord tr tem resume) (64 + 8 * l) 8 = if inMask tr.tlm l then (tr.vals.getD l 0).toNat else 0 := by
  have hparts : (recordParts tr tem resume).flatten.length = 64 := rfl
  have hlane : laneIdx[l]'hl = l := by simp [show laneIdx = List.range 32 from rfl]
  rw [trapRecord_eq, fieldOf_append_right _ _ _ _ (by omega), hparts, Nat.add_sub_cancel_left,
    fieldOf_flatten_map (laneBytes tr) 8 (fun _ => length_bytesOf ..) laneIdx l hl, hlane, laneBytes, fieldOf_bytesOf]
  split
  · exact Nat.mod_eq_of_lt (tr.vals.getD l 0).isLt
  · rfl

end Record

/-! ### What a trap's arrival and entry write (13 R292, R294) -/

/-- The team once a trap of a squad has arrived. -/
def arrivedTeam (id : Nat) (t : Team) : Team :=
  { t with hwait := t.hwait ++ [(id, t.trapNo)], trapNo := t.trapNo + 1 }

/-- Where the squad goes on after the handler: where it would have, or at the instruction that trapped. -/
def resumeAt (q : Squad) (tr : Trap) : Word := if tr.deferred then q.resume else tr.tpc

/-- The squad at the first instruction of its handler. -/
def enteredSquad (thand : Dword) (tr : Trap) (resume : Word) (q : Squad) : Squad :=
  { q with
    tcause := BitVec.ofNat 32 (tr.code.toNat + (if tr.deferred then 0x100 else 0) + 0x200)
    tpc := tr.tpc, tlm := tr.tlm, tem := q.em, em := q.pm, resume := resume
    pos := BitVec.ofNat 32 (bitsOf thand.toNat 0 32), inVolley := false, held := none, wait := .none, code := []
    saved := some ⟨q.hdr, q.hpos, q.inVolley, q.granted, q.arrived⟩
    granted := none, arrived := false, eject := none, leaving := false }

/-- The record that the squad's entry leaves. -/
def entryRecord (q : Squad) (tr : Trap) : List Byte := trapRecord tr q.em (resumeAt q tr)

/-- A segment with the squad's record at `TREC`. -/
def recordedSeg (thand : Dword) (q : Squad) (tr : Trap) (g : Segment) : Segment :=
  g.write (bitsOf thand.toNat 32 19) (entryRecord q tr)

/-- The team whose squad is in its handler. -/
def enteredTeam (thand : Dword) (r id : Nat) (q : Squad) (tr : Trap) (t : Team) : Team :=
  { t.setSeg r (recordedSeg thand q tr (t.seg r)) with
    hsq := some q.index, hwait := t.hwait.filter fun w => w != (id, tr.arrival) }

section Entry
variable {s : State} {id : Nat} {q : Squad} {tm : Team} {tr : Trap}

theorem modTeam_modTeam (s : State) (k : Nat) (f g : Team → Team) :
    modTeam (modTeam s k f) k g = modTeam s k fun t => g (f t) := by
  simp only [modTeam, mmod_mmod]

theorem modSquad_restore (hq : mget s.squads id = some q) (f : Squad → Squad) (sq : FMap Squad) (tms : FMap Team) :
    { modSquad s id f with squads := sq, teams := tms } = { s with squads := sq, teams := tms } := by
  simp only [modSquad, hq]

theorem inOrder_restore (s : State) (die key rank width : Nat) :
    { inOrder s die key rank width with squads := s.squads, teams := s.teams } = inOrder s die key rank width := by
  rw [← inOrder_squads s die key rank width, ← inOrder_teams s die key rank width]

theorem teamOf_of_mget {k : Nat} (ht : mget s.teams k = some tm) : teamOf s k = tm := mgetD_of_mget ht

theorem trapArrives_one (s : State) (id : Nat) (q : Squad) :
    trapArrives s id q 1
      = modTeam (inOrder s (q.core / 256) (ordTrap q.team) (q.index + 1) (2 ^ 16)) q.team (arrivedTeam id) := rfl

@[simp] theorem trapArrives_squads (s : State) (id : Nat) (q : Squad) (n : Nat) : (trapArrives s id q n).squads = s.squads :=
  inOrder_squads ..

@[simp] theorem trapArrives_grids (s : State) (id : Nat) (q : Squad) (n : Nat) : (trapArrives s id q n).grids = s.grids :=
  inOrder_grids ..

theorem getTeam_trapArrives (s : State) (id : Nat) (q : Squad) (k : Nat) :
    mget (trapArrives s id q 1).teams k
      = if k = q.team then (mget s.teams q.team).map (arrivedTeam id) else mget s.teams k := by
  rw [trapArrives_one, getTeam_modTeam, inOrder_teams]

/-- Entering writes the squad's registers, the record and the team's holder of the handler. -/
theorem enterHandler_eq (hq : mget s.squads id = some q) (hc : q.cur = some tr) (ht : mget s.teams q.team = some tm) :
    enterHandler s id = modSquad (modTeam s q.team (enteredTeam tm.thand (ownRank tm q.core) id q tr)) id
      (enteredSquad tm.thand tr (resumeAt q tr)) := by
  simp only [enterHandler, hq, hc, teamOf_of_mget ht]
  exact congrArg (modSquad · id (enteredSquad tm.thand tr (resumeAt q tr)))
    (modTeam_modTeam s q.team (fun t => t.setSeg (ownRank tm q.core) (recordedSeg tm.thand q tr (t.seg (ownRank tm q.core)))) _)

/-! ### A trap's turn: it ends the team, enters, or waits (13 R292, R294, R295) -/

/-- The trap as it has been numbered. -/
def numbered (tm : Team) (tr : Trap) : Trap := { tr with arrival := tm.trapNo }

/-- A trap of the squad has arrived and is its own. -/
def dueState (s : State) (id : Nat) (q : Squad) (tr : Trap) : State :=
  modSquad (trapArrives s id q 1) id fun q => { q with cur := some tr }

theorem getSquad_dueState (hq : mget s.squads id = some q) (k : Nat) :
    mget (dueState s id q tr).squads k = if k = id then some { q with cur := some tr } else mget s.squads k := by
  rw [dueState, getSquad_modSquad, trapArrives_squads, hq]
  rfl

theorem getTeam_dueState (ht : mget s.teams q.team = some tm) (k : Nat) :
    mget (dueState s id q tr).teams k = if k = q.team then some (arrivedTeam id tm) else mget s.teams k := by
  rw [dueState, modSquad_teams, getTeam_trapArrives, ht]
  rfl

theorem dueState_restore (hq : mget s.squads id = some q) :
    { dueState s id q tr with squads := s.squads, teams := s.teams }
      = inOrder s (q.core / 256) (ordTrap q.team) (q.index + 1) (2 ^ 16) := by
  rw [dueState, modSquad_restore (by rw [trapArrives_squads, hq])]
  exact inOrder_restore ..

theorem hasHandler_trapArrives (ht : mget s.teams q.team = some tm) :
    hasHandler (trapArrives s id q 1) q.team = hasHandler s q.team := by
  have hteam : teamOf (trapArrives s id q 1) q.team = arrivedTeam id tm :=
    teamOf_of_mget (by rw [getTeam_trapArrives, if_pos rfl, ht]; rfl)
  simp only [hasHandler, lrOf, gridOf, hteam, trapArrives_grids, teamOf_of_mget ht]
  rfl

/-- A trap raised in the handler, or without one, ends the team. -/
theorem takeTrap_ends (hq : mget s.squads id = some q) (ht : mget s.teams q.team = some tm)
    (h : inHandler q = true ∨ hasHandler s q.team = false) :
    takeTrap s id tr = trapEnd (trapArrives s id q 1) q.team tr.code := by
  simp only [takeTrap, hq, trapDue, trapArrives_squads, hasHandler_trapArrives ht]
  exact if_pos h

/-- With a handler, and outside it, the squad enters when it may, and waits when not. -/
theorem takeTrap_handler (hq : mget s.squads id = some q) (ht : mget s.teams q.team = some tm)
    (hin : inHandler q = false) (hh : hasHandler s q.team = true) :
    takeTrap s id tr =
      if mayEnter (dueState s id q (numbered tm tr)) id (arrivedTeam id tm)
      then enterHandler (dueState s id q (numbered tm tr)) id
      else modSquad (dueState s id q (numbered tm tr)) id fun q => { q with wait := .handler, held := none } := by
  have hteam : teamOf (dueState s id q (numbered tm tr)) q.team = arrivedTeam id tm :=
    teamOf_of_mget (by rw [getTeam_dueState ht, if_pos rfl])
  have hnot : ¬ (inHandler q = true ∨ hasHandler s q.team = false) := by simp [hin, hh]
  simp only [takeTrap, hq, trapDue, trapArrives_squads, hasHandler_trapArrives ht, if_neg hnot, teamOf_of_mget ht, ← hteam]
  rfl

/-- A trap that is due changes nobody's wait. -/
theorem waitsEntry_dueState (hq : mget s.squads id = some q) (k : Nat) :
    waitsEntry (dueState s id q tr) k = waitsEntry s k := by
  rw [waitsEntry, waitsEntry, getSquad_dueState hq]
  split
  · next hk => rw [hk, hq]; rfl
  · rfl

/-- The first of the team's traps that is entitled to enter: one of the squad, or of a squad that waits. -/
def firstEntitled (s : State) (id : Nat) (tm : Team) : Option (Nat × Nat) :=
  tm.hwait.find? fun w => w.1 == id || waitsEntry s w.1

/-- The squad may enter when no squad of the team is in the handler and no other is entitled before it: its own trap
has just joined the end of the line. -/
theorem mayEnter_dueState (hq : mget s.squads id = some q) :
    mayEnter (dueState s id q tr) id (arrivedTeam id tm) = true ↔
      tm.hsq = none ∧ ∀ w, firstEntitled s id tm = some w → w.1 = id := by
  have hline : (arrivedTeam id tm).hwait.find? (fun w => w.1 == id || waitsEntry (dueState s id q tr) w.1)
      = (firstEntitled s id tm).or (some (id, tm.trapNo)) := by
    simp [arrivedTeam, firstEntitled, waitsEntry_dueState hq, List.find?_append]
  rw [mayEnter, hline]
  cases firstEntitled s id tm <;> simp [arrivedTeam]

/-- The squad stands in its handler with the trap that was due. -/
def enteredState (s : State) (id : Nat) (q : Squad) (tm : Team) (tr : Trap) : State :=
  modSquad (modTeam (dueState s id q tr) q.team (enteredTeam tm.thand (ownRank tm q.core) id q tr)) id
    (enteredSquad tm.thand tr (resumeAt q tr))

theorem getSquad_enteredState (hq : mget s.squads id = some q) (k : Nat) :
    mget (enteredState s id q tm tr).squads k
      = if k = id then some (enteredSquad tm.thand tr (resumeAt q tr) { q with cur := some tr }) else mget s.squads k := by
  rw [enteredState, getSquad_modSquad, modTeam_squads, getSquad_dueState hq, getSquad_dueState hq, if_pos rfl]
  split <;> rfl

theorem getTeam_enteredState (ht : mget s.teams q.team = some tm) (k : Nat) :
    mget (enteredState s id q tm tr).teams k
      = if k = q.team then some (enteredTeam tm.thand (ownRank tm q.core) id q tr (arrivedTeam id tm))
        else mget s.teams k := by
  rw [enteredState, modSquad_teams, getTeam_modTeam, getTeam_dueState ht, getTeam_dueState ht, if_pos rfl]
  split <;> rfl

theorem enteredState_restore (hq : mget s.squads id = some q) :
    { enteredState s id q tm tr with squads := s.squads, teams := s.teams }
      = inOrder s (q.core / 256) (ordTrap q.team) (q.index + 1) (2 ^ 16) := by
  rw [enteredState, modSquad_restore (by rw [modTeam_squads, getSquad_dueState hq, if_pos rfl])]
  exact dueState_restore hq

/-- The squad enters. -/
theorem takeTrap_enters (hq : mget s.squads id = some q) (ht : mget s.teams q.team = some tm)
    (hin : inHandler q = false) (hh : hasHandler s q.team = true) (hfree : tm.hsq = none)
    (hturn : ∀ w, firstEntitled s id tm = some w → w.1 = id) :
    takeTrap s id tr = enteredState s id q tm (numbered tm tr) := by
  rw [takeTrap_handler hq ht hin hh, if_pos ((mayEnter_dueState hq).mpr ⟨hfree, hturn⟩),
    enterHandler_eq (by rw [getSquad_dueState hq, if_pos rfl]) rfl (by rw [getTeam_dueState ht, if_pos rfl])]
  rfl

/-- The squad waits its turn. -/
theorem takeTrap_waits (hq : mget s.squads id = some q) (ht : mget s.teams q.team = some tm)
    (hin : inHandler q = false) (hh : hasHandler s q.team = true)
    (hturn : tm.hsq ≠ none ∨ ∃ w, firstEntitled s id tm = some w ∧ w.1 ≠ id) :
    takeTrap s id tr =
      modSquad (dueState s id q (numbered tm tr)) id fun q => { q with wait := .handler, held := none } := by
  have hnot : ¬ mayEnter (dueState s id q (numbered tm tr)) id (arrivedTeam id tm) = true := by
    rw [mayEnter_dueState hq]
    rintro ⟨hfree, hown⟩
    obtain hbusy | ⟨w, hw, hother⟩ := hturn
    · exact hbusy hfree
    · exact hother (hown w hw)
  rw [takeTrap_handler hq ht hin hh, if_neg hnot]

/-! ### The words that an entry writes (13 R291, R292) -/

/-- `CODE` in bits 7:0, `DEF` in bit 8 and `INH` in bit 9 do not overlap. -/
theorem tcause_eq_or (code : Byte) (d : Bool) :
    BitVec.ofNat 32 (code.toNat + (if d then 0x100 else 0) + 0x200)
      = code.setWidth 32 ||| (if d then 0x100 else 0) ||| 0x200 := by
  have hor (k : Nat) : code.toNat + 2 ^ 8 * k = code.toNat ||| 2 ^ 8 * k := by
    rw [Nat.add_comm, Nat.or_comm]
    exact Nat.two_pow_add_eq_or_of_lt code.isLt k
  have hbits (k : Nat) : BitVec.ofNat 32 (code.toNat + 2 ^ 8 * k) = code.setWidth 32 ||| BitVec.ofNat 32 (2 ^ 8 * k) := by
    rw [hor, BitVec.ofNat_or, BitVec.ofNat_toNat]
  cases d with
  | false => simpa using hbits 2
  | true => simpa [BitVec.or_assoc, Nat.add_assoc] using hbits 3

theorem pos_eq_setWidth (thand : Dword) : BitVec.ofNat 32 (bitsOf thand.toNat 0 32) = thand.setWidth 32 := by
  apply BitVec.eq_of_toNat_eq
  simp [bitsOf]

theorem seg_enteredTeam_self (thand : Dword) (r : Nat) (t : Team) (h : r < t.segs.length) :
    (enteredTeam thand r id q tr t).seg r = recordedSeg thand q tr (t.seg r) :=
  getD_setAt_self _ _ _ _ h

theorem seg_enteredTeam_ne (thand : Dword) (r k : Nat) (t : Team) (h : k ≠ r) :
    (enteredTeam thand r id q tr t).seg k = t.seg k :=
  getD_setAt_ne _ _ _ _ _ h

/-- The trap that enters leaves the line that it joined last. -/
theorem hwait_enteredTeam (thand : Dword) (r : Nat) :
    (enteredTeam thand r id q (numbered tm tr) (arrivedTeam id tm)).hwait = tm.hwait.filter fun w => w != (id, tm.trapNo) := by
  simp [enteredTeam, arrivedTeam, numbered, List.filter_append]

end Entry

/-- Settles O58: each way that a trap can go is one of `takeTrap_enters`, `takeTrap_waits` and `takeTrap_ends`; the record's
fields are those of `trapRecord`. -/
theorem squadTrapEntry : Obligations.SquadTrapEntry := by
  intro s id q tm tr hq ht s' trec r first
  refine ⟨fun hin hh hfree hturn hr => ?_, fun hin hh hturn => ?_, fun h => takeTrap_ends hq ht h⟩
  · obtain ⟨hz2, hz20, hz44⟩ := record_zeros (numbered tm tr) q.em (resumeAt q tr)
    have hs' : s' = enteredState s id q tm (numbered tm tr) := takeTrap_enters hq ht hin hh hfree hturn
    rw [hs']
    refine ⟨enteredSquad tm.thand (numbered tm tr) (resumeAt q tr) { q with cur := some (numbered tm tr) },
      enteredTeam tm.thand r id q (numbered tm tr) (arrivedTeam id tm), entryRecord q (numbered tm tr),
      (getSquad_enteredState hq id).trans (if_pos rfl), (getTeam_enteredState ht q.team).trans (if_pos rfl),
      tcause_eq_or .., rfl, rfl, rfl, rfl, pos_eq_setWidth _, rfl, rfl, rfl, rfl, rfl, rfl, rfl, hwait_enteredTeam .., rfl,
      seg_enteredTeam_self _ _ _ hr, fun k hk => seg_enteredTeam_ne _ _ _ _ hk,
      -- the record
      length_trapRecord .., record_code .., record_rflg .., hz2, hz20, hz44, record_tlm .., record_tem .., record_tpc ..,
      record_resume .., record_aux .., record_word .., record_lane _ _ _,
      -- the rest
      fun k hk => (getSquad_enteredState hq k).trans (if_neg hk), fun k hk => (getTeam_enteredState ht k).trans (if_neg hk),
      enteredState_restore hq⟩
  · have hs' : s' = _ := takeTrap_waits hq ht hin hh hturn
    rw [hs']
    refine ⟨{ q with cur := some (numbered tm tr), wait := .handler, held := none }, arrivedTeam id tm, ?_, ?_,
      rfl, rfl, rfl, rfl, rfl, rfl, rfl, rfl, rfl⟩
    · rw [getSquad_modSquad, if_pos rfl, getSquad_dueState hq, if_pos rfl]
      rfl
    · rw [modSquad_teams, getTeam_dueState ht, if_pos rfl]

end Sys2Proof.SquadTraps

/-! ## Integers of the spine (15 R345 to R347): what the ALU computes on naturals, as operations on words of any width -/

namespace Sys2Proof.SpineIntegers

open Sys2Proof Sys2Proof.Machine

/-! ### Signed numbers of a word -/

theorem sxNat_toNat {n : Nat} (hn : 0 < n) (a : BitVec n) : sxNat n a.toNat = a.toInt := by
  have hhalf : 2 ^ n = 2 * 2 ^ (n - 1) := (mul_pow_sub_one hn.ne' 2).symm
  have ha := a.isLt
  rw [sxNat, BitVec.toInt_eq_toNat_cond, Nat.mod_eq_of_lt ha]
  norm_cast
  rw [Nat.mod_eq_of_lt ha]
  split <;> split <;> omega

theorem ofNat_toBits (n : Nat) (x : Int) : BitVec.ofNat n (toBits n x) = BitVec.ofInt n x := by
  have hlt : (x % ((2 ^ n : Nat) : Int)).toNat < 2 ^ n :=
    (Int.toNat_lt_of_ne_zero (by positivity)).2 (Int.emod_lt_of_pos _ (by positivity))
  apply BitVec.eq_of_toNat_eq
  rw [toBits, BitVec.toNat_ofNat, BitVec.toNat_ofInt, Nat.mod_eq_of_lt hlt]

/-- The high half of a double word that a number stands in modulo 2^(2n). -/
theorem extractLsb'_ofInt (n : Nat) (z : Int) :
    (BitVec.ofInt (2 * n) z).extractLsb' n n = BitVec.ofInt n (z / (2 ^ n : Nat)) := by
  have hpos : (0 : Int) < ((2 ^ n : Nat) : Int) := by positivity
  have hz : 0 ≤ z % (2 ^ (2 * n) : Nat) := Int.emod_nonneg _ (by positivity)
  have hq : 0 ≤ z / (2 ^ n : Nat) % (2 ^ n : Nat) := Int.emod_nonneg _ hpos.ne'
  -- reducing modulo 2^(2n) takes multiples of 2^n from the quotient by 2^n
  have hhigh : z % (2 ^ (2 * n) : Nat) / (2 ^ n : Nat) % (2 ^ n : Nat) = z / (2 ^ n : Nat) % (2 ^ n : Nat) := by
    rw [two_mul, pow_add, Nat.cast_mul, Int.emod_def z, mul_assoc, Int.sub_mul_ediv_left _ _ hpos.ne',
      Int.sub_mul_emod_self_left]
  apply BitVec.eq_of_toNat_eq
  rw [← Int.natCast_inj, BitVec.extractLsb'_toNat, BitVec.toNat_ofInt, BitVec.toNat_ofInt, Int.toNat_of_nonneg hq,
    Nat.shiftRight_eq_div_pow, Int.natCast_mod, Int.natCast_div, Int.toNat_of_nonneg hz, hhigh]

/-! ### Bits of a word, counted and reversed from the lowest on -/

theorem exists_concat {n : Nat} (x : BitVec (n + 1)) : ∃ (y : BitVec n) (b : Bool), x = y.concat b :=
  ⟨_, _, BitVec.concat_extractLsb'_getLsb.symm⟩

theorem toNat_concat_div {n : Nat} (x : BitVec n) (b : Bool) : (x.concat b).toNat / 2 = x.toNat := by
  have := b.toNat_lt
  rw [BitVec.toNat_concat]
  omega

theorem toNat_concat_mod {n : Nat} (x : BitVec n) (b : Bool) : (x.concat b).toNat % 2 = b.toNat := by
  have := b.toNat_lt
  rw [BitVec.toNat_concat]
  omega

theorem popNat_toNat {n : Nat} (x : BitVec n) : popNat n x.toNat = x.cpop.toNat := by
  induction n with
  | zero => simp [popNat, BitVec.of_length_zero]
  | succ n ih =>
    obtain ⟨y, b, rfl⟩ := exists_concat x
    rw [popNat, toNat_concat_div, toNat_concat_mod, ih, BitVec.toNat_cpop_concat]

theorem reverse_concat {n : Nat} (x : BitVec n) (b : Bool) : (x.concat b).reverse = BitVec.cons b x.reverse := by
  apply BitVec.eq_of_getLsbD_eq
  intro i hi
  rw [BitVec.getLsbD_reverse, BitVec.getLsbD_cons, BitVec.getLsbD_reverse, BitVec.getMsbD_concat]
  by_cases h : i = n
  · simp [h]
  · simp [h, show i < n by omega]

theorem revNat_toNat {n : Nat} (x : BitVec n) : revNat n x.toNat = x.reverse.toNat := by
  induction n with
  | zero => simp [revNat, BitVec.of_length_zero]
  | succ n ih =>
    obtain ⟨y, b, rfl⟩ := exists_concat x
    rw [revNat, toNat_concat_div, toNat_concat_mod, ih, reverse_concat, BitVec.toNat_cons', Nat.shiftLeft_eq]

/-- The highest one bit stands below the leading zeros. -/
theorem log2_toNat {n : Nat} {x : BitVec n} (hn : 0 < n) (hx : x ≠ 0#n) : x.clz.toNat + 1 + x.toNat.log2 = n := by
  have h0 : x.toNat ≠ 0 := fun h => hx (BitVec.eq_of_toNat_eq h)
  have hlo := BitVec.two_pow_sub_clz_le_toNat_of_ne_zero hn hx
  have hhi := BitVec.toNat_lt_two_pow_sub_clz (x := x)
  have hc : x.clz.toNat < n := by
    by_contra hge
    rw [Nat.sub_eq_zero_of_le (not_lt.1 hge)] at hhi
    omega
  have hlog : x.toNat.log2 = n - 1 - x.clz.toNat :=
    (Nat.log2_eq_iff h0).2 ⟨hlo, by rwa [show n - 1 - x.clz.toNat + 1 = n - x.clz.toNat by omega]⟩
  omega

theorem clzNat_toNat {n : Nat} (hn : 0 < n) (x : BitVec n) : clzNat n x.toNat = x.clz.toNat := by
  rw [clzNat, Nat.mod_eq_of_lt x.isLt]
  split
  case isTrue h =>
    have hclz : x.clz = BitVec.ofNat n n := BitVec.clz_eq_iff_eq_zero.2 (BitVec.eq_of_toNat_eq h)
    rw [hclz, BitVec.toNat_ofNat, Nat.mod_eq_of_lt n.lt_two_pow_self]
  case isFalse h =>
    have := log2_toNat hn (x := x) fun he => h (by simp [he])
    omega

theorem ctzNat_toNat {n : Nat} (hn : 0 < n) (x : BitVec n) : ctzNat n x.toNat = x.ctz.toNat := by
  rw [ctzNat, revNat_toNat, clzNat_toNat hn, BitVec.ctz]

theorem ofNat_toNat_self {n : Nat} (a : BitVec n) : BitVec.ofNat n a.toNat = a := by
  rw [BitVec.ofNat_toNat, BitVec.setWidth_eq]

/-! ### The operations as functions on words of every width -/

/-- A function on words gives what a two-operand operation computes on their numbers. -/
def Computes (op : SpineOp) (f : (n : Nat) → BitVec n → BitVec n → BitVec n) : Prop :=
  ∀ n, 0 < n → ∀ a b : BitVec n, BitVec.ofNat n (spineOp op n a.toNat b.toNat) = f n a b

/-- The same of a one-operand operation. -/
def ComputesUn (op : SpineUn) (f : (n : Nat) → BitVec n → BitVec n) : Prop :=
  ∀ n, 0 < n → ∀ a : BitVec n, BitVec.ofNat n (spineUnOp op n a.toNat) = f n a

theorem computes_add : Computes .add fun _ a b => a + b := fun n _ a b => by
  simp only [spineOp, ← BitVec.toNat_add, ofNat_toNat_self]

theorem computes_sub : Computes .sub fun _ a b => a - b := fun n _ a b => by
  simp only [spineOp, ofNat_toBits, sub_eq_add_neg, BitVec.ofInt_add, BitVec.ofInt_neg, BitVec.ofInt_natCast,
    ofNat_toNat_self]

theorem computes_and : Computes .and fun _ a b => a &&& b := fun n _ a b => by
  simp only [spineOp, BitVec.ofNat_and, ofNat_toNat_self]

theorem computes_or : Computes .or fun _ a b => a ||| b := fun n _ a b => by
  simp only [spineOp, BitVec.ofNat_or, ofNat_toNat_self]

theorem computes_xor : Computes .xor fun _ a b => a ^^^ b := fun n _ a b => by
  simp only [spineOp, BitVec.ofNat_xor, ofNat_toNat_self]

theorem computes_andn : Computes .andn fun _ a b => a &&& ~~~b := fun n _ a b => by
  simp only [spineOp, ← BitVec.toNat_not, BitVec.ofNat_and, ofNat_toNat_self]

theorem computes_shl : Computes .shl fun n a b => a <<< (b.toNat % n) := fun n _ a b => by
  simp only [spineOp, ← Nat.shiftLeft_eq, ← BitVec.toNat_shiftLeft, ofNat_toNat_self]

theorem computes_shr : Computes .shr fun n a b => a >>> (b.toNat % n) := fun n _ a b => by
  simp only [spineOp, ← Nat.shiftRight_eq_div_pow, ← BitVec.toNat_ushiftRight, ofNat_toNat_self]

theorem computes_sar : Computes .sar fun n a b => a.sshiftRight (b.toNat % n) := fun n hn a b => by
  simp only [spineOp, sxNat_toNat hn, ofNat_toBits, ← Int.shiftRight_eq_div_pow]
  rfl

theorem computes_mul : Computes .mul fun _ a b => a * b := fun n _ a b => by
  simp only [spineOp, ← BitVec.toNat_mul, ofNat_toNat_self]

theorem computes_mulh :
    Computes .mulh fun n a b => (a.signExtend (2 * n) * b.signExtend (2 * n)).extractLsb' n n := fun n hn a b => by
  simp only [spineOp, sxNat_toNat hn, ofNat_toBits, ← extractLsb'_ofInt, BitVec.ofInt_mul]
  rfl

theorem computes_mulhn :
    Computes .mulhn fun n a b => (a.setWidth (2 * n) * b.setWidth (2 * n)).extractLsb' n n := fun n _ a b => by
  have hprod : a.toNat * b.toNat < 2 ^ (2 * n) := by
    rw [two_mul, pow_add]
    exact Nat.mul_lt_mul'' a.isLt b.isLt
  have hle : n ≤ 2 * n := by omega
  simp only [spineOp, BitVec.extractLsb', BitVec.toNat_mul, BitVec.toNat_setWidth_of_le hle, Nat.mod_eq_of_lt hprod,
    Nat.shiftRight_eq_div_pow]

/-! The divisions: a divisor of zero gives all ones, or the dividend as remainder (15 R346); the one signed quotient that is
out of range wraps. -/

theorem toNat_eq_zero_iff {n : Nat} (b : BitVec n) : b.toNat = 0 ↔ b = 0 :=
  ⟨fun h => BitVec.eq_of_toNat_eq h, fun h => h ▸ rfl⟩

theorem ofNat_ones (n : Nat) : BitVec.ofNat n (2 ^ n - 1) = BitVec.allOnes n :=
  BitVec.eq_of_toNat_eq (by simp)

theorem ofInt_tdiv {n : Nat} (a b : BitVec n) : BitVec.ofInt n (a.toInt.tdiv b.toInt) = a.sdiv b :=
  BitVec.eq_of_toInt_eq (by rw [BitVec.toInt_ofInt, BitVec.toInt_sdiv])

theorem ofInt_tmod {n : Nat} (a b : BitVec n) :
    BitVec.ofInt n (a.toInt - b.toInt * a.toInt.tdiv b.toInt) = a.srem b := by
  rw [← Int.tmod_def, ← BitVec.toInt_srem, BitVec.ofInt_toInt]

theorem computes_div : Computes .div fun n a b => if b = 0 then BitVec.allOnes n else a.sdiv b := fun n hn a b => by
  simp only [spineOp, sxNat_toNat hn, toNat_eq_zero_iff]
  split
  case isTrue => exact ofNat_ones n
  case isFalse => rw [ofNat_toBits, ofInt_tdiv]

theorem computes_divn : Computes .divn fun n a b => if b = 0 then BitVec.allOnes n else a / b := fun n _ a b => by
  simp only [spineOp, toNat_eq_zero_iff]
  split
  case isTrue => exact ofNat_ones n
  case isFalse => exact BitVec.udiv_def.symm

theorem computes_rem : Computes .rem fun _ a b => if b = 0 then a else a.srem b := fun n hn a b => by
  simp only [spineOp, sxNat_toNat hn, toNat_eq_zero_iff]
  split
  case isTrue => exact ofNat_toNat_self a
  case isFalse => rw [ofNat_toBits, ofInt_tmod]

theorem computes_remn : Computes .remn fun _ a b => if b = 0 then a else a % b := fun n _ a b => by
  simp only [spineOp, toNat_eq_zero_iff]
  split
  case isTrue => exact ofNat_toNat_self a
  case isFalse => exact BitVec.umod_def.symm

theorem computes_min : Computes .min fun _ a b => if a.sle b then a else b := fun n hn a b => by
  simp only [spineOp, sxNat_toNat hn, BitVec.sle_iff_toInt_le, apply_ite (BitVec.ofNat n), ofNat_toNat_self]

theorem computes_max : Computes .max fun _ a b => if a.sle b then b else a := fun n hn a b => by
  simp only [spineOp, sxNat_toNat hn, BitVec.sle_iff_toInt_le, apply_ite (BitVec.ofNat n), ofNat_toNat_self]

theorem computes_minn : Computes .minn fun _ a b => if a.ule b then a else b := fun n _ a b => by
  simp only [spineOp, BitVec.ule_iff_toNat_le, apply_ite (BitVec.ofNat n), ofNat_toNat_self]

theorem computes_maxn : Computes .maxn fun _ a b => if a.ule b then b else a := fun n _ a b => by
  simp only [spineOp, BitVec.ule_iff_toNat_le, apply_ite (BitVec.ofNat n), ofNat_toNat_self]

theorem computes_slt : Computes .slt fun n a b => if a.slt b then 1#n else 0 := fun n hn a b => by
  simp only [spineOp, sxNat_toNat hn, BitVec.slt_iff_toInt_lt, apply_ite (BitVec.ofNat n)]
  rfl

theorem computes_sltn : Computes .sltn fun n a b => if a.ult b then 1#n else 0 := fun n _ a b => by
  simp only [spineOp, BitVec.ult_iff_toNat_lt, apply_ite (BitVec.ofNat n)]
  rfl

theorem computesUn_clz : ComputesUn .clz fun _ a => a.clz := fun n hn a => by
  rw [spineUnOp, clzNat_toNat hn, ofNat_toNat_self]

theorem computesUn_ctz : ComputesUn .ctz fun _ a => a.ctz := fun n hn a => by
  rw [spineUnOp, ctzNat_toNat hn, ofNat_toNat_self]

theorem computesUn_popc : ComputesUn .popc fun _ a => a.cpop := fun n _ a => by
  rw [spineUnOp, popNat_toNat, ofNat_toNat_self]

theorem computesUn_brev : ComputesUn .brev fun _ a => a.reverse := fun n _ a => by
  rw [spineUnOp, revNat_toNat, ofNat_toNat_self]

end Sys2Proof.SpineIntegers

/-! ## Integer instructions, branches and jumps of the spine (15 R344 to R347, R355, R356) -/

namespace Sys2Proof.SpineInstructions

open Sys2Proof Sys2Proof.Machine Sys2Proof.SpineIntegers

/-! ### Results of the ALU at the two widths -/

theorem spineInt_of_computes {op : SpineOp} {f : (n : Nat) → BitVec n → BitVec n → BitVec n} (hop : Computes op f)
    (w : Bool) (a b : Dword) :
    spineInt op w a b = if w then (f 32 (a.setWidth 32) (b.setWidth 32)).signExtend 64 else f 64 a b := by
  rw [← hop 32 (by decide), ← hop 64 (by decide), spineInt, BitVec.toNat_setWidth, BitVec.toNat_setWidth]

theorem spineInt_full {op : SpineOp} {f : (n : Nat) → BitVec n → BitVec n → BitVec n} (hop : Computes op f) (a b : Dword) :
    spineInt op false a b = f 64 a b :=
  spineInt_of_computes hop false a b

theorem spineUn_of_computes {op : SpineUn} {f : (n : Nat) → BitVec n → BitVec n} (hop : ComputesUn op f) (w : Bool)
    (a : Dword) : spineUn op w a = if w then (f 32 (a.setWidth 32)).signExtend 64 else f 64 a := by
  rw [← hop 32 (by decide), ← hop 64 (by decide), spineUn, BitVec.toNat_setWidth]

/-- A shift amount of an immediate form is below the width. -/
theorem shiftAmount_mod (n : BitVec 6) : (n.setWidth 64).toNat % 64 = n.toNat := by
  have := n.isLt
  rw [BitVec.toNat_setWidth_of_le (by decide)]
  omega

/-! ### Each row of the tables is an operation of the model -/

theorem intTable_rows : ∀ r ∈ Claims.intTable, ∃ op, Computes op r.2 ∧
    ∀ w b a d s, exec (r.1 w b a d) s = spineBin op w b a d s := by
  simp only [Claims.intTable, List.forall_mem_cons]
  exact ⟨⟨_, computes_add, fun _ _ _ _ _ => rfl⟩, ⟨_, computes_sub, fun _ _ _ _ _ => rfl⟩,
    ⟨_, computes_and, fun _ _ _ _ _ => rfl⟩, ⟨_, computes_or, fun _ _ _ _ _ => rfl⟩,
    ⟨_, computes_xor, fun _ _ _ _ _ => rfl⟩, ⟨_, computes_andn, fun _ _ _ _ _ => rfl⟩,
    ⟨_, computes_shl, fun _ _ _ _ _ => rfl⟩, ⟨_, computes_shr, fun _ _ _ _ _ => rfl⟩,
    ⟨_, computes_sar, fun _ _ _ _ _ => rfl⟩, ⟨_, computes_mul, fun _ _ _ _ _ => rfl⟩,
    ⟨_, computes_mulh, fun _ _ _ _ _ => rfl⟩, ⟨_, computes_mulhn, fun _ _ _ _ _ => rfl⟩,
    ⟨_, computes_div, fun _ _ _ _ _ => rfl⟩, ⟨_, computes_divn, fun _ _ _ _ _ => rfl⟩,
    ⟨_, computes_rem, fun _ _ _ _ _ => rfl⟩, ⟨_, computes_remn, fun _ _ _ _ _ => rfl⟩,
    ⟨_, computes_min, fun _ _ _ _ _ => rfl⟩, ⟨_, computes_max, fun _ _ _ _ _ => rfl⟩,
    ⟨_, computes_minn, fun _ _ _ _ _ => rfl⟩, ⟨_, computes_maxn, fun _ _ _ _ _ => rfl⟩,
    ⟨_, computes_slt, fun _ _ _ _ _ => rfl⟩, ⟨_, computes_sltn, fun _ _ _ _ _ => rfl⟩, nofun⟩

theorem intUnTable_rows : ∀ r ∈ Claims.intUnTable, ∃ op, ComputesUn op r.2 ∧
    ∀ w a d s, exec (r.1 w a d) s = spineUnary op w a d s := by
  simp only [Claims.intUnTable, List.forall_mem_cons]
  exact ⟨⟨_, computesUn_clz, fun _ _ _ _ => rfl⟩, ⟨_, computesUn_ctz, fun _ _ _ _ => rfl⟩,
    ⟨_, computesUn_popc, fun _ _ _ _ => rfl⟩, ⟨_, computesUn_brev, fun _ _ _ _ => rfl⟩, nofun⟩

theorem immTable_rows : ∀ r ∈ Claims.immTable, ∃ op, (∀ a b, spineInt op false a b = r.2 a b) ∧
    ∀ i a d s, exec (r.1 i a d) s = spineImm op i a d s := by
  simp only [Claims.immTable, List.forall_mem_cons]
  exact ⟨⟨_, spineInt_full computes_add, fun _ _ _ _ => rfl⟩, ⟨_, spineInt_full computes_and, fun _ _ _ _ => rfl⟩,
    ⟨_, spineInt_full computes_or, fun _ _ _ _ => rfl⟩, ⟨_, spineInt_full computes_xor, fun _ _ _ _ => rfl⟩,
    ⟨_, spineInt_full computes_slt, fun _ _ _ _ => rfl⟩, ⟨_, spineInt_full computes_sltn, fun _ _ _ _ => rfl⟩, nofun⟩

theorem shiftTable_rows : ∀ r ∈ Claims.shiftTable, ∃ op,
    (∀ (a : Dword) (n : BitVec 6), spineInt op false a (n.setWidth 64) = r.2 a n.toNat) ∧
    ∀ n a d s, exec (r.1 n a d) s = spineShi op n a d s := by
  simp only [Claims.shiftTable, List.forall_mem_cons]
  refine ⟨⟨.shl, fun a n => ?_, fun _ _ _ _ => rfl⟩, ⟨.shr, fun a n => ?_, fun _ _ _ _ => rfl⟩,
    ⟨.sar, fun a n => ?_, fun _ _ _ _ => rfl⟩, nofun⟩
  · rw [spineInt_full computes_shl, shiftAmount_mod]
  · rw [spineInt_full computes_shr, shiftAmount_mod]
  · rw [spineInt_full computes_sar, shiftAmount_mod]

/-- A branch on the greater or equal is one on the failure of the less. -/
theorem branchTable_rows : ∀ r ∈ Claims.branchTable, ∃ c want, (∀ a b, (c.holds a b = want) = (r.2 a b = true)) ∧
    ∀ i b a s, exec (r.1 i b a) s = spineBranch c want i b a s := by
  simp only [Claims.branchTable, List.forall_mem_cons]
  refine ⟨⟨.eq, true, fun _ _ => rfl, fun _ _ _ _ => rfl⟩, ⟨.eq, false, fun a b => ?_, fun _ _ _ _ => rfl⟩,
    ⟨.lt, true, fun _ _ => rfl, fun _ _ _ _ => rfl⟩, ⟨.lt, false, fun a b => ?_, fun _ _ _ _ => rfl⟩,
    ⟨.ltn, true, fun _ _ => rfl, fun _ _ _ _ => rfl⟩, ⟨.ltn, false, fun a b => ?_, fun _ _ _ _ => rfl⟩, nofun⟩
  · simp [BrCond.holds]
  · simp [BrCond.holds, BitVec.sle_eq_not_slt]
  · simp [BrCond.holds, BitVec.ule_eq_not_ult]

/-! ### The running thread after its instruction -/

section Thread

variable {s : State} {t : Nat} {sp : Spine}

theorem modSpine_eq_thread (h : curSpine s = some (t, sp)) (f : Spine → Spine) :
    modSpine s t f = Claims.thread s t (f sp) :=
  modSpine_of_mget (curSpine_mget h) f

theorem spineSet_eq_wrote (h : curSpine s = some (t, sp)) (d : BitVec 6) (v : Dword) :
    spineSet s t d v = Claims.wrote s t sp d v := by
  rw [spineSet, modSpine_eq_thread h, retire, setX_pc]
  rfl

/-- An instruction that only writes x[D]. -/
theorem spineEnter_set (h : curSpine s = some (t, sp)) (d : BitVec 6) (v : Spine → Dword) :
    (spineEnter s fun t sp => spineSet s t d (v sp)) = .next (Claims.wrote s t sp d (v sp)) := by
  rw [spineEnter_next h, spineSet_eq_wrote h]

theorem spineBranch_next (h : curSpine s = some (t, sp)) (c : BrCond) (want : Bool) (i : BitVec 14) (b a : BitVec 6) :
    spineBranch c want i b a s = .next (Claims.thread s t (Claims.gone sp
      (if c.holds (getX sp a) (getX sp b) = want then sp.pc + (i.signExtend 64 <<< 2) else sp.pc + 4))) := by
  rw [spineBranch, spineEnter_next h, modSpine_eq_thread h, apply_ite (Claims.gone sp)]
  rfl

end Thread

/-! ### Targets -/

theorem shiftLeft_two (x : Dword) : x <<< 2 = 4 * x := by
  rw [BitVec.shiftLeft_eq_mul_twoPow, BitVec.mul_comm]
  rfl

theorem and_three_eq_zero_iff (x : Dword) : x &&& 3 = 0 ↔ x.toNat % 4 = 0 := by
  rw [← toNat_eq_zero_iff, BitVec.toNat_and]
  exact iff_of_eq (congrArg (· = 0) (Nat.and_two_pow_sub_one_eq_mod x.toNat 2))

/-- Settles O1: each row of a table is an operation of the model (`intTable_rows` and its companions), whose result
`spineEnter_set` writes; `movu` and `addpc` write theirs at once. -/
theorem spineIntegerResults : Obligations.SpineIntegerResults := by
  intro s t sp h
  refine ⟨fun r hr w b a d => ?_, fun r hr w a d => ?_, fun r hr i a d => ?_, fun r hr n a d => ?_,
    fun i d => ?_, fun i d => ?_⟩
  · obtain ⟨op, hop, hexec⟩ := intTable_rows r hr
    rw [hexec, ← spineInt_of_computes hop]
    exact spineEnter_set h d _
  · obtain ⟨op, hop, hexec⟩ := intUnTable_rows r hr
    rw [hexec, ← spineUn_of_computes hop]
    exact spineEnter_set h d _
  · obtain ⟨op, hop, hexec⟩ := immTable_rows r hr
    rw [hexec, ← hop]
    exact spineEnter_set h d _
  · obtain ⟨op, hop, hexec⟩ := shiftTable_rows r hr
    rw [hexec, ← hop]
    exact spineEnter_set h d _
  · exact spineEnter_set h d fun _ => upperImm i
  · exact spineEnter_set h d fun sp => sp.pc + upperImm i

/-- Settles O2: a branch by `branchTable_rows` and `spineBranch_next`, the jumps by the thread that they leave. -/
theorem spineBranchesAndJumps : Obligations.SpineBranchesAndJumps := by
  intro s t sp h
  refine ⟨fun r hr i b a => ?_, fun i d => ?_, fun i a d => ?_⟩
  · obtain ⟨c, want, hcond, hexec⟩ := branchTable_rows r hr
    rw [hexec, spineBranch_next h, shiftLeft_two]
    simp only [hcond]
  · show execJl i d s = _
    rw [execJl, spineEnter_next h, modSpine_eq_thread h, shiftLeft_two]
    rfl
  · intro target
    show execJlr i a d s = _
    rw [execJlr, spineEnter_next h]
    simp only [modSpine_eq_thread h, ne_eq, ite_not, and_three_eq_zero_iff]
    rfl

end Sys2Proof.SpineInstructions

/-! ## Words of the spine (14 R326 to R329): the decoder is the inverse of the encoder -/

namespace Sys2Proof.SpineEncoding

open Sys2Proof

/-! ### Bits of words put together -/

theorem getLsbD_append_of_le {n m k : Nat} {x : BitVec n} {y : BitVec m} (h : m ≤ k) :
    (x ++ y).getLsbD k = x.getLsbD (k - m) := by
  rw [BitVec.getLsbD_append, if_neg (by omega)]

theorem getLsbD_append_of_lt {n m k : Nat} {x : BitVec n} {y : BitVec m} (h : k < m) :
    (x ++ y).getLsbD k = y.getLsbD k := by
  rw [BitVec.getLsbD_append, if_pos h]

theorem getLsbD_ofBool_zero (f : Bool) : (BitVec.ofBool f).getLsbD 0 = f := by
  cases f <;> rfl

theorem ofBool_getLsbD {n : Nat} (x : BitVec n) (k : Nat) : BitVec.ofBool (x.getLsbD k) = x.extractLsb' k 1 :=
  BitVec.eq_of_getLsbD_eq fun i hi => by
    obtain rfl : i = 0 := by omega
    simp

/-! ### Bytes of a word -/

@[simp] theorem length_leBytes (n w : Nat) : (leBytes n w).length = n := by
  induction n generalizing w with
  | zero => rfl
  | succ n ih => simp [leBytes, ih]

theorem leNat_leBytes (n w : Nat) : leNat (leBytes n w) = w % 256 ^ n := by
  induction n generalizing w with
  | zero => simp [leBytes, leNat, Nat.mod_one]
  | succ n ih => rw [leBytes, leNat, ih, Nat.pow_succ', Nat.mod_mul, BitVec.toNat_ofNat]

/-- The bytes of a word, at the front of a list, hold the word. -/
theorem ofNat_leNat_take {k : Nat} (n : Nat) (w : BitVec k) (rest : List Byte) (h : 256 ^ n = 2 ^ k) :
    BitVec.ofNat k (leNat ((leBytes n w.toNat ++ rest).take n)) = w := by
  rw [List.take_left' (length_leBytes ..), leNat_leBytes, h, Nat.mod_eq_of_lt w.isLt, BitVec.ofNat_toNat, BitVec.setWidth_eq]

/-! ### The decoder on the words of the encoder -/

@[simp] theorem whenZero_zero {n : Nat} (i : Instr) : whenZero 0#n i = .ok i := if_pos (beq_self_eq_true _)

theorem whenZero_eq_ok {n : Nat} {f : BitVec n} {i j : Instr} (h : whenZero f i = .ok j) : f = 0 ∧ i = j := by
  unfold whenZero at h
  split at h
  · next hf => exact ⟨eq_of_beq hf, Except.ok.inj h⟩
  · cases h

theorem decodeSpineFields_fence (k : BitVec 2) (c : BitVec 3) :
    decodeSpineFields (fmtSR (0#3 ++ k ++ c) 0 0 0 0x18) = .ok (.spineFence k c) := by
  revert k c
  decide

/-- Code 0 of `svc` ends the thread (15 R363); any other is one. -/
theorem decodeSystem_svc (c : BitVec 8) (a : BitVec 6) (h : c ≠ 0) :
    decodeSystem (fmtSH 2 c a 0 0x1A) = .ok (.svc c a) := by
  simp (disch := decide) only [decodeSystem, fmtSH, fA, fD, BitVec.extractLsb'_append_eq_of_add_le,
    BitVec.extractLsb'_append_eq_of_le, BitVec.extractLsb'_eq_self, Nat.reduceSub, BitVec.reduceToNat, beq_iff_eq, h,
    if_false]
  rfl

theorem decodeSpineFields_svc (c : BitVec 8) (a : BitVec 6) (h : c ≠ 0) :
    decodeSpineFields (fmtSH 2 c a 0 0x1A) = .ok (.svc c a) := by
  rw [← decodeSystem_svc c a h]
  simp (disch := decide) only [decodeSpineFields, fmtSH, BitVec.extractLsb'_append_eq_of_add_le,
    BitVec.extractLsb'_eq_self, BitVec.reduceToNat]

/-- Every field of a spine word is read where its format puts it. -/
theorem decodeSpineFields_spineWord {i : Instr} {w : Word} (hi : i.spineWord? = some w) (hwf : i.wf = true) :
    decodeSpineFields w = .ok i := by
  cases i <;> cases hi
  case spineFence k c => exact decodeSpineFields_fence k c
  case svc c a => exact decodeSpineFields_svc c a (bne_iff_ne.1 hwf)
  case spinePfence | spineExit => rfl
  all_goals simp (disch := decide) only [decodeSpineFields, fmtSR, fmtS4, fmtSI, fmtSU, fmtSB, fmtSM, fmtSA, fmtSH, decodeInt,
    decodeFloat, decodeFma, decodeAtomic, decodeShiftImm, decodeShared, decodeSystem, decodeEngine, fD, fA,
    fB, fC, fW, whenZero_zero, getLsbD_append_of_le, getLsbD_append_of_lt, getLsbD_ofBool_zero,
    BitVec.extractLsb'_append_eq_of_add_le, BitVec.extractLsb'_append_eq_of_le, BitVec.extractLsb'_eq_self, bne_iff_ne, ne_eq,
    not_true_eq_false, Nat.reduceSub, BitVec.reduceToNat, BitVec.reduceExtractLsb', BitVec.reduceAppend, BitVec.ofNat_eq_ofNat,
    BitVec.reduceGetLsb, Bool.false_eq_true, ↓reduceIte]

theorem decodeSpine_spineWord {i : Instr} {w : Word} (hi : i.spineWord? = some w) (hwf : i.wf = true) :
    decodeSpine w = .ok i := by
  simp only [decodeSpine, decodeSpineFields_spineWord hi hwf, hwf, if_true]

theorem encode_spineWord {i : Instr} {w : Word} (hi : i.spineWord? = some w) : encode i = leBytes 4 w.toNat := by
  simp only [encode, hi]

/-- Settles O46: the four bytes hold the word, and its fields are read back (`decodeSpineFields_spineWord`). -/
theorem spineDecodeOfEncode : Obligations.SpineDecodeOfEncode := by
  intro i rest hwf hi
  obtain ⟨w, hw⟩ := Option.isSome_iff_exists.1 hi
  have hlen : ¬ (leBytes 4 w.toNat ++ rest).length < 4 := by simp
  rw [encode_spineWord hw, decodeSpineBytes, if_neg hlen, ofNat_leNat_take 4 w rest rfl, decodeSpine_spineWord hw hwf]
  simp only [List.drop_left' (length_leBytes ..)]

/-! ### A word put together from its fields -/

theorem extract_append {n : Nat} {w : BitVec n} {i j k l : Nat} {x : BitVec k} {y : BitVec l} (hx : w.extractLsb' i k = x)
    (hy : w.extractLsb' j l = y) (h : i = j + l) : w.extractLsb' j (k + l) = x ++ y := by
  rw [← hx, ← hy, BitVec.extractLsb'_append_extractLsb'_eq_extractLsb' h]

section Word
variable {w : Word} {m a b c d : BitVec 6}

theorem fmtSR_fields {fn : BitVec 8} (hf : w.extractLsb' 24 8 = fn) (hb : fB w = b) (ha : fA w = a) (hd : fD w = d)
    (hm : w.extractLsb' 0 6 = m) : fmtSR fn b a d m = w :=
  (extract_append (extract_append (extract_append (extract_append hf hb rfl) ha rfl) hd rfl) hm rfl).symm.trans
    BitVec.extractLsb'_eq_self

/-- The format of the rows that a width bit and a code of 7 bits tell apart. -/
theorem fmtSR_op {op : BitVec 7} (hop : w.extractLsb' 24 7 = op) (hb : fB w = b) (hm : w.extractLsb' 0 6 = m) :
    fmtSR (BitVec.ofBool (fW w) ++ op) b (fA w) (fD w) m = w :=
  fmtSR_fields (extract_append (ofBool_getLsbD w 31).symm hop rfl) hb rfl rfl hm

theorem fmtS4_fields {fn : BitVec 2} (hf : w.extractLsb' 30 2 = fn) (hm : w.extractLsb' 0 6 = m) :
    fmtS4 fn (fC w) (fB w) (fA w) (fD w) m = w :=
  fmtSR_fields (extract_append (j := 24) (l := 6) hf rfl rfl) rfl rfl rfl hm

theorem fmtSI_fields {i : BitVec 14} (hi : w.extractLsb' 18 14 = i) (hm : w.extractLsb' 0 6 = m) :
    fmtSI i (fA w) (fD w) m = w :=
  (extract_append (extract_append (extract_append hi rfl rfl) rfl rfl) hm rfl).symm.trans BitVec.extractLsb'_eq_self

theorem fmtSU_fields (hm : w.extractLsb' 0 6 = m) : fmtSU (w.extractLsb' 12 20) (fD w) m = w :=
  (extract_append (extract_append rfl rfl rfl) hm rfl).symm.trans BitVec.extractLsb'_eq_self

theorem fmtSM_fields {x : Bool} (hx : w.getLsbD 21 = x) (hm : w.extractLsb' 0 6 = m) :
    fmtSM (w.extractLsb' 22 10) x (w.extractLsb' 18 3) (fA w) (fD w) m = w :=
  fmtSI_fields (extract_append (j := 18) (l := 3)
    (extract_append (i := 22) (k := 10) rfl ((ofBool_getLsbD w 21).symm.trans (congrArg _ hx)) rfl) rfl rfl) hm

theorem fmtSA_fields {x : Bool} {op : BitVec 4} (hx : fW w = x) (hop : w.extractLsb' 24 4 = op) (hb : fB w = b)
    (hd : fD w = d) (hm : w.extractLsb' 0 6 = 0x0F) : fmtSA x (w.extractLsb' 28 3) op b (fA w) d = w :=
  fmtSR_fields (extract_append (extract_append (j := 28) (l := 3) ((ofBool_getLsbD w 31).symm.trans (congrArg _ hx)) rfl rfl)
    hop rfl) hb rfl hd hm

theorem fmtSH_fields {fn : BitVec 6} {i : BitVec 8} (hf : w.extractLsb' 26 6 = fn) (hi : w.extractLsb' 18 8 = i)
    (ha : fA w = a) (hd : fD w = d) (hm : w.extractLsb' 0 6 = m) : fmtSH fn i a d m = w :=
  (extract_append (extract_append (extract_append (extract_append hf hi rfl) ha rfl) hd rfl) hm rfl).symm.trans
    BitVec.extractLsb'_eq_self

/-! ### What the decoder accepts, by major opcode: the word of the instruction -/

theorem decodeInt_word {i : Instr} (hm : w.extractLsb' 0 6 = 0x01) (h : decodeInt w = .ok i) : i.spineWord? = some w := by
  have row (op : BitVec 7) (h : (w.extractLsb' 24 7).toNat = op.toNat) (b) (hb : fB w = b) :=
    congrArg some (fmtSR_op (BitVec.eq_of_toNat_eq h) hb hm)
  unfold decodeInt at h
  split at h
  case h_27 => cases h
  case h_23 hop | h_24 hop | h_25 hop | h_26 hop =>
    obtain ⟨hb, rfl⟩ := whenZero_eq_ok h
    exact row _ (by exact hop) _ hb
  all_goals
    next hop =>
    cases h
    exact row _ (by exact hop) _ rfl

theorem decodeFloat_word {i : Instr} (hm : w.extractLsb' 0 6 = 0x0B) (h : decodeFloat w = .ok i) :
    i.spineWord? = some w := by
  have row (op : BitVec 7) (h : (w.extractLsb' 24 7).toNat = op.toNat) (b) (hb : fB w = b) :=
    congrArg some (fmtSR_op (BitVec.eq_of_toNat_eq h) hb hm)
  unfold decodeFloat at h
  dsimp only at h
  split at h
  case h_12 => cases h
  case h_5 hop =>
    obtain ⟨hb, rfl⟩ := whenZero_eq_ok h
    exact row _ (by exact hop) _ hb
  case h_11 hop =>
    split at h
    · cases h
    · next hf =>
      cases h
      have := row 0x0A hop _ rfl
      rwa [Bool.eq_false_iff.2 hf] at this
  all_goals
    next hop =>
    cases h
    exact row _ (by exact hop) _ rfl

theorem three_of_ne : ∀ x : BitVec 2, x.toNat ≠ 0 → x.toNat ≠ 1 → x.toNat ≠ 2 → x = 3 := by decide

theorem decodeFma_word {single : Bool} {i : Instr} (hm : w.extractLsb' 0 6 = if single then 0x1C else 0x0C)
    (h : decodeFma single w = .ok i) : i.spineWord? = some w := by
  have row (op : BitVec 2) (h : (w.extractLsb' 30 2).toNat = op.toNat) :=
    congrArg some (fmtS4_fields (BitVec.eq_of_toNat_eq h) hm)
  unfold decodeFma at h
  split at h
  case h_4 h0 h1 h2 =>
    have h3 : w.extractLsb' 30 2 = 3 := three_of_ne _ h0 h1 h2
    cases single <;> cases h <;> exact row 3 (congrArg _ h3)
  all_goals
    next hop =>
    cases single <;> cases h <;> exact row _ (by exact hop)

theorem decodeAtomic_word {i : Instr} (hm : w.extractLsb' 0 6 = 0x0F) (h : decodeAtomic w = .ok i) :
    i.spineWord? = some w := by
  have row (op : BitVec 4) (h : (w.extractLsb' 24 4).toNat = op.toNat) (x b d) (hx : fW w = x) (hb : fB w = b) (hd : fD w = d) :=
    congrArg some (fmtSA_fields hx (BitVec.eq_of_toNat_eq h) hb hd hm)
  unfold decodeAtomic at h
  dsimp only at h
  split at h
  case h_14 => cases h
  case h_11 hop =>
    split at h
    · next hf =>
      cases h
      exact row _ (by exact hop) _ _ _ hf rfl rfl
    · cases h
  case h_12 hop =>
    obtain ⟨hb, rfl⟩ := whenZero_eq_ok h
    exact row _ (by exact hop) _ _ _ rfl hb rfl
  case h_13 hop =>
    obtain ⟨hd, rfl⟩ := whenZero_eq_ok h
    exact row _ (by exact hop) _ _ _ rfl rfl hd
  all_goals
    next hop =>
    cases h
    exact row _ (by exact hop) _ _ _ rfl rfl rfl

theorem decodeShiftImm_word {i : Instr} (hm : w.extractLsb' 0 6 = 0x06) (h : decodeShiftImm w = .ok i) :
    i.spineWord? = some w := by
  unfold decodeShiftImm at h
  dsimp only at h
  split at h
  · cases h
  next hz =>
    have row (op : BitVec 2) (h : (w.extractLsb' 30 2).toNat = op.toNat) :=
      congrArg some (fmtSI_fields (extract_append (j := 18) (l := 6)
        (extract_append (j := 24) (BitVec.eq_of_toNat_eq h) (by simpa using hz) rfl) rfl rfl) hm)
    split at h
    case h_4 => cases h
    all_goals
      next hop =>
      cases h
      exact row _ (by exact hop)

theorem extract_zero {n : Nat} {w : BitVec n} {i k : Nat} (h : w.extractLsb' i k = 0) (j l : Nat) (hj : j + l ≤ k) :
    w.extractLsb' (i + j) l = 0 := by
  apply BitVec.eq_of_getLsbD_eq
  intro x hx
  have := congrArg (fun v => BitVec.getLsbD v (j + x)) h
  simp [show j + x < k by omega, ← Nat.add_assoc] at this
  simpa [hx] using this

theorem decodeFence_word {i : Instr} (hm : w.extractLsb' 0 6 = 0x18) (h : decodeFence w = .ok i) :
    i.spineWord? = some w := by
  unfold decodeFence at h
  split at h
  · cases h
  next hz =>
    have hz : w.extractLsb' 6 18 = 0 := by simpa using hz
    have row (fn : BitVec 8) (h : w.extractLsb' 24 8 = fn) := congrArg some (fmtSR_fields h (extract_zero hz 12 6 (by decide))
      (extract_zero hz 6 6 (by decide)) (extract_zero hz 0 6 (by decide)) hm)
    split at h
    case h_1 hop =>
      cases h
      exact row _ (extract_append (j := 24) (l := 3)
        (extract_append (j := 27) (l := 2) (BitVec.eq_of_toNat_eq (y := 0#3) hop) rfl rfl) rfl rfl)
    case h_2 hop =>
      split at h
      · next hs =>
        cases h
        exact row _ (extract_append (BitVec.eq_of_toNat_eq (y := 1#3) hop) (eq_of_beq hs) rfl)
      · cases h
    case h_3 => cases h

theorem decodeShared_word {i : Instr} (hm : w.extractLsb' 0 6 = 0x19) (h : decodeShared w = .ok i) :
    i.spineWord? = some w := by
  have row (op : BitVec 6) (h : (w.extractLsb' 26 6).toNat = op.toNat) (a d) (ha : fA w = a) (hd : fD w = d) :=
    congrArg some (fmtSH_fields (BitVec.eq_of_toNat_eq h) rfl ha hd hm)
  unfold decodeShared at h
  split at h
  case h_1 hop | h_4 hop =>
    cases h
    exact row _ (by exact hop) _ _ rfl rfl
  case h_2 hop | h_3 hop =>
    obtain ⟨ha, rfl⟩ := whenZero_eq_ok h
    exact row _ (by exact hop) _ _ ha rfl
  case h_5 hop =>
    obtain ⟨hd, rfl⟩ := whenZero_eq_ok h
    exact row _ (by exact hop) _ _ rfl hd
  case h_6 => cases h

theorem append_eq_zero {k l : Nat} {x : BitVec k} {y : BitVec l} (h : x ++ y = 0) : x = 0 ∧ y = 0 := by
  have hl : (x ++ y).extractLsb' 0 l = 0 := by rw [h]; simp
  have hh : (x ++ y).extractLsb' l k = 0 := by rw [h]; simp
  exact ⟨by rwa [BitVec.extractLsb'_append_eq_left] at hh, by rwa [BitVec.extractLsb'_append_eq_right] at hl⟩

theorem decodeSystem_word {i : Instr} (hm : w.extractLsb' 0 6 = 0x1A) (h : decodeSystem w = .ok i) :
    i.spineWord? = some w := by
  have row (op : BitVec 6) (h : (w.extractLsb' 26 6).toNat = op.toNat) (c a d) (hc : w.extractLsb' 18 8 = c) (ha : fA w = a)
      (hd : fD w = d) := congrArg some (fmtSH_fields (BitVec.eq_of_toNat_eq h) hc ha hd hm)
  unfold decodeSystem at h
  dsimp only at h
  split at h
  case h_1 hop =>
    obtain ⟨ha, rfl⟩ := whenZero_eq_ok h
    exact row _ (by exact hop) _ _ _ rfl ha rfl
  case h_2 hop =>
    obtain ⟨hd, rfl⟩ := whenZero_eq_ok h
    exact row _ (by exact hop) _ _ _ rfl rfl hd
  case h_3 hop =>
    split at h
    · next hc =>
      obtain ⟨hz, rfl⟩ := whenZero_eq_ok h
      obtain ⟨ha, hd⟩ := append_eq_zero hz
      exact row _ (by exact hop) _ _ _ (eq_of_beq hc) ha hd
    · obtain ⟨hd, rfl⟩ := whenZero_eq_ok h
      exact row _ (by exact hop) _ _ _ rfl rfl hd
  case h_4 hop =>
    obtain ⟨hz, rfl⟩ := whenZero_eq_ok h
    obtain ⟨ha, hd⟩ := append_eq_zero hz
    exact row _ (by exact hop) _ _ _ rfl ha hd
  case h_5 hop =>
    obtain ⟨hz, rfl⟩ := whenZero_eq_ok h
    obtain ⟨hc, hd⟩ := append_eq_zero hz
    exact row _ (by exact hop) _ _ _ hc rfl hd
  case h_6 hop | h_7 hop =>
    obtain ⟨hz, rfl⟩ := whenZero_eq_ok h
    obtain ⟨hc, ha⟩ := append_eq_zero hz
    exact row _ (by exact hop) _ _ _ hc ha rfl
  case h_8 hop =>
    obtain ⟨hc, rfl⟩ := whenZero_eq_ok h
    exact row _ (by exact hop) _ _ _ hc rfl rfl
  case h_9 => cases h

theorem decodeEngine_word {i : Instr} (hm : w.extractLsb' 0 6 = 0x1B) (h : decodeEngine w = .ok i) :
    i.spineWord? = some w := by
  have row (op : BitVec 8) (h : (w.extractLsb' 24 8).toNat = op.toNat) (d) (hd : fD w = d) :=
    congrArg some (fmtSR_fields (BitVec.eq_of_toNat_eq h) rfl rfl hd hm)
  unfold decodeEngine at h
  split at h
  case h_8 => cases h
  case h_4 hop | h_6 hop =>
    cases h
    exact row _ (by exact hop) _ rfl
  all_goals
    next hop =>
    obtain ⟨hd, rfl⟩ := whenZero_eq_ok h
    exact row _ (by exact hop) _ hd

theorem decodeSpineFields_word {i : Instr} (h : decodeSpineFields w = .ok i) : i.spineWord? = some w := by
  have major {m : BitVec 6} (h : (w.extractLsb' 0 6).toNat = m.toNat) : w.extractLsb' 0 6 = m := BitVec.eq_of_toNat_eq h
  unfold decodeSpineFields at h
  dsimp only at h
  split at h
  case h_1 | h_30 => cases h
  case h_2 hm => exact decodeInt_word (major hm) h
  case h_7 hm => exact decodeShiftImm_word (major hm) h
  case h_12 hm => exact decodeFloat_word (major hm) h
  case h_13 hm => exact decodeFma_word (single := false) (major hm) h
  case h_29 hm => exact decodeFma_word (single := true) (major hm) h
  case h_16 hm => exact decodeAtomic_word (major hm) h
  case h_25 hm => exact decodeFence_word (major hm) h
  case h_26 hm => exact decodeShared_word (major hm) h
  case h_27 hm => exact decodeSystem_word (major hm) h
  case h_28 hm => exact decodeEngine_word (major hm) h
  case h_10 hm | h_11 hm | h_23 hm =>
    cases h
    exact congrArg some (fmtSU_fields (major hm))
  case h_14 hm =>
    cases h
    exact congrArg some (fmtSM_fields rfl (major hm))
  case h_15 hm =>
    split at h
    · cases h
    · next hx =>
      cases h
      exact congrArg some (fmtSM_fields (Bool.eq_false_iff.2 hx) (major hm))
  all_goals
    next hm =>
    cases h
    exact congrArg some (fmtSI_fields rfl (major hm))

end Word

end Sys2Proof.SpineEncoding

/-! ## Words of lane instructions (14 R313 to R325): the decoder is the inverse of the encoder -/

namespace Sys2Proof.LaneEncoding

open Sys2Proof Sys2Proof.SpineEncoding

/-! ### Slots, destinations and types -/

@[simp] theorem srcDec_enc (x : Src) : Src.dec x.enc = some x := by
  cases x with
  | v idx last =>
    simp (disch := decide) only [Src.enc, Src.dec, BitVec.extractLsb'_append_eq_of_add_le,
      BitVec.extractLsb'_append_eq_of_le, BitVec.extractLsb'_eq_self, getLsbD_append_of_le, Nat.reduceSub, BitVec.reduceToNat,
      getLsbD_ofBool_zero]
  | g idx => revert idx; decide
  | h idx => revert idx; decide
  | lit => rfl

@[simp] theorem dstDec_enc (x : Dst) : Dst.dec x.enc = some x := by
  cases x with
  | none => rfl
  | v idx => revert idx; decide
  | g idx => revert idx; decide
  | sp idx => revert idx; decide

@[simp] theorem ofCode_code (t : LType) : LType.ofCode t.code = some t := by
  cases t <;> rfl

theorem srcEnc_of_dec {f : BitVec 11} {x : Src} (h : Src.dec f = some x) : x.enc = f := by
  revert f x
  decide

theorem dstEnc_of_dec {f : BitVec 10} {x : Dst} (h : Dst.dec f = some x) : x.enc = f := by
  revert f x
  decide

theorem code_of_ofCode {c : BitVec 6} {t : LType} (h : LType.ofCode c = some t) : t.code = c := by
  have : ∀ c : BitVec 6, ∀ t ∈ LType.ofCode c, t.code = c := by decide
  exact this c t h

/-- Every field of a lane word is read where the encoder puts it. -/
theorem laneFields_word (o : LaneOp) (opc : BitVec 10) : laneFields (o.word opc) = .ok o := by
  simp (disch := decide) only [laneFields, LaneOp.word, BitVec.extractLsb'_append_eq_of_add_le,
    BitVec.extractLsb'_append_eq_of_le, BitVec.extractLsb'_eq_self, getLsbD_append_of_le, getLsbD_append_of_lt,
    Nat.reduceSub, getLsbD_ofBool_zero, srcDec_enc, dstDec_enc, ofCode_code]

/-! ### Rows of one opcode, told apart by a bit of `MOD` -/

theorem laneRow_md {o : LaneOp} {tys : List LType} {d : DstUse} {a b c : SlotUse} {mask : BitVec 6} {imm : ImmUse}
    {long : Bool} (h : laneRow o tys d a b c mask imm long = true) {k : Nat} (hk : (~~~mask).getLsbD k = true) :
    o.md.getLsbD k = false := by
  simp only [laneRow, Bool.and_eq_true, beq_iff_eq] at h
  have hmd : o.md &&& ~~~mask = 0 := by tauto
  have hbit := congrArg (fun x => BitVec.getLsbD x k) hmd
  simpa [BitVec.getLsbD_and, hk] using hbit

theorem wfSts_md {o : LaneOp} {arm : Bool} (h : wfSts o arm = true) : o.md.getLsbD 2 = arm := by
  simp only [wfSts, Bool.and_eq_true, beq_iff_eq] at h
  obtain ⟨⟨_, hbit⟩, _⟩ := h
  exact hbit

theorem wfQ_md {o : LaneOp} {push tryF : Bool} (h : wfQ o push tryF = true) : o.md.getLsbD 0 = tryF := by
  simp only [wfQ, Bool.and_eq_true, beq_iff_eq] at h
  obtain ⟨⟨_, hbit⟩, _⟩ := h
  exact hbit

theorem wfTret_md {o : LaneOp} {skip : Bool} (h : wfTret o skip = true) : o.md.getLsbD 0 = skip := by
  simp only [wfTret, Bool.and_eq_true, beq_iff_eq] at h
  obtain ⟨_, hbit⟩ := h
  exact hbit

/-- The opcode, and where two rows share it the bit of `MOD`, gives the instruction back. -/
theorem laneMk_lane {i : Instr} {opc : BitVec 10} {o : LaneOp} (hl : i.lane? = some (opc, o)) (hwf : i.wf = true) :
    laneMk opc o = some i := by
  have low {b : Bool} {x y : Instr} (h : b = false) : some (if b then x else y) = some y :=
    congrArg some (if_neg (Bool.eq_false_iff.1 h))
  have high {b : Bool} {x y : Instr} (h : b = true) : some (if b then x else y) = some x := congrArg some (if_pos h)
  cases i <;> cases hl
  case sts => exact low (wfSts_md hwf)
  case stsArm => exact high (wfSts_md hwf)
  case qpush | qpop => exact low (wfQ_md hwf)
  case qpushTry | qpopTry => exact high (wfQ_md hwf)
  case tretRetry => exact low (wfTret_md hwf)
  case tretSkip => exact high (wfTret_md hwf)
  case cset | rejoin => exact low (laneRow_md (Bool.and_eq_true_iff.1 hwf).1 rfl)
  case pfxh => exact low (laneRow_md hwf rfl)
  case csetId | pfxhClr =>
    have hmd := eq_of_beq (Bool.and_eq_true_iff.1 hwf).2
    exact high (by rw [hmd]; rfl)
  case rejoinS =>
    have hmd := eq_of_beq (Bool.and_eq_true_iff.1 (Bool.and_eq_true_iff.1 hwf).1).2
    exact high (by rw [hmd]; rfl)
  all_goals rfl

theorem lane_laneMk {i : Instr} {opc : BitVec 10} {o : LaneOp} (h : laneMk opc o = some i) : i.lane? = some (opc, o) := by
  have row {m : BitVec 10} (h : opc.toNat = m.toNat) : some (m, o) = some (opc, o) := by rw [BitVec.eq_of_toNat_eq h]
  unfold laneMk at h
  split at h
  case h_130 => cases h
  case h_84 hopc | h_100 hopc | h_105 hopc | h_111 hopc | h_119 hopc | h_120 hopc | h_126 hopc =>
    obtain rfl := Option.some.inj h
    split <;> exact row hopc
  all_goals
    next hopc =>
    cases h
    exact row hopc

/-! ### Words -/

theorem opcode_word (o : LaneOp) (opc : BitVec 10) : (o.word opc).extractLsb' 0 10 = opc :=
  BitVec.extractLsb'_append_eq_right

theorem spineWord_of_lane {i : Instr} {opc : BitVec 10} {o : LaneOp} (hl : i.lane? = some (opc, o)) :
    i.spineWord? = none ∧ opc ≠ 0 := by
  cases i <;> cases hl <;> exact ⟨rfl, by decide⟩

theorem decodeLane_word {i : Instr} {opc : BitVec 10} {o : LaneOp} (hl : i.lane? = some (opc, o)) (hwf : i.wf = true) :
    decodeLane (o.word opc) = .ok i := by
  have hopc : (opc == 0) = false := beq_eq_false_iff_ne.2 (spineWord_of_lane hl).2
  simp only [decodeLane, opcode_word, hopc, laneFields_word, laneMk_lane hl hwf, hwf, if_true]
  rfl

theorem encode_lane {i : Instr} {opc : BitVec 10} {o : LaneOp} (hl : i.lane? = some (opc, o)) :
    encode i = leBytes 12 (o.word opc).toNat := by
  simp only [encode, spineWord_of_lane hl, hl]

/-- Settles O47: the twelve bytes hold the word, whose fields are read back (`laneFields_word`) and whose opcode names the
instruction (`laneMk_lane`). -/
theorem laneDecodeOfEncode : Obligations.LaneDecodeOfEncode := by
  intro i rest hwf hi
  obtain ⟨⟨opc, o⟩, hl⟩ := Option.isSome_iff_exists.1 hi
  have hlen : ¬ (leBytes 12 (o.word opc).toNat ++ rest).length < 12 := by simp
  rw [encode_lane hl, decodeLaneBytes, if_neg hlen, ofNat_leNat_take 12 _ rest rfl, decodeLane_word hl hwf]
  simp only [List.drop_left' (length_leBytes ..)]

/-! ### A word put together from its fields -/

/-- What the fields of a word that is accepted say. -/
theorem word_of_laneFields {w : BitVec 96} {o : LaneOp} (h : laneFields w = .ok o) : o.word (w.extractLsb' 0 10) = w := by
  unfold laneFields at h
  split at h
  case h_1 ty dst a b c hty hdst ha hb hc =>
    cases h
    exact (extract_append (j := 0) (l := 10) (extract_append (j := 10) (l := 6) (extract_append (j := 16) (l := 10)
      (extract_append (j := 26) (l := 1) (extract_append (j := 27) (l := 1) (extract_append (j := 28) (l := 3)
      (extract_append (j := 31) (l := 1) (extract_append (j := 32) (l := 11) (extract_append (j := 43) (l := 11)
      (extract_append (j := 54) (l := 11) (extract_append (j := 65) (l := 1) (extract_append (j := 66) (l := 6) (k := 24)
      rfl rfl rfl) (ofBool_getLsbD w 65).symm rfl) (srcEnc_of_dec hc).symm rfl) (srcEnc_of_dec hb).symm rfl)
      (srcEnc_of_dec ha).symm rfl) (ofBool_getLsbD w 31).symm rfl) rfl rfl) (ofBool_getLsbD w 27).symm rfl)
      (ofBool_getLsbD w 26).symm rfl) (dstEnc_of_dec hdst).symm rfl) (code_of_ofCode hty).symm rfl) rfl rfl).symm.trans
      BitVec.extractLsb'_eq_self
  all_goals cases h

theorem decodeLane_eq_ok {w : BitVec 96} {i : Instr} (h : decodeLane w = .ok i) :
    w.extractLsb' 0 10 ≠ 0 ∧ ∃ o, laneFields w = .ok o ∧ laneMk (w.extractLsb' 0 10) o = some i ∧ i.wf = true := by
  unfold decodeLane at h
  split at h
  · cases h
  next hopc =>
  split at h
  · cases h
  next o hf =>
  split at h
  · cases h
  next j hmk =>
  split at h
  · next hwf =>
    cases h
    exact ⟨by simpa using hopc, o, hf, hmk, hwf⟩
  · cases h

theorem decodeSpine_eq_ok {w : Word} {i : Instr} (h : decodeSpine w = .ok i) :
    decodeSpineFields w = .ok i ∧ i.wf = true := by
  unfold decodeSpine at h
  split at h
  · next j hj =>
    split at h
    · next hwf =>
      cases h
      exact ⟨hj, hwf⟩
    · cases h
  · cases h

/-! ### Words that are refused -/

theorem decodeSpineFields_reserved {w : Word} (h : w.extractLsb' 0 6 = 0 ∨ 0x1C < (w.extractLsb' 0 6).toNat) (i : Instr) :
    decodeSpineFields w ≠ .ok i := by
  intro hi
  unfold decodeSpineFields at hi
  dsimp only at hi
  obtain h | h := h
  · rw [h] at hi
    cases hi
  · split at hi
    case h_1 | h_30 => cases hi
    all_goals omega

theorem decodeAtomic_reserved {w : Word} (hm : w.extractLsb' 0 6 = 0x0F) (h : 0xD ≤ (w.extractLsb' 24 4).toNat) (i : Instr) :
    decodeSpineFields w ≠ .ok i := by
  intro hi
  have hat : decodeSpineFields w = decodeAtomic w := by
    unfold decodeSpineFields
    rw [hm]
    rfl
  rw [hat] at hi
  unfold decodeAtomic at hi
  dsimp only at hi
  split at hi
  case h_14 => cases hi
  all_goals omega

/-- A slot of space g has 128 registers (14 R314). -/
theorem srcDec_gRange : ∀ f : BitVec 11, f.extractLsb' 8 2 = 1#2 → f.getLsbD 7 = true → Src.dec f = none := by decide

theorem laneFields_slot {w : BitVec 96} (hs : w.extractLsb' 40 2 = 1#2) (hi : w.getLsbD 39 = true) (o : LaneOp) :
    laneFields w ≠ .ok o := by
  have hsrc : Src.dec (w.extractLsb' 32 11) = none := by
    apply srcDec_gRange
    · rw [← hs]
      apply BitVec.eq_of_getLsbD_eq
      intro k hk
      simp only [BitVec.getLsbD_extractLsb', show 8 + k < 11 by omega, ← Nat.add_assoc, decide_true, Bool.true_and]
    · rw [BitVec.getLsbD_extractLsb']
      exact hi
  intro h
  unfold laneFields at h
  split at h
  case h_1 ha _ _ => rw [hsrc] at ha; cases ha
  all_goals cases h

/-- Settles O48: each part of the decoder accepts only the words of its instructions. -/
theorem acceptedAndRefusedWords : Obligations.AcceptedAndRefusedWords := by
  refine ⟨fun w i h => ?_, fun w i h => ?_, fun w h i hi => ?_, fun w hm hop i hi => ?_, fun w h i hi => ?_,
    fun w hs hbit i hi => ?_⟩
  · obtain ⟨hf, hwf⟩ := decodeSpine_eq_ok h
    exact ⟨hwf, decodeSpineFields_word hf⟩
  · obtain ⟨-, o, hf, hmk, hwf⟩ := decodeLane_eq_ok h
    exact ⟨hwf, _, o, lane_laneMk hmk, word_of_laneFields hf⟩
  · exact decodeSpineFields_reserved h i (decodeSpine_eq_ok hi).1
  · exact decodeAtomic_reserved hm hop i (decodeSpine_eq_ok hi).1
  · exact (decodeLane_eq_ok hi).1 h
  · obtain ⟨-, o, hf, -⟩ := decodeLane_eq_ok hi
    exact laneFields_slot hs hbit o hf

end Sys2Proof.LaneEncoding

/-! ## Memory, fences and shared registers of the spine (15 R351 to R361, 13 R298) -/

namespace Sys2Proof.SpineMemory

open Sys2Proof Sys2Proof.Machine Sys2Proof.SpineIntegers Sys2Proof.SpineInstructions Sys2Proof.SquadTraps

/-! ### Bytes and numbers -/

theorem bytesOf_mod (n x : Nat) : bytesOf n (x % 256 ^ n) = bytesOf n x := by
  induction n generalizing x with
  | zero => rfl
  | succ n ih =>
    have hlow : BitVec.ofNat 8 (x % 256 ^ (n + 1)) = BitVec.ofNat 8 x := by
      apply BitVec.eq_of_toNat_eq
      rw [BitVec.toNat_ofNat, BitVec.toNat_ofNat, Nat.mod_mod_of_dvd _ (Dvd.intro_left (256 ^ n) (Nat.pow_succ ..).symm)]
    rw [bytesOf, bytesOf, hlow, ← ih (x / 256), Nat.pow_succ', Nat.mod_mul_right_div_self]

theorem two_pow_mul (n : Nat) : 2 ^ (8 * n) = 256 ^ n := by rw [pow_mul]; rfl

theorem bytesOf_toNat_ofNat (n x : Nat) : bytesOf n (BitVec.ofNat (8 * n) x).toNat = bytesOf n x := by
  rw [BitVec.toNat_ofNat, two_pow_mul, bytesOf_mod]

theorem toNat_ofNat_fieldOf (bs : List Byte) (i n : Nat) : (BitVec.ofNat (8 * n) (fieldOf bs i n)).toNat = fieldOf bs i n := by
  rw [BitVec.toNat_ofNat, two_pow_mul, Nat.mod_eq_of_lt (fieldOf_lt bs n i)]

/-- A loaded value, extended. -/
theorem spExt_eq_extended (sx : Bool) (n : Nat) (hn : 0 < n) (bs : List Byte) : spExt sx n bs = Claims.extended sx n bs := by
  cases sx with
  | false => rfl
  | true =>
    have h := sxNat_toNat (show 0 < 8 * n by omega) (BitVec.ofNat (8 * n) (fieldOf bs 0 n))
    rw [toNat_ofNat_fieldOf] at h
    simp only [spExt, if_true, h, ofNat_toBits, Claims.extended]
    rfl

/-- The old value of an atomic, or an acquiring load's, is sign-extended. -/
theorem amoOld_eq_extended (w : Bool) (bs : List Byte) : amoOld w bs = Claims.extended true (Claims.wide w) bs := by
  cases w with
  | false => exact spExt_eq_extended true 4 (by decide) bs
  | true =>
    simp only [amoOld, Claims.wide, if_true, Claims.extended]
    exact (BitVec.signExtend_eq _).symm

/-! ### How an instruction ends, waits or is performed -/

theorem spineSet_eq_wrote' (s : State) (t : Nat) (d : BitVec 6) (v : Dword) : spineSet s t d v = Claims.wrote' s t d v := by
  simp only [spineSet, Claims.wrote', retire, setX_pc]
  rfl

theorem modSpine_retire (s : State) (t : Nat) : modSpine s t retire = Claims.passed s t := rfl

theorem spineIllop_eq (s : State) (t : Nat) (i : Instr) :
    spineIllop s t i = spineTrap s t tIllop ((i.spineWord?.getD 0).setWidth 64) := rfl

section Access
variable {s s' : State} {t : Nat} {sp : Spine} {va : Dword} {n : Nat} {bs : List Byte}

theorem spAligned_misaligned (h : va.toNat % n ≠ 0) (k : State) : spAligned s t va n k = spineTrap s t tMisalign va := if_pos h

theorem spAligned_aligned (h : va.toNat % n = 0) (k : State) : spAligned s t va n k = k := if_neg (not_not.2 h)

/-- A read that is performed reaches the continuation. -/
theorem spineRead_reads (h : Claims.reads s t sp va n s' bs) (k : State → List Byte → State) :
    spineRead s t sp va n k = k s' bs := by
  obtain ⟨hr, rfl⟩ | ⟨hr, hm, hload⟩ := h
  · exact spineRead_answer hr k
  · exact spineRead_done hr hm hload k

/-- So does a write. -/
theorem spineWrite_writes {i : Instr} (h : Claims.writes s t sp i va bs s') (k : State → State) :
    spineWrite s t sp i va bs k = k s' := by
  obtain ⟨hr, rfl⟩ | ⟨hr, hm, s1, hstore, rfl⟩ := h
  · obtain ⟨r, hr⟩ := Option.ne_none_iff_exists'.1 hr
    exact spineWrite_answer hr k
  · exact spineWrite_done hr hm hstore k

/-- And a release whose entries have settled. -/
theorem spineRelease_settled (h : Claims.settled s t s') (k : State → State) : spineRelease s t k = k s' := by
  obtain ⟨haway, rfl, hmerged⟩ := h
  simp [spineRelease, haway, hmerged]

/-- One with writes on their way to the host or a peer waits for them. -/
theorem spineRelease_away (h : writesAway s (.spine t) ≠ []) (k : State → State) :
    spineRelease s t k = modSpine (pcieFlush s (.spine t)) t fun q => { q with wait := .hold } := by
  simp [spineRelease, h]

end Access

/-! ### Traps of a spine thread (13 R298) -/

theorem bitsOf_low (x : Word) : bitsOf x.toNat 0 8 = 0 ↔ x.extractLsb' 0 8 = 0 := by
  rw [← toNat_eq_zero_iff, BitVec.extractLsb'_toNat]
  simp [bitsOf]

/-- Settles O5: `spineTrap` at a thread that exists. -/
theorem spineTrapEntry : Obligations.SpineTrapEntry := by
  intro s t sp code val h
  refine ⟨fun hhand hnone => ?_, fun hends => ?_⟩
  · have hno : ¬ (sp.shand = 0 ∨ bitsOf sp.scause.toNat 0 8 ≠ 0) := by
      rintro (h0 | hbusy)
      · exact hhand h0
      · exact hbusy ((bitsOf_low _).2 hnone)
    simp only [spineTrap, h, if_neg hno, modSpine_of_mget h, BitVec.ofNat_toNat]
    rfl
  · exact spineTrap_ends h code val (hends.imp_right fun hb h0 => hb ((bitsOf_low _).1 h0))

/-! ### Loads and stores (15 R351, R354) -/

/-- Settles O6: past the alignment check an access is `spineRead_reads` or `spineWrite_writes`. -/
theorem spineLoadsAndStores : Obligations.SpineLoadsAndStores := by
  intro s t sp h
  constructor
  · intro i x z a d n va
    refine ⟨fun hva => ⟨?_, ?_⟩, fun hva s' bs => ⟨fun _ hread => ?_, fun hwrite => ?_⟩⟩
    · exact (spineEnter_next h _).trans (congrArg _ (spAligned_misaligned hva _))
    · exact (spineEnter_next h _).trans (congrArg _ (spAligned_misaligned hva _))
    · refine (spineEnter_next h _).trans (congrArg _ ((spAligned_aligned hva _).trans ((spineRead_reads hread _).trans ?_)))
      rw [spineSet_eq_wrote']
      exact congrArg _ (spExt_eq_extended x n (Nat.two_pow_pos _) bs)
    · exact (spineEnter_next h _).trans (congrArg _ ((spAligned_aligned hva _).trans (spineWrite_writes hwrite _)))
  · intro w o b a d n va
    refine ⟨fun hva => ⟨?_, ?_⟩, fun hva s' bs => ⟨fun hread => ?_, fun s1 hs1 hwrite => ?_⟩⟩
    · exact (spineEnter_next h _).trans (congrArg _ (spAligned_misaligned hva _))
    · exact (spineEnter_next h _).trans (congrArg _ (spAligned_misaligned hva _))
    · refine (spineEnter_next h _).trans (congrArg _ ((spAligned_aligned hva _).trans ((spineRead_reads hread _).trans ?_)))
      rw [spineSet_eq_wrote', amoOld_eq_extended]
    · refine (spineEnter_next h _).trans (congrArg _ ((spAligned_aligned hva _).trans ?_))
      obtain ⟨hresp, rfl⟩ | ⟨hresp, hset⟩ := hs1
      · exact (if_pos (Option.isSome_iff_ne_none.2 hresp)).trans (spineWrite_writes hwrite _)
      · exact (if_neg (by simp [hresp])).trans ((spineRelease_settled hset _).trans (spineWrite_writes hwrite _))

/-! ### Atomics (15 R353, R354) -/

section Atomic
variable {s s' : State} {t : Nat} {sp : Spine} {order : BitVec 3} {va : Dword} {n : Nat} {kind : ReqKind}
  {f : List Byte → List Byte} {k : State → List Byte → State}

theorem spineAtomic_misaligned (h : va.toNat % n ≠ 0) :
    spineAtomic s t sp order va n kind f k = spineTrap s t tMisalign va := if_pos h

theorem spineAtomic_hostHomed (h : va.toNat % n = 0) (hh : hostHomed s (rqSpine s sp) va.toNat = true) :
    spineAtomic s t sp order va n kind f k = spineTrap s t tHostatom va := by
  rw [spineAtomic, if_neg (not_not.2 h), if_pos hh]

/-- An atomic that is performed goes on with the old bytes. -/
theorem spineAtomic_performed {old : List Byte} (h : va.toNat % n = 0) (hh : hostHomed s (rqSpine s sp) va.toNat = false)
    (hp : Claims.atomics s t sp order va n f s' old) : spineAtomic s t sp order va n kind f k = k s' old := by
  rw [spineAtomic, if_neg (not_not.2 h), if_neg (by simp [hh])]
  obtain ⟨hr, rfl⟩ | ⟨hr, hm, s1, s2, hs1, hatom, rfl⟩ := hp
  · simp only [hr]
  · simp only [hr, hm, Bool.false_eq_true, if_false]
    split
    · next ho =>
      rw [if_pos ho] at hs1
      simp only [spineRelease_settled hs1, hatom, spineGot]
    · next ho =>
      rw [if_neg ho] at hs1
      simp only [hs1] at hatom ⊢
      simp only [hatom, spineGot]

end Atomic

/-- What an operation of `amo` makes of a location's bytes. -/
theorem bytesOf_apply_int {op : SpineOp} {f : (n : Nat) → BitVec n → BitVec n → BitVec n} (hop : Computes op f) (n : Nat)
    (hn : 0 < n) (x : Dword) (old : List Byte) :
    bytesOf n ((AmoOp.int op).apply (8 * n) (fieldOf old 0 n) x.toNat) = Claims.amoBytes n (f (8 * n)) x old := by
  rw [Claims.amoBytes, ← hop _ (by omega), toNat_ofNat_fieldOf, bytesOf_toNat_ofNat, BitVec.toNat_setWidth, AmoOp.apply]

theorem bytesOf_apply_swap (n : Nat) (x : Dword) (old : List Byte) :
    bytesOf n (AmoOp.swap.apply (8 * n) (fieldOf old 0 n) x.toNat) = Claims.amoBytes n (fun _ x => x) x old := by
  rw [Claims.amoBytes, BitVec.toNat_setWidth, AmoOp.apply]

/-- Each row of the table is an operation of the model. -/
theorem amoTable_rows : ∀ r ∈ Claims.amoTable, ∃ op : AmoOp,
    (∀ (n : Nat), 0 < n → ∀ (x : Dword) (old : List Byte),
      bytesOf n (op.apply (8 * n) (fieldOf old 0 n) x.toNat) = Claims.amoBytes n (r.2 (8 * n)) x old) ∧
    ∀ w o b a d s, exec (r.1 w o b a d) s = spineAmo op w o b a d s := by
  simp only [Claims.amoTable, List.forall_mem_cons]
  exact ⟨⟨_, fun n _ => bytesOf_apply_swap n, fun _ _ _ _ _ _ => rfl⟩,
    ⟨_, bytesOf_apply_int computes_add, fun _ _ _ _ _ _ => rfl⟩, ⟨_, bytesOf_apply_int computes_and, fun _ _ _ _ _ _ => rfl⟩,
    ⟨_, bytesOf_apply_int computes_or, fun _ _ _ _ _ _ => rfl⟩, ⟨_, bytesOf_apply_int computes_xor, fun _ _ _ _ _ _ => rfl⟩,
    ⟨_, bytesOf_apply_int computes_min, fun _ _ _ _ _ _ => rfl⟩, ⟨_, bytesOf_apply_int computes_max, fun _ _ _ _ _ _ => rfl⟩,
    ⟨_, bytesOf_apply_int computes_minn, fun _ _ _ _ _ _ => rfl⟩,
    ⟨_, bytesOf_apply_int computes_maxn, fun _ _ _ _ _ _ => rfl⟩, nofun⟩

theorem getPair_lt (sp : Spine) (n : BitVec 6) : getPair sp n < 2 ^ 128 := by
  have hlow := (getX sp n).isLt
  have hhigh := (getX sp (n + 1)).isLt
  simp only [getPair]
  omega

/-- Settles O7: `spineAtomic`'s three lemmas at each instruction; the tables' rows by `amoTable_rows`. -/
theorem spineAtomics : Obligations.SpineAtomics := by
  intro w o b a d s t sp h n va
  have hn : 0 < n := by cases w <;> decide
  refine ⟨fun i hi => ?_, fun hva hh s' old => ⟨fun r hr hp => ?_, fun hp => ?_⟩, fun hva => ?_, fun hva hh => ?_,
    fun hva hh s' old hp => ?_⟩
  · -- the checks
    obtain ⟨kind, f, k, hexec⟩ : ∃ (kind : Spine → ReqKind) (f : Spine → List Byte → List Byte)
        (k : Nat → State → List Byte → State), exec i s = spineEnter s fun t sp =>
          spineAtomic s t sp o (getX sp a) n (kind sp) (f sp) (k t) := by
      obtain hi | hi := List.mem_append.1 hi
      · obtain ⟨r, hr, rfl⟩ := List.mem_map.1 hi
        obtain ⟨op, -, hexec⟩ := amoTable_rows r hr
        exact ⟨_, _, _, hexec w o b a d s⟩
      · obtain rfl := List.mem_singleton.1 hi
        exact ⟨_, _, _, rfl⟩
    rw [hexec, spineEnter_next h]
    exact ⟨fun hva => congrArg _ (spineAtomic_misaligned hva), fun hva hh => congrArg _ (spineAtomic_hostHomed hva hh)⟩
  · obtain ⟨op, hop, hexec⟩ := amoTable_rows r hr
    rw [hexec, spineAmo, spineEnter_next h]
    have hf : (fun old => bytesOf n (op.apply (8 * n) (fieldOf old 0 n) (getX sp b).toNat))
        = Claims.amoBytes n (r.2 (8 * n)) (getX sp b) := funext fun old => hop n hn _ old
    refine congrArg _ ((spineAtomic_performed hva hh (hf ▸ hp)).trans ?_)
    rw [spineSet_eq_wrote', amoOld_eq_extended]
  · refine (spineEnter_next h _).trans (congrArg _ ((spineAtomic_performed hva hh hp).trans ?_))
    rw [spineSet_eq_wrote', amoOld_eq_extended]
  · exact (spineEnter_next h _).trans (congrArg _ (spineAtomic_misaligned hva))
  · exact (spineEnter_next h _).trans (congrArg _ (spineAtomic_hostHomed hva hh))
  · have hf : (fun old => if fieldOf old 0 16 = getPair sp d then bytesOf 16 (getPair sp b) else old)
        = Claims.swapBytes 16 (Claims.pair sp d) (Claims.pair sp b) := by
      funext old
      have hd : Claims.pair sp d % 2 ^ (8 * 16) = getPair sp d := Nat.mod_eq_of_lt (getPair_lt sp d)
      have hb : Claims.pair sp b % 2 ^ (8 * 16) = getPair sp b := Nat.mod_eq_of_lt (getPair_lt sp b)
      rw [Claims.swapBytes, hd, hb]
    refine (spineEnter_next h _).trans (congrArg _ ((spineAtomic_performed hva hh (hf ▸ hp)).trans ?_))
    simp only [retire, setX_pc]
    rfl

/-! ### Fences and `loc` (15 R357, R367) -/

/-- Settles O8: a release is `spineRelease_settled` or `spineRelease_away`. -/
theorem spineFencesAndLoc : Obligations.SpineFencesAndLoc := by
  intro s t sp h
  refine ⟨fun k c => ⟨fun hk => ?_, fun hk => ⟨fun s' hs' => ?_, fun haway => ?_⟩⟩, ?_,
    fun hg haway => ?_, fun hg hwaits => ?_, fun hg hwaits => ?_, fun a d s' n hloc => ?_⟩
  · exact (spineEnter_next h _).trans (congrArg _ (if_neg (by omega)))
  · exact (spineEnter_next h _).trans (congrArg _ ((if_pos hk).trans (spineRelease_settled hs' _)))
  · exact (spineEnter_next h _).trans (congrArg _ ((if_pos hk).trans (spineRelease_away haway _)))
  · intro hg s0 hs0 s1
    have hexec : exec .spinePfence s = .next (if anyCxl s1 then
        modSpine { s1 with pfences := s1.pfences ++ [.spine t] } t fun q => { q with wait := .hold, granted := some 0 }
      else modSpine s1 t retire) :=
      (spineEnter_next h _).trans (congrArg _ ((if_neg (by simp [hg])).trans (spineRelease_settled hs0 _)))
    exact ⟨fun hcxl => hexec.trans (congrArg _ (if_neg (Bool.eq_false_iff.1 hcxl))), fun hcxl =>
      hexec.trans (congrArg _ (if_pos hcxl))⟩
  · exact (spineEnter_next h _).trans (congrArg _ ((if_neg (by simp [hg])).trans (spineRelease_away haway _)))
  · refine (spineEnter_next h _).trans (congrArg _ ?_)
    rw [if_pos (Option.isSome_iff_ne_none.2 hg), if_pos hwaits]
  · refine (spineEnter_next h _).trans (congrArg _ ?_)
    rw [if_pos (Option.isSome_iff_ne_none.2 hg), if_neg (Bool.eq_false_iff.1 hwaits)]
    rfl
  · refine (spineEnter_next h _).trans (congrArg _ ?_)
    simp only [hloc]
    exact spineSet_eq_wrote' ..

/-! ### Shared registers (15 R358 to R361) -/

section Bank
variable {s s' : State} {t : Nat} {sp : Spine} {n : Nat} {op : HOp} {v : Dword}

theorem spineBank_performed (h : Claims.bank s t sp n op s' v) (k : State → Dword → State) :
    spineBank s t sp n op k = k s' v := by
  obtain ⟨hg, rfl⟩ | ⟨hg, harrive⟩ := h
  · simp only [spineBank, hg]
  · simp only [spineBank, hg, harrive]

/-- An operation that releases is performed once what it releases has settled, or if it was while the thread waited. -/
theorem spineBankRelease_performed {s0 : State} (hr : Claims.releases s t sp s0) (h : Claims.bank s0 t sp n op s' v)
    (k : State → Dword → State) : spineBankRelease s t sp n op k = k s' v := by
  obtain ⟨hg, rfl⟩ | ⟨hg, hset⟩ := hr
  · exact (if_pos (Option.isSome_iff_ne_none.2 hg)).trans (spineBank_performed h k)
  · exact (if_neg (by simp [hg])).trans ((spineRelease_settled hset _).trans (spineBank_performed h k))

end Bank

theorem accBad_eq_false (c : Nat) : accBad c = false ↔ c / 2 ^ 23 = 0 ∧ bitsOf c 20 3 ≤ 4 ∧ bitOf c 19 = false
    ∧ bitsOf c 16 3 ≤ 4 ∧ bitsOf c 11 5 = 0 ∧ 1 ≤ bitsOf c 0 11 ∧ bitsOf c 0 11 ≤ 1024 := by
  simp only [accBad, Bool.or_eq_false_iff, bne_eq_false_iff_eq, beq_eq_false_iff_ne, decide_eq_false_iff_not, not_lt, and_assoc,
    Nat.one_le_iff_ne_zero]

theorem hStatus_eq (e : HEntry) :
    hStatus e = 2 ^ 16 * e.recv.toNat + 2 ^ 8 * e.count.toNat + (if e.gather then 2 else 0) + (if e.full then 1 else 0) := by
  rw [hStatus, Nat.mul_comm (2 ^ 16), Nat.mul_comm (2 ^ 8)]

/-- Settles O9: past the limits each instruction is `spineBank_performed`, or `spineBankRelease_performed` where it releases. -/
theorem spineSharedRegisters : Obligations.SpineSharedRegisters := by
  intro i a d s t sp h c x word
  refine ⟨fun hc => ?_, fun h1 h255 s0 hr s' v hb => ?_, fun s' v hb => ?_, ?_, ?_, ?_⟩
  · exact (spineEnter_next h _).trans (congrArg _ (if_pos hc))
  · refine (spineEnter_next h _).trans (congrArg _ ((if_neg ?_).trans (spineBankRelease_performed hr hb _)))
    rintro (h0 | hlt)
    · exact absurd h0 (Nat.one_le_iff_ne_zero.1 h1)
    · exact absurd h255 (Nat.not_le.2 hlt)
  · exact (spineEnter_next h _).trans (congrArg _ ((spineBank_performed hb _).trans (spineSet_eq_wrote' ..)))
  · refine (spineEnter_next h _).trans (congrArg _ ((spineSet_eq_wrote' ..).trans ?_))
    rw [hStatus_eq]
  · intro ok
    refine ⟨fun hbad => ?_, fun hok s0 hr s' v hb => ?_⟩
    · have hbad : accBad c = true := by rw [← Bool.not_eq_false, accBad_eq_false]; exact hbad
      exact (spineEnter_next h _).trans (congrArg _ (if_pos hbad))
    · have hok : ¬ accBad c = true := by rw [Bool.not_eq_true, accBad_eq_false]; exact hok
      exact (spineEnter_next h _).trans (congrArg _ ((if_neg hok).trans (spineBankRelease_performed hr hb _)))
  · intro cmd cons ok
    have hok : (x / 2 ^ 16 ≠ 0 ∨ bitsOf x 2 6 ≠ 0 ∨ cmd = 3 ∨ (cmd ≠ 1 ∧ cons = 0)) ↔ ¬ ok := by
      simp only [ok]
      tauto
    refine ⟨fun hbad => ?_, fun hgood => ?_⟩
    · exact (spineEnter_next h _).trans (congrArg _ (if_pos (hok.2 hbad)))
    · exact (spineEnter_next h _).trans (congrArg _ (if_neg (mt hok.1 (not_not.2 hgood))))

/-! ### Control registers, ends, waits, time and random values (15 R362 to R366) -/

theorem spineCsrWrite_eq (sp : Spine) (i : BitVec 8) (v : Dword) : spineCsrWrite sp i.toNat v =
    if i = 0x80 then { sp with scause := v.setWidth 32 &&& 0xFF }
    else if i = 0x81 then { sp with sepc := v }
    else if i = 0x83 ∧ v.toNat % 4 = 0 then { sp with shand := v }
    else if i = 0x84 then { sp with sfpmode := v.setWidth 32 &&& 0x39F }
    else sp := by
  have number (m : BitVec 8) : i.toNat = m.toNat ↔ i = m := BitVec.toNat_inj
  unfold spineCsrWrite
  split
  case h_1 hi => rw [if_pos ((number 0x80).1 hi)]
  case h_2 hi =>
    obtain rfl := (number 0x81).1 hi
    rfl
  case h_3 hi =>
    obtain rfl := (number 0x83).1 hi
    simp
  case h_4 hi =>
    obtain rfl := (number 0x84).1 hi
    simp
  case h_5 h0 h1 h3 h4 =>
    rw [if_neg (mt (number 0x80).2 h0), if_neg (mt (number 0x81).2 h1), if_neg (fun h => h3 ((number 0x83).2 h.1)),
      if_neg (mt (number 0x84).2 h4)]

theorem spineCsrWrite_pc (sp : Spine) (n : Nat) (v : Dword) : (spineCsrWrite sp n v).pc = sp.pc := by
  unfold spineCsrWrite
  repeat' split
  all_goals rfl

/-! The values that a recording logs, or a replay gives back (05 R129, R130). -/

section Logged
variable {s : State} {t : Nat} {sp : Spine} {kind : Nat} {live : Dword} {d : BitVec 6}

/-- The thread has taken a result, and counts it. -/
def counted (s : State) (t : Nat) (d : BitVec 6) (v : Dword) : State :=
  modSpine s t fun q => Claims.gone (setX { q with ndet := q.ndet + 1 } d v) (q.pc + 4)

/-- The key of the thread's next result. -/
def resultKeyOf (s : State) (t : Nat) (sp : Spine) (kind : Nat) : List Byte := logKey kind 1 0 0 (teamOf s t).index sp.ndet

theorem length_resultKeyOf : (resultKeyOf s t sp kind).length = 24 := by
  simp [resultKeyOf, logKey]

theorem modSpine_modSpine (s : State) (t : Nat) (f g : Spine → Spine) :
    modSpine (modSpine s t f) t g = modSpine s t fun sp => g (f sp) := by
  simp only [modSpine, mmod_mmod]

theorem spineSet_counted (s : State) (t : Nat) (d : BitVec 6) (v : Dword) :
    spineSet (modSpine s t fun sp => { sp with ndet := sp.ndet + 1 }) t d v = counted s t d v := by
  rw [spineSet, modSpine_modSpine, counted]
  congr 1
  funext q
  rw [retire, setX_pc]
  rfl

/-- An SVP thread's results are not recorded (log entry 86). -/
theorem spineLogged_svp (h : isSvp t = true) : spineLogged s t sp kind live d = spineSet s t d live := if_pos h

theorem spineLogged_granted (h : isSvp t = false) {v : Dword} (hg : sp.granted = some v)
    (hp : (s.dpush.any fun p => p.who == .spine t) = false) : spineLogged s t sp kind live d = spineSet s t d v := by
  simp only [spineLogged, h, hg, hp, Bool.false_eq_true, if_false]

/-- A replay waits where a page of the log is held. -/
theorem spineLogged_held (h : isSvp t = false) (hg : sp.granted = none)
    (hh : logHeld s (slotOf s t) (resultKeyOf s t sp kind) = true) :
    spineLogged s t sp kind live d = spineWait s t .hold none := by
  simp only [resultKeyOf] at hh
  simp only [spineLogged, h, hg, hh, Bool.false_eq_true, if_false, if_true]

/-- A value that is not pushed is taken at once. -/
theorem spineLogged_value (h : isSvp t = false) (hg : sp.granted = none)
    (hh : logHeld s (slotOf s t) (resultKeyOf s t sp kind) = false) {s' : State} {v : Dword}
    (hv : logValue s (slotOf s t) (resultKeyOf s t sp kind) live none (.spine t) = (s', v))
    (hp : (s'.dpush.any fun p => p.who == .spine t) = false) : spineLogged s t sp kind live d = counted s' t d v := by
  simp only [resultKeyOf] at hh hv
  simp only [spineLogged, h, hg, hh, hv, modSpine_dpush, hp, Bool.false_eq_true, if_false, spineSet_counted]

/-- One that is waits for its push. -/
theorem spineLogged_pushed (h : isSvp t = false) (hg : sp.granted = none)
    (hh : logHeld s (slotOf s t) (resultKeyOf s t sp kind) = false) {s' : State} {v : Dword}
    (hv : logValue s (slotOf s t) (resultKeyOf s t sp kind) live none (.spine t) = (s', v))
    (hp : (s'.dpush.any fun p => p.who == .spine t) = true) : spineLogged s t sp kind live d
      = modSpine s' t fun q => { q with ndet := q.ndet + 1, wait := .hold, granted := some v } := by
  simp only [resultKeyOf] at hh hv
  simp only [spineLogged, h, hg, hh, hv, modSpine_dpush, hp, Bool.false_eq_true, if_false, if_true, modSpine_modSpine]

theorem testBit_eq_bitOf (x i : Nat) : x.testBit i = bitOf x i := by
  rw [Nat.testBit_eq_decide_div_mod_eq]
  rfl

theorem logHeld_of_not_play (slot : Nat) (key : List Byte) (h : (recCtl s slot).testBit 1 = false) :
    logHeld s slot key = false := by
  rw [testBit_eq_bitOf] at h
  simp [logHeld, recPlay, h]

end Logged

/-- Settles O10: control registers by `spineCsr` and `spineCsrWrite_eq`, results that are logged by the lemmas of
`spineLogged`. -/
theorem spineSystemInstructions : Obligations.SpineSystemInstructions := by
  intro s t sp h
  refine ⟨fun d => ?_, ?_, fun s1 hs1 => ?_, fun c => ?_, fun a => ⟨fun hg => ?_, fun hg => ?_⟩, fun d => ⟨?_, ?_⟩⟩
  · have read (i : BitVec 8) : exec (.spineCsrr i d) s = .next (Claims.wrote s t sp d (spineCsr s sp i.toNat)) :=
      spineEnter_set h d fun sp => spineCsr s sp i.toNat
    refine ⟨read 0x80, read 0x81, read 0x82, read 0x83, read 0x84, read 0x85, (read 0x86).trans ?_⟩
    rw [spineCsr, Nat.mul_comm]
    all_goals decide
  · intro i a v
    refine (spineEnter_next h _).trans (congrArg _ ((modSpine_eq_thread h _).trans ?_))
    rw [retire, spineCsrWrite_pc, spineCsrWrite_eq]
    rfl
  · exact (spineEnter_next h _).trans (congrArg _ (spineRelease_settled hs1 _))
  · exact spineEnter_next h _
  · refine (spineEnter_next h _).trans (congrArg _ ((if_neg (by simp [hg])).trans ?_))
    simp only [modSpine_eq_thread h, toNat_eq_zero_iff]
  · exact (spineEnter_next h _).trans (congrArg _ (if_pos (Option.isSome_iff_ne_none.2 hg)))
  · intro hsvp
    have live (kind : Nat) (v : Dword) : spineLogged s t sp kind v d = Claims.wrote s t sp d v :=
      (spineLogged_svp hsvp).trans (spineSet_eq_wrote h d v)
    exact ⟨(spineEnter_next h _).trans (congrArg _ (live ..)), (spineEnter_next h _).trans (congrArg _ (live ..))⟩
  · intro hsvp x hx key rc pushing push after
    have hexec : exec x.2.1 s = .next (spineLogged s t sp x.1 x.2.2 d) := by
      simp only [List.mem_cons, List.not_mem_nil, or_false] at hx
      obtain rfl | rfl := hx
      · exact spineEnter_next h _
      · exact spineEnter_next h _
    rw [hexec]
    have hkey : resultKeyOf s t sp x.1 = key := rfl
    have hrec : recRec (recCtl s (slotOf s t)) = rc.testBit 0 := (testBit_eq_bitOf ..).symm
    have hplay : recPlay (recCtl s (slotOf s t)) = rc.testBit 1 := (testBit_eq_bitOf ..).symm
    have hhas (e : List Byte) : logHas key e = decide (e.take 24 = key) := by rw [logHas, ← hkey, length_resultKeyOf]
    have hfind : logFind s (slotOf s t) (logHas key) = logFind s (slotOf s t) fun e => e.take 24 = key :=
      congrArg _ (funext hhas)
    refine ⟨fun hg h0 h1 hp => congrArg _ ?_, fun hg h0 h1 => congrArg _ ?_, fun v hg hp => congrArg _ ?_,
      fun hg h1 hp => ⟨fun c bs hf => congrArg _ ?_, fun hf => congrArg _ ?_, fun hf => congrArg _ ?_⟩⟩
    · exact spineLogged_value hsvp hg (logHeld_of_not_play _ _ h1) (by simp [logValue, hplay, hrec, h0, h1]) hp
    · refine spineLogged_pushed (s' := { s with nextId := s.nextId + 1, dpush := s.dpush ++ [push] }) hsvp hg
        (logHeld_of_not_play _ _ h1) ?_ (by simp [push])
      simp only [logValue, hplay, hrec, h0, h1]
      rfl
    · exact (spineLogged_granted hsvp hg hp).trans (spineSet_eq_wrote h d v)
    · refine spineLogged_value hsvp hg ?_ ?_ hp
      · simp [logHeld, hkey, hfind, hf]
      · simp [logValue, hkey, hplay, h1, hfind, hf]
    · refine spineLogged_value (s' := svcErr s) hsvp hg ?_ ?_ hp
      · simp [logHeld, hkey, hfind, hf]
      · simp [logValue, hkey, hplay, h1, hfind, hf]
    · refine spineLogged_held hsvp hg ?_
      simp [logHeld, hkey, hplay, h1, hfind, hf]

end Sys2Proof.SpineMemory

/-! ## Queues, copies and tensor identifiers of the spine (15 R363, R368 to R372); frames (07 R163) -/

namespace Sys2Proof.SpineEngine

open Sys2Proof Sys2Proof.Machine Sys2Proof.SpineInstructions Sys2Proof.SpineMemory Sys2Proof.SpineIntegers

section Forms
variable {s s' : State} {t : Nat} {sp : Spine} {n : Nat} {va : Dword} {bs : List Byte} {b a : BitVec 6} {i : Instr}

/-- A push that is reserved completes, or reports so. -/
theorem spinePush_reserved {launch : Bool} {d : Option (BitVec 6)} {c : Nat}
    (h : Claims.pushes s t sp n bs launch d.isSome s' c) :
    spinePush s t sp n bs launch d = spineTried (escape s' t).fresh t d true := by
  obtain ⟨s1, hset, hpush⟩ := h
  rw [spinePush, spineRelease_settled hset, hpush]
  rfl

/-- Bytes that the thread has taken are written, and their store is performed. -/
theorem spineKept_done {s1 : State} {k : State → State}
    (h : storeRange (modSpine s t fun q => { q with granted := some 1, resp := some bs })
      (rqSpine (modSpine s t fun q => { q with granted := some 1, resp := some bs }) sp) va.toNat bs = (s1, .done)) :
    spineKept s t sp va bs k = k s1 := by
  simp only [spineKept, h, spineGot]

theorem spineKeeps_start (h : sp.granted = none ∨ sp.resp = none) (k : State → State) (start : State) :
    spineKeeps s t sp va k start = start := by
  obtain h | h := h
  · simp only [spineKeeps, h]
  · cases hg : sp.granted <;> simp only [spineKeeps, hg, h]

/-- A kept write that a home outside has answered goes on. -/
theorem spineKeeps_answered (hg : sp.granted ≠ none) (hr : sp.resp = some []) (k : State → State) (start : State) :
    spineKeeps s t sp va k start = k s := by
  obtain ⟨v, hv⟩ := Option.ne_none_iff_exists'.1 hg
  simp only [spineKeeps, hv, hr]

/-- A pop whose destination can be written. -/
theorem spinePop_popped {d : Option (BitVec 6)} {s1 s2 s3 : State} (hr : sp.resp = none)
    (hown : ownBytes s (rqSpine s sp) va.toNat 64 = (s1, .done))
    (hpop : qPop s1 (rqSpine s sp) n d.isSome = (s2, .popped bs))
    (hstore : storeRange (modSpine (escape s2 t) t fun q => { q with granted := some 1, resp := some bs })
      (rqSpine (modSpine (escape s2 t) t fun q => { q with granted := some 1, resp := some bs }) sp) va.toNat bs = (s3, .done)) :
    spinePop s t sp n va d = spineTried s3 t d true := by
  rw [spinePop, spineKeeps_start (.inr hr)]
  simp only [hr, hown, hpop, spineAns]
  exact spineKept_done hstore

theorem spinePop_answered {d : Option (BitVec 6)} (hg : sp.granted ≠ none) (hr : sp.resp = some []) :
    spinePop s t sp n va d = spineTried s t d true := by
  rw [spinePop]
  exact spineKeeps_answered hg hr _ _

/-! The operands of a queue operation, in the order of their checks. -/

variable {push : Bool} {k : Nat → Spine → Nat → Dword → State}

theorem spineQueue_number (h : curSpine s = some (t, sp)) (hn : 1023 < (getX sp a).toNat) :
    spineQueue i push b a s k = .next (spineIllop s t i) :=
  (spineEnter_next h _).trans (congrArg _ (if_pos hn))

theorem spineQueue_zero (h : curSpine s = some (t, sp)) (hn : (getX sp a).toNat = 0) :
    spineQueue i true b a s k = .next (spineTrap s t tPriv 0) :=
  (spineEnter_next h _).trans (congrArg _ ((if_neg (by omega)).trans (if_pos ⟨rfl, hn⟩)))

theorem spineQueue_misaligned (h : curSpine s = some (t, sp)) (hn : (getX sp a).toNat ≤ 1023)
    (h0 : push = true → (getX sp a).toNat ≠ 0) (hva : (getX sp b).toNat % 64 ≠ 0) :
    spineQueue i push b a s k = .next (spineTrap s t tMisalign (getX sp b)) :=
  (spineEnter_next h _).trans (congrArg _ ((if_neg (by omega)).trans ((if_neg fun hp => h0 hp.1 hp.2).trans (if_pos hva))))

theorem spineQueue_go (h : curSpine s = some (t, sp)) (hn : (getX sp a).toNat ≤ 1023)
    (h0 : push = true → (getX sp a).toNat ≠ 0) (hva : (getX sp b).toNat % 64 = 0) :
    spineQueue i push b a s k = .next (k t sp (getX sp a).toNat (getX sp b)) :=
  (spineEnter_next h _).trans (congrArg _ ((if_neg (by omega)).trans ((if_neg fun hp => h0 hp.1 hp.2).trans
    (if_neg (not_not.2 hva)))))

theorem exec_qpush (b a : BitVec 6) (s : State) : exec (.spineQpush b a) s =
    spineQueue (.spineQpush b a) true b a s fun t sp n va =>
      spineRead s t sp va 64 fun s bs => spinePush s t sp n bs false none := rfl

theorem exec_qpushTry (b a d : BitVec 6) (s : State) : exec (.spineQpushTry b a d) s =
    spineQueue (.spineQpushTry b a d) true b a s fun t sp n va =>
      spineRead s t sp va 64 fun s bs => spinePush s t sp n bs false (some d) := rfl

theorem exec_qpop (b a : BitVec 6) (s : State) : exec (.spineQpop b a) s =
    spineQueue (.spineQpop b a) false b a s fun t sp n va => spinePop s t sp n va none := rfl

theorem exec_qpopTry (b a d : BitVec 6) (s : State) : exec (.spineQpopTry b a d) s =
    spineQueue (.spineQpopTry b a d) false b a s fun t sp n va => spinePop s t sp n va (some d) := rfl

/-! The completion word of a copy. -/

theorem wordConsent_consents {word : Dword} (h : Claims.consents s sp word) (k : State → Spine → State) :
    wordConsent s t sp word k = k s sp := by
  unfold wordConsent
  split
  · next hme hp =>
    refine if_pos ?_
    obtain h0 | hh := h
    · exact .inl h0
    · exact .inr ((hh hme hp).imp_right Option.isSome_iff_ne_none.2)
  · rfl

theorem wordCheck_stored {word : Dword} (h : Claims.wordStored s sp word s') (k : State → State) :
    wordCheck s t sp word k = k s' := by
  obtain ⟨h0, rfl⟩ | ⟨h0, x, hreq, hx⟩ := h
  · exact if_pos h0
  · refine (if_neg h0).trans ?_
    dsimp only
    obtain ⟨i, rfl⟩ | ⟨w, rfl⟩ := hx <;> rw [hreq]

end Forms

/-- Settles O11: each clause is the lemma of its form. -/
theorem spineQueueAndEngineInstructions : Obligations.SpineQueueAndEngineInstructions := by
  intro b a d s t sp h n va team depth
  refine ⟨fun hn h0 hva s1 bs s2 c hread => ⟨fun hp => ?_, fun hp => ?_⟩, fun hn hva hr s1 hown s2 bs s3 => ?_,
    fun hdepth s2 c hp => ?_, fun k s2 c hp => ?_, fun hn hva hg s1 bs s2 hread => ?_,
    fun hn hva hg hr => ⟨?_, ?_, ?_⟩, fun ha hva hq hcons s0 s1 s1' bs hread hword hset => ?_, fun ha => ?_, fun ha hva => ?_,
    fun hdepth => ⟨fun hfault => ?_, fun k dd hh p v acc hfault => ?_⟩, fun hn i hi => ?_, fun hn i hi => ?_,
    fun hn hva i hi => ?_, fun hn h0 hva i hi => ?_⟩
  · rw [exec_qpush, spineQueue_go h hn (fun _ => h0) hva, spineRead_reads hread, spinePush_reserved (d := none) hp]
    rfl
  · rw [exec_qpushTry, spineQueue_go h hn (fun _ => h0) hva, spineRead_reads hread, spinePush_reserved (d := some d) hp]
    exact congrArg _ (spineSet_eq_wrote' ..)
  · intro kept hstore
    refine ⟨fun hpop => ?_, fun hpop => ?_⟩
    · rw [exec_qpop, spineQueue_go (push := false) h hn nofun hva, spinePop_popped (d := none) hr hown hpop hstore]
      rfl
    · rw [exec_qpopTry, spineQueue_go (push := false) h hn nofun hva, spinePop_popped (d := some d) hr hown hpop hstore]
      exact congrArg _ (spineSet_eq_wrote' ..)
  · exact (spineEnter_next h _).trans
      (congrArg _ ((if_neg (Nat.not_le.2 hdepth)).trans (spinePush_reserved (d := none) hp)))
  · exact (spineEnter_next h _).trans (congrArg _ (spinePush_reserved (d := none) hp))
  · intro at_ kept hstore
    exact (spineEnter_next h _).trans (congrArg _ ((if_neg (Nat.not_lt.2 hn)).trans ((if_neg (not_not.2 hva)).trans
      ((spineKeeps_start (.inl hg) _ _).trans ((spineRead_reads hread _).trans (spineKept_done hstore))))))
  · rw [exec_qpop, spineQueue_go (push := false) h hn nofun hva, spinePop_answered (d := none) hg hr]
    rfl
  · rw [exec_qpopTry, spineQueue_go (push := false) h hn nofun hva, spinePop_answered (d := some d) hg hr]
    exact congrArg _ (spineSet_eq_wrote' ..)
  · exact (spineEnter_next h _).trans (congrArg _ ((if_neg (Nat.not_lt.2 hn)).trans ((if_neg (not_not.2 hva)).trans
      (spineKeeps_answered hg hr _ _))))
  · intro s2 s3
    exact (spineEnter_next h _).trans (congrArg _ ((if_neg (not_not.2 ha)).trans ((if_neg (not_not.2 hva)).trans
      ((if_neg (Nat.not_le.2 hq)).trans ((wordConsent_consents hcons _).trans ((spineRead_reads hread _).trans
      ((wordCheck_stored hword _).trans (spineRelease_settled hset _))))))))
  · exact (spineEnter_next h _).trans (congrArg _ (if_pos ha))
  · exact (spineEnter_next h _).trans (congrArg _ ((if_neg (not_not.2 ha)).trans (if_pos hva)))
  · refine (spineEnter_next h _).trans (congrArg _ ((if_pos hdepth).trans ?_))
    rw [hfault]
  · refine (spineEnter_next h _).trans (congrArg _ ((if_pos hdepth).trans ?_))
    rw [hfault]
  · simp only [List.mem_cons, List.not_mem_nil, or_false] at hi
    obtain rfl | rfl | rfl | rfl | rfl := hi
    · exact (exec_qpush ..).trans (spineQueue_number h hn)
    · exact (exec_qpushTry ..).trans (spineQueue_number h hn)
    · exact (exec_qpop ..).trans (spineQueue_number h hn)
    · exact (exec_qpopTry ..).trans (spineQueue_number h hn)
    · exact (spineEnter_next h _).trans (congrArg _ (if_pos hn))
  · simp only [List.mem_cons, List.not_mem_nil, or_false] at hi
    obtain rfl | rfl := hi
    · exact (exec_qpush ..).trans (spineQueue_zero h hn)
    · exact (exec_qpushTry ..).trans (spineQueue_zero h hn)
  · simp only [List.mem_cons, List.not_mem_nil, or_false] at hi
    obtain rfl | rfl | rfl := hi
    · exact (exec_qpop ..).trans (spineQueue_misaligned (push := false) h hn nofun hva)
    · exact (exec_qpopTry ..).trans (spineQueue_misaligned (push := false) h hn nofun hva)
    · exact (spineEnter_next h _).trans (congrArg _ ((if_neg (Nat.not_lt.2 hn)).trans (if_pos hva)))
  · simp only [List.mem_cons, List.not_mem_nil, or_false] at hi
    obtain rfl | rfl := hi
    · exact (exec_qpush ..).trans (spineQueue_misaligned h hn (fun _ => h0) hva)
    · exact (exec_qpushTry ..).trans (spineQueue_misaligned h hn (fun _ => h0) hva)

/-! ### Frames (07 R163) -/

/-- What a thread keeps when it writes a register and goes on. -/
theorem setX_keeps (sp : Spine) (d : BitVec 6) (v : Dword) :
    ((setX sp d v).scause, (setX sp d v).sepc, (setX sp d v).sval, (setX sp d v).shand, (setX sp d v).sfpmode)
        = (sp.scause, sp.sepc, sp.sval, sp.shand, sp.sfpmode)
      ∧ ((setX sp d v).live, (setX sp d v).wait, (setX sp d v).team, (setX sp d v).cluster)
        = (sp.live, sp.wait, sp.team, sp.cluster) := by
  unfold setX
  split <;> exact ⟨rfl, rfl⟩

theorem getX_gone (sp : Spine) (pc : Dword) (n : BitVec 6) : getX (Claims.gone sp pc) n = getX sp n := rfl

/-- A register-only instruction writes x[D] and goes on, at the next word or at its target. -/
theorem exec_registerOnly {s : State} {t : Nat} {sp : Spine} {i : Instr} {d : BitVec 6} (h : curSpine s = some (t, sp))
    (hi : (∃ r ∈ Claims.intTable, ∃ w b a, i = r.1 w b a d) ∨ (∃ r ∈ Claims.intUnTable, ∃ w a, i = r.1 w a d)
      ∨ (∃ r ∈ Claims.immTable, ∃ k a, i = r.1 k a d) ∨ (∃ r ∈ Claims.shiftTable, ∃ n a, i = r.1 n a d)
      ∨ (∃ k, i = .movu k d) ∨ (∃ k, i = .addpc k d) ∨ (∃ k, i = .jl k d)
      ∨ (∃ r ∈ Claims.branchTable, ∃ k b a, i = r.1 k b a ∧ d = 0)) :
    ∃ v pc, exec i s = .next (Claims.thread s t (Claims.gone (setX sp d v) pc)) := by
  obtain ⟨hint, hun, himm, hshift, hmovu, haddpc⟩ := spineIntegerResults s t sp h
  obtain ⟨hbranch, hjl, -⟩ := spineBranchesAndJumps s t sp h
  obtain ⟨r, hr, w, b, a, rfl⟩ | ⟨r, hr, w, a, rfl⟩ | ⟨r, hr, k, a, rfl⟩ | ⟨r, hr, n, a, rfl⟩ | ⟨k, rfl⟩ | ⟨k, rfl⟩ | ⟨k, rfl⟩
    | ⟨r, hr, k, b, a, rfl, rfl⟩ := hi
  · exact ⟨_, _, hint r hr w b a d⟩
  · exact ⟨_, _, hun r hr w a d⟩
  · exact ⟨_, _, himm r hr k a d⟩
  · exact ⟨_, _, hshift r hr n a d⟩
  · exact ⟨_, _, hmovu k d⟩
  · exact ⟨_, _, haddpc k d⟩
  · exact ⟨_, _, hjl k d⟩
  · exact ⟨0, _, hbranch r hr k b a⟩

/-- Settles O54: every row leaves the thread as `exec_registerOnly` says. -/
theorem spineFrames : Obligations.SpineFrames := by
  refine ⟨fun sp d n v => ⟨rfl, getX_setX sp d n v⟩, fun s t sp i d h hi => ?_⟩
  obtain ⟨v, pc, hexec⟩ := exec_registerOnly h hi
  obtain ⟨hcsr, hrest⟩ := setX_keeps sp d v
  refine ⟨_, _, hexec, mget_mset_self .., fun n hn => ?_, rfl, hcsr, hrest, fun u hu => mget_mset_ne _ _ _ _ hu,
    fun _ => rfl, rfl⟩
  rw [getX_gone, getX_setX, if_neg hn]
  split
  · next h0 => rw [h0]; rfl
  · rfl

/-! ### Conversions (15 R349) -/

section Convert
variable {s : State} {t : Nat} {sp : Spine}

/-- A floating-point result retires. -/
theorem spOut_eq (h : curSpine s = some (t, sp)) (d : BitVec 6) (f : Fmt) (r : FR) :
    spOut s t d f r = Claims.floatWrote s t sp d f r := by
  rw [spOut, modSpine_eq_thread h, retire, setX_pc]
  rfl

theorem spConv_eq (h : curSpine s = some (t, sp)) (d a : BitVec 6) (src dst : Fmt) :
    spConv s t sp d a src dst = Claims.converted s t sp d a (.float src dst) :=
  spOut_eq h ..

theorem spToInt_eq (h : curSpine s = some (t, sp)) (d a : BitVec 6) (f : Fmt) (sg : Bool) (w : Nat) :
    spToInt s t sp d a f sg w = Claims.converted s t sp d a (.toInt f sg w) := by
  simp only [spToInt, modSpine_eq_thread h, retire, setX_pc, ofNat_toBits, Claims.converted]
  push_cast
  rfl

/-- Settles O4: each code is a case of the decoder of `fcvt`. -/
theorem spineConversions : Obligations.SpineConversions := by
  intro a d s t sp h
  constructor
  · simp only [Claims.convTable, List.forall_mem_cons]
    have conv (src dst : Fmt) := congrArg (Host.Outcome.next (φ := Fault) (ρ := Refusal)) (spConv_eq h d a src dst)
    have int (f : Fmt) (sg : Bool) (w : Nat) := congrArg (Host.Outcome.next (φ := Fault) (ρ := Refusal)) (spToInt_eq h d a f sg w)
    have out (f : Fmt) (r : FR) := congrArg (Host.Outcome.next (φ := Fault) (ρ := Refusal)) (spOut_eq h d f r)
    have next := fun k => spineEnter_next h k
    exact ⟨(next _).trans (conv fB64 fB32), (next _).trans (conv fB32 fB64), (next _).trans (int fB64 true 64),
      (next _).trans (int fB64 false 64), (next _).trans (int fB64 true 32), (next _).trans (int fB64 false 32),
      (next _).trans (int fB32 true 64), (next _).trans (int fB32 false 64), (next _).trans (int fB32 true 32),
      (next _).trans (int fB32 false 32), (next _).trans (out ..), (next _).trans (out ..), (next _).trans (out ..),
      (next _).trans (out ..), (next _).trans (conv fB32 fB16), (next _).trans (conv fB16 fB32),
      (next _).trans (conv fB32 fBf16), (next _).trans (conv fBf16 fB32), (next _).trans (out ..), (next _).trans (out ..), nofun⟩
  · intro c hc
    refine (spineEnter_next h _).trans (congrArg _ ?_)
    split
    case h_21 => rfl
    all_goals omega

end Convert

end Sys2Proof.SpineEngine

/-! ## Bytes of memory (02 R26, 10 R225), reset (05 R125), worked words (14) -/

namespace Sys2Proof.MemoryLaws

open Sys2Proof Sys2Proof.Machine

/-! ### One byte written -/

theorem memRead_memInsert (m : List Host.Cell) (a : Nat) (b : Byte) (c : Nat) :
    memRead (memInsert m a b) c = if c = a then b else memRead m c := by
  induction m with
  | nil => simp only [memInsert, memRead_cons, eq_comm]
  | cons hd t ih =>
    obtain ⟨k, v⟩ := hd
    rw [memInsert_cons]
    by_cases hlt : a < k
    · simp only [if_pos hlt, memRead_cons, eq_comm]
    · by_cases heq : a = k
      · subst heq
        simp only [lt_irrefl, if_true, if_false, memRead_cons, eq_comm]
        split <;> rfl
      · simp only [if_neg hlt, if_neg heq, memRead_cons, ih]
        by_cases hk : k = c
        · rw [if_pos hk, if_pos hk, if_neg fun hc => heq (hc.symm.trans hk.symm)]
        · rw [if_neg hk, if_neg hk]

/-- An address below every listed one reads as an unlisted byte. -/
theorem memRead_of_above {m : List Host.Cell} {a c : Nat} (h : above a m) (hc : c ≤ a) : memRead m c = memDefault := by
  induction m with
  | nil => rfl
  | cons hd t ih =>
    obtain ⟨k, v⟩ := hd
    have hk : a < k := h (k, v) List.mem_cons_self
    rw [memRead_cons, if_neg (by omega), ih fun x hx => h x (List.mem_cons_of_mem _ hx)]

theorem memRead_memErase {m : List Host.Cell} (h : Memory.wf m = true) (a c : Nat) :
    memRead (memErase m a) c = if c = a then memDefault else memRead m c := by
  induction m with
  | nil => exact (ite_self _).symm
  | cons hd t ih =>
    obtain ⟨k, v⟩ := hd
    obtain ⟨-, habove, ht⟩ := (Memory.wf_cons k v t).1 h
    rw [memErase_cons, memRead_cons]
    by_cases hk : k = a
    · subst hk
      rw [if_pos rfl]
      by_cases hc : c = k
      · rw [if_pos hc, memRead_of_above habove hc.le]
      · rw [if_neg hc, if_neg fun h => hc h.symm]
    · rw [if_neg hk, memRead_cons, ih ht]
      by_cases hc : k = c
      · rw [if_pos hc, if_pos hc, if_neg fun h => hk (hc.trans h)]
      · rw [if_neg hc, if_neg hc]

theorem memRead_memWrite {m : List Host.Cell} (h : Memory.wf m = true) (a : Nat) (b : Byte) (c : Nat) :
    memRead (memWrite m a b) c = if c = a then b else memRead m c := by
  unfold memWrite
  split
  · next hb => rw [memRead_memErase h, hb]
  · exact memRead_memInsert m a b c

/-! ### Bytes written -/

theorem memRead_memWriteN {m : List Host.Cell} (h : Memory.wf m = true) (a : Nat) (bs : List Byte) (c : Nat) :
    memRead (memWriteN m a bs) c = if a ≤ c ∧ c < a + bs.length then bs.getD (c - a) 0 else memRead m c := by
  induction bs generalizing m a with
  | nil => rw [memWriteN, if_neg (by simp)]
  | cons b bs ih =>
    rw [memWriteN, ih (memWrite_wf h), memRead_memWrite h, List.length_cons]
    by_cases hc : c = a
    · subst hc
      rw [if_neg (by omega), if_pos rfl, if_pos (by omega), Nat.sub_self]
      rfl
    · rw [if_neg hc]
      by_cases hin : a + 1 ≤ c ∧ c < a + 1 + bs.length
      · rw [if_pos hin, if_pos (by omega), show c - a = c - (a + 1) + 1 by omega]
        rfl
      · rw [if_neg hin, if_neg (by omega)]

theorem memReadN_eq {m : List Host.Cell} {a : Nat} {bs : List Byte} (h : ∀ i < bs.length, memRead m (a + i) = bs.getD i 0) :
    memReadN m a bs.length = bs := by
  induction bs generalizing a with
  | nil => rfl
  | cons b bs ih =>
    have hhead : memRead m a = b := h 0 (Nat.zero_lt_succ _)
    have htail : memReadN m (a + 1) bs.length = bs := ih fun i hi => by
      rw [Nat.add_right_comm, Nat.add_assoc]
      exact h (i + 1) (Nat.succ_lt_succ hi)
    rw [List.length_cons, memReadN, hhead, htail]

/-! ### A canonical memory is what it reads -/

theorem memRead_head_ne {k : Nat} {v : Byte} {t : List Host.Cell} (h : Memory.wf ((k, v) :: t) = true) :
    memRead ((k, v) :: t) k ≠ memDefault := by
  rw [memRead_cons, if_pos rfl]
  exact ((Memory.wf_cons k v t).1 h).1

/-- Two canonical memories that read the same begin with the same address: the lower one would read as unlisted in the
other. -/
theorem head_le {k k' : Nat} {v v' : Byte} {t t' : List Host.Cell} (h : Memory.wf ((k, v) :: t) = true)
    (h' : Memory.wf ((k', v') :: t') = true) (hread : ∀ a, memRead ((k, v) :: t) a = memRead ((k', v') :: t') a) : k' ≤ k := by
  by_contra hlt
  have habove := ((Memory.wf_cons k' v' t').1 h').2.1
  refine memRead_head_ne h ((hread k).trans ?_)
  rw [memRead_cons, if_neg (by omega), memRead_of_above habove (by omega)]

theorem eq_of_memRead {m m' : List Host.Cell} (h : Memory.wf m = true) (h' : Memory.wf m' = true)
    (hread : ∀ a, memRead m a = memRead m' a) : m = m' := by
  induction m generalizing m' with
  | nil =>
    cases m' with
    | nil => rfl
    | cons hd t => exact absurd (hread hd.1).symm (memRead_head_ne h')
  | cons hd t ih =>
    obtain ⟨k, v⟩ := hd
    cases m' with
    | nil => exact absurd (hread k) (memRead_head_ne h)
    | cons hd' t' =>
      obtain ⟨k', v'⟩ := hd'
      obtain rfl : k = k' := le_antisymm (head_le h' h fun a => (hread a).symm) (head_le h h' hread)
      obtain ⟨-, habove, ht⟩ := (Memory.wf_cons k v t).1 h
      obtain ⟨-, habove', ht'⟩ := (Memory.wf_cons k v' t').1 h'
      have hv : v = v' := by simpa [memRead_cons] using hread k
      have htail : t = t' := ih ht ht' fun a => by
        by_cases ha : k = a
        · rw [memRead_of_above habove ha.ge, memRead_of_above habove' ha.ge]
        · simpa only [memRead_cons, if_neg ha] using hread a
      rw [hv, htail]

/-- Settles O51. -/
theorem memoryBytes : Obligations.MemoryBytes :=
  ⟨fun _ a b h c => memRead_memWrite h a b c,
   fun _ a bs h => ⟨memRead_memWriteN h a bs, memReadN_eq fun i hi => by
     rw [memRead_memWriteN h, if_pos ⟨by omega, by omega⟩, Nat.add_sub_cancel_left]⟩,
   fun _ _ h h' hread => eq_of_memRead h h' hread⟩

/-! ### Reset, and words of the spec -/

/-- Settles O53: each field at its value after reset. -/
theorem resetState : Obligations.ResetState := by
  have die (d : Nat) : getDie State.reset d = {} := rfl
  refine ⟨rfl, rfl, fun _ => rfl, fun _ => rfl, rfl, rfl, rfl, rfl, rfl, rfl, rfl, rfl, rfl, rfl, rfl, rfl, rfl, rfl,
    fun d => ?_, rfl, rfl, rfl, rfl, rfl, rfl, rfl, rfl, rfl, rfl, rfl, rfl, rfl, rfl, rfl, rfl, fun l => ?_⟩
  · rw [die]
    exact ⟨rfl, rfl, rfl, rfl, rfl, rfl, rfl, rfl, rfl, rfl⟩
  · unfold getH
    split <;> rfl

/-- Settles O45: each word decodes to its instruction. -/
theorem wordsOfTheSpec : Obligations.WordsOfTheSpec := by
  refine ⟨rfl, rfl, rfl, rfl, rfl, rfl, rfl, rfl, rfl, rfl, rfl, rfl, rfl, rfl, rfl, rfl, rfl, rfl, rfl, rfl, rfl, rfl, rfl,
    rfl⟩

end Sys2Proof.MemoryLaws

/-! PROOFS. What a step runs, and what accompanies it. -/

namespace Sys2Proof.StepProofs

open Sys2Proof Sys2Proof.Machine

section runs
variable {s s' s1 : State} {bs : List Byte}

theorem step_of_due {i : Instr} {a : EvArg} (h : dueEvent s = some (i, a)) :
    step s = tickOutcome s (exec i { s with arg := a }) := by
  unfold step; rw [h]

theorem step_of_not_due (h : dueEvent s = none) : step s = tickOutcome s (stepMove s) := by
  unfold step; rw [h]

theorem stepMove_event {i : Instr} {a : EvArg} {rest : List Move} (h : s.moves = .event i a :: rest) :
    stepMove s = exec i { s with moves := rest, arg := a } := by
  unfold stepMove; rw [h]

theorem step_runAgent {a : Agent} (h : Claims.runs s s' a) : step s = tickOutcome s (runAgent s' a) := by
  obtain ⟨hdue, ⟨hm, rfl, rfl⟩ | ⟨rest, hm, rfl⟩⟩ := h <;> rw [step_of_not_due hdue] <;> unfold stepMove <;> rw [hm]

theorem runAgent_squad {id : Nat} {q : Squad} (hq : mget s.squads id = some q) (h : Claims.atWord s q) :
    runAgent s (.squad id) = runWord s id q := by
  obtain ⟨hruns, htraps, hpm, hheld, hvol⟩ := h
  have hno : (!q.traps.isEmpty && !inHandler q && q.wait != .handler) = false := by
    rcases htraps with h | h | h <;> simp [h]
  have hstay : ¬ (q.pm = 0 ∧ (inHandler q = false ∨ q.leaving)) := by
    rintro ⟨h0, hout⟩
    rcases hpm with h | ⟨h1, h2⟩
    · exact h h0
    · simp [h1, h2] at hout
  change runSquad s id = _
  unfold runSquad
  simp only [hq]
  rw [if_neg (by simp [hruns]), if_neg (by simp [hno]), if_neg hstay, if_pos (by simp [hheld, hvol])]

theorem runAgent_spine {t : Nat} {sp : Spine} (hsp : mget s.spines t = some sp) (h : Claims.atSpineWord s t sp) :
    runAgent s (.spine t) = runSpineWord s t sp := by
  obtain ⟨hlive, hruns, hwait⟩ := h
  change runSpine s t = _
  unfold runSpine
  simp only [hsp]
  rw [if_neg (by simp [hlive, hruns]), if_pos hwait]

theorem runWord_of_disagreeing_word {id : Nat} {q : Squad} (hf : fetchWord s id q q.pos = (s1, .bytes bs))
    (h : wordOk (hdrUni q.hdr) (hdrN q.hdr) ((q.pos - q.hpos).toNat / 12) (wordVal bs) = false) :
    runWord s id q = .next (takeTrap s1 id { code := tIllop, tlm := q.em, tpc := q.hpos, word := q.hdr }) := by
  simp only [runWord, hf, h, Bool.false_eq_true, if_false]

theorem runWord_of_decoded {id : Nat} {q : Squad} {i : Instr} (hf : fetchWord s id q q.pos = (s1, .bytes bs))
    (h : wordOk (hdrUni q.hdr) (hdrN q.hdr) ((q.pos - q.hpos).toNat / 12) (wordVal bs) = true)
    (hi : decodeLane (wordVal bs) = .ok i) :
    runWord s id q = exec i (Claims.given s s1 id q) := by
  simp only [runWord, hf, h, hi, if_true]; rfl

theorem runWord_of_undecoded {id : Nat} {q : Squad} {e : DecodeError} (hf : fetchWord s id q q.pos = (s1, .bytes bs))
    (h : wordOk (hdrUni q.hdr) (hdrN q.hdr) ((q.pos - q.hpos).toNat / 12) (wordVal bs) = true)
    (hi : decodeLane (wordVal bs) = .error e) :
    runWord s id q = .next (preciseTrap s1 id tIllop q.em (wordVal bs)) := by
  simp only [runWord, hf, h, hi, if_true]

end runs

end Sys2Proof.StepProofs

open Sys2Proof Sys2Proof.Machine in
/-- Settles O49, by what a step runs: the due event, the oldest move, the word of the agent. -/
theorem stepRunsDecoded : Obligations.StepRunsDecoded := by
  refine ⟨fun s i a => StepProofs.step_of_due, fun s i a rest hdue hm => ?_, ?_, ?_⟩
  · rw [StepProofs.step_of_not_due hdue, StepProofs.stepMove_event hm]
  · intro s s' id q s1 bs hr hq hat hf w
    have hstep : step s = tickOutcome s (runWord s' id q) := by
      rw [StepProofs.step_runAgent hr, StepProofs.runAgent_squad hq hat]
    refine ⟨fun hok => ⟨fun i hi => ?_, fun e he => ?_⟩, fun hbad => ?_⟩
    · rw [hstep, StepProofs.runWord_of_decoded hf hok hi]
    · rw [hstep, StepProofs.runWord_of_undecoded hf hok he]
    · rw [hstep, StepProofs.runWord_of_disagreeing_word hf hbad]
  · intro s s' t sp s1 bs hr hsp hat hf w s2
    have hstep : step s = tickOutcome s (runSpineWord s' t sp) := by
      rw [StepProofs.step_runAgent hr, StepProofs.runAgent_spine hsp hat]
    refine ⟨fun i hi => ?_, fun e he => ?_⟩ <;> rw [hstep] <;> unfold runSpineWord <;> rw [hf]
    · change tickOutcome s (match decodeSpine w with | .error _ => _ | .ok i => _) = _
      rw [hi]
    · change tickOutcome s (match decodeSpine w with | .error _ => _ | .ok i => _) = _
      rw [he]

/-! PROOFS. Counted reads and contributions of a shared register (07 R180). -/

namespace Sys2Proof.SharedCounts

open Sys2Proof Sys2Proof.Machine

/-! ### One operation -/

theorem hTry_put {e : HEntry} (v : Dword) (c : Nat) (hf : e.full = false) (hg : e.gather = false) :
    hTry e (.put v c) = some ({ e with value := v, count := BitVec.ofNat 8 c, full := true }, 0) := by
  simp [hTry, hf, hg]

theorem hTry_read_last {e : HEntry} (hf : e.full = true) (hc : e.count.toNat = 1) :
    hTry e .read = some ({ e with count := 0, full := false, gather := false, recv := 0 }, e.value) := by
  have h1 : e.count = 1 := BitVec.eq_of_toNat_eq hc
  simp [hTry, hf, h1]

theorem hTry_read_more {e : HEntry} (hf : e.full = true) (h1 : 2 ≤ e.count.toNat) (h2 : e.count.toNat ≤ 254) :
    hTry e .read = some ({ e with count := e.count - 1 }, e.value) := by
  have h0 : ¬ e.count - 1 = 0 := by bv_omega
  simp only [hTry, hf, Bool.true_eq_false, if_false]
  rw [if_neg (by omega), if_neg h0]

theorem hTry_read_forever {e : HEntry} (hf : e.full = true) (hc : e.count.toNat = 255) :
    hTry e .read = some (e, e.value) := by
  simp [hTry, hf, hc]

theorem hTry_read_empty {e : HEntry} (hf : e.full = false) : hTry e .read = none := by simp [hTry, hf]

theorem hTry_acc_first {e : HEntry} (op ty n : Nat) (x : Dword) (hf : e.full = false) (hg : e.gather = false) :
    hTry e (.acc x op ty n)
      = some ({ e with value := x, op := BitVec.ofNat 3 op, gtype := BitVec.ofNat 3 ty, expect := BitVec.ofNat 11 n,
                       recv := 1, gather := true, full := n == 1, count := if n = 1 then e.consumers else e.count }, 0) := by
  simp [hTry, hf, hg]

theorem hTry_acc_next {e : HEntry} (op ty n : Nat) (x : Dword) (hf : e.full = false) (hg : e.gather = true) :
    hTry e (.acc x op ty n)
      = some (if e.recv + 1 = e.expect
          then { e with value := BitVec.ofNat 64 (hCombine e.op.toNat e.gtype.toNat e.value.toNat x.toNat),
                        recv := e.recv + 1, full := true, count := e.consumers }
          else { e with value := BitVec.ofNat 64 (hCombine e.op.toNat e.gtype.toNat e.value.toNat x.toNat),
                        recv := e.recv + 1 }, 0) := by
  simp [hTry, hf, hg]

/-! ### Several reads -/

theorem readTimes_succ {k : Nat} {e e' : HEntry} {v : Dword} (h : hTry e .read = some (e', v)) :
    Claims.readTimes (k + 1) e = (Claims.readTimes k e').map fun r => (r.1, v :: r.2) := by
  simp only [Claims.readTimes, h]

theorem readTimes_empty {e : HEntry} (hf : e.full = false) (k : Nat) : Claims.readTimes (k + 1) e = none := by
  simp only [Claims.readTimes, hTry_read_empty hf]

/-- Fewer reads than the count leave the entry full. -/
theorem readTimes_fewer (k : Nat) : ∀ {e : HEntry} {c : Nat}, e.full = true → e.count.toNat = c → c ≤ 254 → k < c →
    Claims.readTimes k e = some ({ e with count := BitVec.ofNat 8 (c - k) }, List.replicate k e.value) := by
  induction k with
  | zero =>
    intro e c _ hc _ _
    subst hc
    simp [Claims.readTimes]
  | succ k ih =>
    intro e c hf hc h254 hk
    have hsub : (e.count - 1).toNat = c - 1 := by bv_omega
    rw [readTimes_succ (hTry_read_more hf (by omega) (by omega)), ih (e := { e with count := e.count - 1 }) hf hsub (by omega) (by omega)]
    simp only [Option.map_some, List.replicate_succ]
    rw [Nat.sub_sub, Nat.add_comm 1 k]

/-- As many reads as the count empty it. -/
theorem readTimes_all (c : Nat) : ∀ {e : HEntry}, e.full = true → e.count.toNat = c + 1 → c + 1 ≤ 254 →
    Claims.readTimes (c + 1) e
      = some ({ e with count := 0, full := false, gather := false, recv := 0 }, List.replicate (c + 1) e.value) := by
  induction c with
  | zero =>
    intro e hf hc _
    rw [readTimes_succ (hTry_read_last hf hc)]
    rfl
  | succ c ih =>
    intro e hf hc h254
    have hsub : (e.count - 1).toNat = c + 1 := by bv_omega
    rw [readTimes_succ (hTry_read_more hf (by omega) (by omega)), ih (e := { e with count := e.count - 1 }) hf hsub (by omega)]
    rfl

theorem readTimes_more (c : Nat) : ∀ {e : HEntry} {k : Nat}, e.full = true → e.count.toNat = c + 1 → c + 1 ≤ 254 → c + 1 < k →
    Claims.readTimes k e = none := by
  induction c with
  | zero =>
    intro e k hf hc _ hk
    obtain ⟨k, rfl⟩ : ∃ j, k = j + 2 := ⟨k - 2, by omega⟩
    rw [readTimes_succ (hTry_read_last hf hc), readTimes_empty rfl]
    rfl
  | succ c ih =>
    intro e k hf hc h254 hk
    obtain ⟨k, rfl⟩ : ∃ j, k = j + 1 := ⟨k - 1, by omega⟩
    have hsub : (e.count - 1).toNat = c + 1 := by bv_omega
    rw [readTimes_succ (hTry_read_more hf (by omega) (by omega)),
      ih (e := { e with count := e.count - 1 }) hf hsub (by omega) (by omega)]
    rfl

theorem readTimes_forever {e : HEntry} (hf : e.full = true) (hc : e.count.toNat = 255) (k : Nat) :
    Claims.readTimes k e = some (e, List.replicate k e.value) := by
  induction k with
  | zero => rfl
  | succ k ih => rw [readTimes_succ (hTry_read_forever hf hc), ih]; rfl

/-! ### Several contributions -/

/-- A gather of the operation, type and count that has received r contributions, fewer than expected. -/
def gathering (e : HEntry) (op ty n r : Nat) : Prop :=
  e.full = false ∧ e.gather = true ∧ e.op.toNat = op ∧ e.gtype.toNat = ty ∧ e.expect.toNat = n ∧ e.recv.toNat = r

/-- What contributions after the first leave. -/
theorem contribute_gathering {op ty n : Nat} (hn : n ≤ 1024) (xs : List Dword) : ∀ {e : HEntry} {r : Nat},
    gathering e op ty n r → r + xs.length ≤ n → r < n →
    ∃ e1, Claims.contribute op ty n xs e = some e1
      ∧ e1.value = xs.foldl (fun v y => BitVec.ofNat 64 (hCombine op ty v.toNat y.toNat)) e.value
      ∧ e1.gather = true ∧ e1.recv.toNat = r + xs.length ∧ e1.full = decide (r + xs.length = n)
      ∧ (r + xs.length = n → e1.count = e.consumers) := by
  induction xs with
  | nil =>
    rintro e r ⟨hf, hg, -, -, -, hr⟩ - hlt
    have hne : ¬ r = n := by omega
    exact ⟨e, rfl, rfl, hg, by simpa using hr, by simp [hf, hne], fun h => absurd h (by simpa using hne)⟩
  | cons x xs ih =>
    rintro e r ⟨hf, hg, hop, hty, hex, hr⟩ hle hlt
    simp only [List.length_cons] at hle
    have hrecv : (e.recv + 1).toNat = r + 1 := by bv_omega
    have hlast : e.recv + 1 = e.expect ↔ r + 1 = n := by rw [← BitVec.toNat_inj, hrecv, hex]
    rw [show r + (x :: xs).length = r + 1 + xs.length from by simp; omega]
    simp only [Claims.contribute, hTry_acc_next op ty n x hf hg, hop, hty, List.foldl_cons]
    by_cases hfin : r + 1 = n
    · obtain rfl : xs = [] := List.eq_nil_of_length_eq_zero (by omega)
      rw [if_pos (hlast.mpr hfin)]
      exact ⟨_, rfl, rfl, hg, hrecv, by simp [hfin], fun _ => rfl⟩
    · rw [if_neg (mt hlast.mp hfin)]
      exact ih ⟨hf, hg, hop, hty, hex, hrecv⟩ (by omega) (by omega)

/-- The first contribution and those after it. -/
theorem contribute_all {op ty n : Nat} {e : HEntry} {x : Dword} {xs : List Dword} (hf : e.full = false) (hg : e.gather = false)
    (hop : op ≤ 4) (hty : ty ≤ 4) (hn : n ≤ 1024) (hlen : xs.length + 1 ≤ n) :
    ∃ e1, Claims.contribute op ty n (x :: xs) e = some e1
      ∧ e1.value = xs.foldl (fun v y => BitVec.ofNat 64 (hCombine op ty v.toNat y.toNat)) x
      ∧ e1.gather = true ∧ e1.recv.toNat = xs.length + 1
      ∧ e1.full = decide (xs.length + 1 = n) ∧ (xs.length + 1 = n → e1.count = e.consumers) := by
  simp only [Claims.contribute, hTry_acc_first op ty n x hf hg]
  by_cases h1 : n = 1
  · obtain rfl : xs = [] := List.eq_nil_of_length_eq_zero (by omega)
    subst h1
    exact ⟨_, rfl, rfl, rfl, rfl, rfl, fun _ => rfl⟩
  · simp only [beq_eq_false_iff_ne.mpr h1, if_neg h1, Nat.add_comm _ 1]
    refine contribute_gathering hn xs ⟨rfl, rfl, ?_, ?_, ?_, rfl⟩ (by omega) (by omega) <;>
      exact Nat.mod_eq_of_lt (by omega)

end Sys2Proof.SharedCounts

open Sys2Proof Sys2Proof.Machine in
/-- Settles O60, by induction on the count and on the list of contributions. -/
theorem sharedRegisterCounts : Obligations.SharedRegisterCounts := by
  refine ⟨fun e v c k hf hg h1 h254 => ?_, fun e v k hf hg => ?_, ?_, ?_⟩
  · have hc : (BitVec.ofNat 8 c).toNat = c := Nat.mod_eq_of_lt (by omega)
    obtain ⟨c, rfl⟩ : ∃ j, c = j + 1 := ⟨c - 1, by omega⟩
    refine ⟨_, SharedCounts.hTry_put v _ hf hg, fun hk => ⟨_, SharedCounts.readTimes_fewer k rfl hc h254 hk, rfl, hg, ?_, rfl⟩,
      ⟨_, SharedCounts.readTimes_all c rfl hc h254, rfl, rfl, rfl⟩, fun hk => SharedCounts.readTimes_more c rfl hc h254 hk⟩
    exact Nat.mod_eq_of_lt (by omega)
  · exact ⟨_, SharedCounts.hTry_put v _ hf hg, SharedCounts.readTimes_forever rfl rfl k⟩
  · exact fun e op ty n x xs => SharedCounts.contribute_all
  · refine fun e v c op ty n => ⟨?_, SharedCounts.hTry_read_empty, fun hf => by simp [hTry, hf]⟩
    rintro (h | h) <;> simp [hTry, h]

/-! PROOFS. A long-latency result lands (07 R166, R168, R174, R176). -/

namespace Sys2Proof.Landing

open Sys2Proof Sys2Proof.Machine

/-! ### Finite maps -/

theorem mget_map {α β : Type} (m : FMap α) (f : Nat × α → Nat × β) (hf : ∀ x, (f x).1 = x.1) (n : Nat) :
    mget (m.map f) n = (mget m n).map fun x => (f (n, x)).2 := by
  induction m with
  | nil => rfl
  | cons h t ih =>
    obtain ⟨k, v⟩ := h
    rw [List.map_cons, show f (k, v) = (k, (f (k, v)).2) from Prod.ext (hf _) rfl, mget_cons, mget_cons, ih]
    split
    · next h => subst h; rfl
    · rfl

/-! ### Registers -/

theorem landRegs_outside (op idx : Nat) (xs : List Lanes) : ∀ (v : FMap VReg) (i m : Nat), m < idx + i ∨ idx + i + xs.length ≤ m →
    mget (landRegs v op idx i xs) m = mget v m := by
  induction xs with
  | nil => intro v i m _; rfl
  | cons x xs ih =>
    intro v i m hm
    simp only [List.length_cons] at hm
    rw [landRegs, ih _ _ _ (by omega)]
    split
    · split
      · exact mget_mset_ne _ _ _ _ (by omega)
      · rfl
    · rfl

theorem landRegs_inside (op idx : Nat) (xs : List Lanes) : ∀ (v : FMap VReg) (i k : Nat), k < xs.length →
    mget (landRegs v op idx i xs) (idx + (i + k)) = match mget v (idx + (i + k)) with
      | some r => if r.pend = some op then some { val := xs.getD k [] } else some r
      | none => none := by
  induction xs with
  | nil => intro v i k hk; exact absurd hk (Nat.not_lt_zero _)
  | cons x xs ih =>
    intro v i k hk
    rw [landRegs]
    cases k with
    | zero =>
      rw [landRegs_outside _ _ _ _ _ _ (by omega), Nat.add_zero]
      cases hv : mget v (idx + i) with
      | none => simp only [hv]
      | some r =>
        by_cases hp : r.pend = some op
        · simp only [hp, if_true, mget_mset_self, List.getD_cons_zero]
        · simp only [hp, if_false, hv]
    | succ k =>
      rw [show i + (k + 1) = i + 1 + k by omega, ih _ _ _ (by simpa using hk)]
      have hkeep : ∀ r : VReg, mget (if r.pend = some op then mset v (idx + i) { val := x } else v) (idx + (i + 1 + k))
          = mget v (idx + (i + 1 + k)) := fun r => by
        split
        · exact mget_mset_ne _ _ _ _ (by omega)
        · rfl
      cases hv : mget v (idx + i) with
      | none => rfl
      | some r => simp only [hkeep, List.getD_cons_succ]

theorem putPred_getLsbD (p : List Word) {k : Nat} (hk : k < p.length) (lanes val : Word) {l : Nat} (hl : l < 32) :
    ((putPred p k lanes val).getD k 0).getLsbD l
      = if lanes.getLsbD l = true then val.getLsbD l else (p.getD k 0).getLsbD l := by
  rw [putPred, SquadTraps.getD_setAt_self _ _ _ _ hk]
  simp only [BitVec.getLsbD_or, BitVec.getLsbD_and, BitVec.getLsbD_not, hl]
  cases lanes.getLsbD l <;> simp

/-! ### The squad and the flags -/

variable {s : State} {id : Nat} {q : Squad}

theorem modSquad_of_some (h : mget s.squads id = some q) (f : Squad → Squad) :
    modSquad s id f = { s with squads := mmod s.squads id f } := by
  unfold modSquad; rw [h]

theorem modSquad_get (h : mget s.squads id = some q) (f : Squad → Squad) :
    mget (modSquad s id f).squads id = some (f q) := by
  rw [modSquad_of_some h]
  exact (mget_mmod_self _ _ _).trans (congrArg _ h)

/-- A `nap` ends; nothing else of the machine changes. -/
theorem wakeSquad_squad (h : mget s.squads id = some q) :
    { wakeSquad s id with squads := s.squads } = s
    ∧ ∃ w g, mget (wakeSquad s id).squads id = some { q with wait := w, granted := g } := by
  refine ⟨by rw [wakeSquad, modSquad_of_some h], ?_⟩
  rw [wakeSquad, modSquad_get h]
  split
  · exact ⟨.none, some 1, rfl⟩
  · exact ⟨q.wait, q.granted, rfl⟩

/-- A squad with its flags lowered; a `nap` that the flag ends is over. -/
theorem lowerFlag_squad (h : mget s.squads id = some q) (f : Option Nat) :
    { lowerFlag s id f with squads := s.squads } = s
    ∧ ∃ w g fs, mget (lowerFlag s id f).squads id = some { q with f := fs, wait := w, granted := g }
      ∧ ∀ k, k < q.f.length → (fs.getD k 0).toNat = if f = some k then flagCount q k - 1 else flagCount q k := by
  cases f with
  | none => exact ⟨rfl, q.wait, q.granted, q.f, h, fun k _ => by rw [if_neg nofun]; rfl⟩
  | some j =>
    have hany : squadAny s id = some q := by unfold squadAny; rw [h]
    have hflags : ∀ k, k < q.f.length → ((setAt q.f j (BitVec.ofNat 6 (flagCount q j - 1))).getD k 0).toNat
        = if some j = some k then flagCount q k - 1 else flagCount q k := by
      intro k hk
      by_cases hjk : j = k
      · subst hjk
        rw [if_pos rfl, SquadTraps.getD_setAt_self _ _ _ _ hk]
        have : flagCount q j < 64 := BitVec.isLt _
        exact Nat.mod_eq_of_lt (by omega)
      · rw [if_neg (fun e => hjk (Option.some.inj e)), SquadTraps.getD_setAt_ne _ _ _ _ _ (fun e => hjk e.symm)]
        rfl
    have h1 := modSquad_get h fun q' => { q' with f := setAt q'.f j (BitVec.ofNat 6 (flagCount q j - 1)) }
    simp only [lowerFlag, hany]
    split
    · obtain ⟨hrest, w, g, hw⟩ := wakeSquad_squad h1
      refine ⟨(congrArg (fun t : State => { t with squads := s.squads }) hrest).trans ?_, w, g, _, hw, hflags⟩
      rw [modSquad_of_some h]
    · exact ⟨by rw [modSquad_of_some h], q.wait, q.granted, _, h1, hflags⟩

theorem landIn_f (q : Squad) (op : Nat) (p : POp) : (landIn q op p).f = q.f := by
  unfold landIn
  split <;> (try split) <;> rfl

theorem landIn_fixed (q : Squad) (op : Nat) (p : POp) :
    ((landIn q op p).pm, (landIn q op p).em, (landIn q op p).pos, (landIn q op p).tiles, (landIn q op p).carries)
      = (q.pm, q.em, q.pos, q.tiles, q.carries) := by
  unfold landIn
  split <;> (try split) <;> rfl

/-- What the squad of a landed result is: its own registers and flags are as `landIn` and `lowerFlag` leave them. -/
theorem landPop_squad {op : Nat} {p : POp} (hp : mget s.pops op = some p) (hq : mget s.squads p.squad = some q) :
    { landPop s op with squads := s.squads, pops := s.pops } = s ∧ (landPop s op).pops = mdel s.pops op
    ∧ ∃ w g fs, mget (landPop s op).squads p.squad = some { landIn q op p with f := fs, wait := w, granted := g }
      ∧ ∀ k, k < q.f.length → (fs.getD k 0).toNat = if p.flag = some k then flagCount q k - 1 else flagCount q k := by
  have hq' : mget { s with pops := mdel s.pops op }.squads p.squad = some q := hq
  have h1 := modSquad_get hq' fun q => landIn q op p
  obtain ⟨hrest, w, g, fs, hw, hfs⟩ := lowerFlag_squad h1 p.flag
  rw [modSquad_of_some hq'] at hrest
  have hall := congrArg (fun t : State => { t with squads := s.squads }) hrest
  rw [landIn_f] at hfs
  have hcount : ∀ k, flagCount (landIn q op p) k = flagCount q k := fun k => by rw [flagCount, landIn_f]; rfl
  simp only [hcount] at hfs
  unfold landPop
  simp only [hp, modSquad_of_some hq'] at hw ⊢
  refine ⟨congrArg (fun t : State => { t with pops := s.pops }) hall, congrArg State.pops hrest, ?_⟩
  rw [mget_map _ _ (fun x => by split <;> rfl), hw]
  simp only [Option.map_some]
  split
  · exact ⟨_, g, fs, rfl, hfs⟩
  · exact ⟨w, g, fs, rfl, hfs⟩

end Sys2Proof.Landing

open Sys2Proof Sys2Proof.Machine in
/-- Settles O57, by what `landIn` and `lowerFlag` leave. -/
theorem resultsLand : Obligations.ResultsLand := by
  intro s op p q hp hq t
  obtain ⟨hrest, hpops, w, g, fs, hsq, hfs⟩ := Landing.landPop_squad hp hq
  refine ⟨hrest, hpops, _, hsq, fun idx n i hd hi => ?_, fun m hv hvp => ?_, fun k hd hk l hl => ?_,
    fun idx wd hd hl hg lo hi hvals => ?_, fun f hf => hfs f hf, Landing.landIn_fixed q op p⟩
  · simp only [landIn, hd]
    have h := Landing.landRegs_inside op idx p.vals q.v 0 i hi
    rw [Nat.zero_add] at h
    exact h
  · change mget (landIn q op p).v m = _
    unfold landIn
    split
    · rfl
    · next idx n hd => exact Landing.landRegs_outside _ _ _ _ _ _ (hv idx n hd)
    · split <;> rfl
    · split <;> rfl
    · next idx n k hd => exact Landing.landRegs_outside _ _ _ _ _ _ (hvp idx n k hd)
  · simp only [landIn, hd]
    cases hover : p.overP
    · simpa using Landing.putPred_getLsbD q.p hk p.lanes p.pval hl
    · simp
  · simp only [landIn, hd, if_neg hl, hvals, hg, landUniform, readG, List.contains_nil, Bool.false_eq_true, if_false, Nat.add_zero]
    rw [mgetD, mget_mset_self]
    cases wd
    · exact (BitVec.setWidth_eq_append (by decide)).symm
    · rfl

/-! PROOFS. What accompanies a step: time, waking, ages, and what settles (01 R16, 00 R5). -/

namespace Sys2Proof.AroundProofs

open Sys2Proof Sys2Proof.Machine

/-! ### Folds that change nothing -/

theorem foldl_fixed {α β : Type} (f : β → α → β) (b : β) (xs : List α) (h : ∀ x ∈ xs, f b x = b) : xs.foldl f b = b := by
  induction xs with
  | nil => rfl
  | cons x xs ih =>
    rw [List.foldl_cons, h x List.mem_cons_self]
    exact ih fun y hy => h y (List.mem_cons_of_mem _ hy)

theorem foldl_min_le (cs : List Nat) : ∀ c, cs.foldl Nat.min c ≤ c ∧ ∀ x ∈ cs, cs.foldl Nat.min c ≤ x := by
  induction cs with
  | nil => exact fun c => ⟨le_rfl, nofun⟩
  | cons d cs ih =>
    intro c
    obtain ⟨h1, h2⟩ := ih (Nat.min c d)
    refine ⟨h1.trans (Nat.min_le_left _ _), fun x hx => ?_⟩
    rcases List.mem_cons.mp hx with rfl | hx
    · exact h1.trans (Nat.min_le_right _ _)
    · exact h2 x hx

/-! ### Clocks and the time base -/

theorem clockNext_ge (s : State) (due : List (Nat × Nat × Instr × EvArg)) (d n : Nat) : clk s d ≤ clockNext s due d n := by
  unfold clockNext
  split
  · exact Nat.le_add_right _ _
  · exact Nat.le_max_left _ _

theorem clockNext_none (s : State) (d n : Nat) : clockNext s [] d n = clk s d + n := rfl

/-- No clock passes what falls due at it. -/
theorem clockNext_le (s : State) {due : List (Nat × Nat × Instr × EvArg)} (n : Nat) {x : Nat × Nat × Instr × EvArg}
    (hx : x ∈ due) (h : clk s x.1 ≤ x.2.1) : clockNext s due x.1 n ≤ x.2.1 := by
  have hmem : x.2.1 ∈ (due.filter fun y => y.1 == x.1).map (fun y => y.2.1) :=
    List.mem_map_of_mem (List.mem_filter.mpr ⟨hx, beq_self_eq_true _⟩)
  unfold clockNext
  split
  · next hnil => rw [hnil] at hmem; exact absurd hmem List.not_mem_nil
  · next c cs hcs =>
    rw [hcs] at hmem
    obtain ⟨h1, h2⟩ := foldl_min_le cs c
    refine Nat.max_le.mpr ⟨h, (Nat.min_le_right _ _).trans ?_⟩
    rcases List.mem_cons.mp hmem with he | he
    · exact he ▸ h1
    · exact h2 _ he

theorem timeNext_le (s : State) (n : Nat) {x : Nat × Instr × EvArg} (hx : x ∈ timeDeadlines s) (h : s.timeNs.toNat ≤ x.1) :
    timeNext s n ≤ x.1 := by
  have hmem : x.1 ∈ (timeDeadlines s).map (·.1) := List.mem_map_of_mem hx
  unfold timeNext
  split
  · next hnil => rw [hnil] at hmem; exact absurd hmem List.not_mem_nil
  · next c cs hcs =>
    rw [hcs] at hmem
    obtain ⟨h1, h2⟩ := foldl_min_le cs c
    refine Nat.max_le.mpr ⟨h, (Nat.min_le_right _ _).trans ?_⟩
    rcases List.mem_cons.mp hmem with he | he
    · exact he ▸ h1
    · exact h2 _ he

theorem timeNext_none {s : State} (n : Nat) (h : timeDeadlines s = []) : timeNext s n = s.timeNs.toNat + n := by
  unfold timeNext; rw [h]; rfl

/-- What a fold of updates leaves under each key. -/
theorem mgetD_foldl_mset (f : Nat → Nat) (ds : List Nat) : ∀ m : FMap Nat, ∀ d,
    mgetD (ds.foldl (fun m d => mset m d (f d)) m) d 0 = if d ∈ ds then f d else mgetD m d 0 := by
  induction ds with
  | nil => exact fun m d => (if_neg List.not_mem_nil).symm
  | cons e ds ih =>
    intro m d
    rw [List.foldl_cons, ih]
    by_cases hd : d ∈ ds
    · rw [if_pos hd, if_pos (List.mem_cons_of_mem _ hd)]
    · by_cases he : d = e
      · subst he
        rw [if_neg hd, if_pos List.mem_cons_self, mgetD, mget_mset_self]; rfl
      · rw [if_neg hd, if_neg (by simp [he, hd]), mgetD, mget_mset_ne _ _ _ _ he]; rfl

/-! ### What time does to the machine -/

/-- The clocks after a step whose own effect was made in `s`. -/
def clocksAfter (s s1 : State) : FMap Nat :=
  (List.range 8).foldl
    (fun m d => mset m d (clockNext s1 (deadlines s1) d (Config.stepClocks (8 * s.freeNo + d)))) s1.clocks

theorem clocksAfter_eq (s s1 : State) (d : Nat) :
    mgetD (clocksAfter s s1) d 0
      = if d < 8 then clockNext s1 (deadlines s1) d (Config.stepClocks (8 * s.freeNo + d)) else clk s1 d := by
  rw [clocksAfter, mgetD_foldl_mset]
  simp only [List.mem_range, clk]

/-- The machine once time has passed, before anything wakes. -/
def passed (s s1 : State) : State :=
  { s1 with
    clocks := clocksAfter s s1
    timeNs := BitVec.ofNat 64 (timeNext s1 (Config.stepNs s.freeNo))
    freeNo := s1.freeNo + 1
    dies := s1.dies.map fun d => (d.1, stallCodecs d.2 (mgetD (clocksAfter s s1) d.1 0 - clk s1 d.1)) }

/-- Ages of squads and stalls of partitions. -/
def aged (s0 s3 : State) : State := { s3 with squads := s3.squads.map (ageSquad s0 s3), cores := s3.cores.map (growClock s3) }

theorem tick_eq (s0 s : State) : tick s0 s = aged s0 (retryHeld (wakeSvps (passed s (settle s0 s)))) := rfl

/-! ### Waits that are not over -/

/-- One service thread wakes when its `nap` has lasted its time. -/
def wakeSvp (s : State) (x : Nat × Spine) : State :=
  match x.2.wait with
  | .nap (some n) =>
    if n ≤ s.timeNs.toNat then { svcWake s x.1 with svps := mset s.svps x.1 { x.2 with wait := .none } } else s
  | _ => s

theorem wakeSvps_eq (s : State) : wakeSvps s = s.svps.foldl wakeSvp s := rfl

/-- Waking a service thread changes only what says that it is awake. -/
theorem wakeSvp_frame (s : State) (x : Nat × Spine) : { wakeSvp s x with svps := s.svps, svcAwake := s.svcAwake } = s := by
  unfold wakeSvp
  split
  · split
    · unfold svcWake
      split <;> rfl
    · rfl
  · rfl

theorem wakeSvps_frame (s : State) :
    { wakeSvps s with svps := s.svps, svcAwake := s.svcAwake } = s := by
  have h : ∀ (v : FMap Spine) (w : BitVec 64) (xs : List (Nat × Spine)) (a : State),
      { xs.foldl wakeSvp a with svps := v, svcAwake := w } = { a with svps := v, svcAwake := w } := by
    intro v w xs
    induction xs with
    | nil => exact fun a => rfl
    | cons x xs ih =>
      intro a
      exact (ih _).trans (congrArg (fun b : State => { b with svps := v, svcAwake := w }) (wakeSvp_frame a x))
  exact h _ _ s.svps s

theorem wakeSvps_of_napping {s : State} (h : ∀ x ∈ s.svps, ∀ n, x.2.wait = .nap (some n) → s.timeNs.toNat < n) :
    wakeSvps s = s := by
  refine foldl_fixed wakeSvp _ _ fun x hx => ?_
  unfold wakeSvp
  split
  · next n hn => rw [if_neg (Nat.not_le.mpr (h x hx n hn))]
  · rfl

theorem retryHeld_of_not_tried {s : State} (hq : ∀ x ∈ s.squads, x.2.wait.tried = false)
    (hp : ∀ x ∈ s.spines, x.2.wait.tried = false) : retryHeld s = s := by
  have h1 : s.squads.foldl retrySquad s = s :=
    foldl_fixed _ _ _ fun x hx => by rw [retrySquad, if_pos (Or.inl (hq x hx))]
  rw [retryHeld, h1]
  exact foldl_fixed _ _ _ fun x hx => by rw [retrySpine, if_pos (Or.inl (hp x hx))]

/-- A step after which nothing wakes or is tried again. -/
theorem tick_of_quiet {s0 s : State} (hq : ∀ x ∈ (settle s0 s).squads, x.2.wait.tried = false)
    (hp : ∀ x ∈ (settle s0 s).spines, x.2.wait.tried = false)
    (hv : ∀ x ∈ (settle s0 s).svps, ∀ n, x.2.wait = .nap (some n) → (tick s0 s).timeNs.toNat < n) :
    tick s0 s = aged s0 (passed s (settle s0 s)) := by
  have hf := wakeSvps_frame (passed s (settle s0 s))
  have hsq : (wakeSvps (passed s (settle s0 s))).squads = (settle s0 s).squads := (congrArg State.squads hf :)
  have hsp : (wakeSvps (passed s (settle s0 s))).spines = (settle s0 s).spines := (congrArg State.spines hf :)
  have hr : retryHeld (wakeSvps (passed s (settle s0 s))) = wakeSvps (passed s (settle s0 s)) :=
    retryHeld_of_not_tried (by rw [hsq]; exact hq) (by rw [hsp]; exact hp)
  have htime : (tick s0 s).timeNs = (passed s (settle s0 s)).timeNs := by
    rw [tick_eq, hr]
    exact (congrArg State.timeNs hf :)
  rw [tick_eq, hr, wakeSvps_of_napping]
  intro x hx n hn
  rw [← htime]
  exact hv x hx n hn

/-! ### What time leaves alone -/

theorem ageSquad_cases (s0 s1 : State) (x : Nat × Squad) :
    ageSquad s0 s1 x = (x.1, { x.2 with wonAt := clk s1 (x.2.core / 256) }) ∨ ageSquad s0 s1 x = x := ite_eq_or_eq _ _ _

theorem ageSquad_fst (s0 s1 : State) (x : Nat × Squad) : (ageSquad s0 s1 x).1 = x.1 := by
  rcases ageSquad_cases s0 s1 x with h | h <;> rw [h]

theorem ageSquad_snd (s0 s1 : State) (x : Nat × Squad) : { (ageSquad s0 s1 x).2 with wonAt := 0 } = { x.2 with wonAt := 0 } := by
  rcases ageSquad_cases s0 s1 x with h | h <;> rw [h]

theorem aged_squads (s0 s : State) (id : Nat) :
    (mget (aged s0 s).squads id).map (fun q => { q with wonAt := 0 }) = (mget s.squads id).map fun q => { q with wonAt := 0 } := by
  rw [show (aged s0 s).squads = s.squads.map (ageSquad s0 s) from rfl, Landing.mget_map _ _ (ageSquad_fst _ _)]
  cases mget s.squads id with
  | none => rfl
  | some q => exact congrArg some (ageSquad_snd s0 s (id, q))

theorem aged_cores (s0 s : State) (c : Nat) :
    (mget (aged s0 s).cores c).map (fun x => { x with growSince := [] }) = (mget s.cores c).map fun x => { x with growSince := [] } := by
  rw [show (aged s0 s).cores = s.cores.map (growClock s) from rfl, Landing.mget_map _ (growClock s) (fun _ => rfl)]
  cases mget s.cores c with
  | none => rfl
  | some q => rfl

theorem aged_dies (s0 s : State) : (aged s0 s).dies = s.dies := rfl

theorem passed_dies (s s1 : State) (d : Nat) : mget (passed s s1).dies d
    = (mget s1.dies d).map fun x => stallCodecs x (mgetD (clocksAfter s s1) d 0 - clk s1 d) :=
  Landing.mget_map s1.dies (fun d => (d.1, stallCodecs d.2 (mgetD (clocksAfter s s1) d.1 0 - clk s1 d.1))) (fun _ => rfl) d

theorem stallCodecs_frame (d : Die) (n : Nat) : { stallCodecs d n with codec := [] } = { d with codec := [] } := rfl

theorem stallCodecs_other (d : Die) (n : Nat) {k : Nat} (h7 : k ≠ 7) (h15 : k ≠ 15) :
    mget (stallCodecs d n).codec k = mget d.codec k := by
  unfold stallCodecs
  dsimp only
  split <;> split <;> simp [mget_mset_ne, h7, h15]

/-! ### What settles -/

theorem settleMerged_of_none_stuck {s : State} (h : ∀ e ∈ s.wc, e.stuck = false) : settleMerged s = s := by
  have : s.wc.filter (·.stuck) = [] := List.filter_eq_nil_iff.mpr fun e he => by simp [h e he]
  rw [settleMerged, this]; rfl

theorem dropHeldAccs_of_all_stand {s : State} (h : ∀ a ∈ s.heldAccs, a.stands s = true) : dropHeldAccs s = s := by
  have : s.heldAccs.filter (·.stands s) = s.heldAccs := List.filter_eq_self.mpr h
  rw [dropHeldAccs, this]

theorem snapCreds_of_none_issued {s : State} (h : ∀ c ∈ s.creds, c.old.isSome = true) : snapCreds s = s := by
  have : (s.creds.map fun c => if c.old.isNone then { c with old := some (credPeek s c) } else c) = s.creds := by
    conv_rhs => rw [← List.map_id s.creds]
    refine List.map_congr_left fun c hc => ?_
    obtain ⟨v, hv⟩ := Option.isSome_iff_exists.mp (h c hc)
    simp [hv]
  rw [snapCreds, this]

theorem msixFlush_of_none_waiting {s : State} (h : s.msixWait = []) : msixFlush s = s := by
  unfold msixFlush; rw [if_pos (by rw [h]; rfl)]

theorem syncShadows_of_no_shadow {s : State} (h : ∀ x ∈ s.psets, x.2.owner = none ∨ x.2.swap.isSome = true) :
    syncShadows s = s := by
  refine foldl_fixed _ _ _ fun p hp => if_pos ?_
  exact (h p hp).imp (fun e => by rw [e]; rfl) id

theorem syncHeaders_of_no_header (s0 : State) {s : State} (h : ∀ x ∈ s.teams, x.2.hdrSlot = none) : syncHeaders s0 s = s :=
  foldl_fixed _ _ _ fun x hx => by unfold syncHeader; rw [h x hx]

theorem dropGone_of_none_gone {s : State} (h : ∀ x ∈ s.grids, x.2.gone = false) : dropGone s = s := by
  have : s.grids.any (·.2.gone) = false := List.any_eq_false.mpr fun x hx => by simp [h x hx]
  rw [dropGone, this, if_neg Bool.false_ne_true]

theorem settleClosing_of_none_closing {s : State} (h : s.closing = []) : settleClosing s = s := by
  rw [settleClosing, h]; rfl

end Sys2Proof.AroundProofs

open Sys2Proof Sys2Proof.Machine in
open AroundProofs in
/-- Settles O50, by `tick_of_quiet` and the parts of `settle`. -/
theorem aroundAStep : Obligations.AroundAStep := by
  refine ⟨?_, ?_⟩
  · intro s0 s s1 t hq hp hv
    have ht : t = aged s0 (passed s s1) := tick_of_quiet hq hp hv
    clear_value t s1
    subst ht
    have hclk : ∀ d, clk (aged s0 (passed s s1)) d = if d < 8 then clockNext s1 (deadlines s1) d (Config.stepClocks (8 * s.freeNo + d)) else clk s1 d :=
      clocksAfter_eq s s1
    have htime : (aged s0 (passed s s1)).timeNs = BitVec.ofNat 64 (timeNext s1 (Config.stepNs s.freeNo)) := rfl
    refine ⟨fun d => ?_, fun d hd hno => ?_, fun x hx h => ?_, fun hno => ?_, fun x hx h => ?_, rfl, rfl,
      fun id => ?_, fun c => ?_, fun d => ?_, fun d x y k hx hy h7 h15 => ?_⟩
    · rw [hclk]
      split
      · exact clockNext_ge _ _ _ _
      · exact le_rfl
    · rw [hclk, if_pos hd, hno, clockNext_none]
    · rw [hclk]
      split
      · exact clockNext_le s1 _ hx h
      · exact h
    · rw [htime, timeNext_none _ hno, BitVec.ofNat_add, BitVec.ofNat_toNat, BitVec.setWidth_eq]
    · rw [htime]
      exact (Nat.mod_le _ _).trans (timeNext_le s1 _ hx h)
    · exact aged_squads s0 (passed s s1) id
    · exact aged_cores s0 (passed s s1) c
    · rw [aged_dies, passed_dies]
      cases mget s1.dies d with
      | none => rfl
      | some x => rfl
    · rw [aged_dies, passed_dies, hy] at hx
      rw [← Option.some.inj hx]
      exact stallCodecs_other _ _ h7 h15
  · intro s0 s hh hc hg hs hm hcr hw ha
    rw [settle, settleMerged_of_none_stuck hw, dropHeldAccs_of_all_stand ha, snapCreds_of_none_issued hcr,
      msixFlush_of_none_waiting hm, syncShadows_of_no_shadow hs, syncHeaders_of_no_header s0 hh, dropGone_of_none_gone hg,
      settleClosing_of_none_closing hc]

/-! PROOFS. Lane instructions: how a short one and a long one end, and what each of them computes (16 R376 to R401). -/

namespace Sys2Proof.LaneProofs

open Sys2Proof Sys2Proof.Machine

/-! ### How an instruction ends -/

theorem advance_eq (o : LaneOp) (q : Squad) : advance o q = Claims.onward o q := by
  unfold advance Claims.onward
  cases o.e
  · simp
  · simp

theorem markDead_eq (q : Squad) (vs : List Nat) (x : Squad) :
    markDead q vs x = { x with cstat := if vs.any fun n => (mget q.v n).isNone then x.cstat ||| 1 else x.cstat } := by
  unfold markDead deadRead
  split <;> rfl

/-- The uniform register and the predicate of an effect, written. -/
def writtenG (e : Effect) (act : Word) (q : Squad) : Squad :=
  match e.g with
  | some (n, val) => if act = 0 then q else { q with g := mset q.g n val }
  | none => q

def writtenP (e : Effect) (q : Squad) : Squad :=
  match e.p with
  | some (n, lanes, val) => { q with p := putPred q.p n lanes val }
  | none => q

theorem writtenG_eq (e : Effect) (act : Word) (q : Squad) :
    writtenG e act q = { q with g := match e.g with | some (n, val) => if act = 0 then q.g else mset q.g n val | none => q.g } := by
  unfold writtenG
  cases e.g with
  | none => rfl
  | some g => by_cases h : act = 0 <;> simp only [h, if_true, if_false]

theorem writtenP_eq (e : Effect) (q : Squad) :
    writtenP e q = { q with p := match e.p with | some (n, lanes, val) => putPred q.p n lanes val | none => q.p } := by
  unfold writtenP
  cases e.p <;> rfl

theorem shortSquad_eq (x : Lx) (reads frees : List Nat) (e : Effect) (q : Squad) :
    Claims.shortSquad x reads frees e q = advance x.o (e.post (writtenP e (writtenG e x.act
      (markDead x.q reads { q with v := mapRegs (unmapAll q.v frees) (Claims.mapped x e) })))) := by
  rw [advance_eq, writtenP_eq, writtenG_eq, markDead_eq]
  rfl

/-- A short-latency instruction whose rows can be had writes its results (07 R168, R169). -/
theorem finishShort_go {s : State} {x : Lx} {e : Effect} (reads frees : List Nat) (h : Claims.room s x e) :
    finishShort s x reads frees e = Claims.shortState s x reads frees e := by
  have hrows : (Claims.mapped x e).foldl (fun n r => n + shapeRows r.2) 0 = ((Claims.mapped x e).map fun r => shapeRows r.2).sum := by
    rw [foldl_add_sum, Nat.zero_add]
  have hok : (if (Claims.mapped x e).foldl (fun n r => n + shapeRows r.2) 0 = 0 then Grow.ok
      else growCheck s x.id x.q ((Claims.mapped x e).foldl (fun n r => n + shapeRows r.2) 0)) = .ok := by
    rw [hrows]
    split
    · rfl
    · next h0 => exact h.resolve_left h0
  unfold finishShort
  dsimp only
  split
  · next ht => exact absurd (ht.symm.trans hok) (by decide)
  · next hw => exact absurd (hw.symm.trans hok) (by decide)
  · exact congrArg (modSquad _ x.id) (funext fun q => (shortSquad_eq x reads frees e q).symm)

/-- One that maps no register needs no rows. -/
theorem room_of_no_vs {s : State} {x : Lx} {e : Effect} (h : e.vs = []) : Claims.room s x e := by
  left
  simp [Claims.mapped, h]

/-- A long-latency instruction may issue. -/
theorem longReady_of_issues {s : State} {x : Lx} {n : Nat} (h : Claims.issues s x n) (k : State → State) : longReady s x n k = k s :=
  longReady_go h.1 h.2 k

/-- The consuming read goes on with its value. -/
theorem withH_of_consumed {s s' : State} {x : Lx} {hv : Dword} (h : Claims.consumed s x s' hv) (k : State → Dword → State) :
    withH s x k = k s' hv := by
  unfold Claims.consumed at h
  split at h
  · next hn =>
    obtain ⟨rfl, rfl⟩ := h
    exact withH_none hn k
  · next n hn =>
    obtain ⟨hg, rfl⟩ | ⟨hg, hr⟩ := h
    · exact withH_granted hn hg k
    · exact withH_served hn hg hr k

/-- An instruction at hand whose registers have landed. -/
theorem laneEnter_of_ready {s : State} {id : Nat} {q : Squad} {o : LaneOp} {u : Uses} (h : Claims.ready s id q o u) (i : Instr)
    (k : Lx → State) : laneEnter i o u s k = .next (k (Claims.at_ id q i o)) :=
  laneEnter_next h.1 h.2 k

theorem longReady_withH {s s' : State} {x : Lx} {n : Nat} {hv : Dword} (hi : Claims.issues s x n) (hc : Claims.consumed s x s' hv)
    (k : State → Dword → State) : (longReady s x n fun s => withH s x k) = k s' hv :=
  (longReady_of_issues hi _).trans (withH_of_consumed hc _)

section frames
variable {i : Instr} {o : LaneOp} {w : Shape} {s : State} {id : Nat} {q : Squad}

/-- The values of an instruction in each lane: with hv read from a shared register. -/
def values (q : Squad) (o : LaneOp) (w : Shape) (f : Nat → Nat → Nat → Nat → Nat) (hv : Dword) (l : Nat) : Nat :=
  f l (srcVal q o hv w.a o.a l) (srcVal q o hv w.b o.b l) (srcVal q o hv w.c o.c l)

theorem isSome_hSource : (hSource o).isSome = true ↔ hSource o ≠ none := Option.isSome_iff_ne_none

theorem aluLane_short {f : Squad → Nat → Nat → Nat → Nat → Nat} (h : Claims.ready s id q o (usesOf o w)) (hs : hSource o = none)
    (hr : Claims.room s (Claims.at_ id q i o) (valEffect (Claims.at_ id q i o) w.d (values q o w (f q) 0))) :
    aluLane i o w s f = .next (Claims.shortState s (Claims.at_ id q i o) (usesOf o w).vs (freesOf o w)
      (valEffect (Claims.at_ id q i o) w.d (values q o w (f q) 0))) := by
  unfold aluLane
  rw [laneEnter_of_ready h]
  exact congrArg _ ((if_neg (by simp [hs])).trans (finishShort_go _ _ hr))

theorem aluLane_long {f : Squad → Nat → Nat → Nat → Nat → Nat} (h : Claims.ready s id q o (usesOf o w)) (hs : hSource o ≠ none)
    (hi : Claims.issues s (Claims.at_ id q i o) (usesOf o w).dv.length) {s' : State} {hv : Dword}
    (hc : Claims.consumed s (Claims.at_ id q i o) s' hv) :
    aluLane i o w s f = .next (finishLong s' (Claims.at_ id q i o) (usesOf o w).vs (freesOf o w)
      (valResult (Claims.at_ id q i o) w.d (values q o w (f q) hv))) := by
  unfold aluLane
  rw [laneEnter_of_ready h]
  exact congrArg _ ((if_pos (isSome_hSource.mpr hs)).trans (longReady_withH hi hc _))

/-- The lanes in which a test holds. -/
def tests (q : Squad) (o : LaneOp) (w : Shape) (f : Nat → Nat → Nat → Bool) (hv : Dword) : Word :=
  maskOf fun l => f (srcVal q o hv w.a o.a l) (srcVal q o hv w.b o.b l) (srcVal q o hv w.c o.c l)

theorem predLane_short {f : Squad → Nat → Nat → Nat → Bool} (h : Claims.ready s id q o (usesOf o w)) (hs : hSource o = none) :
    predLane i o w s f = .next (Claims.shortState s (Claims.at_ id q i o) (usesOf o w).vs (freesOf o w)
      { p := some (Claims.predOf o, (Claims.at_ id q i o).act, tests q o w (f q) 0) }) := by
  unfold predLane
  rw [laneEnter_of_ready h]
  exact congrArg _ ((if_neg (by simp [hs])).trans (finishShort_go _ _ (room_of_no_vs rfl)))

theorem predLane_long {f : Squad → Nat → Nat → Nat → Bool} (h : Claims.ready s id q o (usesOf o w)) (hs : hSource o ≠ none)
    (hi : Claims.issues s (Claims.at_ id q i o) 0) {s' : State} {hv : Dword} (hc : Claims.consumed s (Claims.at_ id q i o) s' hv) :
    predLane i o w s f = .next (finishLong s' (Claims.at_ id q i o) (usesOf o w).vs (freesOf o w)
      { dst := .p (Claims.predOf o), pval := tests q o w (f q) hv }) := by
  unfold predLane
  rw [laneEnter_of_ready h]
  exact congrArg _ ((if_pos (isSome_hSource.mpr hs)).trans (longReady_withH hi hc _))

theorem longLane_issues {f : Lx → (Nat → Nat) → (Nat → Nat) → (Nat → Nat) → Nat → Nat} (h : Claims.ready s id q o (usesOf o w))
    (hi : Claims.issues s (Claims.at_ id q i o) (usesOf o w).dv.length) {s' : State} {hv : Dword}
    (hc : Claims.consumed s (Claims.at_ id q i o) s' hv) :
    longLane i o w s f = .next (finishLong s' (Claims.at_ id q i o) (usesOf o w).vs (freesOf o w)
      (valResult (Claims.at_ id q i o) w.d
        (f (Claims.at_ id q i o) (srcVal q o hv w.a o.a) (srcVal q o hv w.b o.b) (srcVal q o hv w.c o.c)))) := by
  unfold longLane
  rw [laneEnter_of_ready h]
  exact congrArg _ (longReady_withH hi hc _)

end frames

/-! ### What each instruction computes -/

theorem exec_of_laneTable : ∀ r ∈ Claims.laneTable, ∀ (o : LaneOp) (s : State),
    exec (r.1 o) s = aluLane (r.1 o) o (r.2.1 o) s fun q l a b c => r.2.2 s o q l a b c := by
  simp only [Claims.laneTable, List.forall_mem_cons]
  exact ⟨fun _ _ => rfl, fun _ _ => rfl, fun _ _ => rfl, fun _ _ => rfl, fun _ _ => rfl, fun _ _ => rfl, fun _ _ => rfl,
    fun _ _ => rfl, fun _ _ => rfl, fun _ _ => rfl, fun _ _ => rfl, fun _ _ => rfl, fun _ _ => rfl, fun _ _ => rfl,
    fun _ _ => rfl, fun _ _ => rfl, fun _ _ => rfl, fun _ _ => rfl, fun _ _ => rfl, fun _ _ => rfl, fun _ _ => rfl,
    fun _ _ => rfl, fun _ _ => rfl, fun _ _ => rfl, fun _ _ => rfl, fun _ _ => rfl, fun _ _ => rfl, fun _ _ => rfl,
    fun _ _ => rfl, fun _ _ => rfl, fun _ _ => rfl, fun _ _ => rfl, fun _ _ => rfl, fun _ _ => rfl, fun _ _ => rfl,
    fun _ _ => rfl, fun _ _ => rfl, fun _ _ => rfl, fun _ _ => rfl, fun _ _ => rfl, fun _ _ => rfl, fun _ _ => rfl,
    fun _ _ => rfl, fun _ _ => rfl, fun _ _ => rfl, fun _ _ => rfl, nofun⟩

theorem exec_of_longTable : ∀ r ∈ Claims.longTable, ∀ (o : LaneOp) (s : State),
    exec (r.1 o) s = longLane (r.1 o) o (r.2.1 o) s fun x a b _ => r.2.2 s { x with o := o } a b := by
  simp only [Claims.longTable, List.forall_mem_cons]
  exact ⟨fun _ _ => rfl, fun _ _ => rfl, fun _ _ => rfl, fun _ _ => rfl, fun _ _ => rfl, fun _ _ => rfl, fun _ _ => rfl,
    fun _ _ => rfl, fun _ _ => rfl, fun _ _ => rfl, fun _ _ => rfl, fun _ _ => rfl, fun _ _ => rfl, nofun⟩

theorem exec_of_testTable : ∀ r ∈ Claims.testTable, ∀ (o : LaneOp) (s : State),
    exec (r.1 o) s = predLane (r.1 o) o (r.2.1 o) s fun q a b _ => r.2.2 o q a b := by
  simp only [Claims.testTable, List.forall_mem_cons]
  exact ⟨fun _ _ => rfl, fun _ _ => rfl, nofun⟩

/-- What `sel` gives a lane. -/
def selected (q : Squad) (o : LaneOp) (hv : Dword) (l : Nat) : Nat :=
  if inMask (predVal q (o.md.extractLsb' 0 3).toNat) l != o.md.getLsbD 3 then srcVal q o hv (Claims.typed o.ty).a o.a l
  else srcVal q o hv (Claims.typed o.ty).b o.b l

theorem selected_eq (q : Squad) (o : LaneOp) (hv : Dword) (l : Nat) : selected q o hv l
    = if inMask (predVal q (o.md.extractLsb' 0 3).toNat) l = o.md.getLsbD 3 then srcVal q o hv (Claims.typed o.ty).b o.b l
      else srcVal q o hv (Claims.typed o.ty).a o.a l := by
  unfold selected
  by_cases h : inMask (predVal q (o.md.extractLsb' 0 3).toNat) l = o.md.getLsbD 3
  · rw [if_pos h, if_neg (fun hn => bne_iff_ne.mp hn h)]
  · rw [if_neg h, if_pos (bne_iff_ne.mpr h)]

theorem exec_sel (o : LaneOp) (s : State) : exec (.sel o) s
    = laneEnter (.sel o) o { usesOf o (Claims.typed o.ty) with ps := [(o.md.extractLsb' 0 3).toNat] } s fun x =>
        if (hSource o).isSome then
          longReady s x (usesOf o (Claims.typed o.ty)).dv.length fun s => withH s x fun s hv =>
            finishLong s x (usesOf o (Claims.typed o.ty)).vs (freesOf o (Claims.typed o.ty))
              (valResult x (Claims.typed o.ty).d (selected x.q o hv))
        else
          finishShort s x (usesOf o (Claims.typed o.ty)).vs (freesOf o (Claims.typed o.ty))
            (valEffect x (Claims.typed o.ty).d (selected x.q o 0)) := rfl

theorem maskOf_false : maskOf (fun _ => false) = 0 := by decide

/-- `elect` names the lowest active lane. -/
theorem electMask_eq (m : Word) : (match lowLane m with | some l => maskOf fun k => k == l | none => 0)
    = maskOf fun k => lowLane m == some k := by
  cases h : lowLane m with
  | none => exact maskOf_false.symm
  | some l => exact congrArg maskOf (funext fun k => BEq.comm)

end Sys2Proof.LaneProofs

open Sys2Proof Sys2Proof.Machine in
open LaneProofs in
/-- Settles O12, by the frames of arithmetic instructions and the tables of what they compute. -/
theorem laneArithmetic : Obligations.LaneArithmetic := by
  constructor
  · intro r hr o s id q w u x val hrd
    rw [exec_of_laneTable r hr]
    exact ⟨fun hs hroom => aluLane_short hrd hs hroom, fun hs hi s' hv hc => aluLane_long hrd hs hi hc⟩
  · intro r hr o s id q w u x hrd hi s' hv hc
    rw [exec_of_longTable r hr]
    exact longLane_issues hrd hi hc

open Sys2Proof Sys2Proof.Machine in
open LaneProofs in
/-- Settles O13, by the frames of instructions with a predicate and those of each instruction with a mask. -/
theorem lanePredicates : Obligations.LanePredicates := by
  intro o s id q n d
  refine ⟨?_, ?_, ?_, ?_, ?_, ?_, ?_⟩
  · intro r hr w u x val hrd
    rw [exec_of_testTable r hr]
    exact ⟨fun hs => predLane_short hrd hs, fun hs hi s' hv hc => predLane_long hrd hs hi hc⟩
  · intro u x val hrd
    rw [show exec (.pset o) s = execPset o s from rfl, execPset, laneEnter_of_ready hrd]
    exact ⟨fun hs => congrArg _ ((if_neg (by simp [hs])).trans (finishShort_go _ _ (room_of_no_vs rfl))),
      fun hs hi s' hv hc => congrArg _ ((if_pos (isSome_hSource.mpr hs)).trans (longReady_withH hi hc _))⟩
  · intro k w u x val hrd
    have hval : selected q o = val := funext fun hv => funext fun l => selected_eq q o hv l
    rw [exec_sel, laneEnter_of_ready hrd, ← hval]
    exact ⟨fun hs hroom => congrArg _ ((if_neg (by simp [hs])).trans (finishShort_go _ _ hroom)),
      fun hs hi s' hv hc => congrArg _ ((if_pos (isSome_hSource.mpr hs)).trans (longReady_withH hi hc _))⟩
  · intro x hrd
    rw [show exec (.elect o) s = execElect o s from rfl, execElect, laneEnter_of_ready hrd]
    exact congrArg _ ((finishShort_go _ _ (room_of_no_vs rfl)).trans
      (congrArg (fun m => Claims.shortState s x [] [] { p := some (n, x.act, m) }) (electMask_eq x.act)))
  · intro x hrd
    rw [show exec (.emset o) s = execEmset o s from rfl, execEmset, laneEnter_of_ready hrd]
    exact congrArg _ (finishShort_go _ _ (room_of_no_vs rfl))
  · intro k x e hrd hroom
    rw [show exec (.pget o) s = execPget o s from rfl, execPget, laneEnter_of_ready hrd]
    exact congrArg _ (finishShort_go _ _ hroom)
  · intro mode k u x holds hrd hi s' hv hc
    rw [show exec (.vote o) s = execVote o s from rfl, execVote, laneEnter_of_ready hrd]
    exact congrArg _ (longReady_withH hi hc _)

/-! PROOFS. Shared-register instructions of lanes (16 R400, R401, 10 R232). -/

namespace Sys2Proof.LaneProofs

open Sys2Proof Sys2Proof.Machine

/-- A release that its statement lets go on goes on. -/
theorem laneRelease_of_released {s s' : State} {x : Lx} (h : Claims.released s x.id x.q s') (k : State → State) :
    laneRelease s x k = k s' := by
  obtain ⟨hg | ha, rfl⟩ | ⟨hg, ha, hw, hr, rfl, hm⟩ := h
  · simp [laneRelease, hg]
  · simp [laneRelease, ha]
  · exact laneRelease_go hg ha hw hr hm k

theorem laneBank_granted {s : State} {x : Lx} {v : Dword} (h : x.q.granted = some v) (op : HOp) (k : State → State) :
    laneBank s x op k = k s := by
  simp only [laneBank, h]

theorem laneBank_performed {s s' : State} {x : Lx} {op : HOp} {v : Dword} (h : x.q.granted = none)
    (ha : hArrive (if (hLoc s x.q.team (hDest x.o)).common then escape s x.q.team else s) (hLoc s x.q.team (hDest x.o)) (.squad x.id) op
      = (s', some v)) (k : State → State) : laneBank s x op k = k s' := by
  simp only [laneBank, h, ha]

/-- A contribution that the bank takes, and one that waits. -/
theorem arrival_performed {α : Type} {r : State × Option Dword} {s' : State} {v : Dword} {f g : State → α} :
    r = (s', some v) → (match r with | (s, some _) => f s | (s, none) => g s) = f s' := by rintro rfl; rfl

theorem arrival_waits {α : Type} {r : State × Option Dword} {s' : State} {f g : State → α} :
    r = (s', none) → (match r with | (s, some _) => f s | (s, none) => g s) = g s' := by rintro rfl; rfl

/-- What `hacc` does at its issue. -/
theorem exec_hacc_issue {s s1 : State} {id : Nat} {q : Squad} {o : LaneOp}
    (hrd : Claims.ready s id q o { usesOf o { a := o.ty.opW } with dp := none }) (hg : q.granted = none)
    (hi : Claims.issues s (Claims.at_ id q (.hacc o) o) 0) (hrel : Claims.released s id q s1) :
    exec (.hacc o) s = .next
      (match hArrive (if (hLoc s1 q.team (hDest o)).common then escape s1 q.team else s1) (hLoc s1 q.team (hDest o)) (.squad id)
          (.acc (hValue o.ty (squadReduce (o.md.extractLsb' 0 3).toNat o.ty (q.fpmode.getLsbD 0) (activeLanes q o)
            (srcVal q o 0 o.ty.opW o.a))) (o.md.extractLsb' 0 3).toNat (gtypeOf o.ty) (o.imm.toNat % 2048)) with
       | (s, some _) => finishLong s (Claims.at_ id q (.hacc o) o) (usesOf o { a := o.ty.opW }).vs (freesOf o { a := o.ty.opW }) {}
       | (s, none) => setWait (contributionWaits s (Claims.at_ id q (.hacc o) o)) id
          (.shared (hLoc s1 q.team (hDest o)).cluster (hLoc s1 q.team (hDest o)).key)) := by
  rw [show exec (.hacc o) s = execHacc o s from rfl, execHacc, laneEnter_of_ready hrd]
  have hno : ¬ (Claims.at_ id q (.hacc o) o).q.granted.isSome = true := by
    change ¬ q.granted.isSome = true
    simp [hg]
  refine congrArg _ ((if_neg hno).trans ((longReady_of_issues hi _).trans ((laneRelease_of_released hrel _).trans ?_)))
  rfl

end Sys2Proof.LaneProofs

open Sys2Proof Sys2Proof.Machine in
open LaneProofs in
/-- Settles O14, by what a release, an operation of the bank and the ends of an instruction do. -/
theorem laneSharedRegisters : Obligations.LaneSharedRegisters := by
  intro o s id q w u entry bank
  refine ⟨?_, ?_, ?_⟩
  · intro x hrd
    rw [show exec (.hput o) s = execHput o s from rfl, execHput, laneEnter_of_ready hrd]
    refine ⟨fun hl => ?_, fun l hl s' hb => ?_⟩
    · simp only [show lowLane (Claims.at_ id q (.hput o) o).act = none from hl]
      exact congrArg _ (finishShort_go _ _ (room_of_no_vs rfl))
    · simp only [show lowLane (Claims.at_ id q (.hput o) o).act = some l from hl]
      refine congrArg _ (Eq.trans ?_ (finishShort_go _ _ (room_of_no_vs rfl)))
      obtain ⟨v, hg, rfl⟩ | ⟨hg, s1, hrel, v, hv⟩ := hb
      · have hgx : x.q.granted = some v := hg
        exact (laneRelease_of_released (x := x) (Or.inl ⟨Or.inl (by rw [hgx]; rfl), rfl⟩) _).trans (laneBank_granted hgx _ _)
      · refine (laneRelease_of_released (x := x) hrel _).trans ?_
        exact laneBank_performed (x := x) hg hv _
  · intro x op v u hrd
    constructor
    · intro hg
      rw [show exec (.hacc o) s = execHacc o s from rfl, execHacc, laneEnter_of_ready hrd]
      exact congrArg _ ((if_pos (Option.isSome_iff_ne_none.mpr hg)).trans (finishShort_go _ _ (room_of_no_vs rfl)))
    · intro hg hi s1 hrel l op s'
      rw [exec_hacc_issue hrd hg hi hrel]
      exact ⟨fun v hv => congrArg _ (arrival_performed hv), fun hv => congrArg _ (arrival_waits hv)⟩
  · intro x u e hrd hi
    rw [show exec (.hstat o) s = execHstat o s from rfl, execHstat, laneEnter_of_ready hrd]
    refine congrArg _ ((longReady_of_issues hi _).trans ?_)
    dsimp only
    rw [SpineMemory.hStatus_eq]
    rfl

/-! PROOFS. The frame of the short-latency lane instructions (07 R168 to R170, R175). -/

namespace Sys2Proof.LaneProofs

open Sys2Proof Sys2Proof.Machine

/-! ### The machine around a short instruction -/

theorem mget_mmod_ne {α : Type} (m : FMap α) {n k : Nat} (f : α → α) (h : k ≠ n) : mget (mmod m n f) k = mget m k := by
  unfold mmod
  split
  · exact mget_mset_ne _ _ _ _ h
  · rfl

/-- A short instruction changes its squad and what still lands, and nothing else. -/
theorem shortState_eq {s : State} {x : Lx} {q : Squad} (hq : mget s.squads x.id = some q) (reads frees : List Nat) (e : Effect) :
    ∃ ps, Claims.shortState s x reads frees e
      = { s with pops := ps, squads := mmod s.squads x.id (Claims.shortSquad x reads frees e) } := by
  have hover : ∀ (p : State → Prop), p s → (∀ t n, p t → p (overG t x.id n)) → (∀ t n, p t → p (overP t x.id n)) →
      ∃ t, p t ∧ Claims.shortState s x reads frees e = modSquad t x.id (Claims.shortSquad x reads frees e) := by
    intro p h0 hg hp
    have hG : p (match e.g with | some (n, _) => if x.act = 0 then s else overG s x.id n | none => s) := by
      split
      · split
        · exact h0
        · exact hg _ _ h0
      · exact h0
    have hP : ∀ t, p t → p (match e.p with | some (n, _, _) => if x.act = 0 then t else overP t x.id n | none => t) := by
      intro t ht
      split
      · split
        · exact ht
        · exact hp _ _ ht
      · exact ht
    exact ⟨_, hP _ hG, rfl⟩
  obtain ⟨t, ⟨ps, rfl⟩, ht⟩ := hover (fun t => ∃ ps, t = { s with pops := ps }) ⟨s.pops, rfl⟩
    (by rintro t n ⟨ps, rfl⟩; exact ⟨_, rfl⟩) (by rintro t n ⟨ps, rfl⟩; exact ⟨_, rfl⟩)
  exact ⟨ps, ht.trans (Landing.modSquad_of_some (s := { s with pops := ps }) hq _)⟩

/-! ### Registers -/

theorem mapRegs_outside (rs : List (Nat × Lanes)) : ∀ (v : FMap VReg) (n : Nat), (∀ r ∈ rs, r.1 ≠ n) →
    mget (mapRegs v rs) n = mget v n := by
  induction rs with
  | nil => exact fun v n _ => rfl
  | cons r rs ih =>
    intro v n h
    obtain ⟨k, x⟩ := r
    rw [mapRegs, ih _ _ fun r hr => h r (List.mem_cons_of_mem _ hr)]
    exact mget_mset_ne _ _ _ _ (h (k, x) List.mem_cons_self).symm

theorem unmapAll_outside (frees : List Nat) : ∀ (v : FMap VReg) (n : Nat), n ∉ frees → mget (frees.foldl mdel v) n = mget v n := by
  induction frees with
  | nil => exact fun v n _ => rfl
  | cons k frees ih =>
    intro v n h
    rw [List.foldl_cons, ih _ _ fun hm => h (List.mem_cons_of_mem _ hm)]
    exact mget_mdel_ne _ _ _ fun he => h (he ▸ List.mem_cons_self)

theorem laneAt_lanesFrom (f : Nat → Word) {l : Nat} (hl : l < 32) : laneAt (lanesFrom f) l = f l := by
  have hidx : laneIdx = List.range 32 := by decide
  rw [laneAt, lanesFrom, hidx]
  simp [hl]

theorem laneAt_mergeLanes (q : Squad) (n : Nat) (act : Word) (f : Nat → Nat) {l : Nat} (hl : l < 32) :
    (laneAt (mergeLanes q n act f) l).toNat = if inMask act l then f l % 2 ^ 32 else readV q n l := by
  rw [mergeLanes, laneAt_lanesFrom _ hl]
  split
  · exact BitVec.toNat_ofNat _ _
  · rw [BitVec.toNat_ofNat]
    refine Nat.mod_eq_of_lt ?_
    unfold readV
    split
    · exact BitVec.isLt _
    · exact Nat.two_pow_pos 32

theorem lowLane_ne_zero {m : Word} {l : Nat} (h : lowLane m = some l) : m ≠ 0 := by
  rintro rfl
  have := List.find?_some h
  simp [inMask] at this

/-- The lane registers that an effect maps. -/
theorem mapped_of_active {x : Lx} (h : x.act ≠ 0) (e : Effect) :
    Claims.mapped x e = e.vs.filter fun r => decide (r.1 < 255) := by
  rw [Claims.mapped, if_neg h]

section destination
variable {x : Lx} {w : Nat} {f : Nat → Nat}

theorem valEffect_v32 {idx : Byte} (hd : x.o.dst = .v idx) (hw : w ≠ 64) :
    valEffect x w f = { vs := [(idx.toNat, mergeLanes x.q idx.toNat x.act f)] } := by
  simp only [valEffect, hd, if_neg hw]

theorem valEffect_v64 {idx : Byte} (hd : x.o.dst = .v idx) :
    valEffect x 64 f = { vs := [(idx.toNat, mergeLanes x.q idx.toNat x.act fun l => f l % 2 ^ 32),
               (idx.toNat + 1, mergeLanes x.q (idx.toNat + 1) x.act fun l => f l / 2 ^ 32)] } := by
  simp only [valEffect, hd, if_true]

theorem valEffect_g {idx : BitVec 7} (hd : x.o.dst = .g idx) :
    valEffect x w f
      = { g := (lowLane x.act).map fun l => (idx.toNat, BitVec.ofNat 64 (if w = 64 then f l else f l % 2 ^ 32)) } := by
  simp only [valEffect, hd]

/-- No register but the destination's is mapped. -/
theorem mapped_valEffect (r : Nat × Lanes) (h : r ∈ Claims.mapped x (valEffect x w f)) : r.1 ∈ dstVs w x.o.dst := by
  unfold Claims.mapped at h
  split at h
  · exact absurd h List.not_mem_nil
  · obtain ⟨hm, hlt⟩ := List.mem_filter.mp h
    have h255 : ∀ idx : BitVec 8, idx.toNat ≤ r.1 → idx ≠ 255 := by
      rintro idx h rfl
      exact absurd (of_decide_eq_true hlt) (Nat.not_lt.mpr h)
    cases hd : x.o.dst with
    | v idx =>
      by_cases hw : w = 64
      · subst hw
        rw [valEffect_v64 hd] at hm
        simp only [List.mem_cons, List.not_mem_nil, or_false] at hm
        have hne : idx ≠ 255 := h255 idx (by rcases hm with rfl | rfl <;> simp)
        simp only [dstVs, if_neg hne, if_true, List.mem_cons, List.not_mem_nil, or_false]
        exact hm.imp (congrArg Prod.fst) (congrArg Prod.fst)
      · rw [valEffect_v32 hd hw] at hm
        obtain rfl := List.mem_singleton.mp hm
        simp only [dstVs, if_neg (h255 idx le_rfl), if_neg hw, List.mem_singleton]
    | _ => simp only [valEffect, hd, List.not_mem_nil] at hm

theorem valEffect_post : (valEffect x w f).post = id := by
  unfold valEffect
  split <;> (try split) <;> rfl

theorem valEffect_p : (valEffect x w f).p = none := by
  unfold valEffect
  split <;> (try split) <;> rfl

theorem valEffect_g_none (h : ∀ idx, x.o.dst ≠ .g idx) : (valEffect x w f).g = none := by
  unfold valEffect
  split
  · split <;> rfl
  · next idx hd => exact absurd hd (h idx)
  · rfl

/-- The squad after an instruction that gives a value. -/
theorem shortSquad_valEffect (reads frees : List Nat) (q : Squad) :
    Claims.shortSquad x reads frees (valEffect x w f) q = Claims.onward x.o { q with
      v := mapRegs (frees.foldl mdel q.v) (Claims.mapped x (valEffect x w f))
      cstat := if reads.any fun n => (mget x.q.v n).isNone then q.cstat ||| 1 else q.cstat
      g := match (valEffect x w f).g with | some (n, val) => if x.act = 0 then q.g else mset q.g n val | none => q.g } := by
  unfold Claims.shortSquad
  rw [valEffect_post]
  simp only [valEffect_p, id] <;> rfl

/-- A lane register that an instruction gives its value. -/
theorem readV_mapRegs {v : FMap VReg} {n : Nat} {ls : Lanes} {rs : List (Nat × Lanes)} {q : Squad} {l : Nat}
    (hq : q.v = mapRegs (mset v n { val := ls }) rs) (hrs : ∀ r ∈ rs, r.1 ≠ n) : readV q n l = (laneAt ls l).toNat := by
  unfold readV
  rw [hq, mapRegs_outside _ _ _ hrs, mget_mset_self]

end destination

end Sys2Proof.LaneProofs

open Sys2Proof Sys2Proof.Machine in
open LaneProofs in
/-- Settles O55, by the squad that a short instruction leaves. -/
theorem laneFrames : Obligations.LaneFrames := by
  intro r hr o s id q w u x val hrd hs hroom
  obtain ⟨harith, -⟩ := laneArithmetic
  have hexec := (harith r hr o s id q hrd).1 hs hroom
  have hq : mget s.squads x.id = some q := curSquad_mget hrd.1
  obtain ⟨ps, hst⟩ := shortState_eq hq u.vs (freesOf o w) (valEffect x w.d val)
  obtain ⟨q', hq'⟩ : ∃ q', q' = Claims.shortSquad x u.vs (freesOf o w) (valEffect x w.d val) q := ⟨_, rfl⟩
  have hsq := hq'.trans (shortSquad_valEffect (x := x) u.vs (freesOf o w) q)
  refine ⟨_, q', hexec, ?_, ?_, ?_, ?_, ?_, ?_, ?_, ?_, ?_, ?_, ?_⟩
  · refine (congrArg (fun t : State => mget t.squads id) hst).trans ?_
    exact (mget_mmod_self _ _ _).trans ((congrArg _ hq).trans (congrArg some hq'.symm))
  · intro idx l hd h255 hact hl
    have hlt : idx.toNat < 255 := by
      have := idx.isLt
      have : idx.toNat ≠ 255 := fun h => h255 (BitVec.eq_of_toNat_eq h)
      omega
    refine ⟨fun hw => ?_, fun hw h254 => ?_⟩
    · have hm : Claims.mapped x (valEffect x w.d val) = [(idx.toNat, mergeLanes q idx.toNat x.act val)] := by
        rw [mapped_of_active hact, valEffect_v32 hd (by omega)]
        exact List.filter_cons_of_pos (decide_eq_true hlt)
      rw [readV_mapRegs (rs := []) (by rw [hsq, hm]; rfl) nofun, laneAt_mergeLanes _ _ _ _ hl]
    · have hlt' : idx.toNat + 1 < 255 := by
        have : idx.toNat ≠ 254 := fun h => h254 (BitVec.eq_of_toNat_eq h)
        omega
      have hm : Claims.mapped x (valEffect x w.d val) = [(idx.toNat, mergeLanes q idx.toNat x.act fun l => val l % 2 ^ 32),
          (idx.toNat + 1, mergeLanes q (idx.toNat + 1) x.act fun l => val l / 2 ^ 32)] := by
        rw [mapped_of_active hact, hw, valEffect_v64 hd]
        exact List.filter_eq_self.mpr (by simp [hlt, hlt'])
      constructor
      · rw [readV_mapRegs (by rw [hsq, hm]; rfl) (by simp), laneAt_mergeLanes _ _ _ _ hl, Nat.mod_mod]
      · rw [readV_mapRegs (rs := []) (by rw [hsq, hm]; rfl) nofun, laneAt_mergeLanes _ _ _ _ hl]
  · intro idx l hd hl
    have hne : x.act ≠ 0 := lowLane_ne_zero hl
    rw [hsq, readG, mgetD]
    simp only [Claims.onward, valEffect_g (x := x) hd, hl, Option.map_some, if_neg hne, mget_mset_self]
    rfl
  · intro n hfree hdst
    rw [hsq]
    refine (mapRegs_outside _ _ _ fun r hr (hn : r.1 = n) => hdst (hn ▸ mapped_valEffect r hr)).trans (unmapAll_outside _ _ _ hfree)
  · intro n hn
    rw [hsq]
    by_cases hg : ∃ idx, x.o.dst = .g idx
    · obtain ⟨idx, hd⟩ := hg
      simp only [Claims.onward, valEffect_g (x := x) hd]
      cases lowLane x.act with
      | none => rfl
      | some l =>
        simp only [Option.map_some]
        split
        · rfl
        · exact mget_mset_ne _ _ _ _ (hn idx hd)
    · simp only [Claims.onward, valEffect_g_none (x := x) fun idx hd => hg ⟨idx, hd⟩]
  · rw [hsq]; rfl
  · rw [hsq]; rfl
  · rw [hsq]; rfl
  · intro k hk
    refine (congrArg (fun t : State => mget t.squads k) hst).trans ?_
    exact mget_mmod_ne _ _ hk
  · intro a
    rw [hst]
  · rw [hst]

/-! PROOFS. Memory instructions of lanes (17 R402 to R415). -/

namespace Sys2Proof.LaneProofs

open Sys2Proof Sys2Proof.Machine

section memory
variable {s s' s1 : State} {x : Lx} {r : Rq}

/-! ### Checks, waits and drains -/

theorem memChecks_misaligned {n : Nat} {atomic : Bool} (k : State) (h : Claims.offGrid x n ≠ 0) :
    memChecks s x r n atomic k
      = x.trap s tMisalign (Claims.offGrid x n) (trapVals (Claims.offGrid x n) fun l => laneAddr x.q x.o l) := if_pos h

theorem memChecks_hostHomed {n : Nat} (k : State) (h : Claims.offGrid x n = 0) (hh : Claims.onHost s x ≠ 0) :
    memChecks s x (rqSquad s x.id x.q) n true k
      = x.trap s tHostatom (Claims.onHost s x) (trapVals (Claims.onHost s x) fun l => laneAddr x.q x.o l) :=
  (if_neg (not_not_intro h)).trans (if_pos hh)

theorem memChecks_pass {n : Nat} {atomic : Bool} (k : State) (h : Claims.offGrid x n = 0)
    (hh : atomic = true → Claims.onHost s x = 0) : memChecks s x (rqSquad s x.id x.q) n atomic k = k := by
  refine (if_neg (not_not_intro h)).trans (if_neg (not_not_intro ?_))
  cases atomic with
  | false => exact maskOf_false
  | true => exact hh rfl

/-- The test of a drain, as the model computes it. -/
def drainTest (s : State) (x : Lx) (r : Rq) : Bool :=
  x.act != 0 && (isRelease x.i || (laneVas x).any fun a => pageType s r a == 3)

theorem drainTest_iff : drainTest s x r = true ↔ Claims.drains s x r := by
  simp [drainTest, Claims.drains]

/-- Past its checks, an instruction that goes starts its accesses in the state after its drain. -/
theorem memGo_of_goes {reads frees : List Nat} {order : List Nat} {data : Nat → List Word} {res : Result}
    {post : State → List Nat → State} (hg : Claims.goes s x r)
    (hb : (Claims.drains s x r ∧ s1 = drainAgent s (.squad x.id)) ∨ (¬ Claims.drains s x r ∧ s1 = s)) :
    memGo s x r reads frees order data res post = issueAccess s1 x reads frees r order data res post := by
  obtain ⟨hgate, hmerged⟩ := hg
  refine (if_neg (by rw [hgate]; exact Bool.false_ne_true)).trans ?_
  change (if (drainTest s x r && mergedLeft (if drainTest s x r then drainAgent s (.squad x.id) else s) (.squad x.id)) = true
      then _ else issueAccess (if drainTest s x r then drainAgent s (.squad x.id) else s) x reads frees r order data res post) = _
  obtain ⟨hd, rfl⟩ | ⟨hd, rfl⟩ := hb
  · rw [drainTest_iff.mpr hd, if_pos rfl, hmerged hd, Bool.and_false, if_neg Bool.false_ne_true]
  · rw [Bool.eq_false_iff.mpr (mt drainTest_iff.mp hd), Bool.false_and, if_neg Bool.false_ne_true, if_neg Bool.false_ne_true]

/-- Performed accesses issue the operation. -/
theorem issueAccess_accessed {reads frees : List Nat} {order : List Nat} {data : Nat → List Word} {res : Result}
    {post : State → List Nat → State} {ok : List (Nat × List Byte)}
    (h : Claims.accessed s x r order (laneAddr x.q x.o) data s' ok) :
    issueAccess s x reads frees r order data res post = Claims.issued (post s' (ok.map (·.1))) x reads frees res ok :=
  issueAccess_done h

theorem entered_eq (s : State) (x : Lx) : (if x.act = 0 then s else escape s x.q.team) = Claims.entered s x true := by
  unfold Claims.entered
  by_cases h : x.act = 0
  · rw [if_pos h, if_neg fun hn => hn.2 h]
  · rw [if_neg h, if_pos ⟨rfl, h⟩]

theorem entered_read (s : State) (x : Lx) : Claims.entered s x false = s := if_neg fun h => Bool.false_ne_true h.1

end memory

/-! ### Loads, stores and atomics -/

/-- The instruction of a row at a squad: its checks, its operation's room, its accesses. -/
def memRun (r : Claims.MemRow) (o : LaneOp) (s : State) (x : Lx) : State :=
  let rq := rqSquad s x.id x.q
  memChecks s x rq (r.size o) r.atomic
    (longReady s x (r.regs o).length fun s =>
      let s := if r.writes then (if x.act = 0 then s else escape s x.q.team) else s
      memGo s x rq (r.uses o).vs (r.frees o) (if r.writes then laneOrder s x rq else lanesOf x.act) (r.data x.q o) (r.res x)
        fun s ok => r.post s x ok)

/-- The row of a compare-and-swap of n registers. -/
def casRow (make : LaneOp → Instr) (n : LaneOp → Nat) (size : LaneOp → Nat) : Claims.MemRow :=
  { make := make, size := size, regs := fun o => regDst o.dst (n o), atomic := true, uses := fun o => Claims.casUses o (n o)
    frees := fun o => memFrees o (n o)
    data := fun q o l => Claims.expected q o (n o) l ++ dataWords q 1 (n o) o.c l
    res := fun x => regResult x x.o.dst (n x.o) 0 false }

theorem laneCas_eq {make : LaneOp → Instr} {n : LaneOp → Nat} {o : LaneOp} {s : State} {id : Nat} {q : Squad}
    (h : Claims.ready s id q o (Claims.casUses o (n o))) :
    laneCas (make o) o (n o) s = .next (memRun (casRow make n fun o => 4 * n o) o s (Claims.at_ id q (make o) o)) := by
  unfold Claims.casUses at h
  rw [laneCas, laneEnter_of_ready h]
  rfl

theorem exec_of_memTable : ∀ r ∈ Claims.memTable, ∀ (o : LaneOp) (s : State) (id : Nat) (q : Squad),
    Claims.ready s id q o (r.uses o) → exec (r.make o) s = .next (memRun r o s (Claims.at_ id q (r.make o) o)) := by
  simp only [Claims.memTable, List.forall_mem_cons]
  refine ⟨fun o s id q h => ?_, fun o s id q h => ?_, fun o s id q h => ?_, fun o s id q h => laneCas_eq (n := fun o => o.ty.opW / 32) h,
    fun o s id q h => laneCas_eq (n := fun _ => 4) h, nofun⟩
  · change execLd o s = _
    rw [execLd, laneEnter_of_ready h]
    rfl
  · change execSt o s = _
    rw [execSt, laneEnter_of_ready h]
    rfl
  · change execAtom o s = _
    rw [execAtom, laneEnter_of_ready h]
    rfl

theorem memRun_performed {r : Claims.MemRow} {o : LaneOp} {s s1 s' : State} {x : Lx} {ok : List (Nat × List Byte)}
    (hgrid : Claims.offGrid x (r.size o) = 0) (hhost : r.atomic = true → Claims.onHost s x = 0)
    (hi : Claims.issues s x (r.regs o).length) (hg : Claims.goes (Claims.entered s x r.writes) x (rqSquad s x.id x.q))
    (hb : Claims.begun s x (rqSquad s x.id x.q) r.writes s1)
    (ha : Claims.accessed s1 x (rqSquad s x.id x.q)
      (if r.writes then laneOrder (Claims.entered s x true) x (rqSquad s x.id x.q) else lanesOf x.act) (laneAddr x.q x.o)
      (r.data x.q o) s' ok) :
    memRun r o s x = Claims.issued (r.post s' x (ok.map (·.1))) x (r.uses o).vs (r.frees o) (r.res x) ok := by
  refine (memChecks_pass _ hgrid hhost).trans ((longReady_of_issues hi _).trans ?_)
  cases hw : r.writes with
  | false =>
    rw [hw] at hg hb ha
    simp only [Claims.begun, entered_read] at hg hb
    simp only [Bool.false_eq_true, if_false] at ha ⊢
    exact (memGo_of_goes hg hb).trans (issueAccess_accessed ha)
  | true =>
    rw [hw] at hg hb ha
    simp only [if_true] at ha ⊢
    rw [entered_eq]
    exact (memGo_of_goes hg hb).trans (issueAccess_accessed ha)

end Sys2Proof.LaneProofs

open Sys2Proof Sys2Proof.Machine in
open LaneProofs in
/-- Settles O15, by the row of the instruction and its performed accesses. -/
theorem laneLoadsStoresAndAtomics : Obligations.LaneLoadsStoresAndAtomics := by
  intro r hr o s id q x n rq va hrd
  rw [exec_of_memTable r hr o s id q hrd]
  refine ⟨fun h => congrArg _ (memChecks_misaligned _ h), fun h hatomic hh => congrArg _ ?_, ?_⟩
  · unfold memRun
    rw [hatomic]
    exact memChecks_hostHomed _ h hh
  · intro hgrid hhost hi hg ord s1 s' ok hb ha
    exact congrArg _ (memRun_performed hgrid hhost hi hg hb ha)

/-! PROOFS. Uniform loads, prefetches, counted fills, consuming loads, fences and `loc` (17 R408 to R415). -/

namespace Sys2Proof.LaneProofs

open Sys2Proof Sys2Proof.Machine

section
variable {s s' s1 : State} {x : Lx} {r : Rq}

/-- A read whose accesses are performed issues its operation. -/
theorem memGo_read {reads frees : List Nat} {order : List Nat} {data : Nat → List Word} {res : Result}
    {post : State → List Nat → State} {ok : List (Nat × List Byte)} (hg : Claims.goes s x r) (hb : Claims.begun s x r false s1)
    (ha : Claims.accessed s1 x r order (laneAddr x.q x.o) data s' ok) :
    memGo s x r reads frees order data res post = Claims.issued (post s' (ok.map (·.1))) x reads frees res ok := by
  simp only [Claims.begun, entered_read] at hb
  exact (memGo_of_goes hg hb).trans (issueAccess_accessed ha)

theorem memChecks_read {n : Nat} (k : State) (h : Claims.offGrid x n = 0) : memChecks s x (rqSquad s x.id x.q) n false k = k :=
  memChecks_pass k h nofun

/-- A release that finds a waiting access, or a write at a home outside, waits. -/
theorem laneRelease_holds (hg : x.q.granted = none) (ha : x.q.arrived = false)
    (h : waitingAccesses s x.id x.q ≠ [] ∨ writesAway s (.squad x.id) ≠ []) (k : State → State) :
    laneRelease s x k = setWait (pcieFlush s (.squad x.id)) x.id .hold := by
  refine (if_neg (by simp [hg, ha])).trans (if_neg ?_)
  rw [Bool.and_eq_true, List.isEmpty_iff, List.isEmpty_iff]
  exact fun hn => h.elim (absurd hn.1) (absurd hn.2)

theorem anyWaiting_iff : anyWaiting s x = true ↔ waitingAccesses s x.id x.q ≠ [] := by
  simp [anyWaiting, List.isEmpty_eq_false_iff]

end

theorem room_of_nothing {s : State} {x : Lx} : Claims.room s x {} := room_of_no_vs rfl

section instructions
variable {o : LaneOp} {s : State} {id : Nat} {q : Squad}

/-- `ldu` at a squad. -/
theorem exec_ldu (h : Claims.ready s id q o (memUses o 0 0 (regDst o.dst (vecRegs o)))) :
    exec (.ldu o) s = .next (let x := Claims.at_ id q (.ldu o) o
      if x.act ≠ 0 ∧ (laneAddr q o 0).toNat % accessSize o ≠ 0 then
        x.trap s tMisalign x.act (trapVals x.act fun _ => laneAddr q o 0)
      else longReady s x (regDst o.dst (vecRegs o)).length fun s' =>
        memGo s' x (rqSquad s id q) (memUses o 0 0 (regDst o.dst (vecRegs o))).vs (memFrees o 0) (lowLane x.act).toList (fun _ => [])
          (regResult x o.dst (vecRegs o) (vecCount o) (elemRegs o.ty == 2)) fun s _ => s) := by
  rw [show exec (.ldu o) s = execLdu o s from rfl, execLdu, laneEnter_of_ready h]
  rfl

theorem exec_prf (h : Claims.ready s id q o (memUses o 0 0 [])) (hlog : logFull s id q = false) :
    exec (.prf o) s = .next (Claims.shortState
      ((laneVas (Claims.at_ id q (.prf o) o)).foldl (fun t va => prefetch t (rqSquad s id q) (o.md.getLsbD 0) va) s)
      (Claims.at_ id q (.prf o) o) (memUses o 0 0 []).vs (memFrees o 0) {}) := by
  rw [show exec (.prf o) s = execPrf o s from rfl, execPrf, laneEnter_of_ready h]
  refine congrArg _ ((if_neg ?_).trans (finishShort_go _ _ room_of_nothing))
  exact fun hn => Bool.false_ne_true (hlog.symm.trans hn)

theorem exec_ldcf (h : Claims.ready s id q o { memUses o 0 0 (regDst o.dst (vecRegs o)) with gs := srcGs o.a ++ srcGs o.c }) :
    exec (.ldcf o) s = .next (let x := Claims.at_ id q (.ldcf o) o
      let count := srcVal q o 0 64 o.c 0
      if count = 0 ∨ count > 255 then x.illop s
      else memChecks s x (rqSquad s id q) (accessSize o) false
        (longReady s x (regDst o.dst (vecRegs o)).length fun s' =>
          memGo s' x (rqSquad s id q) (memUses o 0 0 (regDst o.dst (vecRegs o))).vs (memFrees o 0) (lanesOf x.act)
            (fun _ => [BitVec.ofNat 32 count]) (regResult x o.dst (vecRegs o) 0 false)
            fun s' ok => armLanes s' x (rqSquad s id q) count [] ok)) := by
  rw [show exec (.ldcf o) s = execLdcf o s from rfl, execLdcf, laneEnter_of_ready h]
  rfl

/-- Lanes that touch a drained grain. -/
def drainedLanes (s : State) (id : Nat) (q : Squad) (o : LaneOp) : Word :=
  maskOf fun l => inMask (activeLanes q o) l && grainCnt s (rqSquad s id q) (laneAddr q o l).toNat == .drained

theorem exec_ldc (h : Claims.ready s id q o (memUses o 0 0 (regDst o.dst (vecRegs o)))) :
    exec (.ldc o) s = .next (let x := Claims.at_ id q (.ldc o) o
      let rq := rqSquad s id q
      memChecks s x rq (accessSize o) false
        (if drainedLanes s id q o ≠ 0 then
          x.trap (modCluster s rq.cluster fun c => { c with clOverRead := c.clOverRead + 1 }) tOverread (drainedLanes s id q o)
            (trapVals (drainedLanes s id q o) (laneAddr q o))
        else longReady s x (regDst o.dst (vecRegs o)).length fun s' =>
          memGo s' x rq (memUses o 0 0 (regDst o.dst (vecRegs o))).vs (memFrees o 0) (lanesOf x.act) (fun _ => [])
            (regResult x o.dst (vecRegs o) 0 false) fun t ok => consumeLanes t x rq []
              (ok.filter ((lanesOf x.act).filter fun l => grainCnt s' rq (laneAddr q o l).toNat != .plain).contains))) := by
  rw [show exec (.ldc o) s = execLdc o s from rfl, execLdc, laneEnter_of_ready h]
  rfl

theorem exec_fence (h : Claims.ready s id q o {}) :
    exec (.fence o) s = .next (let x := Claims.at_ id q (.fence o) o
      if anyWaiting s x then setWait (pcieFlush s (.squad id)) id .hold
      else if (o.md.extractLsb' 0 2).toNat ≥ 2 then laneRelease s x fun s => finishShort s x [] [] {}
      else finishShort s x [] [] {}) := by
  rw [show exec (.fence o) s = execFence o s from rfl, execFence, laneEnter_of_ready h]
  rfl

theorem exec_pfence (h : Claims.ready s id q o {}) :
    exec (.pfence o) s = .next (let x := Claims.at_ id q (.pfence o) o
      if q.arrived then
        if s.pfences.contains (.squad id) then setWait s id .hold else finishShort s x [] [] {}
      else laneRelease s x fun s =>
        if anyCxl (flushPers s) then
          modSquad { flushPers s with pfences := (flushPers s).pfences ++ [.squad id] } id fun q =>
            { q with arrived := true, wait := .hold, held := none }
        else finishShort (flushPers s) x [] [] {}) := by
  rw [show exec (.pfence o) s = execPfence o s from rfl, execPfence, laneEnter_of_ready h]
  rfl

/-- What `loc` does with the reports that it has got. -/
theorem reports_done {α : Type} {p : State × Option (List (Nat × Nat))} {s' : State} {vals : List (Nat × Nat)} {f : State → α}
    {g : State → List (Nat × Nat) → α} :
    p = (s', some vals) → (match p with | (s, none) => f s | (s, some vals) => g s vals) = g s' vals := by rintro rfl; rfl

theorem exec_loc (h : Claims.ready s id q o (memUses o 0 0 (regDst o.dst 1))) (hlog : logFull s id q = false)
    (hi : Claims.issues s (Claims.at_ id q (.loc o) o) (regDst o.dst 1).length) {s' : State} {vals : List (Nat × Nat)}
    (hv : locLanes (Claims.at_ id q (.loc o) o) (rqSquad s id q) (lanesOf (activeLanes q o)) s = (s', some vals)) :
    exec (.loc o) s = .next (finishLong s' (Claims.at_ id q (.loc o) o) (memUses o 0 0 (regDst o.dst 1)).vs (memFrees o 0)
      (valResult (Claims.at_ id q (.loc o) o) 32 fun l => ((vals.find? fun p => p.1 == l).elim 0 (·.2)))) := by
  rw [show exec (.loc o) s = execLoc o s from rfl, execLoc, laneEnter_of_ready h]
  refine congrArg _ ((if_neg ?_).trans ((longReady_of_issues hi _).trans ?_))
  · exact fun hn => Bool.false_ne_true (hlog.symm.trans hn)
  · exact reports_done hv

end instructions

end Sys2Proof.LaneProofs

open Sys2Proof Sys2Proof.Machine in
open LaneProofs in
/-- Settles O16, by what each instruction is at a squad whose registers have landed. -/
theorem laneOtherMemoryInstructions : Obligations.LaneOtherMemoryInstructions := by
  intro o s id q rq n dv u
  refine ⟨?_, ?_, ?_, ?_, ?_, ?_, ?_⟩
  · intro x va hrd
    rw [exec_ldu hrd]
    refine ⟨fun hact hmis => congrArg _ (if_pos ⟨hact, hmis⟩), fun hal hi hg s1 s' ok hb ha => ?_⟩
    refine congrArg _ ((if_neg fun hn => hn.2 (hal hn.1)).trans ((longReady_of_issues hi _).trans ?_))
    exact memGo_read (x := x) hg hb ha
  · intro x u hrd hlog
    exact exec_prf hrd hlog
  · intro x u count hrd
    rw [exec_ldcf hrd]
    refine ⟨fun hc => congrArg _ (if_pos hc), fun h1 h255 hoff => ?_, fun h1 h255 hoff hi hg s1 s' ok hb ha => ?_⟩
    · exact congrArg _ ((if_neg (by omega)).trans (memChecks_misaligned _ hoff))
    · refine congrArg _ ((if_neg (by omega)).trans ((memChecks_read (x := x) _ hoff).trans ((longReady_of_issues hi _).trans ?_)))
      exact memGo_read (x := x) hg hb ha
  · intro x cnt hit hrd
    rw [exec_ldc hrd]
    refine ⟨fun hoff => congrArg _ (memChecks_misaligned _ hoff), ?_, ?_⟩
    · intro hoff hhit
      exact congrArg _ ((memChecks_read (x := x) _ hoff).trans (if_pos hhit))
    · intro hoff hhit hi hg s1 s' ok hb ha armed
      refine congrArg _ ((memChecks_read (x := x) _ hoff).trans ((if_neg (not_not_intro hhit)).trans
        ((longReady_of_issues hi _).trans ?_)))
      exact memGo_read (x := x) hg hb ha
  · intro x kind hrd
    rw [exec_fence hrd]
    refine ⟨fun hw => congrArg _ (if_pos (anyWaiting_iff.mpr hw)), fun hw => ?_⟩
    have hno : ¬ anyWaiting s x = true := fun h => anyWaiting_iff.mp h hw
    refine ⟨fun hk => congrArg _ ((if_neg hno).trans ((if_neg (Nat.not_le.mpr hk)).trans (finishShort_go _ _ room_of_nothing))),
      fun hk => ⟨fun s1 hrel => ?_, fun hg ha haway => ?_⟩⟩
    · exact congrArg _ ((if_neg hno).trans ((if_pos hk).trans
        ((laneRelease_of_released (x := x) hrel _).trans (finishShort_go _ _ room_of_nothing))))
    · exact congrArg _ ((if_neg hno).trans ((if_pos hk).trans (laneRelease_holds (x := x) hg ha (Or.inr haway) _)))
  · intro x hrd
    rw [exec_pfence hrd]
    refine ⟨fun harr => ⟨?_, ?_⟩, fun harr hc => ?_⟩
    · intro s0 hrel s1
      have hno : ¬ q.arrived = true := fun h => Bool.false_ne_true (harr.symm.trans h)
      refine ⟨fun hcxl => congrArg _ ((if_neg hno).trans ((laneRelease_of_released (x := x) hrel _).trans ?_)),
        fun hcxl => congrArg _ ((if_neg hno).trans ((laneRelease_of_released (x := x) hrel _).trans (if_pos hcxl)))⟩
      exact (if_neg fun h => Bool.false_ne_true (hcxl.symm.trans h)).trans (finishShort_go _ _ room_of_nothing)
    · intro hg hw
      exact congrArg _ ((if_neg fun h => Bool.false_ne_true (harr.symm.trans h)).trans (laneRelease_holds (x := x) hg harr hw _))
    · exact congrArg _ ((if_pos harr).trans ((if_neg fun h => Bool.false_ne_true (hc.symm.trans h)).trans
        (finishShort_go _ _ room_of_nothing)))
  · intro x dv u hrd hlog hi s' vals hv
    exact exec_loc hrd hlog hi hv

/-! PROOFS. Local-store instructions (17 R416 to R419, 08 R188). -/

namespace Sys2Proof.LaneProofs

open Sys2Proof Sys2Proof.Machine

section
variable {o : LaneOp} {s : State} {id : Nat} {q : Squad}

theorem acquireGate_go (h : Claims.acquired s id q) (k : State → State) : acquireGate s id q k = k s :=
  if_neg fun hn => Bool.false_ne_true (h.symm.trans hn)

/-- A local-store instruction goes on for the lanes that keep the rules (08 R188). -/
theorem lsEnter_go {x : Lx} {u : Uses} {n : Nat} (ha : Claims.acquired s x.id x.q)
    (hw : awaited (Claims.lsLeft s x n) x.id (Claims.lsX s x n).q x.o (Claims.lsX s x n).act u = []) (k : State → Lx → State) :
    lsEnter s x u n k = k (Claims.lsLeft s x n) (Claims.lsX s x n) :=
  (acquireGate_go ha _).trans (if_pos (List.isEmpty_iff.mpr hw))

/-- What the words of the statement call entering, taken apart: the instruction is its meaning for the lanes left. -/
theorem lsEnter_of_enters {i : Instr} {u : Uses} {n : Nat} (k : State → Lx → State)
    (h : Claims.ready s id q o u ∧ Claims.acquired s id q
        ∧ awaited (Claims.lsLeft s (Claims.at_ id q i o) n) id (Claims.lsX s (Claims.at_ id q i o) n).q o
            (Claims.lsX s (Claims.at_ id q i o) n).act u = []) :
    (laneEnter i o u s fun x => lsEnter s x u n k)
      = .next (k (Claims.lsLeft s (Claims.at_ id q i o) n) (Claims.lsX s (Claims.at_ id q i o) n)) :=
  (laneEnter_of_ready h.1 i _).trans (congrArg _ (lsEnter_go (x := Claims.at_ id q i o) h.2.1 h.2.2 k))

end

/-- The uniform register that holds the count of `sts.arm`. -/
def armReg (o : LaneOp) : Nat := match o.dst with | .g k => k.toNat | _ => 0

def armUses (o : LaneOp) : Uses :=
  { memUses o (vecRegs o) (vecCount o) [] with gs := armReg o :: (srcGs o.a ++ dataGs (vecCount o) o.c) }

theorem exec_stsArm (o : LaneOp) (s : State) : exec (.stsArm o) s = laneEnter (.stsArm o) o (armUses o) s fun x =>
    if (readG x.q (armReg o)).toNat > 255 then x.illop s
    else lsEnter s x (armUses o) (accessSize o) fun s y => longReady s y 0 fun s =>
      finishLong ((lsBlocks (lsStores s y) y (accessSize o)).foldl
        (fun s b => armBlock s y.q.team y.id (clusterOf y.q.core) b.1 b.2 (readG x.q (armReg o)).toNat) (lsStores s y))
        y (armUses o).vs (memFrees o (vecRegs o)) {} := by
  change execStsArm o s = _
  unfold execStsArm
  rfl

/-- A range of blocks that breaks a rule, and one that does not. -/
theorem place_none {α : Type} {p : Option (Nat × Nat)} {f : α} {g : Nat → Nat → α} :
    p = none → (match p with | none => f | some (r, off) => g r off) = f := by rintro rfl; rfl

theorem place_some {α : Type} {p : Option (Nat × Nat)} {r off : Nat} {f : α} {g : Nat → Nat → α} :
    p = some (r, off) → (match p with | none => f | some (r, off) => g r off) = g r off := by rintro rfl; rfl

end Sys2Proof.LaneProofs

open Sys2Proof Sys2Proof.Machine in
open LaneProofs in
/-- Settles O17, by `lsEnter_of_enters` for each instruction. -/
theorem localStoreInstructions : Obligations.LocalStoreInstructions := by
  intro o s id q n bytes dv enters
  refine ⟨?_, ?_, ?_, ?_, ?_, ?_, ?_⟩
  · intro x u s1 x1 he hi
    rw [show exec (.lds o) s = execLds o s from rfl, execLds, lsEnter_of_enters _ he]
    exact congrArg _ (longReady_of_issues hi _)
  · intro x u s1 x1 he hi
    rw [show exec (.sts o) s = execSts o s from rfl, execSts, lsEnter_of_enters _ he]
    exact congrArg _ (longReady_of_issues hi _)
  · intro x g u c s1 x1
    constructor
    · intro hrd hc
      rw [exec_stsArm, laneEnter_of_ready (u := armUses o) hrd]
      exact congrArg _ (if_pos hc)
    · intro hc he hi
      rw [exec_stsArm, laneEnter_of_ready (u := armUses o) he.1]
      refine congrArg _ ((if_neg (Nat.not_lt.mpr hc)).trans ?_)
      exact (lsEnter_go (x := x) he.2.1 he.2.2 _).trans (longReady_of_issues hi _)
  · intro k dv x u s1 x1 r he hi
    rw [show exec (.atoms o) s = execAtoms o s from rfl, execAtoms, lsEnter_of_enters _ he]
    exact congrArg _ (longReady_of_issues hi _)
  · intro x u s1 x1 s2 hit vals he
    rw [show exec (.ldsc o) s = execLdsc o s from rfl, execLdsc, lsEnter_of_enters _ he]
    exact ⟨fun hh => congrArg _ (if_pos hh), fun hh hi => congrArg _ ((if_neg (not_not_intro hh)).trans (longReady_of_issues hi _))⟩
  · intro x c m t place hrd
    rw [show exec (.lsarm o) s = execLsarm o s from rfl, execLsarm, laneEnter_of_ready hrd]
    refine ⟨fun hc => congrArg _ (if_pos hc), fun hc h1 h2 ha hi => ?_⟩
    have hno : ¬ (c ≥ 2 ^ 21 ∨ m = 0 ∨ m > 4096) := by omega
    have hgo : ∀ k : State → State, (acquireGate s id q fun s => longReady s x 0 k) = k s :=
      fun k => (acquireGate_go ha _).trans (longReady_of_issues hi k)
    refine ⟨fun h0 => congrArg _ ((if_neg hno).trans ((hgo _).trans (if_pos h0))),
      fun h0 hp => congrArg _ ((if_neg hno).trans ((hgo _).trans ((if_neg h0).trans ?_))),
      fun h0 r off hp => congrArg _ ((if_neg hno).trans ((hgo _).trans ((if_neg h0).trans ?_)))⟩
    · exact place_none hp
    · exact place_some hp
  · intro dv x u s1 x1 he hi
    rw [show exec (.lsstat o) s = execLsstat o s from rfl, execLsstat, lsEnter_of_enters _ he]
    exact congrArg _ (longReady_of_issues hi _)

/-! PROOFS. Branches, jumps, calls and returns of lanes (17 R421, R422, 09 R206 to R209). -/

namespace Sys2Proof.LaneProofs

open Sys2Proof Sys2Proof.Machine

/-! ### Targets and how many lanes share them -/

/-- How many lanes of a list go to a place. -/
def crowdOf (ts : List (Nat × Word)) (w : Word) : Nat := ts.countP fun p => p.2 == w

/-- One more lane is counted. -/
def countIn (l : List (Word × Nat)) (w : Word) : List (Word × Nat) :=
  if l.any fun x => x.1 == w then l.map fun x => if x.1 == w then (x.1, x.2 + 1) else x else l ++ [(w, 1)]

theorem targetCounts_eq (ts : List (Nat × Word)) : targetCounts ts = ts.foldl (fun l p => countIn l p.2) [] := rfl

/-- A list of counts says of each place, once, how often f has it. -/
def counted (l : List (Word × Nat)) (f : Word → Nat) : Prop :=
  (l.map (·.1)).Nodup ∧ ∀ w n, (w, n) ∈ l ↔ (f w = n ∧ 0 < n)

theorem counted_countIn {l : List (Word × Nat)} {f : Word → Nat} (h : counted l f) (w : Word) :
    counted (countIn l w) fun v => if v = w then f v + 1 else f v := by
  obtain ⟨hn, hm⟩ := h
  unfold countIn
  by_cases hany : (l.any fun x => x.1 == w) = true
  · rw [if_pos hany]
    have hfst : (l.map fun x => if x.1 == w then (x.1, x.2 + 1) else x).map (·.1) = l.map (·.1) := by
      rw [List.map_map]
      refine List.map_congr_left fun x _ => ?_
      simp only [Function.comp]
      split <;> rfl
    refine ⟨hfst ▸ hn, fun v n => ?_⟩
    obtain ⟨⟨w', c⟩, hc, hw⟩ := List.any_eq_true.mp hany
    obtain rfl : w' = w := eq_of_beq hw
    obtain ⟨hfw, hpos⟩ := (hm w' c).mp hc
    rw [List.mem_map]
    beta_reduce
    constructor
    · rintro ⟨⟨u, k⟩, hk, he⟩
      obtain ⟨hfu, hkpos⟩ := (hm u k).mp hk
      by_cases hu : u = w'
      · rw [if_pos (by simpa using hu), Prod.mk.injEq] at he
        obtain ⟨rfl, rfl⟩ := he
        rw [if_pos hu]
        exact ⟨by rw [hfu], Nat.succ_pos _⟩
      · rw [if_neg (by simpa using hu), Prod.mk.injEq] at he
        obtain ⟨rfl, rfl⟩ := he
        rw [if_neg hu]
        exact ⟨hfu, hkpos⟩
    · rintro ⟨hf, hpos'⟩
      by_cases hv : v = w'
      · subst hv
        rw [if_pos rfl] at hf
        exact ⟨(v, c), hc, by rw [if_pos (beq_self_eq_true _), ← hf, hfw]⟩
      · rw [if_neg hv] at hf
        exact ⟨(v, n), (hm v n).mpr ⟨hf, hpos'⟩, if_neg (by simpa using hv)⟩
  · rw [if_neg hany]
    have hout : ∀ n, (w, n) ∉ l := fun n hn => hany (List.any_eq_true.mpr ⟨(w, n), hn, beq_self_eq_true _⟩)
    have hzero : f w = 0 := by
      by_contra hne
      exact hout _ ((hm w _).mpr ⟨rfl, Nat.pos_of_ne_zero hne⟩)
    refine ⟨?_, fun v n => ?_⟩
    · rw [List.map_append, List.map_singleton, List.nodup_append]
      refine ⟨hn, List.nodup_singleton _, fun a ha b hb hab => ?_⟩
      obtain ⟨⟨u, k⟩, hk, rfl⟩ := List.mem_map.mp ha
      obtain rfl := List.mem_singleton.mp hb
      exact hout k (by rw [← hab]; exact hk)
    · rw [List.mem_append, List.mem_singleton, hm, Prod.mk.injEq]
      beta_reduce
      by_cases hv : v = w
      · subst hv
        rw [if_pos rfl, hzero]
        exact ⟨fun h => h.elim (fun h => absurd h.1 (Nat.ne_of_lt h.2)) fun h => ⟨h.2.symm, by rw [h.2]; exact Nat.one_pos⟩,
          fun h => Or.inr ⟨rfl, h.1.symm⟩⟩
      · rw [if_neg hv]
        simp [hv]

theorem counted_targetCounts (ts : List (Nat × Word)) : counted (targetCounts ts) (crowdOf ts) := by
  rw [targetCounts_eq]
  have h : ∀ (ts : List (Nat × Word)) (l : List (Word × Nat)) (f : Word → Nat), counted l f →
      counted (ts.foldl (fun l p => countIn l p.2) l) fun w => f w + crowdOf ts w := by
    intro ts
    induction ts with
    | nil => exact fun l f hl => hl
    | cons p ts ih =>
      intro l f hl
      have := ih _ _ (counted_countIn hl p.2)
      refine cast (congrArg (counted _) (funext fun w => ?_)) this
      simp only [crowdOf, List.countP_cons]
      by_cases hw : w = p.2
      · rw [if_pos hw, if_pos (by simp [hw])]; omega
      · rw [if_neg hw, if_neg fun h => hw (eq_of_beq h).symm]; omega
  have h0 : counted [] fun _ => 0 := ⟨List.nodup_nil, fun w n => by simp; omega⟩
  refine cast (congrArg (counted _) (funext fun w => ?_)) (h ts [] _ h0)
  exact Nat.zero_add _

/-! ### The target that stays -/

/-- The larger count, of two the lower target. -/
def better (a b : Word × Nat) : Word × Nat := if a.2 < b.2 ∨ (a.2 = b.2 ∧ b.1 < a.1) then b else a

/-- One place goes before another. -/
def atMost (b a : Word × Nat) : Prop := b.2 < a.2 ∨ (b.2 = a.2 ∧ a.1 ≤ b.1)

theorem atMost_refl (a : Word × Nat) : atMost a a := Or.inr ⟨rfl, BitVec.le_refl _⟩

theorem atMost_trans {a b c : Word × Nat} (h1 : atMost a b) (h2 : atMost b c) : atMost a c := by
  unfold atMost at *
  rw [BitVec.le_def] at *
  omega

theorem atMost_better (a b : Word × Nat) : atMost a (better a b) ∧ atMost b (better a b) ∧ (better a b = a ∨ better a b = b) := by
  unfold better
  split
  · next h =>
    refine ⟨h.imp id fun h => ⟨h.1, ?_⟩, atMost_refl b, Or.inr rfl⟩
    have := h.2; rw [BitVec.lt_def] at this; rw [BitVec.le_def]; omega
  · next h =>
    refine ⟨atMost_refl a, ?_, Or.inl rfl⟩
    unfold atMost
    rw [BitVec.lt_def] at h
    rw [BitVec.le_def]
    omega

theorem foldl_better (cs : List (Word × Nat)) : ∀ c, (∀ a ∈ c :: cs, atMost a (cs.foldl better c)) ∧ cs.foldl better c ∈ c :: cs := by
  induction cs with
  | nil => exact fun c => ⟨fun a ha => List.mem_singleton.mp ha ▸ atMost_refl _, List.mem_singleton_self _⟩
  | cons d cs ih =>
    intro c
    obtain ⟨hall, hmem⟩ := ih (better c d)
    obtain ⟨h1, h2, h3⟩ := atMost_better c d
    have hb := hall _ List.mem_cons_self
    refine ⟨fun a ha => ?_, ?_⟩
    · rcases List.mem_cons.mp ha with rfl | ha
      · exact atMost_trans h1 hb
      · rcases List.mem_cons.mp ha with rfl | ha
        · exact atMost_trans h2 hb
        · exact hall a (List.mem_cons_of_mem _ ha)
    · rw [List.foldl_cons]
      rcases List.mem_cons.mp hmem with h | h
      · rw [h]
        rcases h3 with h3 | h3 <;> rw [h3] <;> simp
      · exact List.mem_cons_of_mem _ (List.mem_cons_of_mem _ h)

/-- The best of the counts is the one that stays. -/
theorem stayTarget_eq {l : List (Word × Nat)} {w : Word} {n : Nat} (hm : (w, n) ∈ l)
    (hbest : ∀ a ∈ l, a.1 ≠ w → a.2 < n ∨ (a.2 = n ∧ w < a.1)) : stayTarget l = w := by
  cases l with
  | nil => exact absurd hm List.not_mem_nil
  | cons c cs =>
    obtain ⟨hall, hmem⟩ := foldl_better cs c
    change (cs.foldl better c).1 = w
    by_contra hne
    have h1 := hall _ hm
    have h2 := hbest _ hmem hne
    unfold atMost at h1
    rw [BitVec.lt_def] at h2
    rw [BitVec.le_def] at h1
    dsimp only at h1 h2
    omega

/-! ### A branch -/

theorem lanesOf_eq_nil {m : Word} (h : lanesOf m = []) : m = 0 := by
  refine BitVec.eq_of_getLsbD_eq fun l hl => ?_
  have hidx : laneIdx = List.range 32 := by decide
  have := List.filter_eq_nil_iff.mp h l (by rw [hidx]; exact List.mem_range.mpr hl)
  simpa [inMask] using this

section branch
variable {s : State} {x : Lx} {target : Nat → Word}

/-- The targets of the lanes of `em`. -/
def targetsOf (x : Lx) (target : Nat → Word) : List (Nat × Word) := (lanesOf x.q.em).map fun l => (l, target l)

theorem crowdOf_targetsOf (w : Word) : crowdOf (targetsOf x target) w = Claims.crowd x target w := List.countP_map

theorem mem_counts {w : Word} {n : Nat} :
    (w, n) ∈ targetCounts (targetsOf x target) ↔ Claims.crowd x target w = n ∧ 0 < n := by
  rw [(counted_targetCounts _).2, crowdOf_targetsOf]

theorem crowd_pos {w : Word} : 0 < Claims.crowd x target w ↔ ∃ l ∈ lanesOf x.q.em, target l = w := by
  rw [Claims.crowd, List.countP_pos_iff]
  simp only [beq_iff_eq]

theorem crowd_target_pos {l : Nat} (hl : l ∈ lanesOf x.q.em) : 0 < Claims.crowd x target (target l) :=
  crowd_pos.mpr ⟨l, hl, rfl⟩

/-- Lanes that agree have at most one target, and it is theirs. -/
theorem counts_of_agree {dest : Word} (h : Claims.agree x target dest) :
    (targetCounts (targetsOf x target)).length ≤ 1
    ∧ (match targetCounts (targetsOf x target) with | c :: _ => c.1 | [] => fallThrough x.q) = dest := by
  obtain ⟨hall, hnone⟩ := h
  have hdest : ∀ c ∈ targetCounts (targetsOf x target), c.1 = dest := fun c hc => by
    obtain ⟨hcr, hpos⟩ := mem_counts.mp hc
    obtain ⟨l, hl, ht⟩ := crowd_pos.mp (hcr.symm ▸ hpos)
    exact ht.symm.trans (hall l hl)
  have hnodup := (counted_targetCounts (targetsOf x target)).1
  cases hcs : targetCounts (targetsOf x target) with
  | nil =>
    refine ⟨Nat.zero_le _, (hnone (lanesOf_eq_nil ?_)).symm⟩
    refine List.eq_nil_iff_forall_not_mem.mpr fun l hl => ?_
    have := mem_counts.mpr ⟨rfl, crowd_target_pos (target := target) hl⟩
    rw [hcs] at this
    exact List.not_mem_nil this
  | cons c cs =>
    rw [hcs] at hdest hnodup
    refine ⟨?_, hdest c List.mem_cons_self⟩
    cases cs with
    | nil => exact le_rfl
    | cons d cs =>
      have hne := (List.nodup_cons.mp hnodup).1
      refine absurd ?_ hne
      change c.1 ∈ d.1 :: cs.map (·.1)
      rw [hdest c List.mem_cons_self, ← hdest d (List.mem_cons_of_mem _ List.mem_cons_self)]
      exact List.mem_cons_self

/-- Lanes that differ have more than one, and the one that stays is the best. -/
theorem counts_of_stays {stay : Word} (h : Claims.stays x target stay) (hout : Claims.leaves x target stay ≠ []) :
    ¬ (targetCounts (targetsOf x target)).length ≤ 1 ∧ stayTarget (targetCounts (targetsOf x target)) = stay := by
  obtain ⟨⟨l, hl, rfl⟩, hbest⟩ := h
  have hstay := mem_counts.mpr ⟨rfl, crowd_target_pos (target := target) hl⟩
  refine ⟨fun hle => ?_, stayTarget_eq hstay fun a ha hne => ?_⟩
  · obtain ⟨p, hp⟩ := List.exists_mem_of_ne_nil _ hout
    obtain ⟨hmem, hpne⟩ := List.mem_filter.mp hp
    obtain ⟨k, hk, rfl⟩ := List.mem_map.mp hmem
    have hother := mem_counts.mpr ⟨rfl, crowd_target_pos (target := target) hk⟩
    have hsame : target k = target l := by
      match hcs : targetCounts (targetsOf x target), hle with
      | [], _ => rw [hcs] at hstay; exact absurd hstay List.not_mem_nil
      | [c], _ =>
        rw [hcs] at hstay hother
        rw [← List.mem_singleton.mp hstay] at hother
        exact congrArg Prod.fst (List.mem_singleton.mp hother)
    exact absurd hsame (bne_iff_ne.mp hpne)
  · obtain ⟨hcr, hpos⟩ := mem_counts.mp ha
    obtain ⟨k, hk, hta⟩ := crowd_pos.mp (hcr.symm ▸ hpos)
    have := hbest k hk (hta ▸ hne)
    rw [hta, hcr] at this
    exact this

theorem linkRows_eq (link : List (Nat × Lanes)) : linkRows link = (link.map fun n => shapeRows n.2).sum :=
  (foldl_add_sum _ _ _).trans (Nat.zero_add _)

theorem pendingLanes_eq_nil {q : Squad} (h : ∀ v ∈ q.v, v.2.pend = none) : pendingLanes q = [] :=
  List.filterMap_eq_nil_iff.mpr h

/-- Lanes that agree go on together. -/
theorem laneBranch_agree {dest : Word} {frees reads : List Nat} {link : List (Nat × Lanes)} {bound : Bool}
    (he : x.q.eject = none) (h : Claims.agree x target dest)
    (hroom : Claims.room s x { vs := link, post := fun q => { q with pos := dest - 12 } }) :
    laneBranch s x frees reads link bound target
      = Claims.shortState s x reads frees { vs := link, post := fun q => { q with pos := dest - 12 } } := by
  obtain ⟨hlen, hdest⟩ := counts_of_agree h
  refine (if_neg (by simp [he])).trans ((if_pos hlen).trans ?_)
  rw [← finishShort_go _ _ hroom]
  exact congrArg (fun d => finishShort s x reads frees { vs := link, post := laneJump d }) hdest

/-- Lanes that differ. -/
theorem laneBranch_differ {stay : Word} {frees reads : List Nat} {link : List (Nat × Lanes)} {bound : Bool}
    (he : x.q.eject = none) (h : Claims.stays x target stay) (hout : Claims.leaves x target stay ≠ []) :
    laneBranch s x frees reads link bound target =
      (let out := Claims.leaves x target stay
       let m := maskOf fun l => out.any fun p => p.1 == l
       let vals := trapVals m fun l => (target l).setWidth 64
       if bound then x.trap s tDiverge m vals
       else if (lrOf s x.q.team).spawnkib = 0 ∨ (spawnRoom s x.q frees link out.length).isNone then x.trap s tSpawnfull m vals
       else if inHandler x.q then x.trap s tDiverge m vals
       else if !(pendingLanes x.q).isEmpty then setWait s x.id (.landing (pendingLanes x.q))
       else match (if linkRows link = 0 then Grow.ok else growCheck s x.id x.q (linkRows link)) with
        | .trap => x.trap s tRows x.q.em [] (BitVec.ofNat 64 (linkRows link))
        | .wait => setWait s x.id (.grow (linkRows link))
        | .ok => Claims.ejecting s x
            { kind := 0, out := out, stay := some stay, frees := frees, link := link, word := laneWordOf x.i }) := by
  obtain ⟨hlen, hstay⟩ := counts_of_stays h hout
  refine (if_neg (by simp [he])).trans ((if_neg hlen).trans ?_)
  subst hstay
  rfl

end branch

/-! ### The instructions -/

/-- The instruction of a row at a squad: its targets are checked, then its lanes go. -/
def flowRun (r : Claims.FlowRow) (o : LaneOp) (s : State) (x : Lx) : State :=
  let go := laneBranch s x (if r.ind o then srcFrees 32 o.a else []) (if r.ind o then srcVs 32 o.a else []) (Claims.linked r x)
    r.bound (r.target x)
  if r.checked then checkTargets s x r.back go (r.target x) else go

theorem exec_of_flowTable : ∀ r ∈ Claims.flowTable, ∀ (o : LaneOp) (s : State) (id : Nat) (q : Squad),
    Claims.ready s id q o (r.uses o) → (r.bound = true → q.uni = false) →
    exec (r.make o) s = .next (flowRun r o s (Claims.at_ id q (r.make o) o)) := by
  simp only [Claims.flowTable, List.forall_mem_cons]
  refine ⟨fun o s id q h _ => ?_, fun o s id q h hb => ?_, fun o s id q h _ => ?_, fun o s id q h _ => ?_, fun o s id q h _ => ?_,
    nofun⟩
  · change execBra o s = _
    rw [execBra, laneEnter_of_ready h]
    rfl
  · change execBru o s = _
    rw [execBru, laneEnter_of_ready h]
    exact congrArg _ (if_neg fun hu => Bool.false_ne_true ((hb trivial).symm.trans hu))
  · change execJmp o s = _
    rw [execJmp]
    exact laneEnter_of_ready h _ _
  · change execCall o s = _
    rw [execCall, laneEnter_of_ready (u := flowUses o) h]
    exact congrArg _ (apply_ite (fun t => checkTargets s (Claims.at_ id q (.call o) o) false
      (laneBranch s (Claims.at_ id q (.call o) o) (if o.md.getLsbD 0 then srcFrees 32 o.a else [])
        (if o.md.getLsbD 0 then srcVs 32 o.a else [])
        ((dstVs 32 o.dst).map fun n => (n, mergeLanes q n (activeLanes q o) fun _ => (q.pos + 12).toNat)) false t) t)
      (o.md.getLsbD 0 = true) _ _).symm
  · change execRet o s = _
    rw [execRet]
    exact laneEnter_of_ready h _ _

section checks
variable {r : Claims.FlowRow} {o : LaneOp} {s : State} {x : Lx}

theorem flowRun_checked (hc : r.checked = true) : flowRun r o s x
    = checkTargets s x r.back (laneBranch s x (if r.ind o then srcFrees 32 o.a else []) (if r.ind o then srcVs 32 o.a else [])
        (Claims.linked r x) r.bound (r.target x)) (r.target x) := if_pos hc

theorem checkTargets_bad {ret : Bool} {k : State} {t : Nat → Word} (h : Claims.aimed x t (fun t => t.toNat % 12 != 0) ≠ 0) :
    checkTargets s x ret k t = x.trap s tIllop (Claims.aimed x t fun t => t.toNat % 12 != 0) := if_pos h

theorem checkTargets_zero {k : State} (h : Claims.aimed x (flowTarget x) (fun t => t.toNat % 12 != 0) = 0)
    (hz : Claims.aimed x (flowTarget x) (fun t => t == 0) ≠ 0) :
    checkTargets s x true k = x.trap s tBadret (Claims.aimed x (flowTarget x) fun t => t == 0) :=
  (if_neg (not_not_intro h)).trans (if_pos hz)

theorem checkTargets_pass {ret : Bool} {k : State} {t : Nat → Word} (h : Claims.aimed x t (fun t => t.toNat % 12 != 0) = 0)
    (hz : ret = true → Claims.aimed x (flowTarget x) (fun t => t == 0) = 0) : checkTargets s x ret k t = k := by
  refine (if_neg (not_not_intro h)).trans (if_neg (not_not_intro ?_))
  cases ret with
  | false => exact maskOf_false
  | true => exact hz rfl

/-- A return's targets are those that its register names. -/
theorem back_of_flowTable : ∀ r ∈ Claims.flowTable, r.back = true → r.checked = true ∧ ∀ x, r.target x = flowTarget x := by
  simp only [Claims.flowTable, List.forall_mem_cons]
  exact ⟨nofun, nofun, nofun, nofun, fun _ => ⟨trivial, fun _ => rfl⟩, nofun⟩

/-- What a demand of rows leads to. -/
theorem grow_trap {α : Type} {g : Grow} {a b c : α} :
    g = .trap → (match g with | .trap => a | .wait => b | .ok => c) = a := by rintro rfl; rfl

theorem grow_wait {α : Type} {g : Grow} {a b c : α} :
    g = .wait → (match g with | .trap => a | .wait => b | .ok => c) = b := by rintro rfl; rfl

theorem grow_ok {α : Type} {g : Grow} {a b c : α} :
    g = .ok → (match g with | .trap => a | .wait => b | .ok => c) = c := by rintro rfl; rfl

/-- What a row's instruction does once its targets have passed their checks. -/
theorem flowRun_pass (hr : r ∈ Claims.flowTable) (hbad : r.checked = true → Claims.aimed x (r.target x) (fun t => t.toNat % 12 != 0) = 0)
    (hzero : r.back = true → Claims.aimed x (r.target x) (fun t => t == 0) = 0) : flowRun r o s x
    = laneBranch s x (if r.ind o then srcFrees 32 o.a else []) (if r.ind o then srcVs 32 o.a else []) (Claims.linked r x) r.bound
        (r.target x) := by
  by_cases hc : r.checked = true
  · refine (flowRun_checked hc).trans (checkTargets_pass (hbad hc) fun hb => ?_)
    rw [← (back_of_flowTable r hr hb).2 x]
    exact hzero hb
  · exact if_neg hc

end checks

end Sys2Proof.LaneProofs

open Sys2Proof Sys2Proof.Machine in
open LaneProofs in
/-- Settles O18, by the checks of a row's targets, `laneBranch_agree` and `laneBranch_differ`. -/
theorem laneFlow : Obligations.LaneFlow := by
  constructor
  · intro r hr o s id q x reads frees link bad zero hrd hbound
    rw [exec_of_flowTable r hr o s id q hrd hbound]
    refine ⟨fun hc hb => congrArg _ ((flowRun_checked hc).trans (checkTargets_bad hb)), fun hback hb hz => congrArg _ ?_, ?_⟩
    · obtain ⟨hc, ht⟩ := back_of_flowTable r hr hback
      have htx : r.target x = flowTarget x := ht x
      refine (flowRun_checked hc).trans ?_
      rw [hback, ht]
      simp only [zero, bad, htx] at hb hz ⊢
      exact checkTargets_zero hb hz
    · intro hbad hzero he
      rw [flowRun_pass hr hbad hzero]
      constructor
      · intro dest hag e hroom
        exact congrArg _ (laneBranch_agree (x := x) he hag hroom)
      · intro stay hst out m full rows grow hout
        rw [laneBranch_differ (x := x) he hst hout]
        have hfull : (lrOf s q.team).spawnkib = 0 ∨ (spawnRoom s q frees link out.length).isNone = true ↔ full := by
          rw [Option.isNone_iff_eq_none]
        refine ⟨fun hb => congrArg _ (if_pos hb), fun hb hf => ?_, fun hb hf hh => ?_, fun hb hf hh hp => ?_⟩
        · exact congrArg _ ((if_neg (by simp [hb])).trans (if_pos (hfull.mpr hf)))
        · exact congrArg _ ((if_neg (by simp [hb])).trans ((if_neg (mt hfull.mp hf)).trans (if_pos hh)))
        · have hrows : linkRows link = rows := linkRows_eq link
          rw [hrows]
          have hgo : ∀ {a b c d e : State}, (if r.bound then a
              else if (lrOf s q.team).spawnkib = 0 ∨ (spawnRoom s q frees link out.length).isNone then b
              else if inHandler q then c else if !(pendingLanes q).isEmpty then d else e) = e := by
            intro a b c d e
            rw [if_neg (by simp [hb]), if_neg (mt hfull.mp hf), if_neg (by simp [hh]), pendingLanes_eq_nil hp]
            rfl
          exact ⟨fun hg => congrArg _ (hgo.trans (grow_trap hg)), fun hg => congrArg _ (hgo.trans (grow_wait hg)),
            fun hg => congrArg _ (hgo.trans (grow_ok hg))⟩
  · intro o s id q hrd hu
    change execBru o s = _
    rw [execBru, laneEnter_of_ready hrd]
    exact congrArg _ ((if_pos hu).trans (finishShort_go _ _ (room_of_no_vs rfl)))

/-! PROOFS. Rejoining, `exit`, `yield`, the team barrier and `nap` (09 R214, R215, 17 R423 to R426). -/

namespace Sys2Proof.LaneProofs

open Sys2Proof Sys2Proof.Machine

section
variable {o : LaneOp} {s s' : State} {id : Nat} {q : Squad} {x : Lx}

theorem advance_onward (o : LaneOp) : advance o = Claims.onward o := funext (advance_eq o)

/-- Parking every thread of a squad (09 R214). -/
theorem parkAll_parks {kind : Nat} (he : x.q.eject = none) (hroom : (spawnRoom s x.q [] [] (lanesOf x.q.pm).length).isSome)
    (hp : ∀ v ∈ x.q.v, v.2.pend = none) : parkAll s x kind = Claims.ejecting s x
      { kind := kind, out := (lanesOf x.q.pm).map fun l => (l, x.q.pos + 12), stay := none, word := laneWordOf x.i } := by
  refine (if_neg (by simp [he])).trans ((if_neg ?_).trans (if_neg ?_))
  · intro h
    rw [Option.isNone_iff_eq_none.mp h] at hroom
    cases hroom
  · rw [pendingLanes_eq_nil hp]
    exact Bool.false_ne_true

/-- The end of an `exit` that takes effect. -/
theorem exitLanes_eq (o : LaneOp) (s : State) (x : Lx) :
    exitLanes o s x = settleExit (endLanes (modSquad s x.id (Claims.onward o)) x.id x.act) x.id := by
  rw [exitLanes, advance_onward]

theorem exec_exit (h : Claims.ready s id q o {}) : exec (.exit o) s = .next (let x := Claims.at_ id q (.exit o) o
    if x.act = 0 then modSquad s id (Claims.onward o)
    else if x.act ≠ q.pm then exitLanes o s x
    else if !q.log.isEmpty then setWait s id .hold
    else if inHandler q || (q.traps.isEmpty && q.unseen.isEmpty) then exitLanes o s x
    else modSquad (seeAll s id) id fun q => { q with wait := .none }) := by
  change execExit o s = _
  rw [execExit, laneEnter_of_ready h, advance_onward]
  rfl

/-- A squad that has arrived goes on, or waits for the end of the phase (17 R425). -/
theorem barrierWait_over {q' : Squad} (hq : mget s.squads x.id = some q') (h : q'.phase ≠ some (teamOf s q'.team).barPhase) :
    barrierWait s x = Claims.shortState s x [] [] {} := by
  simp only [barrierWait, hq, if_neg h]
  exact finishShort_go _ _ room_of_nothing

theorem barrierWait_lasts {q' : Squad} (hq : mget s.squads x.id = some q') (h : q'.phase = some (teamOf s q'.team).barPhase) :
    barrierWait s x = setWait s x.id (.barrier (teamOf s q'.team).barPhase) := by
  simp only [barrierWait, hq]
  exact if_pos h

theorem exec_bar (h : Claims.ready s id q o {}) : exec (.bar o) s = .next (let x := Claims.at_ id q (.bar o) o
    if x.act = 0 then finishShort s x [] [] {}
    else if q.arrived then barrierWait s x
    else if q.marks &&& q.pm ≠ 0 then setWait s id (.barrier (teamOf s q.team).barPhase)
    else laneRelease s x fun s => barrierWait (arrive s x) x) := by
  change execBar o s = _
  rw [execBar, laneEnter_of_ready h]
  rfl

theorem exec_barar (h : Claims.ready s id q o {}) : exec (.barar o) s = .next (let x := Claims.at_ id q (.barar o) o
    if x.act = 0 then finishShort s x [] [] {}
    else if q.marks &&& q.pm ≠ 0 then setWait s id (.barrier (teamOf s q.team).barPhase)
    else laneRelease s x fun s => finishShort (arrive s x) x [] [] {}) := by
  change execBarar o s = _
  rw [execBarar, laneEnter_of_ready h]
  rfl

theorem exec_barwt (h : Claims.ready s id q o {}) : exec (.barwt o) s = .next (let x := Claims.at_ id q (.barwt o) o
    if x.act = 0 then finishShort s x [] [] {} else barrierWait s x) := by
  change execBarwt o s = _
  rw [execBarwt, laneEnter_of_ready h]

end

end Sys2Proof.LaneProofs

open Sys2Proof Sys2Proof.Machine in
open LaneProofs in
/-- Settles O19, by what each instruction is at a squad whose registers have landed. -/
theorem laneRejoinExitYield : Obligations.LaneRejoinExitYield := by
  intro o s id q dest noArea all parks
  refine ⟨?_, ?_, ?_, ?_⟩
  · intro x hrd
    change (_ → execRejoin o s = _) ∧ (_ → _ → _ → execRejoin o s = _)
    rw [execRejoin, laneEnter_of_ready hrd]
    refine ⟨fun h => congrArg _ ((if_pos h).trans (finishShort_go _ _ room_of_nothing)), fun hpm harea hp => ?_⟩
    obtain ⟨he, hroom, hpend⟩ := hp
    exact congrArg _ ((if_neg (not_or.mpr ⟨hpm, harea⟩)).trans (parkAll_parks (x := x) he hroom hpend))
  · intro x hrd
    change (_ → execRejoinS o s = _) ∧ (_ → _ → _ → execRejoinS o s = _)
    rw [execRejoinS, laneEnter_of_ready hrd]
    refine ⟨fun h => congrArg _ ((if_pos h).trans (finishShort_go _ _ (room_of_no_vs rfl))), fun hno harea hp => ?_⟩
    obtain ⟨he, hroom, hpend⟩ := hp
    exact congrArg _ ((if_neg (not_or.mpr ⟨fun h => Bool.false_ne_true (hno.symm.trans h), harea⟩)).trans
      (parkAll_parks (x := x) he hroom hpend))
  · intro x on hrd
    rw [exec_exit hrd]
    refine ⟨fun h0 => congrArg _ (if_pos h0), fun h0 hgo => ?_, fun h0 hall hlog hh hdue => ?_, fun h0 hall hlog => ?_⟩
    · refine congrArg _ ((if_neg h0).trans (Eq.trans ?_ (exitLanes_eq o s x)))
      by_cases hpm : x.act ≠ q.pm
      · exact if_pos hpm
      · obtain ⟨hlog, hover⟩ := hgo.resolve_left hpm
        refine (if_neg hpm).trans ((if_neg (by simp [hlog])).trans (if_pos ?_))
        rcases hover with h | ⟨h1, h2⟩
        · rw [h]; rfl
        · simp [h1, h2]
    · refine congrArg _ ((if_neg h0).trans ((if_neg (not_not_intro hall)).trans ((if_neg (by simp [hlog])).trans (if_neg ?_))))
      rw [hh, Bool.false_or, Bool.and_eq_true, List.isEmpty_iff, List.isEmpty_iff]
      exact fun h => hdue.elim (absurd h.1) (absurd h.2)
    · refine congrArg _ ((if_neg h0).trans ((if_neg (not_not_intro hall)).trans (if_pos ?_)))
      simpa [List.isEmpty_eq_false_iff] using hlog
  · intro m hrd
    change (_ → execYield o s = _) ∧ (_ → execYield o s = _)
    rw [execYield, laneEnter_of_ready hrd, advance_onward]
    exact ⟨fun hm => congrArg _ (if_neg (Nat.not_le.mpr hm)), fun hm => congrArg _ (if_pos hm)⟩

open Sys2Proof Sys2Proof.Machine in
open LaneProofs in
/-- Settles O20, by what each instruction is at a squad whose registers have landed. -/
theorem laneBarriersAndNaps : Obligations.LaneBarriersAndNaps := by
  intro o s id q lanes
  refine ⟨?_, ?_, ?_, ?_, ?_⟩
  · simp only [List.forall_mem_cons]
    refine ⟨fun hrd h0 => ?_, fun hrd h0 => ?_, fun hrd h0 => ?_, fun _ h => absurd h List.not_mem_nil⟩
    · rw [exec_bar hrd]
      exact congrArg _ ((if_pos h0).trans (finishShort_go _ _ room_of_nothing))
    · rw [exec_barar hrd]
      exact congrArg _ ((if_pos h0).trans (finishShort_go _ _ room_of_nothing))
    · rw [exec_barwt hrd]
      exact congrArg _ ((if_pos h0).trans (finishShort_go _ _ room_of_nothing))
  · intro hrd harr hmarks s' hrel x y t h0
    rw [exec_bar hrd, exec_barar hrd]
    have hno : ¬ q.arrived = true := fun h => Bool.false_ne_true (harr.symm.trans h)
    have harrives : ∀ {a b c : State} (z : Lx) (k : State → State), z.q = q → z.id = id →
        (if activeLanes q o = 0 then a else if q.arrived then b else if q.marks &&& q.pm ≠ 0 then c else laneRelease s z k) = k s' :=
      fun z k hzq hzid => (if_neg h0).trans ((if_neg hno).trans ((if_neg (not_not_intro hmarks)).trans
        (laneRelease_of_released (x := z) (by rw [hzq, hzid]; exact hrel) k)))
    refine ⟨?_, fun q' hq' => ⟨fun hph => ?_, fun hph => ?_⟩⟩
    · refine congrArg _ ((if_neg h0).trans ((if_neg (not_not_intro hmarks)).trans ?_))
      refine (laneRelease_of_released (x := y) hrel _).trans ?_
      exact finishShort_go (x := y) [] [] room_of_nothing
    · exact congrArg _ ((harrives x (fun s => barrierWait (arrive s x) x) rfl rfl).trans (barrierWait_over (x := x) hq' hph))
    · exact congrArg _ ((harrives x (fun s => barrierWait (arrive s x) x) rfl rfl).trans (barrierWait_lasts (x := x) hq' hph))
  · intro x ph hrd h0
    rw [exec_barwt hrd]
    have hq : mget s.squads x.id = some q := curSquad_mget hrd.1
    exact ⟨fun hph => congrArg _ ((if_neg h0).trans (barrierWait_over (x := x) hq hph)),
      fun hph => congrArg _ ((if_neg h0).trans (barrierWait_lasts (x := x) hq hph))⟩
  · simp only [List.forall_mem_cons]
    refine ⟨fun hrd harr h0 hmarks => ?_, fun hrd _ h0 hmarks => ?_, fun _ h => absurd h List.not_mem_nil⟩
    · rw [exec_bar hrd]
      exact congrArg _ ((if_neg h0).trans ((if_neg fun h => Bool.false_ne_true (harr.symm.trans h)).trans (if_pos hmarks)))
    · rw [exec_barar hrd]
      exact congrArg _ ((if_neg h0).trans (if_pos hmarks))
  · intro x n hrd
    change (_ → execNap o s = _) ∧ (_ → _ → execNap o s = _)
    rw [execNap, laneEnter_of_ready hrd]
    refine ⟨fun h => congrArg _ ((if_pos h).trans (finishShort_go _ _ room_of_nothing)),
      fun h0 hg => congrArg _ ((if_neg ?_).trans rfl)⟩
    exact not_or.mpr ⟨h0, fun h => by rw [show (Claims.at_ id q (.nap o) o).q.granted = none from hg] at h; cases h⟩

/-! PROOFS. Control registers, traps, `nop`, the time base and random values of lanes (14 R330, 17 R430 to R432, 05 R129, R130). -/

namespace Sys2Proof.LaneProofs

open Sys2Proof Sys2Proof.Machine

section
variable {o : LaneOp} {s s' : State} {id : Nat} {q : Squad} {x : Lx}

theorem laneCsr_eq (s : State) (q : Squad) (n : Nat) : laneCsr s q n = Claims.controlRegister s q n := rfl

theorem exec_csrw (h : Claims.ready s id q o { vs := srcVs (csrWidth (o.imm.toNat % 256)) o.a, gs := srcGs o.a }) :
    exec (.csrw o) s = .next (Claims.shortState
      (match lowLane (activeLanes q o) with
       | some l => laneCsrWrite s id q.team (o.imm.toNat % 256) (srcVal q o 0 (csrWidth (o.imm.toNat % 256)) o.a l)
       | none => s)
      (Claims.at_ id q (.csrw o) o) (srcVs (csrWidth (o.imm.toNat % 256)) o.a) (srcFrees (csrWidth (o.imm.toNat % 256)) o.a) {}) := by
  change execCsrw o s = _
  rw [execCsrw, laneEnter_of_ready h]
  exact congrArg _ (finishShort_go _ _ room_of_nothing)

theorem laneCsrWrite_thand (s : State) (id team v : Nat) : laneCsrWrite s id team 4 v
    = if bitsOf v 0 32 % 12 = 0 ∧ bitsOf v 32 19 % 64 = 0 then modTeam s team fun t => { t with thand := BitVec.ofNat 64 (v % 2 ^ 51) }
      else s := by
  simp only [laneCsrWrite]
  by_cases h : bitsOf v 0 32 % 12 = 0 ∧ bitsOf v 32 19 % 64 = 0
  · rw [if_pos h, if_neg (by omega)]
  · rw [if_neg h, if_pos (by omega)]

theorem laneCsrWrite_other (s : State) (id team v : Nat) {n : Nat} (h : n ∉ [3, 4, 6, 7]) : laneCsrWrite s id team n v = s := by
  unfold laneCsrWrite
  split <;> simp_all

end

/-! ### Values that a recording logs -/

section logged
variable {s s' : State} {id : Nat} {q : Squad} {x : Lx} {kind : Nat} {live : Nat → Dword}

theorem length_laneKey (s : State) (x : Lx) (kind l : Nat) : (laneKey s x kind l).length = 24 := by
  simp [laneKey, logKey]

theorem logHas_laneKey (s : State) (x : Lx) (kind l : Nat) :
    logHas (laneKey s x kind l) = fun e => decide (e.take 24 = laneKey s x kind l) :=
  funext fun e => by rw [logHas, length_laneKey]

theorem recPlay_eq (s : State) (slot : Nat) : recPlay (recCtl s slot) = (recCtl s slot).testBit 1 :=
  (SpineMemory.testBit_eq_bitOf ..).symm

theorem recRec_eq (s : State) (slot : Nat) : recRec (recCtl s slot) = (recCtl s slot).testBit 0 :=
  (SpineMemory.testBit_eq_bitOf ..).symm

/-- What the recording reads stays as it is. -/
def sameLog (s t : State) : Prop := t.teams = s.teams ∧ t.grids = s.grids ∧ ∀ slot, recCtl t slot = recCtl s slot

theorem sameLog_refl (s : State) : sameLog s s := ⟨rfl, rfl, fun _ => rfl⟩

theorem laneKey_of_sameLog {t : State} (h : sameLog s t) (x : Lx) (kind l : Nat) : laneKey t x kind l = laneKey s x kind l := by
  simp only [laneKey, teamOf, h.1]

theorem slotOf_of_sameLog {t : State} (h : sameLog s t) (team : Nat) : slotOf t team = slotOf s team := by
  simp only [slotOf, teamOf, gridOf, h.1, h.2.1]

/-- Without a recording the values are live. -/
theorem logLanes_live (h0 : (recCtl s (slotOf s x.q.team)).testBit 0 = false) (h1 : (recCtl s (slotOf s x.q.team)).testBit 1 = false)
    (lanes : List Nat) : logLanes x kind live lanes s = (s, lanes.map fun l => (l, live l)) := by
  induction lanes with
  | nil => rfl
  | cons l ls ih => simp [logLanes, logValue, recPlay_eq, recRec_eq, h0, h1, ih]

/-- A lane's push to the log. -/
def pushLane (slot queue : Nat) (key : Nat → List Byte) (live : Nat → Dword) (t : State) (l : Nat) : State :=
  { t with nextId := t.nextId + 1
           dpush := t.dpush ++ [{ id := t.nextId, slot := slot, q := queue, entry := key l ++ bytesOf 8 (live l).toNat ++ zeros 32 }] }

/-- Under REC each lane's value is pushed. -/
theorem logLanes_pushed (lanes : List Nat) : ∀ {t : State}, sameLog s t →
    (recCtl s (slotOf s x.q.team)).testBit 0 = true → (recCtl s (slotOf s x.q.team)).testBit 1 = false →
    logLanes x kind live lanes t = (lanes.foldl (pushLane (slotOf s x.q.team) (recQueue (recCtl s (slotOf s x.q.team)))
      (laneKey s x kind) live) t, lanes.map fun l => (l, live l)) := by
  induction lanes with
  | nil => exact fun _ _ _ => rfl
  | cons l ls ih =>
    intro t ht h0 h1
    have hv : logValue t (slotOf t x.q.team) (laneKey t x kind l) (live l) none .none
        = (pushLane (slotOf s x.q.team) (recQueue (recCtl s (slotOf s x.q.team))) (laneKey s x kind) live t l, live l) := by
      rw [slotOf_of_sameLog ht, laneKey_of_sameLog ht]
      simp only [logValue, recPlay_eq, recRec_eq, ht.2.2, h0, h1, Bool.false_eq_true, if_false, if_true]
      rfl
    simp only [logLanes, hv, List.foldl_cons, List.map_cons]
    rw [ih (t := pushLane (slotOf s x.q.team) (recQueue (recCtl s (slotOf s x.q.team))) (laneKey s x kind) live t l) ht h0 h1]

/-- Under PLAY each lane's value comes from its log, while it has one. -/
theorem logLanes_replayed (h1 : (recCtl s (slotOf s x.q.team)).testBit 1 = true) (lanes : List Nat) : ∀ {t : State} {vals : List (Nat × Dword)},
    sameLog s t → Claims.replayed (slotOf s x.q.team) (laneKey s x kind) live lanes t s' vals →
    logLanes x kind live lanes t = (s', vals) ∧ s'.dpush = t.dpush := by
  induction lanes with
  | nil =>
    rintro t vals _ ⟨rfl, rfl⟩
    exact ⟨rfl, rfl⟩
  | cons l ls ih =>
    intro t vals ht h
    have hplay : recPlay (recCtl t (slotOf s x.q.team)) = true := by rw [ht.2.2, recPlay_eq, h1]
    simp only [logLanes]
    rw [slotOf_of_sameLog ht, laneKey_of_sameLog ht]
    obtain ⟨c, bs, rest, hf, hr, rfl⟩ | ⟨hf, rest, hr, rfl⟩ := h
    · rw [← logHas_laneKey] at hf
      obtain ⟨hrest, hd⟩ := ih (t := { t with replay := mset t.replay (65536 * slotOf s x.q.team + c) 1 }) ht hr
      simp only [logValue, hplay, hf, if_true, hrest]
      exact ⟨trivial, hd⟩
    · rw [← logHas_laneKey] at hf
      obtain ⟨hrest, hd⟩ := ih (t := svcErr t) ht hr
      simp only [logValue, hplay, hf, if_true, hrest]
      exact ⟨trivial, hd⟩


theorem foldl_overG_dpush (id : Nat) (ns : List Nat) : ∀ s : State,
    (ns.foldl (fun s i => overG s id i) s).dpush = s.dpush := by
  induction ns with
  | nil => exact fun _ => rfl
  | cons n ns ih => exact fun s => ih (overG s id n)

theorem foldl_overG_from_dpush (id idx : Nat) (ns : List Nat) : ∀ s : State,
    (ns.foldl (fun s i => overG s id (idx + i)) s).dpush = s.dpush := by
  induction ns with
  | nil => exact fun _ => rfl
  | cons n ns ih => exact fun s => ih (overG s id (idx + n))

theorem raiseFlag_dpush (s : State) (id : Nat) (f : Option Nat) : (raiseFlag s id f).dpush = s.dpush := by
  cases f with
  | none => rfl
  | some f => exact modSquad_dpush ..

/-- Issuing an operation pushes nothing. -/
theorem finishLong_dpush (s : State) (x : Lx) (reads frees : List Nat) (r : Result) :
    (finishLong s x reads frees r).dpush = s.dpush := by
  refine (modSquad_dpush ..).trans ((raiseFlag_dpush ..).trans ?_)
  dsimp only
  split
  · exact foldl_overG_from_dpush ..
  · rfl
  · rfl
  · rfl

theorem tiePushes_of_none {t : State} {n : Nat} (op : Nat) (h : t.dpush.length ≤ n) : tiePushes t n op = t := by
  have hz : (t.dpush.zipIdx.map fun p => if n ≤ p.2 then { p.1 with pop := some op } else p.1) = t.dpush := by
    calc _ = t.dpush.zipIdx.map Prod.fst := List.map_congr_left fun p hp => if_neg (by
              have := List.snd_lt_of_mem_zipIdx hp
              omega)
      _ = t.dpush := List.zipIdx_map_fst ..
  rw [tiePushes, hz]

theorem valResult_ready (x : Lx) (w : Nat) (f : Nat → Nat) : { valResult x w f with ready := true } = valResult x w f := by
  unfold valResult
  repeat' split
  all_goals rfl

/-- A value that no recording takes is ready at once. -/
theorem execLogged_of_ready {s' : State} {lanes : List Nat} {vals : List (Nat × Dword)} (w : Nat)
    (hheld : (lanes.any fun l => logHeld s (slotOf s x.q.team) (laneKey s x kind l)) = false)
    (hlog : logLanes x kind live lanes s = (s', vals)) (hd : s'.dpush = s.dpush) :
    execLogged s x w kind lanes live = finishLong (countNdet s' x.q) x [] [] (valResult x w (Claims.valueOf vals)) := by
  have hn : (countNdet s' x.q).dpush.length = s.dpush.length := congrArg List.length hd
  simp only [execLogged, hheld, hlog, Bool.false_eq_true, if_false, decide_eq_true hn, valResult_ready]
  exact tiePushes_of_none _ (by rw [finishLong_dpush, hn])

theorem length_dpush_pushed (slot queue : Nat) (key : Nat → List Byte) (lanes : List Nat) : ∀ t : State,
    (lanes.foldl (pushLane slot queue key live) t).dpush.length = t.dpush.length + lanes.length := by
  induction lanes with
  | nil => exact fun _ => rfl
  | cons l ls ih =>
    intro t
    rw [List.foldl_cons, ih, List.length_cons]
    simp only [pushLane, List.length_append, List.length_cons, List.length_nil]
    omega

/-- A value whose pushes are made is ready with them. -/
theorem execLogged_of_pushed {s' : State} {lanes : List Nat} {vals : List (Nat × Dword)} (w : Nat)
    (hheld : (lanes.any fun l => logHeld s (slotOf s x.q.team) (laneKey s x kind l)) = false)
    (hlog : logLanes x kind live lanes s = (s', vals)) (hd : s'.dpush.length ≠ s.dpush.length) :
    execLogged s x w kind lanes live = tiePushes (finishLong (countNdet s' x.q) x [] []
      { valResult x w (Claims.valueOf vals) with ready := false }) s.dpush.length s'.nextId := by
  have hn : ¬ (countNdet s' x.q).dpush.length = s.dpush.length := hd
  simp only [execLogged, hheld, hlog, Bool.false_eq_true, if_false, decide_eq_false hn]
  rfl

theorem execLogged_of_held {lanes : List Nat} (w : Nat)
    (hheld : (lanes.any fun l => logHeld s (slotOf s x.q.team) (laneKey s x kind l)) = true) :
    execLogged s x w kind lanes live = setWait s x.id .hold := if_pos hheld

theorem noneHeld_of_not_play (lanes : List Nat) (h : (recCtl s (slotOf s x.q.team)).testBit 1 = false) :
    (lanes.any fun l => logHeld s (slotOf s x.q.team) (laneKey s x kind l)) = false := by
  rw [List.any_eq_false]
  exact fun l _ => by rw [SpineMemory.logHeld_of_not_play _ _ h]; exact Bool.false_ne_true

theorem logHeld_iff (h : (recCtl s (slotOf s x.q.team)).testBit 1 = true) (l : Nat) :
    logHeld s (slotOf s x.q.team) (laneKey s x kind l) = true
      ↔ logFind s (slotOf s x.q.team) (fun e => e.take 24 = laneKey s x kind l) = .held := by
  rw [logHeld, recPlay_eq, h, Bool.true_and, logHas_laneKey, beq_iff_eq]

/-- `rdclk` and `rand` by what their context's recording does. -/
theorem loggedOf {i : Instr} {o : LaneOp} {w : Nat} {lanes : List Nat}
    (hexec : exec i s = .next (execLogged s (Claims.at_ id q i o) w kind lanes live)) :
    let slot := slotOf s q.team
    let rc := recCtl s slot
    let x := Claims.at_ id q i o
    let key (l : Nat) : List Byte := Claims.resultKey kind 0 q.index l (teamOf s q.team).index (ndetOf (teamOf s q.team) q.index)
    (rc.testBit 0 = false → rc.testBit 1 = false → exec i s = .next (finishLong (countNdet s q) x [] []
      (valResult x w (Claims.valueOf (lanes.map fun l => (l, live l))))))
    ∧ (rc.testBit 0 = true → rc.testBit 1 = false → lanes ≠ [] →
        let pushed := lanes.foldl (fun (t : State) l => { t with
          nextId := t.nextId + 1
          dpush := t.dpush ++ [{ id := t.nextId, slot := slot, q := bitsOf rc 16 16,
                                 entry := key l ++ bytesOf 8 (live l).toNat ++ zeros 32 }] }) s
        exec i s = .next (tiePushes (finishLong (countNdet pushed q) x [] []
          { valResult x w (Claims.valueOf (lanes.map fun l => (l, live l))) with ready := false })
          s.dpush.length pushed.nextId))
    ∧ (rc.testBit 1 = true →
        (∀ s' vals, (∀ l ∈ lanes, logFind s slot (fun e => e.take 24 = key l) ≠ .held) →
          Claims.replayed slot key live lanes s s' vals →
          exec i s = .next (finishLong (countNdet s' q) x [] [] (valResult x w (Claims.valueOf vals))))
        ∧ ((∃ l ∈ lanes, logFind s slot (fun e => e.take 24 = key l) = .held) → exec i s = .next (setWait s id .hold))) := by
  rw [hexec]
  refine ⟨fun h0 h1 => congrArg _ ?_, fun h0 h1 hne => congrArg _ ?_, fun h1 => ⟨fun s' vals hn hr => congrArg _ ?_, fun ⟨l, hl, hh⟩ => congrArg _ ?_⟩⟩
  · exact execLogged_of_ready (x := Claims.at_ id q i o) (s' := s) w (noneHeld_of_not_play (x := Claims.at_ id q i o) lanes h1)
      (logLanes_live (x := Claims.at_ id q i o) h0 h1 lanes) rfl
  · have hlog := logLanes_pushed (x := Claims.at_ id q i o) (kind := kind) (live := live) lanes (sameLog_refl s) h0 h1
    refine execLogged_of_pushed w (noneHeld_of_not_play (x := Claims.at_ id q i o) lanes h1) hlog ?_
    refine fun hlen => hne (List.length_eq_zero_iff.1 ?_)
    exact Nat.add_eq_left.1 ((length_dpush_pushed _ _ _ lanes s).symm.trans hlen)
  · obtain ⟨hlog, hd⟩ := logLanes_replayed (x := Claims.at_ id q i o) (kind := kind) h1 lanes (sameLog_refl s) hr
    refine execLogged_of_ready w ?_ hlog hd
    rw [List.any_eq_false]
    exact fun l hl hheld => hn l hl ((logHeld_iff (x := Claims.at_ id q i o) h1 l).1 hheld)
  · exact execLogged_of_held w (List.any_eq_true.2 ⟨l, hl, (logHeld_iff (x := Claims.at_ id q i o) h1 l).2 hh⟩)

end logged

section
variable {o : LaneOp} {s : State} {id : Nat} {q : Squad}

theorem exec_csrr (h : Claims.ready s id q o { dv := dstVs (csrWidth (o.imm.toNat % 256)) o.dst })
    (hi : Claims.issues s (Claims.at_ id q (.csrr o) o) (dstVs (csrWidth (o.imm.toNat % 256)) o.dst).length) :
    exec (.csrr o) s = .next (finishLong s (Claims.at_ id q (.csrr o) o) [] []
      (valResult (Claims.at_ id q (.csrr o) o) (csrWidth (o.imm.toNat % 256)) fun _ => Claims.controlRegister s q (o.imm.toNat % 256))) := by
  change execCsrr o s = _
  rw [execCsrr, laneEnter_of_ready h]
  exact congrArg _ (longReady_of_issues hi _)

theorem exec_rdclk (h : Claims.ready s id q o { dv := dstVs 64 o.dst })
    (hi : Claims.issues s (Claims.at_ id q (.rdclk o) o) (dstVs 64 o.dst).length) :
    exec (.rdclk o) s = .next (execLogged s (Claims.at_ id q (.rdclk o) o) 64 2 (if activeLanes q o = 0 then [] else [0]) fun _ => s.timeNs) := by
  change execRdclk o s = _
  rw [execRdclk, laneEnter_of_ready h]
  exact congrArg _ (longReady_of_issues hi _)

theorem exec_rand (h : Claims.ready s id q o { dv := dstVs o.ty.opW o.dst })
    (hi : Claims.issues s (Claims.at_ id q (.rand o) o) (dstVs o.ty.opW o.dst).length) :
    exec (.rand o) s = .next (execLogged s (Claims.at_ id q (.rand o) o) o.ty.opW 3 (lanesOf (activeLanes q o)) fun l =>
      BitVec.ofNat 64 ((Config.free64 s.freeNo l).toNat % 2 ^ o.ty.opW)) := by
  change execRand o s = _
  rw [execRand, laneEnter_of_ready h]
  exact congrArg _ (longReady_of_issues hi _)

theorem exec_trap (h : Claims.ready s id q o {}) :
    exec (.trap o) s = .next (if (Claims.at_ id q (.trap o) o).act = 0 then finishShort s (Claims.at_ id q (.trap o) o) [] [] {}
      else (Claims.at_ id q (.trap o) o).trap s tSwtrap (Claims.at_ id q (.trap o) o).act [] (o.imm.setWidth 64)) := by
  change execTrap o s = _
  rw [execTrap, laneEnter_of_ready h]

theorem exec_brk (h : Claims.ready s id q o {}) :
    exec (.brk o) s = .next (if (Claims.at_ id q (.brk o) o).act = 0 then finishShort s (Claims.at_ id q (.brk o) o) [] [] {}
      else (Claims.at_ id q (.brk o) o).trap s tBrk (Claims.at_ id q (.brk o) o).act) := by
  change execBrk o s = _
  rw [execBrk, laneEnter_of_ready h]

theorem exec_nop (h : Claims.ready s id q o {}) :
    exec (.nop o) s = .next (Claims.shortState s (Claims.at_ id q (.nop o) o) [] [] {}) := by
  change execNop o s = _
  rw [execNop, laneEnter_of_ready h]
  exact congrArg _ (finishShort_go _ _ room_of_nothing)

end

/-- Settles O21. -/
theorem laneSystemInstructions : Obligations.LaneSystemInstructions := by
  unfold Obligations.LaneSystemInstructions
  intro o s id q n w
  refine ⟨exec_csrr, ?_, ?_, ?_, exec_nop, ?_⟩
  · intro x v u goOn hrd
    have hx := exec_csrw hrd
    refine ⟨fun h0 => ?_, fun l hl => ⟨fun hn => ?_, fun hn => ?_, fun hn => ?_, fun hn => ?_, fun hn => ?_⟩⟩
    · exact hx.trans (by rw [show activeLanes q o = 0 from h0]; rfl)
    all_goals
      refine hx.trans ?_
      rw [show lowLane (activeLanes q o) = some l from hl]
      refine congrArg (fun t => Host.Outcome.next (Claims.shortState t x u.vs (srcFrees w o.a) {})) ?_
    · exact congrArg (fun k => laneCsrWrite s id q.team k (v l)) hn
    · exact (congrArg (fun k => laneCsrWrite s id q.team k (v l)) hn).trans (laneCsrWrite_thand ..)
    · exact congrArg (fun k => laneCsrWrite s id q.team k (v l)) hn
    · exact congrArg (fun k => laneCsrWrite s id q.team k (v l)) hn
    · exact laneCsrWrite_other _ _ _ _ hn
  · intro x hrd
    exact ⟨fun h0 => (exec_trap hrd).trans (congrArg _ ((if_pos h0).trans (finishShort_go _ _ room_of_nothing))),
      fun h0 => (exec_trap hrd).trans (congrArg _ (if_neg h0))⟩
  · intro x hrd
    exact ⟨fun h0 => (exec_brk hrd).trans (congrArg _ ((if_pos h0).trans (finishShort_go _ _ room_of_nothing))),
      fun h0 => (exec_brk hrd).trans (congrArg _ (if_neg h0))⟩
  · intro slot rc team act
    simp only [List.forall_mem_cons]
    refine ⟨?_, ?_, fun _ h => absurd h List.not_mem_nil⟩
    · intro hrd hi
      exact loggedOf (exec_rdclk hrd hi)
    · intro hrd hi
      exact loggedOf (exec_rand hrd hi)

end Sys2Proof.LaneProofs

/-! PROOFS. `launch` and the queue instructions of lanes (17 R427, R428, R474, 05 R107, R108). -/

namespace Sys2Proof.LaneProofs

open Sys2Proof Sys2Proof.Machine

section
variable {o : LaneOp} {s s1 s2 : State} {id : Nat} {q : Squad} {x : Lx}

theorem flagRoom_of_issues {n : Nat} (h : Claims.issues s x n) (k : State → State) : flagRoom s x k = k s := by
  have hf : ((flagOf x.q x.o.fs).any fun f => flagCount x.q f == 63) = false := by
    cases hfl : flagOf x.q x.o.fs with
    | none => rfl
    | some f => simpa using h.1 f hfl
  exact if_neg (by rw [hf]; exact Bool.false_ne_true)

/-- What a queue instruction of lanes does first: nothing without an active lane, `ILLOP` for a number above 1023. -/
def queueRun (x : Lx) (s : State) (n : Nat) (k : State → Nat → State) : State :=
  if x.act = 0 then Claims.shortState s x (srcVs 32 x.o.b) (srcFrees 32 x.o.b) {}
  else if n > 1023 then x.trap s tIllop x.q.em else flagRoom s x fun s => k s n

theorem laneQueue_of_ready {dv : List Nat} (h : Claims.ready s id q o { vs := srcVs 32 o.b, gs := srcGs o.a, dv := dv }) (i : Instr)
    (k : Lx → State → Nat → State) :
    laneQueue i o s dv k = .next (queueRun (Claims.at_ id q i o) s (srcVal q o 0 64 o.a 0) (k (Claims.at_ id q i o))) := by
  rw [laneQueue, laneEnter_of_ready h, queueRun, finishShort_go _ _ room_of_nothing]
  rfl

/-- The push of register B. -/
def pushB (o : LaneOp) (x : Lx) (s : State) (n : Nat) : State :=
  lanePush x s n (pushEntry x.q o) false (srcVs 32 o.b) (srcFrees 32 o.b)

theorem exec_of_pushes : ∀ r ∈ [(Instr.qpush, false), (Instr.qpushTry, true)],
    Claims.ready s id q o { vs := srcVs 32 o.b, gs := srcGs o.a } →
    exec (r.1 o) s = .next (queueRun (Claims.at_ id q (r.1 o) o) s (srcVal q o 0 64 o.a 0) (pushB o (Claims.at_ id q (r.1 o) o))) := by
  simp only [List.forall_mem_cons]
  exact ⟨fun h => laneQueue_of_ready h (.qpush o) (pushB o), fun h => laneQueue_of_ready h (.qpushTry o) (pushB o),
    fun _ h => absurd h List.not_mem_nil⟩

theorem exec_of_pops : ∀ r ∈ [(Instr.qpop, false), (Instr.qpopTry, true)],
    Claims.ready s id q o { vs := srcVs 32 o.b, gs := srcGs o.a, dv := regDst o.dst 1 } →
    exec (r.1 o) s = .next (queueRun (Claims.at_ id q (r.1 o) o) s (srcVal q o 0 64 o.a 0) (lanePop (Claims.at_ id q (r.1 o) o))) := by
  simp only [List.forall_mem_cons]
  exact ⟨fun h => laneQueue_of_ready h (.qpop o) lanePop, fun h => laneQueue_of_ready h (.qpopTry o) lanePop,
    fun _ h => absurd h List.not_mem_nil⟩

theorem queueRun_of_none {n : Nat} (k : State → Nat → State) (h : x.act = 0) :
    queueRun x s n k = Claims.shortState s x (srcVs 32 x.o.b) (srcFrees 32 x.o.b) {} := if_pos h

theorem queueRun_illop {n : Nat} (k : State → Nat → State) (h : x.act ≠ 0) (hn : 1023 < n) :
    queueRun x s n k = x.trap s tIllop x.q.em := (if_neg h).trans (if_pos hn)

theorem queueRun_go {n m : Nat} (k : State → Nat → State) (h : x.act ≠ 0) (hn : n ≤ 1023) (hi : Claims.issues s x m) :
    queueRun x s n k = k s n := (if_neg h).trans ((if_neg (by omega)).trans (flagRoom_of_issues hi _))

/-- What a push by a lane instruction does with the queue's answer. -/
def pushed (x : Lx) (launch : Bool) (reads frees : List Nat) (s : State) (a : QAns) : State :=
  let ok := match a with | .reserved _ => true | _ => false
  finishLong (if launch then s else tryPred s x ok) x reads frees { ready := !ok }

theorem lanePush_of_released {n : Nat} {entry : List Byte} {launch : Bool} {reads frees : List Nat} {res : State × QAns}
    (hrel : Claims.released s x.id x.q s1)
    (hq : qPush s1 (rqSquad s x.id x.q) n entry launch (x.o.md.getLsbD 0 && !launch) (if launch then .spine x.q.team else .squad x.id) = res) :
    lanePush x s n entry launch reads frees = laneAns s1 x (rqSquad s x.id x.q) n res (pushed x launch reads frees) := by
  rw [lanePush, laneRelease_of_released (x := x) hrel]
  exact congrArg (fun r => laneAns s1 x (rqSquad s x.id x.q) n r (pushed x launch reads frees)) hq

theorem laneAns_trap {s0 : State} {r : Rq} {n : Nat} {res : State × QAns} {c : Byte} {va : Nat} (k : State → QAns → State) :
    res = (s2, .trap c va) → laneAns s0 x r n res k = x.trap s2 c x.q.em (trapVals x.q.em fun _ => BitVec.ofNat 64 va) := by
  rintro rfl
  rfl

theorem laneAns_wait {s0 : State} {r : Rq} {n : Nat} {res : State × QAns} (k : State → QAns → State) :
    res = (s2, .wait) → laneAns s0 x r n res k = setWait s2 x.id (.queue n) := by
  rintro rfl
  rfl

theorem laneAns_reserved {s0 : State} {r : Rq} {n c : Nat} {res : State × QAns} (k : State → QAns → State) :
    res = (s2, .reserved c) → laneAns s0 x r n res k = k (escape s2 x.q.team) (.reserved c) := by
  rintro rfl
  rfl

theorem laneAns_dropped {s0 : State} {r : Rq} {n : Nat} {res : State × QAns} (k : State → QAns → State) :
    res = (s2, .dropped) → laneAns s0 x r n res k = k (escape s2 x.q.team) .dropped := by
  rintro rfl
  rfl

theorem laneAns_none {s0 : State} {r : Rq} {n : Nat} {res : State × QAns} (k : State → QAns → State) :
    res = (s2, .none') → laneAns s0 x r n res k = k (escape s2 x.q.team) .none' := by
  rintro rfl
  rfl

theorem laneAns_popped {s0 : State} {r : Rq} {n : Nat} {bs : List Byte} {res : State × QAns} (k : State → QAns → State) :
    res = (s2, .popped bs) → laneAns s0 x r n res k = k (escape s2 x.q.team) (.popped bs) := by
  rintro rfl
  rfl

theorem tryPred_eq {b : Bool} (hb : x.o.md.getLsbD 0 = b) (ok : Bool) : tryPred s x ok
    = if b = true ∧ (x.o.md.extractLsb' 1 3).toNat ≠ 7 then
        modSquad (overP s x.id (x.o.md.extractLsb' 1 3).toNat) x.id fun q =>
          { q with p := putPred q.p (x.o.md.extractLsb' 1 3).toNat x.act (if ok then 0xFFFFFFFF else 0) }
      else s := by
  rw [tryPred, hb]
  cases b with
  | false => rfl
  | true =>
    by_cases hp : (x.o.md.extractLsb' 1 3).toNat = 7
    · rw [if_pos (.inr hp), if_neg (fun h => h.2 hp)]
    · exact (if_neg (fun h => h.elim (fun h => Bool.false_ne_true h.symm) hp)).trans (if_pos (And.intro rfl hp)).symm

/-- What a pop by a lane instruction leaves, once the queue answered: the entry's words, and whether there is one. -/
def popped (x : Lx) (s : State) (bs : List Byte) (ok : Bool) : State :=
  let p := (x.o.md.extractLsb' 1 3).toNat
  let idx := match x.o.dst with | .v idx => idx.toNat | _ => 255
  let vals := mergeRegs x.q idx x.act [fun l => fieldOf bs (4 * (l % 16)) 4]
  let res : Result :=
    if x.o.md.getLsbD 0 ∧ p ≠ 7 then { dst := .vp idx 1 p, vals := vals, pval := if ok then 0xFFFFFFFF else 0 }
    else { dst := .v idx 1, vals := vals }
  finishLong s x [] [] res

/-- What a pop by a lane instruction does with the queue's answer. -/
def popAns (x : Lx) (s0 s : State) (a : QAns) : State :=
  longReady s0 x (regDst x.o.dst 1).length fun _ =>
    popped x s (match a with | .popped bs => bs | _ => zeros 64) (match a with | .popped _ => true | _ => false)

theorem lanePop_of_acquired {n : Nat} (ha : Claims.acquired s x.id x.q) :
    lanePop x s n = laneAns s x (rqSquad s x.id x.q) n (qPop s (rqSquad s x.id x.q) n (x.o.md.getLsbD 0)) (popAns x s) := by
  rw [lanePop]
  exact acquireGate_go ha _

theorem popAns_popped {s0 : State} (hi : Claims.issues s0 x (regDst x.o.dst 1).length) (bs : List Byte) :
    popAns x s0 s (.popped bs) = popped x s bs true := longReady_of_issues hi _

theorem popAns_none {s0 : State} (hi : Claims.issues s0 x (regDst x.o.dst 1).length) :
    popAns x s0 s .none' = popped x s (zeros 64) false := longReady_of_issues hi _

theorem popped_eq {b : Bool} (hb : x.o.md.getLsbD 0 = b) (bs : List Byte) (ok : Bool) : popped x s bs ok
    = finishLong s x [] []
      (if b = true ∧ (x.o.md.extractLsb' 1 3).toNat ≠ 7 then
         { dst := .vp (match x.o.dst with | .v k => k.toNat | _ => 255) 1 (x.o.md.extractLsb' 1 3).toNat
           vals := mergeRegs x.q (match x.o.dst with | .v k => k.toNat | _ => 255) x.act [fun l => fieldOf bs (4 * (l % 16)) 4]
           pval := if ok then 0xFFFFFFFF else 0 }
       else { dst := .v (match x.o.dst with | .v k => k.toNat | _ => 255) 1
              vals := mergeRegs x.q (match x.o.dst with | .v k => k.toNat | _ => 255) x.act [fun l => fieldOf bs (4 * (l % 16)) 4] }) := by
  rw [popped, hb]

theorem exec_launch_none (h : Claims.ready s id q o { gs := srcGs o.a ++ srcGs o.b }) (h0 : activeLanes q o = 0) :
    exec (.launch o) s = .next (Claims.shortState s (Claims.at_ id q (.launch o) o) [] [] {}) := by
  change execLaunch o s = _
  rw [execLaunch, laneEnter_of_ready h]
  exact congrArg _ ((if_pos h0).trans (finishShort_go _ _ room_of_nothing))

theorem exec_launch_priv (h : Claims.ready s id q o { gs := srcGs o.a ++ srcGs o.b }) (h0 : activeLanes q o ≠ 0)
    (hl : isLeader s q = false) : exec (.launch o) s = .next ((Claims.at_ id q (.launch o) o).trap s tPriv q.em) := by
  change execLaunch o s = _
  rw [execLaunch, laneEnter_of_ready h]
  exact congrArg _ ((if_neg h0).trans (if_pos hl))

/-- A launch at depth 9: its trap, or the fault of queue 0. -/
theorem exec_launch_deep (h : Claims.ready s id q o { gs := srcGs o.a ++ srcGs o.b }) (h0 : activeLanes q o ≠ 0)
    (hl : isLeader s q = true) (hd : 9 ≤ (gridOf s (teamOf s q.team)).depth) :
    (depthFault s (rqSquad s id q) = none →
      exec (.launch o) s = .next ((Claims.at_ id q (.launch o) o).trap s (depthTrap s (rqSquad s id q)).1 q.em
        (trapVals q.em fun _ => BitVec.ofNat 64 (depthTrap s (rqSquad s id q)).2)))
    ∧ (∀ k dd h p v acc, depthFault s (rqSquad s id q) = some (.fault k dd h p v acc) →
      exec (.launch o) s = .next (squadFault s id (rqSquad s id q) .exec k dd h p v acc)) := by
  change (_ → execLaunch o s = _) ∧ ∀ _ _ _ _ _ _, _ → execLaunch o s = _
  rw [execLaunch, laneEnter_of_ready h]
  have hn : ¬ isLeader s q = false := fun hf => Bool.false_ne_true (hf.symm.trans hl)
  refine ⟨fun hf => congrArg _ ((if_neg h0).trans ((if_neg hn).trans ((if_pos hd).trans ?_))),
    fun k dd h p v acc hf => congrArg _ ((if_neg h0).trans ((if_neg hn).trans ((if_pos hd).trans ?_)))⟩
  · dsimp only [Claims.at_]
    rw [hf]
  · dsimp only [Claims.at_]
    rw [hf]

theorem exec_launch_push (h : Claims.ready s id q o { gs := srcGs o.a ++ srcGs o.b }) (h0 : activeLanes q o ≠ 0)
    (hl : isLeader s q = true) (hd : (gridOf s (teamOf s q.team)).depth < 9) (hi : Claims.issues s (Claims.at_ id q (.launch o) o) 0) :
    exec (.launch o) s = .next (lanePush (Claims.at_ id q (.launch o) o) s 0
      (launchEntry (srcVal q o 0 64 o.a 0) (srcVal q o 0 64 o.b 0) (teamOf s q.team).index ((gridOf s (teamOf s q.team)).depth + 1))
      true [] []) := by
  change execLaunch o s = _
  rw [execLaunch, laneEnter_of_ready h]
  have hn : ¬ isLeader s q = false := fun hf => Bool.false_ne_true (hf.symm.trans hl)
  exact congrArg _ ((if_neg h0).trans ((if_neg hn).trans ((if_neg (Nat.not_le.mpr hd)).trans (flagRoom_of_issues hi _))))

/-- A push of register B, released, does with the queue's answer what `pushed` says. -/
theorem pushB_of_released {b : Bool} {n : Nat} {res : State × QAns} (hb : x.o.md.getLsbD 0 = b)
    (hrel : Claims.released s x.id x.q s1) (hq : qPush s1 (rqSquad s x.id x.q) n (pushEntry x.q x.o) false b (.squad x.id) = res) :
    pushB x.o x s n = laneAns s1 x (rqSquad s x.id x.q) n res (pushed x false (srcVs 32 x.o.b) (srcFrees 32 x.o.b)) := by
  refine lanePush_of_released hrel ?_
  rw [hb, Bool.not_false, Bool.and_true]
  exact hq

theorem pushed_none {b : Bool} (hb : x.o.md.getLsbD 0 = b) (reads frees : List Nat) (a : QAns) (ha : ∀ c, a ≠ .reserved c) :
    pushed x false reads frees s a = finishLong
      (if b = true ∧ (x.o.md.extractLsb' 1 3).toNat ≠ 7 then
        modSquad (overP s x.id (x.o.md.extractLsb' 1 3).toNat) x.id fun q =>
          { q with p := putPred q.p (x.o.md.extractLsb' 1 3).toNat x.act 0 }
      else s) x reads frees {} := by
  cases a with
  | reserved c => exact absurd rfl (ha c)
  | _ => exact congrArg (fun t => finishLong t x reads frees {}) (tryPred_eq hb false)

theorem pushed_reserved {b : Bool} (hb : x.o.md.getLsbD 0 = b) (reads frees : List Nat) (c : Nat) :
    pushed x false reads frees s (.reserved c) = finishLong
      (if b = true ∧ (x.o.md.extractLsb' 1 3).toNat ≠ 7 then
        modSquad (overP s x.id (x.o.md.extractLsb' 1 3).toNat) x.id fun q =>
          { q with p := putPred q.p (x.o.md.extractLsb' 1 3).toNat x.act 0xFFFFFFFF }
      else s) x reads frees { ready := false } :=
  congrArg (fun t => finishLong t x reads frees { ready := false }) (tryPred_eq hb true)

end

/-- Settles O22. -/
theorem laneQueueInstructions : Obligations.LaneQueueInstructions := by
  unfold Obligations.LaneQueueInstructions
  intro o s id q n vs fs team depth entry p
  refine ⟨?_, ?_, ?_⟩
  · intro r hr hb x hrd
    have hx := exec_of_pushes r hr hrd
    have hgo : ∀ {s1 : State} {res : State × QAns}, x.act ≠ 0 → n ≤ 1023 → Claims.issues s x 0 → Claims.released s id q s1 →
        qPush s1 (rqSquad s id q) n entry false r.2 (.squad id) = res →
        exec (r.1 o) s = .next (laneAns s1 x (rqSquad s id q) n res (pushed x false vs fs)) := fun h0 hn hi hrel hq =>
      hx.trans (congrArg _ ((queueRun_go _ h0 hn hi).trans (pushB_of_released (x := x) hb hrel hq)))
    refine ⟨fun h0 => hx.trans (congrArg _ (queueRun_of_none _ h0)), fun h0 hn => hx.trans (congrArg _ (queueRun_illop _ h0 hn)),
      fun h0 hn hi s1 s2 c hrel hq => ?_, fun h0 hn hi s1 s2 hrel => ⟨fun hq => ?_, fun c va hq => ?_, fun hq hr2 => ?_, fun hq => ?_⟩⟩
    · exact (hgo h0 hn hi hrel hq).trans (congrArg _ ((laneAns_reserved _ rfl).trans (pushed_reserved (x := x) hb vs fs c)))
    · exact (hgo h0 hn hi hrel hq).trans (congrArg _ (laneAns_wait _ rfl))
    · exact (hgo h0 hn hi hrel hq).trans (congrArg _ (laneAns_trap _ rfl))
    · refine (hgo h0 hn hi hrel hq).trans (congrArg _ ((laneAns_dropped _ rfl).trans ?_))
      refine (pushed_none (x := x) (hb.trans hr2) vs fs .dropped nofun).trans ?_
      rfl
    · exact (hgo h0 hn hi hrel hq).trans (congrArg _ ((laneAns_none _ rfl).trans (pushed_none (x := x) hb vs fs .none' nofun)))
  · intro r hr hb x dv idx words hrd
    have hx := exec_of_pops r hr hrd
    have hgo : ∀ {res : State × QAns}, x.act ≠ 0 → n ≤ 1023 → Claims.issues s x dv.length → Claims.acquired s id q →
        qPop s (rqSquad s id q) n r.2 = res →
        exec (r.1 o) s = .next (laneAns s x (rqSquad s id q) n res (popAns x s)) := fun h0 hn hi ha hq =>
      hx.trans (congrArg _ ((queueRun_go _ h0 hn hi).trans ((lanePop_of_acquired (x := x) ha).trans
        (by rw [show x.o.md.getLsbD 0 = r.2 from hb]; exact congrArg (fun a => laneAns s x (rqSquad s id q) n a (popAns x s)) hq))))
    refine ⟨fun h0 => hx.trans (congrArg _ (queueRun_of_none _ h0)), fun h0 hn => hx.trans (congrArg _ (queueRun_illop _ h0 hn)),
      fun h0 hn hi ha s2 bs hq => ?_, fun h0 hn hi ha s2 => ⟨fun hq => ?_, fun c va hq => ?_, fun hq => ?_⟩⟩
    · exact (hgo h0 hn hi ha hq).trans (congrArg _ ((laneAns_popped _ rfl).trans ((popAns_popped hi bs).trans (popped_eq (x := x) hb bs true))))
    · exact (hgo h0 hn hi ha hq).trans (congrArg _ (laneAns_wait _ rfl))
    · exact (hgo h0 hn hi ha hq).trans (congrArg _ (laneAns_trap _ rfl))
    · exact (hgo h0 hn hi ha hq).trans (congrArg _ ((laneAns_none _ rfl).trans ((popAns_none hi).trans (popped_eq (x := x) hb (zeros 64) false))))
  · intro x hrd
    refine ⟨exec_launch_none hrd, exec_launch_priv hrd, exec_launch_deep hrd, fun h0 hl hd hi s1 s2 c hrel hq => ?_⟩
    refine (exec_launch_push hrd h0 hl hd hi).trans (congrArg _ ((lanePush_of_released (x := x) hrel (res := (s2, .reserved c)) ?_).trans
      ((laneAns_reserved _ rfl).trans rfl)))
    rw [Bool.not_true, Bool.and_false]
    exact hq

end Sys2Proof.LaneProofs

/-! PROOFS. Matrix and tensor instructions of lanes (18 R433 to R448, 11 R249, R252). -/

namespace Sys2Proof.LaneProofs

open Sys2Proof Sys2Proof.Machine

section
variable {o : LaneOp} {s s1 : State} {id : Nat} {q : Squad} {x : Lx} {bad : Bool} {mis : Option Nat} {k : State}

/-! ### The checks of a matrix instruction -/

theorem matCheck_illop
    (h : x.o.unguarded = false ∨ allocated s x.q x.i = false ∨ kindsOk x.q x.i = false ∨ bad = true) :
    matCheck s x bad mis k = x.trap s tIllop x.q.em := by
  refine if_pos ?_
  simp only [Bool.or_eq_true, Bool.not_eq_true']
  tauto

theorem matCheck_go (hu : x.o.unguarded = true) (ha : allocated s x.q x.i = true) (hk : kindsOk x.q x.i = true) (hb : bad = false) :
    matCheck s x bad mis k = match mis with
      | some va => x.trap s tMisalign x.q.em (trapVals x.q.em fun _ => BitVec.ofNat 64 va)
      | none =>
        if x.q.em ≠ 0xFFFFFFFF ∨ x.q.pm ≠ 0xFFFFFFFF then x.trap s tPartial x.q.em
        else if isLost x.q x.i then x.trap s tTilelost x.q.em
        else k := by
  refine (if_neg ?_).trans ?_
  · simp [hu, ha, hk, hb]
  · cases mis <;> rfl

theorem matCheck_clear (h : Claims.clear s x) (hb : bad = false) (hm : mis = none) : matCheck s x bad mis k = k := by
  obtain ⟨hu, ha, hk, hem, hpm, hl⟩ := h
  subst hm
  rw [matCheck_go hu ha hk hb]
  exact (if_neg (by simp [hem, hpm])).trans (if_neg fun h => Bool.false_ne_true (hl.symm.trans h))

/-- An instruction that checks as every matrix instruction does is refused as the statement says. -/
theorem refuses_of_matCheck {P : Prop} (hx : exec x.i s = .next (matCheck s x bad mis k)) (hb : bad = true ↔ P) :
    Claims.refuses s x P mis := by
  rw [Claims.refuses, hx]
  refine ⟨fun h => congrArg _ (matCheck_illop (by rwa [hb])), fun hu ha hk hn => ?_⟩
  have hf : bad = false := Bool.eq_false_iff.2 fun h => hn (hb.1 h)
  rw [matCheck_go hu ha hk hf]
  refine ⟨?_, ?_⟩
  · rintro va rfl
    rfl
  · rintro rfl
    exact ⟨fun h => congrArg _ (if_pos h), fun hem hpm hl => congrArg _ ((if_neg (by simp [hem, hpm])).trans (if_pos hl))⟩

theorem matPost_of_posts {reads frees : List Nat} {regs : Nat} {res : Result} {m : MOp} {post : Squad → Squad}
    (hp : Claims.posts s x regs) (hrel : Claims.released s x.id x.q s1) :
    matPost s x reads frees regs res m post = Claims.posted s1 x reads frees res m post := by
  obtain ⟨hroom, hacq, hiss⟩ := hp
  rw [matPost]
  refine (if_neg (Nat.not_le.mpr hroom)).trans ((longReady_of_issues hiss _).trans ((acquireGate_go hacq _).trans ?_))
  exact (if_pos rfl).trans (laneRelease_of_released (x := x) hrel _)

/-- A posting without a release (18 R445). -/
theorem matPost_unordered {reads frees : List Nat} {regs : Nat} {res : Result} {m : MOp} {post : Squad → Squad}
    (hp : Claims.posts s x regs) : matPost s x reads frees regs res m post false = Claims.posted s x reads frees res m post := by
  obtain ⟨hroom, hacq, hiss⟩ := hp
  rw [matPost]
  exact (if_neg (Nat.not_le.mpr hroom)).trans ((longReady_of_issues hiss _).trans (acquireGate_go hacq _))

/-! ### Matrix instructions -/

theorem mmwr_frees (o : LaneOp) : (match o.a with | .v _ true => Claims.aRegs o 8 | _ => [])
    = (match o.a with | .v _ true => (List.range 8).map (srcIdx o.a + ·) | _ => []) := rfl

theorem exec_mmwr (h : Claims.ready s id q o { vs := Claims.aRegs o 8 }) :
    exec (.mmwr o) s = .next (matCheck s (Claims.at_ id q (.mmwr o) o) false none
      (matPost s (Claims.at_ id q (.mmwr o) o) (Claims.aRegs o 8) (match o.a with | .v _ true => Claims.aRegs o 8 | _ => []) 0 {}
        { newMop with rows := captureRegs q (srcIdx o.a) 8, dests := [(dstTile o, mmwrKind o)] })) := by
  change execMmwr o s = _
  have hv : (List.range 8).map (srcIdx o.a + ·) = Claims.aRegs o 8 := rfl
  rw [execMmwr, hv, laneEnter_of_ready h]
  rfl

theorem exec_of_matTable : ∀ r ∈ Claims.matTable, ∀ (o : LaneOp) (s : State) (id : Nat) (q : Squad),
    Claims.ready s id q o (r.uses o) →
    exec (r.make o) s = .next (matCheck s (Claims.at_ id q (r.make o) o) false none
      (matPost s (Claims.at_ id q (r.make o) o) (r.uses o).vs (r.frees o) r.regs (r.res (Claims.at_ id q (r.make o) o))
        (r.mop (Claims.at_ id q (r.make o) o)))) := by
  simp only [Claims.matTable, List.forall_mem_cons]
  refine ⟨fun o s id q h => ?_, fun o s id q h => ?_, fun o s id q h => ?_, fun o s id q h => ?_, fun o s id q h => ?_,
    fun o s id q h => ?_, fun o s id q h => ?_, fun _ h => absurd h List.not_mem_nil⟩
  · change execMmz o s = _
    rw [execMmz]
    exact laneEnter_of_ready h _ _
  · change execMmrd o s = _
    rw [execMmrd]
    exact laneEnter_of_ready h _ _
  · exact exec_mmwr h
  · change execScan o s = _
    rw [execScan]
    exact laneEnter_of_ready h _ _
  · change execCset o s = _
    rw [execCset]
    exact laneEnter_of_ready h _ _
  · change execCsetId o s = _
    rw [execCsetId]
    exact laneEnter_of_ready h _ _
  · change execCget o s = _
    rw [execCget]
    exact laneEnter_of_ready h _ _

/-- What an instruction without checks of its own is refused for, and what it posts. -/
theorem refuses_or_posts {i : Instr} {reads frees : List Nat} {regs : Nat} {res : Result} {m : MOp}
    (hx : exec i s = .next (matCheck s (Claims.at_ id q i o) false none (matPost s (Claims.at_ id q i o) reads frees regs res m))) :
    Claims.refuses s (Claims.at_ id q i o) False none
    ∧ (Claims.clear s (Claims.at_ id q i o) → Claims.posts s (Claims.at_ id q i o) regs → ∀ s1, Claims.released s id q s1 →
      exec i s = .next (Claims.posted s1 (Claims.at_ id q i o) reads frees res m)) :=
  ⟨refuses_of_matCheck (x := Claims.at_ id q i o) hx ⟨fun h => Bool.false_ne_true h, False.elim⟩, fun hc hp _ hrel =>
    hx.trans (congrArg _ ((matCheck_clear hc rfl rfl).trans (matPost_of_posts (x := Claims.at_ id q i o) hp hrel)))⟩

/-! ### `mma` -/

/-- Registers of operand A. -/
def mmaCount (o : LaneOp) : Nat := if o.a.unused then 0 else o.ty.aRegs

def mmaReads (o : LaneOp) : List Nat := Claims.aRegs o (mmaCount o) ++ srcVs 32 o.c

def mmaFrees (o : LaneOp) : List Nat :=
  (match o.a with | .v _ true => Claims.aRegs o (mmaCount o) | _ => []) ++ srcFrees 32 o.c

def mmaAddr (q : Squad) (o : LaneOp) : Nat := matAddr q o o.b % 2 ^ 32

def mmaLatch (q : Squad) (o : LaneOp) : Option (Latch × Option Latch) :=
  latchUse q o (captureRegs q (srcIdx o.a) (mmaCount o)) (lanesFrom fun l => BitVec.ofNat 32 (srcVal q o 0 32 o.c l))

def mmaPlace (s : State) (q : Squad) (o : LaneOp) : Option (Nat × Nat) :=
  matLs s q (mmaAddr q o) (bBytes o.ty + 32 * scaleBlocks o.ty)

theorem exec_mma (h : Claims.ready s id q o { vs := mmaReads o, gs := srcGs o.b }) :
    ∃ k, exec (.mma o) s = .next (matCheck s (Claims.at_ id q (.mma o) o) ((mmaLatch q o).isNone || (mmaPlace s q o).isNone)
        (if mmaAddr q o % 128 = 0 then none else some (mmaAddr q o)) k)
      ∧ ∀ l latch p, mmaLatch q o = some (l, latch) → mmaPlace s q o = some p →
        k = matPost s (Claims.at_ id q (.mma o) o) (mmaReads o) (mmaFrees o) 0 {}
          { newMop with rows := l.rows, scales := l.scales, ops := [p.1, p.2], dests := productDests q o }
          fun q => { q with latch := latch } := by
  change ∃ k, execMma o s = _ ∧ _
  rw [execMma]
  refine ⟨_, laneEnter_of_ready (u := { vs := mmaReads o, gs := srcGs o.b }) h _ _, fun l latch p hl hp => ?_⟩
  change (match mmaLatch q o, mmaPlace s q o with
    | some (l, latch), some (r, off) => _
    | _, _ => _) = _
  rw [hl, hp]
  rfl

/-! ### `mml`, `mmld` and `mmst` -/

theorem noTiset {log : List LogEntry} (h : ∀ e ∈ log, ∀ y, e.instr ≠ .tiset y) :
    ¬ (log.any fun e => match e.instr with | .tiset _ => true | _ => false) = true := by
  rw [List.any_eq_true]
  rintro ⟨e, he, ht⟩
  split at ht
  · next y hy => exact h e he y hy
  · exact Bool.false_ne_true ht

/-- The loop that `mml` posts. -/
def mmlLoop (q : Squad) (o : LaneOp) : MOp :=
  { newMop with
    dests := productDests q o
    loop := some { remain := o.imm.toNat % 8192, tida := bitsOf (srcVal q o 0 64 o.a 0) 0 10
                   tidb := bitsOf (srcVal q o 0 64 o.a 0) 16 10
                   aaddr := BitVec.ofNat 64 (srcVal q o 0 64 o.b 0)
                   baddr := BitVec.ofNat 64 (srcVal q o 0 64 o.c 0) } }

theorem exec_mml (h : Claims.ready s id q o { gs := srcGs o.a ++ srcGs o.b ++ srcGs o.c }) :
    ∃ k, exec (.mml o) s = .next (matCheck s (Claims.at_ id q (.mml o) o)
        (decide (bitsOf (srcVal q o 0 64 o.a 0) 10 6 ≠ 0 ∨ bitsOf (srcVal q o 0 64 o.a 0) 26 38 ≠ 0)) none k)
      ∧ ((∀ e ∈ q.log, ∀ y, e.instr ≠ .tiset y) → k = matPost s (Claims.at_ id q (.mml o) o) [] [] 0 {} (mmlLoop q o)) := by
  change ∃ k, execMml o s = _ ∧ _
  rw [execMml]
  exact ⟨_, laneEnter_of_ready h _ _, fun hl => if_neg (noTiset hl)⟩

/-- Where a whole tile is moved. -/
def tilePlace (s : State) (q : Squad) (o : LaneOp) : Option (Nat × Nat) := matLs s q (matAddr q o o.a) (tileBytes o.ty)

theorem moveAt_eq (s : State) (x : Lx) : moveAt s x =
    (x.o.md.getLsbD 0 && (tilePlace s x.q x.o).isNone,
     if x.o.md.getLsbD 0 = true ∨ matAddr x.q x.o x.o.a % 128 = 0 then none else some (matAddr x.q x.o x.o.a),
     if x.o.md.getLsbD 0 then ((tilePlace s x.q x.o).elim [] fun p => [p.1, p.2]) else [matAddr x.q x.o x.o.a]) := by
  simp only [moveAt, tilePlace]
  cases x.o.md.getLsbD 0 with
  | true => cases matLs s x.q (matAddr x.q x.o x.o.a) (tileBytes x.o.ty) <;> rfl
  | false => simp

theorem exec_mmld (h : Claims.ready s id q o { gs := srcGs o.a }) :
    exec (.mmld o) s = .next (matCheck s (Claims.at_ id q (.mmld o) o) (moveAt s (Claims.at_ id q (.mmld o) o)).1
      (moveAt s (Claims.at_ id q (.mmld o) o)).2.1 (matPost s (Claims.at_ id q (.mmld o) o) [] [] 0 {}
        { newMop with ops := (moveAt s (Claims.at_ id q (.mmld o) o)).2.2, dests := mmzKinds o })) := by
  change execMmld o s = _
  rw [execMmld]
  exact laneEnter_of_ready h _ _

theorem exec_mmst (h : Claims.ready s id q o { gs := srcGs o.a }) :
    exec (.mmst o) s = .next (matCheck s (Claims.at_ id q (.mmst o) o) (moveAt s (Claims.at_ id q (.mmst o) o)).1
      (moveAt s (Claims.at_ id q (.mmst o) o)).2.1
      (matPost (if o.md.getLsbD 0 then s else escape s q.team) (Claims.at_ id q (.mmst o) o) [] [] 0 {}
        { newMop with ops := (moveAt s (Claims.at_ id q (.mmst o) o)).2.2 })) := by
  change execMmst o s = _
  rw [execMmst]
  exact laneEnter_of_ready h _ _

theorem tileMove_bad (b : Bool) (p : Option (Nat × Nat)) : (b && p.isNone) = true ↔ b = true ∧ p = none := by
  cases b <;> cases p <;> simp

/-- A tile move whose place and address are right passes its own checks. -/
theorem tileMove_good {b : Bool} {p : Option (Nat × Nat)} {va : Nat} (h : if b then p ≠ none else va % 128 = 0) :
    (b && p.isNone) = false ∧ (if b = true ∨ va % 128 = 0 then none else some va) = (none : Option Nat) := by
  cases b with
  | true => cases p with
    | none => exact absurd rfl h
    | some p => exact ⟨rfl, rfl⟩
  | false => exact ⟨rfl, if_pos (.inr h)⟩

end

/-- Settles O23. -/
theorem matrixInstructions : Obligations.MatrixInstructions := by
  unfold Obligations.MatrixInstructions
  refine ⟨fun r hr o s id q => ?_, fun o s id q => ⟨?_, ?_, ?_⟩⟩
  · intro x hrd
    exact refuses_or_posts (exec_of_matTable r hr o s id q hrd)
  · intro x n vs addr use place hrd
    obtain ⟨k, hx, hk⟩ := exec_mma hrd
    refine ⟨refuses_of_matCheck (x := x) hx ?_, fun l latch p hl hp hc ha hpo s1 hrel => hx.trans (congrArg _ ?_)⟩
    · rw [Bool.or_eq_true, Option.isNone_iff_eq_none, Option.isNone_iff_eq_none]
      rfl
    · refine (matCheck_clear hc ?_ (if_pos ha)).trans ((hk l latch p hl hp).trans (matPost_of_posts (x := x) hpo hrel))
      rw [show mmaLatch q o = _ from hl, show mmaPlace s q o = _ from hp]
      rfl
  · intro x ids bad hrd
    obtain ⟨k, hx, hk⟩ := exec_mml hrd
    exact ⟨refuses_of_matCheck (x := x) hx decide_eq_true_iff, fun hb hc hp hl s1 hrel => hx.trans (congrArg _
      ((matCheck_clear hc (decide_eq_false hb) rfl).trans ((hk hl).trans (matPost_of_posts (x := x) hp hrel))))⟩
  · intro va lsForm place ops x y s' hrd
    have hx := exec_mmld hrd
    have hy := exec_mmst hrd
    rw [moveAt_eq] at hx hy
    refine ⟨⟨refuses_of_matCheck (x := x) hx (tileMove_bad ..), refuses_of_matCheck (x := y) hy (tileMove_bad ..)⟩, fun hgood => ?_⟩
    obtain ⟨hb, hm⟩ := tileMove_good hgood
    exact ⟨fun hc hp s1 hrel => hx.trans (congrArg _ ((matCheck_clear (x := x) hc hb hm).trans (matPost_of_posts (x := x) hp hrel))),
      fun hc hp s1 hrel => hy.trans (congrArg _ ((matCheck_clear (x := y) hc hb hm).trans (matPost_of_posts (x := y) hp hrel)))⟩

end Sys2Proof.LaneProofs

/-! PROOFS. `tstat`, `tiset`, `tiget` and `pfxh` (18 R445 to R448). -/

namespace Sys2Proof.LaneProofs

open Sys2Proof Sys2Proof.Machine

section
variable {o : LaneOp} {s s1 s' : State} {id : Nat} {q : Squad} {x : Lx}

/-! ### Tile status and tensor identifiers -/

theorem exec_tstat (h : Claims.ready s id q o { gs := srcGs o.a, dv := regDst o.dst 1 }) :
    exec (.tstat o) s = .next (if (Claims.at_ id q (.tstat o) o).act = 0 then finishShort s (Claims.at_ id q (.tstat o) o) [] [] {}
      else if !allocated s q (.tstat o) then (Claims.at_ id q (.tstat o) o).trap s tIllop q.em
      else matPost s (Claims.at_ id q (.tstat o) o) [] [] (regDst o.dst 1).length
        (regResult (Claims.at_ id q (.tstat o) o) o.dst 1 1 false)
        { newMop with ops := [srcUni (Claims.at_ id q (.tstat o) o) 32 o.a] } (fun q => q) false) := by
  change execTstat o s = _
  rw [execTstat]
  exact laneEnter_of_ready h _ _

/-- An access to a tensor identifier's entry that is performed issues its operation. -/
theorem tidAccess_performed {n regs : Nat} {reads frees : List Nat} {data : List Word} {res : Result} {ok : List (Nat × List Byte)}
    (hg : memGate s x.id x.q x.i (rqSquad s x.id x.q) [(BitVec.ofNat 64 (tidVa s (rqSquad s x.id x.q).slot n)).toNat] = false)
    (hi : Claims.issues s x regs)
    (h : Claims.accessed s x (rqSquad s x.id x.q) (lowLane x.act).toList
      (fun _ => BitVec.ofNat 64 (tidVa s (rqSquad s x.id x.q).slot n)) (fun _ => data) s' ok) :
    tidAccess s x n regs reads frees data res = Claims.issued s' x reads frees res ok :=
  (if_neg fun hn => Bool.false_ne_true (hg.symm.trans hn)).trans ((longReady_of_issues hi _).trans (issueAccess_done h))

/-- The words of register B that `tiset` writes. -/
def tisetWords (q : Squad) (o : LaneOp) : List Word :=
  (laneIdx.take 16).map fun l => if inMask q.pm l then BitVec.ofNat 32 (srcVal q o 0 32 o.b l) else 0

theorem exec_tiset (h : Claims.ready s id q o (usesIfAny s o { vs := srcVs 32 o.b, gs := srcGs o.a })) :
    exec (.tiset o) s = .next (if (Claims.at_ id q (.tiset o) o).act = 0 then
        finishShort s (Claims.at_ id q (.tiset o) o) [] (srcFrees 32 o.b) {}
      else if Claims.slotA (Claims.at_ id q (.tiset o) o) > 1023 then (Claims.at_ id q (.tiset o) o).trap s tIllop q.em
      else tidAccess (escape s q.team) (Claims.at_ id q (.tiset o) o) (Claims.slotA (Claims.at_ id q (.tiset o) o)) 0 (srcVs 32 o.b)
        (srcFrees 32 o.b) (tisetWords q o) {}) := by
  change execTiset o s = _
  rw [execTiset]
  exact laneEnter_of_ready h _ _

theorem exec_tiget (h : Claims.ready s id q o { gs := srcGs o.a, dv := regDst o.dst 1 }) :
    exec (.tiget o) s = .next (if (Claims.at_ id q (.tiget o) o).act = 0 then finishShort s (Claims.at_ id q (.tiget o) o) [] [] {}
      else if Claims.slotA (Claims.at_ id q (.tiget o) o) > 1023 then (Claims.at_ id q (.tiget o) o).trap s tIllop q.em
      else tidAccess s (Claims.at_ id q (.tiget o) o) (Claims.slotA (Claims.at_ id q (.tiget o) o)) (regDst o.dst 1).length [] [] []
        (regResult (Claims.at_ id q (.tiget o) o) o.dst 1 0 false)) := by
  change execTiget o s = _
  rw [execTiget]
  exact laneEnter_of_ready h _ _

/-! ### Prefix deduplication -/

theorem exec_pfxhClr (h : Claims.ready s id q o { gs := srcGs o.c }) :
    exec (.pfxhClr o) s = .next (if (Claims.at_ id q (.pfxhClr o) o).act = 0 then finishShort s (Claims.at_ id q (.pfxhClr o) o) [] [] {}
      else if srcUni (Claims.at_ id q (.pfxhClr o) o) 32 o.c > 7 then (Claims.at_ id q (.pfxhClr o) o).trap s tIllop q.em
      else longReady s (Claims.at_ id q (.pfxhClr o) o) 0 fun s =>
        finishLong (modCluster (pfxTurn s (Claims.at_ id q (.pfxhClr o) o)) (clusterOf q.core) fun c =>
          { c with pfx := mset c.pfx (srcUni (Claims.at_ id q (.pfxhClr o) o) 32 o.c) ⟨slotOf s q.team, []⟩ })
          (Claims.at_ id q (.pfxhClr o) o) [] [] {}) := by
  change execPfxhClr o s = _
  rw [execPfxhClr]
  exact laneEnter_of_ready h _ _

/-- What a `pfxh` finds: the state after it, its answers by lane, and whether one had no room or no unit. -/
def pfxFound (s : State) (x : Lx) (h : Nat) : State × List (Nat × Word × Bool) × Bool :=
  let cl := clusterOf x.q.core
  let val (c : Src) (l : Nat) : Word := BitVec.ofNat 32 (srcVal x.q x.o 0 32 c l)
  match (mget (getCluster s cl).pfx h).filter fun u => u.slot == slotOf s x.q.team with
  | some u =>
    let r := pfxLanes (val x.o.a) (val x.o.b) (lanesOf x.act) u.nodes
    (modCluster s cl fun c => { c with pfx := mset c.pfx h { u with nodes := r.1 } }, r.2.1, r.2.2)
  | none => (s, (lanesOf x.act).map fun l => (l, (0xFFFFFFFF : Word), false), true)

/-- The answer of a lane. -/
def pfxOf (rs : List (Nat × Word × Bool)) (l : Nat) : Word × Bool :=
  match rs.find? fun r => r.1 == l with | some r => r.2 | none => (0, false)

/-- The end of a `pfxh`. -/
def pfxDone (x : Lx) (f : State × List (Nat × Word × Bool) × Bool) : State :=
  let p := (x.o.md.extractLsb' 0 3).toNat
  let idx := match x.o.dst with | .v i => i.toNat | _ => 255
  let vals := mergeRegs x.q idx x.act [fun l => (pfxOf f.2.1 l).1.toNat]
  finishLong f.1 x (srcVs 32 x.o.a ++ srcVs 32 x.o.b) (srcFrees 32 x.o.a ++ srcFrees 32 x.o.b)
    (if p = 7 then { dst := .v idx 1, vals := vals }
     else { dst := .vp idx 1 p, vals := vals, pval := maskOf fun l => (pfxOf f.2.1 l).2 })
    fun q => if f.2.2 then { q with cstat := q.cstat ||| 8 } else q

/-- The uses of `pfxh`. -/
def pfxUses (o : LaneOp) : Uses :=
  { vs := srcVs 32 o.a ++ srcVs 32 o.b, gs := srcGs o.a ++ srcGs o.b ++ srcGs o.c, dv := regDst o.dst 1
    dp := some (o.md.extractLsb' 0 3).toNat }

theorem exec_pfxh (h : Claims.ready s id q o (usesIfAny s o (pfxUses o))) :
    exec (.pfxh o) s = .next (if (Claims.at_ id q (.pfxh o) o).act = 0 then
        finishShort s (Claims.at_ id q (.pfxh o) o) [] (srcFrees 32 o.a ++ srcFrees 32 o.b) {}
      else if srcUni (Claims.at_ id q (.pfxh o) o) 32 o.c > 7 then (Claims.at_ id q (.pfxh o) o).trap s tIllop q.em
      else longReady s (Claims.at_ id q (.pfxh o) o) (regDst o.dst 1).length fun s =>
        pfxDone (Claims.at_ id q (.pfxh o) o) (pfxFound (pfxTurn s (Claims.at_ id q (.pfxh o) o)) (Claims.at_ id q (.pfxh o) o)
          (srcUni (Claims.at_ id q (.pfxh o) o) 32 o.c))) := by
  change execPfxh o s = _
  rw [execPfxh]
  exact laneEnter_of_ready (u := usesIfAny s o (pfxUses o)) h _ _

theorem pfxFound_none {h : Nat} (hn : ∀ u, mget (getCluster s (clusterOf x.q.core)).pfx h = some u → u.slot ≠ slotOf s x.q.team) :
    pfxFound s x h = (s, (lanesOf x.act).map fun l => (l, (0xFFFFFFFF : Word), false), true) := by
  have hf : ((mget (getCluster s (clusterOf x.q.core)).pfx h).filter fun u => u.slot == slotOf s x.q.team) = none := by
    rw [Option.filter_eq_none_iff]
    exact fun u hu => by simpa using hn u hu
  rw [pfxFound, hf]

theorem pfxFound_some {h : Nat} {u : Pfx} (hu : mget (getCluster s (clusterOf x.q.core)).pfx h = some u)
    (hs : u.slot = slotOf s x.q.team) : pfxFound s x h =
      let r := pfxLanes (fun l => BitVec.ofNat 32 (srcVal x.q x.o 0 32 x.o.a l)) (fun l => BitVec.ofNat 32 (srcVal x.q x.o 0 32 x.o.b l))
        (lanesOf x.act) u.nodes
      (modCluster s (clusterOf x.q.core) fun c => { c with pfx := mset c.pfx h { u with nodes := r.1 } }, r.2.1, r.2.2) := by
  have hf : ((mget (getCluster s (clusterOf x.q.core)).pfx h).filter fun u => u.slot == slotOf s x.q.team) = some u := by
    rw [hu, Option.filter_some, if_pos (beq_iff_eq.2 hs)]
  rw [pfxFound, hf]

end

/-- Settles O24. -/
theorem tensorInstructions : Obligations.TensorInstructions := by
  unfold Obligations.TensorInstructions
  intro o s id q dv
  refine ⟨?_, ?_, ?_, ?_, ?_⟩
  · intro x hrd
    have hx := exec_tstat hrd
    refine ⟨fun h0 => hx.trans (congrArg _ ((if_pos h0).trans (finishShort_go _ _ room_of_nothing))),
      fun h0 ha => hx.trans (congrArg _ ((if_neg h0).trans (if_pos ?_))),
      fun h0 ha hp => hx.trans (congrArg _ ((if_neg h0).trans ((if_neg ?_).trans (matPost_unordered (x := x) hp))))⟩
    · rw [ha]; rfl
    · rw [ha]; exact Bool.false_ne_true
  · intro x vs n s1 rq va data hrd
    have hx := exec_tiset hrd
    exact ⟨fun h0 => hx.trans (congrArg _ ((if_pos h0).trans (finishShort_go _ _ room_of_nothing))),
      fun h0 hn => hx.trans (congrArg _ ((if_neg h0).trans (if_pos hn))),
      fun h0 hn hg hi s' ok hacc => hx.trans (congrArg _ ((if_neg h0).trans ((if_neg (Nat.not_lt.mpr hn)).trans
        (tidAccess_performed (x := x) hg hi hacc))))⟩
  · intro x n rq va hrd
    have hx := exec_tiget hrd
    exact ⟨fun h0 => hx.trans (congrArg _ ((if_pos h0).trans (finishShort_go _ _ room_of_nothing))),
      fun h0 hn => hx.trans (congrArg _ ((if_neg h0).trans (if_pos hn))),
      fun h0 hn hg hi s' ok hacc => hx.trans (congrArg _ ((if_neg h0).trans ((if_neg (Nat.not_lt.mpr hn)).trans
        (tidAccess_performed (x := x) hg hi hacc))))⟩
  · intro x vs fs p h cl s1 idx done hrd
    have hx := exec_pfxh hrd
    refine ⟨fun h0 => hx.trans (congrArg _ ((if_pos h0).trans (finishShort_go _ _ room_of_nothing))),
      fun h0 hn => hx.trans (congrArg _ ((if_neg h0).trans (if_pos hn))), fun h0 hn hi => ?_⟩
    have hgo : exec (.pfxh o) s = .next (pfxDone x (pfxFound s1 x h)) :=
      hx.trans (congrArg _ ((if_neg h0).trans ((if_neg (Nat.not_lt.mpr hn)).trans (longReady_of_issues hi _))))
    have hdone : ∀ f, Host.Outcome.next (pfxDone x f) = done f.1 f.2.1 f.2.2 := fun f => rfl
    have hfound : ∀ f, pfxFound s1 x h = f → exec (.pfxh o) s = done f.1 f.2.1 f.2.2 := fun f hf => by rw [hgo, hdone, hf]
    refine ⟨fun hnone => ?_, fun u hu hs => ?_⟩
    · have hend := hfound _ (pfxFound_none (x := x) hnone)
      exact hend
    · have hend := hfound _ (pfxFound_some (x := x) hu hs)
      exact hend
  · intro x h hrd
    have hx := exec_pfxhClr hrd
    exact ⟨fun h0 => hx.trans (congrArg _ ((if_pos h0).trans (finishShort_go _ _ room_of_nothing))),
      fun h0 hn => hx.trans (congrArg _ ((if_neg h0).trans (if_pos hn))),
      fun h0 hn hi => hx.trans (congrArg _ ((if_neg h0).trans ((if_neg (Nat.not_lt.mpr hn)).trans (longReady_of_issues hi _))))⟩

end Sys2Proof.LaneProofs

/-! PROOFS. Copies, reductions and `tmig` of lanes (18 R449 to R453, 17 R429). -/

namespace Sys2Proof.LaneProofs

open Sys2Proof Sys2Proof.Machine

section
variable {i : Instr} {o : LaneOp} {s s1 s2 s' : State} {id : Nat} {q : Squad} {x : Lx} {a b : Bool} {a' b' : CopyEnd}

/-! ### `cpy` and `cpys` -/

theorem exec_of_copies : ∀ r ∈ [(Instr.cpy, (o.md.extractLsb' 0 2).toNat == 1, (o.md.extractLsb' 0 2).toNat == 0), (Instr.cpys, true, true)],
    exec (r.1 o) s = laneCopy (r.1 o) o r.2.1 r.2.2 s := by
  simp only [List.forall_mem_cons]
  exact ⟨rfl, rfl, fun _ h => absurd h List.not_mem_nil⟩

/-- What a lane copy adds to its engine's queue. -/
def copyJob (s : State) (x : Lx) (n len : Nat) (a b : CopyEnd) : Copy :=
  { id := n, cluster := clusterOf x.q.core, slot := slotOf s x.q.team, team := x.q.team, squad := some x.id, tpc := x.q.pos
    em := x.q.em, instr := x.i, src := a, dst := b, len := len
    tid := if x.o.imm.getLsbD 10 then some (x.o.imm.toNat % 1024) else none
    prior := if lsOverlap a b len then
        (match a with | .ls k off => ((teamOf s x.q.team).seg k).read off len | .mem _ => []) else []
    arm := if x.o.md.getLsbD 2 then some (bitsOf x.o.imm.toNat 11 8) else none, flag := flagOf x.q x.o.fs }

/-- A lane copy that its engine takes. -/
def copyIssued (s : State) (x : Lx) (dstLs : Bool) (len : Nat) (a b : CopyEnd) : State :=
  let s2 := if dstLs then s else escape s x.q.team
  let s3 := finishLong s2 x [] [] { ready := false }
  addCopy s3 (copyJob s3 x s2.nextId len a b)

theorem laneCopy_none (h : Claims.ready s id q o { gs := srcGs o.a ++ srcGs o.b ++ srcGs o.c }) (h0 : activeLanes q o = 0) :
    laneCopy i o a b s = .next (Claims.shortState s (Claims.at_ id q i o) [] [] {}) := by
  rw [laneCopy, laneEnter_of_ready h]
  exact congrArg _ ((if_pos h0).trans (finishShort_go _ _ room_of_nothing))

theorem laneCopy_illop (h : Claims.ready s id q o { gs := srcGs o.a ++ srcGs o.b ++ srcGs o.c }) (h0 : activeLanes q o ≠ 0)
    (hl : srcVal q o 0 64 o.c 0 = 0 ∨ 2 ^ 32 ≤ srcVal q o 0 64 o.c 0) :
    laneCopy i o a b s = .next ((Claims.at_ id q i o).trap s tIllop q.em) := by
  rw [laneCopy, laneEnter_of_ready h]
  exact congrArg _ ((if_neg h0).trans (if_pos hl))

/-- A range that no team segment holds switches the lanes off. -/
theorem laneCopy_off (h : Claims.ready s id q o { gs := srcGs o.a ++ srcGs o.b ++ srcGs o.c }) (h0 : activeLanes q o ≠ 0)
    (hl : ¬ (srcVal q o 0 64 o.c 0 = 0 ∨ 2 ^ 32 ≤ srcVal q o 0 64 o.c 0))
    (hp : copyPlace s q a (srcVal q o 0 64 o.a 0) (srcVal q o 0 64 o.c 0) = none
      ∨ copyPlace s q b (srcVal q o 0 64 o.b 0) (srcVal q o 0 64 o.c 0) = none) :
    laneCopy i o a b s = .next (Claims.shortState (switchOff s id (activeLanes q o)) (Claims.at_ id q i o) [] [] {}) := by
  rw [laneCopy, laneEnter_of_ready h]
  refine congrArg _ ((if_neg h0).trans ((if_neg hl).trans ?_))
  refine Eq.trans ?_ (finishShort_go (x := Claims.at_ id q i o) [] [] room_of_nothing)
  dsimp only [Claims.at_]
  obtain hp | hp := hp
  · rw [hp]
  · rw [hp]
    cases copyPlace s q a (srcVal q o 0 64 o.a 0) (srcVal q o 0 64 o.c 0) <;> rfl

theorem laneCopy_issued (h : Claims.ready s id q o { gs := srcGs o.a ++ srcGs o.b ++ srcGs o.c }) (h0 : activeLanes q o ≠ 0)
    (hl : ¬ (srcVal q o 0 64 o.c 0 = 0 ∨ 2 ^ 32 ≤ srcVal q o 0 64 o.c 0))
    (ha : copyPlace s q a (srcVal q o 0 64 o.a 0) (srcVal q o 0 64 o.c 0) = some a')
    (hb : copyPlace s q b (srcVal q o 0 64 o.b 0) (srcVal q o 0 64 o.c 0) = some b')
    (hroom : queuedCopies s (clusterOf q.core) < 128) (hi : Claims.issues s (Claims.at_ id q i o) 0)
    (ht : o.imm.getLsbD 10 = true → ∀ e ∈ q.log, ∀ y, e.instr ≠ .tiset y) (hrel : Claims.released s id q s1) :
    laneCopy i o a b s = .next (copyIssued s1 (Claims.at_ id q i o) b (srcVal q o 0 64 o.c 0) a' b') := by
  have htn : ¬ (o.imm.getLsbD 10 && q.log.any fun e => match e.instr with | .tiset _ => true | _ => false) = true := by
    rw [Bool.and_eq_true]
    exact fun hn => noTiset (ht hn.1) hn.2
  rw [laneCopy, laneEnter_of_ready h]
  refine congrArg _ ((if_neg h0).trans ((if_neg hl).trans ?_))
  dsimp only [Claims.at_]
  rw [ha, hb]
  refine (if_neg (Nat.not_le.mpr hroom)).trans ((if_neg htn).trans ((longReady_of_issues hi _).trans ?_))
  exact laneRelease_of_released (x := Claims.at_ id q i o) hrel _

/-! ### `cred` -/

theorem exec_cred_none (h : Claims.ready s id q o { gs := srcGs o.a }) (h0 : activeLanes q o = 0) :
    exec (.cred o) s = .next (Claims.shortState s (Claims.at_ id q (.cred o) o) [] [] {}) := by
  change execCred o s = _
  rw [execCred, laneEnter_of_ready h]
  exact congrArg _ ((if_pos h0).trans (finishShort_go _ _ room_of_nothing))

/-- The address of the descriptor. -/
def credVa (q : Squad) (o : LaneOp) : Dword := BitVec.ofNat 64 (srcVal q o 0 64 o.a 0)

theorem exec_cred_misaligned (h : Claims.ready s id q o { gs := srcGs o.a }) (h0 : activeLanes q o ≠ 0)
    (hm : (credVa q o).toNat % 64 ≠ 0) : exec (.cred o) s
      = .next ((Claims.at_ id q (.cred o) o).trap s tMisalign (activeLanes q o) (trapVals (activeLanes q o) fun _ => credVa q o)) := by
  change execCred o s = _
  rw [execCred, laneEnter_of_ready h]
  exact congrArg _ ((if_neg h0).trans (if_pos hm))

theorem exec_cred_posted {bs : List Byte} (h : Claims.ready s id q o { gs := srcGs o.a }) (h0 : activeLanes q o ≠ 0)
    (hm : (credVa q o).toNat % 64 = 0) (hg : memGate s id q (.cred o) (rqSquad s id q) [(credVa q o).toNat] = false)
    (hi : Claims.issues s (Claims.at_ id q (.cred o) o) 0) (hrel : Claims.released s id q s1)
    (hr : loadRange (escape s1 q.team) (rqSquad s id q) accLoad (credVa q o).toNat 64 = (s2, .done, bs)) : exec (.cred o) s
      = .next (credPost (finishLong s2 (Claims.at_ id q (.cred o) o) [] []
          { regResult (Claims.at_ id q (.cred o) o) o.dst 0 1 true with ready := false }) s2.nextId q.team (rqSquad s id q).slot
          (rqSquad s id q).cluster bs) := by
  change execCred o s = _
  rw [execCred, laneEnter_of_ready h]
  refine congrArg _ ((if_neg h0).trans ((if_neg (fun hn => hn hm)).trans ((if_neg fun hn => Bool.false_ne_true (hg.symm.trans hn)).trans
    ((longReady_of_issues hi _).trans ((laneRelease_of_released (x := Claims.at_ id q (.cred o) o) hrel _).trans ?_)))))
  have hr' : loadRange (escape s1 (Claims.at_ id q (.cred o) o).q.team)
      (rqSquad s (Claims.at_ id q (.cred o) o).id (Claims.at_ id q (.cred o) o).q) accLoad
      (BitVec.ofNat 64 (srcVal (Claims.at_ id q (.cred o) o).q o 0 64 o.a 0)).toNat 64 = (s2, .done, bs) := hr
  dsimp only
  rw [hr']
  rfl

/-! ### `tmig` -/

/-- The predicate that `tmig` answers by. -/
def tmigResult (o : LaneOp) (ok ready : Bool) : Result :=
  { dst := if Claims.predOf o = 7 then .none else .p (Claims.predOf o), pval := if ok then 0xFFFFFFFF else 0, ready := ready }

/-- What `tmig` does for a home. -/
def tmigTo (s : State) (x : Lx) (h : Nat) : State :=
  if h ≥ 8 ∨ mayMigrate s x.q.team = false then finishLong s x [] [] (tmigResult x.o false true)
  else if x.q.core / 256 = h then finishLong s x [] [] (tmigResult x.o true true)
  else if (migrateGroup s x.q.team h).isNone then finishLong s x [] [] (tmigResult x.o false true)
  else modTeam (transit (finishLong s x [] [] (tmigResult x.o true false)) x.q.team 5) x.q.team fun t =>
    { t with state := .migrating, migTo := some (h, s.nextId) }

theorem exec_tmig (h : Claims.ready s id q o { gs := srcGs o.a }) :
    ∃ k, exec (.tmig o) s = .next (if (Claims.at_ id q (.tmig o) o).act = 0 then finishShort s (Claims.at_ id q (.tmig o) o) [] [] {}
        else if isLeader s q = false then (Claims.at_ id q (.tmig o) o).trap s tPriv q.em
        else longReady s (Claims.at_ id q (.tmig o) o) 0 k)
      ∧ (peekHome s (rqSquad s id q) (srcVal q o 0 64 o.a 0) = none →
          k s = finishLong s (Claims.at_ id q (.tmig o) o) [] [] (tmigResult o false true))
      ∧ ∀ h, peekHome s (rqSquad s id q) (srcVal q o 0 64 o.a 0) = some h → k s = tmigTo s (Claims.at_ id q (.tmig o) o) h := by
  change ∃ k, execTmig o s = _ ∧ _
  rw [execTmig]
  refine ⟨_, laneEnter_of_ready h _ _, fun hn => ?_, fun h hs => ?_⟩
  · dsimp only [Claims.at_]
    rw [hn]
    rfl
  · dsimp only [Claims.at_]
    rw [hs]
    rfl

end

/-- Settles O25. -/
theorem laneCopiesReductionsAndMigration : Obligations.LaneCopiesReductionsAndMigration := by
  unfold Obligations.LaneCopiesReductionsAndMigration
  intro o s id q len cl
  refine ⟨?_, ?_, ?_⟩
  · intro r hr x a b hrd
    have hx := exec_of_copies (s := s) r hr
    refine ⟨fun h0 => hx.trans (laneCopy_none hrd h0), fun h0 hl => hx.trans (laneCopy_illop hrd h0 hl), fun h0 hl hu => ?_⟩
    have hlen : ¬ (len = 0 ∨ 2 ^ 32 ≤ len) := by omega
    exact ⟨fun hp => hx.trans (laneCopy_off hrd h0 hlen hp),
      fun a' b' ha hb hroom hi ht s1 hrel => hx.trans (laneCopy_issued hrd h0 hlen ha hb hroom hi ht hrel)⟩
  · intro x va rq hrd
    exact ⟨exec_cred_none hrd, exec_cred_misaligned hrd,
      fun h0 hm hg hi s1 hrel s2 bs hr => exec_cred_posted hrd h0 hm hg hi hrel hr⟩
  · intro x p res home hrd
    obtain ⟨k, hx, hnone, hsome⟩ := exec_tmig hrd
    refine ⟨fun h0 => hx.trans (congrArg _ ((if_pos h0).trans (finishShort_go _ _ room_of_nothing))),
      fun h0 hl => hx.trans (congrArg _ ((if_neg h0).trans (if_pos hl))), fun h0 hl hi => ?_⟩
    have hgo : exec (.tmig o) s = .next (k s) := hx.trans (congrArg _ ((if_neg h0).trans
      ((if_neg fun hn => Bool.false_ne_true (hn.symm.trans hl)).trans (longReady_of_issues hi _))))
    refine ⟨fun hn => hgo.trans (congrArg _ (hnone hn)), fun h hs => ?_⟩
    have hto := hgo.trans (congrArg _ (hsome h hs))
    refine ⟨fun hbad => hto.trans (congrArg _ (if_pos hbad)), fun hh hm => ?_⟩
    have hok : ¬ (h ≥ 8 ∨ mayMigrate s q.team = false) := by
      rintro (h8 | hf)
      · omega
      · exact Bool.false_ne_true (hf.symm.trans hm)
    exact ⟨fun hc => hto.trans (congrArg _ ((if_neg hok).trans (if_pos hc))),
      fun hc hg => hto.trans (congrArg _ ((if_neg hok).trans ((if_neg hc).trans (if_pos (Option.isNone_iff_eq_none.2 hg))))),
      fun hc hg => hto.trans (congrArg _ ((if_neg hok).trans ((if_neg hc).trans (if_neg (mt Option.isNone_iff_eq_none.1 hg)))))⟩

end Sys2Proof.LaneProofs

/-! PROOFS. The ends of a handler (13 R296, R300, R301) and the moves of agents (07 R174, 17 R426, 02 R52, 13 R294, R297). -/

namespace Sys2Proof.LaneProofs

open Sys2Proof Sys2Proof.Machine

section
variable {i : Instr} {o : LaneOp} {s : State} {id : Nat} {q : Squad} {skip : Bool}

theorem squad_of_ready {u : Uses} (h : Claims.ready s id q o u) : mget s.squads id = some q := by
  obtain ⟨hc, _⟩ := h
  unfold curSquad at hc
  split at hc
  · next k _ =>
    obtain ⟨y, hy, hp⟩ := Option.map_eq_some_iff.1 hc
    obtain ⟨rfl, rfl⟩ := Prod.mk.injEq .. ▸ hp
    exact hy
  · exact nomatch hc

theorem modSquad_congr (hq : mget s.squads id = some q) {f g : Squad → Squad} (h : f q = g q) : modSquad s id f = modSquad s id g := by
  simp only [modSquad, mmod, hq, h]

/-- What a handler leaves depends on its squad alone. -/
theorem leaveHandler_congr (hq : mget s.squads id = some q) {team : Nat} {f g : Squad → Squad}
    (h : ∀ x : Squad, x.tpc = q.tpc → x.resume = q.resume → f x = g x) : leaveHandler s id team f = leaveHandler s id team g :=
  modSquad_congr (s := modTeam s team fun t => { t with hsq := none }) hq (h _ rfl rfl)

/-- The end of a handler whose team goes on with the next waiting squad. -/
def tretEnds (s' : State) (id team : Nat) : Host.Outcome State Fault Refusal := .next (admitNext (modSquad s' id endTrap) team)

theorem tret_illop (h : Claims.ready s id q o {})
    (hb : inHandler q = false ∨ (bitOf q.tcause.toNat 8 = false ∧ skip = true ∧ atHeader q = true)) :
    tret i o skip s = .next ((Claims.at_ id q i o).trap s tIllop q.em) := by
  rw [tret, laneEnter_of_ready h]
  by_cases hin : inHandler q = false
  · exact congrArg _ (if_pos hin)
  · obtain hb | hb := hb
    · exact absurd hb hin
    · exact congrArg _ ((if_neg hin).trans (if_pos hb))

theorem tret_precise (h : Claims.ready s id q o {}) (hin : inHandler q = true) (hd : bitOf q.tcause.toNat 8 = false)
    (hs : skip = true → atHeader q = false) :
    tret i o skip s = tretEnds (if skip then leaveHandler s id q.team fun q => backTo (q.tpc + 12) q
      else leaveHandler s id q.team fun q => keepWait (backTo q.tpc q)) id q.team := by
  rw [tret, laneEnter_of_ready h]
  have h1 : ¬ inHandler q = false := fun hn => Bool.false_ne_true (hn.symm.trans hin)
  have h2 : ¬ (bitOf q.tcause.toNat 8 = false ∧ skip = true ∧ atHeader q = true) := fun hn =>
    Bool.false_ne_true ((hs hn.2.1).symm.trans hn.2.2)
  have h3 : ¬ (bitOf q.tcause.toNat 8 = true ∧ skip = false ∧ retryFull s q = true) := fun hn =>
    Bool.false_ne_true (hd.symm.trans hn.1)
  have h4 : ¬ bitOf q.tcause.toNat 8 = true := fun hn => Bool.false_ne_true (hd.symm.trans hn)
  refine congrArg _ ((if_neg h1).trans ((if_neg h2).trans ((if_neg h3).trans ?_)))
  exact congrArg (fun t => admitNext (modSquad t id endTrap) q.team) (if_neg h4)

theorem tret_deferred (h : Claims.ready s id q o {}) (hin : inHandler q = true) (hd : bitOf q.tcause.toNat 8 = true)
    (hs : skip = false → retryFull s q = false) :
    tret i o skip s = tretEnds (if skip then abandon (leaveHandler s id q.team fun q => keepWait (backTo q.resume q)) id q
      else reissue (leaveHandler s id q.team fun q => keepWait (backTo q.resume q)) id q) id q.team := by
  rw [tret, laneEnter_of_ready h]
  have h1 : ¬ inHandler q = false := fun hn => Bool.false_ne_true (hn.symm.trans hin)
  have h2 : ¬ (bitOf q.tcause.toNat 8 = false ∧ skip = true ∧ atHeader q = true) := fun hn =>
    Bool.false_ne_true (hn.1.symm.trans hd)
  have h3 : ¬ (bitOf q.tcause.toNat 8 = true ∧ skip = false ∧ retryFull s q = true) := fun hn =>
    Bool.false_ne_true ((hs hn.2.1).symm.trans hn.2.2)
  refine congrArg _ ((if_neg h1).trans ((if_neg h2).trans ((if_neg h3).trans ?_)))
  exact congrArg (fun t => admitNext (modSquad t id endTrap) q.team) (if_pos hd)

theorem exec_of_trets : ∀ r ∈ [(Instr.tretRetry, false), (Instr.tretSkip, true)], exec (r.1 o) s = tret (r.1 o) o r.2 s := by
  simp only [List.forall_mem_cons]
  exact ⟨rfl, rfl, fun _ h => absurd h List.not_mem_nil⟩

end

/-- Settles O26. -/
theorem handlerEnds : Obligations.HandlerEnds := by
  unfold Obligations.HandlerEnds
  intro r hr o s id q x deferred back ends hrd
  have hx := exec_of_trets (o := o) (s := s) r hr
  have hq := squad_of_ready hrd
  have hback : (leaveHandler s id q.team fun x => keepWait (backTo x.resume x)) = back q.resume true :=
    leaveHandler_congr hq (team := q.team) (f := fun x => keepWait (backTo x.resume x))
      (g := fun x => keepWait (backTo q.resume x)) fun y _ hr => by rw [hr]
  have hends : ∀ {s' t'}, s' = t' → tretEnds s' id q.team = ends t' := fun h => congrArg ends h
  refine ⟨fun hb => hx.trans (tret_illop hrd hb), fun hin hd hs => ?_, fun hin hd hs ha => ?_, fun hin hd hs hf => ?_, fun hin hd hs => ?_⟩
  · refine hx.trans ((tret_precise hrd hin hd fun hn => absurd (hs.symm.trans hn) Bool.false_ne_true).trans (hends ?_))
    exact (if_neg (by rw [hs]; exact Bool.false_ne_true)).trans (leaveHandler_congr hq (team := q.team)
      (f := fun x => keepWait (backTo x.tpc x)) (g := fun x => keepWait (backTo q.tpc x)) fun y ht _ => by rw [ht])
  · refine hx.trans ((tret_precise hrd hin hd fun _ => ha).trans (hends ?_))
    exact (if_pos hs).trans (leaveHandler_congr hq (team := q.team)
      (f := fun x => backTo (x.tpc + 12) x) (g := fun x => backTo (q.tpc + 12) x) fun y ht _ => by rw [ht])
  · refine hx.trans ((tret_deferred hrd hin hd fun _ => hf).trans (hends ?_))
    exact (if_neg (by rw [hs]; exact Bool.false_ne_true)).trans (congrArg (fun t => reissue t id q) hback)
  · refine hx.trans ((tret_deferred hrd hin hd fun hn => absurd (hn.symm.trans hs) Bool.false_ne_true).trans (hends ?_))
    exact (if_pos hs).trans (congrArg (fun t => abandon t id q) hback)

end Sys2Proof.LaneProofs

namespace Sys2Proof.EventProofs

open Sys2Proof Sys2Proof.Machine

section
variable {s : State} {id : Nat} {q : Squad}

theorem runs_of {t : Team} (h : t.state = .resident) (hs : t.stopping = false) : t.runs = true := by
  simp [Team.runs, h, hs]

theorem exec_napTimeout_squad (ha : s.arg.agent = .squad id) (hq : mget s.squads id = some q) :
    exec .napTimeout s = .next (if napOver s q.wait = true then wakeSquad s id else s) := by
  change execNapTimeout s = _
  rw [execNapTimeout, ha]
  dsimp only
  rw [hq]

theorem exec_napTimeout_spine {t : Nat} {sp : Spine} (ha : s.arg.agent = .spine t) (hsp : mget s.spines t = some sp) :
    exec .napTimeout s = .next (if napOver s sp.wait = true then wakeSpine s t else s) := by
  change execNapTimeout s = _
  rw [execNapTimeout, ha]
  dsimp only
  rw [hsp]

theorem wakeSquad_nap {e : Option Nat} (hq : mget s.squads id = some q) (hw : q.wait = .nap e) :
    wakeSquad s id = modSquad s id fun q => { q with wait := .none, granted := some 1 } :=
  LaneProofs.modSquad_congr hq (by rw [hw])

theorem wakeSpine_nap {e : Option Nat} {t : Nat} {sp : Spine} (hsp : mget s.spines t = some sp) (hw : sp.wait = .nap e) :
    wakeSpine s t = modSpine s t fun sp => { sp with wait := .none, granted := some 1 } := by
  simp only [wakeSpine, modSpine, mmod, hsp, hw]

theorem napOver_nap (t : Nat) : napOver s (.nap (some t)) = decide (t ≤ s.timeNs.toNat) := rfl

theorem exec_trapEntry (ha : s.arg.agent = .squad id) (hq : mget s.squads id = some q) :
    exec .trapEntry s = .next (if q.wait = .handler ∧ (teamOf s q.team).runs = true then admitNext s q.team else s) := by
  change execTrapEntry s = _
  rw [execTrapEntry, ha]
  dsimp only
  rw [hq]

theorem exec_deferredTrapDelivery (ha : s.arg.agent = .squad id) (hq : mget s.squads id = some q) :
    exec .deferredTrapDelivery s = .next (if (teamOf s q.team).runs = true then deliverTrap s id else s) := by
  change execDeferredTrapDelivery s = _
  rw [execDeferredTrapDelivery, ha]
  dsimp only
  rw [hq]

theorem exec_resultLanding {p : POp} (hp : mget s.pops s.arg.id = some p) :
    exec .resultLanding s = .next (if p.ready = true then landPop s s.arg.id else s) := by
  change execResultLanding s = _
  rw [execResultLanding, hp]

end

/-- Settles O27. -/
theorem agentEvents : Obligations.AgentEvents := by
  unfold Obligations.AgentEvents
  intro s
  refine ⟨fun p hp => ⟨fun h => ?_, fun h => ?_⟩, fun id q ha hq => ⟨fun t hw ht => ?_, fun t hw ht => ?_, fun hw hr hs => ?_, fun hw => ?_,
    fun hr hs => ?_⟩, fun t sp ha hsp e hw ht => ?_, fun hm => ?_, fun hm => ?_⟩
  · exact (exec_resultLanding hp).trans (congrArg _ (if_pos h))
  · exact (exec_resultLanding hp).trans (congrArg _ (if_neg (by rw [h]; exact Bool.false_ne_true)))
  · refine (exec_napTimeout_squad ha hq).trans (congrArg _ ((if_pos ?_).trans (wakeSquad_nap hq hw)))
    rw [hw, napOver_nap, decide_eq_true ht]
  · refine (exec_napTimeout_squad ha hq).trans (congrArg _ (if_neg ?_))
    rw [hw, napOver_nap, decide_eq_false (Nat.not_le.mpr ht)]
    exact Bool.false_ne_true
  · exact (exec_trapEntry ha hq).trans (congrArg _ (if_pos ⟨hw, runs_of hr hs⟩))
  · exact (exec_trapEntry ha hq).trans (congrArg _ (if_neg fun h => hw h.1))
  · exact (exec_deferredTrapDelivery ha hq).trans (congrArg _ (if_pos (runs_of hr hs)))
  · refine (exec_napTimeout_spine ha hsp).trans (congrArg _ ((if_pos ?_).trans (wakeSpine_nap hsp hw)))
    rw [hw, napOver_nap, decide_eq_true ht]
  · exact congrArg _ (if_pos (List.contains_iff_mem.2 hm))
  · exact congrArg _ (if_neg (mt List.contains_iff_mem.1 hm))

end Sys2Proof.EventProofs

/-! PROOFS. Issue selection, ejection, the former's groups and forming (06 R147, 09 R209 to R215). -/

namespace Sys2Proof.EventProofs

open Sys2Proof Sys2Proof.Machine

section
variable {s s' : State} {id : Nat} {q : Squad}

/-! ### Issue selection -/

/-- The squads of the slot's partition. -/
def atSlot (s : State) (q : Squad) : Bool := q.core == s.arg.core && q.part == s.arg.part

/-- The squad that the slot chooses. -/
def slotChoice (s : State) : Option (Nat × Squad) :=
  slotWinner s (getDie s (s.arg.core / 256)).agemax.toNat (s.squads.filter fun x => atSlot s x.2 && eligible s x.1 x.2)

theorem issueSlot_taken (h : ∃ x ∈ s.squads, atSlot s x.2 = true ∧ x.2.held = some s.arg.issueSlot) :
    Claims.still .issueSlotSelect s := by
  refine congrArg _ (if_pos (List.any_eq_true.2 ?_))
  obtain ⟨x, hx, ha, hh⟩ := h
  exact ⟨x, hx, Bool.and_eq_true_iff.2 ⟨ha, beq_iff_eq.2 hh⟩⟩

theorem issueSlot_free (h : ∀ x ∈ s.squads, atSlot s x.2 = true → x.2.held ≠ some s.arg.issueSlot) :
    (slotChoice s = none → Claims.still .issueSlotSelect s)
    ∧ ∀ id q, slotChoice s = some (id, q) → exec .issueSlotSelect s = .next (if q.inVolley = true then
        modSquad s id fun q => { q with held := some s.arg.issueSlot, wait := .none, wonAt := clk s (q.core / 256) }
      else enterVolley s id q s.arg.issueSlot) := by
  have hn : ¬ (s.squads.any fun x => atSlot s x.2 && x.2.held == some s.arg.issueSlot) = true := by
    rw [List.any_eq_true]
    rintro ⟨x, hx, hc⟩
    obtain ⟨ha, hh⟩ := Bool.and_eq_true_iff.1 hc
    exact h x hx ha (beq_iff_eq.1 hh)
  change (_ → execIssueSlotSelect s = _) ∧ ∀ _ _, _ → execIssueSlotSelect s = _
  rw [execIssueSlotSelect]
  refine ⟨fun hw => congrArg _ ((if_neg hn).trans ?_), fun id q hw => congrArg _ ((if_neg hn).trans ?_)⟩
  · change (match slotChoice s with | none => s | some (id, q) => _) = s
    rw [hw]
  · change (match slotChoice s with | none => _ | some (id, q) => _) = _
    rw [hw]

/-! ### Ejection -/

/-- The lanes that leave. -/
def ejectLanes (e : Eject) : Word := maskOf fun l => e.out.any fun p => p.1 == l

/-- Registers after an ejection. -/
def ejectRegs (q : Squad) (e : Eject) : FMap VReg := mapRegs (e.frees.foldl mdel q.v) e.link

/-- Records of the threads that leave. -/
def ejectRecords (q : Squad) (e : Eject) (places : List Nat) : List ThreadRec :=
  ((originOrder q e.out).zip places).map fun p =>
    laneRecord q e.kind (ejectRegs q e) p.1.1 p.2 (recordUnits (ejectRegs q e).length) p.1.2

/-- The squad after an ejection whose records are written. -/
def ejected (s' : State) (id : Nat) (q : Squad) (e : Eject) (recs : List ThreadRec) : State :=
  let s1 := drainAgent s' (.squad id)
  let m := ejectLanes e
  settleExit
    (modSquad (modTeam s1 q.team fun t =>
        { t with groups := recs.foldl (fun gs r => arriveRecord q.core (clk s1 (q.core / 256)) r gs) t.groups }) id fun q' =>
      { q' with v := ejectRegs q e, pm := q'.pm &&& ~~~m, em := q'.em &&& ~~~m, marks := q'.marks &&& ~~~m, eject := none
                wait := .none, pos := e.stay.getD (q'.pos + 12), inVolley := false, held := none, granted := none
                arrived := false, code := [] }) id

theorem ejection_waits {e : Eject} (hq : mget s.squads s.arg.id = some q) (he : q.eject = some e)
    (hw : ejectWaits s s.arg.id q = true) : Claims.still .threadEjection s := by
  change execThreadEjection s = _
  rw [execThreadEjection, hq]
  dsimp only
  rw [he]
  exact congrArg _ (if_pos hw)

theorem ejection_performed {e : Eject} {places : List Nat} (hq : mget s.squads s.arg.id = some q) (he : q.eject = some e)
    (hw : ejectWaits s s.arg.id q = false) (hg : growCheck s s.arg.id q (linkRows e.link) = .ok)
    (hp : spawnRoom s q e.frees e.link e.out.length = some places)
    (hr : writeRecords (rqDevice s (q.core / 256) (slotOf s q.team)) (spawnVa s q.team) (ejectRecords q e places) s = (s', none)) :
    exec .threadEjection s = .next (ejected s' s.arg.id q e (ejectRecords q e places)) := by
  change execThreadEjection s = _
  rw [execThreadEjection, hq]
  dsimp only
  rw [he]
  refine congrArg _ ((if_neg fun hn => Bool.false_ne_true (hw.symm.trans hn)).trans ((if_neg fun hn => hn.2 hg).trans ?_))
  rw [hp]
  change (match writeRecords (rqDevice s (q.core / 256) (slotOf s q.team)) (spawnVa s q.team) (ejectRecords q e places) s with
    | (s1, some (va, bs, a)) => _
    | (s, none) => _) = _
  rw [hr]
  rfl

/-- An ejection waits for another squad's handler and for what its lanes and accesses await. -/
theorem ejectWaits_of (h : ((teamOf s q.team).hsq.isSome ∧ (teamOf s q.team).hsq ≠ some q.index) ∨ pendingLanes q ≠ []
    ∨ waitingAccesses s id q ≠ []) : ejectWaits s id q = true := by
  simp only [ejectWaits, Bool.or_eq_true, Bool.and_eq_true, Bool.not_eq_true', List.isEmpty_eq_false_iff, bne_iff_ne]
  tauto

theorem ejectWaits_not (hr : (teamOf s q.team).state = .resident) (hs : (teamOf s q.team).stopping = false)
    (hh : (teamOf s q.team).hsq = none ∨ (teamOf s q.team).hsq = some q.index) (hp : pendingLanes q = [])
    (ha : waitingAccesses s id q = []) (hw : ∀ r ∈ s.reqs, r.who ≠ .squad id 0) : ejectWaits s id q = false := by
  have hreqs : (s.reqs.any fun r => r.who == .squad id 0) = false :=
    List.any_eq_false.2 fun r hr h => hw r hr (beq_iff_eq.1 h)
  have hsq : ((teamOf s q.team).hsq.isSome && (teamOf s q.team).hsq != some q.index) = false := by
    obtain h | h := hh <;> simp [h]
  rw [ejectWaits, runs_of hr hs, hp, ha, hreqs, hsq]
  rfl

/-! ### Forming -/

theorem squadForm_of_formed {g : Group} {before after : List Group} (hr : (teamOf s s.arg.id).state = .resident)
    (hs : (teamOf s s.arg.id).stopping = false) (hh : (teamOf s s.arg.id).hsq = none)
    (hd : dueGroups s s.arg.id s.arg.core = before ++ g :: after) (hb : ∀ x ∈ before, formGroup s s.arg.id s.arg.core x = none)
    (hg : formGroup s s.arg.id s.arg.core g = some s') : exec .squadForm s = .next s' := by
  refine congrArg _ ((if_neg ?_).trans ?_)
  · simp [hr, hs, hh]
  · rw [hd, List.findSome?_append, List.findSome?_eq_none_iff.2 hb, Option.none_or, List.findSome?_cons, hg]
    rfl

variable {team core slot index : Nat} {g : Group} {s1 s2 : State} {recs : List ThreadRec}

theorem formGroup_fault {va n : Nat} {a : Acc} (hslot : lowestFree (usedSlots s core (bestPart (freeSlots s core))) 8 = some slot)
    (hi : formedIndex s team = some index)
    (hr : readRecords (rqDevice s (core / 256) (slotOf s team)) (spawnVa s team) g.recs.zipIdx s = (s1, recs, some (va, n, a))) :
    formGroup s team core g = readFails s (rqDevice s (core / 256) (slotOf s team)) va n a := by
  simp only [formGroup, hslot, hi, hr]

/-- Rows that a group's registers take. -/
def formRows (recs : List ThreadRec) : Nat := ((formRegs (placeLanes recs)).map fun x => shapeRows x.2.val).sum

theorem formRows_eq (recs : List ThreadRec) :
    (formRegs (placeLanes recs)).foldl (fun n x => n + shapeRows x.2.val) 0 = formRows recs :=
  (foldl_add_sum _ _ _).trans (Nat.zero_add _)

/-- The squad that a group becomes. -/
def formed (s : State) (team core slot : Nat) (recs : List ThreadRec) (q : Squad) : Squad :=
  { formSquad (placeLanes recs) (teamOf s team).barPhase q with
    core := core, part := bestPart (freeSlots s core), slot := slot, wonAt := clk s (core / 256) }

/-- The group leaves its former. -/
def ungrouped (s1 : State) (team : Nat) (g : Group) : State :=
  modTeam s1 team fun t => { t with groups := t.groups.filter fun x => x != g }

theorem formGroup_new {r : ThreadRec} (hslot : lowestFree (usedSlots s core (bestPart (freeSlots s core))) 8 = some slot)
    (hi : formedIndex s team = some index)
    (hr : readRecords (rqDevice s (core / 256) (slotOf s team)) (spawnVa s team) g.recs.zipIdx s = (s1, recs, none))
    (hhead : recs.head? = some r) (hk : keptSquad s team g.recs = none)
    (hroom : formRows recs ≤ freePool s core (bestPart (freeSlots s core))) :
    formGroup s team core g = some { ungrouped s1 team g with
      nextId := s1.nextId + 1
      squads := mset (ungrouped s1 team g).squads s1.nextId
        (formed s team core slot recs { freshSquad s team index r.tpc with originIdx := false }) } := by
  obtain ⟨rest, rfl⟩ := List.head?_eq_some_iff.1 hhead
  simp only [formGroup, hslot, hi, hr, hk, formRows_eq]
  exact if_neg (Nat.not_lt.mpr hroom)

/-- The origin squad that takes its threads up again. -/
def reformed (s : State) (team core slot : Nat) (recs : List ThreadRec) (q : Squad) (tpc : Word) : Squad :=
  formed s team core slot recs { freshSquad s team q.index tpc with
    g := q.g, f := q.f, cstat := q.cstat, lfm := q.lfm, fpmode := q.fpmode, tiles := q.tiles, carries := q.carries
    latch := q.latch, traps := q.traps, unseen := q.unseen }

theorem formGroup_kept {r : ThreadRec} {id : Nat} {q : Squad} (hslot : lowestFree (usedSlots s core (bestPart (freeSlots s core))) 8 = some slot)
    (hi : formedIndex s team = some index)
    (hr : readRecords (rqDevice s (core / 256) (slotOf s team)) (spawnVa s team) g.recs.zipIdx s = (s1, recs, none))
    (hhead : recs.head? = some r) (hk : keptSquad s team g.recs = some (id, q))
    (hroom : Nat.max (formRows recs) (lrOf s team).rows ≤ freePool s core (bestPart (freeSlots s core))) :
    formGroup s team core g = some (
      let s2 := ungrouped s1 team g
      let x := reformed s team core slot recs q r.tpc
      let s3 := { s2 with away := mdel s2.away id, squads := mset s2.squads id x }
      let due := arrivals (teamOf s3 team).trapNo q.traps
      modSquad (trapArrives s3 id x due.length) id fun q => { q with traps := due }) := by
  obtain ⟨rest, rfl⟩ := List.head?_eq_some_iff.1 hhead
  simp only [formGroup, hslot, hi, hr, hk, formRows_eq]
  exact if_neg (Nat.not_lt.mpr hroom)

end

/-- Settles O28. -/
theorem squadEvents : Obligations.SquadEvents := by
  unfold Obligations.SquadEvents
  intro s
  refine ⟨⟨issueSlot_taken, fun hfree => ?_⟩, fun q e hq he => ⟨?_, ?_⟩, rfl, ?_⟩
  · obtain ⟨hnone, hsome⟩ := issueSlot_free hfree
    exact ⟨hnone, fun id q hw => ⟨fun hv => (hsome id q hw).trans (congrArg _ (if_pos hv)),
      fun hv => (hsome id q hw).trans (congrArg _ (if_neg (by rw [hv]; exact Bool.false_ne_true)))⟩⟩
  · exact fun h => ejection_waits hq he (ejectWaits_of h)
  · intro hr hs hh hp ha hw hg places s' hspawn recs hwr
    exact ejection_performed hq he (ejectWaits_not hr hs hh hp ha hw) hg hspawn hwr
  · intro team core t part hr hs hh before g after hd hb slot index hslot hi rq
    refine ⟨fun s1 recs va n a s2 hrd hf => ?_, fun s1 recs hrd r hhead => ⟨fun hk hroom => ?_, fun id q hk hroom => ?_⟩⟩
    · exact squadForm_of_formed hr hs hh hd hb ((formGroup_fault hslot hi hrd).trans hf)
    · exact squadForm_of_formed hr hs hh hd hb (formGroup_new hslot hi hrd hhead hk hroom)
    · exact squadForm_of_formed hr hs hh hd hb (formGroup_kept hslot hi hrd hhead hk hroom)

end Sys2Proof.EventProofs

/-! PROOFS. Copies, reductions and queue entries (18 R452 to R456, 05 R107, R111). -/

namespace Sys2Proof.EventProofs

open Sys2Proof Sys2Proof.Machine

section
variable {s s1 s2 s3 : State}

theorem exec_credArrival_sound {c : Cred} {ba bb record : List Byte} {a b : Tid} {h : Nat} {x1 x2 : Acc}
    (hc : (s.creds.find? fun c => c.id == s.arg.id && !credParked s c.id
      && !(s.rgroups.any fun g => g.arrived.any fun x => x.cred == c.id)) = some c)
    (hf : credFields c.desc = true) (h1 : entryRead s (rqCred s c.cluster c.slot) (fieldOf c.desc 8 2) = (s1, .bytes ba, x1))
    (h2 : entryRead s1 (rqCred s c.cluster c.slot) (fieldOf c.desc 10 2) = (s2, .bytes bb, x2))
    (hid : credIds c.desc (.bytes ba) (.bytes bb) = some (a, b)) (hh : peekHome s2 (rqCred s c.cluster c.slot) (cGroup c.desc) = some h)
    (hhome : h < 8 ∨ h = 15) (hl : loadRange s2 (rqCred s c.cluster c.slot) accLoad (cGroup c.desc) 64 = (s3, .done, record)) :
    exec .credArrival s = .next (closeIfFull (joinGroup s3 c h record a b ba bb) c.slot (BitVec.ofNat 64 (cGroup c.desc))) := by
  change execCredArrival s = _
  rw [execCredArrival, hc]
  refine congrArg _ ((if_neg (by rw [hf]; exact Bool.false_ne_true.symm)).trans ?_)
  rw [h1]
  dsimp only
  rw [h2]
  dsimp only
  rw [hid]
  dsimp only
  rw [hh]
  refine (if_neg (by omega)).trans ?_
  rw [hl]

end

/-- Settles O30. -/
theorem copyAndReductionEvents : Obligations.CopyAndReductionEvents := by
  unfold Obligations.CopyAndReductionEvents
  intro s
  refine ⟨fun c hc => ?_, fun c hc t ht => ?_, fun c hc => ⟨fun hf => ?_, fun hf => ?_⟩, fun g hg => ?_, fun c hc => ?_⟩
  · change execCopyComplete s = _
    rw [execCopyComplete, hc]
  · have hx : exec .ecbDecode s = .next (if t.ecb = true then copyUnit s c else s) := by
      change execEcbDecode s = _
      rw [execEcbDecode, hc]
      dsimp only
      rw [ht]
    exact ⟨fun he => hx.trans (congrArg _ (if_pos he)), fun he => hx.trans (congrArg _ (if_neg (by rw [he]; exact Bool.false_ne_true)))⟩
  · change execCredArrival s = _
    rw [execCredArrival, hc]
    exact congrArg _ (if_pos hf)
  · intro r va s1 s2 s3 ba bb a b h record x1 x2 h1 h2 hid hh hhome hl
    exact exec_credArrival_sound hc hf h1 h2 hid hh hhome hl
  · change execCredDeadline s = _
    rw [execCredDeadline, hg]
  · change execCredLostTimeout s = _
    rw [execCredLostTimeout, hc]

section
variable {s s1 s2 : State}

/-- A reserved entry whose turn it is: the state in which it has left the reservations, and its queue's block. -/
def committed (s2 : State) (r : Resv) (t : TInfo) (q : Qcb) : State :=
  let s3 := qWrite s2 t (ctxAsid s2 r.slot) (qcbVa s2 r.slot r.q) (qSet q 10 2 (qTail q + 1))
  { s3 with resvs := s3.resvs.filter fun x => x.id != r.id }

theorem gridDone_none {n : Nat} (h : gridOfPush s n = none) :
    (match gridOfPush s n with | some (g, st) => gridFinish s g st | none => s) = s := by
  rw [h]

theorem commit_of_queue {r : Resv} {f : Nat → State} (h : r.q ≠ 0) :
    (match r.q, r.who with | 0, .spine team => f team | _, _ => s) = s := by
  split
  · next hq _ => exact absurd hq h
  · rfl

theorem commit_of_launch {r : Resv} {f : Nat → State} {team : Nat} (h : r.q = 0) (hw : r.who = .spine team) :
    (match r.q, r.who with | 0, .spine team => f team | _, _ => s) = f team := by
  rw [h, hw] <;> rfl

theorem queueCommit_open {r : Resv} {t : TInfo} {q : Qcb} (hr : (s.resvs.find? fun r => r.id == s.arg.id) = some r)
    (ho : qOpen s 0 r.slot (ctxAsid s r.slot) (qcbVa s r.slot r.q) accStore = (s1, .ok t))
    (hq : qRead s1 t (ctxAsid s r.slot) (qcbVa s r.slot r.q) = (s2, q)) :
    (qTail q ≠ r.at_.toNat → queueCommit s s.arg.id = s)
    ∧ (qTail q = r.at_.toNat →
      let q' := qSet q 10 2 (qTail q + 1)
      let s3 := qWrite s2 t (ctxAsid s r.slot) (qcbVa s r.slot r.q) q'
      let s4 := { s3 with resvs := s3.resvs.filter fun x => x.id != r.id }
      ∀ s5, (match r.q, r.who with
          | 0, .spine team =>
            modTeam { s4 with launchers := mset s4.launchers (65536 * r.slot + r.at_.toNat) (.team team) } team fun t =>
              { t with children := t.children + 1 }
          | _, _ => s4) = s5 → gridOfPush s5 r.id = none →
        queueCommit s s.arg.id = landPop (qCommitted s5 r.slot r.q q' r.who) r.id) := by
  rw [queueCommit, hr]
  dsimp only
  rw [ho]
  dsimp only
  rw [hq]
  refine ⟨fun hn => if_neg hn, fun ht s5 hs hg => (if_pos ht).trans ?_⟩
  refine Eq.trans ?_ (congrArg (fun x => landPop (qCommitted x r.slot r.q (qSet q 10 2 (qTail q + 1)) r.who) r.id) (gridDone_none hg))
  exact congrArg (fun x => landPop (qCommitted (match gridOfPush x r.id with | some (g, st) => gridFinish x g st | none => x)
    r.slot r.q (qSet q 10 2 (qTail q + 1)) r.who) r.id) hs

theorem exec_deviceQueuePush {p : DPush} (hp : (s.dpush.find? fun p => p.id == s.arg.id && firstPush s p) = some p) :
    exec .deviceQueuePush s = .next (if (p.bySvp && s.svpFrozen) = true then s else
      match devicePushTry s p.slot p.q p.entry p.launch.isSome with
      | none => s
      | some (s1, made) =>
        match p.launch with
        | none => pushDone s1 p made s.nextId
        | some c => launchPushed (pushDone s1 p made s.nextId) p c made s.nextId) := by
  change execDeviceQueuePush s = _
  rw [execDeviceQueuePush, hp] <;> rfl

/-- The first element that passes a test passes a stricter one first, if it passes it. -/
theorem find?_and_of_find? {α : Type} {l : List α} {p q : α → Bool} {a : α} (h : l.find? p = some a) (hq : q a = true) :
    (l.find? fun x => p x && q x) = some a := by
  obtain ⟨hp, before, after, hl, hb⟩ := List.find?_eq_some_iff_append.1 h
  refine List.find?_eq_some_iff_append.2 ⟨by rw [hp, hq]; rfl, before, after, hl, fun x hx => ?_⟩
  have hx := hb x hx
  rw [Bool.not_eq_true'] at hx ⊢
  rw [hx, Bool.false_and]

/-- The push that an event names, where it is the only one of its number. -/
theorem findPush {p : DPush} (h : (s.dpush.filter fun p => p.id == s.arg.id) = [p]) :
    (s.dpush.find? fun p => p.id == s.arg.id && firstPush s p) = if firstPush s p then some p else none := by
  calc _ = (s.dpush.filter fun p => p.id == s.arg.id).find? (firstPush s) := by
        rw [List.find?_filter]
        exact congrArg (s.dpush.find? ·) (funext fun a => by simp only [Bool.decide_and, Bool.decide_eq_true])
    _ = _ := by
      rw [h]
      cases hf : firstPush s p <;> simp [hf]

end

/-- Settles O31. -/
theorem queueEvents : Obligations.QueueEvents := by
  unfold Obligations.QueueEvents
  intro s
  refine ⟨fun r hr => ?_, fun p hp => ⟨fun hf h1 => ?_, fun hb hz h1 => ?_, fun hf hz => ?_⟩⟩
  · intro asid va s1 s2 t q ho hq
    obtain ⟨hstill, hturn⟩ := queueCommit_open hr ho hq
    refine ⟨fun hn => congrArg _ (hstill hn), fun ht => ?_⟩
    exact ⟨fun hq0 hg => congrArg _ (hturn ht _ (commit_of_queue hq0) hg),
      fun team hq0 hw hg => congrArg _ (hturn ht _ (commit_of_launch hq0 hw) hg)⟩
  · change execDeviceQueuePush s = _
    rw [execDeviceQueuePush, findPush h1, hf] <;> rfl
  · change execDeviceQueuePush s = _
    rw [execDeviceQueuePush, findPush h1]
    cases hf : firstPush s p with
    | true => exact congrArg _ (if_pos (by rw [hb, hz]; rfl))
    | false => rfl
  · have hfind := find?_and_of_find? hp hf
    have hgo : ¬ (p.bySvp && s.svpFrozen) = true := by
      obtain h | h := hz <;> simp [h]
    have hx := (exec_deviceQueuePush hfind).trans (congrArg _ (if_neg hgo))
    refine ⟨fun hn => hx.trans ?_, fun s1 made hm => ⟨fun hl => hx.trans ?_, fun c hl => hx.trans ?_⟩⟩
    · rw [hn]
    · rw [hm]
      dsimp only
      rw [hl]
    · rw [hm]
      dsimp only
      rw [hl]

end Sys2Proof.EventProofs

/-! PROOFS. Coherence: drains, fills, ownership, write-backs, recalls and announcements (02 R32, R34, R36, R39, R40). -/

namespace Sys2Proof.EventProofs

open Sys2Proof Sys2Proof.Machine

section
variable {s s1 : State} {die slot va : Nat} {asid : Half} {t : TInfo} {h : Holder} {own : Bool}

theorem ite_false_of {α : Sort*} {b : Bool} {x y : α} (hb : b = false) : (if b = true then x else y) = y :=
  if_neg (by rw [hb]; exact Bool.false_ne_true)

/-! ### A holder obtains a grain -/

theorem obtain_of_fillable (hd : holderDie h = some die) (hs : slotOfAsid s asid = some slot) (hm : mayHold h (t.home va) = true)
    (hf : Claims.fillable s die slot own asid va s1 t) :
    obtain s h own asid va = if (h == l2Of (t.home va)) = true then homeObtains s1 t own asid va else holderObtains s1 h t own asid va := by
  obtain ⟨hr, hn, hmxa, he, hb, ha⟩ := hf
  rw [obtain, hd, hs]
  dsimp only
  rw [hr]
  refine (if_neg ?_).trans (ite_false_of hb)
  rintro (h | h | h | h | h)
  · exact Bool.false_ne_true (h.symm.trans hn)
  · obtain ⟨ho, hx⟩ := Bool.and_eq_true_iff.1 h
    exact Bool.false_ne_true ((hmxa ho).symm.trans hx)
  · exact Bool.false_ne_true (h.symm.trans hm)
  · exact Bool.false_ne_true (he.symm.trans h)
  · exact Bool.false_ne_true (ha.symm.trans h)

theorem obtain_above (hd : holderDie h = some die) (hs : slotOfAsid s asid = some slot) (hm : mayHold h (t.home va) = true)
    (hf : Claims.fillable s die slot own asid va s1 t) (hh : h ≠ l2Of (t.home va)) :
    obtain s h own asid va = holderObtains s1 h t own asid va :=
  (obtain_of_fillable hd hs hm hf).trans (if_neg fun he => hh (beq_iff_eq.1 he))

theorem obtain_home (hd : holderDie h = some die) (hs : slotOfAsid s asid = some slot) (hm : mayHold h (t.home va) = true)
    (hf : Claims.fillable s die slot own asid va s1 t) (hh : h = l2Of (t.home va)) :
    obtain s h own asid va = homeObtains s1 t own asid va :=
  (obtain_of_fillable hd hs hm hf).trans (if_pos (beq_iff_eq.2 hh))

/-- A read without a copy takes a shared one. -/
theorem holderObtains_shared (hg : findGrain s h asid va = none) : holderObtains s h t false asid va =
    let grain := leafGrain t.leaf
    let r := homeGrain (downgradeOthers (snoop s (some h) (t.home va)) (some h) asid (va / grain * grain) grain) h t asid va
    putCopy r.1 r.2 := by
  rw [holderObtains, if_neg Bool.false_ne_true, hg]
  exact if_neg Bool.false_ne_true

/-! ### Write-backs -/

theorem exec_writeBack {g : Grain} (hg : findGrain s s.arg.holder s.arg.asid s.arg.va.toNat = some g) :
    exec .writeBack s = .next (if (g.st != .modified) = true ∨ (g.cnt != .plain) = true ∨ (g.holder == .host) = true then s
      else seatGrain (flushGrain s g) { g with st := .exclusive, dirty := 0 }) := by
  change execWriteBack s = _
  rw [execWriteBack, hg]

/-! ### Announcements -/

/-- A holder's copy suffices for what it asks. -/
def enough (own : Bool) : Option Grain → Bool
  | some g => g.cnt != .drained && (g.owned || !own)
  | none => false

theorem exec_snoopRequest {d : Nat} (hd : holderDie s.arg.holder = some d) :
    exec .snoopRequest s = .next (if enough s.arg.own (findGrain s s.arg.holder s.arg.asid s.arg.va.toNat) = true then s
      else { s with announces := s.announces ++
        [{ die := d, requester := s.arg.holder, own := s.arg.own, asid := s.arg.asid, va := s.arg.va }] }) := by
  change execSnoopRequest s = _
  rw [execSnoopRequest]
  dsimp only
  rw [hd]
  rfl

theorem exec_announcementAccept {d : Nat} (hd : holderDie s.arg.holder = some d) :
    exec .announcementAccept s = .next (if s.announces.countP (fun x => x.die == d && x.acceptedAt == some (clk s d)) ≥ 16 then s
      else { s with announces := acceptFirst (announceIs s.arg) (clk s d) s.announces }) := by
  change execAnnouncementAccept s = _
  rw [execAnnouncementAccept, hd, List.countP_eq_length_filter]

theorem dueAnnounces_eq (s : State) (d : Nat) : dueAnnounces s d
    = s.announces.filter fun x => x.die == d && x.acceptedAt.any fun t => decide (t + 24 ≤ clk s d) :=
  List.filter_congr fun x _ => by cases x.acceptedAt <;> rfl

/-- The announcement that is before all others in its die's order is the first. -/
theorem foldl_first (x : Announce) (xs : List Announce) : ∀ a : Announce, x ∈ a :: xs →
    (∀ y ∈ a :: xs, y = x ∨ announceKey x < announceKey y) →
    xs.foldl (fun a b => if announceKey b < announceKey a then b else a) a = x := by
  induction xs with
  | nil => exact fun a hx _ => (List.mem_singleton.1 hx).symm
  | cons b xs ih =>
    intro a hx hmin
    rw [List.foldl_cons]
    have ha := hmin a List.mem_cons_self
    have hb := hmin b (List.mem_cons_of_mem _ List.mem_cons_self)
    have hrest : ∀ y ∈ xs, y = x ∨ announceKey x < announceKey y := fun y hy => hmin y (by simp [hy])
    refine ih _ ?_ ?_
    · by_cases hlt : announceKey b < announceKey a
      · rw [if_pos hlt]
        rcases List.mem_cons.1 hx with rfl | hx
        · obtain rfl | hb := hb
          · exact absurd hlt (lt_irrefl _)
          · exact absurd hlt (by omega)
        · exact hx
      · rw [if_neg hlt]
        rcases List.mem_cons.1 hx with rfl | hx
        · exact List.mem_cons_self
        · rcases List.mem_cons.1 hx with rfl | hx
          · obtain rfl | ha := ha
            · exact List.mem_cons_self
            · exact absurd ha hlt
          · exact List.mem_cons_of_mem _ hx
    · intro y hy
      rcases List.mem_cons.1 hy with rfl | hy
      · split
        · exact hb
        · exact ha
      · exact hrest y hy

theorem exec_announcementDelivery_first {x : Announce} (hx : x ∈ dueAnnounces s s.arg.die.toNat)
    (hmin : ∀ y ∈ dueAnnounces s s.arg.die.toNat, y = x ∨ announceKey x < announceKey y) :
    exec .announcementDelivery s = .next (obtain { s with announces := s.announces.erase x } x.requester x.own x.asid x.va.toNat) := by
  change execAnnouncementDelivery s = _
  rw [execAnnouncementDelivery]
  cases hd : dueAnnounces s s.arg.die.toNat with
  | nil => exact absurd (hd ▸ hx) List.not_mem_nil
  | cons a xs =>
    rw [hd] at hx hmin
    dsimp only
    rw [hd]
    dsimp only
    rw [foldl_first x xs a hx hmin]

end

/-- Settles O32. -/
theorem coherenceEvents : Obligations.CoherenceEvents := by
  unfold Obligations.CoherenceEvents
  intro s a va
  refine ⟨rfl, fun die slot s1 t hd hs hm => ?_, fun g hg => ⟨fun h1 h2 h3 => ?_, fun h => ?_⟩, fun d hd => ⟨fun hn => ?_, fun g hg hc ho => ?_, ?_⟩,
    ⟨fun hn => ?_, fun x hx hmin => ?_⟩, rfl, rfl, rfl⟩
  · intro grain gva me
    refine ⟨fun hh => ⟨fun hf => ⟨fun hg => ?_, fun hg => ⟨rfl, ?_⟩⟩, fun hf => ?_⟩, fun hh => ⟨fun hf => ?_, fun hf => ?_⟩⟩
    · exact congrArg _ ((obtain_above hd hs hm hf hh).trans (if_pos hg))
    · exact congrArg Host.Outcome.next ((obtain_above hd hs hm hf hh).trans (holderObtains_shared hg))
    · exact congrArg _ (obtain_above hd hs hm hf hh)
    · exact congrArg _ (obtain_home hd hs hm hf hh)
    · exact congrArg _ (obtain_home hd hs hm hf hh)
  · refine (exec_writeBack hg).trans (congrArg _ (if_neg ?_))
    simp [h1, h2, h3]
  · refine (exec_writeBack hg).trans (congrArg _ (if_pos ?_))
    simp only [bne_iff_ne, beq_iff_eq]
    tauto
  · refine (exec_snoopRequest hd).trans (congrArg _ (if_neg ?_))
    rw [show findGrain s s.arg.holder s.arg.asid s.arg.va.toNat = none from hn]
    exact Bool.false_ne_true
  · refine (exec_snoopRequest hd).trans (congrArg _ (if_pos ?_))
    rw [show findGrain s s.arg.holder s.arg.asid s.arg.va.toNat = some g from hg]
    have ho : g.owned = true ∨ s.arg.own = false := ho
    simpa [enough, hc] using ho
  · exact ⟨fun hu => (exec_announcementAccept hd).trans (congrArg _ (if_pos hu)),
      fun hu => (exec_announcementAccept hd).trans (congrArg _ (if_neg (Nat.not_le.mpr hu)))⟩
  · change execAnnouncementDelivery s = _
    rw [execAnnouncementDelivery]
    dsimp only
    rw [dueAnnounces_eq, hn]
  · rw [← dueAnnounces_eq] at hx hmin
    exact exec_announcementDelivery_first hx hmin

end Sys2Proof.EventProofs

/-! PROOFS. Codec units (02 R43 to R49). -/

namespace Sys2Proof.EventProofs

open Sys2Proof Sys2Proof.Machine

section
variable {s s1 : State} {slot : Nat}

/-- The queue of the unit that an event names. -/
def unitQueue (s : State) : List Nat := (getDie s s.arg.die.toNat).codecQ.getD s.arg.unit.toNat []

theorem codecHas_iff : codecHas s = true ↔ s.arg.id ∈ unitQueue s := List.contains_iff_mem

theorem codecHas_of_not_mem (h : s.arg.id ∉ unitQueue s) : codecHas s = false := Bool.eq_false_iff.2 fun hc => h (codecHas_iff.1 hc)

theorem exec_mxAliasRead (s : State) : exec .mxAliasRead s = .next (if (aliasPage s s.arg.asid s.arg.va.toNat && codecHas s) = true then
    obtain (codecServed s) s.arg.holder false s.arg.asid s.arg.va.toNat else s) := rfl

theorem exec_pageCompression (s : State) : exec .pageCompression s = .next (if codecHas s = true then
    pageStored (frameHome s (s.arg.va.toNat / 65536 * 65536)) s.arg
      (memReadN (frameHome s (s.arg.va.toNat / 65536 * 65536)).mem (s.arg.va.toNat / 65536 * 65536) 65536) else s) := rfl

/-- A unit serves nothing that does not stand in its queue. -/
theorem codec_still (h : s.arg.id ∉ unitQueue s) :
    ∀ i ∈ [Instr.pageCompression, .compressedPageRead, .mxAliasRead, .mxAliasWrite], Claims.still i s := by
  have hc := codecHas_of_not_mem h
  simp only [List.forall_mem_cons]
  refine ⟨(exec_pageCompression s).trans (congrArg _ (ite_false_of hc)), ?_,
    (exec_mxAliasRead s).trans (congrArg _ (ite_false_of (by rw [hc, Bool.and_false]))), ?_, fun _ h => absurd h List.not_mem_nil⟩
  · change execCompressedPageRead s = _
    rw [execCompressedPageRead]
    refine congrArg _ ?_
    split
    · rfl
    · split
      · exact if_pos (.inr (.inr hc))
      · rfl
  · change execMxAliasWrite s = _
    rw [execMxAliasWrite]
    refine congrArg _ ?_
    dsimp only
    split
    · rfl
    · exact if_pos (.inr hc)

theorem exec_compressedPageRead {lg at_ w : Nat} (hs : slotOfAsid s s.arg.asid = some slot)
    (hw : ptWalk s slot s.arg.va.toNat = .leaf lg at_ w) (hv : leafV w = true) (hc : leafCmp w = 1) (hq : s.arg.id ∈ unitQueue s) :
    exec .compressedPageRead s = .next (if s.arg.ok = true then codecServed s
      else poisonAt (codecBump (codecServed s) s.arg.die.toNat s.arg.unit 2 1) s.arg.asid s.arg.va.toNat) := by
  change execCompressedPageRead s = _
  rw [execCompressedPageRead, hs]
  dsimp only
  rw [hw]
  refine congrArg _ (if_neg ?_)
  simp [hv, hc, codecHas_iff.2 hq]

theorem exec_mxAliasWrite (hp : aliasPage s s.arg.asid s.arg.va.toNat = true) (hq : s.arg.id ∈ unitQueue s)
    (hs : slotOfAsid s s.arg.asid = some slot) (hr : storeRange (codecServed s)
      { die := s.arg.die.toNat, cluster := 0, slot := slot, asid := s.arg.asid, agent := .none, l1 := false } s.arg.va.toNat s.arg.data
        = (s1, .done)) : exec .mxAliasWrite s = .next s1 := by
  change execMxAliasWrite s = _
  rw [execMxAliasWrite]
  dsimp only
  rw [hs]
  refine congrArg _ ((if_neg ?_).trans ?_)
  · simp [hp, codecHas_iff.2 hq]
  · rw [hr]

theorem aliasWrite_still (hp : aliasPage s s.arg.asid s.arg.va.toNat = false) : Claims.still .mxAliasWrite s := by
  change execMxAliasWrite s = _
  rw [execMxAliasWrite]
  refine congrArg _ ?_
  dsimp only
  split
  · rfl
  · exact if_pos (.inl hp)

end

/-- Settles O33. -/
theorem codecEvents : Obligations.CodecEvents := by
  unfold Obligations.CodecEvents
  intro s a die d queue
  refine ⟨codec_still, rfl, ?_, fun slot lg at_ w hs hw hv hc hq => ⟨fun ho => ?_, fun ho => ?_⟩,
    fun hp hq => ⟨?_, fun slot hs s1 hr => exec_mxAliasWrite hp hq hs hr⟩, fun hp => ⟨?_, aliasWrite_still hp⟩⟩
  · intro page s0 bs small s1 s2 hq
    exact (exec_pageCompression s).trans (congrArg _ (if_pos (codecHas_iff.2 hq)))
  · exact (exec_compressedPageRead hs hw hv hc hq).trans (congrArg _ (if_pos ho))
  · exact (exec_compressedPageRead hs hw hv hc hq).trans (congrArg _ (ite_false_of ho))
  · exact (exec_mxAliasRead s).trans (congrArg _ (if_pos (Bool.and_eq_true_iff.2 ⟨hp, codecHas_iff.2 hq⟩)))
  · exact (exec_mxAliasRead s).trans (congrArg _ (ite_false_of (Bool.and_eq_false_iff.2 (.inl hp))))

end Sys2Proof.EventProofs

/-! PROOFS. A STALE answer where two requests carry one number (03 R67). -/

namespace Sys2Proof.EventProofs

open Sys2Proof Sys2Proof.Machine

/-- Two requests with one number, each at its eighth STALE answer in a row, to addresses of two granules. The home map's tables
are one page whose first entry points to itself: the HME of the first granule is that entry's low word, that of the second is 0. -/
def staleTwice : State :=
  { arg := { id := 7 }
    mem := memWriteN (memWriteN [] 0x10 (bytesOf 8 0x1001)) 0x1000 (bytesOf 8 0x1001)
    reqs := [{ id := 7, who := .device, kind := .read 8, asid := 0, va := 0, st := .stale 8 },
             { id := 7, who := .device, kind := .read 8, asid := 0, va := 0x200000, st := .stale 8 }] }

/-- The HMEs of the fault records that an outcome's requests carry. -/
def hmesOf : Host.Outcome State Fault Refusal → List Nat
  | .next t => t.reqs.map fun r => r.hme
  | _ => []

/-- The model gives every request of the number the HME of the one that it finds first. -/
theorem staleTwice_hmes : hmesOf (exec .staleResponse staleTwice) = [0x1001, 0x1001] := by decide +kernel

/-- The request that the event finds. -/
def staleFirst : Req := { id := 7, who := .device, kind := .read 8, asid := 0, va := 0, st := .stale 8 }

theorem staleTwice_find : (staleTwice.reqs.find? fun r => r.id == staleTwice.arg.id) = some staleFirst := by decide +kernel

/-- Refutes O34: of two requests with one number whose eighth STALE answer in a row comes, the second gets the HME of the first's
address, and the statement says that each gets its own. -/
theorem not_translationEvents : ¬ Obligations.TranslationEvents := by
  unfold Obligations.TranslationEvents
  intro h
  obtain ⟨-, hreq, -⟩ := h staleTwice
  obtain ⟨-, -, hstale, -⟩ := hreq staleFirst staleTwice_find
  have hclaim := congrArg hmesOf (hstale 8 rfl)
  rw [staleTwice_hmes] at hclaim
  exact absurd hclaim (by decide +kernel)

end Sys2Proof.EventProofs

/-! PROOFS. The home commands (03 R67, R69 to R71, 02 R38). -/

namespace Sys2Proof.EventProofs

open Sys2Proof Sys2Proof.Machine

section
variable {s : State} {die op : Nat} {size : BitVec 2} {asid : Half}

/-- The events of the home commands, with their numbers. -/
def commandEvents : List (Instr × Nat) :=
  [(.hold, 1), (.release, 2), (.flushasid, 3), (.movehold, 4), (.movedone, 5), (.hminv, 6)]

theorem exec_of_commandEvents : ∀ r ∈ commandEvents, ∀ s,
    exec r.1 s = .next (homeCommand s s.arg.die.toNat r.2 s.arg.size s.arg.asid) := by
  simp only [commandEvents, List.forall_mem_cons]
  exact ⟨fun _ => rfl, fun _ => rfl, fun _ => rfl, fun _ => rfl, fun _ => rfl, fun _ => rfl, fun _ h => absurd h List.not_mem_nil⟩

theorem homeCommand_frozen (h : s.svpFrozen = true) : homeCommand s die op size asid = s := if_pos h

theorem homeCommand_refused (hz : s.svpFrozen = false) (h : (getDie s die).hcmdBusy.isSome ∨ op = 0 ∨ op > 6 ∨ (size = 3 ∧ op ≠ 4)) :
    homeCommand s die op size asid = hcmdRefuse s die := (ite_false_of hz).trans (if_pos h)

/-- A command that is not refused. -/
theorem homeCommand_taken (hb : (getDie s die).hcmdBusy = none) (h1 : 1 ≤ op) (h6 : op ≤ 6)
    (hs : op = 4 ∨ size ≠ 3) : ¬ ((getDie s die).hcmdBusy.isSome ∨ op = 0 ∨ op > 6 ∨ (size = 3 ∧ op ≠ 4)) := by
  rintro (h | h | h | ⟨h, h4⟩)
  · rw [hb] at h
    exact Bool.false_ne_true h
  · omega
  · omega
  · exact hs.elim h4 fun hs => hs h

theorem homeCommand_hold (hz : s.svpFrozen = false) (hb : (getDie s die).hcmdBusy = none) (hs : size ≠ 3) :
    homeCommand s die 1 size asid = hcmdHold s die 1 (pageLg size) asid :=
  (ite_false_of hz).trans (if_neg (homeCommand_taken hb (by decide) (by decide) (.inr hs)))

theorem homeCommand_movehold (hz : s.svpFrozen = false) (hb : (getDie s die).hcmdBusy = none) :
    homeCommand s die 4 size asid = hcmdHold s die 4 21 asid :=
  (ite_false_of hz).trans (if_neg (homeCommand_taken hb (by decide) (by decide) (.inl rfl)))

/-- The translations of a held page are dropped, and it is held no more. -/
def unheld (s : State) (die op lg : Nat) (asid : Half) : State :=
  let va := (getDie s die).hcmdva.toNat
  let s1 := dropTlb (hcmdBusy s die op lg asid) die asid va lg
  setDie s1 die { getDie s1 die with held := (getDie s1 die).held.filter fun h => !heldIs asid va lg h }

theorem homeCommand_release (hz : s.svpFrozen = false) (hb : (getDie s die).hcmdBusy = none) (hs : size ≠ 3) :
    homeCommand s die 2 size asid = unheld s die 2 (pageLg size) asid :=
  (ite_false_of hz).trans (if_neg (homeCommand_taken hb (by decide) (by decide) (.inr hs)))

theorem homeCommand_flushasid (hz : s.svpFrozen = false) (hb : (getDie s die).hcmdBusy = none) (hs : size ≠ 3) :
    homeCommand s die 3 size asid = flushAsid (hcmdBusy s die 3 (pageLg size) asid) asid :=
  (ite_false_of hz).trans (if_neg (homeCommand_taken hb (by decide) (by decide) (.inr hs)))

theorem homeCommand_movedone (hz : s.svpFrozen = false) (hb : (getDie s die).hcmdBusy = none) (hs : size ≠ 3) :
    homeCommand s die 5 size asid = staleReqs (unheld s die 5 21 asid) asid (getDie s die).hcmdva.toNat 21 :=
  (ite_false_of hz).trans (if_neg (homeCommand_taken hb (by decide) (by decide) (.inr hs)))

theorem homeCommand_hminv (hz : s.svpFrozen = false) (hb : (getDie s die).hcmdBusy = none) (hs : size ≠ 3) :
    homeCommand s die 6 size asid = (List.range 8).foldl (fun s' d => dropWalks (dropHme s' d asid (getDie s die).hcmdva.toNat) d true asid
      ((getDie s die).hcmdva.toNat / 2 ^ 21 * 2 ^ 21) (2 ^ 21)) (hcmdBusy s die 6 21 asid) :=
  (ite_false_of hz).trans (if_neg (homeCommand_taken hb (by decide) (by decide) (.inr hs)))

/-- A page or granule that is held. -/
def heldNow (s : State) (die op lg : Nat) (asid : Half) : State :=
  let va := (getDie s die).hcmdva.toNat
  let s1 := hcmdBusy (recallRange s asid va lg) die op lg asid
  (setDie s1 die { getDie s1 die with
    held := (getDie s1 die).held ++ [⟨asid, BitVec.ofNat 64 (va / 2 ^ lg * 2 ^ lg), lg, s1.nextId⟩] }).fresh

theorem hcmdHold_room {lg : Nat} (h : (getDie s die).held.length < 16) : hcmdHold s die op lg asid = heldNow s die op lg asid :=
  if_neg (Nat.not_le.mpr h)

theorem hcmdHold_full {lg : Nat} (h : 16 ≤ (getDie s die).held.length) : hcmdHold s die op lg asid = hcmdRefuse s die := if_pos h

end

section
variable {s : State}

theorem command_still (hz : s.svpFrozen = true) : ∀ r ∈ commandEvents, Claims.still r.1 s :=
  fun r hr => (exec_of_commandEvents r hr s).trans (congrArg _ (homeCommand_frozen hz))

theorem command_refused (hz : s.svpFrozen = false) : ∀ r ∈ commandEvents,
    (¬ Claims.commands s ∨ (s.arg.size = 3 ∧ r.2 ≠ 4)) →
    exec r.1 s = .next (setDie s s.arg.die.toNat { getDie s s.arg.die.toNat with hcmdErr := true }) := by
  intro r hr h
  refine (exec_of_commandEvents r hr s).trans (congrArg _ (homeCommand_refused hz ?_))
  obtain h | h := h
  · exact .inl (Option.isSome_iff_ne_none.2 h)
  · exact .inr (.inr (.inr h))

/-- A command that finishes. -/
def commandDone (s : State) (die : Nat) : State := setDie s die { getDie s die with hcmdBusy := none, hcmdDone := true }

theorem exec_homeCommandDone {op lg : Nat} {asid : Half} {va : Dword} (h : (getDie s s.arg.die.toNat).hcmdBusy = some (op, lg, asid, va)) :
    exec .homeCommandDone s = .next (
      let base := va.toNat / 2 ^ lg * 2 ^ lg
      if op = 1 ∨ op = 4 then
        let s1 := recallRange s asid va.toNat lg
        if (s1.grains.any fun g => g.overlaps asid base (2 ^ lg)) = true ∨ engineOwns s1 none asid base (2 ^ lg) 512 = true then s
        else commandDone s1 s.arg.die.toNat
      else if op = 3 then (if (s.grains.any fun g => g.asid == asid) = true then s else commandDone s s.arg.die.toNat)
      else commandDone s s.arg.die.toNat) := by
  change execHomeCommandDone s = _
  rw [execHomeCommandDone]
  dsimp only
  rw [h]
  rfl

end

/-- Settles O35. -/
theorem homeCommands : Obligations.HomeCommands := by
  unfold Obligations.HomeCommands
  intro s a die va lg refuse begin_ holds frees granule here stale
  refine ⟨fun hz => ?_, fun hz hc => ?_, fun hz hs => ?_, fun hz hc hl => ⟨fun hs => ?_, ?_⟩, fun hz hc hl => ⟨fun hs => ?_, ?_⟩, fun hz hc hs => ?_, ?_⟩
  · have h := command_still hz
    simp only [commandEvents, List.forall_mem_cons] at h ⊢
    obtain ⟨h1, h2, h3, h4, h5, h6, -⟩ := h
    exact ⟨h1, h2, h3, h4, h5, h6, fun _ h => absurd h List.not_mem_nil⟩
  · have h := fun r hr => command_refused hz r hr (.inl hc)
    simp only [commandEvents, List.forall_mem_cons] at h ⊢
    obtain ⟨h1, h2, h3, h4, h5, h6, -⟩ := h
    exact ⟨h1, h2, h3, h4, h5, h6, fun _ h => absurd h List.not_mem_nil⟩
  · have h := fun r hr h4 => command_refused hz r hr (.inr ⟨hs, h4⟩)
    simp only [commandEvents, List.forall_mem_cons] at h ⊢
    obtain ⟨h1, h2, h3, -, h5, h6, -⟩ := h
    exact ⟨h1 (by decide), h2 (by decide), h3 (by decide), h5 (by decide), h6 (by decide), fun _ h => absurd h List.not_mem_nil⟩
  · exact congrArg Host.Outcome.next ((homeCommand_hold hz hc hs).trans (hcmdHold_full hl))
  · exact congrArg Host.Outcome.next ((homeCommand_movehold hz hc).trans (hcmdHold_full hl))
  · exact congrArg Host.Outcome.next ((homeCommand_hold hz hc hs).trans (hcmdHold_room hl))
  · exact congrArg Host.Outcome.next ((homeCommand_movehold hz hc).trans (hcmdHold_room hl))
  · refine ⟨congrArg Host.Outcome.next (homeCommand_release hz hc hs), ?_, congrArg Host.Outcome.next (homeCommand_flushasid hz hc hs),
      congrArg Host.Outcome.next (homeCommand_hminv hz hc hs)⟩
    intro s0 s1
    exact congrArg Host.Outcome.next (homeCommand_movedone hz hc hs)
  · intro op lg asid va hb base done s1
    have hx := exec_homeCommandDone hb
    refine ⟨fun ho hg he => ?_, fun ho hg => ?_, fun ho => ?_⟩
    · refine hx.trans (congrArg _ ((if_pos ho).trans (if_neg ?_)))
      rw [List.any_eq_true]
      rintro (⟨g, hg', hov⟩ | h)
      · exact Bool.false_ne_true ((hg g hg').symm.trans hov)
      · exact Bool.false_ne_true (he.symm.trans h)
    · subst ho
      refine hx.trans (congrArg _ ((if_neg (by decide)).trans ((if_pos rfl).trans (if_neg ?_))))
      rw [List.any_eq_true]
      rintro ⟨g, hg', hasid⟩
      exact hg g hg' (beq_iff_eq.1 hasid)
    · simp only [List.mem_cons, List.not_mem_nil, or_false, not_or] at ho
      obtain ⟨h1, h3, h4⟩ := ho
      exact hx.trans (congrArg _ ((if_neg (not_or.2 ⟨h1, h4⟩)).trans (if_neg h3)))

end Sys2Proof.EventProofs

/-! PROOFS. Host accesses over PCIe and Knamar Link, recalls and snoops (04 R86 to R92, R96). -/

namespace Sys2Proof.EventProofs

open Sys2Proof Sys2Proof.Machine

section
variable {s s1 : State} {kl : Bool} {slot va : Nat} {asid : Half}

/-! ### Windows -/

theorem routeOutside_of_routed (h : Claims.routed s kl slot asid va) : routeOutside s kl = some (rqOutside slot asid, va) := by
  obtain ⟨hb, hw, hs⟩ := h
  have hn : ¬ (!kl && decide (bar2Size s s.arg.fn ≤ s.arg.off)) = true := by
    rw [Bool.and_eq_true, Bool.not_eq_true', decide_eq_true_eq]
    exact fun ⟨hk, hle⟩ => absurd hle (Nat.not_le.mpr (hb hk))
  refine (if_neg hn).trans ?_
  rw [hw]
  dsimp only
  rw [hs]
  rfl

theorem routeOutside_pcie_none (h : windowOf s.io.pcieWin (some s.arg.fn) s.arg.off = none ∨ bar2Size s s.arg.fn ≤ s.arg.off) :
    routeOutside s false = none := by
  unfold routeOutside
  split
  · rfl
  · next hn =>
    obtain hw | hb := h
    · rw [if_neg Bool.false_ne_true, if_neg Bool.false_ne_true, hw]
    · exact absurd (Bool.and_eq_true_iff.2 ⟨rfl, decide_eq_true hb⟩) hn

theorem routeOutside_kl_none (h : windowOf s.io.klWin none s.arg.off = none) : routeOutside s true = none := by
  refine (if_neg Bool.false_ne_true).trans ?_
  rw [if_pos rfl, if_pos rfl, h]

/-! ### PCIe -/

theorem pcieRead_unrouted (h : routeOutside s false = none) : exec .pcieHostRead s = .next (Claims.said s (.abort s.arg.tag)) := by
  change execPcieHostRead s = _
  rw [execPcieHostRead, h]
  rfl

theorem pcieWrite_unrouted (h : routeOutside s false = none) :
    exec .pcieHostWrite s = .next { s with io := { s.io with aer := s.io.aer + 1 } } := by
  change execPcieHostWrite s = _
  rw [execPcieHostWrite, h]
  rfl

theorem pcieRead_done {bs : List Byte} (h : Claims.routed s false slot asid va)
    (hl : loadRange s (rqOutside slot asid) accLoad va s.arg.len = (s1, .done, bs)) :
    exec .pcieHostRead s = .next (Claims.said s1 (.host s.arg.tag true bs)) := by
  change execPcieHostRead s = _
  rw [execPcieHostRead, routeOutside_of_routed h]
  dsimp only
  rw [hl]
  rfl

theorem pcieRead_fails {acc : Acc} {bs : List Byte} (h : Claims.routed s false slot asid va)
    (hl : loadRange s (rqOutside slot asid) accLoad va s.arg.len = (s1, acc, bs)) (hd : acc ≠ .done) (hh : acc ≠ .held) :
    exec .pcieHostRead s = .next (Claims.said s1 (.abort s.arg.tag)) := by
  change execPcieHostRead s = _
  rw [execPcieHostRead, routeOutside_of_routed h]
  dsimp only
  rw [hl]
  cases acc with
  | done => exact absurd rfl hd
  | held => exact absurd rfl hh
  | _ => rfl

theorem pcieWrite_done (h : Claims.routed s false slot asid va)
    (hs : storeRange s (rqOutside slot asid) va s.arg.data = (s1, .done)) : exec .pcieHostWrite s = .next s1 := by
  change execPcieHostWrite s = _
  rw [execPcieHostWrite, routeOutside_of_routed h]
  dsimp only
  rw [hs]

theorem pcieWrite_fails {acc : Acc} (h : Claims.routed s false slot asid va)
    (hs : storeRange s (rqOutside slot asid) va s.arg.data = (s1, acc)) (hd : acc ≠ .done) (hh : acc ≠ .held) :
    exec .pcieHostWrite s = .next (dropWrite (countTried s (rqOutside slot asid) va s.arg.data.length)) := by
  change execPcieHostWrite s = _
  rw [execPcieHostWrite, routeOutside_of_routed h]
  dsimp only
  rw [hs]
  cases acc with
  | done => exact absurd rfl hd
  | held => exact absurd rfl hh
  | _ => rfl

/-! ### Knamar Link -/

theorem klRead_ok {t : TInfo} (h : Claims.routed s true slot asid va)
    (hr : requestFor s (rqOutside slot asid) va (if s.arg.own then accStore else accLoad) true = (s1, .ok t))
    (he : engineOwns s none asid (va / leafGrain t.leaf * leafGrain t.leaf) (leafGrain t.leaf) (leafGrain t.leaf) = false)
    (ha : aliasWaits s t va = false) : exec .klHostRead s = .next (if t.normal = true then
        grantHost s1 (rqOutside slot asid) t va s.arg.own s.arg.tag
      else Claims.said s1 (.host s.arg.tag true (homeBytes s1 t asid va s.arg.len))) := by
  change execKlHostRead s = _
  rw [execKlHostRead, routeOutside_of_routed h]
  dsimp only
  rw [hr]
  refine congrArg _ (ite_false_of ?_)
  rw [show (rqOutside slot asid).asid = asid from rfl, he, ha]
  rfl

theorem klRead_unrouted (h : routeOutside s true = none) : exec .klHostRead s = .next (Claims.said s (.host s.arg.tag false [])) := by
  change execKlHostRead s = _
  rw [execKlHostRead, h]
  rfl

theorem klWrite_done (h : Claims.routed s true slot asid va) (hs : storeRange s (rqOutside slot asid) va s.arg.data = (s1, .done)) :
    exec .klHostWrite s = .next (Claims.numbered (Claims.said s1 (.host s.arg.tag true []))) := by
  change execKlHostWrite s = _
  rw [execKlHostWrite, routeOutside_of_routed h]
  dsimp only
  rw [hs]
  rfl

theorem klWrite_unrouted (h : routeOutside s true = none) :
    exec .klHostWrite s = .next (Claims.numbered (Claims.said s (.host s.arg.tag false []))) := by
  change execKlHostWrite s = _
  rw [execKlHostWrite, h]
  rfl

/-- The atomics that the host may ask for. -/
def listedAtomic (a : EvArg) : Bool := a.hostOp != .other && (a.len == 4 || a.len == 8 || (a.len == 16 && a.hostOp == .cas))

theorem listedAtomic_iff {a : EvArg} : listedAtomic a = true ↔ a.hostOp ≠ .other ∧ (a.len ∈ [4, 8] ∨ (a.len = 16 ∧ a.hostOp = .cas)) := by
  simp [listedAtomic, or_assoc]

theorem klAtomic_done {old : List Byte} (h : Claims.routed s true slot asid va) (hl : listedAtomic s.arg = true) (hm : va % s.arg.len = 0)
    (hp : atomPiece s (rqOutside slot asid) true va s.arg.len
      (hostAtom s.arg.hostOp s.arg.len s.arg.operand.toNat s.arg.expected.toNat) = (s1, .done, old)) :
    exec .klHostAtomic s = .next (Claims.said s1 (.host s.arg.tag true old)) := by
  change execKlHostAtomic s = _
  rw [execKlHostAtomic]
  dsimp only
  rw [routeOutside_of_routed h]
  refine congrArg _ ((if_neg ?_).trans ?_)
  · exact fun hn => hn.elim (fun hf => Bool.false_ne_true (hf.symm.trans hl)) fun hv => hv hm
  · rw [hp]
    rfl

theorem klAtomic_refused (h : Claims.routed s true slot asid va) (hl : listedAtomic s.arg = false ∨ va % s.arg.len ≠ 0) :
    exec .klHostAtomic s = .next (Claims.said s (.host s.arg.tag false [])) := by
  change execKlHostAtomic s = _
  rw [execKlHostAtomic]
  dsimp only
  rw [routeOutside_of_routed h]
  exact congrArg _ (if_pos hl)

theorem klAtomic_unrouted (h : routeOutside s true = none) : exec .klHostAtomic s = .next (Claims.said s (.host s.arg.tag false [])) := by
  change execKlHostAtomic s = _
  rw [execKlHostAtomic]
  dsimp only
  rw [h]
  rfl

/-! ### Recalls -/

theorem recallResponse_dirty {g : Grain} (hg : findGrain s .host s.arg.asid s.arg.va.toNat = some g) (ho : g.owned = true)
    (hd : s.arg.data ≠ []) : exec .hostRecallResponse s = .next (
      let s1 := writeHome { s with asked := s.asked.filter fun k => k != (s.arg.asid, s.arg.va) }
        { g with st := .modified, dirty := sectorMask 0 g.size, data := putBytes g.data 0 (s.arg.data.take g.size) }
      let rest := s1.grains.filter fun x => !(x.holder == .host && x.asid == g.asid && x.va == g.va)
      { s1 with
        grains := if s.arg.ok then { g with st := .shared, data := putBytes g.data 0 (s.arg.data.take g.size) } :: rest else rest }) := by
  have hg' : findGrain { s with asked := s.asked.filter fun k => k != (s.arg.asid, s.arg.va) } .host s.arg.asid s.arg.va.toNat = some g := hg
  have hc : (g.owned && !s.arg.data.isEmpty) = true := by
    rw [ho, List.isEmpty_eq_false_iff.2 hd]
    rfl
  change execHostRecallResponse s = _
  rw [execHostRecallResponse]
  dsimp only
  rw [hg']
  dsimp only
  rw [if_pos hc]

/-! ### Snoops -/

/-- An ASID is one of the snooped PASID. -/
def snoopMine (s : State) (x : Half) : Bool :=
  match slotOfAsid s x with
  | some k => ccb s k 0x18 8 % 2 ^ 20 == s.arg.val.toNat % 2 ^ 20
  | none => false

theorem snoopMine_eq (s : State) :
    snoopMine s = fun x => (slotOfAsid s x).any fun k => ccb s k 0x18 8 % 2 ^ 20 == s.arg.val.toNat % 2 ^ 20 :=
  funext fun x => by
    unfold snoopMine
    cases slotOfAsid s x <;> rfl

/-- The snoop of the host, for the contexts that a test names. -/
def snooped (s : State) (mine : Half → Bool) : State :=
  let hit (g : Grain) : Bool := g.pa.isNone && mine g.asid && g.covers g.asid s.arg.va.toNat
  let up (g : Grain) : Bool := hit g && g.st == .modified && ((rdcBehind (some g.holder)).bind fun h => findGrain s h g.asid g.va.toNat).isSome
  let s1 := (s.grains.filter up).foldl flushGrain s
  let s2 := (s1.grains.filter fun g => hit g && g.st == .modified && !up g).foldl (fun s g => say s (.klSnooped g.asid g.va g.data)) s1
  if s.arg.own then { s2 with grains := s2.grains.filter fun g => !hit g }
  else { s2 with grains := s2.grains.map fun g => if hit g then { g with st := .shared, dirty := 0 } else g }

theorem exec_hostSnoop (s : State) : exec .hostSnoop s = .next (snooped s (snoopMine s)) := by
  change execHostSnoop s = _
  unfold execHostSnoop
  extract_lets mine
  have hm : mine = snoopMine s := funext fun x => by
    simp only [mine, snoopMine] <;> cases slotOfAsid s x <;> rfl
  clear_value mine
  subst hm
  rfl

end

/-- Settles O36. -/
theorem hostEvents : Obligations.HostEvents := by
  unfold Obligations.HostEvents
  intro s a
  refine ⟨fun slot asid va h => ⟨fun s1 bs => pcieRead_done h, fun s1 => pcieWrite_done h, fun s1 acc bs => pcieRead_fails h,
      fun s1 acc => pcieWrite_fails h⟩,
    fun h => ⟨pcieRead_unrouted (routeOutside_pcie_none h), pcieWrite_unrouted (routeOutside_pcie_none h)⟩, rfl, ?_,
    fun h => ⟨klRead_unrouted (routeOutside_kl_none h), klWrite_unrouted (routeOutside_kl_none h), klAtomic_unrouted (routeOutside_kl_none h)⟩,
    fun g pa hg _ ho hd => recallResponse_dirty hg ho hd, ?_⟩
  · intro slot asid va h r
    refine ⟨?_, fun s1 => klWrite_done h, fun ho hl hm s1 old => klAtomic_done h (listedAtomic_iff.2 ⟨ho, hl⟩) hm, fun hbad => klAtomic_refused h ?_⟩
    · intro s1 t hr grain gva pa he ha
      have hx := klRead_ok h hr he ha
      exact ⟨fun hn => hx.trans (congrArg _ (ite_false_of hn)), fun hn => hx.trans (congrArg _ (if_pos hn))⟩
    · by_cases hm : va % a.len = 0
      · refine .inl (Bool.eq_false_iff.2 fun hl => ?_)
        obtain ⟨ho, hlen⟩ := listedAtomic_iff.1 hl
        have ho : a.hostOp ≠ .other := ho
        have hlen : a.len ∈ [4, 8] ∨ (a.len = 16 ∧ a.hostOp = .cas) := hlen
        simp only [List.mem_cons, List.not_mem_nil, or_false] at hbad hlen
        rcases hbad with h | h | ⟨h16, hc⟩ | h
        · exact ho h
        · omega
        · exact hlen.elim (fun h => by omega) fun h => hc h.2
        · exact h hm
      · exact .inr hm
  · intro mine hit up s1 s2
    exact (exec_hostSnoop s).trans (by rw [snoopMine_eq]; rfl)

end Sys2Proof.EventProofs

/-! PROOFS. Answers and refusals of remote requests, peers and links (04 R93, R94, R96, R99 to R103). -/

namespace Sys2Proof.EventProofs

open Sys2Proof Sys2Proof.Machine

section
variable {s s1 : State} {r : Req} {slot : Nat}

/-! ### Answers and refusals -/

theorem exec_remoteHomeResponse (hr : awayReq s s.arg.id = some r) : exec .remoteHomeResponse s = .next
    (if (s.arg.ok && !peerLate s r) = true then arrived r
      (answered (keepAtc (keepPeerMt (answerCaches s r s.arg.data) r s.arg.size.toNat) r) r (answerBytes r s.arg.data))
     else remoteFails s r) := by
  change execRemoteHomeResponse s = _
  rw [execRemoteHomeResponse, hr]

theorem peerLate_iff : peerLate s r = true ↔ hmeHome r.hme = 10 ∧ r.sentAt + 2 ^ s.io.vplTmo.toNat * 64000 ≤ s.timeNs.toNat := by
  rw [peerLate, Bool.and_eq_true, beq_iff_eq, decide_eq_true_eq]

theorem answer_iff : (s.arg.ok && !peerLate s r) = true
    ↔ s.arg.ok = true ∧ ¬ (hmeHome r.hme = 10 ∧ r.sentAt + 2 ^ s.io.vplTmo.toNat * 64000 ≤ s.timeNs.toNat) := by
  rw [Bool.and_eq_true, Bool.not_eq_true', ← peerLate_iff, Bool.not_eq_true]

theorem exec_hostRefusedTranslation (hr : awayReq s s.arg.id = some r) (hh : hmeHome r.hme = 8 ∨ hmeHome r.hme = 9) :
    exec .hostRefusedTranslation s = .next (if r.refused = true then remoteFails s r
      else Claims.said (modReq s r.id fun r => { r with st := .pri }) (.pageReq r.id)) := by
  change execHostRefusedTranslation s = _
  rw [execHostRefusedTranslation, hr]
  refine congrArg _ (if_neg fun h => Bool.false_ne_true (h.symm.trans ?_))
  rw [hostHome, Bool.or_eq_true, beq_iff_eq, beq_iff_eq]
  exact hh

theorem exec_vplTimeout (hr : awayReq s s.arg.id = some r) :
    exec .vplTimeout s = .next (if peerLate s r = true then remoteFails s r else s) := by
  change execVplTimeout s = _
  rw [execVplTimeout, hr]

theorem away_still (hr : awayReq s s.arg.id = none) :
    ∀ i ∈ [Instr.remoteHomeResponse, .hostRefusedTranslation, .vplTimeout], Claims.still i s := by
  simp only [List.forall_mem_cons]
  refine ⟨?_, ?_, ?_, fun _ h => absurd h List.not_mem_nil⟩
  · change execRemoteHomeResponse s = _
    rw [execRemoteHomeResponse, hr]
  · change execHostRefusedTranslation s = _
    rw [execHostRefusedTranslation, hr]
  · change execVplTimeout s = _
    rw [execVplTimeout, hr]

theorem pageResponse_refused (hr : (s.reqs.find? fun r => r.id == s.arg.id && r.st == .pri) = some r) (ho : s.arg.ok = false) :
    exec .pageRequestResponse s = .next (remoteFails s r) := by
  change execPageRequestResponse s = _
  rw [execPageRequestResponse, hr]
  exact congrArg _ (if_pos ho)

theorem pageResponse_granted {w : Nat} (hr : (s.reqs.find? fun r => r.id == s.arg.id && r.st == .pri) = some r) (ho : s.arg.ok = true)
    (hw : homeLookup s r.die r.slot r.asid r.va.toNat = (s1, .hme w)) :
    exec .pageRequestResponse s = .next (if hmeBad w = false ∧ (hmeHome w = 8 ∨ hmeHome w = 9) then
      resend (modReq s1 r.id fun r => { r with hme := w, own := Req.owns { r with hme := w } }) { r with hme := w }
      else reqReplay s r) := by
  change execPageRequestResponse s = _
  rw [execPageRequestResponse, hr]
  refine congrArg _ ((if_neg fun h => Bool.false_ne_true (h.symm.trans ho)).trans ?_)
  rw [hw]

/-! ### Invalidations -/

/-- A range meets an invalidated one. -/
def invalidates (s : State) (va n : Nat) : Bool := decide (s.arg.va.toNat < va + n) && decide (va < s.arg.va.toNat + s.arg.len)

theorem exec_atsInvalidation (s : State) : exec .atsInvalidation s = .next (
    let used := s.reqs.any fun r => r.st == .remote && hmeHome r.hme == 9 && pasidOf s r.asid == pasidOf s s.arg.asid
      && invalidates s r.va.toNat (Nat.max 1 r.span)
    let s1 := { s with io := { s.io with
      atc := s.io.atc.filter fun p => !(p.1 == pasidOf s s.arg.asid && invalidates s (4096 * p.2) 4096) } }
    if used then s1 else Claims.said s1 (.atsDone s.arg.asid s.arg.va)) := by
  have huse : (fun r : Req => r.st == .remote && hmeHome r.hme == 9 && pasidOf s r.asid == pasidOf s s.arg.asid
        && decide (s.arg.va.toNat < r.va.toNat + Nat.max 1 r.span) && decide (r.va.toNat < s.arg.va.toNat + s.arg.len))
      = fun r => r.st == .remote && hmeHome r.hme == 9 && pasidOf s r.asid == pasidOf s s.arg.asid
        && invalidates s r.va.toNat (Nat.max 1 r.span) := funext fun r => by rw [invalidates, ← Bool.and_assoc]
  have hgone : (fun p : Nat × Nat => !(p.1 == pasidOf s s.arg.asid && decide (s.arg.va.toNat < 4096 * (p.2 + 1))
        && decide (4096 * p.2 < s.arg.va.toNat + s.arg.len)))
      = fun p => !(p.1 == pasidOf s s.arg.asid && invalidates s (4096 * p.2) 4096) :=
    funext fun p => by rw [invalidates, ← Bool.and_assoc, Nat.mul_add_one]
  change execAtsInvalidation s = _
  rw [execAtsInvalidation]
  dsimp only
  rw [huse, hgone]
  rfl

/-! ### Peers -/

/-- The device's refusal of a peer's request. -/
def peerRefused (s : State) : State := Claims.said s (.peerResp s.arg.dev s.arg.tag false 0 [])

/-- The memory type of the page that a peer asks for. -/
def peerType (s : State) (slot : Nat) : Nat := (peekLeaf s (rqOutside slot s.arg.asid) s.arg.va.toNat).elim 0 leafMT

theorem peer_unknown (hs : slotOfAsid s s.arg.asid = some slot) (hk : peerKnown s slot s.arg.dev s.arg.sender = false) :
    exec .peerRequest s = .next (peerRefused s) := by
  change execPeerRequest s = _
  rw [execPeerRequest]
  dsimp only
  rw [hs]
  exact congrArg _ (if_pos hk)

theorem peer_load {n : Nat} {bs : List Byte} (hs : slotOfAsid s s.arg.asid = some slot)
    (hk : peerKnown s slot s.arg.dev s.arg.sender = true) (hop : s.arg.peerOp = .load n)
    (hl : loadRange s (rqOutside slot s.arg.asid) accLoad s.arg.va.toNat n = (s1, .done, bs)) :
    exec .peerRequest s = .next (Claims.said s1 (.peerResp s.arg.dev s.arg.tag true (peerType s slot) bs)) := by
  change execPeerRequest s = _
  rw [execPeerRequest]
  dsimp only
  rw [hs]
  refine congrArg _ ((if_neg fun h => Bool.false_ne_true (h.symm.trans hk)).trans ?_)
  rw [hop]
  dsimp only
  rw [hl]
  rfl

theorem peer_store (hs : slotOfAsid s s.arg.asid = some slot)
    (hk : peerKnown s slot s.arg.dev s.arg.sender = true) (hop : s.arg.peerOp = .store)
    (hl : storeRange s (rqOutside slot s.arg.asid) s.arg.va.toNat s.arg.data = (s1, .done)) :
    exec .peerRequest s = .next (Claims.said s1 (.peerResp s.arg.dev s.arg.tag true (peerType s slot) [])) := by
  change execPeerRequest s = _
  rw [execPeerRequest]
  dsimp only
  rw [hs]
  refine congrArg _ ((if_neg fun h => Bool.false_ne_true (h.symm.trans hk)).trans ?_)
  rw [hop]
  dsimp only
  rw [hl]
  rfl

theorem peer_store_fails {acc : Acc} (hs : slotOfAsid s s.arg.asid = some slot)
    (hk : peerKnown s slot s.arg.dev s.arg.sender = true) (hop : s.arg.peerOp = .store)
    (hl : storeRange s (rqOutside slot s.arg.asid) s.arg.va.toNat s.arg.data = (s1, acc)) (hd : acc ≠ .done) (hh : acc ≠ .held) :
    exec .peerRequest s = .next (Claims.said (countTried s (rqOutside slot s.arg.asid) s.arg.va.toNat s.arg.data.length)
      (.peerResp s.arg.dev s.arg.tag false 0 [])) := by
  change execPeerRequest s = _
  rw [execPeerRequest]
  dsimp only
  rw [hs]
  refine congrArg _ ((if_neg fun h => Bool.false_ne_true (h.symm.trans hk)).trans ?_)
  rw [hop]
  dsimp only
  rw [hl]
  cases acc with
  | done => exact absurd rfl hd
  | held => exact absurd rfl hh
  | _ => rfl

theorem peer_atom_refused {op n : Nat} {ty : LType} (hs : slotOfAsid s s.arg.asid = some slot)
    (hk : peerKnown s slot s.arg.dev s.arg.sender = true) (hop : s.arg.peerOp = .atom op ty n)
    (hn : n ∉ [4, 8, 16] ∨ s.arg.va.toNat % n ≠ 0) : exec .peerRequest s = .next (peerRefused s) := by
  change execPeerRequest s = _
  rw [execPeerRequest]
  dsimp only
  rw [hs]
  refine congrArg _ ((if_neg fun h => Bool.false_ne_true (h.symm.trans hk)).trans ?_)
  rw [hop]
  refine if_pos (hn.imp (fun h => ?_) id)
  rw [Bool.not_eq_true', Bool.eq_false_iff]
  exact mt List.contains_iff_mem.1 h

theorem peer_atom {op n : Nat} {ty : LType} {old : List Byte} (hs : slotOfAsid s s.arg.asid = some slot)
    (hk : peerKnown s slot s.arg.dev s.arg.sender = true) (hop : s.arg.peerOp = .atom op ty n)
    (hn : n ∈ [4, 8, 16]) (hv : s.arg.va.toNat % n = 0)
    (hp : atomPiece s (rqOutside slot s.arg.asid) true s.arg.va.toNat n (peerAtom op ty n s.arg.operand.toNat s.arg.expected.toNat)
      = (s1, .done, old)) :
    exec .peerRequest s = .next (Claims.said s1 (.peerResp s.arg.dev s.arg.tag true (peerType s slot) old)) := by
  change execPeerRequest s = _
  rw [execPeerRequest]
  dsimp only
  rw [hs]
  refine congrArg _ ((if_neg fun h => Bool.false_ne_true (h.symm.trans hk)).trans ?_)
  rw [hop]
  refine (if_neg ?_).trans ?_
  · rintro (h | h)
    · rw [List.contains_iff_mem.2 hn] at h
      exact Bool.false_ne_true h
    · exact h hv
  · rw [hp]
    rfl

/-! ### Links -/

theorem exec_vplPortDown (s : State) : exec .vplPortDown s = .next
    ((s.reqs.filter fun r => r.st == .remote && hmeHome r.hme == 10 && r.port == s.arg.port.toNat).foldl remoteFails
      { s with io := { s.io with vplUp := s.io.vplUp &&& ~~~(BitVec.ofNat 12 (2 ^ s.arg.port.toNat)) } }) := rfl

theorem exec_klLinkDown (s : State) : exec .klLinkDown s = .next
    ((s.reqs.filter fun r => (r.st == .remote || r.st == .pri) && hmeHome r.hme == 8).foldl remoteFails
      { s with io := { s.io with klUp := false, klDegr := false, notifies := []
                                 klNdrop := BitVec.ofNat 16 (Nat.min (s.io.klNdrop.toNat + s.io.notifies.length) 0xFFFF) } }) := rfl

theorem exec_vplLinkUp (s : State) : exec .vplLinkUp s = .next (if s.arg.port.toNat > 11 then s
    else { s with io := { s.io with vplUp := s.io.vplUp ||| BitVec.ofNat 12 (2 ^ s.arg.port.toNat), vplDevno := s.arg.dev } }) := rfl

end

/-- Settles O37. -/
theorem linkEvents : Obligations.LinkEvents := by
  unfold Obligations.LinkEvents
  intro s a fails home sent
  refine ⟨fun r hr => ⟨?_, fun hh => exec_hostRefusedTranslation hr hh, ?_⟩, away_still, fun r hr => ⟨pageResponse_refused hr, ?_⟩,
    exec_atsInvalidation s, ?_, exec_vplPortDown s, exec_vplLinkUp s, rfl, exec_klLinkDown s⟩
  · exact (exec_remoteHomeResponse hr).trans (congrArg _ (if_congr answer_iff rfl rfl))
  · exact (exec_vplTimeout hr).trans (congrArg _ (if_congr peerLate_iff rfl rfl))
  · intro ho s1 w hw
    have hx := pageResponse_granted hr ho hw
    refine ⟨fun hb => hx.trans (congrArg _ (if_neg ?_)), fun hb hm => hx.trans (congrArg _ (if_pos ⟨hb, by simpa using hm⟩))⟩
    rintro ⟨hg, hh⟩
    obtain h | h := hb
    · exact Bool.false_ne_true (hg.symm.trans h)
    · exact h (by simpa using hh)
  · intro slot hs r va mt no
    refine ⟨peer_unknown hs, fun hk => ⟨fun n s1 bs hop => peer_load hs hk hop, fun s1 hop => peer_store hs hk hop,
      fun s1 acc hop => peer_store_fails hs hk hop, fun op ty n hop => ⟨peer_atom_refused hs hk hop, fun hn hv s1 old => peer_atom hs hk hop hn hv⟩⟩⟩

end Sys2Proof.EventProofs

/-! PROOFS. Resets, power, firmware and life cycle (05 R120, R124 to R126, 01 R16, R21, R22, 02 R53). -/

namespace Sys2Proof.EventProofs

open Sys2Proof Sys2Proof.Machine

section
variable {s : State}

theorem exec_powerOnReset (s : State) : exec .powerOnReset s = .next (if s.arg.data = [] then Claims.wiped s 1
    else { Claims.wiped s 1 with io := { (Claims.wiped s 1).io with tiers := portsAt (s.arg.data.take 32) } }) := by
  change Host.Outcome.next (if s.arg.data.isEmpty = true then Claims.wiped s 1
    else { Claims.wiped s 1 with io := { (Claims.wiped s 1).io with tiers := portsAt (s.arg.data.take 32) } }) = _
  exact congrArg _ (if_congr List.isEmpty_iff rfl rfl)

theorem exec_pcieConfigurationRequest (s : State) : exec .pcieConfigurationRequest s
    = .next (Claims.said s (if s.dev.ready = false then .retry s.arg.tag
        else .host s.arg.tag true (bytesOf 4 (Config.free64 s.freeNo 0).toNat))) :=
  congrArg _ (apply_ite (Claims.said s) ..).symm

theorem exec_firmwareUpdate (s : State) : exec .firmwareUpdate s = .next (if s.arg.ok = true ∧ s.arg.ok2 = true
    then { s with dev := { s.dev with firmware := s.arg.id } } else { s with dev := { s.dev with fwFailed := true } }) :=
  congrArg _ (if_congr Bool.and_eq_true_iff rfl rfl)

/-- A transition from a phase, when the signature verifies. -/
theorem phase_from (s : State) (n lc : BitVec 2) : (if (s.arg.ok && s.dev.lc == n) = true then lifeCycle s lc else s)
    = if s.arg.ok = true ∧ s.dev.lc = n then Claims.phase s lc else s :=
  if_congr (by rw [Bool.and_eq_true, beq_iff_eq]) rfl rfl

end

/-- Settles O38. -/
theorem deviceEvents : Obligations.DeviceEvents := by
  unfold Obligations.DeviceEvents
  intro s a
  exact ⟨exec_powerOnReset s, rfl, rfl, rfl, rfl, rfl, exec_pcieConfigurationRequest s, rfl, rfl, exec_firmwareUpdate s,
    congrArg Host.Outcome.next (phase_from s 0 1), congrArg Host.Outcome.next (phase_from s 1 2),
    congrArg Host.Outcome.next (phase_from s 2 1), rfl⟩

end Sys2Proof.EventProofs

/-! PROOFS. Memory errors, CXL extents and links (02 R28, R30, R31). -/

namespace Sys2Proof.EventProofs

open Sys2Proof Sys2Proof.Machine

section
variable {s s1 : State}

/-! ### Memory errors -/

theorem poisonAt_leaf {slot w lg at_ l va : Nat} {asid : Half} (hs : slotOfAsid s asid = some slot) (hw : hmWalk s slot va = .hme w)
    (hb : hmeBad w = false) (hh : hmeHome w < 8) (hl : homeWalk s (hmeHome w) slot asid va = (s1, .leaf lg at_ l))
    (hbad : leafBad s1 (hmeHome w) lg l = false) (hv : leafV l = true) (ht : leafTier l ≠ 3) :
    poisonAt s asid va = poisonPage s1 ⟨hmeHome w, w, lg, at_, l, leafPa l + va % 2 ^ lg⟩ asid va := by
  rw [poisonAt, hs]
  dsimp only
  rw [hw]
  refine (if_neg ?_).trans ?_
  · rintro (h | h)
    · exact Bool.false_ne_true (hb.symm.trans h)
    · omega
  · rw [hl]
    refine if_neg ?_
    rintro (h | h | h)
    · exact Bool.false_ne_true (hbad.symm.trans h)
    · exact Bool.false_ne_true (h.symm.trans hv)
    · exact ht h

theorem poisonAt_none {va : Nat} {asid : Half} (hs : slotOfAsid s asid = none) : poisonAt s asid va = s := by
  rw [poisonAt, hs]

/-- The sector of a grain that an error names. -/
def sectorOf (s : State) (g : Grain) : Nat := (s.arg.va.toNat - g.va.toNat) / 32

theorem cacheError_dirty {g : Grain} (hg : findGrain s s.arg.holder s.arg.asid s.arg.va.toNat = some g) (hm : g.st = .modified)
    (hd : bitOf g.dirty (sectorOf s g) = true) :
    (g.pa.isSome → exec .cacheSoftError s = .next (poisonAt s g.asid s.arg.va.toNat))
    ∧ (g.pa = none → exec .cacheSoftError s = .next (recallWhere s true fun x => x.hostLine g.asid g.va.toNat g.size)) := by
  have hc : (g.st == .modified && bitOf g.dirty (sectorOf s g)) = true := by rw [hm, hd]; rfl
  change (_ → execCacheSoftError s = _) ∧ (_ → execCacheSoftError s = _)
  rw [execCacheSoftError, hg]
  refine ⟨fun hp => congrArg _ ((if_pos hc).trans ?_), fun hp => congrArg _ ((if_pos hc).trans ?_)⟩
  · obtain ⟨pa, hpa⟩ := Option.isSome_iff_exists.1 hp
    rw [hpa]
  · rw [hp]

theorem cacheError_clean {g : Grain} (hg : findGrain s s.arg.holder s.arg.asid s.arg.va.toNat = some g) (hc : g.cnt ≠ .drained)
    (hd : g.st ≠ .modified ∨ bitOf g.dirty (sectorOf s g) = false) :
    exec .cacheSoftError s = .next (seatGrain s { g with lost := g.lost ||| 2 ^ sectorOf s g }) := by
  change execCacheSoftError s = _
  rw [execCacheSoftError, hg]
  refine congrArg _ ((if_neg ?_).trans (if_neg fun h => hc (beq_iff_eq.1 h)))
  intro h
  obtain ⟨hm, hb⟩ := Bool.and_eq_true_iff.1 h
  exact hd.elim (fun h => h (beq_iff_eq.1 hm)) fun h => Bool.false_ne_true (h.symm.trans hb)

/-! ### CXL ports -/

theorem capOf_eq (xs : List (Nat × Nat)) : capOf xs = Claims.capacity xs := by
  rw [capOf, Claims.capacity, foldl_add_sum, Nat.zero_add]

theorem withExtents_eq (t : Tier) (xs : List (Nat × Nat)) : withExtents t xs = { t with extents := xs, cap := Claims.capacity xs } := by
  rw [withExtents, capOf_eq]

theorem extentMeets_iff {x y : Nat × Nat} : extentMeets x y = true ↔ ¬ (x.1 + x.2 ≤ y.1 ∨ y.1 + y.2 ≤ x.1) := by
  rw [extentMeets, Bool.and_eq_true, decide_eq_true_eq, decide_eq_true_eq]
  omega

/-- An extent that a port takes. -/
theorem extentFits_iff {t : Tier} {p : Nat} {x : Nat × Nat} :
    ¬ (p ≥ 8 ∨ t.mode ≠ 2 ∨ x.2 = 0 ∨ x.1 + x.2 > 2 ^ 14 ∨ (t.extents.any (extentMeets x)) = true)
      ↔ p < 8 ∧ t.mode = 2 ∧ x.2 ≠ 0 ∧ x.1 + x.2 ≤ 2 ^ 14 ∧ ∀ y ∈ t.extents, x.1 + x.2 ≤ y.1 ∨ y.1 + y.2 ≤ x.1 := by
  have hany : (t.extents.any (extentMeets x)) = true ↔ ¬ ∀ y ∈ t.extents, x.1 + x.2 ≤ y.1 ∨ y.1 + y.2 ≤ x.1 := by
    simp only [List.any_eq_true, extentMeets_iff]
    push Not
    rfl
  rw [hany]
  simp only [not_or, not_not, Nat.not_le, Nat.not_lt, ge_iff_le, gt_iff_lt, ne_eq]

theorem exec_cxlExtentAdd (s : State) : exec .cxlExtentAdd s = .next
    (if s.arg.port.toNat < 8 ∧ (Claims.port s).mode = 2 ∧ s.arg.len ≠ 0 ∧ s.arg.off + s.arg.len ≤ 2 ^ 14
        ∧ ∀ y ∈ (Claims.port s).extents, s.arg.off + s.arg.len ≤ y.1 ∨ y.1 + y.2 ≤ s.arg.off
     then Claims.withPort s { Claims.port s with
       extents := (Claims.port s).extents ++ [(s.arg.off, s.arg.len)]
       cap := Claims.capacity ((Claims.port s).extents ++ [(s.arg.off, s.arg.len)]) } else s) := by
  change Host.Outcome.next (if _ then s else Claims.withPort s (withExtents (Claims.port s) _)) = _
  rw [withExtents_eq]
  refine congrArg _ ?_
  rw [← ite_not]
  exact if_congr (extentFits_iff (x := (s.arg.off, s.arg.len))) rfl rfl

/-- An extent that a port gives back. -/
def extentGranted (s : State) : Prop :=
  (Claims.port s).mode = 2 ∧ (s.arg.off, s.arg.len) ∈ (Claims.port s).extents
  ∧ ∀ y ∈ mappedLeaves s, ¬ (leafPa y.2.w < (16 + s.arg.port.toNat) * 2 ^ 44 + (s.arg.off + s.arg.len) * 2 ^ 30
      ∧ (16 + s.arg.port.toNat) * 2 ^ 44 + s.arg.off * 2 ^ 30 < leafPa y.2.w + 2 ^ y.2.lg)

theorem mappedIn_empty (s : State) (lo hi : Nat) : (mappedIn s lo hi).isEmpty = true
    ↔ ∀ y ∈ mappedLeaves s, ¬ (leafPa y.2.w < hi ∧ lo < leafPa y.2.w + 2 ^ y.2.lg) := by
  simp only [mappedIn, List.isEmpty_iff, List.filter_eq_nil_iff, Bool.and_eq_true, decide_eq_true_eq]

theorem extentGranted_iff (s : State) : extentGranted s ↔ (Claims.port s).mode = 2
    ∧ ((Claims.port s).extents.contains (s.arg.off, s.arg.len)) = true
    ∧ (mappedIn s ((0x10 + s.arg.port.toNat) * 2 ^ 44 + s.arg.off * 2 ^ 30)
        ((0x10 + s.arg.port.toNat) * 2 ^ 44 + (s.arg.off + s.arg.len) * 2 ^ 30)).isEmpty = true := by
  rw [mappedIn_empty, List.contains_iff_mem]
  rfl

theorem extentRelease_granted (h : extentGranted s) : exec .cxlExtentRelease s = .next (Claims.said (Claims.withPort s
    { Claims.port s with
      extents := (Claims.port s).extents.filter (· != (s.arg.off, s.arg.len))
      cap := Claims.capacity ((Claims.port s).extents.filter (· != (s.arg.off, s.arg.len))) })
    (.cxlAnswer s.arg.port.toNat true)) := by
  refine (congrArg Host.Outcome.next (if_pos ((extentGranted_iff s).1 h))).trans ?_
  rw [withExtents_eq]
  rfl

theorem extentRelease_refused (h : ¬ extentGranted s) :
    exec .cxlExtentRelease s = .next (Claims.said s (.cxlAnswer s.arg.port.toNat false)) :=
  congrArg Host.Outcome.next (if_neg fun hg => h ((extentGranted_iff s).2 hg))

end

/-- Settles O39. -/
theorem memoryErrorAndPortEvents : Obligations.MemoryErrorAndPortEvents := by
  unfold Obligations.MemoryErrorAndPortEvents
  intro s a t x base
  refine ⟨rfl, fun slot w s1 lg at_ l hs hw hb hh hl hbad hv ht => ?_, fun hs => ?_, fun g hg => ?_, exec_cxlExtentAdd s,
    ⟨extentRelease_granted, extentRelease_refused⟩, fun hm => ?_, ?_⟩
  · exact congrArg Host.Outcome.next (poisonAt_leaf hs hw hb hh hl hbad hv ht)
  · exact congrArg Host.Outcome.next (poisonAt_none hs)
  · exact ⟨fun hp hm hd => (cacheError_dirty hg hm hd).1 hp, fun hc hd => cacheError_clean hg hc hd,
      fun hp hm hd => (cacheError_dirty hg hm hd).2 hp⟩
  · exact congrArg Host.Outcome.next (if_neg fun h => h hm)
  · exact congrArg Host.Outcome.next (ite_not ..)

end Sys2Proof.EventProofs

/-! PROOFS. Reads and writes of control registers, NOTIFY (04 R83 to R97, 05 R109, R118, R120). -/

namespace Sys2Proof.EventProofs

open Sys2Proof Sys2Proof.Machine

section
variable {s : State} {d : Die}

/-! ### Reads -/

theorem readAt_svcerr (h : s.dev.lc ≠ 3) : readAt s 0x28 =
    (let s1 : State := if s.arg.svp then s
        else Claims.said s (.reg s.arg.tag (bytesOf (if s.arg.wide then 8 else 4) s.dev.svcerr.toNat))
     { s1 with dev := { s.dev with svcerr := 0 } }) := by
  have hw : winterSilent s 0x28 = false := by
    rw [winterSilent, beq_eq_false_iff_ne.mpr h]
    rfl
  rw [readAt, if_neg (by simp [hw])]
  have hv : regRead s (0x28 / 8 * 8) / (if 0x28 % 8 = 4 then 2 ^ 32 else 1) = s.dev.svcerr.toNat := Nat.div_one _
  dsimp only
  rw [hv]
  cases s.arg.svp <;> rfl

theorem readAt_klstat (h : s.dev.lc ≠ 3) : readAt s 0x181000 =
    (let s1 : State := if s.arg.svp then s else Claims.said s (.reg s.arg.tag (bytesOf (if s.arg.wide then 8 else 4)
        (s.io.klNdrop.toNat * 2 ^ 16 + flagBit s.io.klDegr 1 + flagBit s.io.klUp 0)))
     { s1 with io := { s.io with klNdrop := 0 } }) := by
  have hw : winterSilent s 0x181000 = false := by
    rw [winterSilent, beq_eq_false_iff_ne.mpr h]
    rfl
  rw [readAt, if_neg (by simp [hw])]
  have hv : regRead s (0x181000 / 8 * 8) / (if 0x181000 % 8 = 4 then 2 ^ 32 else 1) =
      s.io.klNdrop.toNat * 2 ^ 16 + flagBit s.io.klDegr 1 + flagBit s.io.klUp 0 := Nat.div_one _
  dsimp only
  rw [hv]
  cases s.arg.svp <;> rfl

theorem readAt_winter {o : Nat} (h : s.dev.lc = 3) (h0 : o / 8 * 8 ≠ 0) (h8 : o / 8 * 8 ≠ 0x18) : readAt s o = s :=
  if_pos (by simp [winterSilent, h, h0, h8])

/-! ### Posted writes -/

theorem postedWait_iff : postedWait s = true ↔ s.arg.svp = false ∧ 256 ≤ s.io.notifies.length := by
  simp [postedWait]

/-! ### Writes of a compute die's block -/

theorem bitsOf_extract (x : Word) (lo n : Nat) : bitsOf x.toNat lo n = (x.extractLsb' lo n).toNat := by
  rw [BitVec.extractLsb'_toNat, Nat.shiftRight_eq_div_pow, bitsOf]

theorem bitsOf_bne (x y : Word) (lo n : Nat) :
    (bitsOf x.toNat lo n != bitsOf y.toNat lo n) = (x.extractLsb' lo n != y.extractLsb' lo n) := by
  rw [bitsOf_extract, bitsOf_extract, Bool.eq_iff_iff, bne_iff_ne, bne_iff_ne]
  exact not_congr BitVec.toNat_inj

theorem wdtWrite_eq (ms : Nat) : wdtWrite s (ms % 65536) = { s with dev := { s.dev with
    wdtStart := s.timeNs.toNat, svpwdt := if ms % 65536 = 0 then s.dev.svpwdt else BitVec.ofNat 16 (ms % 65536) } } := by
  rw [wdtWrite, Nat.mod_mod]

theorem heatCtlWrite_eq (v : Word) : heatCtlWrite s d v =
    { d with heatctl := v, heatOpen := [Claims.heatLost s d v 0, Claims.heatLost s d v 1] } := by
  rw [heatCtlWrite, Claims.heatLost, Claims.heatLost, bitsOf_bne]

theorem heatTouched_eq (w : Nat) : heatTouched d w = { d with heatOpen := Claims.heatTouch d w } := by
  rw [heatTouched, Claims.heatTouch]
  split <;> rfl

theorem keep_eq (v lo hi : Nat) : keep v lo hi = Claims.bits v lo hi := rfl

theorem regMerge_wide (old off : Nat) {v : Nat} (hv : v < 2 ^ 64) : regMerge old off v true = v :=
  Nat.mod_eq_of_lt hv

/-- Each row of the table is one case of a 64-bit write of the block. -/
theorem dieWrite_row {die v : Nat} (hv : v < 2 ^ 64) {r : Nat × (State → Die → Nat → Option Die)} (hr : r ∈ Claims.dieTable) :
    dieWrite s die r.1 v true = match r.2 s (getDie s die) v with | some d => setDie s die d | none => s := by
  revert r
  simp only [Claims.dieTable, List.forall_mem_cons, dieWrite, regMerge_wide _ _ hv, heatTouched_eq, heatCtlWrite_eq]
  refine ⟨rfl, rfl, ?_, rfl, rfl, rfl, rfl, rfl, rfl, rfl, rfl, trivial, ?_, trivial, fun _ h => absurd h List.not_mem_nil⟩
  · by_cases h : v % 16 ≤ 12 ∧ 8 ≤ bitsOf v 8 5 ∧ bitsOf v 8 5 ≤ 20
    · rw [if_pos h]
      exact if_neg (by omega)
    · rw [if_neg h]
      exact if_pos (by omega)
  · split <;> rfl

/-! ### A write and its checks -/

/-- What a write does that is not held, well formed, and of a register of function 0. -/
def stored (s : State) : State :=
  let a := s.arg
  let v := a.val.toNat
  let o := a.off
  if o < 0x10000 then devWrite s o v a.wide a.svp
  else if a.svp = false then s
  else if 0x100000 ≤ o ∧ o < 0x180000 then ioWrite s false (o - 0x100000) v a.wide
  else if 0x180000 ≤ o ∧ o < 0x200000 then ioWrite s true (o - 0x180000) v a.wide
  else if 0x400000 ≤ o ∧ o < 0x800000 then dieWrite s ((o - 0x400000) / 0x80000) ((o - 0x400000) % 0x80000) v a.wide
  else s

/-- A write waits: outside while the host's NOTIFYs are full, or while the service processor is frozen. -/
def writeWaits (s : State) : Bool := if s.arg.svp then s.svpFrozen else postedWait s

theorem writeWaits_iff :
    writeWaits s = true ↔ if s.arg.svp then s.svpFrozen = true else 256 ≤ s.io.notifies.length := by
  cases h : s.arg.svp <;> simp [writeWaits, postedWait_iff, h]

theorem exec_registerWrite (s : State) : exec .registerWrite s = .next (
    if writeWaits s then s
    else if s.arg.narrow || s.arg.off % (if s.arg.wide then 8 else 4) != 0 then Claims.said s (.abort s.arg.tag)
    else if !s.arg.svp && s.arg.fn != 0 then s
    else stored s) := rfl

theorem registerWrite_waits (h : writeWaits s = true) : exec .registerWrite s = .next s :=
  (exec_registerWrite s).trans (congrArg Host.Outcome.next (if_pos h))

theorem registerWrite_malformed (h : writeWaits s = false)
    (hbad : s.arg.narrow = true ∨ s.arg.off % (if s.arg.wide then 8 else 4) ≠ 0) :
    exec .registerWrite s = .next (Claims.said s (.abort s.arg.tag)) := by
  rw [exec_registerWrite, if_neg (by simp [h]), if_pos (by simpa using hbad)]

theorem registerWrite_formed (hn : s.arg.narrow = false) (ho : s.arg.off % (if s.arg.wide then 8 else 4) = 0) :
    exec .registerWrite s =
      .next (if writeWaits s then s else if !s.arg.svp && s.arg.fn != 0 then s else stored s) := by
  have hok : ¬ (s.arg.narrow || s.arg.off % (if s.arg.wide then 8 else 4) != 0) = true := by simp [hn, ho]
  rw [exec_registerWrite, if_neg hok]

theorem registerWrite_svp (hsvp : s.arg.svp = true) (hf : s.svpFrozen = false) (hn : s.arg.narrow = false)
    (ho : s.arg.off % (if s.arg.wide then 8 else 4) = 0) : exec .registerWrite s = .next (stored s) := by
  rw [registerWrite_formed hn ho, if_neg (by simp [writeWaits, hsvp, hf]), if_neg (by simp [hsvp])]

/-- Beyond the device block the host stores nothing. -/
theorem stored_host (hsvp : s.arg.svp = false) (ho : 0x10000 ≤ s.arg.off) : stored s = s :=
  (if_neg (Nat.not_lt.mpr ho)).trans (if_pos hsvp)

theorem stored_die (hsvp : s.arg.svp = true) {die o : Nat} (hd : die < 8) (ho : o < 0x80000)
    (h : s.arg.off = 0x400000 + 0x80000 * die + o) : stored s = dieWrite s die o s.arg.val.toNat s.arg.wide := by
  have hdie : (s.arg.off - 0x400000) / 0x80000 = die := by omega
  have hoff : (s.arg.off - 0x400000) % 0x80000 = o := by omega
  rw [stored, if_neg (by omega), if_neg (by simp [hsvp]), if_neg (by omega), if_neg (by omega), if_pos (by omega), hdie, hoff]

theorem dieTable_off {r : Nat × (State → Die → Nat → Option Die)} (hr : r ∈ Claims.dieTable) :
    r.1 < 0x80000 ∧ r.1 % 8 = 0 := by
  have hall : ∀ o ∈ Claims.dieTable.map (·.1), o < 0x80000 ∧ o % 8 = 0 := by decide
  exact hall r.1 (List.mem_map_of_mem hr)

theorem stored_ccbbase (hsvp : s.arg.svp = true) (hw : s.arg.wide = true) (h : s.arg.off = 0x20) : stored s =
    { s with dev := { s.dev with ccbbase := BitVec.ofNat 64 (Claims.bits s.arg.val.toNat 18 52) } } := by
  rw [stored, h, hsvp, hw]
  refine (if_pos (by omega)).trans ?_
  rw [devWrite]
  dsimp only
  rw [if_neg (by omega), if_pos (by simp), regMerge_wide _ _ s.arg.val.isLt, keep_eq]

end

/-- Settles O40: what each register's read clears and what each write stores, by cases on its checks. -/
theorem registerEvents : Obligations.RegisterEvents := by
  intro s a reads full waits
  refine ⟨fun h => ⟨congrArg Host.Outcome.next (readAt_winter h (by decide) (by decide)),
      congrArg Host.Outcome.next (readAt_winter h (by decide) (by decide))⟩,
    fun h => congrArg Host.Outcome.next (readAt_svcerr h), fun h => congrArg Host.Outcome.next (readAt_klstat h),
    ?_, ?_, ?_, ?_, ?_, ?_, ?_, ?_, ?_, ?_, rfl⟩
  · exact congrArg Host.Outcome.next (if_congr postedWait_iff rfl rfl)
  · exact congrArg Host.Outcome.next (if_congr postedWait_iff rfl rfl)
  · exact congrArg Host.Outcome.next (if_congr (by simp [a]) (wdtWrite_eq _) rfl)
  · exact fun h => registerWrite_waits (writeWaits_iff.mpr h)
  · exact fun h => registerWrite_malformed (Bool.eq_false_iff.mpr (mt writeWaits_iff.mp h))
  · intro hn ho hsvp
    refine ⟨fun hfn => ?_, fun hoff => ?_⟩
    · refine (registerWrite_formed hn ho).trans (congrArg Host.Outcome.next ?_)
      have hother : (!s.arg.svp && s.arg.fn != 0) = true := by
        rw [hsvp]
        exact bne_iff_ne.mpr hfn
      rw [if_pos hother, ite_self]
    · refine (registerWrite_formed hn ho).trans (congrArg Host.Outcome.next ?_)
      rw [stored_host hsvp hoff, ite_self, ite_self]
  · intro hsvp hf hn hw r hr die hd hoff
    obtain ⟨hlt, hal⟩ := dieTable_off hr
    have ho : s.arg.off % (if s.arg.wide then 8 else 4) = 0 := by
      rw [if_pos hw, show s.arg.off = _ from hoff]
      omega
    rw [registerWrite_svp hsvp hf hn ho, stored_die hsvp hd hlt hoff, show s.arg.wide = true from hw,
      dieWrite_row s.arg.val.isLt hr] <;> rfl
  · intro hsvp hf hn hw hoff
    have ho : s.arg.off % (if s.arg.wide then 8 else 4) = 0 := by
      rw [if_pos hw, show s.arg.off = _ from hoff]
    rw [registerWrite_svp hsvp hf hn ho, stored_ccbbase hsvp hw hoff]
  · exact fun h => congrArg Host.Outcome.next (if_pos h)
  · intro h v seq
    refine congrArg Host.Outcome.next ((if_neg (Nat.not_le.mpr h)).trans ?_)
    have hseq : (if s.arg.kl then some s.arg.token
        else if s.arg.wide && bitOf s.arg.val.toNat 31 then some (BitVec.ofNat 32 (s.arg.val.toNat / 2 ^ 32)) else none) = seq := by
      simp only [seq, a, v, Bool.and_eq_true]
    dsimp only
    rw [hseq]

end Sys2Proof.EventProofs

/-! PROOFS. Grids and teams: taking, placement, retirement, slices, spills, moves and losses (06 R133 to R161, 13 R303 to
R305). -/

namespace Sys2Proof.EventProofs

open Sys2Proof Sys2Proof.Machine

section
variable {s s1 s2 : State}

/-! ### Taking launches and placing teams -/

theorem launchTake_still (h : ctxLive s s.arg.slot.toNat = false ∨ s.svpFrozen = true) : Claims.still .launchTake s :=
  congrArg Host.Outcome.next (if_pos h)

theorem launchTake_takes (hlive : ctxLive s s.arg.slot.toNat = true) (hf : s.svpFrozen = false)
    (hdone : ∀ x ∈ s.grids.filter (fun x => x.2.slot == s.arg.slot.toNat && !x.2.complete), x.2.waitGx = false ∧ x.2.next = x.2.count)
    {o : QOpen} {e : List Byte}
    (hload : qLoad s 0 s.arg.slot.toNat (ctxAsid s s.arg.slot.toNat) 0 (fun _ => false) qHead accLoad = (s1, .inr o))
    (hsome : qTail o.q ≠ qHead o.q)
    (hread : qRead s1 o.rt (ctxAsid s s.arg.slot.toNat) (slotVa o.q (qHead o.q)) = (s2, e))
    (hheld : lrHeld s s.arg.slot.toNat (fieldOf e 0 8) = false) :
    exec .launchTake s = .next (
      let slot := s.arg.slot.toNat
      let key := 65536 * slot + qHead o.q
      let s3 := qWrite s2 o.qt (ctxAsid s slot) (qcbVa s slot 0) (qSet o.q 8 2 (qHead o.q + 1))
      gridNew { s3 with launchers := mdel s3.launchers key } slot e (mget s3.launchers key)) := by
  have hnone : (s.grids.filter fun x => x.2.slot == s.arg.slot.toNat && !x.2.complete).find? (fun x => x.2.waitGx) = none :=
    List.find?_eq_none.mpr fun x hx => by simp [(hdone x hx).1]
  have hplaced : ((s.grids.filter fun x => x.2.slot == s.arg.slot.toNat && !x.2.complete).any
      fun x => decide (x.2.next < x.2.count)) = false :=
    List.any_eq_false.mpr fun x hx => by simp [(hdone x hx).2]
  change execLaunchTake s = _
  rw [execLaunchTake]
  dsimp only
  rw [if_neg (by simp [hlive, hf]), hnone]
  dsimp only
  rw [hplaced, hload]
  dsimp only
  rw [if_neg (by simp), if_neg hsome, hread]
  dsimp only
  rw [if_neg (by simp [hheld])]

theorem getSet_of_some {k : Nat} {p : Machine.PSet} (h : mget s.psets k = some p) : getSet s k = p := by
  rw [getSet, mgetD, h]
  rfl

theorem settleOwner_bullpen {k c : Nat} (h : (getSet s k).bullpen = some c) : settleOwner s k = s :=
  if_neg (by simp [h])

theorem settleOwner_owner {k : Nat} (h : ownerDone s k = false) : settleOwner s k = s :=
  if_neg (by simp [h])

/-- A set's next team is of its bullpen's context, or of its owner, whose slice stands. -/
theorem teamPlace_of_context {p : Machine.PSet} {c : Nat} (hf : s.svpFrozen = false) (hp : mget s.psets s.arg.slot.toNat = some p)
    (hc : p.bullpen = some c ∨ (p.bullpen = none ∧ p.swap = none ∧ p.owner = some c ∧ ownerDone s s.arg.slot.toNat = false))
    (hlive : ctxLive s c = true) :
    exec .teamPlace s = .next (
      let k := s.arg.slot.toNat
      match dueTeam s k c p.bullpen.isSome with
      | none => s
      | some (g, none) => placeFresh s k g none
      | some (g, some id) =>
        if (teamOf s id).state = .pending then placeFresh s k g (some id)
        else
          match findGroup s false k (gridOf s (teamOf s id)).lr ((mget s.spines id).any (·.live)) (returnDemands s id) fun _ => true with
          | some (i, cores, places) =>
            let s := returnTeam s id cores places
            { s with
              grids := mmod s.grids g fun g => { g with again := g.again.filter fun x => x != id }
              psets := mmod s.psets k fun p => { p with ptr := (i + 1) % p.cores.length, due := none } }
          | none => s) := by
  have hset : getSet s s.arg.slot.toNat = p := getSet_of_some hp
  change execTeamPlace s = _
  rw [execTeamPlace]
  dsimp only
  rw [if_neg (by simp [hf, hp])]
  rcases hc with hb | ⟨hb, hsw, ho, hod⟩
  · rw [settleOwner_bullpen (hset ▸ hb), hset, hb]
    dsimp only
    rw [if_neg (by simp [hlive])] <;> rfl
  · rw [settleOwner_owner hod, hset, hb, hsw, ho]
    dsimp only
    rw [Option.isSome_none, if_neg Bool.false_ne_true]
    dsimp only
    rw [if_neg (by simp [hlive])] <;> rfl

theorem teamPlace_still (hf : s.svpFrozen = true) : Claims.still .teamPlace s :=
  congrArg Host.Outcome.next (if_pos (Or.inl hf))

/-! ### Retirement -/

/-- The merged stores of a team's context whose agents are gone are written. -/
def goneDrained (s : State) (t : Team) : State :=
  wcDrain s fun e => e.agents.any (deadAgent s) && e.asid == ctxAsid s (gridOf s t).slot

theorem teamRetire_waits {t : Team} (ht : mget s.teams s.arg.id = some t)
    (h : t.counted = true ∨ t.exitReq.isSome = true
      ∨ (!(t.state == .retired || t.state == .exited && t.children == 0 && !teamOps s s.arg.id)) = true) :
    Claims.still .teamRetire s := by
  change execTeamRetire s = _
  rw [execTeamRetire, ht]
  exact congrArg Host.Outcome.next (if_pos h)

/-- A team may retire: it is Retired already, or it has exited and its children, operations and stores are complete. -/
def complete (s : State) (t : Team) : Prop :=
  t.state = .retired ∨ (t.state = .exited ∧ t.children = 0 ∧ teamOps s s.arg.id = false
    ∧ storesOut (goneDrained s t) s.arg.id = false
    ∧ ∀ e ∈ (goneDrained s t).wc, e.asid = ctxAsid s (gridOf s t).slot → e.agents.any (deadAgent (goneDrained s t)) = false)

theorem retireDue_of_complete {t : Team} (hc : t.counted = false) (he : t.exitReq = none) (h : complete s t) :
    ¬ (t.counted = true ∨ t.exitReq.isSome = true
      ∨ (!(t.state == .retired || t.state == .exited && t.children == 0 && !teamOps s s.arg.id)) = true) := by
  rcases h with hr | ⟨hx, hch, hops, -⟩ <;> simp [*]

theorem storesPerformed_of_complete {t : Team} (h : complete s t) :
    ¬ (t.state = .exited ∧ (storesOut (goneDrained s t) s.arg.id = true ∨ (goneDrained s t).wc.any (fun e =>
      e.agents.any (deadAgent (goneDrained s t)) && e.asid == ctxAsid s (gridOf s t).slot) = true)) := by
  rintro ⟨hx, hwait⟩
  rcases h with hr | ⟨-, -, -, hso, hwc⟩
  · rw [hr] at hx
    cases hx
  · rcases hwait with h | h
    · rw [hso] at h
      cases h
    · obtain ⟨e, hmem, he⟩ := List.any_eq_true.mp h
      rw [Bool.and_eq_true, beq_iff_eq] at he
      rw [hwc e hmem he.2] at he
      cases he.1

theorem teamRetire_unrecorded {t : Team} (ht : mget s.teams s.arg.id = some t) (hc : t.counted = false) (he : t.exitReq = none)
    (h : complete s t) (hrec : (gridOf (goneDrained s t) t).lr.exitrec = 0) :
    exec .teamRetire s = .next (retireTeam (goneDrained s t) s.arg.id) := by
  change execTeamRetire s = _
  rw [execTeamRetire, ht]
  exact congrArg Host.Outcome.next ((if_neg (retireDue_of_complete hc he h)).trans
    ((if_neg (storesPerformed_of_complete h)).trans (if_pos (Or.inl hrec))))

theorem teamRetire_recorded {t : Team} (ht : mget s.teams s.arg.id = some t) (hc : t.counted = false) (he : t.exitReq = none)
    (h : complete s t) (hrec : (gridOf (goneDrained s t) t).lr.exitrec ≠ 0) (hd : t.exitDone = false)
    (hst : storeRange (goneDrained s t) (rqDevice (goneDrained s t) (t.cores.getD 0 0 / 256) (gridOf s t).slot)
      ((gridOf (goneDrained s t) t).lr.exitrec.toNat + 64 * t.index) (exitRecord (goneDrained s t) t) = (s2, .done)) :
    exec .teamRetire s = .next (retireTeam s2 s.arg.id) := by
  have hput : ¬ ((gridOf (goneDrained s t) t).lr.exitrec = 0 ∨ t.exitDone = true) := by
    rintro (h0 | h0)
    · exact hrec h0
    · rw [hd] at h0
      cases h0
  change execTeamRetire s = _
  rw [execTeamRetire, ht]
  refine congrArg Host.Outcome.next ((if_neg (retireDue_of_complete hc he h)).trans
    ((if_neg (storesPerformed_of_complete h)).trans ((if_neg hput).trans ?_)))
  rw [← goneDrained]
  dsimp only
  rw [hst]

/-! ### Slices and swaps -/

theorem stopFirst_psets (s : State) (id : Nat) : (stopFirst s id).psets = s.psets := by
  rw [stopFirst]
  exact List.foldlRecOn (motive := fun t : State => t.psets = s.psets) _ _ rfl fun t ht d _ => (inOrder_psets ..).trans ht

theorem swapOut_psets (s : State) (id : Nat) : (swapOut s id).psets = s.psets := by
  rw [swapOut, fresh_psets, modTeam_psets]
  dsimp only [stopPasses]
  rw [transit, inOrder_psets, stopFirst_psets]

theorem swapOuts_psets (s : State) (ids : List Nat) : (ids.foldl swapOut s).psets = s.psets :=
  List.foldlRecOn (motive := fun t : State => t.psets = s.psets) _ _ rfl fun t ht id _ => (swapOut_psets t id).trans ht

/-- A set starts its swap with the clock of its first core. -/
theorem startSwap_eq (m : FMap Machine.PSet) (k n : Nat) (clock : Nat → Nat) :
    mmod m k (fun p => { p with swap := some (n, clock (p.cores.getD 0 0 / 256)) }) =
      mmod m k fun p => { p with swap := some (n, clock ((mgetD m k {}).cores.getD 0 0 / 256)) } := by
  rw [mmod, mmod, mgetD]
  cases mget m k <;> rfl

theorem exec_sliceExpiry (s : State) {o : Nat} (ho : (getSet (syncShadows s) s.arg.slot.toNat).owner = some o)
    (hb : (getSet (syncShadows s) s.arg.slot.toNat).bullpen = none) (hsw : (getSet (syncShadows s) s.arg.slot.toNat).swap = none) :
    (let k := s.arg.slot.toNat
     let s0 := syncShadows s
     (s0.timeNs.toNat < (getSet s0 k).sliceStart + sliceNs s0 o → exec .sliceExpiry s = .next s0)
     ∧ ((getSet s0 k).sliceStart + sliceNs s0 o ≤ s0.timeNs.toNat → nextOwner s0 k = none →
        exec .sliceExpiry s = .next { s0 with psets := mmod s0.psets k fun p => { p with sliceStart := s0.timeNs.toNat } })
     ∧ ∀ n, (getSet s0 k).sliceStart + sliceNs s0 o ≤ s0.timeNs.toNat → nextOwner s0 k = some n →
        (∀ x ∈ teamsOn s0 o k, x.2.state ≠ .migrating ∧ (x.2.state = .resident → x.2.stopping = false)) →
        (∀ c ∈ (getSet s0 k).cores, (mgetD s0.cores c {}).shadow = .ready) →
        exec .sliceExpiry s = .next (
          let out := ((teamsOn s0 o k).filter fun x => x.2.state == .resident).map (·.1)
          if out.isEmpty then enterSlice s0 k (some n)
          else
            let t := out.foldl swapOut s0
            { t with psets := mmod t.psets k fun x => { x with swap := some (n, clk t ((getSet s0 k).cores.getD 0 0 / 256)) } })) := by
  intro k s0
  have hexec : exec .sliceExpiry s = execSliceExpiry s := rfl
  rw [execSliceExpiry] at hexec
  dsimp only at hexec
  rw [ho, hb, hsw] at hexec
  dsimp only at hexec
  refine ⟨fun h => hexec.trans (congrArg Host.Outcome.next (if_pos (Or.inr (Or.inr h)))), ?_, ?_⟩
  · intro h hn
    refine hexec.trans (congrArg Host.Outcome.next ((if_neg (by simpa using h)).trans ?_))
    rw [show nextOwner (syncShadows s) s.arg.slot.toNat = none from hn]
  · intro n h hn hmine hready
    have hstay : ¬ (((teamsOn s0 o k).any fun x => x.2.state == .migrating || (x.2.state == .resident && x.2.stopping)) = true
        ∨ ((getSet s0 k).cores.any fun c => (mgetD s0.cores c {}).shadow != .ready) = true) := by
      simp only [List.any_eq_true, not_or, not_exists, not_and]
      refine ⟨fun x hx => ?_, fun c hc => by simp [hready c hc]⟩
      obtain ⟨hm, hr⟩ := hmine x hx
      simpa [hm] using hr
    refine hexec.trans (congrArg Host.Outcome.next ((if_neg (by simpa using h)).trans ?_))
    rw [show nextOwner (syncShadows s) s.arg.slot.toNat = some n from hn]
    refine (if_neg hstay).trans ?_
    dsimp only
    rw [startSwap_eq, swapOuts_psets]
    rfl

theorem dugoutSwap_of_swap {n start : Nat} (h : (getSet s s.arg.slot.toNat).swap = some (n, start)) :
    exec .dugoutSwap s = .next (
      let k := s.arg.slot.toNat
      if clk s ((getSet s k).cores.getD 0 0 / 256) < start + 64 then s
      else
        let draining (c : Nat) : Bool := s.teams.any fun x => x.2.state == .swapped && x.2.stopping && x.2.cores.contains c
        enterSlice { s with cores := (getSet s k).cores.foldl (fun m c =>
          mset m c { mgetD m c {} with shadow := if draining c then .draining else .empty, shadowFor := none }) s.cores } k (some n)) := by
  change execDugoutSwap s = _
  rw [execDugoutSwap]
  dsimp only
  rw [h]

/-- The outgoing teams of a core whose state its shadow bank still holds. -/
def outgoing (s : State) : List Nat :=
  (s.teams.filter fun x => x.2.state == .swapped && x.2.stopping && x.2.cores.contains s.arg.core).map (·.1)

theorem shadowDrain_kept (h : (mgetD s.cores s.arg.core {}).shadow = .draining)
    (hd : (outgoing s).foldl drainTeam (s, true) = (s1, false)) : exec .shadowDrainComplete s = .next s1 := by
  change execShadowDrainComplete s = _
  rw [execShadowDrainComplete]
  refine congrArg Host.Outcome.next ((if_neg (not_not_intro h)).trans ?_)
  rw [← outgoing]
  dsimp only
  rw [hd]

theorem shadowDrain_saved (h : (mgetD s.cores s.arg.core {}).shadow = .draining)
    (hd : (outgoing s).foldl drainTeam (s, true) = (s1, true)) : exec .shadowDrainComplete s = .next (
      let s2 := { s1 with cores := mset s1.cores s.arg.core { mgetD s.cores s.arg.core {} with shadow := .empty, shadowFor := none } }
      match (setOfCore s2 s.arg.core).bind fun k => (getSet s2 k).owner.map (k, ·) with
      | some (k, o) => swapIn true (swappedTeams s2 o k) s2
      | none => s2) := by
  change execShadowDrainComplete s = _
  rw [execShadowDrainComplete]
  refine congrArg Host.Outcome.next ((if_neg (not_not_intro h)).trans ?_)
  rw [← outgoing]
  dsimp only
  rw [hd]
  dsimp only
  cases setOfCore _ s.arg.core with
  | none => rfl
  | some k =>
    dsimp only [Option.bind_some]
    cases (getSet _ k).owner <;> rfl

/-! ### Spills -/

theorem forwardProgress_of_waiting {k id : Nat} {w : Nat × Option Nat} (hk : setOfCore s s.arg.core = some k)
    (hw : waitingTeam s k = some w) (hid : leastRecent s (victims s s.arg.core) = some id) :
    exec .forwardProgressExpiry s = .next (
      let win := (getDie s (s.arg.core / 256)).fpwin.toNat
      if win ≠ 0 ∧ (mgetD s.cores s.arg.core {}).idleSince + win ≤ clk s (s.arg.core / 256) ∧ growDue s s.arg.core = []
      then touchCores (stopTeam { s with psets := mmod s.psets k fun p => { p with due := some w } } id) [s.arg.core] else s) := by
  change execForwardProgressExpiry s = _
  rw [execForwardProgressExpiry]
  dsimp only
  rw [hk]
  dsimp only
  rw [hw, hid]
  refine congrArg Host.Outcome.next ((ite_not _ _ _).symm.trans (if_congr ?_ rfl rfl))
  simp only [not_or, Nat.not_lt, Bool.not_eq_true, Bool.not_eq_false', List.isEmpty_iff]

theorem stopFirst_arg (s : State) (id : Nat) : (stopFirst s id).arg = s.arg := by
  rw [stopFirst]
  exact List.foldlRecOn (motive := fun t : State => t.arg = s.arg) _ _ rfl fun t ht d _ => (inOrder_arg ..).trans ht

theorem stopTeam_arg (s : State) (id : Nat) : (stopTeam s id).arg = s.arg := stopFirst_arg s id

theorem registerGrow_of_victim {x : Nat × Team} (hp : s.arg.part ∈ growDue s s.arg.core) (hv : victims s s.arg.core = [x]) :
    exec .registerGrowExpiry s = .next (
      let t := touchCores (stopTeam s x.1) [s.arg.core]
      let c := mgetD t.cores s.arg.core {}
      let again : CoreSt := { c with growSince := c.growSince.map fun g => if g.1 = s.arg.part then (g.1, clk t (s.arg.core / 256)) else g }
      { t with cores := mset t.cores s.arg.core again }) := by
  have harg : (touchCores (stopTeam s x.1) [s.arg.core]).arg = s.arg := stopTeam_arg s x.1
  change execRegisterGrowExpiry s = _
  rw [execRegisterGrowExpiry]
  dsimp only
  rw [if_neg (by simpa using hp), hv]
  dsimp only [List.foldl_nil]
  simp only [show (touchCores (stopTeam s x.1) [s.arg.core]).arg.part = s.arg.part from congrArg EvArg.part harg]

theorem registerGrow_still (hp : s.arg.part ∉ growDue s s.arg.core) : Claims.still .registerGrowExpiry s :=
  congrArg Host.Outcome.next (if_pos (by simpa using hp))

theorem teamSpill_still {t : Team} (ht : mget s.teams s.arg.id = some t) (h : t.state ≠ .resident ∨ t.stopping = false) :
    Claims.still .teamSpillComplete s := by
  change execTeamSpillComplete s = _
  rw [execTeamSpillComplete, ht]
  exact congrArg Host.Outcome.next (if_pos (h.imp_right Or.inl))

theorem teamSpill_of_quiet {t : Team} {saved : Bool} (ht : mget s.teams s.arg.id = some t) (hst : t.state = .resident)
    (hstop : t.stopping = true) (hl : teamLanded s s.arg.id = true) (hq : teamQuiet s s.arg.id = true)
    (hs : saveImage (ungrant (drainStores s s.arg.id) s.arg.id) s.arg.id = (s1, saved)) :
    exec .teamSpillComplete s = .next (bif saved then
      (let s2 := modTeam (transit (leaveCommon (disarmTeam s1 s.arg.id fun _ => true) s.arg.id) s.arg.id 3) s.arg.id fun t =>
          { t with state := .spilled, stopping := false }
       { s2 with grids := mmod s2.grids t.grid fun g => { g with again := (g.again.filter fun x => x != s.arg.id) ++ [s.arg.id] } })
      else s1) := by
  change execTeamSpillComplete s = _
  rw [execTeamSpillComplete, ht]
  refine congrArg Host.Outcome.next ((if_neg (by simp [hst, hstop, hl, hq])).trans ?_)
  rw [hs]
  cases saved <;> rfl

/-! ### Migration and losses -/

theorem migration_of_stopped {t : Team} {die pop i : Nat} {cores : List Nat} {places : List (List (Nat × Nat))}
    (ht : mget s.teams s.arg.id = some t) (hto : t.migTo = some (die, pop)) (hst : t.state = .migrating)
    (hsq : ∀ x ∈ squadsOf s s.arg.id, stopped s pop x.1 x.2 = true)
    (hpops : ∀ p ∈ s.pops, p.1 ≠ pop → (squadAny s p.2.squad).map (·.team) = some s.arg.id → mustLand s p.1 p.2 = false)
    (hg : migrateGroup s s.arg.id die = some (i, cores, places)) :
    exec .migrationComplete s = .next (
      let s2 := returnTeam (leaveCommon (disarmTeam (drainStores s s.arg.id) s.arg.id fun _ => true) s.arg.id) s.arg.id cores places
      { s2 with pops := mmod s2.pops pop fun p => { p with ready := true } }) := by
  have hgo : ¬ (t.state ≠ .migrating ∨ (!((squadsOf s s.arg.id).all fun x => stopped s pop x.1 x.2)) = true
      ∨ (s.pops.any fun p => p.1 != pop && (squadAny s p.2.squad).map (·.team) == some s.arg.id && mustLand s p.1 p.2) = true) := by
    rintro (h | h | h)
    · exact h hst
    · rw [List.all_eq_true.mpr hsq] at h
      cases h
    · obtain ⟨p, hmem, hp⟩ := List.any_eq_true.mp h
      rw [Bool.and_eq_true, Bool.and_eq_true, bne_iff_ne, beq_iff_eq] at hp
      obtain ⟨⟨hne, hteam⟩, hland⟩ := hp
      rw [hpops p hmem hne hteam] at hland
      cases hland
  change execMigrationComplete s = _
  rw [execMigrationComplete, ht]
  dsimp only
  rw [hto]
  refine congrArg Host.Outcome.next ((if_neg hgo).trans ?_)
  rw [hg]

theorem exec_teamLost {t : Team} (ht : mget s.teams s.arg.id = some t) : exec .teamLost s = .next (
    if s.svpFrozen then s
    else if t.state ≠ .retired ∧ ((t.cores.any fun c => (getDie s (c / 256)).failed) = true
        ∨ ((t.state == .spilled || t.state == .swapped) = true ∧ t.cores.length > 1)) then teamLose s s.arg.id else s) := by
  change execTeamLost s = _
  rw [execTeamLost, ht]

end

/-- Settles O41: each event of grids and teams by the cases of its checks. -/
theorem teamEvents : Obligations.TeamEvents := by
  intro s a
  refine ⟨?_, launchTake_still, ?_, ?_, ?_, ?_, rfl, ?_, ?_, ?_, ?_, ?_, ?_, ?_, rfl⟩
  · rintro _ rfl hlive hf mine hdone asid s1 o s2 e hload hsome hread hheld
    exact launchTake_takes hlive hf hdone hload hsome hread hheld
  · refine ⟨teamPlace_still, fun p c g hf hp hc hlive => ?_⟩
    have hexec := teamPlace_of_context hf hp hc hlive
    refine ⟨fun hdue => ?_, fun id hdue => ⟨fun hst => ?_, fun hst i cores places hg => ?_⟩⟩
    · rw [hexec]
      dsimp only
      rw [hdue]
    · rw [hexec]
      dsimp only
      rw [hdue]
      exact congrArg Host.Outcome.next (if_pos hst)
    · rw [hexec]
      dsimp only
      rw [hdue]
      refine congrArg Host.Outcome.next ((if_neg hst).trans ?_)
      rw [hg]
  · intro t ht slot asid s1 va
    refine ⟨fun h => teamRetire_waits ht ?_, fun hx h => teamRetire_waits ht ?_, fun hc he h =>
      ⟨teamRetire_unrecorded ht hc he h, fun hrec hd s2 => teamRetire_recorded ht hc he h hrec hd⟩⟩
    · exact h.imp_right fun ⟨hx, hr⟩ => Or.inr (by simp [hx, hr])
    · refine Or.inr (Or.inr ?_)
      rcases h with h | h <;> simp [hx, h, a]
  · intro k s0 p o ho hb hsw
    obtain ⟨hearly, hrenew, hpass⟩ := exec_sliceExpiry s ho hb hsw
    refine ⟨hearly, fun hdue => ⟨hrenew hdue, ?_⟩⟩
    intro n hn mine out hmine hready
    refine ⟨fun hout => ?_, fun hout => ?_⟩
    · exact (hpass n hdue hn hmine hready).trans (congrArg Host.Outcome.next (if_pos (List.isEmpty_iff.mpr hout)))
    · exact (hpass n hdue hn hmine hready).trans (congrArg Host.Outcome.next (if_neg (mt List.isEmpty_iff.mp hout)))
  · intro k n start hswap now
    exact ⟨fun h => (dugoutSwap_of_swap hswap).trans (congrArg Host.Outcome.next (if_pos h)),
      fun h => (dugoutSwap_of_swap hswap).trans (congrArg Host.Outcome.next (if_neg (Nat.not_lt.mpr h)))⟩
  · exact ⟨fun h => congrArg Host.Outcome.next (if_pos h), fun h s1 hd => shadowDrain_kept h hd,
      fun h s1 hd => shadowDrain_saved h hd⟩
  · exact fun k w id hk hw hid => forwardProgress_of_waiting hk hw hid
  · exact fun hp x hv => registerGrow_of_victim hp hv
  · exact registerGrow_still
  · exact fun t ht => ⟨teamSpill_still ht, fun hst hstop hl hq s1 =>
      ⟨teamSpill_of_quiet ht hst hstop hl hq, teamSpill_of_quiet ht hst hstop hl hq⟩⟩
  · exact fun t die pop ht hto hst hsq hpops i cores places hg => migration_of_stopped ht hto hst hsq hpops hg
  · refine fun t ht => ⟨fun hf => ?_, fun hf hst hdead => ?_, fun hst => ?_⟩
    · exact (exec_teamLost ht).trans (congrArg Host.Outcome.next (if_pos hf))
    · obtain ⟨c, hc, hfail⟩ := hdead
      exact (exec_teamLost ht).trans (congrArg Host.Outcome.next ((if_neg (by simp [hf])).trans
        (if_pos ⟨hst, Or.inl (List.any_eq_true.mpr ⟨c, hc, hfail⟩)⟩)))
    · refine (exec_teamLost ht).trans (congrArg Host.Outcome.next ?_)
      by_cases hf : s.svpFrozen = true
      · exact if_pos hf
      · exact (if_neg hf).trans (if_neg fun h => h.1 hst)

end Sys2Proof.EventProofs

/-! PROOFS. Commands of the service processor: what every command meets (05 R115, R116, R118, R124), and what each does. -/

namespace Sys2Proof.EventProofs

open Sys2Proof Sys2Proof.Machine

section
variable {s s1 s2 : State} {x : Cmd} {k : Nat}

/-! ### What every command meets -/

section
variable {p : List Byte → Bool} {named : List (Nat × Nat)} {body : State → Cmd → Option State}

theorem runCmd_none (h : cmdTake s p = (s1, none)) : runCmd s p named body = .next s1 := by
  rw [runCmd, h]

/-- An entry that is taken is checked, then performed. -/
theorem runCmd_some (h : cmdTake s p = (s1, some x)) : runCmd s p named body = .next (
    if opcKnown x.c.opc = false then respond s1 x.c 2 []
    else if s.dev.lc = 3 ∨ pathRefused x = true then respond s1 x.c 1 []
    else if onlyNamed x.e named = false then respond s1 x.c 2 []
    else (body s1 x).getD (waitCmd s x)) := by
  rw [runCmd, h]

theorem runCmd_unknown (h : cmdTake s p = (s1, some x)) (ho : opcKnown x.c.opc = false) :
    runCmd s p named body = .next (respond s1 x.c 2 []) :=
  (runCmd_some h).trans (congrArg _ (if_pos ho))

theorem runCmd_refused (h : cmdTake s p = (s1, some x)) (ho : opcKnown x.c.opc = true)
    (hr : s.dev.lc = 3 ∨ pathRefused x = true) : runCmd s p named body = .next (respond s1 x.c 1 []) :=
  (runCmd_some h).trans (congrArg _ ((if_neg (by simp [ho])).trans (if_pos hr)))

theorem runCmd_unnamed (h : cmdTake s p = (s1, some x)) (ho : opcKnown x.c.opc = true) (hlc : s.dev.lc ≠ 3)
    (hp : pathRefused x = false) (hn : onlyNamed x.e named = false) : runCmd s p named body = .next (respond s1 x.c 2 []) :=
  (runCmd_some h).trans (congrArg _ ((if_neg (by simp [ho])).trans
    ((if_neg (not_or.mpr ⟨hlc, by simp [hp]⟩)).trans (if_pos hn))))

end

/-- A sound entry is performed: its body answers, or it must wait. -/
theorem runCmd_taken {r : Claims.CmdRow} {body : State → Cmd → Option State} (h : Claims.taken r s s1 x) :
    runCmd s r.mine r.named body = .next ((body s1 x).getD (waitCmd s x)) := by
  obtain ⟨htake, ho, hlc, hp, hn⟩ := h
  exact (runCmd_some htake).trans (congrArg _ ((if_neg (by simp [ho])).trans
    ((if_neg (not_or.mpr ⟨hlc, by simp [hp]⟩)).trans (if_neg (by simp [hn])))))

theorem liveBody_live {f : State → Cmd → Nat → Option State} (hk : k = fieldOf x.e 8 2) (h64 : k < 64) (hl : ctxLive s1 k = true) :
    liveBody f s1 x = f s1 x k := by
  subst hk
  exact (if_neg (by rw [cmdSlot]; omega)).trans (if_neg (by simp [cmdSlot, hl]))

theorem runCmd_takenLive {r : Claims.CmdRow} {f : State → Cmd → Nat → Option State} (h : Claims.takenLive r s s1 x k) :
    runCmd s r.mine r.named (liveBody f) = .next ((f s1 x k).getD (waitCmd s x)) := by
  obtain ⟨ht, hk, h64, hl⟩ := h
  rw [runCmd_taken ht, liveBody_live hk h64 hl]

/-- The table's events perform their commands. -/
theorem cmdTable_runs {r : Claims.CmdRow} (hr : r ∈ Claims.cmdTable) :
    ∃ body, ∀ s, exec r.event s = runCmd s r.mine r.named body := by
  revert r
  simp only [Claims.cmdTable, List.forall_mem_cons]
  exact ⟨⟨_, fun _ => rfl⟩, ⟨_, fun _ => rfl⟩, ⟨_, fun _ => rfl⟩, ⟨_, fun _ => rfl⟩, ⟨_, fun _ => rfl⟩, ⟨_, fun _ => rfl⟩,
    ⟨_, fun _ => rfl⟩, ⟨_, fun _ => rfl⟩, ⟨_, fun _ => rfl⟩, ⟨_, fun _ => rfl⟩, ⟨_, fun _ => rfl⟩,
    fun _ h => absurd h List.not_mem_nil⟩

theorem slotTable_runs {r : Claims.CmdRow} (hr : r ∈ Claims.slotTable) :
    ∃ f, ∀ s, exec r.event s = runCmd s r.mine r.named (liveBody f) := by
  revert r
  simp only [Claims.slotTable, List.forall_mem_cons]
  exact ⟨⟨_, fun _ => rfl⟩, ⟨_, fun _ => rfl⟩, ⟨_, fun _ => rfl⟩, ⟨_, fun _ => rfl⟩, ⟨_, fun _ => rfl⟩, ⟨_, fun _ => rfl⟩,
    ⟨_, fun _ => rfl⟩, fun _ h => absurd h List.not_mem_nil⟩

theorem cmdTake_stopped {p : List Byte → Bool} (h : s.dev.ready = false ∨ s.svpFrozen = true) : cmdTake s p = (s, none) :=
  if_pos h

end

/-- Settles O42: the checks of a command in their order. -/
theorem commandRefusals : Obligations.CommandRefusals := by
  intro s s1
  refine ⟨fun r hr => ?_, fun r hr x htaken => ?_, fun hstop r hr => ?_⟩
  · obtain ⟨body, hexec⟩ := cmdTable_runs hr
    rw [hexec]
    exact ⟨runCmd_none, fun x h => ⟨runCmd_unknown h, runCmd_refused h, runCmd_unnamed h⟩⟩
  · obtain ⟨f, hexec⟩ := slotTable_runs hr
    rw [hexec, runCmd_taken htaken]
    refine ⟨fun h => ?_, fun h hdead => ?_⟩
    · rw [show liveBody f s1 x = some (respond s1 x.c 2 []) from if_pos h]
      rfl
    · rw [show liveBody f s1 x = some (respond s1 x.c 1 []) from (if_neg (Nat.not_lt.mpr h)).trans (if_pos hdead)]
      rfl
  · obtain ⟨body, hexec⟩ := cmdTable_runs hr
    exact (hexec s).trans (runCmd_none (cmdTake_stopped hstop))

end Sys2Proof.EventProofs

/-! PROOFS. What each command of the service processor does (05 R116, R117, R119, 01 R20, 06 R139, 03 R78, 05 R127, R129),
and its recovery (R121 to R123). -/

namespace Sys2Proof.EventProofs

open Sys2Proof Sys2Proof.Machine

section
variable {s s1 s2 t : State} {x : Cmd} {k : Nat}

/-! ### A body's answer -/

theorem runCmd_answers {r : Claims.CmdRow} {body : State → Cmd → Option State} (h : Claims.taken r s s1 x)
    (hb : body s1 x = some t) : runCmd s r.mine r.named body = .next t := by
  rw [runCmd_taken h, hb]
  rfl

theorem runCmd_waits {r : Claims.CmdRow} {body : State → Cmd → Option State} (h : Claims.taken r s s1 x)
    (hb : body s1 x = none) : runCmd s r.mine r.named body = .next (waitCmd s x) := by
  rw [runCmd_taken h, hb]
  rfl

theorem runCmd_liveAnswers {r : Claims.CmdRow} {f : State → Cmd → Nat → Option State} (h : Claims.takenLive r s s1 x k)
    (hb : f s1 x k = some t) : runCmd s r.mine r.named (liveBody f) = .next t := by
  rw [runCmd_takenLive h, hb]
  rfl

/-- A body of CTXCFG whose selector is known. -/
theorem runCmd_cfgAnswers {r : Claims.CmdRow} {f : State → Cmd → Nat → Option State} (h : Claims.takenLive r s s1 x k)
    (hsel : fieldOf x.e 10 1 ≤ 2) (hb : f s1 x k = some t) : runCmd s r.mine r.named (cfgBody f) = .next t :=
  runCmd_liveAnswers h ((if_neg (Nat.not_lt.mpr hsel)).trans hb)

theorem range_any {n : Nat} {p : Nat → Bool} : (List.range n).any p = true ↔ ∃ j < n, p j = true := by
  simp [List.any_eq_true]

/-! ### The commands and their bodies -/

theorem launchCommand_answers (h : Claims.takenLive Claims.rowLaunch s s1 x k) (hb : launchBody s1 x k = some t) : exec .launchCommand s = .next t :=
  (show exec .launchCommand s = runCmd s Claims.rowLaunch.mine Claims.rowLaunch.named (liveBody launchBody) from rfl).trans (runCmd_liveAnswers h hb)

theorem ctxnew_answers (h : Claims.taken Claims.rowNew s s1 x) (hb : ctxnewBody s1 x = some t) : exec .ctxnew s = .next t :=
  (show exec .ctxnew s = runCmd s Claims.rowNew.mine Claims.rowNew.named ctxnewBody from rfl).trans (runCmd_answers h hb)

theorem place_answers (h : Claims.taken Claims.rowPlace s s1 x) (hb : placeBody s1 x = some t) : exec .place s = .next t :=
  (show exec .place s = runCmd s Claims.rowPlace.mine Claims.rowPlace.named placeBody from rfl).trans (runCmd_answers h hb)

theorem ctxcfgQueues_answers (h : Claims.takenLive Claims.rowQueues s s1 x k) (hsel : fieldOf x.e 10 1 ≤ 2) (hb : cfgQueues s1 x k = some t) :
    exec .ctxcfgQueues s = .next t :=
  (show exec .ctxcfgQueues s = runCmd s Claims.rowQueues.mine Claims.rowQueues.named (cfgBody cfgQueues) from rfl).trans (runCmd_cfgAnswers h hsel hb)

theorem ctxcfgPeers_answers (h : Claims.takenLive Claims.rowPeers s s1 x k) (hsel : fieldOf x.e 10 1 ≤ 2) (hb : cfgPeers s1 x k = some t) :
    exec .ctxcfgPeers s = .next t :=
  (show exec .ctxcfgPeers s = runCmd s Claims.rowPeers.mine Claims.rowPeers.named (cfgBody cfgPeers) from rfl).trans (runCmd_cfgAnswers h hsel hb)

theorem ctxcfgSvqmap_answers (h : Claims.takenLive Claims.rowMap s s1 x k) (hsel : fieldOf x.e 10 1 ≤ 2) (hb : cfgSvqmap s1 x k = some t) :
    exec .ctxcfgSvqmap s = .next t :=
  (show exec .ctxcfgSvqmap s = runCmd s Claims.rowMap.mine Claims.rowMap.named (cfgBody cfgSvqmap) from rfl).trans (runCmd_cfgAnswers h hsel hb)

theorem ctxnew_waits (h : Claims.taken Claims.rowNew s s1 x) (hb : ctxnewBody s1 x = none) : exec .ctxnew s = .next (waitCmd s x) :=
  (show exec .ctxnew s = runCmd s Claims.rowNew.mine Claims.rowNew.named ctxnewBody from rfl).trans (runCmd_waits h hb)

theorem exec_ctxfree (h : Claims.takenLive Claims.rowFree s s1 x k) : exec .ctxfree s = .next (ctxClose s1 k (some x.c)) :=
  (show exec .ctxfree s = runCmd s Claims.rowFree.mine Claims.rowFree.named
    (liveBody fun s x k => some (ctxClose s k (some x.c))) from rfl).trans (runCmd_liveAnswers h rfl)

theorem exec_pwrlimit (h : Claims.taken Claims.rowPower s s1 x) : exec .pwrlimit s = .next (
    if fieldOf x.e 8 4 < 2000 ∨ fieldOf x.e 8 4 > 5400 ∨ fieldOf x.e 8 4 % 50 ≠ 0 then respond s1 x.c 1 (bytesOf 4 s1.pwrLimit)
    else respond { s1 with pwrLimit := fieldOf x.e 8 4 } x.c 0 (bytesOf 4 (fieldOf x.e 8 4))) := by
  change execPwrlimit s = _
  exact runCmd_answers (r := Claims.rowPower) h (apply_ite some _ _ _).symm

/-- The heat of a window's frames. -/
def windowHeat (s : State) (d w : Nat) : List (Nat × Nat) :=
  (List.range ((heatHi (getDie s d) w - heatLo (getDie s d) w) / 65536)).map fun i => (i, frameHeat s (getDie s d) w i)

theorem exec_heatscan (h : Claims.taken Claims.rowHeat s s1 x) : exec .heatscan s = .next (
    if fieldOf x.e 8 1 > 7 ∨ fieldOf x.e 9 1 > 1 ∨ fieldOf x.e 10 1 = 0 ∨ fieldOf x.e 10 1 > 3 then respond s1 x.c 2 []
    else respond { s1 with freeNo := s1.freeNo + 6 } x.c 0
      (frameBytes (pickFrames s1.freeNo (fun a b => decide (b < a)) (fieldOf x.e 10 1) (windowHeat s1 (fieldOf x.e 8 1) (fieldOf x.e 9 1))) 3
        ++ frameBytes (pickFrames (s1.freeNo + 3) (fun a b => decide (a < b)) (fieldOf x.e 10 1)
          (windowHeat s1 (fieldOf x.e 8 1) (fieldOf x.e 9 1))) 3)) := by
  change execHeatscan s = _
  exact runCmd_answers (r := Claims.rowHeat) h (apply_ite some _ _ _).symm

theorem exec_attest (h : Claims.takenLive Claims.rowAttest s s1 x k) : exec .attest s = .next (
    if fieldOf x.e 48 8 % 64 ≠ 0 then respond s1 x.c 2 []
    else reportWrite s1 x.c k (BitVec.ofNat 64 (fieldOf x.e 48 8)) (reportBytes s1 (x.e.extract 16 48))) := by
  change execAttest s = _
  exact runCmd_liveAnswers (r := Claims.rowAttest) h (apply_ite some _ _ _).symm

theorem exec_record (h : Claims.takenLive Claims.rowRecord s s1 x k) : exec .record s = .next (
    if bitsOf (fieldOf x.e 12 4) 2 14 ≠ 0 ∨ recQueue (fieldOf x.e 12 4) > 1023
      ∨ (recRec (fieldOf x.e 12 4) && recPlay (fieldOf x.e 12 4)) = true then respond s1 x.c 2 []
    else respond { Claims.putBlock s1 k 0x50 (bytesOf 8 (fieldOf x.e 12 4)) with
      replay := s1.replay.filter fun r => r.1 / 65536 != k } x.c 0 []) := by
  change execRecord s = _
  exact runCmd_liveAnswers (r := Claims.rowRecord) h (apply_ite some _ _ _).symm

/-! ### LAUNCH -/

theorem launchBody_unrecorded (hq : ccb s k 0x28 4 = 0) : launchBody s x k = some (respond s x.c 1 []) := if_pos hq

theorem launchBody_read {d : List Byte} (hq : ccb s k 0x28 4 ≠ 0) (hheld : lrHeld s k (fieldOf x.e 16 8) = false)
    (hread : lrRead s k (fieldOf x.e 16 8) = (s2, some d)) :
    launchBody s x k = some (if lrMalformed s2 k d = true then respond s2 x.c 2 [] else launchPush s2 x k) := by
  rw [launchBody, if_neg hq, if_neg (by simp [hheld]), hread]
  dsimp only
  cases lrMalformed s2 k d <;> rfl

/-! ### CTXNEW and the end of a context -/

/-- An ASID that a live context has. -/
def asidUsed (s : State) (asid : Half) : Prop := ∃ j < 64, ctxLive s j = true ∧ ctxAsid s j = asid

theorem asidUsed_iff {asid : Half} :
    ((List.range 64).any fun j => ctxLive s j && ctxAsid s j == asid) = true ↔ asidUsed s asid := by
  simp only [range_any, Bool.and_eq_true, beq_iff_eq, asidUsed]

/-- The ASID that a `CTXNEW` names. -/
def newAsid (x : Cmd) : Half := BitVec.ofNat 16 (fieldOf x.e 10 2)

/-- The state in which a new context's header is written. -/
def newContext (s : State) (x : Cmd) : State :=
  let s2 := flushAsid s (newAsid x)
  { s2.draw.draw with
    mem := memWriteN s2.mem (ccbAt s2 (cmdSlot x)) (ctxBlock x.e)
    ctxBlocks := mdel s2.ctxBlocks (cmdSlot x)
    clusters := s2.clusters.map fun c => (c.1, { c.2 with common := c.2.common.filter fun h => h.1 / 64 != cmdSlot x }) }

theorem waitCmd_new (h : x.c.opc = 2) : waitCmd s x = flushAsid s (newAsid x) := if_pos h

theorem ctxnewBody_bad (hbad : ctxBad x.e = true) : ctxnewBody s x = some (respond s x.c 2 []) := if_pos hbad

theorem ctxnewBody_used (hbad : ctxBad x.e = false) (hu : ctxState s (cmdSlot x) ≠ 0 ∨ asidUsed s (newAsid x)) :
    ctxnewBody s x = some (respond s x.c 1 []) :=
  (if_neg (by simp [hbad])).trans (if_pos (hu.imp_right asidUsed_iff.mpr))

section
variable (hbad : ctxBad x.e = false) (hfree : ctxState s (cmdSlot x) = 0) (hu : ¬ asidUsed s (newAsid x))
include hbad hfree hu

theorem ctxnewBody_flushing (hg : ∃ g ∈ (flushAsid s (newAsid x)).grains, g.asid = newAsid x) : ctxnewBody s x = none := by
  obtain ⟨g, hmem, hasid⟩ := hg
  have hcached : ((flushAsid s (newAsid x)).grains.any fun g => g.asid == newAsid x) = true :=
    List.any_eq_true.mpr ⟨g, hmem, beq_iff_eq.mpr hasid⟩
  rw [ctxnewBody, ← newAsid]
  dsimp only
  rw [if_neg (by simp [hbad]), if_neg (not_or.mpr ⟨not_not_intro hfree, mt asidUsed_iff.mp hu⟩), if_pos hcached]

/-- Once no line of the ASID is cached, the header is written at its home. -/
theorem ctxnewBody_flushed (hg : ∀ g ∈ (flushAsid s (newAsid x)).grains, g.asid ≠ newAsid x) {h : Nat}
    (hhome : peekHome (newContext s x) (rqDevice (newContext s x) 0 (cmdSlot x)) (fieldOf x.e 48 8) = some h) (h8 : h < 8) :
    ctxnewBody s x =
      match storeRange (newContext s x) (rqDevice (newContext s x) 0 (cmdSlot x)) (fieldOf x.e 48 8)
        (newSaveHeader s (fieldOf x.e 40 2)) with
      | (s1, .done) => some (respond (rebuildSvq s1) x.c 0 [])
      | (_, .held) => none
      | _ => some (respond s x.c 2 []) := by
  have hclean : ¬ ((flushAsid s (newAsid x)).grains.any fun g => g.asid == newAsid x) = true := by
    rw [List.any_eq_true]
    rintro ⟨g, hmem, hasid⟩
    exact hg g hmem (beq_iff_eq.mp hasid)
  have hnew : ¬ (ctxState s (cmdSlot x) ≠ 0 ∨ ((List.range 64).any fun j => ctxLive s j && ctxAsid s j == newAsid x) = true) :=
    not_or.mpr ⟨not_not_intro hfree, mt asidUsed_iff.mp hu⟩
  rw [ctxnewBody, ← newAsid]
  extract_lets s1 s2 s3 r va
  have hr : r = rqDevice s3 0 (cmdSlot x) := rfl
  have hs3 : s3 = newContext s x := rfl
  rw [if_neg (by simp [hbad]), if_neg hnew, if_neg hclean]
  have hva : va = fieldOf x.e 48 8 := rfl
  clear_value va r s3
  subst hva hr hs3
  rw [hhome]
  refine (if_neg (Nat.not_le.mpr h8)).trans ?_
  generalize storeRange _ _ _ _ = y
  obtain ⟨s4, acc⟩ := y
  cases acc <;> rfl

end

theorem exec_vfFunctionLevelReset (s : State) : exec .vfFunctionLevelReset s = .next
    (if s.arg.fn ≠ 0 ∧ ctxLive s s.arg.fn.toNat = true ∧ s.svpFrozen = false then ctxClose s s.arg.fn.toNat none else s) := by
  refine congrArg Host.Outcome.next ((ite_not _ _ _).symm.trans (if_congr ?_ rfl rfl))
  have hfn : s.arg.fn.toNat = 0 ↔ s.arg.fn = 0 := by
    rw [← BitVec.toNat_inj]
    rfl
  simp only [not_or, Bool.not_eq_false, Bool.not_eq_true, hfn, ne_eq]

theorem closeTest_still {n : Nat} {c : Option HostCmd} (h : s.svpFrozen = true ∨ recordsWait s k = true) :
    closeTest s (k, n, c) = s := if_pos h

/-- What of a closing context waits in its queues. -/
def contextWaits (s : State) (k : Nat) : Bool :=
  s.dpush.any (·.slot == k) || s.resvs.any (·.slot == k) || s.grids.any fun g => g.2.slot == k && !g.2.gone

section
variable {n : Nat} {c : Option HostCmd} (hf : s.svpFrozen = false) (hr : recordsWait s k = false)
include hf hr

theorem closeTest_waits (hw : contextWaits (closeGrids s k) k = true) : closeTest s (k, n, c) = closeGrids s k := by
  refine (if_neg (by simp [hf, hr])).trans (if_pos ?_)
  rw [contextWaits, Bool.or_eq_true, Bool.or_eq_true, or_assoc] at hw
  exact hw

theorem closeTest_frees (hw : contextWaits (closeGrids s k) k = false) : closeTest s (k, n, c) =
    (let s1 := closeGrids s k
     let t := { s1 with
      closing := mdel s1.closing k, mem := memWriteN s1.mem (ccbAt s1 k) (zeros 8)
      msixHead := s1.msixHead.filter fun x => x.1 / 1024 != k, reqs := s1.reqs.filter fun r => r.slot != k
      dies := s1.dies.map fun d => (d.1, { d.2 with pft := d.2.pft.filter fun p => p.slot != k })
      teams := s1.teams.filter fun t => (gridOf s1 t.2).slot != k, grids := s1.grids.filter fun g => g.2.slot != k }
     match c with | some c => respond t c 0 (bytesOf 8 n) | none => t) := by
  refine (if_neg (by simp [hf, hr])).trans ((if_neg fun h => ?_).trans ?_)
  · rw [← or_assoc, ← Bool.or_eq_true, ← Bool.or_eq_true] at h
    exact Bool.false_ne_true (hw.symm.trans h)
  · cases c <;> rfl

end

/-! ### CTXCFG -/

/-- Another live context has a service queue of the mask. -/
def queueTaken (s : State) (x : Cmd) (k : Nat) : Prop :=
  ∃ j < 64, j ≠ k ∧ ctxLive s j = true ∧ ∃ q < 64, bitOf (fieldOf x.e 32 8) q = true ∧ bitOf (svqMask s j) q = true

theorem queueTaken_iff : ((List.range 64).any fun j => j != k && ctxLive s j &&
    (List.range 64).any fun q => bitOf (fieldOf x.e 32 8) q && bitOf (svqMask s j) q) = true ↔ queueTaken s x k := by
  simp only [range_any, Bool.and_eq_true, bne_iff_ne, and_assoc, queueTaken]

section
variable (hk : 1 ≤ fieldOf x.e 24 4 ∧ fieldOf x.e 24 4 ≤ 1023 ∧ 1 ≤ fieldOf x.e 28 4 ∧ fieldOf x.e 28 4 ≤ 1023
  ∧ fieldOf x.e 24 4 ≠ fieldOf x.e 28 4)
include hk

theorem cfgQueues_taken (ht : queueTaken s x k) : cfgQueues s x k = some (respond s x.c 1 []) :=
  (if_neg (by omega)).trans (if_pos (queueTaken_iff.mpr ht))

theorem cfgQueues_set (ht : ¬ queueTaken s x k) : cfgQueues s x k = some (respond (rebuildSvq
    (Claims.putBlock (Claims.putBlock s k 0x40 (x.e.extract 16 24)) k 0x28 (x.e.extract 24 40))) x.c 0 []) :=
  (if_neg (by omega)).trans (if_neg (mt queueTaken_iff.mp ht))

end

theorem cfgPeers_eq (s : State) (x : Cmd) (k : Nat) : cfgPeers s x k = some (
    if 1 ≤ fieldOf x.e 13 1 ∧ fieldOf x.e 13 1 ≤ 5 ∧ fieldOf x.e 12 1 + fieldOf x.e 13 1 ≤ 16
      ∧ ∀ b ∈ x.e.drop (16 + 8 * fieldOf x.e 13 1), b = 0
    then respond (Claims.putBlock s k (0x80 + 8 * fieldOf x.e 12 1) (x.e.extract 16 (16 + 8 * fieldOf x.e 13 1))) x.c 0 []
    else respond s x.c 2 []) := by
  rw [apply_ite some]
  refine (ite_not _ _ _).symm.trans (if_congr ?_ rfl rfl)
  simp only [not_or, Nat.not_lt, Nat.pos_iff_ne_zero, List.any_eq_true, not_exists, not_and, bne_iff_ne, not_not,
    Nat.one_le_iff_ne_zero]

theorem cfgSvqmap_eq (s : State) (x : Cmd) (k : Nat) : cfgSvqmap s x k = some (
    if fieldOf x.e 12 1 < 64 ∧ bitOf (svqMask s k) (fieldOf x.e 12 1) = true
      ∧ ((1 ≤ fieldOf x.e 16 2 ∧ fieldOf x.e 16 2 ≤ 1023) ∨ fieldOf x.e 16 2 = 0xFFFF)
    then respond (rebuildSvq (Claims.putBlock s k (0x800 + 2 * fieldOf x.e 12 1) (bytesOf 2 (fieldOf x.e 16 2)))) x.c 0 []
    else respond s x.c 2 []) := by
  rw [apply_ite some]
  refine (ite_not _ _ _).symm.trans (if_congr ?_ rfl rfl)
  simp only [not_or, Nat.not_lt, Bool.not_eq_false, Bool.not_eq_true, Bool.not_eq_false', Bool.or_eq_true, Bool.and_eq_true,
    decide_eq_true_eq, beq_iff_eq, Nat.lt_succ_iff]

/-! ### PLACE, PWRLIMIT, HEATSCAN -/

/-- The set that a `PLACE` asks for. -/
def askedSet (x : Cmd) (bs : List Byte) : Machine.PSet :=
  { cores := bitmapCores bs, bullpen := if fieldOf x.e 10 1 = 1 then some (fieldOf x.e 12 2) else none }

/-- The set has it already. -/
def sameSet (s : State) (x : Cmd) (cores : List Nat) : Prop :=
  ∃ old, mget s.psets (fieldOf x.e 8 2) = some old ∧ old.cores = cores
    ∧ old.bullpen = if fieldOf x.e 10 1 = 1 then some (fieldOf x.e 12 2) else none

/-- Another set shares a core and is not an equal one of its kind. -/
def clashes (s : State) (x : Cmd) (cores : List Nat) : Prop :=
  ∃ p ∈ s.psets, p.1 ≠ fieldOf x.e 8 2 ∧ (∃ c ∈ p.2.cores, c ∈ cores)
    ∧ (fieldOf x.e 10 1 = 1 ∨ p.2.bullpen.isSome = true ∨ p.2.cores ≠ cores)

open Classical in
theorem placeBody_done {bs : List Byte} (hk : fieldOf x.e 8 2 < 64) (hfl : fieldOf x.e 10 1 ≤ 1) (hctx : fieldOf x.e 12 2 < 64)
    (hlive : ctxLive s (fieldOf x.e 12 2) = true)
    (hload : loadRange s (rqDevice s 0 (fieldOf x.e 12 2)) accLoad (fieldOf x.e 16 8) 256 = (s2, .done, bs)) :
    placeBody s x = some (
      if sameSet s2 x (bitmapCores bs) then respond s2 x.c 0 []
      else if clashes s2 x (bitmapCores bs) ∨ setInUse s2 (fieldOf x.e 8 2) = true then respond s2 x.c 1 []
      else respond { s2 with psets := mset s2.psets (fieldOf x.e 8 2) (askedSet x bs) } x.c 0 []) := by
  have hclash : ((s2.psets.filter fun p => p.1 != fieldOf x.e 8 2).any fun p => p.2.cores.any (bitmapCores bs).contains
      && (fieldOf x.e 10 1 == 1 || p.2.bullpen.isSome || p.2.cores != bitmapCores bs)) = true
      ↔ clashes s2 x (bitmapCores bs) := by
    simp only [List.any_eq_true, List.mem_filter, Bool.and_eq_true, Bool.or_eq_true, bne_iff_ne, beq_iff_eq,
      List.contains_iff_mem, and_assoc, or_assoc, clashes]
  refine (if_neg (by omega)).trans ((if_neg (by simp [hlive])).trans ?_)
  rw [hload, apply_ite some, apply_ite some]
  refine if_congr ?_ rfl (if_congr (or_congr_left hclash) rfl rfl)
  rw [sameSet]
  cases mget s2.psets (fieldOf x.e 8 2) with
  | none => simp
  | some old => simp

/-! ### ATTEST and RECORD -/

theorem reportWrite_done {c : HostCmd} {va : Dword} {bs : List Byte}
    (h : storeRange s (rqDevice s 0 k) va.toNat bs = (s2, .done)) : reportWrite s c k va bs = respond s2 c 0 (bytesOf 4 3461) := by
  rw [reportWrite]
  dsimp only
  rw [h]
  rfl

end

/-- Settles O43: each command by the answer of its body. -/
theorem commands : Obligations.Commands := by
  intro s s1 x k
  refine ⟨?_, ?_, ?_, exec_vfFunctionLevelReset s, fun n c h => closeTest_still h, ?_, ?_, ?_, ?_, ?_, ?_, ?_, ?_, ?_⟩
  · intro h lrec
    refine ⟨fun hq => launchCommand_answers h (launchBody_unrecorded hq), fun hq hheld s2 d hread => ⟨fun hm => ?_, fun hm => ?_⟩⟩
    · exact launchCommand_answers h ((launchBody_read hq hheld hread).trans (congrArg some (if_pos hm)))
    · exact launchCommand_answers h ((launchBody_read hq hheld hread).trans (congrArg some (if_neg (by simp [hm]))))
  · rintro h rfl asid used
    refine ⟨fun hbad => ctxnew_answers h (ctxnewBody_bad hbad), fun hbad hu => ctxnew_answers h (ctxnewBody_used hbad hu), ?_⟩
    intro hbad hfree hu s2 s3
    refine ⟨fun ho hg => ?_, fun hg home s4 hhome h8 => ⟨fun hst => ?_, fun hst ho => ?_⟩⟩
    · exact (ctxnew_waits h (ctxnewBody_flushing hbad hfree hu hg)).trans (congrArg Host.Outcome.next (waitCmd_new ho))
    · refine ctxnew_answers h ((ctxnewBody_flushed hbad hfree hu hg hhome h8).trans ?_)
      have hput : storeRange (newContext s1 x) (rqDevice (newContext s1 x) 0 (cmdSlot x)) (fieldOf x.e 48 8)
          (newSaveHeader s1 (fieldOf x.e 40 2)) = (s4, .done) := hst
      rw [hput]
    · refine (ctxnew_waits h ((ctxnewBody_flushed hbad hfree hu hg hhome h8).trans ?_)).trans
        (congrArg Host.Outcome.next (waitCmd_new ho))
      have hput : storeRange (newContext s1 x) (rqDevice (newContext s1 x) 0 (cmdSlot x)) (fieldOf x.e 48 8)
          (newSaveHeader s1 (fieldOf x.e 40 2)) = (s4, .held) := hst
      rw [hput]
  · exact exec_ctxfree
  · intro n c hf hr s1 waits
    exact ⟨closeTest_waits hf hr, closeTest_frees hf hr⟩
  · intro h hsel fq cq taken
    refine ⟨fun hbad => ctxcfgQueues_answers h (by omega) (if_pos hbad), fun h1 h2 h3 h4 h5 => ⟨fun ht => ?_, fun ht => ?_⟩⟩
    · exact ctxcfgQueues_answers h (by omega) (cfgQueues_taken ⟨h1, h2, h3, h4, h5⟩ ht)
    · exact ctxcfgQueues_answers h (by omega) (cfgQueues_set ⟨h1, h2, h3, h4, h5⟩ ht)
  · intro h hsel i c ok
    exact ⟨fun hok => ctxcfgPeers_answers h (by omega) ((cfgPeers_eq s1 x k).trans (congrArg some (if_pos hok))),
      fun hok => ctxcfgPeers_answers h (by omega) ((cfgPeers_eq s1 x k).trans (congrArg some (if_neg hok)))⟩
  · intro h hsel q n ok
    exact ⟨fun hok => ctxcfgSvqmap_answers h (by omega) ((cfgSvqmap_eq s1 x k).trans (congrArg some (if_pos hok))),
      fun hok => ctxcfgSvqmap_answers h (by omega) ((cfgSvqmap_eq s1 x k).trans (congrArg some (if_neg hok)))⟩
  · rintro h rfl hk hfl hctx hlive s2 bs hload bullpen cores clash same
    have hbody := placeBody_done hk hfl hctx hlive hload
    refine ⟨fun hsame => ?_, fun hsame hc => ?_, fun hsame hc hu => ?_⟩
    · refine place_answers h (hbody.trans (congrArg some ?_))
      exact if_pos hsame
    · refine place_answers h (hbody.trans (congrArg some ?_))
      exact (if_neg hsame).trans (if_pos hc)
    · refine place_answers h (hbody.trans (congrArg some ?_))
      exact (if_neg hsame).trans (if_neg (not_or.mpr ⟨hc, by simp [hu]⟩))
  · intro h w ok
    exact ⟨fun hok => (exec_pwrlimit h).trans (congrArg Host.Outcome.next (if_neg (by omega))),
      fun hok => (exec_pwrlimit h).trans (congrArg Host.Outcome.next (if_pos (by omega)))⟩
  · intro h d w n
    exact ⟨fun hd hw h1 h3 => (exec_heatscan h).trans (congrArg Host.Outcome.next (if_neg (by omega))),
      fun hbad => (exec_heatscan h).trans (congrArg Host.Outcome.next (if_pos (by omega)))⟩
  · intro h va
    refine ⟨fun hva => (exec_attest h).trans (congrArg Host.Outcome.next (if_pos hva)), fun hva s2 hst => ?_⟩
    exact (exec_attest h).trans (congrArg Host.Outcome.next ((if_neg (not_not_intro hva)).trans (reportWrite_done hst)))
  · intro h rc ok
    refine ⟨fun hok => (exec_record h).trans (congrArg Host.Outcome.next (if_neg ?_)),
      fun hok => (exec_record h).trans (congrArg Host.Outcome.next (if_pos ?_))⟩
    · obtain ⟨h0, hq, hb⟩ := hok
      rw [Bool.and_eq_true]
      exact not_or.mpr ⟨not_not_intro h0, not_or.mpr ⟨Nat.not_lt.mpr hq, hb⟩⟩
    · rw [Bool.and_eq_true]
      by_contra hno
      obtain ⟨h0, hno⟩ := not_or.mp hno
      obtain ⟨hq, hb⟩ := not_or.mp hno
      exact hok ⟨not_not.mp h0, Nat.not_lt.mp hq, hb⟩

theorem recoverStart_eq (s : State) (why : Nat) : recoverStart s why =
    if s.dev.rcvact = true then Claims.wiped s 5
    else { s with
      svpFrozen := true
      dev := { s.dev with
        rcvact := true, rcvWalked := false, rcvLast := BitVec.ofNat 4 why, wdtStart := s.timeNs.toNat
        rcvCount := if s.dev.rcvCount = 0xFFFF then s.dev.rcvCount else s.dev.rcvCount + 1 } } := rfl

/-- Settles O44: what starts, walks and ends a recovery. -/
theorem recoveryEvents : Obligations.RecoveryEvents := by
  intro s starts
  refine ⟨?_, ?_, fun ha hw => ?_, fun h => congrArg Host.Outcome.next (if_pos h), rfl⟩
  · exact congrArg Host.Outcome.next (if_congr Iff.rfl (recoverStart_eq s 1) rfl)
  · refine congrArg Host.Outcome.next ((recoverStart_eq s _).trans ?_)
    cases s.arg.ok <;> rfl
  · exact congrArg Host.Outcome.next (if_neg (by simp [ha, hw]))

end Sys2Proof.EventProofs

/-! PROOFS. A copy's unit into a segment whose listed bytes name one offset twice (08 R191). -/

namespace Sys2Proof.EventProofs

open Sys2Proof Sys2Proof.Machine

/-- A segment whose map lists offset 0 twice. -/
def doubledSegment : Segment := { bytes := [(0, 5), (0, 7)] }

def doubledTeam : Team := { grid := 0, index := 0, segs := [doubledSegment] }

def doubledState : State := { teams := [(1, doubledTeam)] }

/-- A copy of one byte to offset 0 of the segment. -/
def byteCopy : Copy :=
  { id := 0, cluster := 0, slot := 0, team := 1, squad := none, tpc := 0, em := 0, instr := .spinePfence
    src := .ls 0 0, dst := .ls 0 0, len := 1 }

/-- A zero byte is written by deleting its entry, and the second entry of the offset stands then. -/
theorem doubled_byte : (mget (unitToLs doubledState byteCopy 0 0 [0]).teams 1).map (fun t => (t.seg 0).byte 0) = some 7 := by
  decide +kernel

/-- Refutes O59: where a segment's map lists an offset twice, a zero byte that a copy's unit writes there uncovers the second
entry, and the statement, which asks for no rising keys, says that the byte reads as zero. -/
theorem not_loadAndStoreFrames : ¬ Obligations.LoadAndStoreFrames := by
  unfold Obligations.LoadAndStoreFrames
  intro h
  obtain ⟨-, -, -, -, hunit⟩ := h
  have hplain : ∀ b ∈ blocksOf (0 + byteCopy.done) [(0 : Byte)].length, (doubledTeam.seg 0).state b ≠ .drained := by
    decide +kernel
  obtain ⟨tm', hget, -, -, hbyte, -⟩ := hunit doubledState byteCopy doubledTeam 0 0 [0] rfl (by decide) rfl hplain
  have hzero : (tm'.seg 0).byte 0 = 0 := hbyte 0
  have hseven := doubled_byte
  rw [show mget (unitToLs doubledState byteCopy 0 0 [0]).teams 1 = some tm' from hget, Option.map_some, hzero] at hseven
  exact absurd hseven (by decide)

end Sys2Proof.EventProofs

/-! PROOFS. One rounding (12 R272, R277, R278): `roundAt` gives the nearest multiple of a quantum, and `Fmt.round` the
nearest code of a format with its exceptions, for an exact number that lies in a unit of m x 2^e. -/

namespace Sys2Proof.Rounding

open Sys2Proof Sys2Proof.Machine Sys2Proof.Claims

/-! ### A number that m, e and the sticky mark stand for -/

/-- `up` keeps the order of magnitudes. -/
def Increasing (up : ℚ → ℚ) : Prop := ∀ a b, 0 ≤ a → a < b → up a < up b

/-- The number x lies at m x 2^e, or strictly between it and the next multiple where the sticky mark is set. -/
structure Holds (up : ℚ → ℚ) (x : ℚ) (m : Nat) (e : Int) (sticky : Bool) : Prop where
  mono : Increasing up
  lower : up (m * 2 ^ e) ≤ x
  upper : x < up (((m + 1 : Nat) : ℚ) * 2 ^ e)
  exact_iff : x = up (m * 2 ^ e) ↔ sticky = false

theorem increasing_id : Increasing id := fun _ _ _ h => h

theorem increasing_square : Increasing fun v => v * v := fun _ _ ha h => mul_self_lt_mul_self ha h

theorem Increasing.le {up : ℚ → ℚ} (h : Increasing up) {a b : ℚ} (ha : 0 ≤ a) (hab : a ≤ b) : up a ≤ up b := by
  rcases hab.lt_or_eq with hlt | rfl
  · exact (h a b ha hlt).le
  · exact le_rfl

theorem Increasing.lt_iff {up : ℚ → ℚ} (h : Increasing up) {a b : ℚ} (ha : 0 ≤ a) (hb : 0 ≤ b) : up a < up b ↔ a < b :=
  ⟨fun hlt => not_le.mp fun hle => absurd hlt (not_lt.mpr (h.le hb hle)), h a b ha⟩

theorem Increasing.eq_iff {up : ℚ → ℚ} (h : Increasing up) {a b : ℚ} (ha : 0 ≤ a) (hb : 0 ≤ b) : up a = up b ↔ a = b := by
  refine ⟨fun he => ?_, congrArg up⟩
  rcases lt_trichotomy a b with hlt | heq | hlt
  · exact absurd he (h a b ha hlt).ne
  · exact heq
  · exact absurd he (h b a hb hlt).ne'

theorem holds_exact (m : Nat) (e : Int) : Holds id (m * 2 ^ e) m e false where
  mono := increasing_id
  lower := le_rfl
  upper := by
    have : (0 : ℚ) < 2 ^ e := by positivity
    simp only [id]
    push_cast
    nlinarith
  exact_iff := by simp

section
variable {up : ℚ → ℚ} {x : ℚ} {m : Nat} {e : Int} {sticky : Bool}

/-- Multiples of 2^e compare as their factors do. -/
theorem multiple_lt {a b : Nat} (h : a < b) : (a : ℚ) * 2 ^ e < b * 2 ^ e := by
  have : (0 : ℚ) < 2 ^ e := by positivity
  have : (a : ℚ) < b := by exact_mod_cast h
  nlinarith

theorem multiple_le {a b : Nat} (h : a ≤ b) : (a : ℚ) * 2 ^ e ≤ b * 2 ^ e := by
  have : (0 : ℚ) < 2 ^ e := by positivity
  have : (a : ℚ) ≤ b := by exact_mod_cast h
  nlinarith

theorem multiple_nonneg (a : Nat) (e : Int) : (0 : ℚ) ≤ a * 2 ^ e := by positivity

theorem Holds.up_le (H : Holds up x m e sticky) (j : Nat) : up (j * 2 ^ e) ≤ x ↔ j ≤ m := by
  constructor
  · intro h
    by_contra hj
    have hle : ((m + 1 : Nat) : ℚ) * 2 ^ e ≤ j * 2 ^ e := multiple_le (by omega)
    exact absurd H.upper (not_lt.mpr ((H.mono.le (multiple_nonneg _ _) hle).trans h))
  · exact fun h => (H.mono.le (multiple_nonneg _ _) (multiple_le h)).trans H.lower

theorem Holds.lt_up (H : Holds up x m e sticky) (j : Nat) : x < up (j * 2 ^ e) ↔ m < j := by
  rw [← not_le, H.up_le, not_le]

theorem Holds.eq_up (H : Holds up x m e sticky) (j : Nat) : x = up (j * 2 ^ e) ↔ j = m ∧ sticky = false := by
  constructor
  · intro h
    have hle : j ≤ m := (H.up_le j).mp h.ge
    have hge : ¬ m + 1 ≤ m := by omega
    have hm : m ≤ j := by
      by_contra hlt
      have h2 := H.mono _ _ (multiple_nonneg j e) (multiple_lt (a := j) (b := m) (by omega))
      exact absurd (h2.trans_le H.lower) (by rw [h]; exact lt_irrefl _)
    obtain rfl : j = m := by omega
    exact ⟨rfl, H.exact_iff.mp h⟩
  · rintro ⟨rfl, hs⟩
    exact H.exact_iff.mpr hs

theorem Holds.le_up (H : Holds up x m e sticky) (j : Nat) :
    x ≤ up (j * 2 ^ e) ↔ m < j ∨ (j = m ∧ sticky = false) := by
  rw [le_iff_lt_or_eq, H.lt_up, H.eq_up]

theorem Holds.up_lt (H : Holds up x m e sticky) (j : Nat) :
    up (j * 2 ^ e) < x ↔ j < m ∨ (j = m ∧ sticky = true) := by
  rw [← not_le, H.le_up]
  cases sticky <;> simp <;> omega

end

/-! ### Nearest: its bounds -/

section
variable {up : ℚ → ℚ} {x : ℚ} {v : Nat → ℚ} {r : Rm} {neg : Bool} {k : Nat}

/-- The number that is rounded lies below the code after the nearest one. -/
theorem nearest_lt_succ (hu : Increasing up) (h0 : ∀ k, 0 ≤ v k) (hv : StrictMono v) (h : nearest v r neg up x k) :
    x < up (v (k + 1)) := by
  have hk : v k < v (k + 1) := hv (by omega)
  unfold nearest at h
  split at h
  · exact h.1.trans_lt (hu _ _ (by linarith [h0 k]) (by linarith))
  · split at h
    · exact h.1.trans_lt (hu _ _ (h0 k) hk)
    · exact h.2

/-- It lies above the code before the nearest one. -/
theorem nearest_pred_lt (hu : Increasing up) (h0 : ∀ k, 0 ≤ v k) (hv : StrictMono v) (h : nearest v r neg up x k) (hk : 0 < k) :
    up (v (k - 1)) < x := by
  have hlt : v (k - 1) < v k := hv (by omega)
  unfold nearest at h
  split at h
  · exact (hu _ _ (h0 _) (by linarith)).trans_le (h.2.2 hk).1
  · split at h
    · exact h.2 hk
    · exact (hu _ _ (h0 _) hlt).trans_le h.1

theorem le_of_nearest (hu : Increasing up) (h0 : ∀ k, 0 ≤ v k) (hv : StrictMono v) (h : nearest v r neg up x k) {j : Nat}
    (hj : up (v j) ≤ x) : j ≤ k := by
  by_contra hlt
  have hle : v (k + 1) ≤ v j := hv.monotone (by omega)
  exact absurd (nearest_lt_succ hu h0 hv h) (not_lt.mpr ((hu.le (h0 _) hle).trans hj))

theorem nearest_le_of (hu : Increasing up) (h0 : ∀ k, 0 ≤ v k) (hv : StrictMono v) (h : nearest v r neg up x k) {j : Nat}
    (hj : x ≤ up (v j)) : k ≤ j := by
  by_contra hlt
  have hle : v j ≤ v (k - 1) := hv.monotone (by omega)
  exact absurd (nearest_pred_lt hu h0 hv h (by omega)) (not_lt.mpr (hj.trans (hu.le (h0 _) hle)))

/-- A number that is itself a magnitude is its own rounding. -/
theorem nearest_exact (hu : Increasing up) (h0 : ∀ k, 0 ≤ v k) (hv : StrictMono v) (hx : x = up (v k)) :
    nearest v r neg up x k := by
  have hs : v k < v (k + 1) := hv (by omega)
  have hp : 0 < k → v (k - 1) < v k := fun h => hv (by omega)
  have h1 : up (v k) < up ((v k + v (k + 1)) / 2) := hu _ _ (h0 k) (by linarith)
  have h2 : 0 < k → up ((v (k - 1) + v k) / 2) < up (v k) := fun h =>
    hu _ _ (by linarith [h0 (k - 1), h0 k]) (by linarith [hp h])
  subst hx
  unfold nearest
  split
  · exact ⟨h1.le, fun h => absurd h h1.ne, fun h => ⟨(h2 h).le, fun he => absurd he (h2 h).ne'⟩⟩
  · split
    · exact ⟨le_rfl, fun h => hu _ _ (h0 _) (hp h)⟩
    · exact ⟨le_rfl, hu _ _ (h0 k) hs⟩

/-- The nearest magnitude is one only. -/
theorem nearest_unique (hu : Increasing up) (h0 : ∀ k, 0 ≤ v k) (hv : StrictMono v) {j : Nat} (hk : nearest v r neg up x k)
    (hj : nearest v r neg up x j) : k = j := by
  by_contra hne
  wlog hlt : k < j generalizing k j
  · exact this hj hk (Ne.symm hne) (by omega)
  have h1 := nearest_lt_succ hu h0 hv hk
  have h2 := nearest_pred_lt hu h0 hv hj (by omega)
  have hj1 : j = k + 1 := by
    by_contra h
    have hle : v (k + 1) ≤ v (j - 1) := hv.monotone (by omega)
    exact absurd (h2.trans h1) (not_lt.mpr (hu.le (h0 _) hle))
  subst hj1
  unfold nearest at hk hj
  split at hk
  · rw [if_pos (by assumption)] at hj
    obtain ⟨hk1, hk2, -⟩ := hk
    obtain ⟨hj1, hj2⟩ := hj.2.2 (by omega)
    have hx : x = up ((v k + v (k + 1)) / 2) := le_antisymm hk1 hj1
    have := hk2 hx
    have := hj2 hx
    omega
  · rw [if_neg (by assumption)] at hj
    split at hk
    · rw [if_pos (by assumption)] at hj
      exact absurd hk.1 (not_le.mpr (hj.2 (by omega)))
    · rw [if_neg (by assumption)] at hj
      exact absurd hk.2 (not_lt.mpr hj.1)

end

end Sys2Proof.Rounding

/-! PROOFS. `roundAt` gives the nearest multiple of a quantum (12 R272). -/

namespace Sys2Proof.Rounding

open Sys2Proof Sys2Proof.Machine Sys2Proof.Claims

/-- Multiples of a quantum. -/
def multiples (q : Int) (k : Nat) : ℚ := k * 2 ^ q

theorem multiples_nonneg (q : Int) (k : Nat) : 0 ≤ multiples q k := multiple_nonneg k q

theorem multiples_strictMono (q : Int) : StrictMono (multiples q) := fun _ _ h => multiple_lt h

/-- A multiple of a coarser quantum is one of a finer. -/
theorem multiple_coarser (K s : Nat) (e : Int) : (K : ℚ) * 2 ^ (e + s) = ((K * 2 ^ s : Nat) : ℚ) * 2 ^ e := by
  rw [zpow_add₀ (by norm_num), zpow_natCast]
  push_cast
  ring

/-- The middle of two adjacent multiples of a quantum of an even number of units. -/
theorem multiple_middle (K s : Nat) (e : Int) :
    ((K : ℚ) * 2 ^ (e + (s + 1 : Nat)) + ((K + 1 : Nat) : ℚ) * 2 ^ (e + (s + 1 : Nat))) / 2
      = ((K * 2 ^ (s + 1) + 2 ^ s : Nat) : ℚ) * 2 ^ e := by
  rw [multiple_coarser, multiple_coarser]
  push_cast
  ring

section
variable {up : ℚ → ℚ} {x : ℚ} {m : Nat} {e : Int} {sticky : Bool}

/-- Nearness among the multiples of a coarser quantum, in units of the number. -/
theorem nearest_multiples_iff (H : Holds up x m e sticky) (r : Rm) (neg : Bool) (s K : Nat) :
    nearest (multiples (e + (s + 1 : Nat))) r neg up x K ↔
      if r = .rne then
        (m < K * 2 ^ (s + 1) + 2 ^ s ∨ (K * 2 ^ (s + 1) + 2 ^ s = m ∧ sticky = false))
        ∧ (K * 2 ^ (s + 1) + 2 ^ s = m ∧ sticky = false → K % 2 = 0)
        ∧ (0 < K → (K - 1) * 2 ^ (s + 1) + 2 ^ s ≤ m ∧ ((K - 1) * 2 ^ (s + 1) + 2 ^ s = m ∧ sticky = false → K % 2 = 0))
      else if isAway r neg = true then
        (m < K * 2 ^ (s + 1) ∨ (K * 2 ^ (s + 1) = m ∧ sticky = false))
        ∧ (0 < K → (K - 1) * 2 ^ (s + 1) < m ∨ ((K - 1) * 2 ^ (s + 1) = m ∧ sticky = true))
      else K * 2 ^ (s + 1) ≤ m ∧ m < (K + 1) * 2 ^ (s + 1) := by
  have hlow : 0 < K → (multiples (e + (s + 1 : Nat)) (K - 1) + multiples (e + (s + 1 : Nat)) K) / 2
      = (((K - 1) * 2 ^ (s + 1) + 2 ^ s : Nat) : ℚ) * 2 ^ e := fun hK => by
    have h := multiple_middle (K - 1) s e
    rwa [Nat.sub_add_cancel hK] at h
  have hup : (multiples (e + (s + 1 : Nat)) K + multiples (e + (s + 1 : Nat)) (K + 1)) / 2
      = ((K * 2 ^ (s + 1) + 2 ^ s : Nat) : ℚ) * 2 ^ e := multiple_middle K s e
  have hm : ∀ j : Nat, multiples (e + (s + 1 : Nat)) j = ((j * 2 ^ (s + 1) : Nat) : ℚ) * 2 ^ e := fun j => multiple_coarser j _ e
  unfold nearest
  split
  · rw [hup, H.le_up, H.eq_up]
    refine and_congr_right fun _ => and_congr_right fun _ => forall_congr' fun hK => ?_
    rw [hlow hK, H.up_le, H.eq_up]
  · split
    · rw [hm, hm, H.le_up, H.up_lt]
    · rw [hm, hm, H.up_le, H.lt_up]

/-- `roundAt` at a coarser quantum: the nearest multiple. -/
theorem roundAt_nearest_coarse (H : Holds up x m e sticky) (r : Rm) (neg : Bool) (s : Nat) :
    nearest (multiples (e + (s + 1 : Nat))) r neg up x (roundAt r neg m e (e + (s + 1 : Nat)) sticky).1 := by
  rw [nearest_multiples_iff H]
  have hq : ¬ e + ((s + 1 : Nat) : Int) ≤ e := by omega
  have hs : (e + ((s + 1 : Nat) : Int) - e).toNat = s + 1 := by omega
  unfold roundAt
  rw [if_neg hq, hs]
  simp only [Nat.add_sub_cancel]
  have hP : 2 ^ (s + 1) = 2 * 2 ^ s := by ring
  have hpos : 0 < 2 ^ s := by positivity
  have hdiv := Nat.div_add_mod m (2 ^ (s + 1))
  have hmod := Nat.mod_lt m (show 0 < 2 ^ (s + 1) by positivity)
  generalize hk : m / 2 ^ (s + 1) = k at *
  generalize hr : m % 2 ^ (s + 1) = t at *
  clear hq hs
  generalize 2 ^ (s + 1) = P at *
  generalize 2 ^ s = w at *
  subst hP
  have hk1 : (k + 1) * (2 * w) = 2 * w * k + 2 * w := by ring
  have hk2 : (k + 1 + 1) * (2 * w) = 2 * w * k + 2 * w + 2 * w := by ring
  have hk0 : k * (2 * w) = 2 * w * k := by ring
  have hkm : 0 < k → (k - 1) * (2 * w) + 2 * w = 2 * w * k := fun h => by
    obtain ⟨j, rfl⟩ : ∃ j, k = j + 1 := ⟨k - 1, by omega⟩
    rw [Nat.add_sub_cancel]
    ring
  have hsub : k + 1 - 1 = k := by omega
  obtain ⟨A, hA⟩ : ∃ A, 2 * w * k = A := ⟨_, rfl⟩
  rw [hA] at hk0 hk1 hk2 hkm hdiv
  obtain ⟨B, hB⟩ : ∃ B, (k - 1) * (2 * w) = B := ⟨_, rfl⟩
  rw [hB] at hkm
  clear hA
  cases r with
  | rne =>
    rw [if_pos rfl]
    cases hu : decide (t > w) || (t == w && (sticky || k % 2 == 1)) with
    | false =>
      simp only [Bool.or_eq_false_iff, decide_eq_false_iff_not, Bool.and_eq_false_iff, beq_eq_false_iff_ne] at hu
      simp only [Bool.false_eq_true, if_false, hk0, hB]
      cases sticky <;> simp at hu ⊢ <;> omega
    | true =>
      simp only [Bool.or_eq_true, decide_eq_true_eq, Bool.and_eq_true, beq_iff_eq] at hu
      simp only [if_true, hsub, hk0, hk1]
      clear hk0 hk1 hk2 hB hk hr
      rcases hu with hu | ⟨hu, ho⟩
      · cases sticky <;> simp <;> omega
      · cases sticky
        · simp at ho ⊢
          exact ⟨by omega, by omega, by omega, fun _ => Nat.succ_mod_two_eq_zero_iff.mpr ho⟩
        · simp
          omega
  | rz =>
    rw [if_neg (by decide), if_neg (by cases neg <;> decide)]
    simp only [Bool.false_eq_true, if_false, hk0, hk1, hB]
    omega
  | rd =>
    rw [if_neg (by decide)]
    cases neg <;> cases sticky <;> by_cases ht : t = 0 <;> simp [isAway, ht, hsub, hk0, hk1, hk2, hB] <;> omega
  | ru =>
    rw [if_neg (by decide)]
    cases neg <;> cases sticky <;> by_cases ht : t = 0 <;> simp [isAway, ht, hsub, hk0, hk1, hk2, hB] <;> omega

/-- The mark of `roundAt` says whether the multiple differs from the number. -/
theorem roundAt_inexact_coarse (H : Holds up x m e sticky) (r : Rm) (neg : Bool) (s : Nat) :
    (roundAt r neg m e (e + (s + 1 : Nat)) sticky).2 = true ↔
      up (multiples (e + (s + 1 : Nat)) (roundAt r neg m e (e + (s + 1 : Nat)) sticky).1) ≠ x := by
  have hm : ∀ j : Nat, multiples (e + (s + 1 : Nat)) j = ((j * 2 ^ (s + 1) : Nat) : ℚ) * 2 ^ e := fun j => multiple_coarser j _ e
  rw [hm, ne_comm, Ne, H.eq_up]
  have hq : ¬ e + ((s + 1 : Nat) : Int) ≤ e := by omega
  have hs : (e + ((s + 1 : Nat) : Int) - e).toNat = s + 1 := by omega
  unfold roundAt
  rw [if_neg hq, hs]
  have hdiv := Nat.div_add_mod m (2 ^ (s + 1))
  have hpos : 0 < 2 ^ s := by positivity
  by_cases hx : m % 2 ^ (s + 1) = 0 ∧ sticky = false
  · obtain ⟨hr, rfl⟩ := hx
    have hkm : m / 2 ^ (s + 1) * 2 ^ (s + 1) = m := by
      rw [Nat.mul_comm]
      omega
    have hne : ¬ 0 = 2 ^ s := by omega
    cases r <;> simp [hkm, hr, hne]
  · have hne : ∀ j : Nat, ¬ (j * 2 ^ (s + 1) = m ∧ sticky = false) := by
      rintro j ⟨hj, hsf⟩
      refine hx ⟨?_, hsf⟩
      rw [← hj]
      exact Nat.mul_mod_left _ _
    refine iff_of_true ?_ (hne _)
    cases sticky
    · simpa using fun h => hx ⟨h, rfl⟩
    · simp

/-- At a quantum that divides the number the result is exact. -/
theorem roundAt_fine {q : Int} (hq : q ≤ e) (r : Rm) (neg sticky : Bool) :
    roundAt r neg m e q sticky = (m * 2 ^ (e - q).toNat, sticky) := by
  unfold roundAt
  rw [if_pos hq]

theorem multiple_fine {q : Int} (hq : q ≤ e) : multiples q (m * 2 ^ (e - q).toNat) = m * 2 ^ e := by
  unfold multiples
  have h : e = q + ((e - q).toNat : Int) := by omega
  conv_rhs => rw [h]
  exact (multiple_coarser m _ q).symm

/-- `roundAt` gives the nearest multiple of a quantum; a sticky number needs a quantum above its own. -/
theorem roundAt_nearest (H : Holds up x m e sticky) (r : Rm) (neg : Bool) {q : Int} (hq : sticky = true → e < q) :
    nearest (multiples q) r neg up x (roundAt r neg m e q sticky).1 := by
  by_cases h : q ≤ e
  · have hs : sticky = false := by
      cases sticky with
      | false => rfl
      | true => exact absurd (hq rfl) (by omega)
    rw [roundAt_fine h]
    refine nearest_exact H.mono (multiples_nonneg q) (multiples_strictMono q) ?_
    rw [multiple_fine h]
    exact H.exact_iff.mpr hs
  · obtain ⟨s, rfl⟩ : ∃ s : Nat, q = e + (s + 1 : Nat) := ⟨(q - e).toNat - 1, by omega⟩
    exact roundAt_nearest_coarse H r neg s

theorem roundAt_inexact (H : Holds up x m e sticky) (r : Rm) (neg : Bool) {q : Int} (hq : sticky = true → e < q) :
    (roundAt r neg m e q sticky).2 = true ↔ up (multiples q (roundAt r neg m e q sticky).1) ≠ x := by
  by_cases h : q ≤ e
  · have hs : sticky = false := by
      cases sticky with
      | false => rfl
      | true => exact absurd (hq rfl) (by omega)
    rw [roundAt_fine h, multiple_fine h, ← H.exact_iff.mpr hs]
    simp [hs]
  · obtain ⟨s, rfl⟩ : ∃ s : Nat, q = e + (s + 1 : Nat) := ⟨(q - e).toNat - 1, by omega⟩
    exact roundAt_inexact_coarse H r neg s

end

end Sys2Proof.Rounding

/-! PROOFS. The magnitudes of a format's codes, and `Fmt.round`: the nearest code with its exceptions (12 R272, R277,
R278). -/

namespace Sys2Proof.Rounding

open Sys2Proof Sys2Proof.Machine Sys2Proof.Claims

/-! ### Magnitudes of codes -/

/-- The code of a multiple of a quantum: full significands above the lowest quantum. -/
theorem mag_code (f : Fmt) (d K : Nat) (hK : K ≤ 2 ^ (f.mw + 1)) (hd : d = 0 ∨ 2 ^ f.mw ≤ K) :
    mag f (d * 2 ^ f.mw + K) = multiples (f.qmin + d) K := by
  have hP : 0 < 2 ^ f.mw := by positivity
  have h2 : 2 ^ (f.mw + 1) = 2 * 2 ^ f.mw := by ring
  rcases Nat.lt_or_ge K (2 ^ f.mw) with hlt | hge
  · obtain rfl : d = 0 := by omega
    have hdiv : (0 * 2 ^ f.mw + K) / 2 ^ f.mw = 0 := Nat.div_eq_of_lt (by omega)
    unfold mag
    rw [if_pos hdiv]
    simp [multiples]
  · rcases Nat.lt_or_ge K (2 ^ (f.mw + 1)) with hlt | hge2
    · obtain ⟨t, rfl⟩ : ∃ t, K = 2 ^ f.mw + t := ⟨K - 2 ^ f.mw, by omega⟩
      have hc : d * 2 ^ f.mw + (2 ^ f.mw + t) = t + 2 ^ f.mw * (d + 1) := by ring
      have hdiv : (d * 2 ^ f.mw + (2 ^ f.mw + t)) / 2 ^ f.mw = d + 1 := by
        rw [hc, Nat.add_mul_div_left _ _ hP, Nat.div_eq_of_lt (by omega)]
        omega
      have hmod : (d * 2 ^ f.mw + (2 ^ f.mw + t)) % 2 ^ f.mw = t := by
        rw [hc, Nat.add_mul_mod_self_left, Nat.mod_eq_of_lt (by omega)]
      unfold mag multiples
      rw [hdiv, hmod, if_neg (by omega)]
      congr 2
      push_cast
      ring
    · obtain rfl : K = 2 ^ (f.mw + 1) := by omega
      have hc : d * 2 ^ f.mw + 2 ^ (f.mw + 1) = 2 ^ f.mw * (d + 2) := by ring
      have hdiv : (d * 2 ^ f.mw + 2 ^ (f.mw + 1)) / 2 ^ f.mw = d + 2 := by
        rw [hc, Nat.mul_div_cancel_left _ hP]
      have hmod : (d * 2 ^ f.mw + 2 ^ (f.mw + 1)) % 2 ^ f.mw = 0 := by rw [hc, Nat.mul_mod_right]
      unfold mag multiples
      rw [hdiv, hmod, if_neg (by omega)]
      have he : f.qmin + ((d + 2 : Nat) : Int) - 1 = f.qmin + d + 1 := by push_cast; ring
      rw [he, zpow_add_one₀ (by norm_num)]
      push_cast
      ring

/-- Every code is that of a multiple of a quantum. -/
theorem code_split (f : Fmt) (c : Nat) : ∃ d K, c = d * 2 ^ f.mw + K ∧ K < 2 ^ (f.mw + 1) ∧ (d = 0 ∨ 2 ^ f.mw ≤ K) := by
  have hP : 0 < 2 ^ f.mw := by positivity
  have h2 : 2 ^ (f.mw + 1) = 2 * 2 ^ f.mw := by ring
  have hdm := Nat.div_add_mod c (2 ^ f.mw)
  have hm := Nat.mod_lt c hP
  rcases Nat.eq_zero_or_pos (c / 2 ^ f.mw) with h0 | hpos
  · refine ⟨0, c, by omega, ?_, .inl rfl⟩
    rw [h0] at hdm
    omega
  · refine ⟨c / 2 ^ f.mw - 1, 2 ^ f.mw + c % 2 ^ f.mw, ?_, by omega, .inr (by omega)⟩
    obtain ⟨j, hj⟩ : ∃ j, c / 2 ^ f.mw = j + 1 := ⟨c / 2 ^ f.mw - 1, by omega⟩
    rw [hj] at hdm ⊢
    have : j * 2 ^ f.mw + (2 ^ f.mw + c % 2 ^ f.mw) = 2 ^ f.mw * (j + 1) + c % 2 ^ f.mw := by ring
    rw [Nat.add_sub_cancel, this, hdm]

theorem mag_nonneg (f : Fmt) (c : Nat) : 0 ≤ mag f c := by
  unfold mag
  split <;> positivity

theorem mag_strictMono (f : Fmt) : StrictMono (mag f) := by
  refine strictMono_nat_of_lt_succ fun c => ?_
  obtain ⟨d, K, rfl, hK, hd⟩ := code_split f c
  rw [show d * 2 ^ f.mw + K + 1 = d * 2 ^ f.mw + (K + 1) from by ring, mag_code f d K (by omega) hd,
    mag_code f d (K + 1) (by omega) (by omega)]
  exact multiples_strictMono _ (by omega)

theorem mag_zero (f : Fmt) : mag f 0 = 0 := by
  unfold mag
  simp

/-! ### From the multiples of a quantum to the codes -/

section
variable {up : ℚ → ℚ} {x : ℚ} {v w : Nat → ℚ} {r : Rm} {neg : Bool} {k c : Nat}

/-- The nearest of one list of magnitudes is that of another that agrees with it around the number. -/
theorem nearest_of_agree (hu : Increasing up) (h0 : ∀ k, 0 ≤ w k) (hw : StrictMono w) (he : v k = w c) (hp : k % 2 = c % 2)
    (hup : v (k + 1) = w (c + 1) ∨ x < up (w c)) (hlow : (0 < c → 0 < k ∧ v (k - 1) = w (c - 1)) ∨ up (w c) ≤ x)
    (h : nearest v r neg up x k) : nearest w r neg up x c := by
  have hs : w c < w (c + 1) := hw (by omega)
  have hd : 0 < c → w (c - 1) < w c := fun h => hw (by omega)
  have hmid : up (w c) < up ((w c + w (c + 1)) / 2) := hu _ _ (h0 c) (by linarith)
  have hmid' : 0 < c → up ((w (c - 1) + w c) / 2) < up (w c) := fun h =>
    hu _ _ (by linarith [h0 (c - 1), h0 c]) (by linarith [hd h])
  unfold nearest at h ⊢
  by_cases hr : r = .rne
  · rw [if_pos hr] at h ⊢
    obtain ⟨h1, h2, h3⟩ := h
    have hlo : 0 < c → up ((w (c - 1) + w c) / 2) ≤ x ∧ (x = up ((w (c - 1) + w c) / 2) → c % 2 = 0) := fun hc => by
      rcases hlow with hl | hl
      · obtain ⟨hk, hv⟩ := hl hc
        rw [← he, ← hv, ← hp]
        exact h3 hk
      · exact ⟨(hmid' hc).le.trans hl, fun hx => absurd (hx ▸ hl) (not_le.mpr (hmid' hc))⟩
    rcases hup with hv | hlt
    · rw [he, hv] at h1 h2
      exact ⟨h1, fun hx => hp ▸ h2 hx, hlo⟩
    · exact ⟨(hlt.trans hmid).le, fun hx => absurd (hx ▸ hlt) (not_lt.mpr hmid.le), hlo⟩
  · rw [if_neg hr] at h ⊢
    by_cases ha : isAway r neg = true
    · rw [if_pos ha] at h ⊢
      refine ⟨he ▸ h.1, fun hc => ?_⟩
      rcases hlow with hl | hl
      · obtain ⟨hk, hv⟩ := hl hc
        exact hv ▸ h.2 hk
      · exact (hu _ _ (h0 _) (hd hc)).trans_le hl
    · rw [if_neg ha] at h ⊢
      rw [he] at h
      refine ⟨h.1, ?_⟩
      rcases hup with hv | hlt
      · exact hv ▸ h.2
      · exact absurd h.1 (not_le.mpr hlt)

/-- Rounded at the quantum of a format, the number is nearest to the code of the multiple. -/
theorem nearest_mag (f : Fmt) (hmw : 1 ≤ f.mw) (hu : Increasing up) (d K : Nat)
    (hhi : x < up (multiples (f.qmin + d) (2 ^ (f.mw + 1)))) (hlo : d = 0 ∨ up (multiples (f.qmin + d) (2 ^ f.mw)) ≤ x)
    (h : nearest (multiples (f.qmin + d)) r neg up x K) :
    nearest (mag f) r neg up x (d * 2 ^ f.mw + K) ∧ mag f (d * 2 ^ f.mw + K) = multiples (f.qmin + d) K
      ∧ K ≤ 2 ^ (f.mw + 1) := by
  have hK : K ≤ 2 ^ (f.mw + 1) := nearest_le_of hu (multiples_nonneg _) (multiples_strictMono _) h hhi.le
  have hd : d = 0 ∨ 2 ^ f.mw ≤ K := hlo.imp id fun hl => le_of_nearest hu (multiples_nonneg _) (multiples_strictMono _) h hl
  have he := mag_code f d K hK hd
  refine ⟨nearest_of_agree hu (mag_nonneg f) (mag_strictMono f) he.symm ?_ ?_ ?_ h, he, hK⟩
  · have : d * 2 ^ f.mw % 2 = 0 := by
      obtain ⟨n, hn⟩ : ∃ n, f.mw = n + 1 := ⟨f.mw - 1, by omega⟩
      rw [hn, pow_succ, ← Nat.mul_assoc]
      exact Nat.mul_mod_left _ _
    omega
  · rcases Nat.lt_or_ge K (2 ^ (f.mw + 1)) with hlt | hge
    · refine .inl ?_
      rw [Nat.add_assoc, mag_code f d (K + 1) (by omega) (by omega)]
    · obtain rfl : K = 2 ^ (f.mw + 1) := by omega
      refine .inr ?_
      rw [he]
      exact hhi
  · by_cases hedge : d ≠ 0 ∧ K = 2 ^ f.mw
    · obtain ⟨hd0, rfl⟩ := hedge
      refine .inr ?_
      rw [he]
      exact hlo.resolve_left hd0
    · refine .inl fun hc => ?_
      have hKpos : 0 < K := by
        rcases hd with rfl | hge
        · omega
        · exact (Nat.two_pow_pos _).trans_le hge
      refine ⟨hKpos, ?_⟩
      rw [Nat.add_sub_assoc hKpos, mag_code f d (K - 1) (by omega) (by omega)]

end

end Sys2Proof.Rounding

/-! PROOFS. `Fmt.round` gives the nearest code with its exceptions (12 R272, R277, R278). -/

namespace Sys2Proof.Rounding

open Sys2Proof Sys2Proof.Machine Sys2Proof.Claims

section
variable {up : ℚ → ℚ} {x : ℚ} {m : Nat} {e : Int} {sticky : Bool}

/-- The binade of a number, from its leading bit. -/
theorem Holds.binade (H : Holds up x m e sticky) (hm : m ≠ 0) :
    up (2 ^ ((Nat.log2 m : Int) + e)) ≤ x ∧ x < up (2 ^ ((Nat.log2 m : Int) + e + 1)) := by
  have hp : ∀ n : Nat, (2 : ℚ) ^ ((n : Int) + e) = ((2 ^ n : Nat) : ℚ) * 2 ^ e := fun n => by
    rw [zpow_add₀ (by norm_num), zpow_natCast]
    push_cast
    ring
  constructor
  · rw [hp, H.up_le]
    exact Nat.log2_self_le hm
  · have : (Nat.log2 m : Int) + e + 1 = ((Nat.log2 m + 1 : Nat) : Int) + e := by push_cast; ring
    rw [this, hp, H.lt_up]
    exact Nat.lt_log2_self

/-- A power of two as a multiple of a quantum. -/
theorem multiples_two_pow (q : Int) (n : Nat) : multiples q (2 ^ n) = 2 ^ (q + n) := by
  unfold multiples
  rw [zpow_add₀ (by norm_num), zpow_natCast]
  push_cast
  ring

theorem two_zpow_le {a b : Int} (h : a ≤ b) : (2 : ℚ) ^ a ≤ 2 ^ b := zpow_le_zpow_right₀ (by norm_num) h

theorem two_zpow_nonneg (a : Int) : (0 : ℚ) ≤ 2 ^ a := by positivity

/-- Tininess after rounding (12 R277): the leading bit of the result at full precision, and the nearest multiple of half
the lowest quantum. -/
theorem tiny_iff (f : Fmt) (H : Holds up x m e sticky) (hm : m ≠ 0) (hs : sticky = true → f.mw < Nat.log2 m) (r : Rm) (neg : Bool) :
    (Nat.log2 (roundAt r neg m e ((Nat.log2 m : Int) + e - f.mw) sticky).1 : Int) + ((Nat.log2 m : Int) + e - f.mw)
        < f.qmin + f.mw
      ↔ ∃ k, nearest (fun k => (k : ℚ) * 2 ^ (f.qmin - 1)) r neg up x k ∧ k < 2 ^ (f.mw + 1) := by
  obtain ⟨hlo, hhi⟩ := H.binade hm
  generalize ht : (Nat.log2 m : Int) + e = top at hlo hhi ⊢
  have hq : sticky = true → e < top - f.mw := fun h => by
    have := hs h
    omega
  have hn := roundAt_nearest H r neg hq
  generalize (roundAt r neg m e (top - f.mw) sticky).1 = K at hn ⊢
  have hK : 2 ^ f.mw ≤ K := by
    refine le_of_nearest H.mono (multiples_nonneg _) (multiples_strictMono _) hn ?_
    rw [multiples_two_pow]
    simpa using hlo
  have hK2 : K ≤ 2 ^ (f.mw + 1) := by
    refine nearest_le_of H.mono (multiples_nonneg _) (multiples_strictMono _) hn ?_
    rw [multiples_two_pow]
    have he : top - (f.mw : Int) + ((f.mw + 1 : Nat) : Int) = top + 1 := by push_cast; ring
    rw [he]
    exact hhi.le
  have hlog : f.mw ≤ Nat.log2 K := (Nat.le_log2 (by have := Nat.two_pow_pos f.mw; omega)).mpr hK
  have hlog2 : Nat.log2 K ≤ f.mw + 1 := by
    by_contra h
    have h1 : 2 ^ (f.mw + 2) ≤ K := (Nat.le_log2 (by have := Nat.two_pow_pos f.mw; omega)).mp (by omega)
    have h2 : 2 ^ (f.mw + 2) = 2 * 2 ^ (f.mw + 1) := by ring
    have := Nat.two_pow_pos (f.mw + 1)
    omega
  change _ ↔ ∃ k, nearest (multiples (f.qmin - 1)) r neg up x k ∧ k < 2 ^ (f.mw + 1)
  rcases lt_trichotomy top (f.qmin + f.mw - 1) with hlt | heq | hgt
  · refine iff_of_true (by omega) ⟨_, roundAt_nearest H r neg (q := f.qmin - 1) fun h => by have := hq h; omega, ?_⟩
    have hle : (roundAt r neg m e (f.qmin - 1) sticky).1 ≤ 2 ^ f.mw := by
      refine nearest_le_of H.mono (multiples_nonneg _) (multiples_strictMono _)
        (roundAt_nearest H r neg (q := f.qmin - 1) fun h => by have := hq h; omega) ?_
      rw [multiples_two_pow]
      exact hhi.le.trans (H.mono.le (two_zpow_nonneg _) (two_zpow_le (by omega)))
    have : 2 ^ (f.mw + 1) = 2 * 2 ^ f.mw := by ring
    have := Nat.two_pow_pos f.mw
    omega
  · have hqe : top - (f.mw : Int) = f.qmin - 1 := by omega
    rw [hqe] at hn
    constructor
    · intro h
      refine ⟨K, hn, (Nat.log2_lt (by have := Nat.two_pow_pos f.mw; omega)).mp (by omega)⟩
    · rintro ⟨k, hk, hlt⟩
      obtain rfl := nearest_unique H.mono (multiples_nonneg _) (multiples_strictMono _) hn hk
      have := (Nat.log2_lt (by have := Nat.two_pow_pos f.mw; omega)).mpr hlt
      omega
  · refine iff_of_false (by omega) ?_
    rintro ⟨k, hk, hlt⟩
    have hle : 2 ^ (f.mw + 1) ≤ k := by
      refine le_of_nearest H.mono (multiples_nonneg _) (multiples_strictMono _) hk ?_
      rw [multiples_two_pow]
      exact (H.mono.le (two_zpow_nonneg _) (two_zpow_le (by push_cast; omega))).trans hlo
    omega

/-- What `Fmt.overflow` and the range rule give past the largest finite code. -/
theorem overflow_bits (f : Fmt) (r : Rm) (sat neg : Bool) :
    (if sat || f.top == .finite then f.withSign neg f.maxFinite
      else if f.top == .nanOnly then f.withSign neg f.defNaN else f.overflow r neg)
      = f.withSign neg (overflowed f r sat neg) := by
  unfold overflowed Fmt.overflow
  cases sat
  · cases ht : f.top
    · cases r <;> cases neg <;> rfl
    · rfl
    · rfl
  · rfl

/-- A number is rounded once to its nearest code, with the exceptions of the rounding. -/
theorem round_rounded (f : Fmt) (hmw : 1 ≤ f.mw) (H : Holds up x m e sticky) (hm : m ≠ 0)
    (hs : sticky = true → f.mw < Nat.log2 m) (r : Rm) (sat neg : Bool) :
    rounded f r sat neg up x (f.round r sat neg m e sticky) := by
  have htiny := tiny_iff f H hm hs r neg
  obtain ⟨hlo, hhi⟩ := H.binade hm
  unfold Fmt.round
  rw [if_neg hm]
  dsimp only
  generalize ht : (Nat.log2 m : Int) + e = top at *
  obtain ⟨d, hd⟩ : ∃ d : Nat, max (top - (f.mw : Int)) f.qmin = f.qmin + d := ⟨(max (top - (f.mw : Int)) f.qmin - f.qmin).toNat, by omega⟩
  rw [hd]
  have hdn : (f.qmin + (d : Int) - f.qmin).toNat = d := by omega
  rw [hdn]
  have hq : sticky = true → e < f.qmin + d := fun h => by
    have := hs h
    omega
  have hn := roundAt_nearest H r neg hq
  have hx := roundAt_inexact H r neg hq
  obtain ⟨hmag, hval, -⟩ := nearest_mag f hmw H.mono d _ (by
      rw [multiples_two_pow]
      exact hhi.trans_le (H.mono.le (two_zpow_nonneg _) (two_zpow_le (by push_cast; omega)))) (by
      by_cases h0 : d = 0
      · exact .inl h0
      · refine .inr ?_
        rw [multiples_two_pow]
        exact (H.mono.le (two_zpow_nonneg _) (two_zpow_le (by omega))).trans hlo) hn
  rw [← hval] at hx
  generalize roundAt r neg m e (f.qmin + d) sticky = y at *
  obtain ⟨K, nx⟩ := y
  dsimp only at *
  by_cases hc : d * 2 ^ f.mw + K > f.maxFinite
  · rw [if_pos hc, overflow_bits]
    exact ⟨rfl, rfl, _, hmag, fun h => absurd h (by omega), fun _ => ⟨rfl, rfl, rfl, rfl⟩⟩
  · rw [if_neg hc]
    refine ⟨rfl, rfl, _, hmag, fun _ => ⟨rfl, rfl, hx, ?_⟩, fun h => absurd h hc⟩
    rw [Bool.and_eq_true, decide_eq_true_eq, htiny, hx]
    exact and_comm

end

end Sys2Proof.Rounding

/-! PROOFS. Sums, products, quotients, roots and conversions are their exact numbers, rounded once (12 R272). -/

namespace Sys2Proof.Rounding

open Sys2Proof Sys2Proof.Machine Sys2Proof.Claims

/-! ### Exact numbers -/

theorem round_zero (f : Fmt) (r : Rm) (sat neg sticky : Bool) (e : Int) :
    f.round r sat neg 0 e sticky = { bits := f.withSign neg 0 } := by
  unfold Fmt.round
  rw [if_pos rfl]

theorem rounded_zero (f : Fmt) {up : ℚ → ℚ} (hu : Increasing up) (h0 : up 0 = 0) (r : Rm) (sat neg : Bool) :
    rounded f r sat neg up 0 { bits := f.withSign neg 0 } := by
  have h : (0 : ℚ) = up (mag f 0) := by rw [mag_zero, h0]
  refine ⟨rfl, rfl, 0, nearest_exact hu (mag_nonneg f) (mag_strictMono f) h, fun _ => ⟨rfl, rfl, ?_, ?_⟩,
    fun hlt => absurd hlt (by omega)⟩
  · simp [← h]
  · simp [← h]

/-- An exact m x 2^e is rounded once. -/
theorem round_exact (f : Fmt) (hmw : 1 ≤ f.mw) (r : Rm) (sat neg : Bool) (m : Nat) (e : Int) :
    rounded f r sat neg id (m * 2 ^ e) (f.round r sat neg m e) := by
  by_cases hm : m = 0
  · subst hm
    rw [round_zero]
    simpa using rounded_zero f increasing_id rfl r sat neg
  · exact round_rounded f hmw (holds_exact m e) hm (by simp) r sat neg

theorem abs_num (neg : Bool) (m : Nat) (e : Int) : |num neg m e| = m * 2 ^ e := by
  have h : (0 : ℚ) ≤ m * 2 ^ e := multiple_nonneg m e
  cases neg
  · exact abs_of_nonneg h
  · have : num true m e = -(m * 2 ^ e) := by unfold num; simp
    rw [this, abs_neg, abs_of_nonneg h]

/-- The sign of a factor. -/
theorem num_eq (neg : Bool) (m : Nat) (e : Int) : num neg m e = ((if neg then -(m : Int) else m : Int) : ℚ) * 2 ^ e := by
  cases neg <;> simp [num]

theorem num_mul (n n' : Bool) (m m' : Nat) (e e' : Int) : num n m e * num n' m' e' = num (n != n') (m * m') (e + e') := by
  have h : (2 : ℚ) ^ (e + e') = 2 ^ e * 2 ^ e' := zpow_add₀ (by norm_num) e e'
  cases n <;> cases n' <;> simp [num, h] <;> ring

/-- A number in units of a lower power of two. -/
theorem num_finer (neg : Bool) (m : Nat) {e q : Int} (hq : q ≤ e) :
    num neg m e = ((if neg then -((m * 2 ^ (e - q).toNat : Nat) : Int) else ((m * 2 ^ (e - q).toNat : Nat) : Int) : Int) : ℚ) * 2 ^ q := by
  have h := multiple_fine (m := m) hq
  unfold multiples at h
  cases neg
  · simpa [num] using h.symm
  · simp only [num, if_true, Int.cast_neg, Int.cast_natCast, neg_mul]
    rw [h]

/-! ### Exactly rounded sums -/

theorem exactly_of (f : Fmt) (hmw : 1 ≤ f.mw) {r : Rm} {zero n : Bool} {m : Nat} {e : Int} {x : ℚ} (hx : (m : ℚ) * 2 ^ e = |x|)
    (hn : x ≠ 0 → n = decide (x < 0)) (hz : x = 0 → n = zero) : exactly f r zero x (f.round r false n m e) := by
  constructor
  · intro h0
    have hm : m = 0 := by
      rw [h0, abs_zero] at hx
      have : (m : ℚ) = 0 := (mul_eq_zero.mp hx).resolve_right (by positivity)
      exact_mod_cast this
    rw [hm, round_zero, hz h0]
  · intro h0
    rw [← hx, ← hn h0]
    exact round_exact f hmw r false n m e

/-- What a signed integer multiple of a power of two is. -/
theorem signed_multiple (s : Int) (e : Int) : ((s.natAbs : Nat) : ℚ) * 2 ^ e = |(s : ℚ) * 2 ^ e| ∧ ((s : ℚ) * 2 ^ e < 0 ↔ s < 0)
    ∧ ((s : ℚ) * 2 ^ e = 0 ↔ s = 0) := by
  have hp : (0 : ℚ) < 2 ^ e := by positivity
  refine ⟨?_, ?_, ?_⟩
  · rw [abs_mul, abs_of_pos hp]
    congr 1
    rw [← Int.cast_abs, Int.abs_eq_natAbs, Int.cast_natCast]
  · rw [mul_neg_iff]
    constructor
    · rintro (⟨-, h⟩ | ⟨h, -⟩)
      · exact absurd h (not_lt.mpr hp.le)
      · exact_mod_cast h
    · exact fun h => .inr ⟨by exact_mod_cast h, hp⟩
  · rw [mul_eq_zero]
    constructor
    · rintro (h | h)
      · exact_mod_cast h
      · exact absurd h hp.ne'
    · exact fun h => .inl (by exact_mod_cast h)

/-- A rounded exact sum. -/
theorem addFin_exactly (f : Fmt) (hmw : 1 ≤ f.mw) (r : Rm) (n : Bool) (m : Nat) (e : Int) (n' : Bool) (m' : Nat) (e' : Int) :
    exactly f r (zeroSum r n n') (num n m e + num n' m' e')
      (f.round r false (addFin r n m e n' m' e').1 (addFin r n m e n' m' e').2.1 (addFin r n m e n' m' e').2.2) := by
  have hx : num n m e + num n' m' e' = (((if n then -((m * 2 ^ (e - min e e').toNat : Nat) : Int) else (m * 2 ^ (e - min e e').toNat : Nat))
      + (if n' then -((m' * 2 ^ (e' - min e e').toNat : Nat) : Int) else (m' * 2 ^ (e' - min e e').toNat : Nat)) : Int) : ℚ)
      * 2 ^ min e e' := by
    rw [num_finer n m (min_le_left e e'), num_finer n' m' (min_le_right e e'), Int.cast_add, add_mul]
  unfold addFin
  dsimp only
  generalize (if n then -((m * 2 ^ (e - min e e').toNat : Nat) : Int) else (m * 2 ^ (e - min e e').toNat : Nat))
      + (if n' then -((m' * 2 ^ (e' - min e e').toNat : Nat) : Int) else (m' * 2 ^ (e' - min e e').toNat : Nat)) = s at hx ⊢
  obtain ⟨habs, hneg, hzero⟩ := signed_multiple s (min e e')
  rw [hx]
  by_cases hs : s = 0
  · rw [if_pos hs]
    refine exactly_of f hmw ?_ (fun h => absurd (hzero.mpr hs) h) fun _ => ?_
    · rw [hs]
      simp
    · unfold zeroSum
      cases n <;> cases n' <;> rfl
  · rw [if_neg hs]
    exact exactly_of f hmw habs (fun _ => decide_eq_decide.mpr hneg.symm) fun h => absurd (hzero.mp h) hs

end Sys2Proof.Rounding

/-! PROOFS. Sums, products and fused sums of a format; conversions to it (12 R272, R278, R279, 15 R348 to R350). -/

namespace Sys2Proof.Rounding

open Sys2Proof Sys2Proof.Machine Sys2Proof.Claims

/-! ### Sums, products and fused sums -/

theorem add_sums (f : Fmt) (hmw : 1 ≤ f.mw) (r : Rm) : sums f r := by
  refine ⟨fun n m e n' m' e' => addFin_exactly f hmw r n m e n' m' e', fun n n' => ?_, fun n n' m e => ⟨rfl, rfl⟩, ?_⟩
  · cases n <;> cases n' <;> rfl
  · intro a b h
    cases a <;> cases b <;> simp_all [FVal.isNan, FVal.isSnan, Fmt.add, Fmt.nanResult, nanOf]

theorem mul_products (f : Fmt) (hmw : 1 ≤ f.mw) (r : Rm) : products f r := by
  refine ⟨fun n m e n' m' e' => ?_, fun n n' => rfl, fun n n' m e => ?_, ?_⟩
  · rw [num_mul, abs_num]
    exact round_exact f hmw r false (n != n') (m * m') (e + e')
  · have hn : (n' != n) = (n != n') := by cases n <;> cases n' <;> rfl
    cases m with
    | zero => exact ⟨rfl, rfl⟩
    | succ m =>
      refine ⟨rfl, ?_⟩
      change ({ bits := f.withSign (n' != n) f.infCode } : FR) = _
      rw [hn]
      rfl
  · intro a b h
    cases a <;> cases b <;> simp_all [FVal.isNan, FVal.isSnan, Fmt.mul, Fmt.nanResult, nanOf]

/-- The fused sum where neither factor nor addend is a NaN and no infinity meets a zero. -/
theorem fma_inf_left (f : Fmt) (r : Rm) (n n' : Bool) (m : Nat) (e : Int) (c : FVal) (hm : m ≠ 0) :
    f.fma r (.inf n) (.fin n' m e) c = f.fma r (.inf n) (.inf n') c := by
  obtain ⟨k, rfl⟩ : ∃ k, m = k + 1 := ⟨m - 1, by omega⟩
  cases c <;> rfl

theorem fma_inf_right (f : Fmt) (r : Rm) (n n' : Bool) (m : Nat) (e : Int) (c : FVal) (hm : m ≠ 0) :
    f.fma r (.fin n' m e) (.inf n) c = f.fma r (.inf n) (.inf n') c := by
  obtain ⟨k, rfl⟩ : ∃ k, m = k + 1 := ⟨m - 1, by omega⟩
  cases n <;> cases n' <;> cases c <;> rfl

theorem fma_fin (f : Fmt) (r : Rm) (n n' : Bool) (m m' : Nat) (e e' : Int) (k : Bool) (a : Nat) (b : Int) :
    f.fma r (.fin n m e) (.fin n' m' e') (.fin k a b) =
      f.round r false (addFin r (n != n') (m * m') (e + e') k a b).1 (addFin r (n != n') (m * m') (e + e') k a b).2.1
        (addFin r (n != n') (m * m') (e + e') k a b).2.2 := by
  cases m <;> rfl

theorem fma_nan_left (f : Fmt) (r : Rm) (s : Bool) (b c : FVal) :
    f.fma r (.nan s) b c = nanOf f (s || b.isSnan || c.isSnan) := by
  cases b <;> rfl

theorem fma_nan_right (f : Fmt) (r : Rm) (s : Bool) (a c : FVal) :
    f.fma r a (.nan s) c = nanOf f (a.isSnan || s || c.isSnan) := by
  rcases a with q | n | ⟨n, _ | m, e⟩ <;> rfl

/-- The addend is a NaN, and no infinity meets a zero. -/
theorem fma_nan_addend (f : Fmt) (r : Rm) (s : Bool) (a b : FVal)
    (hz : ¬ ∃ n n' e, (a = .inf n ∧ b = .fin n' 0 e) ∨ (a = .fin n' 0 e ∧ b = .inf n)) :
    f.fma r a b (.nan s) = nanOf f (a.isSnan || b.isSnan || s) := by
  rcases a with q | n | ⟨n, _ | m, e⟩ <;> rcases b with q' | n' | ⟨n', _ | m', e'⟩
  case inf.fin.zero => exact absurd ⟨n, n', e', .inl ⟨rfl, rfl⟩⟩ hz
  case fin.zero.inf => exact absurd ⟨n', n, e, .inr ⟨rfl, rfl⟩⟩ hz
  all_goals simp [Fmt.fma, FVal.isNan, FVal.isSnan, Fmt.nanResult, nanOf]

theorem fma_fused (f : Fmt) (hmw : 1 ≤ f.mw) (r : Rm) : fused f r := by
  refine ⟨fun n m e n' m' e' k a b => ?_, fun n n' e c => ⟨rfl, rfl⟩, fun n n' m e k a b hm => ?_, fun n m e n' m' e' k => ?_, ?_⟩
  · rw [num_mul, fma_fin]
    exact addFin_exactly f hmw r (n != n') (m * m') (e + e') k a b
  · dsimp only
    rw [fma_inf_left f r n n' m e _ hm, fma_inf_left f r n n' m e _ hm, fma_inf_right f r n n' m e _ hm,
      fma_inf_right f r n n' m e _ hm]
    refine ⟨⟨rfl, rfl, rfl⟩, ?_⟩
    cases n <;> cases n' <;> cases k <;> exact ⟨rfl, rfl, rfl⟩
  · cases m <;> rfl
  · intro a b c h hz
    cases a with
    | nan s => exact fma_nan_left f r s b c
    | _ =>
      cases b with
      | nan s => exact fma_nan_right f r s _ c
      | _ =>
        cases c with
        | nan s => exact fma_nan_addend f r s _ _ hz
        | _ => simp [FVal.isNan] at h

/-! ### Conversions -/

theorem ofVal_conversions (f : Fmt) (hmw : 1 ≤ f.mw) (r : Rm) (sat : Bool) : conversions f r sat := by
  refine ⟨fun n m e => ?_, fun n => ?_, fun q => rfl, fun x => ?_⟩
  · rw [abs_num]
    exact round_exact f hmw r sat n m e
  · unfold Fmt.ofVal
    cases ht : f.top <;> cases sat <;> simp
  · have h := round_exact f hmw r sat (decide (x < 0)) x.natAbs 0
    have hx : ((x.natAbs : Nat) : ℚ) * 2 ^ (0 : Int) = |(x : ℚ)| := by
      rw [zpow_zero, mul_one, ← Int.cast_abs, Int.abs_eq_natAbs, Int.cast_natCast]
    rwa [hx] at h

/-- The part of a magnitude before the point. -/
theorem truncFin_spec (m : Nat) (e : Int) : ((truncFin m e).1 : ℚ) ≤ m * 2 ^ e ∧ (m : ℚ) * 2 ^ e < (truncFin m e).1 + 1
    ∧ ((truncFin m e).2 = true ↔ ((truncFin m e).1 : ℚ) ≠ m * 2 ^ e) := by
  unfold truncFin
  split
  · next h =>
    have he : (2 : ℚ) ^ e = ((2 ^ e.toNat : Nat) : ℚ) := by
      conv_lhs => rw [show e = (e.toNat : Int) from by omega, zpow_natCast]
      push_cast
      rfl
    rw [he]
    push_cast
    refine ⟨le_rfl, by linarith, by simp⟩
  · next h =>
    obtain ⟨n, rfl⟩ : ∃ n : Nat, e = -(n : Int) := ⟨(-e).toNat, by omega⟩
    have hn : (- -(n : Int)).toNat = n := by omega
    have hp : (0 : ℚ) < 2 ^ n := by positivity
    rw [hn, zpow_neg, zpow_natCast, ← div_eq_mul_inv]
    have hdm := Nat.div_add_mod m (2 ^ n)
    have hlt := Nat.mod_lt m (Nat.two_pow_pos n)
    have hq : (m : ℚ) = 2 ^ n * (m / 2 ^ n : Nat) + (m % 2 ^ n : Nat) := by exact_mod_cast hdm.symm
    have hltq : ((m % 2 ^ n : Nat) : ℚ) < 2 ^ n := by exact_mod_cast hlt
    have h0 : (0 : ℚ) ≤ ((m % 2 ^ n : Nat) : ℚ) := by positivity
    refine ⟨?_, ?_, ?_⟩
    · rw [le_div_iff₀ hp]
      linarith
    · rw [div_lt_iff₀ hp]
      linarith
    · rw [bne_iff_ne, not_iff_not, eq_div_iff hp.ne']
      constructor
      · intro hz
        rw [hz] at hq
        push_cast at hq
        linarith
      · intro hz
        have : ((m % 2 ^ n : Nat) : ℚ) = 0 := by linarith
        exact_mod_cast this

theorem toIntSat_integers (lo hi : Int) : integers lo hi := by
  refine ⟨fun n m e => ?_, fun n => rfl, fun q => rfl⟩
  obtain ⟨h1, h2, h3⟩ := truncFin_spec m e
  have hx := num_eq n m e
  have habs := abs_num n m e
  generalize ht : truncFin m e = y at h1 h2 h3
  obtain ⟨k, nx⟩ := y
  dsimp only at h1 h2 h3 ⊢
  have hk : (0 : ℚ) ≤ k := by positivity
  refine ⟨if n then -(k : Int) else k, ?_, ?_, ?_, ?_⟩
  · rw [habs]
    cases n <;> simpa using h1
  · rw [habs]
    cases n <;> simpa using h2
  · have hm : (0 : ℚ) ≤ m * 2 ^ e := multiple_nonneg m e
    rw [hx]
    cases n <;> simp <;> positivity
  · have hne : (((if n then -(k : Int) else k : Int) : ℚ) ≠ num n m e) ↔ ((k : ℚ) ≠ m * 2 ^ e) := by
      rw [hx]
      cases n <;> simp
    have hnx : nx = decide (((if n then -(k : Int) else k : Int) : ℚ) ≠ num n m e) := by
      rw [Bool.eq_iff_iff, decide_eq_true_eq, hne, h3]
    rw [← hnx]
    unfold toIntSat
    dsimp only
    rw [ht]
    dsimp only
    unfold clampInt
    generalize (if n then -(k : Int) else (k : Int)) = v
    by_cases hl : v < lo
    · simp [hl]
    · by_cases hg : hi < v
      · simp [hl, hg]
      · simp [hl, hg]

end Sys2Proof.Rounding

/-! PROOFS. Codes and their values; quotients, square roots and integral values (12 R266, R272, 15 R348, R349). -/

namespace Sys2Proof.Rounding

open Sys2Proof Sys2Proof.Machine Sys2Proof.Claims

/-! ### Decoding -/

theorem signBit_pos (f : Fmt) : 0 < f.signBit := Nat.two_pow_pos _

/-- The value of a magnitude code that is finite. -/
theorem mag_of_code (f : Fmt) (c : Nat) :
    (if c / 2 ^ f.mw = 0 then (c : ℚ) * 2 ^ f.qmin
      else ((c % 2 ^ f.mw + 2 ^ f.mw : Nat) : ℚ) * 2 ^ (f.qmin + (c / 2 ^ f.mw : Nat) - 1)) = mag f c := by
  unfold mag
  rw [Nat.add_comm (c % 2 ^ f.mw)]

/-- What a finite code decodes to. -/
theorem dec_fin (f : Fmt) {x : Nat} {n : Bool} {m : Nat} {e : Int} (h : f.dec x = .fin n m e) :
    n = (x / f.signBit % 2 == 1) ∧ x % f.signBit ≤ f.maxFinite ∧ (m : ℚ) * 2 ^ e = mag f (x % f.signBit)
      ∧ m < 2 ^ (f.mw + 1) ∧ f.qmin ≤ e := by
  have h2 : 2 ^ (f.mw + 1) = 2 * 2 ^ f.mw := by ring
  have hmag := mag_of_code f (x % f.signBit)
  unfold Fmt.dec at h
  dsimp only at h
  generalize x % f.signBit = c at h hmag ⊢
  split at h
  · split at h
    · split at h <;> cases h
    · cases h
  · next hc =>
    split at h
    · next h0 =>
      injection h with hn hm he
      subst hn hm he
      rw [if_pos h0] at hmag
      have hlt : c < 2 ^ f.mw := (Nat.div_eq_zero_iff.mp h0).resolve_left (Nat.two_pow_pos _).ne'
      exact ⟨rfl, by omega, hmag, by omega, le_rfl⟩
    · next h0 =>
      injection h with hn hm he
      subst hn hm he
      rw [if_neg h0] at hmag
      have hlt := Nat.mod_lt c (Nat.two_pow_pos f.mw)
      have hpos : 0 < c / 2 ^ f.mw := Nat.pos_of_ne_zero h0
      refine ⟨rfl, by omega, hmag, by omega, ?_⟩
      generalize c / 2 ^ f.mw = k at hpos
      omega

/-- A finite code of a sign decodes to a number of that sign. -/
theorem dec_withSign (f : Fmt) (neg : Bool) (c : Nat) (hc : c ≤ f.maxFinite) (hf : f.maxFinite < f.signBit) :
    ∃ m e, f.dec (f.withSign neg c) = .fin neg m e ∧ |num neg m e| = mag f c := by
  have hmod : f.withSign neg c % f.signBit = c := by
    cases neg
    · exact Nat.mod_eq_of_lt (show c < f.signBit by omega)
    · change (f.signBit + c) % f.signBit = c
      rw [Nat.add_mod_left, Nat.mod_eq_of_lt (by omega)]
  have hneg : (f.withSign neg c / f.signBit % 2 == 1) = neg := by
    cases neg
    · change (c / f.signBit % 2 == 1) = false
      rw [Nat.div_eq_of_lt (by omega)]
      rfl
    · change ((f.signBit + c) / f.signBit % 2 == 1) = true
      rw [Nat.add_div_left _ (signBit_pos f), Nat.div_eq_of_lt (by omega)]
      rfl
  have hmag := mag_of_code f c
  unfold Fmt.dec
  dsimp only
  rw [hmod, hneg, if_neg (by omega)]
  by_cases h0 : c / 2 ^ f.mw = 0
  · rw [if_pos h0] at hmag
    refine ⟨_, _, if_pos h0, ?_⟩
    rw [abs_num]
    exact hmag
  · rw [if_neg h0] at hmag
    refine ⟨_, _, if_neg h0, ?_⟩
    rw [abs_num]
    exact hmag

/-- The code of a format that a finite number was read from. -/
theorem code_of_dec (f : Fmt) {x : Nat} {n : Bool} {m : Nat} {e : Int} (h : f.dec x = .fin n m e) (hx : x < 2 ^ f.width) :
    f.withSign n (x % f.signBit) = x := by
  obtain ⟨hn, -⟩ := dec_fin f h
  have hw : 2 ^ f.width = 2 * f.signBit := by
    unfold Fmt.width Fmt.signBit
    rw [← pow_succ']
    congr 1
    ring
  have hdm := Nat.div_add_mod x f.signBit
  have hlt : x / f.signBit < 2 := Nat.div_lt_of_lt_mul (by omega)
  unfold Fmt.withSign
  rw [hn]
  rcases Nat.lt_or_ge (x / f.signBit) 1 with h1 | h1
  · have h0 : x / f.signBit = 0 := Nat.lt_one_iff.mp h1
    rw [h0] at hdm
    simp [h0]
    omega
  · have h0 : x / f.signBit = 1 := by omega
    rw [h0] at hdm
    simp [h0]
    omega

/-! ### Quotients -/

/-- A quotient with remainder stands for the exact quotient. -/
theorem holds_quotient (N d : Nat) (hd : d ≠ 0) (e : Int) :
    Holds id ((N : ℚ) / d * 2 ^ e) (N / d) e (N % d != 0) := by
  have hdp : (0 : ℚ) < d := by exact_mod_cast Nat.pos_of_ne_zero hd
  have hp : (0 : ℚ) < 2 ^ e := by positivity
  have hq : (N : ℚ) = d * (N / d : Nat) + (N % d : Nat) := by exact_mod_cast (Nat.div_add_mod N d).symm
  have hlt : ((N % d : Nat) : ℚ) < d := by exact_mod_cast Nat.mod_lt N (Nat.pos_of_ne_zero hd)
  have h0 : (0 : ℚ) ≤ ((N % d : Nat) : ℚ) := by positivity
  refine ⟨increasing_id, ?_, ?_, ?_⟩
  · refine mul_le_mul_of_nonneg_right ?_ hp.le
    rw [le_div_iff₀ hdp]
    linarith
  · refine mul_lt_mul_of_pos_right ?_ hp
    rw [div_lt_iff₀ hdp]
    push_cast
    linarith
  · rw [bne_eq_false_iff_eq]
    simp only [id]
    rw [mul_left_inj' hp.ne', div_eq_iff hdp.ne']
    constructor
    · intro h
      have : ((N % d : Nat) : ℚ) = 0 := by linarith
      exact_mod_cast this
    · intro h
      rw [h] at hq
      push_cast at hq
      linarith

theorem div_rounded (f : Fmt) (hmw : 1 ≤ f.mw) (r : Rm) {n n' : Bool} {m m' : Nat} {e e' : Int} (hm' : m' ≠ 0)
    (hlt : m' < 2 ^ (f.mw + 1)) :
    rounded f r false (n != n') id |num n m e / num n' m' e'| (f.div r (.fin n m e) (.fin n' m' e')) := by
  have hp : ∀ k : Int, (0 : ℚ) < 2 ^ k := fun k => by positivity
  have hx : |num n m e / num n' m' e'| = ((m * 2 ^ (2 * f.mw + 8) : Nat) : ℚ) / m' * 2 ^ (e - e' - ((2 * f.mw + 8 : Nat) : Int)) := by
    rw [abs_div, abs_num, abs_num, zpow_sub₀ (by norm_num), zpow_sub₀ (by norm_num), zpow_natCast]
    have : (m' : ℚ) ≠ 0 := by exact_mod_cast hm'
    have := (hp e').ne'
    push_cast
    field_simp
  have he : f.div r (.fin n m e) (.fin n' m' e') = f.round r false (n != n') (m * 2 ^ (2 * f.mw + 8) / m')
      (e - e' - ((2 * f.mw + 8 : Nat) : Int)) (m * 2 ^ (2 * f.mw + 8) % m' != 0) := by
    unfold Fmt.div
    dsimp only [FVal.neg?]
    rw [if_neg hm']
  rw [he, hx]
  rcases Nat.eq_zero_or_pos m with rfl | hpos
  · rw [Nat.zero_mul, Nat.zero_div, round_zero]
    simpa using rounded_zero f increasing_id rfl r false (n != n')
  · have hbig : 2 ^ (f.mw + 1) ≤ m * 2 ^ (2 * f.mw + 8) / m' := by
      rw [Nat.le_div_iff_mul_le (Nat.pos_of_ne_zero hm')]
      calc 2 ^ (f.mw + 1) * m' ≤ 2 ^ (f.mw + 1) * 2 ^ (f.mw + 1) := Nat.mul_le_mul_left _ hlt.le
        _ = 2 ^ (2 * f.mw + 2) := by rw [← pow_add]; congr 1; ring
        _ ≤ 2 ^ (2 * f.mw + 8) := Nat.pow_le_pow_right (by norm_num) (by omega)
        _ ≤ m * 2 ^ (2 * f.mw + 8) := Nat.le_mul_of_pos_left _ hpos
    have hne : m * 2 ^ (2 * f.mw + 8) / m' ≠ 0 := by
      have := Nat.two_pow_pos (f.mw + 1)
      omega
    refine round_rounded f hmw (holds_quotient _ m' hm' _) hne (fun _ => ?_) r false _
    have := (Nat.le_log2 hne).mpr hbig
    omega

/-! ### Square roots -/

/-- Bit by bit the floor of the root is found between bounds. -/
theorem isqrtBits_spec (k n acc : Nat) (hlo : acc * acc ≤ n) (hhi : n < (acc + 2 ^ k) * (acc + 2 ^ k)) :
    isqrtBits k n acc * isqrtBits k n acc ≤ n ∧ n < (isqrtBits k n acc + 1) * (isqrtBits k n acc + 1) := by
  induction k generalizing acc with
  | zero => exact ⟨hlo, hhi⟩
  | succ k ih =>
    change isqrtBits k n (if (acc + 2 ^ k) * (acc + 2 ^ k) ≤ n then acc + 2 ^ k else acc)
        * isqrtBits k n (if (acc + 2 ^ k) * (acc + 2 ^ k) ≤ n then acc + 2 ^ k else acc) ≤ n
      ∧ n < (isqrtBits k n (if (acc + 2 ^ k) * (acc + 2 ^ k) ≤ n then acc + 2 ^ k else acc) + 1)
        * (isqrtBits k n (if (acc + 2 ^ k) * (acc + 2 ^ k) ≤ n then acc + 2 ^ k else acc) + 1)
    by_cases h : (acc + 2 ^ k) * (acc + 2 ^ k) ≤ n
    · rw [if_pos h]
      refine ih _ h ?_
      have : acc + 2 ^ k + 2 ^ k = acc + 2 ^ (k + 1) := by ring
      rwa [this]
    · rw [if_neg h]
      exact ih _ hlo (by omega)

theorem isqrt_spec (n : Nat) : isqrt n * isqrt n ≤ n ∧ n < (isqrt n + 1) * (isqrt n + 1) := by
  refine isqrtBits_spec _ n 0 (by omega) ?_
  have h1 : n < 2 ^ (Nat.log2 n + 1) := Nat.lt_log2_self
  have h2 : 2 ^ (Nat.log2 n + 1) ≤ 2 ^ (2 * (Nat.log2 n / 2 + 1)) := Nat.pow_le_pow_right (by norm_num) (by omega)
  have h3 : (0 + 2 ^ (Nat.log2 n / 2 + 1)) * (0 + 2 ^ (Nat.log2 n / 2 + 1)) = 2 ^ (2 * (Nat.log2 n / 2 + 1)) := by
    rw [Nat.zero_add, ← pow_add]
    congr 1
    ring
  omega

/-- The floor of a root stands for the root, whose square is the number. -/
theorem holds_root (X : Nat) (e : Int) :
    Holds (fun v => v * v) ((X : ℚ) * 2 ^ (2 * e)) (isqrt X) e (isqrt X * isqrt X != X) := by
  obtain ⟨hlo, hhi⟩ := isqrt_spec X
  have hp : (0 : ℚ) < 2 ^ (2 * e) := by positivity
  have h2 : ∀ a : ℚ, a * 2 ^ e * (a * 2 ^ e) = a * a * 2 ^ (2 * e) := fun a => by
    rw [show (2 : Int) * e = e + e from by ring, zpow_add₀ (by norm_num)]
    ring
  have hlo' : ((isqrt X : Nat) : ℚ) * isqrt X ≤ X := by exact_mod_cast hlo
  have hhi' : (X : ℚ) < ((isqrt X + 1 : Nat) : ℚ) * ((isqrt X + 1 : Nat) : ℚ) := by exact_mod_cast hhi
  refine ⟨increasing_square, ?_, ?_, ?_⟩
  · rw [h2]
    exact mul_le_mul_of_nonneg_right hlo' hp.le
  · rw [h2]
    exact mul_lt_mul_of_pos_right hhi' hp
  · rw [h2, mul_left_inj' hp.ne', bne_eq_false_iff_eq]
    constructor
    · intro h
      exact_mod_cast h.symm
    · intro h
      exact_mod_cast h.symm

theorem sqrt_rounded (f : Fmt) (hmw : 1 ≤ f.mw) (r : Rm) {m : Nat} {e : Int} (hm : m ≠ 0) :
    rounded f r false false (fun v => v * v) (num false m e) (f.sqrt r (.fin false m e)) := by
  obtain ⟨sh, hsh, e', he', heq⟩ : ∃ sh : Nat, 2 * f.mw + 8 ≤ sh ∧ ∃ e' : Int, e = 2 * e' + sh
      ∧ f.sqrt r (.fin false m e) = f.round r false false (isqrt (m * 2 ^ sh)) e'
        (isqrt (m * 2 ^ sh) * isqrt (m * 2 ^ sh) != m * 2 ^ sh) := by
    by_cases hev : (e - ((2 * f.mw + 8 : Nat) : Int)) % 2 = 0
    · refine ⟨2 * f.mw + 8, le_rfl, (e - ((2 * f.mw + 8 : Nat) : Int)) / 2, by omega, ?_⟩
      unfold Fmt.sqrt
      dsimp only
      rw [if_neg hm, if_neg (by decide), if_pos hev]
    · refine ⟨2 * f.mw + 9, by omega, (e - ((2 * f.mw + 9 : Nat) : Int)) / 2, by omega, ?_⟩
      unfold Fmt.sqrt
      dsimp only
      rw [if_neg hm, if_neg (by decide), if_neg hev]
  have hx : num false m e = ((m * 2 ^ sh : Nat) : ℚ) * 2 ^ (2 * e') := by
    unfold num
    rw [if_neg (by decide), he', zpow_add₀ (by norm_num), zpow_natCast]
    push_cast
    ring
  rw [heq, hx]
  have hX : 2 ^ (2 * f.mw + 8) ≤ m * 2 ^ sh :=
    (Nat.pow_le_pow_right (by norm_num) hsh).trans (Nat.le_mul_of_pos_left _ (Nat.pos_of_ne_zero hm))
  have hbig : 2 ^ (f.mw + 4) ≤ isqrt (m * 2 ^ sh) := by
    by_contra h
    have h1 := (isqrt_spec (m * 2 ^ sh)).2
    have h2 : (isqrt (m * 2 ^ sh) + 1) * (isqrt (m * 2 ^ sh) + 1) ≤ 2 ^ (f.mw + 4) * 2 ^ (f.mw + 4) :=
      Nat.mul_le_mul (by omega) (by omega)
    have h3 : 2 ^ (f.mw + 4) * 2 ^ (f.mw + 4) = 2 ^ (2 * f.mw + 8) := by rw [← pow_add]; congr 1; ring
    omega
  have hne : isqrt (m * 2 ^ sh) ≠ 0 := by
    have := Nat.two_pow_pos (f.mw + 4)
    omega
  refine round_rounded f hmw (holds_root _ e') hne (fun _ => ?_) r false false
  have := (Nat.le_log2 hne).mpr hbig
  omega

theorem div_quotients (f : Fmt) (hmw : 1 ≤ f.mw) (r : Rm) : quotients f r := by
  refine ⟨fun x y n m e n' m' e' hx hy => ?_, fun n n' m e => ⟨rfl, rfl, rfl⟩, fun a b h => ?_, fun x m e hx hm => ?_, fun n e => rfl,
    fun m e hm => ?_, rfl, rfl, fun q => rfl⟩
  · rw [hx, hy]
    refine ⟨fun hm' => div_rounded f hmw r hm' (dec_fin f hy).2.2.2.1, fun hm' hm => ?_, fun hm' hm => ?_⟩
    · unfold Fmt.div
      dsimp only [FVal.neg?]
      rw [if_pos hm', if_neg hm]
      rfl
    · unfold Fmt.div
      dsimp only
      rw [if_pos hm', if_pos hm]
      rfl
  · cases a <;> cases b <;> simp_all [FVal.isNan, FVal.isSnan, Fmt.div, Fmt.nanResult, nanOf]
  · rw [hx]
    exact sqrt_rounded f hmw r hm
  · unfold Fmt.sqrt
    dsimp only
    rw [if_neg hm]
    rfl

end Sys2Proof.Rounding

/-! PROOFS. Integral values, and floating point of the spine (15 R348 to R350). -/

namespace Sys2Proof.Rounding

open Sys2Proof Sys2Proof.Machine Sys2Proof.Claims

/-! ### Integral values -/

/-- A number that is a finite code is rounded to it without exceptions. -/
theorem rounded_code {f : Fmt} {r : Rm} {sat neg : Bool} {up : ℚ → ℚ} {x : ℚ} {y : FR} {c : Nat} (hu : Increasing up)
    (h : rounded f r sat neg up x y) (hx : x = up (mag f c)) (hc : c ≤ f.maxFinite) : y = { bits := f.withSign neg c } := by
  obtain ⟨hnv, hdz, c', hn, hle, -⟩ := h
  obtain rfl := nearest_unique hu (mag_nonneg f) (mag_strictMono f) hn (nearest_exact hu (mag_nonneg f) (mag_strictMono f) hx)
  obtain ⟨hbits, hof, hnx, huf⟩ := hle hc
  have hnx' : y.nx = false := Bool.eq_false_iff.mpr fun h => (hnx.mp h) hx.symm
  have huf' : y.uf = false := Bool.eq_false_iff.mpr fun h => (huf.mp h).1 hx.symm
  cases y
  simp_all

/-- An integer of at most the significand's bits is a magnitude of the format. -/
theorem mag_of_int (f : Fmt) (hq : f.qmin ≤ 0) (k : Nat) (hk : k ≤ 2 ^ f.mw) : ∃ c, mag f c = k := by
  by_cases h0 : k = 0
  · exact ⟨0, by rw [mag_zero, h0, Nat.cast_zero]⟩
  have hlog : Nat.log2 k ≤ f.mw := by
    by_contra h
    have h1 : 2 ^ (f.mw + 1) ≤ k := (Nat.le_log2 h0).mp (by omega)
    have h2 : 2 ^ (f.mw + 1) = 2 * 2 ^ f.mw := by ring
    have := Nat.two_pow_pos f.mw
    omega
  obtain ⟨d, hd⟩ : ∃ d : Nat, max ((Nat.log2 k : Int) - f.mw) f.qmin = f.qmin + d :=
    ⟨(max ((Nat.log2 k : Int) - f.mw) f.qmin - f.qmin).toNat, by omega⟩
  have hfine := multiple_fine (m := k) (q := f.qmin + d) (e := 0) (by omega)
  rw [zpow_zero, mul_one] at hfine
  refine ⟨d * 2 ^ f.mw + k * 2 ^ (0 - (f.qmin + d)).toNat, ?_⟩
  rw [mag_code f d _ ?_ ?_, hfine]
  · calc k * 2 ^ (0 - (f.qmin + d)).toNat ≤ 2 ^ (Nat.log2 k + 1) * 2 ^ (0 - (f.qmin + d)).toNat :=
          Nat.mul_le_mul_right _ Nat.lt_log2_self.le
      _ = 2 ^ (Nat.log2 k + 1 + (0 - (f.qmin + d)).toNat) := by rw [← pow_add]
      _ ≤ 2 ^ (f.mw + 1) := Nat.pow_le_pow_right (by norm_num) (by omega)
  · by_cases hd0 : d = 0
    · exact .inl hd0
    · refine .inr ?_
      calc 2 ^ f.mw ≤ 2 ^ (Nat.log2 k + (0 - (f.qmin + d)).toNat) := Nat.pow_le_pow_right (by norm_num) (by omega)
        _ = 2 ^ Nat.log2 k * 2 ^ (0 - (f.qmin + d)).toNat := by rw [← pow_add]
        _ ≤ k * 2 ^ (0 - (f.qmin + d)).toNat := Nat.mul_le_mul_right _ (Nat.log2_self_le h0)

/-- An integer of at most the significand's bits is a code of its own. -/
theorem round_small (f : Fmt) (hmw : 1 ≤ f.mw) (hq : f.qmin ≤ 0) (hbig : (2 : ℚ) ^ f.mw ≤ mag f f.maxFinite) (n : Bool) (k : Nat)
    (hk : k ≤ 2 ^ f.mw) :
    ∃ c, mag f c = k ∧ f.round .rne false n k 0 = { bits := f.withSign n c } := by
  obtain ⟨c, hc⟩ := mag_of_int f hq k hk
  refine ⟨c, hc, rounded_code increasing_id (round_exact f hmw .rne false n k 0) (by simp [hc]) ?_⟩
  refine (mag_strictMono f).le_iff_le.mp ?_
  rw [hc]
  refine le_trans ?_ hbig
  exact_mod_cast hk

theorem multiple_of_nonneg (m : Nat) {e : Int} (he : 0 ≤ e) : ((m * 2 ^ e.toNat : Nat) : ℚ) = m * 2 ^ e := by
  have h := multiple_fine (m := m) he
  simpa [multiples] using h

theorem toIntegral_integrals (f : Fmt) (hmw : 1 ≤ f.mw) (hq : f.qmin ≤ 0) (hbig : (2 : ℚ) ^ f.mw ≤ mag f f.maxFinite) (r : Rm) :
    integrals f r := by
  intro x hx
  refine ⟨fun n m e hd => ?_, fun n hd => ?_, fun q hd => ?_⟩
  · obtain ⟨-, hc, hmag, hm, -⟩ := dec_fin f hd
    rw [abs_num]
    unfold Fmt.toIntegral
    rw [hd]
    dsimp only
    by_cases he : e ≥ 0
    · rw [if_pos he]
      have hint := multiple_of_nonneg m he
      refine ⟨m * 2 ^ e.toNat, x % f.signBit, ?_, ?_, ?_⟩
      · exact nearest_exact increasing_id (fun k => by positivity) (fun _ _ h => by exact_mod_cast h) hint.symm
      · rw [hint, hmag]
      · rw [code_of_dec f hd hx, hint]
        simp
    · rw [if_neg he]
      have hn := roundAt_nearest (holds_exact m e) r n (q := 0) (by simp)
      have hi := roundAt_inexact (holds_exact m e) r n (q := 0) (by simp)
      have hv : multiples 0 = fun k : Nat => (k : ℚ) := by
        funext k
        simp [multiples]
      rw [hv] at hn hi
      generalize roundAt r n m e 0 false = y at hn hi ⊢
      obtain ⟨k, nx⟩ := y
      dsimp only at hn hi ⊢
      have hk : k ≤ 2 ^ f.mw := by
        refine nearest_le_of increasing_id (v := fun k : Nat => (k : ℚ)) (fun k => by positivity) (Nat.strictMono_cast) hn ?_
        have h1 : (2 : ℚ) ^ e ≤ 2 ^ (-1 : Int) := two_zpow_le (by omega)
        have h2 : (m : ℚ) ≤ 2 * 2 ^ f.mw := by
          have : m ≤ 2 * 2 ^ f.mw := by
            rw [pow_succ] at hm
            omega
          exact_mod_cast this
        have h3 : (m : ℚ) * 2 ^ e ≤ 2 * 2 ^ f.mw * 2 ^ (-1 : Int) := mul_le_mul h2 h1 (by positivity) (by positivity)
        have h4 : (2 : ℚ) * 2 ^ f.mw * 2 ^ (-1 : Int) = 2 ^ f.mw := by
          rw [zpow_neg_one]
          ring
        simp only [id]
        push_cast
        linarith
      obtain ⟨c, hc1, hc2⟩ := round_small f hmw hq hbig n k hk
      refine ⟨k, c, hn, hc1, ?_⟩
      rw [hc2]
      congr 1
      rw [Bool.eq_iff_iff, decide_eq_true_eq, hi]
      rfl
  · unfold Fmt.toIntegral
    rw [hd]
    rfl
  · unfold Fmt.toIntegral
    rw [hd]
    rfl

end Sys2Proof.Rounding

/-! PROOFS. Floating-point instructions of the spine (15 R348, R350). -/

namespace Sys2Proof.Rounding

open Sys2Proof Sys2Proof.Machine Sys2Proof.Claims Sys2Proof.SpineInstructions Sys2Proof.SpineMemory Sys2Proof.SpineIntegers
open Sys2Proof.SpineEngine (spOut_eq)

section
variable {s : State} {t : Nat} {sp : Spine}

/-- A two-operand operation retires its result. -/
theorem spineF_eq (h : curSpine s = some (t, sp)) (p : Bool) (b a d : BitVec 6) (op : Fmt → Rm → Nat → Nat → FR) :
    spineF p b a d s op = .next (floatWrote s t sp d (fmt p)
      (op (fmt p) (rm sp) (input sp (fmt p) a) (input sp (fmt p) b))) :=
  (spineEnter_next h _).trans (congrArg Host.Outcome.next (spOut_eq h d (fmt p) _))

/-- A fused operation retires its result. -/
theorem spineFma_eq (h : curSpine s = some (t, sp)) (p negP negC : Bool) (c b a d : BitVec 6) :
    spineFma p negP negC c b a d s = .next (floatWrote s t sp d (fmt p)
      ((fmt p).fma (rm sp) (signed negP ((fmt p).dec (input sp (fmt p) a))) (signed false ((fmt p).dec (input sp (fmt p) b)))
        (signed negC ((fmt p).dec (input sp (fmt p) c))))) :=
  (spineEnter_next h _).trans (congrArg Host.Outcome.next (spOut_eq h d (fmt p) _))

/-- A comparison retires its bit and sets `NV`. -/
theorem spineFcmp_eq (h : curSpine s = some (t, sp)) (p : Bool) (b a d : BitVec 6) (orders : Bool) (test : Option Ordering → Bool) :
    spineFcmp p b a d s orders test =
      (let x := (fmt p).dec (input sp (fmt p) a)
       let y := (fmt p).dec (input sp (fmt p) b)
       let nv := x.isSnan || y.isSnan || (orders && (x.isNan || y.isNan))
       .next (thread s t (gone (setX { sp with sfpmode := sp.sfpmode ||| (if nv then 16 else 0) } d
        (if test (cmpFVal x y) then 1 else 0)) (sp.pc + 4)))) := by
  refine (spineEnter_next h _).trans (congrArg Host.Outcome.next ?_)
  dsimp only
  rw [modSpine_eq_thread h, retire, setX_pc]
  rfl

/-- Every row of the comparisons is one `spineFcmp`. -/
theorem exec_compare (h : curSpine s = some (t, sp)) (p : Bool) : ∀ r ∈ compareTable, ∀ (b a d : BitVec 6),
    let x := (fmt p).dec (input sp (fmt p) a)
    let y := (fmt p).dec (input sp (fmt p) b)
    let nv := x.isSnan || y.isSnan || (r.2.2 && (x.isNan || y.isNan))
    exec (r.1 p b a d) s = .next (thread s t (gone (setX { sp with sfpmode := sp.sfpmode ||| (if nv then 16 else 0) } d
      (if r.2.1.any (fun o => cmpFVal x y == some o) then 1 else 0)) (sp.pc + 4))) := by
  simp only [compareTable, List.forall_mem_cons, List.any_cons, List.any_nil, Bool.or_false]
  exact ⟨fun b a d => spineFcmp_eq h p b a d false fun o => o == some .eq, fun b a d => spineFcmp_eq h p b a d true fun o => o == some .lt,
    fun b a d => spineFcmp_eq h p b a d true fun o => o == some .lt || o == some .eq, nofun⟩

/-- The floating-point instructions by their tables. -/
theorem exec_float (h : curSpine s = some (t, sp)) (p : Bool) :
    (∀ r ∈ floatTable, ∀ (b a d : BitVec 6),
      exec (r.1 p b a d) s = .next (floatWrote s t sp d (fmt p) (r.2 (fmt p) (rm sp) (input sp (fmt p) a) (input sp (fmt p) b))))
    ∧ (∀ (a d : BitVec 6), exec (.spineFsqrt p a d) s = .next (floatWrote s t sp d (fmt p)
        ((fmt p).sqrt (rm sp) ((fmt p).dec (input sp (fmt p) a))))) := by
  constructor
  · simp only [floatTable, List.forall_mem_cons]
    exact ⟨fun b a d => spineF_eq h p b a d fun f rm x y => f.add rm (f.dec x) (f.dec y),
      fun b a d => spineF_eq h p b a d fun f rm x y => f.add rm (f.dec x) (f.dec y).negate,
      fun b a d => spineF_eq h p b a d fun f rm x y => f.mul rm (f.dec x) (f.dec y),
      fun b a d => spineF_eq h p b a d fun f rm x y => f.div rm (f.dec x) (f.dec y), fun b a d => spineF_eq h p b a d fun f _ x y => f.minmax false x y,
      fun b a d => spineF_eq h p b a d fun f _ x y => f.minmax true x y, nofun⟩
  · exact fun a d => spineF_eq h p a a d fun f rm x _ => f.sqrt rm (f.dec x)

theorem exec_fused (h : curSpine s = some (t, sp)) : ∀ r ∈ fmaTable, ∀ (c b a d : BitVec 6),
    let f := fmt r.2.1
    let v (n : Bool) (k : BitVec 6) := signed n (f.dec (input sp f k))
    exec (r.1 c b a d) s = .next (floatWrote s t sp d f (f.fma (rm sp) (v r.2.2.1 a) (v false b) (v r.2.2.2 c))) := by
  simp only [fmaTable, List.forall_mem_cons]
  exact ⟨fun c b a d => spineFma_eq h false false false c b a d, fun c b a d => spineFma_eq h true false false c b a d,
    fun c b a d => spineFma_eq h false false true c b a d, fun c b a d => spineFma_eq h true false true c b a d,
    fun c b a d => spineFma_eq h false true true c b a d, fun c b a d => spineFma_eq h true true true c b a d,
    fun c b a d => spineFma_eq h false true false c b a d, fun c b a d => spineFma_eq h true true false c b a d, nofun⟩

end

/-! ### Special results in binary64 -/

section
variable {sp : Spine} {x : Dword}

/-- Without flushing an input is the register itself. -/
theorem input_fB64 (hf : sp.sfpmode.getLsbD 7 = false) (a : BitVec 6) : input sp fB64 a = (getX sp a).toNat := by
  have hftz : ftz sp = false := hf
  unfold input
  rw [hftz]
  exact Nat.mod_eq_of_lt (getX sp a).isLt

theorem flushed_off (f : Fmt) (r : FR) : r.flushed f false = r := rfl

theorem floatWrote_fB64 {s : State} {t : Nat} (hf : sp.sfpmode.getLsbD 7 = false) (d : BitVec 6) (r : FR) :
    floatWrote s t sp d fB64 r =
      thread s t (gone (setX { sp with sfpmode := sp.sfpmode ||| BitVec.ofNat 32 r.flags } d (BitVec.ofNat 64 r.bits)) (sp.pc + 4)) := by
  have hftz : ftz sp = false := hf
  unfold floatWrote
  rw [hftz]
  rfl

theorem sign_fB64 (x : Dword) : (x.toNat / fB64.signBit % 2 == 1) = x.getLsbD 63 := by
  rw [BitVec.getLsbD, Nat.testBit_eq_decide_div_mod_eq]
  rfl

theorem magnitude_fB64 (x : Dword) : x.toNat % fB64.signBit = (x.extractLsb' 0 63).toNat := by
  simp [fB64, Fmt.signBit]

theorem exponent_fB64 (x : Dword) : (x.extractLsb' 52 11).toNat = x.toNat % fB64.signBit / 2 ^ 52 := by
  simp only [BitVec.extractLsb'_toNat, Nat.shiftRight_eq_div_pow, fB64, Fmt.signBit]
  omega

theorem fraction_fB64 (x : Dword) : (x.extractLsb' 0 52).toNat = x.toNat % fB64.signBit % 2 ^ 52 := by
  simp only [BitVec.extractLsb'_toNat, Nat.shiftRight_eq_div_pow, fB64, Fmt.signBit]
  omega

/-- The magnitude of a finite code is zero where its number is. -/
theorem dec_fB64_fin (hx : x.extractLsb' 52 11 ≠ 0x7FF) :
    ∃ m e, fB64.dec x.toNat = .fin (x.getLsbD 63) m e ∧ (m = 0 ↔ x.extractLsb' 0 63 = 0) := by
  have he : x.toNat % fB64.signBit / 2 ^ 52 ≠ 0x7FF := fun h => hx (BitVec.eq_of_toNat_eq ((exponent_fB64 x).trans h))
  have hm : x.extractLsb' 0 63 = 0 ↔ x.toNat % fB64.signBit = 0 := by
    rw [magnitude_fB64, BitVec.toNat_eq]
    rfl
  have hlt : x.toNat % fB64.signBit < 2 ^ 63 := Nat.mod_lt _ (by decide)
  unfold Fmt.dec
  dsimp only
  rw [sign_fB64, hm]
  generalize x.toNat % fB64.signBit = c at he hlt ⊢
  have hmax : fB64.maxFinite = 0x7FEFFFFFFFFFFFFF := by decide
  have hmw : fB64.mw = 52 := rfl
  rw [hmax, hmw, if_neg (by omega)]
  by_cases h0 : c / 2 ^ 52 = 0
  · exact ⟨_, _, if_pos h0, Iff.rfl⟩
  · exact ⟨_, _, if_neg h0, by omega⟩

theorem dec_fB64_nan (hx : x.extractLsb' 52 11 = 0x7FF) (h0 : x.extractLsb' 0 52 ≠ 0) : ∃ q, fB64.dec x.toNat = .nan q := by
  have he : x.toNat % fB64.signBit / 2 ^ 52 = 0x7FF := by rw [← exponent_fB64, hx]; rfl
  have hf : x.toNat % fB64.signBit % 2 ^ 52 ≠ 0 := fun h => h0 (BitVec.eq_of_toNat_eq ((fraction_fB64 x).trans h))
  unfold Fmt.dec
  dsimp only
  generalize x.toNat % fB64.signBit = c at he hf ⊢
  have hmax : fB64.maxFinite = 0x7FEFFFFFFFFFFFFF := by decide
  have hinf : fB64.infCode = 0x7FF0000000000000 := by decide
  rw [hmax, if_pos (by omega)]
  change ∃ q, (if c = fB64.infCode then _ else _) = _
  rw [hinf, if_neg (by omega)]
  exact ⟨_, rfl⟩

/-- The least code of the top exponent below zero is minus infinity. -/
theorem dec_fB64_inf (hx : x.extractLsb' 52 11 = 0x7FF) (hneg : x.getLsbD 63 = true) (hle : x.toNat ≤ 0xFFF0000000000000) :
    fB64.dec x.toNat = .inf true := by
  have he : x.toNat % fB64.signBit / 2 ^ 52 = 0x7FF := by rw [← exponent_fB64, hx]; rfl
  have hs := sign_fB64 x
  rw [hneg, beq_iff_eq] at hs
  have hsb : fB64.signBit = 2 ^ 63 := by decide
  have hc : x.toNat % fB64.signBit = fB64.infCode := by
    have hinf : fB64.infCode = 0x7FF0000000000000 := by decide
    rw [hsb] at he hs ⊢
    rw [hinf]
    omega
  unfold Fmt.dec
  dsimp only
  rw [hc, if_pos (by decide), show (x.toNat / fB64.signBit % 2 == 1) = true from by rw [hs]; rfl]
  rfl

end

/-- The special results of a division, a root and the comparisons in binary64. -/
theorem special_results (b a d : BitVec 6) (s : State) (t : Nat) (sp : Spine) (h : curSpine s = some (t, sp))
    (hf : sp.sfpmode.getLsbD 7 = false) :
    let x := getX sp a
    let y := getX sp b
    let done (m : Word) (v : Dword) : Outcome := .next (thread s t (gone (setX { sp with sfpmode := sp.sfpmode ||| m } d v) (sp.pc + 4)))
    (x.extractLsb' 52 11 ≠ 0x7FF → x.extractLsb' 0 63 ≠ 0 → y.extractLsb' 0 63 = 0 →
      exec (.spineFdiv false b a d) s = done 8 (if x.getLsbD 63 = y.getLsbD 63 then 0x7FF0000000000000 else 0xFFF0000000000000))
    ∧ (x.getLsbD 63 = true → x.toNat ≤ 0xFFF0000000000000 → x.extractLsb' 0 63 ≠ 0 →
      exec (.spineFsqrt false a d) s = done 16 0x7FF8000000000000)
    ∧ (x = 0x8000000000000000 → exec (.spineFsqrt false a d) s = done 0 0x8000000000000000)
    ∧ (x.extractLsb' 52 11 = 0x7FF → x.extractLsb' 0 52 ≠ 0 →
      (∀ r ∈ compareTable, ∃ m, exec (r.1 false b a d) s = done m 0)
      ∧ exec (.spineFlt false b a d) s = done 16 0 ∧ exec (.spineFle false b a d) s = done 16 0) := by
  intro x y done
  have hdiv : exec (.spineFdiv false b a d) s =
      (let r := fB64.div (rm sp) (fB64.dec x.toNat) (fB64.dec y.toNat)
       done (BitVec.ofNat 32 r.flags) (BitVec.ofNat 64 r.bits)) := by
    have h1 := (exec_float h false).1 (.spineFdiv, fun f rm x y => f.div rm (f.dec x) (f.dec y)) (by simp [floatTable]) b a d
    dsimp only at h1
    rwa [show fmt false = fB64 from rfl, input_fB64 hf, input_fB64 hf, floatWrote_fB64 hf] at h1
  have hsqrt : exec (.spineFsqrt false a d) s =
      (let r := fB64.sqrt (rm sp) (fB64.dec x.toNat)
       done (BitVec.ofNat 32 r.flags) (BitVec.ofNat 64 r.bits)) := by
    have h1 := (exec_float h false).2 a d
    rwa [show fmt false = fB64 from rfl, input_fB64 hf, floatWrote_fB64 hf] at h1
  have hcmp : ∀ r ∈ compareTable, exec (r.1 false b a d) s =
      (let u := fB64.dec x.toNat
       let v := fB64.dec y.toNat
       done (if u.isSnan || v.isSnan || (r.2.2 && (u.isNan || v.isNan)) then 16 else 0)
        (if r.2.1.any (fun o => cmpFVal u v == some o) then 1 else 0)) := by
    intro r hr
    have h1 := exec_compare h false r hr b a d
    rwa [show fmt false = fB64 from rfl, input_fB64 hf, input_fB64 hf] at h1
  clear_value done
  dsimp only at hdiv hsqrt hcmp
  refine ⟨fun hx hx0 hy => ?_, fun hneg hle hx0 => ?_, fun hx => ?_, fun hx h0 => ?_⟩
  · obtain ⟨m, e, hdx, hm⟩ := dec_fB64_fin hx
    have hye : y.extractLsb' 52 11 ≠ 0x7FF := fun he => by
      have h1 := exponent_fB64 y
      rw [magnitude_fB64, hy, he] at h1
      exact absurd h1 (by decide)
    obtain ⟨m', e', hdy, hm'⟩ := dec_fB64_fin hye
    rw [hm'.mpr hy] at hdy
    have hm0 : m ≠ 0 := fun h => hx0 (hm.mp h)
    have hr : fB64.div (rm sp) (.fin (x.getLsbD 63) m e) (.fin (y.getLsbD 63) 0 e')
        = { infOf fB64 (x.getLsbD 63 != y.getLsbD 63) with dz := true } := by
      unfold Fmt.div
      dsimp only [FVal.neg?]
      rw [if_pos rfl, if_neg hm0]
      rfl
    rw [hdiv, hdx, hdy, hr]
    cases x.getLsbD 63 <;> cases y.getLsbD 63 <;> rfl
  · have hr : fB64.sqrt (rm sp) (fB64.dec x.toNat) = nanOf fB64 true := by
      by_cases hx : x.extractLsb' 52 11 = 0x7FF
      · rw [dec_fB64_inf hx hneg hle]
        rfl
      · obtain ⟨m, e, hdx, hm⟩ := dec_fB64_fin hx
        rw [hdx, hneg]
        unfold Fmt.sqrt
        dsimp only
        rw [if_neg fun h => hx0 (hm.mp h)]
        rfl
    rw [hsqrt, hr]
    rfl
  · have hr : fB64.sqrt (rm sp) (fB64.dec x.toNat) = { bits := 0x8000000000000000 } := by
      rw [hx]
      rfl
    rw [hsqrt, hr]
    rfl
  · obtain ⟨q, hq⟩ := dec_fB64_nan hx h0
    have hnone : ∀ l : List Ordering, (l.any fun o => cmpFVal (.nan q) (fB64.dec y.toNat) == some o) = false := fun l =>
      List.any_eq_false.mpr fun _ _ => by simp [cmpFVal]
    rw [hq] at hcmp
    simp only [hnone, Bool.false_eq_true, if_false] at hcmp
    refine ⟨fun r hr => ⟨_, hcmp r hr⟩, ?_, ?_⟩
    · have h1 := hcmp (.spineFlt, [.lt], true) (by simp [compareTable])
      simpa [FVal.isNan] using h1
    · have h1 := hcmp (.spineFle, [.lt, .eq], true) (by simp [compareTable])
      simpa [FVal.isNan] using h1

/-- The formats have a significand, codes below the sign bit, and integers of the significand's size. -/
theorem formats_sound : ∀ f ∈ formats, 1 ≤ f.mw ∧ f.maxFinite < f.signBit := by decide

/-- A code whose last place is at least one exceeds every significand. -/
theorem mag_large (f : Fmt) {c : Nat} (h : c / 2 ^ f.mw ≠ 0) (he : 0 ≤ f.qmin + (c / 2 ^ f.mw : Nat) - 1) :
    (2 : ℚ) ^ f.mw ≤ mag f c := by
  have h1 : (1 : ℚ) ≤ 2 ^ (f.qmin + (c / 2 ^ f.mw : Nat) - 1) := one_le_zpow₀ (by norm_num) he
  have h2 : (2 : ℚ) ^ f.mw ≤ ((2 ^ f.mw + c % 2 ^ f.mw : Nat) : ℚ) := by
    push_cast
    exact le_add_of_nonneg_right (by positivity)
  unfold mag
  rw [if_neg h]
  exact h2.trans (le_mul_of_one_le_right (by positivity) h1)

theorem fmt_sound : ∀ f ∈ [fB64, fB32, fB16, fBf16], 1 ≤ f.mw ∧ f.qmin ≤ 0 ∧ (2 : ℚ) ^ f.mw ≤ mag f f.maxFinite := by
  have h : ∀ f ∈ [fB64, fB32, fB16, fBf16], 1 ≤ f.mw ∧ f.qmin ≤ 0 ∧ f.maxFinite / 2 ^ f.mw ≠ 0
      ∧ 0 ≤ f.qmin + (f.maxFinite / 2 ^ f.mw : Nat) - 1 := by decide
  exact fun f hf => ⟨(h f hf).1, (h f hf).2.1, mag_large f (h f hf).2.2.1 (h f hf).2.2.2⟩

/-- Settles O3: every result is an exact number that `Fmt.round` takes to the nearest code. -/
theorem spineFloatResults : Obligations.SpineFloatResults := by
  refine ⟨fun p s t sp h => ⟨(exec_float h p).1, (exec_float h p).2, exec_compare h p, exec_fused h⟩, special_results,
    fun f hf neg c hc => dec_withSign f neg c hc (formats_sound f hf).2, fun f hf r => ?_,
    fun f hf r sat => ofVal_conversions f (formats_sound f hf).1 r sat, fun lo hi _ _ => toIntSat_integers lo hi⟩
  obtain ⟨hmw, hq, hbig⟩ := fmt_sound f hf
  exact ⟨add_sums f hmw r, mul_products f hmw r, div_quotients f hmw r, fma_fused f hmw r, toIntegral_integrals f hmw hq hbig r⟩

end Sys2Proof.Rounding

/-! PROOFS. Sums of products of floating-point values: the exact sum, its infinities and its NaNs (12 R266, 16 R388, 11 R255). -/

namespace Sys2Proof.Rounding

open Sys2Proof Sys2Proof.Machine Sys2Proof.Claims

/-! ### Machine.Dyadic numbers -/

/-- The number that a dyadic stands for. -/
def dyadicNum (d : Machine.Dyadic) : ℚ := (d.n : ℚ) * 2 ^ d.e

theorem dyadicNum_add (a b : Machine.Dyadic) : dyadicNum (a.add b) = dyadicNum a + dyadicNum b := by
  have unit (n : Int) {e q : Int} (hq : q ≤ e) : ((n * (2 ^ (e - q).toNat : Nat) : Int) : ℚ) * 2 ^ q = n * 2 ^ e := by
    have h : (2 : ℚ) ^ e = 2 ^ (e - q).toNat * 2 ^ q := by
      rw [← zpow_natCast, ← zpow_add₀ (by norm_num)]
      congr 1
      omega
    rw [h]
    push_cast
    ring
  unfold dyadicNum Machine.Dyadic.add
  dsimp only
  rw [Int.cast_add, add_mul, unit a.n (min_le_left _ _), unit b.n (min_le_right _ _)]

theorem dyadicNum_mul (a b : Machine.Dyadic) : dyadicNum (a.mul b) = dyadicNum a * dyadicNum b := by
  unfold dyadicNum Machine.Dyadic.mul
  dsimp only
  rw [zpow_add₀ (by norm_num)]
  push_cast
  ring

theorem dyadicNum_scale (a : Machine.Dyadic) (k : Int) : dyadicNum (a.scale k) = dyadicNum a * 2 ^ k := by
  unfold dyadicNum Machine.Dyadic.scale
  dsimp only
  rw [zpow_add₀ (by norm_num), mul_assoc]

theorem dyadicNum_fin (n : Bool) (m : Nat) (e : Int) : dyadicNum (FVal.fin n m e).dyadic = num n m e := (num_eq n m e).symm

theorem dyadicNum_eq_zero (d : Machine.Dyadic) : dyadicNum d = 0 ↔ d.n = 0 := (signed_multiple d.n d.e).2.2

theorem dyadicNum_neg (d : Machine.Dyadic) : dyadicNum d < 0 ↔ d.n < 0 := (signed_multiple d.n d.e).2.1

/-- A dyadic is rounded once. -/
theorem roundDyadic_exactly (f : Fmt) (hmw : 1 ≤ f.mw) (r : Rm) (zero : Bool) (d : Machine.Dyadic) :
    exactly f r zero (dyadicNum d) (f.roundDyadic r zero d) := by
  obtain ⟨habs, hneg, hzero⟩ := signed_multiple d.n d.e
  unfold Fmt.roundDyadic
  split
  · next h => exact ⟨fun _ => rfl, fun h0 => absurd (hzero.mpr h) h0⟩
  · next h => exact exactly_of f hmw habs (fun _ => decide_eq_decide.mpr hneg.symm) fun h0 => absurd (hzero.mp h0) h

/-- The sign given for a zero matters where the number is zero only. -/
theorem exactly_zero_congr {f : Fmt} {r : Rm} {z z' : Bool} {x : ℚ} {y : FR} (h : exactly f r z x y) (hz : x = 0 → z = z') :
    exactly f r z' x y :=
  ⟨fun h0 => hz h0 ▸ h.1 h0, h.2⟩

/-! ### One product -/

/-- A product of two finite values. -/
def finite (a b : FVal) : Prop := ∃ n m e n' m' e', a = .fin n m e ∧ b = .fin n' m' e'

/-- A product is no number, infinite or finite. -/
theorem product_cases (a b : FVal) : invalid a b ∨ (∃ i, infinite i a b) ∨ finite a b := by
  by_cases h : invalid a b
  · exact .inl h
  · refine .inr ?_
    rcases a with q | k | ⟨n, m, e⟩
    · exact absurd (.inl rfl) h
    · exact .inl ⟨_, h, rfl, .inl ⟨k, rfl⟩⟩
    · rcases b with q | k | ⟨n', m', e'⟩
      · exact absurd (.inr (.inl rfl)) h
      · exact .inl ⟨_, h, rfl, .inr ⟨k, rfl⟩⟩
      · exact .inr ⟨n, m, e, n', m', e', rfl, rfl⟩

theorem finite_valid {a b : FVal} (h : finite a b) : ¬ invalid a b ∧ ∀ i, ¬ infinite i a b := by
  obtain ⟨n, m, e, n', m', e', rfl, rfl⟩ := h
  constructor
  · rintro (h | h | ⟨k, k', e'', ⟨h, -⟩ | ⟨-, h⟩⟩)
    · simp [FVal.isNan] at h
    · simp [FVal.isNan] at h
    · exact FVal.noConfusion h
    · exact FVal.noConfusion h
  · rintro i ⟨-, -, ⟨k, h⟩ | ⟨k, h⟩⟩ <;> exact FVal.noConfusion h

theorem infinite_sign {a b : FVal} {i j : Bool} (h : infinite i a b) (h' : infinite j a b) : i = j := by
  obtain ⟨-, rfl, -⟩ := h
  exact h'.2.1

theorem addProd_invalid (s : DotSum) {a b : FVal} (h : invalid a b) : s.addProd a b = .nan := by
  rcases h with h | h | ⟨n, n', e, ⟨rfl, rfl⟩ | ⟨rfl, rfl⟩⟩
  · cases a <;> simp [FVal.isNan] at h
    cases s <;> rfl
  · cases b <;> simp [FVal.isNan] at h
    cases s <;> cases a <;> rfl
  · cases s <;> simp [DotSum.addProd, FVal.isZero]
  · cases s <;> simp [DotSum.addProd, FVal.isZero]

/-- A sum meets an infinite product. -/
def meetInfinite (i : Bool) : DotSum → DotSum
  | .nan => .nan
  | .inf j => if j = i then .inf j else .nan
  | .fin _ _ => .inf i

theorem addProd_infinite (s : DotSum) {a b : FVal} {i : Bool} (h : infinite i a b) : s.addProd a b = meetInfinite i s := by
  obtain ⟨hv, rfl, hinf⟩ := h
  have hz : (a.isZero || b.isZero) = false := by
    rw [Bool.or_eq_false_iff]
    rcases hinf with ⟨k, rfl⟩ | ⟨k, rfl⟩
    · refine ⟨rfl, ?_⟩
      rcases b with q | k' | ⟨n', _ | m', e'⟩
      · rfl
      · rfl
      · exact absurd (.inr (.inr ⟨k, n', e', .inl ⟨rfl, rfl⟩⟩)) hv
      · rfl
    · refine ⟨?_, rfl⟩
      rcases a with q | k' | ⟨n', _ | m', e'⟩
      · rfl
      · rfl
      · exact absurd (.inr (.inr ⟨k, n', e', .inr ⟨rfl, rfl⟩⟩)) hv
      · rfl
  have hsum : ∀ j, (if (a.isZero || b.isZero || (a.neg? != b.neg?) != j) = true then DotSum.nan else .inf j)
      = meetInfinite (a.neg? != b.neg?) (.inf j) := by
    intro j
    rw [hz, Bool.false_or]
    unfold meetInfinite
    cases (a.neg? != b.neg?) <;> cases j <;> rfl
  have hfin : (if (a.isZero || b.isZero) = true then DotSum.nan else .inf (a.neg? != b.neg?)) = .inf (a.neg? != b.neg?) := by
    rw [hz]
    rfl
  rcases a with q | k | ⟨n, m, e⟩
  · exact absurd (.inl rfl) hv
  all_goals
    rcases b with q' | k' | ⟨n', m', e'⟩
  case inf.nan | fin.nan => exact absurd (.inr (.inl rfl)) hv
  case fin.fin => rcases hinf with ⟨k, h⟩ | ⟨k, h⟩ <;> exact FVal.noConfusion h
  all_goals
    rcases s with _ | j | ⟨d, z⟩
    · rfl
    · exact hsum j
    · exact hfin

theorem addProd_finite {a b : FVal} (h : finite a b) : DotSum.nan.addProd a b = .nan ∧ (∀ i, (DotSum.inf i).addProd a b = .inf i)
    ∧ ∀ d z, ∃ d' z', (DotSum.fin d z).addProd a b = .fin d' z' ∧ dyadicNum d' = dyadicNum d + numOf a * numOf b
      ∧ (z' = true ↔ z = true ∧ numOf a * numOf b = 0 ∧ a.neg? ≠ b.neg?) := by
  obtain ⟨n, m, e, n', m', e', rfl, rfl⟩ := h
  refine ⟨rfl, fun _ => rfl, fun d z => ⟨_, _, rfl, ?_, ?_⟩⟩
  · rw [dyadicNum_add, dyadicNum_mul, dyadicNum_fin, dyadicNum_fin]
    rfl
  · have hnum (n : Bool) (m : Nat) (e : Int) : numOf (.fin n m e) = 0 ↔ m = 0 := by
      have : dyadicNum (FVal.fin n m e).dyadic = 0 ↔ m = 0 := by
        rw [dyadicNum_eq_zero]
        cases n <;> simp [FVal.dyadic]
      rwa [dyadicNum_fin] at this
    rw [mul_eq_zero, hnum, hnum]
    simp [FVal.neg?]
    tauto

/-! ### The sum -/

/-- What a sum of n products has come to. -/
def comesTo (n : Nat) (a b : Nat → FVal) : DotSum → Prop
  | .nan => (sumOf n a b).nan
  | .inf i => ¬ (sumOf n a b).nan ∧ (sumOf n a b).inf i
  | .fin d z => ¬ (sumOf n a b).nan ∧ (∀ i, ¬ (sumOf n a b).inf i) ∧ dyadicNum d = (sumOf n a b).value
      ∧ (z = true ↔ ∀ k < n, numOf (a k) * numOf (b k) = 0 ∧ (a k).neg? ≠ (b k).neg?)

section
variable {a b : Nat → FVal} {n : Nat}

theorem sumOf_inf_succ (i : Bool) : (sumOf (n + 1) a b).inf i ↔ (sumOf n a b).inf i ∨ infinite i (a n) (b n) :=
  Nat.exists_lt_succ_right

theorem sumOf_nan_iff : (sumOf n a b).nan ↔
    (∃ k < n, invalid (a k) (b k)) ∨ ((sumOf n a b).inf true ∧ (sumOf n a b).inf false) := Iff.rfl

theorem sumOf_value_succ : (sumOf (n + 1) a b).value = (sumOf n a b).value + numOf (a n) * numOf (b n) :=
  Finset.sum_range_succ _ n

theorem sumOf_nan_succ : (sumOf (n + 1) a b).nan ↔ (sumOf n a b).nan ∨ invalid (a n) (b n)
    ∨ ∃ i, (sumOf n a b).inf (!i) ∧ infinite i (a n) (b n) := by
  rw [sumOf_nan_iff, sumOf_nan_iff, Nat.exists_lt_succ_right, sumOf_inf_succ, sumOf_inf_succ, Bool.exists_bool]
  have hsign : infinite true (a n) (b n) → ¬ infinite false (a n) (b n) := fun h h' => Bool.noConfusion (infinite_sign h h')
  have key : ∀ A B C D P Q : Prop, (P → ¬ Q) → (((A ∨ B) ∨ (C ∨ P) ∧ (D ∨ Q)) ↔ ((A ∨ C ∧ D) ∨ B ∨ C ∧ Q ∨ D ∧ P)) := by tauto
  exact key _ _ _ _ _ _ hsign

theorem comesTo_invalid {s : DotSum} (h : invalid (a n) (b n)) : comesTo (n + 1) a b (s.addProd (a n) (b n)) := by
  rw [addProd_invalid s h]
  exact sumOf_nan_succ.mpr (.inr (.inl h))

theorem comesTo_infinite {s : DotSum} {i : Bool} (hs : comesTo n a b s) (h : infinite i (a n) (b n)) :
    comesTo (n + 1) a b (s.addProd (a n) (b n)) := by
  rw [addProd_infinite s h]
  have here : ∀ j, infinite j (a n) (b n) → j = i := fun j h' => infinite_sign h' h
  have sound : ¬ (sumOf n a b).nan → ¬ (sumOf n a b).inf (!i) → ¬ (sumOf (n + 1) a b).nan := by
    intro hnan hother hn
    rcases sumOf_nan_succ.mp hn with h1 | h1 | ⟨j, h1, h2⟩
    · exact hnan h1
    · exact h.1 h1
    · exact hother (here j h2 ▸ h1)
  rcases s with _ | j | ⟨d, z⟩
  · exact sumOf_nan_succ.mpr (.inl hs)
  · obtain ⟨hnan, hinf⟩ := hs
    by_cases hji : j = i
    · subst hji
      rw [show meetInfinite j (.inf j) = .inf j from if_pos rfl]
      refine ⟨sound hnan fun hother => hnan (sumOf_nan_iff.mpr (.inr ?_)), (sumOf_inf_succ j).mpr (.inl hinf)⟩
      cases j
      · exact ⟨hother, hinf⟩
      · exact ⟨hinf, hother⟩
    · obtain rfl : j = !i := Bool.eq_not.mpr hji
      rw [show meetInfinite i (.inf !i) = .nan from if_neg hji]
      exact sumOf_nan_succ.mpr (.inr (.inr ⟨i, hinf, h⟩))
  · obtain ⟨hnan, hinf, -⟩ := hs
    exact ⟨sound hnan (hinf _), (sumOf_inf_succ i).mpr (.inr h)⟩

theorem comesTo_finite {s : DotSum} (hs : comesTo n a b s) (h : finite (a n) (b n)) :
    comesTo (n + 1) a b (s.addProd (a n) (b n)) := by
  obtain ⟨hvalid, hnotInf⟩ := finite_valid h
  obtain ⟨enan, einf, efin⟩ := addProd_finite h
  have sound : ¬ (sumOf n a b).nan → ¬ (sumOf (n + 1) a b).nan := by
    intro hnan hn
    rcases sumOf_nan_succ.mp hn with h1 | h1 | ⟨j, -, h2⟩
    · exact hnan h1
    · exact hvalid h1
    · exact hnotInf j h2
  rcases s with _ | j | ⟨d, z⟩
  · rw [enan]
    exact sumOf_nan_succ.mpr (.inl hs)
  · rw [einf]
    exact ⟨sound hs.1, (sumOf_inf_succ j).mpr (.inl hs.2)⟩
  · obtain ⟨hnan, hinf, hval, hz⟩ := hs
    obtain ⟨d', z', e, hd, hz'⟩ := efin d z
    rw [e]
    refine ⟨sound hnan, fun i hi => ((sumOf_inf_succ i).mp hi).elim (hinf i) (hnotInf i), ?_, ?_⟩
    · rw [hd, hval, sumOf_value_succ]
    · rw [hz', hz, Nat.forall_lt_succ_right]

end

/-- The exact sum of n products is what `sumOf` says of them. -/
theorem dotSum_comesTo (a b : Nat → FVal) : ∀ n, comesTo n a b (dotSum (fun k => (a k, b k)) n)
  | 0 => by
    refine ⟨?_, ?_, ?_, ?_⟩ <;> simp [sumOf, dyadicNum, Machine.Dyadic.zero]
  | n + 1 => by
    have ih := dotSum_comesTo a b n
    rcases product_cases (a n) (b n) with h | ⟨i, h⟩ | h
    · exact comesTo_invalid h
    · exact comesTo_infinite ih h
    · exact comesTo_finite ih h

theorem dotSum_congr {f g : Nat → FVal × FVal} : ∀ {n : Nat}, (∀ k < n, f k = g k) → dotSum f n = dotSum g n
  | 0, _ => rfl
  | n + 1, h => by
    change (dotSum f n).addProd (f n).1 (f n).2 = (dotSum g n).addProd (g n).1 (g n).2
    rw [dotSum_congr fun k hk => h k (by omega), h n (by omega)]

/-- Products taken one after another off a list. -/
theorem foldl_addProd (l : List (FVal × FVal)) (x : FVal × FVal) :
    l.foldl (fun s p => s.addProd p.1 p.2) DotSum.zero = dotSum (fun k => l.getD k x) l.length := by
  induction l using List.reverseRecOn with
  | nil => rfl
  | append_singleton l y ih =>
    rw [List.foldl_append, ih, List.length_append]
    change (dotSum _ l.length).addProd y.1 y.2 = (dotSum _ l.length).addProd _ _
    rw [dotSum_congr (f := fun k => (l ++ [y]).getD k x) (g := fun k => l.getD k x) fun k hk => by
      simp [List.getElem?_append_left hk]]
    simp

/-- The sign of a sum of products, where it counts: minus where the sum lies below zero or every product is -0. -/
theorem minus_iff {n : Nat} {a b : Nat → FVal} {d : Machine.Dyadic} {z : Bool} (h : comesTo n a b (.fin d z)) :
    (sumOf n a b).minus ↔ (if d.n = 0 then z else decide (d.n < 0)) = true := by
  obtain ⟨-, -, hval, hz⟩ := h
  change (sumOf n a b).value < 0 ∨ (∀ k < n, numOf (a k) * numOf (b k) = 0 ∧ (a k).neg? ≠ (b k).neg?) ↔ _
  rw [← hval, dyadicNum_neg, ← hz]
  split
  · next h0 => simp [h0]
  · next h0 =>
    rw [decide_eq_true_eq, or_iff_left_iff_imp, hz]
    intro hall
    have : (sumOf n a b).value = 0 := Finset.sum_eq_zero fun k hk => (hall k (Finset.mem_range.mp hk)).1
    exact absurd ((dyadicNum_eq_zero d).mp (hval.trans this)) h0

end Sys2Proof.Rounding

/-! PROOFS. Dot products and block scales of lanes, group sums of the matrix engine (16 R388, R389, 11 R255). -/

namespace Sys2Proof.Rounding

open Sys2Proof Sys2Proof.Machine Sys2Proof.Claims

/-! ### Dot products of lanes -/

theorem flush_of_not_subnormal {f : Fmt} {ftz : Bool} {x : Nat} (h : f.isSubnormal x = false) : f.flush ftz x = x := by
  simp [Fmt.flush, h]

theorem flush_infinity (ftz n : Bool) : fB32.flush ftz (fB32.withSign n fB32.infCode) = fB32.withSign n fB32.infCode :=
  flush_of_not_subnormal (by cases n <;> decide)

theorem flush_nan (ftz : Bool) : fB32.flush ftz fB32.defNaN = fB32.defNaN := flush_of_not_subnormal (by decide)

/-- An addend and a finite sum of products, rounded once. -/
theorem addDot_fin {n : Nat} {a b : Nat → FVal} {d : Machine.Dyadic} {z : Bool} (h : comesTo n a b (.fin d z)) (r : Rm)
    (neg : Bool) (m : Nat) (e : Int) :
    ∃ w zero, ((sumOf n a b).minus → zero = zeroSum r neg true) ∧ (¬ (sumOf n a b).minus → zero = zeroSum r neg false)
      ∧ exactly fB32 r zero (num neg m e + (sumOf n a b).value) w ∧ addDot r (.fin neg m e) (.fin d z) = w.bits := by
  have hm := minus_iff h
  obtain ⟨-, -, hval, -⟩ := h
  have hsum := dyadicNum_add (FVal.fin neg m e).dyadic d
  rw [dyadicNum_fin, hval] at hsum
  refine ⟨_, _, ?_, ?_, hsum ▸ roundDyadic_exactly fB32 (by decide) r _ _, rfl⟩
  · intro h
    rw [hm.mp h]
    cases neg <;> rfl
  · intro h
    rw [Bool.eq_false_iff.mpr fun h' => h (hm.mpr h')]
    cases neg <;> rfl

theorem addDot_nan (r : Rm) (z : FVal) : addDot r z .nan = fB32.defNaN := by cases z <;> rfl

theorem addDot_of_isNan (r : Rm) {z : FVal} (h : z.isNan = true) (s : DotSum) : addDot r z s = fB32.defNaN := by
  cases z <;> simp [FVal.isNan] at h
  cases s <;> rfl

theorem addDot_inf_inf (r : Rm) (n : Bool) : addDot r (.inf !n) (.inf n) = fB32.defNaN := by cases n <;> rfl

theorem addDot_inf (r : Rm) (n : Bool) {z : FVal} (h : z ≠ .inf !n) (h' : z.isNan = false) :
    addDot r z (.inf n) = fB32.withSign n fB32.infCode := by
  cases z with
  | nan q => simp [FVal.isNan] at h'
  | inf k =>
    obtain rfl : n = k := by
      rw [ne_eq, FVal.inf.injEq] at h
      cases n <;> cases k <;> simp_all
    cases n <;> rfl
  | fin n m e => rfl

/-- Infinities of one sign only. -/
theorem inf_unique {n : Nat} {a b : Nat → FVal} {i : Bool} (hnan : ¬ (sumOf n a b).nan) (hi : (sumOf n a b).inf i) :
    ¬ (sumOf n a b).inf !i := by
  intro h
  refine hnan (sumOf_nan_iff.mpr (.inr ?_))
  cases i
  · exact ⟨h, hi⟩
  · exact ⟨hi, h⟩

section
variable {n : Nat} {a b : Nat → FVal} {s : DotSum} (h : comesTo n a b s)
include h

theorem addDot_invalid (r : Rm) {z : FVal}
    (hp : (sumOf n a b).nan ∨ z.isNan = true ∨ ∃ i, (sumOf n a b).inf i ∧ z = .inf (!i)) : addDot r z s = fB32.defNaN := by
  rcases s with _ | i | ⟨d, q⟩
  · exact addDot_nan r z
  · rcases hp with hp | hp | ⟨j, hj, rfl⟩
    · exact absurd hp h.1
    · exact addDot_of_isNan r hp _
    · obtain rfl : j = i := by
        by_contra hne
        exact inf_unique h.1 h.2 (Bool.eq_not.mpr hne ▸ hj)
      exact addDot_inf_inf r j
  · rcases hp with hp | hp | ⟨j, hj, -⟩
    · exact absurd hp h.1
    · exact addDot_of_isNan r hp _
    · exact absurd hj (h.2.1 j)

theorem addDot_infinite (r : Rm) {z : FVal} (hnan : ¬ (sumOf n a b).nan) {i : Bool}
    (hp : ((sumOf n a b).inf i ∧ z ≠ .inf (!i) ∧ z.isNan = false) ∨ (z = .inf i ∧ ¬ (sumOf n a b).inf (!i))) :
    addDot r z s = fB32.withSign i fB32.infCode := by
  rcases s with _ | j | ⟨d, q⟩
  · exact absurd h hnan
  · obtain ⟨-, hj⟩ := h
    rcases hp with ⟨hi, hz, hz'⟩ | ⟨rfl, hi⟩
    · obtain rfl : i = j := by
        by_contra hne
        exact inf_unique hnan hj (Bool.eq_not.mpr hne ▸ hi)
      exact addDot_inf r i hz hz'
    · obtain rfl : j = i := by
        by_contra hne
        exact hi (Bool.eq_not.mpr hne ▸ hj)
      cases j <;> rfl
  · obtain ⟨-, hinf, -, -⟩ := h
    rcases hp with ⟨hi, -, -⟩ | ⟨rfl, -⟩
    · exact absurd hi (hinf i)
    · rfl

end

theorem aluDotF_eq {t : LType} {f : Fmt} (hf : t.fmt? = some f) (r : Rm) (ftz : Bool) (a b c : Nat) :
    aluDotF t r ftz a b c = fB32.flush ftz (addDot r (fB32.dec (fB32.flush ftz c))
      (dotSum (fun k => (f.dec (el t k a % 2 ^ f.width), f.dec (el t k b % 2 ^ f.width))) (32 / t.elemW))) := by
  unfold aluDotF
  rw [hf]
  rfl

theorem aluDotF_dotted {t : LType} {f : Fmt} (hf : t.fmt? = some f) (r : Rm) (ftz : Bool) (a b c : Nat) : dotted t f r ftz a b c := by
  have hdot := dotSum_comesTo (fun k => f.dec (el t k a % 2 ^ f.width)) (fun k => f.dec (el t k b % 2 ^ f.width)) (32 / t.elemW)
  unfold dotted
  dsimp only
  rw [aluDotF_eq hf]
  refine ⟨fun hp => ?_, fun hnan i hp => ?_, fun m e neg hnan hinf hz => ?_⟩
  · rw [addDot_invalid hdot r hp, flush_nan]
    rfl
  · rw [addDot_infinite hdot r hnan hp, flush_infinity]
  · rw [hz]
    generalize dotSum (fun k => (f.dec (el t k a % 2 ^ f.width), f.dec (el t k b % 2 ^ f.width))) (32 / t.elemW) = s at hdot ⊢
    rcases s with _ | i | ⟨d, q⟩
    · exact absurd hdot hnan
    · exact absurd hdot.2 (hinf i)
    · obtain ⟨w, zero, h1, h2, h3, h4⟩ := addDot_fin hdot r neg m e
      exact ⟨w, zero, h1, h2, h3, congrArg _ h4⟩

/-! ### Block scales -/

theorem aluMxscale_nan {f32 ftz : Bool} {sa sb a : Nat} (h : sa = 255 ∨ sb = 255) : aluMxscale f32 ftz sa sb a = fB32.defNaN := by
  unfold aluMxscale
  rw [if_pos (by simpa using h)]

section
variable {ftz : Bool} {sa sb a : Nat} (hsa : sa < 255) (hsb : sb < 255)
include hsa hsb

theorem aluMxscale_fin {n : Bool} {m : Nat} {e : Int} (hd : fB32.dec (fB32.flush ftz a) = .fin n m e) :
    aluMxscale true ftz sa sb a = fB32.flush ftz (fB32.round .rne false n m (e + (sa : Int) + sb - 254)).bits := by
  have : ¬ (sa = 255 ∨ sb = 255) := by omega
  unfold aluMxscale
  rw [if_neg (by simpa using this), if_pos rfl]
  simp only [hd]

theorem aluMxscale_inf {n : Bool} (hd : fB32.dec (fB32.flush ftz a) = .inf n) :
    aluMxscale true ftz sa sb a = fB32.withSign n fB32.infCode := by
  have : ¬ (sa = 255 ∨ sb = 255) := by omega
  unfold aluMxscale
  rw [if_neg (by simpa using this), if_pos rfl]
  simp only [hd]

theorem aluMxscale_float_nan (hd : (fB32.dec (fB32.flush ftz a)).isNan = true) : aluMxscale true ftz sa sb a = fB32.defNaN := by
  have : ¬ (sa = 255 ∨ sb = 255) := by omega
  unfold aluMxscale
  rw [if_neg (by simpa using this), if_pos rfl]
  cases h : fB32.dec (fB32.flush ftz a) <;> simp [h, FVal.isNan] at hd ⊢

theorem aluMxscale_int :
    aluMxscale false ftz sa sb a
      = fB32.flush ftz (fB32.round .rne false (decide (sxNat 32 a < 0)) (sxNat 32 a).natAbs ((sa : Int) + sb - 254 - 12)).bits := by
  have : ¬ (sa = 255 ∨ sb = 255) := by omega
  unfold aluMxscale
  rw [if_neg (by simpa using this), if_neg (by decide)]

end

/-- Infinities and NaNs are not subnormal. -/
theorem flush_special {ftz : Bool} {x : Nat} (h : ∀ n m e, fB32.dec x ≠ .fin n m e) : fB32.flush ftz x = x := by
  have hbig : fB32.maxFinite < x % fB32.signBit := by
    by_contra hle
    unfold Fmt.dec at h
    dsimp only at h
    rw [if_neg hle] at h
    split at h
    · exact h _ _ _ rfl
    · exact h _ _ _ rfl
  refine flush_of_not_subnormal ?_
  have hexp : 2 ^ fB32.mw ≤ x % fB32.signBit := le_trans (by decide) hbig.le
  simp [Fmt.isSubnormal, hexp]

theorem aluMxscale_scaled (ftz : Bool) (sa sb a : Nat) (ha : a < 2 ^ 32) : scaled ftz sa sb a := by
  refine ⟨fun h f32 => aluMxscale_nan h, fun hsa hsb => ⟨fun n m e hd => ?_, fun n hd => ?_, fun hd => ?_, ?_⟩⟩
  · rw [aluMxscale_fin hsa hsb hd]
    have hk : (2 : ℚ) ^ (e + (sa : Int) + sb - 254) = 2 ^ e * 2 ^ ((sa : Int) + sb - 254) := by
      rw [← zpow_add₀ (by norm_num)]
      congr 1
      omega
    refine ⟨_, ?_, rfl⟩
    rw [abs_num, mul_assoc, ← hk]
    exact round_exact fB32 (by decide) .rne false n m _
  · refine aluMxscale_inf hsa hsb ?_
    rw [flush_special fun _ _ _ h => FVal.noConfusion (hd.symm.trans h), hd]
  · refine aluMxscale_float_nan hsa hsb ?_
    rwa [flush_special fun n m e h => by simp [h, FVal.isNan] at hd]
  · have hx : intOf .i32 a = sxNat 32 a := by
      unfold intOf sxNat
      rw [Nat.mod_eq_of_lt ha]
      have hmod : (a : Int) % 2 ^ 32 = a := by omega
      rw [hmod]
      simp [LType.signed, LType.elemW]
    rw [aluMxscale_int hsa hsb, hx]
    refine ⟨_, ?_, rfl⟩
    have h := round_exact fB32 (by decide) .rne false (decide (sxNat 32 a < 0)) (sxNat 32 a).natAbs ((sa : Int) + sb - 254 - 12)
    rwa [(signed_multiple (sxNat 32 a) _).1, abs_mul, abs_of_pos (by positivity : (0 : ℚ) < 2 ^ ((sa : Int) + sb - 254 - 12))] at h

/-! ### Group sums of the matrix engine -/

/-- The power of two of a group's scales. -/
def scaleExp (sc : Option (Nat × Nat)) : Int :=
  match sc with
  | some (x, y) => (x : Int) + y - 254
  | none => 0

/-- A scale is the NaN of its format. -/
def scaleNan (sc : Option (Nat × Nat)) : Prop := ∃ x y, sc = some (x, y) ∧ (x = 255 ∨ y = 255)

/-- What a group comes to before its rounding. -/
def groupDot (a b : List FVal) : DotSum := (a.zip b).foldl (fun s p => s.addProd p.1 p.2) DotSum.zero

theorem groupDot_comesTo (a b : List FVal) (h : a.length = b.length) :
    comesTo a.length (fun k => a.getD k (.nan false)) (fun k => b.getD k (.nan false)) (groupDot a b) := by
  have hz : (a.zip b).length = a.length := by rw [List.length_zip, h, min_self]
  unfold groupDot
  rw [foldl_addProd _ (.nan false, .nan false), hz, dotSum_congr (g := fun k => (a.getD k (.nan false), b.getD k (.nan false)))]
  · exact dotSum_comesTo _ _ _
  · intro k hk
    rw [List.getD_eq_getElem _ _ (by omega), List.getD_eq_getElem _ _ hk, List.getD_eq_getElem _ _ (by omega), List.getElem_zip]

theorem groupSum_scaleNan {a b : List FVal} {sc : Option (Nat × Nat)} (h : scaleNan sc) :
    groupSum a b sc = { bits := fB32.defNaN } := by
  obtain ⟨x, y, rfl, h⟩ := h
  exact if_pos (by simpa using h)

theorem groupSum_of {a b : List FVal} {sc : Option (Nat × Nat)} (h : ¬ scaleNan sc) :
    groupSum a b sc = match groupDot a b with
      | .nan => { bits := fB32.defNaN }
      | .inf n => { bits := fB32.withSign n fB32.infCode }
      | .fin d z => fB32.roundDyadic .rne z (d.scale (scaleExp sc)) := by
  rcases sc with _ | ⟨x, y⟩
  · rfl
  · have hne : ¬ (x == 255 || y == 255) = true := fun h' => h ⟨x, y, rfl, by simpa using h'⟩
    exact if_neg hne

theorem groupSum_groupSums (a b : List FVal) (sc : Option (Nat × Nat)) (hl : a.length = b.length) : groupSums a b sc := by
  have hdot := groupDot_comesTo a b hl
  unfold groupSums
  dsimp only
  change ((_ ∨ scaleNan sc) → _) ∧ (¬ (_ ∨ scaleNan sc) → _) ∧ (¬ (_ ∨ scaleNan sc) → _ → ∃ zero, _ ∧ _ ∧
    exactly fB32 .rne zero (_ * 2 ^ scaleExp sc) _)
  by_cases hs : scaleNan sc
  · exact ⟨fun _ => groupSum_scaleNan hs, fun h => absurd (.inr hs) h, fun h => absurd (.inr hs) h⟩
  rw [groupSum_of hs, or_iff_left hs]
  generalize groupDot a b = s at hdot ⊢
  rcases s with _ | i | ⟨d, z⟩
  · exact ⟨fun _ => rfl, fun h => absurd hdot h, fun h => absurd hdot h⟩
  · obtain ⟨hnan, hinf⟩ := hdot
    refine ⟨fun h => absurd h hnan, fun _ j hj => ?_, fun _ h => absurd hinf (h i)⟩
    obtain rfl : j = i := by
      by_contra hne
      exact inf_unique hnan hinf (Bool.eq_not.mpr hne ▸ hj)
    rfl
  · have hm := minus_iff hdot
    obtain ⟨hnan, hinf, hval, -⟩ := hdot
    refine ⟨fun h => absurd h hnan, fun _ j hj => absurd hj (hinf j), fun _ _ =>
      ⟨if d.n = 0 then z else decide (d.n < 0), hm.mp, fun h => Bool.eq_false_iff.mpr fun h' => h (hm.mpr h'), ?_⟩⟩
    have hr := roundDyadic_exactly fB32 (by decide) .rne z (d.scale (scaleExp sc))
    rw [dyadicNum_scale, hval] at hr
    refine exactly_zero_congr hr fun h0 => ?_
    have hd : d.n = 0 := by
      rw [← dyadicNum_eq_zero, hval]
      exact (mul_eq_zero.mp h0).resolve_right (by positivity)
    rw [if_pos hd]

/-- The groups of an element are added one after another. -/
theorem accFloat_accumulates (d : Word) : accumulates d := by
  refine ⟨rfl, fun gs g => ?_⟩
  unfold accFloat
  rw [List.foldl_append]
  rfl

end Sys2Proof.Rounding

/-! PROOFS. The composition of affine maps (11 R257, R258). -/

namespace Sys2Proof.Rounding

open Sys2Proof Sys2Proof.Machine Sys2Proof.Claims

/-- A product underflows: the nearest multiple of 2^-150 of its magnitude has at most 24 bits. -/
def underflows (x y : FVal) : Prop :=
  x.dyadic.n ≠ 0 ∧ y.dyadic.n ≠ 0 ∧ ∃ k, nearest (fun k => (k : ℚ) * 2 ^ (-150 : Int)) .rne (x.neg? != y.neg?) id |numOf x * numOf y| k
    ∧ k < 2 ^ 24

theorem dyadic_n_eq_zero (n : Bool) (m : Nat) (e : Int) : (FVal.fin n m e).dyadic.n = 0 ↔ m = 0 := by
  cases n <;> simp [FVal.dyadic]

theorem gainMul_fin (n n' : Bool) (m m' : Nat) (e e' : Int) :
    (underflows (.fin n m e) (.fin n' m' e') → gainMul (.fin n m e) (.fin n' m' e') = ({ bits := fB32.withSign (n != n') 0 }, true))
    ∧ (¬ underflows (.fin n m e) (.fin n' m' e') → gainMul (.fin n m e) (.fin n' m' e')
        = (fB32.mul .rne (.fin n m e) (.fin n' m' e'), false)) := by
  have hu : underflows (.fin n m e) (.fin n' m' e') ↔ m * m' ≠ 0 ∧
      (Nat.log2 (roundAt .rne (n != n') (m * m') (e + e') ((Nat.log2 (m * m') : Int) + (e + e') - 23) false).1 : Int)
        + ((Nat.log2 (m * m') : Int) + (e + e') - 23) < -126 := by
    unfold underflows
    rw [Ne, Ne, dyadic_n_eq_zero, dyadic_n_eq_zero, mul_ne_zero_iff, and_assoc]
    refine and_congr_right fun hm => and_congr_right fun hm' => ?_
    have h := tiny_iff fB32 (holds_exact (m * m') (e + e')) (mul_ne_zero hm hm') (by simp) .rne (n != n')
    have hn : |numOf (.fin n m e) * numOf (.fin n' m' e')| = ((m * m' : Nat) : ℚ) * 2 ^ (e + e') := by
      rw [← abs_num (n != n'), ← num_mul]
      rfl
    rw [hn]
    exact h.symm
  have hg : gainMul (.fin n m e) (.fin n' m' e') = if m * m' ≠ 0 ∧
      (Nat.log2 (roundAt .rne (n != n') (m * m') (e + e') ((Nat.log2 (m * m') : Int) + (e + e') - 23) false).1 : Int)
        + ((Nat.log2 (m * m') : Int) + (e + e') - 23) < -126
      then ({ bits := fB32.withSign (n != n') 0 }, true) else (fB32.mul .rne (.fin n m e) (.fin n' m' e'), false) := rfl
  rw [hg, hu]
  exact ⟨fun h => if_pos h, fun h => if_neg h⟩

/-- The gain product of any two values. -/
theorem gainMul_eq (x y : FVal) :
    (underflows x y → gainMul x y = ({ bits := fB32.withSign (x.neg? != y.neg?) 0 }, true))
    ∧ (¬ underflows x y → gainMul x y = (fB32.mul .rne x y, false)) := by
  rcases x with q | k | ⟨n, m, e⟩
  · exact ⟨fun h => absurd rfl h.1, fun _ => rfl⟩
  · exact ⟨fun h => absurd rfl h.1, fun _ => rfl⟩
  · rcases y with q | k | ⟨n', m', e'⟩
    · exact ⟨fun h => absurd rfl h.2.1, fun _ => rfl⟩
    · exact ⟨fun h => absurd rfl h.2.1, fun _ => rfl⟩
    · exact gainMul_fin n n' m m' e e'

/-- A product that underflows neither overflows nor is a NaN. -/
theorem underflow_sound {x y : FVal} (h : underflows x y) :
    (fB32.mul .rne x y).of = false ∧ (fB32.dec (fB32.mul .rne x y).bits).isNan = false := by
  obtain ⟨hx, hy, k, hk, hk24⟩ := h
  rcases x with q | k' | ⟨n, m, e⟩
  · exact absurd rfl hx
  · exact absurd rfl hx
  rcases y with q | k' | ⟨n', m', e'⟩
  · exact absurd rfl hy
  · exact absurd rfl hy
  have hlt := nearest_lt_succ increasing_id (multiples_nonneg (-150)) (multiples_strictMono (-150)) hk
  obtain ⟨-, -, c, hc, hle, -⟩ := (mul_products fB32 (by decide) .rne).1 n m e n' m' e'
  have hle23 : c ≤ 2 ^ 23 := nearest_le_of increasing_id (mag_nonneg fB32) (mag_strictMono fB32) hc (by
    have hmag : mag fB32 (2 ^ 23) = multiples (-150) (2 ^ 24) := by
      rw [show (2 : Nat) ^ 23 = 0 * 2 ^ fB32.mw + 2 ^ fB32.mw from rfl, mag_code fB32 0 _ (by decide) (.inl rfl), multiples_two_pow,
        multiples_two_pow]
      rfl
    rw [id_eq, hmag]
    exact hlt.le.trans ((multiples_strictMono _).monotone (by omega)))
  have hmax : c ≤ fB32.maxFinite := hle23.trans (by decide)
  obtain ⟨hbits, hof, -, -⟩ := hle hmax
  obtain ⟨m, e, hd, -⟩ := dec_withSign fB32 (n != n') c hmax (by decide)
  refine ⟨hof, ?_⟩
  rw [hbits, hd]
  rfl

/-- What the gain product gives, and that its marks are those of the product. -/
theorem gainMul_spec (x y : FVal) :
    (underflows x y → BitVec.ofNat 32 (fB32.flush true (gainMul x y).1.bits) = (if x.neg? != y.neg? then 0x80000000 else 0 : Word)
        ∧ (gainMul x y).2 = true)
    ∧ (¬ underflows x y → (gainMul x y).1 = fB32.mul .rne x y ∧ (gainMul x y).2 = false)
    ∧ (gainMul x y).1.of = (fB32.mul .rne x y).of
    ∧ (fB32.dec (gainMul x y).1.bits).isNan = (fB32.dec (fB32.mul .rne x y).bits).isNan := by
  obtain ⟨hsmall, hbig⟩ := gainMul_eq x y
  by_cases h : underflows x y
  · obtain ⟨hof, hnan⟩ := underflow_sound h
    rw [hsmall h, hof, hnan]
    refine ⟨fun _ => ⟨?_, rfl⟩, fun hn => absurd h hn, rfl, ?_⟩
    · cases (x.neg? != y.neg?) <;> decide
    · cases (x.neg? != y.neg?) <;> decide
  · rw [hbig h]
    exact ⟨fun h' => absurd h' h, fun _ => ⟨rfl, rfl⟩, rfl, rfl⟩

theorem compose_composes (p2 p1 : Aff) : composes p2 p1 := by
  obtain ⟨hsmall, hbig, hof, hnan⟩ := gainMul_spec (fB32.dec (flush32 p2.g.toNat)) (fB32.dec (flush32 p1.g.toNat))
  refine ⟨fun h => ?_, fun h => ?_, rfl, ?_, ?_⟩
  · obtain ⟨hg, hgu⟩ := hsmall h
    refine ⟨hg, ?_⟩
    change (p1.gu || p2.gu || (gainMul _ _).2) = true
    rw [hgu, Bool.or_true]
  · obtain ⟨hg, hgu⟩ := hbig h
    refine ⟨congrArg (fun r : FR => BitVec.ofNat 32 (fB32.flush true r.bits)) hg, ?_⟩
    change (p1.gu || p2.gu || (gainMul _ _).2) = _
    rw [hgu, Bool.or_false]
  · exact congrArg (fun b => p1.of || p2.of || b || _) hof
  · exact congrArg (fun b => p1.nv || p2.nv || b || _) hnan

end Sys2Proof.Rounding

/-! PROOFS. Integer accumulation, the elements of a step and the operands of the matrix engine (11 R254 to R256, 18 R437). -/

namespace Sys2Proof.Engine

open Sys2Proof Sys2Proof.Machine Sys2Proof.Claims Sys2Proof.Rounding

/-! ### Integer accumulation -/

/-- Terms added one after another off a list. -/
theorem foldl_add_eq_sum {α : Type} (g : α → Int) (l : List α) (x : α) :
    l.foldl (fun s p => s + g p) 0 = ∑ k ∈ Finset.range l.length, g (l.getD k x) := by
  induction l using List.reverseRecOn with
  | nil => rfl
  | append_singleton l y ih =>
    have hl : ∑ k ∈ Finset.range l.length, g ((l ++ [y]).getD k x) = ∑ k ∈ Finset.range l.length, g (l.getD k x) :=
      Finset.sum_congr rfl fun k hk => congrArg g (List.getD_append _ _ _ _ (Finset.mem_range.mp hk))
    rw [List.foldl_append, ih, List.length_append, List.length_singleton, Finset.sum_range_succ, hl]
    simp

theorem zip_getD {α β : Type} (a : List α) (b : List β) (x : α) (y : β) (h : a.length = b.length) (k : Nat) (hk : k < a.length) :
    (a.zip b).getD k (x, y) = (a.getD k x, b.getD k y) := by
  have hz : k < (a.zip b).length := by rw [List.length_zip]; omega
  rw [List.getD_eq_getElem _ _ hz, List.getD_eq_getElem _ _ hk, List.getD_eq_getElem _ _ (by omega), List.getElem_zip]

/-- The number of an 8-bit element. -/
def element8 (t : LType) (x : Nat) : Int := if t = .n8x4 then (x : Int) else if 128 ≤ x then (x : Int) - 256 else x

theorem element8_eq (t : LType) {x : Nat} (h : x < 256) : (if t = .n8x4 then (x : Int) else sxNat 8 x) = element8 t x := by
  unfold element8 sxNat
  have h1 : x % 2 ^ 8 = x := Nat.mod_eq_of_lt h
  have h2 : (x : Int) % 2 ^ 8 = x := by omega
  rw [h1, h2]
  rfl

theorem products_sum (t : LType) (a b : List Nat) (h : a.length = b.length) (ha : ∀ x ∈ a, x < 256) (hb : ∀ x ∈ b, x < 256) :
    (a.zip b).foldl (fun s p => s + (if t = .n8x4 then (p.1 : Int) else sxNat 8 p.1) * (if t = .n8x4 then (p.2 : Int) else sxNat 8 p.2)) 0
      = ∑ k ∈ Finset.range a.length, element8 t (a.getD k 0) * element8 t (b.getD k 0) := by
  have small : ∀ l : List Nat, (∀ x ∈ l, x < 256) → ∀ k, l.getD k 0 < 256 := by
    intro l hl k
    rcases Nat.lt_or_ge k l.length with hk | hk
    · rw [List.getD_eq_getElem _ _ hk]
      exact hl _ (List.getElem_mem hk)
    · rw [List.getD_eq_default _ _ hk]
      decide
  rw [foldl_add_eq_sum (fun p : Nat × Nat => (if t = .n8x4 then (p.1 : Int) else sxNat 8 p.1) * (if t = .n8x4 then (p.2 : Int) else sxNat 8 p.2))
    _ (0, 0), List.length_zip, ← h, min_self]
  refine Finset.sum_congr rfl fun k hk => ?_
  rw [zip_getD _ _ _ _ h k (Finset.mem_range.mp hk)]
  dsimp only
  rw [element8_eq t (small a ha k), element8_eq t (small b hb k)]

/-- An integer times a power of two, rounded down, and whether that is inexact. -/
theorem scaled_floor (s e : Int) :
    (if e ≥ 0 then s * ((2 ^ e.toNat : Nat) : Int) else s / ((2 ^ (-e).toNat : Nat) : Int)) = ⌊(s : ℚ) * 2 ^ e⌋
    ∧ ((e < 0 ∧ s % ((2 ^ (-e).toNat : Nat) : Int) ≠ 0) ↔ (s : ℚ) * 2 ^ e ≠ ⌊(s : ℚ) * 2 ^ e⌋) := by
  split
  · next h =>
    have hx : (s : ℚ) * 2 ^ e = ((s * ((2 ^ e.toNat : Nat) : Int) : Int) : ℚ) := by
      conv_lhs => rw [show e = (e.toNat : Int) from by omega, zpow_natCast]
      push_cast
      rfl
    rw [hx, Int.floor_intCast]
    exact ⟨rfl, iff_of_false (fun h' => by omega) (fun h' => h' rfl)⟩
  · next h =>
    have hx : (s : ℚ) * 2 ^ e = (s : ℚ) / ((2 ^ (-e).toNat : Nat) : ℚ) := by
      rw [Nat.cast_pow, Nat.cast_ofNat, ← zpow_natCast, show ((-e).toNat : Int) = -e from by omega, zpow_neg, div_inv_eq_mul]
    have hp : ((2 ^ (-e).toNat : Nat) : ℚ) ≠ 0 := by positivity
    have hfl : ⌊(s : ℚ) / ((2 ^ (-e).toNat : Nat) : ℚ)⌋ = s / ((2 ^ (-e).toNat : Nat) : Int) := Rat.floor_intCast_div_natCast s _
    rw [hx, hfl]
    refine ⟨rfl, ?_⟩
    rw [Ne, Ne, ← not_iff_not, not_and_not_right, not_not, div_eq_iff hp]
    have hdm := Int.emod_add_mul_ediv s ((2 ^ (-e).toNat : Nat) : Int)
    constructor
    · intro h0
      rw [h0 (by omega), zero_add] at hdm
      have : ((((2 ^ (-e).toNat : Nat) : Int) * (s / ((2 ^ (-e).toNat : Nat) : Int)) : Int) : ℚ) = (s : ℚ) := congrArg _ hdm
      rw [← this]
      push_cast
      ring
    · intro h0 _
      have : s = s / ((2 ^ (-e).toNat : Nat) : Int) * ((2 ^ (-e).toNat : Nat) : Int) := by exact_mod_cast h0
      linarith

theorem accInt_accumulatesInt (t : LType) (d : Word) (a b : List Nat) (sa sb : Nat)
    (h : a.length = b.length) (ha : ∀ x ∈ a, x < 256) (hb : ∀ x ∈ b, x < 256) : accumulatesInt t d a b sa sb := by
  have hsum := products_sum t a b h ha hb
  unfold element8 at hsum
  unfold accumulatesInt accInt
  dsimp only
  rw [hsum]
  generalize ∑ k ∈ Finset.range a.length, (if t = .n8x4 then ((a.getD k 0 : Nat) : Int)
    else if 128 ≤ a.getD k 0 then ((a.getD k 0 : Nat) : Int) - 256 else ((a.getD k 0 : Nat) : Int)) *
    (if t = .n8x4 then ((b.getD k 0 : Nat) : Int)
    else if 128 ≤ b.getD k 0 then ((b.getD k 0 : Nat) : Int) - 256 else ((b.getD k 0 : Nat) : Int)) = s
  obtain ⟨hfl, hix⟩ := scaled_floor s ((sa : Int) + sb - 254)
  rw [hfl]
  by_cases ht : t = .mxi8
  · by_cases hn : sa = 255 ∨ sb = 255
    · simp [ht, hn]
    · simp [ht, hn, BitVec.ofInt_add, ← hix]
  · simp [ht, BitVec.ofInt_add]

end Sys2Proof.Engine

/-! PROOFS. The elements of a step, operands, tiles and scans of the matrix engine (11 R254 to R259, 18 R437). -/

namespace Sys2Proof.Engine

open Sys2Proof Sys2Proof.Machine Sys2Proof.Claims Sys2Proof.Rounding

/-! ### Lists of rows -/

theorem laneIdx_eq : laneIdx = List.range 32 := rfl

theorem map_laneIdx_getD {α : Type} (f : Nat → α) (x : α) {i : Nat} (hi : i < 32) : (laneIdx.map f).getD i x = f i := by
  rw [List.getD_eq_getElem _ _ (by simpa [laneIdx_eq] using hi)]
  simp [laneIdx_eq]

theorem map_range_getD {α : Type} (f : Nat → α) (x : α) {n i : Nat} (hi : i < n) : ((List.range n).map f).getD i x = f i := by
  rw [List.getD_eq_getElem _ _ (by simpa using hi)]
  simp

theorem map_zipIdx_getD {α β : Type} (f : α × Nat → β) (l : List α) (x : β) (y : α) {i : Nat} (hi : i < l.length) :
    (l.zipIdx.map f).getD i x = f (l.getD i y, i) := by
  rw [List.getD_eq_getElem _ _ (by simpa using hi), List.getD_eq_getElem _ _ hi]
  simp

/-- Element (i, j) of rows of n elements, row by row. -/
theorem flatten_getD {α : Type} (n : Nat) (x : α) {j : Nat} (hj : j < n) : ∀ (l : List (List α)) (i : Nat), (∀ r ∈ l, r.length = n) →
    l.flatten.getD (n * i + j) x = (l.getD i []).getD j x
  | [], i, _ => rfl
  | r :: l, 0, h => by
    have hr := h r (List.mem_cons_self ..)
    rw [List.flatten_cons, List.getD_append _ _ _ _ (by omega)]
    simp
  | r :: l, i + 1, h => by
    have hr := h r (List.mem_cons_self ..)
    rw [List.flatten_cons, List.getD_append_right _ _ _ _ (by rw [Nat.mul_add]; omega),
      show n * (i + 1) + j - r.length = n * i + j by rw [Nat.mul_add]; omega,
      flatten_getD n x hj l i fun r hr => h r (List.mem_cons_of_mem _ hr), List.getD_cons_succ]

/-- The q-th piece of n of a list. -/
def piece {α : Type} (n : Nat) (l : List α) (q : Nat) : List α := (l.drop (n * q)).take n

theorem chunks_eq {α : Type} {n : Nat} (hn : 0 < n) : ∀ (m fuel : Nat) (l : List α), l.length = n * m → m ≤ fuel →
    chunks n fuel l = (List.range m).map (piece n l)
  | 0, fuel, l, hl, _ => by
    obtain rfl : l = [] := List.length_eq_zero_iff.mp hl
    cases fuel <;> rfl
  | m + 1, 0, _, _, h => absurd h (by omega)
  | m + 1, fuel + 1, l, hl, h => by
    have hne : l.isEmpty = false := by
      rw [List.isEmpty_eq_false_iff, ← List.length_pos_iff, hl]
      positivity
    rw [chunks, hne, List.range_succ_eq_map, List.map_cons, List.map_map]
    rw [chunks_eq hn m fuel (l.drop n) (by rw [List.length_drop, hl, Nat.mul_add]; omega) (by omega)]
    refine List.cons_eq_cons.mpr ⟨by simp [piece], List.map_congr_left fun q _ => ?_⟩
    unfold piece
    rw [List.drop_drop, Function.comp_apply, Nat.mul_succ, Nat.add_comm n]

/-! ### The elements of a step -/

/-- Groups of an element: the pieces of its row and column with their scales. -/
theorem groups_eq {α : Type} {n m : Nat} (hn : 0 < n) (hm : m ≤ 64) (a b : List α) (ha : a.length = n * m) (hb : b.length = n * m)
    {β : Type} (sc : Nat → β) :
    (((chunks n 64 a).zip (chunks n 64 b)).zipIdx.map fun x => (x.1.1, x.1.2, sc x.2))
      = (List.range m).map fun q => (piece n a q, piece n b q, sc q) := by
  rw [chunks_eq hn m 64 a ha hm, chunks_eq hn m 64 b hb hm]
  refine List.ext_getElem (by simp) fun i h1 h2 => ?_
  simp

/-- The element of a step with a float accumulator, flushed in an affine offset. -/
theorem stepElem_float {t : LType} (ht : t.accInt = false) {m : Nat} (hg : 0 < groupK t) (hm : m ≤ 64) (aff : Bool) (d : Word)
    (a b : List Nat) (fa fb : List FVal) (sa sb : List Nat) (ha : fa.length = groupK t * m) (hb : fb.length = groupK t * m) :
    stepElem t aff d a b fa fb sa sb =
      (let e := accFloat d ((List.range m).map fun q => (piece (groupK t) fa q, piece (groupK t) fb q,
        if t.isMx then some (sa.getD q 127, sb.getD q 127) else none))
       if aff then { e with bits := BitVec.ofNat 32 (fB32.flush true e.bits.toNat) } else e) := by
  unfold stepElem
  rw [if_neg (by simp [ht])]
  dsimp only
  rw [groups_eq hg hm fa fb ha hb fun q => if t.isMx then some (sa.getD q 127, sb.getD q 127) else none]
  rfl

/-- What an operand's element stands for. -/
def elementVal (t : LType) (x : Nat) : FVal :=
  match t.fmt? with
  | some f => f.dec (x % 2 ^ f.width)
  | none => .fin false 0 0

theorem matStep_eq (t : LType) (aff : Bool) (a b : Operand) (d : List Word) :
    matStep t aff a b d = ((a.elems.zip a.scales).zipIdx.map fun r =>
      ((b.elems.zip (b.elems.map fun c => c.map (elementVal t))).zip b.scales).zipIdx.map fun c =>
        stepElem t aff (d.getD (32 * r.2 + c.2) 0) r.1.1 c.1.1.1 (r.1.1.map (elementVal t)) c.1.1.2 r.1.2 c.1.2).flatten := rfl

theorem matStep_getD (t : LType) (aff : Bool) (a b : Operand) (d : List Word) (ha : Operand.ofType t a) (hb : Operand.ofType t b)
    {i j : Nat} (hi : i < 32) (hj : j < 32) :
    (matStep t aff a b d).getD (32 * i + j) { bits := 0 } =
      stepElem t aff (d.getD (32 * i + j) 0) (a.elems.getD i []) (b.elems.getD j []) ((a.elems.getD i []).map (elementVal t))
        ((b.elems.getD j []).map (elementVal t)) (a.scales.getD i []) (b.scales.getD j []) := by
  obtain ⟨hae, has, -⟩ := ha
  obtain ⟨hbe, hbs, -⟩ := hb
  rw [matStep_eq, flatten_getD 32 _ hj]
  · have hrow : ((a.elems.zip a.scales).getD i ([], [])) = (a.elems.getD i [], a.scales.getD i []) :=
      zip_getD _ _ _ _ (by omega) i (by omega)
    have hcol : ((b.elems.zip (b.elems.map fun c => c.map (elementVal t))).zip b.scales).getD j (([], []), [])
        = ((b.elems.getD j [], (b.elems.getD j []).map (elementVal t)), b.scales.getD j []) := by
      rw [zip_getD _ _ _ _ (by simp; omega) j (by simp; omega), zip_getD _ _ _ _ (by simp) j (by omega)]
      rw [List.getD_eq_getElem (b.elems.map _) _ (by simp; omega), List.getD_eq_getElem b.elems _ (by omega), List.getElem_map]
    rw [map_zipIdx_getD _ _ _ ([], []) (by simp; omega), hrow]
    dsimp only
    rw [map_zipIdx_getD _ _ _ (([], []), []) (by simp; omega), hcol]
  · intro r hr
    obtain ⟨x, -, rfl⟩ := List.mem_map.mp hr
    simp
    omega

theorem engineFloats_sound : ∀ x ∈ engineFloats, x.1.fmt? = some x.2 ∧ x.1.accInt = false ∧ 0 < groupK x.1
    ∧ groupK x.1 * (stepK x.1 / groupK x.1) = stepK x.1 ∧ stepK x.1 / groupK x.1 ≤ 64 := by decide

/-- A row of an operand has a step's length. -/
theorem row_length {t : LType} {a : Operand} (ha : Operand.ofType t a) {i : Nat} (hi : i < 32) : (a.elems.getD i []).length = stepK t := by
  obtain ⟨hl, -, hr⟩ := ha
  rw [List.getD_eq_getElem _ _ (by omega)]
  exact hr _ (List.getElem_mem _)

theorem matStep_stepElements (x : LType × Fmt) (hx : x ∈ engineFloats) (aff : Bool) (a b : Operand) (d : List Word)
    (ha : Operand.ofType x.1 a) (hb : Operand.ofType x.1 b) : stepElements x.1 x.2 aff a b d := by
  obtain ⟨hf, hi, hg, hk, hm⟩ := engineFloats_sound x hx
  intro i j h1 h2
  have hv : elementVal x.1 = fun y => x.2.dec (y % 2 ^ x.2.width) := by
    funext y
    unfold elementVal
    rw [hf]
  dsimp only
  rw [matStep_getD x.1 aff a b d ha hb h1 h2, hv]
  exact stepElem_float hi hg hm aff _ _ _ _ _ _ _ (by rw [List.length_map, row_length ha h1, hk])
    (by rw [List.length_map, row_length hb h2, hk])

theorem matStep_accInt {t : LType} (ht : t.accInt = true) (aff : Bool) (a b : Operand) (d : List Word)
    (ha : Operand.ofType t a) (hb : Operand.ofType t b) {i j : Nat} (hi : i < 32) (hj : j < 32) :
    (matStep t aff a b d).getD (32 * i + j) { bits := 0 } =
      accInt t (d.getD (32 * i + j) 0) (a.elems.getD i []) (b.elems.getD j []) ((a.scales.getD i []).getD 0 0)
        ((b.scales.getD j []).getD 0 0) := by
  rw [matStep_getD t aff a b d ha hb hi hj]
  exact if_pos ht

/-! ### Operands -/

theorem fieldOf_congr {bs bs' : List Byte} : ∀ (n : Nat) {i i' : Nat}, (∀ k < n, bs.getD (i + k) 0 = bs'.getD (i' + k) 0) →
    fieldOf bs i n = fieldOf bs' i' n
  | 0, _, _, _ => rfl
  | n + 1, i, i', h => by
    have h0 : bs.getD i 0 = bs'.getD i' 0 := h 0 (by omega)
    have ih : fieldOf bs (i + 1) n = fieldOf bs' (i' + 1) n := fieldOf_congr n fun k hk => by
      rw [Nat.add_right_comm, Nat.add_right_comm i']
      exact h (k + 1) (by omega)
    rw [fieldOf, fieldOf, h0, ih]

/-- A field within a piece of a list. -/
theorem fieldOf_take_drop (bs : List Byte) (p m i n : Nat) (h : i + n ≤ m) : fieldOf ((bs.drop p).take m) i n = fieldOf bs (p + i) n := by
  refine fieldOf_congr n fun k hk => ?_
  simp only [List.getD_eq_getElem?_getD]
  rw [List.getElem?_take_of_lt (by omega), List.getElem?_drop, Nat.add_assoc]

/-- The types of a step. -/
def StepType (t : LType) : Prop := t = .mxi8 ∨ t = .i8x4 ∨ t = .n8x4 ∨ ∃ x ∈ engineFloats, x.1 = t

/-- An element of operand B lies within its row of 32. -/
theorem elements_within {t : LType} (ht : StepType t) : ∀ i < 32, i * tenW t / 8 + (tenW t + 7) / 8 ≤ 4 * tenW t := by
  have h : ∀ x ∈ engineFloats, ∀ i < 32, i * tenW x.1 / 8 + (tenW x.1 + 7) / 8 ≤ 4 * tenW x.1 := by decide
  rcases ht with rfl | rfl | rfl | ⟨x, hx, rfl⟩
  · decide
  · decide
  · decide
  · exact h x hx

theorem operandA_spec (t : LType) (rows : List Lanes) (scales : Lanes) {i : Nat} (hi : i < 32) :
    (∀ k < stepK t, ((operandA t rows scales).elems.getD i []).getD k 0
      = (laneAt (rows.getD (k * tenW t / 32) []) i).toNat / 2 ^ (k * tenW t % 32) % 2 ^ tenW t)
    ∧ ∀ q < scaleBlocks t, ((operandA t rows scales).scales.getD i []).getD q 0 = (laneAt scales i).toNat / 2 ^ (8 * q) % 256 := by
  unfold operandA
  dsimp only
  rw [map_laneIdx_getD _ _ hi, map_laneIdx_getD _ _ hi]
  exact ⟨fun k hk => map_range_getD _ _ hk, fun q hq => map_range_getD _ _ hq⟩

theorem operandB_spec {t : LType} (ht : StepType t) (bs : List Byte) {i : Nat} (hi : i < 32) :
    (∀ k < stepK t, ((operandB t bs).elems.getD i []).getD k 0
      = fieldOf bs ((32 * k + i) * tenW t / 8) ((tenW t + 7) / 8) / 2 ^ ((32 * k + i) * tenW t % 8) % 2 ^ tenW t)
    ∧ ∀ q < scaleBlocks t, ((operandB t bs).scales.getD i []).getD q 0 = (bs.getD (bBytes t + 32 * q + i) 0).toNat := by
  unfold operandB
  dsimp only
  rw [map_laneIdx_getD _ _ hi, map_laneIdx_getD _ _ hi]
  refine ⟨fun k hk => ?_, fun q hq => ?_⟩
  · rw [List.map_map, map_range_getD _ _ hk, Function.comp_apply, map_laneIdx_getD _ _ hi]
    unfold packedElem
    have hw : (32 * k + i) * tenW t = i * tenW t + 8 * (4 * tenW t * k) := by ring
    rw [fieldOf_take_drop _ _ _ _ _ (elements_within ht i hi), hw, Nat.add_mul_div_left _ _ (by decide), Nat.add_mul_mod_self_left,
      Nat.add_comm (i * tenW t / 8)]
  · rw [map_range_getD _ _ hq]
    simp only [List.getD_eq_getElem?_getD]
    rw [List.getElem?_drop, Nat.add_assoc]

/-! ### Tiles and scans -/

theorem accumulate_spec (tile : Tile) (k : TileKind) (es : List Elem) :
    let t := tile.accumulate k es
    t.data = es.map (·.bits) ∧ t.valid = true ∧ t.dirty = true ∧ t.kind = k
      ∧ t.nv = (tile.nv || es.any (·.nv)) ∧ t.of = (tile.of || es.any (·.of))
      ∧ t.ovf = (tile.ovf || es.any (·.ovf)) ∧ t.ix = (tile.ix || es.any (·.ix)) :=
  ⟨rfl, rfl, rfl, rfl, rfl, rfl, rfl, rfl⟩

/-- The rows of a channel with their start marks, after n levels. -/
def level (rows : List (Word × Word)) (mask : Word) : Nat → List (Aff × Bool)
  | 0 => rows.zipIdx.map fun x => ({ g := x.1.1, o := x.1.2 }, mask.getLsbD x.2)
  | n + 1 => scanAt (level rows mask n) (2 ^ n)

theorem level_length (rows : List (Word × Word)) (mask : Word) : ∀ n, (level rows mask n).length = rows.length
  | 0 => by simp [level]
  | n + 1 => by
    rw [level, ← level_length rows mask n]
    simp [scanAt]

theorem scanAt_getD (p : List (Aff × Bool)) (d : Nat) (y : Aff × Bool) {i : Nat} (hi : i < p.length) :
    (scanAt p d).getD i y =
      if d ≤ i ∧ (p.getD i y).2 = false then (compose (p.getD i y).1 (p.getD (i - d) y).1, (p.getD (i - d) y).2) else p.getD i y := by
  unfold scanAt
  rw [map_zipIdx_getD _ p y y hi]
  dsimp only
  have hd : ∀ z, p.getD (i - d) z = p.getD (i - d) y := fun z => by
    rw [List.getD_eq_getElem _ _ (by omega), List.getD_eq_getElem _ _ (by omega)]
  rw [hd]

theorem scanChannel_scans (rows : List (Word × Word)) (mask : Word) (carry : Word × Word) (h : rows.length = 32) :
    scans rows mask carry := by
  refine ⟨fun n i => (level rows mask n).getD i ({ g := 0, o := 0 }, false), fun i hi => ?_, fun n i _ hi => ?_, fun i hi => ?_⟩
  · exact map_zipIdx_getD _ rows _ (0, 0) (by omega)
  · exact scanAt_getD _ _ _ (by rw [level_length]; omega)
  · have hl := level_length rows mask 5
    change ((level rows mask 5).map fun x => if x.2 then x.1 else compose x.1 { g := carry.1, o := carry.2 })[i]? = _
    have hg : (level rows mask 5)[i]? = some ((level rows mask 5).getD i ({ g := 0, o := 0 }, false)) := by
      rw [List.getElem?_eq_getElem (by omega), List.getD_eq_getElem _ _ (by omega)]
    rw [List.getElem?_map, hg]
    rfl

theorem scanPair_getD (g o : List Word) (mask : Word) (c : List (Word × Word)) {j : Nat} (hj : j < 32) :
    (scanPair g o mask c).getD j [] = scanChannel ((List.range 32).map fun r => (g.getD (32 * r + j) 0, o.getD (32 * r + j) 0)) mask
      (c.getD j (0x3F800000, 0)) :=
  map_laneIdx_getD _ _ hj

theorem fromChannels_getD (f : Aff → Word) (chans : List (List Aff)) (h : chans.length = 32) {i j : Nat} (hi : i < 32) (hj : j < 32) :
    (fromChannels f chans).getD (32 * i + j) 0 = (((chans.getD j [])[i]?.map f).getD 0) := by
  unfold fromChannels
  rw [flatten_getD 32 _ hj]
  · rw [map_laneIdx_getD _ _ hi, List.getD_eq_getElem _ _ (by simp; omega), List.getElem_map, List.getD_eq_getElem _ _ (by omega)]
    cases (chans[j])[i]? <;> rfl
  · intro r hr
    obtain ⟨x, -, rfl⟩ := List.mem_map.mp hr
    simpa using h

end Sys2Proof.Engine

/-! PROOFS. Passes, steps, transfers, hangs and resets of the matrix engine (11 R244, R250, R263, R264, 18 R434, R435). -/

namespace Sys2Proof.Engine

open Sys2Proof Sys2Proof.Machine Sys2Proof.Claims Sys2Proof.Rounding

/-! ### Passes -/

/-- An array of an engine is free. -/
def arrayFree (ops : List MOp) (a : Nat) : Prop := a < 4 ∧ ∀ m ∈ ops, m.array ≠ some a

theorem arrayFree_iff (ops : List MOp) (a : Nat) : arrayFree ops a ↔ a ∈ List.range 4 ∧ (!(ops.any fun m => m.array == some a)) = true := by
  simp [arrayFree]

theorem findArray_none {ops : List MOp} (h : ¬ ∃ a, arrayFree ops a) :
    ((List.range 4).find? fun a => !(ops.any fun m => m.array == some a)) = none :=
  List.find?_eq_none.mpr fun a ha hp => h ⟨a, (arrayFree_iff ops a).mpr ⟨ha, hp⟩⟩

theorem findArray_some {ops : List MOp} {a : Nat} (h : arrayFree ops a) (hmin : ∀ b < a, ¬ arrayFree ops b) :
    ((List.range 4).find? fun a => !(ops.any fun m => m.array == some a)) = some a := by
  obtain ⟨hmem, hp⟩ := (arrayFree_iff ops a).mp h
  refine List.find?_range_eq_some.mpr ⟨hp, hmem, fun b hb => ?_⟩
  have hb4 : b ∈ List.range 4 := List.mem_range.mpr (hb.trans (List.mem_range.mp hmem))
  by_contra hp'
  exact hmin b hb ((arrayFree_iff ops b).mpr ⟨hb4, by simpa using hp'⟩)

section
variable (s : State)

theorem matrixPassGrant_spec :
    let cl := s.arg.cluster
    let ops := engineOps s cl
    let cands := ops.filter fun m => runsSteps m.instr && m.array.isNone && mopReady s m
    ((¬ ∃ a, arrayFree ops a) → still .matrixPassGrant s)
    ∧ ∀ a, arrayFree ops a → (∀ b < a, ¬ arrayFree ops b) →
        (cands = [] → still .matrixPassGrant s)
        ∧ ∀ m, bestMop s cands = some m → exec .matrixPassGrant s = .next (observe
            (modMop s m.id fun m => { m with granted := Nat.min 16 (stepsLeft m), array := some a }) m.squad
            fun e => m.held.contains e.op) := by
  refine ⟨fun h => ?_, fun a ha hmin => ⟨fun h => ?_, fun m hm => ?_⟩⟩
  · change execMatrixPassGrant s = .next s
    rw [execMatrixPassGrant]
    dsimp only
    rw [findArray_none h]
  · change execMatrixPassGrant s = .next s
    rw [execMatrixPassGrant]
    dsimp only
    rw [findArray_some ha hmin]
    dsimp only
    rw [h]
    rfl
  · change execMatrixPassGrant s = _
    rw [execMatrixPassGrant]
    dsimp only
    rw [findArray_some ha hmin]
    dsimp only
    rw [hm]
    rfl

/-! ### Steps and transfers -/

theorem matrixStepComplete_spec (m : MOp)
    (hf : (s.mops.find? fun m => m.id == s.arg.id && decide (0 < m.granted) && m.parked.isNone) = some m) (q : Squad)
    (hq : squadAny s m.squad = some q) :
    (isLost q m.instr = true → exec .matrixStepComplete s = .next (mopError s m 5 0))
    ∧ (isLost q m.instr = false →
      (∀ o, m.instr = .mma o → exec .matrixStepComplete s = .next (mmaStep s m o q.team))
      ∧ (∀ o l, m.instr = .mml o → m.loop = some l → exec .matrixStepComplete s = .next (mmlStep s m o l))
      ∧ ∀ o, m.instr = .scan o → exec .matrixStepComplete s = .next (scanStep s m o)) := by
  change (_ → execMatrixStepComplete s = _) ∧ (_ → (∀ o, _ → execMatrixStepComplete s = _)
    ∧ (∀ o l, _ → _ → execMatrixStepComplete s = _) ∧ ∀ o, _ → execMatrixStepComplete s = _)
  rw [execMatrixStepComplete, hf]
  dsimp only
  rw [hq]
  dsimp only
  refine ⟨fun h => by rw [if_pos h], fun h => ?_⟩
  rw [if_neg (Bool.eq_false_iff.mp h)]
  refine ⟨fun o ho => by rw [ho], fun o l ho hl => by rw [ho, hl], fun o ho => by rw [ho]⟩

theorem transferPortComplete_spec (m : MOp)
    (hf : (s.mops.find? fun m => m.id == s.arg.id && !runsSteps m.instr && mopReady s m) = some m) :
    let s1 := observe s m.squad fun e => m.held.contains e.op
    ∀ q, squadAny s1 m.squad = some q →
      (endsLost q m.instr = true → exec .transferPortComplete s = .next (mopError s1 m 5 0))
      ∧ (endsLost q m.instr = false → exec .transferPortComplete s = .next (transfer s1 m q)) := by
  intro s1 q hq
  change (_ → execTransferPortComplete s = _) ∧ (_ → execTransferPortComplete s = _)
  have hq' : squadAny (leaveBoard s m) m.squad = some q := hq
  rw [execTransferPortComplete, hf]
  dsimp only
  rw [hq']
  dsimp only
  exact ⟨fun h => by rw [if_pos h]; rfl, fun h => by rw [if_neg (Bool.eq_false_iff.mp h)]; rfl⟩

/-! ### Hangs and reset -/

theorem engineHang_spec :
    let cl := s.arg.cluster
    let ms := (getDie s (dieOfCluster cl)).mewdt.toNat
    exec .engineHang s = .next
      (if ms ≠ 0 ∧ engineOps s cl ≠ [] ∧ (getCluster s cl).lastToken + ms * 1000000 ≤ s.timeNs.toNat
       then modCluster s cl fun c => { c with hung := true } else s) := by
  change execEngineHang s = _
  unfold execEngineHang
  refine congrArg Host.Outcome.next (if_congr ?_ rfl rfl)
  simp

theorem engineReset_spec :
    let cl := s.arg.cluster
    ((getCluster s cl).hung = false → still .engineReset s)
    ∧ ((getCluster s cl).hung = true → exec .engineReset s = .next
       (modCluster ((engineOps s cl).foldl (fun s m => mopError s m 5 0)
         ((engineSquads s cl).foldl (fun s x => modSquad s x.1 (loseTiles (lrOf s x.2.team))) s)) cl
         fun c => { c with hung := false })) := by
  change (_ → execEngineReset s = _) ∧ (_ → execEngineReset s = _)
  unfold execEngineReset
  exact ⟨fun h => congrArg Host.Outcome.next (if_neg (Bool.eq_false_iff.mp h)), fun h => congrArg Host.Outcome.next (if_pos h)⟩

end

/-- The elements of a step into integer accumulators. -/
theorem integerStep {t : LType} (ht : t = .i8x4 ∨ t = .n8x4 ∨ t = .mxi8) (aff : Bool) (a b : Operand) (d : List Word)
    (ha : Operand.ofType t a) (hb : Operand.ofType t b) (hae : ∀ r ∈ a.elems, ∀ x ∈ r, x < 256) (hbe : ∀ r ∈ b.elems, ∀ x ∈ r, x < 256)
    {i j : Nat} (hi : i < 32) (hj : j < 32) :
    (matStep t aff a b d).getD (32 * i + j) { bits := 0 } = accInt t (d.getD (32 * i + j) 0) (a.elems.getD i []) (b.elems.getD j [])
        ((a.scales.getD i []).getD 0 0) ((b.scales.getD j []).getD 0 0)
      ∧ accumulatesInt t (d.getD (32 * i + j) 0) (a.elems.getD i []) (b.elems.getD j [])
        ((a.scales.getD i []).getD 0 0) ((b.scales.getD j []).getD 0 0) := by
  have hint : t.accInt = true := by rcases ht with rfl | rfl | rfl <;> rfl
  have row (c : Operand) (hc : Operand.ofType t c) {k : Nat} (hk : k < 32) : c.elems.getD k [] ∈ c.elems := by
    rw [List.getD_eq_getElem _ _ (by rw [hc.1]; exact hk)]
    exact List.getElem_mem _
  exact ⟨matStep_accInt hint aff a b d ha hb hi hj, accInt_accumulatesInt t _ _ _ _ _
    ((row_length ha hi).trans (row_length hb hj).symm) (hae _ (row a ha hi)) (hbe _ (row b hb hj))⟩

/-- Settles O29: the events by cases of what they name; the numbers are the exact ones, rounded once. -/
theorem engineEvents : Obligations.EngineEvents := by
  refine fun s => ⟨matrixPassGrant_spec s, matrixStepComplete_spec s, transferPortComplete_spec s, engineHang_spec s, engineReset_spec s,
    groupSum_groupSums, accFloat_accumulates, fun t ht aff a b d ha hb hae hbe i j hi hj => ?_,
    matStep_stepElements, fun t ht rows scales bs i k hi hk _ => ?_, accumulate_spec, compose_composes, scanChannel_scans,
    fun g o mask c i j hi hj => ?_⟩
  · exact integerStep (by simpa using ht) aff a b d ha hb hae hbe hi hj
  · obtain ⟨hae, has⟩ := operandA_spec t rows scales hi
    obtain ⟨hbe, hbs⟩ := operandB_spec ht bs hi
    exact ⟨hae k hk, hbe k hk, fun q hq => ⟨hbs q hq, has q hq⟩⟩
  · have hl : (scanPair g o mask c).length = 32 := by simp [scanPair, laneIdx_eq]
    exact ⟨scanPair_getD g o mask c hj, fromChannels_getD _ _ hl hi hj, fromChannels_getD _ _ hl hi hj⟩

end Sys2Proof.Engine

/-! PROOFS. Lane integers of one element (16 R377, R379): what the ALU computes on naturals, as operations on words. -/

namespace Sys2Proof.LaneIntegers

open Sys2Proof Sys2Proof.Machine Sys2Proof.Claims Sys2Proof.SpineIntegers

/-! ### Types of one element -/

theorem elemAt_zero (w x : Nat) : elemAt w 0 x = x % 2 ^ w := by simp [elemAt]

theorem mapElems_one (w : Nat) (f : Nat → Nat) : mapElems w f 1 = (BitVec.ofNat w (f 0)).toNat := by simp [mapElems]

section
variable {t : LType} (hc : t.count = 1)
include hc

theorem elem1_word (f : Nat → Nat) (a : BitVec t.elemW) : elem1 t f a.toNat = (BitVec.ofNat t.elemW (f a.toNat)).toNat := by
  rw [elem1, hc, mapElems_one, elemAt_zero, Nat.mod_eq_of_lt a.isLt]

theorem elem2_word (f : Nat → Nat → Nat) (a b : BitVec t.elemW) :
    elem2 t f a.toNat b.toNat = (BitVec.ofNat t.elemW (f a.toNat b.toNat)).toNat := by
  rw [elem2, hc, mapElems_one, elemAt_zero, elemAt_zero, Nat.mod_eq_of_lt a.isLt, Nat.mod_eq_of_lt b.isLt]

theorem elem3_word (f : Nat → Nat → Nat → Nat) (a b c : BitVec t.elemW) :
    elem3 t f a.toNat b.toNat c.toNat = (BitVec.ofNat t.elemW (f a.toNat b.toNat c.toNat)).toNat := by
  rw [elem3, hc, mapElems_one, elemAt_zero, elemAt_zero, elemAt_zero, Nat.mod_eq_of_lt a.isLt, Nat.mod_eq_of_lt b.isLt,
    Nat.mod_eq_of_lt c.isLt]

end

theorem elemW_pos (t : LType) : 0 < t.elemW := by cases t <;> decide

theorem ext_signed {t : LType} (h : t.signed = true) (a : BitVec t.elemW) : t.ext a.toNat = a.toInt := by
  rw [LType.ext, if_pos h, sxNat_toNat (elemW_pos t)]

theorem ext_natural {t : LType} (h : t.signed = false) (a : BitVec t.elemW) : t.ext a.toNat = a.toNat := by
  rw [LType.ext, if_neg (Bool.eq_false_iff.mp h), Nat.mod_eq_of_lt a.isLt]

theorem ofInt_ext (t : LType) (a : BitVec t.elemW) : BitVec.ofInt t.elemW (t.ext a.toNat) = a := by
  cases h : t.signed
  · rw [ext_natural h, BitVec.ofInt_natCast, ofNat_toNat_self]
  · rw [ext_signed h, BitVec.ofInt_toInt]

theorem ofNat_fit (t : LType) (sat : Bool) (x : Int) :
    BitVec.ofNat t.elemW (t.fit sat x) = BitVec.ofInt t.elemW (if sat then clampInt t.minInt t.maxInt x else x) :=
  ofNat_toBits _ _

/-! ### Clamped results -/

/-- A result that is clamped to a signed type. -/
theorem clamp_signed {t : LType} (h : t.signed = true) (x : Int) :
    BitVec.ofInt t.elemW (clampInt t.minInt t.maxInt x) =
      if x < -(2 ^ (t.elemW - 1)) then BitVec.ofInt t.elemW (-(2 ^ (t.elemW - 1)))
      else if 2 ^ (t.elemW - 1) ≤ x then BitVec.ofInt t.elemW (2 ^ (t.elemW - 1) - 1) else BitVec.ofInt t.elemW x := by
  have hmin : t.minInt = -(2 ^ (t.elemW - 1)) := by simp [LType.minInt, h]
  have hmax : t.maxInt = 2 ^ (t.elemW - 1) - 1 := by simp [LType.maxInt, h]
  rw [clampInt, hmin, hmax]
  split
  · rfl
  · by_cases hx : 2 ^ (t.elemW - 1) ≤ x
    · rw [if_pos (by omega), if_pos hx]
    · rw [if_neg (by omega), if_neg hx]

/-- A result that is clamped to a natural type. -/
theorem clamp_natural {t : LType} (h : t.signed = false) (x : Int) :
    BitVec.ofInt t.elemW (clampInt t.minInt t.maxInt x) =
      if x < 0 then 0 else if ((2 ^ t.elemW : Nat) : Int) ≤ x then BitVec.allOnes t.elemW else BitVec.ofInt t.elemW x := by
  have hmin : t.minInt = 0 := by simp [LType.minInt, h]
  have hmax : t.maxInt = ((2 ^ t.elemW : Nat) : Int) - 1 := by simp [LType.maxInt, h]
  rw [clampInt, hmin, hmax]
  split
  · simp
  · by_cases hx : ((2 ^ t.elemW : Nat) : Int) ≤ x
    · rw [if_pos (by omega), if_pos hx, ← ofNat_ones, ← BitVec.ofInt_natCast, Nat.cast_sub Nat.one_le_two_pow, Nat.cast_one]
    · rw [if_neg (by omega), if_neg hx]

theorem add_lt_left_iff {n : Nat} (a b : BitVec n) : a + b < a ↔ 2 ^ n ≤ a.toNat + b.toNat := by
  have ha := a.isLt
  have hb := b.isLt
  rw [BitVec.lt_def, BitVec.toNat_add]
  rcases Nat.lt_or_ge (a.toNat + b.toNat) (2 ^ n) with h | h
  · rw [Nat.mod_eq_of_lt h]
    omega
  · rw [Nat.mod_eq_sub_mod h, Nat.mod_eq_of_lt (by omega)]
    omega

/-! ### Arithmetic -/

section
variable {t : LType} (hc : t.count = 1) (a b c : BitVec t.elemW)
include hc

theorem aluAdd_wrap : aluAdd t false a.toNat b.toNat = (a + b).toNat := by
  rw [aluAdd, elem2_word hc, ofNat_fit, if_neg (by decide), BitVec.ofInt_add, ofInt_ext, ofInt_ext]

theorem aluSub_wrap : aluSub t false a.toNat b.toNat = (a - b).toNat := by
  rw [aluSub, elem2_word hc, ofNat_fit, if_neg (by decide), Int.sub_eq_add_neg, BitVec.ofInt_add, BitVec.ofInt_neg, ofInt_ext, ofInt_ext,
    BitVec.sub_eq_add_neg]

theorem aluAdd_sat_signed (h : t.signed = true) : aluAdd t true a.toNat b.toNat = (satAddI a b).toNat := by
  rw [aluAdd, elem2_word hc, ofNat_fit, if_pos rfl, ext_signed h, ext_signed h, clamp_signed h, BitVec.ofInt_add, BitVec.ofInt_toInt,
    BitVec.ofInt_toInt]
  rfl

theorem aluSub_sat_signed (h : t.signed = true) : aluSub t true a.toNat b.toNat = (satSubI a b).toNat := by
  have hsub : BitVec.ofInt t.elemW (a.toInt - b.toInt) = a - b := by
    rw [Int.sub_eq_add_neg, BitVec.ofInt_add, BitVec.ofInt_neg, BitVec.ofInt_toInt, BitVec.ofInt_toInt, BitVec.sub_eq_add_neg]
  rw [aluSub, elem2_word hc, ofNat_fit, if_pos rfl, ext_signed h, ext_signed h, clamp_signed h, hsub]
  rfl

theorem aluAdd_sat_natural (h : t.signed = false) :
    aluAdd t true a.toNat b.toNat = (if a + b < a then BitVec.allOnes t.elemW else a + b).toNat := by
  rw [aluAdd, elem2_word hc, ofNat_fit, if_pos rfl, ext_natural h, ext_natural h, clamp_natural h, if_neg (by omega)]
  congr 1
  refine if_congr ?_ rfl ?_
  · rw [add_lt_left_iff]
    omega
  · rw [BitVec.ofInt_add, BitVec.ofInt_natCast, BitVec.ofInt_natCast, ofNat_toNat_self, ofNat_toNat_self]

theorem aluSub_sat_natural (h : t.signed = false) : aluSub t true a.toNat b.toNat = (if a < b then 0 else a - b).toNat := by
  have ha := a.isLt
  rw [aluSub, elem2_word hc, ofNat_fit, if_pos rfl, ext_natural h, ext_natural h, clamp_natural h]
  congr 1
  refine if_congr ?_ rfl ?_
  · rw [BitVec.lt_def]
    omega
  · rw [if_neg (by omega), Int.sub_eq_add_neg, BitVec.ofInt_add, BitVec.ofInt_neg, BitVec.ofInt_natCast, BitVec.ofInt_natCast,
      ofNat_toNat_self, ofNat_toNat_self, BitVec.sub_eq_add_neg]

theorem aluMul_word : aluMul t a.toNat b.toNat = (a * b).toNat := by
  rw [aluMul, elem2_word hc, ← BitVec.toNat_mul, ofNat_toNat_self]

theorem aluMad_word : aluMad t a.toNat b.toNat c.toNat = (a * b + c).toNat := by
  rw [aluMad, elem3_word hc, BitVec.toNat_ofNat, Nat.mod_mod, BitVec.toNat_add, BitVec.toNat_mul, Nat.mod_add_mod]

theorem aluMin_signed (h : t.signed = true) : aluMinMax t false a.toNat b.toNat = (if a.sle b then a else b).toNat := by
  rw [aluMinMax, elem2_word hc, ext_signed h, ext_signed h, apply_ite (BitVec.ofNat t.elemW), ofNat_toNat_self, ofNat_toNat_self]
  simp [BitVec.sle]

theorem aluMax_signed (h : t.signed = true) : aluMinMax t true a.toNat b.toNat = (if a.sle b then b else a).toNat := by
  rw [aluMinMax, elem2_word hc, ext_signed h, ext_signed h, apply_ite (BitVec.ofNat t.elemW), ofNat_toNat_self, ofNat_toNat_self]
  by_cases hab : a.toInt ≤ b.toInt <;> simp [BitVec.sle, hab]

theorem aluMin_natural (h : t.signed = false) : aluMinMax t false a.toNat b.toNat = (if a.ule b then a else b).toNat := by
  rw [aluMinMax, elem2_word hc, ext_natural h, ext_natural h, apply_ite (BitVec.ofNat t.elemW), ofNat_toNat_self, ofNat_toNat_self]
  simp [BitVec.ule]

theorem aluMax_natural (h : t.signed = false) : aluMinMax t true a.toNat b.toNat = (if a.ule b then b else a).toNat := by
  rw [aluMinMax, elem2_word hc, ext_natural h, ext_natural h, apply_ite (BitVec.ofNat t.elemW), ofNat_toNat_self, ofNat_toNat_self]
  by_cases hab : a.toNat ≤ b.toNat <;> simp [BitVec.ule, hab]

omit hc in
/-- The magnitude of a word. -/
theorem ofInt_natAbs : BitVec.ofInt t.elemW (a.toInt.natAbs : Int) = if a.msb then -a else a := by
  rcases le_or_gt 0 a.toInt with h | h
  · rw [BitVec.msb_eq_toInt, if_neg (by simpa using h), Int.natAbs_of_nonneg h, BitVec.ofInt_toInt]
  · rw [BitVec.msb_eq_toInt, if_pos (by simpa using h), Int.ofNat_natAbs_of_nonpos h.le, BitVec.ofInt_neg, BitVec.ofInt_toInt]

theorem aluAbs_wrap (h : t.signed = true) : aluAbs t false a.toNat = (if a.msb then -a else a).toNat := by
  rw [aluAbs, elem1_word hc, ofNat_fit, if_neg (by decide), ext_signed h, ofInt_natAbs]

/-- The magnitude is in range unless the word is the least one. -/
theorem aluAbs_sat_of_ne (h : t.signed = true) (hne : a.toInt ≠ -2 ^ (t.elemW - 1)) : aluAbs t true a.toNat = aluAbs t false a.toNat := by
  have hi := BitVec.toInt_lt (x := a)
  have hl := BitVec.le_toInt (x := a)
  have hp : (0 : Int) < 2 ^ (t.elemW - 1) := by positivity
  rw [aluAbs, aluAbs, elem1_word hc, elem1_word hc, ofNat_fit, ofNat_fit, if_pos rfl, if_neg (by decide), ext_signed h, clamp_signed h,
    if_neg (by omega), if_neg (by omega)]

/-! ### Logic and shifts -/

theorem aluShl_word (n : Nat) : aluShl t a.toNat n = (a <<< (n % t.elemW)).toNat := by
  rw [aluShl, elem1_word hc, ← Nat.shiftLeft_eq, ← BitVec.toNat_shiftLeft, ofNat_toNat_self]

theorem aluShr_word (n : Nat) : aluShr t a.toNat n = (a >>> (n % t.elemW)).toNat := by
  rw [aluShr, elem1_word hc, ← Nat.shiftRight_eq_div_pow, ← BitVec.toNat_ushiftRight, ofNat_toNat_self]

theorem aluSar_word (n : Nat) : aluSar t a.toNat n = (a.sshiftRight (n % t.elemW)).toNat := by
  rw [aluSar, elem1_word hc, ofNat_toBits, sxNat_toNat (elemW_pos t), ← Int.shiftRight_eq_div_pow]
  rfl

end

theorem aluAndn_word {n : Nat} (a b : BitVec n) : aluAndn n a.toNat b.toNat = (a &&& ~~~b).toNat := by
  rw [aluAndn, Nat.mod_eq_of_lt b.isLt, BitVec.toNat_and, BitVec.toNat_not]

end Sys2Proof.LaneIntegers

/-! PROOFS. The forms of 16 R377 and R379 at 32 and 64 bits. -/

namespace Sys2Proof.LaneIntegers

open Sys2Proof Sys2Proof.Machine Sys2Proof.Claims Sys2Proof.SpineIntegers

/-! ### 64-bit forms -/

theorem int64Table_computes : ∀ r ∈ int64Table, ∀ a b : BitVec 64, r.1 a.toNat b.toNat = (r.2 a b).toNat := by
  have hi : LType.i64.count = 1 := rfl
  have hn : LType.n64.count = 1 := rfl
  simp only [int64Table, List.forall_mem_cons]
  exact ⟨aluAdd_wrap hi, aluAdd_wrap hn, fun a b => aluAdd_sat_signed hi a b rfl, fun a b => aluAdd_sat_natural hn a b rfl,
    aluSub_wrap hi, aluSub_wrap hn, fun a b => aluSub_sat_signed hi a b rfl, fun a b => aluSub_sat_natural hn a b rfl,
    aluMul_word hi, aluMul_word hn, fun a b => aluMin_signed hi a b rfl, fun a b => aluMin_natural hn a b rfl,
    fun a b => aluMax_signed hi a b rfl, fun a b => aluMax_natural hn a b rfl, fun a _ => aluAbs_wrap hi a rfl,
    aluAndn_word, fun a b => aluShl_word hn a b.toNat, fun a b => aluShr_word hn a b.toNat, fun a b => aluSar_word hn a b.toNat,
    fun r hr => absurd hr List.not_mem_nil⟩

/-! ### Sums and products at 32 bits -/

theorem aluAddx_sum (a b c : BitVec 32) : aluAddx false a.toNat b.toNat c.toNat = (a + b + (c &&& 1)).toNat := by
  have hc : (c &&& 1).toNat = c.toNat % 2 := Nat.and_one_is_mod _
  rw [BitVec.toNat_add, BitVec.toNat_add, hc, Nat.mod_add_mod]
  rfl

theorem aluAddx_carry (a b c : BitVec 32) :
    aluAddx true a.toNat b.toNat c.toNat = (if 2 ^ 32 ≤ a.toNat + b.toNat + c.toNat % 2 then 1 else 0 : BitVec 32).toNat := by
  have ha := a.isLt
  have hb := b.isLt
  change (a.toNat + b.toNat + c.toNat % 2) / 2 ^ 32 = _
  split
  · next h =>
    change _ = 1
    omega
  · next h =>
    change _ = 0
    omega

theorem toNat_ofNat_toBits (w : Nat) (x : Int) : (BitVec.ofNat w (toBits w x)).toNat = toBits w x := by
  rw [ofNat_toBits, BitVec.toNat_ofInt, toBits]

theorem aluMulhi_signed (a b : BitVec 32) :
    aluMulhi .i32 a.toNat b.toNat = ((a.signExtend 64 * b.signExtend 64).extractLsb' 32 32).toNat := by
  have h : BitVec.ofNat 32 (spineOp .mulh 32 a.toNat b.toNat) = _ := computes_mulh 32 (by decide) a b
  rw [show (a.signExtend 64 * b.signExtend 64).extractLsb' 32 32 = _ from h.symm]
  exact (toNat_ofNat_toBits 32 _).symm

theorem aluMulhi_natural (a b : BitVec 32) :
    aluMulhi .n32 a.toNat b.toNat = ((a.setWidth 64 * b.setWidth 64).extractLsb' 32 32).toNat := by
  have hp : a.toNat * b.toNat / 2 ^ 32 < 2 ^ 32 := by
    have := Nat.mul_lt_mul'' a.isLt b.isLt
    omega
  have hext (x : BitVec 32) : LType.n32.ext x.toNat = x.toNat := ext_natural (t := .n32) rfl x
  have hx : aluMulhi .n32 a.toNat b.toNat = a.toNat * b.toNat / 2 ^ 32 := by
    rw [aluMulhi, hext, hext, toBits, ← Nat.cast_mul, ← Int.natCast_div, ← Int.natCast_mod, Int.toNat_natCast, Nat.mod_eq_of_lt hp]
  have h : BitVec.ofNat 32 (spineOp .mulhn 32 a.toNat b.toNat) = _ := computes_mulhn 32 (by decide) a b
  rw [hx, show (a.setWidth 64 * b.setWidth 64).extractLsb' 32 32 = _ from h.symm]
  exact (Nat.mod_eq_of_lt hp).symm

theorem aluAbs_sat (a : BitVec 32) :
    aluAbs .i32 true a.toNat = (if a = 0x80000000 then 0x7FFFFFFF else if a.msb then -a else a : BitVec 32).toNat := by
  by_cases h : a = 0x80000000
  · subst h
    decide
  · have hne : a.toInt ≠ -2 ^ 31 := fun h' => h (BitVec.eq_of_toInt_eq (h'.trans (by decide)))
    rw [if_neg h]
    exact (aluAbs_sat_of_ne (t := .i32) rfl a rfl hne).trans (aluAbs_wrap (t := .i32) rfl a rfl)

theorem sum32Table_computes : ∀ r ∈ sum32Table, ∀ a b c : BitVec 32, r.1 a.toNat b.toNat c.toNat = (r.2 a b c).toNat := by
  have hi : LType.i32.count = 1 := rfl
  have hn : LType.n32.count = 1 := rfl
  simp only [sum32Table, List.forall_mem_cons]
  exact ⟨fun a b _ => aluAdd_wrap hi a b, fun a b _ => aluAdd_wrap hn a b, fun a b _ => aluAdd_sat_signed hi a b rfl,
    fun a b _ => aluAdd_sat_natural hn a b rfl, fun a b _ => aluSub_wrap hi a b, fun a b _ => aluSub_wrap hn a b,
    fun a b _ => aluSub_sat_signed hi a b rfl, fun a b _ => aluSub_sat_natural hn a b rfl, aluAddx_sum, aluAddx_carry,
    fun a b _ => aluMul_word hi a b, fun a b _ => aluMul_word hn a b, fun a b _ => aluMulhi_signed a b,
    fun a b _ => aluMulhi_natural a b, aluMad_word hi, aluMad_word hn, fun a b _ => aluMin_signed hi a b rfl,
    fun a b _ => aluMin_natural hn a b rfl, fun a b _ => aluMax_signed hi a b rfl, fun a b _ => aluMax_natural hn a b rfl,
    fun a _ _ => aluAbs_wrap hi a rfl, fun a _ _ => aluAbs_sat a, fun r hr => absurd hr List.not_mem_nil⟩

/-! ### Products and addresses at 64 bits -/

theorem ofInt_signExtend {n : Nat} (m : Nat) (a : BitVec n) : BitVec.ofInt m a.toInt = a.signExtend m := rfl

theorem ofInt_setWidth {n : Nat} (m : Nat) (a : BitVec n) : BitVec.ofInt m (a.toNat : Int) = a.setWidth m := by
  rw [BitVec.ofInt_natCast, BitVec.ofNat_toNat]

theorem toBits_eq (w : Nat) (x : Int) : toBits w x = (BitVec.ofInt w x).toNat := by rw [BitVec.toNat_ofInt, toBits]

theorem aluMadw_word (a b : BitVec 32) (c : BitVec 64) :
    aluMadw .i64 a.toNat b.toNat c.toNat = (a.signExtend 64 * b.signExtend 64 + c).toNat
    ∧ aluMadw .n64 a.toNat b.toNat c.toNat = (a.setWidth 64 * b.setWidth 64 + c).toNat := by
  unfold aluMadw
  dsimp only
  constructor
  · rw [if_pos (show LType.i64.signed = true from rfl), if_pos (show LType.i64.signed = true from rfl), sxNat_toNat (by decide), sxNat_toNat (by decide), toBits_eq, BitVec.ofInt_add, BitVec.ofInt_mul,
      ofInt_signExtend, ofInt_signExtend, ofInt_setWidth, BitVec.setWidth_eq]
  · rw [if_neg (by decide), if_neg (by decide), Nat.mod_eq_of_lt a.isLt, Nat.mod_eq_of_lt b.isLt, toBits_eq, BitVec.ofInt_add,
      BitVec.ofInt_mul, ofInt_setWidth, ofInt_setWidth, ofInt_setWidth, BitVec.setWidth_eq]

theorem ofInt_mul_two_pow (x : Int) (n : Nat) : BitVec.ofInt 64 (x * ((2 ^ n : Nat) : Int)) = BitVec.ofInt 64 x <<< n := by
  have h : BitVec.ofNat 64 (2 ^ n) = BitVec.twoPow 64 n := BitVec.eq_of_toNat_eq (by rw [BitVec.toNat_ofNat, BitVec.toNat_twoPow])
  rw [BitVec.ofInt_mul, BitVec.ofInt_natCast, BitVec.shiftLeft_eq_mul_twoPow, h]

theorem aluLea_word (a : BitVec 32) (c : BitVec 64) (sh : BitVec 3) :
    aluLea true sh.toNat c.toNat a.toNat = (c + (a.signExtend 64 <<< sh.toNat)).toNat
    ∧ aluLea false sh.toNat c.toNat a.toNat = (c + (a.setWidth 64 <<< sh.toNat)).toNat := by
  unfold aluLea
  constructor
  · rw [if_pos rfl, sxNat_toNat (by decide), toBits_eq, BitVec.ofInt_add, ofInt_mul_two_pow, ofInt_signExtend, ofInt_setWidth,
      BitVec.setWidth_eq]
  · rw [if_neg (by decide), Nat.mod_eq_of_lt a.isLt, toBits_eq, BitVec.ofInt_add, ofInt_mul_two_pow, ofInt_setWidth, ofInt_setWidth,
      BitVec.setWidth_eq]

end Sys2Proof.LaneIntegers

/-! PROOFS. Shifts across words and bit fields (16 R379). -/

namespace Sys2Proof.LaneIntegers

open Sys2Proof Sys2Proof.Machine Sys2Proof.Claims Sys2Proof.SpineIntegers

/-! ### Shifts across two words -/

theorem aluShf_right (a b c : BitVec 32) :
    aluShf false a.toNat b.toNat c.toNat = (((b ++ a) >>> (c.toNat % 32)).setWidth 32).toNat := by
  have hs : c.toNat % 32 < 32 := Nat.mod_lt _ (by decide)
  change (a.toNat / 2 ^ (c.toNat % 32) ||| b.toNat * 2 ^ (32 - c.toNat % 32)) % 2 ^ 32 = _
  generalize c.toNat % 32 = s at hs ⊢
  refine Nat.eq_of_testBit_eq fun i => ?_
  rw [BitVec.toNat_setWidth, BitVec.toNat_ushiftRight, BitVec.toNat_append, Nat.testBit_mod_two_pow, Nat.testBit_mod_two_pow,
    Nat.testBit_or, Nat.testBit_div_two_pow, Nat.testBit_mul_two_pow, Nat.testBit_shiftRight, Nat.testBit_or, Nat.testBit_shiftLeft,
    Nat.add_comm i s, Bool.or_comm, show i - (32 - s) = s + i - 32 by omega, decide_eq_decide.mpr (show 32 - s ≤ i ↔ s + i ≥ 32 by omega)]

theorem aluShf_left (a b c : BitVec 32) :
    aluShf true a.toNat b.toNat c.toNat = (((a ++ b) <<< (c.toNat % 32)).extractLsb' 32 32).toNat := by
  have hs : c.toNat % 32 < 32 := Nat.mod_lt _ (by decide)
  change (a.toNat * 2 ^ (c.toNat % 32) ||| b.toNat / 2 ^ (32 - c.toNat % 32)) % 2 ^ 32 = _
  generalize c.toNat % 32 = s at hs ⊢
  refine Nat.eq_of_testBit_eq fun i => ?_
  rw [BitVec.extractLsb'_toNat, BitVec.toNat_shiftLeft, BitVec.toNat_append, Nat.testBit_mod_two_pow, Nat.testBit_mod_two_pow,
    Nat.testBit_or, Nat.testBit_div_two_pow, Nat.testBit_mul_two_pow, Nat.testBit_shiftRight, Nat.testBit_mod_two_pow,
    Nat.testBit_shiftLeft, Nat.testBit_or, Nat.testBit_shiftLeft]
  by_cases hi : i < 32
  · have h0 : 32 + i < 32 + 32 := by omega
    have h1 : 32 + i ≥ s := by omega
    have h2 : 32 + i - s - 32 = i - s := by omega
    have h3 : i + (32 - s) = 32 + i - s := by omega
    simp only [hi, h0, h1, h2, h3, decide_true, Bool.true_and]
    rw [decide_eq_decide.mpr (show s ≤ i ↔ 32 + i - s ≥ 32 by omega)]
  · simp [hi]

/-! ### Bit fields -/

/-- The field of n bits from bit p on. -/
theorem bits32_toNat (a : BitVec 32) {p n : Nat} (h : p + n ≤ 32) : (bits32 a p n).toNat = a.toNat / 2 ^ p % 2 ^ n := by
  refine Nat.eq_of_testBit_eq fun i => ?_
  unfold bits32
  rw [BitVec.toNat_ushiftRight, BitVec.toNat_shiftLeft, Nat.testBit_shiftRight, Nat.testBit_mod_two_pow, Nat.testBit_shiftLeft,
    Nat.testBit_mod_two_pow, Nat.testBit_div_two_pow]
  by_cases hi : i < n
  · have h1 : 32 - n + i < 32 := by omega
    have h2 : 32 - n + i ≥ 32 - p - n := by omega
    have h3 : 32 - n + i - (32 - p - n) = i + p := by omega
    simp only [hi, h1, h2, h3, decide_true, Bool.true_and]
  · have h1 : ¬ 32 - n + i < 32 := by omega
    simp [hi, h1]

/-- Position and length of a field that is not empty. -/
theorem field_cond (p n : Nat) : (decide (p ≥ 32) || decide (n = 0)) = true ↔ 32 ≤ p ∨ n = 0 := by simp

section
variable (a b c : BitVec 32)

theorem aluBfe_natural :
    aluBfe false a.toNat b.toNat = (if 32 ≤ b.toNat % 256 ∨ b.toNat / 256 % 256 = 0 then 0
      else bits32 a (b.toNat % 256) (min (b.toNat / 256 % 256) (32 - b.toNat % 256)) : BitVec 32).toNat := by
  unfold aluBfe
  dsimp only
  generalize b.toNat % 256 = p
  generalize b.toNat / 256 % 256 = n
  by_cases h : 32 ≤ p ∨ n = 0
  · rw [if_pos ((field_cond p n).mpr h), if_pos h]
    rfl
  · rw [if_neg (mt (field_cond p n).mp h), if_neg h, if_neg (by decide), bits32_toNat a (by omega)]

/-- A field, sign-extended. -/
theorem field_signExtend {p n : Nat} (h : p + n ≤ 32) (hn : 0 < n) :
    (BitVec.ofNat n (a.toNat / 2 ^ p)).signExtend 32 = (a <<< (32 - p - n)).sshiftRight (32 - n) := by
  refine BitVec.eq_of_getLsbD_eq fun i hi => ?_
  have hw : ¬ 32 ≤ i := by omega
  have hbit : ∀ j < n, (BitVec.ofNat n (a.toNat / 2 ^ p)).getLsbD j = a.getLsbD (p + j) := fun j hj => by
    rw [BitVec.getLsbD_ofNat, Nat.testBit_div_two_pow, Nat.add_comm j]
    simp [hj, BitVec.getLsbD]
  have hmsb : (a <<< (32 - p - n)).msb = a.getLsbD (p + (n - 1)) := by
    rw [BitVec.msb_eq_getLsbD_last, BitVec.getLsbD_shiftLeft, show 32 - 1 - (32 - p - n) = p + (n - 1) by omega]
    simp
    omega
  rw [BitVec.getLsbD_signExtend, BitVec.getLsbD_sshiftRight, BitVec.msb_eq_getLsbD_last, hmsb]
  by_cases hin : i < n
  · rw [if_pos hin, if_pos (by omega), hbit i hin, BitVec.getLsbD_shiftLeft, show 32 - n + i - (32 - p - n) = p + i by omega]
    have h1 : 32 - n + i < 32 := by omega
    have h2 : ¬ 32 - n + i < 32 - p - n := by omega
    simp only [hi, h1, h2, hw, decide_true, decide_false, Bool.not_false, Bool.true_and]
  · rw [if_neg hin, if_neg (by omega), hbit (n - 1) (by omega)]
    simp only [hi, hw, decide_true, decide_false, Bool.not_false, Bool.true_and]

theorem aluBfe_signed :
    aluBfe true a.toNat b.toNat = (if 32 ≤ b.toNat % 256 ∨ b.toNat / 256 % 256 = 0 then 0
      else (a <<< (32 - b.toNat % 256 - min (b.toNat / 256 % 256) (32 - b.toNat % 256))).sshiftRight
        (32 - min (b.toNat / 256 % 256) (32 - b.toNat % 256)) : BitVec 32).toNat := by
  unfold aluBfe
  dsimp only
  generalize b.toNat % 256 = p
  generalize b.toNat / 256 % 256 = n
  by_cases h : 32 ≤ p ∨ n = 0
  · rw [if_pos ((field_cond p n).mpr h), if_pos h]
    rfl
  · rw [if_neg (mt (field_cond p n).mp h), if_neg h, if_pos rfl, ← field_signExtend a (by omega) (by omega)]
    have hm : Nat.min n (32 - p) = min n (32 - p) := rfl
    have hf : a.toNat / 2 ^ p % 2 ^ min n (32 - p) = (BitVec.ofNat (min n (32 - p)) (a.toNat / 2 ^ p)).toNat := rfl
    rw [hm, hf, sxNat_toNat (by omega), toBits_eq, ofInt_signExtend]

/-- A field of ones. -/
theorem ones_toNat {p n : Nat} (h : p + n ≤ 32) : ((BitVec.allOnes 32 >>> (32 - n)) <<< p).toNat = (2 ^ n - 1) * 2 ^ p := by
  refine Nat.eq_of_testBit_eq fun i => ?_
  rw [BitVec.toNat_shiftLeft, BitVec.toNat_ushiftRight, BitVec.toNat_allOnes, Nat.testBit_mod_two_pow, Nat.testBit_shiftLeft,
    Nat.testBit_shiftRight, Nat.testBit_two_pow_sub_one, Nat.testBit_mul_two_pow, Nat.testBit_two_pow_sub_one]
  simp only [← Bool.decide_and]
  exact decide_eq_decide.mpr (by omega)

theorem aluBfi_word :
    aluBfi a.toNat b.toNat c.toNat =
      (let m := (BitVec.allOnes 32 >>> (32 - min (c.toNat / 256 % 256) (32 - c.toNat % 256))) <<< (c.toNat % 256)
       if 32 ≤ c.toNat % 256 ∨ c.toNat / 256 % 256 = 0 then a else (a &&& ~~~m) ||| ((b <<< (c.toNat % 256)) &&& m) : BitVec 32).toNat := by
  unfold aluBfi
  dsimp only
  generalize c.toNat % 256 = p
  generalize c.toNat / 256 % 256 = n
  by_cases h : 32 ≤ p ∨ n = 0
  · rw [if_pos ((field_cond p n).mpr h), if_pos h]
  · rw [if_neg (mt (field_cond p n).mp h), if_neg h]
    have hm : (2 ^ Nat.min n (32 - p) - 1) * 2 ^ p = ((BitVec.allOnes 32 >>> (32 - min n (32 - p))) <<< p).toNat :=
      (ones_toNat (n := min n (32 - p)) (by omega)).symm
    rw [hm, aluAndn_word, ← Nat.shiftLeft_eq, ← BitVec.toNat_shiftLeft, ← BitVec.toNat_and, ← BitVec.toNat_or]

end

theorem bit32Table_computes : ∀ r ∈ bit32Table, ∀ a b c : BitVec 32, r.1 a.toNat b.toNat c.toNat = (r.2 a b c).toNat := by
  have hb : LType.b32.count = 1 := rfl
  simp only [bit32Table, List.forall_mem_cons]
  exact ⟨fun a b _ => aluAndn_word a b, fun a b _ => aluShl_word hb a b.toNat, fun a b _ => aluShr_word hb a b.toNat,
    fun a b _ => aluSar_word hb a b.toNat, aluShf_right, aluShf_left, fun a b _ => aluBfe_natural a b, fun a b _ => aluBfe_signed a b,
    aluBfi_word, fun a _ _ => popNat_toNat a, fun a _ _ => clzNat_toNat (by decide) a, fun a _ _ => revNat_toNat a,
    fun r hr => absurd hr List.not_mem_nil⟩

/-! ### Elements of an operand -/

theorem mapElems_lt (w : Nat) (f : Nat → Nat) : ∀ n, mapElems w f n < 2 ^ (w * n)
  | 0 => by simp [mapElems]
  | n + 1 => by
    have ih := mapElems_lt w f n
    have hf : f n % 2 ^ w < 2 ^ w := Nat.mod_lt _ (by positivity)
    rw [mapElems, Nat.mul_succ, Nat.pow_add]
    nlinarith

/-- An element of a result is what its own element gives. -/
theorem elemAt_mapElems (w : Nat) (f : Nat → Nat) {k : Nat} : ∀ {n : Nat}, k < n → elemAt w k (mapElems w f n) = f k % 2 ^ w
  | n + 1, h => by
    have hp : 0 < 2 ^ (w * k) := by positivity
    rw [elemAt, mapElems]
    rcases Nat.lt_or_ge k n with hk | hk
    · obtain ⟨j, rfl⟩ : ∃ j, n = k + 1 + j := ⟨n - (k + 1), by omega⟩
      rw [show f (k + 1 + j) % 2 ^ w * 2 ^ (w * (k + 1 + j)) = 2 ^ (w * k) * (2 ^ w * (f (k + 1 + j) % 2 ^ w * 2 ^ (w * j))) by ring,
        Nat.add_mul_div_left _ _ hp, Nat.add_mul_mod_self_left]
      exact elemAt_mapElems w f hk
    · obtain rfl : k = n := by omega
      rw [Nat.mul_comm (f k % 2 ^ w), Nat.add_mul_div_left _ _ hp, Nat.div_eq_of_lt (mapElems_lt w f k), Nat.zero_add, Nat.mod_mod]

/-- Bit i of a result of bits. -/
theorem lut3_testBit (tbl : BitVec 8) (a b c : BitVec 32) (i : Nat) (hi : i < 32) :
    (lut3 tbl.toNat a.toNat b.toNat c.toNat).testBit i
      = tbl.getLsbD (4 * (a.getLsbD i).toNat + 2 * (b.getLsbD i).toNat + (c.getLsbD i).toNat) := by
  have bit (x : Nat) : elemAt 1 i x = (x.testBit i).toNat := by
    rw [elemAt, Nat.one_mul, Nat.testBit_eq_decide_div_mod_eq, pow_one]
    rcases Nat.mod_two_eq_zero_or_one (x / 2 ^ i) with h | h <;> simp [h]
  have hl : elemAt 1 i (lut3 tbl.toNat a.toNat b.toNat c.toNat)
      = tbl.toNat / 2 ^ (4 * elemAt 1 i a.toNat + 2 * elemAt 1 i b.toNat + elemAt 1 i c.toNat) % 2 % 2 ^ 1 := elemAt_mapElems 1 _ hi
  rw [bit, bit, bit, bit, pow_one, Nat.mod_mod] at hl
  rw [BitVec.getLsbD, Nat.testBit_eq_decide_div_mod_eq (x := tbl.toNat), Bool.eq_iff_iff, decide_eq_true_eq]
  simp only [BitVec.getLsbD]
  rw [← hl, Bool.toNat_eq_one]

end Sys2Proof.LaneIntegers

/-! PROOFS. Elements of packed types (16 R377, R379), dot products of integers (16 R387). -/

namespace Sys2Proof.LaneIntegers

open Sys2Proof Sys2Proof.Machine Sys2Proof.Claims Sys2Proof.SpineIntegers

/-! ### The numbers of elements -/

theorem toBits_lowOf (t : LType) (x : Int) : toBits t.elemW x = lowOf t x := by
  rw [toBits, lowOf, Nat.cast_pow, Nat.cast_ofNat]

theorem lowOf_lt (t : LType) (x : Int) : lowOf t x < 2 ^ t.elemW := by
  rw [← toBits_lowOf, toBits_eq]
  exact (BitVec.ofInt t.elemW x).isLt

theorem lowOf_mod (t : LType) (x : Int) : lowOf t x % 2 ^ t.elemW = lowOf t x := Nat.mod_eq_of_lt (lowOf_lt t x)

theorem minInt_le_maxInt (t : LType) : t.minInt ≤ t.maxInt := by cases t <;> decide

theorem clampInt_clampTo (t : LType) (x : Int) : clampInt t.minInt t.maxInt x = clampTo t x := by
  have h := minInt_le_maxInt t
  rw [clampInt, clampTo]
  omega

theorem ext_intOf (t : LType) (x : Nat) : t.ext x = intOf t (x % 2 ^ t.elemW) := by
  unfold LType.ext intOf sxNat
  cases t.signed
  · simp
  · push_cast
    simp

theorem intOf_lowOf (t : LType) (x : Nat) (hx : x < 2 ^ t.elemW) : lowOf t (intOf t x) = x := by
  have h := ofInt_ext t (BitVec.ofNat t.elemW x)
  rw [ext_intOf, BitVec.toNat_ofNat, Nat.mod_mod, Nat.mod_eq_of_lt hx] at h
  rw [← toBits_lowOf, toBits_eq, h, BitVec.toNat_ofNat, Nat.mod_eq_of_lt hx]

theorem fit_lowOf (t : LType) (sat : Bool) (x : Int) : t.fit sat x = lowOf t (if sat then clampTo t x else x) := by
  rw [LType.fit, toBits_lowOf, clampInt_clampTo]

/-! ### One element of a result -/

section
variable {t : LType} (hc : t.count = 32 / t.elemW) {k : Nat} (hk : k < 32 / t.elemW)
include hc hk

theorem el_elem1 (f : Nat → Nat) (a : Nat) : el t k (elem1 t f a) = f (el t k a) % 2 ^ t.elemW := by
  have h := elemAt_mapElems t.elemW (fun i => f (elemAt t.elemW i a)) (hc ▸ hk)
  exact h

theorem el_elem2 (f : Nat → Nat → Nat) (a b : Nat) : el t k (elem2 t f a b) = f (el t k a) (el t k b) % 2 ^ t.elemW := by
  have h := elemAt_mapElems t.elemW (fun i => f (elemAt t.elemW i a) (elemAt t.elemW i b)) (hc ▸ hk)
  exact h

omit hc hk in
theorem el_lt (x : Nat) : el t k x < 2 ^ t.elemW := Nat.mod_lt _ (by positivity)

omit hc hk in
theorem ext_el (x : Nat) : t.ext (el t k x) = intOf t (el t k x) := by rw [ext_intOf, Nat.mod_eq_of_lt (el_lt x)]

theorem el_aluAdd (sat : Bool) (a b : Nat) :
    el t k (aluAdd t sat a b) = lowOf t (if sat then clampTo t (intOf t (el t k a) + intOf t (el t k b))
      else intOf t (el t k a) + intOf t (el t k b)) := by
  rw [aluAdd, el_elem2 hc hk, fit_lowOf, lowOf_mod, ext_el, ext_el]

theorem el_aluSub (sat : Bool) (a b : Nat) :
    el t k (aluSub t sat a b) = lowOf t (if sat then clampTo t (intOf t (el t k a) - intOf t (el t k b))
      else intOf t (el t k a) - intOf t (el t k b)) := by
  rw [aluSub, el_elem2 hc hk, fit_lowOf, lowOf_mod, ext_el, ext_el]

theorem el_aluMul (a b : Nat) : el t k (aluMul t a b) = el t k a * el t k b % 2 ^ t.elemW := by
  rw [aluMul, el_elem2 hc hk, Nat.mod_mod]

theorem el_aluMin (a b : Nat) : el t k (aluMinMax t false a b) = lowOf t (min (intOf t (el t k a)) (intOf t (el t k b))) := by
  rw [aluMinMax, el_elem2 hc hk, ext_el, ext_el]
  rcases le_or_gt (intOf t (el t k a)) (intOf t (el t k b)) with h | h
  · rw [min_eq_left h, intOf_lowOf t _ (el_lt a)]
    simp [h, Nat.mod_eq_of_lt (el_lt a)]
  · rw [min_eq_right h.le, intOf_lowOf t _ (el_lt b)]
    simp [not_le.mpr h, Nat.mod_eq_of_lt (el_lt b)]

theorem el_aluMax (a b : Nat) : el t k (aluMinMax t true a b) = lowOf t (max (intOf t (el t k a)) (intOf t (el t k b))) := by
  rw [aluMinMax, el_elem2 hc hk, ext_el, ext_el]
  rcases le_or_gt (intOf t (el t k a)) (intOf t (el t k b)) with h | h
  · rw [max_eq_right h, intOf_lowOf t _ (el_lt b)]
    simp [h, Nat.mod_eq_of_lt (el_lt b)]
  · rw [max_eq_left h.le, intOf_lowOf t _ (el_lt a)]
    simp [not_le.mpr h, Nat.mod_eq_of_lt (el_lt a)]

theorem el_aluAbs (sat : Bool) (a : Nat) :
    el t k (aluAbs t sat a) = lowOf t (if sat then clampTo t ((intOf t (el t k a)).natAbs : Int) else ((intOf t (el t k a)).natAbs : Int)) := by
  rw [aluAbs, el_elem1 hc hk, fit_lowOf, lowOf_mod, ext_el]

theorem el_aluShl (a n : Nat) : el t k (aluShl t a n) = el t k a * 2 ^ (n % t.elemW) % 2 ^ t.elemW := by
  rw [aluShl, el_elem1 hc hk, Nat.mod_mod]

theorem el_aluShr (a n : Nat) : el t k (aluShr t a n) = el t k a / 2 ^ (n % t.elemW) := by
  rw [aluShr, el_elem1 hc hk]
  exact Nat.mod_eq_of_lt ((Nat.div_le_self _ _).trans_lt (el_lt a))

end

/-! ### Dot products of integers -/

theorem sumElems_eq (f : Nat → Int) : ∀ n, sumElems f n = ∑ k ∈ Finset.range n, f k
  | 0 => rfl
  | n + 1 => by rw [sumElems, sumElems_eq f n, Finset.sum_range_succ]

theorem aluDot_sum (t : LType) (a b c : Nat) :
    aluDot t a b c = (((c : Int) + ∑ k ∈ Finset.range (32 / t.elemW), intOf t (el t k a) * intOf t (el t k b)) % 2 ^ 32).toNat := by
  have hterm : (fun k => t.ext (elemAt t.elemW k a) * t.ext (elemAt t.elemW k b)) = fun k => intOf t (el t k a) * intOf t (el t k b) :=
    funext fun k => congrArg₂ (· * ·) (ext_el a) (ext_el b)
  rw [aluDot, toBits, sumElems_eq, hterm, Nat.cast_pow, Nat.cast_ofNat]

end Sys2Proof.LaneIntegers

/-! PROOFS. Conversions and packing of lanes (16 R385, R386). -/

namespace Sys2Proof.LaneIntegers

open Sys2Proof Sys2Proof.Machine Sys2Proof.Claims Sys2Proof.SpineIntegers Sys2Proof.Rounding

/-! ### The types -/

theorem floatTypes_sound : ∀ a ∈ floatTypes, a.1.fmt? = some a.2 ∧ a.1.ftzFmt = (a.2 == fB32 || a.2 == fB16 || a.2 == fBf16)
    ∧ a.2 ∈ formats ∧ a.2.width ≤ a.1.elemW := by decide

theorem floatTypes_saturate : ∀ a ∈ floatTypes, ∀ nosat, a.1.satFor nosat = saturates a.1 nosat := by decide

theorem intTypes_sound : ∀ d ∈ intTypes, d.fmt? = none ∧ d ≠ .e8m0x4 := by decide

theorem ftzFmt_flushes {a : LType × Fmt} (ha : a ∈ floatTypes) (ftz : Bool) : (ftz && a.1.ftzFmt) = flushes a.2 ftz := by
  obtain ⟨-, h, -⟩ := floatTypes_sound a ha
  rw [h, flushes]

/-! ### A conversion by the kinds of its types -/

section
variable (r : Rm) (nosat ftz : Bool) (x : Nat)

/-- The value of a float operand. -/
def operandVal (a : LType × Fmt) : FVal := a.2.dec (a.2.flush (flushes a.2 ftz) (x % 2 ^ a.2.width))

theorem decElem_eq {a : LType × Fmt} (ha : a ∈ floatTypes) : decElem a.1 a.2 ftz x = operandVal ftz x a := by
  rw [decElem, ftzFmt_flushes ha]
  rfl

theorem convert_float_float {a b : LType × Fmt} (ha : a ∈ floatTypes) (hb : b ∈ floatTypes) :
    convert b.1 a.1 r nosat ftz x = b.2.flush (flushes b.2 ftz) (b.2.ofVal r (saturates b.1 nosat) (operandVal ftz x a)).bits := by
  rw [convert, (floatTypes_sound a ha).1, (floatTypes_sound b hb).1, ← ftzFmt_flushes hb, ← floatTypes_saturate b hb, ← decElem_eq ftz x ha]

theorem convert_float_int {a : LType × Fmt} (ha : a ∈ floatTypes) {d : LType} (hd : d ∈ intTypes) :
    convert d a.1 r nosat ftz x = lowOf d (toIntSat d.minInt d.maxInt (operandVal ftz x a)).1 := by
  obtain ⟨hf, he⟩ := intTypes_sound d hd
  rw [convert, (floatTypes_sound a ha).1, hf, ← decElem_eq ftz x ha, ← toBits_lowOf]
  exact if_neg (by simpa using he)

theorem convert_float_exponent {a : LType × Fmt} (ha : a ∈ floatTypes) :
    convert .e8m0x4 a.1 r nosat ftz x = toE8m0 (operandVal ftz x a) := by
  rw [convert, (floatTypes_sound a ha).1, ← decElem_eq ftz x ha]
  rfl

theorem convert_int_float {d : LType} (hd : d ∈ intTypes) {b : LType × Fmt} (hb : b ∈ floatTypes) :
    convert b.1 d r nosat ftz x
      = b.2.flush (flushes b.2 ftz) (b.2.ofInt r (saturates b.1 nosat) (intOf d (x % 2 ^ d.elemW))).bits := by
  obtain ⟨hf, he⟩ := intTypes_sound d hd
  rw [convert, (floatTypes_sound b hb).1, hf, ← ftzFmt_flushes hb, ← floatTypes_saturate b hb, ← ext_intOf]
  exact if_neg (by simpa using he)

theorem convert_int_int {c d : LType} (hc : c ∈ intTypes) (hd : d ∈ intTypes) :
    convert c d r nosat ftz x = lowOf c (clampTo c (intOf d (x % 2 ^ d.elemW))) := by
  rw [convert, (intTypes_sound c hc).1, (intTypes_sound d hd).1, ← ext_intOf, ← clampInt_clampTo, ← toBits_lowOf]

theorem convert_exponent_float :
    convert .f32 .e8m0x4 r nosat ftz x = if x % 256 = 255 then fB32.defNaN
      else fB32.flush ftz (fB32.round .rne false false 1 (((x % 256 : Nat) : Int) - 127)).bits := by
  have hs : LType.fmt? .e8m0x4 = none := rfl
  have hd : LType.fmt? .f32 = some fB32 := rfl
  have hz : LType.ftzFmt .f32 = true := rfl
  rw [convert, hs, hd, hz, Bool.and_true]
  dsimp only
  rw [if_pos (beq_self_eq_true _)]

/-- The exponent of a number. -/
theorem toE8m0_exponent {n : Bool} {m : Nat} {e k : Int} (hlo : (2 : ℚ) ^ k ≤ |num n m e|) (hhi : |num n m e| < 2 ^ (k + 1)) :
    toE8m0 (.fin n m e) = (max (-127) (min 127 k) + 127).toNat := by
  rw [abs_num] at hlo hhi
  have hm : m ≠ 0 := by
    rintro rfl
    rw [Nat.cast_zero, zero_mul] at hlo
    exact absurd hlo (not_le.mpr (by positivity))
  obtain ⟨hb1, hb2⟩ := (holds_exact m e).binade hm
  have h1 : k < (Nat.log2 m : Int) + e + 1 := (zpow_lt_zpow_iff_right₀ (by norm_num)).mp (hlo.trans_lt hb2)
  have h2 : (Nat.log2 m : Int) + e < k + 1 := (zpow_lt_zpow_iff_right₀ (by norm_num)).mp (hb1.trans_lt hhi)
  obtain rfl : k = (Nat.log2 m : Int) + e := by omega
  rw [toE8m0, if_neg hm, clampInt]
  congr 2
  omega

theorem convert_converts : converts r nosat ftz x := by
  refine ⟨fun a ha => ⟨fun b hb => convert_float_float r nosat ftz x ha hb, fun d hd => convert_float_int r nosat ftz x ha hd,
    fun n m e hv => ⟨fun hm => ?_, fun k hlo hhi => ?_⟩, fun hv => ?_⟩,
    fun d hd => ⟨fun b hb => convert_int_float r nosat ftz x hd hb, fun c hc => convert_int_int r nosat ftz x hc hd⟩,
    fun hx => ?_, fun hx => ?_⟩
  · rw [convert_float_exponent r nosat ftz x ha, operandVal, hv, hm]
    rfl
  · rw [convert_float_exponent r nosat ftz x ha, operandVal, hv, toE8m0_exponent hlo hhi]
  · rw [convert_float_exponent r nosat ftz x ha, operandVal]
    generalize a.2.dec (a.2.flush (flushes a.2 ftz) (x % 2 ^ a.2.width)) = v at hv
    cases v with
    | fin n m e => exact absurd rfl (hv n m e)
    | _ => rfl
  · have h256 : x % 256 = x := Nat.mod_eq_of_lt (by omega)
    refine ⟨fB32.round .rne false false 1 ((x : Int) - 127), ?_, ?_⟩
    · have h := round_exact fB32 (by decide) .rne false false 1 ((x : Int) - 127)
      rwa [Nat.cast_one, one_mul] at h
    · rw [convert_exponent_float, h256, if_neg (by omega)]
  · rw [convert_exponent_float, hx, if_pos (by decide)]
    decide

end

/-! ### The size of a result -/

theorem flush_le (f : Fmt) (ftz : Bool) (x : Nat) : f.flush ftz x ≤ x := by
  unfold Fmt.flush
  split
  · exact Nat.sub_le _ _
  · exact le_rfl

theorem formats_codes : ∀ f ∈ formats, f.maxFinite < f.signBit ∧ f.infCode < f.signBit ∧ f.defNaN < f.signBit
    ∧ 2 * f.signBit = 2 ^ f.width := by decide

section
variable {f : Fmt} (hf : f ∈ formats)
include hf

theorem withSign_lt (n : Bool) {c : Nat} (hc : c < f.signBit) : f.withSign n c < 2 ^ f.width := by
  obtain ⟨-, -, -, hw⟩ := formats_codes f hf
  rw [← hw, Fmt.withSign]
  split <;> omega

theorem rounded_lt {r : Rm} {sat neg : Bool} {up : ℚ → ℚ} {x : ℚ} {y : FR} (h : rounded f r sat neg up x y) : y.bits < 2 ^ f.width := by
  obtain ⟨hmax, hinf, hnan, -⟩ := formats_codes f hf
  obtain ⟨-, -, c, -, hle, hgt⟩ := h
  rcases Nat.lt_or_ge f.maxFinite c with hc | hc
  · rw [(hgt hc).1]
    refine withSign_lt hf neg ?_
    unfold overflowed
    split_ifs <;> assumption
  · rw [(hle hc).1]
    exact withSign_lt hf neg (by omega)

theorem ofVal_lt (r : Rm) (sat : Bool) (v : FVal) : (f.ofVal r sat v).bits < 2 ^ f.width := by
  obtain ⟨hmax, hinf, hnan, -⟩ := formats_codes f hf
  obtain ⟨h1, h2, h3, -⟩ := ofVal_conversions f (formats_sound f hf).1 r sat
  cases v with
  | nan q =>
    rw [h3]
    exact withSign_lt hf false hnan
  | inf n =>
    rw [h2]
    refine withSign_lt hf n ?_
    split_ifs <;> assumption
  | fin n m e => exact rounded_lt hf (h1 n m e)

theorem ofInt_lt (r : Rm) (sat : Bool) (x : Int) : (f.ofInt r sat x).bits < 2 ^ f.width :=
  rounded_lt hf ((ofVal_conversions f (formats_sound f hf).1 r sat).2.2.2 x)

end

/-- The sources of `pack2` and `pack4`. -/
theorem packSource {u : LType} (hu : u ∈ [LType.i32, .n32, .f32]) : u ∈ intTypes ∨ u = .f32 := by
  revert u
  decide

theorem convert_lt_int {t : LType} (ht : t ∈ intTypes) {u : LType} (hu : u ∈ [LType.i32, .n32, .f32]) (r : Rm) (nosat ftz : Bool) (x : Nat) :
    convert t u r nosat ftz x < 2 ^ t.elemW := by
  rcases packSource hu with hu | rfl
  · rw [convert_int_int r nosat ftz x ht hu]
    exact lowOf_lt _ _
  · rw [show LType.f32 = (LType.f32, fB32).1 from rfl, convert_float_int r nosat ftz x (by decide) ht]
    exact lowOf_lt _ _

theorem convert_lt_float {t : LType × Fmt} (ht : t ∈ floatTypes) {u : LType} (hu : u ∈ [LType.i32, .n32, .f32]) (r : Rm) (nosat ftz : Bool)
    (x : Nat) : convert t.1 u r nosat ftz x < 2 ^ t.1.elemW := by
  obtain ⟨-, -, hf, hw⟩ := floatTypes_sound t ht
  refine lt_of_lt_of_le ?_ (Nat.pow_le_pow_right (by decide) hw)
  rcases packSource hu with hu | rfl
  · rw [convert_int_float r nosat ftz x hu ht]
    exact (flush_le _ _ _).trans_lt (ofInt_lt hf r _ _)
  · rw [show LType.f32 = (LType.f32, fB32).1 from rfl, convert_float_float r nosat ftz x (by decide) ht]
    exact (flush_le _ _ _).trans_lt (ofVal_lt hf r _ _)

theorem packTypes_sound : ∀ t ∈ [LType.i16x2, .n16x2, .f16x2, .bf16x2, .i8x4, .n8x4, .e4m3x4, .e5m2x4, .e3m2x4, .e2m3x4, .i4x8, .n4x8, .e2m1x8],
    t ∈ intTypes ∨ ∃ a ∈ floatTypes, a.1 = t := by decide

theorem convert_lt {t : LType} (ht : t ∈ [LType.i16x2, .n16x2, .f16x2, .bf16x2, .i8x4, .n8x4, .e4m3x4, .e5m2x4, .e3m2x4, .e2m3x4, .i4x8, .n4x8, .e2m1x8])
    {u : LType} (hu : u ∈ [LType.i32, .n32, .f32]) (r : Rm) (nosat ftz : Bool) (x : Nat) : convert t u r nosat ftz x < 2 ^ t.elemW := by
  rcases packTypes_sound t ht with h | ⟨a, ha, rfl⟩
  · exact convert_lt_int h hu r nosat ftz x
  · exact convert_lt_float ha hu r nosat ftz x

/-! ### Packing -/

theorem el_aluPack2 {t : LType} (ht : t ∈ [LType.i16x2, .n16x2, .f16x2, .bf16x2]) {u : LType} (hu : u ∈ [LType.i32, .n32, .f32]) (r : Rm)
    (ftz : Bool) (a b : Nat) :
    el t 0 (aluPack2 t u r ftz a b) = convert t u r false ftz a ∧ el t 1 (aluPack2 t u r ftz a b) = convert t u r false ftz b
      ∧ aluPack2 t u r ftz a b < 2 ^ 32 := by
  have hw : t.elemW = 16 := by
    revert t
    decide
  have hmem := List.mem_append_left [LType.i8x4, .n8x4, .e4m3x4, .e5m2x4, .e3m2x4, .e2m3x4, .i4x8, .n4x8, .e2m1x8] ht
  have ha := convert_lt hmem hu r false ftz a
  have hb := convert_lt hmem hu r false ftz b
  unfold el aluPack2
  rw [hw] at ha hb ⊢
  omega

theorem el_aluPack4 {t : LType} (ht : t ∈ [LType.i8x4, .n8x4, .e4m3x4, .e5m2x4, .e3m2x4, .e2m3x4, .i4x8, .n4x8, .e2m1x8]) {u : LType}
    (hu : u ∈ [LType.i32, .n32, .f32]) (r : Rm) (nosat ftz : Bool) (q a b c : Nat) {k : Nat} (hk : k < 32 / t.elemW) :
    el t k (aluPack4 t u r nosat ftz q a b c)
      = if k = 2 * q then convert t u r nosat ftz a else if k = 2 * q + 1 then convert t u r nosat ftz b else el t k c := by
  have hcount : t.count = 32 / t.elemW := by
    clear hk
    revert t
    decide
  have hmem := List.mem_append_right [LType.i16x2, .n16x2, .f16x2, .bf16x2] ht
  have h := elemAt_mapElems t.elemW (fun i => if i = 2 * q then convert t u r nosat ftz a
    else if i = 2 * q + 1 then convert t u r nosat ftz b else elemAt t.elemW i c) (hcount ▸ hk)
  refine Eq.trans h (Nat.mod_eq_of_lt ?_)
  split_ifs
  · exact convert_lt hmem hu r nosat ftz a
  · exact convert_lt hmem hu r nosat ftz b
  · exact Nat.mod_lt _ (by positivity)

/-! ### The obligation -/

theorem packed_elements : ∀ t ∈ [LType.i16x2, .n16x2, .i8x4, .n8x4], ∀ (sat : Bool) (a b k : Nat), k < 32 / t.elemW →
    el t k (aluAdd t sat a b) = lowOf t (if sat then clampTo t (intOf t (el t k a) + intOf t (el t k b))
        else intOf t (el t k a) + intOf t (el t k b))
    ∧ el t k (aluSub t sat a b) = lowOf t (if sat then clampTo t (intOf t (el t k a) - intOf t (el t k b))
        else intOf t (el t k a) - intOf t (el t k b))
    ∧ el t k (aluMul t a b) = el t k a * el t k b % 2 ^ t.elemW
    ∧ el t k (aluMinMax t false a b) = lowOf t (min (intOf t (el t k a)) (intOf t (el t k b)))
    ∧ el t k (aluMinMax t true a b) = lowOf t (max (intOf t (el t k a)) (intOf t (el t k b)))
    ∧ el t k (aluAbs t sat a) = lowOf t (if sat then clampTo t ((intOf t (el t k a)).natAbs : Int) else ((intOf t (el t k a)).natAbs : Int))
    ∧ el t k (aluShl t a b) = el t k a * 2 ^ (b % t.elemW) % 2 ^ t.elemW
    ∧ el t k (aluShr t a b) = el t k a / 2 ^ (b % t.elemW) := by
  have hcount : ∀ t ∈ [LType.i16x2, .n16x2, .i8x4, .n8x4], t.count = 32 / t.elemW := by decide
  intro t ht sat a b k hk
  have hc := hcount t ht
  exact ⟨el_aluAdd hc hk sat a b, el_aluSub hc hk sat a b, el_aluMul hc hk a b, el_aluMin hc hk a b, el_aluMax hc hk a b,
    el_aluAbs hc hk sat a, el_aluShl hc hk a b, el_aluShr hc hk a b⟩

/-- Settles O56: every form is its operation on words, an exact sum or a conversion that rounds once. -/
theorem laneIntegerResults : Obligations.LaneIntegerResults := by
  refine ⟨fun r hr => ?_, int64Table_computes, fun a b c => ⟨(aluMadw_word a b c).1, (aluMadw_word a b c).2, aluLea_word a c⟩, lut3_testBit,
    packed_elements, fun r nosat ftz a b c => ⟨convert_converts r nosat ftz a, fun t ht u hu => el_aluPack2 ht hu r ftz a b,
      fun t ht u hu q k hk => el_aluPack4 ht hu r nosat ftz q a b c hk⟩, fun t _ => aluDot_sum t, fun t ht x hx hxt r ftz a b c _ => ?_,
    fun ftz sa sb a ha _ _ => aluMxscale_scaled ftz sa sb a ha⟩
  · rcases List.mem_append.mp hr with h | h
    · exact sum32Table_computes r h
    · exact bit32Table_computes r h
  · exact aluDotF_dotted (hxt ▸ (floatTypes_sound x hx).1) r ftz a b c

end Sys2Proof.LaneIntegers

/-! PROOFS. Canonical memory (02), part 1 of 7: the operations of State, Translate, Access, LocalStore, Ops, SharedRegs, Operands, MemOps, Tensor, Queues keep the canonical form. -/

namespace Sys2Proof.MemoryForm

open Sys2Proof Sys2Proof.Machine Sys2Proof.Safety

theorem Canonical_setMem {s : State} {m : List Host.Cell} (h : Canonical s) (hm : Memory.wf m = true) :
    Canonical { s with mem := m } := ⟨hm, h.2⟩

/-! ### State -/

theorem State.reset_canon :
    Canonical (State.reset) :=
  ⟨rfl, rfl⟩

/-! ### Translate -/

theorem State.draw_canon {s : State} (h : Canonical s) :
    Canonical (State.draw s) :=
  h

theorem State.fresh_canon {s : State} (h : Canonical s) :
    Canonical (State.fresh s) :=
  h

/-! ### Access -/

theorem noteMerged_canon {s : State} {asid x} (h : Canonical s) :
    Canonical (noteMerged s asid x) :=
  h

theorem physSync_canon {s : State} {pa n} (h : Canonical s) :
    Canonical (physSync s pa n) := by
  unfold physSync
  grind -lia -linarith -ring -ac -order [recallWhere_canon, Canonical_mk, Canonical.wf_mem, Canonical.wf_durable]

theorem consumeGrain_canon {s : State} {cl asid va} (h : Canonical s) :
    Canonical (consumeGrain s cl asid va) :=
  Canonical_of_eq h (by simp) (by simp)

/-! ### LocalStore -/

theorem modSeg_canon {s : State} {team r f} (h : Canonical s) :
    Canonical (modSeg s team r f) :=
  Canonical_of_eq h (by simp) (by simp)

theorem lsServe_canon {s : State} {t r rank blocks} (h : Canonical s) :
    Canonical (lsServe s t r rank blocks) :=
  Canonical_foldl (fun _ _ h => inOrder_canon h) _ h

theorem lsPort_canon {s : State} {t r core part slot blocks} (h : Canonical s) :
    Canonical (lsPort s t r core part slot blocks) := by
  unfold lsPort
  grind -lia -linarith -ring -ac -order [lsServe_canon, Canonical_mk, Canonical.wf_mem, Canonical.wf_durable]

theorem underEvent_canon {s : State} {team squad cl} (h : Canonical s) :
    Canonical (underEvent s team squad cl) :=
  Canonical_of_eq h (by simp) (by simp)

theorem armBlock_canon {s : State} {team squad cl r b c} (h : Canonical s) :
    Canonical (armBlock s team squad cl r b c) :=
  Canonical_of_eq h (by simp) (by simp)

/-! ### Ops -/

theorem modSquad_canon {s : State} {id f} (h : Canonical s) :
    Canonical (modSquad s id f) :=
  Canonical_of_eq h (by simp) (by simp)

theorem escape_canon {s : State} {team} (h : Canonical s) :
    Canonical (escape s team) :=
  Canonical_of_eq h (by simp) (by simp)

theorem wakeSquad_canon {s : State} {id} (h : Canonical s) :
    Canonical (wakeSquad s id) :=
  Canonical_of_eq h (by simp) (by simp)

theorem wakeSpine_canon {s : State} {team} (h : Canonical s) :
    Canonical (wakeSpine s team) :=
  Canonical_of_eq h (by simp) (by simp)

theorem wakeTeams_canon {s : State} {p} (h : Canonical s) :
    Canonical (wakeTeams s p) :=
  Canonical_of_eq h (by simp) (by simp)

theorem raiseFlag_canon {s : State} {id f} (h : Canonical s) :
    Canonical (raiseFlag s id f) :=
  Canonical_of_eq h (by simp) (by simp)

theorem lowerFlag_canon {s : State} {id f} (h : Canonical s) :
    Canonical (lowerFlag s id f) :=
  Canonical_of_eq h (by simp) (by simp)

theorem landPop_canon {s : State} {op} (h : Canonical s) :
    Canonical (landPop s op) :=
  Canonical_of_eq h (by simp) (by simp)

theorem trapArrives_canon {s : State} {id q n} (h : Canonical s) :
    Canonical (trapArrives s id q n) :=
  Canonical_of_eq h (by simp) (by simp)

theorem observe_canon {s : State} {id p} (h : Canonical s) :
    Canonical (observe s id p) :=
  Canonical_of_eq h (by simp) (by simp)

theorem barrierTest_canon {s : State} {team} (h : Canonical s) :
    Canonical (barrierTest s team) :=
  Canonical_of_eq h (by simp) (by simp)

theorem releaseWindow_canon {s : State} {team} (h : Canonical s) :
    Canonical (releaseWindow s team) :=
  Canonical_of_eq h (by simp) (by simp)

theorem stayAway_canon {s : State} {id q keep} (h : Canonical s) :
    Canonical (stayAway s id q keep) :=
  Canonical_of_eq h (by simp) (by simp)

theorem dropKept_canon {s : State} {team p} (h : Canonical s) :
    Canonical (dropKept s team p) :=
  Canonical_of_eq h (by simp) (by simp)

theorem transit_canon {s : State} {team rank} (h : Canonical s) :
    Canonical (transit s team rank) :=
  Canonical_of_eq h (by simp) (by simp)

theorem seeAll_canon {s : State} {id} (h : Canonical s) :
    Canonical (seeAll s id) := by
  unfold seeAll
  grind -lia -linarith -ring -ac -order [observe_canon, Canonical_mk, Canonical.wf_mem, Canonical.wf_durable]

theorem endLanes_canon {s : State} {id lanes} (h : Canonical s) :
    Canonical (endLanes s id lanes) :=
  Canonical_of_eq h (by simp) (by simp)

theorem switchOff_canon {s : State} {id lanes} (h : Canonical s) :
    Canonical (switchOff s id lanes) :=
  Canonical_of_eq h (by simp) (by simp)

theorem killCopies_canon {s : State} {p} (h : Canonical s) :
    Canonical (killCopies s p) :=
  Canonical_of_eq h (by simp) (by simp)

theorem orphanReqs_canon {s : State} {team} (h : Canonical s) :
    Canonical (orphanReqs s team) :=
  Canonical_of_eq h (by simp) (by simp)

theorem enterHandler_canon {s : State} {id} (h : Canonical s) :
    Canonical (enterHandler s id) :=
  Canonical_of_eq h (by simp) (by simp)

theorem deferTrap_canon {s : State} {id tr} (h : Canonical s) :
    Canonical (deferTrap s id tr) :=
  Canonical_of_eq h (by simp) (by simp)

theorem leaveWaiters_canon {s : State} {a} (h : Canonical s) :
    Canonical (leaveWaiters s a) :=
  Canonical_of_eq h (by simp) (by simp)

theorem dropContribution_canon {s : State} {id q} (h : Canonical s) :
    Canonical (dropContribution s id q) :=
  Canonical_of_eq h (by simp) (by simp)

theorem dropHeld_canon {s : State} {id} (h : Canonical s) :
    Canonical (dropHeld s id) :=
  Canonical_of_eq h (by simp) (by simp)

theorem addReq_canon {s : State} {r} (h : Canonical s) :
    Canonical (addReq s r) :=
  Canonical_of_eq h (by simp) (by simp)

theorem modReq_canon {s : State} {id f} (h : Canonical s) :
    Canonical (modReq s id f) :=
  Canonical_of_eq h (by simp) (by simp)

theorem dropReq_canon {s : State} {id} (h : Canonical s) :
    Canonical (dropReq s id) :=
  Canonical_of_eq h (by simp) (by simp)

theorem dropHostLines_canon {s : State} {r} (h : Canonical s) :
    Canonical (dropHostLines s r) := by
  unfold dropHostLines
  grind -lia -linarith -ring -ac -order [recallWhere_canon, Canonical_mk, Canonical.wf_mem, Canonical.wf_durable]

/-! ### SharedRegs -/

theorem putH_canon {s : State} {l e1} (h : Canonical s) :
    Canonical (putH s l e1) :=
  Canonical_of_eq h (by simp) (by simp)

theorem hGrant_canon {s : State} {a v} (h : Canonical s) :
    Canonical (hGrant s a v) :=
  Canonical_of_eq h (by simp) (by simp)

theorem hMark_canon {s : State} {a mis} (h : Canonical s) :
    Canonical (hMark s a mis) :=
  Canonical_of_eq h (by simp) (by simp)

theorem hChanged_canon {s : State} {l e1} (h : Canonical s) :
    Canonical (hChanged s l e1) :=
  Canonical_of_eq h (by simp) (by simp)

theorem hTurn_canon {s : State} {l a} (h : Canonical s) :
    Canonical (hTurn s l a) :=
  Canonical_of_eq h (by simp) (by simp)

theorem hArrive_canon {s : State} {l a op} (h : Canonical s) :
    Canonical (hArrive s l a op).1 :=
  Canonical_of_eq h (by simp) (by simp)

/-! ### Operands -/

theorem Lx.illop_canon {s : State} {x} (h : Canonical s) :
    Canonical (Lx.illop x s) := by
  unfold Lx.illop
  grind -lia -linarith -ring -ac -order [Lx.trap_canon, Canonical_mk, Canonical.wf_mem, Canonical.wf_durable]

theorem overG_canon {s : State} {id n} (h : Canonical s) :
    Canonical (overG s id n) :=
  Canonical_of_eq h (by simp) (by simp)

theorem overP_canon {s : State} {id n} (h : Canonical s) :
    Canonical (overP s id n) :=
  Canonical_of_eq h (by simp) (by simp)

theorem aluLane_canon {s : State} {i o w f} {t} (h : Canonical s) (e : aluLane i o w s f = .next t) :
    Canonical t := by
  unfold aluLane at e
  grind -lia -linarith -ring -ac -order [laneEnter_canon, finishLong_canon, finishShort_canon, withH_canon,
    longReady_canon, Canonical_mk, Canonical.wf_mem, Canonical.wf_durable]

theorem predLane_canon {s : State} {i o w f} {t} (h : Canonical s) (e : predLane i o w s f = .next t) :
    Canonical t := by
  unfold predLane at e
  grind -lia -linarith -ring -ac -order [laneEnter_canon, finishLong_canon, finishShort_canon, withH_canon,
    longReady_canon, Canonical_mk, Canonical.wf_mem, Canonical.wf_durable]

theorem longLane_canon {s : State} {i o w f} {t} (h : Canonical s) (e : longLane i o w s f = .next t) :
    Canonical t := by
  unfold longLane at e
  grind -lia -linarith -ring -ac -order [laneEnter_canon, finishLong_canon, withH_canon, longReady_canon,
    Canonical_mk, Canonical.wf_mem, Canonical.wf_durable]

theorem spineSet_canon {s : State} {t d v} (h : Canonical s) :
    Canonical (spineSet s t d v) :=
  Canonical_of_eq h (by simp) (by simp)

theorem spineIllop_canon {s : State} {t i} (h : Canonical s) :
    Canonical (spineIllop s t i) := by
  unfold spineIllop
  grind -lia -linarith -ring -ac -order [spineTrap_canon, Canonical_mk, Canonical.wf_mem, Canonical.wf_durable]

/-! ### MemOps -/

theorem locQuery_canon {s : State} {r va} (h : Canonical s) :
    Canonical (locQuery s r va).1 := by
  unfold locQuery
  grind -lia -linarith -ring -ac -order [request_canon, noteHeld_canon, homeLookup_canon, Canonical_mk,
    Canonical.wf_mem, Canonical.wf_durable]

theorem modEntry_canon {s : State} {id log f} (h : Canonical s) :
    Canonical (modEntry s id log f) :=
  Canonical_of_eq h (by simp) (by simp)

theorem closeEntry_canon {s : State} {id log} (h : Canonical s) :
    Canonical (closeEntry s id log) :=
  Canonical_of_eq h (by simp) (by simp)

theorem deferLanes_canon {s : State} {id t} (h : Canonical s) :
    Canonical (deferLanes s id t) :=
  Canonical_of_eq h (by simp) (by simp)

theorem noteOk_canon {s : State} {i pop ok} (h : Canonical s) :
    Canonical (noteOk s i pop ok) :=
  Canonical_of_eq h (by simp) (by simp)

theorem dropEntry_canon {s : State} {id log} (h : Canonical s) :
    Canonical (dropEntry s id log) :=
  Canonical_of_eq h (by simp) (by simp)

theorem credPost_canon {s : State} {pop team slot cluster desc} (h : Canonical s) :
    Canonical (credPost s pop team slot cluster desc) :=
  Canonical_of_eq h (by simp) (by simp)

theorem laneDone_canon {s : State} {id r e1 l bs} (h : Canonical s) :
    Canonical (laneDone s id r e1 l bs) := by
  unfold laneDone
  grind -lia -linarith -ring -ac -order [credPost_canon, noteOk_canon, closeEntry_canon, modEntry_canon,
    dropEntry_canon, Canonical_mk, Canonical.wf_mem, Canonical.wf_durable]

theorem entryAccess_canon {s : State} {r team e1 va data} (h : Canonical s) :
    Canonical (entryAccess s r team e1 va data).1 := by
  unfold entryAccess
  grind -lia -linarith -ring -ac -order [mergedPiece_canon, laneAccess_canon, Canonical_mk, Canonical.wf_mem,
    Canonical.wf_durable]

theorem noteStores_canon {s : State} {id team op q i tpc em lanes} (h : Canonical s) :
    Canonical (noteStores s id team op q i tpc em lanes) := by
  unfold noteStores
  exact Canonical_foldl (fun _ _ h => noteMerged_canon h) _ h

theorem redoLane_canon {s : State} {id r e1 l} (h : Canonical s) :
    Canonical (redoLane s id r e1 l) := by
  have h1 : ∀ team va data, Canonical (entryAccess s r team e1 va data).1 := fun _ _ _ => entryAccess_canon h
  unfold redoLane
  split
  · exact h
  · next l' va data hp =>
    refine Canonical_ite (lanesFail_canon h) ?_
    generalize hr : entryAccess s r _ e1 _ _ = y
    have hy : Canonical y.1 := hr ▸ h1 _ _ _
    obtain ⟨s1, a, bs⟩ := y
    cases a with
    | done =>
      refine laneDone_canon ?_
      split
      · grind -lia -linarith -ring -ac -order [noteStores_canon]
      · exact Canonical_ite hy (armAt_canon hy)
      · exact hy
    | _ => exact noteBad_canon hy

theorem serveLane_canon {s : State} {r} (h : Canonical s) :
    Canonical (serveLane s r) := by
  unfold serveLane
  grind -lia -linarith -ring -ac -order [redoLane_canon, dropReq_canon, Canonical_mk, Canonical.wf_mem,
    Canonical.wf_durable]

theorem serveTeam_canon {s : State} {team} (h : Canonical s) :
    Canonical (serveTeam s team) := by
  unfold serveTeam
  exact Canonical_foldl (fun _ _ h => serveLane_canon h) _ h

theorem failParked_canon {s : State} {id log kind acc ls} (h : Canonical s) :
    Canonical (failParked s id log kind acc ls) :=
  Canonical_of_eq h (by simp) (by simp)

theorem settleStores_canon {s : State} {e1 k} (h : Canonical s) :
    Canonical (settleStores e1 s k) := by
  unfold settleStores
  dsimp only
  split
  · split
    · refine Canonical_foldl (fun s m h => ?_) _ (modSquad_canon h)
      grind -lia -linarith -ring -ac -order [redoLane_canon]
    · exact Canonical_foldl (fun _ _ h => addReq_canon h) _ h
  · exact Canonical_foldl (fun _ _ h => addReq_canon h) _ h
  · exact h

theorem settleEntry_canon {s : State} {e1} (h : Canonical s) :
    Canonical (settleEntry s e1) := by
  have h1 : Canonical (wcDrainEntry { s with wc := s.wc.filter fun x => x != e1 } e1) := wcDrainEntry_canon h
  unfold settleEntry
  dsimp only
  generalize wcDrainEntry _ e1 = s1 at h1 ⊢
  have h2 : Canonical { s1 with wc := s1.wc.filter fun x => !x.at e1.cluster e1.asid e1.va.toNat } := h1
  exact Canonical_ite (Canonical_foldl (fun _ _ h => settleStores_canon h) _ h2) h1

theorem settleMerged_canon {s : State} (h : Canonical s) :
    Canonical (settleMerged s) := by
  unfold settleMerged
  exact Canonical_foldl (fun _ _ h => settleEntry_canon h) _ h

theorem spineKept_canon {s : State} {k : State → State} {t sp va bs} (h : Canonical s) (hk : ∀ u0, Canonical u0 →
  Canonical (k u0)) :
    Canonical (spineKept s t sp va bs k) := by
  unfold spineKept
  grind -lia -linarith -ring -ac -order [modSpine_canon, storeRange_canon, spineGot_canon, Canonical_mk,
    Canonical.wf_mem, Canonical.wf_durable]

theorem spineKeeps_canon {s : State} {k : State → State} {start : State} {t sp va} (h : Canonical s) (hk : ∀ u0,
  Canonical u0 → Canonical (k u0)) (h1 : Canonical start) :
    Canonical (spineKeeps s t sp va k start) := by
  unfold spineKeeps
  grind -lia -linarith -ring -ac -order [spineKept_canon, Canonical_mk, Canonical.wf_mem, Canonical.wf_durable]

/-! ### Tensor -/

theorem entryRead_canon {s : State} {r n} (h : Canonical s) :
    Canonical (entryRead s r n).1 := by
  unfold entryRead
  dsimp only
  have h1 := loadRange_canon (q := r) (acc := accLoad) (va := tidVa s r.slot n) (n := 64) h
  generalize loadRange s _ _ _ _ = y at h1 ⊢
  obtain ⟨s1, a, bs⟩ := y
  split
  · split
    · exact h
    · cases a with
      | fault k d v p =>
        dsimp only
        split <;> exact h1
      | _ => exact h1
  · cases a with
    | fault k d v p =>
      dsimp only
      split <;> exact h1
    | _ => exact h1

theorem readLine_canon {s : State} {r resp line} (h : Canonical s) :
    Canonical (readLine s r resp line).1 := by
  unfold readLine
  grind -lia -linarith -ring -ac -order [loadRange_canon, Canonical_mk, Canonical.wf_mem, Canonical.wf_durable]

theorem readLines_canon {r resp} (ls : List Nat) {s : State} {got} (h : Canonical s) :
    Canonical (readLines r resp ls s got).1 := by
  induction ls generalizing s got with
  | nil => exact h
  | cons l ls ih =>
    unfold readLines
    grind -lia -linarith -ring -ac -order [readLine_canon]

theorem codecCount_canon {s : State} {r va i} (h : Canonical s) :
    Canonical (codecCount s r va i) := by
  unfold codecCount
  grind -lia -linarith -ring -ac -order [codecBump_canon, request_canon, Canonical_mk, Canonical.wf_mem,
    Canonical.wf_durable]

theorem codecForget_canon {s : State} {op} (h : Canonical s) :
    Canonical (codecForget s op) := by
  unfold codecForget
  grind -lia -linarith -ring -ac -order [Canonical_mk, Canonical.wf_mem, Canonical.wf_durable]

theorem codecLeave_canon {s : State} {r} (h : Canonical s) :
    Canonical (codecLeave s r) := by
  unfold codecLeave
  grind -lia -linarith -ring -ac -order [codecForget_canon, Canonical_mk, Canonical.wf_mem, Canonical.wf_durable]

theorem readBlocks_canon {r resp t} (bs : List Nat) {s : State} {got} (h : Canonical s) :
    Canonical (readBlocks r resp t bs s got).1 := by
  induction bs generalizing s got with
  | nil => exact h
  | cons b bs ih =>
    unfold readBlocks
    grind -lia -linarith -ring -ac -order [readLines_canon, codecCount_canon, codecLeave_canon]

theorem ecbDelivered_canon {s : State} {r t ls} (h : Canonical s) :
    Canonical (ecbDelivered s r t ls) := by
  unfold ecbDelivered
  exact Canonical_ite (Canonical_foldl (fun _ _ h => codecCount_canon h) _ h) h

theorem readTensor_canon {s : State} {r resp t ls plain} (h : Canonical s) :
    Canonical (readTensor s r resp t ls plain).1 := by
  unfold readTensor
  grind -lia -linarith -ring -ac -order [readLines_canon, readBlocks_canon, Canonical_mk, Canonical.wf_mem,
    Canonical.wf_durable]

/-! ### Queues -/

theorem qOpen_canon {s : State} {die slot asid va acc agent} (h : Canonical s) :
    Canonical (qOpen s die slot asid va acc agent).1 := by
  unfold qOpen
  grind -lia -linarith -ring -ac -order [requestFor_canon, askHosts_canon, Canonical_mk, Canonical.wf_mem,
    Canonical.wf_durable]

theorem qRead_canon {s : State} {t asid va} (h : Canonical s) :
    Canonical (qRead s t asid va).1 := by
  unfold qRead
  grind -lia -linarith -ring -ac -order [recallOthers_canon, Canonical_mk, Canonical.wf_mem, Canonical.wf_durable]

theorem qWrite_canon {s : State} {t asid va bs} (h : Canonical s) :
    Canonical (qWrite s t asid va bs) := by
  unfold qWrite
  grind -lia -linarith -ring -ac -order [recallOthers_canon, storeAtHome_canon, Canonical_mk, Canonical.wf_mem,
    Canonical.wf_durable]

theorem qLoad_canon {s : State} {die slot asid n priv ctr acc agent} (h : Canonical s) :
    Canonical (qLoad s die slot asid n priv ctr acc agent).1 := by
  unfold qLoad
  grind -lia -linarith -ring -ac -order [qRead_canon, qOpen_canon, Canonical_mk, Canonical.wf_mem,
    Canonical.wf_durable]

theorem qReserve_canon {s : State} {slot asid n o entry who} (h : Canonical s) :
    Canonical (qReserve s slot asid n o entry who) := by
  unfold qReserve
  grind -lia -linarith -ring -ac -order [qWrite_canon, Canonical_mk, Canonical.wf_mem, Canonical.wf_durable]

theorem qPush_canon {s : State} {r n entry launch try_ who} (h : Canonical s) :
    Canonical (qPush s r n entry launch try_ who).1 := by
  unfold qPush
  grind -lia -linarith -ring -ac -order [qReserve_canon, qWrite_canon, qLoad_canon, Canonical_mk, Canonical.wf_mem,
    Canonical.wf_durable]

theorem qPop_canon {s : State} {r n try_} (h : Canonical s) :
    Canonical (qPop s r n try_).1 := by
  unfold qPop
  grind -lia -linarith -ring -ac -order [qWrite_canon, qRead_canon, qLoad_canon, Canonical_mk, Canonical.wf_mem,
    Canonical.wf_durable]

theorem svcErr_canon {s : State} (h : Canonical s) :
    Canonical (svcErr s) :=
  h

theorem svcWake_canon {s : State} {q} (h : Canonical s) :
    Canonical (svcWake s q) := by
  unfold svcWake
  grind -lia -linarith -ring -ac -order [Canonical_mk, Canonical.wf_mem, Canonical.wf_durable]

theorem msixSend_canon {s : State} {fn vec who} (h : Canonical s) :
    Canonical (msixSend s fn vec who) := by
  unfold msixSend
  grind -lia -linarith -ring -ac -order [Canonical_mk, Canonical.wf_mem, Canonical.wf_durable]

theorem msixFlush_canon {s : State} (h : Canonical s) :
    Canonical (msixFlush s) := by
  unfold msixFlush
  grind -lia -linarith -ring -ac -order [Canonical_mk, Canonical.wf_mem, Canonical.wf_durable]

theorem qCommitted_canon {s : State} {slot n q who} (h : Canonical s) :
    Canonical (qCommitted s slot n q who) := by
  unfold qCommitted
  grind -lia -linarith -ring -ac -order [msixSend_canon, svcWake_canon, wakeTeams_canon, Canonical_mk,
    Canonical.wf_mem, Canonical.wf_durable]

theorem devicePush_canon {s : State} {slot n entry} (h : Canonical s) :
    Canonical (devicePush s slot n entry) :=
  h

theorem mgmtFlush_canon {s : State} (h : Canonical s) :
    Canonical (mgmtFlush s) := by
  unfold mgmtFlush
  grind -lia -linarith -ring -ac -order [msixSend_canon, Canonical_mk, Canonical.wf_mem, Canonical.wf_durable]

theorem respond_canon {s : State} {c status results} (h : Canonical s) :
    Canonical (respond s c status results) := by
  unfold respond
  grind -lia -linarith -ring -ac -order [mgmtFlush_canon, Canonical_mk, Canonical.wf_mem, Canonical.wf_durable]

theorem journalFree_canon {s : State} {j} (h : Canonical s) :
    Canonical (journalFree s j) := by
  unfold journalFree
  split
  · exact Canonical_setMem h (memWriteN_wf h.1)
  · exact h

theorem gridFinish_canon {s : State} {id status} (h : Canonical s) :
    Canonical (gridFinish s id status) := by
  unfold gridFinish
  grind -lia -linarith -ring -ac -order [respond_canon, modTeam_canon, Canonical_mk, Canonical.wf_mem,
    Canonical.wf_durable]

theorem gridEnd_canon {s : State} {id status} (h : Canonical s) :
    Canonical (gridEnd s id status) := by
  unfold gridEnd
  grind -lia -linarith -ring -ac -order [gridFinish_canon, devicePush_canon, Canonical_mk, Canonical.wf_mem,
    Canonical.wf_durable]

theorem queueCommit_canon {s : State} {id} (h : Canonical s) :
    Canonical (queueCommit s id) := by
  unfold queueCommit
  split
  · exact h
  · next r _ =>
    dsimp only
    split
    · next s1 t heq =>
      have h1 : Canonical s1 := by
        have h0 := qOpen_canon (die := 0) (slot := r.slot) (asid := ctxAsid s r.slot) (va := qcbVa s r.slot r.q) (acc := accStore)
          (agent := .none) h
        rwa [heq] at h0
      have h2 := qRead_canon (t := t) (asid := ctxAsid s r.slot) (va := qcbVa s r.slot r.q) h1
      refine Canonical_ite (landPop_canon (qCommitted_canon ?_)) h
      have h3 : ∀ bs, Canonical { qWrite (qRead s1 t (ctxAsid s r.slot) (qcbVa s r.slot r.q)).1 t (ctxAsid s r.slot)
          (qcbVa s r.slot r.q) bs with resvs := (qWrite (qRead s1 t (ctxAsid s r.slot) (qcbVa s r.slot r.q)).1 t (ctxAsid s r.slot)
          (qcbVa s r.slot r.q) bs).resvs.filter fun x => x.id != r.id } := fun bs => qWrite_canon h2
      split
      · refine gridFinish_canon ?_
        split
        · exact modTeam_canon (h3 _)
        · exact h3 _
      · split
        · exact modTeam_canon (h3 _)
        · exact h3 _
    · exact h

theorem execQueueCommit_canon {s : State} {t} (h : Canonical s) (e : execQueueCommit s = .next t) :
    Canonical t := by
  unfold execQueueCommit at e
  grind -lia -linarith -ring -ac -order [queueCommit_canon, Canonical_mk, Canonical.wf_mem, Canonical.wf_durable]

theorem devicePushTry_canon {s t : State} {slot n entry launch made} (h : Canonical s)
    (e : devicePushTry s slot n entry launch = some (t, made)) : Canonical t := by
  unfold devicePushTry at e
  grind -lia -linarith -ring -ac -order [qLoad_canon, svcErr_canon, qReserve_canon, State.fresh_canon]

theorem pushDone_canon {s : State} {p made n} (h : Canonical s) :
    Canonical (pushDone s p made n) := by
  unfold pushDone
  dsimp only
  have h1 : Canonical (journalFree { s with dpush := s.dpush.filter fun x => x.id != p.id } p.journal) := journalFree_canon h
  generalize journalFree _ _ = s1 at h1 ⊢
  cases gridOfPush s1 p.id with
  | none =>
    dsimp only
    split
    · exact Canonical_ite h1 h1
    · exact h1
  | some x =>
    have h2 : Canonical (if made then { s1 with grids := mmod s1.grids x.1 fun g => { g with done := some (n, x.2) } }
        else gridFinish s1 x.1 x.2) := Canonical_ite h1 (gridFinish_canon h1)
    dsimp only
    split
    · exact Canonical_ite h2 h2
    · exact h2

theorem launchPushed_canon {s : State} {p c made n} (h : Canonical s) :
    Canonical (launchPushed s p c made n) := by
  unfold launchPushed
  grind -lia -linarith -ring -ac -order [respond_canon, Canonical_mk, Canonical.wf_mem, Canonical.wf_durable]

theorem execDeviceQueuePush_canon {s : State} {t} (h : Canonical s) (e : execDeviceQueuePush s = .next t) :
    Canonical t := by
  unfold execDeviceQueuePush at e
  grind -lia -linarith -ring -ac -order [pushDone_canon, launchPushed_canon, devicePushTry_canon, Canonical_mk,
    Canonical.wf_mem, Canonical.wf_durable]

theorem squadFault_canon {s : State} {id r kind k d h1 p va acc} (h : Canonical s) :
    Canonical (squadFault s id r kind k d h1 p va acc) := by
  unfold squadFault
  grind -lia -linarith -ring -ac -order [setWait_canon, parkAcc_canon, Canonical_mk, Canonical.wf_mem,
    Canonical.wf_durable]

theorem spineFault_canon {s : State} {t r kind k d h1 p va acc} (h : Canonical s) :
    Canonical (spineFault s t r kind k d h1 p va acc) :=
  h

theorem laneAns_canon {s0 : State} {x r n} {res : State × QAns} {k : State → QAns → State}
    (hk : ∀ s a, Canonical s → Canonical (k s a)) (h0 : Canonical s0) (h : Canonical res.1) :
    Canonical (laneAns s0 x r n res k) := by
  unfold laneAns
  grind -lia -linarith -ring -ac -order [Lx.trap_canon, squadFault_canon, setWait_canon, keepSaid_canon, escape_canon]

theorem tryPred_canon {s : State} {x ok} (h : Canonical s) :
    Canonical (tryPred s x ok) := by
  unfold tryPred
  grind -lia -linarith -ring -ac -order [overP_canon, modSquad_canon, Canonical_mk, Canonical.wf_mem,
    Canonical.wf_durable]

theorem lanePush_canon {s : State} {x n entry launch reads frees} (h : Canonical s) :
    Canonical (lanePush x s n entry launch reads frees) := by
  unfold lanePush
  refine laneRelease_canon (fun s h => laneAns_canon (fun s a h => ?_) h (qPush_canon h)) h
  exact finishLong_canon (Canonical_ite h (tryPred_canon h))

theorem flagRoom_canon {s : State} {k : State → State} {x} (h : Canonical s) (hk : ∀ u0, Canonical u0 → Canonical (k
  u0)) :
    Canonical (flagRoom s x k) := by
  unfold flagRoom
  grind -lia -linarith -ring -ac -order [Canonical_mk, Canonical.wf_mem, Canonical.wf_durable]

theorem laneQueue_canon {s : State} {k : Lx → State → ℕ → State} {i o dv} {t} (h : Canonical s) (hk : ∀ w0 u1 w2,
  Canonical u1 → Canonical (k w0 u1 w2)) (e : laneQueue i o s dv k = .next t) :
    Canonical t := by
  unfold laneQueue at e
  grind -lia -linarith -ring -ac -order [laneEnter_canon, flagRoom_canon, finishShort_canon, Lx.illop_canon,
    Canonical_mk, Canonical.wf_mem, Canonical.wf_durable]

theorem execQpush_canon {s : State} {o} {t} (h : Canonical s) (e : execQpush o s = .next t) :
    Canonical t := by
  unfold execQpush at e
  grind -lia -linarith -ring -ac -order [laneQueue_canon, lanePush_canon, Canonical_mk, Canonical.wf_mem,
    Canonical.wf_durable]

theorem execQpushTry_canon {s : State} {o} {t} (h : Canonical s) (e : execQpushTry o s = .next t) :
    Canonical t := by
  unfold execQpushTry at e
  grind -lia -linarith -ring -ac -order [laneQueue_canon, lanePush_canon, Canonical_mk, Canonical.wf_mem,
    Canonical.wf_durable]

theorem lanePop_canon {s : State} {x n} (h : Canonical s) :
    Canonical (lanePop x s n) := by
  unfold lanePop
  exact acquireGate_canon (fun s0 h => laneAns_canon (fun s a hs => longReady_canon (fun _ _ => finishLong_canon hs)
    h) h (qPop_canon h)) h

theorem execQpop_canon {s : State} {o} {t} (h : Canonical s) (e : execQpop o s = .next t) :
    Canonical t := by
  unfold execQpop at e
  grind -lia -linarith -ring -ac -order [laneQueue_canon, lanePop_canon, Canonical_mk, Canonical.wf_mem,
    Canonical.wf_durable]

theorem execQpopTry_canon {s : State} {o} {t} (h : Canonical s) (e : execQpopTry o s = .next t) :
    Canonical t := by
  unfold execQpopTry at e
  grind -lia -linarith -ring -ac -order [laneQueue_canon, lanePop_canon, Canonical_mk, Canonical.wf_mem,
    Canonical.wf_durable]

theorem execLaunch_canon {s : State} {o} {t} (h : Canonical s) (e : execLaunch o s = .next t) :
    Canonical t := by
  unfold execLaunch at e
  refine laneEnter_canon (fun x => ?_) h e
  dsimp only
  refine Canonical_ite (finishShort_canon h) (Canonical_ite (Lx.trap_canon h) (Canonical_ite ?_ ?_))
  · split
    · exact squadFault_canon h
    · exact Lx.trap_canon h
  · exact flagRoom_canon h fun _ h => lanePush_canon h

theorem spineAns_canon {s0 : State} {t sp n} {res : State × QAns} {k : State → QAns → State}
    (hk : ∀ s a, Canonical s → Canonical (k s a)) (h0 : Canonical s0) (h : Canonical res.1) :
    Canonical (spineAns s0 t sp n res k) := by
  unfold spineAns
  grind -lia -linarith -ring -ac -order [spineTrap_canon, spineFault_canon, spineWait_canon, modSpine_canon,
    keepSaid_canon, escape_canon]

theorem spineTried_canon {s : State} {t d ok} (h : Canonical s) :
    Canonical (spineTried s t d ok) := by
  unfold spineTried
  grind -lia -linarith -ring -ac -order [spineSet_canon, modSpine_canon, Canonical_mk, Canonical.wf_mem,
    Canonical.wf_durable]

theorem spinePush_canon {s : State} {t sp n entry launch d} (h : Canonical s) :
    Canonical (spinePush s t sp n entry launch d) := by
  unfold spinePush
  refine spineRelease_canon (fun s h => spineAns_canon (fun s a h => ?_) h (qPush_canon h)) h
  split
  · exact spineTried_canon (State.fresh_canon h)
  · exact spineTried_canon h

theorem spineQueue_canon {s : State} {k : ℕ → Spine → ℕ → Dword → State} {i push b a} {t} (h : Canonical s) (hk : ∀ w0
  w1 w2 w3, Canonical (k w0 w1 w2 w3)) (e : spineQueue i push b a s k = .next t) :
    Canonical t := by
  unfold spineQueue at e
  grind -lia -linarith -ring -ac -order [spineEnter_canon, spineTrap_canon, spineIllop_canon, Canonical_mk,
    Canonical.wf_mem, Canonical.wf_durable]

theorem execSpineQpush_canon {s : State} {b a} {t} (h : Canonical s) (e : execSpineQpush b a s = .next t) :
    Canonical t := by
  unfold execSpineQpush at e
  grind -lia -linarith -ring -ac -order [spineRead_canon, spinePush_canon, spineQueue_canon, Canonical_mk,
    Canonical.wf_mem, Canonical.wf_durable]

theorem execSpineQpushTry_canon {s : State} {b a d} {t} (h : Canonical s) (e : execSpineQpushTry b a d s = .next t) :
    Canonical t := by
  unfold execSpineQpushTry at e
  grind -lia -linarith -ring -ac -order [spineRead_canon, spinePush_canon, spineQueue_canon, Canonical_mk,
    Canonical.wf_mem, Canonical.wf_durable]

theorem spinePop_canon {s : State} {t sp n va d} (h : Canonical s) :
    Canonical (spinePop s t sp n va d) := by
  have hdone : ∀ s, Canonical s → Canonical (spineTried s t d true) := fun _ h => spineTried_canon h
  have hpop : ∀ s1, Canonical s1 → Canonical (spineAns s1 t sp n (qPop s1 (rqSpine s sp) n d.isSome) fun s2 a => match
    a with
      | .popped bs => spineKept s2 t sp va bs fun s => spineTried s t d true
      | _ => spineTried s2 t d false) := by
    intro s1 h1
    refine spineAns_canon (fun s2 a h2 => ?_) h1 (qPop_canon h1)
    split
    · exact spineKept_canon h2 hdone
    · exact spineTried_canon h2
  unfold spinePop
  refine spineKeeps_canon h hdone ?_
  split
  · exact hpop s h
  · generalize hy : ownBytes s (rqSpine s sp) va.toNat 64 = y
    have h1 : Canonical y.1 := hy ▸ ownBytes_canon h
    obtain ⟨s1, a⟩ := y
    cases a with
    | done => exact hpop s1 h1
    | _ => exact spineGot_canon (fun _ _ h => h) h h1

theorem execSpineQpop_canon {s : State} {b a} {t} (h : Canonical s) (e : execSpineQpop b a s = .next t) :
    Canonical t := by
  unfold execSpineQpop at e
  grind -lia -linarith -ring -ac -order [spineQueue_canon, spinePop_canon, Canonical_mk, Canonical.wf_mem,
    Canonical.wf_durable]

theorem execSpineQpopTry_canon {s : State} {b a d} {t} (h : Canonical s) (e : execSpineQpopTry b a d s = .next t) :
    Canonical t := by
  unfold execSpineQpopTry at e
  grind -lia -linarith -ring -ac -order [spineQueue_canon, spinePop_canon, Canonical_mk, Canonical.wf_mem,
    Canonical.wf_durable]

theorem execSpineLaunch_canon {s : State} {b a} {t} (h : Canonical s) (e : execSpineLaunch b a s = .next t) :
    Canonical t := by
  refine spineEnter_canon (fun t sp => ?_) e
  dsimp only
  refine Canonical_ite ?_ (spinePush_canon h)
  split
  · exact spineFault_canon h
  · exact spineTrap_canon h

theorem execSvc_canon {s : State} {c a} {t} (h : Canonical s) (e : execSvc c a s = .next t) :
    Canonical t := by
  unfold execSvc at e
  grind -lia -linarith -ring -ac -order [spineEnter_canon, spinePush_canon, Canonical_mk, Canonical.wf_mem,
    Canonical.wf_durable]

end Sys2Proof.MemoryForm

/-! PROOFS. Canonical memory (02), part 2 of 7: the operations of Matrix, Copy, Recording, LaneControl keep the canonical form. -/

namespace Sys2Proof.MemoryForm

open Sys2Proof Sys2Proof.Machine Sys2Proof.Safety

/-! ### Matrix -/

theorem matCheck_canon {s : State} {k : State} {x bad mis} (h : Canonical s) (h1 : Canonical k) :
    Canonical (matCheck s x bad mis k) := by
  unfold matCheck
  grind -lia -linarith -ring -ac -order [Lx.trap_canon, Lx.illop_canon, Canonical_mk, Canonical.wf_mem,
    Canonical.wf_durable]

theorem modMop_canon {s : State} {id f} (h : Canonical s) :
    Canonical (modMop s id f) :=
  h

theorem addMop_canon {s : State} {cl m} (h : Canonical s) :
    Canonical (addMop s cl m) := by
  unfold addMop
  grind -lia -linarith -ring -ac -order [modCluster_canon, Canonical_mk, Canonical.wf_mem, Canonical.wf_durable]

theorem parkMop_canon {s0 : State} {s : State} {m acc va kind a codec} (h : Canonical s0) (h1 : Canonical s) :
    Canonical (parkMop s0 s m acc va kind a codec) := by
  unfold parkMop
  grind -lia -linarith -ring -ac -order [modMop_canon, keepSaid_canon, parkAcc_canon, sendRemote_canon, Canonical_mk,
    Canonical.wf_mem, Canonical.wf_durable]

theorem loadEntry_canon {s : State} {r e1 n} (h : Canonical s) :
    Canonical (loadEntry s r e1 n).1 := by
  unfold loadEntry
  grind -lia -linarith -ring -ac -order [entryRead_canon, Canonical_mk, Canonical.wf_mem, Canonical.wf_durable]

theorem noteFault_canon {s : State} {q a} (h : Canonical s) :
    Canonical (noteFault s q a) := by
  unfold noteFault
  grind -lia -linarith -ring -ac -order [parkAcc_canon, Canonical_mk, Canonical.wf_mem, Canonical.wf_durable]

theorem loadEntries_canon {s : State} {m} (h : Canonical s) :
    Canonical (loadEntries s m) := by
  unfold loadEntries
  grind -lia -linarith -ring -ac -order [modMop_canon, noteFault_canon, parkMop_canon, loadEntry_canon, Canonical_mk,
    Canonical.wf_mem, Canonical.wf_durable]

theorem matPost_canon {s : State} {x reads frees regs res m post release} (h : Canonical s) :
    Canonical (matPost s x reads frees regs res m post release) := by
  unfold matPost
  grind -lia -linarith -ring -ac -order [loadEntries_canon, addMop_canon, laneRelease_canon, finishLong_canon,
    setWait_canon, acquireGate_canon, longReady_canon, Canonical_mk, Canonical.wf_mem, Canonical.wf_durable]

theorem mopToken_canon {s : State} {m vals} (h : Canonical s) :
    Canonical (mopToken s m vals) := by
  unfold mopToken
  grind -lia -linarith -ring -ac -order [modCluster_canon, landPop_canon, stayAway_canon, codecForget_canon,
    Canonical_mk, Canonical.wf_mem, Canonical.wf_durable]

theorem mopError_canon {s : State} {m cause aux} (h : Canonical s) :
    Canonical (mopError s m cause aux) := by
  unfold mopError
  grind -lia -linarith -ring -ac -order [modSquad_canon, mopToken_canon, Canonical_mk, Canonical.wf_mem,
    Canonical.wf_durable]

theorem mopAcc_canon {s0 : State} {s : State} {m acc va kind a codec} (h : Canonical s0) (h1 : Canonical s) :
    Canonical (mopAcc s0 s m acc va kind a codec) := by
  unfold mopAcc
  grind -lia -linarith -ring -ac -order [parkMop_canon, mopError_canon, Canonical_mk, Canonical.wf_mem,
    Canonical.wf_durable]

theorem leaveBoard_canon {s : State} {m} (h : Canonical s) :
    Canonical (leaveBoard s m) := by
  unfold leaveBoard
  grind -lia -linarith -ring -ac -order [observe_canon, Canonical_mk, Canonical.wf_mem, Canonical.wf_durable]

theorem execMatrixPassGrant_canon {s : State} {t} (h : Canonical s) (e : execMatrixPassGrant s = .next t) :
    Canonical t := by
  unfold execMatrixPassGrant at e
  grind -lia -linarith -ring -ac -order [modMop_canon, leaveBoard_canon, Canonical_mk, Canonical.wf_mem,
    Canonical.wf_durable]

theorem stopPasses_canon {s : State} {team} (h : Canonical s) :
    Canonical (stopPasses s team) :=
  h

theorem stepDone_canon {s : State} {m loop} (h : Canonical s) :
    Canonical (stepDone s m loop) := by
  unfold stepDone
  grind -lia -linarith -ring -ac -order [modMop_canon, mopToken_canon, Canonical_mk, Canonical.wf_mem,
    Canonical.wf_durable]

theorem accumulateIn_canon {s : State} {m t aff a b} (h : Canonical s) :
    Canonical (accumulateIn s m t aff a b) := by
  unfold accumulateIn
  exact Canonical_foldl (fun _ _ h => modSquad_canon h) _ h

theorem mmaStep_canon {s : State} {m o team} (h : Canonical s) :
    Canonical (mmaStep s m o team) := by
  unfold mmaStep
  grind -lia -linarith -ring -ac -order [stepDone_canon, modCluster_canon, accumulateIn_canon, lsServe_canon,
    mopError_canon, modSeg_canon, Canonical_mk, Canonical.wf_mem, Canonical.wf_durable]

theorem mopTensor_canon {s0 : State} {s : State} {m a} (h : Canonical s0) (h1 : Canonical s) :
    Canonical (mopTensor s0 s m a) := by
  unfold mopTensor
  grind -lia -linarith -ring -ac -order [mopAcc_canon, mopError_canon, Canonical_mk, Canonical.wf_mem,
    Canonical.wf_durable]

theorem mmlStep_canon {s : State} {m o l} (h : Canonical s) :
    Canonical (mmlStep s m o l) := by
  unfold mmlStep
  grind -lia -linarith -ring -ac -order [loadEntries_canon, stepDone_canon, ecbDelivered_canon, mopTensor_canon,
    accumulateIn_canon, readTensor_canon, mopError_canon, Canonical_mk, Canonical.wf_mem, Canonical.wf_durable]

theorem scanStep_canon {s : State} {m o} (h : Canonical s) :
    Canonical (scanStep s m o) := by
  unfold scanStep
  grind -lia -linarith -ring -ac -order [stepDone_canon, modSquad_canon, Canonical_mk, Canonical.wf_mem,
    Canonical.wf_durable]

theorem execMatrixStepComplete_canon {s : State} {t} (h : Canonical s) (e : execMatrixStepComplete s = .next t) :
    Canonical t := by
  unfold execMatrixStepComplete at e
  grind -lia -linarith -ring -ac -order [mmlStep_canon, scanStep_canon, mmaStep_canon, mopError_canon, Canonical_mk,
    Canonical.wf_mem, Canonical.wf_durable]

theorem mmstLines_canon {r va bs} (ls : List Nat) {s : State} {done} (h : Canonical s) :
    Canonical (mmstLines r va bs ls s done).1 := by
  induction ls generalizing s done with
  | nil => exact h
  | cons l ls ih =>
    unfold mmstLines
    grind -lia -linarith -ring -ac -order [storeRange_canon]

theorem moveTile_canon {s : State} {m q o load} (h : Canonical s) :
    Canonical (moveTile s m q o load) := by
  unfold moveTile
  grind -lia -linarith -ring -ac -order [modMop_canon, mmstLines_canon, mopAcc_canon, modSquad_canon, mopToken_canon,
    readLines_canon, modSeg_canon, Canonical_mk, Canonical.wf_mem, Canonical.wf_durable]

theorem transfer_canon {s : State} {m q} (h : Canonical s) :
    Canonical (transfer s m q) := by
  unfold transfer
  grind -lia -linarith -ring -ac -order [moveTile_canon, modSquad_canon, mopToken_canon, Canonical_mk,
    Canonical.wf_mem, Canonical.wf_durable]

theorem execTransferPortComplete_canon {s : State} {t} (h : Canonical s) (e : execTransferPortComplete s = .next t) :
    Canonical t := by
  unfold execTransferPortComplete at e
  grind -lia -linarith -ring -ac -order [leaveBoard_canon, transfer_canon, mopError_canon, Canonical_mk,
    Canonical.wf_mem, Canonical.wf_durable]

theorem execEngineHang_canon {s : State} {t} (h : Canonical s) (e : execEngineHang s = .next t) :
    Canonical t := by
  unfold execEngineHang at e
  grind -lia -linarith -ring -ac -order [modCluster_canon, Canonical_mk, Canonical.wf_mem, Canonical.wf_durable]

theorem execEngineReset_canon {s : State} {t} (h : Canonical s) (e : execEngineReset s = .next t) :
    Canonical t := by
  cases e
  refine Canonical_ite ?_ h
  dsimp only
  refine modCluster_canon (Canonical_foldl (fun _ _ h => mopError_canon h) _ ?_)
  exact Canonical_foldl (fun _ _ h => modSquad_canon h) _ h

theorem execMma_canon {s : State} {o} {t} (h : Canonical s) (e : execMma o s = .next t) :
    Canonical t := by
  unfold execMma at e
  dsimp only at e
  refine laneEnter_canon (fun x => matCheck_canon h ?_) h e
  split
  · exact matPost_canon h
  · exact h

theorem execMml_canon {s : State} {o} {t} (h : Canonical s) (e : execMml o s = .next t) :
    Canonical t := by
  unfold execMml at e
  grind -lia -linarith -ring -ac -order [laneEnter_canon, setWait_canon, matCheck_canon, matPost_canon, Canonical_mk,
    Canonical.wf_mem, Canonical.wf_durable]

theorem execMmz_canon {s : State} {o} {t} (h : Canonical s) (e : execMmz o s = .next t) :
    Canonical t := by
  unfold execMmz at e
  grind -lia -linarith -ring -ac -order [laneEnter_canon, matCheck_canon, matPost_canon, Canonical_mk,
    Canonical.wf_mem, Canonical.wf_durable]

theorem execMmld_canon {s : State} {o} {t} (h : Canonical s) (e : execMmld o s = .next t) :
    Canonical t := by
  unfold execMmld at e
  grind -lia -linarith -ring -ac -order [laneEnter_canon, matCheck_canon, matPost_canon, Canonical_mk,
    Canonical.wf_mem, Canonical.wf_durable]

theorem execMmst_canon {s : State} {o} {t} (h : Canonical s) (e : execMmst o s = .next t) :
    Canonical t := by
  unfold execMmst at e
  grind -lia -linarith -ring -ac -order [laneEnter_canon, escape_canon, matCheck_canon, matPost_canon, Canonical_mk,
    Canonical.wf_mem, Canonical.wf_durable]

theorem execMmrd_canon {s : State} {o} {t} (h : Canonical s) (e : execMmrd o s = .next t) :
    Canonical t := by
  unfold execMmrd at e
  grind -lia -linarith -ring -ac -order [laneEnter_canon, matCheck_canon, matPost_canon, Canonical_mk,
    Canonical.wf_mem, Canonical.wf_durable]

theorem execMmwr_canon {s : State} {o} {t} (h : Canonical s) (e : execMmwr o s = .next t) :
    Canonical t := by
  unfold execMmwr at e
  grind -lia -linarith -ring -ac -order [laneEnter_canon, matCheck_canon, matPost_canon, Canonical_mk,
    Canonical.wf_mem, Canonical.wf_durable]

theorem execScan_canon {s : State} {o} {t} (h : Canonical s) (e : execScan o s = .next t) :
    Canonical t := by
  unfold execScan at e
  grind -lia -linarith -ring -ac -order [laneEnter_canon, matCheck_canon, matPost_canon, Canonical_mk,
    Canonical.wf_mem, Canonical.wf_durable]

theorem execCset_canon {s : State} {o} {t} (h : Canonical s) (e : execCset o s = .next t) :
    Canonical t := by
  unfold execCset at e
  grind -lia -linarith -ring -ac -order [laneEnter_canon, matCheck_canon, matPost_canon, Canonical_mk,
    Canonical.wf_mem, Canonical.wf_durable]

theorem execCsetId_canon {s : State} {o} {t} (h : Canonical s) (e : execCsetId o s = .next t) :
    Canonical t := by
  unfold execCsetId at e
  grind -lia -linarith -ring -ac -order [laneEnter_canon, matCheck_canon, matPost_canon, Canonical_mk,
    Canonical.wf_mem, Canonical.wf_durable]

theorem execCget_canon {s : State} {o} {t} (h : Canonical s) (e : execCget o s = .next t) :
    Canonical t := by
  unfold execCget at e
  grind -lia -linarith -ring -ac -order [laneEnter_canon, matCheck_canon, matPost_canon, Canonical_mk,
    Canonical.wf_mem, Canonical.wf_durable]

theorem execTstat_canon {s : State} {o} {t} (h : Canonical s) (e : execTstat o s = .next t) :
    Canonical t := by
  unfold execTstat at e
  grind -lia -linarith -ring -ac -order [laneEnter_canon, finishShort_canon, Lx.illop_canon, matPost_canon,
    Canonical_mk, Canonical.wf_mem, Canonical.wf_durable]

theorem tidAccess_canon {s : State} {x n regs reads frees data res} (h : Canonical s) :
    Canonical (tidAccess s x n regs reads frees data res) := by
  unfold tidAccess
  grind -lia -linarith -ring -ac -order [issueAccess_canon, setWait_canon, longReady_canon, Canonical_mk,
    Canonical.wf_mem, Canonical.wf_durable]

theorem execTiset_canon {s : State} {o} {t} (h : Canonical s) (e : execTiset o s = .next t) :
    Canonical t := by
  unfold execTiset at e
  grind -lia -linarith -ring -ac -order [laneEnter_canon, escape_canon, finishShort_canon, tidAccess_canon,
    Lx.illop_canon, Canonical_mk, Canonical.wf_mem, Canonical.wf_durable]

theorem execTiget_canon {s : State} {o} {t} (h : Canonical s) (e : execTiget o s = .next t) :
    Canonical t := by
  unfold execTiget at e
  grind -lia -linarith -ring -ac -order [laneEnter_canon, finishShort_canon, tidAccess_canon, Lx.illop_canon,
    Canonical_mk, Canonical.wf_mem, Canonical.wf_durable]

theorem pfxTurn_canon {s : State} {x} (h : Canonical s) :
    Canonical (pfxTurn s x) := by
  unfold pfxTurn
  grind -lia -linarith -ring -ac -order [inOrder_canon, Canonical_mk, Canonical.wf_mem, Canonical.wf_durable]

theorem execPfxh_canon {s : State} {o} {t} (h : Canonical s) (e : execPfxh o s = .next t) :
    Canonical t := by
  unfold execPfxh at e
  grind -lia -linarith -ring -ac -order [laneEnter_canon, modCluster_canon, pfxTurn_canon, finishLong_canon,
    finishShort_canon, Lx.illop_canon, longReady_canon, Canonical_mk, Canonical.wf_mem, Canonical.wf_durable]

theorem execPfxhClr_canon {s : State} {o} {t} (h : Canonical s) (e : execPfxhClr o s = .next t) :
    Canonical t := by
  unfold execPfxhClr at e
  grind -lia -linarith -ring -ac -order [laneEnter_canon, modCluster_canon, pfxTurn_canon, finishLong_canon,
    finishShort_canon, Lx.illop_canon, longReady_canon, Canonical_mk, Canonical.wf_mem, Canonical.wf_durable]

theorem mopReplay_canon {s : State} {id} (h : Canonical s) :
    Canonical (mopReplay s id) :=
  h

theorem mopUnresolved_canon {s : State} {id kind} (h : Canonical s) :
    Canonical (mopUnresolved s id kind) := by
  unfold mopUnresolved
  grind -lia -linarith -ring -ac -order [mopError_canon, Canonical_mk, Canonical.wf_mem, Canonical.wf_durable]

theorem mopAnswer_canon {s : State} {id line bs} (h : Canonical s) :
    Canonical (mopAnswer s id line bs) :=
  h

theorem mopRepost_canon {s : State} {m} (h : Canonical s) :
    Canonical (mopRepost s m) := by
  unfold mopRepost
  grind -lia -linarith -ring -ac -order [loadEntries_canon, addMop_canon, modSquad_canon, raiseFlag_canon,
    Canonical_mk, Canonical.wf_mem, Canonical.wf_durable]

/-! ### Copy -/

theorem modCopy_canon {s : State} {id f} (h : Canonical s) :
    Canonical (modCopy s id f) :=
  h

theorem releaseGrains_canon {s : State} {c} (h : Canonical s) :
    Canonical (releaseGrains s c) := by
  unfold releaseGrains
  split
  · exact h
  · next va _ =>
    dsimp only
    generalize hs : List.foldl flushGrain s _ = s1
    have h1 : Canonical s1 := hs ▸ Canonical_foldl (fun _ _ h => flushGrain_canon h) _ h
    exact h1

theorem dropCopy_canon {s : State} {id} (h : Canonical s) :
    Canonical (dropCopy s id) := by
  unfold dropCopy
  grind -lia -linarith -ring -ac -order [codecForget_canon, Canonical_mk, Canonical.wf_mem, Canonical.wf_durable]

theorem parkCopy_canon {s0 : State} {s : State} {c acc va kind a codec} (h : Canonical s0) (h1 : Canonical s) :
    Canonical (parkCopy s0 s c acc va kind a codec) := by
  unfold parkCopy
  grind -lia -linarith -ring -ac -order [keepSaid_canon, modCopy_canon, parkAcc_canon, sendRemote_canon, Canonical_mk,
    Canonical.wf_mem, Canonical.wf_durable]

theorem noteCopy_canon {s : State} {r acc va kind a codec} (h : Canonical s) :
    Canonical (noteCopy s r acc va kind a codec) := by
  unfold noteCopy
  grind -lia -linarith -ring -ac -order [noteFault_canon, Canonical_mk, Canonical.wf_mem, Canonical.wf_durable]

theorem writeWord_canon {s : State} {c} (h : Canonical s) :
    Canonical (writeWord s c) := by
  unfold writeWord
  grind -lia -linarith -ring -ac -order [storeRange_canon, parkCopy_canon, wakeSpine_canon, dropCopy_canon,
    Canonical_mk, Canonical.wf_mem, Canonical.wf_durable]

theorem copyEnd_canon {s : State} {c code aux spineCode blk} (h : Canonical s) :
    Canonical (copyEnd s c code aux spineCode blk) := by
  unfold copyEnd
  grind -lia -linarith -ring -ac -order [writeWord_canon, releaseGrains_canon, landPop_canon, modSquad_canon,
    modCopy_canon, dropCopy_canon, Canonical_mk, Canonical.wf_mem, Canonical.wf_durable]

theorem copyAcc_canon {s0 : State} {s : State} {c acc va kind a codec} (h : Canonical s0) (h1 : Canonical s) :
    Canonical (copyAcc s0 s c acc va kind a codec) := by
  unfold copyAcc
  grind -lia -linarith -ring -ac -order [parkCopy_canon, copyEnd_canon, Canonical_mk, Canonical.wf_mem,
    Canonical.wf_durable]

theorem unitToLs_canon {s : State} {c r off bs} (h : Canonical s) :
    Canonical (unitToLs s c r off bs) := by
  unfold unitToLs
  dsimp only
  split
  · exact modSeg_canon (lsServe_canon h)
  · exact Canonical_foldl (fun _ _ h => armBlock_canon h) _ (modSeg_canon (lsServe_canon h))

theorem partWrite_canon {s0 : State} {s : State} {post : State → State} {c a bs} (h : Canonical s0) (h1 : Canonical s)
  (hpost : ∀ u0, Canonical u0 → Canonical (post u0)) :
    Canonical (partWrite s0 s c a bs post) := by
  unfold partWrite
  grind -lia -linarith -ring -ac -order [storeRange_canon, copyAcc_canon, keepSaid_canon, modCopy_canon, Canonical_mk,
    Canonical.wf_mem, Canonical.wf_durable]

theorem unitWrite_canon {s0 : State} {s : State} {post : State → State} {c bs} (h : Canonical s0) (h1 : Canonical s)
  (hpost : ∀ u0, Canonical u0 → Canonical (post u0)) :
    Canonical (unitWrite s0 s c bs post) := by
  unfold unitWrite
  grind -lia -linarith -ring -ac -order [unitToLs_canon, partWrite_canon, ownBytes_canon, copyAcc_canon,
    keepSaid_canon, modCopy_canon, Canonical_mk, Canonical.wf_mem, Canonical.wf_durable]

theorem copyUnit_canon {s : State} {c} (h : Canonical s) :
    Canonical (copyUnit s c) := by
  unfold copyUnit
  split
  · split
    · exact copyEnd_canon h
    · next t _ =>
      refine Canonical_ite ?_ (copyEnd_canon h)
      dsimp only
      generalize List.map _ _ = ls
      have h1 := readTensor_canon (r := rqCopy s c) (resp := c.resp) (t := t) (ls := ls) (plain := []) h
      generalize readTensor s (rqCopy s c) c.resp t ls [] = y at h1 ⊢
      obtain ⟨s1, a, f, z⟩ := y
      cases a with
      | ok => exact unitWrite_canon h h1 fun _ h => ecbDelivered_canon h
      | acc a l codec => exact copyAcc_canon h h1
      | codecsum b => exact copyEnd_canon h1
  · split
    · exact Canonical_ite (unitWrite_canon h h fun _ h => h) (unitWrite_canon h (State.draw_canon h) fun _ h => h)
    · next va _ =>
      dsimp only
      generalize linesOf _ _ = ls
      have h1 := readLines_canon (r := rqCopy s c) (resp := c.resp) (got := []) (ls := ls) h
      generalize readLines (rqCopy s c) c.resp ls s [] = y at h1 ⊢
      obtain ⟨s1, a, l, got⟩ := y
      split
      · next heq =>
        cases heq
        exact unitWrite_canon h h1 fun _ h => h
      · next heq =>
        cases heq
        exact copyAcc_canon h h1

theorem copyEntry_canon {s : State} {c} (h : Canonical s) :
    Canonical (copyEntry s c) := by
  unfold copyEntry
  grind -lia -linarith -ring -ac -order [parkCopy_canon, noteCopy_canon, copyEnd_canon, modCopy_canon,
    entryRead_canon, Canonical_mk, Canonical.wf_mem, Canonical.wf_durable]

theorem copyRun_canon {id stop} (n : Nat) {s : State} (h : Canonical s) : Canonical (copyRun id stop n s) := by
  induction n generalizing s with
  | zero => exact h
  | succ n ih =>
    unfold copyRun
    grind -lia -linarith -ring -ac -order [writeWord_canon, copyEntry_canon, copyEnd_canon, copyUnit_canon]

theorem execCopyComplete_canon {s : State} {t} (h : Canonical s) (e : execCopyComplete s = .next t) :
    Canonical t := by
  unfold execCopyComplete at e
  grind -lia -linarith -ring -ac -order [copyRun_canon, Canonical_mk, Canonical.wf_mem, Canonical.wf_durable]

theorem execEcbDecode_canon {s : State} {t} (h : Canonical s) (e : execEcbDecode s = .next t) :
    Canonical t := by
  unfold execEcbDecode at e
  grind -lia -linarith -ring -ac -order [copyUnit_canon, Canonical_mk, Canonical.wf_mem, Canonical.wf_durable]

theorem ownGrain_canon {s : State} {r va} (h : Canonical s) :
    Canonical (ownGrain s r va).1 := by
  unfold ownGrain
  grind -lia -linarith -ring -ac -order [requestFor_canon, takeOwnership_canon, askHost_canon, putCopy_canon,
    Canonical_mk, Canonical.wf_mem, Canonical.wf_durable]

theorem ownRange_canon {r stop} (n : Nat) {s : State} {va} (h : Canonical s) : Canonical (ownRange r stop n s va) :=
  by
  induction n generalizing s va with
  | zero => exact h
  | succ n ih => exact Canonical_ite h (ih (ownGrain_canon h))

theorem addCopy_canon {s : State} {c} (h : Canonical s) :
    Canonical (addCopy s c) := by
  unfold addCopy
  grind -lia -linarith -ring -ac -order [ownRange_canon, copyEntry_canon, Canonical_mk, Canonical.wf_mem,
    Canonical.wf_durable]

theorem laneCopy_canon {s : State} {i o srcLs dstLs} {t} (h : Canonical s) (e : laneCopy i o srcLs dstLs s = .next t)
  :
    Canonical t := by
  unfold laneCopy at e
  grind -lia -linarith -ring -ac -order [laneEnter_canon, escape_canon, addCopy_canon, laneRelease_canon,
    switchOff_canon, finishLong_canon, setWait_canon, finishShort_canon, Lx.illop_canon, longReady_canon,
    Canonical_mk, Canonical.wf_mem, Canonical.wf_durable]

theorem execCpy_canon {s : State} {o} {t} (h : Canonical s) (e : execCpy o s = .next t) :
    Canonical t := by
  unfold execCpy at e
  grind -lia -linarith -ring -ac -order [laneCopy_canon, Canonical_mk, Canonical.wf_mem, Canonical.wf_durable]

theorem execCpys_canon {s : State} {o} {t} (h : Canonical s) (e : execCpys o s = .next t) :
    Canonical t := by
  unfold execCpys at e
  grind -lia -linarith -ring -ac -order [laneCopy_canon, Canonical_mk, Canonical.wf_mem, Canonical.wf_durable]

theorem wordCheck_canon {s : State} {k : State → State} {t sp word} (h : Canonical s) (hk : ∀ u0, Canonical u0 →
  Canonical (k u0)) :
    Canonical (wordCheck s t sp word k) := by
  unfold wordCheck
  grind -lia -linarith -ring -ac -order [request_canon, spineGot_canon, Canonical_mk, Canonical.wf_mem,
    Canonical.wf_durable]

theorem wordConsent_canon {s : State} {k : State → Spine → State} {t sp word} (h : Canonical s) (hk : ∀ u0 w1,
  Canonical u0 → Canonical (k u0 w1)) :
    Canonical (wordConsent s t sp word k) := by
  unfold wordConsent
  grind -lia -linarith -ring -ac -order [modSpine_canon, spineGot_canon, Canonical_mk, Canonical.wf_mem,
    Canonical.wf_durable]

theorem execSpineCpy_canon {s : State} {b a} {t} (h : Canonical s) (e : execSpineCpy b a s = .next t) :
    Canonical t := by
  unfold execSpineCpy at e
  grind -lia -linarith -ring -ac -order [escape_canon, modSpine_canon, addCopy_canon, wordCheck_canon,
    spineEnter_canon, spineRelease_canon, spineRead_canon, spineWait_canon, wordConsent_canon, spineTrap_canon,
    Canonical_mk, Canonical.wf_mem, Canonical.wf_durable]

theorem credDone_canon {s : State} {id st cause arr} (h : Canonical s) :
    Canonical (credDone s id st cause arr) := by
  unfold credDone
  grind -lia -linarith -ring -ac -order [landPop_canon, Canonical_mk, Canonical.wf_mem, Canonical.wf_durable]

theorem parkCred_canon {s0 : State} {s : State} {r id acc va kind a} (h : Canonical s0) (h1 : Canonical s) :
    Canonical (parkCred s0 s r id acc va kind a) := by
  unfold parkCred
  grind -lia -linarith -ring -ac -order [keepSaid_canon, parkAcc_canon, sendRemote_canon, Canonical_mk,
    Canonical.wf_mem, Canonical.wf_durable]

theorem modGroup_canon {s : State} {slot va f} (h : Canonical s) :
    Canonical (modGroup s slot va f) :=
  h

theorem readElems_canon {s : State} {r resp t} (h : Canonical s) :
    Canonical (readElems s r resp t).1 := by
  unfold readElems
  grind -lia -linarith -ring -ac -order [readLines_canon, Canonical_mk, Canonical.wf_mem, Canonical.wf_durable]

theorem readSource_canon {s : State} {r c t} (h : Canonical s) :
    Canonical (readSource s r c t).1 := by
  unfold readSource
  grind -lia -linarith -ring -ac -order [State.draw_canon, noteCopy_canon, parkCred_canon, readElems_canon,
    Canonical_mk, Canonical.wf_mem, Canonical.wf_durable]

theorem readSources_canon {r} (cs : List Contrib) {s : State} (h : Canonical s) : Canonical (readSources r cs s).1 :=
  by
  induction cs generalizing s with
  | nil => exact h
  | cons c cs ih =>
    unfold readSources
    grind -lia -linarith -ring -ac -order [readSource_canon]

theorem writeElems_canon {r n} (xs : List (Nat × Nat)) {k} {s : State} (h : Canonical s) :
    Canonical (writeElems r n xs k s).1 := by
  induction xs generalizing k s with
  | nil => exact h
  | cons x xs ih =>
    unfold writeElems
    grind -lia -linarith -ring -ac -order [storeRange_canon]

theorem groupFinal_canon {s : State} {g failed dead} (h : Canonical s) :
    Canonical (groupFinal s g failed dead) := by
  unfold groupFinal
  dsimp only
  exact Canonical_foldl (fun _ _ h => credDone_canon h) _ (modGroup_canon h)

theorem groupClose_canon {s0 : State} {g} (h : Canonical s0) :
    Canonical (groupClose s0 g) := by
  unfold groupClose
  grind -lia -linarith -ring -ac -order [modGroup_canon, noteCopy_canon, groupFinal_canon, parkCred_canon,
    writeElems_canon, readSources_canon, Canonical_mk, Canonical.wf_mem, Canonical.wf_durable]

theorem joinGroup_canon {s : State} {c h1 record src dst es ed} (h : Canonical s) :
    Canonical (joinGroup s c h1 record src dst es ed) := by
  unfold joinGroup
  dsimp only
  have h1 := storeRange_canon (q := rqCred s (64 * h1) c.slot) (va := (BitVec.ofNat 64 (cGroup c.desc)).toNat) (bs := recordMark s) h
  generalize storeRange s _ _ _ = y at h1 ⊢
  obtain ⟨s1, a⟩ := y
  split
  · refine Canonical_ite h ?_
    cases a with
    | done => exact h1
    | _ => exact Canonical_ite (credDone_canon (noteCopy_canon h1)) (parkCred_canon h h1)
  · next g _ =>
    split
    · refine Canonical_ite (Canonical_ite h ?_) (credDone_canon h)
      cases a with
      | done => exact h1
      | _ => exact Canonical_ite (credDone_canon (noteCopy_canon h1)) (parkCred_canon h h1)
    · refine Canonical_ite h (Canonical_ite ?_ (Canonical_ite (credDone_canon h) (modGroup_canon h)))
      have h2 := groupClose_canon (g := g) h
      generalize groupClose s g = s2 at h2 ⊢
      split
      · exact credDone_canon h2
      · exact h2

theorem closeIfFull_canon {s : State} {slot va} (h : Canonical s) :
    Canonical (closeIfFull s slot va) := by
  unfold closeIfFull
  grind -lia -linarith -ring -ac -order [groupClose_canon, Canonical_mk, Canonical.wf_mem, Canonical.wf_durable]

theorem execCredArrival_canon {s : State} {t} (h : Canonical s) (e : execCredArrival s = .next t) :
    Canonical t := by
  cases e
  dsimp only
  repeat' split
  all_goals grind -lia -linarith -ring -ac -order [credDone_canon, noteCopy_canon, parkCred_canon, entryRead_canon,
    loadRange_canon, joinGroup_canon,
    closeIfFull_canon]

theorem execCredDeadline_canon {s : State} {t} (h : Canonical s) (e : execCredDeadline s = .next t) :
    Canonical t := by
  unfold execCredDeadline at e
  grind -lia -linarith -ring -ac -order [groupClose_canon, Canonical_mk, Canonical.wf_mem, Canonical.wf_durable]

theorem execCredLostTimeout_canon {s : State} {t} (h : Canonical s) (e : execCredLostTimeout s = .next t) :
    Canonical t := by
  unfold execCredLostTimeout at e
  cases e
  split
  · exact h
  · exact Canonical_ite (credDone_canon h) h

theorem execCred_canon {s : State} {o} {t} (h : Canonical s) (e : execCred o s = .next t) :
    Canonical t := by
  unfold execCred at e
  grind -lia -linarith -ring -ac -order [laneEnter_canon, escape_canon, loadRange_canon, laneRelease_canon,
    issueAccess_canon, credPost_canon, finishLong_canon, setWait_canon, finishShort_canon, Lx.trap_canon,
    longReady_canon, Canonical_mk, Canonical.wf_mem, Canonical.wf_durable]

theorem copyReplay_canon {s : State} {id} (h : Canonical s) :
    Canonical (copyReplay s id) :=
  h

theorem copyUnresolved_canon {s : State} {id kind acc} (h : Canonical s) :
    Canonical (copyUnresolved s id kind acc) := by
  unfold copyUnresolved
  grind -lia -linarith -ring -ac -order [modGroup_canon, copyEnd_canon, credDone_canon, dropCopy_canon, Canonical_mk,
    Canonical.wf_mem, Canonical.wf_durable]

theorem copyAnswer_canon {s : State} {id line write n bs} (h : Canonical s) :
    Canonical (copyAnswer s id line write n bs) := by
  unfold copyAnswer
  grind -lia -linarith -ring -ac -order [modCopy_canon, wakeSpine_canon, dropCopy_canon, Canonical_mk,
    Canonical.wf_mem, Canonical.wf_durable]

theorem copyReissue_canon {s : State} {c} (h : Canonical s) :
    Canonical (copyReissue s c) := by
  unfold copyReissue
  grind -lia -linarith -ring -ac -order [addCopy_canon, raiseFlag_canon, Canonical_mk, Canonical.wf_mem,
    Canonical.wf_durable]

/-! ### Recording -/

theorem logValue_canon {s : State} {slot key live pop who} (h : Canonical s) :
    Canonical (logValue s slot key live pop who).1 := by
  unfold logValue
  grind -lia -linarith -ring -ac -order [svcErr_canon, Canonical_mk, Canonical.wf_mem, Canonical.wf_durable]

theorem logService_canon {s : State} {slot sq entry} {t} (h : Canonical s) (e : logService s slot sq entry = some t) :
    Canonical t := by
  unfold logService at e
  dsimp only at e
  split at e
  · cases e
    exact h
  · split at e
    · cases e
    · obtain ⟨⟨u, made⟩, hu, rfl⟩ := Option.map_eq_some_iff.mp e
      exact devicePushTry_canon h hu

/-! ### LaneControl -/

theorem laneBranch_canon {s : State} {x frees reads link noDiverge target} (h : Canonical s) :
    Canonical (laneBranch s x frees reads link noDiverge target) := by
  unfold laneBranch
  grind -lia -linarith -ring -ac -order [modSquad_canon, setWait_canon, finishShort_canon, Lx.trap_canon,
    Canonical_mk, Canonical.wf_mem, Canonical.wf_durable]

theorem execBra_canon {s : State} {o} {t} (h : Canonical s) (e : execBra o s = .next t) :
    Canonical t := by
  unfold execBra at e
  grind -lia -linarith -ring -ac -order [laneEnter_canon, laneBranch_canon, Canonical_mk, Canonical.wf_mem,
    Canonical.wf_durable]

theorem execBru_canon {s : State} {o} {t} (h : Canonical s) (e : execBru o s = .next t) :
    Canonical t := by
  unfold execBru at e
  grind -lia -linarith -ring -ac -order [laneEnter_canon, finishShort_canon, laneBranch_canon, Canonical_mk,
    Canonical.wf_mem, Canonical.wf_durable]

theorem checkTargets_canon {s : State} {k : State} {x ret target} (h : Canonical s) (h1 : Canonical k) :
    Canonical (checkTargets s x ret k target) := by
  unfold checkTargets
  grind -lia -linarith -ring -ac -order [Lx.trap_canon, Canonical_mk, Canonical.wf_mem, Canonical.wf_durable]

theorem execJmp_canon {s : State} {o} {t} (h : Canonical s) (e : execJmp o s = .next t) :
    Canonical t := by
  unfold execJmp at e
  grind -lia -linarith -ring -ac -order [laneEnter_canon, checkTargets_canon, laneBranch_canon, Canonical_mk,
    Canonical.wf_mem, Canonical.wf_durable]

theorem execCall_canon {s : State} {o} {t} (h : Canonical s) (e : execCall o s = .next t) :
    Canonical t := by
  unfold execCall at e
  grind -lia -linarith -ring -ac -order [laneEnter_canon, checkTargets_canon, laneBranch_canon, Canonical_mk,
    Canonical.wf_mem, Canonical.wf_durable]

theorem execRet_canon {s : State} {o} {t} (h : Canonical s) (e : execRet o s = .next t) :
    Canonical t := by
  unfold execRet at e
  grind -lia -linarith -ring -ac -order [laneEnter_canon, checkTargets_canon, laneBranch_canon, Canonical_mk,
    Canonical.wf_mem, Canonical.wf_durable]

theorem parkAll_canon {s : State} {x kind} (h : Canonical s) :
    Canonical (parkAll s x kind) := by
  unfold parkAll
  grind -lia -linarith -ring -ac -order [modSquad_canon, setWait_canon, Lx.trap_canon, Canonical_mk, Canonical.wf_mem,
    Canonical.wf_durable]

theorem execRejoin_canon {s : State} {o} {t} (h : Canonical s) (e : execRejoin o s = .next t) :
    Canonical t := by
  unfold execRejoin at e
  grind -lia -linarith -ring -ac -order [laneEnter_canon, parkAll_canon, finishShort_canon, Canonical_mk,
    Canonical.wf_mem, Canonical.wf_durable]

theorem execRejoinS_canon {s : State} {o} {t} (h : Canonical s) (e : execRejoinS o s = .next t) :
    Canonical t := by
  unfold execRejoinS at e
  grind -lia -linarith -ring -ac -order [laneEnter_canon, parkAll_canon, finishShort_canon, Canonical_mk,
    Canonical.wf_mem, Canonical.wf_durable]

theorem exitLanes_canon {s : State} {o x} (h : Canonical s) :
    Canonical (exitLanes o s x) := by
  unfold exitLanes
  grind -lia -linarith -ring -ac -order [settleExit_canon, modSquad_canon, endLanes_canon, Canonical_mk,
    Canonical.wf_mem, Canonical.wf_durable]

theorem execExit_canon {s : State} {o} {t} (h : Canonical s) (e : execExit o s = .next t) :
    Canonical t := by
  unfold execExit at e
  grind -lia -linarith -ring -ac -order [laneEnter_canon, modSquad_canon, setWait_canon, exitLanes_canon,
    seeAll_canon, Canonical_mk, Canonical.wf_mem, Canonical.wf_durable]

theorem execYield_canon {s : State} {o} {t} (h : Canonical s) (e : execYield o s = .next t) :
    Canonical t := by
  unfold execYield at e
  grind -lia -linarith -ring -ac -order [laneEnter_canon, modSquad_canon, Lx.illop_canon, Canonical_mk,
    Canonical.wf_mem, Canonical.wf_durable]

theorem arrive_canon {s : State} {x} (h : Canonical s) :
    Canonical (arrive s x) := by
  unfold arrive
  grind -lia -linarith -ring -ac -order [barrierTest_canon, modTeam_canon, modSquad_canon, Canonical_mk,
    Canonical.wf_mem, Canonical.wf_durable]

theorem barrierWait_canon {s : State} {x} (h : Canonical s) :
    Canonical (barrierWait s x) := by
  unfold barrierWait
  grind -lia -linarith -ring -ac -order [setWait_canon, finishShort_canon, Canonical_mk, Canonical.wf_mem,
    Canonical.wf_durable]

theorem execBar_canon {s : State} {o} {t} (h : Canonical s) (e : execBar o s = .next t) :
    Canonical t := by
  unfold execBar at e
  grind -lia -linarith -ring -ac -order [laneEnter_canon, laneRelease_canon, arrive_canon, barrierWait_canon,
    setWait_canon, finishShort_canon, Canonical_mk, Canonical.wf_mem, Canonical.wf_durable]

theorem execBarar_canon {s : State} {o} {t} (h : Canonical s) (e : execBarar o s = .next t) :
    Canonical t := by
  unfold execBarar at e
  grind -lia -linarith -ring -ac -order [laneEnter_canon, laneRelease_canon, arrive_canon, setWait_canon,
    finishShort_canon, Canonical_mk, Canonical.wf_mem, Canonical.wf_durable]

theorem execBarwt_canon {s : State} {o} {t} (h : Canonical s) (e : execBarwt o s = .next t) :
    Canonical t := by
  unfold execBarwt at e
  grind -lia -linarith -ring -ac -order [laneEnter_canon, barrierWait_canon, finishShort_canon, Canonical_mk,
    Canonical.wf_mem, Canonical.wf_durable]

theorem execNap_canon {s : State} {o} {t} (h : Canonical s) (e : execNap o s = .next t) :
    Canonical t := by
  unfold execNap at e
  grind -lia -linarith -ring -ac -order [laneEnter_canon, setWait_canon, finishShort_canon, Canonical_mk,
    Canonical.wf_mem, Canonical.wf_durable]

theorem execCsrr_canon {s : State} {o} {t} (h : Canonical s) (e : execCsrr o s = .next t) :
    Canonical t := by
  unfold execCsrr at e
  grind -lia -linarith -ring -ac -order [laneEnter_canon, finishLong_canon, longReady_canon, Canonical_mk,
    Canonical.wf_mem, Canonical.wf_durable]

theorem laneCsrWrite_canon {s : State} {id team n v} (h : Canonical s) :
    Canonical (laneCsrWrite s id team n v) := by
  unfold laneCsrWrite
  grind -lia -linarith -ring -ac -order [modTeam_canon, modSquad_canon, Canonical_mk, Canonical.wf_mem,
    Canonical.wf_durable]

theorem execCsrw_canon {s : State} {o} {t} (h : Canonical s) (e : execCsrw o s = .next t) :
    Canonical t := by
  unfold execCsrw at e
  grind -lia -linarith -ring -ac -order [laneEnter_canon, laneCsrWrite_canon, finishShort_canon, Canonical_mk,
    Canonical.wf_mem, Canonical.wf_durable]

theorem execTrap_canon {s : State} {o} {t} (h : Canonical s) (e : execTrap o s = .next t) :
    Canonical t := by
  unfold execTrap at e
  grind -lia -linarith -ring -ac -order [laneEnter_canon, finishShort_canon, Lx.trap_canon, Canonical_mk,
    Canonical.wf_mem, Canonical.wf_durable]

theorem execBrk_canon {s : State} {o} {t} (h : Canonical s) (e : execBrk o s = .next t) :
    Canonical t := by
  unfold execBrk at e
  grind -lia -linarith -ring -ac -order [laneEnter_canon, finishShort_canon, Lx.trap_canon, Canonical_mk,
    Canonical.wf_mem, Canonical.wf_durable]

theorem execNop_canon {s : State} {o} {t} (h : Canonical s) (e : execNop o s = .next t) :
    Canonical t := by
  unfold execNop at e
  grind -lia -linarith -ring -ac -order [laneEnter_canon, finishShort_canon, Canonical_mk, Canonical.wf_mem,
    Canonical.wf_durable]

theorem countNdet_canon {s : State} {q} (h : Canonical s) :
    Canonical (countNdet s q) :=
  h

theorem logLanes_canon {x n live} (ls : List Nat) {s : State} (h : Canonical s) : Canonical (logLanes x n live ls s).1
  := by
  induction ls generalizing s with
  | nil => exact h
  | cons l ls ih =>
    unfold logLanes
    grind -lia -linarith -ring -ac -order [logValue_canon]

theorem tiePushes_canon {s : State} {n op} (h : Canonical s) :
    Canonical (tiePushes s n op) :=
  h

theorem execLogged_canon {s : State} {x w kind lanes live} (h : Canonical s) :
    Canonical (execLogged s x w kind lanes live) := by
  unfold execLogged
  grind -lia -linarith -ring -ac -order [countNdet_canon, tiePushes_canon, finishLong_canon, setWait_canon,
    logLanes_canon, Canonical_mk, Canonical.wf_mem, Canonical.wf_durable]

theorem execRdclk_canon {s : State} {o} {t} (h : Canonical s) (e : execRdclk o s = .next t) :
    Canonical t := by
  unfold execRdclk at e
  grind -lia -linarith -ring -ac -order [laneEnter_canon, execLogged_canon, longReady_canon, Canonical_mk,
    Canonical.wf_mem, Canonical.wf_durable]

theorem execRand_canon {s : State} {o} {t} (h : Canonical s) (e : execRand o s = .next t) :
    Canonical t := by
  unfold execRand at e
  grind -lia -linarith -ring -ac -order [laneEnter_canon, execLogged_canon, longReady_canon, Canonical_mk,
    Canonical.wf_mem, Canonical.wf_durable]

end Sys2Proof.MemoryForm

/-! PROOFS. Canonical memory (02), part 3 of 7: the operations of Volley, Former, Placement, Teams, Homes, Registers keep the canonical form. -/

namespace Sys2Proof.MemoryForm

open Sys2Proof Sys2Proof.Machine Sys2Proof.Safety

/-! ### Volley -/

theorem fetchCode_canon {s : State} {r va n} (h : Canonical s) :
    Canonical (fetchCode s r va n).1 := by
  unfold fetchCode
  grind -lia -linarith -ring -ac -order [loadRange_canon, Canonical_mk, Canonical.wf_mem, Canonical.wf_durable]

theorem fetchWord_canon {s : State} {id q off} (h : Canonical s) :
    Canonical (fetchWord s id q off).1 := by
  unfold fetchWord
  grind -lia -linarith -ring -ac -order [fetchCode_canon, Canonical_mk, Canonical.wf_mem, Canonical.wf_durable]

theorem fetchFailed_canon {s0 : State} {s : State} {id q off f} (h : Canonical s0) (h1 : Canonical s) :
    Canonical (fetchFailed s0 s id q off f) := by
  unfold fetchFailed
  grind -lia -linarith -ring -ac -order [squadFault_canon, keepSaid_canon, setWait_canon, preciseTrap_canon,
    sendRemote_canon, Canonical_mk, Canonical.wf_mem, Canonical.wf_durable]

theorem waitEnds_canon {s : State} {k : State → State} {id q m} (h : Canonical s) (hk : ∀ u0, Canonical u0 → Canonical
  (k u0)) :
    Canonical (waitEnds s id q m k) := by
  unfold waitEnds
  grind -lia -linarith -ring -ac -order [observe_canon, Canonical_mk, Canonical.wf_mem, Canonical.wf_durable]

theorem enterVolley_canon {s : State} {id q slot} (h : Canonical s) :
    Canonical (enterVolley s id q slot) := by
  unfold enterVolley
  grind -lia -linarith -ring -ac -order [waitEnds_canon, fetchWord_canon, keepSaid_canon, modSquad_canon,
    setWait_canon, preciseTrap_canon, fetchFailed_canon, Canonical_mk, Canonical.wf_mem, Canonical.wf_durable]

theorem execIssueSlotSelect_canon {s : State} {t} (h : Canonical s) (e : execIssueSlotSelect s = .next t) :
    Canonical t := by
  unfold execIssueSlotSelect at e
  grind -lia -linarith -ring -ac -order [enterVolley_canon, modSquad_canon, Canonical_mk, Canonical.wf_mem,
    Canonical.wf_durable]

/-! ### Former -/

theorem writeRecords_canon {r base xs} {s : State} (h : Canonical s) :
    Canonical (writeRecords r base xs s).1 := by
  induction xs generalizing s with
  | nil => exact h
  | cons x xs ih =>
    unfold writeRecords
    grind -lia -linarith -ring -ac -order [storeRange_canon, sendRemote_canon]

theorem ejectFails_canon {s0 : State} {s : State} {id q e1 r va bs a} (h : Canonical s0) (h1 : Canonical s) :
    Canonical (ejectFails s0 s id q e1 r va bs a) := by
  unfold ejectFails
  grind -lia -linarith -ring -ac -order [takeTrap_canon, keepSaid_canon, modSquad_canon, parkAcc_canon, Canonical_mk,
    Canonical.wf_mem, Canonical.wf_durable]

theorem execThreadEjection_canon {s : State} {t} (h : Canonical s) (e : execThreadEjection s = .next t) :
    Canonical t := by
  unfold execThreadEjection at e
  cases e
  split
  · exact h
  · next q _ =>
    dsimp only
    split
    · exact h
    · refine Canonical_ite h (Canonical_ite (modSquad_canon h) ?_)
      split
      · exact takeTrap_canon (modSquad_canon h)
      · next places _ =>
        generalize List.map _ (List.zip _ places) = recs
        have h1 := writeRecords_canon (r := rqDevice s (q.core / 256) (slotOf s q.team)) (base := spawnVa s q.team)
          (xs := recs) h
        generalize writeRecords _ _ recs s = y at h1 ⊢
        obtain ⟨s1, _ | ⟨va, bs, a⟩⟩ := y
        · exact settleExit_canon (modSquad_canon (modTeam_canon (drainAgent_canon h1)))
        · exact ejectFails_canon h h1

theorem execFormerGroupTimeout_canon {s : State} {t} (h : Canonical s) (e : execFormerGroupTimeout s = .next t) :
    Canonical t := by
  unfold execFormerGroupTimeout at e
  grind -lia -linarith -ring -ac -order [modTeam_canon, Canonical_mk, Canonical.wf_mem, Canonical.wf_durable]

theorem readRecord_canon {s : State} {r base n x} (h : Canonical s) :
    Canonical (readRecord s r base n x).1 := by
  unfold readRecord
  grind -lia -linarith -ring -ac -order [loadRange_canon, Canonical_mk, Canonical.wf_mem, Canonical.wf_durable]

theorem readRecords_canon {r base xs} {s : State} (h : Canonical s) :
    Canonical (readRecords r base xs s).1 := by
  induction xs generalizing s with
  | nil => exact h
  | cons x xs ih =>
    unfold readRecords
    grind -lia -linarith -ring -ac -order [readRecord_canon]

theorem readFails_canon {s : State} {r va n a} {t} (h : Canonical s) (e : readFails s r va n a = some t) :
    Canonical t := by
  unfold readFails at e
  grind -lia -linarith -ring -ac -order [parkAcc_canon, Canonical_mk, Canonical.wf_mem, Canonical.wf_durable]

theorem formGroup_canon {s : State} {team core g} {t} (h : Canonical s) (e : formGroup s team core g = some t) :
    Canonical t := by
  unfold formGroup at e
  dsimp only at e
  have hr := readRecords_canon (r := rqDevice s (core / 256) (slotOf s team)) (base := spawnVa s team) (xs := g.recs.zipIdx) h
  split at e
  · exact readFails_canon h e
  · next s1 recs _ _ heq =>
    have h1 : Canonical s1 := by rwa [heq] at hr
    obtain ⟨-, e⟩ := Option.ite_none_left_eq_some.mp e
    cases hk : keptSquad s team g.recs with
    | none =>
      rw [hk] at e
      cases e
      exact h1
    | some x =>
      rw [hk] at e
      cases e
      exact modSquad_canon (trapArrives_canon h1)
  · cases e

theorem execSquadForm_canon {s : State} {t} (h : Canonical s) (e : execSquadForm s = .next t) :
    Canonical t := by
  unfold execSquadForm at e
  cases e
  dsimp only
  refine Canonical_ite h ?_
  generalize hf : List.findSome? (formGroup s s.arg.id s.arg.core) _ = o
  cases o with
  | none => exact h
  | some t =>
    obtain ⟨g, -, hg⟩ := List.exists_of_findSome?_eq_some hf
    exact formGroup_canon h hg

/-! ### Placement -/

theorem lrRead_canon {s : State} {slot va} (h : Canonical s) :
    Canonical (lrRead s slot va).1 := by
  unfold lrRead
  grind -lia -linarith -ring -ac -order [loadRange_canon, Canonical_mk, Canonical.wf_mem, Canonical.wf_durable]

/-! ### Teams -/

theorem gridStart_canon {s : State} {id x} (h : Canonical s) :
    Canonical (gridStart s id x) := by
  unfold gridStart
  grind -lia -linarith -ring -ac -order [gridEnd_canon, Canonical_mk, Canonical.wf_mem, Canonical.wf_durable]

theorem gridWord_canon {s : State} {id v} (h : Canonical s) :
    Canonical (gridWord s id v) := by
  unfold gridWord
  grind -lia -linarith -ring -ac -order [gridStart_canon, gridEnd_canon, Canonical_mk, Canonical.wf_mem,
    Canonical.wf_durable]

theorem gridRead_canon {s : State} {id} (h : Canonical s) :
    Canonical (gridRead s id) := by
  unfold gridRead
  split
  · exact h
  · next g _ =>
    refine Canonical_ite h ?_
    split
    · exact gridWord_canon h
    · dsimp only
      have h1 := loadRange_canon (q := rqDevice s 0 g.slot) (acc := accLoad) (va := g.lr.gxaddr.toNat) (n := 4) h
      generalize loadRange s _ _ _ _ = y at h1 ⊢
      obtain ⟨s1, a, bs⟩ := y
      cases a with
      | done => exact gridWord_canon h1
      | held => exact keepSaid_canon h
      | remote home => exact sendRemote_canon h1
      | fault k d v p => exact parkAcc_canon h1
      | poison => exact gridWord_canon h1

theorem gridNew_canon {s : State} {slot e1 by1} (h : Canonical s) :
    Canonical (gridNew s slot e1 by1) := by
  unfold gridNew
  grind -lia -linarith -ring -ac -order [lrRead_canon, gridStart_canon, gridEnd_canon, gridRead_canon, Canonical_mk,
    Canonical.wf_mem, Canonical.wf_durable]

theorem execLaunchTake_canon {s : State} {t} (h : Canonical s) (e : execLaunchTake s = .next t) :
    Canonical t := by
  unfold execLaunchTake at e
  grind -lia -linarith -ring -ac -order [qWrite_canon, gridNew_canon, qRead_canon, qLoad_canon, gridRead_canon,
    Canonical_mk, Canonical.wf_mem, Canonical.wf_durable]

theorem touchCores_canon {s : State} {cores} (h : Canonical s) :
    Canonical (touchCores s cores) :=
  h

theorem noteResident_canon {s : State} {cores} (h : Canonical s) :
    Canonical (noteResident s cores) :=
  h

theorem takeHeader_canon {s : State} {slot h1} (h : Canonical s) :
    Canonical (takeHeader s slot h1) :=
  h

theorem placeFresh_canon {s : State} {k gid again} (h : Canonical s) :
    Canonical (placeFresh s k gid again) := by
  unfold placeFresh
  grind -lia -linarith -ring -ac -order [State.fresh_canon, takeHeader_canon, noteResident_canon, touchCores_canon,
    transit_canon, Canonical_mk, Canonical.wf_mem, Canonical.wf_durable]

theorem moveWindow_canon {s : State} {id newHome} (h : Canonical s) :
    Canonical (moveWindow s id newHome) := by
  unfold moveWindow
  grind -lia -linarith -ring -ac -order [modCluster_canon, Canonical_mk, Canonical.wf_mem, Canonical.wf_durable]

theorem moveCopies_canon {s : State} {id newCluster} (h : Canonical s) :
    Canonical (moveCopies s id newCluster) :=
  h

theorem watchEngines_canon {s0 : State} {s : State} {cls} (h : Canonical s0) (h1 : Canonical s) :
    Canonical (watchEngines s0 s cls) := by
  unfold watchEngines
  exact Canonical_foldl (fun _ _ h => Canonical_ite (modCluster_canon h) h) _ h1

theorem reloadTiles_canon {s : State} {id} (h : Canonical s) :
    Canonical (reloadTiles s id) :=
  h

theorem movePops_canon {s : State} {id} (h : Canonical s) :
    Canonical (movePops s id) :=
  h

theorem returnTeam_canon {s : State} {id cores places} (h : Canonical s) :
    Canonical (returnTeam s id cores places) := by
  unfold returnTeam
  grind -lia -linarith -ring -ac -order [moveWindow_canon, State.fresh_canon, serveTeam_canon, reloadTiles_canon,
    movePops_canon, modTeam_canon, wakeTeams_canon, noteResident_canon, touchCores_canon, watchEngines_canon,
    transit_canon, exitTest_canon, moveCopies_canon, Canonical_mk, Canonical.wf_mem, Canonical.wf_durable]

theorem setSave_canon {s : State} {slot off n v} (h : Canonical s) :
    Canonical (setSave s slot off n v) := by
  unfold setSave
  grind -lia -linarith -ring -ac -order [storeRange_canon, Canonical_mk, Canonical.wf_mem, Canonical.wf_durable]

theorem takeBlocks_canon {s t : State} {slot bs va} (h : Canonical s) (e : takeBlocks s slot = some (t, bs, va)) :
    Canonical t := by
  unfold takeBlocks at e
  grind -lia -linarith -ring -ac -order [setSave_canon, State.draw_canon]

theorem stopCores_canon {s : State} {id} (h : Canonical s) :
    Canonical (stopCores s id) :=
  h

theorem saveImage_canon {s : State} {id} (h : Canonical s) :
    Canonical (saveImage s id).1 := by
  unfold saveImage
  grind -lia -linarith -ring -ac -order [modTeam_canon, stopCores_canon, takeBlocks_canon, Canonical_mk,
    Canonical.wf_mem, Canonical.wf_durable]

theorem saveContext_canon {s : State} {slot} (h : Canonical s) :
    Canonical (saveContext s slot).1 := by
  unfold saveContext
  grind -lia -linarith -ring -ac -order [setSave_canon, takeBlocks_canon, Canonical_mk, Canonical.wf_mem,
    Canonical.wf_durable]

theorem ungrant_canon {s : State} {id} (h : Canonical s) :
    Canonical (ungrant s id) :=
  h

theorem swapIn_canon {drain ids} {s : State} (h : Canonical s) : Canonical (swapIn drain ids s) := by
  induction ids generalizing s with
  | nil => exact h
  | cons id ids ih =>
    unfold swapIn
    grind -lia -linarith -ring -ac -order [returnTeam_canon]

theorem enterSlice_canon {s : State} {k next} (h : Canonical s) :
    Canonical (enterSlice s k next) := by
  unfold enterSlice
  grind -lia -linarith -ring -ac -order [swapIn_canon, Canonical_mk, Canonical.wf_mem, Canonical.wf_durable]

theorem settleOwner_canon {s : State} {k} (h : Canonical s) :
    Canonical (settleOwner s k) := by
  unfold settleOwner
  grind -lia -linarith -ring -ac -order [enterSlice_canon, Canonical_mk, Canonical.wf_mem, Canonical.wf_durable]

theorem execTeamPlace_canon {s : State} {t} (h : Canonical s) (e : execTeamPlace s = .next t) :
    Canonical t := by
  unfold execTeamPlace at e
  grind -lia -linarith -ring -ac -order [placeFresh_canon, settleOwner_canon, returnTeam_canon, Canonical_mk,
    Canonical.wf_mem, Canonical.wf_durable]

theorem retireTeam_canon {s : State} {id} (h : Canonical s) :
    Canonical (retireTeam s id) := by
  unfold retireTeam
  grind -lia -linarith -ring -ac -order [setSave_canon, modTeam_canon, gridEnd_canon, transit_canon, Canonical_mk,
    Canonical.wf_mem, Canonical.wf_durable]

theorem execTeamRetire_canon {s : State} {t} (h : Canonical s) (e : execTeamRetire s = .next t) :
    Canonical t := by
  cases e
  split
  · exact h
  · next t _ =>
    refine Canonical_ite h ?_
    dsimp only
    have h1 := wcDrain_canon (p := fun e => e.agents.any (deadAgent s) && e.asid == ctxAsid s (gridOf s t).slot) h
    generalize wcDrain s _ = s1 at h1 ⊢
    refine Canonical_ite h1 (Canonical_ite (retireTeam_canon h1) ?_)
    generalize exitRecord s1 t = bs
    have h2 := storeRange_canon (q := rqDevice s1 (t.cores.getD 0 0 / 256) (gridOf s t).slot)
      (va := (gridOf s1 t).lr.exitrec.toNat + 64 * t.index) (bs := bs) h1
    generalize storeRange s1 _ _ _ = y at h2 ⊢
    obtain ⟨s2, a⟩ := y
    cases a with
    | done => exact retireTeam_canon h2
    | held => exact keepSaid_canon h1
    | remote home => exact modTeam_canon (sendRemote_canon h2)
    | poison => exact retireTeam_canon (svcErr_canon h2)
    | fault k d v p => exact modTeam_canon (parkAcc_canon h2)

theorem syncShadows_canon {s : State} (h : Canonical s) :
    Canonical (syncShadows s) := by
  unfold syncShadows
  refine Canonical_foldl (fun s p h => ?_) _ h
  dsimp only
  split
  · exact h
  · exact h

theorem stopFirst_canon {s : State} {id} (h : Canonical s) :
    Canonical (stopFirst s id) := by
  unfold stopFirst
  exact Canonical_foldl (fun _ _ h => inOrder_canon h) _ h

theorem swapOut_canon {s : State} {id} (h : Canonical s) :
    Canonical (swapOut s id) := by
  unfold swapOut
  grind -lia -linarith -ring -ac -order [State.fresh_canon, modTeam_canon, stopPasses_canon, transit_canon,
    stopFirst_canon, Canonical_mk, Canonical.wf_mem, Canonical.wf_durable]

theorem execSliceExpiry_canon {s : State} {t} (h : Canonical s) (e : execSliceExpiry s = .next t) :
    Canonical t := by
  unfold execSliceExpiry at e
  cases e
  have h1 := syncShadows_canon h
  have hf : ∀ l : List Nat, Canonical (l.foldl swapOut (syncShadows s)) :=
    fun l => Canonical_foldl (fun _ _ h => swapOut_canon h) l h1
  generalize syncShadows s = s1 at *
  dsimp only
  split
  · exact h1
  · refine Canonical_ite h1 ?_
    split
    · exact h1
    · exact Canonical_ite h1 (Canonical_ite (enterSlice_canon h1) (hf _))

theorem execDugoutSwap_canon {s : State} {t} (h : Canonical s) (e : execDugoutSwap s = .next t) :
    Canonical t := by
  unfold execDugoutSwap at e
  grind -lia -linarith -ring -ac -order [enterSlice_canon, Canonical_mk, Canonical.wf_mem, Canonical.wf_durable]

theorem execShadowFillComplete_canon {s : State} {t} (h : Canonical s) (e : execShadowFillComplete s = .next t) :
    Canonical t := by
  unfold execShadowFillComplete at e
  grind -lia -linarith -ring -ac -order [syncShadows_canon, Canonical_mk, Canonical.wf_mem, Canonical.wf_durable]

theorem drainStores_canon {s : State} {id} (h : Canonical s) :
    Canonical (drainStores s id) := by
  unfold drainStores
  grind -lia -linarith -ring -ac -order [wcDrain_canon, Canonical_mk, Canonical.wf_mem, Canonical.wf_durable]

theorem drainTeam_canon {r : State × Bool} {id} (h : Canonical r.1) : Canonical (drainTeam r id).1 := by
  unfold drainTeam
  have h1 : ∀ slot, Canonical (saveContext r.1 slot).1 := fun slot => saveContext_canon h
  grind -lia -linarith -ring -ac -order [ungrant_canon, saveImage_canon, modTeam_canon, stopCores_canon,
    drainStores_canon]

theorem execShadowDrainComplete_canon {s : State} {t} (h : Canonical s) (e : execShadowDrainComplete s = .next t) :
    Canonical t := by
  unfold execShadowDrainComplete at e
  cases e
  dsimp only
  refine Canonical_ite h ?_
  generalize hl : List.map _ _ = l
  have hf : ∀ (l : List Nat) (r : State × Bool), Canonical r.1 → Canonical (l.foldl drainTeam r).1 := fun l => by
    induction l with
    | nil => exact fun _ h => h
    | cons a l ih => exact fun r h => ih _ (drainTeam_canon h)
  have h1 := hf l (s, true) h
  grind -lia -linarith -ring -ac -order [swapIn_canon, Canonical_mk, Canonical.wf_mem, Canonical.wf_durable]

theorem stopTeam_canon {s : State} {id} (h : Canonical s) :
    Canonical (stopTeam s id) := by
  unfold stopTeam
  grind -lia -linarith -ring -ac -order [modTeam_canon, stopPasses_canon, stopFirst_canon, Canonical_mk,
    Canonical.wf_mem, Canonical.wf_durable]

theorem execForwardProgressExpiry_canon {s : State} {t} (h : Canonical s) (e : execForwardProgressExpiry s = .next t)
  :
    Canonical t := by
  unfold execForwardProgressExpiry at e
  grind -lia -linarith -ring -ac -order [touchCores_canon, stopTeam_canon, Canonical_mk, Canonical.wf_mem,
    Canonical.wf_durable]

theorem execRegisterGrowExpiry_canon {s : State} {t} (h : Canonical s) (e : execRegisterGrowExpiry s = .next t) :
    Canonical t := by
  unfold execRegisterGrowExpiry at e
  grind -lia -linarith -ring -ac -order [touchCores_canon, stopTeam_canon, Canonical_mk, Canonical.wf_mem,
    Canonical.wf_durable]

theorem leaveCommon_canon {s : State} {id} (h : Canonical s) :
    Canonical (leaveCommon s id) :=
  h

theorem execTeamSpillComplete_canon {s : State} {t} (h : Canonical s) (e : execTeamSpillComplete s = .next t) :
    Canonical t := by
  unfold execTeamSpillComplete at e
  grind -lia -linarith -ring -ac -order [disarmTeam_canon, ungrant_canon, saveImage_canon, modTeam_canon,
    transit_canon, leaveCommon_canon, drainStores_canon, Canonical_mk, Canonical.wf_mem, Canonical.wf_durable]

theorem execTmig_canon {s : State} {o} {t} (h : Canonical s) (e : execTmig o s = .next t) :
    Canonical t := by
  unfold execTmig at e
  grind -lia -linarith -ring -ac -order [laneEnter_canon, modTeam_canon, finishLong_canon, transit_canon,
    finishShort_canon, Lx.trap_canon, longReady_canon, Canonical_mk, Canonical.wf_mem, Canonical.wf_durable]

theorem execMigrationComplete_canon {s : State} {t} (h : Canonical s) (e : execMigrationComplete s = .next t) :
    Canonical t := by
  unfold execMigrationComplete at e
  grind -lia -linarith -ring -ac -order [disarmTeam_canon, returnTeam_canon, leaveCommon_canon, drainStores_canon,
    Canonical_mk, Canonical.wf_mem, Canonical.wf_durable]

theorem execTeamLost_canon {s : State} {t} (h : Canonical s) (e : execTeamLost s = .next t) :
    Canonical t := by
  unfold execTeamLost at e
  grind -lia -linarith -ring -ac -order [teamLose_canon, Canonical_mk, Canonical.wf_mem, Canonical.wf_durable]

theorem closeGroups_canon {s : State} {die} (h : Canonical s) :
    Canonical (closeGroups s die) := by
  unfold closeGroups
  refine Canonical_foldl (fun s g h => ?_) _ h
  grind -lia -linarith -ring -ac -order [groupClose_canon]

theorem execDieFailure_canon {s : State} {t} (h : Canonical s) (e : execDieFailure s = .next t) :
    Canonical t := by
  unfold execDieFailure at e
  cases e
  exact closeGroups_canon (Canonical_foldl (fun _ _ h => teamLose_canon h) _ (setDie_canon h))

/-! ### Homes -/

theorem execHomeMapWalk_canon {s : State} {t} (h : Canonical s) (e : execHomeMapWalk s = .next t) :
    Canonical t := by
  unfold execHomeMapWalk at e
  grind -lia -linarith -ring -ac -order [homeLookup_canon, Canonical_mk, Canonical.wf_mem, Canonical.wf_durable]

theorem execPageTableWalk_canon {s : State} {t} (h : Canonical s) (e : execPageTableWalk s = .next t) :
    Canonical t := by
  unfold execPageTableWalk at e
  grind -lia -linarith -ring -ac -order [ptWalkAt_canon, tlbPut_canon, Canonical_mk, Canonical.wf_mem,
    Canonical.wf_durable]

theorem reportWrite_canon {s : State} {c slot va bs} (h : Canonical s) :
    Canonical (reportWrite s c slot va bs) := by
  unfold reportWrite
  grind -lia -linarith -ring -ac -order [storeRange_canon, respond_canon, keepSaid_canon, parkAcc_canon, addReq_canon,
    sendRemote_canon, Canonical_mk, Canonical.wf_mem, Canonical.wf_durable]

theorem serveOrphan_canon {s : State} {r} (h : Canonical s) :
    Canonical (serveOrphan s r) := by
  unfold serveOrphan
  grind -lia -linarith -ring -ac -order [storeRange_canon, keepSaid_canon, atomPiece_canon, dropReq_canon,
    parkAcc_canon, Canonical_mk, Canonical.wf_mem, Canonical.wf_durable]

theorem serveMerged_canon {s : State} {r t bs} (h : Canonical s) :
    Canonical (serveMerged s r t bs) := by
  unfold serveMerged
  grind -lia -linarith -ring -ac -order [mergedPiece_canon, keepSaid_canon, spineTrap_canon, dropReq_canon,
    parkAcc_canon, Canonical_mk, Canonical.wf_mem, Canonical.wf_durable]

theorem serveKill_canon {s : State} {r bs} (h : Canonical s) :
    Canonical (serveKill s r bs) := by
  unfold serveKill
  grind -lia -linarith -ring -ac -order [svcErr_canon, storeRange_canon, keepSaid_canon, dropReq_canon, parkAcc_canon,
    Canonical_mk, Canonical.wf_mem, Canonical.wf_durable]

theorem sendQueued_canon {s : State} {r} (h : Canonical s) :
    Canonical (sendQueued s r) := by
  unfold sendQueued
  grind -lia -linarith -ring -ac -order [modReq_canon, Canonical_mk, Canonical.wf_mem, Canonical.wf_durable]

theorem serveReq_canon {s : State} {r} (h : Canonical s) :
    Canonical (serveReq s r) := by
  unfold serveReq
  grind -lia -linarith -ring -ac -order [serveKill_canon, reportWrite_canon, serveMerged_canon, serveLane_canon,
    serveOrphan_canon, dropReq_canon, Canonical_mk, Canonical.wf_mem, Canonical.wf_durable]

theorem execHomeRequest_canon {s : State} {t} (h : Canonical s) (e : execHomeRequest s = .next t) :
    Canonical t := by
  unfold execHomeRequest at e
  grind -lia -linarith -ring -ac -order [sendQueued_canon, serveReq_canon, Canonical_mk, Canonical.wf_mem,
    Canonical.wf_durable]

theorem execStaleResponse_canon {s : State} {t} (h : Canonical s) (e : execStaleResponse s = .next t) :
    Canonical t := by
  unfold execStaleResponse at e
  grind -lia -linarith -ring -ac -order [dropHme_canon, modReq_canon, Canonical_mk, Canonical.wf_mem,
    Canonical.wf_durable]

theorem squadFails_canon {s : State} {id r kind} (h : Canonical s) :
    Canonical (squadFails s id r kind) := by
  unfold squadFails
  grind -lia -linarith -ring -ac -order [fetchWord_canon, modSquad_canon, preciseTrap_canon, dropReq_canon,
    Canonical_mk, Canonical.wf_mem, Canonical.wf_durable]

theorem reqFails_canon {s : State} {r kind} (h : Canonical s) :
    Canonical (reqFails s r kind) := by
  unfold reqFails
  grind -lia -linarith -ring -ac -order [svcErr_canon, mopUnresolved_canon, copyUnresolved_canon, respond_canon,
    modTeam_canon, gridWord_canon, squadFails_canon, spineTrap_canon, failParked_canon, dropReq_canon, Canonical_mk,
    Canonical.wf_mem, Canonical.wf_durable]

theorem execFaultRecordPost_canon {s : State} {t} (h : Canonical s) (e : execFaultRecordPost s = .next t) :
    Canonical t := by
  unfold execFaultRecordPost at e
  cases e
  split
  · exact h
  · split
    · dsimp only
      split
      · exact modReq_canon (setDie_canon h)
      · refine Canonical_ite h ?_
        split
        · exact h
        · next s1 a heq =>
          have h1 : Canonical s1 := devicePushTry_canon (State.fresh_canon h) heq
          refine Canonical_ite (Canonical_foldl (fun _ _ h => modReq_canon h) _ (setDie_canon h1)) ?_
          split
          · exact dropReq_canon h1
          · exact dropReq_canon h1
          · exact reqFails_canon h1
    · exact h

theorem reqReplay_canon {s : State} {r} (h : Canonical s) :
    Canonical (reqReplay s r) := by
  unfold reqReplay
  grind -lia -linarith -ring -ac -order [modSpine_canon, copyReplay_canon, modTeam_canon, modReq_canon,
    modSquad_canon, mopReplay_canon, dropReq_canon, gridRead_canon, Canonical_mk, Canonical.wf_mem,
    Canonical.wf_durable]

theorem freplay_canon {s : State} {f : State → Req → State} {die token} (h : Canonical s) (hf : ∀ u0 w1, Canonical u0
  → Canonical (f u0 w1)) :
    Canonical (freplay s die token f) := by
  unfold freplay
  have h1 : ∀ l : List Req, Canonical (l.foldl f s) := fun l => Canonical_foldl hf l h
  grind -lia -linarith -ring -ac -order [setDie_canon]

theorem execFreplayReplay_canon {s : State} {t} (h : Canonical s) (e : execFreplayReplay s = .next t) :
    Canonical t := by
  unfold execFreplayReplay at e
  grind -lia -linarith -ring -ac -order [reqReplay_canon, freplay_canon, Canonical_mk, Canonical.wf_mem,
    Canonical.wf_durable]

theorem execFreplayUnresolvable_canon {s : State} {t} (h : Canonical s) (e : execFreplayUnresolvable s = .next t) :
    Canonical t := by
  unfold execFreplayUnresolvable at e
  grind -lia -linarith -ring -ac -order [reqFails_canon, freplay_canon, Canonical_mk, Canonical.wf_mem,
    Canonical.wf_durable]

theorem dropWalks_canon {s : State} {die map asid base n} (h : Canonical s) :
    Canonical (dropWalks s die map asid base n) :=
  h

theorem flushAsid_canon {s : State} {asid} (h : Canonical s) :
    Canonical (flushAsid s asid) := by
  unfold flushAsid
  grind -lia -linarith -ring -ac -order [recallWhere_canon, askHosts_canon, wcDrain_canon, Canonical_mk,
    Canonical.wf_mem, Canonical.wf_durable]

theorem recallRange_canon {s : State} {asid va lg} (h : Canonical s) :
    Canonical (recallRange s asid va lg) := by
  unfold recallRange
  grind -lia -linarith -ring -ac -order [recallWhere_canon, askHosts_canon, wcDrain_canon, Canonical_mk,
    Canonical.wf_mem, Canonical.wf_durable]

theorem dropTlb_canon {s : State} {die asid va lg} (h : Canonical s) :
    Canonical (dropTlb s die asid va lg) :=
  h

theorem staleReqs_canon {s : State} {asid va lg} (h : Canonical s) :
    Canonical (staleReqs s asid va lg) := by
  unfold staleReqs
  exact Canonical_foldl (fun _ _ h => dropHme_canon h) _ h

theorem hcmdRefuse_canon {s : State} {die} (h : Canonical s) :
    Canonical (hcmdRefuse s die) :=
  h

theorem hcmdBusy_canon {s : State} {die op lg asid} (h : Canonical s) :
    Canonical (hcmdBusy s die op lg asid) :=
  h

theorem hcmdHold_canon {s : State} {die op lg asid} (h : Canonical s) :
    Canonical (hcmdHold s die op lg asid) := by
  unfold hcmdHold
  grind -lia -linarith -ring -ac -order [State.fresh_canon, hcmdBusy_canon, recallRange_canon, setDie_canon,
    hcmdRefuse_canon, Canonical_mk, Canonical.wf_mem, Canonical.wf_durable]

theorem homeCommand_canon {s : State} {die op size asid} (h : Canonical s) :
    Canonical (homeCommand s die op size asid) := by
  unfold homeCommand
  dsimp only
  refine Canonical_ite h (Canonical_ite (hcmdRefuse_canon h) ?_)
  split
  · exact hcmdHold_canon h
  · exact setDie_canon (dropTlb_canon (hcmdBusy_canon h))
  · exact flushAsid_canon (hcmdBusy_canon h)
  · exact hcmdHold_canon h
  · exact staleReqs_canon (setDie_canon (dropTlb_canon (hcmdBusy_canon h)))
  · exact Canonical_foldl (fun _ _ h => dropWalks_canon (dropHme_canon h)) _ (hcmdBusy_canon h)

theorem execHold_canon {s : State} {t} (h : Canonical s) (e : execHold s = .next t) :
    Canonical t := by
  unfold execHold at e
  grind -lia -linarith -ring -ac -order [homeCommand_canon, Canonical_mk, Canonical.wf_mem, Canonical.wf_durable]

theorem execRelease_canon {s : State} {t} (h : Canonical s) (e : execRelease s = .next t) :
    Canonical t := by
  unfold execRelease at e
  grind -lia -linarith -ring -ac -order [homeCommand_canon, Canonical_mk, Canonical.wf_mem, Canonical.wf_durable]

theorem execFlushasid_canon {s : State} {t} (h : Canonical s) (e : execFlushasid s = .next t) :
    Canonical t := by
  unfold execFlushasid at e
  grind -lia -linarith -ring -ac -order [homeCommand_canon, Canonical_mk, Canonical.wf_mem, Canonical.wf_durable]

theorem execMovehold_canon {s : State} {t} (h : Canonical s) (e : execMovehold s = .next t) :
    Canonical t := by
  unfold execMovehold at e
  grind -lia -linarith -ring -ac -order [homeCommand_canon, Canonical_mk, Canonical.wf_mem, Canonical.wf_durable]

theorem execMovedone_canon {s : State} {t} (h : Canonical s) (e : execMovedone s = .next t) :
    Canonical t := by
  unfold execMovedone at e
  grind -lia -linarith -ring -ac -order [homeCommand_canon, Canonical_mk, Canonical.wf_mem, Canonical.wf_durable]

theorem execHminv_canon {s : State} {t} (h : Canonical s) (e : execHminv s = .next t) :
    Canonical t := by
  unfold execHminv at e
  grind -lia -linarith -ring -ac -order [homeCommand_canon, Canonical_mk, Canonical.wf_mem, Canonical.wf_durable]

theorem execHomeCommandDone_canon {s : State} {t} (h : Canonical s) (e : execHomeCommandDone s = .next t) :
    Canonical t := by
  unfold execHomeCommandDone at e
  grind -lia -linarith -ring -ac -order [recallRange_canon, setDie_canon, Canonical_mk, Canonical.wf_mem,
    Canonical.wf_durable]

/-! ### Registers -/

theorem readAt_canon {s : State} {o} (h : Canonical s) :
    Canonical (readAt s o) := by
  unfold readAt
  refine Canonical_ite h ?_
  dsimp only
  have h1 : Canonical (if s.arg.svp then s else { s with outs := .reg s.arg.tag (bytesOf (if s.arg.wide then 8 else 4)
      (regRead s (o / 8 * 8) / (if o % 8 = 4 then 2 ^ 32 else 1))) :: s.outs }) := Canonical_ite h h
  exact Canonical_ite h1 (Canonical_ite h1 h1)

theorem readRegister_canon {s : State} (h : Canonical s) :
    Canonical (readRegister s) := by
  unfold readRegister
  grind -lia -linarith -ring -ac -order [readAt_canon, Canonical_mk, Canonical.wf_mem, Canonical.wf_durable]

theorem execSvcerrRead_canon {s : State} {t} (h : Canonical s) (e : execSvcerrRead s = .next t) :
    Canonical t := by
  unfold execSvcerrRead at e
  grind -lia -linarith -ring -ac -order [readAt_canon, Canonical_mk, Canonical.wf_mem, Canonical.wf_durable]

theorem execKlstatRead_canon {s : State} {t} (h : Canonical s) (e : execKlstatRead s = .next t) :
    Canonical t := by
  unfold execKlstatRead at e
  grind -lia -linarith -ring -ac -order [readAt_canon, Canonical_mk, Canonical.wf_mem, Canonical.wf_durable]

theorem mgmtTailWrite_canon {s : State} {t} (h : Canonical s) :
    Canonical (mgmtTailWrite s t) :=
  Canonical_ite h (svcErr_canon h)

theorem mgmtHeadWrite_canon {s : State} {h1} (h : Canonical s) :
    Canonical (mgmtHeadWrite s h1) := by
  unfold mgmtHeadWrite
  grind -lia -linarith -ring -ac -order [mgmtFlush_canon, Canonical_mk, Canonical.wf_mem, Canonical.wf_durable]

theorem wdtWrite_canon {s : State} {ms} (h : Canonical s) :
    Canonical (wdtWrite s ms) :=
  h

theorem execMgmttailWrite_canon {s : State} {t} (h : Canonical s) (e : execMgmttailWrite s = .next t) :
    Canonical t := by
  unfold execMgmttailWrite at e
  grind -lia -linarith -ring -ac -order [mgmtTailWrite_canon, Canonical_mk, Canonical.wf_mem, Canonical.wf_durable]

theorem execMgmtrheadWrite_canon {s : State} {t} (h : Canonical s) (e : execMgmtrheadWrite s = .next t) :
    Canonical t := by
  unfold execMgmtrheadWrite at e
  grind -lia -linarith -ring -ac -order [mgmtHeadWrite_canon, Canonical_mk, Canonical.wf_mem, Canonical.wf_durable]

theorem execSvpwdtWrite_canon {s : State} {t} (h : Canonical s) (e : execSvpwdtWrite s = .next t) :
    Canonical t := by
  unfold execSvpwdtWrite at e
  grind -lia -linarith -ring -ac -order [wdtWrite_canon, Canonical_mk, Canonical.wf_mem, Canonical.wf_durable]

theorem devWrite_canon {s : State} {off v wide svp} (h : Canonical s) :
    Canonical (devWrite s off v wide svp) := by
  unfold devWrite
  grind -lia -linarith -ring -ac -order [mgmtHeadWrite_canon, mgmtTailWrite_canon, wdtWrite_canon, Canonical_mk,
    Canonical.wf_mem, Canonical.wf_durable]

theorem ioWrite_canon {s : State} {second off v wide} (h : Canonical s) :
    Canonical (ioWrite s second off v wide) := by
  unfold ioWrite
  grind -lia -linarith -ring -ac -order [Canonical_mk, Canonical.wf_mem, Canonical.wf_durable]

theorem dieWrite_canon {s : State} {die off v wide} (h : Canonical s) :
    Canonical (dieWrite s die off v wide) := by
  unfold dieWrite
  dsimp only
  split
  case h_2 => exact Canonical_ite (homeCommand_canon h) h
  case h_3 => exact Canonical_ite (setDie_canon h) h
  case h_4 =>
    refine Canonical_ite (freplay_canon h fun s r h => ?_) h
    split
    · exact reqFails_canon h
    · exact reqReplay_canon h
  case h_5 | h_15 => exact Canonical_ite h (setDie_canon h)
  case h_17 => exact h
  all_goals exact setDie_canon h

theorem execRegisterWrite_canon {s : State} {t} (h : Canonical s) (e : execRegisterWrite s = .next t) :
    Canonical t := by
  cases e
  refine Canonical_ite h (Canonical_ite h (Canonical_ite h (Canonical_ite (devWrite_canon h) (Canonical_ite h
    (Canonical_ite (ioWrite_canon h) (Canonical_ite (ioWrite_canon h) (Canonical_ite (dieWrite_canon h) h)))))))

theorem notifyEffect_canon {s : State} {n} {t} (h : Canonical s) (e : notifyEffect s n = some t) :
    Canonical t := by
  unfold notifyEffect at e
  grind -lia -linarith -ring -ac -order [svcErr_canon, qWrite_canon, qRead_canon, svcWake_canon, wakeTeams_canon,
    qOpen_canon, Canonical_mk, Canonical.wf_mem, Canonical.wf_durable]

theorem notifyRun_canon {s : State} {q} (h : Canonical s) :
    Canonical (notifyRun s q) := by
  unfold notifyRun
  grind -lia -linarith -ring -ac -order [notifyEffect_canon, Canonical_mk, Canonical.wf_mem, Canonical.wf_durable]

theorem execNotify_canon {s : State} {t} (h : Canonical s) (e : execNotify s = .next t) :
    Canonical t := by
  unfold execNotify at e
  grind -lia -linarith -ring -ac -order [notifyRun_canon, Canonical_mk, Canonical.wf_mem, Canonical.wf_durable]

theorem execNotifyTakeEffect_canon {s : State} {t} (h : Canonical s) (e : execNotifyTakeEffect s = .next t) :
    Canonical t := by
  unfold execNotifyTakeEffect at e
  grind -lia -linarith -ring -ac -order [notifyRun_canon, Canonical_mk, Canonical.wf_mem, Canonical.wf_durable]

end Sys2Proof.MemoryForm

/-! PROOFS. Canonical memory (02), part 4 of 7: the operations of Device, Coherence, Handlers, Host, LaneCross keep the canonical form. -/

namespace Sys2Proof.MemoryForm

open Sys2Proof Sys2Proof.Machine Sys2Proof.Safety

/-! ### Device -/

theorem deviceReset_canon {s : State} {cause} (h : Canonical s) :
    Canonical (deviceReset s cause) := by
  unfold deviceReset
  grind -lia -linarith -ring -ac -order [State.reset_canon, Canonical_mk, Canonical.wf_mem, Canonical.wf_durable]

theorem execPowerOnReset_canon {s : State} {t} (h : Canonical s) (e : execPowerOnReset s = .next t) :
    Canonical t := by
  unfold execPowerOnReset at e
  grind -lia -linarith -ring -ac -order [deviceReset_canon, Canonical_mk, Canonical.wf_mem, Canonical.wf_durable]

theorem execOrderlyHostReset_canon {s : State} {t} (h : Canonical s) (e : execOrderlyHostReset s = .next t) :
    Canonical t := by
  unfold execOrderlyHostReset at e
  grind -lia -linarith -ring -ac -order [persist_canon, persistRanges_canon, deviceReset_canon, flushPers_canon,
    Canonical_mk, Canonical.wf_mem, Canonical.wf_durable]

theorem execHotReset_canon {s : State} {t} (h : Canonical s) (e : execHotReset s = .next t) :
    Canonical t := by
  unfold execHotReset at e
  grind -lia -linarith -ring -ac -order [deviceReset_canon, Canonical_mk, Canonical.wf_mem, Canonical.wf_durable]

theorem execThermalTrip_canon {s : State} {t} (h : Canonical s) (e : execThermalTrip s = .next t) :
    Canonical t := by
  unfold execThermalTrip at e
  grind -lia -linarith -ring -ac -order [deviceReset_canon, Canonical_mk, Canonical.wf_mem, Canonical.wf_durable]

theorem execWipeComplete_canon {s : State} {t} (h : Canonical s) (e : execWipeComplete s = .next t) :
    Canonical t := by
  unfold execWipeComplete at e
  grind -lia -linarith -ring -ac -order [Canonical_mk, Canonical.wf_mem, Canonical.wf_durable]

theorem execPcieConfigurationRequest_canon {s : State} {t} (h : Canonical s) (e : execPcieConfigurationRequest s =
  .next t) :
    Canonical t := by
  unfold execPcieConfigurationRequest at e
  grind -lia -linarith -ring -ac -order [Canonical_mk, Canonical.wf_mem, Canonical.wf_durable]

theorem execThrottle_canon {s : State} {t} (h : Canonical s) (e : execThrottle s = .next t) :
    Canonical t := by
  unfold execThrottle at e
  grind -lia -linarith -ring -ac -order [Canonical_mk, Canonical.wf_mem, Canonical.wf_durable]

theorem execBoost_canon {s : State} {t} (h : Canonical s) (e : execBoost s = .next t) :
    Canonical t := by
  unfold execBoost at e
  grind -lia -linarith -ring -ac -order [Canonical_mk, Canonical.wf_mem, Canonical.wf_durable]

theorem execFirmwareUpdate_canon {s : State} {t} (h : Canonical s) (e : execFirmwareUpdate s = .next t) :
    Canonical t := by
  unfold execFirmwareUpdate at e
  grind -lia -linarith -ring -ac -order [Canonical_mk, Canonical.wf_mem, Canonical.wf_durable]

theorem lifeCycle_canon {s : State} {phase} (h : Canonical s) :
    Canonical (lifeCycle s phase) := by
  unfold lifeCycle
  grind -lia -linarith -ring -ac -order [deviceReset_canon, Canonical_mk, Canonical.wf_mem, Canonical.wf_durable]

theorem execVendorProvisioning_canon {s : State} {t} (h : Canonical s) (e : execVendorProvisioning s = .next t) :
    Canonical t := by
  unfold execVendorProvisioning at e
  grind -lia -linarith -ring -ac -order [lifeCycle_canon, Canonical_mk, Canonical.wf_mem, Canonical.wf_durable]

theorem execOwnerDebug_canon {s : State} {t} (h : Canonical s) (e : execOwnerDebug s = .next t) :
    Canonical t := by
  unfold execOwnerDebug at e
  grind -lia -linarith -ring -ac -order [lifeCycle_canon, Canonical_mk, Canonical.wf_mem, Canonical.wf_durable]

theorem execOwnerReturnToSummer_canon {s : State} {t} (h : Canonical s) (e : execOwnerReturnToSummer s = .next t) :
    Canonical t := by
  unfold execOwnerReturnToSummer at e
  grind -lia -linarith -ring -ac -order [lifeCycle_canon, Canonical_mk, Canonical.wf_mem, Canonical.wf_durable]

theorem execDecommission_canon {s : State} {t} (h : Canonical s) (e : execDecommission s = .next t) :
    Canonical t := by
  unfold execDecommission at e
  grind -lia -linarith -ring -ac -order [lifeCycle_canon, Canonical_mk, Canonical.wf_mem, Canonical.wf_durable]

theorem execCorrectedError_canon {s : State} {t} (h : Canonical s) (e : execCorrectedError s = .next t) :
    Canonical t := by
  unfold execCorrectedError at e
  grind -lia -linarith -ring -ac -order [setDie_canon, Canonical_mk, Canonical.wf_mem, Canonical.wf_durable]

theorem execUncorrectableError_canon {s : State} {t} (h : Canonical s) (e : execUncorrectableError s = .next t) :
    Canonical t := by
  unfold execUncorrectableError at e
  grind -lia -linarith -ring -ac -order [poisonAt_canon, Canonical_mk, Canonical.wf_mem, Canonical.wf_durable]

theorem execCacheSoftError_canon {s : State} {t} (h : Canonical s) (e : execCacheSoftError s = .next t) :
    Canonical t := by
  unfold execCacheSoftError at e
  grind -lia -linarith -ring -ac -order [recallWhere_canon, seatGrain_canon, poisonAt_canon, Canonical_mk,
    Canonical.wf_mem, Canonical.wf_durable]

theorem setTier_canon {s : State} {p t} (h : Canonical s) :
    Canonical (setTier s p t) :=
  h

theorem execCxlExtentAdd_canon {s : State} {t} (h : Canonical s) (e : execCxlExtentAdd s = .next t) :
    Canonical t := by
  unfold execCxlExtentAdd at e
  grind -lia -linarith -ring -ac -order [setTier_canon, Canonical_mk, Canonical.wf_mem, Canonical.wf_durable]

theorem execCxlExtentRelease_canon {s : State} {t} (h : Canonical s) (e : execCxlExtentRelease s = .next t) :
    Canonical t := by
  unfold execCxlExtentRelease at e
  grind -lia -linarith -ring -ac -order [setTier_canon, Canonical_mk, Canonical.wf_mem, Canonical.wf_durable]

theorem execCxlLinkLoss_canon {s : State} {t} (h : Canonical s) (e : execCxlLinkLoss s = .next t) :
    Canonical t := by
  unfold execCxlLinkLoss at e
  cases e
  exact Canonical_ite h (Canonical_foldl (fun _ _ h => poisonAt_canon h) _ (setTier_canon h))

theorem execCxlLinkUp_canon {s : State} {t} (h : Canonical s) (e : execCxlLinkUp s = .next t) :
    Canonical t := by
  unfold execCxlLinkUp at e
  grind -lia -linarith -ring -ac -order [setTier_canon, Canonical_mk, Canonical.wf_mem, Canonical.wf_durable]

/-! ### Coherence -/

theorem execWriteCombiningDrainTimeout_canon {s : State} {t} (h : Canonical s) (e : execWriteCombiningDrainTimeout s =
  .next t) :
    Canonical t := by
  unfold execWriteCombiningDrainTimeout at e
  grind -lia -linarith -ring -ac -order [wcDrain_canon, Canonical_mk, Canonical.wf_mem, Canonical.wf_durable]

theorem homeObtains_canon {s : State} {t own asid va} (h : Canonical s) :
    Canonical (homeObtains s t own asid va) := by
  unfold homeObtains
  grind -lia -linarith -ring -ac -order [snoop_canon, homeGrain_canon, recallOthers_canon, downgradeOthers_canon,
    Canonical_mk, Canonical.wf_mem, Canonical.wf_durable]

theorem holderObtains_canon {s : State} {h1 t own asid va} (h : Canonical s) :
    Canonical (holderObtains s h1 t own asid va) := by
  unfold holderObtains
  grind -lia -linarith -ring -ac -order [snoop_canon, takeOwnership_canon, homeGrain_canon, putCopy_canon,
    downgradeOthers_canon, Canonical_mk, Canonical.wf_mem, Canonical.wf_durable]

theorem obtain_canon {s : State} {h1 own asid va} (h : Canonical s) :
    Canonical (obtain s h1 own asid va) := by
  unfold obtain
  grind -lia -linarith -ring -ac -order [askHost_canon, request_canon, holderObtains_canon, homeObtains_canon,
    Canonical_mk, Canonical.wf_mem, Canonical.wf_durable]

theorem execReadMissFill_canon {s : State} {t} (h : Canonical s) (e : execReadMissFill s = .next t) :
    Canonical t := by
  unfold execReadMissFill at e
  grind -lia -linarith -ring -ac -order [obtain_canon, Canonical_mk, Canonical.wf_mem, Canonical.wf_durable]

theorem execOwnershipGrant_canon {s : State} {t} (h : Canonical s) (e : execOwnershipGrant s = .next t) :
    Canonical t := by
  unfold execOwnershipGrant at e
  grind -lia -linarith -ring -ac -order [obtain_canon, Canonical_mk, Canonical.wf_mem, Canonical.wf_durable]

theorem execWriteBack_canon {s : State} {t} (h : Canonical s) (e : execWriteBack s = .next t) :
    Canonical t := by
  unfold execWriteBack at e
  grind -lia -linarith -ring -ac -order [flushGrain_canon, seatGrain_canon, Canonical_mk, Canonical.wf_mem,
    Canonical.wf_durable]

theorem execSnoopRequest_canon {s : State} {t} (h : Canonical s) (e : execSnoopRequest s = .next t) :
    Canonical t := by
  unfold execSnoopRequest at e
  grind -lia -linarith -ring -ac -order [Canonical_mk, Canonical.wf_mem, Canonical.wf_durable]

theorem execAnnouncementAccept_canon {s : State} {t} (h : Canonical s) (e : execAnnouncementAccept s = .next t) :
    Canonical t := by
  unfold execAnnouncementAccept at e
  grind -lia -linarith -ring -ac -order [Canonical_mk, Canonical.wf_mem, Canonical.wf_durable]

theorem execAnnouncementDelivery_canon {s : State} {t} (h : Canonical s) (e : execAnnouncementDelivery s = .next t) :
    Canonical t := by
  unfold execAnnouncementDelivery at e
  grind -lia -linarith -ring -ac -order [obtain_canon, Canonical_mk, Canonical.wf_mem, Canonical.wf_durable]

theorem recallAt_canon {s : State} {but asid va} (h : Canonical s) :
    Canonical (recallAt s but asid va) := by
  unfold recallAt
  grind -lia -linarith -ring -ac -order [recallWhere_canon, askHosts_canon, Canonical_mk, Canonical.wf_mem,
    Canonical.wf_durable]

theorem execDirectoryRecall_canon {s : State} {t} (h : Canonical s) (e : execDirectoryRecall s = .next t) :
    Canonical t := by
  unfold execDirectoryRecall at e
  grind -lia -linarith -ring -ac -order [recallAt_canon, Canonical_mk, Canonical.wf_mem, Canonical.wf_durable]

theorem execDirectoryEviction_canon {s : State} {t} (h : Canonical s) (e : execDirectoryEviction s = .next t) :
    Canonical t := by
  unfold execDirectoryEviction at e
  grind -lia -linarith -ring -ac -order [recallAt_canon, Canonical_mk, Canonical.wf_mem, Canonical.wf_durable]

theorem execRdcEviction_canon {s : State} {t} (h : Canonical s) (e : execRdcEviction s = .next t) :
    Canonical t := by
  unfold execRdcEviction at e
  grind -lia -linarith -ring -ac -order [dropRdc_canon, Canonical_mk, Canonical.wf_mem, Canonical.wf_durable]

theorem execCodecRequestAccept_canon {s : State} {t} (h : Canonical s) (e : execCodecRequestAccept s = .next t) :
    Canonical t := by
  unfold execCodecRequestAccept at e
  grind -lia -linarith -ring -ac -order [setDie_canon, Canonical_mk, Canonical.wf_mem, Canonical.wf_durable]

theorem codecServed_canon {s : State} (h : Canonical s) :
    Canonical (codecServed s) :=
  h

theorem pageStored_canon {s : State} {a bs} (h : Canonical s) :
    Canonical (pageStored s a bs) := by
  unfold pageStored
  have h1 := Canonical_setMem h (memWriteN_wf (a := a.val.toNat / 65536 * 65536) (bs := bs) h.1)
  exact Canonical_of_eq (codecServed_canon (Canonical_ite h1 (codecBump_canon h1))) rfl rfl

theorem frameHome_canon {s : State} {frame} (h : Canonical s) :
    Canonical (frameHome s frame) := by
  unfold frameHome
  exact Canonical_foldl (fun _ _ h => seatGrain_canon (flushL2_canon h)) _ h

theorem execPageCompression_canon {s : State} {t} (h : Canonical s) (e : execPageCompression s = .next t) :
    Canonical t := by
  unfold execPageCompression at e
  grind -lia -linarith -ring -ac -order [frameHome_canon, pageStored_canon, Canonical_mk, Canonical.wf_mem,
    Canonical.wf_durable]

theorem execCompressedPageRead_canon {s : State} {t} (h : Canonical s) (e : execCompressedPageRead s = .next t) :
    Canonical t := by
  unfold execCompressedPageRead at e
  grind -lia -linarith -ring -ac -order [codecBump_canon, codecServed_canon, poisonAt_canon, Canonical_mk,
    Canonical.wf_mem, Canonical.wf_durable]

theorem execMxAliasRead_canon {s : State} {t} (h : Canonical s) (e : execMxAliasRead s = .next t) :
    Canonical t := by
  unfold execMxAliasRead at e
  grind -lia -linarith -ring -ac -order [obtain_canon, codecServed_canon, Canonical_mk, Canonical.wf_mem,
    Canonical.wf_durable]

theorem execMxAliasWrite_canon {s : State} {t} (h : Canonical s) (e : execMxAliasWrite s = .next t) :
    Canonical t := by
  unfold execMxAliasWrite at e
  grind -lia -linarith -ring -ac -order [storeRange_canon, codecServed_canon, keepSaid_canon, Canonical_mk,
    Canonical.wf_mem, Canonical.wf_durable]

/-! ### Handlers -/

theorem leaveHandler_canon {s : State} {id team f} (h : Canonical s) :
    Canonical (leaveHandler s id team f) := by
  unfold leaveHandler
  grind -lia -linarith -ring -ac -order [modTeam_canon, modSquad_canon, Canonical_mk, Canonical.wf_mem,
    Canonical.wf_durable]

theorem reissue_canon {s : State} {id q} (h : Canonical s) :
    Canonical (reissue s id q) := by
  unfold reissue
  split
  · exact h
  · split
    · exact h
    · split
      · exact h
      · refine Canonical_foldl (fun s a h => ?_) _ h
        split
        · exact redoLane_canon h
        · exact h
    · exact mopRepost_canon h
    · exact copyReissue_canon h

theorem abandon_canon {s : State} {id q} (h : Canonical s) :
    Canonical (abandon s id q) := by
  unfold abandon
  grind -lia -linarith -ring -ac -order [closeEntry_canon, modEntry_canon, Canonical_mk, Canonical.wf_mem,
    Canonical.wf_durable]

theorem tret_canon {s : State} {i o skip} {t} (h : Canonical s) (e : tret i o skip s = .next t) :
    Canonical t := by
  unfold tret at e
  grind -lia -linarith -ring -ac -order [laneEnter_canon, reissue_canon, abandon_canon, modSquad_canon, setWait_canon,
    admitNext_canon, leaveHandler_canon, Lx.illop_canon, Canonical_mk, Canonical.wf_mem, Canonical.wf_durable]

theorem execTretRetry_canon {s : State} {o} {t} (h : Canonical s) (e : execTretRetry o s = .next t) :
    Canonical t := by
  unfold execTretRetry at e
  grind -lia -linarith -ring -ac -order [tret_canon, Canonical_mk, Canonical.wf_mem, Canonical.wf_durable]

theorem execTretSkip_canon {s : State} {o} {t} (h : Canonical s) (e : execTretSkip o s = .next t) :
    Canonical t := by
  unfold execTretSkip at e
  grind -lia -linarith -ring -ac -order [tret_canon, Canonical_mk, Canonical.wf_mem, Canonical.wf_durable]

theorem execTrapEntry_canon {s : State} {t} (h : Canonical s) (e : execTrapEntry s = .next t) :
    Canonical t := by
  unfold execTrapEntry at e
  grind -lia -linarith -ring -ac -order [admitNext_canon, Canonical_mk, Canonical.wf_mem, Canonical.wf_durable]

theorem execDeferredTrapDelivery_canon {s : State} {t} (h : Canonical s) (e : execDeferredTrapDelivery s = .next t) :
    Canonical t := by
  unfold execDeferredTrapDelivery at e
  grind -lia -linarith -ring -ac -order [deliverTrap_canon, Canonical_mk, Canonical.wf_mem, Canonical.wf_durable]

theorem execResultLanding_canon {s : State} {t} (h : Canonical s) (e : execResultLanding s = .next t) :
    Canonical t := by
  unfold execResultLanding at e
  grind -lia -linarith -ring -ac -order [landPop_canon, Canonical_mk, Canonical.wf_mem, Canonical.wf_durable]

theorem execNapTimeout_canon {s : State} {t} (h : Canonical s) (e : execNapTimeout s = .next t) :
    Canonical t := by
  unfold execNapTimeout at e
  grind -lia -linarith -ring -ac -order [wakeSquad_canon, wakeSpine_canon, Canonical_mk, Canonical.wf_mem,
    Canonical.wf_durable]

theorem execPfenceComplete_canon {s : State} {t} (h : Canonical s) (e : execPfenceComplete s = .next t) :
    Canonical t := by
  unfold execPfenceComplete at e
  grind -lia -linarith -ring -ac -order [persist_canon, Canonical_mk, Canonical.wf_mem, Canonical.wf_durable]

/-! ### Host -/

theorem say_canon {s : State} {o} (h : Canonical s) :
    Canonical (say s o) :=
  h

theorem requestFor_mark_canon {r : Rq} {x : State × Bool} {va : Nat} (h : Canonical x.1) :
    Canonical (if x.2 then x
      else match requestFor x.1 r va accStore true with
        | (s, .ok _) => (s, false)
        | (s, _) => (s, true)).1 := by
  have h1 := requestFor_canon (q := r) (va := va) (acc := accStore) (count := true) h
  split
  · exact h
  · generalize requestFor x.1 r va accStore true = y at h1 ⊢
    obtain ⟨s, a⟩ := y
    cases a <;> exact h1

theorem countTriedFold_canon {r : Rq} {l : List (Nat × Nat)} {x : State × Bool} (h : Canonical x.1) :
    Canonical (l.foldl (fun (x : State × Bool) p =>
      if x.2 then x
      else match requestFor x.1 r p.1 accStore true with
        | (s, .ok _) => (s, false)
        | (s, _) => (s, true)) x).1 := by
  induction l generalizing x with
  | nil => exact h
  | cons p l ih => exact ih (requestFor_mark_canon h)

theorem countTried_canon {s : State} {r va n} (h : Canonical s) : Canonical (countTried s r va n) :=
  countTriedFold_canon h

theorem execPcieHostRead_canon {s : State} {t} (h : Canonical s) (e : execPcieHostRead s = .next t) :
    Canonical t := by
  unfold execPcieHostRead at e
  grind -lia -linarith -ring -ac -order [say_canon, loadRange_canon, keepSaid_canon, Canonical_mk, Canonical.wf_mem,
    Canonical.wf_durable]

theorem dropWrite_canon {s : State} (h : Canonical s) :
    Canonical (dropWrite s) :=
  h

theorem execPcieHostWrite_canon {s : State} {t} (h : Canonical s) (e : execPcieHostWrite s = .next t) :
    Canonical t := by
  unfold execPcieHostWrite at e
  grind -lia -linarith -ring -ac -order [storeRange_canon, countTried_canon, keepSaid_canon, dropWrite_canon,
    Canonical_mk, Canonical.wf_mem, Canonical.wf_durable]

theorem execPcieAtomicop_canon {s : State} {t} (h : Canonical s) (e : execPcieAtomicop s = .next t) :
    Canonical t := by
  unfold execPcieAtomicop at e
  grind -lia -linarith -ring -ac -order [say_canon, Canonical_mk, Canonical.wf_mem, Canonical.wf_durable]

theorem grantHost_canon {s : State} {r t va own tag} (h : Canonical s) :
    Canonical (grantHost s r t va own tag) := by
  unfold grantHost
  grind -lia -linarith -ring -ac -order [say_canon, snoop_canon, homeGrain_canon, recallOthers_canon,
    downgradeOthers_canon, putGrain_canon, Canonical_mk, Canonical.wf_mem, Canonical.wf_durable]

theorem execKlHostRead_canon {s : State} {t} (h : Canonical s) (e : execKlHostRead s = .next t) :
    Canonical t := by
  unfold execKlHostRead at e
  grind -lia -linarith -ring -ac -order [say_canon, requestFor_canon, grantHost_canon, Canonical_mk, Canonical.wf_mem,
    Canonical.wf_durable]

theorem execKlHostWrite_canon {s : State} {t} (h : Canonical s) (e : execKlHostWrite s = .next t) :
    Canonical t := by
  unfold execKlHostWrite at e
  grind -lia -linarith -ring -ac -order [say_canon, storeRange_canon, countTried_canon, keepSaid_canon, Canonical_mk,
    Canonical.wf_mem, Canonical.wf_durable]

theorem execKlHostAtomic_canon {s : State} {t} (h : Canonical s) (e : execKlHostAtomic s = .next t) :
    Canonical t := by
  unfold execKlHostAtomic at e
  grind -lia -linarith -ring -ac -order [say_canon, keepSaid_canon, atomPiece_canon, Canonical_mk, Canonical.wf_mem,
    Canonical.wf_durable]

theorem execHostRecallResponse_canon {s : State} {t} (h : Canonical s) (e : execHostRecallResponse s = .next t) :
    Canonical t := by
  unfold execHostRecallResponse at e
  grind -lia -linarith -ring -ac -order [writeHome_canon, Canonical_mk, Canonical.wf_mem, Canonical.wf_durable]

theorem execHostSnoop_canon {s : State} {t} (h : Canonical s) (e : execHostSnoop s = .next t) :
    Canonical t := by
  unfold execHostSnoop at e
  cases e
  have hf := fun l : List Grain => Canonical_foldl (f := flushGrain) (fun _ _ h => flushGrain_canon h) l h
  have hs := fun (l : List Grain) s (h : Canonical s) =>
    Canonical_foldl (f := fun s g => say s (.klSnooped g.asid g.va g.data)) (fun _ _ h => say_canon h) l h
  exact Canonical_ite (hs _ _ (hf _)) (hs _ _ (hf _))

theorem remoteFails_canon {s : State} {r} (h : Canonical s) :
    Canonical (remoteFails s r) := by
  unfold remoteFails
  grind -lia -linarith -ring -ac -order [State.draw_canon, reqFails_canon, Canonical_mk, Canonical.wf_mem,
    Canonical.wf_durable]

theorem resend_canon {s : State} {r} (h : Canonical s) :
    Canonical (resend s r) := by
  unfold resend
  grind -lia -linarith -ring -ac -order [modReq_canon, sendQueued_canon, Canonical_mk, Canonical.wf_mem,
    Canonical.wf_durable]

theorem execHostRefusedTranslation_canon {s : State} {t} (h : Canonical s) (e : execHostRefusedTranslation s = .next
  t) :
    Canonical t := by
  unfold execHostRefusedTranslation at e
  grind -lia -linarith -ring -ac -order [say_canon, remoteFails_canon, modReq_canon, Canonical_mk, Canonical.wf_mem,
    Canonical.wf_durable]

theorem execPageRequestResponse_canon {s : State} {t} (h : Canonical s) (e : execPageRequestResponse s = .next t) :
    Canonical t := by
  unfold execPageRequestResponse at e
  grind -lia -linarith -ring -ac -order [remoteFails_canon, resend_canon, reqReplay_canon, modReq_canon,
    homeLookup_canon, Canonical_mk, Canonical.wf_mem, Canonical.wf_durable]

theorem execAtsInvalidation_canon {s : State} {t} (h : Canonical s) (e : execAtsInvalidation s = .next t) :
    Canonical t := by
  unfold execAtsInvalidation at e
  grind -lia -linarith -ring -ac -order [say_canon, Canonical_mk, Canonical.wf_mem, Canonical.wf_durable]

theorem hostFill_canon {s : State} {h1 asid gva own bs} (h : Canonical s) :
    Canonical (hostFill s h1 asid gva own bs) := by
  unfold hostFill
  grind -lia -linarith -ring -ac -order [recallWhere_canon, putCopy_canon, downgradePass_canon, Canonical_mk,
    Canonical.wf_mem, Canonical.wf_durable]

theorem keepLines_canon {s : State} {h1 asid base bs} (h : Canonical s) :
    Canonical (keepLines s h1 asid base bs) := by
  unfold keepLines
  exact Canonical_foldl (fun _ _ h => Canonical_ite h (hostFill_canon h)) _ h

theorem storeLine_canon {s : State} {cl asid va bs data} (h : Canonical s) :
    Canonical (storeLine s cl asid va bs data) := by
  unfold storeLine
  grind -lia -linarith -ring -ac -order [seatGrain_canon, hostFill_canon, Canonical_mk, Canonical.wf_mem,
    Canonical.wf_durable]

theorem answerCaches_canon {s : State} {r data} (h : Canonical s) :
    Canonical (answerCaches s r data) := by
  unfold answerCaches
  grind -lia -linarith -ring -ac -order [keepLines_canon, storeLine_canon, dropHostLines_canon, Canonical_mk,
    Canonical.wf_mem, Canonical.wf_durable]

theorem keepPeerMt_canon {s : State} {r mt} (h : Canonical s) :
    Canonical (keepPeerMt s r mt) := by
  unfold keepPeerMt
  grind -lia -linarith -ring -ac -order [Canonical_mk, Canonical.wf_mem, Canonical.wf_durable]

theorem keepAtc_canon {s : State} {r} (h : Canonical s) :
    Canonical (keepAtc s r) := by
  unfold keepAtc
  grind -lia -linarith -ring -ac -order [Canonical_mk, Canonical.wf_mem, Canonical.wf_durable]

theorem answered_canon {s : State} {r bs} (h : Canonical s) :
    Canonical (answered s r bs) := by
  unfold answered
  grind -lia -linarith -ring -ac -order [modSpine_canon, mopAnswer_canon, laneDone_canon, copyAnswer_canon,
    respond_canon, modTeam_canon, modSquad_canon, dropReq_canon, gridRead_canon, Canonical_mk, Canonical.wf_mem,
    Canonical.wf_durable]

theorem arrived_canon {s : State} {r} (h : Canonical s) :
    Canonical (arrived r s) := by
  unfold arrived
  exact Canonical_ite (Canonical_foldl (fun _ _ h => answered_canon h) _ h) h

theorem execRemoteHomeResponse_canon {s : State} {t} (h : Canonical s) (e : execRemoteHomeResponse s = .next t) :
    Canonical t := by
  unfold execRemoteHomeResponse at e
  grind -lia -linarith -ring -ac -order [answerCaches_canon, keepAtc_canon, remoteFails_canon, answered_canon,
    arrived_canon, keepPeerMt_canon, Canonical_mk, Canonical.wf_mem, Canonical.wf_durable]

theorem execPeerRequest_canon {s : State} {t} (h : Canonical s) (e : execPeerRequest s = .next t) :
    Canonical t := by
  unfold execPeerRequest at e
  grind -lia -linarith -ring -ac -order [say_canon, storeRange_canon, countTried_canon, loadRange_canon,
    keepSaid_canon, atomPiece_canon, Canonical_mk, Canonical.wf_mem, Canonical.wf_durable]

theorem execVplTimeout_canon {s : State} {t} (h : Canonical s) (e : execVplTimeout s = .next t) :
    Canonical t := by
  unfold execVplTimeout at e
  grind -lia -linarith -ring -ac -order [remoteFails_canon, Canonical_mk, Canonical.wf_mem, Canonical.wf_durable]

theorem execVplPortDown_canon {s : State} {t} (h : Canonical s) (e : execVplPortDown s = .next t) :
    Canonical t := by
  unfold execVplPortDown at e
  cases e
  exact Canonical_foldl (fun _ _ h => remoteFails_canon h) _ h

theorem execVplLinkUp_canon {s : State} {t} (h : Canonical s) (e : execVplLinkUp s = .next t) :
    Canonical t := by
  unfold execVplLinkUp at e
  grind -lia -linarith -ring -ac -order [Canonical_mk, Canonical.wf_mem, Canonical.wf_durable]

theorem execKlLinkUp_canon {s : State} {t} (h : Canonical s) (e : execKlLinkUp s = .next t) :
    Canonical t := by
  unfold execKlLinkUp at e
  grind -lia -linarith -ring -ac -order [Canonical_mk, Canonical.wf_mem, Canonical.wf_durable]

theorem execKlLinkDown_canon {s : State} {t} (h : Canonical s) (e : execKlLinkDown s = .next t) :
    Canonical t := by
  unfold execKlLinkDown at e
  cases e
  exact Canonical_foldl (fun _ _ h => remoteFails_canon h) _ h

theorem pcieLink_canon {s : State} {up} (h : Canonical s) :
    Canonical (pcieLink s up) := by
  unfold pcieLink
  exact Canonical_ite h (Canonical_foldl (fun _ _ h => remoteFails_canon h) _ h)

theorem resizeBar2_canon {s : State} {lg} (h : Canonical s) :
    Canonical (resizeBar2 s lg) := by
  unfold resizeBar2
  grind -lia -linarith -ring -ac -order [Canonical_mk, Canonical.wf_mem, Canonical.wf_durable]

theorem msixEntry_canon {s : State} {fn vec entry} (h : Canonical s) :
    Canonical (msixEntry s fn vec entry) := by
  unfold msixEntry
  grind -lia -linarith -ring -ac -order [Canonical_mk, Canonical.wf_mem, Canonical.wf_durable]

theorem readMsix_canon {s : State} (h : Canonical s) :
    Canonical (readMsix s) := by
  unfold readMsix
  grind -lia -linarith -ring -ac -order [say_canon, Canonical_mk, Canonical.wf_mem, Canonical.wf_durable]

/-! ### LaneCross -/

theorem execMov_canon {s : State} {o} {t} (h : Canonical s) (e : execMov o s = .next t) :
    Canonical t := by
  unfold execMov at e
  grind -lia -linarith -ring -ac -order [aluLane_canon, Canonical_mk, Canonical.wf_mem, Canonical.wf_durable]

theorem execMovk_canon {s : State} {o} {t} (h : Canonical s) (e : execMovk o s = .next t) :
    Canonical t := by
  unfold execMovk at e
  grind -lia -linarith -ring -ac -order [aluLane_canon, Canonical_mk, Canonical.wf_mem, Canonical.wf_durable]

theorem execShfl_canon {s : State} {o} {t} (h : Canonical s) (e : execShfl o s = .next t) :
    Canonical t := by
  unfold execShfl at e
  grind -lia -linarith -ring -ac -order [longLane_canon, Canonical_mk, Canonical.wf_mem, Canonical.wf_durable]

theorem execVote_canon {s : State} {o} {t} (h : Canonical s) (e : execVote o s = .next t) :
    Canonical t := by
  unfold execVote at e
  grind -lia -linarith -ring -ac -order [laneEnter_canon, finishLong_canon, withH_canon, longReady_canon,
    Canonical_mk, Canonical.wf_mem, Canonical.wf_durable]

theorem execRedsq_canon {s : State} {o} {t} (h : Canonical s) (e : execRedsq o s = .next t) :
    Canonical t := by
  unfold execRedsq at e
  grind -lia -linarith -ring -ac -order [longLane_canon, Canonical_mk, Canonical.wf_mem, Canonical.wf_durable]

theorem execScansq_canon {s : State} {o} {t} (h : Canonical s) (e : execScansq o s = .next t) :
    Canonical t := by
  unfold execScansq at e
  grind -lia -linarith -ring -ac -order [longLane_canon, Canonical_mk, Canonical.wf_mem, Canonical.wf_durable]

theorem execElect_canon {s : State} {o} {t} (h : Canonical s) (e : execElect o s = .next t) :
    Canonical t := by
  unfold execElect at e
  grind -lia -linarith -ring -ac -order [laneEnter_canon, finishShort_canon, Canonical_mk, Canonical.wf_mem,
    Canonical.wf_durable]

theorem execRdsp_canon {s : State} {o} {t} (h : Canonical s) (e : execRdsp o s = .next t) :
    Canonical t := by
  unfold execRdsp at e
  grind -lia -linarith -ring -ac -order [aluLane_canon, Canonical_mk, Canonical.wf_mem, Canonical.wf_durable]

theorem execEmget_canon {s : State} {o} {t} (h : Canonical s) (e : execEmget o s = .next t) :
    Canonical t := by
  unfold execEmget at e
  grind -lia -linarith -ring -ac -order [aluLane_canon, Canonical_mk, Canonical.wf_mem, Canonical.wf_durable]

theorem execEmset_canon {s : State} {o} {t} (h : Canonical s) (e : execEmset o s = .next t) :
    Canonical t := by
  unfold execEmset at e
  grind -lia -linarith -ring -ac -order [laneEnter_canon, finishShort_canon, Canonical_mk, Canonical.wf_mem,
    Canonical.wf_durable]

theorem execPget_canon {s : State} {o} {t} (h : Canonical s) (e : execPget o s = .next t) :
    Canonical t := by
  unfold execPget at e
  grind -lia -linarith -ring -ac -order [laneEnter_canon, finishShort_canon, Canonical_mk, Canonical.wf_mem,
    Canonical.wf_durable]

theorem execPset_canon {s : State} {o} {t} (h : Canonical s) (e : execPset o s = .next t) :
    Canonical t := by
  unfold execPset at e
  grind -lia -linarith -ring -ac -order [laneEnter_canon, finishLong_canon, finishShort_canon, withH_canon,
    longReady_canon, Canonical_mk, Canonical.wf_mem, Canonical.wf_durable]

theorem laneBank_canon {s : State} {k : State → State} {x op} (h : Canonical s) (hk : ∀ u0, Canonical u0 → Canonical
  (k u0)) :
    Canonical (laneBank s x op k) := by
  unfold laneBank
  grind -lia -linarith -ring -ac -order [escape_canon, hArrive_canon, setWait_canon, Canonical_mk, Canonical.wf_mem,
    Canonical.wf_durable]

theorem execHput_canon {s : State} {o} {t} (h : Canonical s) (e : execHput o s = .next t) :
    Canonical t := by
  unfold execHput at e
  grind -lia -linarith -ring -ac -order [laneEnter_canon, laneRelease_canon, finishShort_canon, laneBank_canon,
    Canonical_mk, Canonical.wf_mem, Canonical.wf_durable]

theorem contributionWaits_canon {s : State} {x} (h : Canonical s) :
    Canonical (contributionWaits s x) := by
  unfold contributionWaits
  grind -lia -linarith -ring -ac -order [raiseFlag_canon, Canonical_mk, Canonical.wf_mem, Canonical.wf_durable]

theorem execHacc_canon {s : State} {o} {t} (h : Canonical s) (e : execHacc o s = .next t) :
    Canonical t := by
  unfold execHacc at e
  grind -lia -linarith -ring -ac -order [laneEnter_canon, escape_canon, laneRelease_canon, hArrive_canon,
    finishLong_canon, setWait_canon, contributionWaits_canon, finishShort_canon, longReady_canon, Canonical_mk,
    Canonical.wf_mem, Canonical.wf_durable]

theorem execHstat_canon {s : State} {o} {t} (h : Canonical s) (e : execHstat o s = .next t) :
    Canonical t := by
  unfold execHstat at e
  grind -lia -linarith -ring -ac -order [laneEnter_canon, hTurn_canon, finishLong_canon, longReady_canon,
    Canonical_mk, Canonical.wf_mem, Canonical.wf_durable]

theorem execHget_canon {s : State} {o} {t} (h : Canonical s) (e : execHget o s = .next t) :
    Canonical t := by
  unfold execHget at e
  grind -lia -linarith -ring -ac -order [longLane_canon, Canonical_mk, Canonical.wf_mem, Canonical.wf_durable]

end Sys2Proof.MemoryForm

/-! PROOFS. Canonical memory (02), part 5 of 7: the operations of LaneFloat, LaneInt, LaneMem, LaneLocal keep the canonical form. -/

namespace Sys2Proof.MemoryForm

open Sys2Proof Sys2Proof.Machine Sys2Proof.Safety

/-! ### LaneFloat -/

theorem execFadd_canon {s : State} {o} {t} (h : Canonical s) (e : execFadd o s = .next t) :
    Canonical t := by
  unfold execFadd at e
  grind -lia -linarith -ring -ac -order [aluLane_canon, Canonical_mk, Canonical.wf_mem, Canonical.wf_durable]

theorem execFsub_canon {s : State} {o} {t} (h : Canonical s) (e : execFsub o s = .next t) :
    Canonical t := by
  unfold execFsub at e
  grind -lia -linarith -ring -ac -order [aluLane_canon, Canonical_mk, Canonical.wf_mem, Canonical.wf_durable]

theorem execFmul_canon {s : State} {o} {t} (h : Canonical s) (e : execFmul o s = .next t) :
    Canonical t := by
  unfold execFmul at e
  grind -lia -linarith -ring -ac -order [aluLane_canon, Canonical_mk, Canonical.wf_mem, Canonical.wf_durable]

theorem execFmin_canon {s : State} {o} {t} (h : Canonical s) (e : execFmin o s = .next t) :
    Canonical t := by
  unfold execFmin at e
  grind -lia -linarith -ring -ac -order [aluLane_canon, Canonical_mk, Canonical.wf_mem, Canonical.wf_durable]

theorem execFmax_canon {s : State} {o} {t} (h : Canonical s) (e : execFmax o s = .next t) :
    Canonical t := by
  unfold execFmax at e
  grind -lia -linarith -ring -ac -order [aluLane_canon, Canonical_mk, Canonical.wf_mem, Canonical.wf_durable]

theorem execFfma_canon {s : State} {o} {t} (h : Canonical s) (e : execFfma o s = .next t) :
    Canonical t := by
  unfold execFfma at e
  grind -lia -linarith -ring -ac -order [aluLane_canon, Canonical_mk, Canonical.wf_mem, Canonical.wf_durable]

theorem execFcmp_canon {s : State} {o} {t} (h : Canonical s) (e : execFcmp o s = .next t) :
    Canonical t := by
  unfold execFcmp at e
  grind -lia -linarith -ring -ac -order [predLane_canon, Canonical_mk, Canonical.wf_mem, Canonical.wf_durable]

theorem execFrnd_canon {s : State} {o} {t} (h : Canonical s) (e : execFrnd o s = .next t) :
    Canonical t := by
  unfold execFrnd at e
  grind -lia -linarith -ring -ac -order [aluLane_canon, Canonical_mk, Canonical.wf_mem, Canonical.wf_durable]

theorem execFclass_canon {s : State} {o} {t} (h : Canonical s) (e : execFclass o s = .next t) :
    Canonical t := by
  unfold execFclass at e
  grind -lia -linarith -ring -ac -order [aluLane_canon, Canonical_mk, Canonical.wf_mem, Canonical.wf_durable]

theorem execFscale_canon {s : State} {o} {t} (h : Canonical s) (e : execFscale o s = .next t) :
    Canonical t := by
  unfold execFscale at e
  grind -lia -linarith -ring -ac -order [aluLane_canon, Canonical_mk, Canonical.wf_mem, Canonical.wf_durable]

theorem execCvt_canon {s : State} {o} {t} (h : Canonical s) (e : execCvt o s = .next t) :
    Canonical t := by
  unfold execCvt at e
  grind -lia -linarith -ring -ac -order [aluLane_canon, Canonical_mk, Canonical.wf_mem, Canonical.wf_durable]

theorem execPack2_canon {s : State} {o} {t} (h : Canonical s) (e : execPack2 o s = .next t) :
    Canonical t := by
  unfold execPack2 at e
  grind -lia -linarith -ring -ac -order [aluLane_canon, Canonical_mk, Canonical.wf_mem, Canonical.wf_durable]

theorem execPack4_canon {s : State} {o} {t} (h : Canonical s) (e : execPack4 o s = .next t) :
    Canonical t := by
  unfold execPack4 at e
  grind -lia -linarith -ring -ac -order [aluLane_canon, Canonical_mk, Canonical.wf_mem, Canonical.wf_durable]

theorem execDot4_canon {s : State} {o} {t} (h : Canonical s) (e : execDot4 o s = .next t) :
    Canonical t := by
  unfold execDot4 at e
  grind -lia -linarith -ring -ac -order [aluLane_canon, Canonical_mk, Canonical.wf_mem, Canonical.wf_durable]

theorem execDot8_canon {s : State} {o} {t} (h : Canonical s) (e : execDot8 o s = .next t) :
    Canonical t := by
  unfold execDot8 at e
  grind -lia -linarith -ring -ac -order [aluLane_canon, Canonical_mk, Canonical.wf_mem, Canonical.wf_durable]

theorem execDotf4_canon {s : State} {o} {t} (h : Canonical s) (e : execDotf4 o s = .next t) :
    Canonical t := by
  unfold execDotf4 at e
  grind -lia -linarith -ring -ac -order [aluLane_canon, Canonical_mk, Canonical.wf_mem, Canonical.wf_durable]

theorem execDotf8_canon {s : State} {o} {t} (h : Canonical s) (e : execDotf8 o s = .next t) :
    Canonical t := by
  unfold execDotf8 at e
  grind -lia -linarith -ring -ac -order [aluLane_canon, Canonical_mk, Canonical.wf_mem, Canonical.wf_durable]

theorem execMxscale_canon {s : State} {o} {t} (h : Canonical s) (e : execMxscale o s = .next t) :
    Canonical t := by
  unfold execMxscale at e
  grind -lia -linarith -ring -ac -order [aluLane_canon, Canonical_mk, Canonical.wf_mem, Canonical.wf_durable]

theorem sfuLane_canon {s : State} {i fn o} {t} (h : Canonical s) (e : sfuLane i fn o s = .next t) :
    Canonical t := by
  unfold sfuLane at e
  grind -lia -linarith -ring -ac -order [longLane_canon, Canonical_mk, Canonical.wf_mem, Canonical.wf_durable]

theorem execRcp_canon {s : State} {o} {t} (h : Canonical s) (e : execRcp o s = .next t) :
    Canonical t := by
  unfold execRcp at e
  grind -lia -linarith -ring -ac -order [sfuLane_canon, Canonical_mk, Canonical.wf_mem, Canonical.wf_durable]

theorem execRsq_canon {s : State} {o} {t} (h : Canonical s) (e : execRsq o s = .next t) :
    Canonical t := by
  unfold execRsq at e
  grind -lia -linarith -ring -ac -order [sfuLane_canon, Canonical_mk, Canonical.wf_mem, Canonical.wf_durable]

theorem execSqrt_canon {s : State} {o} {t} (h : Canonical s) (e : execSqrt o s = .next t) :
    Canonical t := by
  unfold execSqrt at e
  grind -lia -linarith -ring -ac -order [sfuLane_canon, Canonical_mk, Canonical.wf_mem, Canonical.wf_durable]

theorem execExp2_canon {s : State} {o} {t} (h : Canonical s) (e : execExp2 o s = .next t) :
    Canonical t := by
  unfold execExp2 at e
  grind -lia -linarith -ring -ac -order [sfuLane_canon, Canonical_mk, Canonical.wf_mem, Canonical.wf_durable]

theorem execLog2_canon {s : State} {o} {t} (h : Canonical s) (e : execLog2 o s = .next t) :
    Canonical t := by
  unfold execLog2 at e
  grind -lia -linarith -ring -ac -order [sfuLane_canon, Canonical_mk, Canonical.wf_mem, Canonical.wf_durable]

theorem execSin_canon {s : State} {o} {t} (h : Canonical s) (e : execSin o s = .next t) :
    Canonical t := by
  unfold execSin at e
  grind -lia -linarith -ring -ac -order [sfuLane_canon, Canonical_mk, Canonical.wf_mem, Canonical.wf_durable]

theorem execCos_canon {s : State} {o} {t} (h : Canonical s) (e : execCos o s = .next t) :
    Canonical t := by
  unfold execCos at e
  grind -lia -linarith -ring -ac -order [sfuLane_canon, Canonical_mk, Canonical.wf_mem, Canonical.wf_durable]

theorem execTanh_canon {s : State} {o} {t} (h : Canonical s) (e : execTanh o s = .next t) :
    Canonical t := by
  unfold execTanh at e
  grind -lia -linarith -ring -ac -order [sfuLane_canon, Canonical_mk, Canonical.wf_mem, Canonical.wf_durable]

theorem execSigm_canon {s : State} {o} {t} (h : Canonical s) (e : execSigm o s = .next t) :
    Canonical t := by
  unfold execSigm at e
  grind -lia -linarith -ring -ac -order [sfuLane_canon, Canonical_mk, Canonical.wf_mem, Canonical.wf_durable]

/-! ### LaneInt -/

theorem execAdd_canon {s : State} {o} {t} (h : Canonical s) (e : execAdd o s = .next t) :
    Canonical t := by
  unfold execAdd at e
  grind -lia -linarith -ring -ac -order [aluLane_canon, Canonical_mk, Canonical.wf_mem, Canonical.wf_durable]

theorem execSub_canon {s : State} {o} {t} (h : Canonical s) (e : execSub o s = .next t) :
    Canonical t := by
  unfold execSub at e
  grind -lia -linarith -ring -ac -order [aluLane_canon, Canonical_mk, Canonical.wf_mem, Canonical.wf_durable]

theorem execAddx_canon {s : State} {o} {t} (h : Canonical s) (e : execAddx o s = .next t) :
    Canonical t := by
  unfold execAddx at e
  grind -lia -linarith -ring -ac -order [aluLane_canon, Canonical_mk, Canonical.wf_mem, Canonical.wf_durable]

theorem execMul_canon {s : State} {o} {t} (h : Canonical s) (e : execMul o s = .next t) :
    Canonical t := by
  unfold execMul at e
  grind -lia -linarith -ring -ac -order [aluLane_canon, Canonical_mk, Canonical.wf_mem, Canonical.wf_durable]

theorem execMulhi_canon {s : State} {o} {t} (h : Canonical s) (e : execMulhi o s = .next t) :
    Canonical t := by
  unfold execMulhi at e
  grind -lia -linarith -ring -ac -order [aluLane_canon, Canonical_mk, Canonical.wf_mem, Canonical.wf_durable]

theorem execMad_canon {s : State} {o} {t} (h : Canonical s) (e : execMad o s = .next t) :
    Canonical t := by
  unfold execMad at e
  grind -lia -linarith -ring -ac -order [aluLane_canon, Canonical_mk, Canonical.wf_mem, Canonical.wf_durable]

theorem execMadw_canon {s : State} {o} {t} (h : Canonical s) (e : execMadw o s = .next t) :
    Canonical t := by
  unfold execMadw at e
  grind -lia -linarith -ring -ac -order [aluLane_canon, Canonical_mk, Canonical.wf_mem, Canonical.wf_durable]

theorem execMin_canon {s : State} {o} {t} (h : Canonical s) (e : execMin o s = .next t) :
    Canonical t := by
  unfold execMin at e
  grind -lia -linarith -ring -ac -order [aluLane_canon, Canonical_mk, Canonical.wf_mem, Canonical.wf_durable]

theorem execMax_canon {s : State} {o} {t} (h : Canonical s) (e : execMax o s = .next t) :
    Canonical t := by
  unfold execMax at e
  grind -lia -linarith -ring -ac -order [aluLane_canon, Canonical_mk, Canonical.wf_mem, Canonical.wf_durable]

theorem execAbs_canon {s : State} {o} {t} (h : Canonical s) (e : execAbs o s = .next t) :
    Canonical t := by
  unfold execAbs at e
  grind -lia -linarith -ring -ac -order [aluLane_canon, Canonical_mk, Canonical.wf_mem, Canonical.wf_durable]

theorem execLea_canon {s : State} {o} {t} (h : Canonical s) (e : execLea o s = .next t) :
    Canonical t := by
  unfold execLea at e
  grind -lia -linarith -ring -ac -order [aluLane_canon, Canonical_mk, Canonical.wf_mem, Canonical.wf_durable]

theorem execIcmp_canon {s : State} {o} {t} (h : Canonical s) (e : execIcmp o s = .next t) :
    Canonical t := by
  unfold execIcmp at e
  grind -lia -linarith -ring -ac -order [predLane_canon, Canonical_mk, Canonical.wf_mem, Canonical.wf_durable]

theorem execSel_canon {s : State} {o} {t} (h : Canonical s) (e : execSel o s = .next t) :
    Canonical t := by
  unfold execSel at e
  grind -lia -linarith -ring -ac -order [laneEnter_canon, finishLong_canon, finishShort_canon, withH_canon,
    longReady_canon, Canonical_mk, Canonical.wf_mem, Canonical.wf_durable]

theorem execAnd_canon {s : State} {o} {t} (h : Canonical s) (e : execAnd o s = .next t) :
    Canonical t := by
  unfold execAnd at e
  grind -lia -linarith -ring -ac -order [aluLane_canon, Canonical_mk, Canonical.wf_mem, Canonical.wf_durable]

theorem execOr_canon {s : State} {o} {t} (h : Canonical s) (e : execOr o s = .next t) :
    Canonical t := by
  unfold execOr at e
  grind -lia -linarith -ring -ac -order [aluLane_canon, Canonical_mk, Canonical.wf_mem, Canonical.wf_durable]

theorem execXor_canon {s : State} {o} {t} (h : Canonical s) (e : execXor o s = .next t) :
    Canonical t := by
  unfold execXor at e
  grind -lia -linarith -ring -ac -order [aluLane_canon, Canonical_mk, Canonical.wf_mem, Canonical.wf_durable]

theorem execAndn_canon {s : State} {o} {t} (h : Canonical s) (e : execAndn o s = .next t) :
    Canonical t := by
  unfold execAndn at e
  grind -lia -linarith -ring -ac -order [aluLane_canon, Canonical_mk, Canonical.wf_mem, Canonical.wf_durable]

theorem execLut3_canon {s : State} {o} {t} (h : Canonical s) (e : execLut3 o s = .next t) :
    Canonical t := by
  unfold execLut3 at e
  grind -lia -linarith -ring -ac -order [aluLane_canon, Canonical_mk, Canonical.wf_mem, Canonical.wf_durable]

theorem execShl_canon {s : State} {o} {t} (h : Canonical s) (e : execShl o s = .next t) :
    Canonical t := by
  unfold execShl at e
  grind -lia -linarith -ring -ac -order [aluLane_canon, Canonical_mk, Canonical.wf_mem, Canonical.wf_durable]

theorem execShr_canon {s : State} {o} {t} (h : Canonical s) (e : execShr o s = .next t) :
    Canonical t := by
  unfold execShr at e
  grind -lia -linarith -ring -ac -order [aluLane_canon, Canonical_mk, Canonical.wf_mem, Canonical.wf_durable]

theorem execSar_canon {s : State} {o} {t} (h : Canonical s) (e : execSar o s = .next t) :
    Canonical t := by
  unfold execSar at e
  grind -lia -linarith -ring -ac -order [aluLane_canon, Canonical_mk, Canonical.wf_mem, Canonical.wf_durable]

theorem execShf_canon {s : State} {o} {t} (h : Canonical s) (e : execShf o s = .next t) :
    Canonical t := by
  unfold execShf at e
  grind -lia -linarith -ring -ac -order [aluLane_canon, Canonical_mk, Canonical.wf_mem, Canonical.wf_durable]

theorem execBfe_canon {s : State} {o} {t} (h : Canonical s) (e : execBfe o s = .next t) :
    Canonical t := by
  unfold execBfe at e
  grind -lia -linarith -ring -ac -order [aluLane_canon, Canonical_mk, Canonical.wf_mem, Canonical.wf_durable]

theorem execBfi_canon {s : State} {o} {t} (h : Canonical s) (e : execBfi o s = .next t) :
    Canonical t := by
  unfold execBfi at e
  grind -lia -linarith -ring -ac -order [aluLane_canon, Canonical_mk, Canonical.wf_mem, Canonical.wf_durable]

theorem execPopc_canon {s : State} {o} {t} (h : Canonical s) (e : execPopc o s = .next t) :
    Canonical t := by
  unfold execPopc at e
  grind -lia -linarith -ring -ac -order [aluLane_canon, Canonical_mk, Canonical.wf_mem, Canonical.wf_durable]

theorem execClz_canon {s : State} {o} {t} (h : Canonical s) (e : execClz o s = .next t) :
    Canonical t := by
  unfold execClz at e
  grind -lia -linarith -ring -ac -order [aluLane_canon, Canonical_mk, Canonical.wf_mem, Canonical.wf_durable]

theorem execBrev_canon {s : State} {o} {t} (h : Canonical s) (e : execBrev o s = .next t) :
    Canonical t := by
  unfold execBrev at e
  grind -lia -linarith -ring -ac -order [aluLane_canon, Canonical_mk, Canonical.wf_mem, Canonical.wf_durable]

/-! ### LaneMem -/

theorem memChecks_canon {s : State} {k : State} {x r n atomic} (h : Canonical s) (h1 : Canonical k) :
    Canonical (memChecks s x r n atomic k) := by
  unfold memChecks
  grind -lia -linarith -ring -ac -order [Lx.trap_canon, Canonical_mk, Canonical.wf_mem, Canonical.wf_durable]

theorem memGo_canon {s : State} {post : State → List ℕ → State} {x r reads frees order data res} (h : Canonical s)
  (hpost : ∀ u0 w1, Canonical u0 → Canonical (post u0 w1)) :
    Canonical (memGo s x r reads frees order data res post) := by
  unfold memGo
  grind -lia -linarith -ring -ac -order [issueAccess_canon, pcieFlush_canon, setWait_canon, drainAgent_canon,
    Canonical_mk, Canonical.wf_mem, Canonical.wf_durable]

theorem execLd_canon {s : State} {o} {t} (h : Canonical s) (e : execLd o s = .next t) :
    Canonical t := by
  unfold execLd at e
  grind -lia -linarith -ring -ac -order [laneEnter_canon, memGo_canon, memChecks_canon, longReady_canon, Canonical_mk,
    Canonical.wf_mem, Canonical.wf_durable]

theorem execSt_canon {s : State} {o} {t} (h : Canonical s) (e : execSt o s = .next t) :
    Canonical t := by
  unfold execSt at e
  grind -lia -linarith -ring -ac -order [laneEnter_canon, escape_canon, noteStores_canon, memGo_canon,
    memChecks_canon, longReady_canon, Canonical_mk, Canonical.wf_mem, Canonical.wf_durable]

theorem execLdu_canon {s : State} {o} {t} (h : Canonical s) (e : execLdu o s = .next t) :
    Canonical t := by
  unfold execLdu at e
  grind -lia -linarith -ring -ac -order [laneEnter_canon, memGo_canon, Lx.trap_canon, longReady_canon, Canonical_mk,
    Canonical.wf_mem, Canonical.wf_durable]

theorem prefetchRdc_canon {s : State} {r va} (h : Canonical s) :
    Canonical (prefetchRdc s r va) := by
  unfold prefetchRdc
  grind -lia -linarith -ring -ac -order [requestFor_canon, homeGrain_canon, putGrain_canon, Canonical_mk,
    Canonical.wf_mem, Canonical.wf_durable]

theorem prefetch_canon {s : State} {r l2 va} (h : Canonical s) :
    Canonical (prefetch s r l2 va) := by
  unfold prefetch
  grind -lia -linarith -ring -ac -order [prefetchRdc_canon, loadPiece_canon, sendRemote_canon, Canonical_mk,
    Canonical.wf_mem, Canonical.wf_durable]

theorem execPrf_canon {s : State} {o} {t} (h : Canonical s) (e : execPrf o s = .next t) :
    Canonical t := by
  unfold execPrf at e
  refine laneEnter_canon (fun x => ?_) h e
  exact Canonical_ite (setWait_canon h) (finishShort_canon (Canonical_foldl (fun _ _ h => prefetch_canon h) _ h))

theorem armLanes_canon {s : State} {x r count seen ls} (h : Canonical s) : Canonical (armLanes s x r count seen ls) :=
  by
  induction ls generalizing s seen with
  | nil => exact h
  | cons l ls ih => exact Canonical_ite (ih h) (ih (armAt_canon h))

theorem execLdcf_canon {s : State} {o} {t} (h : Canonical s) (e : execLdcf o s = .next t) :
    Canonical t := by
  unfold execLdcf at e
  grind -lia -linarith -ring -ac -order [laneEnter_canon, memGo_canon, memChecks_canon, Lx.illop_canon,
    armLanes_canon, longReady_canon, Canonical_mk, Canonical.wf_mem, Canonical.wf_durable]

theorem consumeLanes_canon {s : State} {x r seen ls} (h : Canonical s) : Canonical (consumeLanes s x r seen ls) := by
  induction ls generalizing s seen with
  | nil => exact h
  | cons l ls ih => exact Canonical_ite (ih h) (ih (consumeGrain_canon h))

theorem execLdc_canon {s : State} {o} {t} (h : Canonical s) (e : execLdc o s = .next t) :
    Canonical t := by
  unfold execLdc at e
  grind -lia -linarith -ring -ac -order [laneEnter_canon, modCluster_canon, consumeLanes_canon, memGo_canon,
    memChecks_canon, Lx.trap_canon, longReady_canon, Canonical_mk, Canonical.wf_mem, Canonical.wf_durable]

theorem execAtom_canon {s : State} {o} {t} (h : Canonical s) (e : execAtom o s = .next t) :
    Canonical t := by
  unfold execAtom at e
  grind -lia -linarith -ring -ac -order [laneEnter_canon, escape_canon, memGo_canon, memChecks_canon, longReady_canon,
    Canonical_mk, Canonical.wf_mem, Canonical.wf_durable]

theorem laneCas_canon {s : State} {i o n} {t} (h : Canonical s) (e : laneCas i o n s = .next t) :
    Canonical t := by
  unfold laneCas at e
  grind -lia -linarith -ring -ac -order [laneEnter_canon, escape_canon, memGo_canon, memChecks_canon, longReady_canon,
    Canonical_mk, Canonical.wf_mem, Canonical.wf_durable]

theorem execCas_canon {s : State} {o} {t} (h : Canonical s) (e : execCas o s = .next t) :
    Canonical t := by
  unfold execCas at e
  grind -lia -linarith -ring -ac -order [laneCas_canon, Canonical_mk, Canonical.wf_mem, Canonical.wf_durable]

theorem execCas2_canon {s : State} {o} {t} (h : Canonical s) (e : execCas2 o s = .next t) :
    Canonical t := by
  unfold execCas2 at e
  grind -lia -linarith -ring -ac -order [laneCas_canon, Canonical_mk, Canonical.wf_mem, Canonical.wf_durable]

theorem execFence_canon {s : State} {o} {t} (h : Canonical s) (e : execFence o s = .next t) :
    Canonical t := by
  unfold execFence at e
  grind -lia -linarith -ring -ac -order [laneEnter_canon, laneRelease_canon, pcieFlush_canon, setWait_canon,
    finishShort_canon, Canonical_mk, Canonical.wf_mem, Canonical.wf_durable]

theorem execPfence_canon {s : State} {o} {t} (h : Canonical s) (e : execPfence o s = .next t) :
    Canonical t := by
  unfold execPfence at e
  grind -lia -linarith -ring -ac -order [laneEnter_canon, laneRelease_canon, modSquad_canon, setWait_canon,
    finishShort_canon, flushPers_canon, Canonical_mk, Canonical.wf_mem, Canonical.wf_durable]

theorem locLanes_canon {s : State} {x r ls} (h : Canonical s) : Canonical (locLanes x r ls s).1 := by
  induction ls generalizing s with
  | nil => exact h
  | cons l ls ih =>
    unfold locLanes
    grind -lia -linarith -ring -ac -order [locQuery_canon]

theorem execLoc_canon {s : State} {o} {t} (h : Canonical s) (e : execLoc o s = .next t) :
    Canonical t := by
  unfold execLoc at e
  grind -lia -linarith -ring -ac -order [laneEnter_canon, finishLong_canon, setWait_canon, locLanes_canon,
    longReady_canon, Canonical_mk, Canonical.wf_mem, Canonical.wf_durable]

/-! ### LaneLocal -/

theorem lsWrite_canon {s : State} {x n bs l} (h : Canonical s) :
    Canonical (lsWrite s x n bs l) :=
  h

theorem lsTouch_canon {s : State} {x n} (h : Canonical s) :
    Canonical (lsTouch s x n) := by
  unfold lsTouch
  exact Canonical_foldl (fun _ _ h => lsPort_canon h) _ h

theorem issueWords_canon {s : State} {x u frees n f} (h : Canonical s) :
    Canonical (issueWords s x u frees n f) := by
  unfold issueWords
  grind -lia -linarith -ring -ac -order [finishLong_canon, Canonical_mk, Canonical.wf_mem, Canonical.wf_durable]

theorem execLds_canon {s : State} {o} {t} (h : Canonical s) (e : execLds o s = .next t) :
    Canonical t := by
  unfold execLds at e
  grind -lia -linarith -ring -ac -order [laneEnter_canon, lsEnter_canon, issueWords_canon, lsTouch_canon,
    longReady_canon, Canonical_mk, Canonical.wf_mem, Canonical.wf_durable]

theorem lsStores_canon {s : State} {x} (h : Canonical s) :
    Canonical (lsStores s x) := by
  unfold lsStores
  exact Canonical_foldl (fun _ _ h => lsWrite_canon h) _ (lsTouch_canon h)

theorem execSts_canon {s : State} {o} {t} (h : Canonical s) (e : execSts o s = .next t) :
    Canonical t := by
  unfold execSts at e
  grind -lia -linarith -ring -ac -order [laneEnter_canon, lsStores_canon, finishLong_canon, lsEnter_canon,
    longReady_canon, Canonical_mk, Canonical.wf_mem, Canonical.wf_durable]

theorem execStsArm_canon {s : State} {o} {t} (h : Canonical s) (e : execStsArm o s = .next t) :
    Canonical t := by
  unfold execStsArm at e
  refine laneEnter_canon (fun x => ?_) h e
  refine Canonical_ite (Lx.illop_canon h) (lsEnter_canon (fun s x h => longReady_canon (fun s h => ?_) h) h)
  exact finishLong_canon (Canonical_foldl (fun _ _ h => armBlock_canon h) _ (lsStores_canon h))

theorem lsAtoms_canon {s : State} {x n ls} (h : Canonical s) : Canonical (lsAtoms x n ls s).1 := by
  induction ls generalizing s with
  | nil => exact h
  | cons l ls ih => exact ih (lsWrite_canon h)

theorem execAtoms_canon {s : State} {o} {t} (h : Canonical s) (e : execAtoms o s = .next t) :
    Canonical t := by
  unfold execAtoms at e
  grind -lia -linarith -ring -ac -order [laneEnter_canon, lsAtoms_canon, lsEnter_canon, issueWords_canon,
    lsTouch_canon, longReady_canon, Canonical_mk, Canonical.wf_mem, Canonical.wf_durable]

theorem execLdsc_canon {s : State} {o} {t} (h : Canonical s) (e : execLdsc o s = .next t) :
    Canonical t := by
  unfold execLdsc at e
  refine laneEnter_canon (fun x => lsEnter_canon (fun s x h => ?_) h) h e
  refine Canonical_ite (Lx.trap_canon (modCluster_canon (lsTouch_canon h))) (longReady_canon (fun s h => ?_)
    (lsTouch_canon h))
  exact issueWords_canon (Canonical_foldl (fun _ _ h => modSeg_canon h) _ h)

theorem execLsArm_canon {s : State} {o} {t} (h : Canonical s) (e : execLsarm o s = .next t) :
    Canonical t := by
  unfold execLsarm at e
  refine laneEnter_canon (fun x => ?_) h e
  refine Canonical_ite (Lx.illop_canon h) (acquireGate_canon (fun s h => longReady_canon (fun s h => ?_) h) h)
  refine Canonical_ite (finishLong_canon h) ?_
  dsimp only
  split
  · exact finishLong_canon (switchOff_canon h)
  · exact finishLong_canon (Canonical_foldl (fun _ _ h => armBlock_canon h) _ (lsPort_canon h))

theorem execLsstat_canon {s : State} {o} {t} (h : Canonical s) (e : execLsstat o s = .next t) :
    Canonical t := by
  unfold execLsstat at e
  grind -lia -linarith -ring -ac -order [laneEnter_canon, finishLong_canon, lsEnter_canon, lsTouch_canon,
    longReady_canon, Canonical_mk, Canonical.wf_mem, Canonical.wf_durable]

end Sys2Proof.MemoryForm

/-! PROOFS. Canonical memory (02), part 6 of 7: the operations of Service, SpineFloat, SpineInt keep the canonical form. -/

namespace Sys2Proof.MemoryForm

open Sys2Proof Sys2Proof.Machine Sys2Proof.Safety

/-! ### Service -/

theorem rebuildSvq_canon {s : State} (h : Canonical s) :
    Canonical (rebuildSvq s) := by
  unfold rebuildSvq
  grind -lia -linarith -ring -ac -order [Canonical_mk, Canonical.wf_mem, Canonical.wf_durable]

theorem svpSleep_canon {s : State} {q} (h : Canonical s) :
    Canonical (svpSleep s q) :=
  h

theorem replayed_canon {s : State} {slot c} (h : Canonical s) :
    Canonical (replayed s slot c) :=
  h

theorem mgmtTaken_canon {s : State} {log e1} (h : Canonical s) :
    Canonical (mgmtTaken s log e1).1 :=
  h

theorem mgmtTake_canon {s : State} {p} (h : Canonical s) :
    Canonical (mgmtTake s p).1 := by
  unfold mgmtTake
  split
  · exact h
  · split
    · dsimp only
      split
      · split
        · exact mgmtTaken_canon (replayed_canon h)
        · exact h
      · exact h
    · split
      · exact h
      · dsimp only
        split
        · exact h
        · split
          · next heq =>
            refine mgmtTaken_canon ?_
            split at heq
            · exact logService_canon h heq
            · cases heq
              exact h
          · exact h

theorem svqTaken_canon {s : State} {pop : State → State} {q slot j e1} (h : Canonical s) (hpop : ∀ u0, Canonical u0 →
  Canonical (pop u0)) :
    Canonical (svqTaken s q slot j e1 pop).1 := by
  unfold svqTaken
  split
  · exact h
  · next s1 heq =>
    have h1 := hpop s1 (logService_canon h heq)
    exact Canonical_setMem h1 (memWriteN_wf h1.1)

theorem popHead_canon {s : State} {slot n} (h : Canonical s) :
    Canonical (popHead s slot n) := by
  unfold popHead
  grind -lia -linarith -ring -ac -order [qWrite_canon, qLoad_canon, Canonical_mk, Canonical.wf_mem,
    Canonical.wf_durable]

theorem svqPop_canon {s0 s : State} {q slot j n : Nat} {asid} {p : List Byte → Bool} {o : QOpen} (h0 : Canonical s0)
    (h : Canonical s) :
    Canonical (if qTail o.q = qHead o.q then (svpSleep s0 q, (none : Option Cmd))
      else
        let (s1, e) := qRead s o.rt asid (slotVa o.q (qHead o.q))
        if p e then svqTaken s1 q slot j e (fun s => popHead s slot n) else (s0, none)).1 := by
  split
  · exact svpSleep_canon h0
  · have h1 := qRead_canon (t := o.rt) (asid := asid) (va := slotVa o.q (qHead o.q)) h
    generalize qRead s o.rt asid (slotVa o.q (qHead o.q)) = y at h1 ⊢
    obtain ⟨s1, e⟩ := y
    dsimp only
    split
    · exact svqTaken_canon h1 fun _ h => popHead_canon h
    · exact h0

theorem svqTake_canon {s : State} {q p} (h : Canonical s) : Canonical (svqTake s q p).1 := by
  generalize hy : svqTake s q p = y
  unfold svqTake at hy
  extract_lets logged at hy
  clear_value logged
  split at hy
  · subst hy
    exact h
  · obtain hm | ⟨⟨slot, n⟩, hm⟩ := (mget s.svqMap q).eq_none_or_eq_some
    · rw [hm] at hy
      subst hy
      exact svpSleep_canon h
    · rw [hm] at hy
      dsimp only at hy
      split at hy
      · subst hy
        exact h
      · generalize journalSlot s slot = j at hy
        cases j with
        | none =>
          subst hy
          exact h
        | some j =>
          dsimp only at hy
          generalize replayNext s slot = a at hy
          cases a with
          | held =>
            subst hy
            exact h
          | found c bs =>
            dsimp only at hy
            split at hy <;> subst hy
            · exact svqTaken_canon (replayed_canon h) fun _ h => h
            · exact h
          | nothing =>
            dsimp only at hy
            have h1 := qLoad_canon (die := 0) (slot := slot) (asid := ctxAsid s slot) (n := n)
              (priv := fun b => !qBad slot n b && qBind b != 1) (ctr := qHead) (acc := accLoad) (agent := .none) h
            generalize qLoad s 0 slot (ctxAsid s slot) n (fun b => !qBad slot n b && qBind b != 1) qHead accLoad = z
              at h1 hy
            obtain ⟨s1, a | o⟩ := z
            · cases a <;> subst hy
              case held => exact h
              case trap => exact svpSleep_canon (Canonical_ite h (svcErr_canon h))
              all_goals exact svpSleep_canon (svcErr_canon h)
            · subst hy
              exact svqPop_canon h h1

theorem cmdTake_canon {s : State} {p} (h : Canonical s) :
    Canonical (cmdTake s p).1 := by
  unfold cmdTake
  grind -lia -linarith -ring -ac -order [svqTake_canon, mgmtTake_canon, Canonical_mk, Canonical.wf_mem,
    Canonical.wf_durable]

theorem waitCmd_canon {s : State} {x} (h : Canonical s) :
    Canonical (waitCmd s x) := by
  unfold waitCmd
  grind -lia -linarith -ring -ac -order [flushAsid_canon, Canonical_mk, Canonical.wf_mem, Canonical.wf_durable]

theorem runCmd_canon {s : State} {body : State → Cmd → Option State} {p named} {t} (h : Canonical s) (hbody : ∀ u0 w1,
  Canonical u0 → ∀ t, body u0 w1 = some t → Canonical t) (e : runCmd s p named body = .next t) :
    Canonical t := by
  unfold runCmd at e
  cases e
  have h1 := cmdTake_canon (p := p) h
  generalize cmdTake s p = y at h1 ⊢
  obtain ⟨s1, _ | x⟩ := y
  · exact h1
  · refine Canonical_ite (respond_canon h1) (Canonical_ite (respond_canon h1) (Canonical_ite (respond_canon h1) ?_))
    cases hb : body s1 x with
    | none => exact waitCmd_canon h
    | some t => exact hbody s1 x h1 t hb

theorem liveBody_canon {f : State → Cmd → ℕ → Option State} {s : State} {x} {t} (hf : ∀ u0 w1 w2, Canonical u0 → ∀ t,
  f u0 w1 w2 = some t → Canonical t) (h : Canonical s) (e : liveBody f s x = some t) :
    Canonical t := by
  unfold liveBody at e
  grind -lia -linarith -ring -ac -order [respond_canon, Canonical_mk, Canonical.wf_mem, Canonical.wf_durable]

theorem launchPush_canon {s : State} {x k} (h : Canonical s) :
    Canonical (launchPush s x k) :=
  h

theorem launchBody_canon {s : State} {x k} {t} (h : Canonical s) (e : launchBody s x k = some t) :
    Canonical t := by
  unfold launchBody at e
  grind -lia -linarith -ring -ac -order [lrRead_canon, respond_canon, launchPush_canon, Canonical_mk,
    Canonical.wf_mem, Canonical.wf_durable]

theorem execLaunchCommand_canon {s : State} {t} (h : Canonical s) (e : execLaunchCommand s = .next t) :
    Canonical t := by
  unfold execLaunchCommand at e
  grind -lia -linarith -ring -ac -order [runCmd_canon, launchBody_canon, liveBody_canon, Canonical_mk,
    Canonical.wf_mem, Canonical.wf_durable]

theorem ctxnewBody_canon {s : State} {x} {t} (h : Canonical s) (e : ctxnewBody s x = some t) :
    Canonical t := by
  unfold ctxnewBody at e
  dsimp only at e
  have h1 : ∀ a, Canonical (flushAsid s a) := fun a => flushAsid_canon h
  grind -lia -linarith -ring -ac -order [storeRange_canon, respond_canon, rebuildSvq_canon, memWriteN_wf,
    Canonical_mk, Canonical.wf_mem, Canonical.wf_durable, State.draw_canon]

theorem execCtxnew_canon {s : State} {t} (h : Canonical s) (e : execCtxnew s = .next t) :
    Canonical t := by
  unfold execCtxnew at e
  grind -lia -linarith -ring -ac -order [runCmd_canon, ctxnewBody_canon, Canonical_mk, Canonical.wf_mem,
    Canonical.wf_durable]

theorem killRecord_canon {s : State} {g t} (h : Canonical s) :
    Canonical (killRecord s g t) := by
  unfold killRecord
  refine Canonical_ite h ?_
  dsimp only
  generalize exitRecord s _ = bs
  have h1 := storeRange_canon (q := rqDevice s (t.cores.getD 0 0 / 256) g.slot) (va := g.lr.exitrec.toNat + 64 * t.index) (bs := bs) h
  generalize storeRange s _ _ _ = y at h1
  obtain ⟨s1, a⟩ := y
  cases a with
  | done => exact h1
  | poison => exact svcErr_canon h1
  | _ => exact parkAcc_canon (Canonical_ite (keepSaid_canon h) h1)

theorem killTeam_canon {s : State} {id} (h : Canonical s) :
    Canonical (killTeam s id) := by
  unfold killTeam
  grind -lia -linarith -ring -ac -order [teamEnd_canon, modTeam_canon, transit_canon, killRecord_canon, Canonical_mk,
    Canonical.wf_mem, Canonical.wf_durable]

theorem killGrid_canon {s : State} {id} (h : Canonical s) :
    Canonical (killGrid s id) := by
  unfold killGrid
  split
  · exact h
  · exact Canonical_ite h (Canonical_foldl (fun _ _ h => killRecord_canon h) _ h)

theorem dropLaunches_canon {s : State} {slot} (h : Canonical s) :
    Canonical (dropLaunches s slot) := by
  unfold dropLaunches
  exact Canonical_foldl (fun _ _ h => respond_canon h) _ h

theorem dropContext_canon {s : State} {slot} (h : Canonical s) :
    Canonical (dropContext s slot) :=
  h

theorem dropAll_canon {s : State} {slot} {teams grids : List Nat} (h : Canonical s) :
    Canonical (dropContext (grids.foldl killGrid (teams.foldl killTeam (dropLaunches s slot))) slot) :=
  dropContext_canon (Canonical_foldl (fun _ _ h => killGrid_canon h) grids
    (Canonical_foldl (fun _ _ h => killTeam_canon h) teams (dropLaunches_canon h)))

theorem ctxClose_canon {s : State} {slot c} (h : Canonical s) : Canonical (ctxClose s slot c) := by
  unfold ctxClose
  extract_lets asid s1 grids placed unplaced s2 s3 s4 s5
  have h5 : Canonical s5 := dropAll_canon (wcDrain_canon h)
  exact rebuildSvq_canon ⟨memWriteN_wf h5.1, h5.2⟩

theorem closeGrids_canon {s : State} {slot} (h : Canonical s) :
    Canonical (closeGrids s slot) := by
  unfold closeGrids
  exact Canonical_foldl (fun _ _ h => gridEnd_canon h) _ h

theorem closeTest_canon {s : State} {x} (h : Canonical s) :
    Canonical (closeTest s x) := by
  unfold closeTest
  have h1 := closeGrids_canon (slot := x.1) h
  refine Canonical_ite h (Canonical_ite h1 ?_)
  dsimp only
  split
  · exact respond_canon ⟨memWriteN_wf h1.1, h1.2⟩
  · exact ⟨memWriteN_wf h1.1, h1.2⟩

theorem settleClosing_canon {s : State} (h : Canonical s) :
    Canonical (settleClosing s) := by
  unfold settleClosing
  exact Canonical_foldl (fun _ _ h => closeTest_canon h) _ h

theorem execCtxfree_canon {s : State} {t} (h : Canonical s) (e : execCtxfree s = .next t) :
    Canonical t := by
  unfold execCtxfree at e
  grind -lia -linarith -ring -ac -order [runCmd_canon, liveBody_canon, ctxClose_canon, Canonical_mk, Canonical.wf_mem,
    Canonical.wf_durable]

theorem execVfFunctionLevelReset_canon {s : State} {t} (h : Canonical s) (e : execVfFunctionLevelReset s = .next t) :
    Canonical t := by
  unfold execVfFunctionLevelReset at e
  grind -lia -linarith -ring -ac -order [ctxClose_canon, Canonical_mk, Canonical.wf_mem, Canonical.wf_durable]

theorem ccbPut_canon {s : State} {slot off bs} (h : Canonical s) :
    Canonical (ccbPut s slot off bs) := Canonical_setMem h (memWriteN_wf h.1)

theorem cfgBody_canon {f : State → Cmd → ℕ → Option State} {z2 : State} {z3} {t} (hf : ∀ u0 w1 w2, Canonical u0 → ∀ t,
  f u0 w1 w2 = some t → Canonical t) (h : Canonical z2) (e : cfgBody f z2 z3 = some t) :
    Canonical t := by
  unfold cfgBody at e
  grind -lia -linarith -ring -ac -order [liveBody_canon, respond_canon, Canonical_mk, Canonical.wf_mem,
    Canonical.wf_durable]

theorem cfgQueues_canon {s : State} {x k} {t} (h : Canonical s) (e : cfgQueues s x k = some t) :
    Canonical t := by
  unfold cfgQueues at e
  grind -lia -linarith -ring -ac -order [respond_canon, ccbPut_canon, rebuildSvq_canon, Canonical_mk,
    Canonical.wf_mem, Canonical.wf_durable]

theorem execCtxcfgQueues_canon {s : State} {t} (h : Canonical s) (e : execCtxcfgQueues s = .next t) :
    Canonical t := by
  unfold execCtxcfgQueues at e
  grind -lia -linarith -ring -ac -order [runCmd_canon, cfgQueues_canon, cfgBody_canon, Canonical_mk, Canonical.wf_mem,
    Canonical.wf_durable]

theorem cfgPeers_canon {s : State} {x k} {t} (h : Canonical s) (e : cfgPeers s x k = some t) :
    Canonical t := by
  unfold cfgPeers at e
  grind -lia -linarith -ring -ac -order [respond_canon, ccbPut_canon, Canonical_mk, Canonical.wf_mem,
    Canonical.wf_durable]

theorem execCtxcfgPeers_canon {s : State} {t} (h : Canonical s) (e : execCtxcfgPeers s = .next t) :
    Canonical t := by
  unfold execCtxcfgPeers at e
  grind -lia -linarith -ring -ac -order [runCmd_canon, cfgPeers_canon, cfgBody_canon, Canonical_mk, Canonical.wf_mem,
    Canonical.wf_durable]

theorem cfgSvqmap_canon {s : State} {x k} {t} (h : Canonical s) (e : cfgSvqmap s x k = some t) :
    Canonical t := by
  unfold cfgSvqmap at e
  grind -lia -linarith -ring -ac -order [respond_canon, ccbPut_canon, rebuildSvq_canon, Canonical_mk,
    Canonical.wf_mem, Canonical.wf_durable]

theorem execCtxcfgSvqmap_canon {s : State} {t} (h : Canonical s) (e : execCtxcfgSvqmap s = .next t) :
    Canonical t := by
  unfold execCtxcfgSvqmap at e
  grind -lia -linarith -ring -ac -order [runCmd_canon, cfgSvqmap_canon, cfgBody_canon, Canonical_mk, Canonical.wf_mem,
    Canonical.wf_durable]

theorem placeBody_canon {s : State} {x} {t} (h : Canonical s) (e : placeBody s x = some t) :
    Canonical t := by
  unfold placeBody at e
  extract_lets k fl ctx at e
  have h1 := loadRange_canon (q := rqDevice s 0 ctx) (acc := accLoad) (va := fieldOf x.e 16 8) (n := 256) h
  generalize loadRange s (rqDevice s 0 ctx) accLoad (fieldOf x.e 16 8) 256 = y at e h1
  clear_value k fl ctx
  obtain ⟨s1, a, bs⟩ := y
  replace h1 : Canonical s1 := h1
  split at e
  · cases e
    exact respond_canon h
  · split at e
    · cases e
      exact respond_canon h
    · cases a <;> dsimp -zeta only at e
      case held => cases e
      case done =>
        extract_lets cores others meets clash p same at e
        clear_value clash same
        split at e
        · cases e
          exact respond_canon h1
        · split at e <;> cases e
          · exact respond_canon h1
          · exact respond_canon (Canonical_of_eq h1 rfl rfl)
      all_goals
        cases e
        exact respond_canon h1

theorem execPlace_canon {s : State} {t} (h : Canonical s) (e : execPlace s = .next t) :
    Canonical t := by
  unfold execPlace at e
  grind -lia -linarith -ring -ac -order [runCmd_canon, placeBody_canon, Canonical_mk, Canonical.wf_mem,
    Canonical.wf_durable]

theorem execPwrlimit_canon {s : State} {t} (h : Canonical s) (e : execPwrlimit s = .next t) :
    Canonical t := by
  unfold execPwrlimit at e
  grind -lia -linarith -ring -ac -order [runCmd_canon, respond_canon, Canonical_mk, Canonical.wf_mem,
    Canonical.wf_durable]

theorem execHeatscan_canon {s : State} {t} (h : Canonical s) (e : execHeatscan s = .next t) :
    Canonical t := by
  unfold execHeatscan at e
  grind -lia -linarith -ring -ac -order [runCmd_canon, respond_canon, Canonical_mk, Canonical.wf_mem,
    Canonical.wf_durable]

theorem execAttest_canon {s : State} {t} (h : Canonical s) (e : execAttest s = .next t) :
    Canonical t := by
  unfold execAttest at e
  grind -lia -linarith -ring -ac -order [runCmd_canon, liveBody_canon, reportWrite_canon, respond_canon, Canonical_mk,
    Canonical.wf_mem, Canonical.wf_durable]

theorem execRecord_canon {s : State} {t} (h : Canonical s) (e : execRecord s = .next t) :
    Canonical t := by
  unfold execRecord at e
  grind -lia -linarith -ring -ac -order [runCmd_canon, liveBody_canon, respond_canon, ccbPut_canon, Canonical_mk,
    Canonical.wf_mem, Canonical.wf_durable]

theorem recoverStart_canon {s : State} {why} (h : Canonical s) :
    Canonical (recoverStart s why) := by
  unfold recoverStart
  grind -lia -linarith -ring -ac -order [deviceReset_canon, Canonical_mk, Canonical.wf_mem, Canonical.wf_durable]

theorem execSvpWatchdogExpiry_canon {s : State} {t} (h : Canonical s) (e : execSvpWatchdogExpiry s = .next t) :
    Canonical t := by
  unfold execSvpWatchdogExpiry at e
  grind -lia -linarith -ring -ac -order [recoverStart_canon, Canonical_mk, Canonical.wf_mem, Canonical.wf_durable]

theorem execSvpStateError_canon {s : State} {t} (h : Canonical s) (e : execSvpStateError s = .next t) :
    Canonical t := by
  unfold execSvpStateError at e
  grind -lia -linarith -ring -ac -order [recoverStart_canon, Canonical_mk, Canonical.wf_mem, Canonical.wf_durable]

theorem execRcvLockstepMismatch_canon {s : State} {t} (h : Canonical s) (e : execRcvLockstepMismatch s = .next t) :
    Canonical t := by
  unfold execRcvLockstepMismatch at e
  grind -lia -linarith -ring -ac -order [deviceReset_canon, Canonical_mk, Canonical.wf_mem, Canonical.wf_durable]

theorem relaunch_canon {s : State} {c} (h : Canonical s) :
    Canonical (relaunch s c) := by
  unfold relaunch
  dsimp only
  generalize hb : liveBody launchBody s _ = o
  cases o with
  | none => exact launchPush_canon h
  | some t => exact liveBody_canon (fun _ _ _ h _ e => launchBody_canon h e) h hb

theorem freeHeld_canon {s : State} (h : Canonical s) :
    Canonical (freeHeld s) :=
  h

theorem putHeld_canon {s0 : State} {s : State} (h : Canonical s0) (h1 : Canonical s) :
    Canonical (putHeld s0 s) := by
  unfold putHeld
  grind -lia -linarith -ring -ac -order [Canonical_mk, Canonical.wf_mem, Canonical.wf_durable]

theorem resetQueue_canon {s : State} {t asid va q c slot m bs} (h : Canonical s) :
    Canonical (devicePush (svcErr (qWrite s.draw t asid va (qSet (qSet (qSet q 8 2 c) 10 2 c) 12 2 c)).draw) slot m
      bs) :=
  devicePush_canon (svcErr_canon (State.draw_canon (qWrite_canon (State.draw_canon h))))

theorem rcvCheck_canon {s : State} {slot n} (h : Canonical s) : Canonical (rcvCheck s slot n) := by
  unfold rcvCheck
  have h1 := qOpen_canon (die := 0) (slot := slot) (asid := ctxAsid s slot) (va := qcbVa s slot n) (acc := accStore)
    (agent := .none) (freeHeld_canon h)
  extract_lets asid va
  generalize qOpen (freeHeld s) 0 slot asid va accStore = y at h1 ⊢
  obtain ⟨s1, a⟩ := y
  cases a with
  | ok t =>
    have h2 := qRead_canon (t := t) (asid := asid) (va := va) (putHeld_canon (s0 := s) h h1)
    dsimp -zeta only
    generalize qRead (putHeld s s1) t asid va = z at h2 ⊢
    obtain ⟨s2, q⟩ := z
    dsimp -zeta only
    split
    · extract_lets c s3 tag s4
      have h4 : Canonical s4 := resetQueue_canon h2
      clear_value s4
      split
      · exact Canonical_foldl (fun _ _ h => relaunch_canon h) _ (Canonical_of_eq h4 rfl rfl)
      · exact h4
    · exact h
  | _ => exact h

theorem execRecovery_canon {s : State} {t} (h : Canonical s) (e : execRecovery s = .next t) :
    Canonical t := by
  unfold execRecovery at e
  cases e
  dsimp only
  refine Canonical_ite h ?_
  apply rebuildSvq_canon
  have hi : ∀ (k : Nat) (l : List Nat) (s : State), Canonical s → Canonical (l.foldl (fun s n => rcvCheck s k n) s) :=
    fun k l s h => Canonical_foldl (fun _ _ h => rcvCheck_canon h) l h
  generalize (List.range 64).filter _ = l
  have ho : Canonical (l.foldl (fun s k => (rcvQueues s k).foldl (fun s n => rcvCheck s k n) s) s) :=
    Canonical_foldl (fun s k h => hi k (rcvQueues s k) s h) l h
  exact Canonical_of_eq ho rfl rfl

theorem execRecoveryRestart_canon {s : State} {t} (h : Canonical s) (e : execRecoveryRestart s = .next t) :
    Canonical t := by
  unfold execRecoveryRestart at e
  grind -lia -linarith -ring -ac -order [mgmtFlush_canon, Canonical_mk, Canonical.wf_mem, Canonical.wf_durable]

/-! ### SpineFloat -/

theorem spOut_canon {s : State} {t d f r} (h : Canonical s) :
    Canonical (spOut s t d f r) :=
  h

theorem spineF_canon {s : State} {p b a d op} {t} (h : Canonical s) (e : spineF p b a d s op = .next t) :
    Canonical t := by
  unfold spineF at e
  grind -lia -linarith -ring -ac -order [spineEnter_canon, spOut_canon, Canonical_mk, Canonical.wf_mem,
    Canonical.wf_durable]

theorem execSpineFadd_canon {s : State} {p b a d} {t} (h : Canonical s) (e : execSpineFadd p b a d s = .next t) :
    Canonical t := by
  unfold execSpineFadd at e
  grind -lia -linarith -ring -ac -order [spineF_canon, Canonical_mk, Canonical.wf_mem, Canonical.wf_durable]

theorem execSpineFsub_canon {s : State} {p b a d} {t} (h : Canonical s) (e : execSpineFsub p b a d s = .next t) :
    Canonical t := by
  unfold execSpineFsub at e
  grind -lia -linarith -ring -ac -order [spineF_canon, Canonical_mk, Canonical.wf_mem, Canonical.wf_durable]

theorem execSpineFmul_canon {s : State} {p b a d} {t} (h : Canonical s) (e : execSpineFmul p b a d s = .next t) :
    Canonical t := by
  unfold execSpineFmul at e
  grind -lia -linarith -ring -ac -order [spineF_canon, Canonical_mk, Canonical.wf_mem, Canonical.wf_durable]

theorem execSpineFdiv_canon {s : State} {p b a d} {t} (h : Canonical s) (e : execSpineFdiv p b a d s = .next t) :
    Canonical t := by
  unfold execSpineFdiv at e
  grind -lia -linarith -ring -ac -order [spineF_canon, Canonical_mk, Canonical.wf_mem, Canonical.wf_durable]

theorem execSpineFmin_canon {s : State} {p b a d} {t} (h : Canonical s) (e : execSpineFmin p b a d s = .next t) :
    Canonical t := by
  unfold execSpineFmin at e
  grind -lia -linarith -ring -ac -order [spineF_canon, Canonical_mk, Canonical.wf_mem, Canonical.wf_durable]

theorem execSpineFmax_canon {s : State} {p b a d} {t} (h : Canonical s) (e : execSpineFmax p b a d s = .next t) :
    Canonical t := by
  unfold execSpineFmax at e
  grind -lia -linarith -ring -ac -order [spineF_canon, Canonical_mk, Canonical.wf_mem, Canonical.wf_durable]

theorem execSpineFsqrt_canon {s : State} {p a d} {t} (h : Canonical s) (e : execSpineFsqrt p a d s = .next t) :
    Canonical t := by
  unfold execSpineFsqrt at e
  grind -lia -linarith -ring -ac -order [spineF_canon, Canonical_mk, Canonical.wf_mem, Canonical.wf_durable]

theorem spineFcmp_canon {s : State} {p b a d orders test} {t} (h : Canonical s) (e : spineFcmp p b a d s orders test =
  .next t) :
    Canonical t := by
  unfold spineFcmp at e
  grind -lia -linarith -ring -ac -order [modSpine_canon, spineEnter_canon, Canonical_mk, Canonical.wf_mem,
    Canonical.wf_durable]

theorem execSpineFeq_canon {s : State} {p b a d} {t} (h : Canonical s) (e : execSpineFeq p b a d s = .next t) :
    Canonical t := by
  unfold execSpineFeq at e
  grind -lia -linarith -ring -ac -order [spineFcmp_canon, Canonical_mk, Canonical.wf_mem, Canonical.wf_durable]

theorem execSpineFlt_canon {s : State} {p b a d} {t} (h : Canonical s) (e : execSpineFlt p b a d s = .next t) :
    Canonical t := by
  unfold execSpineFlt at e
  grind -lia -linarith -ring -ac -order [spineFcmp_canon, Canonical_mk, Canonical.wf_mem, Canonical.wf_durable]

theorem execSpineFle_canon {s : State} {p b a d} {t} (h : Canonical s) (e : execSpineFle p b a d s = .next t) :
    Canonical t := by
  unfold execSpineFle at e
  grind -lia -linarith -ring -ac -order [spineFcmp_canon, Canonical_mk, Canonical.wf_mem, Canonical.wf_durable]

theorem spToInt_canon {s : State} {t sp d a f signed w} (h : Canonical s) :
    Canonical (spToInt s t sp d a f signed w) :=
  h

theorem spConv_canon {s : State} {t sp d a src dst} (h : Canonical s) :
    Canonical (spConv s t sp d a src dst) :=
  h

theorem execSpineFcvt_canon {s : State} {c a d} {t} (h : Canonical s) (e : execSpineFcvt c a d s = .next t) :
    Canonical t := by
  refine spineEnter_canon (fun t sp => ?_) e
  dsimp only
  split
  case h_21 => exact spineIllop_canon h
  all_goals exact h

theorem spineFma_canon {s : State} {p negP negC c b a d} {t} (h : Canonical s) (e : spineFma p negP negC c b a d s =
  .next t) :
    Canonical t := by
  unfold spineFma at e
  grind -lia -linarith -ring -ac -order [spineEnter_canon, spOut_canon, Canonical_mk, Canonical.wf_mem,
    Canonical.wf_durable]

theorem execSpineFfma_canon {s : State} {c b a d} {t} (h : Canonical s) (e : execSpineFfma c b a d s = .next t) :
    Canonical t := by
  unfold execSpineFfma at e
  grind -lia -linarith -ring -ac -order [spineFma_canon, Canonical_mk, Canonical.wf_mem, Canonical.wf_durable]

theorem execSpineFfmaS_canon {s : State} {c b a d} {t} (h : Canonical s) (e : execSpineFfmaS c b a d s = .next t) :
    Canonical t := by
  unfold execSpineFfmaS at e
  grind -lia -linarith -ring -ac -order [spineFma_canon, Canonical_mk, Canonical.wf_mem, Canonical.wf_durable]

theorem execSpineFfms_canon {s : State} {c b a d} {t} (h : Canonical s) (e : execSpineFfms c b a d s = .next t) :
    Canonical t := by
  unfold execSpineFfms at e
  grind -lia -linarith -ring -ac -order [spineFma_canon, Canonical_mk, Canonical.wf_mem, Canonical.wf_durable]

theorem execSpineFfmsS_canon {s : State} {c b a d} {t} (h : Canonical s) (e : execSpineFfmsS c b a d s = .next t) :
    Canonical t := by
  unfold execSpineFfmsS at e
  grind -lia -linarith -ring -ac -order [spineFma_canon, Canonical_mk, Canonical.wf_mem, Canonical.wf_durable]

theorem execSpineFnfma_canon {s : State} {c b a d} {t} (h : Canonical s) (e : execSpineFnfma c b a d s = .next t) :
    Canonical t := by
  unfold execSpineFnfma at e
  grind -lia -linarith -ring -ac -order [spineFma_canon, Canonical_mk, Canonical.wf_mem, Canonical.wf_durable]

theorem execSpineFnfmaS_canon {s : State} {c b a d} {t} (h : Canonical s) (e : execSpineFnfmaS c b a d s = .next t) :
    Canonical t := by
  unfold execSpineFnfmaS at e
  grind -lia -linarith -ring -ac -order [spineFma_canon, Canonical_mk, Canonical.wf_mem, Canonical.wf_durable]

theorem execSpineFnfms_canon {s : State} {c b a d} {t} (h : Canonical s) (e : execSpineFnfms c b a d s = .next t) :
    Canonical t := by
  unfold execSpineFnfms at e
  grind -lia -linarith -ring -ac -order [spineFma_canon, Canonical_mk, Canonical.wf_mem, Canonical.wf_durable]

theorem execSpineFnfmsS_canon {s : State} {c b a d} {t} (h : Canonical s) (e : execSpineFnfmsS c b a d s = .next t) :
    Canonical t := by
  unfold execSpineFnfmsS at e
  grind -lia -linarith -ring -ac -order [spineFma_canon, Canonical_mk, Canonical.wf_mem, Canonical.wf_durable]

/-! ### SpineInt -/

theorem spineBin_canon {s : State} {op w b a d} {t} (h : Canonical s) (e : spineBin op w b a d s = .next t) :
    Canonical t := by
  unfold spineBin at e
  grind -lia -linarith -ring -ac -order [spineSet_canon, spineEnter_canon, Canonical_mk, Canonical.wf_mem,
    Canonical.wf_durable]

theorem spineUnary_canon {s : State} {op w a d} {t} (h : Canonical s) (e : spineUnary op w a d s = .next t) :
    Canonical t := by
  unfold spineUnary at e
  grind -lia -linarith -ring -ac -order [spineSet_canon, spineEnter_canon, Canonical_mk, Canonical.wf_mem,
    Canonical.wf_durable]

theorem spineImm_canon {s : State} {op i a d} {t} (h : Canonical s) (e : spineImm op i a d s = .next t) :
    Canonical t := by
  unfold spineImm at e
  grind -lia -linarith -ring -ac -order [spineSet_canon, spineEnter_canon, Canonical_mk, Canonical.wf_mem,
    Canonical.wf_durable]

theorem spineShi_canon {s : State} {op n a d} {t} (h : Canonical s) (e : spineShi op n a d s = .next t) :
    Canonical t := by
  unfold spineShi at e
  grind -lia -linarith -ring -ac -order [spineSet_canon, spineEnter_canon, Canonical_mk, Canonical.wf_mem,
    Canonical.wf_durable]

theorem execSpineAdd_canon {s : State} {w b a d} {t} (h : Canonical s) (e : execSpineAdd w b a d s = .next t) :
    Canonical t := by
  unfold execSpineAdd at e
  grind -lia -linarith -ring -ac -order [spineBin_canon, Canonical_mk, Canonical.wf_mem, Canonical.wf_durable]

theorem execSpineSub_canon {s : State} {w b a d} {t} (h : Canonical s) (e : execSpineSub w b a d s = .next t) :
    Canonical t := by
  unfold execSpineSub at e
  grind -lia -linarith -ring -ac -order [spineBin_canon, Canonical_mk, Canonical.wf_mem, Canonical.wf_durable]

theorem execSpineAnd_canon {s : State} {w b a d} {t} (h : Canonical s) (e : execSpineAnd w b a d s = .next t) :
    Canonical t := by
  unfold execSpineAnd at e
  grind -lia -linarith -ring -ac -order [spineBin_canon, Canonical_mk, Canonical.wf_mem, Canonical.wf_durable]

theorem execSpineOr_canon {s : State} {w b a d} {t} (h : Canonical s) (e : execSpineOr w b a d s = .next t) :
    Canonical t := by
  unfold execSpineOr at e
  grind -lia -linarith -ring -ac -order [spineBin_canon, Canonical_mk, Canonical.wf_mem, Canonical.wf_durable]

theorem execSpineXor_canon {s : State} {w b a d} {t} (h : Canonical s) (e : execSpineXor w b a d s = .next t) :
    Canonical t := by
  unfold execSpineXor at e
  grind -lia -linarith -ring -ac -order [spineBin_canon, Canonical_mk, Canonical.wf_mem, Canonical.wf_durable]

theorem execSpineAndn_canon {s : State} {w b a d} {t} (h : Canonical s) (e : execSpineAndn w b a d s = .next t) :
    Canonical t := by
  unfold execSpineAndn at e
  grind -lia -linarith -ring -ac -order [spineBin_canon, Canonical_mk, Canonical.wf_mem, Canonical.wf_durable]

theorem execSpineShl_canon {s : State} {w b a d} {t} (h : Canonical s) (e : execSpineShl w b a d s = .next t) :
    Canonical t := by
  unfold execSpineShl at e
  grind -lia -linarith -ring -ac -order [spineBin_canon, Canonical_mk, Canonical.wf_mem, Canonical.wf_durable]

theorem execSpineShr_canon {s : State} {w b a d} {t} (h : Canonical s) (e : execSpineShr w b a d s = .next t) :
    Canonical t := by
  unfold execSpineShr at e
  grind -lia -linarith -ring -ac -order [spineBin_canon, Canonical_mk, Canonical.wf_mem, Canonical.wf_durable]

theorem execSpineSar_canon {s : State} {w b a d} {t} (h : Canonical s) (e : execSpineSar w b a d s = .next t) :
    Canonical t := by
  unfold execSpineSar at e
  grind -lia -linarith -ring -ac -order [spineBin_canon, Canonical_mk, Canonical.wf_mem, Canonical.wf_durable]

theorem execSpineMul_canon {s : State} {w b a d} {t} (h : Canonical s) (e : execSpineMul w b a d s = .next t) :
    Canonical t := by
  unfold execSpineMul at e
  grind -lia -linarith -ring -ac -order [spineBin_canon, Canonical_mk, Canonical.wf_mem, Canonical.wf_durable]

theorem execSpineMulh_canon {s : State} {w b a d} {t} (h : Canonical s) (e : execSpineMulh w b a d s = .next t) :
    Canonical t := by
  unfold execSpineMulh at e
  grind -lia -linarith -ring -ac -order [spineBin_canon, Canonical_mk, Canonical.wf_mem, Canonical.wf_durable]

theorem execSpineMulhn_canon {s : State} {w b a d} {t} (h : Canonical s) (e : execSpineMulhn w b a d s = .next t) :
    Canonical t := by
  unfold execSpineMulhn at e
  grind -lia -linarith -ring -ac -order [spineBin_canon, Canonical_mk, Canonical.wf_mem, Canonical.wf_durable]

theorem execSpineDiv_canon {s : State} {w b a d} {t} (h : Canonical s) (e : execSpineDiv w b a d s = .next t) :
    Canonical t := by
  unfold execSpineDiv at e
  grind -lia -linarith -ring -ac -order [spineBin_canon, Canonical_mk, Canonical.wf_mem, Canonical.wf_durable]

theorem execSpineDivn_canon {s : State} {w b a d} {t} (h : Canonical s) (e : execSpineDivn w b a d s = .next t) :
    Canonical t := by
  unfold execSpineDivn at e
  grind -lia -linarith -ring -ac -order [spineBin_canon, Canonical_mk, Canonical.wf_mem, Canonical.wf_durable]

theorem execSpineRem_canon {s : State} {w b a d} {t} (h : Canonical s) (e : execSpineRem w b a d s = .next t) :
    Canonical t := by
  unfold execSpineRem at e
  grind -lia -linarith -ring -ac -order [spineBin_canon, Canonical_mk, Canonical.wf_mem, Canonical.wf_durable]

theorem execSpineRemn_canon {s : State} {w b a d} {t} (h : Canonical s) (e : execSpineRemn w b a d s = .next t) :
    Canonical t := by
  unfold execSpineRemn at e
  grind -lia -linarith -ring -ac -order [spineBin_canon, Canonical_mk, Canonical.wf_mem, Canonical.wf_durable]

theorem execSpineMin_canon {s : State} {w b a d} {t} (h : Canonical s) (e : execSpineMin w b a d s = .next t) :
    Canonical t := by
  unfold execSpineMin at e
  grind -lia -linarith -ring -ac -order [spineBin_canon, Canonical_mk, Canonical.wf_mem, Canonical.wf_durable]

theorem execSpineMax_canon {s : State} {w b a d} {t} (h : Canonical s) (e : execSpineMax w b a d s = .next t) :
    Canonical t := by
  unfold execSpineMax at e
  grind -lia -linarith -ring -ac -order [spineBin_canon, Canonical_mk, Canonical.wf_mem, Canonical.wf_durable]

theorem execSpineMinn_canon {s : State} {w b a d} {t} (h : Canonical s) (e : execSpineMinn w b a d s = .next t) :
    Canonical t := by
  unfold execSpineMinn at e
  grind -lia -linarith -ring -ac -order [spineBin_canon, Canonical_mk, Canonical.wf_mem, Canonical.wf_durable]

theorem execSpineMaxn_canon {s : State} {w b a d} {t} (h : Canonical s) (e : execSpineMaxn w b a d s = .next t) :
    Canonical t := by
  unfold execSpineMaxn at e
  grind -lia -linarith -ring -ac -order [spineBin_canon, Canonical_mk, Canonical.wf_mem, Canonical.wf_durable]

theorem execSpineSlt_canon {s : State} {w b a d} {t} (h : Canonical s) (e : execSpineSlt w b a d s = .next t) :
    Canonical t := by
  unfold execSpineSlt at e
  grind -lia -linarith -ring -ac -order [spineBin_canon, Canonical_mk, Canonical.wf_mem, Canonical.wf_durable]

theorem execSpineSltn_canon {s : State} {w b a d} {t} (h : Canonical s) (e : execSpineSltn w b a d s = .next t) :
    Canonical t := by
  unfold execSpineSltn at e
  grind -lia -linarith -ring -ac -order [spineBin_canon, Canonical_mk, Canonical.wf_mem, Canonical.wf_durable]

theorem execSpineClz_canon {s : State} {w a d} {t} (h : Canonical s) (e : execSpineClz w a d s = .next t) :
    Canonical t := by
  unfold execSpineClz at e
  grind -lia -linarith -ring -ac -order [spineUnary_canon, Canonical_mk, Canonical.wf_mem, Canonical.wf_durable]

theorem execSpineCtz_canon {s : State} {w a d} {t} (h : Canonical s) (e : execSpineCtz w a d s = .next t) :
    Canonical t := by
  unfold execSpineCtz at e
  grind -lia -linarith -ring -ac -order [spineUnary_canon, Canonical_mk, Canonical.wf_mem, Canonical.wf_durable]

theorem execSpinePopc_canon {s : State} {w a d} {t} (h : Canonical s) (e : execSpinePopc w a d s = .next t) :
    Canonical t := by
  unfold execSpinePopc at e
  grind -lia -linarith -ring -ac -order [spineUnary_canon, Canonical_mk, Canonical.wf_mem, Canonical.wf_durable]

theorem execSpineBrev_canon {s : State} {w a d} {t} (h : Canonical s) (e : execSpineBrev w a d s = .next t) :
    Canonical t := by
  unfold execSpineBrev at e
  grind -lia -linarith -ring -ac -order [spineUnary_canon, Canonical_mk, Canonical.wf_mem, Canonical.wf_durable]

theorem execAddi_canon {s : State} {i a d} {t} (h : Canonical s) (e : execAddi i a d s = .next t) :
    Canonical t := by
  unfold execAddi at e
  grind -lia -linarith -ring -ac -order [spineImm_canon, Canonical_mk, Canonical.wf_mem, Canonical.wf_durable]

theorem execAndi_canon {s : State} {i a d} {t} (h : Canonical s) (e : execAndi i a d s = .next t) :
    Canonical t := by
  unfold execAndi at e
  grind -lia -linarith -ring -ac -order [spineImm_canon, Canonical_mk, Canonical.wf_mem, Canonical.wf_durable]

theorem execOri_canon {s : State} {i a d} {t} (h : Canonical s) (e : execOri i a d s = .next t) :
    Canonical t := by
  unfold execOri at e
  grind -lia -linarith -ring -ac -order [spineImm_canon, Canonical_mk, Canonical.wf_mem, Canonical.wf_durable]

theorem execXori_canon {s : State} {i a d} {t} (h : Canonical s) (e : execXori i a d s = .next t) :
    Canonical t := by
  unfold execXori at e
  grind -lia -linarith -ring -ac -order [spineImm_canon, Canonical_mk, Canonical.wf_mem, Canonical.wf_durable]

theorem execSlti_canon {s : State} {i a d} {t} (h : Canonical s) (e : execSlti i a d s = .next t) :
    Canonical t := by
  unfold execSlti at e
  grind -lia -linarith -ring -ac -order [spineImm_canon, Canonical_mk, Canonical.wf_mem, Canonical.wf_durable]

theorem execSltni_canon {s : State} {i a d} {t} (h : Canonical s) (e : execSltni i a d s = .next t) :
    Canonical t := by
  unfold execSltni at e
  grind -lia -linarith -ring -ac -order [spineImm_canon, Canonical_mk, Canonical.wf_mem, Canonical.wf_durable]

theorem execShli_canon {s : State} {n a d} {t} (h : Canonical s) (e : execShli n a d s = .next t) :
    Canonical t := by
  unfold execShli at e
  grind -lia -linarith -ring -ac -order [spineShi_canon, Canonical_mk, Canonical.wf_mem, Canonical.wf_durable]

theorem execShri_canon {s : State} {n a d} {t} (h : Canonical s) (e : execShri n a d s = .next t) :
    Canonical t := by
  unfold execShri at e
  grind -lia -linarith -ring -ac -order [spineShi_canon, Canonical_mk, Canonical.wf_mem, Canonical.wf_durable]

theorem execSari_canon {s : State} {n a d} {t} (h : Canonical s) (e : execSari n a d s = .next t) :
    Canonical t := by
  unfold execSari at e
  grind -lia -linarith -ring -ac -order [spineShi_canon, Canonical_mk, Canonical.wf_mem, Canonical.wf_durable]

theorem execMovu_canon {s : State} {i d} {t} (h : Canonical s) (e : execMovu i d s = .next t) :
    Canonical t := by
  unfold execMovu at e
  grind -lia -linarith -ring -ac -order [spineSet_canon, spineEnter_canon, Canonical_mk, Canonical.wf_mem,
    Canonical.wf_durable]

theorem execAddpc_canon {s : State} {i d} {t} (h : Canonical s) (e : execAddpc i d s = .next t) :
    Canonical t := by
  unfold execAddpc at e
  grind -lia -linarith -ring -ac -order [spineSet_canon, spineEnter_canon, Canonical_mk, Canonical.wf_mem,
    Canonical.wf_durable]

theorem spineBranch_canon {s : State} {c want i b a} {t} (h : Canonical s) (e : spineBranch c want i b a s = .next t)
  :
    Canonical t := by
  unfold spineBranch at e
  grind -lia -linarith -ring -ac -order [modSpine_canon, spineEnter_canon, Canonical_mk, Canonical.wf_mem,
    Canonical.wf_durable]

theorem execBeq_canon {s : State} {i b a} {t} (h : Canonical s) (e : execBeq i b a s = .next t) :
    Canonical t := by
  unfold execBeq at e
  grind -lia -linarith -ring -ac -order [spineBranch_canon, Canonical_mk, Canonical.wf_mem, Canonical.wf_durable]

theorem execBne_canon {s : State} {i b a} {t} (h : Canonical s) (e : execBne i b a s = .next t) :
    Canonical t := by
  unfold execBne at e
  grind -lia -linarith -ring -ac -order [spineBranch_canon, Canonical_mk, Canonical.wf_mem, Canonical.wf_durable]

theorem execBlt_canon {s : State} {i b a} {t} (h : Canonical s) (e : execBlt i b a s = .next t) :
    Canonical t := by
  unfold execBlt at e
  grind -lia -linarith -ring -ac -order [spineBranch_canon, Canonical_mk, Canonical.wf_mem, Canonical.wf_durable]

theorem execBge_canon {s : State} {i b a} {t} (h : Canonical s) (e : execBge i b a s = .next t) :
    Canonical t := by
  unfold execBge at e
  grind -lia -linarith -ring -ac -order [spineBranch_canon, Canonical_mk, Canonical.wf_mem, Canonical.wf_durable]

theorem execBltn_canon {s : State} {i b a} {t} (h : Canonical s) (e : execBltn i b a s = .next t) :
    Canonical t := by
  unfold execBltn at e
  grind -lia -linarith -ring -ac -order [spineBranch_canon, Canonical_mk, Canonical.wf_mem, Canonical.wf_durable]

theorem execBgen_canon {s : State} {i b a} {t} (h : Canonical s) (e : execBgen i b a s = .next t) :
    Canonical t := by
  unfold execBgen at e
  grind -lia -linarith -ring -ac -order [spineBranch_canon, Canonical_mk, Canonical.wf_mem, Canonical.wf_durable]

theorem execJl_canon {s : State} {i d} {t} (h : Canonical s) (e : execJl i d s = .next t) :
    Canonical t := by
  unfold execJl at e
  grind -lia -linarith -ring -ac -order [modSpine_canon, spineEnter_canon, Canonical_mk, Canonical.wf_mem,
    Canonical.wf_durable]

theorem execJlr_canon {s : State} {i a d} {t} (h : Canonical s) (e : execJlr i a d s = .next t) :
    Canonical t := by
  unfold execJlr at e
  grind -lia -linarith -ring -ac -order [modSpine_canon, spineEnter_canon, spineTrap_canon, Canonical_mk,
    Canonical.wf_mem, Canonical.wf_durable]

end Sys2Proof.MemoryForm

/-! PROOFS. Canonical memory (02), part 7 of 7: the operations of SpineMem, SpineSys, Dispatch, Run, Step keep the canonical form. -/

namespace Sys2Proof.MemoryForm

open Sys2Proof Sys2Proof.Machine Sys2Proof.Safety

/-! ### SpineMem -/

theorem spAligned_canon {s : State} {k : State} {t va n} (h : Canonical s) (h1 : Canonical k) :
    Canonical (spAligned s t va n k) := by
  unfold spAligned
  grind -lia -linarith -ring -ac -order [spineTrap_canon, Canonical_mk, Canonical.wf_mem, Canonical.wf_durable]

theorem execSpineLd_canon {s : State} {i x z a d} {t} (h : Canonical s) (e : execSpineLd i x z a d s = .next t) :
    Canonical t := by
  unfold execSpineLd at e
  grind -lia -linarith -ring -ac -order [spineSet_canon, spineEnter_canon, spineRead_canon, spAligned_canon,
    Canonical_mk, Canonical.wf_mem, Canonical.wf_durable]

theorem execSpineSt_canon {s : State} {i z a r} {t} (h : Canonical s) (e : execSpineSt i z a r s = .next t) :
    Canonical t := by
  unfold execSpineSt at e
  grind -lia -linarith -ring -ac -order [modSpine_canon, spineEnter_canon, spAligned_canon, spineWrite_canon,
    Canonical_mk, Canonical.wf_mem, Canonical.wf_durable]

theorem spineAtomic_canon {s : State} {k : State → List Byte → State} {t sp order va n kind f} (h : Canonical s) (hk :
  ∀ u0 w1, Canonical u0 → Canonical (k u0 w1)) :
    Canonical (spineAtomic s t sp order va n kind f k) := by
  unfold spineAtomic
  refine Canonical_ite (spineTrap_canon h) (Canonical_ite (spineTrap_canon h) ?_)
  split
  · exact hk _ _ h
  · refine Canonical_ite (spineWait_canon h) ?_
    have hg : ∀ u, Canonical u → Canonical (match atomPiece u (rqSpine u sp) (atHome (teamOf u t) order.toNat)
      va.toNat n f with
        | (s', a, bs) => spineGot u s' t sp accAtomic kind va a bs fun s bs => k (escape s t) bs) := fun u hu =>
      spineGot_canon (fun s bs h => hk _ _ (escape_canon h)) hu (atomPiece_canon hu)
    split
    · exact spineRelease_canon hg h
    · exact hg s h

theorem spineAmo_canon {s : State} {op w o b a d} {t} (h : Canonical s) (e : spineAmo op w o b a d s = .next t) :
    Canonical t := by
  unfold spineAmo at e
  grind -lia -linarith -ring -ac -order [spineSet_canon, spineAtomic_canon, spineEnter_canon, Canonical_mk,
    Canonical.wf_mem, Canonical.wf_durable]

theorem execAmoSwap_canon {s : State} {w o b a d} {t} (h : Canonical s) (e : execAmoSwap w o b a d s = .next t) :
    Canonical t := by
  unfold execAmoSwap at e
  grind -lia -linarith -ring -ac -order [spineAmo_canon, Canonical_mk, Canonical.wf_mem, Canonical.wf_durable]

theorem execAmoAdd_canon {s : State} {w o b a d} {t} (h : Canonical s) (e : execAmoAdd w o b a d s = .next t) :
    Canonical t := by
  unfold execAmoAdd at e
  grind -lia -linarith -ring -ac -order [spineAmo_canon, Canonical_mk, Canonical.wf_mem, Canonical.wf_durable]

theorem execAmoAnd_canon {s : State} {w o b a d} {t} (h : Canonical s) (e : execAmoAnd w o b a d s = .next t) :
    Canonical t := by
  unfold execAmoAnd at e
  grind -lia -linarith -ring -ac -order [spineAmo_canon, Canonical_mk, Canonical.wf_mem, Canonical.wf_durable]

theorem execAmoOr_canon {s : State} {w o b a d} {t} (h : Canonical s) (e : execAmoOr w o b a d s = .next t) :
    Canonical t := by
  unfold execAmoOr at e
  grind -lia -linarith -ring -ac -order [spineAmo_canon, Canonical_mk, Canonical.wf_mem, Canonical.wf_durable]

theorem execAmoXor_canon {s : State} {w o b a d} {t} (h : Canonical s) (e : execAmoXor w o b a d s = .next t) :
    Canonical t := by
  unfold execAmoXor at e
  grind -lia -linarith -ring -ac -order [spineAmo_canon, Canonical_mk, Canonical.wf_mem, Canonical.wf_durable]

theorem execAmoMin_canon {s : State} {w o b a d} {t} (h : Canonical s) (e : execAmoMin w o b a d s = .next t) :
    Canonical t := by
  unfold execAmoMin at e
  grind -lia -linarith -ring -ac -order [spineAmo_canon, Canonical_mk, Canonical.wf_mem, Canonical.wf_durable]

theorem execAmoMax_canon {s : State} {w o b a d} {t} (h : Canonical s) (e : execAmoMax w o b a d s = .next t) :
    Canonical t := by
  unfold execAmoMax at e
  grind -lia -linarith -ring -ac -order [spineAmo_canon, Canonical_mk, Canonical.wf_mem, Canonical.wf_durable]

theorem execAmoMinn_canon {s : State} {w o b a d} {t} (h : Canonical s) (e : execAmoMinn w o b a d s = .next t) :
    Canonical t := by
  unfold execAmoMinn at e
  grind -lia -linarith -ring -ac -order [spineAmo_canon, Canonical_mk, Canonical.wf_mem, Canonical.wf_durable]

theorem execAmoMaxn_canon {s : State} {w o b a d} {t} (h : Canonical s) (e : execAmoMaxn w o b a d s = .next t) :
    Canonical t := by
  unfold execAmoMaxn at e
  grind -lia -linarith -ring -ac -order [spineAmo_canon, Canonical_mk, Canonical.wf_mem, Canonical.wf_durable]

theorem execSpineCas_canon {s : State} {w o b a d} {t} (h : Canonical s) (e : execSpineCas w o b a d s = .next t) :
    Canonical t := by
  unfold execSpineCas at e
  grind -lia -linarith -ring -ac -order [spineSet_canon, spineAtomic_canon, spineEnter_canon, Canonical_mk,
    Canonical.wf_mem, Canonical.wf_durable]

theorem execSpineCas2_canon {s : State} {o b a d} {t} (h : Canonical s) (e : execSpineCas2 o b a d s = .next t) :
    Canonical t := by
  unfold execSpineCas2 at e
  grind -lia -linarith -ring -ac -order [spineAtomic_canon, modSpine_canon, spineEnter_canon, Canonical_mk,
    Canonical.wf_mem, Canonical.wf_durable]

theorem execLda_canon {s : State} {w z2 a d} {t} (h : Canonical s) (e : execLda w z2 a d s = .next t) :
    Canonical t := by
  unfold execLda at e
  grind -lia -linarith -ring -ac -order [spineSet_canon, spineEnter_canon, spineRead_canon, spAligned_canon,
    Canonical_mk, Canonical.wf_mem, Canonical.wf_durable]

theorem execStl_canon {s : State} {w o b a} {t} (h : Canonical s) (e : execStl w o b a s = .next t) :
    Canonical t := by
  unfold execStl at e
  grind -lia -linarith -ring -ac -order [modSpine_canon, spineEnter_canon, spineRelease_canon, spAligned_canon,
    spineWrite_canon, Canonical_mk, Canonical.wf_mem, Canonical.wf_durable]

theorem execSpineFence_canon {s : State} {k z2} {t} (h : Canonical s) (e : execSpineFence k z2 s = .next t) :
    Canonical t := by
  unfold execSpineFence at e
  grind -lia -linarith -ring -ac -order [modSpine_canon, spineEnter_canon, spineRelease_canon, Canonical_mk,
    Canonical.wf_mem, Canonical.wf_durable]

theorem execSpinePfence_canon {s : State} {t} (h : Canonical s) (e : execSpinePfence s = .next t) :
    Canonical t := by
  unfold execSpinePfence at e
  grind -lia -linarith -ring -ac -order [modSpine_canon, spineEnter_canon, spineRelease_canon, flushPers_canon,
    Canonical_mk, Canonical.wf_mem, Canonical.wf_durable]

theorem execSpineLoc_canon {s : State} {a d} {t} (h : Canonical s) (e : execSpineLoc a d s = .next t) :
    Canonical t := by
  unfold execSpineLoc at e
  grind -lia -linarith -ring -ac -order [spineSet_canon, locQuery_canon, spineEnter_canon, spineWait_canon,
    Canonical_mk, Canonical.wf_mem, Canonical.wf_durable]

/-! ### SpineSys -/

theorem spineBank_canon {s : State} {k : State → Dword → State} {t sp n op} (h : Canonical s) (hk : ∀ u0 w1, Canonical
  u0 → Canonical (k u0 w1)) :
    Canonical (spineBank s t sp n op k) := by
  unfold spineBank
  grind -lia -linarith -ring -ac -order [escape_canon, modSpine_canon, hArrive_canon, Canonical_mk, Canonical.wf_mem,
    Canonical.wf_durable]

theorem spineBankRelease_canon {s : State} {k : State → Dword → State} {t sp n op} (h : Canonical s) (hk : ∀ u0 w1,
  Canonical u0 → Canonical (k u0 w1)) :
    Canonical (spineBankRelease s t sp n op k) := by
  unfold spineBankRelease
  grind -lia -linarith -ring -ac -order [spineBank_canon, spineRelease_canon, Canonical_mk, Canonical.wf_mem,
    Canonical.wf_durable]

theorem execSpineHput_canon {s : State} {i a d} {t} (h : Canonical s) (e : execSpineHput i a d s = .next t) :
    Canonical t := by
  unfold execSpineHput at e
  grind -lia -linarith -ring -ac -order [modSpine_canon, spineEnter_canon, spineBankRelease_canon, spineIllop_canon,
    Canonical_mk, Canonical.wf_mem, Canonical.wf_durable]

theorem execSpineHget_canon {s : State} {i d} {t} (h : Canonical s) (e : execSpineHget i d s = .next t) :
    Canonical t := by
  unfold execSpineHget at e
  grind -lia -linarith -ring -ac -order [spineSet_canon, spineBank_canon, spineEnter_canon, Canonical_mk,
    Canonical.wf_mem, Canonical.wf_durable]

theorem execHpeek_canon {s : State} {i d} {t} (h : Canonical s) (e : execHpeek i d s = .next t) :
    Canonical t := by
  unfold execHpeek at e
  grind -lia -linarith -ring -ac -order [spineSet_canon, hTurn_canon, spineEnter_canon, Canonical_mk,
    Canonical.wf_mem, Canonical.wf_durable]

theorem execSpineHacc_canon {s : State} {i a d} {t} (h : Canonical s) (e : execSpineHacc i a d s = .next t) :
    Canonical t := by
  unfold execSpineHacc at e
  grind -lia -linarith -ring -ac -order [modSpine_canon, spineEnter_canon, spineBankRelease_canon, spineIllop_canon,
    Canonical_mk, Canonical.wf_mem, Canonical.wf_durable]

theorem execHcfg_canon {s : State} {i a} {t} (h : Canonical s) (e : execHcfg i a s = .next t) :
    Canonical t := by
  unfold execHcfg at e
  grind -lia -linarith -ring -ac -order [escape_canon, modSpine_canon, hChanged_canon, hTurn_canon, spineEnter_canon,
    spineIllop_canon, Canonical_mk, Canonical.wf_mem, Canonical.wf_durable]

theorem execSpineCsrr_canon {s : State} {i d} {t} (h : Canonical s) (e : execSpineCsrr i d s = .next t) :
    Canonical t := by
  unfold execSpineCsrr at e
  grind -lia -linarith -ring -ac -order [spineSet_canon, spineEnter_canon, Canonical_mk, Canonical.wf_mem,
    Canonical.wf_durable]

theorem execSpineCsrw_canon {s : State} {i a} {t} (h : Canonical s) (e : execSpineCsrw i a s = .next t) :
    Canonical t := by
  unfold execSpineCsrw at e
  grind -lia -linarith -ring -ac -order [modSpine_canon, spineEnter_canon, Canonical_mk, Canonical.wf_mem,
    Canonical.wf_durable]

theorem execSpineExit_canon {s : State} {t} (h : Canonical s) (e : execSpineExit s = .next t) :
    Canonical t := by
  unfold execSpineExit at e
  grind -lia -linarith -ring -ac -order [modSpine_canon, spineEnter_canon, spineRelease_canon, exitTest_canon,
    Canonical_mk, Canonical.wf_mem, Canonical.wf_durable]

theorem execSpineBrk_canon {s : State} {z1} {t} (h : Canonical s) (e : execSpineBrk z1 s = .next t) :
    Canonical t := by
  unfold execSpineBrk at e
  grind -lia -linarith -ring -ac -order [spineEnter_canon, spineTrap_canon, Canonical_mk, Canonical.wf_mem,
    Canonical.wf_durable]

theorem execSpineNap_canon {s : State} {a} {t} (h : Canonical s) (e : execSpineNap a s = .next t) :
    Canonical t := by
  unfold execSpineNap at e
  grind -lia -linarith -ring -ac -order [modSpine_canon, spineEnter_canon, Canonical_mk, Canonical.wf_mem,
    Canonical.wf_durable]

theorem spineLogged_canon {s : State} {t sp kind live d} (h : Canonical s) :
    Canonical (spineLogged s t sp kind live d) := by
  unfold spineLogged
  grind -lia -linarith -ring -ac -order [spineSet_canon, logValue_canon, modSpine_canon, spineWait_canon,
    Canonical_mk, Canonical.wf_mem, Canonical.wf_durable]

theorem execSpineRdclk_canon {s : State} {d} {t} (h : Canonical s) (e : execSpineRdclk d s = .next t) :
    Canonical t := by
  unfold execSpineRdclk at e
  grind -lia -linarith -ring -ac -order [spineLogged_canon, spineEnter_canon, Canonical_mk, Canonical.wf_mem,
    Canonical.wf_durable]

theorem execSpineRand_canon {s : State} {d} {t} (h : Canonical s) (e : execSpineRand d s = .next t) :
    Canonical t := by
  unfold execSpineRand at e
  grind -lia -linarith -ring -ac -order [spineLogged_canon, spineEnter_canon, Canonical_mk, Canonical.wf_mem,
    Canonical.wf_durable]

theorem execSpineTiset_canon {s : State} {b a} {t} (h : Canonical s) (e : execSpineTiset b a s = .next t) :
    Canonical t := by
  unfold execSpineTiset at e
  grind -lia -linarith -ring -ac -order [escape_canon, modSpine_canon, spineEnter_canon, spineRead_canon,
    spineKept_canon, spineKeeps_canon, spineTrap_canon, spineIllop_canon, Canonical_mk, Canonical.wf_mem,
    Canonical.wf_durable]

/-! ### Dispatch -/

theorem exec_canon {s t : State} {i : Instr} (h : Canonical s) (e : exec i s = .next t) : Canonical t := by
  cases i with
  | add _ => exact execAdd_canon h e
  | sub _ => exact execSub_canon h e
  | addx _ => exact execAddx_canon h e
  | mul _ => exact execMul_canon h e
  | mulhi _ => exact execMulhi_canon h e
  | mad _ => exact execMad_canon h e
  | madw _ => exact execMadw_canon h e
  | min _ => exact execMin_canon h e
  | max _ => exact execMax_canon h e
  | abs _ => exact execAbs_canon h e
  | lea _ => exact execLea_canon h e
  | icmp _ => exact execIcmp_canon h e
  | sel _ => exact execSel_canon h e
  | and _ => exact execAnd_canon h e
  | or _ => exact execOr_canon h e
  | xor _ => exact execXor_canon h e
  | andn _ => exact execAndn_canon h e
  | lut3 _ => exact execLut3_canon h e
  | shl _ => exact execShl_canon h e
  | shr _ => exact execShr_canon h e
  | sar _ => exact execSar_canon h e
  | shf _ => exact execShf_canon h e
  | bfe _ => exact execBfe_canon h e
  | bfi _ => exact execBfi_canon h e
  | popc _ => exact execPopc_canon h e
  | clz _ => exact execClz_canon h e
  | brev _ => exact execBrev_canon h e
  | fadd _ => exact execFadd_canon h e
  | fsub _ => exact execFsub_canon h e
  | fmul _ => exact execFmul_canon h e
  | ffma _ => exact execFfma_canon h e
  | fmin _ => exact execFmin_canon h e
  | fmax _ => exact execFmax_canon h e
  | fcmp _ => exact execFcmp_canon h e
  | frnd _ => exact execFrnd_canon h e
  | fclass _ => exact execFclass_canon h e
  | fscale _ => exact execFscale_canon h e
  | cvt _ => exact execCvt_canon h e
  | pack2 _ => exact execPack2_canon h e
  | pack4 _ => exact execPack4_canon h e
  | dot4 _ => exact execDot4_canon h e
  | dot8 _ => exact execDot8_canon h e
  | dotf4 _ => exact execDotf4_canon h e
  | dotf8 _ => exact execDotf8_canon h e
  | rcp _ => exact execRcp_canon h e
  | rsq _ => exact execRsq_canon h e
  | sqrt _ => exact execSqrt_canon h e
  | exp2 _ => exact execExp2_canon h e
  | log2 _ => exact execLog2_canon h e
  | sin _ => exact execSin_canon h e
  | cos _ => exact execCos_canon h e
  | tanh _ => exact execTanh_canon h e
  | sigm _ => exact execSigm_canon h e
  | mxscale _ => exact execMxscale_canon h e
  | mov _ => exact execMov_canon h e
  | movk _ => exact execMovk_canon h e
  | shfl _ => exact execShfl_canon h e
  | vote _ => exact execVote_canon h e
  | redsq _ => exact execRedsq_canon h e
  | scansq _ => exact execScansq_canon h e
  | elect _ => exact execElect_canon h e
  | rdsp _ => exact execRdsp_canon h e
  | emget _ => exact execEmget_canon h e
  | emset _ => exact execEmset_canon h e
  | pget _ => exact execPget_canon h e
  | pset _ => exact execPset_canon h e
  | hput _ => exact execHput_canon h e
  | hacc _ => exact execHacc_canon h e
  | hstat _ => exact execHstat_canon h e
  | hget _ => exact execHget_canon h e
  | ld _ => exact execLd_canon h e
  | st _ => exact execSt_canon h e
  | ldu _ => exact execLdu_canon h e
  | prf _ => exact execPrf_canon h e
  | ldcf _ => exact execLdcf_canon h e
  | ldc _ => exact execLdc_canon h e
  | atom _ => exact execAtom_canon h e
  | cas _ => exact execCas_canon h e
  | cas2 _ => exact execCas2_canon h e
  | fence _ => exact execFence_canon h e
  | pfence _ => exact execPfence_canon h e
  | loc _ => exact execLoc_canon h e
  | lds _ => exact execLds_canon h e
  | sts _ => exact execSts_canon h e
  | stsArm _ => exact execStsArm_canon h e
  | atoms _ => exact execAtoms_canon h e
  | ldsc _ => exact execLdsc_canon h e
  | lsarm _ => exact execLsArm_canon h e
  | lsstat _ => exact execLsstat_canon h e
  | cpy _ => exact execCpy_canon h e
  | cpys _ => exact execCpys_canon h e
  | cred _ => exact execCred_canon h e
  | mma _ => exact execMma_canon h e
  | mml _ => exact execMml_canon h e
  | mmz _ => exact execMmz_canon h e
  | mmld _ => exact execMmld_canon h e
  | mmst _ => exact execMmst_canon h e
  | mmrd _ => exact execMmrd_canon h e
  | mmwr _ => exact execMmwr_canon h e
  | scan _ => exact execScan_canon h e
  | cset _ => exact execCset_canon h e
  | csetId _ => exact execCsetId_canon h e
  | cget _ => exact execCget_canon h e
  | tstat _ => exact execTstat_canon h e
  | tiset _ => exact execTiset_canon h e
  | tiget _ => exact execTiget_canon h e
  | pfxh _ => exact execPfxh_canon h e
  | pfxhClr _ => exact execPfxhClr_canon h e
  | bra _ => exact execBra_canon h e
  | bru _ => exact execBru_canon h e
  | jmp _ => exact execJmp_canon h e
  | call _ => exact execCall_canon h e
  | ret _ => exact execRet_canon h e
  | rejoin _ => exact execRejoin_canon h e
  | rejoinS _ => exact execRejoinS_canon h e
  | exit _ => exact execExit_canon h e
  | yield _ => exact execYield_canon h e
  | bar _ => exact execBar_canon h e
  | barar _ => exact execBarar_canon h e
  | barwt _ => exact execBarwt_canon h e
  | nap _ => exact execNap_canon h e
  | launch _ => exact execLaunch_canon h e
  | qpush _ => exact execQpush_canon h e
  | qpushTry _ => exact execQpushTry_canon h e
  | qpop _ => exact execQpop_canon h e
  | qpopTry _ => exact execQpopTry_canon h e
  | tmig _ => exact execTmig_canon h e
  | csrr _ => exact execCsrr_canon h e
  | csrw _ => exact execCsrw_canon h e
  | trap _ => exact execTrap_canon h e
  | brk _ => exact execBrk_canon h e
  | tretRetry _ => exact execTretRetry_canon h e
  | tretSkip _ => exact execTretSkip_canon h e
  | nop _ => exact execNop_canon h e
  | rdclk _ => exact execRdclk_canon h e
  | rand _ => exact execRand_canon h e
  | spineAdd _ _ _ _ => exact execSpineAdd_canon h e
  | spineSub _ _ _ _ => exact execSpineSub_canon h e
  | spineAnd _ _ _ _ => exact execSpineAnd_canon h e
  | spineOr _ _ _ _ => exact execSpineOr_canon h e
  | spineXor _ _ _ _ => exact execSpineXor_canon h e
  | spineAndn _ _ _ _ => exact execSpineAndn_canon h e
  | spineShl _ _ _ _ => exact execSpineShl_canon h e
  | spineShr _ _ _ _ => exact execSpineShr_canon h e
  | spineSar _ _ _ _ => exact execSpineSar_canon h e
  | spineMul _ _ _ _ => exact execSpineMul_canon h e
  | spineMulh _ _ _ _ => exact execSpineMulh_canon h e
  | spineMulhn _ _ _ _ => exact execSpineMulhn_canon h e
  | spineDiv _ _ _ _ => exact execSpineDiv_canon h e
  | spineDivn _ _ _ _ => exact execSpineDivn_canon h e
  | spineRem _ _ _ _ => exact execSpineRem_canon h e
  | spineRemn _ _ _ _ => exact execSpineRemn_canon h e
  | spineMin _ _ _ _ => exact execSpineMin_canon h e
  | spineMax _ _ _ _ => exact execSpineMax_canon h e
  | spineMinn _ _ _ _ => exact execSpineMinn_canon h e
  | spineMaxn _ _ _ _ => exact execSpineMaxn_canon h e
  | spineSlt _ _ _ _ => exact execSpineSlt_canon h e
  | spineSltn _ _ _ _ => exact execSpineSltn_canon h e
  | spineClz _ _ _ => exact execSpineClz_canon h e
  | spineCtz _ _ _ => exact execSpineCtz_canon h e
  | spinePopc _ _ _ => exact execSpinePopc_canon h e
  | spineBrev _ _ _ => exact execSpineBrev_canon h e
  | addi _ _ _ => exact execAddi_canon h e
  | andi _ _ _ => exact execAndi_canon h e
  | ori _ _ _ => exact execOri_canon h e
  | xori _ _ _ => exact execXori_canon h e
  | shli _ _ _ => exact execShli_canon h e
  | shri _ _ _ => exact execShri_canon h e
  | sari _ _ _ => exact execSari_canon h e
  | slti _ _ _ => exact execSlti_canon h e
  | sltni _ _ _ => exact execSltni_canon h e
  | movu _ _ => exact execMovu_canon h e
  | addpc _ _ => exact execAddpc_canon h e
  | spineFadd _ _ _ _ => exact execSpineFadd_canon h e
  | spineFsub _ _ _ _ => exact execSpineFsub_canon h e
  | spineFmul _ _ _ _ => exact execSpineFmul_canon h e
  | spineFdiv _ _ _ _ => exact execSpineFdiv_canon h e
  | spineFsqrt _ _ _ => exact execSpineFsqrt_canon h e
  | spineFmin _ _ _ _ => exact execSpineFmin_canon h e
  | spineFmax _ _ _ _ => exact execSpineFmax_canon h e
  | spineFeq _ _ _ _ => exact execSpineFeq_canon h e
  | spineFlt _ _ _ _ => exact execSpineFlt_canon h e
  | spineFle _ _ _ _ => exact execSpineFle_canon h e
  | spineFcvt _ _ _ => exact execSpineFcvt_canon h e
  | spineFfma _ _ _ _ => exact execSpineFfma_canon h e
  | spineFfmaS _ _ _ _ => exact execSpineFfmaS_canon h e
  | spineFfms _ _ _ _ => exact execSpineFfms_canon h e
  | spineFfmsS _ _ _ _ => exact execSpineFfmsS_canon h e
  | spineFnfma _ _ _ _ => exact execSpineFnfma_canon h e
  | spineFnfmaS _ _ _ _ => exact execSpineFnfmaS_canon h e
  | spineFnfms _ _ _ _ => exact execSpineFnfms_canon h e
  | spineFnfmsS _ _ _ _ => exact execSpineFnfmsS_canon h e
  | spineLd _ _ _ _ _ => exact execSpineLd_canon h e
  | spineSt _ _ _ _ => exact execSpineSt_canon h e
  | amoSwap _ _ _ _ _ => exact execAmoSwap_canon h e
  | amoAdd _ _ _ _ _ => exact execAmoAdd_canon h e
  | amoAnd _ _ _ _ _ => exact execAmoAnd_canon h e
  | amoOr _ _ _ _ _ => exact execAmoOr_canon h e
  | amoXor _ _ _ _ _ => exact execAmoXor_canon h e
  | amoMin _ _ _ _ _ => exact execAmoMin_canon h e
  | amoMax _ _ _ _ _ => exact execAmoMax_canon h e
  | amoMinn _ _ _ _ _ => exact execAmoMinn_canon h e
  | amoMaxn _ _ _ _ _ => exact execAmoMaxn_canon h e
  | spineCas _ _ _ _ _ => exact execSpineCas_canon h e
  | spineCas2 _ _ _ _ => exact execSpineCas2_canon h e
  | lda _ o _ _ => exact execLda_canon (z2 := o) h e
  | stl _ _ _ _ => exact execStl_canon h e
  | beq _ _ _ => exact execBeq_canon h e
  | bne _ _ _ => exact execBne_canon h e
  | blt _ _ _ => exact execBlt_canon h e
  | bge _ _ _ => exact execBge_canon h e
  | bltn _ _ _ => exact execBltn_canon h e
  | bgen _ _ _ => exact execBgen_canon h e
  | jl _ _ => exact execJl_canon h e
  | jlr _ _ _ => exact execJlr_canon h e
  | spineFence _ o => exact execSpineFence_canon (z2 := o) h e
  | spinePfence => exact execSpinePfence_canon h e
  | spineHput _ _ _ => exact execSpineHput_canon h e
  | spineHget _ _ => exact execSpineHget_canon h e
  | hpeek _ _ => exact execHpeek_canon h e
  | spineHacc _ _ _ => exact execSpineHacc_canon h e
  | hcfg _ _ => exact execHcfg_canon h e
  | spineCsrr _ _ => exact execSpineCsrr_canon h e
  | spineCsrw _ _ => exact execSpineCsrw_canon h e
  | spineExit => exact execSpineExit_canon h e
  | svc _ _ => exact execSvc_canon h e
  | spineBrk c => exact execSpineBrk_canon (z1 := c) h e
  | spineNap _ => exact execSpineNap_canon h e
  | spineRdclk _ => exact execSpineRdclk_canon h e
  | spineRand _ => exact execSpineRand_canon h e
  | spineLoc _ _ => exact execSpineLoc_canon h e
  | spineLaunch _ _ => exact execSpineLaunch_canon h e
  | spineCpy _ _ => exact execSpineCpy_canon h e
  | spineQpush _ _ => exact execSpineQpush_canon h e
  | spineQpushTry _ _ _ => exact execSpineQpushTry_canon h e
  | spineQpop _ _ => exact execSpineQpop_canon h e
  | spineQpopTry _ _ _ => exact execSpineQpopTry_canon h e
  | spineTiset _ _ => exact execSpineTiset_canon h e
  | powerOnReset => exact execPowerOnReset_canon h e
  | orderlyHostReset => exact execOrderlyHostReset_canon h e
  | hotReset => exact execHotReset_canon h e
  | vfFunctionLevelReset => exact execVfFunctionLevelReset_canon h e
  | thermalTrip => exact execThermalTrip_canon h e
  | throttle => exact execThrottle_canon h e
  | boost => exact execBoost_canon h e
  | wipeComplete => exact execWipeComplete_canon h e
  | pcieConfigurationRequest => exact execPcieConfigurationRequest_canon h e
  | firmwareUpdate => exact execFirmwareUpdate_canon h e
  | vendorProvisioning => exact execVendorProvisioning_canon h e
  | ownerDebug => exact execOwnerDebug_canon h e
  | ownerReturnToSummer => exact execOwnerReturnToSummer_canon h e
  | decommission => exact execDecommission_canon h e
  | correctedError => exact execCorrectedError_canon h e
  | uncorrectableError => exact execUncorrectableError_canon h e
  | cacheSoftError => exact execCacheSoftError_canon h e
  | cxlExtentAdd => exact execCxlExtentAdd_canon h e
  | cxlExtentRelease => exact execCxlExtentRelease_canon h e
  | cxlLinkLoss => exact execCxlLinkLoss_canon h e
  | writeCombiningDrainTimeout => exact execWriteCombiningDrainTimeout_canon h e
  | snoopRequest => exact execSnoopRequest_canon h e
  | announcementAccept => exact execAnnouncementAccept_canon h e
  | announcementDelivery => exact execAnnouncementDelivery_canon h e
  | readMissFill => exact execReadMissFill_canon h e
  | ownershipGrant => exact execOwnershipGrant_canon h e
  | writeBack => exact execWriteBack_canon h e
  | directoryRecall => exact execDirectoryRecall_canon h e
  | directoryEviction => exact execDirectoryEviction_canon h e
  | rdcEviction => exact execRdcEviction_canon h e
  | homeMapWalk => exact execHomeMapWalk_canon h e
  | pageTableWalk => exact execPageTableWalk_canon h e
  | homeRequest => exact execHomeRequest_canon h e
  | staleResponse => exact execStaleResponse_canon h e
  | faultRecordPost => exact execFaultRecordPost_canon h e
  | hold => exact execHold_canon h e
  | release => exact execRelease_canon h e
  | flushasid => exact execFlushasid_canon h e
  | movehold => exact execMovehold_canon h e
  | movedone => exact execMovedone_canon h e
  | hminv => exact execHminv_canon h e
  | homeCommandDone => exact execHomeCommandDone_canon h e
  | freplayReplay => exact execFreplayReplay_canon h e
  | freplayUnresolvable => exact execFreplayUnresolvable_canon h e
  | registerWrite => exact execRegisterWrite_canon h e
  | svcerrRead => exact execSvcerrRead_canon h e
  | klstatRead => exact execKlstatRead_canon h e
  | pcieHostRead => exact execPcieHostRead_canon h e
  | pcieHostWrite => exact execPcieHostWrite_canon h e
  | pcieAtomicop => exact execPcieAtomicop_canon h e
  | klHostRead => exact execKlHostRead_canon h e
  | klHostWrite => exact execKlHostWrite_canon h e
  | klHostAtomic => exact execKlHostAtomic_canon h e
  | hostRecallResponse => exact execHostRecallResponse_canon h e
  | klLinkUp => exact execKlLinkUp_canon h e
  | klLinkDown => exact execKlLinkDown_canon h e
  | notify => exact execNotify_canon h e
  | notifyTakeEffect => exact execNotifyTakeEffect_canon h e
  | atsInvalidation => exact execAtsInvalidation_canon h e
  | hostRefusedTranslation => exact execHostRefusedTranslation_canon h e
  | pageRequestResponse => exact execPageRequestResponse_canon h e
  | remoteHomeResponse => exact execRemoteHomeResponse_canon h e
  | peerRequest => exact execPeerRequest_canon h e
  | vplTimeout => exact execVplTimeout_canon h e
  | vplPortDown => exact execVplPortDown_canon h e
  | vplLinkUp => exact execVplLinkUp_canon h e
  | codecRequestAccept => exact execCodecRequestAccept_canon h e
  | pageCompression => exact execPageCompression_canon h e
  | compressedPageRead => exact execCompressedPageRead_canon h e
  | ecbDecode => exact execEcbDecode_canon h e
  | mxAliasRead => exact execMxAliasRead_canon h e
  | mxAliasWrite => exact execMxAliasWrite_canon h e
  | pfenceComplete => exact execPfenceComplete_canon h e
  | mgmttailWrite => exact execMgmttailWrite_canon h e
  | mgmtrheadWrite => exact execMgmtrheadWrite_canon h e
  | svpwdtWrite => exact execSvpwdtWrite_canon h e
  | launchCommand => exact execLaunchCommand_canon h e
  | ctxnew => exact execCtxnew_canon h e
  | ctxfree => exact execCtxfree_canon h e
  | place => exact execPlace_canon h e
  | pwrlimit => exact execPwrlimit_canon h e
  | attest => exact execAttest_canon h e
  | heatscan => exact execHeatscan_canon h e
  | record => exact execRecord_canon h e
  | ctxcfgQueues => exact execCtxcfgQueues_canon h e
  | ctxcfgPeers => exact execCtxcfgPeers_canon h e
  | ctxcfgSvqmap => exact execCtxcfgSvqmap_canon h e
  | deviceQueuePush => exact execDeviceQueuePush_canon h e
  | queueCommit => exact execQueueCommit_canon h e
  | svpWatchdogExpiry => exact execSvpWatchdogExpiry_canon h e
  | svpStateError => exact execSvpStateError_canon h e
  | rcvLockstepMismatch => exact execRcvLockstepMismatch_canon h e
  | recovery => exact execRecovery_canon h e
  | recoveryRestart => exact execRecoveryRestart_canon h e
  | launchTake => exact execLaunchTake_canon h e
  | teamPlace => exact execTeamPlace_canon h e
  | teamRetire => exact execTeamRetire_canon h e
  | issueSlotSelect => exact execIssueSlotSelect_canon h e
  | sliceExpiry => exact execSliceExpiry_canon h e
  | dugoutSwap => exact execDugoutSwap_canon h e
  | shadowFillComplete => exact execShadowFillComplete_canon h e
  | shadowDrainComplete => exact execShadowDrainComplete_canon h e
  | matrixPassGrant => exact execMatrixPassGrant_canon h e
  | forwardProgressExpiry => exact execForwardProgressExpiry_canon h e
  | registerGrowExpiry => exact execRegisterGrowExpiry_canon h e
  | teamSpillComplete => exact execTeamSpillComplete_canon h e
  | migrationComplete => exact execMigrationComplete_canon h e
  | dieFailure => exact execDieFailure_canon h e
  | teamLost => exact execTeamLost_canon h e
  | resultLanding => exact execResultLanding_canon h e
  | threadEjection => exact execThreadEjection_canon h e
  | formerGroupTimeout => exact execFormerGroupTimeout_canon h e
  | squadForm => exact execSquadForm_canon h e
  | matrixStepComplete => exact execMatrixStepComplete_canon h e
  | transferPortComplete => exact execTransferPortComplete_canon h e
  | engineHang => exact execEngineHang_canon h e
  | engineReset => exact execEngineReset_canon h e
  | trapEntry => exact execTrapEntry_canon h e
  | deferredTrapDelivery => exact execDeferredTrapDelivery_canon h e
  | copyComplete => exact execCopyComplete_canon h e
  | credArrival => exact execCredArrival_canon h e
  | credDeadline => exact execCredDeadline_canon h e
  | credLostTimeout => exact execCredLostTimeout_canon h e
  | napTimeout => exact execNapTimeout_canon h e
  | hostSnoop => exact execHostSnoop_canon h e
  | cxlLinkUp => exact execCxlLinkUp_canon h e

/-! ### Run -/

theorem runWord_canon {s : State} {id q} {t} (h : Canonical s) (e : runWord s id q = .next t) :
    Canonical t := by
  unfold runWord at e
  grind -lia -linarith -ring -ac -order [takeTrap_canon, fetchWord_canon, exec_canon, modSquad_canon,
    preciseTrap_canon, fetchFailed_canon, Canonical_mk, Canonical.wf_mem, Canonical.wf_durable]

theorem runSquad_canon {s : State} {id} {t} (h : Canonical s) (e : runSquad s id = .next t) :
    Canonical t := by
  unfold runSquad at e
  grind -lia -linarith -ring -ac -order [settleExit_canon, runWord_canon, deliverTrap_canon, Canonical_mk,
    Canonical.wf_mem, Canonical.wf_durable]

theorem spineFetchFailed_canon {s0 : State} {s : State} {t sp f} (h : Canonical s0) (h1 : Canonical s) :
    Canonical (spineFetchFailed s0 s t sp f) := by
  unfold spineFetchFailed
  grind -lia -linarith -ring -ac -order [spineFault_canon, spineWait_canon, spineTrap_canon, sendRemote_canon,
    Canonical_mk, Canonical.wf_mem, Canonical.wf_durable]

theorem spineFetch_canon {s : State} {sp} (h : Canonical s) :
    Canonical (spineFetch s sp).1 := by
  unfold spineFetch
  grind -lia -linarith -ring -ac -order [fetchCode_canon, Canonical_mk, Canonical.wf_mem, Canonical.wf_durable]

theorem runSpineWord_canon {s u : State} {t sp} (h : Canonical s) (e : runSpineWord s t sp = .next u) : Canonical u :=
  by
  unfold runSpineWord at e
  grind -lia -linarith -ring -ac -order [spineTrap_canon, exec_canon, spineFetchFailed_canon, modSpine_canon,
    spineFetch_canon]

theorem runSpine_canon {s u : State} {t} (h : Canonical s) (e : runSpine s t = .next u) : Canonical u := by
  unfold runSpine at e
  grind -lia -linarith -ring -ac -order [runSpineWord_canon]

theorem runAgent_canon {s : State} {a} {t} (h : Canonical s) (e : runAgent s a = .next t) :
    Canonical t := by
  unfold runAgent at e
  grind -lia -linarith -ring -ac -order [runSpine_canon, runSquad_canon, Canonical_mk, Canonical.wf_mem,
    Canonical.wf_durable]

theorem runSvp_canon {s : State} {q w} {t} (h : Canonical s) (e : runSvp s q w = .next t) :
    Canonical t := by
  unfold runSvp at e
  grind -lia -linarith -ring -ac -order [exec_canon, svpSleep_canon, Canonical_mk, Canonical.wf_mem,
    Canonical.wf_durable]

theorem wakeSvps_canon {s : State} (h : Canonical s) :
    Canonical (wakeSvps s) := by
  unfold wakeSvps
  refine Canonical_foldl (fun s x h => ?_) _ h
  grind -lia -linarith -ring -ac -order [svcWake_canon, Canonical_mk, Canonical.wf_mem, Canonical.wf_durable]

theorem tryWord_canon {s : State} {a} {t} (h : Canonical s) (e : tryWord s a = some t) :
    Canonical t := by
  have ha : Canonical { s with turn := a } := Canonical_of_eq h rfl rfl
  have out : ∀ o : Outcome, (∀ u, o = .next u → Canonical u) →
      (match o with | .next t => some t | _ => none) = some t → Canonical t := by
    intro o ho e
    split at e
    · cases e
      exact ho _ rfl
    · cases e
  unfold tryWord at e
  cases a with
  | none => cases e
  | squad id =>
    obtain ⟨q, -, e⟩ := Option.bind_eq_some_iff.mp e
    exact out _ (fun _ e => runWord_canon ha e) e
  | spine k =>
    obtain ⟨sp, -, e⟩ := Option.bind_eq_some_iff.mp e
    exact out _ (fun _ e => runSpineWord_canon ha e) e

theorem keepAsked_canon {s : State} {t : State} (h : Canonical s) (h1 : Canonical t) :
    Canonical (keepAsked s t) :=
  h

theorem retrySquad_canon {s : State} {x} (h : Canonical s) :
    Canonical (retrySquad s x) := by
  unfold retrySquad
  grind -lia -linarith -ring -ac -order [keepAsked_canon, tryWord_canon, modSquad_canon, Canonical_mk,
    Canonical.wf_mem, Canonical.wf_durable]

theorem retrySpine_canon {s : State} {x} (h : Canonical s) :
    Canonical (retrySpine s x) := by
  unfold retrySpine
  grind -lia -linarith -ring -ac -order [keepAsked_canon, modSpine_canon, tryWord_canon, Canonical_mk,
    Canonical.wf_mem, Canonical.wf_durable]

theorem retryHeld_canon {s : State} (h : Canonical s) :
    Canonical (retryHeld s) := by
  unfold retryHeld
  exact Canonical_foldl (fun _ _ h => retrySpine_canon h) _ (Canonical_foldl (fun _ _ h => retrySquad_canon h) _ h)

theorem syncHeader_canon {s0 : State} {s : State} {x} (h : Canonical s0) (h1 : Canonical s) :
    Canonical (syncHeader s0 s x) := by
  unfold syncHeader
  grind -lia -linarith -ring -ac -order [storeRange_canon, modTeam_canon, keepSaid_canon, Canonical_mk,
    Canonical.wf_mem, Canonical.wf_durable]

theorem syncHeaders_canon {s0 : State} {s : State} (h : Canonical s0) (h1 : Canonical s) :
    Canonical (syncHeaders s0 s) := by
  unfold syncHeaders
  exact Canonical_foldl (fun _ _ h2 => syncHeader_canon h h2) _ h1

theorem dropGone_canon {s : State} (h : Canonical s) :
    Canonical (dropGone s) := by
  unfold dropGone
  grind -lia -linarith -ring -ac -order [Canonical_mk, Canonical.wf_mem, Canonical.wf_durable]

theorem snapCreds_canon {s : State} (h : Canonical s) :
    Canonical (snapCreds s) :=
  h

theorem dropHeldAccs_canon {s : State} (h : Canonical s) :
    Canonical (dropHeldAccs s) :=
  h

theorem settle_canon {s0 : State} {s : State} (h : Canonical s0) (h1 : Canonical s) :
    Canonical (settle s0 s) := by
  unfold settle
  grind -lia -linarith -ring -ac -order [syncShadows_canon, dropGone_canon, snapCreds_canon, syncHeaders_canon,
    msixFlush_canon, dropHeldAccs_canon, settleMerged_canon, settleClosing_canon, Canonical_mk, Canonical.wf_mem,
    Canonical.wf_durable]

theorem tick_canon {s0 : State} {s : State} (h : Canonical s0) (h1 : Canonical s) :
    Canonical (tick s0 s) := by
  unfold tick
  grind -lia -linarith -ring -ac -order [retryHeld_canon, settle_canon, wakeSvps_canon, Canonical_mk,
    Canonical.wf_mem, Canonical.wf_durable]

theorem tickOutcome_canon {s t : State} {o} (h : Canonical s) (ho : ∀ u, o = .next u → Canonical u)
    (e : tickOutcome s o = .next t) : Canonical t := by
  unfold tickOutcome at e
  split at e
  · cases e
    exact tick_canon h (ho _ rfl)
  · exact ho _ e

/-! ### Step -/

theorem stepMove_canon {s : State} {t} (h : Canonical s) (e : stepMove s = .next t) :
    Canonical t := by
  unfold stepMove at e
  grind -lia -linarith -ring -ac -order [pcieLink_canon, readMsix_canon, readRegister_canon, resizeBar2_canon,
    msixEntry_canon, runAgent_canon, exec_canon, runSvp_canon, Canonical_mk, Canonical.wf_mem, Canonical.wf_durable]

theorem step_canon {s : State} {t} (h : Canonical s) (e : step s = .next t) :
    Canonical t := by
  have ha : ∀ a, Canonical { s with arg := a } := fun _ => Canonical_of_eq h rfl rfl
  unfold step at e
  split at e
  · refine tickOutcome_canon h (fun _ e => ?_) e
    exact exec_canon (ha _) e
  · refine tickOutcome_canon h (fun _ e => ?_) e
    exact stepMove_canon h e

/-- Settles O52: every operation that a step is made of keeps the canonical form (`step_canon`). -/
theorem memoryStaysCanonical : Obligations.MemoryStaysCanonical := by
  unfold Obligations.MemoryStaysCanonical
  exact fun s t hm hd e => step_canon ⟨hm, hd⟩ e

end Sys2Proof.MemoryForm
